-- ==== Sys2Proof/Word.lean ====
section
/-! DEFINITION. The word types of the SD8 and the sparse table that holds every numbered thing. -/

namespace Sys2Proof

/-- A 64-bit scalar register, CSR or address (R45, R71). -/
abbrev Word := BitVec 64
/-- A 32-bit lane, instruction word or counter (R42, R88, R196). -/
abbrev W32 := BitVec 32
abbrev W16 := BitVec 16
abbrev Byte := BitVec 8

/-- Things by number, where most hold what they hold at reset: a list of the numbers that were written. -/
abbrev Tbl (α : Type) := List (Nat × α)

/-- What number `k` holds; `dflt` where nothing was written. -/
def Tbl.get {α : Type} (t : Tbl α) (dflt : α) (k : Nat) : α :=
  match t with
  | [] => dflt
  | (j, v) :: rest => if j = k then v else Tbl.get rest dflt k

/-- Write number `k`: the entry is replaced where it stands, or put in front of the first higher number. -/
def Tbl.set {α : Type} (t : Tbl α) (k : Nat) (v : α) : Tbl α :=
  match t with
  | [] => [(k, v)]
  | (j, u) :: rest =>
    if j = k then (k, v) :: rest
    else if k < j then (k, v) :: (j, u) :: rest
    else (j, u) :: Tbl.set rest k v

/-- Forget number `k`. -/
def Tbl.erase {α : Type} (t : Tbl α) (k : Nat) : Tbl α := t.filter (fun p => p.1 != k)

end Sys2Proof
end

