-- ==== Sys2Proof/Syntax.lean ====
section
/-! DEFINITION. The syntax of the SD8: one constructor for each row of the table of operations and events.
The rows with a word carry the fields of their form (R44, R45); the device rows carry what comes from outside the
machine with the event. -/

namespace Sys2Proof

/-- A scalar register field: codes 0-7 name g0-g7, codes 8-31 name w0-w23 (R45). -/
abbrev Reg := BitVec 5
/-- A row field: tile x 16 + row (R45). -/
abbrev RowCode := BitVec 7
/-- A mask field, m0-m7 (R45). -/
abbrev MaskCode := BitVec 3
/-- A tile field, t0-t7 (R45). -/
abbrev TileCode := BitVec 3
/-- A CSR number (R55). -/
abbrev CsrNum := BitVec 12

/-- Scope codes 0-5 (R45, R157). -/
inductive Scope where
  | thread | core | cluster | die | device | system
  deriving DecidableEq, Repr

/-- Order codes of an atomic (Table 4-3). -/
inductive AOrd where
  | relaxed | acquire | release | acqRel
  deriving DecidableEq, Repr

/-- Access sizes of form M (R44). -/
inductive Size where
  | b | h | w | d
  deriving DecidableEq, Repr

/-- Sizes of an ordered access or atomic: fn[6] (R138, R140). -/
inductive WSize where
  | w | d
  deriving DecidableEq, Repr

/-- Element sizes of a gather or scatter (R143). -/
inductive Elem where
  | b | h | w
  deriving DecidableEq, Repr

/-- The b operand of a V-form word: a row, or a scalar broadcast to all lanes when s = 1 (R52). -/
inductive VSrc where
  | row (r : RowCode)
  | scalar (r : Reg)
  deriving DecidableEq, Repr

/-- Conditions of VCMPF (R96). -/
inductive FCond where
  | eq | ne | lt | le | gt | ge | un | ord
  deriving DecidableEq, Repr

/-- Conditions of VCMPI (R96). -/
inductive ICond where
  | eq | ne | lt | ge | ltu | geu
  deriving DecidableEq, Repr

/-- Functions of VCVT (Table 6-6). -/
inductive CvtFn where
  | f32i32 | i32f32 | u32f32 | f32u32 | bf16lo | bf16hi | f16lo | f16hi | f8a | f8b
  deriving DecidableEq, Repr

/-- Operations of VRED (R104). -/
inductive RedOp where
  | fsum | fmin | fmax | isum
  deriving DecidableEq, Repr

/-- The k codes of form C (R79). -/
inductive CsrOp where
  | r | w | s | c | wi
  deriving DecidableEq, Repr

/-- A CSR instruction less its CSR number: k, d, and the a field, a register or (CSRWI) a 5-bit immediate (R51, R79). -/
structure CsrForm where
  op : CsrOp
  d  : Reg
  a  : BitVec 5
  deriving DecidableEq, Repr

/-- A Typoro command's header and the connection it came on (Table 20-3), less the opcode: sequence number, context, payload
length, the REPLY bit, the status field, and the 138 reserved bits in the table's order. -/
structure CmdHdr where
  conn : Nat
  seq  : W32
  ctx  : Nat
  length   : Nat
  isReply  : Bool
  status   : W32
  reserved : BitVec 138
  deriving DecidableEq, Repr

/-- Page kinds of a leaf (Table 10-2). -/
inductive PageKind where
  | hbm | weight | compressed | remote
  deriving DecidableEq, Repr

/-- Queue kinds (R238). -/
inductive QueueKind where
  | free | card | node | encoder
  deriving DecidableEq, Repr

/-- A harness flit by the fields of Table 20-1. -/
structure Flit where
  type    : BitVec 8
  hops    : BitVec 4
  dst     : BitVec 8
  src     : BitVec 8
  seq     : BitVec 12
  ackseq  : BitVec 12
  credits : BitVec 12
  payload : List Byte
  crc     : W32
  deriving DecidableEq, Repr

/-- What the host asks of a queue creation (R238, R239). -/
structure QueueSpec where
  handle   : Nat
  kind     : QueueKind
  base     : Word
  template : Word
  capacity : Nat
  home     : Nat
  depth    : Nat
  prio     : Nat
  enc      : Nat
  deriving DecidableEq, Repr

/-- What the host asks of a context creation (R254, R255). -/
structure CtxSpec where
  paddock : Nat
  root    : Word
  entry   : Word
  g1      : Word
  wbase   : Word
  wlimit  : Word
  deriving DecidableEq, Repr

/-- What the sensors read in one sample (R338). Power in milliwatts, temperatures in degrees C, voltage in
millivolts. -/
structure Sensors where
  power   : Nat
  dieTemp : List Nat
  coolant : Nat
  volts   : Nat
  deriving DecidableEq, Repr

/-- Kinds of access that one device forwards to a REMOTE page's holder (R178, R141). -/
inductive RemoteKind where
  | read (size : Nat)
  | write (bytes : List Byte)
  | atomic (fn : BitVec 4) (dword : Bool) (operand compare : Word)
  deriving DecidableEq, Repr

/-- A forwarded access: the device that asks, and what it asks (R178, R328). -/
structure RemoteOp where
  dev  : BitVec 8
  what : RemoteKind
  deriving DecidableEq, Repr

/-- Delivery services that a UET packet can ask for (R331). -/
inductive UetService where
  | rod | rud | unreliable | rudIdempotent
  deriving DecidableEq, Repr

/-- A UET packet at a front port: the service it asks for, its connection, the endpoint of the IO die that it is for, its Ethernet frame
(R331, R332). -/
structure UetPacket where
  svc   : UetService
  conn  : Nat
  endpoint : Nat
  frame : List Byte
  deriving DecidableEq, Repr

/-- The instructions and events of the SD8: those that the machine itself brings forth first, then those that only come from
outside. -/
inductive Instr where
  -- events of the engines, the memory and the messages that may come of themselves
  | matOpRetire (core : Nat) | loaderSlotLand (core ring : Nat) | storerSlotWritten (core ring : Nat)
  | copyUnitDone (core : Nat) | streamReadDone (core stream : Nat) | mergeAccept (cluster : Nat)
  | mergeEmit (cluster mctx : Nat) | listEngineOperation (core : Nat) | listArrival (core : Nat)
  | tensorWeightArrival (i : Nat) | cellWeightArrival (i : Nat) | storeBufferDrain (core slot : Nat)
  | cflagsAccrual (cluster : Nat) (bits : BitVec 5) | messageLanding (i : Nat)
  | domainBarrierCompletion (ctx inst : Nat) | pageWalkComplete (die entry : Nat) | faultMessageArrival (i : Nat)
  | mailboxCommand (die : Nat) | dealDecision (die : Nat) | kernelRetirement (ctx : Nat) (kid : W32)
  | queueSwapComplete (die ctx handle : Nat) | encodeFrame (eng : Nat) | illegal (w : W32)
  -- ALU, R71
  | add (d a b : Reg) | sub (d a b : Reg) | and (d a b : Reg) | or (d a b : Reg) | xor (d a b : Reg)
  | sll (d a b : Reg) | srl (d a b : Reg) | sra (d a b : Reg) | slt (d a b : Reg) | sltu (d a b : Reg)
  | seq (d a b : Reg) | min (d a b : Reg) | max (d a b : Reg) | minu (d a b : Reg) | maxu (d a b : Reg)
  | andn (d a b : Reg)
  -- immediates, R72
  | addi (d a : Reg) (imm : BitVec 15) | andi (d a : Reg) (imm : BitVec 15) | ori (d a : Reg) (imm : BitVec 15)
  | xori (d a : Reg) (imm : BitVec 15) | slli (d a : Reg) (sh : BitVec 6) | srli (d a : Reg) (sh : BitVec 6)
  | srai (d a : Reg) (sh : BitVec 6) | slti (d a : Reg) (imm : BitVec 15) | sltiu (d a : Reg) (imm : BitVec 15)
  -- MULDIV, R71
  | mul (d a b : Reg) | mulh (d a b : Reg) | mulhu (d a b : Reg) | div (d a b : Reg) | divu (d a b : Reg)
  | rem (d a b : Reg) | remu (d a b : Reg)
  -- upper immediates, R73
  | lup (d : Reg) (imm : BitVec 20) | aupc (d : Reg) (imm : BitVec 20)
  -- BITS, R71
  | clz (d a : Reg) | ctz (d a : Reg) | popc (d a : Reg) | brev (d a : Reg) | sextb (d a : Reg) | sexth (d a : Reg)
  | sextw (d a : Reg) | zextw (d a : Reg)
  -- scalar floating point, R74
  | fadd (d a b : Reg) | fsub (d a b : Reg) | fmul (d a b : Reg) | fdiv (d a b : Reg) | fmin (d a b : Reg)
  | fmax (d a b : Reg) | feq (d a b : Reg) | flt (d a b : Reg) | fle (d a b : Reg) | fcvtif (d a : Reg)
  | fcvtfi (d a : Reg) | fsqrt (d a : Reg) | fma (d a b : Reg) | fclass (d a : Reg)
  -- branches, R75-R78
  | beq (a b : Reg) (off : BitVec 15) | bne (a b : Reg) (off : BitVec 15) | blt (a b : Reg) (off : BitVec 15)
  | bge (a b : Reg) (off : BitVec 15) | bltu (a b : Reg) (off : BitVec 15) | bgeu (a b : Reg) (off : BitVec 15)
  | bmany (m : MaskCode) (off : BitVec 15) | bmnone (m : MaskCode) (off : BitVec 15)
  | bmall (m : MaskCode) (off : BitVec 15) | jmp (off : BitVec 25) | call (off : BitVec 25) | jr (a : Reg)
  | callr (a : Reg)
  -- memory, R137-R143
  | ld (d a : Reg) (off : BitVec 12) (sz : Size) (sx : Bool) | st (d a : Reg) (off : BitVec 12) (sz : Size)
  | lda (d a : Reg) (sc : Scope) (sz : WSize) | str (a b : Reg) (sc : Scope) (sz : WSize)
  | aadd (d a b : Reg) (sc : Scope) (sz : WSize) (o : AOrd) | aand (d a b : Reg) (sc : Scope) (sz : WSize) (o : AOrd)
  | aor (d a b : Reg) (sc : Scope) (sz : WSize) (o : AOrd) | axor (d a b : Reg) (sc : Scope) (sz : WSize) (o : AOrd)
  | amin (d a b : Reg) (sc : Scope) (sz : WSize) (o : AOrd) | amax (d a b : Reg) (sc : Scope) (sz : WSize) (o : AOrd)
  | aminu (d a b : Reg) (sc : Scope) (sz : WSize) (o : AOrd)
  | amaxu (d a b : Reg) (sc : Scope) (sz : WSize) (o : AOrd) | aswp (d a b : Reg) (sc : Scope) (sz : WSize) (o : AOrd)
  | acas (d a b : Reg) (sc : Scope) (sz : WSize) (o : AOrd) | afadd (d a b : Reg) (sc : Scope) (o : AOrd)
  | fence (pred succ : BitVec 8) (sc : Scope) | vld (r : RowCode) (a : Reg) (off : BitVec 12)
  | vst (r : RowCode) (a : Reg) (off : BitVec 12)
  | vldx (m : MaskCode) (d : RowCode) (sz : Elem) (a : Reg) (b : RowCode)
  | vstx (m : MaskCode) (d : RowCode) (sz : Elem) (a : Reg) (b : RowCode)
  -- CSR, R79
  | csrr (d : Reg) (csr : CsrNum) | csrw (d a : Reg) (csr : CsrNum) | csrs (d a : Reg) (csr : CsrNum)
  | csrc (d a : Reg) (csr : CsrNum) | csrwi (d : Reg) (imm : BitVec 5) (csr : CsrNum)
  -- SYS, R81
  | trap (a : Reg) | exit (a : Reg) | chkpt (a : Reg) | ipf (a : Reg)
  -- MSG, R198
  | send (d a b : Reg) | waitc (d : Reg) (c : BitVec 5) (b : Reg) | cntr (d : Reg) (c : BitVec 5)
  | cntadd (d : Reg) (c : BitVec 5) (b : Reg) | rkmap (d a b : Reg) | rkmove (d a b : Reg)
  -- BAR, R208
  | barinit (a b : Reg) | bararr (d a : Reg) | barwait (a b : Reg) | barsync (d a : Reg) | barq (d a : Reg)
  -- THR, R60, R217
  | help (d a b : Reg) | hjoin (d a : Reg) | hitch (d a : Reg) | unhitch (d : Reg) | self (d : Reg)
  -- TASK, R233, R249
  | enq (d a b : Reg) | qres (d a b : Reg) | tlink (d a b : Reg) | launch (d a b : Reg) | kwait (d a : Reg)
  | qpin (d a b : Reg)
  -- PAGE, R186
  | tlbinv (a b : Reg) | freply (a b : Reg) | fbread (d a b : Reg) | fbclr (a : Reg)
  -- LUNGE, R107
  | lunge (len : BitVec 4) (cnt : BitVec 8) (stride : BitVec 7) (fix : BitVec 3)
  -- floating-point rows, R94-R96
  | vadd (m : MaskCode) (d a : RowCode) (b : VSrc) | vsub (m : MaskCode) (d a : RowCode) (b : VSrc)
  | vmul (m : MaskCode) (d a : RowCode) (b : VSrc) | vfma (m : MaskCode) (d a : RowCode) (b : VSrc)
  | vfms (m : MaskCode) (d a : RowCode) (b : VSrc) | vfnma (m : MaskCode) (d a : RowCode) (b : VSrc)
  | vmin (m : MaskCode) (d a : RowCode) (b : VSrc) | vmax (m : MaskCode) (d a : RowCode) (b : VSrc)
  | vabs (m : MaskCode) (d a : RowCode) | vneg (m : MaskCode) (d a : RowCode) | vrcp (m : MaskCode) (d a : RowCode)
  | vrsq (m : MaskCode) (d a : RowCode) | vexp2 (m : MaskCode) (d a : RowCode) | vlog2 (m : MaskCode) (d a : RowCode)
  | vsqrt (m : MaskCode) (d a : RowCode) | vflr (m : MaskCode) (d a : RowCode) | vceil (m : MaskCode) (d a : RowCode)
  | vrndn (m : MaskCode) (d a : RowCode) | vcmpf (m : MaskCode) (cc : FCond) (k : MaskCode) (a : RowCode) (b : VSrc)
  | vcmpi (m : MaskCode) (cc : ICond) (k : MaskCode) (a : RowCode) (b : VSrc)
  -- integer rows, R97
  | viadd (m : MaskCode) (d a : RowCode) (b : VSrc) | visub (m : MaskCode) (d a : RowCode) (b : VSrc)
  | vimul (m : MaskCode) (d a : RowCode) (b : VSrc) | vand (m : MaskCode) (d a : RowCode) (b : VSrc)
  | vor (m : MaskCode) (d a : RowCode) (b : VSrc) | vxor (m : MaskCode) (d a : RowCode) (b : VSrc)
  | vshl (m : MaskCode) (d a : RowCode) (b : VSrc) | vshr (m : MaskCode) (d a : RowCode) (b : VSrc)
  | vshra (m : MaskCode) (d a : RowCode) (b : VSrc) | vimin (m : MaskCode) (d a : RowCode) (b : VSrc)
  | vimax (m : MaskCode) (d a : RowCode) (b : VSrc) | viminu (m : MaskCode) (d a : RowCode) (b : VSrc)
  | vimaxu (m : MaskCode) (d a : RowCode) (b : VSrc)
  -- moves, conversions, reduction, R98-R104
  | vsel (k : MaskCode) (d a : RowCode) (b : VSrc) | vperm (m : MaskCode) (d a : RowCode) (b : VSrc)
  | vcvt (m : MaskCode) (d a : RowCode) (f : CvtFn) | vred (m : MaskCode) (o : RedOp) (d : Reg) (a : RowCode)
  | vext (d : Reg) (a : RowCode) (n : BitVec 4) | vins (d : RowCode) (n : BitVec 4) (b : Reg)
  | vpackBf16 (m : MaskCode) (d a b : RowCode) | vpackF16 (m : MaskCode) (d a b : RowCode)
  | vmov (m : MaskCode) (d : RowCode) (b : VSrc)
  -- MASK, R105
  | mand (d a b : MaskCode) | mor (d a b : MaskCode) | mxor (d a b : MaskCode) | mandn (d a b : MaskCode)
  | mnot (d a : MaskCode) | mmov (d a : MaskCode) | mpopc (d : Reg) (a : MaskCode) | mfirst (d : Reg) (a : MaskCode)
  | mset (d : MaskCode) (a : Reg) | mget (d : Reg) (a : MaskCode)
  -- MAT, R122
  | mma (d : TileCode) (a b : Reg) (ka kb : Bool) | mzero (d : TileCode) | mst (d : TileCode) (a : Reg)
  | mld (d : TileCode) (a : Reg) | mwait (d : TileCode) | mchk (d : TileCode) (a b : Reg) (ka kb : Bool)
  -- RING, R126
  | rinit (d a b : Reg) | rpush (d a b : Reg) | rsub (d a b : Reg) (storer : Bool) | runsub (d a : Reg)
  | rstat (d a : Reg)
  -- COPY, R147
  | cpy (d : Reg) | cwait (d a : Reg) | cstat (d a : Reg)
  -- STRM, R154
  | sopen (d a : Reg) | spop (d a b : Reg) | spush (d a b : Reg)
  -- MRG, R308
  | mgopen (d a b : Reg) | mgpush (d a b : Reg) | mgend (d a : Reg) | mgpop (d a b : Reg) | mgstat (d a b : Reg)
  | mgdrain (d a : Reg)
  -- IL, R277
  | ilopen (d a b : Reg) | ilins (d a b : Reg) | ilsend (d a b : Reg) | ilcut (d a : Reg) | ilcomp (d a b : Reg)
  | ilread (d a b : Reg) | ilclose (d a : Reg) | ilstat (d a : Reg)
  -- HAL, R317
  | hnew (d a : Reg) | hcopy (d a : Reg) | hdrop (a : Reg) | hbind (d a b : Reg) | hwgt (d a : Reg)
  | haddr (d a : Reg) | hmerge (d a b : Reg)
  -- scene forms, R287
  | boxt (k : MaskCode) (d a b : RowCode) | trit (m : MaskCode) (d a b : RowCode)
  | splt (m : MaskCode) (d a b : RowCode) | edge (m : MaskCode) (d a b : RowCode)
  | texl (m : MaskCode) (d a b : RowCode) | texd (m : MaskCode) (d a b : RowCode)
  -- words without fields, R78, R81, R186, R249
  | ret | eret | brk | yield | wfe | trig | replay
  -- CSR instructions on CSRs with a behaviour of their own
  | csrWriteFrm (f : CsrForm) | csrAccessFflags (f : CsrForm) | csrReadCflags (f : CsrForm)
  | csrWriteStatus (f : CsrForm) | csrWriteWindow (f : CsrForm) (limit : Bool) | csrWriteMfmt (f : CsrForm)
  | csrWriteMerr (f : CsrForm) | csrWriteDomain (f : CsrForm) | csrWriteHpmcnt (f : CsrForm) (n : BitVec 3)
  | csrWriteOther (f : CsrForm) (csr : CsrNum)
  -- timers, replies and fills
  | halterHomeReply (core slot : Nat) | waittoExpiry (core slot : Nat) | chkmaxExpiry (core slot : Nat)
  | deadlockDeclaration (ctx : Nat) | instructionCacheFill (cluster : Nat)
  -- harness
  | harnessFlitReceive (port : Nat) (flit : Flit) | harnessNak (port : Nat) (seq : BitVec 12)
  | laneLockLoss (port : Nat) | linkTrainingResult (port lanes : Nat) | trainingRetryTimer (port : Nat)
  -- Typoro commands
  | typoroContextCreate (h : CmdHdr) (c : CtxSpec) | typoroTeardown (h : CmdHdr)
  | typoroPaddockDefine (h : CmdHdr) (sets : List (List Nat))
  | typoroMapMemory (h : CmdHdr) (entries : List (Word × Word))
  | typoroUnmapMemory (h : CmdHdr) (vas : List (Word × Word))
  | typoroCopyToDevice (h : CmdHdr) (va : Word) (bytes : List Byte)
  | typoroCopyToHost (h : CmdHdr) (va : Word) (len : Nat) | typoroLaunch (h : CmdHdr) (card tcb : Word)
  | typoroQueueCreate (h : CmdHdr) (q : QueueSpec) | typoroQueueDestroy (h : CmdHdr) (handle : Nat)
  | typoroQueuePin (h : CmdHdr) (handle : Nat) (pin : Bool) | typoroPreempt (h : CmdHdr)
  | typoroResume (h : CmdHdr) (paddock : Nat) | typoroGroupMove (h : CmdHdr) (w0 w1 : Word)
  | typoroEventRead (h : CmdHdr) (io max : Nat) | typoroWsWindowOpen (h : CmdHdr) | typoroWsWindowClose (h : CmdHdr)
  | typoroLinkConfig (h : CmdHdr) (number : Option (BitVec 8)) (ports : List (Nat × Bool)) (keys : List (Nat × List Byte))
  | typoroRouteSet (h : CmdHdr) (dst : BitVec 8) (port : Option Nat)
  | typoroEncoderSetup (h : CmdHdr) (eng : Nat) (binds : List (Nat × Option Nat))
  | typoroAttestationQuote (h : CmdHdr) (nonce : List Byte) | typoroPatchLoad (h : CmdHdr) (image : List Byte)
  | typoroRepeatedCommand (h : CmdHdr) | typoroBadCommand (h : CmdHdr) (opcode : BitVec 16)
  -- management, power and the rest
  | powerOn (badCores : List Nat) | grcResetN (ms : Nat) (badCores : List Nat) | smbusResetWrite (badCores : List Nat)
  | smbusWriteOther (reg val : Byte) | sensorSample (r : Sensors) | coolantStepTimer | lifetimeRecordWrite | powerLoss
  | voltageDroop (die : Nat) | forwardedAccess (ctx : Nat) (va : Word) (user : Bool) (op : RemoteOp)
  | uetPacket (port : Nat) (packet : UetPacket)
  deriving DecidableEq, Repr

end Sys2Proof
end

