-- ==== Sys2Proof/Machine/Flags.lean ====
section
/-! DEFINITION. Floating-point values, exact arithmetic, rounding and the flags (R21-R29, R33). Every operation is
exact on dyadic numbers and then rounded once. -/

namespace Sys2Proof.Machine

/-- The bits of FFLAGS: NV 16, DZ 8, OF 4, UF 2, NX 1 (Table 3-3). -/
abbrev FFlags := BitVec 5
def flagNV : FFlags := 0x10#5
def flagDZ : FFlags := 0x08#5
def flagOF : FFlags := 0x04#5
def flagUF : FFlags := 0x02#5
def flagNX : FFlags := 0x01#5

/-- Rounding modes of FRM (Table 3-3). -/
inductive RMode where
  | rne | rtz | rdn | rup | rmm
  deriving DecidableEq, Repr

/-- The mode of an FRM code; 5-7 never stand in FRM (R28). -/
def RMode.ofCode (n : Nat) : RMode :=
  match n with
  | 1 => .rtz
  | 2 => .rdn
  | 3 => .rup
  | 4 => .rmm
  | _ => .rne

/-- A floating-point format: fraction bits, exponent bits, bias (Table 3-1). -/
structure Fmt where
  frac : Nat
  exp  : Nat
  bias : Nat
  deriving DecidableEq, Repr

def Fmt.f32 : Fmt := ⟨23, 8, 127⟩
def Fmt.bf16 : Fmt := ⟨7, 8, 127⟩
def Fmt.f16 : Fmt := ⟨10, 5, 15⟩
def Fmt.f8b : Fmt := ⟨2, 5, 15⟩
def Fmt.f8a : Fmt := ⟨3, 4, 7⟩
/-- The set G12 of R33, as the top 20 bits of an F32. -/
def Fmt.g12 : Fmt := ⟨11, 8, 127⟩

/-- A value: a NaN (signalling or quiet), an infinity, or (-1)^neg x m x 2^e. -/
inductive FVal where
  | nan (signalling : Bool)
  | inf (neg : Bool)
  | fin (neg : Bool) (m : Nat) (e : Int)
  deriving DecidableEq, Repr

/-- The value that bits of an IEEE-pattern format denote (R21, R22). -/
def Fmt.unpack (f : Fmt) (x : Nat) : FVal :=
  let neg := x / 2 ^ (f.frac + f.exp) % 2 == 1
  let e := x / 2 ^ f.frac % 2 ^ f.exp
  let m := x % 2 ^ f.frac
  if e = 2 ^ f.exp - 1 then
    if m = 0 then .inf neg else .nan (m < 2 ^ (f.frac - 1))
  else if e = 0 then .fin neg m (1 - f.bias - f.frac)
  else .fin neg (2 ^ f.frac + m) (e - f.bias - f.frac)

def unpack32 (x : W32) : FVal := Fmt.f32.unpack x.toNat

/-- F8A has no infinities and two NaNs, both quiet (R22). -/
def unpackF8A (x : Nat) : FVal :=
  if x % 128 = 127 then .nan false
  else if x / 8 % 16 = 0 then .fin (x / 128 % 2 == 1) (x % 8) (-9)
  else .fin (x / 128 % 2 == 1) (8 + x % 8) (x / 8 % 16 - 10 : Int)

/-- Every F8B NaN is quiet (R22). -/
def unpackF8B (x : Nat) : FVal :=
  match Fmt.f8b.unpack (x % 256) with
  | .nan _ => .nan false
  | v => v

def nan32 : W32 := 0x7FC00000#32
def inf32 : W32 := 0x7F800000#32
def ninf32 : W32 := 0xFF800000#32

/-- Number of significant bits. -/
def bitLen (n : Nat) : Nat := if n = 0 then 0 else Nat.log2 n + 1

/-- Does a kept magnitude go up, given the discarded part below (0), at (1) or above (2) half of the last kept place, and
nonzero or not? -/
def roundsUp (mode : RMode) (neg odd inexact : Bool) (half : Nat) : Bool :=
  match mode with
  | .rne => half == 2 || (half == 1 && odd)
  | .rmm => half == 2 || half == 1
  | .rtz => false
  | .rdn => neg && inexact
  | .rup => !neg && inexact

/-- Round the magnitude m x 2^e (and a little more when `sticky`) to a multiple of 2^q: the multiple, and whether it is
inexact. -/
def roundAt (mode : RMode) (neg : Bool) (m : Nat) (e q : Int) (sticky : Bool) : Nat × Bool :=
  if q ≤ e then
    let kept := m * 2 ^ (e - q).toNat
    (if roundsUp mode neg (kept % 2 == 1) sticky 0 then kept + 1 else kept, sticky)
  else
    let k := (q - e).toNat
    if bitLen m + 1 < k then
      let inexact := m != 0 || sticky
      (if roundsUp mode neg false inexact 0 then 1 else 0, inexact)
    else
      let kept := m / 2 ^ k
      let rest := m % 2 ^ k
      let inexact := rest != 0 || sticky
      let half := if rest < 2 ^ (k - 1) then 0 else if rest = 2 ^ (k - 1) && !sticky then 1 else 2
      (if roundsUp mode neg (kept % 2 == 1) inexact half then kept + 1 else kept, inexact)

/-- Does overflow give an infinity, not the largest finite value (R29)? -/
def overflowsToInf (mode : RMode) (neg : Bool) : Bool :=
  match mode with
  | .rne | .rmm => true
  | .rtz => false
  | .rdn => neg
  | .rup => !neg

/-- Round a magnitude to a format: the bits and the flags OF, UF, NX. Tininess is detected after rounding (R29). -/
def Fmt.round (f : Fmt) (mode : RMode) (neg : Bool) (m : Nat) (e : Int) (sticky : Bool) : Nat × FFlags :=
  let sgn := if neg then 2 ^ (f.frac + f.exp) else 0
  if m = 0 && !sticky then (sgn, 0)
  else
    let top : Int := bitLen m - 1 + e
    let emin : Int := 1 - f.bias
    let q0 : Int := top - f.frac
    let q : Int := if q0 < emin - f.frac then emin - f.frac else q0
    let r := roundAt mode neg m e q sticky
    let free := roundAt mode neg m e q0 sticky
    let tiny := decide (top < emin) && !(decide (top = emin - 1) && free.1 == 2 ^ (f.frac + 1))
    let n := if r.1 = 2 ^ (f.frac + 1) then 2 ^ f.frac else r.1
    let q' : Int := if r.1 = 2 ^ (f.frac + 1) then q + 1 else q
    let field : Int := if n < 2 ^ f.frac then 0 else q' + f.frac + f.bias
    if field ≥ 2 ^ f.exp - 1 then
      (if overflowsToInf mode neg then sgn + (2 ^ f.exp - 1) * 2 ^ f.frac
       else sgn + (2 ^ f.exp - 1) * 2 ^ f.frac - 1, flagOF ||| flagNX)
    else
      (sgn + field.toNat * 2 ^ f.frac + n % 2 ^ f.frac,
       (if r.2 then flagNX else 0) ||| (if tiny && r.2 then flagUF else 0))

/-- Round to F32 (the helper RoundF32, Table 0-3). -/
def round32 (mode : RMode) (neg : Bool) (m : Nat) (e : Int) (sticky : Bool) : W32 × FFlags :=
  let r := Fmt.f32.round mode neg m e sticky
  (BitVec.ofNat 32 r.1, r.2)

/-- A dyadic number n x 2^e. -/
structure Dy where
  n : Int
  e : Int
  deriving DecidableEq, Repr

def Dy.zero : Dy := ⟨0, 0⟩

def Dy.ofParts (neg : Bool) (m : Nat) (e : Int) : Dy := ⟨if neg then -(m : Int) else m, e⟩

def Dy.add (x y : Dy) : Dy :=
  if x.n = 0 then y
  else if y.n = 0 then x
  else if x.e ≤ y.e then ⟨x.n + y.n * 2 ^ (y.e - x.e).toNat, x.e⟩
  else ⟨x.n * 2 ^ (x.e - y.e).toNat + y.n, y.e⟩

def Dy.mul (x y : Dy) : Dy := ⟨x.n * y.n, x.e + y.e⟩

def Dy.neg (x : Dy) : Dy := ⟨-x.n, x.e⟩

def Dy.sub (x y : Dy) : Dy := x.add y.neg

/-- Round an exact dyadic number to F32; `zneg` is the sign of an exact zero. -/
def Dy.round32 (mode : RMode) (x : Dy) (zneg : Bool) : W32 × FFlags :=
  if x.n = 0 then (if zneg then 0x80000000#32 else 0, 0)
  else Machine.round32 mode (x.n < 0) x.n.natAbs x.e false

/-- The sign of an exact zero sum of two terms of signs `a` and `b`, both zeros or not (R27). -/
def zeroSumNeg (mode : RMode) (bothZero a b : Bool) : Bool :=
  if bothZero && a == b then a else mode == .rdn

def FVal.isSig (v : FVal) : Bool :=
  match v with
  | .nan true => true
  | _ => false

def FVal.isNan (v : FVal) : Bool :=
  match v with
  | .nan _ => true
  | _ => false

def sigFlag (vs : List FVal) : FFlags := if vs.any FVal.isSig then flagNV else 0

/-- x + y rounded once (R27, R29). -/
def addVal (mode : RMode) (x y : FVal) : W32 × FFlags :=
  match x, y with
  | .nan _, _ => (nan32, sigFlag [x, y])
  | _, .nan _ => (nan32, sigFlag [x, y])
  | .inf a, .inf b => if a = b then (if a then ninf32 else inf32, 0) else (nan32, flagNV)
  | .inf a, .fin _ _ _ => (if a then ninf32 else inf32, 0)
  | .fin _ _ _, .inf b => (if b then ninf32 else inf32, 0)
  | .fin a m e, .fin b n k =>
    ((Dy.ofParts a m e).add (Dy.ofParts b n k)).round32 mode (zeroSumNeg mode (m == 0 && n == 0) a b)

def FVal.neg (x : FVal) : FVal :=
  match x with
  | .nan s => .nan s
  | .inf s => .inf (!s)
  | .fin s m e => .fin (!s) m e

def FVal.abs (x : FVal) : FVal :=
  match x with
  | .nan s => .nan s
  | .inf _ => .inf false
  | .fin _ m e => .fin false m e

/-- The exact product of two values that are no NaNs; `none` for 0 x infinity (R29). -/
def mulExact (x y : FVal) : Option FVal :=
  match x, y with
  | .inf a, .inf b => some (.inf (a != b))
  | .inf a, .fin b n _ => if n = 0 then none else some (.inf (a != b))
  | .fin a m _, .inf b => if m = 0 then none else some (.inf (a != b))
  | .fin a m e, .fin b n k => some (.fin (a != b) (m * n) (e + k))
  | .nan s, _ => some (.nan s)
  | _, .nan s => some (.nan s)

def roundVal (mode : RMode) (x : FVal) : W32 × FFlags :=
  match x with
  | .nan _ => (nan32, 0)
  | .inf s => (if s then ninf32 else inf32, 0)
  | .fin s m e => if m = 0 then (if s then 0x80000000#32 else 0, 0) else round32 mode s m e false

/-- x times y rounded once. -/
def mulVal (mode : RMode) (x y : FVal) : W32 × FFlags :=
  if x.isNan || y.isNan then (nan32, sigFlag [x, y])
  else
    match mulExact x y with
    | none => (nan32, flagNV)
    | some p => roundVal mode p

/-- x times y plus z, one rounding. The invalid product sets NV and gives a NaN even when the addend is a NaN (R29). -/
def fmaVal (mode : RMode) (x y z : FVal) : W32 × FFlags :=
  if x.isNan || y.isNan then (nan32, sigFlag [x, y, z])
  else
    match mulExact x y with
    | none => (nan32, flagNV)
    | some p => addVal mode p z

/-- x divided by y (R74, Table 5-6). -/
def divVal (mode : RMode) (x y : FVal) : W32 × FFlags :=
  match x, y with
  | .nan _, _ => (nan32, sigFlag [x, y])
  | _, .nan _ => (nan32, sigFlag [x, y])
  | .inf _, .inf _ => (nan32, flagNV)
  | .inf a, .fin b _ _ => (if a != b then ninf32 else inf32, 0)
  | .fin a _ _, .inf b => (if a != b then 0x80000000#32 else 0, 0)
  | .fin a m e, .fin b n k =>
    if n = 0 then
      if m = 0 then (nan32, flagNV) else (if a != b then ninf32 else inf32, flagDZ)
    else if m = 0 then (if a != b then 0x80000000#32 else 0, 0)
    else
      let w := m * 2 ^ 64
      round32 mode (a != b) (w / n) (e - k - 64) (w % n != 0)

/-- The greatest r with r x r ≤ n, built from bit `i` down. -/
def isqrtFrom (n : Nat) : Nat → Nat → Nat
  | 0, r => if (r + 1) * (r + 1) ≤ n then r + 1 else r
  | i + 1, r => isqrtFrom n i (if (r + 2 ^ (i + 1)) * (r + 2 ^ (i + 1)) ≤ n then r + 2 ^ (i + 1) else r)

def isqrt (n : Nat) : Nat := isqrtFrom n (bitLen n / 2 + 1) 0

/-- The square root (R74, R95). -/
def sqrtVal (mode : RMode) (x : FVal) : W32 × FFlags :=
  match x with
  | .nan s => (nan32, if s then flagNV else 0)
  | .inf s => if s then (nan32, flagNV) else (inf32, 0)
  | .fin s m e =>
    if m = 0 then (if s then 0x80000000#32 else 0, 0)
    else if s then (nan32, flagNV)
    else
      let odd := e % 2 != 0
      let w := (if odd then m * 2 else m) * 2 ^ 64
      let k : Int := (if odd then e - 1 else e) - 64
      let r := isqrt w
      round32 mode false r (k / 2) (r * r != w)

/-- Three-way comparison of two values that are no NaNs; +0 and -0 are equal (R26). -/
def cmpVal (x y : FVal) : Ordering :=
  match x, y with
  | .inf a, .inf b => if a = b then .eq else if a then .lt else .gt
  | .inf a, _ => if a then .lt else .gt
  | _, .inf b => if b then .gt else .lt
  | .fin a m e, .fin b n k =>
    let d := (Dy.ofParts a m e).sub (Dy.ofParts b n k)
    if d.n < 0 then .lt else if d.n = 0 then .eq else .gt
  | _, _ => .eq

/-- The compare conditions with their flags (R26). -/
def fcond (c : FCond) (x y : W32) : Bool × FFlags :=
  let u := unpack32 x
  let v := unpack32 y
  let anyNan := u.isNan || v.isNan
  let quiet := sigFlag [u, v]
  let loud : FFlags := if anyNan then flagNV else 0
  let o := cmpVal u v
  match c with
  | .eq => (!anyNan && o == .eq, quiet)
  | .ne => (anyNan || o != .eq, quiet)
  | .lt => (!anyNan && o == .lt, loud)
  | .le => (!anyNan && o != .gt, loud)
  | .gt => (!anyNan && o == .gt, loud)
  | .ge => (!anyNan && o != .lt, loud)
  | .un => (anyNan, quiet)
  | .ord => (!anyNan, quiet)

/-- Is x the lesser in the order of R25, where -0 stands below +0? -/
def lessOrder (x y : W32) : Bool :=
  match cmpVal (unpack32 x) (unpack32 y) with
  | .lt => true
  | .gt => false
  | .eq => x.msb && !y.msb

/-- FMIN (R25). -/
def fminBits (x y : W32) : W32 × FFlags :=
  let u := unpack32 x
  let v := unpack32 y
  (if u.isNan then (if v.isNan then nan32 else y)
   else if v.isNan then x
   else if lessOrder y x then y else x, sigFlag [u, v])

/-- FMAX (R25). -/
def fmaxBits (x y : W32) : W32 × FFlags :=
  let u := unpack32 x
  let v := unpack32 y
  (if u.isNan then (if v.isNan then nan32 else y)
   else if v.isNan then x
   else if lessOrder x y then y else x, sigFlag [u, v])

def faddBits (mode : RMode) (x y : W32) : W32 × FFlags := addVal mode (unpack32 x) (unpack32 y)
def fsubBits (mode : RMode) (x y : W32) : W32 × FFlags := addVal mode (unpack32 x) (unpack32 y).neg
def fmulBits (mode : RMode) (x y : W32) : W32 × FFlags := mulVal mode (unpack32 x) (unpack32 y)
def fdivBits (mode : RMode) (x y : W32) : W32 × FFlags := divVal mode (unpack32 x) (unpack32 y)
def fsqrtBits (mode : RMode) (x : W32) : W32 × FFlags := sqrtVal mode (unpack32 x)
def ffmaBits (mode : RMode) (x y z : W32) : W32 × FFlags := fmaVal mode (unpack32 x) (unpack32 y) (unpack32 z)
/-- a x b - d (R94). -/
def ffmsBits (mode : RMode) (x y z : W32) : W32 × FFlags := fmaVal mode (unpack32 x) (unpack32 y) (unpack32 z).neg
/-- d - a x b (R94). -/
def ffnmaBits (mode : RMode) (x y z : W32) : W32 × FFlags := fmaVal mode (unpack32 x).neg (unpack32 y) (unpack32 z)

/-- An integral value toward a direction; no NX (R29, R95). -/
def integralBits (mode : RMode) (x : W32) : W32 × FFlags :=
  match unpack32 x with
  | .nan s => (nan32, if s then flagNV else 0)
  | .inf _ => (x, 0)
  | .fin s m e =>
    if 0 ≤ e then (x, 0)
    else
      let r := roundAt mode s m e 0 false
      if r.1 = 0 then (if s then 0x80000000#32 else 0, 0) else ((round32 .rne s r.1 0 false).1, 0)

/-- VABS (R24). -/
def vabsBits (x : W32) : W32 × FFlags :=
  (if (unpack32 x).isNan then nan32 else x &&& 0x7FFFFFFF#32, 0)

/-- VNEG (R24). -/
def vnegBits (x : W32) : W32 × FFlags :=
  (if (unpack32 x).isNan then nan32 else x ^^^ 0x80000000#32, 0)

/-- FCLASS: one bit of ten (R74). -/
def fclassBits (x : W32) : Nat :=
  match unpack32 x with
  | .nan s => if s then 2 else 1
  | .inf s => if s then 4 else 512
  | .fin s m _ =>
    if m = 0 then (if s then 32 else 64)
    else if m < 2 ^ 23 then (if s then 16 else 128)
    else (if s then 8 else 256)

/-- Fixed-point places of the computed 2^f and log2. -/
def fixBits : Nat := 448

/-- 2^(2^-i) in fixed point, rounded down, for i = 1, 2, ...: repeated square roots, multiplied in where the fraction
has its bit. `bits` holds the fraction in `n` places. -/
def exp2Frac (bits : Nat) : Nat → Nat → Nat → Nat
  | 0, _, acc => acc
  | n + 1, root, acc =>
    let root' := isqrt (root * 2 ^ fixBits)
    exp2Frac bits n root' (if bits / 2 ^ n % 2 = 1 then acc * root' / 2 ^ fixBits else acc)

/-- 2^x for a dyadic x: magnitude, exponent, and whether more follows (2^x is irrational unless x is an integer). -/
def exp2Dy (x : Dy) : Nat × Int × Bool :=
  if 0 ≤ x.e then (1, x.n * 2 ^ (min x.e.toNat 200), false)
  else
    let places := (-x.e).toNat
    let whole := x.n / 2 ^ places
    let part := (x.n % 2 ^ places).toNat
    if part = 0 then (1, whole, false)
    else
      let m := exp2Frac part places (2 * 2 ^ fixBits) (2 ^ fixBits)
      (m / 2 ^ 200, whole - (fixBits - 200 : Nat), true)

/-- Binary places of log2 of y in [1, 2), y in fixed point: square, take the carry, halve. -/
def log2Frac : Nat → Nat → Nat → Nat
  | 0, _, acc => acc
  | n + 1, y, acc =>
    let y2 := y * y / 2 ^ fixBits
    if y2 ≥ 2 * 2 ^ fixBits then log2Frac n (y2 / 2) (2 * acc + 1) else log2Frac n y2 (2 * acc)

/-- log2 of m x 2^e, m nonzero: sign, magnitude, exponent and whether more follows. -/
def log2Parts (m : Nat) (e : Int) : Bool × Nat × Int × Bool :=
  let top := bitLen m - 1
  let whole : Int := e + top
  if m = 2 ^ top then (whole < 0, whole.natAbs, 0, false)
  else
    let y := m * 2 ^ fixBits / 2 ^ top
    let part := log2Frac 200 y 0
    let n : Int := whole * 2 ^ 200 + part
    if n < 0 then (true, n.natAbs - 1, -200, true) else (false, n.toNat, -200, true)

/-- Exp2RN (Table 0-3): 2^x correctly rounded to F32 under RNE. -/
def exp2RN (x : W32) : W32 :=
  match unpack32 x with
  | .nan _ => nan32
  | .inf s => if s then 0 else inf32
  | .fin s m e =>
    let r := exp2Dy (Dy.ofParts s m e)
    (round32 .rne false r.1 r.2.1 r.2.2).1

/-- log2 of an exact dyadic number, correctly rounded to F32 under RNE. -/
def log2DyRN (x : Dy) : W32 :=
  if x.n = 0 then ninf32
  else if x.n < 0 then nan32
  else
    let r := log2Parts x.n.natAbs x.e
    (round32 .rne r.1 r.2.1 r.2.2.1 r.2.2.2).1

/-- Log2RN (Table 0-3). -/
def log2RN (x : W32) : W32 :=
  match unpack32 x with
  | .nan _ => nan32
  | .inf s => if s then nan32 else inf32
  | .fin s m e => log2DyRN (Dy.ofParts s m e)

/-- Round onto G12 (R33). -/
def roundG12 (neg : Bool) (m : Nat) (e : Int) (sticky : Bool) : W32 × FFlags :=
  let r := Fmt.g12.round .rne neg m e sticky
  (BitVec.ofNat 32 (r.1 * 4096), r.2)

/-- VRCP (R33). -/
def vrcpBits (x : W32) : W32 × FFlags :=
  match unpack32 x with
  | .nan s => (nan32, if s then flagNV else 0)
  | .inf s => (if s then 0x80000000#32 else 0, 0)
  | .fin s m e =>
    if m = 0 then (if s then ninf32 else inf32, flagDZ)
    else roundG12 s (2 ^ 64 / m) (-e - 64) (2 ^ 64 % m != 0)

/-- VRSQ (R33). -/
def vrsqBits (x : W32) : W32 × FFlags :=
  match unpack32 x with
  | .nan s => (nan32, if s then flagNV else 0)
  | .inf s => if s then (nan32, flagNV) else (0, 0)
  | .fin s m e =>
    if m = 0 then (if s then ninf32 else inf32, flagDZ)
    else if s then (nan32, flagNV)
    else
      let odd := e % 2 != 0
      let m' := if odd then m * 2 else m
      let k : Int := if odd then e - 1 else e
      let r := isqrt (2 ^ 128 / m')
      roundG12 false r (-(k / 2) - 64) (r * r * m' != 2 ^ 128)

/-- VEXP2 (R33). -/
def vexp2Bits (x : W32) : W32 × FFlags :=
  match unpack32 x with
  | .nan s => (nan32, if s then flagNV else 0)
  | .inf s => (if s then 0 else inf32, 0)
  | .fin s m e =>
    let r := exp2Dy (Dy.ofParts s m e)
    roundG12 false r.1 r.2.1 r.2.2

/-- VLOG2 (R33). -/
def vlog2Bits (x : W32) : W32 × FFlags :=
  match unpack32 x with
  | .nan s => (nan32, if s then flagNV else 0)
  | .inf s => if s then (nan32, flagNV) else (inf32, 0)
  | .fin s m e =>
    if m = 0 then (ninf32, flagDZ)
    else if s then (nan32, flagNV)
    else
      let r := log2Parts m e
      roundG12 r.1 r.2.1 r.2.2.1 r.2.2.2

/-- Operations under RNE without flags, for the list engine and the scene forms (R265, R286). -/
def rnAdd (x y : W32) : W32 := (faddBits .rne x y).1
def rnSub (x y : W32) : W32 := (fsubBits .rne x y).1
def rnMul (x y : W32) : W32 := (fmulBits .rne x y).1
def rnDiv (x y : W32) : W32 := (fdivBits .rne x y).1
def rnSqrt (x : W32) : W32 := (fsqrtBits .rne x).1

def f32Lt (x y : W32) : Bool := (fcond .lt x y).1
def f32Le (x y : W32) : Bool := (fcond .le x y).1
def f32Eq (x y : W32) : Bool := (fcond .eq x y).1
def f32Nan (x : W32) : Bool := (unpack32 x).isNan
def f32Inf (x : W32) : Bool :=
  match unpack32 x with
  | .inf _ => true
  | _ => false

end Sys2Proof.Machine
end

