-- ==== Sys2Proof/Machine/Formats.lean ====
section
/-! DEFINITION. Conversions between the number formats (R21, R22, R32), the E8C block (R38-R41), the reduction tree (R37). -/

namespace Sys2Proof.Machine

open Sys2Proof

/-- Truncate a value toward zero: the integer and whether it is inexact; `none` for NaN and infinity. -/
def FVal.trunc (v : FVal) : Option (Int × Bool) :=
  match v with
  | .fin s m e =>
    let q := if 0 ≤ e then m * 2 ^ e.toNat else m / 2 ^ (-e).toNat
    let inexact := !(0 ≤ e) && m % 2 ^ (-e).toNat != 0
    some (if s then -(q : Int) else q, inexact)
  | .inf _ => none
  | .nan _ => none

def FVal.negative (v : FVal) : Bool :=
  match v with
  | .fin s _ _ => s
  | .inf s => s
  | .nan _ => false

/-- F32 to I32, toward zero, saturating (Table 3-4). -/
def cvtF32I32 (x : W32) : W32 × FFlags :=
  match unpack32 x with
  | .nan _ => (0, flagNV)
  | v =>
    match v.trunc with
    | none => (if v.negative then 0x80000000#32 else 0x7FFFFFFF#32, flagNV)
    | some (n, inexact) =>
      if n > 2 ^ 31 - 1 then (0x7FFFFFFF#32, flagNV)
      else if n < -(2 ^ 31) then (0x80000000#32, flagNV)
      else (BitVec.ofInt 32 n, if inexact then flagNX else 0)

/-- F32 to U32, toward zero, saturating (Table 3-4). -/
def cvtF32U32 (x : W32) : W32 × FFlags :=
  match unpack32 x with
  | .nan _ => (0, flagNV)
  | v =>
    match v.trunc with
    | none => (if v.negative then 0 else 0xFFFFFFFF#32, flagNV)
    | some (n, inexact) =>
      if n > 2 ^ 32 - 1 then (0xFFFFFFFF#32, flagNV)
      else if n < 0 then (0, flagNV)
      else (BitVec.ofInt 32 n, if inexact then flagNX else 0)

/-- An integer to F32 under a mode (Table 3-4). -/
def cvtIntF32 (mode : RMode) (n : Int) : W32 × FFlags :=
  if n = 0 then (0, 0) else round32 mode (n < 0) n.natAbs 0 false
def cvtI32F32 (mode : RMode) (x : W32) : W32 × FFlags := cvtIntF32 mode x.toInt
def cvtU32F32 (mode : RMode) (x : W32) : W32 × FFlags := cvtIntF32 mode x.toNat

/-- F32 to a format of the IEEE pattern: BF16, F16, F8B (Table 3-4); `qnan` is its canonical NaN. -/
def cvtNarrow (f : Fmt) (qnan : Nat) (mode : RMode) (x : W32) : Nat × FFlags :=
  match unpack32 x with
  | .nan s => (qnan, if s then flagNV else 0)
  | .inf s => ((if s then 2 ^ (f.frac + f.exp) else 0) + (2 ^ f.exp - 1) * 2 ^ f.frac, 0)
  | .fin s m e => f.round mode s m e false
def cvtBf16 (mode : RMode) (x : W32) : Nat × FFlags := cvtNarrow Fmt.bf16 0x7FC0 mode x
def cvtF16 (mode : RMode) (x : W32) : Nat × FFlags := cvtNarrow Fmt.f16 0x7E00 mode x
def cvtF8B (mode : RMode) (x : W32) : Nat × FFlags := cvtNarrow Fmt.f8b 0x7E mode x

/-- F32 to F8A: rounded as if S.1111.111 were the finite 480, then saturated at 448 (R32). -/
def cvtF8A (mode : RMode) (x : W32) : Nat × FFlags :=
  match unpack32 x with
  | .nan s => (0x7F, if s then flagNV else 0)
  | .inf s => ((if s then 0x80 else 0) + 0x7E, flagOF ||| flagNX)
  | .fin s m e =>
    let r := (⟨3, 10, 7⟩ : Fmt).round mode s m e false
    let mag := r.1 % 2 ^ 13
    if mag ≥ 0x7F then ((if s then 0x80 else 0) + 0x7E, flagOF ||| flagNX)
    else ((if s then 0x80 else 0) + mag, r.2)

/-- A 16- or 8-bit value to F32, exact; a NaN gives the canonical NaN, with NV when it signals. -/
def widen (v : FVal) : W32 × FFlags :=
  match v with
  | .nan s => (nan32, if s then flagNV else 0)
  | .inf s => (if s then ninf32 else inf32, 0)
  | .fin s m e => (((Dy.ofParts s m e).round32 .rne s).1, 0)
def cvtFromBf16 (x : Nat) : W32 × FFlags := widen (Fmt.bf16.unpack x)
def cvtFromF16 (x : Nat) : W32 × FFlags := widen (Fmt.f16.unpack x)
/-- Every F8 NaN is quiet (R22). -/
def cvtFromF8A (x : Nat) : W32 × FFlags := ((widen (unpackF8A x)).1, 0)
def cvtFromF8B (x : Nat) : W32 × FFlags := ((widen (unpackF8B x)).1, 0)

/-- I32 to I8, saturating (Table 3-4). -/
def cvtI32I8 (x : W32) : Nat :=
  let n := x.toInt
  if n > 127 then 127 else if n < -128 then 128 else (BitVec.ofInt 8 n).toNat

/-! The reduction tree (R37). -/

/-- One level: neighbours combined, an odd last one carried; the accumulated flags beside. -/
def treeLevel (f : W32 → W32 → W32 × FFlags) (xs : List W32) : List W32 × FFlags :=
  match xs with
  | x :: y :: rest =>
    let r := treeLevel f rest
    let z := f x y
    (z.1 :: r.1, z.2 ||| r.2)
  | xs => (xs, 0)

/-- Levels until one value remains; `fuel` levels suffice for 2^fuel values. -/
def tree (f : W32 → W32 → W32 × FFlags) (fuel : Nat) (xs : List W32) : List W32 × FFlags :=
  match fuel with
  | 0 => (xs, 0)
  | n + 1 =>
    if xs.length ≤ 1 then (xs, 0)
    else
      let r := treeLevel f xs
      let q := tree f n r.1
      (q.1, r.2 ||| q.2)

/-- The reduction of a list, `empty` for an empty list. -/
def reduce (f : W32 → W32 → W32 × FFlags) (empty : W32) (xs : List W32) : W32 × FFlags :=
  let r := tree f 8 xs
  (r.1.headD empty, r.2)

/-- A floating-point reduction. A list of one value meets no ⊕ (R37), yet its result is a floating-point result: a NaN is canonical and
a signalling one sets NV (R24; log entry 29). -/
def reduceFp (f : W32 → W32 → W32 × FFlags) (empty : W32) (xs : List W32) : W32 × FFlags :=
  let r := reduce f empty xs
  let v := unpack32 r.1
  if v.isNan then (nan32, if v.isSig then r.2 ||| flagNV else r.2) else r

/-! The E8C block (R38-R41). -/

/-- Bits of a byte string, most significant first within each byte. -/
def msbBits (bs : List Byte) : List Bool := bs.flatMap (fun b => (List.range 8).map (fun i => b.getLsbD (7 - i)))
def bitsNat (l : List Bool) : Nat := l.foldl (fun acc b => acc * 2 + (if b then 1 else 0)) 0
/-- Bit `n` of a plane, least significant first within each byte. -/
def planeBit (bs : List Byte) (n : Nat) : Bool := (bs.getD (n / 8) 0).getLsbD (n % 8)

/-- What one token says (Table 3-7). -/
inductive Token where
  | zero
  | delta (n : Int)
  | raw (n : Nat)
  deriving DecidableEq, Repr

def rawToken (n : Nat) (l : List Bool) : Option (Token × List Bool) :=
  if l.length < n then none else some (.raw (bitsNat (l.take n)), l.drop n)

/-- Read one token; `none` when it extends past the stream. -/
def readToken (table rawBits : Nat) (l : List Bool) : Option (Token × List Bool) :=
  if table = 0 then
    match l with
    | false :: r => some (.delta 0, r)
    | true :: false :: r => some (.delta 1, r)
    | true :: true :: false :: r => some (.delta (-1), r)
    | true :: true :: true :: false :: r => some (.delta 2, r)
    | true :: true :: true :: true :: false :: r => some (.zero, r)
    | true :: true :: true :: true :: true :: r => rawToken rawBits r
    | _ => none
  else if table = 1 then
    match l with
    | false :: false :: r => some (.delta 0, r)
    | true :: false :: false :: r => some (.delta 1, r)
    | false :: true :: r => some (.delta (-1), r)
    | true :: true :: true :: false :: r => some (.delta 2, r)
    | true :: false :: true :: r => some (.delta (-2), r)
    | true :: true :: false :: r => some (.zero, r)
    | true :: true :: true :: true :: r => rawToken rawBits r
    | _ => none
  else rawToken rawBits l

/-- Mantissa bits of a variant: 3 for F8A, 2 for F8B (R38). -/
def e8cMant (f8b : Bool) : Nat := if f8b then 2 else 3

/-- Length of the block that starts with these bytes (R38). -/
def e8cLength (bs : List Byte) : Nat :=
  let m := e8cMant ((bs.getD 0 0).getLsbD 7)
  10 + 8 * m + (bs.getD 1 0).toNat

/-- Decode elements `e` on from the tokens: `none` marks an uncorrectable element (R40). -/
def e8cElems (signs mants : List Byte) (f8b : Bool) (table base : Nat) : Nat → Nat → List Bool → List (Option Byte)
  | 0, _, _ => []
  | n + 1, e, l =>
    let m := e8cMant f8b
    match readToken table (7 - m) l with
    | none => List.replicate (n + 1) none
    | some (tok, rest) =>
      let sign := planeBit signs e
      let mant := (List.range m).foldl (fun acc b => acc + (if planeBit mants (m * e + b) then 2 ^ b else 0)) 0
      let elem : Option Byte :=
        match tok with
        | .zero => some 0
        | .raw x => if x = 0 ∧ mant = 0 then some 0 else some (BitVec.ofNat 8 ((if sign then 128 else 0) + x * 2 ^ m + mant))
        | .delta k =>
          let x : Int := base + k
          if x < 0 ∨ x ≥ 2 ^ (7 - m) then none
          else if x = 0 ∧ mant = 0 then some 0
          else some (BitVec.ofNat 8 ((if sign then 128 else 0) + x.toNat * 2 ^ m + mant))
      elem :: e8cElems signs mants f8b table base n (e + 1) rest

/-- The 64 elements of a block and its variant. -/
def e8cDecode (bs : List Byte) : List (Option Byte) × Bool :=
  let h := (bs.getD 0 0).toNat
  let f8b := h / 128 == 1
  let table := h / 32 % 4
  let m := e8cMant f8b
  let stream := ((bs.drop (10 + 8 * m)).take (bs.getD 1 0).toNat)
  if table = 3 then (List.replicate 64 none, f8b)
  else (e8cElems ((bs.drop 2).take 8) ((bs.drop 10).take (8 * m)) f8b table (h % 32) 64 0 (msbBits stream), f8b)

def natBits (n v : Nat) : List Bool := (List.range n).map (fun i => v / 2 ^ (n - 1 - i) % 2 == 1)

/-- The shortest token of a table for an exponent field (R41). -/
def e8cToken (table rawBits base : Nat) (zero : Bool) (x : Nat) : List Bool :=
  let d : Int := (x : Int) - base
  if table = 0 then
    if zero then [true, true, true, true, false]
    else if d = 0 then [false]
    else if d = 1 then [true, false]
    else if d = -1 then [true, true, false]
    else if d = 2 then [true, true, true, false]
    else [true, true, true, true, true] ++ natBits rawBits x
  else if table = 1 then
    if zero then [true, true, false]
    else if d = 0 then [false, false]
    else if d = 1 then [true, false, false]
    else if d = -1 then [false, true]
    else if d = 2 then [true, true, true, false]
    else if d = -2 then [true, false, true]
    else [true, true, true, true] ++ natBits rawBits x
  else natBits rawBits x

/-- Eight bits at a time, most significant first, zero padding. -/
def packMsb : Nat → List Bool → List Byte
  | 0, _ => []
  | n + 1, l => BitVec.ofNat 8 (bitsNat ((l ++ List.replicate 8 false).take 8)) :: packMsb n (l.drop 8)

/-- Bits least significant first into `n` bytes. -/
def packLsb (n : Nat) (l : List Bool) : List Byte :=
  (List.range n).map (fun i => BitVec.ofNat 8 ((List.range 8).foldl (fun acc b => acc + (if l.getD (8 * i + b) false then 2 ^ b else 0)) 0))

/-- Encode 64 F8 bytes as a block (R41). -/
def e8cEncode (f8b : Bool) (es : List Byte) : List Byte :=
  let m := e8cMant f8b
  let raw := 7 - m
  let exps := es.map (fun b => b.toNat / 2 ^ m % 2 ^ raw)
  let mants := es.map (fun b => b.toNat % 2 ^ m)
  let zeros := es.map (fun b => b.toNat % 128 == 0)
  let rows := exps.zip (mants.zip (zeros.zip (es.map (fun b => b.getLsbD 7))))
  let live := (exps.zip zeros).filterMap (fun p => if p.2 then none else some p.1)
  let base := ((List.range (2 ^ raw)).foldl (fun (acc : Nat × Nat) x =>
    let n := live.count x
    if n > acc.2 then (x, n) else acc) (0, 0)).1
  let stream (t : Nat) : List Bool := rows.flatMap (fun p => e8cToken t raw base p.2.2.1 p.1)
  let len (t : Nat) : Nat := ((stream t).length + 7) / 8
  let pick := if len 1 < len 0 then 1 else 0
  let maxLen := if f8b then 40 else 32
  let table := if len pick > maxLen then 2 else pick
  let bits := if table = 2 then exps.flatMap (natBits raw) else stream table
  let l := if table = 2 then maxLen else len table
  let h := l * 256 + (if f8b then 128 else 0) + table * 32 + base
  let signs := rows.map (fun p => !p.2.2.1 && p.2.2.2)
  let mbits := rows.flatMap (fun p => (List.range m).map (fun b => !p.2.2.1 && p.2.1 / 2 ^ b % 2 == 1))
  [BitVec.ofNat 8 h, BitVec.ofNat 8 (h / 256)] ++ packLsb 8 signs ++ packLsb (8 * m) mbits ++ packMsb l bits

end Sys2Proof.Machine
end

