-- ==== Sys2Proof/Decode.lean ====
section
/-! DEFINITION. The decoder: total on every 32-bit word, each word that is not an instruction refused by name (R47), and
after it the encoder, written from the same tables (Tables 4-1 to 4-5). -/

namespace Sys2Proof

/-- Why a word is no instruction (the cases of R47). -/
inductive IllegalReason where
  | major | fn | zeroField | scope | afadd | ordOrder | loadSign | csr
  deriving DecidableEq, Repr

/-- CSR numbers of Table 4-6. -/
def csrListed (c : CsrNum) : Bool :=
  let n := c.toNat
  (n <= 0x005) || (0x010 <= n && n <= 0x012) || (0x020 <= n && n <= 0x023) || (0x030 <= n && n <= 0x035)
    || n == 0x040 || n == 0x041 || (0x050 <= n && n <= 0x052) || (0x070 <= n && n <= 0x082)
    || (0x090 <= n && n <= 0x0A3) || (0x0C0 <= n && n <= 0x0C2) || n == 0x0D0 || (0x0F0 <= n && n <= 0x0F3)
    || (0x100 <= n && n <= 0x107) || (0x120 <= n && n <= 0x12F)

/-- Bits `lo + n - 1` to `lo` of a word. -/
def field (w : W32) (lo n : Nat) : BitVec n := w.extractLsb' lo n

/-- Go on where a field is as it must be, refuse by name where not. -/
def need {α : Type} (c : Bool) (r : IllegalReason) (x : Except IllegalReason α) : Except IllegalReason α :=
  if c then x else .error r

/-- Scope codes (R45); 6 and 7 are refused. -/
def scopeOf (c : BitVec 3) : Except IllegalReason Scope :=
  match c.toNat with
  | 0 => .ok .thread
  | 1 => .ok .core
  | 2 => .ok .cluster
  | 3 => .ok .die
  | 4 => .ok .device
  | 5 => .ok .system
  | _ => .error .scope

def wsizeOf (c : BitVec 1) : WSize := if c = 1 then .d else .w

def aordOf (c : BitVec 2) : AOrd :=
  match c.toNat with
  | 0 => .relaxed
  | 1 => .acquire
  | 2 => .release
  | _ => .acqRel

def sizeOf2 (c : BitVec 2) : Size :=
  match c.toNat with
  | 0 => .b
  | 1 => .h
  | 2 => .w
  | _ => .d

/-- Major 0x01 (Table 4-3). -/
def decodeAlu (d a b : Reg) (fn : Nat) : Except IllegalReason Instr :=
  match fn with
  | 0 => .ok (.add d a b)
  | 1 => .ok (.sub d a b)
  | 2 => .ok (.and d a b)
  | 3 => .ok (.or d a b)
  | 4 => .ok (.xor d a b)
  | 5 => .ok (.sll d a b)
  | 6 => .ok (.srl d a b)
  | 7 => .ok (.sra d a b)
  | 8 => .ok (.slt d a b)
  | 9 => .ok (.sltu d a b)
  | 10 => .ok (.seq d a b)
  | 11 => .ok (.min d a b)
  | 12 => .ok (.max d a b)
  | 13 => .ok (.minu d a b)
  | 14 => .ok (.maxu d a b)
  | 15 => .ok (.andn d a b)
  | _ => .error .fn

/-- Major 0x08 (Table 4-3). -/
def decodeMulDiv (d a b : Reg) (fn : Nat) : Except IllegalReason Instr :=
  match fn with
  | 0 => .ok (.mul d a b)
  | 1 => .ok (.mulh d a b)
  | 2 => .ok (.mulhu d a b)
  | 3 => .ok (.div d a b)
  | 4 => .ok (.divu d a b)
  | 5 => .ok (.rem d a b)
  | 6 => .ok (.remu d a b)
  | _ => .error .fn

/-- Major 0x0B, b zero (Table 4-3). -/
def decodeBits (d a : Reg) (fn : Nat) : Except IllegalReason Instr :=
  match fn with
  | 0 => .ok (.clz d a)
  | 1 => .ok (.ctz d a)
  | 2 => .ok (.popc d a)
  | 3 => .ok (.brev d a)
  | 4 => .ok (.sextb d a)
  | 5 => .ok (.sexth d a)
  | 6 => .ok (.sextw d a)
  | 7 => .ok (.zextw d a)
  | _ => .error .fn

/-- Major 0x0C (Table 4-3); b is zero for FCVTIF, FCVTFI, FSQRT and FCLASS. -/
def decodeSfp (d a b : Reg) (fn : Nat) : Except IllegalReason Instr :=
  match fn with
  | 0 => .ok (.fadd d a b)
  | 1 => .ok (.fsub d a b)
  | 2 => .ok (.fmul d a b)
  | 3 => .ok (.fdiv d a b)
  | 4 => .ok (.fmin d a b)
  | 5 => .ok (.fmax d a b)
  | 6 => .ok (.feq d a b)
  | 7 => .ok (.flt d a b)
  | 8 => .ok (.fle d a b)
  | 9 => need (b == 0) .zeroField (.ok (.fcvtif d a))
  | 10 => need (b == 0) .zeroField (.ok (.fcvtfi d a))
  | 11 => need (b == 0) .zeroField (.ok (.fsqrt d a))
  | 12 => .ok (.fma d a b)
  | 13 => need (b == 0) .zeroField (.ok (.fclass d a))
  | _ => .error .fn

/-- Major 0x06 (Table 4-3). -/
def decodeShi (d a : Reg) (imm : BitVec 15) : Except IllegalReason Instr :=
  need (imm.extractLsb' 6 7 == 0) .zeroField
    (match (imm.extractLsb' 13 2).toNat with
     | 0 => .ok (.slli d a (imm.extractLsb' 0 6))
     | 1 => .ok (.srli d a (imm.extractLsb' 0 6))
     | 2 => .ok (.srai d a (imm.extractLsb' 0 6))
     | _ => .error .fn)

/-- Major 0x16 (Table 4-3): `a[24:23]` the condition, `a[22:20]` the mask. -/
def decodeBm (a b : Reg) (off : BitVec 15) : Except IllegalReason Instr :=
  need (b == 0) .zeroField
    (match (a.extractLsb' 3 2).toNat with
     | 0 => .ok (.bmany (a.extractLsb' 0 3) off)
     | 1 => .ok (.bmnone (a.extractLsb' 0 3) off)
     | 2 => .ok (.bmall (a.extractLsb' 0 3) off)
     | _ => .error .fn)

/-- Major 0x19 (R78). -/
def decodeJx (d a b : Reg) (fn : Nat) : Except IllegalReason Instr :=
  match fn with
  | 0 => need (d == 0 && b == 0) .zeroField (.ok (.jr a))
  | 1 => need (d == 0 && b == 0) .zeroField (.ok (.callr a))
  | 2 => need (d == 0 && a == 0 && b == 0) .zeroField (.ok .ret)
  | _ => .error .fn

/-- Majors 0x20 and 0x21, form M (R137). -/
def decodeLd (d a : Reg) (off : BitVec 12) (sz : BitVec 2) (sx : BitVec 1) : Except IllegalReason Instr :=
  need (!(sz == 3 && sx == 1)) .loadSign (.ok (.ld d a off (sizeOf2 sz) (sx == 1)))

def decodeSt (d a : Reg) (off : BitVec 12) (sz : BitVec 2) (sx : BitVec 1) : Except IllegalReason Instr :=
  need (sx == 0) .loadSign (.ok (.st d a off (sizeOf2 sz)))

/-- Major 0x22 (R138): `fn[9:7]` scope, `fn[6]` size, `fn[5:4]` zero, `fn[3:0]` operation. -/
def decodeOrd (d a b : Reg) (fn : BitVec 10) : Except IllegalReason Instr :=
  need (fn.extractLsb' 4 2 == 0) .ordOrder
    (match scopeOf (fn.extractLsb' 7 3) with
     | .error e => .error e
     | .ok sc =>
       match (fn.extractLsb' 0 4).toNat with
       | 0 => need (b == 0) .zeroField (.ok (.lda d a sc (wsizeOf (fn.extractLsb' 6 1))))
       | 1 => need (d == 0) .zeroField (.ok (.str a b sc (wsizeOf (fn.extractLsb' 6 1))))
       | _ => .error .fn)

/-- Major 0x23 (R140): `fn[9:7]` scope, `fn[6]` size, `fn[5:4]` order, `fn[3:0]` operation. -/
def decodeAtom (d a b : Reg) (fn : BitVec 10) : Except IllegalReason Instr :=
  match scopeOf (fn.extractLsb' 7 3) with
  | .error e => .error e
  | .ok sc =>
    let sz := wsizeOf (fn.extractLsb' 6 1)
    let o := aordOf (fn.extractLsb' 4 2)
    match (fn.extractLsb' 0 4).toNat with
    | 0 => .ok (.aadd d a b sc sz o)
    | 1 => .ok (.aand d a b sc sz o)
    | 2 => .ok (.aor d a b sc sz o)
    | 3 => .ok (.axor d a b sc sz o)
    | 4 => .ok (.amin d a b sc sz o)
    | 5 => .ok (.amax d a b sc sz o)
    | 6 => .ok (.aminu d a b sc sz o)
    | 7 => .ok (.amaxu d a b sc sz o)
    | 8 => .ok (.aswp d a b sc sz o)
    | 9 => .ok (.acas d a b sc sz o)
    | 10 => need (fn.extractLsb' 6 1 == 0) .afadd (.ok (.afadd d a b sc o))
    | _ => .error .fn

/-- Major 0x24, form F (R165). -/
def decodeFence (pred succ : BitVec 8) (sc : BitVec 3) (z : BitVec 6) : Except IllegalReason Instr :=
  need (z == 0) .zeroField
    (match scopeOf sc with
     | .error e => .error e
     | .ok s => .ok (.fence pred succ s))

/-- Element sizes of major 0x26 (Table 4-4). -/
def elemOf (c : BitVec 2) : Except IllegalReason Elem :=
  match c.toNat with
  | 0 => .ok .b
  | 1 => .ok .h
  | 2 => .ok .w
  | _ => .error .fn

/-- Major 0x26 (Table 4-4): `a[6:5]` element size, `a[4:0]` base register. -/
def decodeVgs (m : MaskCode) (d a b : RowCode) (s : BitVec 1) : Except IllegalReason Instr :=
  match elemOf (a.extractLsb' 5 2) with
  | .error e => .error e
  | .ok sz =>
    .ok (if s = 1 then .vstx m d sz (a.extractLsb' 0 5) b else .vldx m d sz (a.extractLsb' 0 5) b)

/-- Major 0x30, form C (R51, R79). -/
def decodeCsr (d a : Reg) (csr : CsrNum) (k : BitVec 3) : Except IllegalReason Instr :=
  need (csrListed csr) .csr
    (match k.toNat with
     | 0 => need (a == 0) .zeroField (.ok (.csrr d csr))
     | 1 => .ok (.csrw d a csr)
     | 2 => .ok (.csrs d a csr)
     | 3 => .ok (.csrc d a csr)
     | 4 => .ok (.csrwi d a csr)
     | _ => .error .fn)

/-- Major 0x31 (R81, Table 5-8): a field that a row does not list is zero, and another fn is refused. -/
def decodeSys (d a b : Reg) (fn : Nat) : Except IllegalReason Instr :=
  match fn with
  | 1 => need (d == 0 && b == 0) .zeroField (.ok (.trap a))
  | 2 => need (d == 0 && a == 0 && b == 0) .zeroField (.ok (.eret))
  | 3 => need (d == 0 && a == 0 && b == 0) .zeroField (.ok (.brk))
  | 4 => need (d == 0 && a == 0 && b == 0) .zeroField (.ok (.yield))
  | 5 => need (d == 0 && b == 0) .zeroField (.ok (.exit a))
  | 6 => need (d == 0 && a == 0 && b == 0) .zeroField (.ok (.wfe))
  | 7 => need (d == 0 && b == 0) .zeroField (.ok (.chkpt a))
  | 8 => need (d == 0 && b == 0) .zeroField (.ok (.ipf a))
  | _ => .error .fn

/-- Major 0x32 (Table 11-1). -/
def decodeMsg (d a b : Reg) (fn : Nat) : Except IllegalReason Instr :=
  match fn with
  | 0 => .ok (.send d a b)
  | 1 => .ok (.waitc d a b)
  | 2 => need (b == 0) .zeroField (.ok (.cntr d a))
  | 3 => .ok (.cntadd d a b)
  | 4 => .ok (.rkmap d a b)
  | 5 => .ok (.rkmove d a b)
  | _ => .error .fn

/-- Major 0x33 (Table 11-5). -/
def decodeBar (d a b : Reg) (fn : Nat) : Except IllegalReason Instr :=
  match fn with
  | 0 => need (d == 0) .zeroField (.ok (.barinit a b))
  | 1 => need (b == 0) .zeroField (.ok (.bararr d a))
  | 2 => need (d == 0) .zeroField (.ok (.barwait a b))
  | 3 => need (b == 0) .zeroField (.ok (.barsync d a))
  | 4 => need (b == 0) .zeroField (.ok (.barq d a))
  | _ => .error .fn

/-- Major 0x34 (R60, Tables 5-2 and 12-2): a field that a row does not list is zero, and another fn is refused. -/
def decodeThr (d a b : Reg) (fn : Nat) : Except IllegalReason Instr :=
  match fn with
  | 0 => .ok (.help d a b)
  | 1 => need (b == 0) .zeroField (.ok (.hjoin d a))
  | 2 => need (b == 0) .zeroField (.ok (.hitch d a))
  | 3 => need (a == 0 && b == 0) .zeroField (.ok (.unhitch d))
  | 4 => need (a == 0 && b == 0) .zeroField (.ok (.self d))
  | _ => .error .fn

/-- Major 0x35 (Tables 13-5, 14-4). -/
def decodeTask (d a b : Reg) (fn : Nat) : Except IllegalReason Instr :=
  match fn with
  | 0 => .ok (.enq d a b)
  | 1 => .ok (.qres d a b)
  | 2 => need (d == 0 && a == 0 && b == 0) .zeroField (.ok (.trig))
  | 3 => .ok (.tlink d a b)
  | 4 => .ok (.launch d a b)
  | 5 => need (b == 0) .zeroField (.ok (.kwait d a))
  | 6 => .ok (.qpin d a b)
  | _ => .error .fn

/-- Major 0x36 (Table 10-8). -/
def decodePage (d a b : Reg) (fn : Nat) : Except IllegalReason Instr :=
  match fn with
  | 0 => need (d == 0) .zeroField (.ok (.tlbinv a b))
  | 1 => need (d == 0) .zeroField (.ok (.freply a b))
  | 2 => need (d == 0 && a == 0 && b == 0) .zeroField (.ok (.replay))
  | 3 => .ok (.fbread d a b)
  | 4 => need (d == 0 && b == 0) .zeroField (.ok (.fbclr a))
  | _ => .error .fn

/-- A row, or a scalar broadcast with `b[6:5]` zero (R52). -/
def vsrcOf (b : RowCode) (s : BitVec 1) : Except IllegalReason VSrc :=
  if s = 1 then need (b.extractLsb' 5 2 == 0) .zeroField (.ok (.scalar (b.extractLsb' 0 5))) else .ok (.row b)

/-- A word of the general V pattern (R52). -/
def decodeV (c : VSrc → Instr) (b : RowCode) (s : BitVec 1) : Except IllegalReason Instr :=
  match vsrcOf b s with
  | .error e => .error e
  | .ok x => .ok (c x)

/-- Major 0x48 (R95). -/
def decodeVfu (m : MaskCode) (d a : RowCode) (b : Nat) : Except IllegalReason Instr :=
  match b with
  | 0 => .ok (.vabs m d a)
  | 1 => .ok (.vneg m d a)
  | 2 => .ok (.vrcp m d a)
  | 3 => .ok (.vrsq m d a)
  | 4 => .ok (.vexp2 m d a)
  | 5 => .ok (.vlog2 m d a)
  | 6 => .ok (.vsqrt m d a)
  | 7 => .ok (.vflr m d a)
  | 8 => .ok (.vceil m d a)
  | 9 => .ok (.vrndn m d a)
  | _ => .error .fn

def fcondOf (c : BitVec 3) : FCond :=
  match c.toNat with
  | 0 => .eq
  | 1 => .ne
  | 2 => .lt
  | 3 => .le
  | 4 => .gt
  | 5 => .ge
  | 6 => .un
  | _ => .ord

def icondOf (c : BitVec 3) : Except IllegalReason ICond :=
  match c.toNat with
  | 0 => .ok .eq
  | 1 => .ok .ne
  | 2 => .ok .lt
  | 3 => .ok .ge
  | 4 => .ok .ltu
  | 5 => .ok .geu
  | _ => .error .fn

/-- Major 0x49 (R96): `d[6:4]` condition, `d[3]` zero, `d[2:0]` destination mask. -/
def decodeVcmpf (m : MaskCode) (d a b : RowCode) (s : BitVec 1) : Except IllegalReason Instr :=
  need (d.extractLsb' 3 1 == 0) .zeroField
    (decodeV (.vcmpf m (fcondOf (d.extractLsb' 4 3)) (d.extractLsb' 0 3) a) b s)

/-- Major 0x4A (R96). -/
def decodeVcmpi (m : MaskCode) (d a b : RowCode) (s : BitVec 1) : Except IllegalReason Instr :=
  need (d.extractLsb' 3 1 == 0) .zeroField
    (match icondOf (d.extractLsb' 4 3) with
     | .error e => .error e
     | .ok cc => decodeV (.vcmpi m cc (d.extractLsb' 0 3) a) b s)

/-- VCVT functions (Table 6-6). -/
def cvtOf (b : Nat) : Except IllegalReason CvtFn :=
  match b with
  | 0 => .ok .f32i32
  | 1 => .ok .i32f32
  | 2 => .ok .u32f32
  | 3 => .ok .f32u32
  | 4 => .ok .bf16lo
  | 5 => .ok .bf16hi
  | 6 => .ok .f16lo
  | 7 => .ok .f16hi
  | 8 => .ok .f8a
  | 9 => .ok .f8b
  | _ => .error .fn

def redOf (c : BitVec 2) : RedOp :=
  match c.toNat with
  | 0 => .fsum
  | 1 => .fmin
  | 2 => .fmax
  | _ => .isum

/-- Major 0x5C (R101). -/
def decodeVxs (m : MaskCode) (d a b : RowCode) (s : BitVec 1) : Except IllegalReason Instr :=
  need (m == 0) .zeroField
    (if s = 1 then
      need (a.extractLsb' 4 3 == 0 && b.extractLsb' 5 2 == 0) .zeroField
        (.ok (.vins d (a.extractLsb' 0 4) (b.extractLsb' 0 5)))
    else
      need (d.extractLsb' 5 2 == 0 && b.extractLsb' 4 3 == 0) .zeroField
        (.ok (.vext (d.extractLsb' 0 5) a (b.extractLsb' 0 4))))

/-- A mask code in a 5-bit field: bits [4:3] zero (R51). -/
def maskField (r : Reg) : Bool := r.extractLsb' 3 2 == 0
def maskCode (r : Reg) : MaskCode := r.extractLsb' 0 3

/-- Major 0x5F (Table 6-7). -/
def decodeMask (d a b : Reg) (fn : Nat) : Except IllegalReason Instr :=
  match fn with
  | 0 => need (maskField d && maskField a && maskField b) .zeroField (.ok (.mand (maskCode d) (maskCode a) (maskCode b)))
  | 1 => need (maskField d && maskField a && maskField b) .zeroField (.ok (.mor (maskCode d) (maskCode a) (maskCode b)))
  | 2 => need (maskField d && maskField a && maskField b) .zeroField (.ok (.mxor (maskCode d) (maskCode a) (maskCode b)))
  | 3 => need (maskField d && maskField a && maskField b) .zeroField (.ok (.mandn (maskCode d) (maskCode a) (maskCode b)))
  | 4 => need (maskField d && maskField a && b == 0) .zeroField (.ok (.mnot (maskCode d) (maskCode a)))
  | 5 => need (maskField d && maskField a && b == 0) .zeroField (.ok (.mmov (maskCode d) (maskCode a)))
  | 6 => need (maskField a && b == 0) .zeroField (.ok (.mpopc d (maskCode a)))
  | 7 => need (maskField a && b == 0) .zeroField (.ok (.mfirst d (maskCode a)))
  | 8 => need (maskField d && b == 0) .zeroField (.ok (.mset (maskCode d) a))
  | 9 => need (maskField a && b == 0) .zeroField (.ok (.mget d (maskCode a)))
  | _ => .error .fn

/-- Major 0x60 (Table 7-5): the tile in `d[2:0]`, `ctl[9]` keep A, `ctl[8]` keep B. -/
def decodeMat (d a b : Reg) (ctl : BitVec 4) (fn : Nat) : Except IllegalReason Instr :=
  need (maskField d) .zeroField
    (match fn with
     | 0 => need (ctl.extractLsb' 0 2 == 0) .zeroField
              (.ok (.mma (maskCode d) a b (ctl.extractLsb' 3 1 == 1) (ctl.extractLsb' 2 1 == 1)))
     | 1 => need (ctl == 0 && a == 0 && b == 0) .zeroField (.ok (.mzero (maskCode d)))
     | 2 => need (ctl == 0 && b == 0) .zeroField (.ok (.mst (maskCode d) a))
     | 3 => need (ctl == 0 && b == 0) .zeroField (.ok (.mld (maskCode d) a))
     | 4 => need (ctl == 0 && a == 0 && b == 0) .zeroField (.ok (.mwait (maskCode d)))
     | 5 => need (ctl.extractLsb' 0 2 == 0) .zeroField
              (.ok (.mchk (maskCode d) a b (ctl.extractLsb' 3 1 == 1) (ctl.extractLsb' 2 1 == 1)))
     | _ => .error .fn)

/-- Major 0x61 (Table 7-6): `ctl[9]` of RSUB chooses the storer. -/
def decodeRing (d a b : Reg) (ctl : BitVec 4) (fn : Nat) : Except IllegalReason Instr :=
  match fn with
  | 0 => need (ctl == 0) .zeroField (.ok (.rinit d a b))
  | 1 => need (ctl == 0) .zeroField (.ok (.rpush d a b))
  | 2 => need (ctl.extractLsb' 0 3 == 0) .zeroField (.ok (.rsub d a b (ctl.extractLsb' 3 1 == 1)))
  | 3 => need (ctl == 0 && b == 0) .zeroField (.ok (.runsub d a))
  | 4 => need (ctl == 0 && b == 0) .zeroField (.ok (.rstat d a))
  | _ => .error .fn

/-- Major 0x62 (Table 8-12). -/
def decodeCopy (d a b : Reg) (fn : Nat) : Except IllegalReason Instr :=
  match fn with
  | 0 => need (a == 0 && b == 0) .zeroField (.ok (.cpy d))
  | 1 => need (b == 0) .zeroField (.ok (.cwait d a))
  | 2 => need (b == 0) .zeroField (.ok (.cstat d a))
  | _ => .error .fn

/-- Major 0x63 (Table 8-16). -/
def decodeStrm (d a b : Reg) (fn : Nat) : Except IllegalReason Instr :=
  match fn with
  | 0 => need (b == 0) .zeroField (.ok (.sopen d a))
  | 1 => .ok (.spop d a b)
  | 2 => .ok (.spush d a b)
  | _ => .error .fn

/-- Major 0x64 (Table 18-5). -/
def decodeMrg (d a b : Reg) (fn : Nat) : Except IllegalReason Instr :=
  match fn with
  | 0 => .ok (.mgopen d a b)
  | 1 => .ok (.mgpush d a b)
  | 2 => need (b == 0) .zeroField (.ok (.mgend d a))
  | 3 => .ok (.mgpop d a b)
  | 4 => .ok (.mgstat d a b)
  | 5 => need (b == 0) .zeroField (.ok (.mgdrain d a))
  | _ => .error .fn

/-- Major 0x65 (Table 16-4). -/
def decodeIl (d a b : Reg) (fn : Nat) : Except IllegalReason Instr :=
  match fn with
  | 0 => .ok (.ilopen d a b)
  | 1 => .ok (.ilins d a b)
  | 2 => .ok (.ilsend d a b)
  | 3 => need (b == 0) .zeroField (.ok (.ilcut d a))
  | 4 => .ok (.ilcomp d a b)
  | 5 => .ok (.ilread d a b)
  | 6 => need (b == 0) .zeroField (.ok (.ilclose d a))
  | 7 => need (b == 0) .zeroField (.ok (.ilstat d a))
  | _ => .error .fn

/-- Major 0x66 (Table 19-3). -/
def decodeHal (d a b : Reg) (fn : Nat) : Except IllegalReason Instr :=
  match fn with
  | 0 => need (b == 0) .zeroField (.ok (.hnew d a))
  | 1 => need (b == 0) .zeroField (.ok (.hcopy d a))
  | 2 => need (d == 0 && b == 0) .zeroField (.ok (.hdrop a))
  | 3 => .ok (.hbind d a b)
  | 4 => need (b == 0) .zeroField (.ok (.hwgt d a))
  | 5 => need (b == 0) .zeroField (.ok (.haddr d a))
  | 6 => .ok (.hmerge d a b)
  | _ => .error .fn

/-- The majors of forms V and W and the scene forms (Table 4-4, Table 17-2). -/
def decodeRow (op : Nat) (m : MaskCode) (d a b : RowCode) (s : BitVec 1) : Except IllegalReason Instr :=
  match op with
  | 0x26 => decodeVgs m d a b s
  | 0x40 => decodeV (.vadd m d a) b s
  | 0x41 => decodeV (.vsub m d a) b s
  | 0x42 => decodeV (.vmul m d a) b s
  | 0x43 => decodeV (.vfma m d a) b s
  | 0x44 => decodeV (.vfms m d a) b s
  | 0x45 => decodeV (.vfnma m d a) b s
  | 0x46 => decodeV (.vmin m d a) b s
  | 0x47 => decodeV (.vmax m d a) b s
  | 0x48 => need (s == 0) .zeroField (decodeVfu m d a b.toNat)
  | 0x49 => decodeVcmpf m d a b s
  | 0x4A => decodeVcmpi m d a b s
  | 0x4B => decodeV (.viadd m d a) b s
  | 0x4C => decodeV (.visub m d a) b s
  | 0x4D => decodeV (.vimul m d a) b s
  | 0x4E => decodeV (.vand m d a) b s
  | 0x4F => decodeV (.vor m d a) b s
  | 0x50 => decodeV (.vxor m d a) b s
  | 0x51 => decodeV (.vshl m d a) b s
  | 0x52 => decodeV (.vshr m d a) b s
  | 0x53 => decodeV (.vshra m d a) b s
  | 0x54 => decodeV (.vimin m d a) b s
  | 0x55 => decodeV (.vimax m d a) b s
  | 0x56 => decodeV (.viminu m d a) b s
  | 0x57 => decodeV (.vimaxu m d a) b s
  | 0x58 => decodeV (.vsel m d a) b s
  | 0x59 => decodeV (.vperm m d a) b s
  | 0x5A => need (s == 0) .zeroField
              (match cvtOf b.toNat with
               | .error e => .error e
               | .ok f => .ok (.vcvt m d a f))
  | 0x5B => need (s == 0 && b == 0) .zeroField
              (.ok (.vred m (redOf (d.extractLsb' 5 2)) (d.extractLsb' 0 5) a))
  | 0x5C => decodeVxs m d a b s
  | 0x5D => .ok (if s = 1 then .vpackF16 m d a b else .vpackBf16 m d a b)
  | 0x5E => need (a == 0) .zeroField (decodeV (.vmov m d) b s)
  | 0x68 => need (s == 0 && m != 0) .zeroField (.ok (.boxt m d a b))
  | 0x69 => need (s == 0) .zeroField (.ok (.trit m d a b))
  | 0x6A => need (s == 0) .zeroField (.ok (.splt m d a b))
  | 0x6B => need (s == 0) .zeroField (.ok (.edge m d a b))
  | 0x6C => need (s == 0) .zeroField (.ok (.texl m d a b))
  | 0x6D => need (s == 0) .zeroField (.ok (.texd m d a b))
  | _ => .error .major

/-- The instruction a word is, or the name of the check of R47 that it fails. -/
def decode (w : W32) : Except IllegalReason Instr :=
  let d : Reg := field w 20 5
  let a : Reg := field w 15 5
  let b : Reg := field w 10 5
  let fn : BitVec 10 := field w 0 10
  let imm : BitVec 15 := field w 0 15
  let ctl : BitVec 4 := field w 6 4
  let efn : Nat := (field w 0 6).toNat
  match (field w 25 7).toNat with
  | 0x01 => decodeAlu d a b fn.toNat
  | 0x02 => .ok (.addi d a imm)
  | 0x03 => .ok (.andi d a imm)
  | 0x04 => .ok (.ori d a imm)
  | 0x05 => .ok (.xori d a imm)
  | 0x06 => decodeShi d a imm
  | 0x07 => .ok (.slti d a imm)
  | 0x08 => decodeMulDiv d a b fn.toNat
  | 0x09 => .ok (.lup d (field w 0 20))
  | 0x0A => .ok (.aupc d (field w 0 20))
  | 0x0B => need (b == 0) .zeroField (decodeBits d a fn.toNat)
  | 0x0C => decodeSfp d a b fn.toNat
  | 0x0D => .ok (.sltiu d a imm)
  | 0x10 => .ok (.beq d a imm)
  | 0x11 => .ok (.bne d a imm)
  | 0x12 => .ok (.blt d a imm)
  | 0x13 => .ok (.bge d a imm)
  | 0x14 => .ok (.bltu d a imm)
  | 0x15 => .ok (.bgeu d a imm)
  | 0x16 => decodeBm d a imm
  | 0x17 => .ok (.jmp (field w 0 25))
  | 0x18 => .ok (.call (field w 0 25))
  | 0x19 => decodeJx d a b fn.toNat
  | 0x20 => decodeLd d a (field w 3 12) (field w 1 2) (field w 0 1)
  | 0x21 => decodeSt d a (field w 3 12) (field w 1 2) (field w 0 1)
  | 0x22 => decodeOrd d a b fn
  | 0x23 => decodeAtom d a b fn
  | 0x24 => decodeFence (field w 17 8) (field w 9 8) (field w 6 3) (field w 0 6)
  | 0x25 => .ok (if field w 0 1 = 1 then .vst (field w 18 7) (field w 13 5) (field w 1 12)
                 else .vld (field w 18 7) (field w 13 5) (field w 1 12))
  | 0x30 => decodeCsr d a (field w 3 12) (field w 0 3)
  | 0x31 => decodeSys d a b fn.toNat
  | 0x32 => decodeMsg d a b fn.toNat
  | 0x33 => decodeBar d a b fn.toNat
  | 0x34 => decodeThr d a b fn.toNat
  | 0x35 => decodeTask d a b fn.toNat
  | 0x36 => decodePage d a b fn.toNat
  | 0x38 => need (field w 0 3 == 0) .zeroField (.ok (.lunge (field w 21 4) (field w 13 8) (field w 6 7) (field w 3 3)))
  | 0x5F => decodeMask d a b fn.toNat
  | 0x60 => decodeMat d a b ctl efn
  | 0x61 => decodeRing d a b ctl efn
  | 0x62 => need (ctl == 0) .zeroField (decodeCopy d a b efn)
  | 0x63 => need (ctl == 0) .zeroField (decodeStrm d a b efn)
  | 0x64 => need (ctl == 0) .zeroField (decodeMrg d a b efn)
  | 0x65 => need (ctl == 0) .zeroField (decodeIl d a b efn)
  | 0x66 => need (ctl == 0) .zeroField (decodeHal d a b efn)
  | op => decodeRow op (field w 22 3) (field w 15 7) (field w 8 7) (field w 1 7) (field w 0 1)

/-- Four bytes as a word, little-endian (R42). -/
def wordOfBytes (bs : List Byte) : W32 :=
  bs.foldr (fun b acc => (acc <<< 8) ||| b.setWidth 32) 0

/-- The bytes of a word, lowest address first (R42). -/
def bytesOfWord (w : W32) : List Byte :=
  [w.extractLsb' 0 8, w.extractLsb' 8 8, w.extractLsb' 16 8, w.extractLsb' 24 8]

/-- The instruction at the head of a list of bytes, and the rest of the list; `none` where fewer than four bytes stand. -/
def decodeBytes (bs : List Byte) : Option (Except IllegalReason Instr × List Byte) :=
  match bs with
  | b0 :: b1 :: b2 :: b3 :: rest => some (decode (wordOfBytes [b0, b1, b2, b3]), rest)
  | _ => none

/-- The host's question: the instruction the decoder reads from a word numbered as the opcode table numbers it. -/
def decodeTableWord (nbits w : Nat) : Option Instr :=
  match decodeBytes (bytesOfWord (BitVec.ofNat 32 (w % 2 ^ nbits))) with
  | some (.ok i, _) => some i
  | _ => none

/-! The encoder, from the same tables. -/

/-- Form S (Table 4-1). -/
def packS (op : BitVec 7) (d a b : BitVec 5) (fn : BitVec 10) : W32 := op ++ d ++ a ++ b ++ fn
/-- Forms I and B (Table 4-1). -/
def packI (op : BitVec 7) (d a : BitVec 5) (imm : BitVec 15) : W32 := op ++ d ++ a ++ imm
/-- Form U (Table 4-1). -/
def packU (op : BitVec 7) (d : BitVec 5) (imm : BitVec 20) : W32 := op ++ d ++ imm
/-- Form J (Table 4-1). -/
def packJ (op : BitVec 7) (off : BitVec 25) : W32 := op ++ off
/-- Form M (Table 4-1). -/
def packM (op : BitVec 7) (d a : BitVec 5) (off : BitVec 12) (sz : BitVec 2) (sx : BitVec 1) : W32 :=
  op ++ d ++ a ++ off ++ sz ++ sx
/-- Form C (Table 4-1). -/
def packC (op : BitVec 7) (d a : BitVec 5) (csr : BitVec 12) (k : BitVec 3) : W32 := op ++ d ++ a ++ csr ++ k
/-- Form F (Table 4-1). -/
def packF (op : BitVec 7) (pred succ : BitVec 8) (sc : BitVec 3) (z : BitVec 6) : W32 := op ++ pred ++ succ ++ sc ++ z
/-- Form W (Table 4-1). -/
def packW (op : BitVec 7) (r : BitVec 7) (a : BitVec 5) (off : BitVec 12) (x : BitVec 1) : W32 := op ++ r ++ a ++ off ++ x
/-- Form V (Table 4-1). -/
def packV (op : BitVec 7) (m : BitVec 3) (d a b : BitVec 7) (s : BitVec 1) : W32 := op ++ m ++ d ++ a ++ b ++ s
/-- Form E (Table 4-1). -/
def packE (op : BitVec 7) (d a b : BitVec 5) (ctl : BitVec 4) (fn : BitVec 6) : W32 := op ++ d ++ a ++ b ++ ctl ++ fn
/-- Form L (Table 4-1). -/
def packL (op : BitVec 7) (len : BitVec 4) (cnt : BitVec 8) (stride : BitVec 7) (fix z : BitVec 3) : W32 :=
  op ++ len ++ cnt ++ stride ++ fix ++ z

def scopeCode (s : Scope) : BitVec 3 :=
  match s with
  | .thread => 0
  | .core => 1
  | .cluster => 2
  | .die => 3
  | .device => 4
  | .system => 5

def wsizeCode (s : WSize) : BitVec 1 :=
  match s with
  | .w => 0
  | .d => 1

def aordCode (o : AOrd) : BitVec 2 :=
  match o with
  | .relaxed => 0
  | .acquire => 1
  | .release => 2
  | .acqRel => 3

def sizeCode (s : Size) : BitVec 2 :=
  match s with
  | .b => 0
  | .h => 1
  | .w => 2
  | .d => 3

def elemCode (s : Elem) : BitVec 2 :=
  match s with
  | .b => 0
  | .h => 1
  | .w => 2

def fcondCode (c : FCond) : BitVec 3 :=
  match c with
  | .eq => 0
  | .ne => 1
  | .lt => 2
  | .le => 3
  | .gt => 4
  | .ge => 5
  | .un => 6
  | .ord => 7

def icondCode (c : ICond) : BitVec 3 :=
  match c with
  | .eq => 0
  | .ne => 1
  | .lt => 2
  | .ge => 3
  | .ltu => 4
  | .geu => 5

def cvtCode (f : CvtFn) : BitVec 7 :=
  match f with
  | .f32i32 => 0
  | .i32f32 => 1
  | .u32f32 => 2
  | .f32u32 => 3
  | .bf16lo => 4
  | .bf16hi => 5
  | .f16lo => 6
  | .f16hi => 7
  | .f8a => 8
  | .f8b => 9

def redCode (o : RedOp) : BitVec 2 :=
  match o with
  | .fsum => 0
  | .fmin => 1
  | .fmax => 2
  | .isum => 3

def vsrcBits (b : VSrc) : BitVec 7 :=
  match b with
  | .row r => r
  | .scalar r => (0#2 ++ r : BitVec 7)

def vsrcS (b : VSrc) : BitVec 1 :=
  match b with
  | .row _ => 0
  | .scalar _ => 1

/-- A 3-bit code in a 5-bit field. -/
def small (m : BitVec 3) : BitVec 5 := (0#2 ++ m : BitVec 5)
def bit (b : Bool) : BitVec 1 := if b then 1 else 0
def encodeV (op : BitVec 7) (m : MaskCode) (d a : RowCode) (b : VSrc) : W32 := packV op m d a (vsrcBits b) (vsrcS b)
def encodeAtom (d a b : Reg) (sc : Scope) (sz : WSize) (o : AOrd) (f : BitVec 4) : W32 :=
  packS 0x23 d a b (scopeCode sc ++ wsizeCode sz ++ aordCode o ++ f)

/-- The word of an instruction; `none` for the device rows and for the CSR rows that only name a CSR instruction on one
CSR: those have no word of their own. -/
def encode (i : Instr) : Option W32 :=
  match i with
  | .add d a b => some (packS 0x01 d a b 0)
  | .sub d a b => some (packS 0x01 d a b 1)
  | .and d a b => some (packS 0x01 d a b 2)
  | .or d a b => some (packS 0x01 d a b 3)
  | .xor d a b => some (packS 0x01 d a b 4)
  | .sll d a b => some (packS 0x01 d a b 5)
  | .srl d a b => some (packS 0x01 d a b 6)
  | .sra d a b => some (packS 0x01 d a b 7)
  | .slt d a b => some (packS 0x01 d a b 8)
  | .sltu d a b => some (packS 0x01 d a b 9)
  | .seq d a b => some (packS 0x01 d a b 10)
  | .min d a b => some (packS 0x01 d a b 11)
  | .max d a b => some (packS 0x01 d a b 12)
  | .minu d a b => some (packS 0x01 d a b 13)
  | .maxu d a b => some (packS 0x01 d a b 14)
  | .andn d a b => some (packS 0x01 d a b 15)
  | .addi d a imm => some (packI 0x02 d a imm)
  | .andi d a imm => some (packI 0x03 d a imm)
  | .ori d a imm => some (packI 0x04 d a imm)
  | .xori d a imm => some (packI 0x05 d a imm)
  | .slti d a imm => some (packI 0x07 d a imm)
  | .sltiu d a imm => some (packI 0x0D d a imm)
  | .slli d a sh => some (packI 0x06 d a (0#2 ++ 0#7 ++ sh))
  | .srli d a sh => some (packI 0x06 d a (1#2 ++ 0#7 ++ sh))
  | .srai d a sh => some (packI 0x06 d a (2#2 ++ 0#7 ++ sh))
  | .mul d a b => some (packS 0x08 d a b 0)
  | .mulh d a b => some (packS 0x08 d a b 1)
  | .mulhu d a b => some (packS 0x08 d a b 2)
  | .div d a b => some (packS 0x08 d a b 3)
  | .divu d a b => some (packS 0x08 d a b 4)
  | .rem d a b => some (packS 0x08 d a b 5)
  | .remu d a b => some (packS 0x08 d a b 6)
  | .lup d imm => some (packU 0x09 d imm)
  | .aupc d imm => some (packU 0x0A d imm)
  | .clz d a => some (packS 0x0B d a 0 0)
  | .ctz d a => some (packS 0x0B d a 0 1)
  | .popc d a => some (packS 0x0B d a 0 2)
  | .brev d a => some (packS 0x0B d a 0 3)
  | .sextb d a => some (packS 0x0B d a 0 4)
  | .sexth d a => some (packS 0x0B d a 0 5)
  | .sextw d a => some (packS 0x0B d a 0 6)
  | .zextw d a => some (packS 0x0B d a 0 7)
  | .fadd d a b => some (packS 0x0C d a b 0)
  | .fsub d a b => some (packS 0x0C d a b 1)
  | .fmul d a b => some (packS 0x0C d a b 2)
  | .fdiv d a b => some (packS 0x0C d a b 3)
  | .fmin d a b => some (packS 0x0C d a b 4)
  | .fmax d a b => some (packS 0x0C d a b 5)
  | .feq d a b => some (packS 0x0C d a b 6)
  | .flt d a b => some (packS 0x0C d a b 7)
  | .fle d a b => some (packS 0x0C d a b 8)
  | .fcvtif d a => some (packS 0x0C d a 0 9)
  | .fcvtfi d a => some (packS 0x0C d a 0 10)
  | .fsqrt d a => some (packS 0x0C d a 0 11)
  | .fma d a b => some (packS 0x0C d a b 12)
  | .fclass d a => some (packS 0x0C d a 0 13)
  | .beq a b off => some (packI 0x10 a b off)
  | .bne a b off => some (packI 0x11 a b off)
  | .blt a b off => some (packI 0x12 a b off)
  | .bge a b off => some (packI 0x13 a b off)
  | .bltu a b off => some (packI 0x14 a b off)
  | .bgeu a b off => some (packI 0x15 a b off)
  | .bmany m off => some (packI 0x16 (0#2 ++ m) 0 off)
  | .bmnone m off => some (packI 0x16 (1#2 ++ m) 0 off)
  | .bmall m off => some (packI 0x16 (2#2 ++ m) 0 off)
  | .jmp off => some (packJ 0x17 off)
  | .call off => some (packJ 0x18 off)
  | .jr a => some (packS 0x19 0 a 0 0)
  | .callr a => some (packS 0x19 0 a 0 1)
  | .ret => some (packS 0x19 0 0 0 2)
  | .ld d a off sz sx => some (packM 0x20 d a off (sizeCode sz) (bit sx))
  | .st d a off sz => some (packM 0x21 d a off (sizeCode sz) 0)
  | .lda d a sc sz => some (packS 0x22 d a 0 (scopeCode sc ++ wsizeCode sz ++ 0#6))
  | .str a b sc sz => some (packS 0x22 0 a b (scopeCode sc ++ wsizeCode sz ++ 1#6))
  | .aadd d a b sc sz o => some (encodeAtom d a b sc sz o 0)
  | .aand d a b sc sz o => some (encodeAtom d a b sc sz o 1)
  | .aor d a b sc sz o => some (encodeAtom d a b sc sz o 2)
  | .axor d a b sc sz o => some (encodeAtom d a b sc sz o 3)
  | .amin d a b sc sz o => some (encodeAtom d a b sc sz o 4)
  | .amax d a b sc sz o => some (encodeAtom d a b sc sz o 5)
  | .aminu d a b sc sz o => some (encodeAtom d a b sc sz o 6)
  | .amaxu d a b sc sz o => some (encodeAtom d a b sc sz o 7)
  | .aswp d a b sc sz o => some (encodeAtom d a b sc sz o 8)
  | .acas d a b sc sz o => some (encodeAtom d a b sc sz o 9)
  | .afadd d a b sc o => some (encodeAtom d a b sc .w o 10)
  | .fence p q sc => some (packF 0x24 p q (scopeCode sc) 0)
  | .vld r a off => some (packW 0x25 r a off 0)
  | .vst r a off => some (packW 0x25 r a off 1)
  | .vldx m d sz a b => some (packV 0x26 m d (elemCode sz ++ a) b 0)
  | .vstx m d sz a b => some (packV 0x26 m d (elemCode sz ++ a) b 1)
  | .csrr d c => some (packC 0x30 d 0 c 0)
  | .csrw d a c => some (packC 0x30 d a c 1)
  | .csrs d a c => some (packC 0x30 d a c 2)
  | .csrc d a c => some (packC 0x30 d a c 3)
  | .csrwi d a c => some (packC 0x30 d a c 4)
  | .trap a => some (packS 0x31 0 a 0 1)
  | .eret => some (packS 0x31 0 0 0 2)
  | .brk => some (packS 0x31 0 0 0 3)
  | .yield => some (packS 0x31 0 0 0 4)
  | .exit a => some (packS 0x31 0 a 0 5)
  | .wfe => some (packS 0x31 0 0 0 6)
  | .chkpt a => some (packS 0x31 0 a 0 7)
  | .ipf a => some (packS 0x31 0 a 0 8)
  | .send d a b => some (packS 0x32 d a b 0)
  | .waitc d a b => some (packS 0x32 d a b 1)
  | .cntr d a => some (packS 0x32 d a 0 2)
  | .cntadd d a b => some (packS 0x32 d a b 3)
  | .rkmap d a b => some (packS 0x32 d a b 4)
  | .rkmove d a b => some (packS 0x32 d a b 5)
  | .barinit a b => some (packS 0x33 0 a b 0)
  | .bararr d a => some (packS 0x33 d a 0 1)
  | .barwait a b => some (packS 0x33 0 a b 2)
  | .barsync d a => some (packS 0x33 d a 0 3)
  | .barq d a => some (packS 0x33 d a 0 4)
  | .help d a b => some (packS 0x34 d a b 0)
  | .hjoin d a => some (packS 0x34 d a 0 1)
  | .hitch d a => some (packS 0x34 d a 0 2)
  | .unhitch d => some (packS 0x34 d 0 0 3)
  | .self d => some (packS 0x34 d 0 0 4)
  | .enq d a b => some (packS 0x35 d a b 0)
  | .qres d a b => some (packS 0x35 d a b 1)
  | .trig => some (packS 0x35 0 0 0 2)
  | .tlink d a b => some (packS 0x35 d a b 3)
  | .launch d a b => some (packS 0x35 d a b 4)
  | .kwait d a => some (packS 0x35 d a 0 5)
  | .qpin d a b => some (packS 0x35 d a b 6)
  | .tlbinv a b => some (packS 0x36 0 a b 0)
  | .freply a b => some (packS 0x36 0 a b 1)
  | .replay => some (packS 0x36 0 0 0 2)
  | .fbread d a b => some (packS 0x36 d a b 3)
  | .fbclr a => some (packS 0x36 0 a 0 4)
  | .lunge len cnt stride fix => some (packL 0x38 len cnt stride fix 0)
  | .vadd m d a b => some (encodeV 0x40 m d a b)
  | .vsub m d a b => some (encodeV 0x41 m d a b)
  | .vmul m d a b => some (encodeV 0x42 m d a b)
  | .vfma m d a b => some (encodeV 0x43 m d a b)
  | .vfms m d a b => some (encodeV 0x44 m d a b)
  | .vfnma m d a b => some (encodeV 0x45 m d a b)
  | .vmin m d a b => some (encodeV 0x46 m d a b)
  | .vmax m d a b => some (encodeV 0x47 m d a b)
  | .vabs m d a => some (packV 0x48 m d a 0 0)
  | .vneg m d a => some (packV 0x48 m d a 1 0)
  | .vrcp m d a => some (packV 0x48 m d a 2 0)
  | .vrsq m d a => some (packV 0x48 m d a 3 0)
  | .vexp2 m d a => some (packV 0x48 m d a 4 0)
  | .vlog2 m d a => some (packV 0x48 m d a 5 0)
  | .vsqrt m d a => some (packV 0x48 m d a 6 0)
  | .vflr m d a => some (packV 0x48 m d a 7 0)
  | .vceil m d a => some (packV 0x48 m d a 8 0)
  | .vrndn m d a => some (packV 0x48 m d a 9 0)
  | .vcmpf m cc k a b => some (encodeV 0x49 m (fcondCode cc ++ 0#1 ++ k) a b)
  | .vcmpi m cc k a b => some (encodeV 0x4A m (icondCode cc ++ 0#1 ++ k) a b)
  | .viadd m d a b => some (encodeV 0x4B m d a b)
  | .visub m d a b => some (encodeV 0x4C m d a b)
  | .vimul m d a b => some (encodeV 0x4D m d a b)
  | .vand m d a b => some (encodeV 0x4E m d a b)
  | .vor m d a b => some (encodeV 0x4F m d a b)
  | .vxor m d a b => some (encodeV 0x50 m d a b)
  | .vshl m d a b => some (encodeV 0x51 m d a b)
  | .vshr m d a b => some (encodeV 0x52 m d a b)
  | .vshra m d a b => some (encodeV 0x53 m d a b)
  | .vimin m d a b => some (encodeV 0x54 m d a b)
  | .vimax m d a b => some (encodeV 0x55 m d a b)
  | .viminu m d a b => some (encodeV 0x56 m d a b)
  | .vimaxu m d a b => some (encodeV 0x57 m d a b)
  | .vsel m d a b => some (encodeV 0x58 m d a b)
  | .vperm m d a b => some (encodeV 0x59 m d a b)
  | .vcvt m d a f => some (packV 0x5A m d a (cvtCode f) 0)
  | .vred m o d a => some (packV 0x5B m (redCode o ++ d) a 0 0)
  | .vext d a n => some (packV 0x5C 0 (0#2 ++ d) a (0#3 ++ n) 0)
  | .vins d n b => some (packV 0x5C 0 d (0#3 ++ n) (0#2 ++ b) 1)
  | .vpackBf16 m d a b => some (packV 0x5D m d a b 0)
  | .vpackF16 m d a b => some (packV 0x5D m d a b 1)
  | .vmov m d b => some (encodeV 0x5E m d 0 b)
  | .mand d a b => some (packS 0x5F (small d) (small a) (small b) 0)
  | .mor d a b => some (packS 0x5F (small d) (small a) (small b) 1)
  | .mxor d a b => some (packS 0x5F (small d) (small a) (small b) 2)
  | .mandn d a b => some (packS 0x5F (small d) (small a) (small b) 3)
  | .mnot d a => some (packS 0x5F (small d) (small a) 0 4)
  | .mmov d a => some (packS 0x5F (small d) (small a) 0 5)
  | .mpopc d a => some (packS 0x5F d (small a) 0 6)
  | .mfirst d a => some (packS 0x5F d (small a) 0 7)
  | .mset d a => some (packS 0x5F (small d) a 0 8)
  | .mget d a => some (packS 0x5F d (small a) 0 9)
  | .mma d a b ka kb => some (packE 0x60 (small d) a b (bit ka ++ bit kb ++ 0#2) 0)
  | .mzero d => some (packE 0x60 (small d) 0 0 0 1)
  | .mst d a => some (packE 0x60 (small d) a 0 0 2)
  | .mld d a => some (packE 0x60 (small d) a 0 0 3)
  | .mwait d => some (packE 0x60 (small d) 0 0 0 4)
  | .mchk d a b ka kb => some (packE 0x60 (small d) a b (bit ka ++ bit kb ++ 0#2) 5)
  | .rinit d a b => some (packE 0x61 d a b 0 0)
  | .rpush d a b => some (packE 0x61 d a b 0 1)
  | .rsub d a b st => some (packE 0x61 d a b (bit st ++ 0#3) 2)
  | .runsub d a => some (packE 0x61 d a 0 0 3)
  | .rstat d a => some (packE 0x61 d a 0 0 4)
  | .cpy d => some (packE 0x62 d 0 0 0 0)
  | .cwait d a => some (packE 0x62 d a 0 0 1)
  | .cstat d a => some (packE 0x62 d a 0 0 2)
  | .sopen d a => some (packE 0x63 d a 0 0 0)
  | .spop d a b => some (packE 0x63 d a b 0 1)
  | .spush d a b => some (packE 0x63 d a b 0 2)
  | .mgopen d a b => some (packE 0x64 d a b 0 0)
  | .mgpush d a b => some (packE 0x64 d a b 0 1)
  | .mgend d a => some (packE 0x64 d a 0 0 2)
  | .mgpop d a b => some (packE 0x64 d a b 0 3)
  | .mgstat d a b => some (packE 0x64 d a b 0 4)
  | .mgdrain d a => some (packE 0x64 d a 0 0 5)
  | .ilopen d a b => some (packE 0x65 d a b 0 0)
  | .ilins d a b => some (packE 0x65 d a b 0 1)
  | .ilsend d a b => some (packE 0x65 d a b 0 2)
  | .ilcut d a => some (packE 0x65 d a 0 0 3)
  | .ilcomp d a b => some (packE 0x65 d a b 0 4)
  | .ilread d a b => some (packE 0x65 d a b 0 5)
  | .ilclose d a => some (packE 0x65 d a 0 0 6)
  | .ilstat d a => some (packE 0x65 d a 0 0 7)
  | .hnew d a => some (packE 0x66 d a 0 0 0)
  | .hcopy d a => some (packE 0x66 d a 0 0 1)
  | .hdrop a => some (packE 0x66 0 a 0 0 2)
  | .hbind d a b => some (packE 0x66 d a b 0 3)
  | .hwgt d a => some (packE 0x66 d a 0 0 4)
  | .haddr d a => some (packE 0x66 d a 0 0 5)
  | .hmerge d a b => some (packE 0x66 d a b 0 6)
  | .boxt m d a b => some (packV 0x68 m d a b 0)
  | .trit m d a b => some (packV 0x69 m d a b 0)
  | .splt m d a b => some (packV 0x6A m d a b 0)
  | .edge m d a b => some (packV 0x6B m d a b 0)
  | .texl m d a b => some (packV 0x6C m d a b 0)
  | .texd m d a b => some (packV 0x6D m d a b 0)
  | .csrWriteFrm .. => none
  | .csrAccessFflags .. => none
  | .csrReadCflags .. => none
  | .csrWriteStatus .. => none
  | .csrWriteWindow .. => none
  | .csrWriteMfmt .. => none
  | .csrWriteMerr .. => none
  | .csrWriteDomain .. => none
  | .csrWriteHpmcnt .. => none
  | .csrWriteOther .. => none
  | .matOpRetire .. => none
  | .loaderSlotLand .. => none
  | .storerSlotWritten .. => none
  | .copyUnitDone .. => none
  | .streamReadDone .. => none
  | .mergeAccept .. => none
  | .mergeEmit .. => none
  | .listEngineOperation .. => none
  | .listArrival .. => none
  | .halterHomeReply .. => none
  | .tensorWeightArrival .. => none
  | .cellWeightArrival .. => none
  | .storeBufferDrain .. => none
  | .cflagsAccrual .. => none
  | .messageLanding .. => none
  | .domainBarrierCompletion .. => none
  | .waittoExpiry .. => none
  | .pageWalkComplete .. => none
  | .faultMessageArrival .. => none
  | .mailboxCommand .. => none
  | .chkmaxExpiry .. => none
  | .dealDecision .. => none
  | .kernelRetirement .. => none
  | .queueSwapComplete .. => none
  | .deadlockDeclaration .. => none
  | .encodeFrame .. => none
  | .harnessFlitReceive .. => none
  | .harnessNak .. => none
  | .laneLockLoss .. => none
  | .linkTrainingResult .. => none
  | .trainingRetryTimer .. => none
  | .typoroContextCreate .. => none
  | .typoroTeardown .. => none
  | .typoroPaddockDefine .. => none
  | .typoroMapMemory .. => none
  | .typoroUnmapMemory .. => none
  | .typoroCopyToDevice .. => none
  | .typoroCopyToHost .. => none
  | .typoroLaunch .. => none
  | .typoroQueueCreate .. => none
  | .typoroQueueDestroy .. => none
  | .typoroQueuePin .. => none
  | .typoroPreempt .. => none
  | .typoroResume .. => none
  | .typoroGroupMove .. => none
  | .typoroEventRead .. => none
  | .typoroWsWindowOpen .. => none
  | .typoroWsWindowClose .. => none
  | .typoroLinkConfig .. => none
  | .typoroRouteSet .. => none
  | .typoroEncoderSetup .. => none
  | .typoroAttestationQuote .. => none
  | .typoroPatchLoad .. => none
  | .typoroRepeatedCommand .. => none
  | .typoroBadCommand .. => none
  | .powerOn .. => none
  | .grcResetN .. => none
  | .smbusResetWrite .. => none
  | .smbusWriteOther .. => none
  | .sensorSample .. => none
  | .coolantStepTimer .. => none
  | .lifetimeRecordWrite .. => none
  | .illegal .. => none
  | .powerLoss .. => none
  | .voltageDroop .. => none
  | .forwardedAccess .. => none
  | .uetPacket .. => none
  | .instructionCacheFill .. => none

end Sys2Proof
end

