-- ==== Sys2Proof/Config.lean ====
section
/-! DEFINITION. What the manual leaves open: free values (constants without a body, applied to a plain counter of the
state or to what they depend on) and the facts of one part that no rule states. Nothing can be proved about a value
of one of these but what holds of every value. -/

namespace Sys2Proof.Config

/-- Core cycles that pass between two readings of a clock (R80, R59). Free value, log entry 6. -/
opaque elapsedCycles : Nat → Word
/-- Nanoseconds that pass between two readings of TIME (R80). Free value, log entry 6. -/
opaque elapsedNs : Nat → Word
/-- Refresh phase of a die's weight store when it is read (R135). Free value, log entry 6. -/
opaque wsPhase : Nat → BitVec 16
/-- Which thread's turn it is when the agenda is empty (R59 between cores). Free value, Log entry 5. -/
opaque turnChoice : Nat → Nat
/-- The bitstream of an encoded frame (R336): the manual names the formats and gives no bits. Free value, log entry 10. -/
opaque bitstream : Nat → List Byte
/-- A byte read from a page that another device holds (R178). Free value, log entry 6. -/
opaque remoteByte : Nat → Byte
/-- The 244-byte payloads of the flits that a message to another device becomes (R325): the manual gives a message's
flits no layout. Free value, log entry 10. -/
opaque messageFlits : Nat → List (List Byte)
/-- How many times a matrix operation in checksum mode meets a mismatch (R124): 0, 1 or at least 2. A mismatch comes from a
fault of the part, which no rule foretells. Free value, log entry 6. -/
opaque checkMismatch : Nat → Nat
/-- What the home of a tensor on another device answers (R319, R322). Free value, log entry 6. -/
opaque remoteReply : Nat → Word
/-- Whether the other device's NI refuses a forwarded access (R178). Free value, log entry 6. -/
opaque remoteRefuses : Nat → Bool
/-- SHA-512, whose definition lies outside the manual (R337, R341, R342). Log entry 10. -/
opaque sha512 : List Byte → BitVec 512
/-- The seed of the controller's Ed25519 key pair (R342). Log entry 10. -/
opaque keySeed : BitVec 256
/-- Ed25519: the public key of a seed, and the signature of a message under a seed (R342). Log entry 10. -/
opaque edPublic : BitVec 256 → BitVec 256
opaque edSign : BitVec 256 → List Byte → BitVec 512
/-- Whether a 64-byte signature over the bytes holds under the patch key (R335). -/
opaque patchSignatureHolds : List Byte → List Byte → Bool
/-- The product form: the SD8-M module, or else the SD8-P (R6, R338). -/
opaque moduleForm : Bool
/-- Checksum reruns of one bring-up's self-test (R337). Free value, log entry 6. -/
opaque selfTestReruns : Nat → Nat
/-- Whether a loss of input power tears the record copy that is written next (R341). Free value, log entry 6. -/
opaque tornWrite : Nat → Bool
/-- The controller's public key (R342). -/
def publicKey : BitVec 256 := edPublic keySeed
/-- The ROM's version (R335, R342). -/
opaque romVersion : W32
/-- The ROM image, 1 MiB (R335, R342). -/
opaque romImage : List Byte
/-- The ROM's SHA-512 digest as the fuses hold it (R337). -/
opaque fusedDigest : BitVec 512
/-- Whether a step of a bring-up fails other than by the ROM's digest (R337). Free value, log entry 6. -/
opaque bringUpFails : Nat → Bool
/-- The board strap of the power limit in milliwatts (R338). -/
opaque powerLimit : Nat
/-- Which of the versions that a word of code has had since the kernel's launch a fetch gives (R43). Free value, log entry 6. -/
opaque fetchVersion : Nat → Nat
/-- Which of the groups that ask is dealt to (R225, R363). Free value, log entry 5. -/
opaque groupChoice : Nat → Nat
/-- How many turns are taken freely before the next round, in which every part that can go on does so once (R59; log entry 9).
Free value, log entry 5. -/
opaque roundGap : Nat → Nat
/-- The message that the payloads of flits from a device make, where they make one (R325, R326): a list of numbers and bytes in the
model's own order. Free value, log entry 10. -/
opaque arrivedMessage : Nat → List (List Byte) → Option (List Nat × List Byte)
/-- What AES-GCM under a 256-bit key makes of a secured packet: `none` where its tag does not hold (R331). Log entry 10. -/
opaque gcmOpens : List Byte → List Byte → Option (List Byte)
/-- What AES-GCM under a 256-bit key makes of the bytes of a message that leaves (R331). Log entry 10. -/
opaque gcmSeals : Nat → List Byte → List Byte → List Byte
/-- How many bytes of a message one packet of a front port carries, taken between 1 and 9,216 (R331): the manual gives the frame's limit
and not what its headers and tag take. Log entry 10. -/
opaque packetRoom : Nat
/-- The entropy value of the packets that the device sends on a connection (R331). Free value, log entry 6. -/
opaque entropy : Nat → Nat
/-- Whether the context's HBM has room for the save area of a creation (R254). Free value, log entry 6. -/
opaque saveAreaFits : Nat → Bool
/-- The compute die whose weight store holds a weight-store address, modulo 4 (R15): the manual gives no layout. Log entry 13. -/
opaque ownerDie : Nat → Nat
/-- The HBM channel of an address, modulo 256, 32 of each stack (R8, R341): the manual gives no layout. Log entry 13. -/
opaque hbmChannel : Nat → Nat
/-- How many errors of an HBM channel were corrected since the record's last write (R341). Free value, log entry 6. -/
opaque corrected : Nat → Nat → Nat

end Sys2Proof.Config
end

