-- ==== Sys2Proof/Machine/State.lean ====
section
/-! DEFINITION. The state of one SD8 as plain data, the outcomes of a step, and the state after reset. Numbered things
(registers, cores, contexts, queues) are tables that list what was written; an unlisted number holds its reset value. -/

namespace Sys2Proof.Machine

open Sys2Proof

/-- Why the machine stops. -/
inductive Fault where
  /-- Raised by `step` for a turn of a core while the dies have no power (R339). Safe: the device is off. -/
  | deviceOff
  deriving DecidableEq, Repr

/-- Why a step has no meaning. -/
inductive Refusal where
  /-- An instruction the model has no meaning for; raised by an arm of `exec` only. Safe: nothing is claimed of it. -/
  | notModelled (mnemonic : String)
  deriving DecidableEq, Repr

/-- A row: 512 bits, lane `i` being bits `32 i + 31` to `32 i` (R88). -/
abbrev Row := BitVec 512

/-- A byte memory: addresses strictly rising, no entry equal to what an unlisted address reads as. -/
abbrev Mem := List Host.Cell

/-- A thread by the device-wide number of its core (R12) and its slot (R58). -/
structure ThreadId where
  core : Nat
  slot : Nat
  deriving DecidableEq, Repr

/-- Where the bytes of an access live once it is translated: local memory of the core, HBM or weight store by physical
address, or another device by virtual address (R128, R173, R178). -/
inductive Place where
  | loc (off : Nat)
  | hbm (pa : Nat)
  | weight (pa : Nat)
  | remote (dev : Nat) (va : Nat)
  deriving DecidableEq, Repr

/-- A job card as LAUNCH reads it (Table 13-1), with the outputs that the block at `outAt` declares (R241). -/
structure Card where
  addr   : Word
  entry  : Word
  args   : Word
  count  : Nat
  rbytes : Nat
  queue  : Nat
  minchunk : Nat
  gangs  : Nat
  gsize  : Nat
  level  : Nat
  cores  : Bool
  ord    : Bool
  outs   : List (Nat × Nat)
  outAt  : Word
  tvec   : Word
  stack  : Nat
  chk    : Bool
  chkmax : W32
  deriving DecidableEq, Repr

/-- What a BLOCKED thread waits for (Tables 5-1, 11-7; R264). A HJOIN's wait keeps whether another HJOIN has taken the value (R62). A
RUNSUB's wait keeps what its own subscription had transferred when that ended; a HAL instruction's its place in the halter unit's order of
acceptance (R317, R366). -/
inductive Wait where
  | counter (c : Nat) (t : W32)
  | barrier (b : Nat) (gen : W32)
  | barSync (b : Nat) (gen : W32)
  | join (slot : Nat) (order : Nat) (gone : Bool)
  | copies (last : W32)
  | kernel (kid : W32)
  | latch
  | tile (t : Nat)
  | check (id : Nat)
  | ringSlot (rings : List Nat) (push : Bool)
  | ringPush (ring n : Nat)
  | unsub (ring target : Nat) (ended : Option Nat)
  | ranges (n : Nat)
  | transit (rank : Nat)
  | landing (rank : Nat) (old : Word)
  | swap (die handle : Nat)
  | page (die entry : Nat)
  | fence
  | hitch (addr : Word) (mask : BitVec 16)
  | halter (num status : Nat) (card : Option Card) (asked : Bool)
  | listEngine
  | storeBuffer
  | mergeDrain (mctx : Nat)
  | icache
  | stall
  | tlbinv (walks : List Nat)
  deriving DecidableEq, Repr

/-- Thread slot states (Table 5-1). PARKED keeps whether the park was hard (R260). -/
inductive SlotState where
  | free
  | ready
  | blocked (w : Wait) (limit : W32)
  | done (v : Word)
  | parked (hard : Bool) (before : Option (Wait × W32))
  deriving DecidableEq, Repr

/-- The lunge record of R112, and (with the captured words) a replay in progress of R109. -/
structure LungeRec where
  addr   : Word
  len    : Nat
  cnt    : Nat
  stride : BitVec 7
  fix    : BitVec 3
  p      : Nat
  j      : Nat
  words  : List W32
  deriving DecidableEq, Repr

/-- A FENCE that holds later instructions: its sets, its scope, the serial before which operations count, and the completion points of the
list engine that the thread had passed at it (R166, R284). -/
structure FenceRec where
  pred  : BitVec 8
  succ  : BitVec 8
  scope : Scope
  bound : Nat
  seen  : Nat
  deriving DecidableEq, Repr

/-- A member's hitch record: fused mask, leader, instructions of the stream it has executed (R218, R222). -/
structure HitchRec where
  mask   : BitVec 16
  leader : Nat
  pos    : Nat
  deriving DecidableEq, Repr

/-- A register, row or mask that an engine has still to write (R93). -/
inductive Pend where
  | reg (n : Nat)
  | row (r : Nat)
  | mask (m : Nat)
  deriving DecidableEq, Repr

/-- The record of a copy that CSTAT and CWAIT read (R149, R150, Tables 8-13, 8-14). -/
inductive CopyState where
  | queued | running | held | done | failed (cause : Nat) (addr : Word)
  deriving DecidableEq, Repr

structure CopyRec where
  tag     : W32
  state   : CopyState
  zeroed  : Nat
  written : Nat
  deriving DecidableEq, Repr

/-- What a thread's DOMAIN barrier arrival says: the instance's generation joined, and messages it had sent (R212). -/
structure Arrival where
  gen    : W32
  serial : Nat
  deriving DecidableEq, Repr

/-- One thread slot. `woke` is the wait that has ended at an instruction which has still to issue again, with its WAITTO sample
(Table 5-1, R209, R213); `points`: the registers and rows that hold what the list engine wrote, each with how far the engine had come
then, and `ilSeen` how far it had come at the latest of the completion points that the thread has passed (R284); `filled`: an
instruction-cache miss of the thread has been filled and it has not issued since. -/
structure Thread where
  state     : SlotState
  ctx       : Nat
  pc        : Word
  gregs     : Tbl Word
  phys      : Tbl Word
  dead      : BitVec 88
  wptr      : Nat
  resident  : Nat
  spilled   : Nat
  masks     : Tbl (BitVec 16)
  rows      : Tbl Row
  csrs      : Tbl Word
  latch     : Bool
  lunge     : Option LungeRec
  replay    : Option LungeRec
  opNum     : W32
  copyTag   : W32
  copyRecs  : List CopyRec
  fences    : List FenceRec
  pend      : List Pend
  hitch     : Option HitchRec
  trigDone  : Bool
  arrival   : Option Arrival
  woke      : Option (Wait × W32)
  points    : List (Pend × Nat)
  ilSeen    : Nat
  filled    : Bool
  chkSample : W32
  yieldMask : BitVec 11
  born     : Nat
  word      : W32
  faultVa   : Word
  table    : List Word
  deriving DecidableEq, Repr

/-- A named barrier (Table 11-4); `members = 0` is FREE. G of a FREE barrier is kept for BARWAIT as 0 (R209). -/
structure NamedBar where
  isOpen  : Bool
  members : BitVec 11
  arrived : BitVec 11
  gen     : W32
  deriving DecidableEq, Repr

/-- Ring states (Table 7-1). -/
inductive RingState where
  | free | opened | loading | storing | failed
  deriving DecidableEq, Repr

/-- A loader or storer subscription (Table 7-7) and its progress. -/
structure Sub where
  thread  : ThreadId
  gaddr   : Word
  n       : Nat
  rows    : Nat
  rowBytes : Nat
  rowStride : Word
  slotStride : Word
  user    : Bool
  held    : Bool
  serial  : Nat
  deriving DecidableEq, Repr

structure Ring where
  state   : RingState
  base    : Word
  slotBytes : Nat
  count   : Nat
  fmt     : Nat
  pushEv  : Bool
  popEv   : Bool
  head    : Nat
  tail    : Nat
  occ     : Nat
  sub     : Option Sub
  moved   : Nat
  deriving DecidableEq, Repr

/-- MAT operations (Table 7-5). -/
inductive MatKind where
  | mma | mchk | mzero | mst | mld
  deriving DecidableEq, Repr

/-- An accepted matrix operation with what it sampled (R56, R119). -/
structure MatOp where
  id    : Nat
  slot  : Nat
  kind  : MatKind
  tile  : Nat
  ra    : Nat
  rb    : Nat
  keepA : Bool
  keepB : Bool
  opNum : W32
  mfmt  : Word
  msca  : Word
  mscb  : Word
  frm   : Word
  serial : Nat
  deriving DecidableEq, Repr

/-- An accepted copy with what it sampled (R148) and how far it has come (R151); `map` is the part that it has made of the map byte it is
at (mode 1, R145). -/
structure Copy where
  slot    : Nat
  tag     : W32
  src     : Word
  dst     : Word
  len     : Nat
  rows    : Nat
  sstr    : Word
  dstr    : Word
  mode    : Nat
  f8b     : Bool
  scope   : Nat
  user    : Bool
  row     : Nat
  srcOff  : Nat
  dstOff  : Nat
  map     : Byte
  held    : Bool
  heldVa  : Word
  rangeId : Nat
  serial  : Nat
  deriving DecidableEq, Repr

/-- An SPOP that a stream unit has accepted and not carried out: who issued it, the row it writes, the elements read and the places
of those still to be read (R155, R366). -/
structure StrmOp where
  slot   : Nat
  serial : Nat
  row    : Nat
  got    : List W32
  todo   : List Place
  deriving DecidableEq, Repr

/-- A stream (R153, R155): its sampled registers, the index it has come to, what its reads have brought, and the accepted SPOPs that
wait for their elements. -/
structure Strm where
  isOpen : Bool
  slot   : Nat
  abase  : Word
  bbase  : Word
  count  : Nat
  signed : Bool
  scatter : Bool
  esize  : Nat
  user   : Bool
  i      : Nat
  fetched : List W32
  fetchedN : Nat
  held   : Option (Nat × Nat)
  heldVa : Word
  failed : Option (Nat × Word)
  ops    : List StrmOp
  prot   : List (Nat × Word)
  serial : Nat
  deriving DecidableEq, Repr

/-- An entry of the range-lock table (R156). -/
structure RangeLock where
  id     : Nat
  isDest : Bool
  lo     : Nat
  hi     : Nat
  deriving DecidableEq, Repr

/-- A store that has not drained: who issued it, the completion points of the list engine that its thread had passed (R284), what it
writes, whether it is a release (R132, R139). -/
structure StoreEnt where
  slot    : Nat
  serial  : Nat
  seen    : Nat
  writes  : List (Place × List Byte)
  release : Option Scope
  deriving DecidableEq, Repr

/-- An answer record as eight lanes (Table 16-1). -/
structure Answer where
  tin    : W32
  tout   : W32
  tau    : W32
  gr     : W32
  cb     : W32
  fk     : W32
  source : W32
  user   : W32
  deriving DecidableEq, Repr

inductive RayState where
  | free | opened | composited
  deriving DecidableEq, Repr

inductive OvfMode where
  | collapse | spill | trap
  deriving DecidableEq, Repr

/-- A spill write that is not performed (R275): the entry's number and bytes, the operation whose overflow it is (slot 11 for an
arrival), and its place in the engine's order (R284). -/
structure SpillWrite where
  idx    : Nat
  answer : Answer
  slot   : Nat
  serial : Nat
  order  : Nat
  deriving DecidableEq, Repr

/-- A ray slot (R265, Tables 16-2, 16-3, 16-6). -/
structure RaySlot where
  state    : RayState
  opener   : ThreadId
  tmin     : W32
  tmax     : W32
  tauStop  : W32
  mode     : OvfMode
  cen      : Bool
  ctr      : Nat
  area     : Word
  cap      : Nat
  entries  : List Answer
  cut      : W32
  inserted : Nat
  culled   : Nat
  spilledN : Nat
  arrivals : Nat
  lossy    : Bool
  spilledF : Bool
  mixed    : Bool
  conflict : Bool
  remoteOvf : Bool
  late     : Bool
  rangeId  : Option Nat
  writes   : List SpillWrite
  wheld    : Option (Nat × Nat)
  wfail    : Option (Nat × Word)
  result   : Option Row
  user     : Bool
  deriving DecidableEq, Repr

/-- Operations of the list engine (Table 16-4) less ILSEND, which is a message. -/
inductive IlKind where
  | opn | ins | cut | comp | read | close | stat
  deriving DecidableEq, Repr

structure IlOp where
  slot   : Nat
  kind   : IlKind
  dest   : Nat
  ray    : Nat
  block  : List W32
  row    : Nat
  pair   : Nat
  user   : Bool
  prot   : List (Nat × Word)
  serial : Nat
  waits  : Bool
  deriving DecidableEq, Repr

/-- What a message carries to where (R200, R279, R321). -/
inductive MsgKind where
  | send (off ctr : Nat) (payload : List Byte)
  | answer (ray : Nat) (a : Answer)
  deriving DecidableEq, Repr

/-- A message on its way; `ni` is the die whose NI keeps it while its rank is in transit: its sender's, or for one of another device
that of the core it is for (R205). -/
structure Msg where
  ctx     : Nat
  kid     : W32
  srcDev  : Nat
  src     : ThreadId
  serial  : Nat
  rank    : Nat
  dev     : Nat
  core    : Nat
  kind    : MsgKind
  ni      : Nat
  held    : Bool
  deriving DecidableEq, Repr

/-- Weight on its way to a tensor entry or a cell (R316, R321). -/
inductive WDest where
  | tensor (ctx dev die id : Nat)
  | cell (dev die cell : Nat)
  deriving DecidableEq, Repr

structure Weight where
  dest   : WDest
  amount : Nat
  ctx    : Nat
  kid    : W32
  src    : ThreadId
  serial : Nat
  deriving DecidableEq, Repr

/-- An answer in a core's arrival buffer, with the message that brought it, which is in flight until it is applied (R279, R201). -/
structure Arrived where
  msg    : Msg
  ray    : Nat
  answer : Answer
  deriving DecidableEq, Repr

/-- A core and what it shares among its threads. `drops`: HDROPs that the halter unit has accepted behind another operation, with
their places in its order (R317, R366); `helpersNext`: a hitch has issued and the core's next cycle is its helpers' (R220). -/
structure Core where
  threads  : Tbl Thread
  counters : Tbl W32
  bars     : Tbl NamedBar
  mem      : Mem
  eccBad   : List Nat
  csrs     : Tbl Word
  cycle    : Word
  rings    : Tbl Ring
  matQ     : List MatOp
  matId    : Nat
  matFail  : List Nat
  copies   : List Copy
  streams  : Tbl Strm
  ranges   : List RangeLock
  rangeNext : Nat
  stores   : List StoreEnt
  rays     : Tbl RaySlot
  ilQ      : List IlOp
  ilTurn   : Bool
  arrivals : List Arrived
  drops    : List (Nat × Weight)
  group    : Option (Nat × Nat)
  line     : Bool
  hardNow  : Bool
  lastIss  : Nat
  helpersNext : Bool
  serial   : Nat
  subId    : Nat
  deriving DecidableEq, Repr

/-- A TLB entry: a page of a context, its frame, its leaf's rights, and the leaf whose D a write through it is still to set
(R176, R180). -/
structure TlbEnt where
  ctx   : Nat
  va    : Nat
  size  : Nat
  kind  : PageKind
  frame : Nat
  r : Bool
  w : Bool
  x : Bool
  u : Bool
  d : Bool
  m : Bool
  owesD : Option Nat
  deriving DecidableEq, Repr

/-- Merge context states (Table 18-2). -/
inductive MgState where
  | free | opened | spilled | done | failed
  deriving DecidableEq, Repr

inductive MgOut where
  | area | ring | pop
  deriving DecidableEq, Repr

/-- A pair that a port has pushed and the network has not taken: port, slot of the thread, context, number of the push, its
serial on the core, pair (R302, R310). -/
structure MergePush where
  port : Nat
  slot : Nat
  mctx : Nat
  push : Nat
  serial : Nat
  coord : W32
  val  : W32
  deriving DecidableEq, Repr

/-- One write that a merge context has in progress: a pair to the output area, the run of a list of pairs, the header with its
DRAINED bit; or the header's reading at a resume (R302-R307, R312). -/
inductive MgStep where
  | out (pair : W32 × W32)
  | run (pairs : List (W32 × W32))
  | head (drained : Bool)
  | restore
  deriving DecidableEq, Repr

/-- A merge context (R299-R312). A buffered pair is (port, coordinate, value); `owes` are the writes in progress, the first of them
under way; `drained`: a drain has begun, after which the context takes nothing more. -/
structure MergeCtx where
  state   : MgState
  holder  : ThreadId
  desc    : Word
  out     : Word
  outcap  : Nat
  members : BitVec 16
  cap     : Nat
  spill   : Word
  sbytes  : Nat
  outk    : MgOut
  dz      : Bool
  round   : Nat
  user    : Bool
  buf     : List (Nat × W32 × W32)
  ended   : BitVec 16
  pushed  : BitVec 16
  last    : Tbl W32
  popQ    : List (W32 × W32)
  slot    : List (W32 × W32)
  emitted : Nat
  zeros   : Nat
  discard : Nat
  runs    : Nat
  next    : Nat
  idle    : Tbl Nat
  ranges  : List Nat
  held    : Option (Nat × Nat)
  owes    : List MgStep
  drained : Bool
  serial  : Nat
  deriving DecidableEq, Repr

structure Cluster where
  cflags    : BitVec 5
  onTheWay  : BitVec 5
  l1        : List TlbEnt
  merge     : Tbl MergeCtx
  mq        : List MergePush
  mqNext    : Nat
  mqLast    : Nat
  available : Bool
  icMisses  : List ThreadId
  deriving DecidableEq, Repr

/-- Who waits at a coalescing entry or acts on a translation (Table 10-9). -/
inductive Requester where
  | thread (t : ThreadId)
  | copy (core : Nat)
  | ring (core ring : Nat)
  | stream (core n : Nat)
  | ray (core slot : Nat)
  | merge (cluster n : Nat)
  | tcb (ctx : Nat) (kid : W32)
  | encoder (eng : Nat)
  deriving DecidableEq, Repr

/-- First access kinds of a fault record (Table 10-6). -/
inductive Access where
  | read | write | atomic | fetch | copyRead | copyWrite | loader | storer | stream
  deriving DecidableEq, Repr

inductive CoalState where
  | free | walking | reported | unreported | released | waitReplay
  deriving DecidableEq, Repr

/-- Reasons of a fault (Table 10-6). -/
inductive Reason where
  | invalid | permission | compressed | migrating | malformed | remote
  deriving DecidableEq, Repr

structure Coal where
  state  : CoalState
  ctx    : Nat
  page   : Nat
  va     : Nat
  access : Access
  user   : Bool
  first  : ThreadId
  reqs   : List Requester
  seq    : Nat
  deriving DecidableEq, Repr

/-- A LIVE indirection cell (R316): the halter it holds, the returned sum, the context whose tensor the halter names. -/
structure Cell where
  held : Word
  sum  : Nat
  ctx  : Nat
  deriving DecidableEq, Repr

/-- The commands of Table 20-4 with their payloads; `bad` is an opcode that the table does not have. -/
inductive Typoro where
  | contextCreate (c : CtxSpec) | teardown | paddockDefine (sets : List (List Nat))
  | mapMemory (entries : List (Word × Word)) | unmapMemory (vas : List (Word × Word))
  | copyToDevice (va : Word) (bytes : List Byte) | copyToHost (va : Word) (len : Nat)
  | launch (card tcb : Word)
  | queueCreate (q : QueueSpec) | queueDestroy (handle : Nat) | queuePin (handle : Nat) (pin : Bool)
  | preempt | resume (paddock : Nat) | groupMove (w0 w1 : Word)
  | eventRead (io max : Nat) | wsWindowOpen | wsWindowClose
  | linkConfig (number : Option (BitVec 8)) (ports : List (Nat × Bool)) (keys : List (Nat × List Byte))
  | routeSet (dst : BitVec 8) (port : Option Nat) | encoderSetup (eng : Nat) (binds : List (Nat × Option Nat))
  | attestationQuote (nonce : List Byte) | patchLoad (image : List Byte) | bad
  deriving DecidableEq, Repr

/-- A command that the firmware has taken and not yet answered: its header, its opcode, the command itself, and whether it has
been written to the mailboxes of the dies that it affects (R14, R332). -/
structure Command where
  hdr    : CmdHdr
  opcode : Nat
  cmd    : Typoro
  posted : Bool
  deriving DecidableEq, Repr

structure Die where
  l2       : List TlbEnt
  coal     : Tbl Coal
  walkNext : Nat
  mailbox  : List Command
  resident : List (Nat × Nat)
  swaps    : List (Nat × Nat)
  aging    : List ((Nat × Nat) × Nat)
  lastDealt : Nat
  cells    : Tbl Cell
  wsPhase  : BitVec 16
  queueMiss : Nat
  deriving DecidableEq, Repr

/-- Kernel states (Table 13-3). -/
inductive KState where
  | pending | queued | running | draining | retiring | retired
  deriving DecidableEq, Repr

/-- Steps of a trigger or retirement still to be done at the TCB (R231, R232). -/
inductive TcbStep where
  | setTrg | setRetired | succ (s : Nat) (atTrigger : Bool) | finish
  deriving DecidableEq, Repr

structure Kernel where
  kid    : W32
  state  : KState
  card   : Card
  tcb    : Word
  shares : List (Nat × Nat × Nat)
  split  : Bool
  trigged : Bool
  todo   : List TcbStep
  held   : Option (Nat × Nat)
  final  : Option (Nat × Nat)
  used   : List (Nat × Nat)
  deriving DecidableEq, Repr

/-- A node chunk's or card chunk's dealing data: queue, first record, number, reservations per output (R242). -/
structure Chunk where
  queue : Nat
  first : Nat
  n     : Nat
  resv  : List (Nat × Nat)
  deriving DecidableEq, Repr

/-- Group states (Table 12-1) after placement. -/
inductive GState where
  | placed | running | retired
  deriving DecidableEq, Repr

structure Group where
  id     : Nat
  kid    : W32
  die    : Nat
  cores  : List Nat
  state  : GState
  chunk  : Option Chunk
  deriving DecidableEq, Repr

/-- A queue descriptor (Table 14-1). -/
structure Queue where
  kind     : QueueKind
  base     : Word
  template : Word
  capacity : Nat
  rbytes   : Nat
  home     : Nat
  depth    : Nat
  prio     : Nat
  pinned   : Bool
  enc      : Nat
  tail     : Nat
  head     : Nat
  reserved : Nat
  occupied : Nat
  undealt  : Nat
  kid      : W32
  card     : Option Card
  kernels  : List W32
  freed    : List Nat
  deriving DecidableEq, Repr

/-- Tensor states at home (Table 19-2); an unlisted id is FREE. -/
inductive TensorState where
  | live | dead | poisoned
  deriving DecidableEq, Repr

structure Tensor where
  state : TensorState
  sum   : Nat
  addr  : Word
  card  : Option Card
  deriving DecidableEq, Repr

/-- A fault record of the buffer (Table 10-6): its dwords, and the coalescing entry it names. -/
structure FaultRec where
  w0 : Word
  w1 : Word
  w2 : Word
  w3 : Word
  die : Nat
  entry : Nat
  deriving DecidableEq, Repr

/-- A domain instance: KERNID, level, id, container (R210). -/
structure Domain where
  key : Nat × Nat × Nat × Nat
  gen : W32
  deriving DecidableEq, Repr

/-- A supervisor event (Table 15-3) that waits for room. -/
structure Event where
  kind  : Nat
  ident : Nat
  d1    : Word
  d2    : Word
  deriving DecidableEq, Repr

/-- A core saved at a park (R261), by its cluster's place in the paddock and its COREID, with its kept merges. -/
structure Saved where
  cluster : Nat
  core    : Nat
  data    : Core
  merges  : List (Nat × MergeCtx)
  deriving DecidableEq, Repr

inductive CtxState where
  | free | active | parked | failed
  deriving DecidableEq, Repr

/-- What a park of the context is for (R260). -/
inductive ParkWhy where
  | preempt (h : CmdHdr) | teardown (h : CmdHdr) | failure | move (h : CmdHdr) (gid target : Nat) (hard : Bool)
  deriving DecidableEq, Repr

structure Ctx where
  state    : CtxState
  paddock  : Option Nat
  root     : Nat
  entry    : Word
  g1       : Word
  wbase    : Word
  wlimit   : Word
  queues   : Tbl Queue
  ranks    : Tbl Word
  kernels  : List Kernel
  lastKid  : W32
  kidIssued : Nat
  groups   : List Group
  nextGid  : Nat
  reserve  : Option (W32 × List Nat)
  declared : Bool
  domains  : List Domain
  faults   : Tbl FaultRec
  dropFlag : Bool
  dropped  : Nat
  evWait   : List Event
  evLost   : Nat
  tensors  : Tbl (Tbl Tensor)
  lastTensor : Tbl Nat
  wsOpen   : Bool
  park     : Option ParkWhy
  saved    : List Saved
  clusters : List Nat
  finals   : List (Nat × Nat × Card)
  deriving DecidableEq, Repr

inductive PadState where
  | empty | loading | occupied | parking
  deriving DecidableEq, Repr

structure Paddock where
  clusters : List Nat
  state    : PadState
  ctx      : Nat
  deriving DecidableEq, Repr

/-- A fault message on its way to a context's buffer (R184). -/
structure FaultMsg where
  ctx : Nat
  record : FaultRec
  deriving DecidableEq, Repr

/-- An event of an IO die's queue (R17). The manual gives the events and no layout: code and two words are the model's. -/
structure IoEvent where
  fatal : Bool
  code  : Nat
  a     : Word
  b     : Word
  deriving DecidableEq, Repr

/-- A flit of the replay buffer or held at an IO die: the message of this device that it belongs to (0: of another device), its
place among the flits that have come to leave this device, and how often it has been sent again (R326, R329). -/
structure SentFlit where
  flit : Flit
  tag  : Nat
  order : Nat
  resent : Nat
  deriving DecidableEq, Repr

/-- A UET connection: its number, the front port that it uses, the endpoint of its IO die that it is with, whether it is ordered, and
the packets taken on it that no command has used (R331, R332). -/
structure UetConn where
  num  : Nat
  port : Nat
  endpoint : Nat
  rod  : Bool
  packets : Nat
  deriving DecidableEq, Repr

/-- What goes to another device besides messages and weight: an access to a REMOTE page, or the answer to one and to a request of a
tensor's home; `none` says that the access was refused (R178, R317, R328). -/
inductive Outgoing where
  | access (va : Nat) (what : RemoteKind)
  | answer (bytes : Option (List Byte))
  deriving DecidableEq, Repr

/-- What waits at its IO die to leave: the thread that it is of, where it is of one, with its place among the core's operations; the bit of
a FENCE's sets that a write is of (R45); the die it comes from, the device it goes to, and what it is (R178, R328, R329). -/
structure Forward where
  src   : Option (ThreadId × Nat)
  cls   : BitVec 8
  die   : Nat
  dev   : Nat
  what  : Outgoing
  deriving DecidableEq, Repr

structure IoDie where
  events : List IoEvent
  lost   : Nat
  waiting : List IoEvent
  routes : Tbl Nat
  held   : List SentFlit
  uetDropped : Nat
  conns  : List UetConn
  keys   : List (Nat × List Byte)
  deriving DecidableEq, Repr

/-- A Typoro reply (R332): header fields, payload, the entropy value of its packets, and the frames that leave on the connection, each of
at most 9,216 bytes and sealed where it has a key (R331). -/
structure Reply where
  conn    : Nat
  seq     : W32
  isReply : Bool
  opcode  : Nat
  length  : Nat
  ctx     : Nat
  status  : Nat
  payload : List Byte
  entropy : Nat
  frames  : List (List Byte)
  deriving DecidableEq, Repr

/-- A Typoro connection: its last command's number, how many commands have been taken on it, and the replies to its last 64 numbers
(R332, R333). -/
structure Conn where
  lastSeq : Option W32
  taken   : Nat
  stored  : List Reply
  deriving DecidableEq, Repr

/-- Harness link states (Table 20-2). -/
inductive LinkState where
  | down | training | up | degraded | retrain | failed
  deriving DecidableEq, Repr

structure Port where
  state    : LinkState
  attempts : Nat
  waitRetry : Bool
  txSeq    : BitVec 12
  rxSeq    : BitVec 12
  unacked  : List SentFlit
  received : List Flit
  credits  : Nat
  owed     : Nat
  sent     : List Flit
  deriving DecidableEq, Repr

/-- A UET message that an encode engine has sent: front port, connection, the entropy value of its packets, the header's dwords,
the bitstream, and the frames that leave, each of at most 9,216 bytes and sealed where the connection has a key (R331, R336). -/
structure Stream where
  port : Nat
  conn : Nat
  entropy : Nat
  w0 : Word
  w1 : Word
  w2 : Word
  bits : List Byte
  frames : List (List Byte)
  deriving DecidableEq, Repr

/-- A frame record of an encoder queue: context, handle, slot (R247). -/
structure FrameRef where
  ctx    : Nat
  handle : Nat
  slot   : Nat
  deriving DecidableEq, Repr

/-- An encode engine: endpoints bound, the page it is held on, the record that it took last, the records that got a fatal reply, whether
the done write did, the done write that is still to be made (context, die, address, value), streams sent (R247, R248, R336). -/
structure Encoder where
  binds : List (Nat × Nat)
  held  : Option (Nat × Nat)
  record : FrameRef
  failed : List FrameRef
  doneFails : Bool
  owes  : Option (Nat × Nat × Word × Word)
  sent  : List Stream
  deriving DecidableEq, Repr

/-- A loaded patch entry (R335): ROM offset and replacement bytes. -/
structure PatchEntry where
  off   : Nat
  bytes : List Byte
  deriving DecidableEq, Repr

/-- One lifetime record (Table 21-2). -/
structure Lifetime where
  bins     : Tbl Nat
  droops   : Tbl Nat
  hbmCorr  : Tbl Nat
  hbmUncorr : Tbl Nat
  retrains : Tbl Nat
  reruns   : Nat
  zeroed   : Nat
  hours    : Nat
  trips    : Nat
  deriving DecidableEq, Repr

/-- The Garcy controller (R337-R342). -/
structure Mgmt where
  input    : Bool
  powered  : Bool
  ready    : Bool
  cause    : BitVec 3
  tripped  : Bool
  step     : Nat
  hot      : Byte
  window   : List Nat
  holdOff  : Nat
  raiseRun : Nat
  coolRule : Bool
  life     : Lifetime
  copies   : List (Lifetime × List Byte)
  nextCopy : Nat
  secs     : Nat
  deriving DecidableEq, Repr

/-- Whose turn it is: a device step, or a core's issue cycle. -/
inductive Turn where
  | event (i : Instr)
  | core (c : Nat)
  | waitEnds (core slot : Nat)
  | homeReplies (core slot : Nat)
  | checkpointLate (core slot : Nat)
  | deadlocked (ctx : Nat)
  | icMiss (core slot : Nat)
  | icFill (cluster : Nat)
  | firmware
  | remoteLeaves (i : Nat)
  | awayLands (i : Nat)
  | storeSpreads (die dword : Nat)
  deriving DecidableEq, Repr

/-- A byte of HBM that a plain store of another die has replaced and that a die still sees: its die and address, the old byte, the
number of the store in the order of all, the thread that stored and its serial (R160, R163). -/
structure StaleByte where
  die    : Nat
  addr   : Nat
  byte   : Byte
  num    : Nat
  src    : ThreadId
  serial : Nat
  deriving DecidableEq, Repr

/-- A word of code that has been replaced since a kernel's launch: context, kernel, the word's number, its bytes (R43). -/
structure OldWord where
  ctx   : Nat
  kid   : W32
  word  : Nat
  bytes : List Byte
  deriving DecidableEq, Repr

/-- The machine. `stale` lists, the oldest first, what dies still see of bytes that plain stores of other dies have replaced (R160,
R163); `oldCode` lists every version of a word that has been replaced since a kernel was launched (R43);
`outbox` is what waits to leave for other devices; `flitNum` counts the flits that have come to leave;
`inbox` is what the firmware has taken and not answered; `roundLeft` counts the free turns before the next round (R59). -/
structure State where
  cores    : Tbl Core
  clusters : Tbl Cluster
  dies     : Tbl Die
  ctxs     : Tbl Ctx
  hbm      : Mem
  weight   : Mem
  hbmBad   : List Nat
  stale    : List StaleByte
  oldCode  : List OldWord
  paddocks : List Paddock
  msgs     : List Msg
  awayMsgs : List (Nat × Msg)
  weights  : List Weight
  awayWeights : List (Nat × Weight)
  outbox   : List Forward
  flitNum  : Nat
  faultMsgs : List FaultMsg
  ios      : Tbl IoDie
  conns    : Tbl Conn
  inbox    : List Command
  replies  : List Reply
  devNum   : Nat
  ports    : Tbl Port
  encoders : Tbl Encoder
  patches  : List PatchEntry
  patchImages : List (List Byte)
  time     : Word
  mgmt     : Mgmt
  cur      : ThreadId
  agenda   : List Turn
  roundLeft : Nat
  freeCount : Nat
  deriving DecidableEq, Repr

/-! What an unlisted number holds: the reset values. -/

/-- Reset value of a thread's or core's CSR (Tables 3-3, 5-3, 5-4, 7-3, 8-2, 8-10, 8-15, 11-7, 15-5, 17-3). -/
def csrReset (n : Nat) : Word :=
  if n = 0x030 then 0x33 else if n = 0x050 then 0x100000 else if n = 0x051 then 0x100 else 0

/-- A FREE slot's thread (R58; the values the manual gives no reset for are log entry 3). -/
def Thread.reset : Thread where
  state := .free
  ctx := 0
  pc := 0
  gregs := []
  phys := []
  dead := BitVec.allOnes 88
  wptr := 0
  resident := 1
  spilled := 0
  masks := []
  rows := []
  csrs := []
  latch := false
  lunge := none
  replay := none
  opNum := 0
  copyTag := 0
  copyRecs := []
  fences := []
  pend := []
  hitch := none
  trigDone := false
  arrival := none
  woke := none
  points := []
  ilSeen := 0
  filled := false
  chkSample := 0
  yieldMask := 0
  born := 0
  word := 0
  faultVa := 0
  table := []

def NamedBar.reset : NamedBar := { isOpen := false, members := 0, arrived := 0, gen := 0 }

def Ring.reset : Ring where
  state := .free
  base := 0
  slotBytes := 0
  count := 0
  fmt := 0
  pushEv := false
  popEv := false
  head := 0
  tail := 0
  occ := 0
  sub := none
  moved := 0

def Strm.reset : Strm where
  isOpen := false
  slot := 0
  abase := 0
  bbase := 0
  count := 0
  signed := false
  scatter := false
  esize := 0
  user := false
  i := 0
  fetched := []
  fetchedN := 0
  held := none
  heldVa := 0
  failed := none
  ops := []
  prot := []
  serial := 0

def RaySlot.reset : RaySlot where
  state := .free
  opener := ⟨0, 0⟩
  tmin := 0
  tmax := 0
  tauStop := 0
  mode := .collapse
  cen := false
  ctr := 0
  area := 0
  cap := 0
  entries := []
  cut := 0x7F800000
  inserted := 0
  culled := 0
  spilledN := 0
  arrivals := 0
  lossy := false
  spilledF := false
  mixed := false
  conflict := false
  remoteOvf := false
  late := false
  rangeId := none
  writes := []
  wheld := none
  wfail := none
  result := none
  user := false

/-- A core after reset. `lastIss` 10 makes slot 0 the first to issue (log entry 3). -/
def Core.reset : Core where
  threads := []
  counters := []
  bars := []
  mem := []
  eccBad := []
  csrs := []
  cycle := 0
  rings := []
  matQ := []
  matId := 0
  matFail := []
  copies := []
  streams := []
  ranges := []
  rangeNext := 0
  stores := []
  rays := []
  ilQ := []
  ilTurn := false
  arrivals := []
  drops := []
  group := none
  line := false
  hardNow := false
  lastIss := 10
  helpersNext := false
  serial := 0
  subId := 0

def MergeCtx.reset : MergeCtx where
  state := .free
  holder := ⟨0, 0⟩
  desc := 0
  out := 0
  outcap := 0
  members := 0
  cap := 0
  spill := 0
  sbytes := 0
  outk := .area
  dz := false
  round := 0
  user := false
  buf := []
  ended := 0
  pushed := 0
  last := []
  popQ := []
  slot := []
  emitted := 0
  zeros := 0
  discard := 0
  runs := 0
  next := 128
  idle := []
  ranges := []
  held := none
  owes := []
  drained := false
  serial := 0

def Cluster.reset : Cluster where
  cflags := 0
  onTheWay := 0
  l1 := []
  merge := []
  mq := []
  mqNext := 0
  mqLast := 15
  available := true
  icMisses := []

def Coal.reset : Coal where
  state := .free
  ctx := 0
  page := 0
  va := 0
  access := .read
  user := false
  first := ⟨0, 0⟩
  reqs := []
  seq := 0

def Die.reset : Die where
  l2 := []
  coal := []
  walkNext := 0
  mailbox := []
  resident := []
  swaps := []
  aging := []
  lastDealt := 4095
  cells := []
  wsPhase := 0
  queueMiss := 0

def Queue.reset : Queue where
  kind := .free
  base := 0
  template := 0
  capacity := 0
  rbytes := 0
  home := 0
  depth := 0
  prio := 0
  pinned := false
  enc := 0
  tail := 0
  head := 0
  reserved := 0
  occupied := 0
  undealt := 0
  kid := 0
  card := none
  kernels := []
  freed := []

def Ctx.reset : Ctx where
  state := .free
  paddock := none
  root := 0
  entry := 0
  g1 := 0
  wbase := 0
  wlimit := 0
  queues := []
  ranks := []
  kernels := []
  lastKid := 0
  kidIssued := 0
  groups := []
  nextGid := 0
  reserve := none
  declared := false
  domains := []
  faults := []
  dropFlag := false
  dropped := 0
  evWait := []
  evLost := 0
  tensors := []
  lastTensor := []
  wsOpen := false
  park := none
  saved := []
  clusters := []
  finals := []

def IoDie.reset : IoDie where
  events := []
  lost := 0
  waiting := []
  routes := []
  held := []
  uetDropped := 0
  conns := []
  keys := []

def Conn.reset : Conn where
  lastSeq := none
  taken := 0
  stored := []

def Port.reset : Port where
  state := .down
  attempts := 0
  waitRetry := false
  txSeq := 0
  rxSeq := 0
  unacked := []
  received := []
  credits := 0
  owed := 0
  sent := []

def Encoder.reset : Encoder where
  binds := []
  held := none
  record := ⟨0, 0, 0⟩
  failed := []
  doneFails := false
  owes := none
  sent := []

def Lifetime.reset : Lifetime where
  bins := []
  droops := []
  hbmCorr := []
  hbmUncorr := []
  retrains := []
  reruns := 0
  zeroed := 0
  hours := 0
  trips := 0

/-- The controller after bring-up: the dies are powered and READY reads 1 (R337, R340). -/
def Mgmt.reset : Mgmt where
  input := true
  powered := true
  ready := true
  cause := 0
  tripped := false
  step := 0
  hot := 0
  window := []
  holdOff := 0
  raiseRun := 0
  coolRule := false
  life := Lifetime.reset
  copies := []
  nextCopy := 0
  secs := 0

/-- The machine right after reset and bring-up (R337): no paddock, no context, nothing in memory. -/
def State.reset : State where
  cores := []
  clusters := []
  dies := []
  ctxs := []
  hbm := []
  weight := []
  hbmBad := []
  stale := []
  oldCode := []
  paddocks := []
  msgs := []
  awayMsgs := []
  weights := []
  awayWeights := []
  outbox := []
  flitNum := 0
  faultMsgs := []
  ios := []
  conns := []
  inbox := []
  replies := []
  devNum := 0
  ports := []
  encoders := []
  patches := []
  patchImages := []
  time := 0
  mgmt := Mgmt.reset
  cur := ⟨0, 0⟩
  agenda := []
  roundLeft := 0
  freeCount := 0

end Sys2Proof.Machine
end

