-- ==== Sys2Proof/Machine/Ops.lean ====
section
/-! DEFINITION. The named operations over the state: accessors, registers, byte memory, translation and the fault path,
taking a trap and returning from one, counting, and reporting events. -/

namespace Sys2Proof.Machine

open Sys2Proof

/-! Cores, threads, clusters, dies, contexts. -/

def State.core (s : State) (c : Nat) : Core := s.cores.get Core.reset c
def State.setCore (s : State) (c : Nat) (k : Core) : State := { s with cores := s.cores.set c k }
def State.updCore (s : State) (c : Nat) (f : Core → Core) : State := s.setCore c (f (s.core c))
def Core.thread (k : Core) (n : Nat) : Thread := k.threads.get Thread.reset n
def Core.setThread (k : Core) (n : Nat) (t : Thread) : Core := { k with threads := k.threads.set n t }
def Core.mapThreads (k : Core) (f : Thread → Thread) : Core := { k with threads := k.threads.map (fun p => (p.1, f p.2)) }
def State.thread (s : State) (t : ThreadId) : Thread := (s.core t.core).thread t.slot
def State.setThread (s : State) (t : ThreadId) (x : Thread) : State := s.updCore t.core (·.setThread t.slot x)
def State.updThread (s : State) (t : ThreadId) (f : Thread → Thread) : State := s.setThread t (f (s.thread t))
/-- The thread whose instruction runs. -/
def State.me (s : State) : Thread := s.thread s.cur
def State.setMe (s : State) (x : Thread) : State := s.setThread s.cur x
def State.updMe (s : State) (f : Thread → Thread) : State := s.updThread s.cur f
/-- The core of the thread whose instruction runs. -/
def State.myCore (s : State) : Core := s.core s.cur.core
def State.updMyCore (s : State) (f : Core → Core) : State := s.updCore s.cur.core f

def State.cluster (s : State) (n : Nat) : Cluster := s.clusters.get Cluster.reset n
def State.setCluster (s : State) (n : Nat) (c : Cluster) : State := { s with clusters := s.clusters.set n c }
def State.updCluster (s : State) (n : Nat) (f : Cluster → Cluster) : State := s.setCluster n (f (s.cluster n))
def State.die (s : State) (n : Nat) : Die := s.dies.get Die.reset n
def State.setDie (s : State) (n : Nat) (d : Die) : State := { s with dies := s.dies.set n d }
def State.updDie (s : State) (n : Nat) (f : Die → Die) : State := s.setDie n (f (s.die n))
def State.ctx (s : State) (n : Nat) : Ctx := s.ctxs.get Ctx.reset n
def State.setCtx (s : State) (n : Nat) (c : Ctx) : State := { s with ctxs := s.ctxs.set n c }
def State.updCtx (s : State) (n : Nat) (f : Ctx → Ctx) : State := s.setCtx n (f (s.ctx n))
def State.myCtx (s : State) : Ctx := s.ctx s.me.ctx
def State.io (s : State) (n : Nat) : IoDie := s.ios.get IoDie.reset n
def State.updIo (s : State) (n : Nat) (f : IoDie → IoDie) : State := { s with ios := s.ios.set n (f (s.io n)) }

/-- CLUSTERID, COREID and DIEID of a device-wide core number (R12). -/
def clusterOf (c : Nat) : Nat := c / 16
def coreIdOf (c : Nat) : Nat := c % 16
def dieOf (c : Nat) : Nat := c / 512

/-- The slots of a core, 0 to 10 (R58). -/
def slots : List Nat := List.range 11
/-- READY, BLOCKED and PARKED slots are live (R63, R264). -/
def SlotState.live (x : SlotState) : Bool :=
  match x with
  | .free => false
  | .done _ => false
  | .ready => true
  | .blocked _ _ => true
  | .parked _ _ => true
/-- READY or BLOCKED. -/
def SlotState.running (x : SlotState) : Bool :=
  match x with
  | .ready => true
  | .blocked _ _ => true
  | .free => false
  | .done _ => false
  | .parked _ _ => false
def SlotState.parkedS (x : SlotState) : Bool :=
  match x with
  | .parked _ _ => true
  | .free => false
  | .done _ => false
  | .ready => false
  | .blocked _ _ => false
/-- DONE or FREE. -/
def SlotState.ended (x : SlotState) : Bool := !x.live

/-- The threads of the device that are listed, in order of core and slot. -/
def State.threadIds (s : State) : List ThreadId :=
  s.cores.flatMap (fun p => (slots.map (fun n => (⟨p.1, n⟩ : ThreadId))))
/-- Live threads of a context (R264). -/
def State.liveOf (s : State) (x : Nat) : List ThreadId :=
  s.threadIds.filter (fun t => (s.thread t).state.live && (s.thread t).ctx == x)

/-! Registers, masks, rows (R45, R46, R67, R70, R88, R90). -/

/-- Where w `n` of the current window stands among the 88 (R67; the mapping is log entry 4). -/
def physIdx (wptr n : Nat) : Nat := (wptr + n) % 88
/-- Physical number of w `n` of the oldest of five resident frames (R67; log entry 4). -/
def oldestPhys (wptr n : Nat) : Nat := (wptr + 24 + n) % 88

/-- A register: g0 reads 0, a dead w register reads 0. -/
def Thread.reg (t : Thread) (r : Reg) : Word :=
  if r.toNat = 0 then 0
  else if r.toNat < 8 then t.gregs.get 0 r.toNat
  else
    let i := physIdx t.wptr (r.toNat - 8)
    if t.dead.getLsbD i then 0 else t.phys.get 0 i

/-- What the list engine wrote is no longer in a register or row (R284). -/
def Thread.dropPoint (t : Thread) (p : Pend) : List (Pend × Nat) := t.points.filter (fun q => q.1 != p)

/-- Write a register: g0 discards, a write revives a dead w register. -/
def Thread.setReg (t : Thread) (r : Reg) (v : Word) : Thread :=
  if r.toNat = 0 then t
  else if r.toNat < 8 then { t with gregs := t.gregs.set r.toNat v, points := t.dropPoint (.reg r.toNat) }
  else
    let i := physIdx t.wptr (r.toNat - 8)
    { t with phys := t.phys.set i v, dead := t.dead &&& ~~~(1#88 <<< i), points := t.dropPoint (.reg (8 + i)) }

/-- A register's own number whatever the window: g0-g7 are 0-7, physical windowed register `i` is 8 + i. -/
def Thread.regId (t : Thread) (r : Reg) : Nat :=
  if r.toNat < 8 then r.toNat else 8 + physIdx t.wptr (r.toNat - 8)
/-- Write a register by that number. -/
def Thread.setRegId (t : Thread) (n : Nat) (v : Word) : Thread :=
  if n = 0 then t
  else if n < 8 then { t with gregs := t.gregs.set n v, points := t.dropPoint (.reg n) }
  else { t with phys := t.phys.set (n - 8) v, dead := t.dead &&& ~~~(1#88 <<< (n - 8)), points := t.dropPoint (.reg n) }

def Thread.markDead (t : Thread) (n : Nat) : Thread :=
  { t with dead := t.dead ||| (1#88 <<< physIdx t.wptr n), points := t.dropPoint (.reg (8 + physIdx t.wptr n)) }

def Thread.row (t : Thread) (n : Nat) : Row := t.rows.get 0 (n % 128)
/-- Write a whole row. -/
def Thread.setRow (t : Thread) (n : Nat) (v : Row) : Thread :=
  { t with rows := t.rows.set (n % 128) v, points := t.dropPoint (.row (n % 128)) }
/-- Write some lanes of a row: what the list engine wrote is gone from it where all lanes are written (R284). -/
def Thread.mixRow (t : Thread) (n : Nat) (m : BitVec 16) (v : Row) : Thread :=
  { t with rows := t.rows.set (n % 128) v, points := if m = 0xFFFF then t.dropPoint (.row (n % 128)) else t.points }
/-- The list engine has written a register or row, having come so far: who reads it passes a completion point (R284). -/
def Thread.addPoint (t : Thread) (p : Pend) (n : Nat) : Thread := { t with points := t.dropPoint p ++ [(p, n)] }
/-- How far the completion points go that the thread passes by reading registers and rows (R162, R284). -/
def Thread.pointsOf (t : Thread) (ps : List Pend) : Nat :=
  (t.points.filter (fun q => ps.contains q.1)).foldl (fun m q => max m q.2) 0
def Thread.mask (t : Thread) (m : MaskCode) : BitVec 16 := if m = 0 then 0xFFFF else t.masks.get 0 m.toNat
def Thread.setMask (t : Thread) (m : MaskCode) (v : BitVec 16) : Thread :=
  if m = 0 then t else { t with masks := t.masks.set m.toNat v }

/-- Lane `i` of a row (R88). -/
def Row.lane (r : Row) (i : Nat) : W32 := r.extractLsb' (32 * i) 32
/-- The row whose lane `i` is `f i`. -/
def Row.ofLanes (f : Nat → W32) : Row :=
  (List.range 16).foldr (fun i acc => (acc <<< 32) ||| (f i).setWidth 512) 0
def lanes : List Nat := List.range 16

def Thread.csr (t : Thread) (n : Nat) : Word := t.csrs.get (csrReset n) n
def Thread.setCsr (t : Thread) (n : Nat) (v : Word) : Thread := { t with csrs := t.csrs.set n v }
def Core.csr (k : Core) (n : Nat) : Word := k.csrs.get 0 n
def Core.setCsr (k : Core) (n : Nat) (v : Word) : Core := { k with csrs := k.csrs.set n v }

/-- STATUS.SUP (Table 5-3). -/
def Thread.sup (t : Thread) : Bool := (t.csr 0).getLsbD 0
def Thread.intrap (t : Thread) : Bool := (t.csr 0).getLsbD 2
def Thread.hitched (t : Thread) : Bool := (t.csr 0).getLsbD 8
/-- Write one bit of STATUS. -/
def Thread.setStatusBit (t : Thread) (b : Nat) (v : Bool) : Thread :=
  t.setCsr 0 (if v then t.csr 0 ||| (1#64 <<< b) else t.csr 0 &&& ~~~(1#64 <<< b))
def Thread.frm (t : Thread) : RMode := RMode.ofCode (t.csr 0x010).toNat

/-- Do something as another thread. -/
def State.asThread (s : State) (t : ThreadId) (f : State → State) : State :=
  { f { s with cur := t } with cur := s.cur }

def State.reg (s : State) (r : Reg) : Word := s.me.reg r
def State.setReg (s : State) (r : Reg) (v : Word) : State := s.updMe (·.setReg r v)
def State.row (s : State) (r : RowCode) : Row := s.me.row r.toNat
def State.setRow (s : State) (r : RowCode) (v : Row) : State := s.updMe (·.setRow r.toNat v)
def State.mask (s : State) (m : MaskCode) : BitVec 16 := s.me.mask m
def State.setMask (s : State) (m : MaskCode) (v : BitVec 16) : State := s.updMe (·.setMask m v)

/-! Event counters, flags, retirement. -/

/-- Count `n` of an event on the counters of a core that select it; code 0 counts nothing (R343). -/
def Core.hpm (k : Core) (code n : Nat) : Core :=
  if code = 0 then k
  else (List.range 8).foldl (fun k i =>
    if (k.csr (0x070 + i)).toNat = code then
      k.setCsr (0x078 + i) (BitVec.ofNat 64 (((k.csr (0x078 + i)).toNat + n) % 2 ^ 48)) else k) k
def State.hpm (s : State) (c code n : Nat) : State := s.updCore c (·.hpm code n)

/-- Accrue flags: they are ORed into FFLAGS, and each bit that becomes 1 is on its way to CFLAGS (R30, R31). -/
def State.accrueAt (s : State) (t : ThreadId) (f : FFlags) : State :=
  if f = 0 then s
  else
    let old := (s.thread t).csr 0x011
    let new := f &&& ~~~(old.setWidth 5)
    (s.updThread t (·.setCsr 0x011 (old ||| f.setWidth 64))).updCluster (clusterOf t.core)
      (fun c => { c with onTheWay := c.onTheWay ||| new })
def State.accrue (s : State) (f : FFlags) : State := s.accrueAt s.cur f

/-- The place after the instruction: the next word, or the next body word of a replay (R109). -/
def Thread.stepPc (t : Thread) : Thread :=
  match t.replay with
  | none => { t with pc := t.pc + 4 }
  | some r =>
    if r.j + 1 < r.len then { t with replay := some { r with j := r.j + 1 }, pc := t.pc + 4 }
    else if r.p + 1 < r.cnt then { t with replay := some { r with p := r.p + 1, j := 0 }, pc := r.addr + 4 }
    else { t with replay := none, pc := t.pc + 4 }
/-- The last word of a pass: event 0x1A counts it (R109). -/
def Thread.endsPass (t : Thread) : Bool :=
  match t.replay with
  | none => false
  | some r => r.j + 1 == r.len

/-- An instruction retires: INSTRET and event 0x02 count it, the thread is READY, a hitch member has gone one further. -/
def Thread.retire (t : Thread) : Thread :=
  { t.setCsr 0x081 (t.csr 0x081 + 1) with
    state := .ready
    woke := none
    hitch := t.hitch.map (fun h => { h with pos := h.pos + 1 }) }
def State.retire (s : State) : State := (s.updMe Thread.retire).hpm s.cur.core 0x02 1

/-- Retire and go on behind the instruction. -/
def State.advance (s : State) : State :=
  let passes := if s.me.endsPass then 1 else 0
  (s.retire.updMe Thread.stepPc).hpm s.cur.core 0x1A passes

/-- Write a register and go on. -/
def State.put (s : State) (d : Reg) (v : Word) : State := (s.setReg d v).advance

/-- A fresh free value's number (log entry 6). -/
def State.fresh (s : State) : State := { s with freeCount := s.freeCount + 1 }
/-- TIME read: nanoseconds have passed since the last reading (R80). -/
def State.readTime (s : State) : Word × State :=
  let v := s.time + Config.elapsedNs s.freeCount
  (v, { s.fresh with time := v })

/-! Latches (R85). -/

def Core.latchAll (k : Core) : Core :=
  slots.foldl (fun k n => k.setThread n { k.thread n with latch := true }) k
def State.latchAll (s : State) (c : Nat) : State := s.updCore c Core.latchAll
def State.latchOthers (s : State) (t : ThreadId) : State :=
  s.updCore t.core (fun k => slots.foldl (fun k n =>
    if n = t.slot then k else k.setThread n { k.thread n with latch := true }) k)
def State.latchThread (s : State) (t : ThreadId) : State := s.updThread t (fun x => { x with latch := true })

/-! Byte memory. -/

/-- What no entry says reads as 0 (log entry 2). -/
def unlisted : Byte := 0

def Mem.byte (m : Mem) (a : Nat) : Byte :=
  match m with
  | [] => unlisted
  | (j, v) :: rest => if j = a then v else if a < j then unlisted else Mem.byte rest a

/-- Write a byte; writing what an unlisted address reads as removes the entry. -/
def Mem.setByte (m : Mem) (a : Nat) (b : Byte) : Mem :=
  match m with
  | [] => if b = unlisted then [] else [(a, b)]
  | (j, v) :: rest =>
    if a < j then (if b = unlisted then (j, v) :: rest else (a, b) :: (j, v) :: rest)
    else if j = a then (if b = unlisted then rest else (a, b) :: rest)
    else (j, v) :: Mem.setByte rest a b

/-- The canonical form: addresses strictly rising, no entry equal to what an unlisted address reads as. -/
def Mem.wf (m : Mem) : Bool :=
  match m with
  | [] => true
  | [(_, v)] => v != unlisted
  | (j, v) :: (k, u) :: rest => v != unlisted && j < k && Mem.wf ((k, u) :: rest)

def Mem.read (m : Mem) (a n : Nat) : List Byte := (List.range n).map (fun i => m.byte (a + i))
def Mem.write (m : Mem) (a : Nat) (bs : List Byte) : Mem :=
  match bs with
  | [] => m
  | b :: rest => Mem.write (m.setByte a b) (a + 1) rest

/-- Little-endian bytes of a number, and back. -/
def leBytes (n v : Nat) : List Byte := (List.range n).map (fun i => BitVec.ofNat 8 (v / 2 ^ (8 * i)))
def leNat (bs : List Byte) : Nat := bs.foldr (fun b acc => acc * 256 + b.toNat) 0
def wordBytes (v : Word) : List Byte := leBytes 8 v.toNat
def w32Bytes (v : W32) : List Byte := leBytes 4 v.toNat
def rowBytes (r : Row) : List Byte := leBytes 64 r.toNat
def rowOfBytes (bs : List Byte) : Row := BitVec.ofNat 512 (leNat bs)
def dwordAt (bs : List Byte) (o : Nat) : Word := BitVec.ofNat 64 (leNat ((bs.drop o).take 8))
def bits (v : Word) (hi lo : Nat) : Nat := v.toNat / 2 ^ lo % 2 ^ (hi + 1 - lo)

/-! Places. -/

def localBase : Word := 0xFFFFFFFFFFF00000#64
def localBytes : Nat := 0x80000

/-- Address classes (Table 8-1). -/
inductive AddrClass where
  | global | loc | none
  deriving DecidableEq, Repr

def addrClass (a : Word) : AddrClass :=
  if a.toNat < 2 ^ 56 then .global
  else if localBase.toNat ≤ a.toNat ∧ a.toNat < localBase.toNat + localBytes then .loc
  else .none

def localOff (a : Word) : Nat := a.toNat - localBase.toNat

def Place.plus (p : Place) (k : Nat) : Place :=
  match p with
  | .loc o => .loc (o + k)
  | .hbm a => .hbm (a + k)
  | .weight a => .weight (a + k)
  | .remote d a => .remote d (a + k)

/-- The byte a place holds in memory, less what store buffers hold; another device's byte is a free value (R178). -/
def State.memByte (s : State) (c : Nat) (p : Place) : Byte :=
  match p with
  | .loc o => (s.core c).mem.byte o
  | .hbm a => s.hbm.byte a
  | .weight a => s.weight.byte a
  | .remote _ a => Config.remoteByte (s.freeCount + a)

/-- Uncorrectable words after a write of bytes: a write of the whole word corrects it, a narrower one does not (R133). -/
def eccAfter (bad : List Nat) (o n : Nat) : List Nat :=
  bad.filter (fun w => !(o ≤ 8 * w && 8 * w + 8 ≤ o + n))

/-- The kernels of the device that are not RETIRED, and its nodes, by context and identifier (R43). The manual names no launch of a node's
identifier: a node counts as launched from its queue's creation on (log entry 36). -/
def State.liveKids (s : State) : List (Nat × W32) :=
  s.ctxs.flatMap (fun p => p.2.kernels.map (fun k => (p.1, k.kid))
    ++ (p.2.queues.filter (fun q => q.2.kind == .node)).map (fun q => (p.1, q.2.kid)))
/-- The versions that a word of HBM has had since the launch of a kernel, the current one apart. -/
def State.oldWords (s : State) (x : Nat) (kid : W32) (w : Nat) : List (List Byte) :=
  (s.oldCode.filter (fun e => e.ctx == x && e.kid == kid && e.word == w)).map (·.bytes)
/-- The words that `n` HBM bytes lie in are kept, for every live kernel, before they are replaced (R43). -/
def State.keepOld (s : State) (a n : Nat) : List OldWord :=
  let kids := s.liveKids
  let old := s.oldCode.filter (fun e => kids.contains (e.ctx, e.kid))
  old ++ (kids.flatMap (fun k => (List.range ((a + n + 3) / 4 - a / 4)).map (fun i =>
    (⟨k.1, k.2, a / 4 + i, s.hbm.read (4 * (a / 4 + i)) 4⟩ : OldWord)))).filter (fun e => !old.contains e)

/-- A byte lies in one of the aligned dwords that an extent touches. -/
def touches (a n x : Nat) : Bool := a / 8 ≤ x / 8 && 8 * (x / 8) < a + n
/-- Bytes of HBM change; what dies still see of older bytes is not looked at. -/
def State.writeHbm (s : State) (a : Nat) (bs : List Byte) : State :=
  { s with
    hbm := s.hbm.write a bs
    hbmBad := eccAfter s.hbmBad a bs.length
    oldCode := s.keepOld a bs.length }
/-- Something of no thread goes to another device (R178, R328). -/
def State.sendOut (s : State) (die dev : Nat) (what : Outgoing) : State := { s with outbox := s.outbox ++ [⟨none, 0, die, dev, what⟩] }
/-- An access goes from a core to another device's page: it is of the thread whose instruction runs, where that is one of the core
(R178, R328, R329). -/
def State.askOut (s : State) (c dev va : Nat) (what : RemoteKind) : State :=
  { s with outbox := s.outbox ++
    [⟨if s.cur.core = c then some (s.cur, s.myCore.serial) else none, 0x02, dieOf c, dev, .access va what⟩] }
/-- What has been added to the outbox since `s` is of the store or engine operation of a thread with its serial, or of none; `cls` is the
bit of a FENCE's sets that its writes are of (R166, R329). -/
def State.sentBy (s : State) (src : Option (ThreadId × Nat)) (cls : BitVec 8) (u : State) : State :=
  { u with outbox := u.outbox.take s.outbox.length ++ (u.outbox.drop s.outbox.length).map (fun f => { f with src := src, cls := cls }) }

/-- Write bytes at a place: the write is performed and every die sees it. A write to another device's page waits at the IO die to
leave (R178, R328). -/
def State.writeAt (s : State) (c : Nat) (p : Place) (bs : List Byte) : State :=
  match p with
  | .loc o => s.updCore c (fun k => { k with mem := k.mem.write o bs, eccBad := eccAfter k.eccBad o bs.length })
  | .hbm a => { s.writeHbm a bs with stale := s.stale.filter (fun e => !touches a bs.length e.addr) }
  | .weight a => { s with weight := s.weight.write a bs }
  | .remote d a => s.askOut c d a (.write bs)

/-- The part of a store that covers byte `k` of a place. -/
def writeCovers (p : Place) (w : Place × List Byte) : Option Byte :=
  match p, w.1 with
  | .loc o, .loc b => if b ≤ o ∧ o < b + w.2.length then w.2[o - b]? else none
  | .hbm o, .hbm b => if b ≤ o ∧ o < b + w.2.length then w.2[o - b]? else none
  | .weight o, .weight b => if b ≤ o ∧ o < b + w.2.length then w.2[o - b]? else none
  | .remote d o, .remote e b => if d = e ∧ b ≤ o ∧ o < b + w.2.length then w.2[o - b]? else none
  | _, _ => none

/-- The byte the store buffers of a core hold for a place, from the newest store issued (R159). -/
def buffered (stores : List StoreEnt) (p : Place) : Option Byte :=
  stores.reverse.findSome? (fun e => e.writes.reverse.findSome? (writeCovers p))

/-- What a die sees of a byte of HBM: the oldest that it still sees of those that plain stores of other dies have replaced, else
memory's (R160, R163; log entry 8). -/
def State.hbmByte (s : State) (die a : Nat) : Byte :=
  match s.stale.find? (fun e => e.die == die && e.addr == a) with
  | some e => e.byte
  | none => s.hbm.byte a
def State.hbmBytes (s : State) (die a n : Nat) : List Byte := (List.range n).map (fun i => s.hbmByte die (a + i))
/-- The byte at a place as the die of core `c` sees it. -/
def State.dieByte (s : State) (c : Nat) (p : Place) : Byte :=
  match p with
  | .hbm a => s.hbmByte (dieOf c) a
  | .loc _ => s.memByte c p
  | .weight _ => s.memByte c p
  | .remote _ _ => s.memByte c p

/-- The byte a load of a thread of core `c` returns (R132, R159, R160). -/
def State.loadByte (s : State) (c : Nat) (p : Place) : Byte :=
  match buffered (s.core c).stores p with
  | some b => b
  | none => s.dieByte c p

def State.loadBytes (s : State) (c : Nat) (p : Place) (n : Nat) : List Byte :=
  (List.range n).map (fun i => s.loadByte c (p.plus i))
/-- What an engine of core `c` reads: memory as its die sees it, not the store buffers (R159, R160). -/
def State.engineBytes (s : State) (c : Nat) (p : Place) (n : Nat) : List Byte :=
  (List.range n).map (fun i => s.dieByte c (p.plus i))
/-- What an atomic reads: the newest of the writes in their single order (R160). -/
def State.homeBytes (s : State) (c : Nat) (p : Place) (n : Nat) : List Byte :=
  (List.range n).map (fun i => s.memByte c (p.plus i))
/-- The core number under which the firmware and the encode engines of the IO dies act: it lies on no compute die, so that they see
every store that is performed. -/
def ioCore : Nat := 2048

/-! Store buffers (R132, R139, R159). -/

def State.storesOf (s : State) (t : ThreadId) : List StoreEnt := (s.core t.core).stores.filter (fun e => e.slot == t.slot)
/-- Eight entries are taken (R132). -/
def State.storeFull (s : State) (t : ThreadId) : Bool := 8 ≤ (s.storesOf t).length

/-- A store retires into the buffer. -/
def State.pushStore (s : State) (t : ThreadId) (ws : List (Place × List Byte)) (rel : Option Scope) : State :=
  s.updCore t.core (fun k =>
    { k with stores := k.stores ++ [⟨t.slot, k.serial, (k.thread t.slot).ilSeen, ws, rel⟩], serial := k.serial + 1 })

/-- Scope codes in order: thread narrowest (R45). -/
def scopeCode (c : Scope) : Nat :=
  match c with
  | .thread => 0
  | .core => 1
  | .cluster => 2
  | .die => 3
  | .device => 4
  | .system => 5
/-- A store that is a release at device or system scope. -/
def StoreEnt.deviceWide (e : StoreEnt) : Bool :=
  match e.release with
  | none => false
  | some c => 4 ≤ scopeCode c

/-- What a die sees, every die sees (R158, R161, R162): a store that the die itself does not see yet stays as it is. -/
def State.spreadFrom (s : State) (die : Nat) : State :=
  { s with stale := s.stale.filter (fun e => s.stale.any (fun f => f.die == die && f.addr / 8 == e.addr / 8 && f.num ≤ e.num)) }
/-- The next store that a die does not see in an aligned dword becomes visible to it (R160). -/
def State.spreadOne (s : State) (die dword : Nat) : State :=
  match s.stale.find? (fun e => e.die == die && e.addr / 8 == dword) with
  | none => s
  | some e => { s with stale := s.stale.filter (fun f => !(f.die == die && f.addr / 8 == dword && f.num == e.num)) }
/-- What the other dies still see of HBM bytes that a plain store of core `c` replaces. -/
def State.staleAfter (s : State) (t : ThreadId) (serial a n : Nat) : List StaleByte :=
  let num := s.stale.foldl (fun m e => max m e.num) 0 + 1
  ([0, 1, 2, 3].filter (· != dieOf t.core)).flatMap (fun d =>
    (List.range n).map (fun i => ⟨d, a + i, s.hbm.byte (a + i), num, t, serial⟩))
/-- One write of a store of a thread that is no release at device scope: its own die sees it, with what came before it in the order of
the dword; the others may see it at different moments (R160, R163). -/
def State.performPlain (s : State) (t : ThreadId) (serial : Nat) (p : Place) (bs : List Byte) : State :=
  match p with
  | .hbm a => { s.writeHbm a bs with
      stale := s.stale.filter (fun e => !(e.die == dieOf t.core && touches a bs.length e.addr)) ++ s.staleAfter t serial a bs.length }
  | .loc _ => s.writeAt t.core p bs
  | .weight _ => s.writeAt t.core p bs
  | .remote _ _ => s.writeAt t.core p bs

/-- One store is performed: what a release at device scope follows has reached every die before it (R158, R160). -/
def State.perform (s : State) (c : Nat) (e : StoreEnt) : State :=
  s.sentBy (some (⟨c, e.slot⟩, e.serial)) 0x02 (
    if e.deviceWide then e.writes.foldl (fun s w => s.writeAt c w.1 w.2) (s.spreadFrom (dieOf c))
    else e.writes.foldl (fun s w => s.performPlain ⟨c, e.slot⟩ e.serial w.1 w.2) s)

/-- Every store of the core drains, in the order of issue. -/
def State.drainCore (s : State) (c : Nat) : State :=
  ((s.core c).stores).foldl (fun s e => s.perform c e) (s.updCore c (fun k => { k with stores := [] }))
/-- Every store of the core drains, and reaches every die. -/
def State.drainAll (s : State) (c : Nat) : State := (s.drainCore c).spreadFrom (dieOf c)

/-- The stores of a core up to the first that satisfies `f`, drained in the order of issue. -/
def State.drainUpTo (s : State) (c : Nat) (f : StoreEnt → Bool) : State :=
  let es := (s.core c).stores
  let n := es.findIdx f + 1
  (es.take n).foldl (fun s e => s.perform c e) (s.updCore c (fun k => { k with stores := es.drop n }))

/-! The protection unit and the range-lock table (R134, R156). -/

/-- Whether the protection unit allows an access to local byte address `a`. -/
def Core.protAllows (k : Core) (user : Bool) (a : Nat) (rd wr : Bool) : Bool :=
  let hit := (List.range 8).find? (fun n =>
    let b := k.csr (0x090 + 2 * n)
    b.getLsbD 3 && (b.toNat / 64 * 64 ≤ a) && (a < (k.csr (0x091 + 2 * n)).toNat / 64 * 64))
  match hit with
  | none => !user
  | some n =>
    let b := k.csr (0x090 + 2 * n)
    (!user || b.getLsbD 2) && (!rd || b.getLsbD 0) && (!wr || b.getLsbD 1)

/-- The lowest byte of an extent of local addresses that is refused; regions are whole 64-byte blocks. -/
def Core.protRefused (k : Core) (user : Bool) (lo n : Nat) (rd wr : Bool) : Option Nat :=
  let blocks := (List.range ((lo % 64 + n + 63) / 64)).map (fun i => max lo (lo / 64 * 64 + 64 * i))
  if n = 0 then none else blocks.find? (fun a => !k.protAllows user a rd wr)

/-- The lowest byte of an access that a registered range forbids. -/
def Core.rangeHit (k : Core) (lo n : Nat) (wr : Bool) : Option Nat :=
  let hits := (k.ranges.filter (fun r => (wr || r.isDest) && lo < r.hi && r.lo < lo + n)).map (fun r => max lo r.lo)
  hits.foldl (fun acc a => some (match acc with | none => a | some b => min a b)) none

def Core.freeRanges (k : Core) : Nat := 8 - k.ranges.length
def Core.addRange (k : Core) (isDest : Bool) (lo hi : Nat) (id : Nat) : Core :=
  { k with ranges := k.ranges ++ [⟨id, isDest, lo, hi⟩] }
def Core.dropRange (k : Core) (id : Nat) : Core := { k with ranges := k.ranges.filter (fun r => r.id != id) }

/-! Translation (R128, R130, R173-R182). -/

/-- Reads, writes and atomics of an access kind (Table 10-6). -/
def Access.writes (a : Access) : Bool :=
  match a with
  | .read => false
  | .write => true
  | .atomic => true
  | .fetch => false
  | .copyRead => false
  | .copyWrite => true
  | .loader => false
  | .storer => true
  | .stream => false
def Access.reads (a : Access) : Bool :=
  match a with
  | .read => true
  | .write => false
  | .atomic => true
  | .fetch => false
  | .copyRead => true
  | .copyWrite => false
  | .loader => true
  | .storer => false
  | .stream => true
def Access.code (a : Access) : Nat :=
  match a with
  | .read => 0
  | .write => 1
  | .atomic => 2
  | .fetch => 3
  | .copyRead => 4
  | .copyWrite => 5
  | .loader => 6
  | .storer => 6
  | .stream => 7

/-- Live kernels and nodes of a context (R365). -/
def Ctx.nodeLive (x : Ctx) (q : Queue) : Bool :=
  q.kind == .node && (q.occupied != 0 || q.reserved != 0 || x.groups.any (fun g => g.kid == q.kid && g.chunk.isSome))
def Ctx.kernelLive (x : Ctx) : Bool :=
  x.kernels.any (fun k => k.state != .retired) || x.queues.any (fun p => x.nodeLive p.2) || !x.finals.isEmpty

def TlbEnt.covers (e : TlbEnt) (ctx va : Nat) : Bool := e.ctx == ctx && e.va ≤ va && va < e.va + e.size
/-- A translation of the cluster's L1 TLB or the die's L2 TLB. -/
def State.tlbFind (s : State) (cluster ctx va : Nat) : Option TlbEnt :=
  match (s.cluster cluster).l1.find? (fun e => e.covers ctx va) with
  | some e => some e
  | none => (s.die (cluster / 32)).l2.find? (fun e => e.covers ctx va)

/-- Whether a leaf's rights let the access go on (R173, R176, R178). -/
def TlbEnt.allows (e : TlbEnt) (k : Access) (user : Bool) : Bool :=
  (!user || e.u) &&
    (match k with
     | .fetch => e.x
     | _ => (!k.reads || k == .atomic || e.r) && (!k.writes || (e.w && e.d && !e.m)))

def TlbEnt.place (e : TlbEnt) (va : Nat) : Place :=
  match e.kind with
  | .hbm => .hbm (e.frame + (va - e.va))
  | .weight => .weight (e.frame + (va - e.va))
  | .compressed => .hbm (e.frame + (va - e.va))
  | .remote => .remote e.frame va

/-- The outcome of the checks of R130. -/
inductive Checked where
  | ok (p : Place)
  | trap (cause : Nat) (tval : Word)
  | miss
  deriving DecidableEq, Repr

/-- Global translation of an access whose other checks passed: the page kind is decided before the rights (R130). A forwarded
access that the other device refuses walks, and faults there (R178). -/
def State.translate (s : State) (cluster ctx : Nat) (va : Word) (k : Access) (user : Bool) : Checked :=
  match s.tlbFind cluster ctx va.toNat with
  | none => .miss
  | some e =>
    if e.kind = .weight ∧ (k = .atomic ∨ (k.writes ∧ (s.ctx ctx).kernelLive)) then .trap 3 va
    else if e.kind = .remote ∧ Config.remoteRefuses s.freeCount then .miss
    else if e.allows k user then .ok (e.place va.toNat) else .miss

/-- Bits are ORed into a byte of a leaf at device scope: an atomic on the home's value that every die sees (R176). -/
def State.orByte (s : State) (a : Nat) (b : Byte) : State := s.writeAt ioCore (.hbm a) [s.hbm.byte a ||| b]
/-- D is set in a leaf, and A with it; no TLB entry owes it any more (R176). -/
def State.setDirty (s : State) (a : Nat) : State :=
  let paid (l : List TlbEnt) : List TlbEnt := l.map (fun e => if e.owesD = some a then { e with owesD := none } else e)
  { s.orByte a 0xC0 with
    dies := s.dies.map (fun p => (p.1, { p.2 with l2 := paid p.2.l2 }))
    clusters := s.clusters.map (fun p => (p.1, { p.2 with l1 := paid p.2.l1 })) }
/-- A write is performed through the translation of an address: the leaf's D is set (R176). -/
def State.dirtyAt (s : State) (cluster ctx : Nat) (va : Word) : State :=
  match (s.tlbFind cluster ctx va.toNat).bind (·.owesD) with
  | some a => s.setDirty a
  | none => s
/-- The same for a write of the current thread. -/
def State.dirty (s : State) (ea : Word) : State :=
  if addrClass ea = .global then s.dirtyAt (clusterOf s.cur.core) s.me.ctx ea else s

/-- The checks of one thread access, in the order of R130. -/
def State.check (s : State) (t : ThreadId) (ea : Word) (n align : Nat) (k : Access) : Checked :=
  let core := s.core t.core
  let th := s.thread t
  match addrClass ea with
  | .none => .trap 3 ea
  | .loc =>
    if ea.toNat % align ≠ 0 then .trap 2 ea
    else match core.protRefused (!th.sup) ea.toNat n k.reads k.writes with
      | some a => .trap 3 (BitVec.ofNat 64 a)
      | none => match core.rangeHit ea.toNat n k.writes with
        | some a => .trap 5 (BitVec.ofNat 64 a)
        | none => .ok (.loc (localOff ea))
  | .global =>
    if ea.toNat % align ≠ 0 then .trap 2 ea
    else match core.rangeHit ea.toNat n k.writes with
      | some a => .trap 5 (BitVec.ofNat 64 a)
      | none => s.translate (clusterOf t.core) th.ctx ea k (!th.sup)

/-! The fault path (R182, R183). -/

/-- Drop a context's translations that cover an address from a die's TLBs (R181, R191). -/
def dropCover (l : List TlbEnt) (ctx va : Nat) : List TlbEnt := l.filter (fun e => !e.covers ctx va)
def State.dropOnDie (s : State) (die ctx va : Nat) : State :=
  let s := s.updDie die (fun d => { d with l2 := dropCover d.l2 ctx va })
  { s with clusters := s.clusters.map (fun p =>
      if p.1 / 32 = die then (p.1, { p.2 with l1 := dropCover p.2.l1 ctx va }) else p) }

/-- A miss joins the entry of its page, or opens the lowest FREE one (log entry 36); `none` when all 256 are busy (R182). -/
def State.joinMiss (s : State) (die ctx : Nat) (va : Word) (k : Access) (user : Bool) (first : ThreadId)
    (r : Requester) : Option (Nat × State) :=
  let s := s.dropOnDie die ctx va.toNat
  let page := va.toNat / 65536
  let d := s.die die
  match (List.range 256).find? (fun i =>
      (d.coal.get Coal.reset i).state != .free && (d.coal.get Coal.reset i).state != .released
        && (d.coal.get Coal.reset i).ctx == ctx && (d.coal.get Coal.reset i).page == page) with
  | some i =>
    let e := d.coal.get Coal.reset i
    some (i, s.setDie die { d with coal := d.coal.set i { e with reqs := if e.reqs.contains r then e.reqs else e.reqs ++ [r] } })
  | none =>
    match (List.range 256).find? (fun i => (d.coal.get Coal.reset i).state == .free) with
    | none => none
    | some i => some (i, s.setDie die
        { d with coal := d.coal.set i ⟨.walking, ctx, page, va.toNat, k, user, first, [r], d.walkNext⟩, walkNext := d.walkNext + 1 })

/-- A requester no longer waits on any page. -/
def State.dropReq (s : State) (r : Requester) : State :=
  { s with dies := s.dies.map (fun p => (p.1, { p.2 with coal := p.2.coal.map (fun e => (e.1, { e.2 with reqs := e.2.reqs.filter (· != r) })) })) }

/-- A hold that leaves the instruction as it stands: what it had waited for before is kept. -/
def Wait.isHold (w : Wait) : Bool :=
  match w with
  | .page _ _ => true
  | .fence => true
  | .storeBuffer => true
  | .icache => true
  | .stall => true
  | _ => false
/-- The wait that the thread's instruction has begun, with its WAITTO sample: the one it is BLOCKED in, or the one that has ended
while the instruction has still to issue again (Table 5-1). -/
def Thread.begun (t : Thread) : Option (Wait × W32) :=
  match t.state with
  | .blocked w l => if w.isHold then t.woke else some (w, l)
  | .ready => t.woke
  | .free => none
  | .done _ => none
  | .parked _ _ => none
def Thread.waitOf (t : Thread) : Option Wait := t.begun.map (·.1)
/-- Block a thread on a wait that samples WAITTO as it begins (R213); a wait going on keeps its sample. -/
def Thread.block (t : Thread) (w : Wait) (word : W32) : Thread :=
  let fresh : W32 := (t.csr 0x050).setWidth 32
  let limit := match t.begun with
    | some (w', l) => if w' = w then l else fresh
    | none => fresh
  { t with state := .blocked w limit, woke := if w.isHold then t.begun else none, word := word }
/-- What a BLOCKED thread waits for has come: it is READY at its instruction (Table 5-1). -/
def Thread.wake (t : Thread) : Thread := { t with state := .ready, woke := t.begun }
def State.blockAt (s : State) (t : ThreadId) (w : Wait) (word : W32) : State := s.updThread t (·.block w word)

/-- The word of an instruction, where it has one. -/
def wordOf (i : Instr) : W32 := (encode i).getD 0

/-- The thread is BLOCKED at an instruction that has had no effect. -/
def State.wait (s : State) (w : Wait) (i : Instr) : State := s.blockAt s.cur w (wordOf i)

/-- Hold the current thread on the fault path; when no entry is free the miss waits at the die NI (R182, R183). -/
def State.holdOnPage (s : State) (ea : Word) (k : Access) : State :=
  let t := s.cur
  match s.joinMiss (dieOf t.core) s.me.ctx ea k (!s.me.sup) t (.thread t) with
  | none => s
  | some (i, s) =>
    s.updThread t (fun x => { x.block (.page (dieOf t.core) i) x.word with faultVa := ea })

/-! Hitch (R219-R221). -/

/-- The member thread of a hitch on the core of a COREID in a cluster. -/
def hitchMember (cluster id : Nat) : ThreadId := ⟨16 * cluster + id, 0⟩
def hitchMembers (t : ThreadId) (mask : BitVec 16) : List ThreadId :=
  (lanes.filter (fun i => mask.getLsbD i)).map (hitchMember (clusterOf t.core))

def Thread.unhitched (t : Thread) : Thread := { t.setStatusBit 8 false with hitch := none }

/-- A thread leaves its hitch: a follower leaves the mask of the others, and a hitch reduced to its leader ends; when the
leader leaves, the hitch dissolves (R221). -/
def State.leaveWith (s : State) (t : ThreadId) (h : HitchRec) : State :=
  if coreIdOf t.core = h.leader then
    (hitchMembers t h.mask).foldl (fun s m => s.updThread m Thread.unhitched) s
  else
    let mask := h.mask &&& ~~~(1#16 <<< coreIdOf t.core)
    let s := (s.updThread t Thread.unhitched).hpm t.core 0x1B 1
    let rest := hitchMembers t mask
    if rest.length ≤ 1 then rest.foldl (fun s m => s.updThread m Thread.unhitched) s
    else rest.foldl (fun s m => s.updThread m (fun x => { x with hitch := x.hitch.map (fun h => { h with mask := mask }) })) s
def State.leaveHitch (s : State) (t : ThreadId) : State :=
  match (s.thread t).hitch with
  | none => s
  | some h => s.leaveWith t h

/-! Events (R17, R256, R367). -/

/-- Dword 0's identity fields: CLUSTERID, COREID, THREADID (R367). -/
def identOf (t : ThreadId) : Nat := clusterOf t.core * 256 + coreIdOf t.core * 16 + t.slot

/-- Post an event to an IO die's queue: 240 places for any event, 16 more for fatal ones (R17). The manual says how many places are
kept for fatal events and not which of the 256 a fatal event takes: all are counted together (log entry 28). -/
def IoDie.post (d : IoDie) (e : IoEvent) : IoDie :=
  if d.events.length < 240 then { d with events := d.events ++ [e] }
  else if e.fatal then
    if d.events.length < 256 then { d with events := d.events ++ [e] } else { d with waiting := d.waiting ++ [e] }
  else { d with lost := d.lost + 1 }
/-- An event goes to IO die `die` mod 2: the manual does not say which IO die's queue takes an event (log entry 28). -/
def State.ioEvent (s : State) (die : Nat) (fatal : Bool) (code : Nat) (a b : Word) : State :=
  s.updIo (die % 2) (·.post ⟨fatal, code, a, b⟩)

/-- The service core of a paddock: core 0 of its first cluster (R255). -/
def State.serviceCore (s : State) (x : Nat) : Option Nat :=
  match (s.ctx x).paddock with
  | none => none
  | some p =>
    match s.paddocks[p]? with
    | none => none
    | some pad => match pad.clusters with
      | [] => none
      | k :: _ => some (16 * k)

/-- The context has a paddock that holds the cluster. -/
def State.holdsCluster (s : State) (x cl : Nat) : Bool :=
  match (s.ctx x).paddock.bind (fun p => s.paddocks[p]?) with
  | none => false
  | some p => p.clusters.contains cl
/-- The context a core works for: that of its group, or the one whose paddock the core lies in, also when its group has retired
(R253). -/
def State.coreCtx (s : State) (c : Nat) : Nat :=
  match (s.core c).group with
  | some g => g.1
  | none => match s.ctxs.find? (fun p => s.holdsCluster p.1 (clusterOf c)) with
    | some p => p.1
    | none => ((s.core c).thread 0).ctx

/-- Write a supervisor event record as a landing message (R256, Table 15-3). -/
def State.writeEvent (s : State) (x c : Nat) (e : Event) : State :=
  let (tm, s) := s.readTime
  let k := s.core c
  let c31 := k.counters.get 0 31
  let idx := c31.toNat % 64
  let w0 := e.kind * 2 ^ 56 + min 0xFFFF (s.ctx x).evLost * 2 ^ 40 + e.ident
  let bs := leBytes 8 w0 ++ wordBytes e.d1 ++ wordBytes e.d2 ++ wordBytes tm
  (((s.updCore c (fun k => { k with
    mem := k.mem.write (32 * idx) bs, eccBad := eccAfter k.eccBad (32 * idx) 32, counters := k.counters.set 31 (c31 + 1) })).hpm c 0x0A 1).latchAll c).updCtx x
    (fun y => { y with evLost := 0 })

def State.evRoom (s : State) (c : Nat) : Bool :=
  ((s.core c).counters.get 0 31 - (s.core c).counters.get 0 30).toNat < 64

/-- A supervisor event: written, waiting at the NI, or, where it is not fatal, dropped and counted (R17, R133, R256). -/
def State.postEvent (s : State) (x kind ident : Nat) (d1 d2 : Word) : State :=
  let e : Event := ⟨kind, ident, d1, d2⟩
  match s.serviceCore x with
  | none => s.updCtx x (fun y => { y with evWait := y.evWait ++ [e] })
  | some c =>
    if s.evRoom c && (s.ctx x).evWait.isEmpty then s.writeEvent x c e
    else if (s.ctx x).evWait.length < 16 || kind == 2 || kind == 3 || (kind == 5 && d2 == 1) then
      s.updCtx x (fun y => { y with evWait := y.evWait ++ [e] })
    else s.updCtx x (fun y => { y with evLost := min 0xFFFF (y.evLost + 1) })

/-- Events that waited are written once there is room. -/
def State.flushEvents (s : State) (x c : Nat) : State :=
  let ws := (s.ctx x).evWait
  ws.foldl (fun s e =>
    if s.evRoom c then (s.updCtx x (fun y => { y with evWait := y.evWait.drop 1 })).writeEvent x c e else s) s

/-! Threads' ends (R84, R207, R211). -/

/-- A member leaves a named barrier: by exit (Table 11-4). -/
def NamedBar.leave (b : NamedBar) (slot : Nat) : NamedBar × Bool :=
  if !b.isOpen || !b.members.getLsbD slot then (b, false)
  else
    let members := b.members &&& ~~~(1#11 <<< slot)
    let arrived := b.arrived &&& ~~~(1#11 <<< slot)
    if members = 0 then ({ b with isOpen := false, members := 0, arrived := 0 }, false)
    else if members = arrived then ({ b with members := members, arrived := 0, gen := b.gen + 1 }, true)
    else ({ b with members := members, arrived := arrived }, false)

def Core.bar (k : Core) (n : Nat) : NamedBar := k.bars.get NamedBar.reset n
def Core.leaveBars (k : Core) (slot : Nat) : Core :=
  (k.bars.map (·.1)).foldl (fun k n =>
    let r := (k.bar n).leave slot
    let k := { k with bars := k.bars.set n r.1 }
    if r.2 then k.latchAll else k) k

/-- A FREE slot again, keeping nothing. -/
def State.freeSlot (s : State) (t : ThreadId) : State := s.setThread t Thread.reset

/-- Slot 0 DONE with every helper FREE or DONE: the share of the chunk is complete and the slots are FREE (Table 5-1). -/
def State.settleCore (s : State) (c : Nat) : State :=
  let k := s.core c
  match (k.thread 0).state with
  | .done _ =>
    if (slots.drop 1).all (fun n => (k.thread n).state.ended) then
      s.setCore c { k with threads := k.threads.map (fun p => (p.1, Thread.reset)) }
    else s
  | _ => s

/-- EXIT of a thread (R84): exit value, DONE, its barriers and its hitch left; a helper's exit sets the other latches (R85). -/
def State.endThread (s : State) (t : ThreadId) (v : Word) : State :=
  let s := s.updCore t.core (fun k => k.leaveBars t.slot)
  let s := s.updThread t (fun x => { x.unhitched with state := .done v, resident := 1, spilled := 0, replay := none, fences := [], arrival := none, woke := none })
  if t.slot = 0 then s else s.latchOthers t

/-! Traps (R57, R65, R66, R257). -/

/-- The context can no longer run: FAILED, a fatal event, its paddock parking (Table 15-2). -/
def State.failCtx (s : State) (x : Nat) : State :=
  if (s.ctx x).state = .active then
    let s := s.updCtx x (fun y => { y with state := .failed, park := some (y.park.getD .failure) })
    let s := { s with paddocks := s.paddocks.map (fun (p : Paddock) =>
      if p.ctx = x ∧ p.state = PadState.occupied then { p with state := PadState.parking } else p) }
    s.ioEvent 0 true 6 (BitVec.ofNat 64 x) 0
  else s

/-- CAUSE, EPC and TVAL of a trap (R57). -/
def Thread.trapRegs (t : Thread) (cause : Nat) (tval : Word) : Thread :=
  ((t.setCsr 1 (BitVec.ofNat 64 cause)).setCsr 2 t.pc).setCsr 3 tval
/-- The lunge record of a trap in a replay (R112). -/
def Thread.lungeTrap (t : Thread) : Thread :=
  match t.replay with
  | none => t
  | some r => { t with lunge := some r, replay := none }

/-- Delivery to the thread's own handler (R65): PSUP := SUP, INTRAP := 1, pc := TVEC. -/
def Thread.toHandler (t : Thread) (cause : Nat) (tval : Word) : Thread :=
  let t := (t.trapRegs cause tval).lungeTrap
  let t := (t.setStatusBit 1 t.sup).setStatusBit 2 true
  { t with pc := t.csr 4, state := .ready, woke := none }

/-- Whether the trap goes to the thread's own handler (Table 15-4). -/
def Thread.ownHandler (t : Thread) (cause : Nat) : Bool :=
  (t.csr 4 != 0 && !t.intrap) && (t.sup || !(cause == 9 || cause == 18))

/-- A thread takes a trap (R65, R257). -/
def State.trapAt (s : State) (t : ThreadId) (cause : Nat) (tval : Word) : State :=
  let s := s.leaveHitch t
  let s := if cause = 5 then s.hpm t.core 0x0D 1 else s
  let th := s.thread t
  if th.ownHandler cause then s.setThread t (th.toHandler cause tval)
  else
    let s := s.setThread t (th.trapRegs cause tval).lungeTrap
    if th.sup then (s.updThread t (fun x => { x with state := .ready, woke := none })).failCtx th.ctx
    else
      let s := s.postEvent th.ctx 1 (identOf t) (BitVec.ofNat 64 cause) tval
      s.endThread t (BitVec.allOnes 64)

def State.trap (s : State) (cause : Nat) (tval : Word) : State := s.trapAt s.cur cause tval
/-- ILLEGAL and PRIV name the instruction word (Table 4-8). -/
def State.priv (s : State) (i : Instr) : State := s.trap 16 ((wordOf i).setWidth 64)

/-- ERET (R66, R112): pc := EPC, INTRAP := 0, SUP := PSUP in supervisor mode; a valid lunge record is cleared and, at its
word, its replay resumed, with the words that the LUNGE captured (log entry 36). -/
def Thread.eret (t : Thread) : Thread :=
  let t' := t.setStatusBit 2 false
  let t' := if t.sup then t'.setStatusBit 0 ((t.csr 0).getLsbD 1) else t'
  let epc := t.csr 2
  match t.lunge with
  | none => { t' with pc := epc }
  | some r =>
    let here := epc == r.addr + 4 + BitVec.ofNat 64 (4 * r.j)
    { t' with pc := epc, lunge := none, replay := if here then some r else none }

/-! One access of the current thread. -/

/-- Check, then go on at the place, trap, or be held on the fault path (R130, R192). -/
def State.access (s : State) (ea : Word) (n align : Nat) (k : Access) (go : Place → State) : State :=
  match s.check s.cur ea n align k with
  | .trap c v => s.trap c v
  | .miss => s.holdOnPage ea k
  | .ok p => go p

/-- A lifetime count goes up by one, and stays at its largest value (R341). -/
def bump (n : Nat) : Nat := min (2 ^ 64 - 1) (n + 1)
/-- The channel of an HBM address, by stack and within the stack (Table 21-2: 32 channels in each of 8 stacks; log entry 13). -/
def channelOf (a : Nat) : Nat := Config.hbmChannel a % 256
/-- The compute die that an HBM address belongs to: stacks H(2k) and H(2k+1), channels 64 k to 64 k + 63, attach to CDk (R8). -/
def hbmDie (a : Nat) : Nat := channelOf a / 64
/-- An uncorrectable HBM error counts in the lifetime record, for its channel (R341; log entry 13). -/
def State.hbmError (s : State) (a : Nat) : State :=
  let ch := channelOf a
  { s with mgmt := { s.mgmt with life :=
    { s.mgmt.life with hbmUncorr := s.mgmt.life.hbmUncorr.set ch (bump (s.mgmt.life.hbmUncorr.get 0 ch)) } } }

/-- The uncorrectable HBM words among bytes at a place. -/
def State.badWords (s : State) (p : Place) (n : Nat) : List Nat :=
  match p with
  | .hbm a => s.hbmBad.filter (fun w => a < 8 * w + 8 && 8 * w < a + n)
  | .loc _ => []
  | .weight _ => []
  | .remote _ _ => []
/-- Each of some uncorrectable HBM words counts in the lifetime record, for its own channel (R341). -/
def State.countWords (s : State) (ws : List Nat) : State := ws.foldl (fun s w => s.hbmError (8 * w)) s

/-- A kind-5 report of an uncorrectable error; the HBM case is fatal, and each of the words met counts (R133, R341). -/
def State.reportError (s : State) (t : ThreadId) (ea : Word) (p : Place) (ws : List Nat) : State :=
  match p with
  | .hbm _ => ((s.postEvent (s.thread t).ctx 5 (identOf t) ea 1).countWords ws).ioEvent (dieOf t.core) true 1 ea 0
  | .loc _ => s.postEvent (s.thread t).ctx 5 (identOf t) ea 0
  | .weight _ => s.postEvent (s.thread t).ctx 5 (identOf t) ea 0
  | .remote _ _ => s.postEvent (s.thread t).ctx 5 (identOf t) ea 0

/-- Whether bytes at a place meet an uncorrectable word. -/
def State.badAt (s : State) (c : Nat) (p : Place) (n : Nat) : Bool :=
  match p with
  | .loc o => (s.core c).eccBad.any (fun w => o < 8 * w + 8 && 8 * w < o + n)
  | .hbm a => s.hbmBad.any (fun w => a < 8 * w + 8 && 8 * w < a + n)
  | .weight _ => false
  | .remote _ _ => false

/-- A load takes a byte of an uncorrectable word from memory: none of its core's store buffers holds that byte (R133, R159). -/
def State.meetsBad (s : State) (c : Nat) (p : Place) (n : Nat) : Bool :=
  (List.range n).any (fun i => (buffered (s.core c).stores (p.plus i)).isNone && s.badAt c (p.plus i) 1)
/-- The uncorrectable HBM words that a load takes bytes of from memory. -/
def State.wordsMet (s : State) (c : Nat) (p : Place) (n : Nat) : List Nat :=
  ((List.range n).flatMap (fun i => if (buffered (s.core c).stores (p.plus i)).isNone then s.badWords (p.plus i) 1 else [])).eraseDups

/-- What a read of a place sends: the request for another device's bytes leaves by its IO die (R178, R328). -/
def State.seen (s : State) (c : Nat) (p : Place) (n : Nat) : State :=
  match p with
  | .remote d a => s.fresh.askOut c d a (.read n)
  | .hbm _ => s
  | .loc _ => s
  | .weight _ => s
/-- Uncorrectable HBM words among what an agent reads count in the lifetime record, each for its own channel (R341). They raise no fatal
event: R133 speaks of thread loads only (log entry 36). -/
def State.countBad (s : State) (l : List (Place × Nat)) : State := l.foldl (fun s p => s.countWords (s.badWords p.1 p.2)) s
/-- What the reading of places by an engine leaves: uncorrectable HBM errors counted, and requests to other devices (R178, R341). -/
def State.readBy (s : State) (c : Nat) (l : List (Place × Nat)) : State := l.foldl (fun s p => s.seen c p.1 p.2) (s.countBad l)

/-- A thread load's bytes: an uncorrectable error gives zeros and a report, with the load's own address whichever of its words is bad
(R133; log entries 23 and 34); another device's bytes are free, and the request leaves by its IO die (R178). -/
def State.loadChecked (s : State) (t : ThreadId) (ea : Word) (p : Place) (n : Nat) : List Byte × State :=
  if s.meetsBad t.core p n then
    (List.replicate n 0, s.reportError t ea p (s.wordsMet t.core p n))
  else (s.loadBytes t.core p n, s.seen t.core p n)
/-- The read half of a thread's atomic: the newest value; an uncorrectable word reads as 0 and is reported, as a load's is (R133;
log entry 34). -/
def State.rmwRead (s : State) (t : ThreadId) (ea : Word) (p : Place) (n : Nat) : List Byte × State :=
  if s.badAt t.core p n then (List.replicate n 0, s.reportError t ea p (s.badWords p n)) else (s.homeBytes t.core p n, s)

/-- Loads of `n` dwords in address order, each by R133. -/
def State.loadDwords (s : State) (t : ThreadId) (ea : Word) (p : Place) : Nat → List Byte × State
  | 0 => ([], s)
  | n + 1 =>
    let r := s.loadDwords t ea p n
    let x := r.2.loadChecked t (ea + BitVec.ofNat 64 (8 * n)) (p.plus (8 * n)) 8
    (r.1 ++ x.1, x.2)

/-- A load of a block of dwords that an instruction reads by the thread's local-load rules: its checks are those of R130, its errors
those of R133, and an address outside local memory raises PROT: a global one after MISALIGN where `alignFirst` (R126, R200, R278, R309). -/
def State.localBlock (s : State) (ea : Word) (n align : Nat) (alignFirst : Bool) (go : State → List Byte → State) : State :=
  let inside := localBase.toNat ≤ ea.toNat ∧ ea.toNat + n ≤ localBase.toNat + localBytes
  let mis := ea.toNat % align ≠ 0
  if alignFirst ∧ mis ∧ addrClass ea ≠ .none then s.trap 2 ea
  else if ¬ inside then s.trap 3 ea
  else if mis then s.trap 2 ea
  else
    match s.check s.cur ea n align .read with
    | .trap c v => s.trap c v
    | .miss => s
    | .ok p =>
      let r := s.loadDwords s.cur ea p (n / 8)
      go r.2 r.1
/-- `n` Mem64 loads of local memory, one after another (R61). -/
def State.localLoads (go : State → List Byte → State) : Nat → Word → List Byte → State → State
  | 0, _, acc, s => go s acc
  | n + 1, ea, acc, s => s.localBlock ea 8 8 false (fun s bs => State.localLoads go n (ea + 8) (acc ++ bs) s)

/-- Every earlier store of the core is performed: what a release, an atomic or an engine's acceptance needs (R139, R161). -/
def State.release (s : State) : State := s.drainAll s.cur.core

/-! Read-modify-writes (R140, R141, R160). -/

def minS {w : Nat} (x y : BitVec w) : BitVec w := if x.slt y then x else y
def maxS {w : Nat} (x y : BitVec w) : BitVec w := if x.slt y then y else x
def minU {w : Nat} (x y : BitVec w) : BitVec w := if x.ult y then x else y
def maxU {w : Nat} (x y : BitVec w) : BitVec w := if x.ult y then y else x

/-- The new value of an atomic of Table 8-6 on `n` bytes; `none` for an operation that it does not have. -/
def atomicNew (fn : BitVec 4) (dword : Bool) (operand compare : Word) (old : Nat) : Option Nat :=
  let o64 := BitVec.ofNat 64 old
  let o32 : W32 := BitVec.ofNat 32 old
  let b32 : W32 := operand.setWidth 32
  let pick (f32 : W32 → W32 → W32) (f64 : Word → Word → Word) : Option Nat :=
    some (if dword then (f64 o64 operand).toNat else (f32 o32 b32).toNat)
  match fn.toNat with
  | 0 => pick (· + ·) (· + ·)
  | 1 => pick (· &&& ·) (· &&& ·)
  | 2 => pick (· ||| ·) (· ||| ·)
  | 3 => pick (· ^^^ ·) (· ^^^ ·)
  | 4 => pick minS minS
  | 5 => pick maxS maxS
  | 6 => pick minU minU
  | 7 => pick maxU maxU
  | 8 => pick (fun _ y => y) (fun _ y => y)
  | 9 => pick (fun x y => if x = compare.setWidth 32 then y else x) (fun x y => if x = compare then y else x)
  | 10 => if dword then none else some (faddBits .rne o32 b32).1.toNat
  | _ => none

/-- A read-modify-write by an agent whose write every die sees at one moment: the old value, and what follows. An uncorrectable HBM word
that it reads counts (R341). On another device's page the operation itself leaves, and the old value is free (R178, R231, R235). -/
def State.rmw (s : State) (c : Nat) (p : Place) (fn : BitVec 4) (dword : Bool) (operand : Word) : Nat × State :=
  let n := if dword then 8 else 4
  let old := leNat (s.homeBytes c p n)
  let s := s.countBad [(p, n)]
  match p with
  | .remote d a => (old, s.fresh.askOut c d a (.atomic fn dword operand 0))
  | .hbm _ => (old, s.writeAt c p (leBytes n ((atomicNew fn dword operand 0 old).getD old)))
  | .loc _ => (old, s.writeAt c p (leBytes n ((atomicNew fn dword operand 0 old).getD old)))
  | .weight _ => (old, s.writeAt c p (leBytes n ((atomicNew fn dword operand 0 old).getD old)))

/-! What an engine completes for a thread (R85, R260, R285). -/

/-- What a thread waits for at an instruction that has begun, also while it is PARKED. -/
def Thread.waitsFor (t : Thread) : Option Wait :=
  match t.state with
  | .parked _ before => before.map (·.1)
  | .free => none
  | .done _ => none
  | .ready => t.waitOf
  | .blocked _ _ => t.waitOf
/-- An engine does something as the thread whose instruction it completes: a PARKED thread that goes on by it stays PARKED, there. -/
def State.byEngine (s : State) (t : ThreadId) (f : State → State) : State :=
  let s' := s.asThread t f
  match (s.thread t).state with
  | .parked hard _ => s'.updThread t (fun x => if x.state = .ready then { x with state := .parked hard none } else x)
  | .free => s'
  | .done _ => s'
  | .ready => s'
  | .blocked _ _ => s'

/-- Supervisor-only instructions raise PRIV in user mode (R48). -/
def State.supOnly (s : State) (i : Instr) (x : State) : State := if s.me.sup then x else s.priv i

end Sys2Proof.Machine
end

