-- ==== Sys2Proof/Machine/Operands.lean ====
section
/-! DEFINITION. The operand forms: immediates, targets, effective addresses, row sources, predicated row writes. -/

namespace Sys2Proof.Machine

open Sys2Proof

/-- The one outcome of every meaning. -/
abbrev Out := Host.Outcome State Fault Refusal

/-- I-form immediates are sign-extended (R45, R72). -/
def immI (imm : BitVec 15) : Word := imm.signExtend 64
/-- U-form immediates: sext(imm20) << 15 (R73). -/
def immU (imm : BitVec 20) : Word := imm.signExtend 64 <<< 15
/-- B-form target: pc + sext(off15) x 4 (R45). -/
def targetB (pc : Word) (off : BitVec 15) : Word := pc + off.signExtend 64 * 4
/-- J-form target: pc + sext(off25) x 4 (R45). -/
def targetJ (pc : Word) (off : BitVec 25) : Word := pc + off.signExtend 64 * 4

def sizeBytes (sz : Size) : Nat :=
  match sz with
  | .b => 1
  | .h => 2
  | .w => 4
  | .d => 8
def wsizeBytes (sz : WSize) : Nat :=
  match sz with
  | .w => 4
  | .d => 8
def elemBytes (sz : Elem) : Nat :=
  match sz with
  | .b => 1
  | .h => 2
  | .w => 4

/-- M-form address: a + sext(off12) x size (R137). -/
def eaM (a : Word) (off : BitVec 12) (n : Nat) : Word := a + off.signExtend 64 * BitVec.ofNat 64 n
/-- W-form address: a + sext(off12) x 64 (R142). -/
def eaW (a : Word) (off : BitVec 12) : Word := a + off.signExtend 64 * 64

/-- The b operand of a lane: a row's lane, or the low 32 bits of a scalar (R52). -/
def State.vlane (s : State) (b : VSrc) (i : Nat) : W32 :=
  match b with
  | .row r => (s.row r).lane i
  | .scalar r => (s.reg r).setWidth 32

/-- Write the lanes of row d whose predicate bit is 1; the others keep their old value (R91, R94). -/
def State.rowWrite (s : State) (m : BitVec 16) (d : RowCode) (f : Nat → W32) : State :=
  let old := s.row d
  s.updMe (·.mixRow d.toNat m (Row.ofLanes (fun i => if m.getLsbD i then f i else old.lane i)))

/-- The flags of the active lanes (R29, R91). -/
def laneFlags (m : BitVec 16) (f : Nat → FFlags) : FFlags :=
  lanes.foldl (fun acc i => if m.getLsbD i then acc ||| f i else acc) 0

/-- A row instruction whose lanes give a value and flags (R94, R95). -/
def State.rowFp (s : State) (m : MaskCode) (d : RowCode) (f : Nat → W32 × FFlags) : State :=
  let p := s.mask m
  ((s.rowWrite p d (fun i => (f i).1)).accrue (laneFlags p (fun i => (f i).2))).advance

/-- A row instruction without flags (R97-R100). -/
def State.rowInt (s : State) (m : MaskCode) (d : RowCode) (f : Nat → W32) : State :=
  (s.rowWrite (s.mask m) d f).advance

/-- The mask whose bit `i` is `f i` where the predicate's is 1, and 0 elsewhere (R96). -/
def maskOf (p : BitVec 16) (f : Nat → Bool) : BitVec 16 :=
  lanes.foldr (fun i (acc : BitVec 16) => (acc <<< 1) ||| (if p.getLsbD i && f i then 1 else 0)) 0

/-- A compare: all 16 bits of the destination mask are written (R96). -/
def State.maskCmp (s : State) (m k : MaskCode) (f : Nat → Bool × FFlags) : State :=
  let p := s.mask m
  ((s.setMask k (maskOf p (fun i => (f i).1))).accrue (laneFlags p (fun i => (f i).2))).advance

/-- A scalar floating-point result: d[63:32] is zero, the flags accrue (R74). -/
def State.putFp (s : State) (d : Reg) (r : W32 × FFlags) : State :=
  ((s.setReg d (r.1.setWidth 64)).accrue r.2).advance
/-- The low 32 bits of a register (R74). -/
def State.f32 (s : State) (r : Reg) : W32 := (s.reg r).setWidth 32

end Sys2Proof.Machine
end

