-- ==== Sys2Proof/Machine/Domains.lean ====
section
/-! DEFINITION. Domain instances and ranks (R203, R204, R210-R212). -/

namespace Sys2Proof.Machine

open Sys2Proof

def Thread.level (t : Thread) : Nat := bits (t.csr 0x040) 2 0
def Thread.kernid (t : Thread) : Nat := bits (t.csr 0x0F3) 31 0

/-- The container of a thread at a level (R210). -/
def State.container (s : State) (t : ThreadId) (level : Nat) : Nat :=
  match level with
  | 0 => t.core * 16 + t.slot
  | 1 => t.core
  | 2 => match (s.core t.core).group with
    | some g => g.2
    | none => 2 ^ 32 + t.core
  | 3 => clusterOf t.core
  | 4 => dieOf t.core
  | _ => 0

/-- A thread's domain instance at a level: KERNID, level, id, container (R210). -/
def State.domainKey (s : State) (t : ThreadId) (level : Nat) : Nat × Nat × Nat × Nat :=
  let th := s.thread t
  (th.kernid, level, bits (th.csr 0x040) 31 8, s.container t level)

/-- G of an instance; an instance never completed has G = 0 (R207). -/
def Ctx.domainGen (x : Ctx) (key : Nat × Nat × Nat × Nat) : W32 :=
  match x.domains.find? (fun d => d.key == key) with
  | some d => d.gen
  | none => 0

def Ctx.setDomainGen (x : Ctx) (key : Nat × Nat × Nat × Nat) (g : W32) : Ctx :=
  if x.domains.any (fun d => d.key == key) then
    { x with domains := x.domains.map (fun d => if d.key == key then { d with gen := g } else d) }
  else { x with domains := x.domains ++ [⟨key, g⟩] }

/-- The members of an instance: its live enrolled threads (R211). -/
def State.domainMembers (s : State) (x : Nat) (key : Nat × Nat × Nat × Nat) : List ThreadId :=
  (s.liveOf x).filter (fun t => s.domainKey t (s.thread t).level == key)

/-- The thread has arrived in the current generation of its instance. -/
def State.domainArrived (s : State) (t : ThreadId) : Bool :=
  match (s.thread t).arrival with
  | none => false
  | some a => a.gen == (s.ctx (s.thread t).ctx).domainGen (s.domainKey t (s.thread t).level)

/-- The card of the thread's kernel or node. -/
def Ctx.cardOf (x : Ctx) (kid : Nat) : Option Card :=
  match x.kernels.find? (fun k => k.kid.toNat == kid && kid != 0) with
  | some k => some k.card
  | none => match x.queues.find? (fun p => p.2.kind == .node && p.2.kid.toNat == kid && kid != 0) with
    | some p => p.2.card
    | none => none

/-- Whether a write of DOMAIN is taken (R211). -/
def State.domainWritable (s : State) (t : ThreadId) (v : Word) : Bool :=
  let lv := bits v 2 0
  let co := match (s.ctx (s.thread t).ctx).cardOf (s.thread t).kernid with
    | some c => c.cores
    | none => false
  lv != 7 && (lv < 5 || co) && !s.domainArrived t

/-! The rank table (Table 11-3). -/

def rankV (e : Word) : Bool := e.getLsbD 63
def rankT (e : Word) : Bool := e.getLsbD 62
def rankDev (e : Word) : Nat := bits e 23 16
def rankCore (e : Word) : Nat := bits e 10 4 * 16 + bits e 3 0
def rankReserved (e : Word) : Bool := bits e 61 24 != 0 || bits e 15 11 != 0
def mkRank (dev core : Nat) : Word := BitVec.ofNat 64 (2 ^ 63 + dev * 2 ^ 16 + core / 16 * 16 + core % 16)

/-- RANK: the lowest rank whose valid entry names the core; NONE when none does (R204). -/
def State.rankOf (s : State) (x core : Nat) : Word :=
  match (s.ctx x).ranks.find? (fun p => rankV p.2 && rankDev p.2 == s.devNum && rankCore p.2 == core) with
  | some p => BitVec.ofNat 64 p.1
  | none => 1#64 <<< 63

end Sys2Proof.Machine
end

