-- ==== Sys2Proof/Machine/Barrier.lean ====
section
/-! DEFINITION. Counters, messages, the rank table, named barriers and domain barriers (R196-R212). -/

namespace Sys2Proof.Machine

open Sys2Proof

/-! Counters (R196, R197, R202). -/

def Core.counter (k : Core) (c : Nat) : W32 := k.counters.get 0 c
/-- Counter value `c` reaches threshold `t` (R197). -/
def reaches (c t : W32) : Bool := (c - t).toNat < 2 ^ 31

/-- A changed counter wakes the core's latches, and room in the supervisor event area lets waiting records be written. -/
def State.bumpCounter (s : State) (c n : Nat) (v : W32) : State :=
  let s := (s.updCore c (fun k => { k with counters := k.counters.set n (k.counter n + v) })).latchAll c
  match s.ctxs.find? (fun p => s.serviceCore p.1 == some c && !p.2.evWait.isEmpty) with
  | some p => s.flushEvents p.1 c
  | none => s

def execCntr (d : Reg) (c : BitVec 5) (s : State) : Out :=
  .next (s.put d ((s.myCore.counter c.toNat).setWidth 64))
/-- CNTADD: a release at core scope that adds b[31:0] and gives the old count (R202). -/
def execCntadd (d : Reg) (c : BitVec 5) (b : Reg) (s : State) : Out :=
  let old := s.myCore.counter c.toNat
  .next ((s.release.bumpCounter s.cur.core c.toNat ((s.reg b).setWidth 32)).put d (old.setWidth 64))
/-- WAITC: goes on with the count when it reaches the threshold, and waits for it otherwise (R202). One that has been READY since the
count was reached tests again as it issues (log entry 34). -/
def execWaitc (d : Reg) (c : BitVec 5) (b : Reg) (s : State) : Out :=
  let v := s.myCore.counter c.toNat
  let t : W32 := (s.reg b).setWidth 32
  .next (if reaches v t then s.put d (v.setWidth 64) else s.wait (.counter c.toNat t) (.waitc d c b))

/-! SEND (R198-R200, R203, R324). -/

/-- Reserved bits, lengths and alignments of a descriptor (R199, R200). -/
def badDesc (d0 d1 : Word) : Bool :=
  let src := bits d0 31 0
  let dst := bits d0 63 32
  let len := bits d1 12 0
  bits d1 63 29 != 0 || bits d1 23 17 != 0 || bits d1 15 13 != 0 || len == 0 || 4096 < len
    || src % 4 != 0 || dst % 4 != 0 || len % 4 != 0 || (d1.getLsbD 16 && len % 8 != 0)
    || 0x80000 < src + len || 0x80000 < dst + len

/-- Messages that a die's NI holds for a rank in transit (R205). -/
def State.heldFor (s : State) (x rank die : Nat) : Nat :=
  (s.msgs.filter (fun m => m.held && m.ctx == x && m.rank == rank && m.ni == die)).length

def Ctx.rank (x : Ctx) (n : Nat) : Word := x.ranks.get 0 n

/-- A message leaves the sender: to the entry's coordinate, or held while the entry is in transit (R200, R203). -/
def State.postMsg (s : State) (rank : Nat) (e : Word) (kind : MsgKind) : State :=
  let m : Msg := ⟨s.me.ctx, BitVec.ofNat 32 s.me.kernid, s.devNum, s.cur, s.myCore.serial, rank, rankDev e, rankCore e, kind, dieOf s.cur.core, rankT e⟩
  { s with msgs := s.msgs ++ [m] }.updMyCore (fun k => { k with serial := k.serial + 1 })

def localAddr (off : Nat) : Word := localBase + BitVec.ofNat 64 off

/-- The lower of two addresses, of the first where they are equal. -/
def lowerTrap (p r : Option Nat) : Option (Nat × Word) :=
  match p, r with
  | none, none => none
  | some x, none => some (3, BitVec.ofNat 64 x)
  | none, some y => some (5, BitVec.ofNat 64 y)
  | some x, some y => if x ≤ y then some (3, BitVec.ofNat 64 x) else some (5, BitVec.ofNat 64 y)

/-- The protection unit and, for a message with halters, the range-lock table on the payload's source bytes: the trap at the lowest
byte that is refused, if any (R200, R324). -/
def State.sendCheck (s : State) (src len : Nat) (hw : Bool) : Option (Nat × Word) :=
  let k := s.myCore
  let a := (localAddr src).toNat
  match k.protRefused (!s.me.sup) a len true false with
  | some x => some (3, BitVec.ofNat 64 x)
  | none =>
    if hw then lowerTrap (k.protRefused (!s.me.sup) a len false true) (k.rangeHit a len true) else none

def execSend (d a b : Reg) (s : State) : Out :=
  let rank := s.reg a
  .next (s.localBlock (s.reg b) 16 16 false (fun s bs =>
    let d0 := dwordAt bs 0
    let d1 := dwordAt bs 8
    let len := bits d1 12 0
    let src := bits d0 31 0
    let hw := d1.getLsbD 16
    let e := s.myCtx.rank (bits rank 15 0)
    if badDesc d0 d1 then s.put d 1
    else if bits rank 63 16 ≠ 0 ∨ ¬ rankV e then s.trap 19 rank
    else match s.sendCheck src len hw with
      | some (c, v) => s.trap c v
      | none =>
        if rankT e ∧ 64 ≤ s.heldFor s.me.ctx (bits rank 15 0) (dieOf s.cur.core) then
          s.wait (.transit (bits rank 15 0)) (.send d a b)
        else
          let s := s.release
          let payload := s.engineBytes s.cur.core (.loc src) len
          let s := s.postMsg (bits rank 15 0) e (.send (bits d0 63 32) (bits d1 28 24) payload)
          let s := if hw then s.writeAt s.cur.core (.loc src) (List.replicate len 0) else s
          s.put d 0))

/-! Landing (R201). -/

def MsgKind.isAnswer (k : MsgKind) : Bool :=
  match k with
  | .answer _ _ => true
  | .send _ _ _ => false
/-- Two messages from one core to one rank land in the order of their SENDs (R201), and two answers to one core in the order of their
ILSENDs, whatever ranks name that core (R279). -/
def Msg.before (m n : Msg) : Bool :=
  m.ctx == n.ctx && m.srcDev == n.srcDev && m.src.core == n.src.core && m.serial < n.serial
    && (m.rank == n.rank || (m.kind.isAnswer && n.kind.isAnswer && m.dev == n.dev && m.core == n.core))
def State.mayLand (s : State) (m : Msg) : Bool := !m.held && s.msgs.all (fun x => !x.before m)

/-- A message lands: payload, then counter, then latches (R201). -/
def State.landSend (s : State) (c off ctr : Nat) (payload : List Byte) : State :=
  ((s.writeAt c (.loc off) payload).bumpCounter c ctr 1).hpm c 0x0A 1

/-- An answer reaches the receiver's arrival buffer of 16 (R279, R284). -/
def Core.takeAnswer (k : Core) (m : Msg) (ray : Nat) (a : Answer) : Core := { k with arrivals := k.arrivals ++ [⟨m, ray, a⟩] }
def Core.arrivalRoom (k : Core) : Bool := k.arrivals.length < 16

/-! RKMAP, RKMOVE (R205, R206). -/

/-- Messages that are in flight: those of this device's NIs, those on their way over the harness, and the answers of arrival buffers,
which have not been counted yet (R201, R279, R329). -/
def State.flying (s : State) : List Msg :=
  s.msgs ++ s.awayMsgs.map (·.2) ++ s.cores.flatMap (fun p => p.2.arrivals.map (·.msg))
/-- The weight posts that have not landed: those that a halter unit has accepted, and those that have left it (R316, R317, R329). -/
def State.postsUnderWay (s : State) : List Weight :=
  s.weights ++ s.awayWeights.map (·.2) ++ s.cores.flatMap (fun p => p.2.drops.map (·.2))
/-- Something that a thread of a context sent before a place among its core's operations is on its way: a message, a weight post, or an
access that waits at an IO die to leave the device (R201, R329). -/
def State.underWay (s : State) (x : Nat) (t : ThreadId) (bound : Nat) : Bool :=
  let mine (src : ThreadId) (serial : Nat) : Bool := src == t && (s.thread t).born ≤ serial && serial < bound
  s.flying.any (fun m => m.srcDev == s.devNum && m.ctx == x && mine m.src m.serial)
    || s.postsUnderWay.any (fun w => w.ctx == x && mine w.src w.serial)
    || s.outbox.any (fun f => f.src.any (fun q => mine q.1 q.2))
/-- Messages of a context on their way by the entry of a rank, or, whatever brought them, to the coordinate that the entry names
(R205). -/
def State.onTheWay (s : State) (x rank : Nat) (e : Word) : Bool :=
  s.flying.any (fun m => !m.held && m.ctx == x && (m.rank == rank || (rankV e && m.dev == rankDev e && m.core == rankCore e)))

/-- Held messages of a rank are released to a coordinate, in the order held (R206). -/
def State.releaseRank (s : State) (x rank dev core : Nat) : State :=
  { s with msgs := s.msgs.map (fun m =>
      if m.held && m.ctx == x && m.rank == rank then { m with held := false, dev := dev, core := core } else m) }

def State.setRank (s : State) (x rank : Nat) (e : Word) : State :=
  s.updCtx x (fun y => { y with ranks := y.ranks.set rank e })

/-- A rank table entry with its T set (R205). -/
def inTransit (e : Word) : Word := e ||| (1#64 <<< 62)
/-- RKMAP: where it sets T, later messages are held from the start, and it completes, with the entry written, when the messages
already routed to the old coordinate have landed (R204, R205). Until then the entry reads as the old one with T set; and an entry that is
written with T = 0 leaves the messages held for its rank held, until an RKMOVE of the rank (log entry 36). -/
def execRkmap (d a b : Reg) (s : State) : Out :=
  let r := s.reg a
  let e := s.reg b
  let rank := bits r 15 0
  .next (s.supOnly (.rkmap d a b) (
    match s.me.waitOf with
    | some (.landing n old) => if s.onTheWay s.me.ctx n old then s else (s.setRank s.me.ctx n e).put d old
    | _ =>
      if bits r 63 16 ≠ 0 ∨ rankReserved e then s.put d (BitVec.allOnes 64)
      else
        let old := s.myCtx.rank rank
        let s := s.release
        if rankT e ∧ s.onTheWay s.me.ctx rank old then
          (s.setRank s.me.ctx rank (inTransit old)).wait (.landing rank old) (.rkmap d a b)
        else (s.setRank s.me.ctx rank e).put d old))

/-- RKMOVE: the coordinate is b[23:0] with V = 1 and T = 0 (R206). With a[63:16] nonzero it writes 0 and changes nothing (log entry 36). -/
def execRkmove (d a b : Reg) (s : State) : Out :=
  let r := s.reg a
  let e := s.reg b
  let rank := bits r 15 0
  .next (s.supOnly (.rkmove d a b) (
    if bits r 63 16 ≠ 0 ∨ rankReserved e ∨ ¬ rankT (s.myCtx.rank rank) then s.put d 0
    else
      let x := s.me.ctx
      let n := (s.msgs.filter (fun m => m.held && m.ctx == x && m.rank == rank)).length
      let s := (s.setRank x rank ((1#64 <<< 63) ||| (e &&& 0xFFFFFF#64))).releaseRank x rank (rankDev e) (rankCore e)
      s.put d (BitVec.ofNat 64 n)))

/-! Named barriers (R207-R209). -/

/-- G as BARWAIT and BARQ read it: 0 of a FREE barrier (R209). -/
def NamedBar.g (b : NamedBar) : W32 := if b.isOpen then b.gen else 0
def Core.setBar (k : Core) (n : Nat) (b : NamedBar) : Core := { k with bars := k.bars.set n b }
/-- Generation `g` has completed (R209). -/
def genDone (now g : W32) : Bool := (now - g - 1).toNat < 2 ^ 31

/-- The last member arrives, or one more (Table 11-4): the barrier and whether the generation completed. -/
def NamedBar.arrive (b : NamedBar) (slot : Nat) : NamedBar × Bool :=
  let arrived := b.arrived ||| (1#11 <<< slot)
  if arrived = b.members then ({ b with arrived := 0, gen := b.gen + 1 }, true) else ({ b with arrived := arrived }, false)

/-- b40-b46 are the domain barriers of levels 0-6 (R207). -/
def domainBar (n : Nat) : Bool := 40 ≤ n && n ≤ 46

def execBarinit (a b : Reg) (s : State) : Out :=
  let n := (s.reg a).toNat
  let m := s.reg b
  let old := s.myCore.bar n
  let mask : BitVec 11 := m.setWidth 11
  .next (
    if 47 < n ∨ domainBar n ∨ bits m 63 11 ≠ 0 ∨ (old.isOpen ∧ old.arrived ≠ 0) then s.trap 7 (s.reg a)
    else
      let new : NamedBar :=
        if mask = 0 then { isOpen := false, members := 0, arrived := 0, gen := 0 }
        else ⟨true, mask, 0, if old.isOpen then old.gen else 0⟩
      (s.updMyCore (·.setBar n new)).advance)

/-- The instance that a domain barrier stands for at the thread (R208, R210): at a level that is not the thread's own, that of the
thread's domain id and container at that level (log entry 36). -/
def State.barKey (s : State) (n : Nat) : Nat × Nat × Nat × Nat := s.domainKey s.cur (n - 40)
/-- G of barrier `n` as the current thread sees it. -/
def State.barGen (s : State) (n : Nat) : W32 :=
  if domainBar n then s.myCtx.domainGen (s.barKey n) else (s.myCore.bar n).g

/-- Whether an arrival raises BAR (R209). -/
def State.barBad (s : State) (n : Nat) : Bool :=
  if 47 < n then true
  else if domainBar n then s.me.level != n - 40 || s.domainArrived s.cur
  else
    let b := s.myCore.bar n
    !b.isOpen || !b.members.getLsbD s.cur.slot || b.arrived.getLsbD s.cur.slot

/-- The arrival: a release, recorded at a named barrier's mask or as the thread's domain arrival (R207, R209, R212). -/
def State.barArrive (s : State) (n : Nat) : State :=
  let s := s.release
  if domainBar n then
    let a : Arrival := ⟨s.barGen n, s.myCore.serial⟩
    (s.updMe (fun t => { t with arrival := some a })).updMyCore (fun k => { k with serial := k.serial + 1 })
  else
    let r := (s.myCore.bar n).arrive s.cur.slot
    let s := s.updMyCore (·.setBar n r.1)
    if r.2 then s.latchAll s.cur.core else s

def execBararr (d a : Reg) (s : State) : Out :=
  let n := (s.reg a).toNat
  .next (if s.barBad n then s.trap 7 (s.reg a) else (s.barArrive n).put d ((s.barGen n).setWidth 64))

/-- The wait of a barrier instruction has ended: what it waited for has come, whatever the barrier has become since (R209). -/
def State.barWoke (s : State) (w : Wait) : Bool := s.me.woke.any (fun q => q.1 == w)

def execBarwait (a b : Reg) (s : State) : Out :=
  let n := (s.reg a).toNat
  let g : W32 := (s.reg b).setWidth 32
  .next (if 47 < n then s.trap 7 (s.reg a)
    else if s.barWoke (.barrier n g) || genDone (s.barGen n) g then s.advance
    else s.wait (.barrier n g) (.barwait a b))

/-- BARSYNC: the arrival half once, with d, then the wait half on the generation joined (R209). -/
def execBarsync (d a : Reg) (s : State) : Out :=
  .next (match s.me.waitOf with
    | some (.barSync n g) =>
      if s.barWoke (.barSync n g) || genDone (s.barGen n) g then s.advance else s.wait (.barSync n g) (.barsync d a)
    | _ =>
      let n := (s.reg a).toNat
      if s.barBad n then s.trap 7 (s.reg a)
      else
        let g := s.barGen n
        let s := (s.barArrive n).setReg d (g.setWidth 64)
        if genDone (s.barGen n) g then s.advance else s.wait (.barSync n g) (.barsync d a))

/-- Whether the members have all arrived. -/
def State.domainFull (s : State) (x : Nat) (key : Nat × Nat × Nat × Nat) : Bool :=
  let ms := s.domainMembers x key
  !ms.isEmpty && ms.all (fun t => s.domainArrived t)

/-- BARQ's word (Table 11-6). -/
def State.barStatus (s : State) (n : Nat) : Word :=
  if domainBar n then
    let key := s.barKey n
    let ms := (s.domainMembers s.me.ctx key).filter (fun t => t.core == s.cur.core)
    let st := if (s.domainMembers s.me.ctx key).isEmpty then 0 else if s.domainFull s.me.ctx key then 2 else 1
    BitVec.ofNat 64 ((s.barGen n).toNat * 2 ^ 32 + st * 2 ^ 29 + ms.length * 2 ^ 12
      + (ms.filter (fun t => s.domainArrived t)).length)
  else
    let b := s.myCore.bar n
    BitVec.ofNat 64 (b.g.toNat * 2 ^ 32 + (if b.isOpen then 1 else 0) * 2 ^ 29 + b.members.toNat * 2 ^ 12 + b.arrived.toNat)

def execBarq (d a : Reg) (s : State) : Out :=
  let n := (s.reg a).toNat
  .next (if 47 < n then s.trap 7 (s.reg a) else s.put d (s.barStatus n))

/-! Domain barrier completion (R169, R212). -/

/-- The instances that a context's live threads are enrolled in, in order of their first member. -/
def State.instances (s : State) (x : Nat) : List (Nat × Nat × Nat × Nat) :=
  ((s.liveOf x).map (fun t => s.domainKey t (s.thread t).level)).eraseDups

/-- Every message, post and access to another device that a member sent before it arrived has landed; those that wait at an IO die for a
port have not (R212, R329). -/
def State.membersLanded (s : State) (x : Nat) (ms : List ThreadId) : Bool :=
  ms.all (fun t => match (s.thread t).arrival with
    | none => true
    | some a => !s.underWay x t a.serial)

def State.mayComplete (s : State) (x : Nat) (key : Nat × Nat × Nat × Nat) : Bool :=
  (s.ctx x).state == .active && (s.ctx x).saved.isEmpty && s.domainFull x key && s.membersLanded x (s.domainMembers x key)

/-- G grows, and the latches of the instance's cores are set (R212). -/
def State.completeDomain (s : State) (x : Nat) (key : Nat × Nat × Nat × Nat) : State :=
  let ms := s.domainMembers x key
  let s := s.updCtx x (fun y => y.setDomainGen key (y.domainGen key + 1))
  (ms.map (·.core)).eraseDups.foldl (fun s c => s.latchAll c) s

def execDomainBarrierCompletion (ctx inst : Nat) (s : State) : Out :=
  .next (match (s.instances ctx)[inst]? with
    | none => s
    | some key => if s.mayComplete ctx key then s.completeDomain ctx key else s)

end Sys2Proof.Machine
end

