-- ==== Sys2Proof/Machine/Matrix.lean ====
section
/-! DEFINITION. Operand rings and the matrix engine (R113-R127). -/

namespace Sys2Proof.Machine

open Sys2Proof

/-! Rings (R113, R114). -/

def Core.ring (k : Core) (n : Nat) : Ring := k.rings.get Ring.reset n
def Core.setRing (k : Core) (n : Nat) (r : Ring) : Core := { k with rings := k.rings.set n r }
def State.updRing (s : State) (c n : Nat) (f : Ring → Ring) : State := s.updCore c (fun k => k.setRing n (f (k.ring n)))

/-- Slot `i` of a ring starts at this byte of local memory. -/
def Ring.slotOff (r : Ring) (i : Nat) : Nat := localOff r.base + i * r.slotBytes

/-- Pops and pushes of an accepted operation (R119, R123). -/
def MatOp.pops (o : MatOp) (n : Nat) : Nat :=
  match o.kind with
  | .mma => if o.ra = o.rb then (if o.ra = n ∧ ¬ (o.keepA ∧ o.keepB) then 1 else 0)
            else (if o.ra = n ∧ ¬ o.keepA then 1 else 0) + (if o.rb = n ∧ ¬ o.keepB then 1 else 0)
  | .mchk => if o.ra = o.rb then (if o.ra = n ∧ ¬ (o.keepA ∧ o.keepB) then 1 else 0)
             else (if o.ra = n ∧ ¬ o.keepA then 1 else 0) + (if o.rb = n ∧ ¬ o.keepB then 1 else 0)
  | .mld => if o.ra = n then 1 else 0
  | .mzero => 0
  | .mst => 0
def MatOp.pushes (o : MatOp) (n : Nat) : Nat := if o.kind = .mst ∧ o.ra = n then 1 else 0
def MatOp.names (o : MatOp) (n : Nat) : Bool :=
  match o.kind with
  | .mma => o.ra == n || o.rb == n
  | .mchk => o.ra == n || o.rb == n
  | .mld => o.ra == n
  | .mst => o.ra == n
  | .mzero => false

/-- Occupied slots that no accepted operation will pop, where the state allows pops (R114, R119). -/
def Core.slotsFull (k : Core) (n : Nat) : Nat :=
  let r := k.ring n
  if r.state = .opened ∨ r.state = .loading then r.occ - (k.matQ.map (fun o => o.pops n)).sum else 0
/-- Free slots that no accepted operation will fill, where the state allows pushes (R114, R119). -/
def Core.slotsFree (k : Core) (n : Nat) : Nat :=
  let r := k.ring n
  if r.state = .opened ∨ r.state = .storing then r.count - r.occ - (k.matQ.map (fun o => o.pushes n)).sum else 0

/-- One slot leaves at the head; POPEV sets the core's latches. -/
def State.popSlot (s : State) (c n : Nat) : State :=
  let r := (s.core c).ring n
  let s := s.updRing c n (fun r => { r with head := (r.head + 1) % max 1 r.count, occ := r.occ - 1 })
  if r.popEv then s.latchAll c else s
/-- Slots enter at the tail; PUSHEV sets the core's latches. -/
def State.pushSlots (s : State) (c n k : Nat) : State :=
  let r := (s.core c).ring n
  let s := s.updRing c n (fun r => { r with tail := (r.tail + k) % max 1 r.count, occ := r.occ + k })
  if r.pushEv then s.latchAll c else s

/-! Acceptance (R119, R366). -/

/-- Two operations wait and one executes (R366). -/
def Core.matFull (k : Core) : Bool := 3 ≤ k.matQ.length

/-- Accept a MAT operation: it samples the CSRs it reads (R56), and those other than MZERO take the thread's number (R118). -/
def State.matAccept (s : State) (kind : MatKind) (tile ra rb : Nat) (ka kb : Bool) : State :=
  let s := s.release
  let t := s.me
  let k := s.myCore
  let o : MatOp := ⟨k.matId, s.cur.slot, kind, tile, ra, rb, ka, kb, t.opNum, t.csr 0x030, t.csr 0x031, t.csr 0x032,
    t.csr 0x010, k.serial⟩
  (s.updMyCore (fun k => { k with matQ := k.matQ ++ [o], matId := k.matId + 1, serial := k.serial + 1 })).updMe (fun t =>
    { t with opNum := if kind = .mzero then t.opNum else t.opNum + 1 })

/-- The slots an operation needs are there (R119). -/
def Core.slotTest (k : Core) (rings : List Nat) (push : Bool) : Bool :=
  rings.all (fun n => 0 < (if push then k.slotsFree n else k.slotsFull n))

/-- A MAT instruction: stalled while the queue is full, BLOCKED while its slots are not there, then accepted. -/
def State.matIssue (s : State) (i : Instr) (rings : List Nat) (push : Bool) (go : State → State) : Out :=
  .next (if s.myCore.matFull then s
    else if !s.myCore.slotTest rings push then s.wait (.ringSlot rings push) i
    else go s)

def ringId (v : Word) : Nat := bits v 2 0
def ringPair (a b : Nat) : List Nat := if a = b then [a] else [a, b]

/-- Accept in checksum mode: the thread is BLOCKED until the operation retires (R124). -/
def State.matCheck (s : State) (tile a b : Nat) (ka kb : Bool) (i : Instr) : State :=
  let id := s.myCore.matId
  (s.matAccept .mchk tile a b ka kb).wait (.check id) i

def execMma (d : TileCode) (a b : Reg) (ka kb : Bool) (s : State) : Out :=
  match s.me.state with
  | .blocked (.check _) _ => .next s
  | _ =>
    let x := ringId (s.reg a)
    let y := ringId (s.reg b)
    s.matIssue (.mma d a b ka kb) (ringPair x y) false (fun s =>
      if (s.me.csr 0x035).getLsbD 0 then s.matCheck d.toNat x y ka kb (.mma d a b ka kb)
      else (s.matAccept .mma d.toNat x y ka kb).advance)
def execMchk (d : TileCode) (a b : Reg) (ka kb : Bool) (s : State) : Out :=
  match s.me.state with
  | .blocked (.check _) _ => .next s
  | _ =>
    let x := ringId (s.reg a)
    let y := ringId (s.reg b)
    s.matIssue (.mchk d a b ka kb) (ringPair x y) false (fun s => s.matCheck d.toNat x y ka kb (.mchk d a b ka kb))
def execMzero (d : TileCode) (s : State) : Out :=
  s.matIssue (.mzero d) [] false (fun s => (s.matAccept .mzero d.toNat 0 0 false false).advance)
def execMld (d : TileCode) (a : Reg) (s : State) : Out :=
  let x := ringId (s.reg a)
  s.matIssue (.mld d a) [x] false (fun s => (s.matAccept .mld d.toNat x x false false).advance)
def execMst (d : TileCode) (a : Reg) (s : State) : Out :=
  let x := ringId (s.reg a)
  s.matIssue (.mst d a) [x] true (fun s => (s.matAccept .mst d.toNat x x false false).advance)

/-- Accepted operations of the current thread that name a tile (R93, R125). -/
def Core.tileBusy (k : Core) (slot tile : Nat) : Bool :=
  k.matQ.any (fun o => o.slot == slot && o.tile == tile && (k.thread slot).born ≤ o.serial)
def execMwait (d : TileCode) (s : State) : Out :=
  .next (if s.myCore.tileBusy s.cur.slot d.toNat then s.wait (.tile d.toNat) (.mwait d) else s.advance)

/-! Operand elements (R115, R116, R121). -/

/-- Bytes of a slot, and whether each meets an uncorrectable word or lies past the slot's end. -/
def Core.slotByte (k : Core) (r : Ring) (i o : Nat) : Byte := k.mem.byte (r.slotOff i + o)
def Core.slotBad (k : Core) (r : Ring) (i o n : Nat) : Bool :=
  decide (r.slotBytes < o + n) ||
    k.eccBad.any (fun w => r.slotOff i + o < 8 * w + 8 && 8 * w < r.slotOff i + o + n)

/-- Elements a slot of a format holds in one row: 384 of a byte, 192 of two (R115). -/
def fmtWide (fmt : Nat) : Bool := fmt == 1 || fmt == 2

/-- A plain element's value; `none` when it is uncorrectable. -/
def Core.plainElem (k : Core) (r : Ring) (slot fmt row e : Nat) : Option FVal :=
  let n := if fmtWide fmt then 2 else 1
  let o := 384 * row + n * e
  if k.slotBad r slot o n then none
  else
    let v := (List.range n).foldr (fun j acc => acc * 256 + (k.slotByte r slot (o + j)).toNat) 0
    some (if fmt = 1 then Fmt.bf16.unpack v
      else if fmt = 2 then Fmt.f16.unpack v
      else if fmt = 3 then unpackF8A v
      else if fmt = 4 then unpackF8B v
      else let x := (BitVec.ofNat 8 v).toInt; .fin (x < 0) x.natAbs 0)

/-- The blocks of an E8C slot from an offset on: each gives 64 elements (R115, R116). Past a block whose header is itself
uncorrectable the walk goes on by the stored length, which the manual does not say (log entry 29). -/
def Core.e8cBlocks (k : Core) (r : Ring) (slot : Nat) : Nat → Nat → List (Option FVal)
  | 0, _ => []
  | n + 1, o =>
    let dead := List.replicate (64 * (n + 1)) none
    if r.slotBytes < o + 2 then dead
    else
      let head := (List.range 2).map (fun j => k.slotByte r slot (o + j))
      let len := e8cLength head
      if r.slotBytes < o + len then dead
      else
        let bs := (List.range len).map (fun j => k.slotByte r slot (o + j))
        let d := e8cDecode bs
        let es := if k.slotBad r slot o len then List.replicate 64 none
          else d.1.map (fun x => x.map (fun b => if d.2 then unpackF8B b.toNat else unpackF8A b.toNat))
        es ++ k.e8cBlocks r slot n (o + len)

/-- The 16 rows of an operand slot. -/
def Core.operand (k : Core) (r : Ring) (slot fmt : Nat) : List (List (Option FVal)) :=
  if fmt = 7 then
    let es := k.e8cBlocks r slot 96 0
    lanes.map (fun i => (es.drop (384 * i)).take 384)
  else
    let n := if fmtWide fmt then 192 else 384
    lanes.map (fun i => (List.range n).map (fun e => k.plainElem r slot fmt i e))

/-- Row and element of every uncorrectable element. -/
def badElems (m : List (List (Option FVal))) : List (Nat × Nat) :=
  m.zipIdx.flatMap (fun row => row.1.zipIdx.filterMap (fun e => if e.1.isNone then some (row.2, e.2) else none))

/-! The products (R34-R36, R123). -/

def elemOr0 (x : Option FVal) : FVal := x.getD (.fin false 0 0)
def FVal.isInf (v : FVal) : Bool :=
  match v with
  | .inf _ => true
  | _ => false
def FVal.sgn (v : FVal) : Bool :=
  match v with
  | .nan _ => false
  | .inf s => s
  | .fin s _ _ => s
def FVal.isZero (v : FVal) : Bool :=
  match v with
  | .fin _ m _ => m == 0
  | _ => false
def FVal.dy (v : FVal) : Dy :=
  match v with
  | .fin s m e => Dy.ofParts s m e
  | _ => Dy.zero

/-- One accumulator element of a floating-point MMA; `sh` is the exponent of sa x sb. -/
def mmaFloat (mode : RMode) (acc : W32) (as bs : List (Option FVal)) (sh : Int) : W32 × FFlags :=
  let c := unpack32 acc
  let ps := (as.map elemOr0).zip (bs.map elemOr0)
  let anyNan := c.isNan || ps.any (fun p => p.1.isNan || p.2.isNan)
  let prods := ps.filterMap (fun p => if p.1.isNan || p.2.isNan then none else some (mulExact p.1 p.2))
  let terms := prods.filterMap id ++ (if c.isNan then [] else [c])
  let pinf := terms.any (fun v => v.isInf && !v.sgn)
  let ninf := terms.any (fun v => v.isInf && v.sgn)
  let invalid := prods.any (fun p => p.isNone) || (pinf && ninf)
  if anyNan || invalid then (nan32, if invalid || c.isSig then flagNV else 0)
  else if pinf then (inf32, 0)
  else if ninf then (ninf32, 0)
  else
    let sum := (prods.filterMap id).foldl (fun acc v => acc.add v.dy) Dy.zero
    let t := c.dy.add ⟨sum.n, sum.e + sh⟩
    let allZero := terms.all (fun v => v.isZero)
    let zneg := if allZero && terms.all (fun v => v.sgn == c.sgn) then c.sgn else mode == .rdn
    t.round32 mode zneg

/-- One accumulator element of an I8 MMA (R36). -/
def mmaInt (acc : W32) (as bs : List (Option FVal)) : W32 :=
  BitVec.ofInt 32 (acc.toInt + ((as.zip bs).map (fun p => (elemOr0 p.1).dy.n * (elemOr0 p.2).dy.n)).sum)

/-- e_i of MSCA or MSCB, signed (Table 7-3). -/
def scaleExp (v : Word) (i : Nat) : Int :=
  let n := bits v (4 * i + 3) (4 * i)
  if n < 8 then (n : Int) else (n : Int) - 16

/-- The tile that an MMA leaves, and its flags. -/
def mmaTile (o : MatOp) (old : Nat → Row) (a b : List (List (Option FVal))) : List Row × FFlags :=
  let fmt := bits o.mfmt 3 0
  let scaled := o.mfmt.getLsbD 12
  let mode := RMode.ofCode o.frm.toNat
  let cell (i j : Nat) : W32 × FFlags :=
    let x := (old i).lane j
    let as := a.getD i []
    let bs := b.getD j []
    if fmt = 5 then (mmaInt x as bs, 0)
    else mmaFloat mode x as bs (if scaled then scaleExp o.msca i + scaleExp o.mscb j else 0)
  let rows := lanes.map (fun i => lanes.map (cell i))
  (rows.map (fun r => Row.ofLanes (fun j => (r.getD j (0, 0)).1)),
    rows.foldl (fun acc r => r.foldl (fun acc c => acc ||| c.2) acc) 0)

/-! Retirement (R120, R121, R123-R125). -/

/-- The operation's thread still runs what issued it. -/
def State.opAlive (s : State) (c : Nat) (slot serial : Nat) : Bool := ((s.core c).thread slot).born ≤ serial

/-- Count zero-replaced elements: event 0x14 and the lifetime record (R121, R145). -/
def State.countZeroed (s : State) (c n : Nat) : State :=
  let s := s.hpm c 0x14 n
  { s with mgmt := { s.mgmt with life := { s.mgmt.life with zeroed := min (2 ^ 64 - 1) (s.mgmt.life.zeroed + n) } } }

/-- MERR and MERRLOG after replaced elements, the first of them at the log (Table 7-3). -/
def Thread.merr (t : Thread) (n : Nat) (opNum : W32) (operand ring row elem : Nat) : Thread :=
  if n = 0 then t
  else
    let c := min 0xFFFFFFFF (bits (t.csr 0x033) 31 0 + n)
    (t.setCsr 0x033 (BitVec.ofNat 64 (2 ^ 32 + c))).setCsr 0x034
      (BitVec.ofNat 64 (opNum.toNat * 2 ^ 32 + operand * 2 ^ 23 + ring * 2 ^ 20 + row * 2 ^ 16 + elem))

def Thread.tileRow (t : Thread) (tile i : Nat) : Row := t.row (16 * tile + i)
def Thread.setTile (t : Thread) (tile : Nat) (rows : List Row) : Thread :=
  rows.zipIdx.foldl (fun t r => t.setRow (16 * tile + r.2) r.1) t

/-- Write a tile, flags, MERR and the latch of the thread an operation belongs to. -/
def State.matCommit (s : State) (c : Nat) (o : MatOp) (rows : List Row) (f : FFlags) (bad : List (Nat × Nat × Nat × Nat)) :
    State :=
  let s := s.countZeroed c bad.length
  if s.opAlive c o.slot o.serial then
    let (x, ring, row, el) := bad.headD (0, 0, 0, 0)
    ((s.updThread ⟨c, o.slot⟩ (fun t => { (t.setTile o.tile rows).merr bad.length o.opNum x ring row el with latch := true })).accrueAt
      ⟨c, o.slot⟩ f)
  else s

/-- Pop what an operation pops. -/
def State.matPops (s : State) (c : Nat) (o : MatOp) : State :=
  (ringPair o.ra o.rb).foldl (fun s n => if o.pops n = 0 then s else s.popSlot c n) s

/-- The product of an MMA or MCHK at the heads of its rings, committed. Where both names are one ring, an uncorrectable element
counts as an element of A and as one of B: the manual does not say (log entry 29). -/
def State.matProduct (s : State) (c : Nat) (o : MatOp) : State :=
  let k := s.core c
  let ra := k.ring o.ra
  let rb := k.ring o.rb
  let a := k.operand ra ra.head (bits o.mfmt 3 0)
  let b := k.operand rb rb.head (bits o.mfmt 7 4)
  let r := mmaTile o (fun i => (k.thread o.slot).tileRow o.tile i) a b
  let bad := (badElems a).map (fun e => (0, o.ra, e.1, e.2)) ++ (badElems b).map (fun e => (1, o.rb, e.1, e.2))
  (s.matCommit c o r.1 r.2 bad).matPops c o

/-- MLD: the head slot's words into the tile (R125). -/
def State.matLoad (s : State) (c : Nat) (o : MatOp) : State :=
  let k := s.core c
  let r := k.ring o.ra
  let bad (i j : Nat) : Bool := k.slotBad r r.head (64 * i + 4 * j) 4
  let word (i j : Nat) : W32 := BitVec.ofNat 32 (leNat ((List.range 4).map (fun b => k.slotByte r r.head (64 * i + 4 * j + b))))
  let rows := lanes.map (fun i => Row.ofLanes (fun j => if bad i j then 0 else word i j))
  let bads := lanes.flatMap (fun i => (lanes.filter (bad i)).map (fun j => (0, o.ra, i, j)))
  (s.matCommit c o rows 0 bads).matPops c o

/-- A lane converted for MST: bytes and flags (R125, Table 3-4). -/
def mstLane (out : Nat) (mode : RMode) (x : W32) : List Byte × FFlags :=
  if out = 1 then let r := cvtBf16 mode x; (leBytes 2 r.1, r.2)
  else if out = 2 then let r := cvtF16 mode x; (leBytes 2 r.1, r.2)
  else if out = 3 then let r := cvtF8A mode x; (leBytes 1 r.1, r.2)
  else if out = 4 then let r := cvtF8B mode x; (leBytes 1 r.1, r.2)
  else if out = 5 then (leBytes 1 (cvtI32I8 x), 0)
  else (w32Bytes x, 0)

/-- MST: the converted tile into the tail slot, which is pushed (R125). -/
def State.matStore (s : State) (c : Nat) (o : MatOp) : State :=
  let k := s.core c
  let r := k.ring o.ra
  let out := bits o.mfmt 11 8
  let mode := RMode.ofCode o.frm.toNat
  let rows := lanes.map (fun i => lanes.map (fun j => mstLane out mode (((k.thread o.slot).tileRow o.tile i).lane j)))
  let s := rows.zipIdx.foldl (fun s row =>
    let bs := row.1.flatMap (·.1)
    let bs := bs ++ List.replicate (64 - bs.length) 0
    s.writeAt c (.loc (r.slotOff r.tail + 64 * row.2)) (bs.take (r.slotBytes - 64 * row.2))) s
  let f := rows.foldl (fun acc row => row.foldl (fun acc x => acc ||| x.2) acc) 0
  let s := s.pushSlots c o.ra 1
  if s.opAlive c o.slot o.serial then (s.accrueAt ⟨c, o.slot⟩ f).latchThread ⟨c, o.slot⟩ else s

def State.addRerun (s : State) : State :=
  { s with mgmt := { s.mgmt with life := { s.mgmt.life with reruns := min (2 ^ 64 - 1) (s.mgmt.life.reruns + 1) } } }
def State.waitsCheck (s : State) (t : ThreadId) (id : Nat) : Bool :=
  match (s.thread t).state with
  | .blocked (.check i) _ => i == id
  | _ => false

/-- A row or column that no check leaves out: it holds no infinite and no NaN element (R124). -/
def checkedLine (l : List (Option FVal)) : Bool := l.all (fun e => !(elemOr0 e).isNan && !(elemOr0 e).isInf)
/-- Some check is made: a row of A and a column of B are left in. -/
def State.checksMade (s : State) (c : Nat) (o : MatOp) : Bool :=
  let k := s.core c
  let ra := k.ring o.ra
  let rb := k.ring o.rb
  (k.operand ra ra.head (bits o.mfmt 3 0)).any checkedLine && (k.operand rb rb.head (bits o.mfmt 7 4)).any checkedLine

/-- MCHK in checksum mode (R124): how many mismatches it meets is free where any check is made. -/
def State.matCheckDone (s : State) (c : Nat) (o : MatOp) : State :=
  let n := if s.checksMade c o then Config.checkMismatch s.freeCount else 0
  let s := s.fresh
  let t : ThreadId := ⟨c, o.slot⟩
  let s := if n = 0 then s else s.addRerun
  if n < 2 then
    let s := s.matProduct c o
    if s.waitsCheck t o.id then s.asThread t State.advance else s
  else if s.waitsCheck t o.id then s.trapAt t 9 (BitVec.ofNat 64 o.tile) else s

/-- The oldest accepted operation of a core completes (R120). -/
def execMatOpRetire (core : Nat) (s : State) : Out :=
  .next (match (s.core core).matQ with
    | [] => s
    | o :: rest =>
      let s := s.updCore core (fun k => { k with matQ := rest })
      match o.kind with
      | .mma => (s.matProduct core o).hpm core 0x13 1
      | .mchk => s.matCheckDone core o
      | .mzero => s.matCommit core o (List.replicate 16 0) 0 []
      | .mld => s.matLoad core o
      | .mst => s.matStore core o)

/-! Ring instructions (R115, R126). -/

def State.ringLocal (s : State) (b : Word) (go : State → List Byte → State) : State := s.localBlock b 32 8 true go

/-- A descriptor whose fields break Table 7-2. -/
def badRing (d0 d1 : Word) : Bool :=
  let count := bits d1 23 16
  let sb := bits d1 15 0
  count != 0 && (bits d1 63 34 != 0 || bits d1 31 28 != 0 || 7 < bits d1 27 24 || count < 2 || 32 < count
    || sb < 64 || 6144 < sb || sb % 64 != 0 || d0.toNat % 64 != 0 || addrClass d0 != .loc
    || localBase.toNat + localBytes < d0.toNat + sb * count)

/-- Ring `n` is LOADING, STORING or FAILED, or an accepted operation names it (R115; FAILED: log entry 11). -/
def Core.ringBusy (k : Core) (n : Nat) : Bool :=
  let r := k.ring n
  r.state == .loading || r.state == .storing || r.state == .failed || k.matQ.any (fun o => o.names n)
def Core.ringOverlap (k : Core) (n : Nat) (base sb count : Nat) : Bool :=
  (List.range 8).any (fun m =>
    let r := k.ring m
    m != n && r.state != .free && base < r.base.toNat + r.slotBytes * r.count && r.base.toNat < base + sb * count)

/-- The status of R115. -/
def State.ringStatus (s : State) (n : Nat) (d0 d1 : Word) : Nat :=
  let k := s.myCore
  let count := bits d1 23 16
  let sb := bits d1 15 0
  if badRing d0 d1 then 1
  else if k.ringBusy n then 2
  else if count = 0 then 0
  else if k.ringOverlap n d0.toNat sb count then 3
  else if (k.protRefused (!s.me.sup) d0.toNat (sb * count) true true).isSome then 4
  else 0

/-- The ring a descriptor makes. The count of slots transferred by the last subscription starts again at 0, which the manual does not
say (log entry 29). -/
def ringOf (d0 d1 : Word) : Ring :=
  if bits d1 23 16 = 0 then Ring.reset
  else { Ring.reset with
    state := .opened, base := d0, slotBytes := bits d1 15 0, count := bits d1 23 16, fmt := bits d1 27 24
    pushEv := d1.getLsbD 32, popEv := d1.getLsbD 33 }

def execRinit (d a b : Reg) (s : State) : Out :=
  let n := ringId (s.reg a)
  .next (s.ringLocal (s.reg b) (fun s bs =>
    let st := s.ringStatus n (dwordAt bs 0) (dwordAt bs 8)
    let s := if st = 0 then s.updRing s.cur.core n (fun _ => ringOf (dwordAt bs 0) (dwordAt bs 8)) else s
    s.put d (BitVec.ofNat 64 st)))

def execRpush (d a b : Reg) (s : State) : Out :=
  let r := ringId (s.reg a)
  let n := bits (s.reg b) 5 0
  let ring := s.myCore.ring r
  .next (
    if (ring.state ≠ .opened ∧ ring.state ≠ .storing) ∨ ring.count < n then (s.release.put d 1)
    else if n = 0 then s.release.put d 0
    else if s.myCore.slotsFree r < n then s.release.wait (.ringPush r n) (.rpush d a b)
    else (s.release.pushSlots s.cur.core r n).put d 0)

/-- The extent of a subscription's global bytes: lowest, and one past the highest (R126). -/
def subExtent (g : Word) (n rows rb : Nat) (rs ss : Word) : Int × Int :=
  let x : Int := ss.toInt * ((n : Int) - 1)
  let y : Int := rs.toInt * ((rows : Int) - 1)
  (g.toNat + min 0 x + min 0 y, g.toNat + max 0 x + max 0 y + rb)

/-- A block whose fields break Table 7-7. Row bytes of 0 and an extent that leaves the global class are refused too, which R126's list
does not name (log entry 29). -/
def badSub (r : Ring) (d0 d1 d2 d3 : Word) : Bool :=
  let n := bits d1 63 32
  let rows := bits d1 20 16
  let rb := bits d1 15 0
  let e := subExtent d0 n rows rb d2 d3
  bits d1 31 21 != 0 || d0.toNat % 64 != 0 || r.slotBytes < rows * rb || n == 0 || rows == 0 || 16 < rows || rb == 0
    || rb % 64 != 0 || d2.toNat % 64 != 0 || d3.toNat % 64 != 0 || e.1 < 0 || (2 : Int) ^ 56 < e.2

/-- Accepted operations that have still to pop (for a storer) or push (for a loader) slots of a ring, which the subscription's state
will not let them (R114). An MMA or MCHK that keeps its slot pops none and does not hold a storer back, which may take that slot before
the operation reads the head (log entry 29). -/
def Core.subWaits (k : Core) (n : Nat) (storer : Bool) : Bool :=
  k.matQ.any (fun o => 0 < (if storer then o.pops n else o.pushes n))

/-- RSUB (R126). It stays in the ring unit's queue while an accepted operation has still to take or fill slots of the ring, and ids
count from 1 on each core (log entry 29). -/
def execRsub (d a b : Reg) (storer : Bool) (s : State) : Out :=
  let n := ringId (s.reg a)
  .next (if s.myCore.subWaits n storer then s else s.ringLocal (s.reg b) (fun s bs =>
    let ring := s.myCore.ring n
    let d0 := dwordAt bs 0
    let d1 := dwordAt bs 8
    if ring.state ≠ .opened ∨ badSub ring d0 d1 (dwordAt bs 16) (dwordAt bs 24) ∨ (storer ∧ s.myCore.freeRanges = 0) then
      s.put d 0
    else
      let s := s.release
      let k := s.myCore
      let sub : Sub := ⟨s.cur, d0, bits d1 63 32, bits d1 20 16, bits d1 15 0, dwordAt bs 16, dwordAt bs 24, !s.me.sup, false, k.serial⟩
      let e := subExtent d0 sub.n sub.rows sub.rowBytes sub.rowStride sub.slotStride
      let id := k.subId % 0xFFFFFFFF + 1
      let s := s.updMyCore (fun k =>
        let k := { k.setRing n { ring with state := if storer then .storing else .loading, sub := some sub, moved := 0 } with
          subId := id, serial := k.serial + 1 }
        if storer then k.addRange true e.1.toNat e.2.toNat n else k)
      s.put d (BitVec.ofNat 64 id)))

/-- The waits of a thread, rewritten: the one it is BLOCKED or PARKED in, and the one that has ended at its instruction. -/
def Thread.mapWaits (t : Thread) (f : Wait → Wait) : Thread :=
  { t with
    woke := t.woke.map (fun q => (f q.1, q.2))
    state := match t.state with
      | .blocked w l => .blocked (f w) l
      | .parked hard (some (w, l)) => .parked hard (some (f w, l))
      | st => st }
/-- A RUNSUB that waits for the subscription of ring `n` learns that it has ended, and with how many slots transferred. -/
def Wait.subEnds (n moved : Nat) (w : Wait) : Wait :=
  match w with
  | .unsub r target none => if r = n then .unsub r target (some moved) else w
  | w => w
/-- The subscription of a ring ends: a storer's range is released, and every RUNSUB that waits for it is told (R126). -/
def State.endSub (s : State) (c n : Nat) (st : RingState) : State :=
  (s.updCore c (fun k => { (k.setRing n { k.ring n with state := st, sub := none }).dropRange n with
    threads := k.threads.map (fun p => (p.1, p.2.mapWaits (Wait.subEnds n (k.ring n).moved))) })).dropReq (.ring c n)

/-- RUNSUB: a loader stops at once; a storer first writes what was pushed before the RUNSUB. A subscription that ends meanwhile ends
the wait with its own count, whatever the ring has taken on since (R126). -/
def execRunsub (d a : Reg) (s : State) : Out :=
  let n := ringId (s.reg a)
  let r := s.myCore.ring n
  let fin := (s.endSub s.cur.core n .opened).put d (BitVec.ofNat 64 r.moved)
  .next (
    match s.me.waitOf with
    | some (.unsub _ _ (some moved)) => s.put d (BitVec.ofNat 64 moved)
    | some (.unsub _ target none) =>
      if r.state = .storing then (if target ≤ r.moved then fin else s)
      else if r.state = .failed then fin
      else s.put d (BitVec.ofNat 64 r.moved)
    | _ =>
      if r.sub.isNone then s.put d (BitVec.allOnes 64)
      else if r.state = .storing ∧ r.occ ≠ 0 then s.wait (.unsub n (r.moved + r.occ) none) (.runsub d a)
      else fin)

def RingState.code (x : RingState) : Nat :=
  match x with
  | .free => 0
  | .opened => 1
  | .loading => 2
  | .storing => 3
  | .failed => 4
/-- RSTAT's word (Table 7-8). -/
def Ring.word (r : Ring) : Word :=
  BitVec.ofNat 64 (r.state.code * 2 ^ 61 + r.head * 2 ^ 56 + r.tail * 2 ^ 51 + r.occ * 2 ^ 40 + r.count * 2 ^ 32 + r.moved)
def execRstat (d a : Reg) (s : State) : Out := .next (s.put d (s.myCore.ring (ringId (s.reg a))).word)

/-! Loaders and storers (R127). -/

/-- Row addresses of the slot a subscription comes to next. -/
def Ring.rowAddrs (r : Ring) (u : Sub) : List Word :=
  (List.range u.rows).map (fun i => u.gaddr + BitVec.ofNat 64 r.moved * u.slotStride + BitVec.ofNat 64 i * u.rowStride)

/-- Translate engine addresses of 64-byte aligned runs of `n` bytes: the places, or the first that stops the transfer. -/
def State.engineRun (s : State) (c ctx : Nat) (user : Bool) (k : Access) (as : List Word) (n : Nat) :
    Option (Word × Checked) × List (List Place) :=
  let blocks (a : Word) : List Word := (List.range ((n + 63) / 64)).map (fun j => a + BitVec.ofNat 64 (64 * j))
  let cs := as.map (fun a => (blocks a).map (fun b => (b, s.translate (clusterOf c) ctx b k user)))
  let bad := cs.flatten.find? (fun x => match x.2 with | .ok _ => false | _ => true)
  (bad, cs.map (fun l => l.filterMap (fun x => match x.2 with | .ok p => some p | _ => none)))

/-- A ring's subscription is held on a page (R127). -/
def State.holdRing (s : State) (c n : Nat) (u : Sub) (va : Word) (k : Access) : State :=
  match s.joinMiss (dieOf c) (s.coreCtx c) va k u.user u.thread (.ring c n) with
  | none => s
  | some (_, s) => s.updRing c n (fun r => { r with sub := some { u with held := true } })

/-- One more slot has been transferred; after the last the ring is OPEN, and the subscription has retired (Table 7-1, R85). -/
def State.slotMoved (s : State) (c n : Nat) (u : Sub) : State :=
  let s := s.updRing c n (fun r => { r with moved := r.moved + 1 })
  if ((s.core c).ring n).moved = u.n then
    let s := s.endSub c n .opened
    if s.opAlive u.thread.core u.thread.slot u.serial then s.latchThread u.thread else s
  else s

def execLoaderSlotLand (core ring : Nat) (s : State) : Out :=
  let r := (s.core core).ring ring
  .next (match r.sub with
    | none => s
    | some u =>
      if r.state ≠ .loading ∨ u.held ∨ r.count ≤ r.occ + ((s.core core).matQ.map (fun o => o.pushes ring)).sum then s
      else match s.engineRun core (s.coreCtx core) u.user .loader (r.rowAddrs u) u.rowBytes with
        | (some (va, _), _) => s.holdRing core ring u va .loader
        | (none, rows) =>
          let s := s.sentBy (some (u.thread, u.serial)) 0 (s.readBy core (rows.flatten.map (fun p => (p, 64))))
          let s := rows.zipIdx.foldl (fun s row => row.1.zipIdx.foldl (fun s p =>
            s.writeAt core (.loc (r.slotOff r.tail + row.2 * u.rowBytes + 64 * p.2)) (s.engineBytes core p.1 64)) s) s
          (s.pushSlots core ring 1).slotMoved core ring u)

def execStorerSlotWritten (core ring : Nat) (s : State) : Out :=
  let r := (s.core core).ring ring
  .next (match r.sub with
    | none => s
    | some u =>
      if r.state ≠ .storing ∨ u.held ∨ r.occ = 0 then s
      else match s.engineRun core (s.coreCtx core) u.user .storer (r.rowAddrs u) u.rowBytes with
        | (some (_, .trap _ _), _) => s.updRing core ring (fun r => { r with state := .failed })
        | (some (va, _), _) => s.holdRing core ring u va .storer
        | (none, rows) =>
          let s := (r.rowAddrs u).foldl (fun s a => (s.dirtyAt (clusterOf core) (s.coreCtx core) a).dirtyAt (clusterOf core)
            (s.coreCtx core) (a + BitVec.ofNat 64 (u.rowBytes - 64))) s
          let s := s.sentBy (some (u.thread, u.serial)) 0 (rows.zipIdx.foldl (fun s row => row.1.zipIdx.foldl (fun s p =>
            s.writeAt core p.1 (s.engineBytes core (.loc (r.slotOff r.head + row.2 * u.rowBytes + 64 * p.2)) 64)) s) s)
          (s.popSlot core ring).slotMoved core ring u)

end Sys2Proof.Machine
end

