-- ==== Sys2Proof/Machine/Copy.lean ====
section
/-! DEFINITION. The copy engine and the indirect streams (R144-R155). -/

namespace Sys2Proof.Machine

open Sys2Proof

/-! Extents (R146). -/

/-- The lowest and one past the highest byte of strided rows of `n` bytes. -/
def extent (base : Word) (rows : Nat) (stride : Word) (n : Nat) : Int × Int :=
  let x : Int := stride.toInt * ((rows : Int) - 1)
  (base.toNat + min 0 x, base.toNat + max 0 x + n)
/-- An extent lies wholly in one address class (R128). -/
def inClass (e : Int × Int) : Bool :=
  (0 ≤ e.1 && e.2 ≤ (2 : Int) ^ 56) || ((localBase.toNat : Int) ≤ e.1 && e.2 ≤ ((localBase.toNat + localBytes : Nat) : Int))
def extentsMeet (e f : Int × Int) : Bool := e.1 < f.2 && f.1 < e.2

/-- Bytes of a row at the source and at the destination, at their largest (R145, R146). -/
def srcRow (mode len : Nat) : Nat := if mode = 2 then len / 64 * 66 else if mode = 4 then 128 + 65536 else len
def dstRow (mode len : Nat) : Nat := if mode = 1 then len / 64 * 66 else if mode = 3 then 128 + 65536 else len

/-- The copy a thread's CSRs describe (Table 8-10). -/
def Thread.copyOf (t : Thread) (slot : Nat) (tag : W32) (rangeId serial : Nat) : Copy where
  slot := slot
  tag := tag
  src := t.csr 0x100
  dst := t.csr 0x101
  len := bits (t.csr 0x102) 31 0
  rows := bits (t.csr 0x103) 31 0
  sstr := t.csr 0x104
  dstr := t.csr 0x105
  mode := bits (t.csr 0x106) 2 0
  f8b := (t.csr 0x106).getLsbD 4
  scope := bits (t.csr 0x107) 2 0
  user := !t.sup
  row := 0
  srcOff := 0
  dstOff := 0
  map := 0
  held := false
  heldVa := 0
  rangeId := rangeId
  serial := serial

def Copy.srcExtent (c : Copy) : Int × Int := extent c.src c.rows c.sstr (srcRow c.mode c.len)
def Copy.dstExtent (c : Copy) : Int × Int := extent c.dst c.rows c.dstr (dstRow c.mode c.len)

/-- A field is out of range or a mode's requirement does not hold (R144, R145). -/
def Copy.badFields (c : Copy) : Bool :=
  c.len == 0 || c.rows == 0 || 0xFFFFFFFF < c.len * c.rows || 5 < c.mode || 5 < c.scope
    || (c.mode == 1 && (c.len % 64 != 0 || (1 < c.rows && c.dstr.toInt < (c.len / 64 * 66 : Nat))))
    || (c.mode == 2 && (c.len % 64 != 0 || (1 < c.rows && c.sstr.toInt < (c.len / 64 * 66 : Nat))))
    || (c.mode == 3 && (c.len != 65536 || c.rows != 1 || c.src.toNat % 65536 != 0 || c.dst.toNat % 64 != 0))
    || (c.mode == 4 && (c.len != 65536 || c.rows != 1 || c.src.toNat % 64 != 0 || c.dst.toNat % 65536 != 0))

/-- The protection unit refuses a local byte of an extent. -/
def Core.extentRefused (k : Core) (user : Bool) (e : Int × Int) (rd wr : Bool) : Bool :=
  (localBase.toNat : Int) ≤ e.1 && (k.protRefused user e.1.toNat (e.2 - e.1).toNat rd wr).isSome

/-- Why a copy is refused (R146). -/
def Core.copyRefused (k : Core) (c : Copy) : Bool :=
  let s := c.srcExtent
  let d := c.dstExtent
  c.badFields || !inClass d || k.extentRefused c.user d false true
    || (c.mode != 5 && (extentsMeet s d || !inClass s || k.extentRefused c.user s true false))

/-- The tag after a tag: 0 is skipped (R148). -/
def nextTag (t : W32) : W32 := if t + 1 = 0 then 1 else t + 1

/-- The 16 newest records, and those of failed copies that no CWAIT has told of (R149, R150). -/
def keepRecs (l : List CopyRec) : List CopyRec :=
  let n := l.length
  l.zipIdx.filterMap (fun r => if n ≤ r.2 + 16 || (match r.1.state with | .failed _ _ => true | _ => false) then some r.1 else none)

def Core.copyFull (k : Core) : Bool := 3 ≤ k.copies.length

def execCpy (d : Reg) (s : State) : Out :=
  let t := s.me
  let k := s.myCore
  let tag := nextTag t.copyTag
  let c := t.copyOf s.cur.slot tag (8 + k.rangeNext) k.serial
  let need := if c.mode = 5 then 1 else 2
  .next (
    if (c.mode = 3 ∨ c.mode = 4) ∧ ¬ t.sup then s.priv (.cpy d)
    else if k.copyRefused c then s.put d 0
    else if k.copyFull then s
    else if k.freeRanges < need then s.wait (.ranges need) (.cpy d)
    else
      let s := s.release
      let st := if k.copies.isEmpty then CopyState.running else .queued
      let s := s.updMyCore (fun k =>
        let k := { k with copies := k.copies ++ [c], serial := k.serial + 1, rangeNext := k.rangeNext + 1 }
        let k := if c.mode = 5 then k else k.addRange false c.srcExtent.1.toNat c.srcExtent.2.toNat c.rangeId
        k.addRange true c.dstExtent.1.toNat c.dstExtent.2.toNat c.rangeId)
      let s := s.updMe (fun t => { t with copyTag := tag, copyRecs := keepRecs (t.copyRecs ++ [⟨tag, st, 0, 0⟩]) })
      s.put d (tag.setWidth 64))

/-! CWAIT, CSTAT (R149, R150). -/

def CopyState.busy (x : CopyState) : Bool :=
  match x with
  | .queued => true
  | .running => true
  | .held => true
  | .done => false
  | .failed _ _ => false
def CopyState.isFailed (x : CopyState) : Bool :=
  match x with
  | .failed _ _ => true
  | _ => false

/-- A CWAIT's last covered tag: `none` where the value names no accepted copy (R149). -/
def Thread.covers (t : Thread) (a : Word) : Option W32 :=
  if a = 0 then some t.copyTag
  else if (t.copyTag - a.setWidth 32).toNat < 2 ^ 31 then some (a.setWidth 32)
  else none
/-- Record `r` is of a tag up to `last`. -/
def Thread.covered (t : Thread) (last : W32) (r : CopyRec) : Bool := (t.copyTag - last).toNat ≤ (t.copyTag - r.tag).toNat
def Thread.copiesBusy (t : Thread) (last : W32) : Bool := t.copyRecs.any (fun r => t.covered last r && r.state.busy)

def execCwait (d a : Reg) (s : State) : Out :=
  let t := s.me
  .next (match t.covers (s.reg a) with
    | none => s.put d 1
    | some last =>
      if t.copiesBusy last then s.wait (.copies last) (.cwait d a)
      else match t.copyRecs.find? (fun r => t.covered last r && r.state.isFailed) with
        | none => s.put d 0
        | some r =>
          let s := s.updMe (fun t => { t with copyRecs := t.copyRecs.map (fun q =>
            if q.tag = r.tag then { q with state := .done } else q) })
          match r.state with
          | .failed c v => s.trap c v
          | _ => s)

def CopyState.code (x : CopyState) : Nat :=
  match x with
  | .queued => 0
  | .running => 1
  | .held => 2
  | .done => 3
  | .failed _ _ => 4
/-- CSTAT's word (Table 8-14). -/
def Thread.copyWord (t : Thread) (a : Word) : Word :=
  let tag : W32 := a.setWidth 32
  -- tag 0 is skipped, so a tag behind the wrap is one copy nearer than its distance
  let old := bits a 63 32 != 0 || 16 ≤ (t.copyTag - tag).toNat - (if t.copyTag.ult tag then 1 else 0)
  match t.copyRecs.find? (fun r => r.tag.setWidth 64 == a) with
  | none => BitVec.ofNat 64 (5 * 2 ^ 61)
  | some r => if old then BitVec.ofNat 64 (5 * 2 ^ 61)
    else BitVec.ofNat 64 (r.state.code * 2 ^ 61 + min 0xFFFF r.zeroed * 2 ^ 32 + r.written % 2 ^ 32)
def execCstat (d a : Reg) (s : State) : Out := .next (s.put d (s.me.copyWord (s.reg a)))

/-! Units (R151). -/

/-- Pieces of `n` bytes at an address that stay within 64 KiB pages. -/
def pieces (va : Word) (n : Nat) : List (Word × Nat) :=
  let a := va.toNat % 65536
  if a + n ≤ 65536 then [(va, n)]
  else
    let first := 65536 - a
    let rest := n - first
    (va, first) :: (List.range ((rest + 65535) / 65536)).map (fun i =>
      (va + BitVec.ofNat 64 (first + 65536 * i), min 65536 (rest - 65536 * i)))

/-- An engine's places for `n` bytes: local bytes were checked when the operation was accepted; global bytes translate. -/
def State.engineSpan (s : State) (c ctx : Nat) (user : Bool) (k : Access) (va : Word) (n : Nat) :
    Except (Word × Checked) (List (Place × Nat)) :=
  match addrClass va with
  | .loc => .ok [(.loc (localOff va), n)]
  | _ =>
    let cs := (pieces va n).map (fun p => (p.1, p.2, s.translate (clusterOf c) ctx p.1 k user))
    match cs.find? (fun x => match x.2.2 with | .ok _ => false | _ => true) with
    | some x => .error (x.1, x.2.2)
    | none => .ok (cs.filterMap (fun x => match x.2.2 with | .ok p => some (p, x.2.1) | _ => none))
def State.spanBytes (s : State) (c : Nat) (l : List (Place × Nat)) : List Byte := l.flatMap (fun p => s.engineBytes c p.1 p.2)
def State.writeSpan (s : State) (c : Nat) (l : List (Place × Nat)) (bs : List Byte) : State :=
  (l.foldl (fun (acc : State × List Byte) p => (acc.1.writeAt c p.1 (acc.2.take p.2), acc.2.drop p.2)) (s, bs)).1

/-- A write through the translations of a span sets their leaves' D (R176). -/
def State.dirtySpan (s : State) (c ctx : Nat) (va : Word) (n : Nat) : State :=
  match addrClass va with
  | .global => (pieces va n).foldl (fun s p => s.dirtyAt (clusterOf c) ctx p.1) s
  | _ => s

/-- What a unit does: what it reads, where it writes and what, through which addresses, how far the copy then is, how many elements it
zeroed; or what stops it. -/
structure Unit where
  reads  : List (Place × Nat) := []
  writes : List (List (Place × Nat) × List Byte)
  through : List (Word × Nat)
  next   : Copy
  zeroed : Nat
  bytes  : Nat

def Copy.srcAt (c : Copy) (o : Nat) : Word := c.src + BitVec.ofNat 64 c.row * c.sstr + BitVec.ofNat 64 o
def Copy.dstAt (c : Copy) (o : Nat) : Word := c.dst + BitVec.ofNat 64 c.row * c.dstr + BitVec.ofNat 64 o
/-- Bytes left in the 64 KiB page of an address. -/
def pageLeft (va : Word) : Nat := 65536 - va.toNat % 65536
/-- The next row, when `o` bytes or elements make the row complete. -/
def Copy.step (c : Copy) (done : Bool) (so d : Nat) : Copy :=
  if done then { c with row := c.row + 1, srcOff := 0, dstOff := 0 } else { c with srcOff := so, dstOff := d }

/-- Stop at the first address that does not translate. -/
abbrev UnitRes := Except (Word × Checked × Access) Unit
def State.srcSpan (s : State) (core ctx : Nat) (c : Copy) (va : Word) (n : Nat) (f : List Byte → UnitRes) : UnitRes :=
  match s.engineSpan core ctx c.user .copyRead va n with
  | .error e => .error (e.1, e.2, .copyRead)
  | .ok l => (f (s.spanBytes core l)).map (fun u => { u with reads := l ++ u.reads })
def State.dstSpan (s : State) (core ctx : Nat) (c : Copy) (va : Word) (n : Nat) (f : List (Place × Nat) → UnitRes) : UnitRes :=
  match s.engineSpan core ctx c.user .copyWrite va n with
  | .error e => .error (e.1, e.2, .copyWrite)
  | .ok l => f l

/-- Modes 0 and 5: a run within one row, one source page and one destination page (Table 8-11). -/
def State.unitPlain (s : State) (core ctx : Nat) (c : Copy) : UnitRes :=
  let sa := c.srcAt c.srcOff
  let da := c.dstAt c.srcOff
  let n := if c.mode = 5 then min (c.len - c.srcOff) (pageLeft da)
           else min (min (c.len - c.srcOff) (pageLeft sa)) (pageLeft da)
  let o := c.srcOff + n
  let fin (bs : List Byte) : UnitRes :=
    s.dstSpan core ctx c da n (fun l => .ok ⟨[], [(l, bs)], [(da, n)], c.step (o == c.len) o o, 0, n⟩)
  if c.mode = 5 then
    let pat := wordBytes c.src
    fin ((List.range n).map (fun j => pat.getD ((c.srcOff + j) % 8) 0))
  else s.srcSpan core ctx c sa n fin

/-- Mode 1: one block of 64 elements encoded. -/
def State.unitPack (s : State) (core ctx : Nat) (c : Copy) : UnitRes :=
  s.srcSpan core ctx c (c.srcAt c.srcOff) 64 (fun bs =>
    let b := e8cEncode c.f8b bs
    s.dstSpan core ctx c (c.dstAt c.dstOff) b.length (fun l =>
      .ok ⟨[], [(l, b)], [(c.dstAt c.dstOff, b.length)], c.step (c.srcOff + 64 == c.len) (c.srcOff + 64) (c.dstOff + b.length), 0, b.length⟩))

/-- Mode 2: one block decoded; an uncorrectable element is written as 0. Blocks whose headers give lengths beyond the extent of R146 are
read on past it (log entry 36). -/
def State.unitUnpack (s : State) (core ctx : Nat) (c : Copy) : UnitRes :=
  s.srcSpan core ctx c (c.srcAt c.srcOff) 2 (fun head =>
    let n := e8cLength head
    s.srcSpan core ctx c (c.srcAt c.srcOff) n (fun bs =>
      let es := (e8cDecode bs).1
      s.dstSpan core ctx c (c.dstAt c.dstOff) 64 (fun l =>
        .ok ⟨[], [(l, es.map (fun e => e.getD 0))], [(c.dstAt c.dstOff, 64)], c.step (c.dstOff + 64 == c.len) (c.srcOff + n) (c.dstOff + 64),
          es.countP (·.isNone), 64⟩)))

/-- Mode 3: one line of the page; the map's byte grows with it, in the engine and at the destination. `srcOff` is 64 x line, `dstOff` 64 x
lines written. The map's bytes are written line by line and counted when the copy is done (log entry 34). -/
def State.unitCompress (s : State) (core ctx : Nat) (c : Copy) : UnitRes :=
  let line := c.srcOff / 64
  s.srcSpan core ctx c (c.srcAt c.srcOff) 64 (fun bs =>
    let some' := bs.any (· != 0)
    s.dstSpan core ctx c (c.dstAt (line / 8)) 1 (fun lm =>
      let old : Byte := if line % 8 = 0 then 0 else c.map
      let bit : Byte := if some' then 1#8 <<< (line % 8) else 0
      let mapW := [(lm, [old ||| bit])]
      let c := { c with map := old ||| bit }
      if some' then
        s.dstSpan core ctx c (c.dstAt (128 + c.dstOff)) 64 (fun l =>
          .ok ⟨[], mapW ++ [(l, bs)], [(c.dstAt (line / 8), 1), (c.dstAt (128 + c.dstOff), 64)], c.step (c.srcOff + 64 == 65536) (c.srcOff + 64) (c.dstOff + 64), 0, 64⟩)
      else .ok ⟨[], mapW, [(c.dstAt (line / 8), 1)], c.step (c.srcOff + 64 == 65536) (c.srcOff + 64) c.dstOff, 0, 0⟩))

/-- Mode 4: one line of the page from the map and its lines. `dstOff` is 64 x line, `srcOff` 64 x lines read. -/
def State.unitExpand (s : State) (core ctx : Nat) (c : Copy) : UnitRes :=
  let line := c.dstOff / 64
  s.srcSpan core ctx c (c.srcAt (line / 8)) 1 (fun m =>
    let there := (m.headD 0).getLsbD (line % 8)
    let fin (bs : List Byte) : UnitRes :=
      s.dstSpan core ctx c (c.dstAt c.dstOff) 64 (fun l =>
        .ok ⟨[], [(l, bs)], [(c.dstAt c.dstOff, 64)], c.step (c.dstOff + 64 == 65536) (c.srcOff + if there then 64 else 0) (c.dstOff + 64), 0, 64⟩)
    if there then s.srcSpan core ctx c (c.srcAt (128 + c.srcOff)) 64 fin else fin (List.replicate 64 0))

def State.copyUnit (s : State) (core ctx : Nat) (c : Copy) : UnitRes :=
  if c.mode = 1 then s.unitPack core ctx c
  else if c.mode = 2 then s.unitUnpack core ctx c
  else if c.mode = 3 then s.unitCompress core ctx c
  else if c.mode = 4 then s.unitExpand core ctx c
  else s.unitPlain core ctx c

/-! States of a copy (Table 8-13). -/

def State.updRec (s : State) (core : Nat) (c : Copy) (f : CopyRec → CopyRec) : State :=
  if s.opAlive core c.slot c.serial then
    s.updThread ⟨core, c.slot⟩ (fun t => { t with copyRecs := t.copyRecs.map (fun r => if r.tag = c.tag then f r else r) })
  else s

/-- The head copy leaves the engine, its ranges are released, and the next runs. -/
def State.endCopy (s : State) (core : Nat) (c : Copy) (st : CopyState) : State :=
  let s := s.updRec core c (fun r => { r with state := st })
  let s := s.updCore core (fun k => { k.dropRange c.rangeId with copies := k.copies.drop 1 })
  let s := if s.opAlive core c.slot c.serial then s.latchThread ⟨core, c.slot⟩ else s
  match (s.core core).copies with
  | [] => s
  | n :: _ => s.updRec core n (fun r => { r with state := .running })

def State.setHeadCopy (s : State) (core : Nat) (c : Copy) : State :=
  s.updCore core (fun k => { k with copies := c :: k.copies.drop 1 })

/-- One unit of the head copy: written, held on a page, or the copy FAILED; a copy that was HELD is RUNNING again once its unit has
translated (R151, R152). -/
def execCopyUnitDone (core : Nat) (s : State) : Out :=
  .next (match (s.core core).copies with
    | [] => s
    | c :: _ =>
      if c.held then s
      else
        let ctx := s.coreCtx core
        match s.copyUnit core ctx c with
        | .error (va, .trap cause _, _) => s.endCopy core c (.failed cause va)
        | .error (va, _, k) =>
          (match s.joinMiss (dieOf core) ctx va k c.user ⟨core, c.slot⟩ (.copy core) with
           | none => s
           | some (_, s) => (s.setHeadCopy core { c with held := true, heldVa := va }).updRec core c (fun r => { r with state := .held }))
        | .ok u =>
          let s' := s.readBy core u.reads
          let s' := u.through.foldl (fun s v => s.dirtySpan core ctx v.1 v.2) s'
          let s := s.sentBy (some (⟨core, c.slot⟩, c.serial)) 0x08 (u.writes.foldl (fun s w => s.writeSpan core w.1 w.2) s')
          let s := (s.countZeroed core u.zeroed).updRec core c (fun r =>
            { r with state := .running, zeroed := r.zeroed + u.zeroed, written := r.written + u.bytes })
          if u.next.row < c.rows then s.setHeadCopy core u.next
          else
            let s := if c.mode = 3 then s.updRec core c (fun r => { r with written := r.written + 128 }) else s
            s.endCopy core c .done)

/-! Indirect streams (R153-R155). -/

def Core.strm (k : Core) (n : Nat) : Strm := k.streams.get Strm.reset n
def Core.setStrm (k : Core) (n : Nat) (x : Strm) : Core := { k with streams := k.streams.set n x }
def strmId (v : Word) : Nat := bits v 1 0

/-- The stream that a core's CSRs describe (Table 8-15). -/
def Core.strmOf (k : Core) (n slot : Nat) (user : Bool) : Strm where
  isOpen := true
  slot := slot
  abase := k.csr (0x120 + 4 * n)
  bbase := k.csr (0x121 + 4 * n)
  count := bits (k.csr (0x122 + 4 * n)) 31 0
  signed := (k.csr (0x123 + 4 * n)).getLsbD 3
  scatter := (k.csr (0x123 + 4 * n)).getLsbD 2
  esize := bits (k.csr (0x123 + 4 * n)) 1 0
  user := user
  i := 0
  fetched := []
  fetchedN := 0
  held := none
  heldVa := 0
  failed := none
  ops := []
  prot := k.csrs.filter (fun p => 0x090 ≤ p.1 && p.1 ≤ 0x09F)
  serial := k.serial

def Strm.bExtent (x : Strm) : Int × Int := (x.bbase.toNat, x.bbase.toNat + 4 * x.count)
def Strm.bad (x : Strm) : Bool :=
  x.count == 0 || x.esize == 3 || x.abase.toNat % 2 ^ x.esize != 0 || !inClass x.bExtent

/-- SOPEN (R155). It stays in the unit's queue while SPOPs of the stream's last opening are still waiting for elements (R366). -/
def execSopen (d a : Reg) (s : State) : Out :=
  let n := strmId (s.reg a)
  let k := s.myCore
  let x := k.strmOf n s.cur.slot (!s.me.sup)
  .next (
    if x.bad then s.put d 1
    else if (k.strm n).isOpen then s.put d 2
    else if !(k.strm n).ops.isEmpty then s
    else
      let b := x.bExtent.1.toNat
      match (if localBase.toNat ≤ b then k.protRefused x.user b (4 * x.count) true false else none) with
      | some v => s.trap 3 (BitVec.ofNat 64 v)
      | none => (s.release.updMyCore (fun k => { k.setStrm n x with serial := k.serial + 1 })).put d 0)

/-- Address of A[v] (R153). -/
def Strm.elemEa (x : Strm) (v : W32) : Word :=
  x.abase + (if x.signed then v.signExtend 64 else v.setWidth 64) * BitVec.ofNat 64 (2 ^ x.esize)

/-- One read by a stream: class, the protection values of SOPEN, translation. -/
def State.streamAt (s : State) (core : Nat) (x : Strm) (va : Word) (n : Nat) : Checked :=
  match addrClass va with
  | .none => .trap 3 va
  | .loc =>
    (match { s.core core with csrs := x.prot }.protRefused x.user va.toNat n true false with
     | some v => .trap 3 (BitVec.ofNat 64 v)
     | none => .ok (.loc (localOff va)))
  | .global => s.translate (clusterOf core) (s.coreCtx core) va .stream x.user

def State.updStrm (s : State) (c n : Nat) (f : Strm → Strm) : State := s.updCore c (fun k => k.setStrm n (f (k.strm n)))

/-- A stream is held on a page or has failed (R155). -/
def State.streamStop (s : State) (core n : Nat) (x : Strm) (va : Word) (c : Checked) : State :=
  match c with
  | .trap cause v => s.updStrm core n (fun x => { x with failed := some (cause, v) })
  | .ok _ => s
  | .miss =>
    match s.joinMiss (dieOf core) (s.coreCtx core) va .stream x.user ⟨core, x.slot⟩ (.stream core n) with
    | none => s
    | some (i, s) => s.updStrm core n (fun x => { x with held := some (dieOf core, i), heldVa := va })

/-- The elements that a stream's unit reads as one word. -/
def State.elemAt (s : State) (core : Nat) (x : Strm) (q : Place) : W32 := BitVec.ofNat 32 (leNat (s.engineBytes core q (2 ^ x.esize)))
/-- A stream that is closed has retired when no SPOP of it waits any more, and sets its thread's latch (R85, R155). -/
def State.strmRetires (s : State) (c n : Nat) : State :=
  let x := (s.core c).strm n
  if x.isOpen || !x.ops.isEmpty then s
  else if s.opAlive c x.slot x.serial then s.latchThread ⟨c, x.slot⟩ else s
/-- The elements of an accepted SPOP are all there: its row is written, and it retires (R155, R93, R85). -/
def State.popDone (s : State) (c n : Nat) (o : StrmOp) : State :=
  let s := s.updStrm c n (fun x => { x with ops := x.ops.drop 1 })
  let s := if s.opAlive c o.slot o.serial then
      s.updThread ⟨c, o.slot⟩ (fun t => { t.setRow o.row (Row.ofLanes (fun j => o.got.getD j 0)) with
        pend := t.pend.filter (· != .row o.row), latch := true })
    else s
  s.strmRetires c n
/-- One element of the oldest accepted SPOP of a stream arrives. -/
def State.popStep (s : State) (c n : Nat) (o : StrmOp) : State :=
  match o.todo with
  | [] => s.popDone c n o
  | q :: rest =>
    let x := (s.core c).strm n
    let o := { o with got := o.got ++ [s.elemAt c x q], todo := rest }
    let s := (s.sentBy (some (⟨c, o.slot⟩, o.serial)) 0x04 (s.readBy c [(q, 2 ^ x.esize)])).updStrm c n (fun x => { x with ops := o :: x.ops.drop 1 })
    if rest.isEmpty then s.popDone c n o else s

/-- The next element of an accepted SPOP arrives; without one, the next index, and for a gather its element (R155). -/
def execStreamReadDone (core stream : Nat) (s : State) : Out :=
  let x := (s.core core).strm stream
  let j := x.i + x.fetched.length
  let ba := x.bbase + BitVec.ofNat 64 (4 * j)
  .next (match x.ops with
    | o :: _ => s.popStep core stream o
    | [] =>
      if !x.isOpen || x.held.isSome || x.failed.isSome || x.count ≤ j then s
      else match s.streamAt core x ba 4 with
        | .ok p =>
          let v : W32 := BitVec.ofNat 32 (leNat (s.engineBytes core p 4))
          let push (s : State) (w : W32) (l : List (Place × Nat)) : State :=
            (s.sentBy (some (⟨core, x.slot⟩, x.serial)) 0x04 (s.readBy core l)).updStrm core stream (fun x => { x with
              fetched := x.fetched ++ [w], fetchedN := x.fetchedN + 1 })
          if x.scatter then push s v [(p, 4)]
          else
            let ea := x.elemEa v
            match s.streamAt core x ea (2 ^ x.esize) with
            | .ok q => push s (s.elemAt core x q) [(p, 4), (q, 2 ^ x.esize)]
            | c => s.streamStop core stream x ea c
        | c => s.streamStop core stream x ba c)
/-- The accepted SPOPs of a stream are carried out. -/
def State.drainStrm (s : State) (c n : Nat) : Nat → State
  | 0 => s
  | fuel + 1 =>
    match ((s.core c).strm n).ops with
    | [] => s
    | o :: _ => (s.popStep c n o).drainStrm c n fuel
/-- Those of every stream of a core. -/
def State.drainStrms (s : State) (c : Nat) : State :=
  [0, 1, 2, 3].foldl (fun s n => s.drainStrm c n ((((s.core c).strm n).ops.map (fun o => o.todo.length + 1)).sum + 1)) s

/-- How many indices the next SPOP or SPUSH takes. -/
def Strm.take (x : Strm) : Nat := min 16 (x.count - x.i)
/-- `k` indices have been taken; the stream closes at COUNT. -/
def Strm.advance (x : Strm) (k : Nat) : Strm :=
  { x with i := x.i + k, fetched := x.fetched.drop k, isOpen := x.i + k < x.count }

/-- The next `k` indices of a stream are taken. -/
def State.takeStrm (s : State) (c n k : Nat) : State := (s.updStrm c n (·.advance k)).strmRetires c n

/-- What the stream has not brought yet: the failure is raised, and the stream stays open at the same element (log entry 34); a held
read blocks; else the instruction does not issue. -/
def State.streamNotYet (s : State) (n : Nat) (i : Instr) : State :=
  match (s.myCore.strm n).failed with
  | some (c, v) => (s.updStrm s.cur.core n (fun x => { x with failed := none })).trap c v
  | none => match (s.myCore.strm n).held with
    | some (die, e) => s.wait (.page die e) i
    | none => s

/-- Where the `j`-th, … of the next elements of a stream lie: for each the place of its index, the index, and, of a gather, the place
of the element; or the first access that cannot be made. -/
def State.streamFind (s : State) (core : Nat) (x : Strm) : List Nat → Except (Word × Checked) (List (Place × W32 × Place))
  | [] => .ok []
  | j :: rest =>
    let ba := x.bbase + BitVec.ofNat 64 (4 * (x.i + j))
    match s.streamAt core x ba 4 with
    | .ok p =>
      let v : W32 := BitVec.ofNat 32 (leNat (s.engineBytes core p 4))
      (match (if x.scatter then .ok p else s.streamAt core x (x.elemEa v) (2 ^ x.esize)) with
       | .ok q => (s.streamFind core x rest).map (fun l => (p, v, q) :: l)
       | c => .error (x.elemEa v, c))
    | c => .error (ba, c)
/-- Those that the unit has not brought of the next `k`; what stops one of them holds the stream, or fails it (R155). -/
def State.streamRest (s : State) (n k : Nat) (i : Instr) (go : List (Place × W32 × Place) → State → State) : State :=
  let c := s.cur.core
  let x := s.myCore.strm n
  if x.failed.isSome || x.held.isSome then s.streamNotYet n i
  else match s.streamFind c x ((List.range k).drop x.fetched.length) with
    | .error (va, e) => (s.streamStop c n x va e).streamNotYet n i
    | .ok l => go l (s.readBy c (l.map (fun q => (q.1, 4))))

/-- SPOP: where the elements are all there it is carried out at once; else it is accepted as soon as every one of them translates, its
row being awaited, while the unit's queue has room (R155, R366). -/
def execSpop (d a b : Reg) (s : State) : Out :=
  let n := strmId (s.reg a)
  let x := s.myCore.strm n
  let k := x.take
  let r : Nat := bits (s.reg b) 6 0
  .next (
    if !x.isOpen || x.scatter then s.put d 0
    else if 3 ≤ x.ops.length then s
    else if x.fetched.length < k then
      s.streamRest n k (.spop d a b) (fun l s =>
        let o : StrmOp := ⟨s.cur.slot, s.myCore.serial, r, x.fetched, l.map (fun q => q.2.2)⟩
        let s := s.updMyCore (fun k' => { k'.setStrm n { x.advance k with fetched := [], ops := x.ops ++ [o] } with
          serial := k'.serial + 1 })
        (s.updMe (fun t => { t with pend := t.pend ++ [.row r] })).put d (BitVec.ofNat 64 k))
    else
      let row := Row.ofLanes (fun j => if j < k then x.fetched.getD j 0 else 0)
      let s := s.setRow ((s.reg b).setWidth 7) row
      (s.takeStrm s.cur.core n k).put d (BitVec.ofNat 64 k))

/-- The stores of an SPUSH whose indices are known: one entry of the store buffer holds them all (log entry 34). -/
def State.pushElems (s : State) (n k : Nat) (idx : List W32) (d b : Reg) (i : Instr) : State :=
  let x := s.myCore.strm n
  let sz := 2 ^ x.esize
  let row := s.row ((s.reg b).setWidth 7)
  let cs := (List.range k).map (fun j =>
    let ea := x.elemEa (idx.getD j 0)
    (j, ea, s.check s.cur ea sz sz .write))
  match cs.find? (fun c => match c.2.2 with | .ok _ => false | _ => true) with
  | some (_, _, .trap c v) => s.trap c v
  | some (_, ea, _) => s.holdOnPage ea .write
  | none =>
    if s.storeFull s.cur then s.wait .storeBuffer i
    else
      let ws := cs.filterMap (fun c => match c.2.2 with
        | .ok p => some (p, leBytes sz (row.lane c.1).toNat)
        | _ => none)
      let s := s.release
      let s' := cs.foldl (fun s c => s.dirty c.2.1) s
      ((s'.pushStore s.cur ws none).takeStrm s.cur.core n k).put d (BitVec.ofNat 64 k)

/-- SPUSH: the indices that the unit has not brought are read as it issues; its writes follow every earlier access of the thread (R155,
R161). -/
def execSpush (d a b : Reg) (s : State) : Out :=
  let n := strmId (s.reg a)
  let x := s.myCore.strm n
  let k := x.take
  .next (
    if !x.isOpen || !x.scatter then s.put d 0
    else if x.fetched.length < k then
      s.streamRest n k (.spush d a b) (fun l s => s.pushElems n k (x.fetched ++ l.map (fun q => q.2.1)) d b (.spush d a b))
    else s.pushElems n k x.fetched d b (.spush d a b))

end Sys2Proof.Machine
end

