-- ==== Sys2Proof/Machine/Kernel.lean ====
section
/-! DEFINITION. Job cards, kernels, task control blocks, triggers and retirement (R224-R237, R241, R365). -/

namespace Sys2Proof.Machine

open Sys2Proof

/-! Paddocks and placeable cores (R215, R253). -/

/-- The clusters of a context's paddock, the lowest first; of a parked context, those of the paddock it had. -/
def State.clustersOf (s : State) (x : Nat) : List Nat := (s.ctx x).clusters
/-- Cores of a cluster that groups may ever have: all 16, or 15 in the paddock's first cluster (R215). -/
def State.placeable (s : State) (x cl : Nat) : Nat := if (s.clustersOf x).head? = some cl then 15 else 16
/-- The die of a paddock's lowest cluster. -/
def State.firstDie (s : State) (x : Nat) : Nat := ((s.clustersOf x).headD 0) / 32

/-- Groups of a size that the paddock can hold at once (R234). -/
def State.groupCap (s : State) (x gsize : Nat) : Nat :=
  ((s.clustersOf x).map (fun cl => s.placeable x cl / max 1 gsize)).sum
def State.neverFits (s : State) (x gsize : Nat) : Bool := (s.clustersOf x).all (fun cl => s.placeable x cl < gsize)

/-! The job card (Tables 13-1; R241). -/

/-- The card that 64 bytes hold, and the address of its output declarations; `none` where Table 13-1 is broken. -/
def parseCard (addr : Word) (bs : List Byte) : Option (Card × Word) :=
  let d (i : Nat) : Word := dwordAt bs (8 * i)
  let gangs := bits (d 3) 27 16
  let gsize := bits (d 3) 12 8
  let level := bits (d 3) 4 2
  let cores := (d 3).getLsbD 1
  let rbytes := bits (d 2) 12 0
  let minchunk := bits (d 3) 47 32
  let stack := bits (d 6) 19 0
  let chk := (d 7).getLsbD 32
  let chkmax : W32 := (d 7).setWidth 32
  let bad := bits (d 0) 1 0 != 0 || bits (d 0) 63 56 != 0 || bits (d 1) 2 0 != 0 || bits (d 1) 63 56 != 0
    || bits (d 2) 31 13 != 0 || rbytes < 8 || 4096 < rbytes || rbytes % 8 != 0
    || bits (d 3) 63 60 != 0 || minchunk == 0 || bits (d 3) 31 28 != 0
    || (if cores then gangs == 0 || 2048 < gangs else gangs != 0)
    || bits (d 3) 15 13 != 0 || gsize == 0 || 16 < gsize || bits (d 3) 7 5 != 0 || level == 7 || (5 ≤ level && !cores)
    || bits (d 4) 2 0 != 0 || bits (d 4) 63 56 != 0
    || bits (d 6) 63 20 != 0 || stack % 8 != 0 || 0x80000 < stack
    || bits (d 7) 63 33 != 0 || (!chk && chkmax != 0)
  if bad then none
  else some (⟨addr, d 0, d 1, bits (d 2) 63 32, rbytes, bits (d 3) 59 48, minchunk, gangs, gsize, level, cores,
    (d 3).getLsbD 0, [], d 4, d 5, stack, chk, chkmax⟩, d 4)

/-- How many entries an output header names (R241). -/
def outCount (h : Word) : Option Nat := if 1 ≤ h.toNat ∧ h.toNat ≤ 8 then some h.toNat else none
/-- The declared outputs: handle and maxout; `none` where a field breaks R241 (R241). -/
def parseOuts (x : Ctx) (bs : List Byte) (n : Nat) : Option (List (Nat × Nat)) :=
  let es := (List.range n).map (fun i => dwordAt bs (8 * i))
  let outs := es.map (fun e => (bits e 11 0, bits e 47 32))
  let queueOk (h : Nat) : Bool :=
    let k := (x.queues.get Queue.reset h).kind
    k == .node || k == .encoder
  if es.any (fun e => bits e 63 48 != 0 || bits e 31 12 != 0 || bits e 47 32 == 0) || outs.any (fun o => !queueOk o.1)
      || (outs.map (·.1)).eraseDups.length != n then none
  else some outs

def Ctx.queue (x : Ctx) (h : Nat) : Queue := x.queues.get Queue.reset h
def State.updQueue (s : State) (x h : Nat) (f : Queue → Queue) : State :=
  s.updCtx x (fun y => { y with queues := y.queues.set h (f (y.queue h)) })

/-- Kernels that are not RETIRED, with the identifiers of node queues (R365). -/
def Ctx.kernelCount (x : Ctx) : Nat := x.kernels.length + (x.queues.filter (fun q => q.2.kind == .node)).length

/-- The refusal codes 2 to 4 of a launch; 0 where it goes on (R234). -/
def State.launchCode (s : State) (x : Nat) (c : Card) : Nat :=
  if s.neverFits x c.gsize ∨ (c.cores ∧ s.groupCap x c.gsize < c.gangs) then 2
  else if ((s.ctx x).queue c.queue).kind ≠ .card then 3
  else if 1024 ≤ (s.ctx x).kernelCount then 4
  else 0

/-! Task control blocks (R230-R232). -/

def tcbState (bs : List Byte) : Nat := bits (dwordAt bs 16) 5 4
def tcbNsucc (bs : List Byte) : Nat := bits (dwordAt bs 16) 2 0

def Ctx.kernel (x : Ctx) (kid : W32) : Option Kernel := x.kernels.find? (fun k => k.kid == kid)
def State.updKernel (s : State) (x : Nat) (kid : W32) (f : Kernel → Kernel) : State :=
  s.updCtx x (fun y => { y with kernels := y.kernels.map (fun k => if k.kid = kid then f k else k) })

/-- A trigger fires: its TCB steps are to be done (R231). -/
def Kernel.fire (k : Kernel) : Kernel :=
  { k with
    trigged := true
    todo := k.todo ++ (if k.tcb = 0 then [] else .setTrg :: (List.range 5).map (fun s => .succ s true)) }

/-- A kernel's card enters its queue; with no records it goes on to RETIRING, and its trigger fires (Table 13-3). -/
def State.enterQueue (s : State) (x : Nat) (kid : W32) : State :=
  match (s.ctx x).kernel kid with
  | none => s
  | some k =>
    if k.card.count = 0 then s.updKernel x kid (fun k => { k with state := .retiring }.fire)
    else (s.updKernel x kid (fun k => { k with state := .queued })).updQueue x k.card.queue (fun q =>
      { q with kernels := q.kernels ++ [kid] })

/-- The identifier after an identifier; 0 is skipped (R229). -/
def nextKid (k : W32) : W32 := if k + 1 = 0 then 1 else k + 1

/-- A launch that has been accepted: the next identifier, PENDING or QUEUED (R229, R234). -/
def State.addKernel (s : State) (x : Nat) (c : Card) (tcb : Word) (pending : Bool) (final : Option (Nat × Nat)) : State :=
  let kid := nextKid (s.ctx x).lastKid
  let k : Kernel := ⟨kid, .pending, c, tcb, [], false, false, [], none, final, []⟩
  let s := s.updCtx x (fun y => { y with kernels := y.kernels ++ [k], lastKid := kid, kidIssued := y.kidIssued + 1 })
  if pending then s else s.enterQueue x kid

/-- The 64 bytes of a TCB at their home (R232). -/
def State.tcbBytes (s : State) (c : Nat) (p : Place) : List Byte := s.homeBytes c p 64
/-- The bytes a launch writes at its TCB: identifier, card, state PENDING or QUEUED (R230, R234). -/
def State.launchTcb (s : State) (c : Nat) (p : Place) (kid : W32) (card : Word) : State :=
  let bs := s.tcbBytes c p
  let pred := bits (dwordAt bs 0) 31 0
  let st := if pred = 0 then 2 else 1
  let s := s.readBy c [(p, 64)]
  let s := s.writeAt c (p.plus 4) (w32Bytes kid)
  let s := s.writeAt c (p.plus 8) (wordBytes card)
  s.writeAt c (p.plus 16) (wordBytes ((dwordAt bs 16 &&& ~~~0x30#64) ||| BitVec.ofNat 64 (st * 16)))

/-- Places of TCB dwords by the context's page tables, as an atomic of the die (R232). -/
def State.tcbPlace (s : State) (x die : Nat) (va : Word) : Checked := s.translate (32 * die) x va .atomic false

/-- A TCB access is held on its page, or cannot be made, as one that reaches a WEIGHT leaf, and the context is FAILED (R232; log entry
34). -/
def State.tcbStop (s : State) (x die : Nat) (kid : W32) (va : Word) (c : Checked) : State :=
  match c with
  | .miss =>
    let first : ThreadId := ⟨(s.serviceCore x).getD 0, 0⟩
    match s.joinMiss die x va .atomic false first (.tcb x kid) with
    | none => s
    | some (i, s) => s.updKernel x kid (fun k => { k with held := some (die, i) })
  | _ => s.failCtx x

/-- Subtract 1 from a successor's pred; at 0 a PENDING successor becomes QUEUED (R231). -/
def State.satisfy (s : State) (x c : Nat) (p : Place) : State :=
  let bs := s.tcbBytes c p
  let pred := bits (dwordAt bs 0) 31 0
  let s := s.readBy c [(p, 64)]
  if pred = 0 then s
  else
    let s := (s.rmw c p 0 false (BitVec.allOnes 64)).2
    if pred = 1 ∧ tcbState bs = 1 then
      let s := (s.rmw c (p.plus 16) 3 true 0x30).2
      let kid : W32 := BitVec.ofNat 32 (bits (dwordAt bs 0) 63 32)
      match (s.ctx x).kernel kid with
      | some k => if k.state = .pending then s.enterQueue x kid else s
      | none => s
    else s

/-- Step 4 of R232: the identifier is free, every KWAIT is released, a finaliser's tensor is FREE (R314). -/
def State.finishKernel (s : State) (x : Nat) (k : Kernel) : State :=
  let s := s.updCtx x (fun y => { y with
    kernels := y.kernels.filter (fun j => j.kid != k.kid)
    queues := y.queues.map (fun q => (q.1, { q.2 with kernels := q.2.kernels.filter (fun j => j != k.kid) })) })
  match k.final with
  | none => s
  | some (die, id) => s.updCtx x (fun y =>
    if (Tbl.get (y.tensors.get [] die) ⟨.live, 0, 0, none⟩ id).state = .dead then
      { y with tensors := y.tensors.set die ((y.tensors.get [] die).erase id) }
    else y)

/-- One TCB step; a step that cannot be made is held and comes again (R231, R232). -/
def State.tcbStep (s : State) (x : Nat) (k : Kernel) (st : TcbStep) : State :=
  let die := s.firstDie x
  let c := 512 * die
  let done (s : State) : State := s.updKernel x k.kid (fun k => { k with todo := k.todo.drop 1, held := none })
  match st with
  | .finish => s.finishKernel x k
  | .setTrg =>
    (match s.tcbPlace x die k.tcb with
     | .ok p => done ((s.dirtyAt (32 * die) x k.tcb).rmw c (p.plus 16) 2 true 8).2
     | r => s.tcbStop x die k.kid k.tcb r)
  | .setRetired =>
    (match s.tcbPlace x die k.tcb with
     | .ok p => done ((s.dirtyAt (32 * die) x k.tcb).rmw c (p.plus 16) 2 true 0x30).2
     | r => s.tcbStop x die k.kid k.tcb r)
  | .succ n atTrigger =>
    match s.tcbPlace x die k.tcb with
    | .ok p =>
      let bs := s.tcbBytes c p
      let s := s.readBy c [(p, 64)]
      let e := dwordAt bs (24 + 8 * n)
      if min 5 (tcbNsucc bs) ≤ n ∨ e.getLsbD 0 ≠ atTrigger then done s
      else
        let va := BitVec.ofNat 64 (e.toNat / 64 * 64)
        (match s.tcbPlace x die va with
         | .ok q => done ((s.dirtyAt (32 * die) x va).satisfy x c q)
         | r => s.tcbStop x die k.kid va r)
    | r => s.tcbStop x die k.kid k.tcb r

/-- The TCB steps of a kernel until none is left or one is held. -/
def State.runTodo (s : State) (x : Nat) (kid : W32) : Nat → State
  | 0 => s
  | n + 1 =>
    match (s.ctx x).kernel kid with
    | none => s
    | some k => match k.todo with
      | [] => s
      | st :: _ => if k.held.isSome || (s.ctx x).state != .active then s else (s.sentBy none 0 (s.tcbStep x k st)).runTodo x kid n

/-! Retirement (Table 13-3, R232, R365). -/

/-- The engine operations that a core accepted before a serial are done: queues, subscriptions, stream reads, stores, list work. -/
def Core.opsDone (k : Core) (bound : Nat) : Bool :=
  k.matQ.all (fun o => bound ≤ o.serial) && k.copies.all (fun o => bound ≤ o.serial)
    && k.ilQ.all (fun o => bound ≤ o.serial) && k.stores.all (fun o => bound ≤ o.serial)
    && k.rings.all (fun r => match r.2.sub with
        | some u => bound ≤ u.serial || !(r.2.state == .storing || r.2.state == .loading)
        | none => true)
    && k.drops.all (fun q => bound ≤ q.2.serial) && k.streams.all (fun x => x.2.ops.all (fun o => bound ≤ o.serial))
    && k.streams.all (fun x => !x.2.isOpen || bound ≤ x.2.serial || x.2.failed.isSome || x.2.count ≤ x.2.i + x.2.fetched.length)
    && k.rays.all (fun r => r.2.writes.isEmpty) && k.arrivals.isEmpty
/-- No merge context that a core opened before a serial is open or has a write in progress, and none of its pushes is on its way. -/
def Cluster.mergesDone (cl : Cluster) (core bound : Nat) : Bool :=
  cl.mq.all (fun q => q.port != coreIdOf core || bound ≤ q.serial)
    && cl.merge.all (fun m => m.2.state == .free || m.2.holder.core != core || bound ≤ m.2.serial
        || (m.2.held.isNone && m.2.owes.isEmpty && (m.2.state == .done || m.2.state == .failed)))

/-- Every engine operation of a kernel is done, every message of it has landed, and nothing of it waits at an IO die to leave (Table 13-3, R168,
R329). -/
def State.kernelQuiet (s : State) (x : Nat) (k : Kernel) : Bool :=
  k.used.all (fun u => (s.core u.1).opsDone u.2 && (s.cluster (clusterOf u.1)).mergesDone u.1 u.2)
    && s.flying.all (fun m => m.ctx != x || m.kid != k.kid)
    && (s.weights ++ s.awayWeights.map (·.2)).all (fun w => w.ctx != x || w.kid != k.kid)
    && s.outbox.all (fun f => f.src.all (fun t => !k.used.any (fun u => u.1 == t.1.core && t.2 < u.2)))

def execKernelRetirement (ctx : Nat) (kid : W32) (s : State) : Out :=
  .next (match (s.ctx ctx).kernel kid with
    | none => s
    | some k =>
      if k.state = .retiring ∧ k.trigged ∧ k.todo = [] ∧ s.kernelQuiet ctx k ∧ (s.ctx ctx).state = .active then
        let steps := (if k.tcb = 0 then [] else .setRetired :: (List.range 5).map (fun n => TcbStep.succ n false)) ++ [.finish]
        (s.updKernel ctx kid (fun k => { k with todo := steps })).runTodo ctx kid 8
      else s)

/-! Global blocks read by an instruction, page by page (R192, R234, R241, R250). -/

/-- Read `n` bytes at an address by the thread's load rules. -/
def State.loadSpan (s : State) (ea : Word) (n align : Nat) (go : State → List Byte → State) : State :=
  let ps := match addrClass ea with
    | .global => pieces ea n
    | _ => [(ea, n)]
  let cs := ps.map (fun p => (p.1, p.2, s.check s.cur p.1 p.2 (if p.1 = ea then align else 1) .read))
  match cs.find? (fun c => match c.2.2 with | .ok _ => false | _ => true) with
  | some (_, _, .trap c v) => s.trap c v
  | some (va, _, _) => s.holdOnPage va .read
  | none =>
    let r := cs.foldl (fun (acc : List Byte × State) c => match c.2.2 with
      | .ok p =>
        let x := acc.2.loadChecked acc.2.cur c.1 p c.2.1
        (acc.1 ++ x.1, x.2)
      | _ => acc) ([], s)
    go r.2 r.1

def misaligned64 (a : Word) : Bool := bits a 5 0 != 0 || bits a 63 56 != 0

/-- The card at an address with its outputs: `go none` where it fails Table 13-1 (R234). -/
def State.loadCard (s : State) (a : Word) (go : State → Option Card → State) : State :=
  s.loadSpan a 64 64 (fun s bs =>
    match parseCard a bs with
    | none => go s none
    | some (c, outs) =>
      if outs = 0 then go s (some c)
      else s.loadSpan outs 8 8 (fun s hd =>
        match outCount (dwordAt hd 0) with
        | none => go s none
        | some n => s.loadSpan (outs + 8) (8 * n) 8 (fun s es =>
          go s ((parseOuts s.myCtx es n).map (fun o => { c with outs := o })))))

/-! Instructions (R234-R237). -/

def refusal (code : Nat) : Word := BitVec.ofNat 64 (code * 2 ^ 32)

def execLaunch (d a b : Reg) (s : State) : Out :=
  let va := s.reg a
  let vb := s.reg b
  .next (
    if misaligned64 va then s.trap 2 va
    else if vb ≠ 0 ∧ misaligned64 vb then s.trap 2 vb
    else s.loadCard va (fun s c =>
      match c with
      | none => s.put d (refusal 1)
      | some c =>
        let x := s.me.ctx
        let code := s.launchCode x c
        let kid := nextKid (s.ctx x).lastKid
        if code ≠ 0 then s.put d (refusal code)
        else if vb = 0 then ((s.release).addKernel x c 0 false none).put d (kid.setWidth 64)
        else s.loadSpan vb 64 64 (fun s tb =>
          if tcbState tb ≠ 0 ∨ 5 < tcbNsucc tb then s.put d (refusal 5)
          else s.access vb 64 64 .atomic (fun p =>
            let s := s.release
            let pred := bits (dwordAt (s.tcbBytes s.cur.core p) 0) 31 0
            (((s.dirty vb).launchTcb s.cur.core p kid va).addKernel x c vb (pred != 0) none).put d (kid.setWidth 64)))))

/-- TLINK: one step with respect to the predecessor's trigger and retirement (R235; TVAL of its PROT: log entry 22). -/
def execTlink (d a b : Reg) (s : State) : Out :=
  let va := s.reg a
  let vb := s.reg b
  let tb := BitVec.ofNat 64 (vb.toNat / 64 * 64)
  .next (
    if misaligned64 va then s.trap 2 va
    else if bits vb 5 1 ≠ 0 ∨ bits vb 63 56 ≠ 0 then s.trap 2 vb
    else s.access va 64 64 .atomic (fun p => s.access tb 64 64 .atomic (fun q =>
      let s := s.release
      let c := s.cur.core
      let pa := s.tcbBytes c p
      let pb := s.tcbBytes c q
      let s := s.readBy c [(p, 64), (q, 64)]
      let n := tcbNsucc pa
      if tcbState pb ≠ 0 then s.put d 3
      else if tcbState pa = 3 ∨ (vb.getLsbD 0 ∧ (dwordAt pa 16).getLsbD 3) then s.put d 1
      else if 5 ≤ n then s.put d 2
      else
        let s := ((s.dirty va).dirty tb).writeAt c (p.plus (24 + 8 * n)) (wordBytes vb)
        let s := (s.rmw c (p.plus 16) 0 true 1).2
        let s := (s.rmw c q 0 false 1).2
        s.put d 0)))

/-- TRIG: a release; the first of slot 0 in a chunk counts toward the kernel's trigger (R236). -/
def execTrig (s : State) : Out :=
  .next (s.release.updMe (fun t => { t with trigDone := t.trigDone || s.cur.slot == 0 })).advance

/-- An identifier is of a kernel that is not RETIRED, or of a node queue. -/
def Ctx.kidLive (x : Ctx) (kid : W32) : Bool :=
  x.kernels.any (fun k => k.kid == kid) || x.queues.any (fun q => q.2.kind == .node && q.2.kid == kid)

def execKwait (d a : Reg) (s : State) : Out :=
  let v := s.reg a
  let kid : W32 := v.setWidth 32
  let x := s.myCtx
  .next (
    if bits v 63 32 ≠ 0 ∨ v = 0 ∨ 2 ^ 31 ≤ (x.lastKid - kid).toNat then s.put d 1
    else if kid.toNat = s.me.kernid then s.put d 2
    else if x.kidLive kid then s.wait (.kernel kid) (.kwait d a)
    else s.put d 0)

end Sys2Proof.Machine
end

