-- ==== Sys2Proof/Machine/Queue.lean ====
section
/-! DEFINITION. Queues: residency and pinning, ENQ, QRES, QPIN (R238-R252). -/

namespace Sys2Proof.Machine

open Sys2Proof

/-! Residency (R240, Table 14-2). -/

def Die.isResident (d : Die) (x h : Nat) : Bool := d.resident.contains (x, h)
/-- A resident descriptor becomes the most recently touched; a swap starts for another. -/
def Die.touch (d : Die) (x h : Nat) : Die :=
  if d.isResident x h then { d with resident := d.resident.filter (fun r => r != (x, h)) ++ [(x, h)] }
  else if d.swaps.contains (x, h) then d
  else { d with swaps := d.swaps ++ [(x, h)] }

def State.waitsSwap (s : State) (die h : Nat) : Bool :=
  match s.me.waitOf with
  | some (.swap d k) => d == die && k == h
  | _ => false

/-- A descriptor that is neither resident nor on its way comes in. -/
def Die.fetch (d : Die) (x h : Nat) : Die :=
  if d.isResident x h || d.swaps.contains (x, h) then d else { d with swaps := d.swaps ++ [(x, h)] }

/-- Go on when the queue is resident; else its swap starts. An instruction that touches the queue makes it the most recently touched,
and counts the miss once (R240). -/
def State.whenResident (s : State) (h : Nat) (touches : Bool) (i : Instr) (go : State → State) : State :=
  let x := s.me.ctx
  let die := (s.myCtx.queue h).home
  let s' := s.updDie die (fun d => if touches then d.touch x h else d.fetch x h)
  if (s.die die).isResident x h then go (if touches then s' else s)
  else
    let s' := if touches && !s.waitsSwap die h then s'.hpm s.cur.core 0x18 1 else s'
    s'.wait (.swap die h) i

/-- A descriptor comes in; with 256 resident, the least recently touched that is not pinned goes out (R240). -/
def State.swapIn (s : State) (die x h : Nat) : State :=
  let d := s.die die
  let keep :=
    if d.resident.length < 256 then d.resident
    else match d.resident.find? (fun r => !((s.ctx r.1).queue r.2).pinned) with
      | some v => d.resident.filter (fun r => r != v)
      | none => d.resident
  s.setDie die { d with swaps := d.swaps.filter (fun r => r != (x, h)), resident := keep ++ [(x, h)] }

def execQueueSwapComplete (die ctx handle : Nat) (s : State) : Out :=
  .next (if (s.die die).swaps.contains (ctx, handle) then s.swapIn die ctx handle else s)

def State.pinnedOn (s : State) (die : Nat) : Nat :=
  (s.ctxs.map (fun x => (x.2.queues.filter (fun q => q.2.pinned && q.2.home == die)).length)).sum

/-- QPIN (R252). -/
def execQpin (d a b : Reg) (s : State) : Out :=
  let va := s.reg a
  let vb := s.reg b
  let h := bits va 11 0
  let q := s.myCtx.queue h
  .next (s.supOnly (.qpin d a b) (
    if bits va 63 12 ≠ 0 ∨ q.kind = .free then s.put d 1
    else if 1 < vb.toNat then s.put d 3
    else if vb = 1 ∧ q.pinned then s.put d 0
    else if vb = 1 ∧ 224 ≤ s.pinnedOn q.home then s.put d 2
    else if vb = 0 then (s.updQueue s.me.ctx h (fun q => { q with pinned := false })).put d 0
    else s.whenResident h false (.qpin d a b) (fun s =>
      (s.updQueue s.me.ctx h (fun q => { q with pinned := true })).put d 0)))

/-! Reservations, ENQ, QRES (R242, R250, R251). -/

/-- The chunk that a core runs: context, group, chunk. -/
def State.chunkOf (s : State) (c : Nat) : Option (Nat × Group × Chunk) :=
  match (s.core c).group with
  | none => none
  | some (x, g) => match (s.ctx x).groups.find? (fun r => r.id == g) with
    | none => none
    | some r => r.chunk.map (fun k => (x, r, k))

/-- What the chunk still holds reserved on a queue. -/
def Chunk.res (k : Chunk) (h : Nat) : Nat := Tbl.get k.resv 0 h
def State.updChunk (s : State) (x gid : Nat) (f : Chunk → Chunk) : State :=
  s.updCtx x (fun y => { y with groups := y.groups.map (fun g => if g.id = gid then { g with chunk := g.chunk.map f } else g) })
def State.myRes (s : State) (h : Nat) : Nat :=
  match s.chunkOf s.cur.core with
  | none => 0
  | some (_, _, k) => k.res h

/-- Free room of a queue (R238). -/
def Queue.room (q : Queue) : Nat := q.capacity - q.occupied - q.reserved

/-- The slot taken, in one step at the home die, and the record written and performed (R250). -/
def State.enqueue (s : State) (h : Nat) (q : Queue) (l : List (Place × Nat)) (rc : List Byte) : State :=
  let x := s.me.ctx
  let s := s.release.dirtySpan s.cur.core x (q.base + BitVec.ofNat 64 (q.tail * q.rbytes)) q.rbytes
  let s := s.updQueue x h (fun q => { q with
    tail := (q.tail + 1) % max 1 q.capacity, occupied := q.occupied + 1, reserved := q.reserved - 1, undealt := q.undealt + 1 })
  let s := match s.chunkOf s.cur.core with
    | none => s
    | some (y, g, _) => s.updChunk y g.id (fun k => { k with resv := Tbl.set k.resv h (k.res h - 1) })
  (s.writeSpan s.cur.core l rc)

def execEnq (d a b : Reg) (s : State) : Out :=
  let va := s.reg a
  let vb := s.reg b
  let h := bits va 11 0
  let q := s.myCtx.queue h
  .next (
    if bits va 63 12 ≠ 0 then s.trap 8 va
    else if s.myRes h = 0 then s.trap 8 (BitVec.ofNat 64 h)
    else if vb.toNat % 8 ≠ 0 then s.trap 2 vb
    else s.whenResident h true (.enq d a b) (fun s =>
      s.loadSpan vb q.rbytes 8 (fun s rc =>
        let dst := q.base + BitVec.ofNat 64 (q.tail * q.rbytes)
        match s.engineSpan s.cur.core s.me.ctx (!s.me.sup) .write dst q.rbytes with
        | .error (_, .trap c v) => s.trap c v
        | .error (ea, _) => s.holdOnPage ea .write
        | .ok l => (s.enqueue h q l rc).put d (BitVec.ofNat 64 q.tail))))

def execQres (d a b : Reg) (s : State) : Out :=
  let va := s.reg a
  let vb := s.reg b
  let h := bits va 11 0
  let q := s.myCtx.queue h
  .next (
    if bits va 63 12 ≠ 0 ∨ bits vb 63 32 ≠ 0 then s.put d 0
    else match s.chunkOf s.cur.core with
      | none => s.put d 0
      | some (x, g, k) =>
        if (q.kind ≠ .node ∧ q.kind ≠ .encoder) ∨ (16 ≤ (k.resv.filter (fun r => r.2 != 0)).length ∧ k.res h = 0) then s.put d 0
        else s.whenResident h true (.qres d a b) (fun s =>
          let n := min (bits vb 31 0) ((s.ctx x).queue h).room
          let s := s.updQueue x h (fun q => { q with reserved := q.reserved + n })
          (s.updChunk x g.id (fun k => { k with resv := Tbl.set k.resv h (k.res h + n) })).put d (BitVec.ofNat 64 n)))

end Sys2Proof.Machine
end

