-- ==== Sys2Proof/Machine/Deal.lean ====
section
/-! DEFINITION. The dispatcher of a die: candidates, readiness, order of dealing, shares, group placement, the start
state of a chunk (R214-R216, R225-R228, R242, R244, R245). -/

namespace Sys2Proof.Machine

open Sys2Proof

/-- What a die has to deal from one queue: the kernel or node it belongs to, the undealt records of the share, the first
of them, and how many of them lie in a row (R227, R244). -/
structure Work where
  ctx    : Nat
  handle : Nat
  queue  : Queue
  card   : Card
  kid    : W32
  undealt : Nat
  first  : Nat
  row    : Nat
  deriving DecidableEq, Repr

/-- The dies of a context's paddock, the lowest first. -/
def State.paddockDies (s : State) (x : Nat) : List Nat := ((s.clustersOf x).map (· / 32)).eraseDups

/-- Contiguous shares of `count` records by weight: floor(count × S_(j−1) / S) to floor(count × S_j / S) (R227). -/
def splitShares (count total : Nat) : List (Nat × Nat) → Nat → List (Nat × Nat × Nat)
  | [], _ => []
  | (d, w) :: rest, acc =>
    (d, count * acc / max 1 total, count * (acc + w) / max 1 total) :: splitShares count total rest (acc + w)

def Ctx.groupsOf (x : Ctx) (kid : W32) : List Group := x.groups.filter (fun g => g.kid == kid)

/-- The shares of a kernel: fixed by its first deal; before, as that deal will make them. An unplaced gang stands at the
paddock's lowest die (R214, R227). -/
def State.sharesOf (s : State) (x : Nat) (k : Kernel) : List (Nat × Nat × Nat) :=
  let low := s.firstDie x
  let gs := (s.ctx x).groupsOf k.kid
  let split (ws : List (Nat × Nat)) := splitShares k.card.count (ws.map (·.2)).sum ws 0
  if k.split then k.shares
  else if k.card.ord then [(low, 0, k.card.count)]
  else if k.card.cores then
    if gs.isEmpty then [(low, 0, k.card.count)]
    else split ((s.paddockDies x).map (fun d => (d, (gs.filter (fun g => g.die == d)).length)))
  else split ((s.paddockDies x).map (fun d =>
    (d, (((s.clustersOf x).filter (fun c => c / 32 == d)).map (s.placeable x)).sum)))

/-- The oldest kernel of a card queue that has undealt records, in the order of launch (R238, R244). -/
def State.oldestKernel (s : State) (x : Nat) (q : Queue) : Option Kernel :=
  (s.ctx x).kernels.find? (fun k => q.kernels.contains k.kid && (k.state == .queued || k.state == .running))

/-- What the die has to deal from a queue (R214, R244, R245). -/
def State.workAt (s : State) (x h : Nat) (q : Queue) (die : Nat) : Option Work :=
  match q.kind with
  | .free => none
  | .encoder => none
  | .card =>
    (match s.oldestKernel x q with
     | none => none
     | some k => match (s.sharesOf x k).find? (fun r => r.1 == die && decide (r.2.1 < r.2.2)) with
       | none => none
       | some (_, lo, hi) => some ⟨x, h, q, k.card, k.kid, hi - lo, lo, hi - lo⟩)
  | .node =>
    match q.card with
    | none => none
    | some c =>
      let here := if c.ord || c.cores then die == s.firstDie x else (s.paddockDies x).contains die
      if q.undealt = 0 ∨ ¬ here then none
      else
        let first := (q.tail + q.capacity - q.undealt % max 1 q.capacity) % max 1 q.capacity
        some ⟨x, h, q, c, q.kid, q.undealt, first, min q.undealt (q.capacity - first)⟩

/-- The group that a group move parks, and the cluster it moves to (R263). -/
def Ctx.moving (x : Ctx) : Option (Nat × Nat) :=
  match x.park with
  | some (.move _ gid target _) => some (gid, target)
  | _ => none
/-- The target cores that a group move holds (R263). -/
def Ctx.moveCores (x : Ctx) : List Nat :=
  match x.moving with
  | none => []
  | some (gid, target) => ((x.groups.find? (fun g => g.id == gid)).map (fun g => g.cores.map (fun c => 16 * target + coreIdOf c))).getD []

/-- Every queue with a record or a kernel to deal on the die. -/
def State.works (s : State) (die : Nat) : List Work :=
  s.ctxs.flatMap (fun p =>
    if p.2.state = .active ∧ (p.2.park.isNone ∨ p.2.moving.isSome) ∧ (s.paddockDies p.1).contains die then
      p.2.queues.filterMap (fun q => s.workAt p.1 q.1 q.2 die)
    else [])

/-! Placement (R215, R216). -/

/-- The cores that a drain reservation holds for another kernel's gang (R216). -/
def Ctx.heldCores (x : Ctx) (kid : W32) : List Nat :=
  match x.reserve with
  | none => []
  | some (k, cs) => if k = kid then [] else cs
/-- Cores become free: a drain reservation holds them for its gang (R216). -/
def Ctx.coresFreed (x : Ctx) (cs : List Nat) : Ctx := { x with reserve := x.reserve.map (fun r => (r.1, r.2 ++ cs)) }

/-- Cores of a cluster that a group of a kernel may take: of no group, not the service core, held neither by a group move nor for
another gang (R215, R216, R263). -/
def State.freeCores (s : State) (x cl : Nat) (kid : W32) : List Nat :=
  ((List.range 16).map (fun i => 16 * cl + i)).filter (fun c => (s.core c).group == none && s.serviceCore x != some c
    && !(s.ctx x).moveCores.contains c && !((s.ctx x).heldCores kid).contains c)

/-- Cores for `n` groups, each in the lowest cluster with enough free cores, the lowest COREIDs of it (R215). -/
def State.pickGroups (s : State) (x : Nat) (kid : W32) (cls : List Nat) (gsize : Nat) : Nat → List Nat → Option (List (List Nat))
  | 0, _ => some []
  | n + 1, taken =>
    match (cls.map (fun cl => (s.freeCores x cl kid).filter (fun c => !taken.contains c))).find? (fun l => gsize ≤ l.length) with
    | none => none
    | some l =>
      match s.pickGroups x kid cls gsize n (taken ++ l.take gsize) with
      | none => none
      | some rest => some (l.take gsize :: rest)

/-- The clusters in which a work's groups may lie (R214). -/
def State.regionOf (s : State) (w : Work) (die : Nat) : List Nat :=
  if w.card.ord || w.card.cores then s.clustersOf w.ctx else (s.clustersOf w.ctx).filter (fun c => c / 32 == die)

def State.placement (s : State) (w : Work) (die : Nat) : Option (List (List Nat)) :=
  s.pickGroups w.ctx w.kid (s.regionOf w die) w.card.gsize (if w.card.cores then w.card.gangs else 1) []

/-- The groups of the work that ask for a deal on this die. -/
def State.asking (s : State) (w : Work) (die : Nat) : List Group :=
  ((s.ctx w.ctx).groupsOf w.kid).filter (fun g => g.die == die && g.state == .placed && (s.ctx w.ctx).moving.all (fun m => m.1 != g.id))

/-- New groups may be placed: a gang is placed once, and waits for a gang that holds the drain reservation (R216). -/
def State.mayPlace (s : State) (w : Work) : Bool :=
  !w.card.cores || ((s.ctx w.ctx).reserve.all (fun r => r.1 == w.kid) && ((s.ctx w.ctx).groupsOf w.kid).isEmpty)

/-- One record's outputs fit (R242). -/
def State.outputsFit (s : State) (w : Work) : Bool :=
  w.card.outs.all (fun o => o.2 ≤ ((s.ctx w.ctx).queue o.1).room)

/-- A group is RETIRED: its cores are free, and its kernel remembers which of their operations may be its own. -/
def State.retireGroup (s : State) (x : Nat) (g : Group) : State :=
  let used := g.cores.map (fun c => (c, (s.core c).serial + 1))
  let s := s.updKernel x g.kid (fun k => { k with used := k.used ++ used })
  let s := s.updCtx x (fun y => { y with groups := y.groups.filter (fun r => r.id != g.id) }.coresFreed g.cores)
  g.cores.foldl (fun s c => s.updCore c (fun k => { k with group := none, line := false, hardNow := false, serial := k.serial + 1 })) s

/-- The queue is ready in this decision (R245): its outputs have room, and a group of its card asks or can be placed. Residency is no
part of it (R240). -/
def State.dealReady (s : State) (die : Nat) (w : Work) : Bool :=
  s.outputsFit w && (!(s.asking w die).isEmpty || (s.mayPlace w && (s.placement w die).isSome))

/-- What a core takes when its group is placed (Table 12-1, R196, R228). -/
def Core.placed (k : Core) (x gid : Nat) : Core :=
  let csrs := (List.range 8).foldl (fun (t : Tbl Word) n => (t.set (0x090 + 2 * n) 0).set (0x091 + 2 * n) 0) k.csrs
  { k with
    group := some (x, gid)
    counters := []
    bars := []
    csrs := (csrs.set 0x090 0xFFFFFFFFFFF0000F).set 0x091 0xFFFFFFFFFFF80000 }

/-- One group is placed; `die` is the die whose dispatcher deals to it. -/
def State.placeGroup (s : State) (w : Work) (die : Nat) (cores : List Nat) : State :=
  let gid := (s.ctx w.ctx).nextGid
  let own := match w.queue.kind with
    | .node => die
    | _ => if w.card.ord then die else dieOf (cores.headD 0)
  let s := s.updCtx w.ctx (fun y => { y with
    groups := y.groups ++ [⟨gid, w.kid, own, cores, .placed, none⟩]
    nextGid := gid + 1
    reserve := if y.reserve.any (fun r => r.1 == w.kid) then none else y.reserve })
  cores.foldl (fun s c => s.updCore c (·.placed w.ctx gid)) s

/-! The start of a chunk (R225, R226, R228). -/

/-- Slot 0 as a deal starts it (R228). -/
def chunkThread (x : Nat) (c : Card) (kid : W32) (first n : Nat) (arg : Word) (born : Nat) : Thread :=
  let top : Word := 0xFFFFFFFFFFF80000
  let t : Thread := { Thread.reset with
    state := .ready
    ctx := x
    pc := c.entry
    gregs := Tbl.set (Tbl.set [] 1 top) 2 c.addr
    born := born }
  let t := ((t.setReg 8 arg).setReg 9 (BitVec.ofNat 64 n)).setCsr 0x021 top
  let t := (t.setCsr 0x022 (top - BitVec.ofNat 64 c.stack)).setCsr 4 (c.tvec &&& ~~~3#64)
  let t := (t.setCsr 0x040 (BitVec.ofNat 64 c.level)).setCsr 0x050 0x100000
  let t := t.setCsr 0x051 (if c.chk then c.chkmax.setWidth 64 else 0x100)
  let t := (t.setCsr 0x0F0 (BitVec.ofNat 64 first)).setCsr 0x0F1 (BitVec.ofNat 64 (first + n))
  (t.setCsr 0x0F2 arg).setCsr 0x0F3 (kid.setWidth 64)

/-- The chunk size of R225. -/
def chunkSize (undealt minchunk groups : Nat) : Nat :=
  min undealt (max minchunk ((undealt + 4 * groups - 1) / max 1 (4 * groups)))

/-- A resident queue is touched, or its swap starts; a swap that starts counts in the home dispatcher (R240). -/
def State.dealTouch (s : State) (x h : Nat) : State :=
  let home := ((s.ctx x).queue h).home
  let d := s.die home
  let d' := d.touch x h
  s.setDie home (if d'.swaps.length = d.swaps.length then d' else { d' with queueMiss := d'.queueMiss + 1 })

/-- The records leave the share of the die, or the node's undealt records; the first deal fixes the shares. -/
def State.takeRecords (s : State) (die : Nat) (w : Work) (n : Nat) : State :=
  match w.queue.kind with
  | .node => s.updQueue w.ctx w.handle (fun q => { q with undealt := q.undealt - n })
  | _ =>
    match (s.ctx w.ctx).kernel w.kid with
    | none => s
    | some k =>
      let shares := (s.sharesOf w.ctx k).map (fun r => if r.1 = die then (r.1, r.2.1 + n, r.2.2) else r)
      s.updKernel w.ctx w.kid (fun k => { k with
        split := true
        shares := shares
        state := if shares.all (fun r => r.2.2 ≤ r.2.1) then .draining else .running })

/-- A queue with nothing left to deal on a die has aging count 0 there (R245). -/
def State.pruneAging (s : State) : State :=
  [0, 1, 2, 3].foldl (fun s d =>
    let ws := s.works d
    s.updDie d (fun x => { x with aging := x.aging.filter (fun a => ws.any (fun w => w.ctx == a.1.1 && w.handle == a.1.2)) })) s

/-- G of R225 (log entry 32): for a share of an ORD = 0 card, the kernel's groups of the dealing die; for ORD = 1 the groups of the whole
kernel (R227); for a node its groups in the paddock (R242). -/
def State.dealGroups (s : State) (die : Nat) (w : Work) : Nat :=
  let gs := (s.ctx w.ctx).groupsOf w.kid
  (match w.queue.kind with
   | .card => if w.card.ord then gs else gs.filter (fun g => g.die == die)
   | .free => gs
   | .node => gs
   | .encoder => gs).length
/-- Deal the next chunk of a work to a group (R225, R226, R228, R242). -/
def State.dealTo (s : State) (die : Nat) (w : Work) (g : Group) : State :=
  let n := w.card.outs.foldl (fun n o => min n (((s.ctx w.ctx).queue o.1).room / max 1 o.2))
    (min w.row (chunkSize w.undealt w.card.minchunk (s.dealGroups die w)))
  let s := (s.takeRecords die w n).pruneAging
  let s := w.card.outs.foldl (fun s o =>
    (s.dealTouch w.ctx o.1).updQueue w.ctx o.1 (fun q => { q with reserved := q.reserved + n * o.2 })) s
  let chunk : Chunk := ⟨w.handle, w.first, n, w.card.outs.foldl (fun r o => Tbl.set r o.1 (n * o.2)) []⟩
  let s := s.updCtx w.ctx (fun y => { y with groups := y.groups.map (fun r =>
    if r.id = g.id then { r with state := .running, chunk := some chunk } else r) })
  let base := match w.queue.kind with
    | .node => w.queue.base
    | _ => w.card.args
  let arg := base + BitVec.ofNat 64 (w.first * w.card.rbytes)
  g.cores.foldl (fun s c => s.updCore c (fun k =>
    { k with threads := [(0, chunkThread w.ctx w.card w.kid w.first n arg k.serial)] })) s

/-! The decision (R245). -/

def Die.age (d : Die) (x h : Nat) : Nat :=
  match d.aging.find? (fun a => a.1 == (x, h)) with
  | some a => a.2
  | none => 0
def Die.effPrio (d : Die) (w : Work) : Nat := min 7 (w.queue.prio + d.age w.ctx w.handle / 4096)
def Die.overdue (d : Die) (w : Work) : Bool := 8 * 4096 ≤ d.age w.ctx w.handle
/-- Rule 5: places after the handle dealt from last; queues of one handle go by context (log entry 5). -/
def Die.cyclic (d : Die) (w : Work) : Nat := ((w.handle + 4096 - d.lastDealt - 1) % 4096) * 1024 + w.ctx

/-- Rules 1 to 5: `v` comes before `w`. -/
def Die.prefers (d : Die) (v w : Work) : Bool :=
  let a := if d.overdue v then d.age v.ctx v.handle else 0
  let b := if d.overdue w then d.age w.ctx w.handle else 0
  if a ≠ b then b < a
  else if d.effPrio v ≠ d.effPrio w then d.effPrio w < d.effPrio v
  else if v.queue.depth ≠ w.queue.depth then w.queue.depth < v.queue.depth
  else d.cyclic v < d.cyclic w

def Die.choose (d : Die) (ws : List Work) : Option Work :=
  ws.foldl (fun acc w => match acc with
    | none => some w
    | some v => some (if d.prefers w v then w else v)) none

/-- A decision that deals from `w`: its count is 0, those of the others with work grow (R245). -/
def Die.decided (d : Die) (ws : List Work) (w : Work) : Die :=
  { d with
    lastDealt := w.handle
    aging := (ws.filter (fun v => v.ctx != w.ctx || v.handle != w.handle)).map (fun v =>
      ((v.ctx, v.handle), d.age v.ctx v.handle + 1)) }

/-- An unplaced gang at effective priority 7 takes its paddock's drain reservation (R216). -/
def State.drainReserve (s : State) (die : Nat) (w : Work) : State :=
  if w.card.cores && ((s.ctx w.ctx).groupsOf w.kid).isEmpty && (s.ctx w.ctx).reserve == none && 7 ≤ (s.die die).effPrio w then
    s.updCtx w.ctx (fun y => { y with reserve := some (w.kid, []) })
  else s

/-- The group that the free choice takes among those that ask (R225, R363). -/
def State.asker (s : State) (w : Work) (die : Nat) : Option Group :=
  let gs := s.asking w die
  gs[Config.groupChoice s.freeCount % max 1 gs.length]?

/-- One decision: the ready queue that R245 chooses is dealt from, once its descriptor is resident (R240). -/
def execDealDecision (die : Nat) (s : State) : Out :=
  let ws := s.works die
  let s := ws.foldl (fun s w => s.dealTouch w.ctx w.handle) s
  let s := ws.foldl (fun s w => s.drainReserve die w) s
  .next (match (s.die die).choose (ws.filter (s.dealReady die)) with
    | none => s
    | some w =>
      if !(s.die w.queue.home).isResident w.ctx w.handle then s
      else
        let s := s.updDie die (·.decided ws w)
        let s := if !(s.asking w die).isEmpty then s
          else match s.placement w die with
            | none => s
            | some l => l.foldl (fun s cs => s.placeGroup w die cs) s
        match s.workAt w.ctx w.handle ((s.ctx w.ctx).queue w.handle) die with
        | none => s
        | some w => match s.asker w die with
          | none => s
          | some g => s.fresh.dealTo die w g)

end Sys2Proof.Machine
end

