-- ==== Sys2Proof/Machine/Link.lean ====
section
/-! DEFINITION. Harness ports, flits and routes, messages' landings, and front-port packets (R201, R325-R331). -/

namespace Sys2Proof.Machine

open Sys2Proof

def State.port (s : State) (n : Nat) : Port := s.ports.get Port.reset n
def State.updPort (s : State) (n : Nat) (f : Port → Port) : State := { s with ports := s.ports.set n (f (s.port n)) }
/-- The IO die of a harness port: 0-17 on IO0, 18-35 on IO1 (R8). -/
def ioOfPort (p : Nat) : Nat := if p < 18 then 0 else 1
/-- The IO die that a compute die's outward traffic enters (R9). -/
def ioOfDie (d : Nat) : Nat := d % 2

def LinkState.carries (x : LinkState) : Bool := x == .up || x == .degraded
/-- A port takes flits while it carries traffic, and holds them while it retrains (R326, R327). -/
def LinkState.takes (x : LinkState) : Bool := x.carries || x == .retrain

/-! The flit's 256 bytes (Table 20-1). -/

/-- One byte of CRC-32C, bit by bit from the least significant: the polynomial 0x1EDC6F41 reflected (R325; log entry 30). -/
def crcByte (crc : Nat) (b : Byte) : Nat :=
  (List.range 8).foldl (fun c _ => if c % 2 = 1 then Nat.xor (c / 2) 0x82F63B78 else c / 2) (Nat.xor crc b.toNat)
def crc32c (bs : List Byte) : W32 := BitVec.ofNat 32 (Nat.xor (bs.foldl crcByte 0xFFFFFFFF) 0xFFFFFFFF)

def flitHeader (f : Flit) : Nat :=
  f.type.toNat * 2 ^ 56 + f.hops.toNat * 2 ^ 52 + f.dst.toNat * 2 ^ 44 + f.src.toNat * 2 ^ 36 + f.seq.toNat * 2 ^ 24
    + f.ackseq.toNat * 2 ^ 12 + f.credits.toNat
/-- Bytes 0 to 251: the header and 244 bytes of payload. -/
def flitBody (f : Flit) : List Byte := leBytes 8 (flitHeader f) ++ (f.payload ++ List.replicate 244 0).take 244
/-- The 256 bytes on the lanes. -/
def flitBytes (f : Flit) : List Byte := flitBody f ++ w32Bytes f.crc
def flitOk (f : Flit) : Bool := f.crc == crc32c (flitBody f)
def sealFlit (f : Flit) : Flit := { f with crc := crc32c (flitBody f) }

/-! Ports (R325-R327). -/

/-- A flit goes out with the port's next sequence number, what it has received, and the receive buffers it returns, and stays in the
replay buffer (R325, R326). -/
def Port.send (p : Port) (f : Flit) (tag order : Nat) : Port :=
  let f := sealFlit { f with seq := p.txSeq, ackseq := p.rxSeq - 1, credits := BitVec.ofNat 12 (min 4095 p.owed) }
  { p with
    txSeq := p.txSeq + 1
    unacked := p.unacked ++ [⟨f, tag, order, 0⟩]
    owed := p.owed - min 4095 p.owed
    sent := if p.state.carries then p.sent ++ [f] else p.sent }
/-- A control flit, which no replay buffer holds. -/
def Port.control (p : Port) (type : BitVec 8) (src : Nat) (seq : BitVec 12) : Port :=
  let f : Flit := ⟨type, 0, 0, BitVec.ofNat 8 src, seq, p.rxSeq - 1, BitVec.ofNat 12 (min 4095 p.owed), [], 0⟩
  { p with owed := p.owed - min 4095 p.owed, sent := p.sent ++ [sealFlit f] }
/-- The replay buffer holds 512 flits. -/
def Port.room (p : Port) (n : Nat) : Bool := p.unacked.length + n ≤ 512

/-- A flit to a destination is held on either IO die (R329). -/
def State.holdsFor (s : State) (dst : Nat) : Bool := [0, 1].any (fun i => (s.io i).held.any (fun f => f.flit.dst.toNat == dst))
/-- The port that the route table of an IO die names for a destination, where it takes flits (R328). -/
def State.namedPort (s : State) (io dst : Nat) : Option Nat :=
  ((s.io io).routes.find? (fun r => r.1 == dst)).bind (fun r => if (s.port r.2).state.takes then some r.2 else none)
/-- The same for a later flit: none is sent while others for the destination are held before it (R329). -/
def State.routePort (s : State) (io dst : Nat) : Option Nat := if s.holdsFor dst then none else s.namedPort io dst

/-- One flit more has come to leave the device (R329). -/
def State.sendFlit (s : State) (p : Nat) (f : Flit) (tag : Nat) : State :=
  { s.updPort p (·.send f tag s.flitNum) with flitNum := s.flitNum + 1 }
/-- A flit of another device leaves by the route table; it is held at the IO die while no port takes it or the port's replay buffer has no
room (R326, R328, R329). -/
def State.forward (s : State) (io : Nat) (f : Flit) : State :=
  match (s.routePort io f.dst.toNat).bind (fun p => if (s.port p).room 1 then some p else none) with
  | some p => s.sendFlit p f 0
  | none => { s.updIo io (fun d => { d with held := d.held ++ [⟨f, 0, s.flitNum, 0⟩] }) with flitNum := s.flitNum + 1 }

/-- Flits up to an acknowledged sequence leave the replay buffer (R326). -/
def Port.acked (p : Port) (ack : BitVec 12) : Port :=
  match p.unacked.findIdx? (fun u => u.flit.seq == ack) with
  | some i => { p with unacked := p.unacked.drop (i + 1) }
  | none => p

/-- The flit for a destination that came first of those held on the IO dies, with its IO die. -/
def State.oldestHeld (s : State) (dst : Nat) : Option (Nat × SentFlit) :=
  let fs := [0, 1].flatMap (fun io => ((s.io io).held.filter (fun f => f.flit.dst.toNat == dst)).map (fun f => (io, f)))
  fs.find? (fun x => fs.all (fun y => x.2.order ≤ y.2.order))
/-- Held flits for a destination go out in the order in which they came, each on the port that its IO die's table names, while that takes
flits and its replay buffer has room (R329). -/
def State.sendHeld (s : State) (dst : Nat) : Nat → State
  | 0 => s
  | fuel + 1 =>
    match s.oldestHeld dst with
    | none => s
    | some (io, f) =>
      match (s.namedPort io dst).bind (fun p => if (s.port p).room 1 then some p else none) with
      | none => s
      | some p => ((s.updIo io (fun d => { d with held := d.held.erase f })).updPort p (·.send f.flit f.tag f.order)).sendHeld dst fuel
/-- What is held for every destination that a port now serves goes out (log entry 25). -/
def State.sendAllHeld (s : State) : State :=
  let fs := (s.io 0).held ++ (s.io 1).held
  ((fs.map (fun f => f.flit.dst.toNat)).eraseDups).foldl (fun s d => s.sendHeld d fs.length) s

/-- Enter RETRAIN: counted in the lifetime record and reported (R326, R327). -/
def State.enterRetrain (s : State) (n : Nat) : State :=
  let s := s.updPort n (fun p => { p with state := .retrain, attempts := 0 })
  let s := { s with mgmt := { s.mgmt with life :=
    { s.mgmt.life with retrains := s.mgmt.life.retrains.set n (bump (s.mgmt.life.retrains.get 0 n)) } } }
  s.ioEvent (ioOfPort n) false 10 (BitVec.ofNat 64 n) 0

/-- Resend from a named sequence onward; eight resends of one flit end in RETRAIN (R326). -/
def State.nak (s : State) (n : Nat) (seq : BitVec 12) : State :=
  let p := s.port n
  if !p.state.carries then s
  else match p.unacked.findIdx? (fun u => u.flit.seq == seq) with
    | none => s
    | some i =>
      let again := (p.unacked.drop i).map (fun u => { u with resent := u.resent + 1 })
      let s := s.updPort n (fun p => { p with unacked := p.unacked.take i ++ again, sent := p.sent ++ again.map (·.flit) })
      if again.any (fun u => 8 ≤ u.resent) then s.enterRetrain n else s

/-! Homes (R314, R319, R322). -/

/-- An entry that is not listed is FREE. -/
def Ctx.tensor (x : Ctx) (die id : Nat) : Option Tensor := ((x.tensors.get [] die).find? (fun t => t.1 == id)).map (·.2)
def State.setTensor (s : State) (x die id : Nat) (t : Tensor) : State :=
  s.updCtx x (fun y => { y with tensors := y.tensors.set die (Tbl.set (y.tensors.get [] die) id t) })
/-- A card comes to a tensor's home: the status, 0 where the LIVE tensor without a card now has it (R322). -/
def State.bindAt (s : State) (x die id : Nat) (card : Option Card) : Nat × State :=
  match (s.ctx x).tensor die id with
  | none => (4, s)
  | some t =>
    if t.state ≠ .live then (4, s)
    else if t.card.isSome then (5, s)
    else (0, s.setTensor x die id { t with card := card })
/-- What a home answers to HADDR (R319). -/
def State.addrAt (s : State) (x die id : Nat) : Word :=
  match (s.ctx x).tensor die id with
  | none => BitVec.allOnes 64
  | some t => if t.state = .live then t.addr else BitVec.allOnes 64

/-! Messages from another device (R201, R279, R316, R319, R321, R322, R326). -/

/-- The reservations of a card as a message lists them: queue, number, queue, number, … -/
def outPairs : List Nat → List (Nat × Nat)
  | h :: n :: rest => (h, n) :: outPairs rest
  | _ => []
/-- The message of a list of numbers and bytes, which is the model's own order (log entry 10): a SEND (0, context, core, offset,
counter), an answer (1, context, core, ray slot), weight to a tensor (2, context, die, id, amount) or to a cell (3, die, cell, amount),
an HBIND at a tensor's home (4, context, die, id, address of the card, its reservations) with the card's bytes, an HADDR there (5,
context, die, id). The home's answer leaves by the route table (R317, R328). Messages of another device land in the order in which they
arrive, whatever ranks sent them (R201 leaves that open beyond one pair of ranks: log entry 36). -/
def State.takeArrived (s : State) (dev : Nat) (ns : List Nat) (bs : List Byte) : State :=
  let n (i : Nat) : Nat := ns.getD i 0
  let serial := (s.msgs.foldl (fun m x => max m x.serial) 0) + 1
  let msg (k : MsgKind) : State :=
    { s with msgs := s.msgs ++ [⟨n 1, 0, dev, ⟨0, 0⟩, serial, 0, s.devNum, n 2 % 2048, k, n 2 % 2048 / 512, false⟩] }
  let word (i : Nat) : W32 := BitVec.ofNat 32 (leNat ((bs.drop (4 * i)).take 4))
  match n 0 with
  | 0 => msg (.send (n 3) (n 4 % 32) bs)
  | 1 => msg (.answer (n 3 % 64) ⟨word 0, word 1, word 2, word 3, word 4, word 5, word 6, word 7⟩)
  | 2 => { s with weights := s.weights ++ [⟨.tensor (n 1) s.devNum (n 2 % 4) (n 3), n 4, n 1, 0, ⟨512 * (n 2 % 4), 0⟩, 0⟩] }
  | 3 => { s with weights := s.weights ++ [⟨.cell s.devNum (n 1 % 4) (n 2), n 3, 0, 0, ⟨512 * (n 1 % 4), 0⟩, 0⟩] }
  | 4 =>
    (match parseCard (BitVec.ofNat 64 (n 4)) bs with
     | none => s
     | some (c, _) =>
       let r := s.bindAt (n 1) (n 2 % 4) (n 3) (some { c with outs := outPairs (ns.drop 5) })
       r.2.sendOut (n 2 % 4) dev (.answer (some (leBytes 8 r.1))))
  | 5 => s.sendOut (n 2 % 4) dev (.answer (some (wordBytes (s.addrAt (n 1) (n 2 % 4) (n 3)))))
  | _ => s

/-- A flit for this device is passed on: with those of its source before it, it may complete a message (R326). -/
def State.passOn (s : State) (port : Nat) (f : Flit) : State :=
  let p := s.port port
  let mine := (p.received.filter (fun g => g.src == f.src)).map (·.payload) ++ [f.payload]
  match Config.arrivedMessage f.src.toNat mine with
  | none => s.updPort port (fun p => { p with received := p.received ++ [f] })
  | some (ns, bs) =>
    (s.updPort port (fun p => { p with received := p.received.filter (fun g => g.src != f.src) })).takeArrived f.src.toNat ns bs

/-- A port receives a flit (R325, R326, R328). -/
def execHarnessFlitReceive (port : Nat) (flit : Flit) (s : State) : Out :=
  let p := s.port port
  let io := ioOfPort port
  .next (
    if !p.state.carries then s
    else if !flitOk flit then s.updPort port (·.control 3 s.devNum flit.seq)
    else if 4 < flit.type.toNat then s
    else
      let s := (s.updPort port (fun p => { p.acked flit.ackseq with credits := p.credits + flit.credits.toNat })).sendAllHeld
      if flit.type = 3 then s.nak port flit.seq
      else if flit.type ≠ 1 ∨ flit.seq ≠ p.rxSeq then s
      else
        let took := fun (s : State) =>
          s.updPort port (fun p => { p with rxSeq := p.rxSeq + 1, owed := p.owed + 1 }.control 2 s.devNum flit.seq)
        if flit.dst.toNat = s.devNum then (took s).passOn port flit
        else if flit.hops = 15 then (took s).ioEvent io true 4 (BitVec.ofNat 64 flit.dst.toNat) (BitVec.ofNat 64 flit.src.toNat)
        else (took s).forward io { flit with hops := flit.hops + 1 })

def execHarnessNak (port : Nat) (seq : BitVec 12) (s : State) : Out := .next (s.nak port seq)

def execLaneLockLoss (port : Nat) (s : State) : Out :=
  .next (if (s.port port).state.carries then s.enterRetrain port else s)

/-- The unacknowledged flits of a port that has failed or gone down are held at the IO die, in their places (R329). -/
def State.handOn (s : State) (n : Nat) : State :=
  let fs := (s.port n).unacked.map (fun f => { f with resent := 0 })
  (s.updPort n (fun p => { p with unacked := [] })).updIo (ioOfPort n) (fun d => { d with held := d.held ++ fs })

/-- Lane training ends (Table 20-2). -/
def execLinkTrainingResult (port lanes : Nat) (s : State) : Out :=
  let p := s.port port
  let training := p.state == .training && !p.waitRetry
  .next (
    if !training && p.state != .retrain then s
    else if 3 ≤ lanes then
      let st := if lanes = 3 then LinkState.degraded else .up
      let s := s.updPort port (fun p =>
        if training then { p with state := st, txSeq := 0, rxSeq := 0, unacked := [], attempts := 0 }
        else { p with state := st, attempts := 0, unacked := p.unacked.map (fun u => { u with resent := 0 })
                      sent := p.sent ++ p.unacked.map (·.flit) })
      (if lanes = 3 then s.ioEvent (ioOfPort port) false 9 (BitVec.ofNat 64 port) 0 else s).sendAllHeld
    else if p.attempts + 1 < 3 then
      s.updPort port (fun p => { p with attempts := p.attempts + 1, waitRetry := training })
    else
      let s := s.updPort port (fun p => { p with state := .failed, attempts := 0, waitRetry := false })
      (s.handOn port).ioEvent (ioOfPort port) true 3 (BitVec.ofNat 64 port) 0)

/-- Training flits are sent (Table 20-2). -/
def State.trainingFlits (s : State) (port : Nat) : State := s.updPort port (·.control 4 s.devNum 0)

def execTrainingRetryTimer (port : Nat) (s : State) : Out :=
  .next (if (s.port port).state == .training && (s.port port).waitRetry then
      (s.updPort port (fun p => { p with waitRetry := false })).trainingFlits port
    else s)

/-! Messages to another device, and landings (R201, R279, R326, R328, R329). -/

def State.dropMsg (s : State) (i : Nat) : State := { s with msgs := s.msgs.eraseIdx i }

/-- The flits of a message go out on the port that the route table of the sender's IO die names, where its replay buffer has room for
all of them; with no such port the message waits (R326, R328, R329). -/
def State.flitsOut (s : State) (die dev tag : Nat) : Option State :=
  match s.routePort (ioOfDie die) dev with
  | none => none
  | some p =>
    let fs := (Config.messageFlits s.freeCount).take 512
    if !(s.port p).room fs.length then none
    else some (fs.foldl (fun s b => s.sendFlit p
      { type := 1, hops := 0, dst := BitVec.ofNat 8 dev, src := BitVec.ofNat 8 s.devNum, seq := 0, ackseq := 0, credits := 0
        payload := b, crc := 0 } tag) s.fresh)

/-- The tag of the next message to leave: no message on its way has it. -/
def State.nextTag (s : State) : Nat :=
  max (s.awayMsgs.foldl (fun m x => max m x.1) 0) (s.awayWeights.foldl (fun m x => max m x.1) 0) + 1

/-- A message to another device leaves; it counts as in flight until it has landed there (R201, R329). -/
def State.leaveDevice (s : State) (i : Nat) (m : Msg) : State :=
  let tag := s.nextTag
  match s.flitsOut (dieOf m.src.core) m.dev tag with
  | none => s
  | some s => { s.dropMsg i with awayMsgs := s.awayMsgs ++ [(tag, m)] }

/-- No flit of a message is unacknowledged or held: it may have landed. -/
def State.mayHaveLanded (s : State) (tag : Nat) : Bool :=
  s.ports.all (fun p => p.2.unacked.all (fun f => f.tag != tag)) && s.ios.all (fun d => d.2.held.all (fun f => f.tag != tag))
/-- A message or a post lands on another device: message `i`, or post `i` after them. -/
def State.awayLands (s : State) (i : Nat) : State :=
  match s.awayMsgs[i]? with
  | some m => if s.mayHaveLanded m.1 then { s with awayMsgs := s.awayMsgs.eraseIdx i } else s
  | none => match s.awayWeights[i - s.awayMsgs.length]? with
    | some w => if s.mayHaveLanded w.1 then { s with awayWeights := s.awayWeights.eraseIdx (i - s.awayMsgs.length) } else s
    | none => s
/-- An access to a REMOTE page, or an answer for another device, leaves by the route table, in order (R178, R317, R328). -/
def State.remoteLeaves (s : State) (i : Nat) : State :=
  match s.outbox[i]? with
  | none => s
  | some f =>
    if (s.outbox.take i).any (fun g => g.dev == f.dev) then s
    else match s.flitsOut f.die f.dev 0 with
      | none => s
      | some s => { s with outbox := s.outbox.eraseIdx i }

/-- A message lands and sets the latches of the core's threads (R201, R85), an answer in the arrival buffer while that has room (R279),
or a message leaves. -/
def execMessageLanding (i : Nat) (s : State) : Out :=
  .next (match s.msgs[i]? with
    | none => s
    | some m =>
      if !s.mayLand m then s
      else if m.dev ≠ s.devNum then s.leaveDevice i m
      else match m.kind with
        | .send off ctr payload => (s.dropMsg i).landSend m.core off ctr payload
        | .answer ray a =>
          if (s.core m.core).arrivalRoom then (((s.dropMsg i).updCore m.core (·.takeAnswer m ray a)).hpm m.core 0x0A 1).latchAll m.core else s)

/-! Front ports (R331). -/

/-- The IO die of a connection: each serves 4,096, numbered 0-4,095 on IO0 and 4,096-8,191 on IO1 (log entry 31). -/
def ioOfConn (c : Nat) : Nat := if c < 4096 then 0 else 1
def State.uetConn (s : State) (c : Nat) : Option UetConn := (s.io (ioOfConn c)).conns.find? (fun x => x.num == c)
/-- A packet is taken on a connection, which is in use at a front port and with an endpoint of its IO die from then on. -/
def State.useConn (s : State) (c port endpoint : Nat) (rod : Bool) : State :=
  let before := ((s.uetConn c).map (·.packets)).getD 0
  s.updIo (ioOfConn c) (fun d => { d with conns := d.conns.filter (fun x => x.num != c) ++ [⟨c, port, endpoint, rod, before + 1⟩] })

/-- A packet on a connection (R331): one that asks for a service the device does not have is dropped and counted; a frame of more
than 9,216 bytes, a connection that the port's IO die does not serve, and a secured packet whose tag does not hold are dropped; any
other packet's connection is in use. The commands that packets carry are the Typoro rows. -/
def execUetPacket (port : Nat) (packet : UetPacket) (s : State) : Out :=
  let conn := packet.conn
  let frame := packet.frame
  let io := port / 2
  let secured : Bool := match ((s.io io).keys.find? (fun k => k.1 == conn)) with
    | some k => (Config.gcmOpens k.2 frame).isSome
    | none => true
  let refused : Bool := 9216 < frame.length || 4 ≤ port || 8192 ≤ conn || ioOfConn conn != io || !secured
  let take (rod : Bool) : State := if refused then s else s.useConn conn port packet.endpoint rod
  match packet.svc with
  | .rod => .next (take true)
  | .rud => .next (take false)
  | .unreliable => .next (s.updIo io (fun d => { d with uetDropped := d.uetDropped + 1 }))
  | .rudIdempotent => .next (s.updIo io (fun d => { d with uetDropped := d.uetDropped + 1 }))

end Sys2Proof.Machine
end

