-- ==== Sys2Proof/Machine/List.lean ====
section
/-! DEFINITION. The list engine: answers, ray slots, insertion, overflow, the composite, the IL instructions, arrivals
(R265-R285). -/

namespace Sys2Proof.Machine

open Sys2Proof

/-! Answers (R266, R267, R270). -/

def Answer.ofLanes (l : List W32) : Answer :=
  ⟨l.getD 0 0, l.getD 1 0, l.getD 2 0, l.getD 3 0, l.getD 4 0, l.getD 5 0, l.getD 6 0, l.getD 7 0⟩
def Answer.lanes (a : Answer) : List W32 := [a.tin, a.tout, a.tau, a.gr, a.cb, a.fk, a.source, a.user]
def Answer.bytes (a : Answer) : List Byte := a.lanes.flatMap w32Bytes
def Answer.kind (a : Answer) : Nat := (a.fk &&& 0xF).toNat
/-- R, G and B as F16 bits. -/
def Answer.chan (a : Answer) (c : Nat) : Nat :=
  match c with
  | 0 => (a.gr &&& 0xFFFF).toNat
  | 1 => (a.gr >>> 16).toNat
  | _ => (a.cb &&& 0xFFFF).toNat
def Answer.conf (a : Answer) : Nat := (a.cb >>> 16).toNat
/-- Radiance of a channel as F32, exact. -/
def Answer.rad (a : Answer) (c : Nat) : W32 := (cvtFromF16 (a.chan c)).1
def f16Bits (x : W32) : Nat := (cvtF16 .rne x).1
def f16Finite (n : Nat) : Bool := n / 1024 % 32 != 31
def mkGr (r g : Nat) : W32 := BitVec.ofNat 32 (g * 65536 + r)
def mkCb (conf b : Nat) : W32 := BitVec.ofNat 32 (conf * 65536 + b)

def f32Finite (x : W32) : Bool := !f32Nan x && !f32Inf x
def f32Neg (x : W32) : W32 := x ^^^ 0x80000000

def Answer.malformed (a : Answer) : Bool :=
  f32Nan a.tin || f32Nan a.tout || f32Nan a.tau || f32Inf a.tin || f32Inf a.tout || f32Lt a.tout a.tin
    || f32Lt a.tau 0 || !f16Finite (a.chan 0) || !f16Finite (a.chan 1) || !f16Finite (a.chan 2)
    || (8 ≤ a.kind && a.kind ≤ 13) || a.kind == 15 || (a.fk >>> 16) != 0

/-- A number that orders F32 times as R270 does: -0 equals +0. -/
def timeKey (x : W32) : Int := if x.getLsbD 31 then -((x &&& 0x7FFFFFFF).toNat : Int) else (x.toNat : Int)

/-- Lexicographic order. -/
def lexLt : List Int → List Int → Bool
  | [], _ => false
  | _, [] => false
  | x :: xs, y :: ys => decide (x < y) || (x == y && lexLt xs ys)

def Answer.key (a : Answer) : List Int := [timeKey a.tin, (a.kind : Int), (a.source.toNat : Int), timeKey a.tout, (a.user.toNat : Int)]
def Answer.walkKey (a : Answer) : List Int := [timeKey a.tout, timeKey a.tin, (a.kind : Int), (a.source.toNat : Int), (a.user.toNat : Int)]
def insertBy (f : Answer → List Int) (x : Answer) : List Answer → List Answer
  | [] => [x]
  | y :: ys => if lexLt (f x) (f y) then x :: y :: ys else y :: insertBy f x ys
def sortBy (f : Answer → List Int) (l : List Answer) : List Answer := l.foldr (insertBy f) []

/-! Clip and cut (R271, R273). -/

def one32 : W32 := 0x3F800000
/-- RN(1 - Exp2RN(-x)). -/
def opacity (x : W32) : W32 := rnSub one32 (exp2RN (f32Neg x))

/-- The answer clipped to [t_min, t_max]; `none` when it is outside. -/
def Answer.clip (x : Answer) (tmin tmax : W32) : Option Answer :=
  if f32Lt x.tout tmin || f32Lt tmax x.tin then none
  else
    let a := if f32Lt x.tin tmin then tmin else x.tin
    let b := if f32Lt tmax x.tout then tmax else x.tout
    if f32Eq x.tin x.tout || (f32Eq a x.tin && f32Eq b x.tout) then some x
    else if f32Eq a b then none
    else
      let f := rnDiv (rnSub b a) (rnSub x.tout x.tin)
      let scale (l : W32) : W32 :=
        if f32Eq x.tau 0 then rnMul f l
        else if f32Inf x.tau then l
        else rnMul l (rnDiv (opacity (rnMul f x.tau)) (opacity x.tau))
      let tau := if f32Eq x.tau 0 || f32Inf x.tau then x.tau else rnMul f x.tau
      let c (i : Nat) : Nat := f16Bits (scale (x.rad i))
      some { x with tin := a, tout := b, tau := tau, gr := mkGr (c 0) (c 1), cb := mkCb x.conf (c 2) }

/-- The t_out at which the walk's sum reaches the stop depth, +∞ where it does not (R273). -/
def cutWalk (stop : W32) : List Answer → W32 → W32
  | [], _ => inf32
  | e :: es, s =>
    let s' := rnAdd s e.tau
    if f32Le stop s' then e.tout else cutWalk stop es s'
def cutOf (stop : W32) (es : List Answer) : W32 := cutWalk stop (sortBy Answer.walkKey es) 0

/-- The cut is taken anew and entries beyond it go: the slot and the number evicted (R272). Of a -0 and a +0 the walk's own stays, so
that the bits depend on the entries alone (R274). -/
def RaySlot.recut (r : RaySlot) : RaySlot × Nat :=
  let c := cutOf r.tauStop r.entries
  let cut := if f32Le c r.cut then c else r.cut
  let keep := r.entries.filter (fun e => !f32Lt cut e.tin)
  let n := r.entries.length - keep.length
  ({ r with cut := cut, entries := keep, culled := r.culled + n }, n)

/-! Overflow (R275). -/

def Answer.standsFor (a : Answer) : W32 := if a.kind = 14 then a.user else 1
def Answer.merge (a b : Answer) : Answer :=
  let c (i : Nat) : Nat := f16Bits (rnAdd (a.rad i) (rnMul (exp2RN (f32Neg a.tau)) (b.rad i)))
  { tin := a.tin, tout := if f32Lt a.tout b.tout then b.tout else a.tout, tau := rnAdd a.tau b.tau,
    gr := mkGr (c 0) (c 1), cb := mkCb (min a.conf b.conf) (c 2),
    fk := ((a.fk ||| b.fk) &&& 0xFFF0) ||| 14, source := 0xFFFFFFFF, user := a.standsFor + b.standsFor }

/-- Put a merged entry among the others; an entry of equal key merges with it again. -/
def placeMerged : Nat → Answer → List Answer → List Answer
  | 0, m, es => insertBy Answer.key m es
  | n + 1, m, es =>
    match es.find? (fun e => e.key == m.key) with
    | none => insertBy Answer.key m es
    | some e => placeMerged n (e.merge m) (es.filter (fun x => x.key != m.key))

/-- The two entries of largest key become one (R275). -/
def RaySlot.collapse (r : RaySlot) : RaySlot :=
  match r.entries.reverse with
  | b :: a :: rest => { r with entries := placeMerged 17 (a.merge b) rest.reverse, lossy := true }
  | _ => r

/-! Spill writes (R275, R283). -/

def Core.ray (k : Core) (n : Nat) : RaySlot := k.rays.get RaySlot.reset n
def State.updRay (s : State) (c n : Nat) (f : RaySlot → RaySlot) : State :=
  s.updCore c (fun k => { k with rays := k.rays.set n (f (k.ray n)) })

def RaySlot.spillAddr (r : RaySlot) (i : Nat) : Word := r.area + BitVec.ofNat 64 (32 * i)
/-- A spill write that is not performed: the entry is lost, the first address is kept (R275, R283). -/
def RaySlot.writeFails (r : RaySlot) (cause : Nat) (ea : Word) : RaySlot :=
  { r with writes := r.writes.drop 1, wheld := none, lossy := true, wfail := some (r.wfail.getD (cause, ea)) }

/-- Perform the queued spill writes of a slot until one is held (R275). -/
def State.spillDrain (s : State) (c n : Nat) : Nat → State
  | 0 => s
  | fuel + 1 =>
    let r := (s.core c).ray n
    match r.writes with
    | [] => s
    | w :: rest =>
      if r.wheld.isSome then s
      else
        let ea := r.spillAddr w.idx
        match addrClass ea with
        | .global =>
          (match s.translate (clusterOf c) (s.coreCtx c) ea .copyWrite r.user with
           | .ok p => ((s.sentBy (some (⟨c, w.slot⟩, w.serial)) 0x80 ((s.dirtyAt (clusterOf c) (s.coreCtx c) ea).writeAt c p w.answer.bytes)).updRay c n
               (fun r => { r with writes := rest })).spillDrain c n fuel
           | .trap cause v => (s.updRay c n (·.writeFails cause v)).spillDrain c n fuel
           | .miss =>
             match s.joinMiss (dieOf c) (s.coreCtx c) ea .copyWrite r.user r.opener (.ray c n) with
             | none => s
             | some (e, s) => s.updRay c n (fun r => { r with wheld := some (dieOf c, e) }))
        | _ => ((s.writeAt c (.loc (localOff ea)) w.answer.bytes).updRay c n (fun r => { r with writes := rest })).spillDrain c n fuel

/-! Insertion (R272, R275). -/

/-- What an insert comes to: a status, or the overflow of a TRAP slot. -/
inductive InsertResult where
  | status (n : Nat)
  | ovf
  deriving DecidableEq, Repr

/-- Insert an answer into an OPEN slot of core `c` (R272), for the operation of a slot and serial, or for an arrival. -/
def State.insertAnswer (s : State) (c n : Nat) (x : Answer) (op : Option (Nat × Nat)) : State × InsertResult :=
  let r := (s.core c).ray n
  if x.malformed then (s, .status 2)
  else
    match x.clip r.tmin r.tmax with
    | none => ((s.updRay c n (fun r => { r with culled := r.culled + 1 })).hpm c 0x0F 1, .status 1)
    | some x =>
      if f32Lt r.cut x.tin then ((s.updRay c n (fun r => { r with culled := r.culled + 1 })).hpm c 0x0F 1, .status 1)
      else
        match r.entries.find? (fun e => e.key == x.key) with
        | some e =>
          let differs := e.tau != x.tau || e.gr != x.gr || e.cb != x.cb || e.fk != x.fk
          (s.updRay c n (fun r => { r with conflict := r.conflict || differs }), .status 3)
        | none =>
          let r1 := { r with entries := insertBy Answer.key x r.entries }.recut
          if r1.1.entries.length ≤ 16 then
            let r' := { r1.1 with inserted := r1.1.inserted + 1 }
            (((s.updRay c n (fun _ => r')).hpm c 0x0E 1).hpm c 0x0F r1.2, .status 0)
          else
            let s := s.hpm c 0x10 1
            if r.mode = .trap ∧ op.isSome then (s, .ovf)
            else
              let spills := r.mode = .spill ∧ r.spilledN < r.cap
              let r2 := if spills then
                  { r1.1 with
                    entries := r1.1.entries.dropLast
                    writes := r1.1.writes ++ (r1.1.entries.getLast?.map (fun e =>
                      (⟨r.spilledN, e, (op.getD (11, 0)).1, (op.getD (11, 0)).2, (s.core c).serial⟩ : SpillWrite))).toList
                    spilledN := r.spilledN + 1
                    spilledF := true }
                else { r1.1 with remoteOvf := r1.1.remoteOvf || r.mode == OvfMode.trap }.collapse
              let r3 := r2.recut
              let s := (s.updRay c n (fun _ => { r3.1 with inserted := r3.1.inserted + 1 })).updCore c
                (fun k => { k with serial := k.serial + 1 })
              let s := (s.hpm c 0x0E 1).hpm c 0x0F (r1.2 + r3.2)
              if spills then (s.spillDrain c n 4097, .status 5) else (s, .status 4)

/-! The composite (R276). -/

def rnSum (l : List W32) : W32 := l.foldl rnAdd 0
/-- The members of a list are of more than one kind. -/
def kindsMix (es : List Answer) : Bool := 1 < (es.map Answer.kind).eraseDups.length

/-- Distinct endpoint values, ascending. -/
def timePoints (es : List Answer) : List W32 :=
  let ins (x : W32) (l : List W32) : List W32 :=
    if l.any (fun y => timeKey y == timeKey x) then l
    else l.filter (fun y => timeKey y < timeKey x) ++ x :: l.filter (fun y => timeKey x < timeKey y)
  (es.flatMap (fun e => [e.tin, e.tout])).foldl (fun l x => ins x l) []

/-- L for the three channels, T, and whether kinds mixed. -/
structure Comp where
  l : List W32
  t : W32
  mixed : Bool
  deriving DecidableEq, Repr

/-- The point answers at a position (R276). -/
def Comp.points (x : Comp) (es : List Answer) (p : W32) : Comp :=
  let ps := es.filter (fun e => f32Eq e.tin p && f32Eq e.tout p)
  let x := { x with mixed := x.mixed || kindsMix ps }
  ps.foldl (fun x e =>
    { x with l := x.l.zipIdx.map (fun v => rnAdd v.1 (rnMul x.t (e.rad v.2))), t := rnMul x.t (exp2RN (f32Neg e.tau)) }) x

/-- The segment from `p` to `q` (R276). -/
def Comp.segment (x : Comp) (es : List Answer) (p q : W32) : Comp :=
  let cs := (es.filter (fun e => f32Le e.tin p && f32Le q e.tout && f32Lt e.tin e.tout)).map (fun e =>
    let f := rnDiv (rnSub q p) (rnSub e.tout e.tin)
    (e, f, rnMul f e.tau))
  let ts := rnSum (cs.map (fun c => c.2.2))
  let acts := (cs.filter (fun c => f32Lt 0 c.2.2 || f32Eq c.1.tau 0)).map (·.1)
  let ls (ch : Nat) : W32 :=
    if f32Inf ts then
      let op := cs.filter (fun c => f32Inf c.2.2)
      rnDiv (rnSum (op.map (fun c => c.1.rad ch))) (cvtIntF32 .rne op.length).1
    else
      let w := rnSum ((cs.filter (fun c => f32Lt 0 c.2.2)).map (fun c =>
        rnMul c.2.2 (rnDiv (c.1.rad ch) (opacity c.1.tau))))
      let a := if f32Lt 0 ts then rnMul (opacity ts) (rnDiv w ts) else 0
      let m := rnSum ((cs.filter (fun c => f32Eq c.1.tau 0)).map (fun c => rnMul c.2.1 (c.1.rad ch)))
      rnAdd a m
  if cs.isEmpty then x
  else
    { l := x.l.zipIdx.map (fun v => rnAdd v.1 (rnMul x.t (ls v.2)))
      t := rnMul x.t (exp2RN (f32Neg ts))
      mixed := x.mixed || kindsMix acts }

def compWalk (es : List Answer) : List W32 → Comp → Comp
  | [], x => x
  | [p], x => x.points es p
  | p :: q :: rest, x => compWalk es (q :: rest) ((x.points es p).segment es p q)
def composite (es : List Answer) : Comp := compWalk es (timePoints es) ⟨[0, 0, 0], one32, false⟩

def sat32 (n : Nat) : W32 := BitVec.ofNat 32 (min n 0xFFFFFFFF)
def bit (b : Bool) (n : Nat) : Nat := if b then 2 ^ n else 0
/-- The result row of Table 16-5. -/
def RaySlot.resultRow (r : RaySlot) (x : Comp) : Row :=
  let conf := r.entries.foldl (fun m e => min m e.conf) 0xFFFF
  let flags := bit r.lossy 0 + bit r.spilledF 1 + bit x.mixed 2 + bit r.conflict 3 + bit r.remoteOvf 4
  let l : List W32 := x.l ++ [x.t, BitVec.ofNat 32 conf, BitVec.ofNat 32 flags, BitVec.ofNat 32 r.entries.length, r.cut,
    sat32 r.inserted, sat32 r.culled, sat32 r.spilledN, sat32 r.arrivals]
  Row.ofLanes (fun i => l.getD i 0)

/-! Issue (R277-R283). -/

def Core.ilFull (k : Core) : Bool := 3 ≤ k.ilQ.length

/-- PROT0L to PROT7H of a core. -/
def Core.protCsrs (k : Core) : List (Nat × Word) := k.csrs.filter (fun p => 0x090 ≤ p.1 && p.1 < 0x0A0)

/-- The current thread's operation is accepted, with the protection CSRs as they are (R56). -/
def State.ilAccept (s : State) (kind : IlKind) (d : Reg) (ray : Nat) (block : List W32) (row pair : Nat) (waits : Bool) : State :=
  let s := s.release
  let dest := s.me.regId d
  let op : IlOp := ⟨s.cur.slot, kind, dest, ray, block, row, pair, !s.me.sup, s.myCore.protCsrs, s.myCore.serial, waits⟩
  s.updMyCore (fun k => { k with ilQ := k.ilQ ++ [op], serial := k.serial + 1 })

/-- Accept, and go on; d and a row that is to be written are awaited (R93). -/
def State.ilGo (s : State) (kind : IlKind) (d : Reg) (ray : Nat) (block : List W32) (row : Option Nat) (pair : Nat) : State :=
  let s := s.ilAccept kind d ray block (row.getD 0) pair false
  let ps := (if d = 0 then [] else [Pend.reg (s.me.regId d)]) ++ (row.map Pend.row).toList
  (s.updMe (fun t => { t with pend := t.pend ++ ps })).advance

/-- A slot is, or an accepted ILOPEN may make it, of a mode. -/
def Core.mayBeMode (k : Core) (n : Nat) (m : OvfMode) (code : Nat) : Bool :=
  ((k.ray n).state != .free && (k.ray n).mode == m)
    || k.ilQ.any (fun o => o.kind == .opn && o.ray == n && bits ((o.block.getD 3 0).setWidth 64) 1 0 == code)

/-- The 32 bytes at b with the checks of R278. -/
def State.ilBlock (s : State) (b : Word) (go : State → List W32 → State) : State :=
  if b.toNat % 32 ≠ 0 then s.trap 2 b
  else s.localBlock b 32 32 true (fun s bs =>
    go s ((List.range 8).map (fun i => BitVec.ofNat 32 (leNat ((bs.drop (4 * i)).take 4)))))

def raySlot (a : Word) : Nat := bits a 5 0
def badRay (a : Word) : Bool := bits a 63 6 != 0

def execIlopen (d a b : Reg) (s : State) : Out :=
  let v := s.reg a
  .next (if badRay v then s.put d (BitVec.allOnes 64)
    else if s.myCore.ilFull then s
    else s.ilBlock (s.reg b) (fun s l => s.ilGo .opn d (raySlot v) l none 0))

def execIlins (d a b : Reg) (s : State) : Out :=
  let v := s.reg a
  .next (match s.me.waitOf with
    | some .listEngine => s
    | _ =>
      if badRay v then s.put d 6
      else if s.myCore.ilFull then s
      else s.ilBlock (s.reg b) (fun s l =>
        if s.myCore.mayBeMode (raySlot v) .trap 2 then
          (s.ilAccept .ins d (raySlot v) l 0 0 true).wait .listEngine (.ilins d a b)
        else s.ilGo .ins d (raySlot v) l none 0))

/-- ILSEND: an answer as a message (R279). -/
def execIlsend (d a b : Reg) (s : State) : Out :=
  let v := s.reg a
  let rank := bits v 15 0
  let e := s.myCtx.rank rank
  .next (if bits v 63 22 ≠ 0 then s.put d 1
    else s.ilBlock (s.reg b) (fun s l =>
      if ¬ rankV e then s.trap 19 (BitVec.ofNat 64 rank)
      else if rankT e ∧ 64 ≤ s.heldFor s.me.ctx rank (dieOf s.cur.core) then s.wait (.transit rank) (.ilsend d a b)
      else (s.release.postMsg rank e (.answer (bits v 21 16) (Answer.ofLanes l))).put d 0))

def execIlcut (d a : Reg) (s : State) : Out :=
  let v := s.reg a
  .next (if badRay v then s.put d (BitVec.allOnes 64)
    else if s.myCore.ilFull then s else s.ilGo .cut d (raySlot v) [] none 0)

def execIlcomp (d a b : Reg) (s : State) : Out :=
  let v := s.reg a
  let r := s.reg b
  .next (if badRay v then s.put d (BitVec.allOnes 64)
    else if bits r 63 7 ≠ 0 then s.put d 1
    else if s.myCore.ilFull then s else s.ilGo .comp d (raySlot v) [] (some (bits r 6 0)) 0)

def execIlread (d a b : Reg) (s : State) : Out :=
  let v := s.reg a
  let r := s.reg b
  .next (if badRay v ∨ bits r 63 10 ≠ 0 then s.put d (BitVec.allOnes 64)
    else if s.myCore.ilFull then s else s.ilGo .read d (raySlot v) [] (some (bits r 6 0)) (bits r 9 7))

def execIlclose (d a : Reg) (s : State) : Out :=
  let v := s.reg a
  .next (match s.me.waitOf with
    | some .listEngine => s
    | _ =>
      if badRay v then s.put d (BitVec.allOnes 64)
      else if s.myCore.ilFull then s
      else if s.myCore.mayBeMode (raySlot v) .spill 1 then
        (s.ilAccept .close d (raySlot v) [] 0 0 true).wait .listEngine (.ilclose d a)
      else s.ilGo .close d (raySlot v) [] none 0)

def execIlstat (d a : Reg) (s : State) : Out :=
  let v := s.reg a
  .next (if badRay v then s.put d (BitVec.allOnes 64)
    else if s.myCore.ilFull then s else s.ilGo .stat d (raySlot v) [] none 0)

/-! The engine (R284). -/

/-- The thread that issued an operation has not ended since. -/
def State.ilAlive (s : State) (c : Nat) (o : IlOp) : Bool := ((s.core c).thread o.slot).born ≤ o.serial

/-- d is written and the operation retires (R85): the waiting thread goes on, or the register is awaited no longer. Who reads d passes a
completion point for what the engine has taken so far (R284). -/
def State.ilWrite (s : State) (c : Nat) (o : IlOp) (v : Word) : State :=
  let t : ThreadId := ⟨c, o.slot⟩
  if !s.ilAlive c o then s
  else
    let n := (s.core c).serial
    let s := s.updThread t (fun x =>
      let x := { x.setRegId o.dest v with pend := x.pend.filter (fun p => p != .reg o.dest), latch := true }
      if o.dest = 0 then x else x.addPoint (.reg o.dest) n)
    if o.waits && (s.thread t).waitsFor = some .listEngine then s.byEngine t State.advance else s

/-- The row of an ILCOMP or ILREAD is written, where the operation writes it, and awaited no longer. -/
def State.ilWriteRow (s : State) (c : Nat) (o : IlOp) (v : Option Row) : State :=
  if !s.ilAlive c o then s
  else s.updThread ⟨c, o.slot⟩ (fun x =>
    let x := { x with pend := x.pend.filter (fun p => p != .row o.row) }
    match v with
    | none => x
    | some r => (x.setRow o.row r).addPoint (.row o.row) (s.core c).serial)

/-- α_s as τ_stop (R269). -/
def stopDepth (alpha : W32) : W32 :=
  match unpack32 alpha with
  | .fin s m e =>
    if m = 0 then 0
    else if f32Eq alpha one32 then inf32
    else f32Neg (log2DyRN (Dy.sub ⟨1, 0⟩ (Dy.ofParts s m e)))
  | _ => 0

/-- A field of Table 16-3 is out of range (R278). -/
def badOpen (l : List W32) : Bool :=
  let w (i : Nat) : W32 := l.getD i 0
  let hi := (w 3).toNat
  !f32Finite (w 0) || !f32Finite (w 1) || f32Lt (w 1) (w 0) || hi / 2 ^ 14 != 0 || hi / 4 % 64 != 0 || hi % 4 == 3
    || !f32Finite (w 2) || f32Lt (w 2) 0 || f32Lt one32 (w 2) || w 7 != 0
    || (hi % 4 == 1 && ((w 4).toNat % 32 != 0 || w 6 == 0 || 4096 < (w 6).toNat))

/-- A range of addresses wholly in global or local memory. -/
def spanClass (lo n : Nat) : AddrClass :=
  if lo + n ≤ 2 ^ 56 then .global
  else if localBase.toNat ≤ lo ∧ lo + n ≤ localBase.toNat + localBytes then .loc
  else .none

/-- ILOPEN's status and effect (R269, R278). -/
def State.openRay (s : State) (c : Nat) (o : IlOp) : State × Word :=
  let k := s.core c
  let w (i : Nat) : W32 := o.block.getD i 0
  let hi := (w 3).toNat
  let spill := hi % 4 = 1
  let area : Word := (w 5).setWidth 64 <<< 32 ||| (w 4).setWidth 64
  let n := 32 * (w 6).toNat
  if badOpen o.block then (s, 1)
  else if (k.ray o.ray).state ≠ .free then (s, 2)
  else if spill ∧ k.freeRanges = 0 then (s, 3)
  else if spill ∧ (spanClass area.toNat n = .none
      ∨ (spanClass area.toNat n = .loc ∧ ({ k with csrs := o.prot }.protRefused o.user area.toNat n false true).isSome)) then (s, 4)
  else
    let id := 8 + k.rangeNext
    let r : RaySlot := { RaySlot.reset with
      state := .opened
      opener := ⟨c, o.slot⟩
      tmin := w 0
      tmax := w 1
      tauStop := stopDepth (w 2)
      mode := if spill then .spill else if hi % 4 = 2 then .trap else .collapse
      cen := hi / 2 ^ 13 % 2 == 1
      ctr := hi / 2 ^ 8 % 32
      area := if spill then area else 0
      cap := if spill then (w 6).toNat else 0
      rangeId := if spill then some id else none
      user := o.user }
    let s := s.updRay c o.ray (fun _ => r)
    (if spill then s.updCore c (fun k => { k.addRange true area.toNat (area.toNat + n) id with rangeNext := k.rangeNext + 1 }) else s, 0)

/-- The slot is FREE, its range released. -/
def State.freeRay (s : State) (c n : Nat) : State :=
  let r := (s.core c).ray n
  let s := s.updRay c n (fun _ => RaySlot.reset)
  match r.rangeId with
  | none => s
  | some id => s.updCore c (·.dropRange id)

/-- ILSTAT's word (Table 16-6). -/
def RaySlot.statWord (r : RaySlot) : Word :=
  match r.state with
  | .free => 0
  | st =>
    let flags := bit r.lossy 0 + bit r.spilledF 1 + bit r.mixed 2 + bit r.conflict 3 + bit r.remoteOvf 4 + bit r.late 5
    BitVec.ofNat 64 ((if st = .opened then 1 else 2) * 2 ^ 61 + r.entries.length * 2 ^ 56 + flags * 2 ^ 48
      + min r.arrivals 0xFFFF * 2 ^ 32 + min r.culled 0xFFFF * 2 ^ 16 + min r.spilledN 0xFFFF)

/-- ILCOMP: the row, and the slot COMPOSITED (R281, Table 16-2). -/
def State.compRay (s : State) (c : Nat) (o : IlOp) : State :=
  let r := (s.core c).ray o.ray
  match r.state with
  | .free => (s.ilWriteRow c o none).ilWrite c o 1
  | .opened =>
    let x := composite r.entries
    let row := r.resultRow x
    let s := s.updRay c o.ray (fun r => { r with state := .composited, result := some row, mixed := x.mixed })
    (s.ilWriteRow c o (some row)).ilWrite c o 0
  | .composited => (s.ilWriteRow c o r.result).ilWrite c o 0

/-- ILREAD: two entries (R282). -/
def State.readRay (s : State) (c : Nat) (o : IlOp) : State :=
  let r := (s.core c).ray o.ray
  if r.state = .free then (s.ilWriteRow c o none).ilWrite c o (BitVec.allOnes 64)
  else
    let es := (r.entries.drop (2 * o.pair)).take 2
    let l := es.flatMap Answer.lanes
    (s.ilWriteRow c o (some (Row.ofLanes (fun i => l.getD i 0)))).ilWrite c o (BitVec.ofNat 64 es.length)

/-- One operation takes effect. A thread that it traps and that is PARKED stays so, at its handler (R260, R285). -/
def State.ilPerform (s : State) (c : Nat) (o : IlOp) : State :=
  let r := (s.core c).ray o.ray
  let t : ThreadId := ⟨c, o.slot⟩
  match o.kind with
  | .opn =>
    let x := s.openRay c o
    x.1.ilWrite c o x.2
  | .ins =>
    if r.state ≠ .opened then s.ilWrite c o 6
    else
      (match s.insertAnswer c o.ray (Answer.ofLanes o.block) (some (o.slot, o.serial)) with
       | (s, .status n) => s.ilWrite c o (BitVec.ofNat 64 n)
       | (s, .ovf) => if s.ilAlive c o then s.byEngine t (·.trapAt t 13 (BitVec.ofNat 64 o.ray)) else s)
  | .cut => s.ilWrite c o (if r.state = .free then BitVec.allOnes 64 else r.cut.setWidth 64)
  | .comp => s.compRay c o
  | .read => s.readRay c o
  | .close =>
    if r.state = .free then s.ilWrite c o 1
    else
      (match r.wfail with
       | none => (s.freeRay c o.ray).ilWrite c o 0
       | some (cause, v) =>
         let s := s.updRay c o.ray (fun r => { r with wfail := none })
         if s.ilAlive c o then s.byEngine t (·.trapAt t cause v) else s)
  | .stat => s.ilWrite c o r.statWord

/-- Slots whose spill writes wait for no page: their writes are performed. -/
def State.spillAll (s : State) (c : Nat) : State :=
  ((s.core c).rays.map (·.1)).foldl (fun s n => s.spillDrain c n 4097) s

/-- The operation at the head of the local queue can be taken: an ILCLOSE waits for its slot's spill writes. -/
def Core.ilReady (k : Core) : Bool :=
  match k.ilQ with
  | [] => false
  | o :: _ => o.kind != .close || (k.ray o.ray).writes.isEmpty

def State.ilStep (s : State) (c : Nat) : State :=
  match (s.core c).ilQ with
  | [] => s
  | o :: rest => (s.updCore c (fun k => { k with ilQ := rest, ilTurn := true })).ilPerform c o

def execListEngineOperation (core : Nat) (s : State) : Out :=
  let s := s.spillAll core
  let k := s.core core
  .next (if !k.ilReady || (k.ilTurn && !k.arrivals.isEmpty) then s else s.ilStep core)

/-- An arrival is applied (R279, Table 16-2). -/
def State.arrive (s : State) (c ray : Nat) (a : Answer) : State :=
  let r := (s.core c).ray ray
  let counted (s : State) : State :=
    let s := s.updRay c ray (fun r => { r with arrivals := r.arrivals + 1 })
    if r.cen then s.bumpCounter c r.ctr 1 else s
  match r.state with
  | .free => s
  | .composited => counted (s.updRay c ray (fun r => { r with late := true }))
  | .opened => counted (s.insertAnswer c ray a none).1

def State.arrivalStep (s : State) (c : Nat) : State :=
  match (s.core c).arrivals with
  | [] => s
  | a :: rest => (s.updCore c (fun k => { k with arrivals := rest, ilTurn := false })).arrive c a.ray a.answer

def execListArrival (core : Nat) (s : State) : Out :=
  let k := s.core core
  .next (if !k.ilTurn && k.ilReady then s else s.arrivalStep core)

end Sys2Proof.Machine
end

