-- ==== Sys2Proof/Machine/Merge.lean ====
section
/-! DEFINITION. The merge network: contexts, pushes, summation, emission, runs, drains, and the MRG instructions
(R299-R312). -/

namespace Sys2Proof.Machine

open Sys2Proof

def Cluster.mg (c : Cluster) (n : Nat) : MergeCtx := c.merge.get MergeCtx.reset n
def State.mg (s : State) (cl n : Nat) : MergeCtx := (s.cluster cl).mg n
def State.updMg (s : State) (cl n : Nat) (f : MergeCtx → MergeCtx) : State :=
  s.updCluster cl (fun c => { c with merge := c.merge.set n (f (c.mg n)) })

def MgState.live (x : MgState) : Bool :=
  match x with
  | .opened => true
  | .spilled => true
  | .free => false
  | .done => false
  | .failed => false

/-- The buffer and what is derived from it (R301): the distinct coordinates, ascending. -/
def MergeCtx.coords (m : MergeCtx) : List W32 :=
  let ins (x : W32) (l : List W32) : List W32 :=
    if l.contains x then l else l.filter (fun y => y.ult x) ++ x :: l.filter (fun y => x.ult y)
  m.buf.foldl (fun l e => ins e.2.1 l) []

/-- The sum of a coordinate's contributions in ascending port order (R301). -/
def MergeCtx.sumAt (m : MergeCtx) (c : W32) : W32 :=
  let vs := lanes.filterMap (fun p => (m.buf.find? (fun e => e.1 == p && e.2.1 == c)).map (fun e => e.2.2))
  match vs with
  | [] => 0
  | v :: rest => rest.foldl (fun s v => (faddBits (RMode.ofCode m.round) s v).1) v
def MergeCtx.pairs (m : MergeCtx) : List (W32 × W32) := m.coords.map (fun c => (c, m.sumAt c))

/-- Pairs that a port has pushed into a context and that are outside its buffer. -/
def Cluster.pending (c : Cluster) (n p : Nat) : List MergePush := c.mq.filter (fun q => q.mctx == n && q.port == p)
def MergeCtx.lastPushed (m : MergeCtx) (p : Nat) : Option W32 := if m.pushed.getLsbD p then some (m.last.get 0 p) else none

/-- Port `p` is behind a coordinate: it has not ended and has pushed nothing or only coordinates below it (R300). A pair that it has
pushed at or below the coordinate and that is outside the buffer holds emission too (log entry 19). -/
def Cluster.behind (c : Cluster) (n p : Nat) (x : W32) : Bool :=
  let m := c.mg n
  m.members.getLsbD p &&
    ((c.pending n p).any (fun q => q.coord.ule x)
      || (!m.ended.getLsbD p && (match m.lastPushed p with
          | none => true
          | some l => l.ult x)))
/-- The smallest buffered coordinate, when no port is behind it (R300). -/
def Cluster.emittable (c : Cluster) (n : Nat) : Option W32 :=
  match (c.mg n).coords with
  | [] => none
  | x :: _ => if lanes.any (fun p => c.behind n p x) then none else some x

/-! Failure and writes (R302, Table 18-2). -/

/-- The context is FAILED, and a merge integrity event goes to the supervisor. -/
def State.mgFail (s : State) (cl n : Nat) : State :=
  let m := s.mg cl n
  if m.state = .failed then s
  else (s.updMg cl n (fun m => { m with state := .failed, owes := [], held := none })).postEvent (s.coreCtx m.holder.core) 4 (identOf m.holder) m.desc 0
/-- The context is FREE and its ranges are released. -/
def State.mgFree (s : State) (cl n : Nat) : State :=
  let m := s.mg cl n
  let s := m.ranges.foldl (fun s id => s.updCore m.holder.core (·.dropRange id)) s
  s.updCluster cl (fun c => { c with merge := c.merge.set n MergeCtx.reset, mq := c.mq.filter (fun q => q.mctx != n) })

/-- How a network action ends: done; or not, what stops it being in the state: a page that holds it, an output that is full, a
failed context. -/
inductive MgRes where
  | ok (s : State)
  | stop (s : State)
def MgRes.state (r : MgRes) : State :=
  match r with
  | .ok s => s
  | .stop s => s
/-- What stops a network access: a page holds it; a fatal answer, R136 or its address fails the context. -/
def State.mgStopped (s : State) (cl n : Nat) (e : Word × Checked) (k : Access) : State :=
  let m := s.mg cl n
  let c := m.holder.core
  match e.2 with
  | .miss =>
    (match s.joinMiss (dieOf c) (s.coreCtx c) e.1 k m.user m.holder (.merge cl n) with
     | none => s
     | some (i, s) => s.updMg cl n (fun m => { m with held := some (dieOf c, i) }))
  | .trap _ _ => s.mgFail cl n
  | .ok _ => s.mgFail cl n

/-- One write by the network: every page of it translates, or nothing is written. -/
def State.mgWrite (s : State) (cl n : Nat) (va : Word) (bs : List Byte) : MgRes :=
  let m := s.mg cl n
  let c := m.holder.core
  match s.engineSpan c (s.coreCtx c) m.user .copyWrite va bs.length with
  | .error e => .stop (s.mgStopped cl n e .copyWrite)
  | .ok l => .ok (s.sentBy (some (m.holder, m.serial)) 0x80 ((s.dirtySpan c (s.coreCtx c) va bs.length).writeSpan c l bs))

def pairBytes (p : W32 × W32) : List Byte := w32Bytes p.1 ++ w32Bytes p.2

/-- The header of the spill area (Table 18-4; what it names is log entry 19). -/
def Cluster.mgHeader (c : Cluster) (n : Nat) (m : MergeCtx) (drained : Bool) : List Byte :=
  let ended := lanes.foldl (fun a p => if m.ended.getLsbD p && (c.pending n p).isEmpty then a + 2 ^ p else a) 0
  leBytes 4 m.runs ++ leBytes 4 m.next ++ leBytes 2 ended ++ leBytes 2 m.members.toNat ++ leBytes 4 (min m.emitted 0xFFFFFFFF)
    ++ lanes.flatMap (fun p => w32Bytes ((m.lastPushed p).getD 0)) ++ List.replicate 40 0
    ++ leBytes 2 ((if drained then 256 else 0) + 1) ++ leBytes 2 m.pushed.toNat ++ List.replicate 4 0
/-- The context as a resume header restores it; `none` where R307 refuses the header. -/
def MergeCtx.resume (m : MergeCtx) (h : List Byte) : Option MergeCtx :=
  let w (i : Nat) : Word := dwordAt h (8 * i)
  if bits (w 15) 7 0 ≠ 1 ∨ (w 15).getLsbD 8 = false ∨ bits (w 1) 31 16 ≠ m.members.toNat then none
  else
    let last (p : Nat) : W32 := BitVec.ofNat 32 (leNat ((h.drop (16 + 4 * p)).take 4))
    let pushed := bits (w 15) 31 16
    let acc := lanes.foldl (fun (t : Tbl W32) p => if pushed.testBit p then t.set p (last p) else t) []
    some { m with
      state := .spilled
      runs := bits (w 0) 31 0
      next := bits (w 0) 63 32
      emitted := bits (w 1) 63 32
      ended := BitVec.ofNat 16 (bits (w 1) 15 0)
      pushed := BitVec.ofNat 16 pushed
      last := acc }

/-- Bytes of a run of `n` pairs (R304). -/
def runSize (n : Nat) : Nat := (16 + 8 * n + 15) / 16 * 16
/-- The bytes of a run (R304). -/
def MergeCtx.runBytes (m : MergeCtx) (ps : List (W32 × W32)) : List Byte :=
  leBytes 4 ps.length ++ w32Bytes (ps.headD (0, 0)).1 ++ w32Bytes (ps.getLastD (0, 0)).1 ++ leBytes 4 m.runs ++ ps.flatMap pairBytes
/-- A run has been written: the buffer is empty, and an OPEN context that does not drain is SPILLED (R304, R305). -/
def MergeCtx.ran (m : MergeCtx) (ps : List (W32 × W32)) : MergeCtx :=
  { m with
    next := m.next + runSize ps.length
    runs := m.runs + 1
    buf := []
    state := if m.state = .opened ∧ ¬ m.drained then .spilled else m.state }

/-- One write in progress is performed, or the header of a resume read; a run that does not fit the spill area fails the context, and
a run counts event 0x17 (R302-R307). -/
def State.mgStep (s : State) (cl n : Nat) (x : MgStep) : MgRes :=
  let m := s.mg cl n
  let c := m.holder.core
  match x with
  | .out p =>
    (match s.mgWrite cl n (m.out + BitVec.ofNat 64 (8 * m.emitted)) (pairBytes p) with
     | .ok s => .ok (s.updMg cl n (fun m => { m with emitted := m.emitted + 1 }))
     | .stop s => .stop s)
  | .run ps =>
    if m.sbytes < m.next + runSize ps.length then .stop (s.mgFail cl n)
    else
      (match s.mgWrite cl n (m.spill + BitVec.ofNat 64 m.next) (m.runBytes ps) with
       | .ok s => .ok ((s.updMg cl n (·.ran ps)).hpm c 0x17 1)
       | .stop s => .stop s)
  | .head drained => s.mgWrite cl n m.spill ((s.cluster cl).mgHeader n m drained)
  | .restore =>
    (match s.engineSpan c (s.coreCtx c) m.user .copyRead m.spill 128 with
     | .error e => .stop (s.mgStopped cl n e .copyRead)
     | .ok l =>
       match m.resume (s.spanBytes c l) with
       | none => .stop (s.mgFree cl n)
       | some m' => .ok ((s.sentBy (some (m.holder, m.serial)) 0x80 (s.readBy c l)).updMg cl n (fun _ => m')))

/-- The writes in progress go on, in order, as far as nothing stops them. -/
def State.mgGo (s : State) (cl n : Nat) : List MgStep → State
  | [] => s.updMg cl n (fun m => { m with owes := [] })
  | x :: rest =>
    match s.mgStep cl n x with
    | .ok s => (s.updMg cl n (fun m => { m with owes := rest })).mgGo cl n rest
    | .stop s => s
def State.mgOwed (s : State) (cl n : Nat) : State := if (s.mg cl n).held.isSome then s else s.mgGo cl n (s.mg cl n).owes
/-- Writes begin behind those in progress. -/
def State.mgBegin (s : State) (cl n : Nat) (f : MergeCtx → MergeCtx) (xs : List MgStep) : State :=
  (s.updMg cl n (fun m => { f m with owes := m.owes ++ xs })).mgOwed cl n
/-- A run of pairs, none where there are none, and the header after it (R303, R305). -/
def runSteps (ps : List (W32 × W32)) (drained : Bool) : List MgStep := (if ps.isEmpty then [] else [.run ps]) ++ [.head drained]
/-- No write of a context is in progress. -/
def MergeCtx.calm (m : MergeCtx) : Bool := m.held.isNone && m.owes.isEmpty
/-- The header of a context that a resume has reopened has still to be read (R312). -/
def MergeCtx.restoring (m : MergeCtx) : Bool := m.owes.contains .restore
/-- Only pairs on their way to the output area are in progress. -/
def MergeCtx.onlyOuts (m : MergeCtx) : Bool := m.owes.all (fun x => match x with
  | .out _ => true
  | .run _ => false
  | .head _ => false
  | .restore => false)

/-! Output (Table 18-3). -/

/-- The ring that a context writes to. -/
def State.mgRing (s : State) (m : MergeCtx) : Ring := (s.core m.holder.core).ring (bits m.out 2 0)
def Ring.takesPush (r : Ring) : Bool := r.state == .opened || r.state == .storing
/-- The output cannot take a pair: an output queue of 64 pairs, a ring without a free slot. -/
def State.mgFull (s : State) (m : MergeCtx) : Bool :=
  match m.outk with
  | .pop => 64 ≤ m.popQ.length
  | .area => false
  | .ring => (s.mgRing m).takesPush && (s.core m.holder.core).slotsFree (bits m.out 2 0) == 0

/-- The partial slot of a RING output is zero-filled and pushed. -/
def State.mgFlush (s : State) (cl n : Nat) : MgRes :=
  let m := s.mg cl n
  let c := m.holder.core
  let r := s.mgRing m
  if m.slot.isEmpty then .ok s
  else if ¬ r.takesPush then .stop (s.mgFail cl n)
  else if s.mgFull m then .stop s
  else
    let bs := m.slot.flatMap pairBytes
    let s := s.writeAt c (.loc (r.slotOff r.tail)) (bs ++ List.replicate (r.slotBytes - bs.length) 0)
    .ok ((s.pushSlots c (bits m.out 2 0) 1).updMg cl n (fun m => { m with slot := [] }))

/-- The sum of a coordinate is a zero that DZ drops (R301). -/
def MergeCtx.dropsZero (m : MergeCtx) (c : W32) : Bool := m.dz && (m.sumAt c == 0 || m.sumAt c == 0x80000000)
/-- Emit the pair of a coordinate (R301, R302): it leaves the buffer, and one that goes to the output area is in progress until it is
written there. -/
def State.mgOut (s : State) (cl n : Nat) (c : W32) : MgRes :=
  let m := s.mg cl n
  let v := m.sumAt c
  let gone (m : MergeCtx) : MergeCtx := { m with buf := m.buf.filter (fun e => e.2.1 != c) }
  let done (m : MergeCtx) : MergeCtx := { gone m with emitted := m.emitted + 1 }
  if m.dropsZero c then .ok (s.updMg cl n (fun m => { gone m with zeros := m.zeros + 1 }))
  else if s.mgFull m then .stop s
  else match m.outk with
    | .pop => .ok (s.updMg cl n (fun m => { done m with popQ := m.popQ ++ [(c, v)] }))
    | .area =>
      if m.outcap ≤ m.emitted then .ok (s.updMg cl n (fun m => { done m with discard := m.discard + 1 }))
      else .ok (s.mgBegin cl n gone [.out (c, v)])
    | .ring =>
      let r := s.mgRing m
      if ¬ r.takesPush then .stop (s.mgFail cl n)
      else
        let s := s.updMg cl n (fun m => { done m with slot := m.slot ++ [(c, v)] })
        if r.slotBytes / 8 ≤ m.slot.length + 1 then s.mgFlush cl n else .ok s

/-- Every member has ended and every pair of theirs is in the buffer. -/
def Cluster.allEnded (c : Cluster) (n : Nat) : Bool :=
  let m := c.mg n
  lanes.all (fun p => !m.members.getLsbD p || (m.ended.getLsbD p && (c.pending n p).isEmpty))

/-- DONE when every member has ended (R305, Table 18-2): OPEN once the rest is emitted, SPILLED with a final run of the rest; writes
may then still be in progress. A context that drains is not settled. -/
def State.mgSettle (s : State) (cl n : Nat) : State :=
  let m := s.mg cl n
  if !m.state.live || m.drained || !(s.cluster cl).allEnded n || (m.state == .opened && !m.buf.isEmpty)
      || !(m.calm || (m.state == .opened && m.onlyOuts)) then s
  else
    match s.mgFlush cl n with
    | .ok s => s.mgBegin cl n (fun m => { m with state := .done, buf := [] }) (runSteps m.pairs false)
    | .stop s => s

/-- Emit the next pair of a context, where one can be emitted (R302). -/
def State.mgEmit (s : State) (cl n : Nat) : State :=
  let m := s.mg cl n
  let c := s.cluster cl
  if m.held.isSome then s
  else if !m.owes.isEmpty then (s.mgOwed cl n).mgSettle cl n
  else if m.drained then s
  else if m.state = .spilled ∧ m.cap ≤ m.buf.length ∧ ¬ c.allEnded n then s.mgBegin cl n id (runSteps m.pairs false)
  else if m.state ≠ .opened then s.mgSettle cl n
  else match c.emittable n with
    | none => s.mgSettle cl n
    | some x =>
      match s.mgOut cl n x with
      | .ok s => s.mgSettle cl n
      | .stop s => s

def execMergeEmit (cluster mctx : Nat) (s : State) : Out := .next (s.mgEmit cluster mctx)

/-! Acceptance (R302, R305). -/

/-- A pair that could be emitted waits for its output (R302). -/
def State.mgOutWaits (s : State) (cl n : Nat) : Bool :=
  let m := s.mg cl n
  m.state == .opened && (match (s.cluster cl).emittable n with
    | none => false
    | some c => !m.dropsZero c && s.mgFull m)

/-- A pair is in the buffer; with the last of its push, that operation of its thread retires (R85). -/
def State.mgEnter (s : State) (cl : Nat) (q : MergePush) : State :=
  let s := (s.updCluster cl (fun c => { c with mq := c.mq.erase q, mqLast := q.port })).updMg cl q.mctx (fun m =>
    { m with buf := m.buf ++ [(q.port, q.coord, q.val)] })
  if (s.cluster cl).mq.any (fun r => r.push == q.push) then s else s.latchThread ⟨16 * cl + q.port, q.slot⟩
/-- The same; the buffer of a SPILLED context that is full with it is written as a run (R305). -/
def State.mgEnterRun (s : State) (cl : Nat) (q : MergePush) : State :=
  let s := s.mgEnter cl q
  let m := s.mg cl q.mctx
  if m.state ≠ .spilled ∨ m.buf.length < m.cap ∨ (s.cluster cl).allEnded q.mctx then s
  else s.mgBegin cl q.mctx id (runSteps m.pairs false)

/-- One pair leaves its port's queue for the buffer, after a run when the buffer is full and nothing is emittable, and not while
emission waits; `force` for a drain, which emits what it can and takes the pair without waiting for the output. A write that begins
here and stops leaves the pair in its queue. -/
def State.mgTake (s : State) (cl : Nat) (q : MergePush) (force : Bool) : MgRes :=
  let c := s.cluster cl
  let n := q.mctx
  let m := c.mg n
  let enter (s : State) : MgRes := if (s.mg cl n).calm ∧ (s.mg cl n).state.live then .ok (s.mgEnterRun cl q) else .stop s
  if !m.state.live then .ok (s.updCluster cl (fun c => { c with mq := c.mq.erase q, mqLast := q.port }))
  else if !m.calm then .stop s
  else if s.mgOutWaits cl n ∧ ¬ force then .stop s
  else if m.buf.length < m.cap then enter s
  else
    match (if m.state = .opened ∧ ¬ s.mgOutWaits cl n then c.emittable n else none) with
    | none => enter (s.mgBegin cl n id (runSteps m.pairs false))
    | some x => if ¬ force then .stop s else enter (s.mgOut cl n x).state

/-- The ports after the one served last, in turn. -/
def Cluster.portOrder (c : Cluster) : List Nat := (List.range 16).map (fun i => (c.mqLast + 1 + i) % 16)

def State.acceptFrom (s : State) (cl : Nat) : List Nat → State
  | [] => s
  | p :: ps =>
    match (s.cluster cl).mq.find? (fun q => q.port == p) with
    | none => s.acceptFrom cl ps
    | some q =>
      match s.mgTake cl q false with
      | .ok s => s.mgSettle cl q.mctx
      | .stop s => s.acceptFrom cl ps

def execMergeAccept (cluster : Nat) (s : State) : Out :=
  .next (s.acceptFrom cluster (s.cluster cluster).portOrder)

/-! Drains (R306). -/

/-- Take the pairs already pushed into a context, oldest first. -/
def State.mgTakeAll (s : State) (cl n : Nat) : Nat → State
  | 0 => s
  | fuel + 1 =>
    match (s.cluster cl).mq.find? (fun q => q.mctx == n) with
    | none => s
    | some q => match s.mgTake cl q true with
      | .ok s => s.mgTakeAll cl n fuel
      | .stop s => s

/-- A drain of a context that is OPEN or SPILLED goes on as far as nothing stops it (R306): the pushed pairs are taken; then the partial
slot is pushed, and what is unread and buffered is written as one run. -/
def State.mgDrain (s : State) (cl n : Nat) : State :=
  let s := s.mgOwed cl n
  if ¬ (s.mg cl n).calm ∨ (s.mg cl n).drained ∨ ¬ (s.mg cl n).state.live then s
  else
    let s := s.mgTakeAll cl n ((s.cluster cl).mq.length + 1)
    if ¬ (s.mg cl n).calm ∨ ¬ (s.mg cl n).state.live then s
    else
      match s.mgFlush cl n with
      | .ok s =>
        let m := s.mg cl n
        s.mgBegin cl n (fun m => { m with drained := true, popQ := [] }) (runSteps (m.popQ ++ m.pairs) true)
      | .stop s => s
/-- The drain of a context is complete. -/
def MergeCtx.isDrained (m : MergeCtx) : Bool := m.state.live && m.drained && m.calm

/-- The holding thread lives. -/
def State.mgHolderLive (s : State) (m : MergeCtx) : Bool :=
  (s.thread m.holder).state.live && decide ((s.thread m.holder).born ≤ m.serial)

/-- A context whose holder has exited is drained and freed, with a merge integrity event (Table 18-2). -/
def State.mgReap (s : State) (cl n : Nat) : State :=
  let m := s.mg cl n
  if !m.state.live || s.mgHolderLive m then s
  else
    let s := s.mgDrain cl n
    if (s.mg cl n).isDrained then (s.mgFree cl n).postEvent (s.coreCtx m.holder.core) 4 (identOf m.holder) m.desc 0 else s

/-! Instructions (R308-R311). -/

def myCluster (s : State) : Nat := clusterOf s.cur.core
def badMg (a : Word) : Bool := bits a 63 2 != 0
def mgNum (a : Word) : Nat := bits a 1 0

/-- The descriptor of Table 18-1 as a context; `none` where a field is out of range. -/
def parseMg (bs : List Byte) (desc : Word) (holder : ThreadId) (user : Bool) (serial rangeId : Nat) : Option (MergeCtx × Bool) :=
  let w (i : Nat) : Word := dwordAt bs (8 * i)
  let out := w 0
  let outcap := bits (w 1) 63 32
  let members := bits (w 1) 31 16
  let cap := bits (w 1) 12 0
  let sbytes := bits (w 3) 63 32
  let kind := bits (w 3) 5 4
  let badOut : Bool := match kind with
    | 0 => out.toNat % 8 != 0 || outcap == 0
    | 1 => outcap != 0 || bits out 63 3 != 0
    | 2 => outcap != 0 || out != 0
    | _ => true
  if members = 0 ∨ cap < 8 ∨ 4096 < cap ∨ bits (w 1) 15 13 ≠ 0 ∨ (w 2).toNat % 64 ≠ 0 ∨ sbytes % 64 ≠ 0 ∨ sbytes < 128
      ∨ bits (w 3) 31 7 ≠ 0 ∨ 4 < bits (w 3) 2 0 ∨ badOut ∨ w 4 ≠ 0 ∨ w 5 ≠ 0 ∨ w 6 ≠ 0 ∨ w 7 ≠ 0 then none
  else
    some ({ MergeCtx.reset with
      state := .opened
      holder := holder
      desc := desc
      out := out
      outcap := outcap
      members := BitVec.ofNat 16 members
      cap := cap
      spill := w 2
      sbytes := sbytes
      outk := if kind = 0 then .area else if kind = 1 then .ring else .pop
      dz := (w 3).getLsbD 3
      round := bits (w 3) 2 0
      user := user
      ranges := [rangeId]
      serial := serial }, (w 3).getLsbD 6)

/-- A span that the network may not write: in no class, or local and refused (R309). -/
def Core.mgNoWrite (k : Core) (user : Bool) (a : Word) (n : Nat) : Bool :=
  if a.toNat + n ≤ 2 ^ 56 then false
  else if localBase.toNat ≤ a.toNat ∧ a.toNat + n ≤ localBase.toNat + localBytes then (k.protRefused user a.toNat n false true).isSome
  else true

/-- A context is opened: its ranges, itself, the thread as holder. -/
def State.mgOpen (s : State) (n : Nat) (m : MergeCtx) (id : Nat) : State :=
  let s := s.release
  let s := s.updMyCore (fun k =>
    let k := { k.addRange true m.spill.toNat (m.spill.toNat + m.sbytes) id with rangeNext := k.rangeNext + 1, serial := k.serial + 1 }
    match m.outk with
    | .area => k.addRange true m.out.toNat (m.out.toNat + 8 * m.outcap) id
    | .ring => k
    | .pop => k)
  s.updMg (myCluster s) n (fun _ => m)

/-- MGOPEN (R307, R309). A page that holds the reading of a resume header holds the issuing thread, with first access 4, copy read: the
manual names no requester and no access code for that read (log entry 34). -/
def execMgopen (d a b : Reg) (s : State) : Out :=
  let v := s.reg a
  let vb := s.reg b
  let n := mgNum v
  let cl := myCluster s
  let k := s.myCore
  let id := 8 + k.rangeNext
  .next (
    if badMg v then s.put d 1
    else if vb.toNat % 64 ≠ 0 then s.trap 2 vb
    else s.localBlock vb 64 64 true (fun s bs =>
      match parseMg bs vb s.cur (!s.me.sup) k.serial id with
      | none => s.put d 1
      | some (m, resume) =>
        if (s.mg cl n).state ≠ .free then s.put d 2
        else if k.freeRanges < (if m.outk = .area then 2 else 1) then s.put d 3
        else if k.mgNoWrite m.user m.spill m.sbytes ∨ (m.outk = .area ∧ k.mgNoWrite m.user m.out (8 * m.outcap)) then s.put d 4
        else if ¬ resume then (s.mgOpen n m id).put d 0
        else
          let s := s.release
          match s.engineSpan s.cur.core s.me.ctx m.user .copyRead m.spill 128 with
          | .error (va, .miss) => s.holdOnPage va .copyRead
          | .error (va, .ok _) => s.holdOnPage va .copyRead
          | .error (_, .trap c v) => s.trap c v
          | .ok l =>
            let s' := s.readBy s.cur.core l
            match m.resume (s.spanBytes s.cur.core l) with
            | none => s'.put d 5
            | some m => ((((s'.mgOpen n m id).put d 0).mgBegin cl n (fun m => m) [.head false]).mgSettle cl n)))

/-- The checks of MGPUSH and MGEND that involve no rows: the status, 0 where they hold (R310). -/
def State.mgPortStatus (s : State) (n : Nat) : Nat :=
  let m := s.mg (myCluster s) n
  let p := coreIdOf s.cur.core
  if !m.state.live || m.drained then 1
  else if !m.members.getLsbD p || m.ended.getLsbD p then 2
  else 0

/-- The first coordinate of a push that does not ascend (R310). -/
def pushFail (last : Option W32) : List (W32 × W32) → Option W32
  | [] => none
  | (c, _) :: rest =>
    match last with
    | none => pushFail (some c) rest
    | some l => if c.ule l then some c else pushFail (some c) rest

/-- Pushes of a port that the network has not taken whole: two wait, one is being taken (R366). -/
def Cluster.pushFull (c : Cluster) (p : Nat) : Bool :=
  3 ≤ (((c.mq.filter (fun q => q.port == p)).map (fun q => q.push)).eraseDups).length

def execMgpush (d a b : Reg) (s : State) : Out :=
  let v := s.reg a
  let vb := s.reg b
  let n := mgNum v
  let cl := myCluster s
  let p := coreIdOf s.cur.core
  let k := s.myCore
  let cnt := bits vb 11 7
  let m := s.mg cl n
  let row : RowCode := BitVec.ofNat 7 (bits vb 6 0)
  let ps := ((List.range cnt).map (fun i => ((s.row row).lane i, (s.row (row + 1)).lane i)))
  let st := s.mgPortStatus n
  .next (
    if badMg v then s.put d (BitVec.allOnes 64)
    else if bits vb 63 12 ≠ 0 ∨ cnt = 0 ∨ 16 < cnt then s.put d 3
    else if m.restoring then s
    else if st ≠ 0 then s.put d (BitVec.ofNat 64 st)
    else match pushFail (m.lastPushed p) ps with
      | some c => s.trap 17 (c.setWidth 64)
      | none =>
        if (s.cluster cl).pushFull p then s
        else
          let s := s.release
          let s := (s.updMyCore (fun k => { k with serial := k.serial + 1 })).updMg cl n (fun m => { m with
            last := m.last.set p ((ps.getLastD (0, 0)).1), pushed := m.pushed ||| (1#16 <<< p) })
          let s := s.updCluster cl (fun c => { c with
            mq := c.mq ++ ps.map (fun x => ⟨p, s.cur.slot, n, c.mqNext, k.serial, x.1, x.2⟩), mqNext := c.mqNext + 1 })
          (s.hpm s.cur.core 0x15 1).put d 0)

def execMgend (d a : Reg) (s : State) : Out :=
  let v := s.reg a
  let n := mgNum v
  let st := s.mgPortStatus n
  .next (
    if badMg v then s.put d (BitVec.allOnes 64)
    else if (s.mg (myCluster s) n).restoring then s
    else if st ≠ 0 then s.put d (BitVec.ofNat 64 st)
    else
      let s := s.release.updMg (myCluster s) n (fun m => { m with ended := m.ended ||| (1#16 <<< coreIdOf s.cur.core) })
      (s.put d 0).mgSettle (myCluster s) n)

def execMgpop (d a b : Reg) (s : State) : Out :=
  let v := s.reg a
  let vb := s.reg b
  let n := mgNum v
  let m := s.mg (myCluster s) n
  let row : RowCode := BitVec.ofNat 7 (bits vb 6 0)
  let out := m.popQ.take 16
  .next (
    if badMg v ∨ bits vb 63 7 ≠ 0 ∨ m.state = .free ∨ m.outk ≠ .pop ∨ m.holder.core ≠ s.cur.core then s.put d (BitVec.allOnes 64)
    else
      let s := s.updMg (myCluster s) n (fun m => { m with popQ := m.popQ.drop 16 })
      let s := s.setRow row (Row.ofLanes (fun i => (out.getD i (0, 0)).1))
      let s := s.setRow (row + 1) (Row.ofLanes (fun i => (out.getD i (0, 0)).2))
      s.put d (BitVec.ofNat 64 out.length))

def MgState.code (x : MgState) : Nat :=
  match x with
  | .free => 0
  | .opened => 1
  | .spilled => 2
  | .done => 3
  | .failed => 4
/-- MGSTAT's word for selector 0 (Table 18-6). -/
def MergeCtx.statWord (m : MergeCtx) : Word :=
  BitVec.ofNat 64 (m.state.code * 2 ^ 61 + m.buf.length * 2 ^ 48 + m.ended.toNat * 2 ^ 32 + m.members.toNat * 2 ^ 16 + min m.runs 0xFFFF)
def sat32w (n : Nat) : Word := BitVec.ofNat 64 (min n 0xFFFFFFFF)

/-- MGSTAT (R311). It does not issue while the header of a context that a resume has reopened has still to be read, as MGPUSH and MGEND do
not (R312). The idle count of a port that has pushed has grown by a free amount (log entry 9). -/
def execMgstat (d a b : Reg) (s : State) : Out :=
  let v := s.reg a
  let sel := (s.reg b).toNat
  let n := mgNum v
  let m := s.mg (myCluster s) n
  .next (
    if badMg v then s.put d (BitVec.allOnes 64)
    else if m.restoring then s
    else if sel = 0 then s.put d m.statWord
    else if sel = 1 then s.put d (sat32w m.emitted)
    else if sel = 2 then s.put d (sat32w m.zeros)
    else if sel = 3 then s.put d (sat32w m.discard)
    else if 16 ≤ sel ∧ sel < 32 then
      let p := sel - 16
      if m.pushed.getLsbD p then
        let idle := m.idle.get 0 p + (Config.elapsedCycles s.freeCount).toNat
        (s.fresh.updMg (myCluster s) n (fun m => { m with idle := m.idle.set p idle })).put d (sat32w idle)
      else s.put d (sat32w (m.idle.get 0 p))
    else s.put d (BitVec.allOnes 64))

/-- MGDRAIN (R311). A drain that has begun goes on by itself while the thread waits. -/
def execMgdrain (d a : Reg) (s : State) : Out :=
  let v := s.reg a
  let n := mgNum v
  let cl := myCluster s
  let m := s.mg cl n
  let free (s : State) (r : Word) : State := (s.mgFree cl n).put d r
  .next (
    if badMg v ∨ m.state = .free ∨ m.holder ≠ s.cur ∨ s.mgHolderLive m = false then s.put d (BitVec.allOnes 64)
    else
      let s := s.release.mgDrain cl n
      let m := s.mg cl n
      if m.state = .failed then free s (BitVec.allOnes 64)
      else if m.calm ∧ (m.drained ∨ m.state = .done) then free s (BitVec.ofNat 64 m.runs)
      else s.wait (.mergeDrain n) (.mgdrain d a))

end Sys2Proof.Machine
end

