-- ==== Sys2Proof/Machine/Page.lean ====
section
/-! DEFINITION. Translation tables and walks, coalescing entries, the fault buffer, and the page instructions of the
supervisor (chapter Page, R172-R195). -/

namespace Sys2Proof.Machine

open Sys2Proof

/-! The walk (R172-R176). -/

/-- Physical address of the entry that a level's index selects (Table 10-1). -/
def entryAddr (table level : Nat) (va : Word) : Nat := table + 8 * bits va (25 + 10 * level) (16 + 10 * level)

/-- Whether an entry that is V = 1 and has R or X is malformed as a leaf of a level (R173, R174). -/
def leafBad (level : Nat) (e : Word) : Bool :=
  bits e 63 46 != 0 || bits e 15 13 != 0 || e.getLsbD 11 || e.getLsbD 5 || (e.getLsbD 2 && !e.getLsbD 1)
    || level == 3 || (level == 2 && e.getLsbD 10)
    || (bits e 9 8 == 3 && bits e 45 24 != 0)
    || (level != 0 && bits e (15 + 10 * level) 16 != 0)
/-- Whether an entry with V = 1 and neither R nor X is malformed (R174). -/
def pointerBad (level : Nat) (e : Word) : Bool :=
  level == 0 || bits e 63 46 != 0 || bits e 12 1 != 0

/-- How the table reading ends: a leaf at a level and physical address, or a fault. -/
inductive Walk where
  | leaf (level addr : Nat) (e : Word)
  | stop (level : Nat) (r : Reason)
  deriving DecidableEq, Repr

/-- Read the tables from one at `level` down (R172), as `rd` reads 8 bytes; the number is one more than the level. -/
def walkFrom (rd : Nat → List Byte) (va : Word) : Nat → Nat → Walk
  | 0, _ => .stop 0 .malformed
  | level + 1, table =>
    let a := entryAddr table level va
    let e := dwordAt (rd a) 0
    if !e.getLsbD 0 then .stop level .invalid
    else if e.getLsbD 1 || e.getLsbD 3 then (if leafBad level e then .stop level .malformed else .leaf level a e)
    else if pointerBad level e then .stop level .malformed
    else walkFrom rd va level (bits e 45 13 * 2 ^ 13)
/-- The addresses of the entries that the same reading takes. -/
def walkReads (rd : Nat → List Byte) (va : Word) : Nat → Nat → List Nat
  | 0, _ => []
  | level + 1, table =>
    let a := entryAddr table level va
    let e := dwordAt (rd a) 0
    a :: (if !e.getLsbD 0 || e.getLsbD 1 || e.getLsbD 3 || pointerBad level e then [] else walkReads rd va level (bits e 45 13 * 2 ^ 13))

def PageKind.ofCode (n : Nat) : PageKind :=
  if n = 0 then .hbm else if n = 1 then .weight else if n = 2 then .compressed else .remote

/-- The translation of a leaf; a contiguous run is one page, its first frame having the low 5 bits clear (R175). -/
def leafEnt (ctx level : Nat) (va : Word) (e : Word) : TlbEnt :=
  let size := 2 ^ (16 + 10 * level) * (if e.getLsbD 10 then 32 else 1)
  let kind := PageKind.ofCode (bits e 9 8)
  let frame := bits e 45 16 * 65536
  let run := if e.getLsbD 10 then frame / (32 * 2 ^ (16 + 10 * level)) * (32 * 2 ^ (16 + 10 * level)) else frame
  { ctx := ctx
    va := va.toNat / size * size
    size := size
    kind := kind
    frame := if kind = .remote then run / 65536 % 256 else run
    r := e.getLsbD 1
    w := e.getLsbD 2
    x := e.getLsbD 3
    u := e.getLsbD 4
    d := e.getLsbD 7
    m := e.getLsbD 12 && kind != PageKind.remote
    owesD := none }

/-- What a leaf that is not malformed answers (Table 10-3, R136, R141): use it, or a fault. The flag says that the write is
performed through it. -/
inductive LeafSays where
  | use (performed : Bool)
  | fault (r : Reason)
  deriving DecidableEq, Repr

def State.leafSays (s : State) (ctx : Nat) (t : TlbEnt) (k : Access) (user : Bool) : LeafSays :=
  match t.kind with
  | .compressed => .fault .compressed
  | .remote =>
    if !({ t with d := true } : TlbEnt).allows k user then .fault .permission
    else if Config.remoteRefuses s.freeCount then .fault .remote
    else .use k.writes
  | .weight =>
    if k == .atomic || (k.writes && (s.ctx ctx).kernelLive) then .use false
    else if t.m && k.writes then .fault .migrating
    else if ({ t with d := true } : TlbEnt).allows k user then .use k.writes else .fault .permission
  | .hbm =>
    if t.m && k.writes then .fault .migrating
    else if ({ t with d := true } : TlbEnt).allows k user then .use k.writes else .fault .permission

/-- A walk of a context's tables for an access, reading them as core `c`'s die sees them (R172-R178; the order of its checks is log
entry 21): A is set in any leaf that is not malformed; the translation for a write that the leaf allows owes the leaf its D until the
write is performed (R176). -/
def State.walk (s : State) (c ctx : Nat) (va : Word) (k : Access) (user : Bool) : Except (Nat × Reason) TlbEnt × State :=
  let rd (a : Nat) : List Byte := s.hbmBytes (dieOf c) a 8
  let w := walkFrom rd va 4 (s.ctx ctx).root
  let s := s.readBy c ((walkReads rd va 4 (s.ctx ctx).root).map (fun a => (Place.hbm a, 8)))
  match w with
  | .stop level r => (.error (level, r), s)
  | .leaf level a e =>
    let t := leafEnt ctx level va e
    let ans := s.leafSays ctx t k user
    let s' := match t.kind with
      | .remote => s.fresh
      | .hbm => s
      | .weight => s
      | .compressed => s
    let s' := s'.orByte a 0x40
    match ans with
    | .fault r => (.error (level, r), s')
    | .use performed => (.ok { t with d := t.d || performed, owesD := if performed && !t.d then some a else none }, s')

/-! TLBs (R180, R181). -/

/-- Put a translation in a TLB of `n` places; the oldest falls out (the manual gives no replacement rule: log entry 12). -/
def tlbFill (n : Nat) (l : List TlbEnt) (e : TlbEnt) : List TlbEnt :=
  (e :: l.filter (fun f => !(f.ctx == e.ctx && f.va == e.va && f.size == e.size))).take n

/-- The cluster whose L1 TLB serves a requester. -/
def Requester.cluster (r : Requester) (die : Nat) : Nat :=
  match r with
  | .thread t => clusterOf t.core
  | .copy c => clusterOf c
  | .ring c _ => clusterOf c
  | .stream c _ => clusterOf c
  | .ray c _ => clusterOf c
  | .merge cl _ => cl
  | .tcb _ _ => 32 * die
  | .encoder _ => 32 * die

/-- A finished walk fills the die's L2 TLB and the L1 TLBs of the clusters of the requesters that joined it; a miss that hits the L2 fills no
L1 (log entries 12 and 36). -/
def State.fillTlbs (s : State) (die : Nat) (reqs : List Requester) (e : TlbEnt) : State :=
  let s := s.updDie die (fun d => { d with l2 := tlbFill 16384 d.l2 e })
  ((reqs.map (·.cluster die)).eraseDups).foldl (fun s cl => s.updCluster cl (fun c => { c with l1 := tlbFill 64 c.l1 e })) s

/-! Requesters proceed or fail (Table 10-9). -/

/-- Every thread that is BLOCKED on the entry tries its instruction again. -/
def Thread.unpage (t : Thread) (die entry : Nat) : Thread :=
  match t.state with
  | .blocked w _ => if w = .page die entry then t.wake else t
  | _ => t
def State.readyPage (s : State) (die entry : Nat) : State :=
  { s with cores := s.cores.map (fun p =>
      (p.1, { p.2 with threads := p.2.threads.map (fun q => (q.1, q.2.unpage die entry)) })) }

/-- An engine requester tries its access again: a copy runs once its unit has translated (Table 8-13). -/
def State.retryReq (s : State) (r : Requester) : State :=
  match r with
  | .thread _ => s
  | .copy c =>
    (match (s.core c).copies with
     | [] => s
     | x :: _ => if x.held then s.setHeadCopy c { x with held := false } else s)
  | .ring c n => s.updRing c n (fun r => { r with sub := r.sub.map (fun u => { u with held := false }) })
  | .stream c n => s.updStrm c n (fun x => { x with held := none })
  | .ray c n => (s.updRay c n (fun r => { r with wheld := none })).spillDrain c n 4097
  | .merge cl n => (s.updMg cl n (fun m => { m with held := none })).mgEmit cl n
  | .tcb x kid => (s.updKernel x kid (fun k => { k with held := none })).runTodo x kid 16
  | .encoder e => { s with encoders := s.encoders.set e { s.encoders.get Encoder.reset e with held := none } }

/-- A requester's access fails by a fatal reply: ACCESS is cause 4. -/
def State.failReq (s : State) (die entry : Nat) (r : Requester) : State :=
  match r with
  | .thread t =>
    (match (s.thread t).state with
     | .blocked w _ => if w = .page die entry then s.trapAt t 4 (s.thread t).faultVa else s
     | _ => s)
  | .copy c =>
    (match (s.core c).copies with
     | [] => s
     | x :: _ => if x.held then s.endCopy c x (.failed 4 x.heldVa) else s)
  | .ring c n =>
    (match ((s.core c).ring n).sub with
     | some u => if u.held then s.updRing c n (fun r => { r with state := .failed, sub := some { u with held := false } }) else s
     | none => s)
  | .stream c n =>
    let x := (s.core c).strm n
    if x.held = some (die, entry) then s.updStrm c n (fun x => { x with held := none, failed := some (4, x.heldVa) }) else s
  | .ray c n =>
    let x := (s.core c).ray n
    if x.wheld = some (die, entry) then
      (s.updRay c n (fun x => x.writeFails 4 (x.spillAddr ((x.writes.head?.map (·.idx)).getD 0)))).spillDrain c n 4097
    else s
  | .merge cl n =>
    if (s.mg cl n).held = some (die, entry) then s.mgFail cl n else s
  | .tcb x _ => s.failCtx x
  | .encoder e =>
    let n := s.encoders.get Encoder.reset e
    let n' := if n.owes.isSome then { n with held := none, doneFails := true }
      else { n with held := none, failed := n.failed.filter (· != n.record) ++ [n.record] }
    { s with encoders := s.encoders.set e n' }

def State.coalAt (s : State) (die entry : Nat) : Coal := (s.die die).coal.get Coal.reset entry
def State.setCoal (s : State) (die entry : Nat) (e : Coal) : State :=
  s.updDie die (fun d => { d with coal := if e = Coal.reset then d.coal.erase entry else d.coal.set entry e })

/-- The entry leaves to another state and all its requesters retry. -/
def State.releaseCoal (s : State) (die entry : Nat) (st : CoalState) : State :=
  let e := s.coalAt die entry
  let s := s.setCoal die entry (if st = .free then Coal.reset else { e with state := st, reqs := [] })
  e.reqs.foldl (fun s r => s.retryReq r) (s.readyPage die entry)

/-- A fatal reply: the entry is FREE and every requester fails. -/
def State.failCoal (s : State) (die entry : Nat) : State :=
  let e := s.coalAt die entry
  let s := s.setCoal die entry Coal.reset
  (e.reqs.foldl (fun s r => s.failReq die entry r) s).readyPage die entry

/-! A walk ends (Table 10-5, R184). -/

def Reason.code (r : Reason) : Nat :=
  match r with
  | .invalid => 0
  | .permission => 1
  | .compressed => 2
  | .migrating => 3
  | .malformed => 4
  | .remote => 5

/-- The record of a fault (Table 10-6), less the time that storing it adds. -/
def Coal.record (e : Coal) (die entry level : Nat) (r : Reason) : FaultRec where
  w0 := BitVec.ofNat 64 (e.va / 65536 * 65536)
  w1 := BitVec.ofNat 64 (level * 2 ^ 52 + min 0xFFFF e.reqs.length * 2 ^ 32 + entry * 2 ^ 10 + die * 2 ^ 8 + r.code * 2 ^ 4 + e.access.code)
  w2 := BitVec.ofNat 64 (identOf e.first)
  w3 := 0
  die := die
  entry := entry

/-- A walk of a die that began before this one has not ended (R177). -/
def State.earlierWalk (s : State) (die seq : Nat) : Bool :=
  (s.die die).coal.any (fun e => e.2.state == .walking && e.2.seq < seq)

def execPageWalkComplete (die entry : Nat) (s : State) : Out :=
  let e := s.coalAt die entry
  .next (
    if e.state ≠ .walking ∨ s.earlierWalk die e.seq then s
    else match s.walk (512 * die) e.ctx (BitVec.ofNat 64 e.va) e.access e.user with
      | (.ok t, s) => (s.fillTlbs die e.reqs t).releaseCoal die entry .free
      | (.error (level, r), s) =>
        let s := s.setCoal die entry { e with state := .reported }
        { s with faultMsgs := s.faultMsgs ++ [⟨e.ctx, e.record die entry level r⟩] })

/-! The fault buffer (R184, R185). -/

def Ctx.freeRecord (x : Ctx) : Option Nat := (List.range 8).find? (fun n => (x.faults.find? (fun p => p.1 == n)).isNone)

/-- A message arrives: stored in the lowest free entry, or dropped (R184). -/
def State.faultArrives (s : State) (m : FaultMsg) : State :=
  match (s.ctx m.ctx).freeRecord with
  | some n =>
    let (tm, s) := s.readTime
    let s := s.updCtx m.ctx (fun x => { x with faults := x.faults.set n { m.record with w3 := tm } })
    match s.serviceCore m.ctx with
    | some c => s.latchAll c
    | none => s
  | none =>
    let s := s.updCtx m.ctx (fun x => { x with dropFlag := true, dropped := min 0xFFFFFFFF (x.dropped + 1) })
    let e := s.coalAt m.record.die m.record.entry
    match e.state with
    | .reported => s.setCoal m.record.die m.record.entry { e with state := .unreported }
    | .released => s.setCoal m.record.die m.record.entry Coal.reset
    | _ => s

def execFaultMessageArrival (i : Nat) (s : State) : Out :=
  .next (match s.faultMsgs[i]? with
    | none => s
    | some m => { s with faultMsgs := s.faultMsgs.eraseIdx i }.faultArrives m)

/-- The status word (Table 10-7). -/
def Ctx.faultStatus (x : Ctx) : Word :=
  BitVec.ofNat 64 (x.dropped * 2 ^ 16 + (if x.dropFlag then 256 else 0)
    + ((List.range 8).map (fun n => if x.faults.any (fun p => p.1 == n) then 2 ^ n else 0)).sum)
def Ctx.faultRec (x : Ctx) (n : Nat) : Option FaultRec := (x.faults.find? (fun p => p.1 == n)).map (·.2)
def FaultRec.dword (r : FaultRec) (b : Nat) : Word := if b = 0 then r.w0 else if b = 1 then r.w1 else if b = 2 then r.w2 else r.w3

/-- The result of FBREAD (R187). -/
def Ctx.fbread (x : Ctx) (a b : Word) : Word :=
  if a = 8 then x.faultStatus
  else if 8 ≤ a.toNat ∨ 4 ≤ b.toNat then BitVec.allOnes 64
  else match x.faultRec a.toNat with
    | some r => r.dword b.toNat
    | none => BitVec.allOnes 64

def execFbread (d a b : Reg) (s : State) : Out :=
  .next (s.supOnly (.fbread d a b) (s.put d (s.myCtx.fbread (s.reg a) (s.reg b))))

/-- A record is freed: its coalescing entry moves from REPORTED to WAITREPLAY, from RELEASED to FREE (Table 10-5). -/
def State.freeRecord (s : State) (x n : Nat) : State :=
  match (s.ctx x).faultRec n with
  | none => s
  | some r =>
    let s := s.updCtx x (fun y => { y with faults := y.faults.erase n })
    let e := s.coalAt r.die r.entry
    match e.state with
    | .reported => s.setCoal r.die r.entry { e with state := .waitReplay }
    | .released => s.setCoal r.die r.entry Coal.reset
    | _ => s

def execFbclr (a : Reg) (s : State) : Out :=
  let v := s.reg a
  .next (s.supOnly (.fbclr a) (
    if v = 8 then (s.updCtx s.me.ctx (fun x => { x with dropFlag := false, dropped := 0 })).advance
    else if v.toNat < 8 then (s.freeRecord s.me.ctx v.toNat).advance
    else s.advance))

/-- FREPLY retry or fatal (R189); a fatal one first has the thread's earlier accesses performed. -/
def State.freply (s : State) (x n : Nat) (b : Word) : State :=
  match (s.ctx x).faultRec n with
  | none => s
  | some r =>
    if b = 0 then s.freeRecord x n
    else if b = 1 then
      let s := s.release
      if (s.coalAt r.die r.entry).state = .reported then
        (s.updCtx x (fun y => { y with faults := y.faults.erase n })).failCoal r.die r.entry
      else s.freeRecord x n
    else s

def execFreply (a b : Reg) (s : State) : Out :=
  .next (s.supOnly (.freply a b) ((s.freply s.me.ctx (bits (s.reg a) 2 0) (s.reg b)).advance))

/-! REPLAY and TLBINV (R190, R191). -/

/-- What REPLAY makes of one entry. -/
def State.replayEntry (s : State) (x die entry : Nat) : State :=
  let e := s.coalAt die entry
  if e.ctx ≠ x then s
  else match e.state with
    | .reported => s.releaseCoal die entry .released
    | .unreported => s.releaseCoal die entry .free
    | .waitReplay => s.releaseCoal die entry .free
    | _ => s

/-- Every entry of the context that stood before is released, on all four dies. -/
def State.replayAll (s : State) (x : Nat) : State :=
  let es := (List.range 4).flatMap (fun d => (s.die d).coal.map (fun p => (d, p.1)))
  es.foldl (fun s e => s.replayEntry x e.1 e.2) s

def execReplay (s : State) : Out :=
  .next (s.supOnly .replay ((s.release.replayAll s.me.ctx).advance))

/-- Remove translations of a context that cover an address, or all of them. -/
def keepTlb (x : Nat) (va : Word) (all : Bool) (l : List TlbEnt) : List TlbEnt :=
  l.filter (fun e => !(if all then e.ctx == x else e.covers x va.toNat))
def State.invTlbs (s : State) (x : Nat) (va : Word) (all : Bool) : State :=
  { s with
    dies := s.dies.map (fun p => (p.1, { p.2 with l2 := keepTlb x va all p.2.l2 }))
    clusters := s.clusters.map (fun p => (p.1, { p.2 with l1 := keepTlb x va all p.2.l1 })) }

/-- What the context's accesses have translated and not performed is performed: buffered stores, accepted SPOPs (R191). -/
def State.drainCtx (s : State) (x : Nat) : State :=
  ((s.cores.map (·.1)).filter (fun c => s.coreCtx c == x)).foldl (fun s c => (s.drainAll c).drainStrms c) s

/-- A walk of a die that began before the bound of that die is in progress. -/
def State.walksLeft (s : State) (bounds : List Nat) : Bool := bounds.zipIdx.any (fun b => s.earlierWalk b.2 b.1)

/-- TLBINV: walks in progress end before it completes, and what they have filled is removed too (R191). -/
def execTlbinv (a b : Reg) (s : State) : Out :=
  let v := s.reg b
  let x := s.me.ctx
  let s' := (s.release.drainCtx x).invTlbs x (s.reg a) (v = 1)
  let bounds := match s.me.waitOf with
    | some (.tlbinv l) => l
    | _ => (List.range 4).map (fun d => (s.die d).walkNext)
  .next (s.supOnly (.tlbinv a b) (
    if v ≠ 0 ∧ v ≠ 1 then s.advance
    else if s.walksLeft bounds then s'.wait (.tlbinv bounds) (.tlbinv a b)
    else s'.advance))

/-! Reading and translating without the fault path (R15, R234). -/

/-- Translate a range through the context's page tables without the fault path: its places, or `none`; a write sets its leaves' D
(R15, R176). -/
def State.walkSpan (s : State) (x : Nat) (k : Access) : List (Word × Nat) → Option (List (Place × Nat) × State)
  | [] => some ([], s)
  | (va, n) :: rest =>
    match s.walk ioCore x va k false with
    | (.error _, _) => none
    | (.ok t, s) =>
      let s := match t.owesD with
        | some a => s.setDirty a
        | none => s
      match s.walkSpan x k rest with
      | none => none
      | some (ps, s) => some ((t.place va.toNat, n) :: ps, s)
/-- A global range of `n` bytes, by pages. -/
def State.hostSpan (s : State) (x : Nat) (va : Word) (n : Nat) (k : Access) : Option (List (Place × Nat) × State) :=
  if 2 ^ 56 < va.toNat + n then none else s.walkSpan x k (if n = 0 then [] else pieces va n)
/-- Read bytes that the firmware reads through the page tables: status 4 where a translation would fault, status 6 at an
uncorrectable word, with what was read (R234, R334). -/
def State.hostRead (s : State) (x : Nat) (va : Word) (n : Nat) : Except (Nat × List (Place × Nat)) (List Byte × State) :=
  match s.hostSpan x va n .read with
  | none => .error (4, [])
  | some (ps, s) =>
    if ps.any (fun p => s.badAt ioCore p.1 p.2) then .error (6, ps) else .ok (s.spanBytes ioCore ps, s.readBy ioCore ps)
/-- The card with the outputs that its block declares, which is read: `none` where the block breaks R241 (R241, R315). -/
def State.hostOuts (s : State) (x : Nat) (c : Card) : Except (Nat × List (Place × Nat)) (Option Card × State) :=
  match s.hostRead x c.outAt 8 with
  | .error e => .error e
  | .ok (hd, s) => match outCount (dwordAt hd 0) with
    | none => .ok (none, s)
    | some n => match s.hostRead x (c.outAt + 8) (8 * n) with
      | .error e => .error e
      | .ok (es, s) => .ok ((parseOuts (s.ctx x) es n).map (fun o => { c with outs := o }), s)

end Sys2Proof.Machine
end

