-- ==== Sys2Proof/Machine/Halter.lean ====
section
/-! DEFINITION. Halters: tensors at home, indirection cells, the HAL instructions, weight on its way (R313-R323). -/

namespace Sys2Proof.Machine

open Sys2Proof

/-! The value (R313). -/

def halDev (h : Word) : Nat := bits h 63 56
def halDie (h : Word) : Nat := bits h 55 54
def halId (h : Word) : Nat := bits h 53 34
def halInd (h : Word) : Bool := h.getLsbD 33
def halE (h : Word) : Nat := bits h 32 27
def halCell (h : Word) : Nat := bits h 15 0
/-- The malformed nonzero values (R313). -/
def halBad (h : Word) : Bool :=
  halId h == 0 || halE h == 63 || (!halInd h && bits h 26 0 != 0) || (halInd h && h.getLsbD 16)
/-- The halter with another weight exponent. -/
def halWith (h : Word) (e : Nat) : Word := (h &&& ~~~(0x3F#64 <<< 27)) ||| BitVec.ofNat 64 (e * 2 ^ 27)
/-- The direct halter of an id at e = 0 (R315). -/
def directHalter (dev die id : Nat) : Word := BitVec.ofNat 64 (dev * 2 ^ 56 + die * 2 ^ 54 + id * 2 ^ 34)
/-- The whole weight of a tensor or of a cell. -/
def wholeWeight : Nat := 2 ^ 62

/-! Homes (R314, R315). -/

def State.freeTensor (s : State) (x die id : Nat) : State :=
  s.updCtx x (fun y => { y with tensors := y.tensors.set die (Tbl.erase (y.tensors.get [] die) id) })

/-- The first FREE id after the last allocated, in ascending cyclic order (R314). -/
def Ctx.nextTensor (x : Ctx) (die : Nat) : Option Nat :=
  let listed := x.tensors.get [] die
  let last := x.lastTensor.get 0 die
  if 0xFFFFF ≤ listed.length then none
  else ((List.range (listed.length + 1)).map (fun i => (last + i) % 0xFFFFF + 1)).find? (fun id => !listed.any (fun t => t.1 == id))

/-- A tensor is reported as poisoned: a kind-3 record and a fatal event (Table 19-2). -/
def State.reportPoison (s : State) (x dev die id : Nat) : State :=
  (s.postEvent x 3 0 (directHalter dev die id) 0).ioEvent (ioOfDie die) true 5 (directHalter dev die id) 0

/-- The outputs of a stored card as its block declares them at the launch; `none` where R234 would refuse the card with code 1, also where
the block cannot be read (R241, R315; log entry 17). -/
def State.finalOuts (s : State) (x : Nat) (c : Card) : Option Card × State :=
  if c.outAt = 0 then (some c, s)
  else match s.hostOuts x c with
    | .ok r => r
    | .error e => (none, s.countBad e.2)
/-- The finaliser of a dead tensor is launched as R234 launches a card, or waits for a kernel to retire (R315; log entry 17). -/
def State.finalise (s : State) (x die id : Nat) (c : Card) : State :=
  match s.finalOuts x c with
  | (none, s) => s
  | (some c, s) =>
    match s.launchCode x c with
    | 0 => s.addKernel x c 0 false (some (die, id))
    | 4 => s.updCtx x (fun y => { y with finals := y.finals ++ [(die, id, c)] })
    | _ => s

/-- Weight arrives at an entry (Table 19-2). -/
def State.tensorArrival (s : State) (x die id w : Nat) : State :=
  match (s.ctx x).tensor die id with
  | none => s.reportPoison x s.devNum die id
  | some t =>
    let sum := t.sum + w
    match t.state with
    | .poisoned => s.setTensor x die id { t with sum := min sum (2 ^ 64 - 1) }
    | st =>
      if wholeWeight < sum then
        (s.setTensor x die id { t with sum := min sum (2 ^ 64 - 1), state := .poisoned }).reportPoison x s.devNum die id
      else if sum = wholeWeight ∧ st = .live then
        let s := s.setTensor x die id { t with sum := sum, state := .dead }
        match t.card with
        | none => s.freeTensor x die id
        | some c => s.finalise x die id c
      else s.setTensor x die id { t with sum := sum }

/-! Posts (R316, R321). -/

/-- Where a halter's weight returns to (R321). -/
def halDest (h : Word) (x : Nat) : WDest :=
  if halInd h then .cell (bits h 26 19) (bits h 18 17) (halCell h) else .tensor x (halDev h) (halDie h) (halId h)
def WDest.dev (d : WDest) : Nat :=
  match d with
  | .tensor _ dev _ _ => dev
  | .cell dev _ _ => dev

def State.postWeight (s : State) (w : Weight) : State := { s with weights := s.weights ++ [w] }

/-- A cell's weight is posted, or its tensor reported, and the cell is FREE (R316; at a FREE cell: log entry 18). -/
def State.cellArrival (s : State) (die cell : Nat) (w : Weight) : State :=
  match (s.die die).cells.find? (fun c => c.1 == cell) with
  | none => s.reportPoison w.ctx s.devNum die 0
  | some (_, c) =>
    let sum := c.sum + w.amount
    let free (s : State) : State := s.updDie die (fun d => { d with cells := d.cells.erase cell })
    if sum = wholeWeight then (free s).postWeight { w with dest := halDest c.held c.ctx, amount := 1, ctx := c.ctx }
    else if wholeWeight < sum then (free s).reportPoison c.ctx (halDev c.held) (halDie c.held) (halId c.held)
    else s.updDie die (fun d => { d with cells := d.cells.set cell { c with sum := sum } })

/-- A post to another device leaves by its IO die, or waits there; it is in flight until it has landed (R321, R329). -/
def State.weightLeaves (s : State) (i : Nat) (w : Weight) : State :=
  let tag := s.nextTag
  match s.flitsOut (dieOf w.src.core) w.dest.dev tag with
  | none => s
  | some s => { s with weights := s.weights.eraseIdx i, awayWeights := s.awayWeights ++ [(tag, w)] }

def execTensorWeightArrival (i : Nat) (s : State) : Out :=
  .next (match s.weights[i]? with
    | none => s
    | some w =>
      match w.dest with
      | .cell _ _ _ => s
      | .tensor x dev die id =>
        if dev ≠ s.devNum then s.weightLeaves i w
        else ({ s with weights := s.weights.eraseIdx i } : State).tensorArrival x die id w.amount)

def execCellWeightArrival (i : Nat) (s : State) : Out :=
  .next (match s.weights[i]? with
    | none => s
    | some w =>
      match w.dest with
      | .tensor _ _ _ _ => s
      | .cell dev die cell =>
        if dev ≠ s.devNum then s.weightLeaves i w
        else ({ s with weights := s.weights.eraseIdx i } : State).cellArrival die cell w)

/-! Instructions (R317-R323). -/

/-- The HALTER trap (R317). -/
def State.halTrap (s : State) (h : Word) : State := s.trap 12 h

/-- The place in the halter unit's order of an operation that a thread waits for. -/
def Thread.halNum (t : Thread) : Option Nat :=
  match t.waitsFor with
  | some (.halter n _ _ _) => some n
  | _ => none
/-- The thread's HAL instruction is in the unit. -/
def Thread.atHome (t : Thread) : Bool := t.halNum.isSome
/-- The operations that the halter unit has accepted and not completed, by their places in its order (R317). -/
def Core.halNums (k : Core) : List Nat := k.threads.filterMap (fun p => p.2.halNum) ++ k.drops.map (·.1)
/-- The place of the next operation. -/
def Core.halNext (k : Core) : Nat := k.halNums.foldl max 0 + 1
/-- It is an operation's turn: none that was accepted before it is outstanding. -/
def Core.halTurn (k : Core) (n : Nat) : Bool := k.halNums.all (fun m => n ≤ m)
/-- The halter unit has one operation under way and two in its queue (R10, R317, R366): the thread stalls. -/
def Core.halterFull (k : Core) : Bool := 3 ≤ k.halNums.length
/-- A HAL instruction is accepted, or stalls while the unit's queue is full; one that is in the unit stays there. -/
def State.halAccept (s : State) (go : State) : State := if s.me.atHome || s.myCore.halterFull then s else go
/-- An operation with what it has found at acceptance waits for its turn, and for its home's reply (R317). -/
def State.halWait (s : State) (st : Nat) (card : Option Card) (i : Instr) : State := s.wait (.halter s.myCore.halNext st card false) i
/-- An operation that needs no home is done at once where the unit holds none before it, and retires (R85). -/
def State.halNow (s : State) (i : Instr) (go : State) : State :=
  if s.myCore.halNums.isEmpty then go.latchThread s.cur else s.halWait 0 none i

/-- HNEW waits for its home's reply. -/
def execHnew (d a : Reg) (s : State) : Out := .next (s.halAccept (s.halWait 0 none (.hnew d a)))

/-- The lowest FREE cell of a die. -/
def Die.freeCell (d : Die) : Option Nat :=
  if 65536 ≤ d.cells.length then none
  else (List.range (d.cells.length + 1)).find? (fun i => !d.cells.any (fun c => c.1 == i))

/-- The unit carries out HCOPY (R320). -/
def State.copyHalter (s : State) (d a : Reg) : State :=
  let h := s.reg a
  let die := dieOf s.cur.core
  if 1 ≤ halE h then
    let n := halWith h (halE h - 1)
    (s.setReg a n).put d n
  else match (s.die die).freeCell with
    | none => s.halTrap h
    | some k =>
      let s := s.updDie die (fun x => { x with cells := x.cells.set k ⟨h, 0, s.me.ctx⟩ })
      let n := (halWith h 61 &&& ~~~0x7FFFFFF#64) ||| BitVec.ofNat 64 (2 ^ 33 + s.devNum * 2 ^ 19 + die * 2 ^ 17 + k)
      (s.setReg a n).put d n
def execHcopy (d a : Reg) (s : State) : Out :=
  let h := s.reg a
  .next (s.halAccept (
    if h = 0 ∨ halBad h ∨ d = 0 ∨ d = a then s.halTrap h else s.halNow (.hcopy d a) (s.copyHalter d a)))

/-- The device has a route, or is this one (R321, R329). -/
def State.hasRoute (s : State) (dev : Nat) : Bool :=
  dev == s.devNum || (s.io (ioOfDie (dieOf s.cur.core))).routes.any (fun r => r.1 == dev)

/-- HDROP: a is cleared at acceptance; the post leaves when the unit comes to it (R317, R321). -/
def execHdrop (a : Reg) (s : State) : Out :=
  let h := s.reg a
  let dest := halDest h s.me.ctx
  .next (s.halAccept (
    if h = 0 then s.advance
    else if halBad h ∨ ¬ s.hasRoute dest.dev then s.halTrap h
    else
      let s := s.release
      let w : Weight := ⟨dest, 2 ^ halE h, s.me.ctx, BitVec.ofNat 32 s.me.kernid, s.cur, s.myCore.serial⟩
      let n := s.myCore.halNext
      let s := s.updMyCore (fun k => { k with serial := k.serial + 1 })
      let s := if n = 1 then (s.postWeight w).latchThread s.cur else s.updMyCore (fun k => { k with drops := k.drops ++ [(n, w)] })
      (s.setReg a 0).advance))
/-- The HDROPs that the unit has come to are posted, and retire (R317, R85). -/
def State.halPosts (s : State) (c : Nat) : Nat → State
  | 0 => s
  | fuel + 1 =>
    match (s.core c).drops with
    | [] => s
    | (n, w) :: rest =>
      if !(s.core c).halTurn n then s
      else
        let s := (s.updCore c (fun k => { k with drops := rest })).postWeight w
        (if s.opAlive c w.src.slot w.serial then s.latchThread w.src else s).halPosts c fuel

/-- HBIND reads the card, then waits for the home's reply (R322). -/
def execHbind (d a b : Reg) (s : State) : Out :=
  let h := s.reg a
  let vb := s.reg b
  .next (s.halAccept (
    if h = 0 ∨ halBad h then s.halTrap h
    else if misaligned64 vb then s.trap 2 vb
    else s.loadCard vb (fun s c =>
      match c with
      | none => s.halWait 1 none (.hbind d a b)
      | some c =>
        let st := if c.cores then 2 else if (s.myCtx.queue c.queue).kind ≠ .card then 3 else 0
        s.halWait st (some c) (.hbind d a b))))

def State.weighHalter (s : State) (d a : Reg) : State :=
  let h := s.reg a
  s.put d (if h = 0 ∨ halBad h then BitVec.allOnes 64 else BitVec.ofNat 64 ((if halInd h then 256 else 0) + halE h))
def execHwgt (d a : Reg) (s : State) : Out := .next (s.halAccept (s.halNow (.hwgt d a) (s.weighHalter d a)))

def execHaddr (d a : Reg) (s : State) : Out :=
  let h := s.reg a
  .next (s.halAccept (
    if h = 0 ∨ halBad h then s.halNow (.haddr d a) (s.put d (BitVec.allOnes 64)) else s.halWait 0 none (.haddr d a)))

/-- The unit carries out HMERGE (R323). -/
def State.mergeHalters (s : State) (d a b : Reg) : State :=
  let h := s.reg a
  ((s.setReg a 0).setReg b 0).put d (halWith h (halE h + 1))
def execHmerge (d a b : Reg) (s : State) : Out :=
  let h := s.reg a
  let g := s.reg b
  .next (s.halAccept (
    if h = 0 ∨ g = 0 ∨ halBad h ∨ halBad g ∨ a = b ∨ h ≠ g ∨ halE h = 62 then s.halTrap h
    else s.halNow (.hmerge d a b) (s.mergeHalters d a b)))

/-! The home's reply (R317). -/

/-- HNEW at the home die (R318). -/
def State.newTensor (s : State) (d : Reg) (addr : Word) : State :=
  let die := dieOf s.cur.core
  let x := s.me.ctx
  match s.myCtx.nextTensor die with
  | none => s.put d 0
  | some id =>
    let s := s.setTensor x die id ⟨.live, 0, addr, none⟩
    let s := s.updCtx x (fun y => { y with lastTensor := y.lastTensor.set die id })
    s.put d (BitVec.ofNat 64 (s.devNum * 2 ^ 56 + die * 2 ^ 54 + id * 2 ^ 34 + 62 * 2 ^ 27))

/-- HBIND at the home (R322); the home of another device answers 0, 4 or 5, whichever it finds. -/
def State.bindCard (s : State) (d : Reg) (h : Word) (status : Nat) (card : Option Card) : State :=
  if status ≠ 0 then s.put d (BitVec.ofNat 64 status)
  else if halDev h ≠ s.devNum then
    s.fresh.put d (BitVec.ofNat 64 ([0, 4, 5].getD ((Config.remoteReply s.freeCount).toNat % 3) 0))
  else
    let r := s.bindAt s.me.ctx (halDie h) (halId h) card
    r.2.put d (BitVec.ofNat 64 r.1)

/-- HADDR at the home (R319); of a null or malformed halter there is none. -/
def State.tensorAddr (s : State) (d : Reg) (h : Word) : State :=
  if h = 0 ∨ halBad h then s.put d (BitVec.allOnes 64)
  else if halDev h ≠ s.devNum then s.fresh.put d (Config.remoteReply s.freeCount)
  else s.put d (s.addrAt s.me.ctx (halDie h) (halId h))

/-- The home that an operation asks: another device's for a well-formed halter of one. -/
def State.homeDev (s : State) (h : Word) : Nat := if h = 0 ∨ halBad h then s.devNum else halDev h
/-- What a thread waits for changes; a PARKED thread stays so. -/
def Thread.setWait (t : Thread) (w : Wait) (limit : W32) : Thread :=
  match t.state with
  | .parked hard _ => { t with state := .parked hard (some (w, limit)) }
  | .free => t
  | .done _ => t
  | .ready => { t with state := .blocked w limit }
  | .blocked _ _ => { t with state := .blocked w limit }
/-- The request of an operation has reached its home: one to another device has first to leave by the route table (R317, R328). -/
def State.homed (s : State) (dev num st : Nat) (card : Option Card) (asked : Bool) (limit : W32) (go : State) : State :=
  if dev = s.devNum ∨ asked then go.latchThread s.cur
  else match s.flitsOut (dieOf s.cur.core) dev 0 with
    | none => s
    | some s => s.updMe (·.setWait (.halter num st card true) limit)

/-- The wait of an instruction that is in the halter unit, with its WAITTO sample. -/
def Thread.halWaits (t : Thread) : Option (Wait × W32) :=
  match t.state with
  | .parked _ before => before
  | .free => none
  | .done _ => none
  | .ready => t.begun
  | .blocked _ _ => t.begun
/-- The unit comes to the operation of a thread that waits for it, and the reply of its home reaches the thread: its instruction completes
and its operation retires (R317, R85). -/
def State.homeReply (s : State) : State :=
  match s.me.halWaits with
  | some (.halter num st card asked, limit) =>
    if !s.myCore.halTurn num then s
    else
      (match decode s.me.word with
       | .ok (.hnew d a) => (s.newTensor d (s.reg a)).latchThread s.cur
       | .ok (.hcopy d a) => (s.copyHalter d a).latchThread s.cur
       | .ok (.hwgt d a) => (s.weighHalter d a).latchThread s.cur
       | .ok (.hmerge d a b) => (s.mergeHalters d a b).latchThread s.cur
       | .ok (.hbind d a _) =>
         s.homed (if st = 0 then s.homeDev (s.reg a) else s.devNum) num st card asked limit (s.bindCard d (s.reg a) st card)
       | .ok (.haddr d a) => s.homed (s.homeDev (s.reg a)) num st card asked limit (s.tensorAddr d (s.reg a))
       | _ => s)
  | _ => s

/-- One completion of the halter unit, and the posts that it has then come to. -/
def execHalterHomeReply (core slot : Nat) (s : State) : Out :=
  .next ((s.byEngine ⟨core, slot⟩ State.homeReply).halPosts core 4)
/-- The unit completes what it has accepted as far as homes answer (R260). -/
def State.drainHalter (s : State) (c : Nat) : State :=
  let ts := slots ++ slots ++ slots ++ slots ++ slots ++ slots
  ts.foldl (fun s n => (s.byEngine ⟨c, n⟩ State.homeReply).halPosts c 4) s

end Sys2Proof.Machine
end

