-- ==== Sys2Proof/Machine/Helper.lean ====
section
/-! DEFINITION. Helpers and hitches: HELP, HJOIN, SELF, HITCH, UNHITCH (R61-R63, R217-R219). -/

namespace Sys2Proof.Machine

open Sys2Proof

/-- The thread CSRs that a helper takes from its caller (R61). -/
def helperCsrs : List Nat :=
  [0x004, 0x010, 0x020, 0x030, 0x031, 0x032, 0x035, 0x040, 0x050, 0x051, 0x0C0, 0x0C1, 0x0C2, 0x0F0, 0x0F1, 0x0F2, 0x0F3,
   0x100, 0x101, 0x102, 0x103, 0x104, 0x105, 0x106, 0x107]

/-- The start state of a helper (R61); WBASE and WLIMIT drop their reserved bits (R4, Table 5-4). -/
def Thread.helper (t : Thread) (entry sp lim arg : Word) (born : Nat) : Thread :=
  let h : Thread := { Thread.reset with
    state := .ready
    ctx := t.ctx
    pc := entry
    gregs := Tbl.set (Tbl.set [] 1 sp) 2 (t.reg 2)
    csrs := helperCsrs.foldl (fun (c : Tbl Word) n => c.set n (t.csr n)) []
    chkSample := (t.csr 0x051).setWidth 32
    born := born }
  (((h.setReg 8 arg).setCsr 0x021 (sp &&& ~~~7#64)).setCsr 0x022 (lim &&& ~~~7#64)).setCsr 0x000 (t.csr 0x000 &&& 0x3)

/-- The lowest FREE slot of 1 to 10 (R61). -/
def Core.freeSlot (k : Core) : Option Nat := (slots.drop 1).find? (fun n => (k.thread n).state == .free)

def execHelp (d a b : Reg) (s : State) : Out :=
  let va := s.reg a
  .next (
    if s.cur.slot ≠ 0 then s.put d 0
    else if bits va 1 0 ≠ 0 ∨ bits va 63 56 ≠ 0 then s.trap 2 va
    else if s.reg b < localBase ∨ localBase + 0x7FFE8 < s.reg b then s.trap 3 (s.reg b)
    else if bits (s.reg b) 2 0 ≠ 0 then s.trap 2 (s.reg b)
    else State.localLoads (fun s bs =>
      match s.myCore.freeSlot with
      | none => s.put d 0
      | some n =>
        let s := s.release
        let h := s.me.helper va (dwordAt bs 0) (dwordAt bs 8) (dwordAt bs 16) s.myCore.serial
        (s.updMyCore (·.setThread n h)).put d (BitVec.ofNat 64 n)) 3 (s.reg b) [] s)

/-- The engine operations that a slot's thread issued have written what they write: copies, MST, list operations and their spill
writes, the pushed slots of its storers, its merge pushes and the writes of merges that it holds (R62, R162, R168). -/
def State.slotQuiet (s : State) (c n : Nat) : Bool :=
  let k := s.core c
  let born := (k.thread n).born
  let mine (slot serial : Nat) : Bool := slot == n && born ≤ serial
  let cl := s.cluster (clusterOf c)
  k.copies.all (fun c => !mine c.slot c.serial) && k.matQ.all (fun o => !mine o.slot o.serial)
    && k.ilQ.all (fun o => !mine o.slot o.serial) && k.rays.all (fun r => r.2.writes.all (fun w => !mine w.slot w.serial))
    && k.rings.all (fun r => r.2.state != .storing || r.2.occ == 0 || r.2.sub.all (fun u => !mine u.thread.slot u.serial))
    && cl.mq.all (fun q => q.port != coreIdOf c || !mine q.slot q.serial)
    && cl.merge.all (fun m => m.2.holder != ⟨c, n⟩ || !mine n m.2.serial || m.2.calm)

/-- A thread that waits at HJOIN of the slot for a value that no other has taken, and issued before this one: `order` is the place of this
one's wait, if it waits (R62). -/
def Core.joinBefore (k : Core) (me n : Nat) (order : Option Nat) : Bool :=
  slots.any (fun m => m != me && (match (k.thread m).waitOf with
    | some (.join n' o false) => n' == n && (match order with | none => true | some p => decide (o < p))
    | _ => false))

/-- The place of the current thread's HJOIN wait. -/
def State.joinOrder (s : State) (n : Nat) : Option Nat :=
  match s.me.waitOf with
  | some (.join n' o _) => if n' = n then some o else none
  | _ => none
/-- Another HJOIN has taken the value that the current thread's waits for. -/
def State.joinTaken (s : State) (n : Nat) : Bool :=
  match s.me.waitOf with
  | some (.join n' _ gone) => n' == n && gone
  | _ => false
/-- A HJOIN of the slot has taken the value: another's wait is for none from then on (R62). -/
def Wait.joinGone (w : Wait) (n : Nat) : Wait :=
  match w with
  | .join n' o _ => if n' = n then .join n' o true else w
  | _ => w
def Thread.joinGone (t : Thread) (n : Nat) : Thread :=
  { t with
    state := match t.state with
      | .blocked w l => .blocked (w.joinGone n) l
      | .parked hard before => .parked hard (before.map (fun p => (p.1.joinGone n, p.2)))
      | x => x
    woke := t.woke.map (fun p => (p.1.joinGone n, p.2)) }

/-- HJOIN would go on: another has taken the value, the slot is FREE, or DONE with its writes performed and no earlier HJOIN waiting (R62). -/
def State.joinReady (s : State) (n : Nat) : Bool :=
  s.joinTaken n || !s.myCore.joinBefore s.cur.slot n (s.joinOrder n) &&
    (match (s.myCore.thread n).state with
     | .free => true
     | .done _ => s.slotQuiet s.cur.core n
     | _ => false)

/-- The stores of a joined helper that are still in the buffer, or that not every die sees, and the completion points that it has passed
are the joiner's own from then on (R162). -/
def State.joined (s : State) (c me n : Nat) : State :=
  let born := ((s.core c).thread n).born
  { s.updCore c (fun k => { k with
      stores := k.stores.map (fun e => if e.slot = n ∧ born ≤ e.serial then { e with slot := me } else e)
      threads := k.threads.set me { k.thread me with ilSeen := max (k.thread me).ilSeen (k.thread n).ilSeen } }) with
    stale := s.stale.map (fun (e : StaleByte) => if e.src = ⟨c, n⟩ ∧ born ≤ e.serial then { e with src := ⟨c, me⟩ } else e) }

def execHjoin (d a : Reg) (s : State) : Out :=
  let v := s.reg a
  let n := v.toNat
  .next (
    if n = 0 ∨ 10 < n then s.put d (BitVec.allOnes 64)
    else if s.joinReady n then
      match s.joinTaken n, (s.myCore.thread n).state with
      | false, .done x =>
        ((s.joined s.cur.core s.cur.slot n).updMyCore (fun k => (k.setThread n Thread.reset).mapThreads (·.joinGone n))).put d x
      | _, _ => s.put d (BitVec.allOnes 64)
    else match s.joinOrder n with
      | some _ => s
      | none =>
        let o := s.myCore.serial
        (s.updMyCore (fun k => { k with serial := o + 1 })).wait (.join n o false) (.hjoin d a))

/-- SELF's summary (R63). -/
def State.selfWord (s : State) : Word :=
  let live := (slots.filter (fun n => (s.myCore.thread n).state.live)).foldl (fun acc n => acc + 2 ^ (16 + n)) 0
  BitVec.ofNat 64 (live + (if s.me.hitched then 2 ^ 15 else 0) + clusterOf s.cur.core * 2 ^ 8 + coreIdOf s.cur.core * 2 ^ 4 + s.cur.slot)

def execSelf (d : Reg) (s : State) : Out := .next (s.put d s.selfWord)

/-! Hitches. -/

/-- The result word of a hitch: the fused mask and the leader's COREID (R218). -/
def hitchWord (mask : BitVec 16) (leader : Nat) : Word := BitVec.ofNat 64 (leader * 2 ^ 16 + mask.toNat)

/-- A member waits at the HITCH of an address and mask. -/
def Thread.atHitch (t : Thread) (addr : Word) (k : BitVec 16) : Bool :=
  match t.waitOf with
  | some (.hitch a m) => a == addr && m == k
  | _ => false

/-- The rendezvous of a mask at an address, the current thread having arrived: the fused mask once every core named is
DONE, FREE or waiting there (R218). -/
def State.rendezvous (s : State) (addr : Word) (k : BitVec 16) : Option (BitVec 16) :=
  let named := lanes.filter (fun i => k.getLsbD i)
  let there (i : Nat) : Bool := hitchMember (clusterOf s.cur.core) i == s.cur ||
    (s.thread (hitchMember (clusterOf s.cur.core) i)).atHitch addr k
  let ended (i : Nat) : Bool := (s.thread (hitchMember (clusterOf s.cur.core) i)).state.ended
  if named.all (fun i => there i || ended i) then
    some ((named.filter there).foldl (fun m i => m ||| (1#16 <<< i)) 0)
  else none

def leaderOf (f : BitVec 16) : Nat := (lanes.find? (fun i => f.getLsbD i)).getD 0

/-- One member is fused: d, HITCHED, its record, on at the next instruction (R218). -/
def State.fuse (s : State) (d : Reg) (f : BitVec 16) : State :=
  (s.put d (hitchWord f (leaderOf f))).updMe (fun t =>
    { t.setStatusBit 8 true with hitch := some ⟨f, leaderOf f, 0⟩ })

/-- The destination of the HITCH that a waiting thread is at. -/
def Thread.hitchDest (t : Thread) (dflt : Reg) : Reg :=
  match decode t.word with
  | .ok (.hitch d _) => d
  | _ => dflt

/-- The cores of the current thread's group in its cluster (R218). -/
def State.groupMask (s : State) : BitVec 16 :=
  match s.myCore.group with
  | none => 1#16 <<< coreIdOf s.cur.core
  | some (x, g) => match (s.ctx x).groups.find? (fun r => r.id == g) with
    | none => 1#16 <<< coreIdOf s.cur.core
    | some r => r.cores.foldl (fun m c => m ||| (1#16 <<< coreIdOf c)) 0

def execHitch (d a : Reg) (s : State) : Out :=
  let v := s.reg a
  let k : BitVec 16 := v.setWidth 16
  .next (
    if s.cur.slot ≠ 0 then s.put d 0
    else match s.me.hitch with
      | some h => s.put d (hitchWord h.mask h.leader)
      | none =>
        if bits v 63 16 ≠ 0 ∨ k.getLsbD (coreIdOf s.cur.core) = false ∨ k &&& ~~~s.groupMask ≠ 0 then s.put d 0
        else match s.rendezvous s.me.pc k with
          | none => s.wait (.hitch s.me.pc k) (.hitch d a)
          | some f =>
            let ms := hitchMembers s.cur f
            if ms.length = 1 then s.put d (hitchWord f (leaderOf f))
            else ms.foldl (fun s m => s.asThread m (fun s' => s'.fuse (if m = s.cur then d else s'.me.hitchDest d) f)) s)

/-- UNHITCH: every member writes the result word and goes on alone (R219). -/
def execUnhitch (d : Reg) (s : State) : Out :=
  .next (match s.me.hitch with
    | none => s.put d 0
    | some h => (hitchMembers s.cur h.mask).foldl (fun s m =>
        s.asThread m (fun s' => (s'.put d (hitchWord h.mask h.leader)).updMe Thread.unhitched)) s)

end Sys2Proof.Machine
end

