-- ==== Sys2Proof/Machine/Scalar.lean ====
section
/-! DEFINITION. Scalar integer and floating-point instructions (R71-R74). -/

namespace Sys2Proof.Machine

open Sys2Proof

def ofBool (b : Bool) : Word := if b then 1 else 0
/-- sh is b[5:0] (R71). -/
def shAmount (b : Word) : Nat := b.toNat % 64

/-! Arithmetic of Table 5-5. -/

def mulhOp (a b : Word) : Word := BitVec.ofInt 64 ((a.toInt * b.toInt) / 2 ^ 64)
def mulhuOp (a b : Word) : Word := BitVec.ofNat 64 (a.toNat * b.toNat / 2 ^ 64)
/-- Quotient truncated toward zero; all ones for a divisor of 0; the overflow case wraps (R71). -/
def divOp (a b : Word) : Word := if b = 0 then BitVec.allOnes 64 else BitVec.ofInt 64 (a.toInt.tdiv b.toInt)
def divuOp (a b : Word) : Word := if b = 0 then BitVec.allOnes 64 else BitVec.ofNat 64 (a.toNat / b.toNat)
/-- The remainder has the sign of the dividend, and is the dividend for a divisor of 0 (R71). -/
def remOp (a b : Word) : Word := if b = 0 then a else BitVec.ofInt 64 (a.toInt.tmod b.toInt)
def remuOp (a b : Word) : Word := if b = 0 then a else BitVec.ofNat 64 (a.toNat % b.toNat)
/-- Zero bits above the highest 1 bit; 64 for 0 (R71). -/
def clzOp (a : Word) : Word := BitVec.ofNat 64 (64 - bitLen a.toNat)
/-- Zero bits below the lowest 1 bit; 64 for 0 (R71). -/
def ctzOp (a : Word) : Word :=
  BitVec.ofNat 64 (((List.range 64).find? (fun i => a.getLsbD i)).getD 64)
def popcOp (a : Word) : Word := BitVec.ofNat 64 ((List.range 64).countP (fun i => a.getLsbD i))
def brevOp (a : Word) : Word :=
  (List.range 64).foldr (fun i (acc : Word) => (acc <<< 1) ||| (if a.getLsbD (63 - i) then 1 else 0)) 0

/-- A register-register operation: d := f a b (R71). -/
def State.alu (s : State) (d a b : Reg) (f : Word → Word → Word) : Out := .next (s.put d (f (s.reg a) (s.reg b)))
/-- A one-operand operation: d := f a (R71, R72). -/
def State.alu1 (s : State) (d a : Reg) (f : Word → Word) : Out := .next (s.put d (f (s.reg a)))

def execAdd (d a b : Reg) (s : State) : Out := s.alu d a b (· + ·)
def execSub (d a b : Reg) (s : State) : Out := s.alu d a b (· - ·)
def execAnd (d a b : Reg) (s : State) : Out := s.alu d a b (· &&& ·)
def execOr (d a b : Reg) (s : State) : Out := s.alu d a b (· ||| ·)
def execXor (d a b : Reg) (s : State) : Out := s.alu d a b (· ^^^ ·)
def execSll (d a b : Reg) (s : State) : Out := s.alu d a b (fun x y => x <<< shAmount y)
def execSrl (d a b : Reg) (s : State) : Out := s.alu d a b (fun x y => x >>> shAmount y)
def execSra (d a b : Reg) (s : State) : Out := s.alu d a b (fun x y => x.sshiftRight (shAmount y))
def execSlt (d a b : Reg) (s : State) : Out := s.alu d a b (fun x y => ofBool (x.slt y))
def execSltu (d a b : Reg) (s : State) : Out := s.alu d a b (fun x y => ofBool (x.ult y))
def execSeq (d a b : Reg) (s : State) : Out := s.alu d a b (fun x y => ofBool (x == y))
def execMin (d a b : Reg) (s : State) : Out := s.alu d a b (fun x y => if x.slt y then x else y)
def execMax (d a b : Reg) (s : State) : Out := s.alu d a b (fun x y => if x.slt y then y else x)
def execMinu (d a b : Reg) (s : State) : Out := s.alu d a b (fun x y => if x.ult y then x else y)
def execMaxu (d a b : Reg) (s : State) : Out := s.alu d a b (fun x y => if x.ult y then y else x)
def execAndn (d a b : Reg) (s : State) : Out := s.alu d a b (fun x y => x &&& ~~~y)
def execAddi (d a : Reg) (imm : BitVec 15) (s : State) : Out := s.alu1 d a (· + immI imm)
def execAndi (d a : Reg) (imm : BitVec 15) (s : State) : Out := s.alu1 d a (· &&& immI imm)
def execOri (d a : Reg) (imm : BitVec 15) (s : State) : Out := s.alu1 d a (· ||| immI imm)
def execXori (d a : Reg) (imm : BitVec 15) (s : State) : Out := s.alu1 d a (· ^^^ immI imm)
def execSlli (d a : Reg) (sh : BitVec 6) (s : State) : Out := s.alu1 d a (· <<< sh.toNat)
def execSrli (d a : Reg) (sh : BitVec 6) (s : State) : Out := s.alu1 d a (· >>> sh.toNat)
def execSrai (d a : Reg) (sh : BitVec 6) (s : State) : Out := s.alu1 d a (fun x => x.sshiftRight sh.toNat)
def execSlti (d a : Reg) (imm : BitVec 15) (s : State) : Out := s.alu1 d a (fun x => ofBool (x.slt (immI imm)))
def execSltiu (d a : Reg) (imm : BitVec 15) (s : State) : Out := s.alu1 d a (fun x => ofBool (x.ult (immI imm)))
def execMul (d a b : Reg) (s : State) : Out := s.alu d a b (· * ·)
def execMulh (d a b : Reg) (s : State) : Out := s.alu d a b mulhOp
def execMulhu (d a b : Reg) (s : State) : Out := s.alu d a b mulhuOp
def execDiv (d a b : Reg) (s : State) : Out := s.alu d a b divOp
def execDivu (d a b : Reg) (s : State) : Out := s.alu d a b divuOp
def execRem (d a b : Reg) (s : State) : Out := s.alu d a b remOp
def execRemu (d a b : Reg) (s : State) : Out := s.alu d a b remuOp
def execLup (d : Reg) (imm : BitVec 20) (s : State) : Out := .next (s.put d (immU imm))
def execAupc (d : Reg) (imm : BitVec 20) (s : State) : Out := .next (s.put d (s.me.pc + immU imm))
def execClz (d a : Reg) (s : State) : Out := s.alu1 d a clzOp
def execCtz (d a : Reg) (s : State) : Out := s.alu1 d a ctzOp
def execPopc (d a : Reg) (s : State) : Out := s.alu1 d a popcOp
def execBrev (d a : Reg) (s : State) : Out := s.alu1 d a brevOp
def execSextb (d a : Reg) (s : State) : Out := s.alu1 d a (fun x => (x.setWidth 8).signExtend 64)
def execSexth (d a : Reg) (s : State) : Out := s.alu1 d a (fun x => (x.setWidth 16).signExtend 64)
def execSextw (d a : Reg) (s : State) : Out := s.alu1 d a (fun x => (x.setWidth 32).signExtend 64)
def execZextw (d a : Reg) (s : State) : Out := s.alu1 d a (fun x => (x.setWidth 32).setWidth 64)

/-! Scalar floating point (Table 5-6). -/

def fpBool (r : Bool × FFlags) : W32 × FFlags := (if r.1 then 1 else 0, r.2)
def State.fp2 (s : State) (d a b : Reg) (f : RMode → W32 → W32 → W32 × FFlags) : Out :=
  .next (s.putFp d (f s.me.frm (s.f32 a) (s.f32 b)))
def State.fp1 (s : State) (d a : Reg) (f : RMode → W32 → W32 × FFlags) : Out :=
  .next (s.putFp d (f s.me.frm (s.f32 a)))

def execFadd (d a b : Reg) (s : State) : Out := s.fp2 d a b faddBits
def execFsub (d a b : Reg) (s : State) : Out := s.fp2 d a b fsubBits
def execFmul (d a b : Reg) (s : State) : Out := s.fp2 d a b fmulBits
def execFdiv (d a b : Reg) (s : State) : Out := s.fp2 d a b fdivBits
def execFmin (d a b : Reg) (s : State) : Out := s.fp2 d a b (fun _ => fminBits)
def execFmax (d a b : Reg) (s : State) : Out := s.fp2 d a b (fun _ => fmaxBits)
def execFeq (d a b : Reg) (s : State) : Out := s.fp2 d a b (fun _ x y => fpBool (fcond .eq x y))
def execFlt (d a b : Reg) (s : State) : Out := s.fp2 d a b (fun _ x y => fpBool (fcond .lt x y))
def execFle (d a b : Reg) (s : State) : Out := s.fp2 d a b (fun _ x y => fpBool (fcond .le x y))
def execFcvtif (d a : Reg) (s : State) : Out := s.fp1 d a cvtI32F32
def execFcvtfi (d a : Reg) (s : State) : Out := s.fp1 d a (fun _ => cvtF32I32)
def execFsqrt (d a : Reg) (s : State) : Out := s.fp1 d a fsqrtBits
def execFma (d a b : Reg) (s : State) : Out := s.fp2 d a b (fun m x y => ffmaBits m x y (s.f32 d))
def execFclass (d a : Reg) (s : State) : Out := .next (s.put d (BitVec.ofNat 64 (fclassBits (s.f32 a))))

end Sys2Proof.Machine
end

