-- ==== Sys2Proof/Machine/Memory.lean ====
section
/-! DEFINITION. Loads, stores, ordered accesses, atomics, FENCE, row accesses, gathers and scatters, and the draining of
store buffers (R128-R143, R159-R167). -/

namespace Sys2Proof.Machine

open Sys2Proof

/-! Scalar and row accesses (R137, R138, R142). -/

/-- A load of `n` aligned bytes: its value reaches the thread by `fin` (R130, R132, R133). -/
def State.loadTo (s : State) (ea : Word) (n : Nat) (fin : State → List Byte → State) : State :=
  s.access ea n n .read (fun p =>
    let r := s.loadChecked s.cur ea p n
    fin r.2 r.1)

/-- A store of bytes: it retires into the store buffer, and the thread waits while that is full (R130, R132). -/
def State.storeTo (s : State) (ea : Word) (bs : List Byte) (rel : Option Scope) (i : Instr) : State :=
  s.access ea bs.length bs.length .write (fun p =>
    if s.storeFull s.cur then s.wait .storeBuffer i else ((s.dirty ea).pushStore s.cur [(p, bs)] rel).advance)

/-- The loaded value: sign-extended for sx = 1, else zero-extended (R137). -/
def loadValue (n : Nat) (sx : Bool) (bs : List Byte) : Word :=
  let v := BitVec.ofNat 64 (leNat bs)
  if sx then (v <<< (64 - 8 * n)).sshiftRight (64 - 8 * n) else v

def execLd (d a : Reg) (off : BitVec 12) (sz : Size) (sx : Bool) (s : State) : Out :=
  let n := sizeBytes sz
  .next (s.loadTo (eaM (s.reg a) off n) n (fun s bs => s.put d (loadValue n sx bs)))
def execSt (d a : Reg) (off : BitVec 12) (sz : Size) (s : State) : Out :=
  let n := sizeBytes sz
  .next (s.storeTo (eaM (s.reg a) off n) (leBytes n (s.reg d).toNat) none (.st d a off sz))

/-- A store that waits for what was before it: an STR with a scope above thread (R139, R168). -/
def StoreEnt.isRelease (e : StoreEnt) : Bool :=
  match e.release with
  | none => false
  | some c => 1 ≤ scopeCode c
/-- A release with a scope above core. -/
def StoreEnt.aboveCore (e : StoreEnt) : Bool :=
  match e.release with
  | none => false
  | some c => 2 ≤ scopeCode c

/-- An acquire above core follows the thread's own earlier releases above core (Tables 9-4 to 9-7, Rl before A). -/
def State.acquire (s : State) (sc : Scope) : State :=
  if 1 < scopeCode sc ∧ (s.storesOf s.cur).any StoreEnt.aboveCore then s.release else s

/-- LDA: a load at address a; a word is zero-extended (R138, R139). -/
def execLda (d a : Reg) (sc : Scope) (sz : WSize) (s : State) : Out :=
  let n := wsizeBytes sz
  let s := s.acquire sc
  .next (s.loadTo (s.reg a) n (fun s bs => s.put d (loadValue n false bs)))
/-- STR: a store at address a that is a release at its scope (R138, R139). -/
def execStr (a b : Reg) (sc : Scope) (sz : WSize) (s : State) : Out :=
  .next (s.storeTo (s.reg a) (leBytes (wsizeBytes sz) (s.reg b).toNat) (some sc) (.str a b sc sz))

def execVld (r : RowCode) (a : Reg) (off : BitVec 12) (s : State) : Out :=
  .next (s.loadTo (eaW (s.reg a) off) 64 (fun s bs => (s.setRow r (rowOfBytes bs)).advance))
def execVst (r : RowCode) (a : Reg) (off : BitVec 12) (s : State) : Out :=
  .next (s.storeTo (eaW (s.reg a) off) (rowBytes (s.row r)) none (.vst r a off))

/-! Draining (R132, R139, R159, R160). -/

/-- Two places share a byte of two extents. -/
def placesMeet (p : Place) (n : Nat) (q : Place) (k : Nat) : Bool :=
  match p, q with
  | .loc a, .loc b => a < b + k && b < a + n
  | .hbm a, .hbm b => a < b + k && b < a + n
  | .weight a, .weight b => a < b + k && b < a + n
  | .remote d a, .remote e b => d == e && a < b + k && b < a + n
  | _, _ => false
def StoreEnt.meets (e f : StoreEnt) : Bool :=
  e.writes.any (fun w => f.writes.any (fun v => placesMeet w.1 w.2.length v.1 v.2.length))

/-- A spill write of a core's list engine, queued before `seen`, how far completion points of a thread go, and before a serial, has still
to be performed (R162, R284). -/
def State.spillBefore (s : State) (c seen serial : Nat) : Bool :=
  (s.core c).rays.any (fun r => r.2.writes.any (fun w => w.order < seen && w.order < serial))
/-- A release in the store buffer waits for the spill writes that its thread had passed (R139, R162, R284). -/
def State.strWaits (s : State) (c : Nat) (e : StoreEnt) : Bool := e.isRelease && s.spillBefore c e.seen e.serial

/-- The oldest store of a slot drains; before it the older stores of the core's other slots when it is a release or touches
their bytes (R160, R162; log entry 8). A release waits for the spill writes that its thread had passed, and one that would drain such a
release before it waits with it (R139, R284). -/
def State.drainOne (s : State) (c slot : Nat) : State :=
  let es := (s.core c).stores
  match es.find? (fun e => e.slot == slot) with
  | none => s
  | some e =>
    let older := es.filter (fun f => f.serial < e.serial)
    let all := e.isRelease || older.any (fun f => f.meets e)
    if s.strWaits c e || (all && older.any (s.strWaits c)) then s
    else if all then s.drainUpTo c (fun f => f.serial == e.serial)
    else (s.updCore c (fun k => { k with stores := es.filter (fun f => f.serial != e.serial) })).perform c e

def execStoreBufferDrain (core slot : Nat) (s : State) : Out := .next (s.drainOne core slot)

/-! Atomics (R139-R141, R160, R163). -/

def ordReleases (o : AOrd) : Bool :=
  match o with
  | .release => true
  | .acqRel => true
  | .relaxed => false
  | .acquire => false
def ordAcquires (o : AOrd) : Bool :=
  match o with
  | .acquire => true
  | .acqRel => true
  | .relaxed => false
  | .release => false

/-- The buffered stores of a slot drain, oldest first. -/
def State.drainSlot (s : State) (c slot : Nat) : Nat → State
  | 0 => s
  | n + 1 => (s.drainOne c slot).drainSlot c slot n
/-- What is performed before an atomic's own write (Tables 9-2 to 9-7): for a release at device scope or wider everything earlier, on
every die; for a narrower one above thread, or where another slot's store meets its bytes, the core's stores, which its thread may have
seen (R162); else the stores of its own slot. Its write at a place is a release's only at device scope or wider (R160). -/
def State.atomicDrain (s : State) (p : Place) (n : Nat) (sc : Scope) (o : AOrd) : State :=
  let c := s.cur.core
  let wide := ordReleases o && 1 ≤ scopeCode sc
  let meets := s.myCore.stores.any (fun e => e.slot != s.cur.slot && e.writes.any (fun w => placesMeet w.1 w.2.length p n))
  if wide && 4 ≤ scopeCode sc then s.release
  else if wide || meets then s.drainCore c
  else s.drainSlot c s.cur.slot (s.storesOf s.cur).length
/-- The write half of an atomic. -/
def State.atomicWrite (s : State) (p : Place) (bs : List Byte) (sc : Scope) (o : AOrd) : State :=
  if ordReleases o ∧ 4 ≤ scopeCode sc then s.writeAt s.cur.core p bs
  else
    let n := s.myCore.serial
    (s.updMyCore (fun k => { k with serial := n + 1 })).performPlain s.cur n p bs

/-- The read-modify-write of Table 8-6 at a place, one step where its bytes live: the old value, and what follows. On a REMOTE page the
operation itself leaves, and the old value is free (R141, R178). -/
def State.atomicAt (s : State) (ea : Word) (p : Place) (fn : BitVec 4) (sz : WSize) (x y : Word) (sc : Scope) (o : AOrd) : Nat × State :=
  let n := wsizeBytes sz
  let s := ((if ordAcquires o then s.acquire sc else s).atomicDrain p n sc o).dirty ea
  match p with
  | .remote dev va => (leNat (s.homeBytes s.cur.core p n), s.fresh.askOut s.cur.core dev va (.atomic fn (sz == .d) x y))
  | p =>
    let r := s.rmwRead s.cur ea p n
    let old := leNat r.1
    (old, r.2.atomicWrite p (leBytes n ((atomicNew fn (sz == .d) x y old).getD old)) sc o)
/-- An atomic instruction: d := zext(old). -/
def State.atomicOp (s : State) (d a b : Reg) (fn : BitVec 4) (sz : WSize) (sc : Scope) (o : AOrd) : Out :=
  let n := wsizeBytes sz
  .next (s.access (s.reg a) n n .atomic (fun p =>
    let r := s.atomicAt (s.reg a) p fn sz (s.reg b) (s.reg d) sc o
    r.2.put d (BitVec.ofNat 64 r.1)))

def execAadd (d a b : Reg) (sc : Scope) (sz : WSize) (o : AOrd) (s : State) : Out := s.atomicOp d a b 0 sz sc o
def execAand (d a b : Reg) (sc : Scope) (sz : WSize) (o : AOrd) (s : State) : Out := s.atomicOp d a b 1 sz sc o
def execAor (d a b : Reg) (sc : Scope) (sz : WSize) (o : AOrd) (s : State) : Out := s.atomicOp d a b 2 sz sc o
def execAxor (d a b : Reg) (sc : Scope) (sz : WSize) (o : AOrd) (s : State) : Out := s.atomicOp d a b 3 sz sc o
def execAmin (d a b : Reg) (sc : Scope) (sz : WSize) (o : AOrd) (s : State) : Out := s.atomicOp d a b 4 sz sc o
def execAmax (d a b : Reg) (sc : Scope) (sz : WSize) (o : AOrd) (s : State) : Out := s.atomicOp d a b 5 sz sc o
def execAminu (d a b : Reg) (sc : Scope) (sz : WSize) (o : AOrd) (s : State) : Out := s.atomicOp d a b 6 sz sc o
def execAmaxu (d a b : Reg) (sc : Scope) (sz : WSize) (o : AOrd) (s : State) : Out := s.atomicOp d a b 7 sz sc o
def execAswp (d a b : Reg) (sc : Scope) (sz : WSize) (o : AOrd) (s : State) : Out := s.atomicOp d a b 8 sz sc o
def execAcas (d a b : Reg) (sc : Scope) (sz : WSize) (o : AOrd) (s : State) : Out := s.atomicOp d a b 9 sz sc o
/-- AFADD rounds to nearest even whatever FRM holds and sets no flag (R141). -/
def execAfadd (d a b : Reg) (sc : Scope) (o : AOrd) (s : State) : Out := s.atomicOp d a b 10 .w sc o

/-! FENCE (R165-R167). -/

/-- FENCE with nonzero sets: later instructions of a succ class are held at issue until the operations of P are performed;
P is what is in flight of the thread's operations before this serial (log entry 7). -/
def execFence (pred succ : BitVec 8) (sc : Scope) (s : State) : Out :=
  if pred = 0 ∨ succ = 0 then .next s.advance
  else
    let bound := s.myCore.serial
    .next ((s.updMyCore (fun k => { k with serial := bound + 1 })).updMe (fun t =>
      { t with fences := t.fences ++ [⟨pred, succ, sc, bound, t.ilSeen⟩] })).advance

/-! Gathers and scatters (R143). -/

/-- The address of an active lane: base + sext(b[i]). -/
def State.laneEa (s : State) (a : Reg) (b : RowCode) (i : Nat) : Word := s.reg a + ((s.row b).lane i).signExtend 64

/-- R130 for every active lane in lane order: the places, or the first lane that traps or misses. -/
def State.checkLanes (s : State) (m : BitVec 16) (a : Reg) (b : RowCode) (n : Nat) (k : Access) :
    Option (Word × Checked) × List (Nat × Place) :=
  let cs := (lanes.filter (fun i => m.getLsbD i)).map (fun i =>
    (i, s.laneEa a b i, s.check s.cur (s.laneEa a b i) n n k))
  let bad := cs.find? (fun c => match c.2.2 with | .ok _ => false | _ => true)
  (bad.map (·.2), cs.filterMap (fun c => match c.2.2 with | .ok p => some (c.1, p) | _ => none))

def execVldx (m : MaskCode) (d : RowCode) (sz : Elem) (a : Reg) (b : RowCode) (s : State) : Out :=
  let n := elemBytes sz
  let p := s.mask m
  .next (match s.checkLanes p a b n .read with
    | (some (_, .trap c v), _) => s.trap c v
    | (some (ea, _), _) => s.holdOnPage ea .read
    | (none, ps) =>
      let r := ps.foldl (fun (acc : List (Nat × W32) × State) (q : Nat × Place) =>
        let x := acc.2.loadChecked acc.2.cur (s.laneEa a b q.1) q.2 n
        (acc.1 ++ [(q.1, BitVec.ofNat 32 (leNat x.1))], x.2)) ([], s)
      (r.2.rowWrite p d (fun i => Tbl.get r.1 0 i)).advance)

/-- VSTX: all of its writes are one entry of the store buffer (log entry 34). -/
def execVstx (m : MaskCode) (d : RowCode) (sz : Elem) (a : Reg) (b : RowCode) (s : State) : Out :=
  let n := elemBytes sz
  let p := s.mask m
  .next (match s.checkLanes p a b n .write with
    | (some (_, .trap c v), _) => s.trap c v
    | (some (ea, _), _) => s.holdOnPage ea .write
    | (none, ps) =>
      if s.storeFull s.cur then s.wait .storeBuffer (.vstx m d sz a b)
      else
        let s' := ps.foldl (fun s' q => s'.dirty (s.laneEa a b q.1)) s
        (s'.pushStore s.cur (ps.map (fun q => (q.2, leBytes n ((s.row d).lane q.1).toNat))) none).advance)

/-- A flag bit raised in a thread's FFLAGS arrives in CFLAGS (R31). -/
def execCflagsAccrual (cluster : Nat) (bits : BitVec 5) (s : State) : Out :=
  let c := s.cluster cluster
  let b := bits &&& c.onTheWay
  .next (s.setCluster cluster { c with cflags := c.cflags ||| b, onTheWay := c.onTheWay &&& ~~~b })

end Sys2Proof.Machine
end

