-- ==== Sys2Proof/Machine/Names.lean ====
section
/-! DEFINITION. The registers, rows and tiles that an instruction names, for the scoreboard of R93 and the completion points of R284. -/

namespace Sys2Proof.Machine

open Sys2Proof

/-- The scalar registers, rows and tiles that an instruction's fields name: registers written and read, rows written and read. -/
structure Named where
  dst   : List Reg
  regs  : List Reg
  drows : List RowCode
  rows  : List RowCode
  tiles : List TileCode
  deriving DecidableEq, Repr

def srcRegs (b : VSrc) : List Reg :=
  match b with
  | .row _ => []
  | .scalar r => [r]
def srcRows (b : VSrc) : List RowCode :=
  match b with
  | .row r => [r]
  | .scalar _ => []

/-- What an instruction names as a source, destination or predicate; masks no engine writes. -/
def namesOf (i : Instr) : Named :=
  match i with
  | .add d a b => ⟨[d], [a, b], [], [], []⟩
  | .sub d a b => ⟨[d], [a, b], [], [], []⟩
  | .and d a b => ⟨[d], [a, b], [], [], []⟩
  | .or d a b => ⟨[d], [a, b], [], [], []⟩
  | .xor d a b => ⟨[d], [a, b], [], [], []⟩
  | .sll d a b => ⟨[d], [a, b], [], [], []⟩
  | .srl d a b => ⟨[d], [a, b], [], [], []⟩
  | .sra d a b => ⟨[d], [a, b], [], [], []⟩
  | .slt d a b => ⟨[d], [a, b], [], [], []⟩
  | .sltu d a b => ⟨[d], [a, b], [], [], []⟩
  | .seq d a b => ⟨[d], [a, b], [], [], []⟩
  | .min d a b => ⟨[d], [a, b], [], [], []⟩
  | .max d a b => ⟨[d], [a, b], [], [], []⟩
  | .minu d a b => ⟨[d], [a, b], [], [], []⟩
  | .maxu d a b => ⟨[d], [a, b], [], [], []⟩
  | .andn d a b => ⟨[d], [a, b], [], [], []⟩
  | .addi d a _ => ⟨[d], [a], [], [], []⟩
  | .andi d a _ => ⟨[d], [a], [], [], []⟩
  | .ori d a _ => ⟨[d], [a], [], [], []⟩
  | .xori d a _ => ⟨[d], [a], [], [], []⟩
  | .slli d a _ => ⟨[d], [a], [], [], []⟩
  | .srli d a _ => ⟨[d], [a], [], [], []⟩
  | .srai d a _ => ⟨[d], [a], [], [], []⟩
  | .slti d a _ => ⟨[d], [a], [], [], []⟩
  | .sltiu d a _ => ⟨[d], [a], [], [], []⟩
  | .mul d a b => ⟨[d], [a, b], [], [], []⟩
  | .mulh d a b => ⟨[d], [a, b], [], [], []⟩
  | .mulhu d a b => ⟨[d], [a, b], [], [], []⟩
  | .div d a b => ⟨[d], [a, b], [], [], []⟩
  | .divu d a b => ⟨[d], [a, b], [], [], []⟩
  | .rem d a b => ⟨[d], [a, b], [], [], []⟩
  | .remu d a b => ⟨[d], [a, b], [], [], []⟩
  | .lup d _ => ⟨[d], [], [], [], []⟩
  | .aupc d _ => ⟨[d], [], [], [], []⟩
  | .clz d a => ⟨[d], [a], [], [], []⟩
  | .ctz d a => ⟨[d], [a], [], [], []⟩
  | .popc d a => ⟨[d], [a], [], [], []⟩
  | .brev d a => ⟨[d], [a], [], [], []⟩
  | .sextb d a => ⟨[d], [a], [], [], []⟩
  | .sexth d a => ⟨[d], [a], [], [], []⟩
  | .sextw d a => ⟨[d], [a], [], [], []⟩
  | .zextw d a => ⟨[d], [a], [], [], []⟩
  | .fadd d a b => ⟨[d], [a, b], [], [], []⟩
  | .fsub d a b => ⟨[d], [a, b], [], [], []⟩
  | .fmul d a b => ⟨[d], [a, b], [], [], []⟩
  | .fdiv d a b => ⟨[d], [a, b], [], [], []⟩
  | .fmin d a b => ⟨[d], [a, b], [], [], []⟩
  | .fmax d a b => ⟨[d], [a, b], [], [], []⟩
  | .feq d a b => ⟨[d], [a, b], [], [], []⟩
  | .flt d a b => ⟨[d], [a, b], [], [], []⟩
  | .fle d a b => ⟨[d], [a, b], [], [], []⟩
  | .fcvtif d a => ⟨[d], [a], [], [], []⟩
  | .fcvtfi d a => ⟨[d], [a], [], [], []⟩
  | .fsqrt d a => ⟨[d], [a], [], [], []⟩
  | .fma d a b => ⟨[d], [d, a, b], [], [], []⟩
  | .fclass d a => ⟨[d], [a], [], [], []⟩
  | .beq a b _ => ⟨[], [a, b], [], [], []⟩
  | .bne a b _ => ⟨[], [a, b], [], [], []⟩
  | .blt a b _ => ⟨[], [a, b], [], [], []⟩
  | .bge a b _ => ⟨[], [a, b], [], [], []⟩
  | .bltu a b _ => ⟨[], [a, b], [], [], []⟩
  | .bgeu a b _ => ⟨[], [a, b], [], [], []⟩
  | .jr a => ⟨[], [a], [], [], []⟩
  | .callr a => ⟨[], [a], [], [], []⟩
  | .ld d a _ _ _ => ⟨[d], [a], [], [], []⟩
  | .st d a _ _ => ⟨[], [d, a], [], [], []⟩
  | .lda d a _ _ => ⟨[d], [a], [], [], []⟩
  | .str a b _ _ => ⟨[], [a, b], [], [], []⟩
  | .aadd d a b _ _ _ => ⟨[d], [a, b], [], [], []⟩
  | .aand d a b _ _ _ => ⟨[d], [a, b], [], [], []⟩
  | .aor d a b _ _ _ => ⟨[d], [a, b], [], [], []⟩
  | .axor d a b _ _ _ => ⟨[d], [a, b], [], [], []⟩
  | .amin d a b _ _ _ => ⟨[d], [a, b], [], [], []⟩
  | .amax d a b _ _ _ => ⟨[d], [a, b], [], [], []⟩
  | .aminu d a b _ _ _ => ⟨[d], [a, b], [], [], []⟩
  | .amaxu d a b _ _ _ => ⟨[d], [a, b], [], [], []⟩
  | .aswp d a b _ _ _ => ⟨[d], [a, b], [], [], []⟩
  | .acas d a b _ _ _ => ⟨[d], [d, a, b], [], [], []⟩
  | .afadd d a b _ _ => ⟨[d], [a, b], [], [], []⟩
  | .vld r a _ => ⟨[], [a], [r], [], []⟩
  | .vst r a _ => ⟨[], [a], [], [r], []⟩
  | .vldx _ d _ a b => ⟨[], [a], [d], [b], []⟩
  | .vstx _ d _ a b => ⟨[], [a], [], [d, b], []⟩
  | .csrr d _ => ⟨[d], [], [], [], []⟩
  | .csrw d a _ => ⟨[d], [a], [], [], []⟩
  | .csrs d a _ => ⟨[d], [a], [], [], []⟩
  | .csrc d a _ => ⟨[d], [a], [], [], []⟩
  | .csrwi d _ _ => ⟨[d], [], [], [], []⟩
  | .trap a => ⟨[], [a], [], [], []⟩
  | .exit a => ⟨[], [a], [], [], []⟩
  | .chkpt a => ⟨[], [a], [], [], []⟩
  | .ipf a => ⟨[], [a], [], [], []⟩
  | .send d a b => ⟨[d], [a, b], [], [], []⟩
  | .waitc d _ b => ⟨[d], [b], [], [], []⟩
  | .cntr d _ => ⟨[d], [], [], [], []⟩
  | .cntadd d _ b => ⟨[d], [b], [], [], []⟩
  | .rkmap d a b => ⟨[d], [a, b], [], [], []⟩
  | .rkmove d a b => ⟨[d], [a, b], [], [], []⟩
  | .barinit a b => ⟨[], [a, b], [], [], []⟩
  | .bararr d a => ⟨[d], [a], [], [], []⟩
  | .barwait a b => ⟨[], [a, b], [], [], []⟩
  | .barsync d a => ⟨[d], [a], [], [], []⟩
  | .barq d a => ⟨[d], [a], [], [], []⟩
  | .help d a b => ⟨[d], [a, b], [], [], []⟩
  | .hjoin d a => ⟨[d], [a], [], [], []⟩
  | .hitch d a => ⟨[d], [a], [], [], []⟩
  | .unhitch d => ⟨[d], [], [], [], []⟩
  | .self d => ⟨[d], [], [], [], []⟩
  | .enq d a b => ⟨[d], [a, b], [], [], []⟩
  | .qres d a b => ⟨[d], [a, b], [], [], []⟩
  | .tlink d a b => ⟨[d], [a, b], [], [], []⟩
  | .launch d a b => ⟨[d], [a, b], [], [], []⟩
  | .kwait d a => ⟨[d], [a], [], [], []⟩
  | .qpin d a b => ⟨[d], [a, b], [], [], []⟩
  | .tlbinv a b => ⟨[], [a, b], [], [], []⟩
  | .freply a b => ⟨[], [a, b], [], [], []⟩
  | .fbread d a b => ⟨[d], [a, b], [], [], []⟩
  | .fbclr a => ⟨[], [a], [], [], []⟩
  | .vadd _ d a b => ⟨[], srcRegs b, [d], [a] ++ srcRows b, []⟩
  | .vsub _ d a b => ⟨[], srcRegs b, [d], [a] ++ srcRows b, []⟩
  | .vmul _ d a b => ⟨[], srcRegs b, [d], [a] ++ srcRows b, []⟩
  | .vfma _ d a b => ⟨[], srcRegs b, [d], [d, a] ++ srcRows b, []⟩
  | .vfms _ d a b => ⟨[], srcRegs b, [d], [d, a] ++ srcRows b, []⟩
  | .vfnma _ d a b => ⟨[], srcRegs b, [d], [d, a] ++ srcRows b, []⟩
  | .vmin _ d a b => ⟨[], srcRegs b, [d], [a] ++ srcRows b, []⟩
  | .vmax _ d a b => ⟨[], srcRegs b, [d], [a] ++ srcRows b, []⟩
  | .vabs _ d a => ⟨[], [], [d], [a], []⟩
  | .vneg _ d a => ⟨[], [], [d], [a], []⟩
  | .vrcp _ d a => ⟨[], [], [d], [a], []⟩
  | .vrsq _ d a => ⟨[], [], [d], [a], []⟩
  | .vexp2 _ d a => ⟨[], [], [d], [a], []⟩
  | .vlog2 _ d a => ⟨[], [], [d], [a], []⟩
  | .vsqrt _ d a => ⟨[], [], [d], [a], []⟩
  | .vflr _ d a => ⟨[], [], [d], [a], []⟩
  | .vceil _ d a => ⟨[], [], [d], [a], []⟩
  | .vrndn _ d a => ⟨[], [], [d], [a], []⟩
  | .vcmpf _ _ _ a b => ⟨[], srcRegs b, [], [a] ++ srcRows b, []⟩
  | .vcmpi _ _ _ a b => ⟨[], srcRegs b, [], [a] ++ srcRows b, []⟩
  | .viadd _ d a b => ⟨[], srcRegs b, [d], [a] ++ srcRows b, []⟩
  | .visub _ d a b => ⟨[], srcRegs b, [d], [a] ++ srcRows b, []⟩
  | .vimul _ d a b => ⟨[], srcRegs b, [d], [a] ++ srcRows b, []⟩
  | .vand _ d a b => ⟨[], srcRegs b, [d], [a] ++ srcRows b, []⟩
  | .vor _ d a b => ⟨[], srcRegs b, [d], [a] ++ srcRows b, []⟩
  | .vxor _ d a b => ⟨[], srcRegs b, [d], [a] ++ srcRows b, []⟩
  | .vshl _ d a b => ⟨[], srcRegs b, [d], [a] ++ srcRows b, []⟩
  | .vshr _ d a b => ⟨[], srcRegs b, [d], [a] ++ srcRows b, []⟩
  | .vshra _ d a b => ⟨[], srcRegs b, [d], [a] ++ srcRows b, []⟩
  | .vimin _ d a b => ⟨[], srcRegs b, [d], [a] ++ srcRows b, []⟩
  | .vimax _ d a b => ⟨[], srcRegs b, [d], [a] ++ srcRows b, []⟩
  | .viminu _ d a b => ⟨[], srcRegs b, [d], [a] ++ srcRows b, []⟩
  | .vimaxu _ d a b => ⟨[], srcRegs b, [d], [a] ++ srcRows b, []⟩
  | .vsel _ d a b => ⟨[], srcRegs b, [d], [a] ++ srcRows b, []⟩
  | .vperm _ d a b => ⟨[], srcRegs b, [d], [a] ++ srcRows b, []⟩
  | .vcvt _ d a _ => ⟨[], [], [d], [a], []⟩
  | .vred _ _ d a => ⟨[d], [], [], [a], []⟩
  | .vext d a _ => ⟨[d], [], [], [a], []⟩
  | .vins d _ b => ⟨[], [b], [d], [], []⟩
  | .vpackBf16 _ d a b => ⟨[], [], [d], [a, b], []⟩
  | .vpackF16 _ d a b => ⟨[], [], [d], [a, b], []⟩
  | .vmov _ d b => ⟨[], srcRegs b, [d], srcRows b, []⟩
  | .mpopc d _ => ⟨[d], [], [], [], []⟩
  | .mfirst d _ => ⟨[d], [], [], [], []⟩
  | .mset _ a => ⟨[], [a], [], [], []⟩
  | .mget d _ => ⟨[d], [], [], [], []⟩
  | .mma d a b _ _ => ⟨[], [a, b], [], [], [d]⟩
  | .mzero d => ⟨[], [], [], [], [d]⟩
  | .mst d a => ⟨[], [a], [], [], [d]⟩
  | .mld d a => ⟨[], [a], [], [], [d]⟩
  | .mwait d => ⟨[], [], [], [], [d]⟩
  | .mchk d a b _ _ => ⟨[], [a, b], [], [], [d]⟩
  | .rinit d a b => ⟨[d], [a, b], [], [], []⟩
  | .rpush d a b => ⟨[d], [a, b], [], [], []⟩
  | .rsub d a b _ => ⟨[d], [a, b], [], [], []⟩
  | .runsub d a => ⟨[d], [a], [], [], []⟩
  | .rstat d a => ⟨[d], [a], [], [], []⟩
  | .cpy d => ⟨[d], [], [], [], []⟩
  | .cwait d a => ⟨[d], [a], [], [], []⟩
  | .cstat d a => ⟨[d], [a], [], [], []⟩
  | .sopen d a => ⟨[d], [a], [], [], []⟩
  | .spop d a b => ⟨[d], [a, b], [], [], []⟩
  | .spush d a b => ⟨[d], [a, b], [], [], []⟩
  | .mgopen d a b => ⟨[d], [a, b], [], [], []⟩
  | .mgpush d a b => ⟨[d], [a, b], [], [], []⟩
  | .mgend d a => ⟨[d], [a], [], [], []⟩
  | .mgpop d a b => ⟨[d], [a, b], [], [], []⟩
  | .mgstat d a b => ⟨[d], [a, b], [], [], []⟩
  | .mgdrain d a => ⟨[d], [a], [], [], []⟩
  | .ilopen d a b => ⟨[d], [a, b], [], [], []⟩
  | .ilins d a b => ⟨[d], [a, b], [], [], []⟩
  | .ilsend d a b => ⟨[d], [a, b], [], [], []⟩
  | .ilcut d a => ⟨[d], [a], [], [], []⟩
  | .ilcomp d a b => ⟨[d], [a, b], [], [], []⟩
  | .ilread d a b => ⟨[d], [a, b], [], [], []⟩
  | .ilclose d a => ⟨[d], [a], [], [], []⟩
  | .ilstat d a => ⟨[d], [a], [], [], []⟩
  | .hnew d a => ⟨[d], [a], [], [], []⟩
  | .hcopy d a => ⟨[d], [a], [], [], []⟩
  | .hdrop a => ⟨[], [a], [], [], []⟩
  | .hbind d a b => ⟨[d], [a, b], [], [], []⟩
  | .hwgt d a => ⟨[d], [a], [], [], []⟩
  | .haddr d a => ⟨[d], [a], [], [], []⟩
  | .hmerge d a b => ⟨[d], [a, b], [], [], []⟩
  | .boxt _ d a b => ⟨[], [], [d], [a, b], []⟩
  | .trit _ d a b => ⟨[], [], [d], [a, b], []⟩
  | .splt _ d a b => ⟨[], [], [d], [a, b], []⟩
  | .edge _ d a b => ⟨[], [], [d], [a, b], []⟩
  | .texl _ d a b => ⟨[], [], [d], [a, b], []⟩
  | .texd _ d a b => ⟨[], [], [d], [a, b], []⟩
  | .ret => ⟨[], [15], [], [], []⟩
  | _ => ⟨[], [], [], [], []⟩

end Sys2Proof.Machine
end

