-- ==== Sys2Proof/Machine/Issue.lean ====
section
/-! DEFINITION. When an instruction issues: waits and when they are over (Tables 5-1, 11-7), the scoreboard (R93), and the
holds of FENCE (R165-R167). -/

namespace Sys2Proof.Machine

open Sys2Proof

/-! What a FENCE waits for (R166). -/

/-- The pushes of a thread that the network has not taken, and the merge writes of contexts that it holds which are held or in progress
(R312). -/
def State.mergeBusy (s : State) (t : ThreadId) (mine : Nat → Nat → Bool) : Bool :=
  let c := s.cluster (clusterOf t.core)
  c.mq.any (fun q => q.port == coreIdOf t.core && mine q.slot q.serial)
    || c.merge.any (fun m => m.2.holder == t && mine t.slot m.2.serial && !m.2.calm)
/-- The reads of a stream that have still to come (R155). -/
def Strm.reading (x : Strm) : Bool := x.isOpen && x.failed.isNone && decide (x.i + x.fetched.length < x.count)

/-- An access to another device's page that may write there. -/
def Outgoing.isWrite (o : Outgoing) : Bool :=
  match o with
  | .access _ (.write _) => true
  | .access _ (.atomic _ _ _ _) => true
  | _ => false
/-- Whether an earlier operation of a pred class has still to be performed at the scope: stores in the buffer are not
performed at a scope wider than the thread's own, nor at device scope while another die does not see them, nor at system scope while they
wait to leave for another device; loads are performed when they issue; a fill copy reads nothing (R146); of the list engine's operations
an insert into a SPILL slot may write memory, and the spill writes that the thread had passed at the FENCE are its own (R162, R284). -/
def State.fenceBusy (s : State) (t : ThreadId) (f : FenceRec) : Bool :=
  let k := s.core t.core
  let born := (s.thread t).born
  let mine (slot serial : Nat) : Bool := slot == t.slot && born ≤ serial && serial < f.bound
  let out := f.scope == Scope.system
    && s.outbox.any (fun e => e.cls &&& f.pred != 0 && e.what.isWrite && e.src.any (fun q => q.1 == t && born ≤ q.2 && q.2 < f.bound))
  let w := f.pred.getLsbD 1 && f.scope != Scope.thread && (k.stores.any (fun e => mine e.slot e.serial)
    || (4 ≤ scopeCode f.scope && s.stale.any (fun e => e.src.core == t.core && mine e.src.slot e.serial)))
  let cr := f.pred.getLsbD 2 && (k.copies.any (fun c => c.mode != 5 && mine c.slot c.serial)
    || k.streams.any (fun x => (x.2.reading && mine x.2.slot x.2.serial) || x.2.ops.any (fun o => mine o.slot o.serial)))
  let cw := f.pred.getLsbD 3 && k.copies.any (fun c => mine c.slot c.serial)
  let mr := f.pred.getLsbD 4 && k.matQ.any (fun o => mine o.slot o.serial
    && (o.kind == MatKind.mma || o.kind == MatKind.mchk || o.kind == MatKind.mld))
  let mw := f.pred.getLsbD 5 && k.matQ.any (fun o => mine o.slot o.serial && o.kind == MatKind.mst)
  let n := f.pred.getLsbD 6 && (s.flying.any (fun m => m.srcDev == s.devNum && m.src == t && born ≤ m.serial && m.serial < f.bound)
    || s.postsUnderWay.any (fun w => w.src == t && born ≤ w.serial && w.serial < f.bound))
  let x := f.pred.getLsbD 7 && (k.ilQ.any (fun o => mine o.slot o.serial && o.kind == IlKind.ins && k.mayBeMode o.ray .spill 1)
    || k.rays.any (fun q => q.2.writes.any (fun w => mine w.slot w.serial)) || s.spillBefore t.core f.seen f.bound || s.mergeBusy t mine)
  w || cr || cw || mr || mw || n || x || out

/-- The fences of a thread that still hold something back. -/
def State.liveFences (s : State) (t : ThreadId) : List FenceRec :=
  (s.thread t).fences.filter (fun f => s.fenceBusy t f)

/-- The classes of the operations that an instruction may perform, as the bits of a FENCE's sets: R, W, CR, CW, MR, MW, N, X from
bit 0 (R45, R166). -/
def opClasses (i : Instr) : BitVec 8 :=
  match i with
  | .ld _ _ _ _ _ => 0x01
  | .lda _ _ _ _ => 0x01
  | .vld _ _ _ => 0x01
  | .vldx _ _ _ _ _ => 0x01
  | .st _ _ _ _ => 0x02
  | .str _ _ _ _ => 0x02
  | .vst _ _ _ => 0x02
  | .vstx _ _ _ _ _ => 0x02
  | .spush _ _ _ => 0x02
  | .aadd _ _ _ _ _ _ => 0x03
  | .aand _ _ _ _ _ _ => 0x03
  | .aor _ _ _ _ _ _ => 0x03
  | .axor _ _ _ _ _ _ => 0x03
  | .amin _ _ _ _ _ _ => 0x03
  | .amax _ _ _ _ _ _ => 0x03
  | .aminu _ _ _ _ _ _ => 0x03
  | .amaxu _ _ _ _ _ _ => 0x03
  | .aswp _ _ _ _ _ _ => 0x03
  | .acas _ _ _ _ _ _ => 0x03
  | .afadd _ _ _ _ _ => 0x03
  | .call _ => 0x02
  | .callr _ => 0x02
  | .ret => 0x01
  | .cpy _ => 0x0C
  | .sopen _ _ => 0x04
  | .spop _ _ _ => 0x04
  | .mma _ _ _ _ _ => 0x10
  | .mchk _ _ _ _ _ => 0x10
  | .mld _ _ => 0x10
  | .mst _ _ => 0x20
  | .send _ _ _ => 0x43
  | .ilsend _ _ _ => 0x41
  | .mgopen _ _ _ => 0x81
  | .mgpush _ _ _ => 0x80
  | .mgend _ _ => 0x80
  | .mgdrain _ _ => 0x80
  | .ilopen _ _ _ => 0x01
  | .ilins _ _ _ => 0x81
  | .help _ _ _ => 0x01
  | .rinit _ _ _ => 0x01
  | .rsub _ _ _ _ => 0x01
  | .enq _ _ _ => 0x03
  | .launch _ _ _ => 0x03
  | .tlink _ _ _ => 0x03
  | .texl _ _ _ _ => 0x03
  | .hdrop _ => 0x40
  | .hbind _ _ _ => 0x01
  | .chkpt _ => 0x01
  | _ => 0

/-- A dword of local memory as a thread's load reads it; 0 elsewhere. -/
def State.localDword (s : State) (t : ThreadId) (ea : Word) : Word :=
  if addrClass ea = .loc then dwordAt (s.loadBytes t.core (.loc (localOff ea)) 8) 0 else 0
/-- The operations that an instruction may perform here: SEND writes memory with HW only, LAUNCH with a TCB, TEXL with a feedback map, CALL
with a spill, RET reads it with a fill, CPY but in a fill copy, and ILINS may write where its slot may be of SPILL mode (R67, R146, R200,
R234, R275, R295). -/
def State.touches (s : State) (t : ThreadId) (i : Instr) : BitVec 8 :=
  let th := s.thread t
  let cl := opClasses i
  match i with
  | .send _ _ b => if (s.localDword t (th.reg b + 8)).getLsbD 16 then cl else cl &&& ~~~2
  | .launch _ _ b => if th.reg b = 0 then cl &&& ~~~2 else cl
  | .texl _ _ _ _ => if s.localDword t (th.csr 0x0C0 + 16) = 0 then cl &&& ~~~2 else cl
  | .cpy _ => if (th.copyOf t.slot 0 0 0).mode = 5 then cl &&& ~~~4 else cl
  | .ilins _ a _ => if (s.core t.core).mayBeMode (raySlot (th.reg a)) .spill 1 then cl else cl &&& ~~~0x80
  | .call _ => if th.resident = 5 then cl else 0
  | .callr _ => if th.resident = 5 then cl else 0
  | .ret => if th.resident ≤ 1 ∧ th.spilled ≠ 0 then cl else 0
  | .chkpt _ => if (s.core t.core).line then cl else 0
  | _ => cl

/-- A FENCE holds the instruction. -/
def State.fenceHolds (s : State) (t : ThreadId) (i : Instr) : Bool :=
  (s.liveFences t).any (fun f => f.succ &&& s.touches t i != 0)

/-! What waits for spill writes (R162, R284). -/

/-- The instructions that are releases, STR apart (R139, R168). -/
def isReleaseOp (i : Instr) : Bool :=
  match i with
  | .send _ _ _ => true
  | .ilsend _ _ _ => true
  | .rpush _ _ _ => true
  | .help _ _ _ => true
  | .enq _ _ _ => true
  | .trig => true
  | .hdrop _ => true
  | .cntadd _ _ _ => true
  | .bararr _ _ => true
  | .barsync _ _ => true
  | .launch _ _ _ => true
  | .tlink _ _ _ => true
  | .replay => true
  | .tlbinv _ _ => true
  | .freply _ _ => true
  | .rkmap _ _ _ => true
  | .aadd _ _ _ _ _ o => ordReleases o
  | .aand _ _ _ _ _ o => ordReleases o
  | .aor _ _ _ _ _ o => ordReleases o
  | .axor _ _ _ _ _ o => ordReleases o
  | .amin _ _ _ _ _ o => ordReleases o
  | .amax _ _ _ _ _ o => ordReleases o
  | .aminu _ _ _ _ _ o => ordReleases o
  | .amaxu _ _ _ _ _ o => ordReleases o
  | .aswp _ _ _ _ _ o => ordReleases o
  | .acas _ _ _ _ _ o => ordReleases o
  | .afadd _ _ _ _ o => ordReleases o
  | _ => false
/-- Rows that an instruction reads through a register, or by a row that it does name (R289, R291). -/
def Thread.rowsRead (t : Thread) (i : Instr) : List Nat :=
  match i with
  | .spush _ _ b => [bits (t.reg b) 6 0]
  | .mgpush _ _ b => [bits (t.reg b) 6 0, (bits (t.reg b) 6 0 + 1) % 128]
  | .boxt _ _ _ b => [1, 2, 3, 4, 5].map (fun i => (b.toNat + i) % 128)
  | .trit _ _ _ b => [1, 2].map (fun i => (b.toNat + i) % 128)
  | .mma d _ _ _ _ => lanes.map (fun i => 16 * d.toNat + i)
  | .mst d _ => lanes.map (fun i => 16 * d.toNat + i)
  | .mchk d _ _ _ _ => lanes.map (fun i => 16 * d.toNat + i)
  | _ => []
/-- Registers that an instruction reads without naming them, by their own numbers: HELP g2, a CALL the frame that it spills (R61, R68). -/
def Thread.regsRead (t : Thread) (i : Instr) : List Nat :=
  match i with
  | .help _ _ _ => [2]
  | .call _ => if t.resident = 5 then lanes.map (fun n => 8 + oldestPhys t.wptr n) else []
  | .callr _ => if t.resident = 5 then lanes.map (fun n => 8 + oldestPhys t.wptr n) else []
  | _ => []
/-- How far the completion points go that a thread passes by what an instruction reads (R284). -/
def Thread.passes (t : Thread) (i : Instr) : Nat :=
  let nm := namesOf i
  t.pointsOf (nm.regs.map (fun r => .reg (t.regId r)) ++ (t.regsRead i).map .reg ++ nm.rows.map (fun r => .row r.toNat)
    ++ (t.rowsRead i).map .row)
/-- A thread comes to execute an instruction: its word, and the completion points that it passes by reading (R162, R284). -/
def Thread.atWord (t : Thread) (w : W32) (i : Instr) : Thread := { t with word := w, ilSeen := max t.ilSeen (t.passes i) }

/-- An STR with a scope above core: it waits in the store buffer, not at issue (R139). -/
def isWideStr (i : Instr) : Bool :=
  match i with
  | .str _ _ sc _ => 2 ≤ scopeCode sc
  | _ => false
/-- An instruction that drains the core's stores: a release, an atomic, an operation for an engine. -/
def drainsCore (i : Instr) : Bool := isReleaseOp i || opClasses i &&& 0x03 == 0x03 || opClasses i &&& 0xFC != 0
/-- The instruction waits for spill writes of the list engine: for those that its thread has passed, which are its own accesses from then
on, where it accesses memory, sends, or is a release; for those that a release in the store buffer waits for, where it would drain
that (R139, R162, R164, R284). -/
def State.spillHolds (s : State) (t : ThreadId) (i : Instr) : Bool :=
  let k := s.core t.core
  let th := k.thread t.slot
  (s.spillBefore t.core (max th.ilSeen (th.passes i)) k.serial && (isReleaseOp i || s.touches t i != 0) && !isWideStr i)
    || (drainsCore i && k.stores.any (s.strWaits t.core))

/-! Waits. -/

def SlotState.isStall (x : SlotState) : Bool :=
  match x with
  | .blocked w _ => w == .stall
  | .free => false
  | .ready => false
  | .done _ => false
  | .parked _ _ => false

/-- Whether what a BLOCKED thread waits for has come; a wait that an event ends is over only by that event. -/
def State.waitOver (s : State) (t : ThreadId) (w : Wait) : Bool :=
  let k := s.core t.core
  let th := s.thread t
  let x := s.ctx th.ctx
  let at' := { s with cur := t }
  match w with
  | .counter c v => reaches (k.counter c) v
  | .barrier b g => genDone (at'.barGen b) g
  | .barSync b g => genDone (at'.barGen b) g
  | .join n _ gone => gone || at'.joinReady n
  | .copies last => !th.copiesBusy last
  | .kernel kid => !x.kidLive kid
  | .latch => th.latch
  | .tile n => !k.tileBusy t.slot n
  | .check _ => false
  | .ringSlot rings push => k.slotTest rings push
  | .ringPush r n => n ≤ k.slotsFree r
  | .unsub r target ended => ended.isSome || (k.ring r).state != .storing || target ≤ (k.ring r).moved
  | .ranges n => n ≤ k.freeRanges
  | .transit rank => !(rankT (x.rank rank) && 64 ≤ s.heldFor th.ctx rank (dieOf t.core))
  | .landing rank old => !s.onTheWay th.ctx rank old
  | .swap die h => !(s.die die).swaps.contains (th.ctx, h)
  | .page _ _ => false
  | .fence => (s.liveFences t).isEmpty
  | .hitch a m => (at'.rendezvous a m).isSome
  | .halter _ _ _ _ => false
  | .listEngine => false
  | .storeBuffer => !s.storeFull t
  | .mergeDrain n => (s.mg (clusterOf t.core) n).calm
  | .icache => false
  | .stall => false
  | .tlbinv l => !s.walksLeft l

/-- The waits of Table 11-7's left column, and a HITCH rendezvous (R218). -/
def Wait.limited (w : Wait) : Bool :=
  match w with
  | .counter _ _ => true
  | .barrier _ _ => true
  | .barSync _ _ => true
  | .join _ _ _ => true
  | .copies _ => true
  | .kernel _ => true
  | .ringSlot _ _ => true
  | .ringPush _ _ => true
  | .unsub _ _ _ => true
  | .ranges _ => true
  | .transit _ => true
  | .hitch _ _ => true
  | .latch => false
  | .tile _ => false
  | .check _ => false
  | .landing _ _ => false
  | .swap _ _ => false
  | .page _ _ => false
  | .fence => false
  | .halter _ _ _ _ => false
  | .listEngine => false
  | .storeBuffer => false
  | .mergeDrain _ => false
  | .icache => false
  | .stall => false
  | .tlbinv _ => false

/-- The waits that count for the deadlock detector (R264). -/
def Wait.waiting (w : Wait) : Bool :=
  match w with
  | .latch => true
  | .tile _ => true
  | .check _ => true
  | .page _ _ => true
  | .fence => true
  | .tlbinv _ => true
  | w => w.limited

/-- A wait that outlasts WAITTO: a precise trap of cause 6 with TVAL the instruction word (R213). -/
def execWaittoExpiry (core slot : Nat) (s : State) : Out :=
  let t : ThreadId := ⟨core, slot⟩
  .next (match (s.thread t).state with
    | .blocked w limit =>
      if w.limited ∧ limit ≠ 0 ∧ s.waitOver t w = false ∧ (s.ctx (s.thread t).ctx).state = .active then
        s.trapAt t 6 ((s.thread t).word.setWidth 64)
      else s
    | _ => s)

/-! The deadlock detector (R264, R367). -/

def KState.ready (k : KState) : Bool := k == .queued || k == .running

/-- Nothing of a context is on its way. -/
def State.ctxIdle (s : State) (x : Nat) : Bool :=
  let cs := (s.cores.map (·.1)).filter (fun c => s.coreCtx c == x)
  cs.all (fun c =>
    let k := s.core c
    k.matQ.isEmpty && k.ilQ.isEmpty && k.arrivals.isEmpty && k.drops.isEmpty && k.copies.all (·.held) && k.stores.isEmpty
      && k.streams.all (fun x => x.2.ops.isEmpty && (!x.2.reading || x.2.held.isSome))
      && k.rays.all (fun r => r.2.writes.isEmpty || r.2.wheld.isSome)
      && k.rings.all (fun r => match r.2.sub with
          | none => true
          | some u => u.held || (r.2.state == .storing && r.2.occ == 0)
              || (r.2.state == .loading && r.2.count ≤ r.2.occ) || r.2.state == .failed))
    && ((cs.map clusterOf).eraseDups).all (fun cl => (s.cluster cl).mq.isEmpty
      && (s.cluster cl).merge.all (fun m => m.2.owes.isEmpty || m.2.held.isSome))
    && s.flying.all (fun m => m.ctx != x) && s.postsUnderWay.all (fun w => w.ctx != x) && s.faultMsgs.all (fun m => m.ctx != x)
    && s.outbox.all (fun f => f.src.all (fun q => !cs.contains q.1.core))
    && (List.range 4).all (fun d =>
        (s.die d).coal.all (fun e => e.2.ctx != x || e.2.state != .walking)
        && (s.die d).swaps.all (fun q => q.1 != x)
        && ((s.works d).filter (fun w => w.ctx == x)).all (fun w => !s.dealReady d w))

/-- Every live thread waits, and nothing that could end a wait is going on. -/
def State.quiet (s : State) (x : Nat) : Bool :=
  let ts := s.liveOf x
  !ts.isEmpty && s.ctxIdle x && ts.all (fun t => match (s.thread t).state with
    | .blocked w _ => w.waiting && !s.waitOver t w
    | _ => false)

/-- A context that has been quiet for 65,536 cycles is declared deadlocked (R264), once in an episode: a kind-2 record with the live
threads and the cycles waited, at least that many, and a fatal event for the host. -/
def execDeadlockDeclaration (ctx : Nat) (s : State) : Out :=
  .next (
    if (s.ctx ctx).state = .active ∧ (s.ctx ctx).declared = false ∧ s.quiet ctx then
      let ts := s.liveOf ctx
      let cycles := BitVec.ofNat 64 (65536 + (Config.elapsedCycles s.freeCount).toNat % 2 ^ 48)
      let s := (s.fresh.updCtx ctx (fun x => { x with declared := true })).postEvent ctx 2 (identOf (ts.headD ⟨0, 0⟩)) (BitVec.ofNat 64 ts.length) cycles
      s.ioEvent 0 true 2 (BitVec.ofNat 64 ctx) 0
    else s)

/-- The episode of a context that is no longer quiet is over: a later one may be declared again. -/
def State.endEpisodes (s : State) : State :=
  s.ctxs.foldl (fun s p => if p.2.declared && !s.quiet p.1 then s.updCtx p.1 (fun x => { x with declared := false }) else s) s

end Sys2Proof.Machine
end

