-- ==== Sys2Proof/Machine/Context.lean ====
section
/-! DEFINITION. Contexts and paddocks: checkpoints, the pre-empt lines, parking, resuming, moving a group, and Typoro's
replies (R253-R263, R332, R333). -/

namespace Sys2Proof.Machine

open Sys2Proof

/-! Typoro replies (R332, R333). -/

def State.conn (s : State) (n : Nat) : Conn := s.conns.get Conn.reset n
def State.updConn (s : State) (n : Nat) (f : Conn → Conn) : State := { s with conns := s.conns.set n (f (s.conn n)) }
/-- The 32 bytes of a Typoro header (Table 20-3). -/
def hdrBytes (seq : W32) (isReply : Bool) (opcode length ctx status : Nat) : List Byte :=
  leBytes 8 (seq.toNat * 2 ^ 32 + (if isReply then 2 ^ 16 else 0) + opcode) ++ leBytes 8 (length * 2 ^ 32 + ctx) ++ leBytes 8 status
    ++ leBytes 8 0
/-- What leaves on a connection as one packet: sealed where a key is installed for it (R331). -/
def State.sealBytes (s : State) (conn num : Nat) (bs : List Byte) : List Byte :=
  match (s.io (ioOfConn conn)).keys.find? (fun k => k.1 == conn) with
  | some k => Config.gcmSeals num k.2 bs
  | none => bs
/-- The packets of a message: pieces of it that leave a frame at 9,216 bytes or less, each sealed; how many of its bytes one carries is
UET's (R331; log entry 10). -/
def framesOf (enc : Nat → List Byte → List Byte) (room : Nat) : Nat → List Byte → List (List Byte)
  | 0, _ => []
  | fuel + 1, bs =>
    if bs.length ≤ room then [enc fuel bs] else enc fuel (bs.take room) :: framesOf enc room fuel (bs.drop room)
def State.framed (s : State) (conn num : Nat) (bs : List Byte) : List (List Byte) :=
  framesOf (fun i => s.sealBytes conn (131072 * num + i)) (max 1 (min 9216 Config.packetRoom)) (bs.length + 1) bs
/-- The reply to a command: a header with REPLY set and its payload; the packets of a connection keep one entropy value (R331, R332). -/
def State.mkReply (s : State) (h : CmdHdr) (opcode status : Nat) (payload : List Byte) : Reply where
  conn := h.conn
  seq := h.seq
  isReply := true
  opcode := opcode
  length := payload.length
  ctx := h.ctx
  status := status
  payload := payload
  entropy := Config.entropy h.conn
  frames := s.framed h.conn h.seq.toNat (hdrBytes h.seq true opcode payload.length h.ctx status ++ payload)
/-- The reply of a command goes out, and is kept while its number is one of the connection's last 64; the command is no longer
outstanding (R332, R333). -/
def State.reply (s : State) (h : CmdHdr) (opcode status : Nat) (payload : List Byte) : State :=
  let r := s.mkReply h opcode status payload
  { s with
    replies := s.replies ++ [r]
    inbox := s.inbox.filter (fun c => !(c.hdr.conn == h.conn && c.hdr.seq == h.seq)) }.updConn h.conn (fun c =>
      { c with stored := (c.stored ++ [r]).filter (fun q => ((c.lastSeq.getD h.seq) - q.seq).toNat < 64) })

/-! Live-range tables and CHKPT (R259). -/

/-- Whether the dwords of a live-range table keep Table 15-6. -/
def tableOk (d : List Word) : Bool :=
  let w (i : Nat) : Word := d.getD i 0
  let nloc := bits (w 0) 55 48
  bits (w 0) 63 56 == 1 && nloc ≤ 32 && bits (w 0) 47 0 == 0 && bits (w 1) 63 56 == 0 && !(w 1).getLsbD 32 && bits (w 1) 2 0 == 0
    && (List.range nloc).all (fun k =>
      let a := (w (5 + 2 * k)).toNat
      let n := (w (6 + 2 * k)).toNat
      localBase.toNat ≤ a && a % 64 == 0 && n != 0 && n % 64 == 0 && a + n ≤ localBase.toNat + localBytes)

def dwordsOf (bs : List Byte) : List Word := (List.range (bs.length / 8)).map (fun i => dwordAt bs (8 * i))

/-- CHKPT: a NOP while CHKPEND reads 0; else it parks the thread at the next instruction with the table that it names. -/
def execChkpt (a : Reg) (s : State) : Out :=
  let v := s.reg a
  .next (
    if !s.myCore.line then s.advance
    else if bits v 2 0 ≠ 0 ∨ addrClass v ≠ .global then s.trap 18 v
    else s.loadSpan v 40 8 (fun s hd =>
      s.loadSpan v (40 + 16 * bits (dwordAt hd 0) 55 48) 8 (fun s bs =>
        if tableOk (dwordsOf bs) then
          s.advance.updMe (fun t => { t with state := .parked false none, table := dwordsOf bs })
        else s.trap 18 v)))

/-! Draining a core's engines (R260 step 4). -/

def afterOut (o : Out) (s : State) : State :=
  match o with
  | .next t => t
  | .fault _ => s
  | .refused _ => s

def State.drainMat (s : State) (c : Nat) : Nat → State
  | 0 => s
  | n + 1 => if (s.core c).matQ.isEmpty then s else (afterOut (execMatOpRetire c s) s).drainMat c n
/-- Copies reach DONE or HELD, the head one after another; what is QUEUED behind a HELD one stays so, since the unit serves one copy at a
time (R151, Table 8-13; log entry 36). -/
def State.drainCopies (s : State) (c : Nat) : Nat → State
  | 0 => s
  | n + 1 =>
    match (s.core c).copies with
    | [] => s
    | x :: _ =>
      if x.held then s
      else
        let s' := afterOut (execCopyUnitDone c s) s
        if (s'.core c).copies = (s.core c).copies then s' else s'.drainCopies c n
/-- Arrivals and accepted operations of the list engine, in turn (R284). -/
def State.drainList (s : State) (c : Nat) : Nat → State
  | 0 => s
  | n + 1 =>
    let s := s.spillAll c
    let k := s.core c
    if k.ilReady && (!k.ilTurn || k.arrivals.isEmpty) then (s.ilStep c).drainList c n
    else if !k.arrivals.isEmpty then (s.arrivalStep c).drainList c n
    else s
def State.drainEngines (s : State) (c : Nat) : State :=
  let s := ((s.drainAll c).drainStrms c).drainHalter c
  let s := s.drainMat c ((s.core c).matQ.length + 1)
  let s := s.drainCopies c ((((s.core c).copies.map (fun x => (x.rows + 1) * (x.len + 131072))).sum) + 4)
  s.drainList c ((s.core c).ilQ.length + (s.core c).arrivals.length + 1)

/-- The head of the local queue of the list engine is an ILCLOSE that waits for a spill write which a page holds. -/
def Core.closeHeld (k : Core) : Bool :=
  match k.ilQ with
  | [] => false
  | o :: _ => (k.ray o.ray).wheld.isSome
/-- An operation that a park completes is not done: in the halter unit, the copy unit or the list engine a home's answer, a coalescing entry
or a spill write that a page holds has still to come (R152, R260, R285); `held`: what a page holds is not waited for. -/
def Core.unfinished (k : Core) (held : Bool) : Bool :=
  !k.halNums.isEmpty || (k.copies.head?.any (fun c => !c.held)) || (!k.ilQ.isEmpty && !(held && k.closeHeld))

/-! Hard parks and saved state (R260, R261). -/

def Thread.hardPark (t : Thread) : Thread :=
  match t.state with
  | .free => t
  | .done _ => t
  | .ready => { t with state := .parked true none }
  | .blocked w l => { t with state := .parked true (some (w, l)) }
  | .parked _ b => { t with state := .parked true b }
/-- The engines drain and every thread of the core is parked to be saved in full. -/
def State.hardPark (s : State) (c : Nat) : State := (s.drainEngines c).updCore c (·.mapThreads Thread.hardPark)

/-- Bit `n` of dword `i` of the thread's live-range table. -/
def Thread.lists (t : Thread) (i n : Nat) : Bool := (t.table.getD i 0).getLsbD n
/-- Whether physical register `i` of a softly parked thread is saved: listed in the current window, or of an older resident
frame; each older frame starts 16 registers below the next (R67). -/
def Thread.savesPhys (t : Thread) (i : Nat) : Bool :=
  let o := (i + 88 - t.wptr % 88) % 88
  if o < 24 then t.lists 1 (8 + o) else 88 - 16 * (t.resident - 1) ≤ o
/-- What a soft park keeps of a thread (R261, R262). -/
def Thread.soften (t : Thread) : Thread :=
  { t with
    gregs := t.gregs.filter (fun p => p.1 ≤ 2 || t.lists 1 p.1)
    dead := (List.range 88).foldl (fun d i => if t.savesPhys i then d else d ||| (1#88 <<< i)) t.dead
    masks := t.masks.filter (fun p => t.lists 1 (32 + p.1))
    rows := t.rows.filter (fun p => if p.1 < 64 then t.lists 2 p.1 else t.lists 3 (p.1 - 64))
    table := [] }

def SlotState.soft (x : SlotState) : Bool :=
  match x with
  | .parked false _ => true
  | .parked true _ => false
  | .free => false
  | .done _ => false
  | .ready => false
  | .blocked _ _ => false
def SlotState.hard (x : SlotState) : Bool := x.parkedS && !x.soft

/-- Local ranges of a live-range table, as offsets. -/
def Thread.localRanges (t : Thread) : List (Nat × Nat) :=
  (List.range (bits (t.table.getD 0 0) 55 48)).map (fun k =>
    let o := localOff (t.table.getD (5 + 2 * k) 0)
    (o, o + (t.table.getD (6 + 2 * k) 0).toNat))

/-- A byte of local memory lies in an occupied slot of a ring (Table 7-1, PARKED). -/
def Ring.occupies (r : Ring) (a : Nat) : Bool :=
  (List.range r.occ).any (fun i =>
    let o := r.slotOff ((r.head + i) % max 1 r.count)
    o ≤ a && a < o + r.slotBytes)

/-- What a park whose threads are all soft keeps of a core. -/
def Core.soften (k : Core) : Core :=
  let ts := (k.threads.map (·.2)).filter (fun t => t.state.soft)
  let keep (i n : Nat) : Bool := ts.any (fun t => t.lists i n)
  let rs := ts.flatMap Thread.localRanges
  let inR (a : Nat) : Bool := rs.any (fun r => r.1 ≤ a && a < r.2) || k.rings.any (fun r => keep 1 (40 + r.1) && r.2.occupies a)
  { k.mapThreads (fun t => if t.state.soft then t.soften else t) with
    mem := k.mem.filter (fun b => inR b.1)
    eccBad := k.eccBad.filter (fun w => inR (8 * w))
    rings := k.rings.filter (fun r => keep 1 (40 + r.1))
    streams := k.streams.filter (fun x => keep 1 (52 + x.1))
    rays := k.rays.filter (fun r => keep 4 r.1)
    ranges := k.ranges.filter (fun l =>
      if l.id < 8 then keep 1 (40 + l.id)
      else k.rays.all (fun r => r.2.rangeId != some l.id || keep 4 r.1)) }

/-- The core as it is saved: in full unless its live threads all parked softly (log entry 24). -/
def Core.saved (k : Core) : Core :=
  let ts := k.threads.map (·.2)
  if ts.any (fun t => t.state.soft) && !ts.any (fun t => t.state.hard) then k.soften else k

/-- Nothing of the core waits for a page any more: every access is tried again at resume (R193, Tables 8-13, 7-1). -/
def Core.unheld (k : Core) : Core :=
  { k with
    copies := k.copies.map (fun c => { c with held := false })
    rings := k.rings.map (fun r => (r.1, { r.2 with sub := r.2.sub.map (fun u => { u with held := false }) }))
    streams := k.streams.map (fun x => (x.1, { x.2 with held := none }))
    rays := k.rays.map (fun r => (r.1, { r.2 with wheld := none })) }

/-- A parked thread goes on (R262): a wait counts afresh; one that an access or an engine made is tried again. -/
def Thread.resumed (t : Thread) : Thread :=
  match t.state with
  | .parked _ none => { t with state := .ready }
  | .parked _ (some (w, l)) =>
    (match w with
     | .page _ _ => { t with state := .ready }
     | .fence => { t with state := .ready }
     | .storeBuffer => { t with state := .ready }
     | .mergeDrain _ => { t with state := .ready }
     | .icache => { t with state := .ready }
     | .stall => { t with state := .ready }
     | w => { t with state := .blocked w l })
  | .free => t
  | .done _ => t
  | .ready => t
  | .blocked _ _ => t

/-- A core's data on another core: the threads that its rings and ray slots name go with it. -/
def Core.rehome (k : Core) (f : Nat → Nat) : Core :=
  { k with
    rings := k.rings.map (fun r => (r.1, { r.2 with sub := r.2.sub.map (fun u => { u with thread := ⟨f u.thread.core, u.thread.slot⟩ }) }))
    rays := k.rays.map (fun r => (r.1, { r.2 with opener := ⟨f r.2.opener.core, r.2.opener.slot⟩ })) }

/-- A core that its context has left: CYCLE goes on, and later operations are numbered above the earlier. -/
def Core.cleared (k : Core) : Core := { Core.reset with cycle := k.cycle, serial := k.serial }
/-- A core on which saved data is restored. -/
def Core.restored (k data : Core) (f : Nat → Nat) : Core :=
  { (data.mapThreads Thread.resumed).rehome f with
    cycle := k.cycle, serial := max k.serial data.serial, line := false, hardNow := false, helpersNext := false }

/-- No request of a core's threads and engines waits at a die NI (R193). -/
def Requester.ofCore (r : Requester) (c : Nat) : Bool :=
  match r with
  | .thread t => t.core == c
  | .copy k => k == c
  | .ring k _ => k == c
  | .stream k _ => k == c
  | .ray k _ => k == c
  | .merge _ _ => false
  | .tcb _ _ => false
  | .encoder _ => false
def State.dropCoreReqs (s : State) (cs : List Nat) : State :=
  { s with dies := s.dies.map (fun p => (p.1, { p.2 with coal := p.2.coal.map (fun e =>
      (e.1, { e.2 with reqs := e.2.reqs.filter (fun r => !cs.any (fun c => r.ofCore c)) })) })) }
/-- No requester of the context waits at a die NI, an encode engine's among them; its walks go on (R193, Table 10-5). -/
def State.dropCtxReqs (s : State) (x : Nat) : State :=
  { s with
    encoders := s.encoders.map (fun p => (p.1,
      if p.2.held.any (fun h => (s.coalAt h.1 h.2).ctx == x) then { p.2 with held := none } else p.2))
    dies := s.dies.map (fun p => (p.1, { p.2 with coal := p.2.coal.map (fun e =>
      (e.1, if e.2.ctx = x then { e.2 with reqs := [] } else e.2)) })) }

/-! Merges at a pre-emption (R312). -/

/-- The merge contexts of clusters whose holder is one of some cores. -/
def State.heldMerges (s : State) (cs : List Nat) : List (Nat × Nat) :=
  ((cs.map clusterOf).eraseDups).flatMap (fun cl => ((List.range 4).filter (fun n =>
    (s.mg cl n).state != .free && cs.contains (s.mg cl n).holder.core)).map (fun n => (cl, n)))

/-- What resume reopens of a drained context, as MGOPEN with RESUME = 1: the area's header is to be read, then written with DRAINED at 0;
the counts that the header does not hold start at 0 (R307, R312). One that is DONE or FAILED stays as it is. -/
def MergeCtx.reopened (m : MergeCtx) : MergeCtx :=
  if m.state.live then
    { m with
      state := .spilled, buf := [], popQ := [], slot := [], zeros := 0, discard := 0, idle := [], ranges := [], held := none
      owes := [.restore, .head false], drained := false }
  else { m with ranges := [], held := none }

/-- Merge contexts take the pushes accepted for them and drain, as far as they can (R312). -/
def State.drainMerges (s : State) (ms : List (Nat × Nat)) : State := ms.foldl (fun s m => s.mgDrain m.1 m.2) s
/-- Every merge context of a list is drained, or is done with nothing in progress; `held`: what a page holds is not waited for (log
entry 19). -/
def State.mergesReady (s : State) (held : Bool) (ms : List (Nat × Nat)) : Bool :=
  ms.all (fun p => let m := s.mg p.1 p.2; m.isDrained || (!m.state.live && m.calm) || (held && m.held.isSome))
/-- They are FREE; with their numbers, what a resume reopens. -/
def State.freeMerges (s : State) (ms : List (Nat × Nat)) : State × List (Nat × MergeCtx) :=
  (ms.foldl (fun s m => s.mgFree m.1 m.2) s, ms.map (fun p => (p.2, (s.mg p.1 p.2).reopened)))

/-- Whether resume reopens a merge of a core's thread: the park is hard, or the holder's table lists it. -/
def Core.keepsMerge (k : Core) (n : Nat) (m : MergeCtx) : Bool :=
  let t := k.thread m.holder.slot
  t.state.hard || (k.threads.any (fun p => p.2.state.hard)) || (t.state.soft && t.lists 1 (48 + n))

/-- A kept merge is open again with its ranges registered (R312); a context number that is taken stays as it is (log entry 19). -/
def State.reopenMerge (s : State) (c : Nat) (km : Nat × MergeCtx) : State :=
  let cl := clusterOf c
  let m := km.2
  if (s.mg cl km.1).state ≠ .free then s
  else
    let id := 8 + (s.core c).rangeNext
    let s := s.updCore c (fun k =>
      let k := { k.addRange true m.spill.toNat (m.spill.toNat + m.sbytes) id with rangeNext := k.rangeNext + 1 }
      match m.outk with
      | .area => k.addRange true m.out.toNat (m.out.toNat + 8 * m.outcap) id
      | .ring => k
      | .pop => k)
    let s := s.updMg cl km.1 (fun _ => { m with ranges := [id], holder := ⟨c, m.holder.slot⟩ })
    (s.mgOwed cl km.1).mgSettle cl km.1

/-! Messages and weight on their way (R260 step 5). -/

/-- Land messages of a kind, one after another, until none can land. -/
def State.landSome (s : State) (p : Msg → Bool) : Nat → State
  | 0 => s
  | n + 1 =>
    match (List.range s.msgs.length).find? (fun i => match s.msgs[i]? with
        | some m => p m && !m.held && (afterOut (execMessageLanding i s) s).msgs.length < s.msgs.length
        | none => false) with
    | none => s
    | some i =>
      let c := ((s.msgs[i]?).map (·.core)).getD 0
      let s := afterOut (execMessageLanding i s) s
      (s.drainList c ((s.core c).ilQ.length + (s.core c).arrivals.length + 1)).landSome p n
/-- Weight that the context has sent arrives. -/
def State.landWeights (s : State) (x : Nat) : Nat → State
  | 0 => s
  | n + 1 =>
    match s.weights.findIdx? (fun w => w.ctx == x && w.dest.dev == s.devNum) with
    | none => s
    | some i =>
      let s' := afterOut (execTensorWeightArrival i s) s
      (if s'.weights.length < s.weights.length then s' else afterOut (execCellWeightArrival i s) s).landWeights x n

/-! Parking a context (R260). -/

def State.paddockCores (s : State) (x : Nat) : List Nat :=
  (s.clustersOf x).flatMap (fun cl => (List.range 16).map (fun i => 16 * cl + i))

/-- A core has no thread that is READY or BLOCKED. -/
def Core.still (k : Core) : Bool := k.threads.all (fun p => !p.2.state.running)

/-- The rank entries of the context that name this device are in transit on every die (R205). -/
def State.markRanks (s : State) (x : Nat) : State :=
  s.updCtx x (fun y => { y with ranks := y.ranks.map (fun e =>
    (e.1, if rankV e.2 && rankDev e.2 == s.devNum then e.2 ||| (1#64 <<< 62) else e.2)) })

/-- Everything of a context is gone: its queues, kernels, halter homes and translations (Table 15-2, teardown). -/
def State.freeCtx (s : State) (x : Nat) : State :=
  let s := s.invTlbs x 0 true
  let s := s.setCtx x Ctx.reset
  { s with
    msgs := s.msgs.filter (fun m => m.ctx != x)
    awayMsgs := s.awayMsgs.filter (fun m => m.2.ctx != x)
    awayWeights := s.awayWeights.filter (fun w => w.2.ctx != x)
    oldCode := s.oldCode.filter (fun e => e.ctx != x)
    encoders := s.encoders.map (fun e => (e.1,
      let n := if e.2.owes.any (fun o => o.1 == x) then { e.2 with owes := none, doneFails := false } else e.2
      { n with failed := n.failed.filter (fun r => r.ctx != x) }))
    faultMsgs := s.faultMsgs.filter (fun m => m.ctx != x)
    weights := s.weights.filter (fun w => w.ctx != x)
    dies := s.dies.map (fun p => (p.1, { p.2 with
      coal := p.2.coal.filter (fun e => e.2.ctx != x)
      resident := p.2.resident.filter (fun r => r.1 != x)
      swaps := p.2.swaps.filter (fun r => r.1 != x)
      aging := p.2.aging.filter (fun r => r.1.1 != x) })) }

/-- The reply that the park was for: status 0, also where the context has FAILED meanwhile, since any other would say that nothing has
changed (R334; log entry 24). -/
def State.parkReply (s : State) (why : ParkWhy) : State :=
  match why with
  | .preempt h => s.reply h 0x24 0 []
  | .teardown h => s.reply h 0x02 0 []
  | .move h _ _ _ => s.reply h 0x26 0 []
  | .failure => s

def ParkWhy.isTeardown (w : ParkWhy) : Bool :=
  match w with
  | .teardown _ => true
  | .preempt _ => false
  | .failure => false
  | .move _ _ _ _ => false
def ParkWhy.isMove (w : ParkWhy) : Bool :=
  match w with
  | .move _ _ _ _ => true
  | .preempt _ => false
  | .failure => false
  | .teardown _ => false

/-- A message or weight of the context is on its way, or something that its threads have sent waits to leave the device (R260 step 5,
R329). -/
def State.ctxFlying (s : State) (x : Nat) : Bool :=
  s.flying.any (fun m => m.ctx == x && !m.held) || s.postsUnderWay.any (fun w => w.ctx == x)
    || s.outbox.any (fun f => f.src.any (fun t => (s.paddockCores x).contains t.1.core))

/-- Step 6 of R260: the state is saved, and the cores are free (Table 15-1). -/
def State.saveCtx (s : State) (x : Nat) (why : ParkWhy) (cs : List Nat) (kept : List (Nat × MergeCtx)) : State :=
  let s := s.dropCtxReqs x
  let cls := s.clustersOf x
  let data := cs.map (fun c =>
    let k := s.core c
    (⟨cls.idxOf (clusterOf c), coreIdOf c, k.unheld.saved,
      kept.filter (fun m => m.2.holder.core == c && k.keepsMerge m.1 m.2)⟩ : Saved))
  let s := cs.foldl (fun s c => s.updCore c Core.cleared) s
  let s := { s with paddocks := s.paddocks.map (fun (p : Paddock) =>
    if p.ctx = x ∧ p.state ≠ PadState.empty then { p with state := PadState.empty, ctx := 0 } else p) }
  let s := s.updCtx x (fun y => { y with
    state := if y.state = .failed then .failed else .parked
    paddock := none
    park := none
    kernels := y.kernels.map (fun k => { k with held := none })
    saved := data })
  (if why.isTeardown then s.freeCtx x else s).parkReply why

/-- Steps 3 to 6 of R260 once the threads of every other core have parked, or at once at a teardown or a failure, which skip step 2. A core
has parked when its engines and merges have drained (Table 8-13): until the others have, the supervisor threads may still answer their
page faults; then the service core parks. What a page holds afterwards no thread can answer, and it is not waited for (log entry 24). -/
def State.finishPark (s : State) (x : Nat) (why : ParkWhy) : State :=
  let cs := s.paddockCores x
  let force := (s.ctx x).state == .failed || why.isTeardown
  let others := if force then [] else cs.filter (fun c => s.serviceCore x != some c)
  let s := (others.foldl (fun s c => s.drainEngines c) s).drainMerges (s.heldMerges others)
  if others.any (fun c => (s.core c).unfinished false) ∨ !s.mergesReady false (s.heldMerges others) then s
  else
    let s := (cs.filter (fun c => !others.contains c)).foldl (fun s c => s.hardPark c) s
    let ms := s.heldMerges cs
    let s := (s.drainMerges ms).markRanks x
    let s := s.landSome (fun m => m.ctx == x) (4 * s.msgs.length + 4)
    let s := s.landWeights x (4 * s.weights.length + 16)
    if s.ctxFlying x ∨ cs.any (fun c => (s.core c).unfinished true) ∨ !s.mergesReady true ms then s
    else
      let r := s.freeMerges ms
      r.1.saveCtx x why cs r.2

/-- What threads of a context have sent counts for them on their new cores; their stores every die sees since the park. -/
def State.renameSrc (s : State) (x : Nat) (f : Nat → Nat) : State :=
  let at' (t : ThreadId) : ThreadId := ⟨f t.core, t.slot⟩
  let msg (m : Msg) : Msg := if m.ctx = x ∧ m.srcDev = s.devNum then { m with src := at' m.src } else m
  let wt (w : Weight) : Weight := if w.ctx = x then { w with src := at' w.src } else w
  { s with
    msgs := s.msgs.map msg
    awayMsgs := s.awayMsgs.map (fun m => (m.1, msg m.2))
    weights := s.weights.map wt
    awayWeights := s.awayWeights.map (fun w => (w.1, wt w.2))
    cores := s.cores.map (fun p => (p.1, { p.2 with arrivals := p.2.arrivals.map (fun a => { a with msg := msg a.msg }) })) }

/-! Moving a group (R263). -/

/-- The ranks whose entries name a core of the group are in transit (R263 step 2). -/
def State.markGroupRanks (s : State) (x : Nat) (cs : List Nat) : State :=
  s.updCtx x (fun y => { y with ranks := y.ranks.map (fun e =>
    (e.1, if rankV e.2 && rankDev e.2 == s.devNum && cs.contains (rankCore e.2) then e.2 ||| (1#64 <<< 62) else e.2)) })
/-- A message is on its way to a core of the group. -/
def State.groupFlying (s : State) (x : Nat) (cs : List Nat) : Bool :=
  s.flying.any (fun m => m.ctx == x && !m.held && m.dev == s.devNum && cs.contains m.core)

/-- What waits to leave the device counts for the threads on their new cores. -/
def State.renameOut (s : State) (f : Nat → Nat) : State :=
  { s with outbox := s.outbox.map (fun e => { e with src := e.src.map (fun t => (⟨f t.1.core, t.1.slot⟩, t.2)) }) }
/-- The groups of a kernel or node are dealt to by one die wherever they lie (R214, R227). -/
def Ctx.fixedDie (x : Ctx) (kid : W32) : Bool :=
  match x.cardOf kid.toNat with
  | none => false
  | some c => c.ord || (c.cores && (x.kernel kid).isNone)
/-- The instances of threads and cores that move keep their generations; what an instance of the new place had kept is replaced. -/
def Ctx.movedDomains (x : Ctx) (f : Nat → Nat) : List Domain :=
  let go (d : Domain) : Domain :=
    { d with key := (d.key.1, d.key.2.1, d.key.2.2.1,
        if d.key.2.1 = 0 then f (d.key.2.2.2 / 16) * 16 + d.key.2.2.2 % 16
        else if d.key.2.1 = 1 then f d.key.2.2.2 else d.key.2.2.2) }
  let moved := (x.domains.filter (fun d => go d != d)).map go
  x.domains.filter (fun d => go d == d && moved.all (fun e => e.key != d.key)) ++ moved

/-- Steps 3 to 5 of R263 once the group's cores have parked. -/
def State.finishMove (s : State) (x : Nat) (why : ParkWhy) (g : Group) (target : Nat) : State :=
  let cs := g.cores
  let f (c : Nat) : Nat := if cs.contains c then 16 * target + coreIdOf c else c
  let s := cs.foldl (fun s c => s.drainEngines c) s
  let ms := s.heldMerges cs
  let s := s.drainMerges ms
  if cs.any (fun c => (s.core c).unfinished false) ∨ !s.mergesReady false ms then s
  else
    let r := s.freeMerges ms
    let kept := r.2
    let s := r.1.dropCoreReqs cs
    let old := cs.map (fun c => (c, s.core c))
    let s := cs.foldl (fun s c => s.updCore c Core.cleared) s
    let s := old.foldl (fun s p => s.updCore (f p.1) (fun k => k.restored p.2.unheld.saved f)) s
    let moved (e : Word) : Bool := rankV e && rankDev e == s.devNum && cs.contains (rankCore e)
    let ranks := ((s.ctx x).ranks.filter (fun e => moved e.2)).map (fun e => (e.1, f (rankCore e.2)))
    let s := s.updCtx x (fun y => { y.coresFreed (cs.filter (fun c => !(cs.map f).contains c)) with
      groups := y.groups.map (fun q => if q.id = g.id then
        { q with cores := q.cores.map f, die := if y.fixedDie g.kid then q.die else target / 32 } else q)
      kernels := y.kernels.map (fun k => { k with used := k.used.map (fun u => (f u.1, u.2)) })
      domains := y.movedDomains f
      ranks := y.ranks.map (fun e => (e.1, if moved e.2 then mkRank s.devNum (f (rankCore e.2)) else e.2))
      park := none })
    let s := (s.renameSrc x f).renameOut f
    let s := ranks.foldl (fun s r => s.releaseRank x r.1 s.devNum r.2) s
    let s := old.foldl (fun s p =>
      (kept.filter (fun m => m.2.holder.core == p.1 && p.2.keepsMerge m.1 m.2)).foldl (fun s m => s.reopenMerge (f p.1) m) s) s
    let s := cs.foldl (fun s c => s.spillAll (f c)) s
    s.parkReply why

/-! Lines and limits (R14, R16, R258, R260). -/

/-- A core's pre-empt line asserts: its live threads sample CHKMAX, and the latches are set (R258). -/
def State.assertLine (s : State) (c : Nat) (hard : Bool) : State :=
  (s.updCore c (fun k =>
    { k.mapThreads (fun t => if t.state.live then { t with chkSample := (t.csr 0x051).setWidth 32 } else t) with
      line := true, hardNow := hard })).latchAll c
/-- A core whose park is hard at once: it was asked for, or a live thread sampled 0. -/
def State.hardAtOnce (s : State) (x c : Nat) : State :=
  let k := s.core c
  if s.serviceCore x ≠ some c ∧ (k.hardNow ∨ k.threads.any (fun p => p.2.state.live && p.2.chkSample == 0)) then s.hardPark c else s

/-- The lines of the moving group's cores assert, once the messages routed to them have landed (R263 steps 2 and 3). -/
def State.beginMove (s : State) (x : Nat) (why : ParkWhy) (g : Group) (target : Nat) : State :=
  let hard : Bool := match why with
    | .move _ _ _ b => b
    | _ => false
  let s := g.cores.foldl (fun s c => s.assertLine c hard) s
  let s := g.cores.foldl (fun s c => s.hardAtOnce x c) s
  if g.cores.all (fun c => (s.core c).still) then s.finishMove x why g target else s

/-- A park or a move goes on as far as it can: the service core's threads are never waited for (R260). -/
def State.parkProgress (s : State) (x : Nat) : State :=
  let y := s.ctx x
  match y.park with
  | none => s
  | some why =>
    if why.isMove && y.state == .active then
      (match y.moving with
       | none => s
       | some (gid, target) => match y.groups.find? (fun g => g.id == gid) with
         | none => (s.updCtx x (fun y => { y with park := none })).parkReply why
         | some g =>
           if g.cores.any (fun c => !(s.core c).line) then (if s.groupFlying x g.cores then s else s.beginMove x why g target)
           else if g.cores.all (fun c => (s.core c).still) then s.finishMove x why g target else s)
    else if y.state == .failed || why.isTeardown then s.finishPark x why
    else if (s.paddockCores x).all (fun c => (s.core c).still || s.serviceCore x == some c) then s.finishPark x why
    else s

/-- A pre-emption or a teardown begins: the lines of every core of the paddock assert together (R16, R260). -/
def State.beginPark (s : State) (x : Nat) (why : ParkWhy) (hard : Bool) : State :=
  let s := s.updCtx x (fun y => { y with park := some why })
  let s := { s with paddocks := s.paddocks.map (fun (p : Paddock) =>
    if p.ctx = x ∧ p.state = PadState.occupied then { p with state := PadState.parking } else p) }
  let cs := s.paddockCores x
  let s := cs.foldl (fun s c => s.assertLine c hard) s
  (cs.foldl (fun s c => s.hardAtOnce x c) s).parkProgress x

/-- A thread that is live when its CHKMAX has passed: its core is pre-empted hard (R260). -/
def execChkmaxExpiry (core slot : Nat) (s : State) : Out :=
  let k := s.core core
  let x := s.coreCtx core
  .next (
    if k.line ∧ s.serviceCore x ≠ some core ∧ (k.thread slot).state.running then (s.hardPark core).parkProgress x else s)

/-! Resuming (R255, R262). -/

/-- The supervisor starts in slot 0 of the service core (R255). -/
def State.startSupervisor (s : State) (x : Nat) : State :=
  match s.serviceCore x with
  | none => s
  | some c =>
    let y := s.ctx x
    let t : Thread := { Thread.reset with
      state := .ready
      ctx := x
      pc := y.entry
      gregs := [(1, y.g1)]
      csrs := [(0, 1), (0x021, y.wbase &&& ~~~7#64), (0x022, y.wlimit &&& ~~~7#64)]
      born := (s.core c).serial }
    s.updCore c (fun k => k.setThread 0 t)

/-- A core's new place by the matched clusters. -/
def rehomeCore (old new : List Nat) (c : Nat) : Nat :=
  match old.findIdx? (fun cl => cl == clusterOf c) with
  | some i => 16 * new.getD i (clusterOf c) + coreIdOf c
  | none => c

/-- Restore a parked context onto a paddock: every core, the ranks, the held messages, the merges (R262). -/
def State.restoreCtx (s : State) (x p : Nat) : State :=
  let old := s.clustersOf x
  let new := ((s.paddocks[p]?).map (·.clusters)).getD []
  let f := rehomeCore old new
  let data := (s.ctx x).saved
  let s := { s with paddocks := s.paddocks.mapIdx (fun i (q : Paddock) =>
    if i = p then { q with state := PadState.occupied, ctx := x } else q) }
  let here (e : Word) : Bool := rankV e && rankDev e == s.devNum
  let ranks := ((s.ctx x).ranks.filter (fun e => here e.2)).map (fun e => (e.1, f (rankCore e.2)))
  let s := s.updCtx x (fun y => { y with
    state := .active
    paddock := some p
    clusters := new
    saved := []
    groups := y.groups.map (fun g => { g with cores := g.cores.map f })
    reserve := y.reserve.map (fun r => (r.1, r.2.map f))
    kernels := y.kernels.map (fun k => { k with used := k.used.map (fun u => (f u.1, u.2)) })
    domains := y.domains.map (fun d =>
      { d with key := (d.key.1, d.key.2.1, d.key.2.2.1,
          if d.key.2.1 = 0 then f (d.key.2.2.2 / 16) * 16 + d.key.2.2.2 % 16
          else if d.key.2.1 = 1 then f d.key.2.2.2
          else if d.key.2.1 = 2 ∧ 2 ^ 32 ≤ d.key.2.2.2 then 2 ^ 32 + f (d.key.2.2.2 - 2 ^ 32)
          else if d.key.2.1 = 3 then clusterOf (f (16 * d.key.2.2.2)) else d.key.2.2.2) })
    ranks := y.ranks.map (fun e => (e.1, if here e.2 then mkRank s.devNum (f (rankCore e.2)) else e.2)) })
  if data.isEmpty then (ranks.foldl (fun s r => s.releaseRank x r.1 s.devNum r.2) s).startSupervisor x
  else
    let place (d : Saved) : Nat := 16 * new.getD d.cluster 0 + d.core
    let s := data.foldl (fun s d => s.updCore (place d) (fun k => k.restored d.data f)) s
    let s := s.renameSrc x f
    let s := ranks.foldl (fun s r => s.releaseRank x r.1 s.devNum r.2) s
    let s := data.foldl (fun s d => d.merges.foldl (fun s m => s.reopenMerge (place d) m) s) s
    let s := data.foldl (fun s d => s.spillAll (place d)) s
    let s := (s.ctx x).kernels.foldl (fun (s : State) (k : Kernel) => s.runTodo x k.kid 16) s
    match s.serviceCore x with
    | some c => s.flushEvents x c
    | none => s

end Sys2Proof.Machine
end

