-- ==== Sys2Proof/Machine/Control.lean ====
section
/-! DEFINITION. Branches, jumps, calls and returns with window spill and fill, and the system instructions
(R67-R69, R75-R78, R81-R87). -/

namespace Sys2Proof.Machine

open Sys2Proof

/-! Branches (R75, R76, R77). -/

/-- Retire and go on at `target`. -/
def State.jumpTo (s : State) (target : Word) : State := s.retire.updMe (fun t => { t with pc := target })

/-- Go to pc + sext(off15) x 4 where the condition holds, and otherwise behind the branch (R75). -/
def State.branch (s : State) (c : Bool) (off : BitVec 15) : Out :=
  .next (s.jumpTo (if c then targetB s.me.pc off else s.me.pc + 4))

def execBeq (a b : Reg) (off : BitVec 15) (s : State) : Out := s.branch (s.reg a == s.reg b) off
def execBne (a b : Reg) (off : BitVec 15) (s : State) : Out := s.branch (s.reg a != s.reg b) off
def execBlt (a b : Reg) (off : BitVec 15) (s : State) : Out := s.branch ((s.reg a).slt (s.reg b)) off
def execBge (a b : Reg) (off : BitVec 15) (s : State) : Out := s.branch (!(s.reg a).slt (s.reg b)) off
def execBltu (a b : Reg) (off : BitVec 15) (s : State) : Out := s.branch ((s.reg a).ult (s.reg b)) off
def execBgeu (a b : Reg) (off : BitVec 15) (s : State) : Out := s.branch (!(s.reg a).ult (s.reg b)) off
def execBmany (m : MaskCode) (off : BitVec 15) (s : State) : Out := s.branch (s.mask m != 0) off
def execBmnone (m : MaskCode) (off : BitVec 15) (s : State) : Out := s.branch (s.mask m == 0) off
def execBmall (m : MaskCode) (off : BitVec 15) (s : State) : Out := s.branch (s.mask m == 0xFFFF) off
def execJmp (off : BitVec 25) (s : State) : Out := .next (s.jumpTo (targetJ s.me.pc off))

/-! Register windows (R67-R69). -/

/-- A jump target that is no word address of global memory (R78). -/
def badTarget (a : Word) : Bool := bits a 1 0 != 0 || bits a 63 56 != 0

def Thread.conv (t : Thread) : Word := t.csr 0x020
def Thread.wbase (t : Thread) : Word := t.csr 0x021
def Thread.wlimit (t : Thread) : Word := t.csr 0x022

/-- Mark w0-w23 of the current window dead by 24 bits of CONV from bit `lo` (R67). -/
def Thread.markConv (t : Thread) (lo : Nat) : Thread :=
  (List.range 24).foldl (fun t n => if t.conv.getLsbD (lo + n) then t.markDead n else t) t

/-- The dead mask of the oldest frame: bit `n` for w `n` (R68). -/
def Thread.oldestDead (t : Thread) : BitVec 16 :=
  lanes.foldr (fun n (acc : BitVec 16) => (acc <<< 1) ||| (if t.dead.getLsbD (oldestPhys t.wptr n) then 1 else 0)) 0

/-- The dwords a spill writes: offset in the record and value (R68). -/
def Thread.spillWrites (t : Thread) : List (Nat × Word) :=
  (0, t.oldestDead.setWidth 64) ::
    (lanes.filter (fun n => !t.oldestDead.getLsbD n)).map (fun n => (8 + 8 * n, t.phys.get 0 (oldestPhys t.wptr n)))

/-- Check dwords of a frame record: the first trap in address order, else a page to be held on, else their places. -/
def State.checkDwords (s : State) (nb : Word) (offs : List Nat) (k : Access) : Checked × List Place :=
  let cs := offs.map (fun o => s.check s.cur (nb + BitVec.ofNat 64 o) 8 8 k)
  match cs.find? (fun c => match c with | .trap _ _ => true | _ => false) with
  | some c => (c, [])
  | none =>
    if cs.contains .miss then (.miss, [])
    else (.ok (.loc 0), cs.filterMap (fun c => match c with | .ok p => some p | _ => none))

/-- The first dword of a record whose page is not translated (R68). -/
def State.recordMiss (s : State) (nb : Word) (k : Access) : Option Word :=
  ((List.range 17).map (fun i => nb + BitVec.ofNat 64 (8 * i))).find? (fun ea =>
    addrClass ea == .global && s.translate (clusterOf s.cur.core) s.me.ctx ea k (!s.me.sup) == .miss)

/-- SpillOldest, then `go`; traps and holds leave all as it was (R68). -/
def State.spillOldest (s : State) (i : Instr) (go : State → State) : State :=
  let t := s.me
  let nb := t.wbase - 136
  let ws := t.spillWrites
  if nb.ult t.wlimit ∨ t.spilled = 65535 then s.trap 11 nb
  else
    match s.checkDwords nb (ws.map (·.1)) .write with
    | (.trap c v, _) => s.trap c v
    | (_, places) =>
      match s.recordMiss nb .write with
      | some ea => s.holdOnPage ea .write
      | none =>
        if s.storeFull s.cur then s.wait .storeBuffer i
        else
          let s := ws.foldl (fun s w => s.dirty (nb + BitVec.ofNat 64 w.1)) s
          let s := s.pushStore s.cur (places.zip (ws.map (fun w => wordBytes w.2))) none
          let s := s.updMe (fun t =>
            { t.setCsr 0x021 nb with spilled := t.spilled + 1, resident := t.resident - 1 })
          go ((s.hpm s.cur.core 0x06 1).hpm s.cur.core 0x08 (17 - ws.length))

/-- The window moves to the callee's, its w7 is the link, and control goes to the target (R67). -/
def Thread.enter (t : Thread) (link target : Word) : Thread :=
  let t := { t with wptr := (t.wptr + 16) % 88, resident := t.resident + 1 }
  { t.setReg 15 link with pc := target }

/-- CALL and CALLR (R67): the CONV marks come about with the call, so that a trap leaves all unchanged. -/
def State.callTo (s : State) (target : Word) (i : Instr) : State :=
  let link := s.me.pc + 4
  let fin (s : State) : State := (s.retire.updMe (fun t => (t.markConv 0).enter link target))
  if s.me.resident = 5 then s.spillOldest i fin else fin s

def execCall (off : BitVec 25) (s : State) : Out := .next (s.callTo (targetJ s.me.pc off) (.call off))
def execJr (a : Reg) (s : State) : Out :=
  .next (if badTarget (s.reg a) then s.trap 2 (s.reg a) else s.jumpTo (s.reg a))
def execCallr (a : Reg) (s : State) : Out :=
  .next (if badTarget (s.reg a) then s.trap 2 (s.reg a) else s.callTo (s.reg a) (.callr a))

/-- The window moves back to the caller's, a frame of which is resident or has been filled (R67). -/
def Thread.leave (t : Thread) (link : Word) : Thread :=
  { ({ t with wptr := (t.wptr + 72) % 88, resident := max 1 (t.resident - 1) }.markConv 24) with pc := link }

/-- The frame below the current one as a record gives it: bit n of the mask marks w n dead (R69). -/
def Thread.fillFrame (t : Thread) (mask : Word) (vals : List (Nat × Word)) : Thread :=
  let base := t.wptr + 72
  let t := { t with points := t.points.filter (fun q => !(lanes.map (fun n => Pend.reg (8 + (base + n) % 88))).contains q.1) }
  let t := lanes.foldl (fun t n => { t with dead := if mask.getLsbD n then t.dead ||| (1#88 <<< ((base + n) % 88))
    else t.dead &&& ~~~(1#88 <<< ((base + n) % 88)) }) t
  vals.foldl (fun t v => { t with phys := t.phys.set ((base + v.1) % 88) v.2 }) t

/-- The first of some dwords of a record, in address order, that traps or whose page is not translated, with what its check says. -/
def State.fillStop (s : State) (nb : Word) (offs : List Nat) (k : Access) : Option (Word × Checked) :=
  (offs.map (fun o => (nb + BitVec.ofNat 64 o, s.check s.cur (nb + BitVec.ofNat 64 o) 8 8 k))).find? (fun c =>
    match c.2 with | .ok _ => false | _ => true)

/-- The loads of a fill: each dword by the thread's load rules (R69). -/
def State.fillLoads (s : State) (nb : Word) (offs : List Nat) (places : List Place) : List Word × State :=
  (offs.zip places).foldl (fun (acc : List Word × State) (op : Nat × Place) =>
    let r := acc.2.loadChecked acc.2.cur (nb + BitVec.ofNat 64 op.1) op.2 8
    (acc.1 ++ [dwordAt r.1 0], r.2)) ([], s)

/-- FillOne at WBASE, then the return (R69). -/
def State.fillReturn (s : State) (link : Word) : State :=
  let nb := s.me.wbase
  match s.checkDwords nb [0] .read with
  | (.trap c v, _) => s.trap c v
  | (.miss, _) => s.holdOnPage nb .read
  | (.ok _, ps) =>
    let r := s.fillLoads nb [0] ps
    let mask := r.1.headD 0
    let ns := lanes.filter (fun n => !mask.getLsbD n)
    let offs := ns.map (fun n => 8 + 8 * n)
    match s.checkDwords nb offs .read with
    | (.ok _, qs) =>
      let q := r.2.fillLoads nb offs qs
      let s := q.2.retire.updMe (fun t =>
        ({ (t.fillFrame mask (ns.zip q.1)).setCsr 0x021 (nb + 136) with spilled := t.spilled - 1 }).leave link)
      s.hpm s.cur.core 0x07 1
    | _ =>
      (match s.fillStop nb offs .read with
       | some (_, .trap c v) => s.trap c v
       | some (ea, _) => s.holdOnPage ea .read
       | none => s)

/-- EXIT of the current thread (R84). -/
def State.exitWith (s : State) (v : Word) : State := s.retire.endThread s.cur v

/-- RET (R67, R78): the end of the thread at call depth 0, else a return, with a fill when no frame is resident. -/
def execRet (s : State) : Out :=
  let t := s.me
  let link := t.reg 15
  .next (
    if t.spilled = 0 ∧ t.resident = 1 then s.exitWith 0
    else if badTarget link then s.trap 2 link
    else if t.resident ≤ 1 then s.fillReturn link
    else s.retire.updMe (·.leave link))

/-! System instructions (R82-R87). -/

def execTrap (a : Reg) (s : State) : Out := .next (s.trap 15 (s.reg a))
def execBrk (s : State) : Out := .next (s.trap 14 0)
def execEret (s : State) : Out := .next (s.retire.updMe Thread.eret)
def execExit (a : Reg) (s : State) : Out := .next (s.exitWith (s.reg a))

/-- The slots that are READY, less one. -/
def Core.readyOthers (k : Core) (slot : Nat) : BitVec 11 :=
  slots.foldr (fun n (acc : BitVec 11) =>
    (acc <<< 1) ||| (if n ≠ slot ∧ (k.thread n).state = .ready then 1 else 0)) 0

/-- YIELD: the core passes the thread over until each thread READY now has issued once; in a hitch the leader alone. The
latches of the core's other threads are set (R83, R85). -/
def execYield (s : State) : Out :=
  let follower := match s.me.hitch with
    | none => false
    | some h => h.leader != coreIdOf s.cur.core
  let m := if follower then 0 else s.myCore.readyOthers s.cur.slot
  .next ((s.advance.updMe (fun t => { t with yieldMask := m })).latchOthers s.cur)

/-- WFE goes on with a set latch, which it clears, and waits for it otherwise (R85). -/
def execWfe (s : State) : Out :=
  .next (if s.me.latch then s.advance.updMe (fun t => { t with latch := false }) else s.wait .latch .wfe)

/-- IPF changes no state a program can see (R87). -/
def execIpf (_a : Reg) (s : State) : Out := .next s.advance

/-- A word that is no instruction (R47): ILLEGAL with TVAL the word. -/
def execIllegal (w : W32) (s : State) : Out := .next (s.trap 1 (w.setWidth 64))

end Sys2Proof.Machine
end

