-- ==== Sys2Proof/Machine/Csr.lean ====
section
/-! DEFINITION. CSR instructions (R28, R30, R31, R55, R56, R70, R79, R80, R118, R211, R343): one shared operation; the CSR
rows of the table of operations are this operation on the CSR they name. -/

namespace Sys2Proof.Machine

open Sys2Proof

/-- CSRs marked S: PRIV on any user-mode access (R55). -/
def csrSup (n : Nat) : Bool := n == 0x012 || n == 0x051 || (0x090 ≤ n && n ≤ 0x09F)
/-- RO registers: writes are ignored (R55). -/
def csrRo (n : Nat) : Bool :=
  n == 0x023 || n == 0x034 || n == 0x041 || n == 0x052 || (0x080 ≤ n && n ≤ 0x082) || (0x0A0 ≤ n && n ≤ 0x0A3)
    || n == 0x0D0 || (0x0F0 ≤ n && n ≤ 0x0F3) || n == 0x012
/-- CSRs that the core holds (Table 4-6). -/
def csrOfCore (n : Nat) : Bool := (0x070 ≤ n && n ≤ 0x07F) || (0x090 ≤ n && n ≤ 0x09F) || (0x120 ≤ n && n ≤ 0x12F)

/-- The bits of a CSR that a write reaches; the others are reserved or RO. -/
def csrMask (n : Nat) : Word :=
  if n = 0x000 then 0x6
  else if n = 0x001 then 0x3F
  else if n = 0x002 ∨ n = 0x004 then 0xFFFFFFFFFFFFFFFC
  else if n = 0x010 then 0x7
  else if n = 0x011 then 0x1F
  else if n = 0x020 then 0xFFFFFFFFFFFF
  else if n = 0x021 ∨ n = 0x022 then 0xFFFFFFFFFFFFFFF8
  else if n = 0x030 then 0x1FFF
  else if n = 0x033 then 0x1FFFFFFFF
  else if n = 0x035 then 0x1
  else if n = 0x040 then 0xFFFFFF07
  else if n = 0x050 ∨ n = 0x051 then 0xFFFFFFFF
  else if 0x070 ≤ n ∧ n ≤ 0x077 then 0xFF
  else if 0x078 ≤ n ∧ n ≤ 0x07F then 0xFFFFFFFFFFFF
  else if 0x090 ≤ n ∧ n ≤ 0x09F then (if n % 2 = 0 then 0xFFFFFFFFFFFFFFCF else 0xFFFFFFFFFFFFFFC0)
  else if n = 0x0C0 then 0xFFFFFFFFFFFFFFE0
  else if n = 0x0C1 then 0xF
  else if n = 0x0C2 then 0x3
  else if n = 0x102 ∨ n = 0x103 then 0xFFFFFFFF
  else if n = 0x106 then 0x17
  else if n = 0x107 then 0x7
  else if 0x120 ≤ n ∧ n ≤ 0x12F then
    (if n % 4 = 1 then 0xFFFFFFFFFFFFFFFC else if n % 4 = 2 then 0xFFFFFFFF else if n % 4 = 3 then 0xF else 0xFFFFFFFFFFFFFFFF)
  else 0xFFFFFFFFFFFFFFFF

/-- WDEPTH (Table 5-4). -/
def Thread.wdepth (t : Thread) : Word := BitVec.ofNat 64 (t.resident * 65536 + t.spilled % 65536)

/-- Event codes whose counts are cycles or cache misses, which depend on timing alone (Table 21-3): a counter of one of them
has grown by a free amount when it is read and when its selection is rewritten (log entry 9). -/
def hpmTiming (code : Nat) : Bool :=
  code == 0x01 || code == 0x03 || code == 0x04 || code == 0x05 || code == 0x09 || code == 0x0B || code == 0x0C
    || code == 0x16 || code == 0x19

/-- The value a CSR reads as, and the state after the read: clocks have moved on, CFLAGS is cleared (R12, R31, R80, R135,
R204, R258). -/
def State.csrRead (s : State) (n : Nat) : Word × State :=
  let t := s.cur
  if n = 0x012 then
    let c := clusterOf t.core
    ((s.cluster c).cflags.setWidth 64, s.updCluster c (fun k => { k with cflags := 0 }))
  else if n = 0x023 then (s.me.wdepth, s)
  else if n = 0x041 then (s.rankOf s.me.ctx t.core, s)
  else if n = 0x052 then (ofBool s.myCore.line, s)
  else if n = 0x080 then
    let v := s.myCore.cycle + Config.elapsedCycles s.freeCount
    (v, s.fresh.updMyCore (fun k => { k with cycle := v }))
  else if n = 0x082 then s.readTime
  else if n = 0x0A0 then (BitVec.ofNat 64 (coreIdOf t.core), s)
  else if n = 0x0A1 then (BitVec.ofNat 64 t.slot, s)
  else if n = 0x0A2 then (BitVec.ofNat 64 (clusterOf t.core), s)
  else if n = 0x0A3 then (BitVec.ofNat 64 (dieOf t.core), s)
  else if n = 0x0D0 then
    let v := Config.wsPhase s.freeCount
    (v.setWidth 64, s.fresh.updDie (dieOf t.core) (fun d => { d with wsPhase := v }))
  else if 0x078 ≤ n ∧ n ≤ 0x07F ∧ hpmTiming (s.myCore.csr (n - 8)).toNat then
    let v := (s.myCore.csr n + Config.elapsedCycles s.freeCount) &&& 0xFFFFFFFFFFFF
    (v, s.fresh.updMyCore (·.setCsr n v))
  else if csrOfCore n then (s.myCore.csr n, s)
  else (s.me.csr n, s)
where
  ofBool (b : Bool) : Word := if b then 1 else 0

/-- MFMT: afmt and bfmt in one class, out 0 to 6 (R118). -/
def mfmtOk (v : Word) : Bool :=
  let a := bits v 3 0
  let b := bits v 7 4
  let half (x : Nat) := x == 1 || x == 2
  let f8 (x : Nat) := x == 3 || x == 4 || x == 7
  ((half a && half b) || (f8 a && f8 b) || (a == 5 && b == 5)) && bits v 11 8 ≤ 6

/-- A write of value `v` reaches CSR `n`: the reserved and RO bits keep theirs, and the rules of the CSR decide. -/
def State.csrWrite (s : State) (n : Nat) (v : Word) : State :=
  let m := csrMask n
  let old := if csrOfCore n then s.myCore.csr n else s.me.csr n
  let new := (old &&& ~~~m) ||| (v &&& m)
  if csrRo n then s
  else if 0x070 ≤ n ∧ n ≤ 0x077 ∧ hpmTiming (s.myCore.csr n).toNat then
    let grown := (s.myCore.csr (n + 8) + Config.elapsedCycles s.freeCount) &&& 0xFFFFFFFFFFFF
    s.fresh.updMyCore (fun k => (k.setCsr (n + 8) grown).setCsr n new)
  else if csrOfCore n then s.updMyCore (·.setCsr n new)
  else if n = 0x011 then
    let up := new.setWidth 5 &&& ~~~(old.setWidth 5)
    (s.updMe (·.setCsr n new)).updCluster (clusterOf s.cur.core) (fun c => { c with onTheWay := c.onTheWay ||| up })
  else if n = 0x030 then (if mfmtOk new then s.updMe (·.setCsr n new) else s)
  else if n = 0x040 then
    (if s.domainWritable s.cur new && new != old then s.updMe (fun t => { t.setCsr n new with arrival := none }) else s)
  else s.updMe (·.setCsr n new)

/-- What the k code makes of the old value: the value written, or none for a form that only reads (R79). -/
def csrNew (op : CsrOp) (a : BitVec 5) (src old : Word) : Option Word :=
  match op with
  | .r => none
  | .w => some src
  | .s => if a = 0 then none else some (old ||| src)
  | .c => if a = 0 then none else some (old &&& ~~~src)
  | .wi => some (a.setWidth 64)

/-- A user-mode write that would change STATUS.PSUP (R55). -/
def State.statusPriv (s : State) (n : Nat) (new : Option Word) : Bool :=
  match new with
  | none => false
  | some v => n == 0 && !s.me.sup && v.getLsbD 1 != (s.me.csr 0).getLsbD 1

/-- A CSR instruction (R79): the checks ILLEGAL, PRIV, then FRM's own ILLEGAL; d := old; the write,
which counts and selects from the next instruction on (R56; log entry 22). The word is that of the
instruction as it was fetched. -/
def State.csrOp (s : State) (op : CsrOp) (d : Reg) (a : BitVec 5) (csr : CsrNum) : Out :=
  let n := csr.toNat
  let word : W32 := match op with
    | .r => wordOf (.csrr d csr)
    | .w => wordOf (.csrw d a csr)
    | .s => wordOf (.csrs d a csr)
    | .c => wordOf (.csrc d a csr)
    | .wi => wordOf (.csrwi d a csr)
  if csrSup n ∧ ¬ s.me.sup then .next (s.trap 16 (word.setWidth 64))
  else
    let r := s.csrRead n
    let new := csrNew op a (s.reg a) r.1
    if s.statusPriv n new then .next (s.trap 16 (word.setWidth 64))
    else match new with
      | none => .next (r.2.put d r.1)
      | some v =>
        if n = 0x010 ∧ 5 ≤ bits v 2 0 then .next (s.trap 1 (word.setWidth 64))
        else .next ((r.2.put d r.1).csrWrite n v)

def execCsrr (d : Reg) (csr : CsrNum) (s : State) : Out := s.csrOp .r d 0 csr
def execCsrw (d a : Reg) (csr : CsrNum) (s : State) : Out := s.csrOp .w d a csr
def execCsrs (d a : Reg) (csr : CsrNum) (s : State) : Out := s.csrOp .s d a csr
def execCsrc (d a : Reg) (csr : CsrNum) (s : State) : Out := s.csrOp .c d a csr
def execCsrwi (d : Reg) (imm : BitVec 5) (csr : CsrNum) (s : State) : Out := s.csrOp .wi d imm csr

def State.csrForm (s : State) (f : CsrForm) (csr : CsrNum) : Out := s.csrOp f.op f.d f.a csr
def execCsrWriteFrm (f : CsrForm) (s : State) : Out := s.csrForm f 0x010
def execCsrAccessFflags (f : CsrForm) (s : State) : Out := s.csrForm f 0x011
def execCsrReadCflags (f : CsrForm) (s : State) : Out := s.csrForm f 0x012
def execCsrWriteStatus (f : CsrForm) (s : State) : Out := s.csrForm f 0x000
def execCsrWriteWindow (f : CsrForm) (limit : Bool) (s : State) : Out := s.csrForm f (if limit then 0x022 else 0x021)
def execCsrWriteMfmt (f : CsrForm) (s : State) : Out := s.csrForm f 0x030
def execCsrWriteMerr (f : CsrForm) (s : State) : Out := s.csrForm f 0x033
def execCsrWriteDomain (f : CsrForm) (s : State) : Out := s.csrForm f 0x040
def execCsrWriteHpmcnt (f : CsrForm) (n : BitVec 3) (s : State) : Out := s.csrForm f (0x078 + n.setWidth 12)
def execCsrWriteOther (f : CsrForm) (csr : CsrNum) (s : State) : Out := s.csrForm f csr

end Sys2Proof.Machine
end

