-- ==== Sys2Proof/Machine/Encode.lean ====
section
/-! DEFINITION. The encode engines (R19, R247, R248, R336). -/

namespace Sys2Proof.Machine

open Sys2Proof

/-- A frame record (Table 14-3) as eight dwords. -/
abbrev Frame := List Word
def Frame.w (f : Frame) (i : Nat) : Word := f.getD i 0
def Frame.luma (f : Frame) : Word := f.w 0
def Frame.chroma (f : Frame) : Word := f.w 1
def Frame.pitch (f : Frame) : Nat := bits (f.w 2) 47 32
def Frame.height (f : Frame) : Nat := bits (f.w 2) 31 16
def Frame.width (f : Frame) : Nat := bits (f.w 2) 15 0
def Frame.codec (f : Frame) : Nat := bits (f.w 3) 7 4
def Frame.fmt (f : Frame) : Nat := bits (f.w 3) 3 0
def Frame.rc (f : Frame) : Nat := bits (f.w 3) 11 8
def Frame.qp (f : Frame) : Nat := bits (f.w 3) 31 24
def Frame.endpoint (f : Frame) : Nat := bits (f.w 4) 15 0
def Frame.seq (f : Frame) : Word := f.w 5
def Frame.done (f : Frame) : Word := f.w 7
/-- Bytes of a row of both planes: one or two a sample. -/
def Frame.rowBytes (f : Frame) : Nat := f.width * (f.fmt + 1)

def planeOk (a : Word) (n : Nat) : Bool := a.toNat % 64 == 0 && a.toNat + n ≤ 2 ^ 56
def doneOk (a : Word) : Bool := a.toNat % 8 == 0 && a.toNat < 2 ^ 56

/-- Every field lies inside Table 14-3. -/
def Frame.fieldsOk (f : Frame) : Bool :=
  planeOk f.luma (f.pitch * f.height) && planeOk f.chroma (f.pitch * (f.height / 2))
    && bits (f.w 2) 63 48 == 0 && f.pitch % 64 == 0
    && 64 ≤ f.height && f.height ≤ 2304 && f.height % 2 == 0 && 64 ≤ f.width && f.width ≤ 4096 && f.width % 2 == 0
    && bits (f.w 3) 23 12 == 0 && f.rc ≤ 2 && f.codec ≤ 2 && f.fmt ≤ 1
    && (f.rc != 0 || f.codec == 0 || f.qp ≤ 51)
    && bits (f.w 4) 63 16 == 0 && bits (f.w 6) 63 2 == 0 && doneOk f.done
/-- The engine refuses the record (R248). -/
def Frame.refused (f : Frame) (e : Encoder) : Bool :=
  !f.fieldsOk || (f.fmt == 1 && f.codec == 1) || (f.fmt == 0 && f.codec == 2) || f.pitch < f.rowBytes
    || !e.binds.any (fun b => b.1 == f.endpoint)

/-- The surface's pieces, row by row: what the engine reads. -/
def Frame.reads (f : Frame) : List (Word × Nat) :=
  let rows (a : Word) (n : Nat) : List (Word × Nat) := (List.range n).flatMap (fun i =>
    pieces (a + BitVec.ofNat 64 (i * f.pitch)) f.rowBytes)
  rows f.luma f.height ++ rows f.chroma (f.height / 2)

/-- The encoder queue that an engine takes a record from: the lowest context and handle with one (log entry 5). -/
def State.encoderQueue (s : State) (eng : Nat) : Option (Nat × Nat × Queue) :=
  s.ctxs.findSome? (fun p =>
    if p.2.state = .active then
      (p.2.queues.find? (fun q => q.2.kind == .encoder && q.2.enc == eng && q.2.undealt != 0)).map (fun q => (p.1, q.1, q.2))
    else none)

def State.encoder (s : State) (n : Nat) : Encoder := s.encoders.get Encoder.reset n
def State.updEncoder (s : State) (n : Nat) (f : Encoder → Encoder) : State := { s with encoders := s.encoders.set n (f (s.encoder n)) }

/-- An engine's access of the context's pages, as slot 0 of the service core makes it (R184). The manual does not say which compute
die's NI translates and reports it: that of the queue's home die does (log entry 28). -/
def State.encTranslate (s : State) (x die : Nat) (va : Word) (k : Access) : Checked := s.translate (32 * die) x va k false
def State.encHold (s : State) (eng x die : Nat) (va : Word) (k : Access) : State :=
  match s.joinMiss die x va k false ⟨(s.serviceCore x).getD 0, 0⟩ (.encoder eng) with
  | none => s
  | some (e, s) => s.updEncoder eng (fun n => { n with held := some (die, e) })
/-- The record that an engine takes from a queue. -/
def State.frameRef (s : State) (x h : Nat) : FrameRef := ⟨x, h, ((s.ctx x).queue h).head⟩
/-- A read of a record got a fatal reply (R248). -/
def State.frameFailed (s : State) (eng x h : Nat) : Bool := (s.encoder eng).failed.contains (s.frameRef x h)
/-- The engine is held on a page while it reads a record's slot or surface. -/
def State.holdFrame (s : State) (eng x h die : Nat) (va : Word) : State :=
  (s.updEncoder eng (fun n => { n with record := s.frameRef x h })).encHold eng x die va .copyRead

/-- The record's slot is freed. -/
def State.freeFrame (s : State) (x h : Nat) : State :=
  s.updQueue x h (fun q => { q with
    head := (q.head + 1) % max 1 q.capacity, occupied := q.occupied - 1, undealt := q.undealt - 1 })

/-- The done write that is due: performed, or held on its page; one that got a fatal reply is given up (R247, R248). The manual names the
thread and the access of a page fault for an engine's reads only: the done write's is recorded as slot 0 of the service core with first
access 5, copy write (log entry 34). -/
def State.encOwed (s : State) (eng : Nat) : State :=
  match (s.encoder eng).owes with
  | none => s
  | some (x, die, va, v) =>
    let paid (s : State) : State := s.updEncoder eng (fun n => { n with owes := none, doneFails := false })
    if (s.encoder eng).doneFails then paid s
    else if (s.ctx x).state ≠ .active then s
    else match s.encTranslate x die va .copyWrite with
      | .miss => s.encHold eng x die va .copyWrite
      | .trap _ _ => paid s
      | .ok p => paid (s.sentBy none 0 ((s.dirtyAt (32 * die) x va).writeAt (512 * die) p (wordBytes v)))
/-- A done write comes to be due, where the record names an address. -/
def State.oweDone (s : State) (eng x die : Nat) (done v : Word) : State :=
  if done = 0 ∨ doneOk done = false then s
  else (s.updEncoder eng (fun n => { n with owes := some (x, die, done, v) })).encOwed eng

/-- A refused record: the handle is reported, the slot is freed, and done is to read all ones (R248). -/
def State.refuseFrame (s : State) (eng x h die : Nat) (done : Word) : State :=
  let r := s.frameRef x h
  (((s.freeFrame x h).updEncoder eng (fun n => { n with failed := n.failed.filter (· != r) })).ioEvent (eng / 4) false 8 (BitVec.ofNat 64 h)
    (BitVec.ofNat 64 eng)).oweDone eng x die done (BitVec.allOnes 64)

/-- The connection and the front port that an endpoint of an engine is bound to (R336). -/
def State.boundTo (s : State) (eng endpoint : Nat) : Nat × Nat :=
  let c := (((s.encoder eng).binds.find? (fun b => b.1 == endpoint)).map (·.2)).getD 0
  (c, ((s.uetConn c).map (·.port)).getD (2 * (eng / 4)))
/-- The entropy value of a message's packets: one for an ordered connection, a varying one for an unordered (R331). -/
def State.entropyOf (s : State) (conn : Nat) : Nat :=
  if (s.uetConn conn).all (·.rod) then Config.entropy conn else Config.entropy (8192 + s.freeCount)
/-- The message of an encoded frame (R336). -/
def State.streamOf (s : State) (eng : Nat) (f : Frame) (bs : List Byte) : Stream :=
  let b := s.boundTo eng f.endpoint
  let w1 : Word := BitVec.ofNat 64 (f.codec * 2 ^ 32 + bs.length % 2 ^ 32)
  let w2 : Word := BitVec.ofNat 64 (bits (f.w 6) 1 0)
  ⟨b.2, b.1, s.entropyOf b.1, f.seq, w1, w2, bs,
    s.framed b.1 s.freeCount (wordBytes f.seq ++ wordBytes w1 ++ wordBytes w2 ++ leBytes 8 0 ++ bs)⟩

/-- One frame of a record: the surface is read and the stream sent, the slot is freed, then the done write is made (R247, R336). -/
def State.encodeFrame (s : State) (eng x h die : Nat) (f : Frame) : State :=
  if s.frameFailed eng x h || f.refused (s.encoder eng) then s.refuseFrame eng x h die f.done
  else
    let cs := f.reads.map (fun a => (a.1, a.2, s.encTranslate x die a.1 .copyRead))
    match cs.find? (fun a => match a.2.2 with | .ok _ => false | _ => true) with
    | some a => s.holdFrame eng x h die a.1
    | none =>
      let s := s.sentBy none 0 (s.readBy (512 * die) (cs.filterMap (fun a => match a.2.2 with | .ok p => some (p, a.2.1) | _ => none)))
      let m := s.streamOf eng f (Config.bitstream s.freeCount)
      ((s.fresh.updEncoder eng (fun n => { n with sent := n.sent ++ [m] })).freeFrame x h).oweDone eng x die f.done f.seq

def execEncodeFrame (eng : Nat) (s : State) : Out :=
  .next (
    if (s.encoder eng).held.isSome then s
    else if (s.encoder eng).owes.isSome then s.encOwed eng
    else match s.encoderQueue eng with
      | none => s
      | some (x, h, q) =>
        let a := q.base + BitVec.ofNat 64 (64 * q.head)
        match s.encTranslate x q.home a .copyRead with
        | .miss => if s.frameFailed eng x h then s.refuseFrame eng x h q.home 0 else s.holdFrame eng x h q.home a
        | .trap _ _ => s
        | .ok p => (s.sentBy none 0 (s.readBy (512 * q.home) [(p, 64)])).encodeFrame eng x h q.home (dwordsOf (s.engineBytes (512 * q.home) p 64)))

end Sys2Proof.Machine
end

