-- ==== Sys2Proof/Machine/Typoro.lean ====
section
/-! DEFINITION. What the Typoro commands that act on contexts, memory, queues and kernels do when they are carried out
(R15, R234, R239, R253-R263, R334). -/

namespace Sys2Proof.Machine

open Sys2Proof

/-! What a command that the firmware carries out asks of the device or its context (R254, R332, R334). -/

/-- A command that names a context: contexts are 0 to 15, a FREE one is no context yet, and the context must admit the command
(R254, R332, R334). The statuses are log entry 15. -/
def State.ctxAdmit (s : State) (h : CmdHdr) (opcode : Nat) (admits : Ctx → Bool) (go : State) : State :=
  if 16 ≤ h.ctx then s.reply h opcode 1 []
  else if admits (s.ctx h.ctx) then go
  else s.reply h opcode (if (s.ctx h.ctx).state = .free then 4 else 2) []

/-- A device command names context 31 (Table 20-3; log entry 15). -/
def State.devAdmit (s : State) (h : CmdHdr) (opcode : Nat) (go : State) : State :=
  if h.ctx = 31 then go else s.reply h opcode 1 []

/-- Teardown is admitted in every state but FREE (Table 15-2). -/
def Ctx.notFree (x : Ctx) : Bool := x.state != .free
def Ctx.usable (x : Ctx) : Bool := x.state == .active || x.state == .parked
def Ctx.isActive (x : Ctx) : Bool := x.state == .active
def Ctx.isParked (x : Ctx) : Bool := x.state == .parked

/-! Contexts and paddocks (R253, R254, R260, R262, R263). -/

def State.doContextCreate (s : State) (h : CmdHdr) (c : CtxSpec) : State :=
  (s.ctxAdmit h 0x01 (fun x => x.state == .free) (
    match s.paddocks[c.paddock]? with
    | none => s.reply h 0x01 4 []
    | some p =>
      if bits c.root 12 0 ≠ 0 ∨ bits c.root 63 46 ≠ 0 ∨ bits c.entry 1 0 ≠ 0 ∨ bits c.entry 63 56 ≠ 0 then s.reply h 0x01 1 []
      else if Config.saveAreaFits s.freeCount = false then s.fresh.reply h 0x01 3 []
      else
        let s := s.fresh
        let cores := p.clusters.flatMap (fun cl => (List.range 16).map (fun i => 16 * cl + i))
        let s := s.setCtx h.ctx { Ctx.reset with
          state := .parked
          root := c.root.toNat
          entry := c.entry
          g1 := c.g1
          wbase := c.wbase
          wlimit := c.wlimit
          clusters := p.clusters
          ranks := cores.zipIdx.map (fun q => (q.2, mkRank s.devNum q.1)) }
        let s := if p.state = PadState.empty then s.restoreCtx h.ctx c.paddock else s
        s.reply h 0x01 0 []))

def State.doTeardown (s : State) (h : CmdHdr) : State :=
  s.ctxAdmit h 0x02 Ctx.notFree (
    let x := s.ctx h.ctx
    if x.state = .active then s.beginPark h.ctx (.teardown h) true
    else if x.paddock.isSome then (s.updCtx h.ctx (fun y => { y with park := some (.teardown h) })).parkProgress h.ctx
    else (s.freeCtx h.ctx).reply h 0x02 0 [])

/-- Ascending order. -/
def insertNat (a : Nat) : List Nat → List Nat
  | [] => [a]
  | b :: rest => if a ≤ b then a :: b :: rest else b :: insertNat a rest
def sortNat (l : List Nat) : List Nat := l.foldr insertNat []

def State.doPaddockDefine (s : State) (h : CmdHdr) (sets : List (List Nat)) : State :=
  (s.devAdmit h 0x03 (
    let all := sets.flatten
    if s.paddocks.any (fun p => p.state != PadState.empty) then s.reply h 0x03 2 []
    else if sets.isEmpty ∨ 8 < sets.length ∨ sets.any (·.isEmpty) ∨ all.any (fun c => 128 ≤ c) ∨ all.eraseDups.length ≠ all.length then
      s.reply h 0x03 1 []
    else if all.any (fun c => !(s.cluster c).available) then s.reply h 0x03 2 []
    else { s with paddocks := sets.map (fun cs => ⟨sortNat cs, PadState.empty, 0⟩) }.reply h 0x03 0 []))

def State.doPreempt (s : State) (h : CmdHdr) : State :=
  s.ctxAdmit h 0x24 Ctx.isActive (s.beginPark h.ctx (.preempt h) false)

/-- The paddock has the same number of clusters on each compute die (R262). -/
def fits (a b : List Nat) : Bool := (List.range 4).all (fun d => a.countP (fun c => c / 32 == d) == b.countP (fun c => c / 32 == d))

def State.doResume (s : State) (h : CmdHdr) (paddock : Nat) : State :=
  (s.ctxAdmit h 0x25 Ctx.isParked (
    match s.paddocks[paddock]? with
    | none => s.reply h 0x25 4 []
    | some p =>
      if p.state = PadState.empty ∧ fits (s.clustersOf h.ctx) p.clusters then (s.restoreCtx h.ctx paddock).reply h 0x25 0 []
      else s.reply h 0x25 2 []))

/-- Whether a live thread of a group forbids the move to a target cluster by its DOMAIN level (R263). -/
def State.levelForbids (s : State) (g : Group) (target : Nat) : Bool :=
  g.cores.any (fun c => slots.any (fun n =>
    let t := (s.core c).thread n
    t.state.live && ((t.level == 3 && target != clusterOf c) || (t.level == 4 && target / 32 != dieOf c))))

/-- The group of a context that a core belongs to. -/
def State.groupAt (s : State) (x core : Nat) : Option Group :=
  ((s.core core).group).bind (fun q => if q.1 = x then (s.ctx x).groups.find? (fun g => g.id == q.2) else none)

/-- A group move is accepted: the target cores are held, and the group's ranks are in transit from now on (R263 steps 1 and 2). -/
def State.doGroupMove (s : State) (h : CmdHdr) (w0 w1 : Word) : State :=
  let target := bits w0 22 16
  s.ctxAdmit h 0x26 Ctx.isActive (
    if w1 ≠ 0 ∨ bits w0 7 4 ≠ 0 ∨ w0.getLsbD 15 ∨ bits w0 30 23 ≠ 0 ∨ bits w0 63 32 ≠ 0 then s.reply h 0x26 1 []
    else match s.groupAt h.ctx (bits w0 14 8 * 16 + bits w0 3 0) with
      | none => s.reply h 0x26 2 []
      | some g =>
        if !(s.clustersOf h.ctx).contains target
            || g.cores.any (fun c => !(s.freeCores h.ctx target g.kid).contains (16 * target + coreIdOf c))
            || g.state == .retired || s.levelForbids g target then s.reply h 0x26 2 []
        else
          let s := s.updCtx h.ctx (fun y => { y with park := some (.move h g.id target (w0.getLsbD 31)) })
          (s.markGroupRanks h.ctx g.cores).parkProgress h.ctx)

/-! Memory commands (R15, R136). -/

/-- Page-table stores: physical address of an entry, and the entry (the payload's layout is log entry 13). -/
def State.storeEntry (s : State) (a : Nat) (v : Word) : State := s.writeAt ioCore (.hbm a) (wordBytes v)
def badEntry (e : Word × Word) : Bool := bits e.1 2 0 != 0 || bits e.1 63 46 != 0

def State.doMapMemory (s : State) (h : CmdHdr) (entries : List (Word × Word)) : State :=
  (s.ctxAdmit h 0x10 Ctx.usable (
    if entries.any badEntry then s.reply h 0x10 1 []
    else (entries.foldl (fun s e => s.storeEntry e.1.toNat e.2) s).reply h 0x10 0 []))

/-- An unmapping clears an entry and invalidates a virtual address of the context, as TLBINV does (R191). -/
def State.doUnmapMemory (s : State) (h : CmdHdr) (vas : List (Word × Word)) : State :=
  (s.ctxAdmit h 0x11 Ctx.usable (
    if vas.any badEntry then s.reply h 0x11 1 []
    else (vas.foldl (fun s e => ((s.storeEntry e.1.toNat 0).drainCtx h.ctx).invTlbs h.ctx e.2 false) s).reply h 0x11 0 []))

def Place.isWeight (p : Place) : Bool :=
  match p with
  | .weight _ => true
  | .loc _ => false
  | .hbm _ => false
  | .remote _ _ => false

/-- A command fails by a status of Table 20-5; a hardware fault posts its event, and the uncorrectable words of what was read are counted
(R334, R341). -/
def State.fails (s : State) (h : CmdHdr) (opcode status : Nat) (a : Word) (read : List (Place × Nat)) : State :=
  (if status = 6 then (s.countBad read).ioEvent 0 true 1 a 0 else s).reply h opcode status []

/-- A copy of the payload's bytes to the device. The whole copy is one step, so that every byte uses the translation taken at its
start, where the manual also allows a mapping that changes meanwhile (R15; log entry 28). -/
def State.doCopyToDevice (s : State) (h : CmdHdr) (va : Word) (bytes : List Byte) : State :=
  (s.ctxAdmit h 0x12 Ctx.usable (
    match s.hostSpan h.ctx va bytes.length .copyWrite with
    | none => s.reply h 0x12 4 []
    | some (ps, s') =>
      if 65536 < bytes.length then s.reply h 0x12 1 []
      else if ps.any (fun p => p.1.isWeight) ∧ ((s.ctx h.ctx).wsOpen = false ∨ (s.ctx h.ctx).kernelLive = true) then s.reply h 0x12 2 []
      else (s'.writeSpan ioCore ps bytes).reply h 0x12 0 []))

/-- A copy of a range to the host, in one step as the copy to the device is (R15; log entry 28). -/
def State.doCopyToHost (s : State) (h : CmdHdr) (va : Word) (len : Nat) : State :=
  (s.ctxAdmit h 0x13 Ctx.usable (
    match s.hostSpan h.ctx va len .copyRead with
    | none => s.reply h 0x13 4 []
    | some (ps, s') =>
      if 65536 < len then s.reply h 0x13 1 []
      else if ps.any (fun p => s.badAt ioCore p.1 p.2) then s.fails h 0x13 6 va ps
      else (s'.readBy ioCore ps).reply h 0x13 0 (s'.spanBytes ioCore ps)))

def State.doWsWindowOpen (s : State) (h : CmdHdr) : State :=
  (s.ctxAdmit h 0x40 (fun x => x.usable && !x.kernelLive) (
    (s.updCtx h.ctx (fun x => { x with wsOpen := true })).reply h 0x40 0 []))
def State.doWsWindowClose (s : State) (h : CmdHdr) : State :=
  (s.ctxAdmit h 0x41 Ctx.usable ( (s.updCtx h.ctx (fun x => { x with wsOpen := false })).reply h 0x41 0 []))

/-! Launches and queues (R234, R239, R240). -/

/-- A card and its outputs: a status where an address cannot be read, else the card where it keeps Table 13-1. -/
def State.hostCard (s : State) (x : Nat) (a : Word) : Except (Nat × List (Place × Nat)) (Option Card × State) :=
  match s.hostRead x a 64 with
  | .error e => .error e
  | .ok (bs, s) => match parseCard a bs with
    | none => .ok (none, s)
    | some (c, outs) =>
      if outs = 0 then .ok (some c, s) else s.hostOuts x c

def State.doLaunch (s : State) (h : CmdHdr) (card tcb : Word) : State :=
  (s.ctxAdmit h 0x20 (fun x => x.usable && !x.wsOpen) (
    let x := h.ctx
    let answer (s : State) (w : Word) : State := s.reply h 0x20 0 (wordBytes w)
    if misaligned64 card ∨ (tcb ≠ 0 ∧ misaligned64 tcb) then s.reply h 0x20 1 []
    else match s.hostCard x card with
      | .error e => s.fails h 0x20 e.1 card e.2
      | .ok (none, s1) => answer s1 (refusal 1)
      | .ok (some c, s1) =>
        let code := s.launchCode x c
        let kid := nextKid (s.ctx x).lastKid
        if code ≠ 0 then answer s1 (refusal code)
        else if tcb = 0 then answer (s1.addKernel x c 0 false none) (kid.setWidth 64)
        else match s1.hostRead x tcb 64 with
          | .error e => s1.fails h 0x20 e.1 tcb e.2
          | .ok (tb, s2) =>
            if tcbState tb ≠ 0 ∨ 5 < tcbNsucc tb then answer s2 (refusal 5)
            else match s2.hostSpan x tcb 64 .atomic with
              | none => s.reply h 0x20 4 []
              | some (ps, s3) => match ps with
                | [] => s.reply h 0x20 4 []
                | (p, _) :: _ =>
                  if p.isWeight then s.reply h 0x20 4 []
                  else answer ((s3.launchTcb ioCore p kid card).addKernel x c tcb (bits (dwordAt tb 0) 31 0 != 0) none) (kid.setWidth 64)))

/-- Whether a node's template is one that R239 refuses. -/
def State.templateBad (s : State) (x : Nat) (q : QueueSpec) (c : Card) : Bool :=
  c.outs.any (fun o => ((s.ctx x).queue o.1).depth ≤ q.depth || ((s.ctx x).queue o.1).capacity < o.2)
    || s.neverFits x c.gsize || (c.cores && s.groupCap x c.gsize < c.gangs)

/-- The descriptor that a creation writes (Table 14-1). -/
def queueOf (q : QueueSpec) (rbytes : Nat) (kid : W32) (card : Option Card) : Queue :=
  { Queue.reset with
    kind := q.kind
    base := if q.kind = .card then 0 else q.base
    template := if q.kind = .node then q.template else 0
    capacity := if q.kind = .card then 0 else q.capacity
    rbytes := rbytes
    home := q.home
    depth := q.depth
    prio := q.prio
    enc := if q.kind = .encoder then q.enc else 0
    kid := kid
    card := card }
def specBad (q : QueueSpec) (rbytes : Nat) : Bool :=
  3 < q.home || 15 < q.depth || 7 < q.prio || 7 < q.enc
    || (q.kind != .card && (q.base.toNat % 64 != 0 || 2 ^ 56 < q.base.toNat + q.capacity * rbytes
        || q.capacity == 0 || 0x1000000 < q.capacity))

def State.doQueueCreate (s : State) (h : CmdHdr) (q : QueueSpec) : State :=
  (s.ctxAdmit h 0x21 Ctx.usable (
    let x := h.ctx
    let made (s : State) (d : Queue) : State := (s.updQueue x q.handle (fun _ => d)).reply h 0x21 0 []
    if 4096 ≤ q.handle then s.reply h 0x21 4 []
    else if ((s.ctx x).queue q.handle).kind ≠ .free then s.reply h 0x21 2 []
    else match q.kind with
      | .free => s.reply h 0x21 1 []
      | .card => if specBad q 0 then s.reply h 0x21 1 [] else made s (queueOf q 0 0 none)
      | .encoder => if specBad q 64 then s.reply h 0x21 1 [] else made s (queueOf q 64 0 none)
      | .node =>
        if misaligned64 q.template then s.reply h 0x21 1 []
        else match s.hostCard x q.template with
          | .error e => s.fails h 0x21 e.1 q.template e.2
          | .ok (none, _) => s.reply h 0x21 1 []
          | .ok (some c, s') =>
            if specBad q c.rbytes then s.reply h 0x21 1 []
            else if s.templateBad x q c then s.reply h 0x21 2 []
            else if 1024 ≤ (s.ctx x).kernelCount then s.reply h 0x21 3 []
            else
              let kid := nextKid (s.ctx x).lastKid
              made (s'.updCtx x (fun y => { y with lastKid := kid, kidIssued := y.kidIssued + 1 })) (queueOf q c.rbytes kid (some c))))

def Ctx.queueInUse (x : Ctx) (handle : Nat) : Bool :=
  let q := x.queue handle
  q.occupied != 0 || q.reserved != 0
    || x.kernels.any (fun k => k.card.queue == handle || k.card.outs.any (fun o => o.1 == handle))

def State.doQueueDestroy (s : State) (h : CmdHdr) (handle : Nat) : State :=
  (s.ctxAdmit h 0x22 Ctx.usable (
    let x := h.ctx
    if 4096 ≤ handle ∨ ((s.ctx x).queue handle).kind = .free then s.reply h 0x22 4 []
    else if (s.ctx x).queueInUse handle then s.reply h 0x22 2 []
    else
      let s := s.updCtx x (fun y => { y with queues := y.queues.erase handle })
      let s := { s with dies := s.dies.map (fun (p : Nat × Die) => (p.1, { p.2 with
        resident := p.2.resident.filter (fun r => r != (x, handle))
        swaps := p.2.swaps.filter (fun r => r != (x, handle))
        aging := p.2.aging.filter (fun r => r.1 != (x, handle)) })) }
      s.reply h 0x22 0 []))

def State.doQueuePin (s : State) (h : CmdHdr) (handle : Nat) (pin : Bool) : State :=
  (s.ctxAdmit h 0x23 Ctx.usable (
    let x := h.ctx
    let q := (s.ctx x).queue handle
    if 4096 ≤ handle ∨ q.kind = .free then s.reply h 0x23 4 []
    else if ¬ pin then (s.updQueue x handle (fun q => { q with pinned := false })).reply h 0x23 0 []
    else if ¬ q.pinned ∧ 224 ≤ s.pinnedOn q.home then s.reply h 0x23 3 []
    else
      let s := if (s.die q.home).isResident x handle then s else s.swapIn q.home x handle
      (s.updQueue x handle (fun q => { q with pinned := true })).reply h 0x23 0 []))

end Sys2Proof.Machine
end

