-- ==== Sys2Proof/Machine/Management.lean ====
section
/-! DEFINITION. The device commands of Typoro, the Garcy controller, bring-up and power, accesses that another device
forwards, and instruction-cache fills (R17, R178, R325-R342). -/

namespace Sys2Proof.Machine

open Sys2Proof

/-! Link configuration, routes, encoders (R328, R329, R331, R336). -/

/-- Enable or disable a harness port (Table 20-2). -/
def State.setPort (s : State) (n : Nat) (enable : Bool) : State :=
  if enable then
    if (s.port n).state = .down ∨ (s.port n).state = .failed then
      (s.updPort n (fun p => { p with state := .training, attempts := 0, waitRetry := false })).trainingFlits n
    else s
  else (s.updPort n (fun p => { p with state := .down, attempts := 0, waitRetry := false })).handOn n

/-- A key of the transport security sublayer for a connection, at the connection's IO die (R331). -/
def State.setKey (s : State) (k : Nat × List Byte) : State :=
  s.updIo (ioOfConn k.1) (fun d => { d with keys := d.keys.filter (fun p => p.1 != k.1) ++ [k] })

def State.doLinkConfig (s : State) (h : CmdHdr) (number : Option (BitVec 8)) (ports : List (Nat × Bool)) (keys : List (Nat × List Byte)) : State :=
  (s.devAdmit h 0x50 (
    if ports.any (fun p => 36 ≤ p.1) ∨ keys.any (fun k => k.2.length ≠ 32) then s.reply h 0x50 1 []
    else if keys.any (fun k => 8192 ≤ k.1) then s.reply h 0x50 3 []
    else
      let s := match number with
        | some n => { s with devNum := n.toNat }
        | none => s
      let s := ports.foldl (fun s p => s.setPort p.1 p.2) s
      (keys.foldl (fun s k => s.setKey k) s).reply h 0x50 0 []))

/-- Both IO dies' tables name the port, or none, for the destination; what was held for it goes first (R328, R329). -/
def State.doRouteSet (s : State) (h : CmdHdr) (dst : BitVec 8) (port : Option Nat) : State :=
  (s.devAdmit h 0x51 (
    match port with
    | none => ([0, 1].foldl (fun s io => s.updIo io (fun d => { d with routes := d.routes.erase dst.toNat })) s).reply h 0x51 0 []
    | some p =>
      if 36 ≤ p then s.reply h 0x51 1 []
      else
        let s := [0, 1].foldl (fun s io => s.updIo io (fun d => { d with routes := d.routes.set dst.toNat p })) s
        (s.sendHeld dst.toNat ((s.io 0).held.length + (s.io 1).held.length)).reply h 0x51 0 []))

/-- A connection can take an engine's streams: it is in use, ordered, and leaves through a front port of the engine's IO die (R336). -/
def State.serves (s : State) (eng c : Nat) : Bool :=
  match s.uetConn c with
  | none => false
  | some u => u.rod && ioOfConn c == eng / 4 && u.port / 2 == eng / 4

def State.doEncoderSetup (s : State) (h : CmdHdr) (eng : Nat) (binds : List (Nat × Option Nat)) : State :=
  (s.devAdmit h 0x60 (
    let named := binds.filterMap (·.2)
    if 8 ≤ eng ∨ binds.any (fun b => 64 ≤ b.1) ∨ named.any (fun c => (s.uetConn c).isNone) then s.reply h 0x60 4 []
    else if named.any (fun c => !s.serves eng c) then s.reply h 0x60 2 []
    else
      let bind (e : Encoder) (b : Nat × Option Nat) : Encoder :=
        { e with binds := match b.2 with
            | some c => Tbl.set e.binds b.1 c
            | none => Tbl.erase e.binds b.1 }
      (s.updEncoder eng (fun e => binds.foldl bind e)).reply h 0x60 0 []))

/-! Event reading (R17). -/

/-- An event as 32 bytes; the manual gives the entries no layout (log entry 13). -/
def IoEvent.bytes (e : IoEvent) : List Byte :=
  leBytes 8 (if e.fatal then 1 else 0) ++ leBytes 8 e.code ++ wordBytes e.a ++ wordBytes e.b
/-- `n` entries leave the queue; fatal events that waited come in. -/
def IoDie.read (d : IoDie) (n : Nat) : IoDie :=
  let rest := d.events.drop n
  let room := 256 - rest.length
  { d with events := rest ++ d.waiting.take room, waiting := d.waiting.drop room }

/-- Event reading, which is always admitted, whatever context the header names. The lost-event count is returned and stays: the manual
does not say that it is cleared (log entry 28). -/
def State.doEventRead (s : State) (h : CmdHdr) (io max : Nat) : State :=
  if 2 ≤ io ∨ 255 < max then s.reply h 0x30 1 []
  else
    let d := s.io io
    let es := d.events.take max
    (s.updIo io (·.read max)).reply h 0x30 0 (leBytes 8 es.length ++ leBytes 8 d.lost ++ es.flatMap IoEvent.bytes)

/-! Quotes and patches (R335, R342). -/

/-- The 572 counts of a lifetime record in the order of R342. -/
def Lifetime.counts (l : Lifetime) : List Nat :=
  (List.range 16).map (l.bins.get 0 ·) ++ (List.range 4).map (l.droops.get 0 ·)
    ++ (List.range 256).flatMap (fun c => [l.hbmCorr.get 0 c, l.hbmUncorr.get 0 c])
    ++ (List.range 36).map (l.retrains.get 0 ·) ++ [l.reruns, l.zeroed, l.hours, l.trips]
def Lifetime.bytes (l : Lifetime) : List Byte := l.counts.flatMap (fun n => leBytes 8 (min n (2 ^ 64 - 1)))

/-- A SHA-512 digest as 64 bytes. -/
def digestBytes (d : BitVec 512) : List Byte := leBytes 64 d.toNat
/-- The record as it stood at its last write that was not torn; one that was never written is all zeros (R341, R342). -/
def Mgmt.lastWritten (m : Mgmt) : Lifetime :=
  let good (i : Nat) : Option Lifetime :=
    (m.copies[i]?).bind (fun c => if c.2 = digestBytes (Config.sha512 c.1.bytes) then some c.1 else none)
  match good (1 - m.nextCopy % 2) with
  | some l => l
  | none => (good (m.nextCopy % 2)).getD Lifetime.reset

/-- Bytes 0 to 4,711 of a quote (Table 21-5). -/
def State.quoteBody (s : State) (nonce : List Byte) : List Byte :=
  let key := leBytes 32 Config.publicKey.toNat
  key ++ w32Bytes Config.romVersion ++ leBytes 4 s.patchImages.length
    ++ digestBytes (Config.sha512 (Config.romImage ++ s.patchImages.flatten ++ key)) ++ nonce ++ s.mgmt.lastWritten.bytes

/-- The attestation quote, which is always admitted, whatever context the header names (Table 20-4). -/
def State.doAttestationQuote (s : State) (h : CmdHdr) (nonce : List Byte) : State :=
  if nonce.length ≠ 32 then s.reply h 0x70 1 []
  else s.reply h 0x70 0 (s.quoteBody nonce ++ leBytes 64 (Config.edSign Config.keySeed (s.quoteBody nonce)).toNat)

/-- `n` entries of a patch image: `none` where one is malformed, else the entries and the bytes behind them. -/
def parseEntries : Nat → List Byte → Option (List PatchEntry × List Byte)
  | 0, bs => some ([], bs)
  | n + 1, bs =>
    let w0 := dwordAt bs 0
    let w1 := dwordAt bs 8
    let off := bits w0 31 0
    let len := bits w1 15 0
    let pad := (16 - len % 16) % 16
    if bs.length < 16 + len + pad ∨ bits w0 63 32 ≠ 0 ∨ off % 4 ≠ 0 ∨ bits w1 63 16 ≠ 0 ∨ len < 4 ∨ 4096 < len ∨ len % 4 ≠ 0
        ∨ 2 ^ 20 < off + len ∨ ((bs.drop (16 + len)).take pad).any (fun b => b != 0) then none
    else match parseEntries n (bs.drop (16 + len + pad)) with
      | none => none
      | some (es, rest) => some (⟨off, (bs.drop 16).take len⟩ :: es, rest)

def State.doPatchLoad (s : State) (h : CmdHdr) (image : List Byte) : State :=
  (s.devAdmit h 0x80 (
    let n := bits (dwordAt image 8) 7 0
    if s.ctxs.any (fun x => x.2.state != .free && x.2.state != .parked) then s.reply h 0x80 2 []
    else if image.length < 32 ∨ n = 0 ∨ 64 < n then s.reply h 0x80 1 []
    else match parseEntries n (image.drop 32) with
      | none => s.reply h 0x80 1 []
      | some (es, sig) =>
        if sig.length ≠ 64 then s.reply h 0x80 1 []
        else if bits (dwordAt image 0) 31 0 ≠ Config.romVersion.toNat ∨
            Config.patchSignatureHolds (image.take (image.length - 64)) sig = false then s.reply h 0x80 5 []
        else if 64 < s.patches.length + es.length then s.reply h 0x80 3 []
        else { s with patches := s.patches ++ es, patchImages := s.patchImages ++ [image] }.reply h 0x80 0 []))

/-! Bring-up, resets and power (R337, R339, R340, R341). -/

/-- A turn that needs the dies' power. -/
def needsPower (t : Turn) : Bool :=
  match t with
  | .core _ => true
  | .event _ => false
  | .waitEnds _ _ => false
  | .homeReplies _ _ => false
  | .checkpointLate _ _ => false
  | .deadlocked _ => false
  | .icMiss _ _ => false
  | .icFill _ => false
  | .firmware => false
  | .remoteLeaves _ => false
  | .awayLands _ => false
  | .storeSpreads _ _ => false

/-- What a loss of the dies' power leaves: the controller, and what is still to come from outside (log entry 25). -/
def State.dark (s : State) : State :=
  { State.reset with
    mgmt := { s.mgmt with powered := false, ready := false, step := 0, window := [], holdOff := 0, raiseRun := 0 }
    freeCount := s.freeCount
    agenda := s.agenda.filter (fun t => !needsPower t) }

/-- Step 1 of a bring-up succeeds: the ROM has the fused digest; and no other step fails (R337). -/
def bringsUp (n : Nat) : Bool := Config.sha512 Config.romImage == Config.fusedDigest && !Config.bringUpFails n

/-- Bring-up: the state after reset, with the clusters of failing cores unavailable and a fatal event for each; a step that fails
leaves the device with READY at 0 and Typoro taking no command (R337). -/
def State.bringUp (s : State) (bad : List Nat) : State :=
  let n := s.freeCount
  let s := s.dark.fresh
  let m := { s.mgmt with tripped := false, coolRule := false }
  if !bringsUp n then { s with mgmt := m }
  else
    let life := { m.life with reruns := min (2 ^ 64 - 1) (m.life.reruns + Config.selfTestReruns n) }
    let s := { s with mgmt := { m with powered := true, ready := true, life := life } }
    ((bad.map clusterOf).eraseDups).foldl (fun s cl =>
      (s.updCluster cl (fun c => { c with available := false })).ioEvent 0 true 7 (BitVec.ofNat 64 cl) 0) s

/-- Which copy the next write goes to after a power-up: the one that does not hold the record that is kept (R341). -/
def Mgmt.spareCopy (m : Mgmt) : Nat :=
  let i := 1 - m.nextCopy % 2
  match m.copies[i]? with
  | none => m.nextCopy
  | some c => if c.2 = digestBytes (Config.sha512 c.1.bytes) then m.nextCopy else i

/-- Input power is applied to a device that has none: the controller starts afresh with the record it kept (R337, R341). -/
def execPowerOn (badCores : List Nat) (s : State) : Out :=
  .next (
    if s.mgmt.input then s
    else
      let m := { Mgmt.reset with copies := s.mgmt.copies, nextCopy := s.mgmt.spareCopy, life := s.mgmt.lastWritten }
      { s with mgmt := m }.bringUp badCores)

/-- A device reset, which the controller takes while it has power (R340). -/
def State.deviceReset (s : State) (bad : List Nat) : State := if s.mgmt.input then s.bringUp bad else s
/-- GRC_RESET_N held low: at least 10 ms request a reset, which starts at the release (R340). -/
def execGrcResetN (ms : Nat) (badCores : List Nat) (s : State) : Out := .next (if 10 ≤ ms then s.deviceReset badCores else s)
def execSmbusResetWrite (badCores : List Nat) (s : State) : Out := .next (s.deviceReset badCores)
/-- What an SMBus read of a register returns (Table 21-4); every other register reads 0. -/
def Mgmt.smbusRead (m : Mgmt) (reg : Byte) : Byte :=
  if reg = 0x00 then BitVec.ofNat 8 ((if m.ready then 16 else 0) + 2 * m.cause.toNat + (if m.tripped then 1 else 0))
  else if reg = 0x01 then BitVec.ofNat 8 m.step
  else if reg = 0x02 then m.hot
  else 0

/-- Every other SMBus write is ignored (R340). -/
def execSmbusWriteOther (_reg _val : Byte) (s : State) : Out := .next s

/-- Put a record into the copy whose turn it is (R341). -/
def Mgmt.writeCopy (m : Mgmt) (digest : List Byte) : Mgmt :=
  let i := m.nextCopy % 2
  let copies := if i < m.copies.length then m.copies.set i (m.life, digest) else m.copies ++ [(m.life, digest)]
  { m with copies := copies, nextCopy := 1 - i }
def Mgmt.writeRecord (m : Mgmt) : Mgmt := m.writeCopy (digestBytes (Config.sha512 m.life.bytes))

/-- The histogram bin of a temperature (Table 21-2). -/
def tempBin (t : Nat) : Nat := if t < 30 then 0 else if 100 ≤ t then 15 else 1 + (t - 30) / 5

/-- Corrected HBM errors since the last record, for each of the 256 channels (R341). -/
def Lifetime.addCorrected (l : Lifetime) (n : Nat) : Lifetime :=
  { l with hbmCorr := (List.range 256).foldl (fun t c => Tbl.set t c (min (2 ^ 64 - 1) (Tbl.get t 0 c + Config.corrected n c))) l.hbmCorr }

/-- Every 10 s, while the controller has power: the hottest die's bin and the hours grow, and the record goes to the next copy (R341). -/
def execLifetimeRecordWrite (s : State) : Out :=
  .next (
    if !s.mgmt.input then s
    else
      let m := s.mgmt
      let bin := tempBin m.hot.toNat
      let secs := m.secs + 10
      let life := { m.life with
        bins := m.life.bins.set bin (bump (m.life.bins.get 0 bin))
        hours := if secs % 3600 = 0 then bump m.life.hours else m.life.hours }
      let life := if m.powered then life.addCorrected s.freeCount else life
      { s.fresh with mgmt := { m with life := life, secs := secs }.writeRecord })

/-- Input power goes: the dies and the controller are off, and a record write under way is torn (R341). -/
def execPowerLoss (s : State) : Out :=
  .next (
    if !s.mgmt.input then s
    else
      let torn := Config.tornWrite s.freeCount
      let s := s.fresh.dark
      { s with mgmt := { (if torn then s.mgmt.writeCopy [] else s.mgmt) with input := false, cause := 0, tripped := false, hot := 0, coolRule := false } })

def execVoltageDroop (die : Nat) (s : State) : Out :=
  .next (
    if s.mgmt.powered ∧ die < 4 then
      { s with mgmt := { s.mgmt with life := { s.mgmt.life with droops := s.mgmt.life.droops.set die (bump (s.mgmt.life.droops.get 0 die)) } } }
    else s)

/-! Power and cooling (R338, R339). -/

/-- P of Table 21-1 in milliwatts; the strap of the SD8-P lies between 1,500 W and 3,000 W (R338). -/
def limitP : Nat := if Config.moduleForm then 3000000 else max 1500000 (min 3000000 Config.powerLimit)
/-- The cause of a trip that a sample asks for; 0 for none (Table 21-1, Table 21-4). -/
def tripCause (r : Sensors) : BitVec 3 :=
  if r.dieTemp.any (fun t => 115 < t) then 1
  else if Config.moduleForm && 55 < r.coolant then 2
  else if Config.moduleForm && (r.volts < 40000 || 60000 < r.volts) then 3
  else 0

/-- One clock step down or up, reported as a non-fatal event (R18, R338). -/
def State.clockStep (s : State) (step : Nat) : State :=
  if step = s.mgmt.step then s
  else { s with mgmt := { s.mgmt with step := step } }.ioEvent 0 false 11 (BitVec.ofNat 64 step) 0
def State.lowerClock (s : State) : State := s.clockStep (min 12 (s.mgmt.step + 1))

/-- A trip: counted, its cause kept, the record written with the errors corrected since, and the dies' power removed (R339, R341). -/
def State.tripNow (s : State) (cause : BitVec 3) : State :=
  let life := s.mgmt.life.addCorrected s.freeCount
  let m := { s.mgmt with life := { life with trips := bump life.trips } }.writeRecord
  { s.fresh with mgmt := { m with cause := cause, tripped := true } }.dark

/-- One sample of the sensors (R338; log entry 25). -/
def State.sample (s : State) (r : Sensors) : State :=
  let m := s.mgmt
  let window := (m.window ++ [r.power]).drop (m.window.length + 1 - 10)
  let n := window.length
  let hottest := r.dieTemp.foldl max 0
  let coolRule := Config.moduleForm && (45 < r.coolant || (m.coolRule && 40 ≤ r.coolant))
  let s := { s with mgmt := { m with window := window, hot := BitVec.ofNat 8 (min 255 hottest), coolRule := coolRule } }
  let forPower := limitP * n < window.sum && m.holdOff == 0
  let forHeat := 100 < hottest
  let cool := window.sum + 150000 * n < limitP * n && hottest < 95 && (!Config.moduleForm || r.coolant < 40) && !coolRule
  let s := { s with mgmt := { s.mgmt with
    holdOff := if forPower then 10 else m.holdOff - 1
    raiseRun := if cool then m.raiseRun + 1 else 0 } }
  if forPower || forHeat then s.lowerClock
  else if 100 ≤ s.mgmt.raiseRun then
    { s with mgmt := { s.mgmt with raiseRun := 0 } }.clockStep (s.mgmt.step - 1)
  else s

def execSensorSample (r : Sensors) (s : State) : Out :=
  .next (
    if !s.mgmt.input || !s.mgmt.powered then s
    else if tripCause r ≠ 0 then { s with mgmt := { s.mgmt with hot := BitVec.ofNat 8 (min 255 (r.dieTemp.foldl max 0)) } }.tripNow (tripCause r)
    else s.sample r)

/-- While the coolant rule is in force the clock goes down one step every 10 ms (R338). -/
def execCoolantStepTimer (s : State) : Out := .next (if s.mgmt.powered && s.mgmt.coolRule then s.lowerClock else s)

/-! Accesses that another device forwards (R141, R178). -/

/-- The answer goes back to the requesting device, by the route table: `none` says that the access was refused (R178, R328). The manual does
not say which compute die's traffic it is: die 0's (log entry 28). -/
def State.answer (s : State) (dev : BitVec 8) (a : Option (List Byte)) : State := s.sendOut 0 dev.toNat (.answer a)

/-- A forwarded access is translated here by the same context's tables; one that they do not allow is refused, and nothing is
reported here (R178). -/
def execForwardedAccess (ctx : Nat) (va : Word) (user : Bool) (op : RemoteOp) (s : State) : Out :=
  .next (
    if (s.ctx ctx).state = .free ∨ 2 ^ 56 ≤ va.toNat then s.answer op.dev none
    else
      let k : Access := match op.what with
        | .read _ => .read
        | .write _ => .write
        | .atomic _ _ _ _ => .atomic
      match s.walk ioCore ctx va k user with
      | (.error _, s) => s.answer op.dev none
      | (.ok t, s) =>
        if t.kind = .weight ∧ (k = .atomic ∨ (k.writes ∧ (s.ctx ctx).kernelLive)) then s.answer op.dev none
        else
          let p := t.place va.toNat
          let dirty := match t.owesD with
            | some a => s.setDirty a
            | none => s
          match op.what with
          | .read n => (s.readBy ioCore [(p, n)]).answer op.dev (some (s.engineBytes ioCore p n))
          | .write bs => (dirty.writeAt ioCore p bs).answer op.dev (some [])
          | .atomic fn dword b c =>
            let n := if dword then 8 else 4
            let old := leNat (s.homeBytes ioCore p n)
            match atomicNew fn dword b c old with
            | none => s.answer op.dev none
            | some v => ((dirty.countBad [(p, n)]).writeAt ioCore p (leBytes n v)).answer op.dev (some (leBytes n old)))

/-! Instruction-cache misses and fills (R58, R87, R220). -/

/-- A fetch misses in the cluster's instruction cache: the thread, or every member of its hitch, is frozen (Table 5-1, R220);
when one does, timing decides, but none misses again between a fill and its next issue (log entry 9). -/
def State.icMissAt (s : State) (t : ThreadId) : State :=
  let th := s.thread t
  let ts := match th.hitch with
    | none => [t]
    | some h => hitchMembers t h.mask
  if (s.ctx th.ctx).state = .active ∧ th.replay = none ∧ ts.all (fun m => (s.thread m).state == .ready && !(s.thread m).filled) then
    let s := ts.foldl (fun s m => s.updThread m (fun x => { x with state := .blocked .icache 0 })) s
    s.updCluster (clusterOf t.core) (fun c => { c with icMisses := c.icMisses ++ ts })
  else s

/-- The threads that a miss of the cluster froze are READY. -/
def execInstructionCacheFill (cluster : Nat) (s : State) : Out :=
  let ts := (s.cluster cluster).icMisses
  .next (ts.foldl (fun s t => s.updThread t (fun x => match x.state with
      | .blocked .icache _ => { x with state := .ready, filled := true }
      | _ => x)) (s.updCluster cluster (fun c => { c with icMisses := [] })))

end Sys2Proof.Machine
end

