-- ==== Sys2Proof/Machine/Firmware.lean ====
section
/-! DEFINITION. How the firmware takes Typoro's commands, orders them, writes them into the command mailboxes, and how a dispatcher
carries them out (R13-R16, R332-R334). -/

namespace Sys2Proof.Machine

open Sys2Proof

/-! Sequence numbers and headers (R332, R333). -/

/-- A number is one of the connection's last 64, of those that it has used. -/
def Conn.inWindow (c : Conn) (seq : W32) : Bool := match c.lastSeq with
  | some l => decide ((l - seq).toNat < min 64 c.taken)
  | none => false
/-- A repeated command draws its stored reply, and nothing while its reply is still to come; a number outside the window is answered
with status 1; nothing else happens (R333). -/
def State.answerAgain (s : State) (h : CmdHdr) (opcode : Nat) : State :=
  let c := s.conn h.conn
  if c.inWindow h.seq then
    match c.stored.find? (fun r => r.seq == h.seq) with
    | some r => { s with replies := s.replies ++ [r] }
    | none => s
  else { s with replies := s.replies ++ [s.mkReply h opcode 1 []] }

/-- The sequence number is the connection's next; a connection's first command may carry any (log entry 25). -/
def Conn.next (c : Conn) (seq : W32) : Bool :=
  match c.lastSeq with
  | none => true
  | some l => seq == l + 1

/-- The size of a command's payload, where the manual gives one (Table 20-4, R263, R335, R342). -/
def payloadSize (c : Typoro) : Option Nat :=
  match c with
  | .launch _ _ => some 16
  | .groupMove _ _ => some 16
  | .attestationQuote nonce => some nonce.length
  | .patchLoad image => some image.length
  | _ => none
/-- A command's header breaks Table 20-3, its context being neither 0 to 15 nor 31 among it, or its length is not its payload's. -/
def badHdr (h : CmdHdr) (c : Typoro) : Bool :=
  h.isReply || h.status != 0 || h.reserved != 0 || 65536 < h.length || (16 ≤ h.ctx && h.ctx != 31) || (payloadSize c).any (· != h.length)

/-! Which mailboxes a command is written to (R13-R15; log entry 16). -/

/-- The compute dies that a set of clusters lies on. -/
def diesOf (cls : List Nat) : List Nat := (cls.map (· / 32)).eraseDups
/-- The compute dies of a context's paddock, or of the paddock that it parked in. -/
def State.ctxDies (s : State) (x : Nat) : List Nat := diesOf (s.clustersOf x)
/-- The compute die that owns a place of global memory: that of the HBM stack, or of the weight store (R8, R15; log entry 13). No die of
this device owns a REMOTE page: a host copy whose range lies on such pages alone the firmware carries out without a mailbox, and its
accesses leave by IO die 0 (log entry 34). -/
def Place.owner (p : Place) : List Nat :=
  match p with
  | .hbm a => [hbmDie a]
  | .weight a => [Config.ownerDie a % 4]
  | .loc _ => []
  | .remote _ _ => []
/-- The dies that own a device range of a copy; none where it does not translate: the firmware itself answers then (R15). -/
def State.spanDies (s : State) (x : Nat) (va : Word) (n : Nat) (k : Access) : List Nat :=
  match s.hostSpan x va n k with
  | none => []
  | some (ps, _) => (ps.flatMap (fun p => p.1.owner)).eraseDups
/-- The dies that own the page-table entries of a mapping command: tables lie in HBM (R8, R15). -/
def entryDies (es : List (Word × Word)) : List Nat := (es.map (fun e => hbmDie e.1.toNat)).eraseDups

def allDies : List Nat := [0, 1, 2, 3]
/-- The home die of the card queue that a launch names (R234). -/
def State.launchHome (s : State) (x : Nat) (card : Word) : List Nat :=
  match s.hostCard x card with
  | .ok (some c, _) => [((s.ctx x).queue c.queue).home % 4]
  | .ok (none, _) => []
  | .error _ => []
/-- The dies whose dispatchers a command is written to; none for a command that the firmware carries out itself. -/
def State.commandDies (s : State) (h : CmdHdr) (c : Typoro) : List Nat :=
  match c with
  | .contextCreate _ => allDies
  | .teardown => allDies
  | .paddockDefine sets => diesOf (sets.flatten.filter (fun c => decide (c < 128)))
  | .mapMemory es => entryDies es
  | .unmapMemory _ => allDies
  | .copyToDevice va bs => s.spanDies h.ctx va bs.length .copyWrite
  | .copyToHost va n => s.spanDies h.ctx va n .copyRead
  | .launch card _ => (s.ctxDies h.ctx ++ s.launchHome h.ctx card).eraseDups
  | .queueCreate q => if q.home < 4 then [q.home] else []
  | .queueDestroy n => [((s.ctx h.ctx).queue n).home % 4]
  | .queuePin n _ => [((s.ctx h.ctx).queue n).home % 4]
  | .preempt => allDies
  | .resume _ => allDies
  | .groupMove _ _ => allDies
  | .eventRead _ _ => []
  | .wsWindowOpen => s.ctxDies h.ctx
  | .wsWindowClose => s.ctxDies h.ctx
  | .linkConfig _ _ _ => []
  | .routeSet _ _ => []
  | .encoderSetup _ _ => []
  | .attestationQuote _ => []
  | .patchLoad _ => []
  | .bad => []

/-! Carrying out (Table 20-4). -/

/-- What a command does when it is carried out. -/
def State.carryOut (s : State) (c : Command) : State :=
  let h := c.hdr
  match c.cmd with
  | .contextCreate c => s.doContextCreate h c
  | .teardown => s.doTeardown h
  | .paddockDefine sets => s.doPaddockDefine h sets
  | .mapMemory es => s.doMapMemory h es
  | .unmapMemory vas => s.doUnmapMemory h vas
  | .copyToDevice va bs => s.doCopyToDevice h va bs
  | .copyToHost va n => s.doCopyToHost h va n
  | .launch card tcb => s.doLaunch h card tcb
  | .queueCreate q => s.doQueueCreate h q
  | .queueDestroy n => s.doQueueDestroy h n
  | .queuePin n pin => s.doQueuePin h n pin
  | .preempt => s.doPreempt h
  | .resume p => s.doResume h p
  | .groupMove w0 w1 => s.doGroupMove h w0 w1
  | .eventRead io n => s.doEventRead h io n
  | .wsWindowOpen => s.doWsWindowOpen h
  | .wsWindowClose => s.doWsWindowClose h
  | .linkConfig number ports keys => s.doLinkConfig h number ports keys
  | .routeSet dst port => s.doRouteSet h dst port
  | .encoderSetup eng binds => s.doEncoderSetup h eng binds
  | .attestationQuote nonce => s.doAttestationQuote h nonce
  | .patchLoad image => s.doPatchLoad h image
  | .bad => s.reply h c.opcode 1 []

def State.mailRoom (s : State) (dies : List Nat) : Bool := dies.all (fun d => decide ((s.die d).mailbox.length < 64))
def Command.is (c : Command) (h : CmdHdr) : Bool := c.hdr.conn == h.conn && c.hdr.seq == h.seq
/-- Write a command into the mailboxes of dies (R14). -/
def State.post (s : State) (c : Command) (dies : List Nat) : State :=
  let s := { s with inbox := s.inbox.map (fun d => if d.is c.hdr then { d with posted := true } else d) }
  dies.foldl (fun s d => s.updDie d (fun q => { q with mailbox := q.mailbox ++ [{ c with posted := true }] })) s

/-- The firmware begins a command: a bad header is answered with status 1; a command for dispatchers goes into every affected
mailbox; another is carried out (R14, R332, R333). -/
def State.startCommand (s : State) (c : Command) : State :=
  let dies := s.commandDies c.hdr c.cmd
  if badHdr c.hdr c.cmd then s.reply c.hdr c.opcode 1 []
  else if dies.isEmpty then s.carryOut c
  else s.post c dies

/-- A command may begin: it is not in the mailboxes, no earlier one of its connection or of its context is unanswered, and every mailbox
that it is to be written to has room (R14, R332). -/
def State.mayStart (s : State) (before : List Command) (c : Command) : Bool :=
  !c.posted && before.all (fun d => d.hdr.conn != c.hdr.conn && (d.hdr.ctx != c.hdr.ctx || decide (16 ≤ c.hdr.ctx)))
    && (badHdr c.hdr c.cmd || s.mailRoom (s.commandDies c.hdr c.cmd))
/-- The first command of the inbox that may begin. -/
def State.startable (s : State) : Option Command :=
  (s.inbox.zipIdx.find? (fun p => s.mayStart (s.inbox.take p.2) p.1)).map (·.1)
/-- The firmware begins the first command that may begin. -/
def State.firmware (s : State) : State :=
  match s.startable with
  | none => s
  | some c => s.startCommand c

/-- The firmware reads a command from a connection: once bring-up is complete, of a ROD connection with endpoint 0 that is in use, out of a
packet that was taken on it, with fewer than 64 commands of it outstanding (R331, R332, R337; log entry 31). -/
def State.reads (s : State) (h : CmdHdr) : Bool :=
  s.mgmt.powered && s.mgmt.ready && (s.uetConn h.conn).any (fun u => u.rod && u.endpoint == 0 && u.packets != 0)
    && decide (s.inbox.countP (fun c => c.hdr.conn == h.conn) < 64)
/-- A command has been read out of a packet. -/
def State.usePacket (s : State) (conn : Nat) : State :=
  s.updIo (ioOfConn conn) (fun d => { d with conns := d.conns.map (fun u => if u.num = conn then { u with packets := u.packets - 1 } else u) })
/-- The firmware takes a command that has the connection's next number; it begins the command at once where no earlier one is before it
(R332, R333). -/
def State.receive (s : State) (h : CmdHdr) (opcode : Nat) (cmd : Typoro) : State :=
  if !s.reads h then s
  else if !(s.conn h.conn).next h.seq then (s.usePacket h.conn).answerAgain h opcode
  else
    let s := (s.usePacket h.conn).updConn h.conn (fun c => { c with lastSeq := some h.seq, taken := c.taken + 1 })
    { s with inbox := s.inbox ++ [(⟨h, opcode, cmd, false⟩ : Command)] : State }.firmware

/-- The dispatcher takes the first command of its mailbox; the last of the affected dispatchers carries it out (R14). -/
def execMailboxCommand (die : Nat) (s : State) : Out :=
  .next (match (s.die die).mailbox with
    | [] => s
    | c :: rest =>
      let s := s.updDie die (fun d => { d with mailbox := rest })
      if [0, 1, 2, 3].any (fun d => (s.die d).mailbox.any (fun e => e.is c.hdr)) then s else s.carryOut c)

/-! The commands of Table 20-4. -/

def execTyporoContextCreate (h : CmdHdr) (c : CtxSpec) (s : State) : Out := .next (s.receive h 0x01 (.contextCreate c))
def execTyporoTeardown (h : CmdHdr) (s : State) : Out := .next (s.receive h 0x02 .teardown)
def execTyporoPaddockDefine (h : CmdHdr) (sets : List (List Nat)) (s : State) : Out :=
  .next (s.receive h 0x03 (.paddockDefine sets))
def execTyporoMapMemory (h : CmdHdr) (entries : List (Word × Word)) (s : State) : Out :=
  .next (s.receive h 0x10 (.mapMemory entries))
def execTyporoUnmapMemory (h : CmdHdr) (vas : List (Word × Word)) (s : State) : Out :=
  .next (s.receive h 0x11 (.unmapMemory vas))
def execTyporoCopyToDevice (h : CmdHdr) (va : Word) (bytes : List Byte) (s : State) : Out :=
  .next (s.receive h 0x12 (.copyToDevice va bytes))
def execTyporoCopyToHost (h : CmdHdr) (va : Word) (len : Nat) (s : State) : Out := .next (s.receive h 0x13 (.copyToHost va len))
def execTyporoLaunch (h : CmdHdr) (card tcb : Word) (s : State) : Out := .next (s.receive h 0x20 (.launch card tcb))
def execTyporoQueueCreate (h : CmdHdr) (q : QueueSpec) (s : State) : Out := .next (s.receive h 0x21 (.queueCreate q))
def execTyporoQueueDestroy (h : CmdHdr) (handle : Nat) (s : State) : Out := .next (s.receive h 0x22 (.queueDestroy handle))
def execTyporoQueuePin (h : CmdHdr) (handle : Nat) (pin : Bool) (s : State) : Out :=
  .next (s.receive h 0x23 (.queuePin handle pin))
def execTyporoPreempt (h : CmdHdr) (s : State) : Out := .next (s.receive h 0x24 .preempt)
def execTyporoResume (h : CmdHdr) (paddock : Nat) (s : State) : Out := .next (s.receive h 0x25 (.resume paddock))
def execTyporoGroupMove (h : CmdHdr) (w0 w1 : Word) (s : State) : Out := .next (s.receive h 0x26 (.groupMove w0 w1))
def execTyporoEventRead (h : CmdHdr) (io max : Nat) (s : State) : Out := .next (s.receive h 0x30 (.eventRead io max))
def execTyporoWsWindowOpen (h : CmdHdr) (s : State) : Out := .next (s.receive h 0x40 .wsWindowOpen)
def execTyporoWsWindowClose (h : CmdHdr) (s : State) : Out := .next (s.receive h 0x41 .wsWindowClose)
def execTyporoLinkConfig (h : CmdHdr) (number : Option (BitVec 8)) (ports : List (Nat × Bool)) (keys : List (Nat × List Byte))
    (s : State) : Out := .next (s.receive h 0x50 (.linkConfig number ports keys))
def execTyporoRouteSet (h : CmdHdr) (dst : BitVec 8) (port : Option Nat) (s : State) : Out :=
  .next (s.receive h 0x51 (.routeSet dst port))
def execTyporoEncoderSetup (h : CmdHdr) (eng : Nat) (binds : List (Nat × Option Nat)) (s : State) : Out :=
  .next (s.receive h 0x60 (.encoderSetup eng binds))
def execTyporoAttestationQuote (h : CmdHdr) (nonce : List Byte) (s : State) : Out :=
  .next (s.receive h 0x70 (.attestationQuote nonce))
def execTyporoPatchLoad (h : CmdHdr) (image : List Byte) (s : State) : Out := .next (s.receive h 0x80 (.patchLoad image))

/-- Never executed: the stored reply, or status 1 where the number is neither in the window nor the next (R333). -/
def execTyporoRepeatedCommand (h : CmdHdr) (s : State) : Out :=
  .next (if !s.reads h || (s.conn h.conn).next h.seq then s else (s.usePacket h.conn).answerAgain h 0)
/-- An opcode that Table 20-4 does not have, or a sequence number out of order: status 1 (R333). -/
def execTyporoBadCommand (h : CmdHdr) (opcode : BitVec 16) (s : State) : Out :=
  .next (s.receive h opcode.toNat .bad)

end Sys2Proof.Machine
end

