-- ==== Sys2Proof/Machine/Forms.lean ====
section
/-! DEFINITION. The scene-form helpers BOXT, TRIT, SPLT, EDGE, TEXL and TEXD (R286-R297). -/

namespace Sys2Proof.Machine

open Sys2Proof

def rnNeg0 (x : W32) : W32 := rnSub 0 x
def f32One : W32 := 0x3F800000
def f32Zero (x : W32) : Bool := f32Eq x 0

/-! BOXT (R290). -/

/-- z when one of x, y is a zero and the other infinite, else RN(x * y). -/
def slabMul (x y z : W32) : W32 :=
  if (f32Zero x && f32Inf y) || (f32Inf x && f32Zero y) then z else rnMul x y

/-- One child: near, and whether it is hit; `lo` and `hi` by axis. -/
def boxChild (a : Row) (lo hi : Nat → W32) : W32 × Bool :=
  let axis (k : Nat) : W32 × W32 :=
    let o := a.lane k
    let inv := a.lane (6 + k)
    let pn := if inv.getLsbD 31 then hi k else lo k
    let pf := if inv.getLsbD 31 then lo k else hi k
    (slabMul (rnSub pn o) inv ninf32, slabMul (rnSub pf o) inv inf32)
  let ts := [axis 0, axis 1, axis 2]
  let bad := ts.any (fun t => f32Nan t.1 || f32Nan t.2)
  let near := ts.foldl (fun n t => (fmaxBits n t.1).1) (a.lane 9)
  let far := ts.foldl (fun n t => (fminBits n t.2).1) (a.lane 10)
  (near, !bad && f32Le near far && !f32Nan (a.lane 9) && !f32Nan (a.lane 10))

def execBoxt (k : MaskCode) (d a b : RowCode) (s : State) : Out :=
  let ray := s.row a
  let child (c : Nat) : W32 × Bool :=
    boxChild ray (fun i => (s.row (b + BitVec.ofNat 7 (2 * i))).lane c) (fun i => (s.row (b + BitVec.ofNat 7 (2 * i + 1))).lane c)
  let rs := lanes.map child
  let hit (c : Nat) : Bool := (rs.getD c (0, false)).2
  let s := s.rowWrite 0xFFFF d (fun c => if hit c then (rs.getD c (0, false)).1 else inf32)
  .next (((s.setMask k (maskOf 0xFFFF hit)).hpm s.cur.core 0x11 1).advance)

/-! TRIT (R291). -/

/-- Three lanes of a row from lane `i`. -/
def Row.vec3 (r : Row) (i : Nat) : List W32 := [r.lane i, r.lane (i + 1), r.lane (i + 2)]
def v3 (v : List W32) (i : Nat) : W32 := v.getD i 0
def dot3 (x y : List W32) : W32 :=
  rnAdd (rnAdd (rnMul (v3 x 0) (v3 y 0)) (rnMul (v3 x 1) (v3 y 1))) (rnMul (v3 x 2) (v3 y 2))
def cross3 (x y : List W32) : List W32 :=
  let c (i j : Nat) : W32 := rnSub (rnMul (v3 x i) (v3 y j)) (rnMul (v3 x j) (v3 y i))
  [c 1 2, c 2 0, c 0 1]
def sub3 (x y : List W32) : List W32 := (List.range 3).map (fun i => rnSub (v3 x i) (v3 y i))

/-- A triangle's lanes: hit, t, u, v. -/
def triTest (ray v0 e1 e2 : Row) (k : Nat) (cullf cullb : Bool) : Bool × W32 × W32 × W32 :=
  let o := ray.vec3 0
  let dir := ray.vec3 3
  let e2 := e2.vec3 (3 * k)
  let e1 := e1.vec3 (3 * k)
  let p := cross3 dir e2
  let det := dot3 e1 p
  let s := sub3 o (v0.vec3 (3 * k))
  let q := cross3 s e1
  let inv := rnDiv f32One det
  let u := rnMul (dot3 s p) inv
  let v := rnMul (dot3 dir q) inv
  let t := rnMul (dot3 e2 q) inv
  let culled := (cullb && f32Lt det 0) || (cullf && f32Lt 0 det)
  let nan := (p ++ s ++ q ++ [det, inv, u, v, t]).any f32Nan
  let hit := !f32Zero det && !nan && !culled && f32Le 0 u && f32Le 0 v && f32Le (rnAdd u v) f32One
    && f32Le (ray.lane 9) t && f32Le t (ray.lane 10)
  (hit, t, u, v)

def execTrit (m : MaskCode) (d a b : RowCode) (s : State) : Out :=
  let p := s.mask m
  let ctl := s.me.csr 0x0C2
  let rs := (List.range 4).map (fun k =>
    triTest (s.row a) (s.row b) (s.row (b + 1)) (s.row (b + 2)) k (ctl.getLsbD 1) (ctl.getLsbD 0))
  let r (k : Nat) : Bool × W32 × W32 × W32 := rs.getD k (false, 0, 0, 0)
  let lane (i : Nat) : W32 :=
    let x := r (i % 4)
    if i < 4 then (if x.1 then x.2.1 else inf32)
    else if i < 8 then (if x.1 then x.2.2.1 else 0)
    else if i < 12 then (if x.1 then x.2.2.2 else 0)
    else if x.1 then 1 else 0
  let s := s.rowWrite (maskOf 0xFFFF (fun i => p.getLsbD (i % 4))) d lane
  let s := s.setMask m (maskOf 0x000F (fun k => p.getLsbD k && (r k).1))
  .next ((s.hpm s.cur.core 0x12 1).advance)

/-! SPLT (R292). -/

def f16Of (x : W32) : W32 := BitVec.ofNat 32 (cvtF16 .rne x).1

/-- The answer lanes of a splat along a ray. -/
def splat (a b : Row) : List W32 :=
  let o := a.vec3 0
  let dir := a.vec3 3
  let q (i : Nat) : W32 := b.lane (3 + i)
  let qv (v : List W32) : List W32 := [dot3 [q 0, q 1, q 2] v, dot3 [q 1, q 3, q 4] v, dot3 [q 2, q 4, q 5] v]
  let r := sub3 o (b.vec3 0)
  let qd := qv dir
  let qr := qv r
  let aa := dot3 dir qd
  let h := dot3 dir qr
  let c := dot3 r qr
  let alpha := b.lane 9
  let odd (x : W32) : Bool := f32Nan x || f32Inf x
  let bad := ((List.range 6).map a.lane).any odd || ((List.range 13).map b.lane).any odd
    || !(f32Lt 0 aa && f32Lt aa inf32) || !(f32Le 0 alpha && f32Le alpha f32One)
  if bad then [nan32, nan32, nan32, 0, 0, 15, 0, 0]
  else
    let tp := rnDiv (rnNeg0 h) aa
    let qm := (fmaxBits 0 (rnSub c (rnMul h (rnDiv h aa)))).1
    let w := rnMul 0x40400000 (rnDiv f32One (rnSqrt aa))
    let ap := rnMul alpha (exp2RN (rnNeg0 (rnMul qm 0x3F38AA3B)))
    let tau := if f32Eq ap f32One then inf32 else rnNeg0 (log2RN (rnSub f32One ap))
    let ch (i : Nat) : W32 := f16Of (rnMul ap (b.lane (10 + i)))
    [rnSub tp w, rnAdd tp w, tau, (ch 1 <<< 16) ||| ch 0, (b.lane 13 <<< 16) ||| ch 2, 1, b.lane 14, b.lane 15]

def execSplt (m : MaskCode) (d a b : RowCode) (s : State) : Out :=
  let l := splat (s.row a) (s.row b)
  .next ((s.rowWrite (if (s.mask m).getLsbD 0 then 0x00FF else 0) d (fun i => l.getD i 0)).advance)

/-! EDGE (R293). -/

/-- The edges that claim a sample. -/
def edgeIn (a : Row) (x y : Int) (k : Nat) : Bool :=
  let ak := (a.lane (3 * k)).toInt
  let bk := (a.lane (3 * k + 1)).toInt
  let e := ak * x + bk * y + (a.lane (3 * k + 2)).toInt
  decide (0 < e) || (decide (e = 0) && (decide (0 < ak) || (decide (ak = 0) && decide (0 < bk))))

def execEdge (m : MaskCode) (d a b : RowCode) (s : State) : Out :=
  let p := s.mask m
  let ra := s.row a
  let rb := s.row b
  let ins (l k : Nat) : Bool := edgeIn ra ((rb.lane 0).toInt + (l % 4 : Nat)) ((rb.lane 1).toInt + (l / 4 : Nat)) k
  let one (l k : Nat) : Nat := if ins l k then 2 ^ k else 0
  let s := s.rowWrite p d (fun l => BitVec.ofNat 32 (one l 0 + one l 1 + one l 2))
  .next ((s.setMask m (maskOf p (fun l => ins l 0 && ins l 1 && ins l 2))).advance)

/-! TEXL (R294-R296). -/

/-- The texture descriptor of Table 17-4. -/
structure TexDesc where
  rs : Nat
  clampv : Bool
  clampu : Bool
  t4 : Bool
  levels : Nat
  lh : Nat
  lw : Nat
  minmap : Word
  feedback : Word
  deriving DecidableEq, Repr

/-- A texture descriptor, or none where it is malformed (R294; the map addresses: log entry 22). -/
def TexDesc.parse (bs : List Byte) : Option TexDesc :=
  let w := dwordAt bs 0
  let t : TexDesc := ⟨bits w 19 16, w.getLsbD 15, w.getLsbD 14, w.getLsbD 12, bits w 11 8, bits w 7 4, bits w 3 0,
    dwordAt bs 8, dwordAt bs 16⟩
  let badMap (a : Word) : Bool := a.toNat % 4 != 0 || addrClass a != .global
  if bits w 63 20 ≠ 0 ∨ min t.lw t.lh < t.rs ∨ 2 ≤ bits w 13 12 ∨ t.levels = 0 ∨ max t.lw t.lh + 1 < t.levels
      ∨ 14 < t.lw ∨ 14 < t.lh ∨ badMap t.minmap ∨ badMap t.feedback ∨ dwordAt bs 24 ≠ 0 then none
  else some t

/-- Map(z, n, wrap) of R295: floor of RN(z x n), saturated to I32, wrapped or clamped. -/
def texMap (z : W32) (n : Nat) (clamp : Bool) : Nat :=
  let x := rnMul z (cvtIntF32 .rne n).1
  let i : Int := if f32Nan x then 0 else (cvtF32I32 (integralBits .rdn x).1).1.toInt
  if clamp then (max 0 (min i (n - 1))).toNat else (i % (n : Int)).toNat

def TexDesc.dim (lg j : Nat) : Nat := max 1 (2 ^ lg / 2 ^ j)
def TexDesc.levelBytes (t : TexDesc) (j : Nat) : Nat :=
  let w := TexDesc.dim t.lw j
  let h := TexDesc.dim t.lh j
  if t.t4 then (w + 3) / 4 * ((h + 3) / 4) * 8 else w * h * 4
def TexDesc.levelOff (t : TexDesc) (j : Nat) : Nat := ((List.range j).map t.levelBytes).sum
def TexDesc.region (t : TexDesc) (u v : W32) : Nat :=
  texMap v (2 ^ t.lh) t.clampv / 2 ^ t.rs * (2 ^ t.lw / 2 ^ t.rs) + texMap u (2 ^ t.lw) t.clampu / 2 ^ t.rs

/-- The two lanes of a texel at level `j` (R295). -/
def TexDesc.texel (t : TexDesc) (u v : W32) (j : Nat) : Nat × Nat :=
  let wj := TexDesc.dim t.lw j
  let x := texMap u wj t.clampu
  let y := texMap v (TexDesc.dim t.lh j) t.clampv
  if t.t4 then (t.levelOff j + (y / 4 * ((wj + 3) / 4) + x / 4) * 8, j * 256 + y % 4 * 4 + x % 4)
  else (t.levelOff j + (y * wj + x) * 4, j * 256)

/-- Active lanes in ascending order. -/
def active (p : BitVec 16) : List Nat := lanes.filter (fun i => p.getLsbD i)

/-- The first access of a list that cannot be performed. -/
def firstStop (l : List (Word × Checked)) : Option (Word × Checked) :=
  l.find? (fun c => match c.2 with | .ok _ => false | _ => true)

def okPlaces (cs : List (Word × Checked)) : List (Word × Place) :=
  cs.filterMap (fun c => match c.2 with | .ok p => some (c.1, p) | _ => none)
/-- The thread's own accesses of a helper, each checked once: all, or a trap before any, or a hold after those that come before it. -/
def State.texAccess (s : State) (k : Access) (as : List Word) (f : State → Word → Place → State) (go : List (Word × Place) → State → State) :
    State :=
  let cs := as.map (fun a => (a, s.check s.cur a 4 4 k))
  let each (s : State) (l : List (Word × Place)) : State := l.foldl (fun s c => f s c.1 c.2) s
  match firstStop cs with
  | none => go (okPlaces cs) (each s (okPlaces cs))
  | some (_, .trap c v) => s.trap c v
  | some (a, _) => (each s (okPlaces (cs.takeWhile (fun c => match c.2 with | .ok _ => true | _ => false)))).holdOnPage a k

def execTexl (m : MaskCode) (d a b : RowCode) (s : State) : Out :=
  let p := s.mask m
  let u := s.row a
  let v := s.row b
  let fin (s : State) (f g : Nat → W32) : State := ((s.rowWrite p d f).rowWrite p (d + 1) g).advance
  .next (s.localBlock (s.me.csr 0x0C0) 32 32 false (fun s bs =>
    match TexDesc.parse bs with
    | none => fin s (fun _ => 0xFFFFFFFF) (fun _ => 0xFFFFFFFF)
    | some t =>
      let want := min (bits (s.me.csr 0x0C1) 3 0) (t.levels - 1)
      let g (l : Nat) : Nat := t.region (u.lane l) (v.lane l)
      let at' (base : Word) (l : Nat) : Word := base + BitVec.ofNat 64 (4 * g l)
      let loads := if t.minmap = 0 then [] else (active p).map (at' t.minmap)
      let atoms := if t.feedback = 0 then [] else (active p).map (at' t.feedback)
      let s := if loads.isEmpty then s else s.acquire .device
      s.texAccess .read loads (fun s _ _ => s) (fun ps s =>
        let r := ((active p).zip ps).foldl (fun (acc : Tbl Nat × State) q =>
          let x := acc.2.loadChecked acc.2.cur q.2.1 q.2.2 4
          (acc.1.set q.1 (leNat x.1), x.2)) ([], s)
        let level (l : Nat) : Nat := max want (min (r.1.get 0 l) (t.levels - 1))
        let tx (l : Nat) : Nat × Nat := t.texel (u.lane l) (v.lane l) (if p.getLsbD l then level l else 0)
        r.2.texAccess .atomic atoms (fun s ea q => (s.atomicAt ea q 6 .w (BitVec.ofNat 64 want) 0 .device .relaxed).2)
          (fun _ s => fin s (fun l => BitVec.ofNat 32 (tx l).1) (fun l => BitVec.ofNat 32 (tx l).2)))))

/-! TEXD (R297). -/

def x5to8 (c : Nat) : Nat := c * 8 + c / 4
/-- One texel of a T4 block given as two lanes. -/
def t4Texel (lo hi : W32) (n : Nat) : W32 :=
  let base := lo.toNat % 65536
  let step := lo.toNat / 65536
  let k := hi.toNat / 2 ^ (2 * n) % 4
  if step % 2 = 1 then 0xFFFF00FF
  else if step / 2 % 2 = 1 ∧ k = 3 then 0
  else
    let ch (bl sl : Nat) : Nat :=
      let d := step / 2 ^ sl % 16
      let d : Int := if d < 8 then d else (d : Int) - 16
      (min 255 (max 0 ((x5to8 (base / 2 ^ bl % 32) : Int) + k * (d * 2 ^ (step / 4 % 4))))).toNat
    BitVec.ofNat 32 (base % 2 * 255 * 2 ^ 24 + ch 1 4 * 2 ^ 16 + ch 6 8 * 2 ^ 8 + ch 11 12)

def execTexd (m : MaskCode) (d a b : RowCode) (s : State) : Out :=
  let blocks := s.row a
  let sel := s.row b
  .next (s.rowInt m d (fun l =>
    let q := (sel.lane l).toNat / 16 % 8
    t4Texel (blocks.lane (2 * q)) (blocks.lane (2 * q + 1)) ((sel.lane l).toNat % 16)))

end Sys2Proof.Machine
end

