-- ==== Sys2Proof/Machine/Vector.lean ====
section
/-! DEFINITION. Row, mask and LUNGE instructions (R94-R112). -/

namespace Sys2Proof.Machine

open Sys2Proof

def State.v2 (s : State) (m : MaskCode) (d a : RowCode) (b : VSrc) (f : RMode → W32 → W32 → W32 × FFlags) : Out :=
  .next (s.rowFp m d (fun i => f s.me.frm ((s.row a).lane i) (s.vlane b i)))
/-- The old destination is an operand (R94). -/
def State.v3 (s : State) (m : MaskCode) (d a : RowCode) (b : VSrc) (f : RMode → W32 → W32 → W32 → W32 × FFlags) : Out :=
  .next (s.rowFp m d (fun i => f s.me.frm ((s.row a).lane i) (s.vlane b i) ((s.row d).lane i)))
def State.v1 (s : State) (m : MaskCode) (d a : RowCode) (f : RMode → W32 → W32 × FFlags) : Out :=
  .next (s.rowFp m d (fun i => f s.me.frm ((s.row a).lane i)))
def State.vi (s : State) (m : MaskCode) (d a : RowCode) (b : VSrc) (f : W32 → W32 → W32) : Out :=
  .next (s.rowInt m d (fun i => f ((s.row a).lane i) (s.vlane b i)))

def execVadd (m : MaskCode) (d a : RowCode) (b : VSrc) (s : State) : Out := s.v2 m d a b faddBits
def execVsub (m : MaskCode) (d a : RowCode) (b : VSrc) (s : State) : Out := s.v2 m d a b fsubBits
def execVmul (m : MaskCode) (d a : RowCode) (b : VSrc) (s : State) : Out := s.v2 m d a b fmulBits
def execVfma (m : MaskCode) (d a : RowCode) (b : VSrc) (s : State) : Out := s.v3 m d a b ffmaBits
def execVfms (m : MaskCode) (d a : RowCode) (b : VSrc) (s : State) : Out := s.v3 m d a b ffmsBits
def execVfnma (m : MaskCode) (d a : RowCode) (b : VSrc) (s : State) : Out := s.v3 m d a b ffnmaBits
def execVmin (m : MaskCode) (d a : RowCode) (b : VSrc) (s : State) : Out := s.v2 m d a b (fun _ => fminBits)
def execVmax (m : MaskCode) (d a : RowCode) (b : VSrc) (s : State) : Out := s.v2 m d a b (fun _ => fmaxBits)
def execVabs (m : MaskCode) (d a : RowCode) (s : State) : Out := s.v1 m d a (fun _ => vabsBits)
def execVneg (m : MaskCode) (d a : RowCode) (s : State) : Out := s.v1 m d a (fun _ => vnegBits)
def execVrcp (m : MaskCode) (d a : RowCode) (s : State) : Out := s.v1 m d a (fun _ => vrcpBits)
def execVrsq (m : MaskCode) (d a : RowCode) (s : State) : Out := s.v1 m d a (fun _ => vrsqBits)
def execVexp2 (m : MaskCode) (d a : RowCode) (s : State) : Out := s.v1 m d a (fun _ => vexp2Bits)
def execVlog2 (m : MaskCode) (d a : RowCode) (s : State) : Out := s.v1 m d a (fun _ => vlog2Bits)
def execVsqrt (m : MaskCode) (d a : RowCode) (s : State) : Out := s.v1 m d a fsqrtBits
def execVflr (m : MaskCode) (d a : RowCode) (s : State) : Out := s.v1 m d a (fun _ => integralBits .rdn)
def execVceil (m : MaskCode) (d a : RowCode) (s : State) : Out := s.v1 m d a (fun _ => integralBits .rup)
def execVrndn (m : MaskCode) (d a : RowCode) (s : State) : Out := s.v1 m d a (fun _ => integralBits .rne)
def execVcmpf (m : MaskCode) (cc : FCond) (k : MaskCode) (a : RowCode) (b : VSrc) (s : State) : Out :=
  .next (s.maskCmp m k (fun i => fcond cc ((s.row a).lane i) (s.vlane b i)))

/-- VCMPI conditions (R96). -/
def icond (c : ICond) (x y : W32) : Bool :=
  match c with
  | .eq => x == y
  | .ne => x != y
  | .lt => x.slt y
  | .ge => !x.slt y
  | .ltu => x.ult y
  | .geu => !x.ult y
def execVcmpi (m : MaskCode) (cc : ICond) (k : MaskCode) (a : RowCode) (b : VSrc) (s : State) : Out :=
  .next (s.maskCmp m k (fun i => (icond cc ((s.row a).lane i) (s.vlane b i), 0)))

/-- The count of a lane shift is bits [4:0] (R97). -/
def sh5 (b : W32) : Nat := b.toNat % 32
def execViadd (m : MaskCode) (d a : RowCode) (b : VSrc) (s : State) : Out := s.vi m d a b (· + ·)
def execVisub (m : MaskCode) (d a : RowCode) (b : VSrc) (s : State) : Out := s.vi m d a b (· - ·)
def execVimul (m : MaskCode) (d a : RowCode) (b : VSrc) (s : State) : Out := s.vi m d a b (· * ·)
def execVand (m : MaskCode) (d a : RowCode) (b : VSrc) (s : State) : Out := s.vi m d a b (· &&& ·)
def execVor (m : MaskCode) (d a : RowCode) (b : VSrc) (s : State) : Out := s.vi m d a b (· ||| ·)
def execVxor (m : MaskCode) (d a : RowCode) (b : VSrc) (s : State) : Out := s.vi m d a b (· ^^^ ·)
def execVshl (m : MaskCode) (d a : RowCode) (b : VSrc) (s : State) : Out := s.vi m d a b (fun x y => x <<< sh5 y)
def execVshr (m : MaskCode) (d a : RowCode) (b : VSrc) (s : State) : Out := s.vi m d a b (fun x y => x >>> sh5 y)
def execVshra (m : MaskCode) (d a : RowCode) (b : VSrc) (s : State) : Out := s.vi m d a b (fun x y => x.sshiftRight (sh5 y))
def execVimin (m : MaskCode) (d a : RowCode) (b : VSrc) (s : State) : Out := s.vi m d a b (fun x y => if x.slt y then x else y)
def execVimax (m : MaskCode) (d a : RowCode) (b : VSrc) (s : State) : Out := s.vi m d a b (fun x y => if x.slt y then y else x)
def execViminu (m : MaskCode) (d a : RowCode) (b : VSrc) (s : State) : Out := s.vi m d a b (fun x y => if x.ult y then x else y)
def execVimaxu (m : MaskCode) (d a : RowCode) (b : VSrc) (s : State) : Out := s.vi m d a b (fun x y => if x.ult y then y else x)

/-- VSEL writes every lane: a where the selector's bit is 1, b elsewhere (R98). -/
def execVsel (k : MaskCode) (d a : RowCode) (b : VSrc) (s : State) : Out :=
  .next (s.rowInt 0 d (fun i => if (s.mask k).getLsbD i then (s.row a).lane i else s.vlane b i))
/-- d[i] := a[b[i][3:0]] (R99). -/
def execVperm (m : MaskCode) (d a : RowCode) (b : VSrc) (s : State) : Out :=
  .next (s.rowInt m d (fun i => (s.row a).lane ((s.vlane b i).toNat % 16)))
def execVmov (m : MaskCode) (d : RowCode) (b : VSrc) (s : State) : Out := .next (s.rowInt m d (fun i => s.vlane b i))

/-- VCVT of one lane (Table 6-6). -/
def cvtLane (f : CvtFn) (mode : RMode) (x : W32) : W32 × FFlags :=
  match f with
  | .f32i32 => cvtF32I32 x
  | .i32f32 => cvtI32F32 mode x
  | .u32f32 => cvtU32F32 mode x
  | .f32u32 => cvtF32U32 x
  | .bf16lo => cvtFromBf16 (x.toNat % 65536)
  | .bf16hi => cvtFromBf16 (x.toNat / 65536)
  | .f16lo => cvtFromF16 (x.toNat % 65536)
  | .f16hi => cvtFromF16 (x.toNat / 65536)
  | .f8a => cvtFromF8A (x.toNat % 256)
  | .f8b => cvtFromF8B (x.toNat % 256)
def execVcvt (m : MaskCode) (d a : RowCode) (f : CvtFn) (s : State) : Out := s.v1 m d a (cvtLane f)

/-- d[i] := (Cvt(b[i]) << 16) | Cvt(a[i]) (R103). -/
def packLane (cvt : RMode → W32 → Nat × FFlags) (mode : RMode) (x y : W32) : W32 × FFlags :=
  let lo := cvt mode x
  let hi := cvt mode y
  (BitVec.ofNat 32 (hi.1 * 65536 + lo.1), lo.2 ||| hi.2)
def execVpackBf16 (m : MaskCode) (d a b : RowCode) (s : State) : Out := s.v2 m d a (.row b) (packLane cvtBf16)
def execVpackF16 (m : MaskCode) (d a b : RowCode) (s : State) : Out := s.v2 m d a (.row b) (packLane cvtF16)

/-- VRED: the active lanes in the canonical tree (R37, R104). -/
def execVred (m : MaskCode) (o : RedOp) (d : Reg) (a : RowCode) (s : State) : Out :=
  let p := s.mask m
  let xs := (lanes.filter (fun i => p.getLsbD i)).map (fun i => (s.row a).lane i)
  let r : W32 × FFlags :=
    match o with
    | .fsum => reduceFp (faddBits s.me.frm) 0 xs
    | .fmin => reduceFp fminBits inf32 xs
    | .fmax => reduceFp fmaxBits ninf32 xs
    | .isum => reduce (fun x y => (x + y, 0)) 0 xs
  .next (s.putFp d r)
def execVext (d : Reg) (a : RowCode) (n : BitVec 4) (s : State) : Out :=
  .next (s.put d (((s.row a).lane n.toNat).setWidth 64))
def execVins (d : RowCode) (n : BitVec 4) (b : Reg) (s : State) : Out :=
  .next ((s.rowWrite (1#16 <<< n.toNat) d (fun _ => (s.reg b).setWidth 32)).advance)

/-! Mask instructions (Table 6-7). -/

def State.maskPut (s : State) (d : MaskCode) (v : BitVec 16) : Out := .next (s.setMask d v).advance
def execMand (d a b : MaskCode) (s : State) : Out := s.maskPut d (s.mask a &&& s.mask b)
def execMor (d a b : MaskCode) (s : State) : Out := s.maskPut d (s.mask a ||| s.mask b)
def execMxor (d a b : MaskCode) (s : State) : Out := s.maskPut d (s.mask a ^^^ s.mask b)
def execMandn (d a b : MaskCode) (s : State) : Out := s.maskPut d (s.mask a &&& ~~~s.mask b)
def execMnot (d a : MaskCode) (s : State) : Out := s.maskPut d (~~~s.mask a)
def execMmov (d a : MaskCode) (s : State) : Out := s.maskPut d (s.mask a)
def execMpopc (d : Reg) (a : MaskCode) (s : State) : Out :=
  .next (s.put d (BitVec.ofNat 64 (lanes.countP (fun i => (s.mask a).getLsbD i))))
def execMfirst (d : Reg) (a : MaskCode) (s : State) : Out :=
  .next (s.put d (BitVec.ofNat 64 ((lanes.find? (fun i => (s.mask a).getLsbD i)).getD 16)))
def execMset (d : MaskCode) (a : Reg) (s : State) : Out := s.maskPut d ((s.reg a).setWidth 16)
def execMget (d : Reg) (a : MaskCode) (s : State) : Out := .next (s.put d ((s.mask a).setWidth 64))

/-! LUNGE (R107-R112). -/

/-- A word that a body may hold: form V or W, or major 0x26 (R108). -/
def bodyMajor (w : W32) : Bool :=
  let op := (field w 25 7).toNat
  op == 0x25 || op == 0x26 || (0x40 ≤ op && op ≤ 0x5E) || (0x68 ≤ op && op ≤ 0x6D)

/-- A row field of pass p: (field + p x stride) mod 128, unless frozen (R109, R110). -/
def shiftRow (r : RowCode) (p : Nat) (stride : BitVec 7) (frozen : Bool) : RowCode :=
  if frozen then r else r + BitVec.ofNat 7 p * stride
def shiftSrc (b : VSrc) (p : Nat) (stride : BitVec 7) (frozen : Bool) : VSrc :=
  match b with
  | .row r => .row (shiftRow r p stride frozen)
  | .scalar r => .scalar r

/-- A body word with the row fields of pass p (R110): fix[2] freezes d, fix[1] freezes a, fix[0] freezes b. -/
def bodyWord (w : W32) (p : Nat) (stride : BitVec 7) (fix : BitVec 3) : W32 :=
  let op := (field w 25 7).toNat
  let d := fix.getLsbD 2
  let a := fix.getLsbD 1
  let b := fix.getLsbD 0
  if op = 0x25 then packW (field w 25 7) (shiftRow (field w 18 7) p stride d) (field w 13 5) (field w 1 12) (field w 0 1)
  else
    let s1 := field w 0 1 == 1
    let dRow := !(op == 0x49 || op == 0x4A || op == 0x5B || (op == 0x5C && !s1))
    let aRow := !(op == 0x26 || op == 0x5E || (op == 0x5C && s1))
    let bRow := !(op == 0x48 || op == 0x5A || op == 0x5B || op == 0x5C || (s1 && !(op == 0x26 || op == 0x5D)))
    packV (field w 25 7) (field w 22 3) (shiftRow (field w 15 7) p stride (d || !dRow))
      (shiftRow (field w 8 7) p stride (a || !aRow)) (shiftRow (field w 1 7) p stride (b || !bRow)) (field w 0 1)

/-- The trap of a word that a body may not hold: ILLEGAL, or LUNGE for a legal word (R108). -/
def captureFail (w : W32) : Option Nat :=
  match decode w with
  | .error _ => some 1
  | .ok _ => if bodyMajor w then none else some 10

/-- What ends a capture: a page to be held on, or a trap. -/
inductive CaptureStop where
  | held (ea : Word)
  | trap (cause : Nat) (tval : Word)
  deriving DecidableEq, Repr

/-- The four bytes that a fetch finds: those of memory, or any that the word has held since the kernel's launch: which is free. The word is
that of HBM, so that a frame mapped at an address later may yield what it held before (R43; log entry 36). -/
def State.codeBytes (s : State) (t : ThreadId) (pc : Word) (p : Place) : List Byte :=
  let now := s.engineBytes t.core p 4
  match p with
  | .hbm a =>
    (match s.oldWords (s.thread t).ctx (BitVec.ofNat 32 (s.thread t).kernid) (a / 4) with
     | [] => now
     | old => (now :: old).getD (Config.fetchVersion (s.freeCount + pc.toNat) % (old.length + 1)) now)
  | _ => now

/-- The words of a body as fetched, until one cannot be fetched: the page to be held on, or the words (R43, R108). -/
def State.fetchWord (s : State) (t : ThreadId) (pc : Word) : Checked × W32 :=
  let th := s.thread t
  let c := if addrClass pc = .global then s.translate (clusterOf t.core) th.ctx pc .fetch (!th.sup) else .trap 3 pc
  match c with
  | .ok p => (c, wordOfBytes (s.codeBytes t pc p))
  | _ => (c, 0)

/-- The request for a word that another device holds (R178). -/
def State.fetchAsks (s : State) (t : ThreadId) (pc : Word) : State :=
  match (s.fetchWord t pc).1 with
  | .ok p => s.seen t.core p 4
  | .trap _ _ => s
  | .miss => s

/-- Capture `n` words from an address, checked in address order: the words, or what stands in the way. -/
def State.capture (s : State) (pc : Word) : Nat → Except CaptureStop (List W32)
  | 0 => .ok []
  | n + 1 =>
    match s.fetchWord s.cur pc with
    | (.miss, _) => .error (.held pc)
    | (.trap c v, _) => .error (.trap c v)
    | (.ok _, w) =>
      match captureFail w with
      | some c => .error (.trap c (w.setWidth 64))
      | none =>
        match s.capture (pc + 4) n with
        | .ok ws => .ok (w :: ws)
        | .error e => .error e

/-- The replay starts with what has been captured, or the thread is held or traps; a LUNGE counts as an instruction itself (R108, R109). -/
def State.lungeWith (s : State) (c : Except CaptureStop (List W32)) (len : BitVec 4) (cnt : BitVec 8) (stride : BitVec 7)
    (fix : BitVec 3) : State :=
  let pc := s.me.pc
  match c with
  | .error (.held ea) => s.holdOnPage ea .fetch
  | .error (.trap c v) => s.trap c v
  | .ok ws => s.retire.updMe (fun t =>
      { t with replay := some ⟨pc, len.toNat + 1, cnt.toNat + 1, stride, fix, 0, 0, ws⟩, pc := pc + 4 })
/-- What a LUNGE of the current thread captures. -/
def State.lungeBody (s : State) (len : BitVec 4) : Except CaptureStop (List W32) := s.capture (s.me.pc + 4) (len.toNat + 1)

/-- LUNGE captures its body and starts the replay (R108, R109, R111). -/
def execLunge (len : BitVec 4) (cnt : BitVec 8) (stride : BitVec 7) (fix : BitVec 3) (s : State) : Out :=
  match s.lungeBody len with
  | .error e => .next (s.lungeWith (.error e) len cnt stride fix)
  | .ok ws =>
    .next (((List.range (len.toNat + 1)).foldl (fun s i => s.fetchAsks s.cur (s.me.pc + 4 + BitVec.ofNat 64 (4 * i))) s).lungeWith
      (.ok ws) len cnt stride fix)

end Sys2Proof.Machine
end

