-- ==== Sys2Proof/Machine/Dispatch.lean ====
section
/-! DEFINITION. What every instruction and event does: one arm for each constructor of Instr, in the order of its constructors. -/

namespace Sys2Proof.Machine

open Sys2Proof

def exec (i : Instr) (s : State) : Host.Outcome State Fault Refusal :=
  match i with
  | .matOpRetire core => Sys2Proof.Machine.execMatOpRetire core s
  | .loaderSlotLand core ring => Sys2Proof.Machine.execLoaderSlotLand core ring s
  | .storerSlotWritten core ring => Sys2Proof.Machine.execStorerSlotWritten core ring s
  | .copyUnitDone core => Sys2Proof.Machine.execCopyUnitDone core s
  | .streamReadDone core stream => Sys2Proof.Machine.execStreamReadDone core stream s
  | .mergeAccept cluster => Sys2Proof.Machine.execMergeAccept cluster s
  | .mergeEmit cluster mctx => Sys2Proof.Machine.execMergeEmit cluster mctx s
  | .listEngineOperation core => Sys2Proof.Machine.execListEngineOperation core s
  | .listArrival core => Sys2Proof.Machine.execListArrival core s
  | .tensorWeightArrival j => Sys2Proof.Machine.execTensorWeightArrival j s
  | .cellWeightArrival j => Sys2Proof.Machine.execCellWeightArrival j s
  | .storeBufferDrain core slot => Sys2Proof.Machine.execStoreBufferDrain core slot s
  | .cflagsAccrual cluster bits => Sys2Proof.Machine.execCflagsAccrual cluster bits s
  | .messageLanding j => Sys2Proof.Machine.execMessageLanding j s
  | .domainBarrierCompletion ctx inst => Sys2Proof.Machine.execDomainBarrierCompletion ctx inst s
  | .pageWalkComplete die entry => Sys2Proof.Machine.execPageWalkComplete die entry s
  | .faultMessageArrival j => Sys2Proof.Machine.execFaultMessageArrival j s
  | .mailboxCommand die => Sys2Proof.Machine.execMailboxCommand die s
  | .dealDecision die => Sys2Proof.Machine.execDealDecision die s
  | .kernelRetirement ctx kid => Sys2Proof.Machine.execKernelRetirement ctx kid s
  | .queueSwapComplete die ctx handle => Sys2Proof.Machine.execQueueSwapComplete die ctx handle s
  | .encodeFrame eng => Sys2Proof.Machine.execEncodeFrame eng s
  | .illegal w => Sys2Proof.Machine.execIllegal w s
  | .add d a b => Sys2Proof.Machine.execAdd d a b s
  | .sub d a b => Sys2Proof.Machine.execSub d a b s
  | .and d a b => Sys2Proof.Machine.execAnd d a b s
  | .or d a b => Sys2Proof.Machine.execOr d a b s
  | .xor d a b => Sys2Proof.Machine.execXor d a b s
  | .sll d a b => Sys2Proof.Machine.execSll d a b s
  | .srl d a b => Sys2Proof.Machine.execSrl d a b s
  | .sra d a b => Sys2Proof.Machine.execSra d a b s
  | .slt d a b => Sys2Proof.Machine.execSlt d a b s
  | .sltu d a b => Sys2Proof.Machine.execSltu d a b s
  | .seq d a b => Sys2Proof.Machine.execSeq d a b s
  | .min d a b => Sys2Proof.Machine.execMin d a b s
  | .max d a b => Sys2Proof.Machine.execMax d a b s
  | .minu d a b => Sys2Proof.Machine.execMinu d a b s
  | .maxu d a b => Sys2Proof.Machine.execMaxu d a b s
  | .andn d a b => Sys2Proof.Machine.execAndn d a b s
  | .addi d a imm => Sys2Proof.Machine.execAddi d a imm s
  | .andi d a imm => Sys2Proof.Machine.execAndi d a imm s
  | .ori d a imm => Sys2Proof.Machine.execOri d a imm s
  | .xori d a imm => Sys2Proof.Machine.execXori d a imm s
  | .slli d a sh => Sys2Proof.Machine.execSlli d a sh s
  | .srli d a sh => Sys2Proof.Machine.execSrli d a sh s
  | .srai d a sh => Sys2Proof.Machine.execSrai d a sh s
  | .slti d a imm => Sys2Proof.Machine.execSlti d a imm s
  | .sltiu d a imm => Sys2Proof.Machine.execSltiu d a imm s
  | .mul d a b => Sys2Proof.Machine.execMul d a b s
  | .mulh d a b => Sys2Proof.Machine.execMulh d a b s
  | .mulhu d a b => Sys2Proof.Machine.execMulhu d a b s
  | .div d a b => Sys2Proof.Machine.execDiv d a b s
  | .divu d a b => Sys2Proof.Machine.execDivu d a b s
  | .rem d a b => Sys2Proof.Machine.execRem d a b s
  | .remu d a b => Sys2Proof.Machine.execRemu d a b s
  | .lup d imm => Sys2Proof.Machine.execLup d imm s
  | .aupc d imm => Sys2Proof.Machine.execAupc d imm s
  | .clz d a => Sys2Proof.Machine.execClz d a s
  | .ctz d a => Sys2Proof.Machine.execCtz d a s
  | .popc d a => Sys2Proof.Machine.execPopc d a s
  | .brev d a => Sys2Proof.Machine.execBrev d a s
  | .sextb d a => Sys2Proof.Machine.execSextb d a s
  | .sexth d a => Sys2Proof.Machine.execSexth d a s
  | .sextw d a => Sys2Proof.Machine.execSextw d a s
  | .zextw d a => Sys2Proof.Machine.execZextw d a s
  | .fadd d a b => Sys2Proof.Machine.execFadd d a b s
  | .fsub d a b => Sys2Proof.Machine.execFsub d a b s
  | .fmul d a b => Sys2Proof.Machine.execFmul d a b s
  | .fdiv d a b => Sys2Proof.Machine.execFdiv d a b s
  | .fmin d a b => Sys2Proof.Machine.execFmin d a b s
  | .fmax d a b => Sys2Proof.Machine.execFmax d a b s
  | .feq d a b => Sys2Proof.Machine.execFeq d a b s
  | .flt d a b => Sys2Proof.Machine.execFlt d a b s
  | .fle d a b => Sys2Proof.Machine.execFle d a b s
  | .fcvtif d a => Sys2Proof.Machine.execFcvtif d a s
  | .fcvtfi d a => Sys2Proof.Machine.execFcvtfi d a s
  | .fsqrt d a => Sys2Proof.Machine.execFsqrt d a s
  | .fma d a b => Sys2Proof.Machine.execFma d a b s
  | .fclass d a => Sys2Proof.Machine.execFclass d a s
  | .beq a b off => Sys2Proof.Machine.execBeq a b off s
  | .bne a b off => Sys2Proof.Machine.execBne a b off s
  | .blt a b off => Sys2Proof.Machine.execBlt a b off s
  | .bge a b off => Sys2Proof.Machine.execBge a b off s
  | .bltu a b off => Sys2Proof.Machine.execBltu a b off s
  | .bgeu a b off => Sys2Proof.Machine.execBgeu a b off s
  | .bmany m off => Sys2Proof.Machine.execBmany m off s
  | .bmnone m off => Sys2Proof.Machine.execBmnone m off s
  | .bmall m off => Sys2Proof.Machine.execBmall m off s
  | .jmp off => Sys2Proof.Machine.execJmp off s
  | .call off => Sys2Proof.Machine.execCall off s
  | .jr a => Sys2Proof.Machine.execJr a s
  | .callr a => Sys2Proof.Machine.execCallr a s
  | .ld d a off sz sx => Sys2Proof.Machine.execLd d a off sz sx s
  | .st d a off sz => Sys2Proof.Machine.execSt d a off sz s
  | .lda d a sc sz => Sys2Proof.Machine.execLda d a sc sz s
  | .str a b sc sz => Sys2Proof.Machine.execStr a b sc sz s
  | .aadd d a b sc sz o => Sys2Proof.Machine.execAadd d a b sc sz o s
  | .aand d a b sc sz o => Sys2Proof.Machine.execAand d a b sc sz o s
  | .aor d a b sc sz o => Sys2Proof.Machine.execAor d a b sc sz o s
  | .axor d a b sc sz o => Sys2Proof.Machine.execAxor d a b sc sz o s
  | .amin d a b sc sz o => Sys2Proof.Machine.execAmin d a b sc sz o s
  | .amax d a b sc sz o => Sys2Proof.Machine.execAmax d a b sc sz o s
  | .aminu d a b sc sz o => Sys2Proof.Machine.execAminu d a b sc sz o s
  | .amaxu d a b sc sz o => Sys2Proof.Machine.execAmaxu d a b sc sz o s
  | .aswp d a b sc sz o => Sys2Proof.Machine.execAswp d a b sc sz o s
  | .acas d a b sc sz o => Sys2Proof.Machine.execAcas d a b sc sz o s
  | .afadd d a b sc o => Sys2Proof.Machine.execAfadd d a b sc o s
  | .fence pred succ sc => Sys2Proof.Machine.execFence pred succ sc s
  | .vld r a off => Sys2Proof.Machine.execVld r a off s
  | .vst r a off => Sys2Proof.Machine.execVst r a off s
  | .vldx m d sz a b => Sys2Proof.Machine.execVldx m d sz a b s
  | .vstx m d sz a b => Sys2Proof.Machine.execVstx m d sz a b s
  | .csrr d csr => Sys2Proof.Machine.execCsrr d csr s
  | .csrw d a csr => Sys2Proof.Machine.execCsrw d a csr s
  | .csrs d a csr => Sys2Proof.Machine.execCsrs d a csr s
  | .csrc d a csr => Sys2Proof.Machine.execCsrc d a csr s
  | .csrwi d imm csr => Sys2Proof.Machine.execCsrwi d imm csr s
  | .trap a => Sys2Proof.Machine.execTrap a s
  | .exit a => Sys2Proof.Machine.execExit a s
  | .chkpt a => Sys2Proof.Machine.execChkpt a s
  | .ipf a => Sys2Proof.Machine.execIpf a s
  | .send d a b => Sys2Proof.Machine.execSend d a b s
  | .waitc d c b => Sys2Proof.Machine.execWaitc d c b s
  | .cntr d c => Sys2Proof.Machine.execCntr d c s
  | .cntadd d c b => Sys2Proof.Machine.execCntadd d c b s
  | .rkmap d a b => Sys2Proof.Machine.execRkmap d a b s
  | .rkmove d a b => Sys2Proof.Machine.execRkmove d a b s
  | .barinit a b => Sys2Proof.Machine.execBarinit a b s
  | .bararr d a => Sys2Proof.Machine.execBararr d a s
  | .barwait a b => Sys2Proof.Machine.execBarwait a b s
  | .barsync d a => Sys2Proof.Machine.execBarsync d a s
  | .barq d a => Sys2Proof.Machine.execBarq d a s
  | .help d a b => Sys2Proof.Machine.execHelp d a b s
  | .hjoin d a => Sys2Proof.Machine.execHjoin d a s
  | .hitch d a => Sys2Proof.Machine.execHitch d a s
  | .unhitch d => Sys2Proof.Machine.execUnhitch d s
  | .self d => Sys2Proof.Machine.execSelf d s
  | .enq d a b => Sys2Proof.Machine.execEnq d a b s
  | .qres d a b => Sys2Proof.Machine.execQres d a b s
  | .tlink d a b => Sys2Proof.Machine.execTlink d a b s
  | .launch d a b => Sys2Proof.Machine.execLaunch d a b s
  | .kwait d a => Sys2Proof.Machine.execKwait d a s
  | .qpin d a b => Sys2Proof.Machine.execQpin d a b s
  | .tlbinv a b => Sys2Proof.Machine.execTlbinv a b s
  | .freply a b => Sys2Proof.Machine.execFreply a b s
  | .fbread d a b => Sys2Proof.Machine.execFbread d a b s
  | .fbclr a => Sys2Proof.Machine.execFbclr a s
  | .lunge len cnt stride fix => Sys2Proof.Machine.execLunge len cnt stride fix s
  | .vadd m d a b => Sys2Proof.Machine.execVadd m d a b s
  | .vsub m d a b => Sys2Proof.Machine.execVsub m d a b s
  | .vmul m d a b => Sys2Proof.Machine.execVmul m d a b s
  | .vfma m d a b => Sys2Proof.Machine.execVfma m d a b s
  | .vfms m d a b => Sys2Proof.Machine.execVfms m d a b s
  | .vfnma m d a b => Sys2Proof.Machine.execVfnma m d a b s
  | .vmin m d a b => Sys2Proof.Machine.execVmin m d a b s
  | .vmax m d a b => Sys2Proof.Machine.execVmax m d a b s
  | .vabs m d a => Sys2Proof.Machine.execVabs m d a s
  | .vneg m d a => Sys2Proof.Machine.execVneg m d a s
  | .vrcp m d a => Sys2Proof.Machine.execVrcp m d a s
  | .vrsq m d a => Sys2Proof.Machine.execVrsq m d a s
  | .vexp2 m d a => Sys2Proof.Machine.execVexp2 m d a s
  | .vlog2 m d a => Sys2Proof.Machine.execVlog2 m d a s
  | .vsqrt m d a => Sys2Proof.Machine.execVsqrt m d a s
  | .vflr m d a => Sys2Proof.Machine.execVflr m d a s
  | .vceil m d a => Sys2Proof.Machine.execVceil m d a s
  | .vrndn m d a => Sys2Proof.Machine.execVrndn m d a s
  | .vcmpf m cc k a b => Sys2Proof.Machine.execVcmpf m cc k a b s
  | .vcmpi m cc k a b => Sys2Proof.Machine.execVcmpi m cc k a b s
  | .viadd m d a b => Sys2Proof.Machine.execViadd m d a b s
  | .visub m d a b => Sys2Proof.Machine.execVisub m d a b s
  | .vimul m d a b => Sys2Proof.Machine.execVimul m d a b s
  | .vand m d a b => Sys2Proof.Machine.execVand m d a b s
  | .vor m d a b => Sys2Proof.Machine.execVor m d a b s
  | .vxor m d a b => Sys2Proof.Machine.execVxor m d a b s
  | .vshl m d a b => Sys2Proof.Machine.execVshl m d a b s
  | .vshr m d a b => Sys2Proof.Machine.execVshr m d a b s
  | .vshra m d a b => Sys2Proof.Machine.execVshra m d a b s
  | .vimin m d a b => Sys2Proof.Machine.execVimin m d a b s
  | .vimax m d a b => Sys2Proof.Machine.execVimax m d a b s
  | .viminu m d a b => Sys2Proof.Machine.execViminu m d a b s
  | .vimaxu m d a b => Sys2Proof.Machine.execVimaxu m d a b s
  | .vsel k d a b => Sys2Proof.Machine.execVsel k d a b s
  | .vperm m d a b => Sys2Proof.Machine.execVperm m d a b s
  | .vcvt m d a f => Sys2Proof.Machine.execVcvt m d a f s
  | .vred m o d a => Sys2Proof.Machine.execVred m o d a s
  | .vext d a n => Sys2Proof.Machine.execVext d a n s
  | .vins d n b => Sys2Proof.Machine.execVins d n b s
  | .vpackBf16 m d a b => Sys2Proof.Machine.execVpackBf16 m d a b s
  | .vpackF16 m d a b => Sys2Proof.Machine.execVpackF16 m d a b s
  | .vmov m d b => Sys2Proof.Machine.execVmov m d b s
  | .mand d a b => Sys2Proof.Machine.execMand d a b s
  | .mor d a b => Sys2Proof.Machine.execMor d a b s
  | .mxor d a b => Sys2Proof.Machine.execMxor d a b s
  | .mandn d a b => Sys2Proof.Machine.execMandn d a b s
  | .mnot d a => Sys2Proof.Machine.execMnot d a s
  | .mmov d a => Sys2Proof.Machine.execMmov d a s
  | .mpopc d a => Sys2Proof.Machine.execMpopc d a s
  | .mfirst d a => Sys2Proof.Machine.execMfirst d a s
  | .mset d a => Sys2Proof.Machine.execMset d a s
  | .mget d a => Sys2Proof.Machine.execMget d a s
  | .mma d a b ka kb => Sys2Proof.Machine.execMma d a b ka kb s
  | .mzero d => Sys2Proof.Machine.execMzero d s
  | .mst d a => Sys2Proof.Machine.execMst d a s
  | .mld d a => Sys2Proof.Machine.execMld d a s
  | .mwait d => Sys2Proof.Machine.execMwait d s
  | .mchk d a b ka kb => Sys2Proof.Machine.execMchk d a b ka kb s
  | .rinit d a b => Sys2Proof.Machine.execRinit d a b s
  | .rpush d a b => Sys2Proof.Machine.execRpush d a b s
  | .rsub d a b storer => Sys2Proof.Machine.execRsub d a b storer s
  | .runsub d a => Sys2Proof.Machine.execRunsub d a s
  | .rstat d a => Sys2Proof.Machine.execRstat d a s
  | .cpy d => Sys2Proof.Machine.execCpy d s
  | .cwait d a => Sys2Proof.Machine.execCwait d a s
  | .cstat d a => Sys2Proof.Machine.execCstat d a s
  | .sopen d a => Sys2Proof.Machine.execSopen d a s
  | .spop d a b => Sys2Proof.Machine.execSpop d a b s
  | .spush d a b => Sys2Proof.Machine.execSpush d a b s
  | .mgopen d a b => Sys2Proof.Machine.execMgopen d a b s
  | .mgpush d a b => Sys2Proof.Machine.execMgpush d a b s
  | .mgend d a => Sys2Proof.Machine.execMgend d a s
  | .mgpop d a b => Sys2Proof.Machine.execMgpop d a b s
  | .mgstat d a b => Sys2Proof.Machine.execMgstat d a b s
  | .mgdrain d a => Sys2Proof.Machine.execMgdrain d a s
  | .ilopen d a b => Sys2Proof.Machine.execIlopen d a b s
  | .ilins d a b => Sys2Proof.Machine.execIlins d a b s
  | .ilsend d a b => Sys2Proof.Machine.execIlsend d a b s
  | .ilcut d a => Sys2Proof.Machine.execIlcut d a s
  | .ilcomp d a b => Sys2Proof.Machine.execIlcomp d a b s
  | .ilread d a b => Sys2Proof.Machine.execIlread d a b s
  | .ilclose d a => Sys2Proof.Machine.execIlclose d a s
  | .ilstat d a => Sys2Proof.Machine.execIlstat d a s
  | .hnew d a => Sys2Proof.Machine.execHnew d a s
  | .hcopy d a => Sys2Proof.Machine.execHcopy d a s
  | .hdrop a => Sys2Proof.Machine.execHdrop a s
  | .hbind d a b => Sys2Proof.Machine.execHbind d a b s
  | .hwgt d a => Sys2Proof.Machine.execHwgt d a s
  | .haddr d a => Sys2Proof.Machine.execHaddr d a s
  | .hmerge d a b => Sys2Proof.Machine.execHmerge d a b s
  | .boxt k d a b => Sys2Proof.Machine.execBoxt k d a b s
  | .trit m d a b => Sys2Proof.Machine.execTrit m d a b s
  | .splt m d a b => Sys2Proof.Machine.execSplt m d a b s
  | .edge m d a b => Sys2Proof.Machine.execEdge m d a b s
  | .texl m d a b => Sys2Proof.Machine.execTexl m d a b s
  | .texd m d a b => Sys2Proof.Machine.execTexd m d a b s
  | .ret => Sys2Proof.Machine.execRet s
  | .eret => Sys2Proof.Machine.execEret s
  | .brk => Sys2Proof.Machine.execBrk s
  | .yield => Sys2Proof.Machine.execYield s
  | .wfe => Sys2Proof.Machine.execWfe s
  | .trig => Sys2Proof.Machine.execTrig s
  | .replay => Sys2Proof.Machine.execReplay s
  | .csrWriteFrm f => Sys2Proof.Machine.execCsrWriteFrm f s
  | .csrAccessFflags f => Sys2Proof.Machine.execCsrAccessFflags f s
  | .csrReadCflags f => Sys2Proof.Machine.execCsrReadCflags f s
  | .csrWriteStatus f => Sys2Proof.Machine.execCsrWriteStatus f s
  | .csrWriteWindow f limit => Sys2Proof.Machine.execCsrWriteWindow f limit s
  | .csrWriteMfmt f => Sys2Proof.Machine.execCsrWriteMfmt f s
  | .csrWriteMerr f => Sys2Proof.Machine.execCsrWriteMerr f s
  | .csrWriteDomain f => Sys2Proof.Machine.execCsrWriteDomain f s
  | .csrWriteHpmcnt f n => Sys2Proof.Machine.execCsrWriteHpmcnt f n s
  | .csrWriteOther f csr => Sys2Proof.Machine.execCsrWriteOther f csr s
  | .halterHomeReply core slot => Sys2Proof.Machine.execHalterHomeReply core slot s
  | .waittoExpiry core slot => Sys2Proof.Machine.execWaittoExpiry core slot s
  | .chkmaxExpiry core slot => Sys2Proof.Machine.execChkmaxExpiry core slot s
  | .deadlockDeclaration ctx => Sys2Proof.Machine.execDeadlockDeclaration ctx s
  | .instructionCacheFill cluster => Sys2Proof.Machine.execInstructionCacheFill cluster s
  | .harnessFlitReceive port flit => Sys2Proof.Machine.execHarnessFlitReceive port flit s
  | .harnessNak port seq => Sys2Proof.Machine.execHarnessNak port seq s
  | .laneLockLoss port => Sys2Proof.Machine.execLaneLockLoss port s
  | .linkTrainingResult port lanes => Sys2Proof.Machine.execLinkTrainingResult port lanes s
  | .trainingRetryTimer port => Sys2Proof.Machine.execTrainingRetryTimer port s
  | .typoroContextCreate h c => Sys2Proof.Machine.execTyporoContextCreate h c s
  | .typoroTeardown h => Sys2Proof.Machine.execTyporoTeardown h s
  | .typoroPaddockDefine h sets => Sys2Proof.Machine.execTyporoPaddockDefine h sets s
  | .typoroMapMemory h entries => Sys2Proof.Machine.execTyporoMapMemory h entries s
  | .typoroUnmapMemory h vas => Sys2Proof.Machine.execTyporoUnmapMemory h vas s
  | .typoroCopyToDevice h va bytes => Sys2Proof.Machine.execTyporoCopyToDevice h va bytes s
  | .typoroCopyToHost h va len => Sys2Proof.Machine.execTyporoCopyToHost h va len s
  | .typoroLaunch h card tcb => Sys2Proof.Machine.execTyporoLaunch h card tcb s
  | .typoroQueueCreate h q => Sys2Proof.Machine.execTyporoQueueCreate h q s
  | .typoroQueueDestroy h handle => Sys2Proof.Machine.execTyporoQueueDestroy h handle s
  | .typoroQueuePin h handle pin => Sys2Proof.Machine.execTyporoQueuePin h handle pin s
  | .typoroPreempt h => Sys2Proof.Machine.execTyporoPreempt h s
  | .typoroResume h paddock => Sys2Proof.Machine.execTyporoResume h paddock s
  | .typoroGroupMove h w0 w1 => Sys2Proof.Machine.execTyporoGroupMove h w0 w1 s
  | .typoroEventRead h io max => Sys2Proof.Machine.execTyporoEventRead h io max s
  | .typoroWsWindowOpen h => Sys2Proof.Machine.execTyporoWsWindowOpen h s
  | .typoroWsWindowClose h => Sys2Proof.Machine.execTyporoWsWindowClose h s
  | .typoroLinkConfig h number ports keys => Sys2Proof.Machine.execTyporoLinkConfig h number ports keys s
  | .typoroRouteSet h dst port => Sys2Proof.Machine.execTyporoRouteSet h dst port s
  | .typoroEncoderSetup h eng binds => Sys2Proof.Machine.execTyporoEncoderSetup h eng binds s
  | .typoroAttestationQuote h nonce => Sys2Proof.Machine.execTyporoAttestationQuote h nonce s
  | .typoroPatchLoad h image => Sys2Proof.Machine.execTyporoPatchLoad h image s
  | .typoroRepeatedCommand h => Sys2Proof.Machine.execTyporoRepeatedCommand h s
  | .typoroBadCommand h opcode => Sys2Proof.Machine.execTyporoBadCommand h opcode s
  | .powerOn badCores => Sys2Proof.Machine.execPowerOn badCores s
  | .grcResetN ms badCores => Sys2Proof.Machine.execGrcResetN ms badCores s
  | .smbusResetWrite badCores => Sys2Proof.Machine.execSmbusResetWrite badCores s
  | .smbusWriteOther reg val => Sys2Proof.Machine.execSmbusWriteOther reg val s
  | .sensorSample r => Sys2Proof.Machine.execSensorSample r s
  | .coolantStepTimer => Sys2Proof.Machine.execCoolantStepTimer s
  | .lifetimeRecordWrite => Sys2Proof.Machine.execLifetimeRecordWrite s
  | .powerLoss => Sys2Proof.Machine.execPowerLoss s
  | .voltageDroop die => Sys2Proof.Machine.execVoltageDroop die s
  | .forwardedAccess ctx va user op => Sys2Proof.Machine.execForwardedAccess ctx va user op s
  | .uetPacket port packet => Sys2Proof.Machine.execUetPacket port packet s

end Sys2Proof.Machine
end

