-- ==== Sys2Proof/Machine/Settle.lean ====
section
/-! DEFINITION. What follows from a step without an event of its own: chunks complete, groups retire, triggers fire, kernels go
on, waiting finalisers launch, abandoned merges are drained, parks finish (Tables 5-1, 12-1, 13-3, R231, R243, R315). -/

namespace Sys2Proof.Machine

open Sys2Proof

/-! Chunks and groups (Table 12-1, R243). -/

/-- Head moves past the records that are freed (Table 14-1). -/
def Queue.headOn (q : Queue) : Nat → Queue
  | 0 => q
  | n + 1 =>
    if q.freed.contains q.head then
      { q with freed := q.freed.erase q.head, head := (q.head + 1) % max 1 q.capacity }.headOn n
    else q
/-- The records of a node chunk are freed (R243; out of order: log entry 20). -/
def Queue.freeRecords (q : Queue) (first n : Nat) : Queue :=
  { q with
    occupied := q.occupied - n
    freed := q.freed ++ (List.range n).map (fun i => (first + i) % max 1 q.capacity) }.headOn (q.freed.length + n)

/-- A chunk is complete: its accesses are performed, its unused reservations returned, a node's records freed (R243). -/
def State.completeChunk (s : State) (x : Nat) (g : Group) (k : Chunk) : State :=
  let s := g.cores.foldl (fun s c => s.drainAll c) s
  let s := k.resv.foldl (fun s r => s.updQueue x r.1 (fun q => { q with reserved := q.reserved - r.2 })) s
  let s := if ((s.ctx x).queue k.queue).kind = .node then s.updQueue x k.queue (·.freeRecords k.first k.n) else s
  s.updCtx x (fun y => { y with groups := y.groups.map (fun r =>
    if r.id = g.id then { r with state := .placed, chunk := none } else r) })

/-- Slot 0 of every core of the group is FREE, and no store waits in a buffer for spill writes of the list engine (R139). -/
def State.groupDone (s : State) (g : Group) : Bool :=
  g.cores.all (fun c => ((s.core c).thread 0).state == .free && (s.core c).stores.all (fun e => !s.strWaits c e))

/-- The kernel or node of a group has no records left to deal (log entry 17). -/
def Ctx.noRecords (x : Ctx) (kid : W32) : Bool :=
  match x.kernel kid with
  | some k => k.state == .draining || k.state == .retiring || k.state == .retired
  | none => match x.queues.find? (fun q => q.2.kind == .node && q.2.kid == kid) with
    | some q => q.2.undealt == 0
    | none => true

/-- A group of a kernel or node without records left is RETIRED: a gang only as a whole, and not while one of its groups moves (R216,
R263). -/
def State.mayRetire (s : State) (x : Nat) (g : Group) : Bool :=
  let y := s.ctx x
  let gang := (y.cardOf g.kid.toNat).any (·.cores)
  g.chunk.isNone && y.noRecords g.kid && y.moving.all (fun m => m.1 != g.id)
    && (!gang || (y.groupsOf g.kid).all (fun r => r.chunk.isNone && y.moving.all (fun m => m.1 != r.id)))

def State.settleGroup (s : State) (x : Nat) (g : Group) : State :=
  let s := match g.chunk with
    | none => s
    | some k => if s.groupDone g then s.completeChunk x g k else s
  match (s.ctx x).groups.find? (fun r => r.id == g.id) with
  | none => s
  | some r => if s.mayRetire x r then s.retireGroup x r else s

/-! Kernels (Table 13-3, R231). -/

/-- Slot 0 of every dealt chunk has executed TRIG, or is DONE or FREE. -/
def State.chunksTriggered (s : State) (x : Nat) (kid : W32) : Bool :=
  ((s.ctx x).groupsOf kid).all (fun g => g.chunk.isNone || g.cores.all (fun c =>
    ((s.core c).thread 0).trigDone || ((s.core c).thread 0).state.ended))

def State.settleKernel (s : State) (x : Nat) (kid : W32) : State :=
  match (s.ctx x).kernel kid with
  | none => s
  | some k =>
    let dealt := k.state == .draining || k.state == .retiring
    let s := if dealt && !k.trigged && s.chunksTriggered x kid then s.updKernel x kid Kernel.fire else s
    let s := if k.state == .draining && ((s.ctx x).groupsOf kid).isEmpty then
        s.updKernel x kid (fun k => { k with state := .retiring }) else s
    s.runTodo x kid 16

/-- A finaliser that waited for a kernel to retire is launched (R315). -/
def State.settleFinals (s : State) (x : Nat) : Nat → State
  | 0 => s
  | n + 1 =>
    match (s.ctx x).finals with
    | [] => s
    | (die, id, c) :: rest =>
      if 1024 ≤ (s.ctx x).kernelCount then s
      else ((s.updCtx x (fun y => { y with finals := rest })).finalise x die id c).settleFinals x n

/-! Everything. -/

def State.settleCtx (s : State) (x : Nat) : State :=
  let y := s.ctx x
  if y.state ≠ .active then s.parkProgress x
  else
    let s := y.groups.foldl (fun s g => s.settleGroup x g) s
    let s := y.kernels.foldl (fun s k => s.settleKernel x k.kid) s
    let s := s.settleFinals x y.finals.length
    s.parkProgress x

/-- Gangs whose effective priority has reached 7 take their paddocks' drain reservations (R216). -/
def State.settleReserves (s : State) : State :=
  [0, 1, 2, 3].foldl (fun s d => (s.works d).foldl (fun s w => s.drainReserve d w) s) s

def State.settle (s : State) : State :=
  let s := (s.cores.map (·.1)).foldl (fun s c => s.settleCore c) s
  let s := (s.clusters.map (·.1)).foldl (fun s cl => [0, 1, 2, 3].foldl (fun s n => s.mgReap cl n) s) s
  ((s.ctxs.map (·.1)).foldl (fun s x => s.settleCtx x) s).settleReserves

end Sys2Proof.Machine
end

