-- ==== Sys2Proof/Machine/Turn.lean ====
section
/-! DEFINITION. A core's turn: which thread issues, fetch and decode, the scoreboard, fences, hitches in lock step (R43, R59,
R93, R109, R166, R218-R222), and the device's own steps that may come next. -/

namespace Sys2Proof.Machine

open Sys2Proof

/-! The word a thread comes to. -/

/-- What the fetch finds: a word, a trap, or a page that the thread is held on. -/
inductive Fetched where
  | word (w : W32)
  | trap (cause : Nat) (tval : Word)
  | miss
  deriving DecidableEq, Repr

/-- The next word of a thread: the body word of its replay, or the word at pc (R43, R109, R111). -/
def State.nextWord (s : State) (t : ThreadId) : Fetched :=
  let th := s.thread t
  match th.replay with
  | some r => .word (bodyWord (r.words.getD r.j 0) r.p r.stride r.fix)
  | none => match s.fetchWord t th.pc with
    | (.ok _, w) => .word w
    | (.trap c v, _) => .trap c v
    | (.miss, _) => .miss

/-- What the fetch of the next word leaves: the request for one that another device holds (R178). -/
def State.fetched (s : State) (t : ThreadId) : State :=
  if (s.thread t).replay.isSome then s else s.fetchAsks t (s.thread t).pc

/-- The instruction of a word; a word that decodes to none is ILLEGAL (R47). -/
def instrOf (w : W32) : Instr :=
  match decode w with
  | .ok i => i
  | .error _ => .illegal w

/-! The scoreboard (R93). -/

/-- Rows that an instruction writes through a register, or beside a row that it does name (R295). -/
def Thread.rowsWritten (t : Thread) (i : Instr) : List Nat :=
  match i with
  | .spop _ _ b => [bits (t.reg b) 6 0]
  | .mgpop _ _ b => [bits (t.reg b) 6 0, (bits (t.reg b) 6 0 + 1) % 128]
  | .ilread _ _ b => [bits (t.reg b) 6 0]
  | .ilcomp _ _ b => [bits (t.reg b) 6 0]
  | .texl _ d _ _ => [(d.toNat + 1) % 128]
  | _ => []

/-- Rows that an instruction reads through a register, or beside a row that it does name (R289, R291). -/
def Thread.rowsBeside (t : Thread) (i : Instr) : List Nat := if (namesOf i).tiles.isEmpty then t.rowsRead i else []

def isWindowMove (i : Instr) : Bool :=
  match i with
  | .call _ => true
  | .callr _ => true
  | .ret => true
  | _ => false

def Pend.isReg (p : Pend) : Bool :=
  match p with
  | .reg _ => true
  | .row _ => false
  | .mask _ => false
def Pend.inTile (p : Pend) (tile : Nat) : Bool :=
  match p with
  | .row r => r / 16 == tile
  | .reg _ => false
  | .mask _ => false

/-- An earlier instruction of the thread has still to write something that this one names, or a spill write that it waits for (R284). -/
def State.stalls (s : State) (t : ThreadId) (i : Instr) : Bool :=
  let k := s.core t.core
  let th := k.thread t.slot
  let nm := namesOf i
  let rows := (nm.drows ++ nm.rows).map (·.toNat) ++ th.rowsWritten i ++ th.rowsBeside i
  (nm.dst ++ nm.regs).any (fun r => th.pend.contains (.reg (th.regId r))) || (isWindowMove i && th.pend.any Pend.isReg)
    || rows.any (fun r => th.pend.contains (.row r) || k.tileBusy t.slot (r / 16))
    || nm.tiles.any (fun q => th.pend.any (·.inTile q.toNat)) || s.spillHolds t i

/-! One thread issues. -/

/-- The core passes a thread over after its YIELD until each slot that was READY then has issued, or no other slot is READY (R83). -/
def State.yields (s : State) (t : ThreadId) : Bool :=
  (s.thread t).yieldMask != 0 && slots.any (fun n => n != t.slot && ((s.core t.core).thread n).state == .ready)

/-- Execute an instruction as a thread at its word. -/
def State.runAs (s : State) (t : ThreadId) (w : W32) (i : Instr) : Out :=
  exec i { s.updThread t (·.atWord w i) with cur := t }

/-- Fences that hold nothing back any more are forgotten. -/
def State.pruneFences (s : State) (t : ThreadId) : State :=
  if (s.thread t).fences.isEmpty then s
  else
    let fs := s.liveFences t
    s.updThread t (fun x => { x with fences := fs })

/-- The thread has issued: the YIELDs of the others have seen it, and its own is over. It is the last that did, for R59; a hitch
takes no place in that order, which its core's helpers keep among themselves (R220). The line it filled is used (log entry 9). -/
def State.issued (s : State) (t : ThreadId) : State :=
  s.updCore t.core (fun k =>
    let last := if (k.thread t.slot).hitch.isSome then k.lastIss else t.slot
    let k := if (k.thread t.slot).filled then k.setThread t.slot { k.thread t.slot with filled := false } else k
    let k := k.mapThreads (fun x => if x.yieldMask.getLsbD t.slot then { x with yieldMask := x.yieldMask &&& ~~~(1#11 <<< t.slot) } else x)
    let k := if (k.thread t.slot).yieldMask = 0 then k else k.setThread t.slot { k.thread t.slot with yieldMask := 0 }
    { k with lastIss := last })

/-- What trying to issue a thread comes to: it is passed over, its instruction cannot issue, or a step. -/
inductive Tried where
  | passed
  | stalled
  | did (o : Out)

def Tried.didIt (o : Tried) : Bool :=
  match o with
  | .passed => false
  | .stalled => false
  | .did _ => true
def Tried.stalls (o : Tried) : Bool :=
  match o with
  | .passed => false
  | .stalled => true
  | .did _ => false

/-- The outcome where the thread has changed; a thread that is as it was has not issued. -/
def progress (before : Thread) (t : ThreadId) (o : Out) : Tried :=
  match o with
  | .next s => if s.thread t = before then .stalled else .did (.next s)
  | .fault r => .did (.fault r)
  | .refused r => .did (.refused r)

/-- A thread issues its instruction, if no engine's queue is full. -/
def State.runWord (s : State) (t : ThreadId) (w : W32) (i : Instr) : Tried :=
  let s := (s.pruneFences t).issued t
  progress ((s.thread t).atWord w i) t (s.runAs t w i)

/-- Try to issue a thread's instruction alone. -/
def State.tryWord (s : State) (t : ThreadId) (w : W32) : Tried :=
  let i := instrOf w
  if s.stalls t i then .stalled
  else if s.fenceHolds t i then .did (.next (s.blockAt t .fence w))
  else s.runWord t w i

/-- Try one thread that issues alone. -/
def State.tryThread (s : State) (t : ThreadId) : Tried :=
  match s.nextWord t with
  | .trap c v => .did (.next ((s.issued t).trapAt t c v))
  | .miss => progress (s.thread t) t (.next ({ s with cur := t }.holdOnPage (s.thread t).pc .fetch))
  | .word w => (s.fetched t).tryWord t w

/-! Hitches (R218-R222). -/

/-- The leader of a thread's hitch. -/
def HitchRec.lead (h : HitchRec) (t : ThreadId) : ThreadId := hitchMember (clusterOf t.core) h.leader

/-- The direction of a branch on a thread's own operands; none for another instruction (R75, R76, R221). -/
def State.direction (s : State) (t : ThreadId) (i : Instr) : Option Bool :=
  let s : State := { s with cur := t }
  match i with
  | .beq a b _ => some (s.reg a == s.reg b)
  | .bne a b _ => some (s.reg a != s.reg b)
  | .blt a b _ => some ((s.reg a).slt (s.reg b))
  | .bge a b _ => some (!(s.reg a).slt (s.reg b))
  | .bltu a b _ => some ((s.reg a).ult (s.reg b))
  | .bgeu a b _ => some (!(s.reg a).ult (s.reg b))
  | .bmany m _ => some (s.mask m != (0 : BitVec 16))
  | .bmnone m _ => some (s.mask m == (0 : BitVec 16))
  | .bmall m _ => some (s.mask m == (0xFFFF : BitVec 16))
  | _ => none

/-- A member leaves: one that is level with the leader and stands elsewhere, one whose leader is no longer in the hitch, or one that
has ended alone while the leader has not (R221). -/
def State.checkMember (s : State) (lead m : ThreadId) : State :=
  if m = lead then s
  else match (s.thread m).hitch, (s.thread lead).hitch with
    | none, none => s
    | none, some g => if g.mask.getLsbD (coreIdOf m.core) then s.leaveWith m g else s
    | some _, none => s.leaveHitch m
    | some h, some g => if h.pos = g.pos ∧ (s.thread m).pc ≠ (s.thread lead).pc then s.leaveHitch m else s
def State.checkHitch (s : State) (lead : ThreadId) (ms : List ThreadId) : State := ms.foldl (fun s m => s.checkMember lead m) s

def isUnhitch (i : Instr) : Bool :=
  match i with
  | .unhitch _ => true
  | _ => false

/-- What a LUNGE of the leader captures, for the whole hitch (R220). -/
def State.leaderBody (s : State) (lead : ThreadId) (i : Instr) : Option (Except CaptureStop (List W32)) :=
  match i with
  | .lunge len _ _ _ => some ({ s with cur := lead }.lungeBody len)
  | _ => none
/-- A follower executes the leader's word with its own operands; the body of a LUNGE is the leader's. -/
def State.runFollower (s : State) (body : Option (Except CaptureStop (List W32))) (m : ThreadId) (w : W32) (i : Instr) : Out :=
  match body, i with
  | some b, .lunge len cnt stride fix => .next ({ s.updThread m (·.atWord w i) with cur := m }.lungeWith b len cnt stride fix)
  | _, _ => s.runAs m w i
/-- The followers execute the leader's word after it. -/
def State.runFollowers (s : State) (body : Option (Except CaptureStop (List W32))) (w : W32) (i : Instr) : List ThreadId → Out
  | [] => .next s
  | m :: rest =>
    match ((s.pruneFences m).issued m).runFollower body m w i with
    | .next s => s.runFollowers body w i rest
    | .fault r => .fault r
    | .refused r => .refused r

/-- Waits that keep an instruction from issuing (R119, R131). -/
def Wait.before (w : Wait) : Bool :=
  match w with
  | .ringSlot _ _ => true
  | .storeBuffer => true
  | _ => false
def SlotState.before (x : SlotState) : Bool :=
  match x with
  | .blocked w _ => w.before
  | .free => false
  | .ready => false
  | .done _ => false
  | .parked _ _ => false
/-- The member as it is kept from issuing, where its slot test fails or its store buffer is full. -/
def Tried.keeps (o : Tried) (m : ThreadId) : Option Thread :=
  match o with
  | .did (.next s) => if (s.thread m).state.before then some (s.thread m) else none
  | .did (.fault _) => none
  | .did (.refused _) => none
  | .stalled => none
  | .passed => none

/-- The instruction issues on every member in one cycle: the leader, then the others. Those whose branch goes the other way leave. -/
def State.issueAll (s : State) (lead : ThreadId) (ms : List ThreadId) (w : W32) (i : Instr) : Out :=
  match ((s.pruneFences lead).issued lead).runAs lead w i with
  | .next r =>
    if isUnhitch i then .next r
    else match r.runFollowers (s.leaderBody lead i) w i (ms.filter (fun m => m != lead)) with
      | .next r =>
        let other := ms.filter (fun m => m != lead && s.direction m i != s.direction lead i)
        .next ((other.foldl (fun r m => r.leaveHitch m) r).checkHitch lead ms)
      | .fault f => .fault f
      | .refused f => .refused f
  | .fault f => .fault f
  | .refused f => .refused f

/-- The core has a helper that is READY. -/
def Core.readyHelper (k : Core) : Bool := (slots.drop 1).any (fun n => (k.thread n).state == .ready)

/-- A word issues for the whole hitch, once it can on every member (R220): until then no member issues it. After it, the members'
cores that have a READY helper give their next cycle to their helpers. -/
def State.lockWord (s : State) (lead : ThreadId) (ms : List ThreadId) (w : W32) : Tried :=
  let i := instrOf w
  if ms.any (fun m => s.stalls m i) then .stalled
  else if ms.any (fun m => s.fenceHolds m i) then
    .did (.next (ms.foldl (fun s m => if s.fenceHolds m i then s.blockAt m .fence w else s) s))
  else
    let tries := if isUnhitch i then [] else ms.map (fun m => (m, s.runWord m w i))
    if tries.any (fun p => p.2.stalls) then .stalled
    else if tries.any (fun p => (p.2.keeps p.1).isSome) then
      .did (.next (tries.foldl (fun s p => match p.2.keeps p.1 with
        | some th => s.setThread p.1 th
        | none => s) s))
    else
      let s := ms.foldl (fun s m => if (s.core m.core).readyHelper then s.updCore m.core (fun k => { k with helpersNext := true }) else s) s
      .did (s.issueAll lead ms w i)

/-- The leader fetches for the whole hitch, whose members are READY and level. -/
def State.lockStep (s : State) (lead : ThreadId) (ms : List ThreadId) : Tried :=
  match s.nextWord lead with
  | .word w => (s.fetched lead).lockWord lead ms w
  | .trap _ _ => s.tryThread lead
  | .miss => s.tryThread lead

/-- A wait that the thread's instruction has begun is over: the instruction ends on this member by itself. -/
def Thread.resumes (t : Thread) : Bool :=
  match t.woke with
  | none => false
  | some (w, _) => !w.before

/-- Try a member of a hitch. One that the others are ahead of, or whose wait is over, ends its instruction alone (R193); one that is
ahead waits; else all issue in lock step once all are READY, and no member core owes its helpers a cycle (R220). -/
def State.tryMember (s : State) (t : ThreadId) (h : HitchRec) : Tried :=
  let ms := hitchMembers t h.mask
  let pos (m : ThreadId) : Nat := ((s.thread m).hitch.map (·.pos)).getD h.pos
  if ms.any (fun m => h.pos < pos m) ∨ (s.thread t).resumes then
    match s.tryWord t (s.thread t).word with
    | .did (.next r) => .did (.next (r.checkHitch (h.lead t) ms))
    | r => r
  else if ms.any (fun m => pos m < h.pos || (s.thread m).state != .ready || (s.core m.core).helpersNext) ∨ s.yields (h.lead t) then .passed
  else s.lockStep (h.lead t) ms

/-- Try a slot: it must be READY, in an ACTIVE context, and not passed over by YIELD. -/
def State.trySlot (s : State) (t : ThreadId) : Tried :=
  let th := s.thread t
  if th.state != .ready || (s.ctx th.ctx).state != .active || s.yields t then .passed
  else match th.hitch with
    | none => s.tryThread t
    | some h => s.tryMember t h

/-- The slots of a core in the order in which they are looked at: after the one that issued last, cyclically (R59). A hitch comes
first, but not in the cycle that the core owes its helpers (R220). -/
def Core.slotOrder (k : Core) : List Nat :=
  let l := (List.range 11).map (fun i => (k.lastIss + 1 + i) % 11)
  if k.helpersNext then l.filter (fun n => n != 0)
  else if (k.thread 0).hitch.isSome then 0 :: l.filter (fun n => n != 0)
  else l

/-- The threads that a stalled slot stands for: itself, or its hitch where all are level. -/
def State.stallsWith (s : State) (t : ThreadId) : List ThreadId :=
  match (s.thread t).hitch with
  | none => [t]
  | some h =>
    if (hitchMembers t h.mask).any (fun m => ((s.thread m).hitch.map (·.pos)).getD h.pos != h.pos) ∨ (s.thread t).resumes then [t]
    else hitchMembers t h.mask
/-- An instruction that cannot issue blocks its slot (Table 5-1). -/
def State.stallSlot (s : State) (t : ThreadId) : State :=
  (s.stallsWith t).foldl (fun s m => s.blockAt m .stall (s.thread m).word) s

/-- The first thread in order that issues; a slot whose instruction cannot issue is BLOCKED, and the next is looked at; where none
issues, the turn passes. -/
def State.issueFirst (s : State) (c : Nat) : List Nat → Out
  | [] => .next s
  | n :: rest =>
    match s.trySlot ⟨c, n⟩ with
    | .did o => o
    | .passed => s.issueFirst c rest
    | .stalled => (s.stallSlot ⟨c, n⟩).issueFirst c rest

/-- One issue cycle of a core (R59). -/
def State.coreTurn (s : State) (c : Nat) : Out :=
  let k := s.core c
  (if k.helpersNext then s.updCore c (fun k => { k with helpersNext := false }) else s).issueFirst c k.slotOrder

/-! What a slot waits for ends: the slot is READY (Table 5-1). -/

/-- The instruction of a slot that is BLOCKED for want of a free operand or engine can issue. -/
def State.canIssue (s : State) (t : ThreadId) : Bool :=
  let ms := s.stallsWith t
  let s := ms.foldl (fun s m => if (s.thread m).state.isStall then s.updThread m Thread.wake else s) s
  if ms.any (fun m => (s.thread m).state != .ready) then false
  else match (s.thread t).hitch with
    | none => (s.tryThread t).didIt
    | some h => if ms.length ≤ 1 then (s.tryWord t (s.thread t).word).didIt else (s.lockStep (h.lead t) ms).didIt

/-- Wake a slot whose wait is over. -/
def State.wakeSlot (s : State) (t : ThreadId) : State :=
  let th := s.thread t
  match th.state with
  | .blocked .stall _ => if s.canIssue t then (s.stallsWith t).foldl (fun s m =>
      if (s.thread m).state.isStall then s.updThread m Thread.wake else s) s else s
  | .blocked .fence _ => if s.fenceHolds t (instrOf th.word) then s else s.updThread t Thread.wake
  | .blocked w _ => if s.waitOver t w then s.updThread t Thread.wake else s
  | .free => s
  | .ready => s
  | .done _ => s
  | .parked _ _ => s
def State.wakeCore (s : State) (c : Nat) : State := slots.foldl (fun s n => s.wakeSlot ⟨c, n⟩) s
/-- Every slot whose wait is over is READY. -/
def State.wakeAll (s : State) : State := (s.cores.map (·.1)).foldl (fun s c => s.wakeCore c) s

/-! What may come next when nothing is on the agenda: the device's own steps, of which the free choice takes one. Steps that
come from outside (commands, flits, sensors, power) come by the agenda only. -/

def State.coreSteps (s : State) (c : Nat) : List Turn :=
  let k := s.core c
  let when (b : Bool) (t : Turn) : List Turn := if b then [t] else []
  when (k.threads.any (fun p => p.2.state.running)) (.core c)
    ++ when (!k.matQ.isEmpty) (.event (.matOpRetire c))
    ++ when (!k.copies.isEmpty) (.event (.copyUnitDone c))
    ++ when (!k.ilQ.isEmpty || k.rays.any (fun r => !r.2.writes.isEmpty && r.2.wheld.isNone)) (.event (.listEngineOperation c))
    ++ when (!k.arrivals.isEmpty) (.event (.listArrival c))
    ++ (k.rings.filter (fun r => r.2.state == .loading)).map (fun r => .event (.loaderSlotLand c r.1))
    ++ (k.rings.filter (fun r => r.2.state == .storing)).map (fun r => .event (.storerSlotWritten c r.1))
    ++ (k.streams.filter (fun x => x.2.isOpen || !x.2.ops.isEmpty)).map (fun x => .event (.streamReadDone c x.1))
    ++ (slots.filter (fun n => k.stores.any (fun e => e.slot == n))).map (fun n => .event (.storeBufferDrain c n))
    ++ k.threads.flatMap (fun p => match p.2.state with
        | .blocked (.halter n _ _ _) _ => when (k.halTurn n) (.homeReplies c p.1)
        | .blocked _ _ => [.waitEnds c p.1]
        | _ => [])
    ++ (k.threads.filter (fun p => p.2.state == .ready && !p.2.filled)).map (fun p => .icMiss c p.1)
    ++ (k.threads.filter (fun p => k.line && p.2.state.running)).map (fun p => .checkpointLate c p.1)

def State.clusterSteps (s : State) (cl : Nat) : List Turn :=
  let c := s.cluster cl
  (if c.mq.isEmpty then [] else [.event (.mergeAccept cl)])
    ++ (c.merge.filter (fun m => m.2.state.live || !m.2.owes.isEmpty)).map (fun m => .event (.mergeEmit cl m.1))
    ++ (if c.onTheWay = 0 then [] else [.event (.cflagsAccrual cl c.onTheWay)])
    ++ (if c.icMisses.isEmpty then [] else [.icFill cl])

def State.dieSteps (s : State) (d : Nat) : List Turn :=
  let x := s.die d
  let walks := x.coal.filter (fun e => e.2.state == .walking)
  (walks.filter (fun e => walks.all (fun f => e.2.seq ≤ f.2.seq))).map (fun e => .event (.pageWalkComplete d e.1))
    ++ (if x.mailbox.isEmpty then [] else [.event (.mailboxCommand d)])
    ++ x.swaps.map (fun q => .event (.queueSwapComplete d q.1 q.2))
    ++ (if (s.works d).isEmpty then [] else [.event (.dealDecision d)])

def State.ctxSteps (s : State) (x : Nat) : List Turn :=
  (List.range (s.instances x).length).map (fun i => .event (.domainBarrierCompletion x i))
    ++ ((s.ctx x).kernels.filter (fun k => k.state == .retiring)).map (fun k => .event (.kernelRetirement x k.kid))
    ++ (if (s.ctx x).state = .active then [.deadlocked x] else [])

def State.candidates (s : State) : List Turn :=
  s.cores.flatMap (fun p => s.coreSteps p.1) ++ s.clusters.flatMap (fun p => s.clusterSteps p.1)
    ++ (List.range 4).flatMap (fun d => s.dieSteps d) ++ s.ctxs.flatMap (fun p => s.ctxSteps p.1)
    ++ (List.range s.msgs.length).map (fun i => .event (.messageLanding i))
    ++ s.weights.zipIdx.map (fun w => match w.1.dest with
        | .tensor _ _ _ _ => .event (.tensorWeightArrival w.2)
        | .cell _ _ _ => .event (.cellWeightArrival w.2))
    ++ (List.range s.faultMsgs.length).map (fun i => .event (.faultMessageArrival i))
    ++ (if s.startable.isSome then [.firmware] else [])
    ++ (List.range s.outbox.length).map (fun i => .remoteLeaves i)
    ++ (List.range (s.awayMsgs.length + s.awayWeights.length)).map (fun i => .awayLands i)
    ++ (s.stale.map (fun e => (e.die, e.addr / 8))).dedup.map (fun p => .storeSpreads p.1 p.2)
    ++ ((List.range 8).filter (fun e => (s.encoderQueue e).isSome || (s.encoder e).owes.isSome)).map (fun e => .event (.encodeFrame e))

/-- Steps that come when time has passed, or when another part's timing has it so: no round takes them. -/
def Turn.timed (t : Turn) : Bool :=
  match t with
  | .waitEnds _ _ => true
  | .checkpointLate _ _ => true
  | .deadlocked _ => true
  | .icMiss _ _ => true
  | .event _ => false
  | .core _ => false
  | .homeReplies _ _ => false
  | .icFill _ => false
  | .firmware => false
  | .remoteLeaves _ => false
  | .awayLands _ => false
  | .storeSpreads _ _ => false

/-- `n` turns of a list in a free order (log entry 5). -/
def freeOrder (k : Nat) : Nat → List Turn → List Turn
  | 0, _ => []
  | n + 1, l =>
    let i := Config.turnChoice k % l.length
    match l[i]? with
    | none => []
    | some t => t :: freeOrder (k + 1) n (l.eraseIdx i)

/-- What comes next when the agenda is empty: the free choice of one candidate; or, when a round is due, every candidate but the timed
ones in a free order, so that every part that can go on does so in time (R59; log entries 5 and 9). None where nothing is going on. -/
def State.freeTurn (s : State) : Option (Turn × State) :=
  let l := s.candidates
  let due := l.filter (fun t => !t.timed)
  if l.isEmpty then none
  else if s.roundLeft = 0 ∧ due ≠ [] then
    match freeOrder s.freeCount due.length due with
    | [] => none
    | t :: rest =>
      let n := s.freeCount + due.length
      some (t, { s with agenda := rest, roundLeft := Config.roundGap n, freeCount := n + 1 })
  else (l[Config.turnChoice s.freeCount % l.length]?).map (fun t => (t, { s.fresh with roundLeft := s.roundLeft - 1 }))

/-- One turn: a device step, or a core's issue cycle. -/
def State.turn (s : State) (t : Turn) : Out :=
  match t with
  | .event i => exec i s
  | .core c => s.coreTurn c
  | .waitEnds c n => execWaittoExpiry c n s
  | .homeReplies c n => execHalterHomeReply c n s
  | .checkpointLate c n => execChkmaxExpiry c n s
  | .deadlocked x => execDeadlockDeclaration x s
  | .icMiss c n => .next (s.icMissAt ⟨c, n⟩)
  | .icFill c => execInstructionCacheFill c s
  | .firmware => .next s.firmware
  | .remoteLeaves i => .next (s.remoteLeaves i)
  | .awayLands i => .next (s.awayLands i)
  | .storeSpreads die dword => .next (s.spreadOne die dword)

/-- What follows from a step is part of it: what settles, the slots whose waits end, the quiet spells that are over. -/
def settled (o : Out) : Out :=
  match o with
  | .next s => .next s.settle.wakeAll.endEpisodes
  | .fault r => .fault r
  | .refused r => .refused r

/-- The virtual address at which `withFetchWord` has slot 0 of core 0 fetch: its pc where that is a word of global memory. -/
def fetchPc (pc : Word) : Word := if bits pc 63 56 = 0 ∧ bits pc 1 0 = 0 then pc else 0

end Sys2Proof.Machine
end

