-- ==== Sys2Proof/Machine/Step.lean ====
section
/-! DEFINITION. One step of the device, and a word placed where the next step fetches it. -/

namespace Sys2Proof.Machine

open Sys2Proof

/-- One step: the first turn of the agenda; where that is empty, the one that the free choice or the next round takes, or none. -/
def step (s : State) : Host.Outcome State Fault Refusal :=
  match s.agenda with
  | t :: rest =>
    if needsPower t ∧ s.mgmt.powered = false then .fault .deviceOff
    else settled ({ s with agenda := rest }.turn t)
  | [] =>
    match s.freeTurn with
    | none => .next s
    | some (t, s) => settled (s.turn t)

/-- `s` with an instruction at the pc of slot 0 of core 0, which is READY in an ACTIVE context and issues next: the page of its
pc is mapped to the lowest 64 KiB of HBM (log entry 1). -/
def State.withFetchWord (s : State) (nbits w : Nat) : State :=
  let t := s.thread ⟨0, 0⟩
  let pc := fetchPc t.pc
  let off := pc.toNat % 65536
  let page : TlbEnt := ⟨0, pc.toNat - off, 65536, .hbm, 0, true, true, true, true, true, false, none⟩
  let s := s.setThread ⟨0, 0⟩ { t with
    state := .ready, ctx := 0, pc := pc, replay := none, fences := [], pend := [], hitch := none, woke := none, yieldMask := 0, filled := false }
  let s := s.updCore 0 (fun k => { k with lastIss := 10, helpersNext := false })
  let s := s.updCtx 0 (fun x => { x with state := .active })
  let s := s.updCluster 0 (fun c => { c with l1 := page :: c.l1 })
  { s with
    hbm := s.hbm.write off (leBytes 4 (w % 2 ^ nbits))
    stale := s.stale.filter (fun e => !Sys2Proof.Machine.touches off 4 e.addr)
    oldCode := s.oldCode.filter (fun e => e.word != off / 4)
    mgmt := { s.mgmt with powered := true }
    agenda := .core 0 :: s.agenda }

end Sys2Proof.Machine
end

