-- ==== Sys2Proof/Safety.lean ====
section
/-! DEFINITION. What counts as a safe run, and the terms that the statements use: what an instruction that has run leaves as it
was, what a thread's registers, rows and masks are after it. -/

namespace Sys2Proof.Safety

open Sys2Proof Sys2Proof.Machine

/-- A step goes on. -/
def goesOn (s : State) : Prop := ∃ t, step s = .next t

/-- Every memory of the device, and of a parked context's saved cores, is in canonical form. -/
def MemOk (s : State) : Prop :=
  s.hbm.wf = true ∧ s.weight.wf = true ∧ (∀ c, (s.core c).mem.wf = true)
    ∧ ∀ x, ∀ v ∈ (s.ctx x).saved, v.data.mem.wf = true

/-! What it is to be rounded once, said with real numbers and without the model's arithmetic (R21, R28, R29). -/

/-- The encoding is a number: no infinity and no NaN (Table 3-1). -/
def f32Number (x : W32) : Prop := x.toNat / 2 ^ 23 % 256 ≠ 255
/-- The number that a finite encoding denotes (R21). -/
def f32Value (x : W32) : ℚ :=
  let e : ℕ := x.toNat / 2 ^ 23 % 256
  let f : ℕ := x.toNat % 2 ^ 23
  (if x.msb then -1 else 1) * (if e = 0 then (f : ℚ) / 2 ^ 149 else ((2 ^ 23 + f : ℕ) : ℚ) * 2 ^ e / 2 ^ 150)
/-- The nonzero number `x` rounded to F32 in a mode of Table 3-3: the greatest or least number on the side that the mode names, or the
nearest, with ties to the even significand or away from zero; beyond the largest number, what IEEE 754 gives for the mode. -/
def Rounded (mode : RMode) (x : ℝ) (y : W32) : Prop :=
  let v := fun (z : W32) => ((f32Value z : ℚ) : ℝ)
  let near := fun (tie : W32 → Prop) =>
    if |x| < (2 ^ 25 - 1) * 2 ^ 103 then
      f32Number y ∧ ∀ z, f32Number z → |x - v y| ≤ |x - v z| ∧ (v z ≠ v y → |x - v z| = |x - v y| → tie z)
    else y = (if x < 0 then ninf32 else inf32)
  (y.msb = true ↔ x < 0) ∧ match mode with
    | .rne => near (fun _ => y.getLsbD 0 = false)
    | .rmm => near (fun z => |v z| < |v y|)
    | .rtz => f32Number y ∧ |v y| ≤ |x| ∧ ∀ z, f32Number z → |v z| ≤ |x| → |v z| ≤ |v y|
    | .rdn => if -((2 ^ 24 - 1) * 2 ^ 104) ≤ x then f32Number y ∧ v y ≤ x ∧ ∀ z, f32Number z → v z ≤ x → v z ≤ v y else y = ninf32
    | .rup => if x ≤ (2 ^ 24 - 1) * 2 ^ 104 then f32Number y ∧ x ≤ v y ∧ ∀ z, f32Number z → x ≤ v z → v y ≤ v z else y = inf32

/-- A state that a run of `n` steps from `s` reaches. -/
def Reaches (s : State) : Nat → State → Prop
  | 0, t => t = s
  | n + 1, t => ∃ m, step s = .next m ∧ Reaches m n t

/-- A register by its own number (g0-g7 are 0-7, windowed register i of the 88 is 8 + i): its value, none where it is dead. -/
def regNo (t : Thread) (n : Nat) : Option Word :=
  if n = 0 then some 0
  else if n < 8 then some (t.gregs.get 0 n)
  else if t.dead.getLsbD (n - 8) then none
  else some (t.phys.get 0 (n - 8))

/-- The device less its cores and clusters, and less what dies may still see of replaced bytes. -/
def deviceRest (s : State) : State := { s with cores := [], clusters := [], stale := [] }
/-- A cluster less the flags on their way to its CFLAGS. -/
def clusterRest (c : Cluster) : Cluster := { c with onTheWay := 0 }
/-- A core less its threads and CSRs. -/
def coreRest (k : Core) : Core := { k with threads := [], csrs := [] }
/-- A thread less its registers, rows, masks, CSRs, its place, its state and its waits, and which of its registers and rows hold what the
list engine wrote. -/
def threadRest (t : Thread) : Thread :=
  { t with
    state := .free, pc := 0, gregs := [], phys := [], dead := 0, masks := [], rows := [], csrs := [], replay := none
    hitch := none, woke := none, points := [] }

/-- What one instruction of the thread that runs leaves as it was, if it only computes: the whole device outside its core and
its cluster's flags; on its core all but the event counters and the thread itself; every byte of memory as a load finds it. -/
def Aside (s t : State) : Prop :=
  deviceRest t = deviceRest s ∧ (∀ e ∈ t.stale, e ∈ s.stale)
    ∧ (∀ c, c ≠ clusterOf s.cur.core → t.cluster c = s.cluster c)
    ∧ clusterRest (t.cluster (clusterOf s.cur.core)) = clusterRest (s.cluster (clusterOf s.cur.core))
    ∧ (∀ c, c ≠ s.cur.core → t.core c = s.core c)
    ∧ (∀ n, n ≠ s.cur.slot → (t.core s.cur.core).thread n = (s.core s.cur.core).thread n)
    ∧ coreRest (t.core s.cur.core) = coreRest (s.core s.cur.core)
    ∧ (∀ n, ¬ (0x078 ≤ n ∧ n ≤ 0x07F) → (t.core s.cur.core).csr n = (s.core s.cur.core).csr n)
    ∧ ∀ c p, t.loadByte c p = s.loadByte c p

/-- The thread has retired one instruction: it is READY and INSTRET is one more; the flags `f` are ORed into FFLAGS and those
new there are on their way to CFLAGS; every other CSR of the thread, and all else of it but its place, its registers, rows
and masks, is as it was. -/
def Retired (s t : State) (f : FFlags) : Prop :=
  t.me.state = .ready
    ∧ t.me.csr 0x081 = s.me.csr 0x081 + 1
    ∧ t.me.csr 0x011 = s.me.csr 0x011 ||| f.setWidth 64
    ∧ (t.cluster (clusterOf s.cur.core)).onTheWay
        = (s.cluster (clusterOf s.cur.core)).onTheWay ||| (f &&& ~~~(s.me.csr 0x011).setWidth 5)
    ∧ (∀ n, n ≠ 0x011 → n ≠ 0x081 → t.me.csr n = s.me.csr n)
    ∧ threadRest t.me = threadRest s.me ∧ t.me.woke = none

/-- The thread goes on behind the instruction: at the next word, where no lunge is replayed. -/
def Behind (s t : State) : Prop := s.me.replay = none → t.me.pc = s.me.pc + 4 ∧ t.me.replay = none

/-- Only register `d` changed among the registers: it is live and holds `v`; g0 stays 0. -/
def RegsPut (s t : State) (d : Reg) (v : Word) : Prop :=
  ∀ n, regNo t.me n = if n = s.me.regId d ∧ n ≠ 0 then some v else regNo s.me n
def RegsSame (s t : State) : Prop := ∀ n, regNo t.me n = regNo s.me n
def RowsSame (s t : State) : Prop := ∀ r, t.row r = s.row r
def MasksSame (s t : State) : Prop := ∀ m, t.mask m = s.mask m

/-- The instruction wrote register `d` and raised the flags `f`, and nothing else changed. -/
def WroteReg (s t : State) (d : Reg) (v : Word) (f : FFlags) : Prop :=
  Aside s t ∧ Retired s t f ∧ Behind s t ∧ RegsPut s t d v ∧ RowsSame s t ∧ MasksSame s t

/-- The instruction wrote the lanes of row `d` whose bit of `p` is 1, raised the flags `f`, and nothing else changed. -/
def WroteRow (s t : State) (d : RowCode) (p : BitVec 16) (g : Nat → W32) (f : FFlags) : Prop :=
  Aside s t ∧ Retired s t f ∧ Behind s t ∧ RegsSame s t ∧ MasksSame s t
    ∧ ∀ r i, i < 16 → (t.row r).lane i = if r = d ∧ p.getLsbD i = true then g i else (s.row r).lane i

/-- The instruction wrote mask `k` (m0 discards), raised the flags `f`, and nothing else changed. -/
def WroteMask (s t : State) (k : MaskCode) (v : BitVec 16) (f : FFlags) : Prop :=
  Aside s t ∧ Retired s t f ∧ Behind s t ∧ RegsSame s t ∧ RowsSame s t
    ∧ ∀ m, t.mask m = if m = k ∧ k ≠ 0 then v else s.mask m

/-! Completion: in every state the instruction answers a next state, which is the one that its rule gives. -/

/-- In every state the instruction completes: it writes the value to register `d` and raises the flags, and nothing else
changes. -/
def Computes (i : Instr) (d : Reg) (v : State → Word) (f : State → FFlags) : Prop :=
  ∀ s, ∃ t, exec i s = .next t ∧ WroteReg s t d (v s) (f s)
/-- The same without flags. -/
def Gives (i : Instr) (d : Reg) (v : State → Word) : Prop := Computes i d v (fun _ => 0)

/-- In every state the instruction completes: it writes the F32 to register `d`, whose upper half becomes zero, raises the
flags, and nothing else changes. -/
def Floats (i : Instr) (d : Reg) (r : State → W32 × FFlags) : Prop :=
  ∀ s, ∃ t, exec i s = .next t ∧ WroteReg s t d ((r s).1.setWidth 64) (r s).2
/-- In every state the instruction completes: it writes the lanes of row `d` that mask `m` makes active, raises the flags of
those lanes, and nothing else changes. -/
def Lanes (i : Instr) (m : MaskCode) (d : RowCode) (g : State → Nat → W32 × FFlags) : Prop :=
  ∀ s, ∃ t, exec i s = .next t
    ∧ WroteRow s t d (s.mask m) (fun k => (g s k).1) (laneFlags (s.mask m) (fun k => (g s k).2))
/-- The same for lanes without flags, with the active lanes given. -/
def Puts (i : Instr) (p : State → BitVec 16) (d : RowCode) (g : State → Nat → W32) : Prop :=
  ∀ s, ∃ t, exec i s = .next t ∧ WroteRow s t d (p s) (g s) 0
/-- In every state the instruction completes: it writes mask `k`, and nothing else changes. -/
def Masks (i : Instr) (k : MaskCode) (v : State → BitVec 16) : Prop :=
  ∀ s, ∃ t, exec i s = .next t ∧ WroteMask s t k (v s) 0

/-- The instruction wrote no register, row or mask: it retired, and the thread goes on behind it. -/
def WentOn (s t : State) : Prop := Aside s t ∧ Retired s t 0 ∧ Behind s t ∧ RegsSame s t ∧ RowsSame s t ∧ MasksSame s t

/-- The same, but the thread goes on at `pc`. -/
def WentTo (s t : State) (pc : Word) : Prop :=
  Aside s t ∧ Retired s t 0 ∧ t.me.pc = pc ∧ t.me.replay = s.me.replay ∧ RegsSame s t ∧ RowsSame s t ∧ MasksSame s t

/-- The trap reached the thread's own handler (R65): CAUSE, EPC, TVAL, PSUP := SUP, INTRAP := 1, the pc at TVEC; a replay is
kept in the lunge record (R112); nothing is counted as retired, and nothing else changed. -/
def Delivered (s t : State) (cause : Nat) (tval : Word) : Prop :=
  Aside s t ∧ RegsSame s t ∧ RowsSame s t ∧ MasksSame s t
    ∧ t.me.state = .ready ∧ t.me.pc = s.me.csr 4 ∧ t.me.replay = none
    ∧ t.me.csr 1 = BitVec.ofNat 64 cause ∧ t.me.csr 2 = s.me.pc ∧ t.me.csr 3 = tval
    ∧ (∀ b, (t.me.csr 0).getLsbD b = if b = 1 then s.me.sup else if b = 2 then true else (s.me.csr 0).getLsbD b)
    ∧ (∀ n, 4 ≤ n → t.me.csr n = s.me.csr n)
    ∧ threadRest t.me = threadRest { s.me with lunge := if s.me.replay.isSome then s.me.replay else s.me.lunge }
    ∧ (t.cluster (clusterOf s.cur.core)).onTheWay = (s.cluster (clusterOf s.cur.core)).onTheWay

/-- CSR `n` of the thread holds `w` beside what `WroteReg` says. -/
def WroteCsr (s t : State) (d : Reg) (v : Word) (n : Nat) (w : Word) : Prop :=
  Aside s t ∧ Behind s t ∧ RegsPut s t d v ∧ RowsSame s t ∧ MasksSame s t
    ∧ t.me.state = .ready ∧ t.me.csr n = w ∧ t.me.csr 0x081 = s.me.csr 0x081 + 1
    ∧ (∀ k, k ≠ n → k ≠ 0x081 → t.me.csr k = s.me.csr k) ∧ threadRest t.me = threadRest s.me

/-- The CSRs that a thread holds and that a write reaches with no rule of their own. -/
def storedCsr (c : CsrNum) : Prop :=
  csrListed c = true ∧ csrRo c.toNat = false ∧ csrOfCore c.toNat = false
    ∧ c ≠ 0x000 ∧ c ≠ 0x010 ∧ c ≠ 0x011 ∧ c ≠ 0x030 ∧ c ≠ 0x040

/-- The bits of a CSR that a write reaches take those of the value, the others keep theirs. -/
def masked (n : Nat) (old v : Word) : Word := (old &&& ~~~csrMask n) ||| (v &&& csrMask n)

/-- The CSR instruction of a form on a CSR. -/
def csrInstr (f : CsrForm) (c : CsrNum) : Instr :=
  match f.op with
  | .r => .csrr f.d c
  | .w => .csrw f.d f.a c
  | .s => .csrs f.d f.a c
  | .c => .csrc f.d f.a c
  | .wi => .csrwi f.d f.a c
/-- A local address block of a thread's instruction is allowed, meets no uncorrectable word, and `bs` are its bytes (R130, R133). -/
def ReadsLocal (s : State) (ea : Word) (n align : Nat) (bs : List Byte) : Prop :=
  localBase.toNat ≤ ea.toNat ∧ ea.toNat + n ≤ localBase.toNat + localBytes ∧ ea.toNat % align = 0
    ∧ ∃ p, s.check s.cur ea n align .read = .ok p ∧ s.meetsBad s.cur.core p n = false ∧ bs = s.loadBytes s.cur.core p n
/-- The instruction that runs has begun no wait of its own before: it issues for the first time (Table 5-1). -/
def Fresh (s : State) : Prop := s.me.begun = none
/-- The thread waits: BLOCKED at the instruction, which has had no effect. -/
def Waits (s t : State) (w : Wait) (i : Instr) : Prop := t = s.blockAt s.cur w (wordOf i)

/-- An aligned load of `n` bytes at `ea` is allowed and finds them at `p`, in this device's memory, with no uncorrectable word
(R130, R133). -/
def Loads (s : State) (ea : Word) (n : Nat) (p : Place) : Prop :=
  s.check s.cur ea n n .read = .ok p ∧ s.meetsBad s.cur.core p n = false ∧ ∀ d a, p ≠ .remote d a
/-- An aligned store of `n` bytes at `ea` is allowed, goes to `p`, and the thread's store buffer has room (R130, R132). -/
def Stores (s : State) (ea : Word) (n : Nat) (p : Place) : Prop :=
  s.check s.cur ea n n .write = .ok p ∧ s.storeFull s.cur = false
/-- Bytes as an unsigned number, the lowest address first (R42). -/
def leValue (bs : List Byte) : Nat := bs.foldr (fun b acc => b.toNat + 256 * acc) 0

/-- The instruction wrote rows and mask `k` (m0 discards) as said, and nothing else changed. -/
def WroteRows (s t : State) (g : RowCode → Nat → W32) (k : MaskCode) (v : Nat → Bool) : Prop :=
  Aside s t ∧ Retired s t 0 ∧ Behind s t ∧ RegsSame s t
    ∧ (∀ r i, i < 16 → (t.row r).lane i = g r i)
    ∧ ∀ m i, i < 16 → (t.mask m).getLsbD i = if m = k ∧ k ≠ 0 then v i else (s.mask m).getLsbD i

/-- The reply of a halter's home came to a thread that waits for it at `i`: its register gets `v`, its latch is set (R85), it goes
on, and the posts that the unit has then come to leave; `u` is the state with what the home did. -/
def Replied (u : State) (c slot : Nat) (i : Instr) (s : State) (d : Reg) (v : Word) : Prop :=
  ∃ t, exec (.halterHomeReply c slot) s = .next (({ t with cur := s.cur } : State).halPosts c 4)
    ∧ WroteReg ({ u with cur := ⟨c, slot⟩ }.updMe (fun x => { x with latch := true })) t d v 0
    ∧ decode (s.thread ⟨c, slot⟩).word = .ok i

/-! Register windows, and what Typoro and the controller answer. -/

/-- A call or a return: the window is at `w` with `r` frames resident, the thread goes on at `pc`; it retired, and its rows and
masks and all else of it and of the device are as they were, but for the registers. -/
def Moved (s t : State) (pc : Word) (w r : Nat) : Prop :=
  Aside s t ∧ RowsSame s t ∧ MasksSame s t ∧ t.me.state = .ready ∧ t.me.pc = pc ∧ t.me.wptr = w ∧ t.me.resident = r
    ∧ t.me.replay = s.me.replay ∧ t.me.csr 0x081 = s.me.csr 0x081 + 1 ∧ (∀ n, n ≠ 0x081 → t.me.csr n = s.me.csr n)
    ∧ threadRest { t.me with wptr := 0, resident := 0 } = threadRest { s.me with wptr := 0, resident := 0 }
    ∧ (t.cluster (clusterOf s.cur.core)).onTheWay = (s.cluster (clusterOf s.cur.core)).onTheWay
/-- Register `n` is one of w0-w23 of the window at `w` that CONV marks from its bit `lo`. -/
def convMarks (t : Thread) (w lo n : Nat) : Prop := ∃ k, k < 24 ∧ t.conv.getLsbD (lo + k) = true ∧ n = 8 + (w + k) % 88
/-- A call as R67 has it: the link in w7 of the callee's window, the caller's marks, and every other register as it was. -/
def Called (s t : State) (pc : Word) : Prop :=
  let link := 8 + ((s.me.wptr + 16) % 88 + 7) % 88
  Moved s t pc ((s.me.wptr + 16) % 88) (s.me.resident + 1)
    ∧ regNo t.me link = some (s.me.pc + 4)
    ∧ ∀ n, n ≠ link → (convMarks s.me s.me.wptr 0 n → regNo t.me n = none)
        ∧ (¬ convMarks s.me s.me.wptr 0 n → regNo t.me n = regNo s.me n)
/-- A return as R67 has it: the callee's marks, and every other register as it was. -/
def Left (s t : State) (pc : Word) : Prop :=
  let w := (s.me.wptr + 72) % 88
  Moved s t pc w (max 1 (s.me.resident - 1))
    ∧ ∀ n, (convMarks s.me w 24 n → regNo t.me n = none) ∧ (¬ convMarks s.me w 24 n → regNo t.me n = regNo s.me n)

/-- The firmware takes a command of the connection now, and nothing is before it: the connection is in use with endpoint 0, ordered, and has
brought a packet, and the number is its next (R331, R332, R333, R337). -/
def CmdReady (s : State) (h : CmdHdr) : Prop :=
  s.mgmt.powered = true ∧ s.mgmt.ready = true ∧ (∃ u, s.uetConn h.conn = some u ∧ u.rod = true ∧ u.endpoint = 0 ∧ u.packets ≠ 0)
    ∧ (s.conn h.conn).next h.seq = true ∧ s.inbox = []
/-- The same for a device command, whose header keeps Table 20-3 and names context 31. -/
def DevReady (s : State) (h : CmdHdr) (c : Typoro) : Prop := CmdReady s h ∧ badHdr h c = false ∧ h.ctx = 31
/-- The command has been answered: one reply more, with REPLY set, its payload and its payload's length, which leaves in packets of the
connection's entropy value, sealed where it has a key, and which the connection stores; its number is the connection's last, and the
command is no longer outstanding. -/
def Answered (s t : State) (h : CmdHdr) (opcode status : Nat) (payload : List Byte) : Prop :=
  ∃ r : Reply, r.conn = h.conn ∧ r.seq = h.seq ∧ r.isReply = true ∧ r.opcode = opcode ∧ r.length = payload.length ∧ r.ctx = h.ctx
    ∧ r.status = status ∧ r.payload = payload
    ∧ r.frames = t.framed h.conn h.seq.toNat (hdrBytes h.seq true opcode payload.length h.ctx status ++ payload)
    ∧ r.entropy = Config.entropy h.conn
    ∧ t.replies = s.replies ++ [r] ∧ r ∈ (t.conn h.conn).stored ∧ (t.conn h.conn).lastSeq = some h.seq
    ∧ (∀ c ∈ t.inbox, c.is h = false) ∧ ∀ k, k ≠ h.conn → t.conn k = s.conn k
/-- The command has been written into the mailboxes of dies, and has no effect and no reply yet (R14). -/
def Posted (s t : State) (c : Command) (dies : List Nat) : Prop :=
  t.replies = s.replies ∧ (t.conn c.hdr.conn).lastSeq = some c.hdr.seq ∧ t.inbox = s.inbox ++ [c]
    ∧ (∀ d ∈ dies, (t.die d).mailbox = (s.die d).mailbox ++ [c]) ∧ (∀ d, d ∉ dies → t.die d = s.die d)
    ∧ (∀ x, t.ctx x = s.ctx x) ∧ ∀ c p, t.loadByte c p = s.loadByte c p
/-- The state in which the firmware has taken a command: a packet of its connection is used, its number is the connection's last,
and it is outstanding (R332). -/
def taken (s : State) (c : Command) : State :=
  { (s.usePacket c.hdr.conn).updConn c.hdr.conn (fun x => { x with lastSeq := some c.hdr.seq, taken := x.taken + 1 }) with inbox := s.inbox ++ [c] }
/-- In every state in which the firmware takes the command now, it goes on: one that no dispatcher is asked for is carried out; another
is written into the mailbox of every affected die, or held by the firmware while one of them is full (R14, R15); which dies a command
affects is log entry 16, that it takes a packet of its connection log entry 31. -/
def Takes (i : Instr) (h : CmdHdr) (op : Nat) (cmd : Typoro) : Prop :=
  ∀ s, CmdReady s h → badHdr h cmd = false → ∃ t, exec i s = .next t
    ∧ (s.commandDies h cmd = [] → t = (taken s ⟨h, op, cmd, false⟩).carryOut ⟨h, op, cmd, false⟩)
    ∧ (s.commandDies h cmd ≠ [] → s.mailRoom (s.commandDies h cmd) = true → Posted s t ⟨h, op, cmd, true⟩ (s.commandDies h cmd))
    ∧ (s.commandDies h cmd ≠ [] → s.mailRoom (s.commandDies h cmd) = false → t = taken s ⟨h, op, cmd, false⟩)
/-- A command stands first in the mailbox of die `d` and in no other, and its connection took it last (R14). -/
def Waiting (s : State) (d : Nat) (c : Command) : Prop :=
  (∃ rest, (s.die d).mailbox = c :: rest ∧ ∀ e ∈ rest, e.is c.hdr = false)
    ∧ (∀ k, k ≠ d → ∀ e ∈ (s.die k).mailbox, e.is c.hdr = false) ∧ d < 4
    ∧ (s.conn c.hdr.conn).lastSeq = some c.hdr.seq

/-- The dies are as State.reset has them but for their clusters' availability. -/
def CameUp (t : State) (bad : List Nat) : Prop :=
  t.mgmt.powered = true ∧ t.mgmt.ready = true ∧ t.mgmt.tripped = false ∧ t.mgmt.step = 0
    ∧ (∀ c, t.core c = State.reset.core c) ∧ (∀ x, t.ctx x = State.reset.ctx x) ∧ (∀ d, t.die d = State.reset.die d)
    ∧ t.hbm = [] ∧ t.weight = [] ∧ t.msgs = [] ∧ t.paddocks = State.reset.paddocks ∧ (∀ p, t.port p = State.reset.port p)
    ∧ ∀ k, (t.cluster k).available = (!bad.any (fun c => clusterOf c == k) && (State.reset.cluster k).available)

end Sys2Proof.Safety
end

