-- ==== Sys2Proof/WellFormed.lean ====
section
/-! DEFINITION. Which terms of the syntax stand for a word of the machine or an event of it: what decoding never gives, and
events about a thing that does not exist, are ill-formed. -/

namespace Sys2Proof

/-- CSRRs read and have a = 0 (R79). -/
def CsrForm.wellFormed (f : CsrForm) : Bool := f.op != .r || f.a == 0
/-- The form writes its CSR (R79): always for CSRW and CSRWI, with a other than g0 for CSRS and CSRC. -/
def CsrForm.writes (f : CsrForm) : Bool :=
  match f.op with
  | .r => false
  | .w => true
  | .wi => true
  | .s => f.a != 0
  | .c => f.a != 0

/-- CSRs whose writes have no row of their own in the table of operations. -/
def csrPlain (c : CsrNum) : Bool :=
  csrListed c && c != 0x000 && c != 0x010 && c != 0x011 && c != 0x012 && c != 0x021 && c != 0x022 && c != 0x030
    && c != 0x033 && c != 0x040 && !(0x078 <= c.toNat && c.toNat <= 0x07F)

/-- A command's place (Table 20-3): contexts 0 to 15, 31 for device commands. -/
def CmdHdr.wellFormed (h : CmdHdr) : Bool := h.ctx < 32 && h.length < 2 ^ 32

def Instr.wellFormed (i : Instr) : Bool :=
  match i with
  | .add .. => true
  | .sub .. => true
  | .and .. => true
  | .or .. => true
  | .xor .. => true
  | .sll .. => true
  | .srl .. => true
  | .sra .. => true
  | .slt .. => true
  | .sltu .. => true
  | .seq .. => true
  | .min .. => true
  | .max .. => true
  | .minu .. => true
  | .maxu .. => true
  | .andn .. => true
  | .addi .. => true
  | .andi .. => true
  | .ori .. => true
  | .xori .. => true
  | .slli .. => true
  | .srli .. => true
  | .srai .. => true
  | .slti .. => true
  | .sltiu .. => true
  | .mul .. => true
  | .mulh .. => true
  | .mulhu .. => true
  | .div .. => true
  | .divu .. => true
  | .rem .. => true
  | .remu .. => true
  | .lup .. => true
  | .aupc .. => true
  | .clz .. => true
  | .ctz .. => true
  | .popc .. => true
  | .brev .. => true
  | .sextb .. => true
  | .sexth .. => true
  | .sextw .. => true
  | .zextw .. => true
  | .fadd .. => true
  | .fsub .. => true
  | .fmul .. => true
  | .fdiv .. => true
  | .fmin .. => true
  | .fmax .. => true
  | .feq .. => true
  | .flt .. => true
  | .fle .. => true
  | .fcvtif .. => true
  | .fcvtfi .. => true
  | .fsqrt .. => true
  | .fma .. => true
  | .fclass .. => true
  | .beq .. => true
  | .bne .. => true
  | .blt .. => true
  | .bge .. => true
  | .bltu .. => true
  | .bgeu .. => true
  | .bmany .. => true
  | .bmnone .. => true
  | .bmall .. => true
  | .jmp .. => true
  | .call .. => true
  | .jr .. => true
  | .callr .. => true
  | .ret .. => true
  | .ld _ _ _ sz sx => !(sz == .d && sx)
  | .st .. => true
  | .lda .. => true
  | .str .. => true
  | .aadd .. => true
  | .aand .. => true
  | .aor .. => true
  | .axor .. => true
  | .amin .. => true
  | .amax .. => true
  | .aminu .. => true
  | .amaxu .. => true
  | .aswp .. => true
  | .acas .. => true
  | .afadd .. => true
  | .fence .. => true
  | .vld .. => true
  | .vst .. => true
  | .vldx .. => true
  | .vstx .. => true
  | .csrr _ c => csrListed c
  | .csrw _ _ c => csrListed c
  | .csrs _ _ c => csrListed c
  | .csrc _ _ c => csrListed c
  | .csrwi _ _ c => csrListed c
  | .csrWriteFrm f => f.wellFormed && f.writes
  | .csrAccessFflags f => f.wellFormed
  | .csrReadCflags f => f.wellFormed
  | .csrWriteStatus f => f.wellFormed && f.writes
  | .csrWriteWindow f _ => f.wellFormed && f.writes
  | .csrWriteMfmt f => f.wellFormed && f.writes
  | .csrWriteMerr f => f.wellFormed && f.writes
  | .csrWriteDomain f => f.wellFormed && f.writes
  | .csrWriteHpmcnt f _ => f.wellFormed && f.writes
  | .csrWriteOther f c => f.wellFormed && f.writes && csrPlain c
  | .trap .. => true
  | .eret .. => true
  | .brk .. => true
  | .yield .. => true
  | .exit .. => true
  | .wfe .. => true
  | .chkpt .. => true
  | .ipf .. => true
  | .send .. => true
  | .waitc .. => true
  | .cntr .. => true
  | .cntadd .. => true
  | .rkmap .. => true
  | .rkmove .. => true
  | .barinit .. => true
  | .bararr .. => true
  | .barwait .. => true
  | .barsync .. => true
  | .barq .. => true
  | .help .. => true
  | .hjoin .. => true
  | .hitch .. => true
  | .unhitch .. => true
  | .self .. => true
  | .enq .. => true
  | .qres .. => true
  | .trig .. => true
  | .tlink .. => true
  | .launch .. => true
  | .kwait .. => true
  | .qpin .. => true
  | .tlbinv .. => true
  | .freply .. => true
  | .replay .. => true
  | .fbread .. => true
  | .fbclr .. => true
  | .lunge .. => true
  | .vadd .. => true
  | .vsub .. => true
  | .vmul .. => true
  | .vfma .. => true
  | .vfms .. => true
  | .vfnma .. => true
  | .vmin .. => true
  | .vmax .. => true
  | .vabs .. => true
  | .vneg .. => true
  | .vrcp .. => true
  | .vrsq .. => true
  | .vexp2 .. => true
  | .vlog2 .. => true
  | .vsqrt .. => true
  | .vflr .. => true
  | .vceil .. => true
  | .vrndn .. => true
  | .vcmpf .. => true
  | .vcmpi .. => true
  | .viadd .. => true
  | .visub .. => true
  | .vimul .. => true
  | .vand .. => true
  | .vor .. => true
  | .vxor .. => true
  | .vshl .. => true
  | .vshr .. => true
  | .vshra .. => true
  | .vimin .. => true
  | .vimax .. => true
  | .viminu .. => true
  | .vimaxu .. => true
  | .vsel .. => true
  | .vperm .. => true
  | .vcvt .. => true
  | .vred .. => true
  | .vext .. => true
  | .vins .. => true
  | .vpackBf16 .. => true
  | .vpackF16 .. => true
  | .vmov .. => true
  | .mand .. => true
  | .mor .. => true
  | .mxor .. => true
  | .mandn .. => true
  | .mnot .. => true
  | .mmov .. => true
  | .mpopc .. => true
  | .mfirst .. => true
  | .mset .. => true
  | .mget .. => true
  | .mma .. => true
  | .mzero .. => true
  | .mst .. => true
  | .mld .. => true
  | .mwait .. => true
  | .mchk .. => true
  | .matOpRetire c => c < 2048
  | .rinit .. => true
  | .rpush .. => true
  | .rsub .. => true
  | .runsub .. => true
  | .rstat .. => true
  | .loaderSlotLand c r => c < 2048 && r < 8
  | .storerSlotWritten c r => c < 2048 && r < 8
  | .cpy .. => true
  | .cwait .. => true
  | .cstat .. => true
  | .copyUnitDone c => c < 2048
  | .sopen .. => true
  | .spop .. => true
  | .spush .. => true
  | .streamReadDone c n => c < 2048 && n < 4
  | .mgopen .. => true
  | .mgpush .. => true
  | .mgend .. => true
  | .mgpop .. => true
  | .mgstat .. => true
  | .mgdrain .. => true
  | .mergeAccept k => k < 128
  | .mergeEmit k n => k < 128 && n < 4
  | .ilopen .. => true
  | .ilins .. => true
  | .ilsend .. => true
  | .ilcut .. => true
  | .ilcomp .. => true
  | .ilread .. => true
  | .ilclose .. => true
  | .ilstat .. => true
  | .listEngineOperation c => c < 2048
  | .listArrival c => c < 2048
  | .hnew .. => true
  | .hcopy .. => true
  | .hdrop .. => true
  | .hbind .. => true
  | .hwgt .. => true
  | .haddr .. => true
  | .hmerge .. => true
  | .halterHomeReply c t => c < 2048 && t < 11
  | .tensorWeightArrival .. => true
  | .cellWeightArrival .. => true
  | .boxt k _ _ _ => k != 0
  | .trit .. => true
  | .splt .. => true
  | .edge .. => true
  | .texl .. => true
  | .texd .. => true
  | .storeBufferDrain c t => c < 2048 && t < 11
  | .cflagsAccrual k _ => k < 128
  | .messageLanding .. => true
  | .domainBarrierCompletion x _ => x < 16
  | .waittoExpiry c t => c < 2048 && t < 11
  | .pageWalkComplete d e => d < 4 && e < 256
  | .faultMessageArrival .. => true
  | .mailboxCommand d => d < 4
  | .chkmaxExpiry c t => c < 2048 && t < 11
  | .dealDecision d => d < 4
  | .kernelRetirement x _ => x < 16
  | .queueSwapComplete d x h => d < 4 && x < 16 && h < 4096
  | .deadlockDeclaration x => x < 16
  | .encodeFrame e => e < 8
  | .harnessFlitReceive p f => p < 36 && f.payload.length == 244
  | .harnessNak p _ => p < 36
  | .laneLockLoss p => p < 36
  | .linkTrainingResult p n => p < 36 && n <= 4
  | .trainingRetryTimer p => p < 36
  | .typoroContextCreate h .. => h.wellFormed
  | .typoroTeardown h => h.wellFormed
  | .typoroPaddockDefine h .. => h.wellFormed
  | .typoroMapMemory h .. => h.wellFormed
  | .typoroUnmapMemory h .. => h.wellFormed
  | .typoroCopyToDevice h .. => h.wellFormed
  | .typoroCopyToHost h .. => h.wellFormed
  | .typoroLaunch h .. => h.wellFormed
  | .typoroQueueCreate h .. => h.wellFormed
  | .typoroQueueDestroy h .. => h.wellFormed
  | .typoroQueuePin h .. => h.wellFormed
  | .typoroPreempt h => h.wellFormed
  | .typoroResume h .. => h.wellFormed
  | .typoroGroupMove h .. => h.wellFormed
  | .typoroEventRead h .. => h.wellFormed
  | .typoroWsWindowOpen h => h.wellFormed
  | .typoroWsWindowClose h => h.wellFormed
  | .typoroLinkConfig h .. => h.wellFormed
  | .typoroRouteSet h .. => h.wellFormed
  | .typoroEncoderSetup h .. => h.wellFormed
  | .typoroAttestationQuote h .. => h.wellFormed
  | .typoroPatchLoad h .. => h.wellFormed
  | .typoroRepeatedCommand h => h.wellFormed
  | .typoroBadCommand h .. => h.wellFormed
  | .powerOn .. => true
  | .grcResetN .. => true
  | .smbusResetWrite .. => true
  | .smbusWriteOther r v => !(r == 0x10 && v == 0xA5)
  | .sensorSample .. => true
  | .coolantStepTimer .. => true
  | .lifetimeRecordWrite .. => true
  | .illegal w => !(decode w).isOk
  | .powerLoss .. => true
  | .voltageDroop d => d < 4
  | .forwardedAccess x _ _ _ => x < 16
  | .uetPacket p _ => p < 4
  | .instructionCacheFill k => k < 128

end Sys2Proof
end

