-- ==== Sys2Proof/Certificates/Slice0/Obligations.lean ====
section
/-! DEFINITION. What the model is to satisfy: the statements for the provers, each with the rules of spec/ that it comes from.
The terms that they share (WroteReg, WentOn, Delivered, ...) are defined in Sys2Proof/Safety.lean. -/

open Sys2Proof Sys2Proof.Machine Sys2Proof.Safety

/-- The ALU instructions and MUL (R71, R23): each completes in every state, writes its result to d (g0 discards it) and changes nothing else. -/
def Obligations.ScalarArithmetic : Prop :=
  ∀ d a b,
    Gives (.add d a b) d (fun s => s.reg a + s.reg b)
    ∧ Gives (.sub d a b) d (fun s => s.reg a - s.reg b)
    ∧ Gives (.and d a b) d (fun s => s.reg a &&& s.reg b)
    ∧ Gives (.or d a b) d (fun s => s.reg a ||| s.reg b)
    ∧ Gives (.xor d a b) d (fun s => s.reg a ^^^ s.reg b)
    ∧ Gives (.andn d a b) d (fun s => s.reg a &&& ~~~s.reg b)
    ∧ Gives (.slt d a b) d (fun s => if (s.reg a).toInt < (s.reg b).toInt then 1 else 0)
    ∧ Gives (.sltu d a b) d (fun s => if (s.reg a).toNat < (s.reg b).toNat then 1 else 0)
    ∧ Gives (.seq d a b) d (fun s => if s.reg a = s.reg b then 1 else 0)
    ∧ Gives (.min d a b) d (fun s => BitVec.ofInt 64 (min (s.reg a).toInt (s.reg b).toInt))
    ∧ Gives (.max d a b) d (fun s => BitVec.ofInt 64 (max (s.reg a).toInt (s.reg b).toInt))
    ∧ Gives (.minu d a b) d (fun s => BitVec.ofNat 64 (min (s.reg a).toNat (s.reg b).toNat))
    ∧ Gives (.maxu d a b) d (fun s => BitVec.ofNat 64 (max (s.reg a).toNat (s.reg b).toNat))
    ∧ Gives (.mul d a b) d (fun s => BitVec.ofInt 64 ((s.reg a).toInt * (s.reg b).toInt))

/-- Shifts take their count modulo 64; immediates are sign-extended; LUP and AUPC shift theirs by 15; the bit operations count, reverse and extend (R71-R73). -/
def Obligations.ShiftsImmediatesAndBits : Prop :=
  (∀ d a b (n : BitVec 6),
      Gives (.sll d a b) d (fun s => BitVec.ofNat 64 ((s.reg a).toNat * 2 ^ ((s.reg b).toNat % 64)))
      ∧ Gives (.srl d a b) d (fun s => BitVec.ofNat 64 ((s.reg a).toNat / 2 ^ ((s.reg b).toNat % 64)))
      ∧ Gives (.sra d a b) d (fun s => BitVec.ofInt 64 ((s.reg a).toInt / 2 ^ ((s.reg b).toNat % 64)))
      ∧ Gives (.slli d a n) d (fun s => BitVec.ofNat 64 ((s.reg a).toNat * 2 ^ n.toNat))
      ∧ Gives (.srli d a n) d (fun s => BitVec.ofNat 64 ((s.reg a).toNat / 2 ^ n.toNat))
      ∧ Gives (.srai d a n) d (fun s => BitVec.ofInt 64 ((s.reg a).toInt / 2 ^ n.toNat)))
  ∧ (∀ d a (imm : BitVec 15) (u : BitVec 20),
      Gives (.addi d a imm) d (fun s => BitVec.ofInt 64 ((s.reg a).toInt + imm.toInt))
      ∧ Gives (.andi d a imm) d (fun s => s.reg a &&& BitVec.ofInt 64 imm.toInt)
      ∧ Gives (.ori d a imm) d (fun s => s.reg a ||| BitVec.ofInt 64 imm.toInt)
      ∧ Gives (.xori d a imm) d (fun s => s.reg a ^^^ BitVec.ofInt 64 imm.toInt)
      ∧ Gives (.slti d a imm) d (fun s => if (s.reg a).toInt < imm.toInt then 1 else 0)
      ∧ Gives (.sltiu d a imm) d (fun s => if (s.reg a).toNat < (BitVec.ofInt 64 imm.toInt).toNat then 1 else 0)
      ∧ Gives (.lup d u) d (fun _ => BitVec.ofInt 64 (u.toInt * 2 ^ 15))
      ∧ Gives (.aupc d u) d (fun s => s.me.pc + BitVec.ofInt 64 (u.toInt * 2 ^ 15)))
  ∧ (∀ d a,
      (∀ s, ∃ t n, exec (.clz d a) s = .next t ∧ WroteReg s t d (BitVec.ofNat 64 n) 0 ∧ n ≤ 64
        ∧ (∀ i, 64 - n ≤ i → (s.reg a).getLsbD i = false) ∧ (n < 64 → (s.reg a).getLsbD (63 - n) = true))
      ∧ (∀ s, ∃ t n, exec (.ctz d a) s = .next t ∧ WroteReg s t d (BitVec.ofNat 64 n) 0 ∧ n ≤ 64
        ∧ (∀ i, i < n → (s.reg a).getLsbD i = false) ∧ (n < 64 → (s.reg a).getLsbD n = true))
      ∧ Gives (.popc d a) d (fun s => BitVec.ofNat 64 (((List.range 64).filter (s.reg a).getLsbD).length))
      ∧ (∀ s, ∃ t v, exec (.brev d a) s = .next t ∧ WroteReg s t d v 0
        ∧ ∀ i, i < 64 → v.getLsbD i = (s.reg a).getLsbD (63 - i))
      ∧ Gives (.sextb d a) d (fun s => BitVec.ofInt 64 ((s.reg a).setWidth 8).toInt)
      ∧ Gives (.sexth d a) d (fun s => BitVec.ofInt 64 ((s.reg a).setWidth 16).toInt)
      ∧ Gives (.sextw d a) d (fun s => BitVec.ofInt 64 ((s.reg a).setWidth 32).toInt)
      ∧ Gives (.zextw d a) d (fun s => BitVec.ofNat 64 ((s.reg a).toNat % 2 ^ 32)))

/-- The high half of the 128-bit products, and division with its corners: a zero divisor gives all ones and the dividend (R71 and the text after its table). -/
def Obligations.MultiplyHighAndDivide : Prop :=
  ∀ d a b,
    Gives (.mulh d a b) d (fun s => ((s.reg a).signExtend 128 * (s.reg b).signExtend 128).extractLsb' 64 64)
    ∧ Gives (.mulhu d a b) d (fun s => ((s.reg a).setWidth 128 * (s.reg b).setWidth 128).extractLsb' 64 64)
    ∧ Gives (.div d a b) d (fun s => if s.reg b = 0 then BitVec.allOnes 64 else (s.reg a).sdiv (s.reg b))
    ∧ Gives (.divu d a b) d (fun s => if s.reg b = 0 then BitVec.allOnes 64 else s.reg a / s.reg b)
    ∧ Gives (.rem d a b) d (fun s => if s.reg b = 0 then s.reg a else (s.reg a).srem (s.reg b))
    ∧ Gives (.remu d a b) d (fun s => if s.reg b = 0 then s.reg a else s.reg a % s.reg b)

/-- The SFP instructions (R74): the result under FRM in the low half of d, flags ORed into FFLAGS (R30) and on their way to CFLAGS (R31), nothing else changed. -/
def Obligations.ScalarFloat : Prop :=
  ∀ d a b,
    Floats (.fadd d a b) d (fun s => faddBits s.me.frm (s.f32 a) (s.f32 b))
    ∧ Floats (.fsub d a b) d (fun s => fsubBits s.me.frm (s.f32 a) (s.f32 b))
    ∧ Floats (.fmul d a b) d (fun s => fmulBits s.me.frm (s.f32 a) (s.f32 b))
    ∧ Floats (.fdiv d a b) d (fun s => fdivBits s.me.frm (s.f32 a) (s.f32 b))
    ∧ Floats (.fmin d a b) d (fun s => fminBits (s.f32 a) (s.f32 b))
    ∧ Floats (.fmax d a b) d (fun s => fmaxBits (s.f32 a) (s.f32 b))
    ∧ Floats (.feq d a b) d (fun s => fpBool (fcond .eq (s.f32 a) (s.f32 b)))
    ∧ Floats (.flt d a b) d (fun s => fpBool (fcond .lt (s.f32 a) (s.f32 b)))
    ∧ Floats (.fle d a b) d (fun s => fpBool (fcond .le (s.f32 a) (s.f32 b)))
    ∧ Floats (.fcvtif d a) d (fun s => cvtI32F32 s.me.frm (s.f32 a))
    ∧ Floats (.fcvtfi d a) d (fun s => cvtF32I32 (s.f32 a))
    ∧ Floats (.fsqrt d a) d (fun s => fsqrtBits s.me.frm (s.f32 a))
    ∧ Floats (.fma d a b) d (fun s => ffmaBits s.me.frm (s.f32 a) (s.f32 b) (s.f32 d))
    ∧ Gives (.fclass d a) d (fun s => BitVec.ofNat 64 (fclassBits (s.f32 a)))

/-- Every F32 operation whose result is a NaN delivers 0x7FC00000 (the first part of R24, for the arithmetic instructions). -/
def Obligations.CanonicalNan : Prop :=
  ∀ m x y z,
    (f32Nan (faddBits m x y).1 = true → (faddBits m x y).1 = 0x7FC00000#32)
    ∧ (f32Nan (fsubBits m x y).1 = true → (fsubBits m x y).1 = 0x7FC00000#32)
    ∧ (f32Nan (fmulBits m x y).1 = true → (fmulBits m x y).1 = 0x7FC00000#32)
    ∧ (f32Nan (fdivBits m x y).1 = true → (fdivBits m x y).1 = 0x7FC00000#32)
    ∧ (f32Nan (ffmaBits m x y z).1 = true → (ffmaBits m x y z).1 = 0x7FC00000#32)
    ∧ (f32Nan (fsqrtBits m x).1 = true → (fsqrtBits m x).1 = 0x7FC00000#32)
    ∧ (f32Nan (fminBits x y).1 = true → (fminBits x y).1 = 0x7FC00000#32)
    ∧ (f32Nan (fmaxBits x y).1 = true → (fmaxBits x y).1 = 0x7FC00000#32)
    ∧ (f32Nan x = true → vabsBits x = (0x7FC00000#32, 0) ∧ vnegBits x = (0x7FC00000#32, 0))

/-- R26: EQ, NE, UN and ORD are quiet, LT, LE, GT and GE (and FLT, FLE) set NV for any NaN; a NaN makes all but NE and UN false; +0 and -0 compare equal. Beside it, what FEQ, FLT, FLE and VCMPF do with the conditions. -/
def Obligations.CompareConditions : Prop :=
  (∀ x y,
    (f32Nan x = true ∨ f32Nan y = true →
      (∀ c, (fcond c x y).1 = (c == .ne || c == .un))
      ∧ ∀ c, (fcond c x y).2 = if c = .lt ∨ c = .le ∨ c = .gt ∨ c = .ge ∨ (unpack32 x).isSig ∨ (unpack32 y).isSig then flagNV else 0)
    ∧ (f32Nan x = false → f32Nan y = false →
      (∀ c, (fcond c x y).2 = 0)
      ∧ (fcond .ne x y).1 = !(fcond .eq x y).1 ∧ (fcond .ge x y).1 = !(fcond .lt x y).1
      ∧ (fcond .le x y).1 = !(fcond .gt x y).1 ∧ (fcond .gt x y).1 = (fcond .lt y x).1
      ∧ (fcond .le x y).1 = ((fcond .lt x y).1 || (fcond .eq x y).1)
      ∧ (fcond .un x y).1 = false ∧ (fcond .ord x y).1 = true ∧ (fcond .eq x x).1 = true))
  ∧ fcond .eq 0 0x80000000 = (true, 0) ∧ fcond .lt 0x80000000 0 = (false, 0)
  ∧ (∀ d a b, Floats (.feq d a b) d (fun s => fpBool (fcond .eq (s.f32 a) (s.f32 b)))
      ∧ Floats (.flt d a b) d (fun s => fpBool (fcond .lt (s.f32 a) (s.f32 b)))
      ∧ Floats (.fle d a b) d (fun s => fpBool (fcond .le (s.f32 a) (s.f32 b))))
  ∧ ∀ m k a (b : VSrc) c s, ∃ t v, exec (.vcmpf m c k a b) s = .next t
      ∧ WroteMask s t k v (laneFlags (s.mask m) (fun i => (fcond c ((s.row a).lane i) (s.vlane b i)).2))
      ∧ ∀ i, i < 16 → v.getLsbD i = ((s.mask m).getLsbD i && (fcond c ((s.row a).lane i) (s.vlane b i)).1)

/-- R25, for the functions that FMIN, FMAX, VMIN, VMAX and the reductions apply, and that these instructions complete with them. -/
def Obligations.MinMaxOrder : Prop :=
  (∀ x y,
    (f32Nan x = true → f32Nan y = false → (fminBits x y).1 = y ∧ (fmaxBits x y).1 = y)
    ∧ (f32Nan x = false → f32Nan y = true → (fminBits x y).1 = x ∧ (fmaxBits x y).1 = x)
    ∧ (f32Nan x = true → f32Nan y = true → (fminBits x y).1 = 0x7FC00000#32 ∧ (fmaxBits x y).1 = 0x7FC00000#32)
    ∧ ((fminBits x y).2 = if (unpack32 x).isSig ∨ (unpack32 y).isSig then flagNV else 0)
    ∧ ((fmaxBits x y).2 = if (unpack32 x).isSig ∨ (unpack32 y).isSig then flagNV else 0))
  ∧ fminBits 0#32 0x80000000#32 = (0x80000000#32, 0) ∧ fminBits 0x80000000#32 0#32 = (0x80000000#32, 0)
  ∧ fmaxBits 0#32 0x80000000#32 = (0#32, 0) ∧ fmaxBits 0x80000000#32 0#32 = (0#32, 0)
  ∧ (∀ d a b, Floats (.fmin d a b) d (fun s => fminBits (s.f32 a) (s.f32 b))
      ∧ Floats (.fmax d a b) d (fun s => fmaxBits (s.f32 a) (s.f32 b)))
  ∧ (∀ m d a (b : VSrc), Lanes (.vmin m d a b) m d (fun s i => fminBits ((s.row a).lane i) (s.vlane b i))
      ∧ Lanes (.vmax m d a b) m d (fun s i => fmaxBits ((s.row a).lane i) (s.vlane b i)))
  ∧ ∀ m (d : Reg) a,
      let xs := fun (s : State) => (lanes.filter (fun i => (s.mask m).getLsbD i)).map (fun i => (s.row a).lane i)
      Floats (.vred m .fmin d a) d (fun s => reduceFp fminBits 0x7F800000#32 (xs s))
      ∧ Floats (.vred m .fmax d a) d (fun s => reduceFp fmaxBits 0xFF800000#32 (xs s))

/-- Majors 0x40-0x48, VCVT and VPACK (R94, R95, R102, R103): active lanes get the lane result and their flags accrue; inactive lanes keep their value (R91). -/
def Obligations.RowFloat : Prop :=
  (∀ m d a (b : VSrc),
      Lanes (.vadd m d a b) m d (fun s i => faddBits s.me.frm ((s.row a).lane i) (s.vlane b i))
      ∧ Lanes (.vsub m d a b) m d (fun s i => fsubBits s.me.frm ((s.row a).lane i) (s.vlane b i))
      ∧ Lanes (.vmul m d a b) m d (fun s i => fmulBits s.me.frm ((s.row a).lane i) (s.vlane b i))
      ∧ Lanes (.vfma m d a b) m d (fun s i => ffmaBits s.me.frm ((s.row a).lane i) (s.vlane b i) ((s.row d).lane i))
      ∧ Lanes (.vfms m d a b) m d (fun s i => ffmsBits s.me.frm ((s.row a).lane i) (s.vlane b i) ((s.row d).lane i))
      ∧ Lanes (.vfnma m d a b) m d (fun s i => ffnmaBits s.me.frm ((s.row a).lane i) (s.vlane b i) ((s.row d).lane i))
      ∧ Lanes (.vmin m d a b) m d (fun s i => fminBits ((s.row a).lane i) (s.vlane b i))
      ∧ Lanes (.vmax m d a b) m d (fun s i => fmaxBits ((s.row a).lane i) (s.vlane b i))
      ∧ Lanes (.vabs m d a) m d (fun s i => vabsBits ((s.row a).lane i))
      ∧ Lanes (.vneg m d a) m d (fun s i => vnegBits ((s.row a).lane i))
      ∧ Lanes (.vrcp m d a) m d (fun s i => vrcpBits ((s.row a).lane i))
      ∧ Lanes (.vrsq m d a) m d (fun s i => vrsqBits ((s.row a).lane i))
      ∧ Lanes (.vexp2 m d a) m d (fun s i => vexp2Bits ((s.row a).lane i))
      ∧ Lanes (.vlog2 m d a) m d (fun s i => vlog2Bits ((s.row a).lane i))
      ∧ Lanes (.vsqrt m d a) m d (fun s i => fsqrtBits s.me.frm ((s.row a).lane i))
      ∧ Lanes (.vflr m d a) m d (fun s i => integralBits .rdn ((s.row a).lane i))
      ∧ Lanes (.vceil m d a) m d (fun s i => integralBits .rup ((s.row a).lane i))
      ∧ Lanes (.vrndn m d a) m d (fun s i => integralBits .rne ((s.row a).lane i)))
  ∧ (∀ m d a e,
      (∀ f, Lanes (.vcvt m d a f) m d (fun s i => cvtLane f s.me.frm ((s.row a).lane i)))
      ∧ Lanes (.vpackBf16 m d a e) m d (fun s i =>
          (BitVec.ofNat 32 ((cvtBf16 s.me.frm ((s.row e).lane i)).1 * 65536 + (cvtBf16 s.me.frm ((s.row a).lane i)).1),
           (cvtBf16 s.me.frm ((s.row a).lane i)).2 ||| (cvtBf16 s.me.frm ((s.row e).lane i)).2))
      ∧ Lanes (.vpackF16 m d a e) m d (fun s i =>
          (BitVec.ofNat 32 ((cvtF16 s.me.frm ((s.row e).lane i)).1 * 65536 + (cvtF16 s.me.frm ((s.row a).lane i)).1),
           (cvtF16 s.me.frm ((s.row a).lane i)).2 ||| (cvtF16 s.me.frm ((s.row e).lane i)).2)))

/-- Majors 0x4B-0x57 (R97): lanes modulo 2^32, shift counts modulo 32, no flag. -/
def Obligations.RowInteger : Prop :=
  ∀ m d a (b : VSrc),
    Puts (.viadd m d a b) (·.mask m) d (fun s i => (s.row a).lane i + s.vlane b i)
    ∧ Puts (.visub m d a b) (·.mask m) d (fun s i => (s.row a).lane i - s.vlane b i)
    ∧ Puts (.vimul m d a b) (·.mask m) d (fun s i => (s.row a).lane i * s.vlane b i)
    ∧ Puts (.vand m d a b) (·.mask m) d (fun s i => (s.row a).lane i &&& s.vlane b i)
    ∧ Puts (.vor m d a b) (·.mask m) d (fun s i => (s.row a).lane i ||| s.vlane b i)
    ∧ Puts (.vxor m d a b) (·.mask m) d (fun s i => (s.row a).lane i ^^^ s.vlane b i)
    ∧ Puts (.vshl m d a b) (·.mask m) d (fun s i => (s.row a).lane i <<< ((s.vlane b i).toNat % 32))
    ∧ Puts (.vshr m d a b) (·.mask m) d (fun s i => (s.row a).lane i >>> ((s.vlane b i).toNat % 32))
    ∧ Puts (.vshra m d a b) (·.mask m) d (fun s i => ((s.row a).lane i).sshiftRight ((s.vlane b i).toNat % 32))
    ∧ Puts (.vimin m d a b) (·.mask m) d (fun s i => BitVec.ofInt 32 (min ((s.row a).lane i).toInt (s.vlane b i).toInt))
    ∧ Puts (.vimax m d a b) (·.mask m) d (fun s i => BitVec.ofInt 32 (max ((s.row a).lane i).toInt (s.vlane b i).toInt))
    ∧ Puts (.viminu m d a b) (·.mask m) d (fun s i => BitVec.ofNat 32 (min ((s.row a).lane i).toNat (s.vlane b i).toNat))
    ∧ Puts (.vimaxu m d a b) (·.mask m) d (fun s i => BitVec.ofNat 32 (max ((s.row a).lane i).toNat (s.vlane b i).toNat))

/-- VSEL, VPERM, VMOV, VEXT, VINS and VRED (R98-R101, R104; the tree of R37). -/
def Obligations.RowMovesAndReductions : Prop :=
  (∀ m d a (b : VSrc) (n : BitVec 4) (g : Reg),
      Puts (.vsel m d a b) (fun _ => 0xFFFF) d (fun s i => if (s.mask m).getLsbD i then (s.row a).lane i else s.vlane b i)
      ∧ Puts (.vperm m d a b) (·.mask m) d (fun s i => (s.row a).lane ((s.vlane b i).toNat % 16))
      ∧ Puts (.vmov m d b) (·.mask m) d (fun s i => s.vlane b i)
      ∧ Gives (.vext g a n) g (fun s => ((s.row a).lane n.toNat).setWidth 64)
      ∧ Puts (.vins d n g) (fun _ => 1#16 <<< n.toNat) d (fun s _ => (s.reg g).setWidth 32))
  ∧ (∀ m (d : Reg) a,
      let xs := fun (s : State) => (lanes.filter (fun i => (s.mask m).getLsbD i)).map (fun i => (s.row a).lane i)
      Floats (.vred m .fsum d a) d (fun s => reduceFp (faddBits s.me.frm) 0 (xs s))
      ∧ Floats (.vred m .fmin d a) d (fun s => reduceFp fminBits 0x7F800000#32 (xs s))
      ∧ Floats (.vred m .fmax d a) d (fun s => reduceFp fmaxBits 0xFF800000#32 (xs s))
      ∧ Gives (.vred m .isum d a) d (fun s => (xs s).sum.setWidth 64))

/-- MASK (R105) and the compares (R96): the bits of the mask that they write; m0 reads all ones and discards writes (R90). -/
def Obligations.MasksAndRowCompares : Prop :=
  (∀ (d a b : MaskCode) (g : Reg),
      Masks (.mand d a b) d (fun s => s.mask a &&& s.mask b)
      ∧ Masks (.mor d a b) d (fun s => s.mask a ||| s.mask b)
      ∧ Masks (.mxor d a b) d (fun s => s.mask a ^^^ s.mask b)
      ∧ Masks (.mandn d a b) d (fun s => s.mask a &&& ~~~s.mask b)
      ∧ Masks (.mnot d a) d (fun s => ~~~s.mask a)
      ∧ Masks (.mmov d a) d (fun s => s.mask a)
      ∧ Masks (.mset d g) d (fun s => (s.reg g).setWidth 16)
      ∧ Gives (.mget g a) g (fun s => (s.mask a).setWidth 64)
      ∧ Gives (.mpopc g a) g (fun s => BitVec.ofNat 64 ((List.range 16).filter (s.mask a).getLsbD).length)
      ∧ (∀ s, ∃ t n, exec (.mfirst g a) s = .next t ∧ WroteReg s t g (BitVec.ofNat 64 n) 0 ∧ n ≤ 16
        ∧ (∀ i, i < n → (s.mask a).getLsbD i = false) ∧ (n < 16 → (s.mask a).getLsbD n = true)))
  ∧ (∀ m k a (b : VSrc),
      (∀ c s, ∃ t v, exec (.vcmpf m c k a b) s = .next t
        ∧ WroteMask s t k v (laneFlags (s.mask m) (fun i => (fcond c ((s.row a).lane i) (s.vlane b i)).2))
        ∧ ∀ i, i < 16 → v.getLsbD i = ((s.mask m).getLsbD i && (fcond c ((s.row a).lane i) (s.vlane b i)).1))
      ∧ (∀ c s, ∃ t v, exec (.vcmpi m c k a b) s = .next t ∧ WroteMask s t k v 0
        ∧ ∀ i, i < 16 → v.getLsbD i = ((s.mask m).getLsbD i && icond c ((s.row a).lane i) (s.vlane b i))))

/-- The C-form instructions on the CSRs that a thread or its core holds and that have no write rule of their own (R79): old value in d, writable bits written, CSRS and CSRC of g0 write nothing. What the read-only CSRs and the counters return; that a write of one is ignored. How far CYCLE, TIME and the timing counters have come, WSPHASE, and a counter's value when a timing event is selected are free values (log entries 6 and 9). -/
def Obligations.CsrInstructions : Prop :=
  (∀ (c : CsrNum) (d a : Reg) s, storedCsr c → (csrSup c.toNat = true → s.me.sup = true) →
      let n := c.toNat
      let old := s.me.csr n
      (∃ t, exec (.csrr d c) s = .next t ∧ WroteReg s t d old 0)
      ∧ (∃ t, exec (.csrw d a c) s = .next t ∧ WroteCsr s t d old n (masked n old (s.reg a)))
      ∧ (∃ t, exec (.csrs d a c) s = .next t
          ∧ (if a = 0 then WroteReg s t d old 0 else WroteCsr s t d old n (masked n old (old ||| s.reg a))))
      ∧ (∃ t, exec (.csrc d a c) s = .next t
          ∧ (if a = 0 then WroteReg s t d old 0 else WroteCsr s t d old n (masked n old (old &&& ~~~s.reg a))))
      ∧ (∃ t, exec (.csrwi d a c) s = .next t ∧ WroteCsr s t d old n (masked n old (a.setWidth 64))))
  ∧ (∀ (c : CsrNum) (d a : Reg) s, csrListed c = true → csrOfCore c.toNat = true → (csrSup c.toNat = true → s.me.sup = true) →
      (c.toNat < 0x78 ∨ 0x7F < c.toNat) →
      let n := c.toNat
      let old := s.myCore.csr n
      let wrote := fun (t : State) (v : Word) => ∃ u, WroteReg s u d old 0 ∧
        (if 0x070 ≤ n ∧ n ≤ 0x077 ∧ hpmTiming old.toNat = true then
          ∃ x, t = u.fresh.updMyCore (fun k => (k.setCsr (n + 8) x).setCsr n (masked n old v))
        else t = u.updMyCore (·.setCsr n (masked n old v)))
      (∃ t, exec (.csrr d c) s = .next t ∧ WroteReg s t d old 0)
      ∧ (∃ t, exec (.csrw d a c) s = .next t ∧ wrote t (s.reg a))
      ∧ (∃ t, exec (.csrs d a c) s = .next t ∧ (if a = 0 then WroteReg s t d old 0 else wrote t (old ||| s.reg a)))
      ∧ (∃ t, exec (.csrc d a c) s = .next t ∧ (if a = 0 then WroteReg s t d old 0 else wrote t (old &&& ~~~s.reg a)))
      ∧ (∃ t, exec (.csrwi d a c) s = .next t ∧ wrote t (a.setWidth 64)))
  ∧ (∀ (d : Reg) s,
      let reads := fun (c : CsrNum) (v : Word) => ∃ t, exec (.csrr d c) s = .next t ∧ WroteReg s t d v 0
      reads 0x023 (BitVec.ofNat 64 (s.me.resident * 65536 + s.me.spilled % 65536))
      ∧ reads 0x034 (s.me.csr 0x034) ∧ reads 0x081 (s.me.csr 0x081)
      ∧ reads 0x0F0 (s.me.csr 0x0F0) ∧ reads 0x0F1 (s.me.csr 0x0F1) ∧ reads 0x0F2 (s.me.csr 0x0F2) ∧ reads 0x0F3 (s.me.csr 0x0F3)
      ∧ (∀ l r e m, s.myCtx.ranks = l ++ (r, e) :: m → rankV e = true → rankDev e = s.devNum → rankCore e = s.cur.core →
          (∀ p ∈ l, ¬ (rankV p.2 = true ∧ rankDev p.2 = s.devNum ∧ rankCore p.2 = s.cur.core)) → reads 0x041 (BitVec.ofNat 64 r))
      ∧ ((∀ p ∈ s.myCtx.ranks, ¬ (rankV p.2 = true ∧ rankDev p.2 = s.devNum ∧ rankCore p.2 = s.cur.core)) →
          reads 0x041 (1#64 <<< 63))
      ∧ reads 0x052 (if s.myCore.line then 1 else 0)
      ∧ (∃ t e, exec (.csrr d 0x080) s = .next t
        ∧ WroteReg (s.fresh.updMyCore (fun k => { k with cycle := k.cycle + e })) t d (s.myCore.cycle + e) 0)
      ∧ (∃ t e, exec (.csrr d 0x082) s = .next t ∧ WroteReg { s.fresh with time := s.time + e } t d (s.time + e) 0)
      ∧ reads 0x0A0 (BitVec.ofNat 64 (s.cur.core % 16)) ∧ reads 0x0A1 (BitVec.ofNat 64 s.cur.slot)
      ∧ reads 0x0A2 (BitVec.ofNat 64 (s.cur.core / 16)) ∧ reads 0x0A3 (BitVec.ofNat 64 (s.cur.core / 512))
      ∧ (∃ t v, exec (.csrr d 0x0D0) s = .next t
        ∧ WroteReg (s.fresh.updDie (dieOf s.cur.core) (fun y => { y with wsPhase := v })) t d (v.setWidth 64) 0)
      ∧ (∀ i : BitVec 3, let n := 0x078 + i.toNat
          (hpmTiming (s.myCore.csr (n - 8)).toNat = false → reads (0x078 + i.setWidth 12) (s.myCore.csr n))
          ∧ (hpmTiming (s.myCore.csr (n - 8)).toNat = true → ∃ t e, exec (.csrr d (0x078 + i.setWidth 12)) s = .next t
            ∧ WroteReg (s.fresh.updMyCore (·.setCsr n ((s.myCore.csr n + e) &&& 0xFFFFFFFFFFFF))) t d
                ((s.myCore.csr n + e) &&& 0xFFFFFFFFFFFF) 0)))
  ∧ (∀ (c : CsrNum) (d a : Reg) s, csrListed c = true → csrRo c.toNat = true →
      (csrSup c.toNat = true → s.me.sup = true) →
      exec (.csrw d a c) s = exec (.csrr d c) s ∧ exec (.csrs d a c) s = exec (.csrr d c) s
        ∧ exec (.csrc d a c) s = exec (.csrr d c) s ∧ exec (.csrwi d a c) s = exec (.csrr d c) s)

/-- The CSR rows of the operation table, first as the C-form instructions that they stand for, then what a CSRR, CSRW, CSRS, CSRC and CSRWI of each does. That a counter written by the instruction holds just the value written, the write coming after the count of the instruction itself, is the model's choice of log entry 22 (DEDUCED), and how far a timing counter has come in between a free value of log entry 9. -/
def Obligations.CsrRows : Prop :=
  (∀ (f : CsrForm) s,
      exec (.csrWriteFrm f) s = exec (csrInstr f 0x010) s
      ∧ exec (.csrAccessFflags f) s = exec (csrInstr f 0x011) s
      ∧ exec (.csrReadCflags f) s = exec (csrInstr f 0x012) s
      ∧ exec (.csrWriteStatus f) s = exec (csrInstr f 0x000) s
      ∧ (∀ l, exec (.csrWriteWindow f l) s = exec (csrInstr f (if l then 0x022 else 0x021)) s)
      ∧ exec (.csrWriteMfmt f) s = exec (csrInstr f 0x030) s
      ∧ exec (.csrWriteMerr f) s = exec (csrInstr f 0x033) s
      ∧ exec (.csrWriteDomain f) s = exec (csrInstr f 0x040) s
      ∧ (∀ n, exec (.csrWriteHpmcnt f n) s = exec (csrInstr f (0x078 + n.setWidth 12)) s)
      ∧ (∀ c, exec (.csrWriteOther f c) s = exec (csrInstr f c) s))
  ∧ (∀ (d a : Reg) s,
      (∀ op (c : CsrNum), op = .r ∨ ((op = .s ∨ op = .c) ∧ a = 0) → c ∈ [0x000#12, 0x010#12, 0x011#12, 0x030#12, 0x040#12] →
        ∃ t, exec (csrInstr ⟨op, d, a⟩ c) s = .next t ∧ WroteReg s t d (s.me.csr c.toNat) 0)
      ∧ (s.me.sup = true → ∃ t, exec (.csrReadCflags ⟨.r, d, 0⟩) s = .next t
        ∧ WroteReg (s.updCluster (clusterOf s.cur.core) (fun c => { c with cflags := 0 })) t d
            ((s.cluster (clusterOf s.cur.core)).cflags.setWidth 64) 0)
      ∧ (s.me.sup = false → exec (.csrReadCflags ⟨.r, d, 0⟩) s = .next (s.trap 16 ((wordOf (.csrr d 0x012)).setWidth 64)))
      ∧ ∀ op : CsrOp, op ≠ .r → (op = .s ∨ op = .c → a ≠ 0) →
      let f : CsrForm := ⟨op, d, a⟩
      let new := fun (old : Word) => match op with
        | .s => old ||| s.reg a
        | .c => old &&& ~~~s.reg a
        | .wi => a.setWidth 64
        | _ => s.reg a
      let refused := fun (n : CsrNum) (cause : Nat) => s.trap cause ((wordOf (csrInstr f n)).setWidth 64)
      let wrote := fun (t : State) (n : Nat) => WroteCsr s t d (s.me.csr n) n (masked n (s.me.csr n) (new (s.me.csr n)))
      (bits (new (s.me.csr 0x010)) 2 0 ≤ 4 → ∃ t, exec (.csrWriteFrm f) s = .next t ∧ wrote t 0x010)
      ∧ (5 ≤ bits (new (s.me.csr 0x010)) 2 0 → exec (.csrWriteFrm f) s = .next (refused 0x010 1))
      ∧ (∃ t, exec (.csrAccessFflags f) s = .next t ∧ wrote t 0x011
        ∧ (t.cluster (clusterOf s.cur.core)).onTheWay = (s.cluster (clusterOf s.cur.core)).onTheWay
            ||| ((new (s.me.csr 0x011)).setWidth 5 &&& ~~~(s.me.csr 0x011).setWidth 5))
      ∧ (let same := (new (s.me.csr 0)).getLsbD 1 = (s.me.csr 0).getLsbD 1
        (s.me.sup = true ∨ same → ∃ t, exec (.csrWriteStatus f) s = .next t ∧ wrote t 0)
        ∧ (s.me.sup = false → ¬ same → exec (.csrWriteStatus f) s = .next (refused 0x000 16)))
      ∧ (∃ t, exec (.csrWriteWindow f false) s = .next t ∧ wrote t 0x021)
      ∧ (∃ t, exec (.csrWriteWindow f true) s = .next t ∧ wrote t 0x022)
      ∧ (∃ t, exec (.csrWriteMfmt f) s = .next t
        ∧ (if mfmtOk (masked 0x030 (s.me.csr 0x030) (new (s.me.csr 0x030))) then wrote t 0x030 else WroteReg s t d (s.me.csr 0x030) 0))
      ∧ (∃ t, exec (.csrWriteMerr f) s = .next t ∧ wrote t 0x033)
      ∧ (∃ t, exec (.csrWriteDomain f) s = .next t
        ∧ (let v := masked 0x040 (s.me.csr 0x040) (new (s.me.csr 0x040))
          if s.domainWritable s.cur v = true ∧ v ≠ s.me.csr 0x040 then
            WroteCsr (s.updMe (fun t => { t with arrival := none })) t d (s.me.csr 0x040) 0x040 v
          else WroteReg s t d (s.me.csr 0x040) 0))
      ∧ (∀ n : BitVec 3, let c := 0x078 + n.toNat
        let counts := fun (t : State) (old : Word) => (t.core s.cur.core).csr c = BitVec.ofNat 64 ((new old).toNat % 2 ^ 48)
        ∃ t, exec (.csrWriteHpmcnt f n) s = .next t
        ∧ (if hpmTiming (s.myCore.csr (0x070 + n.toNat)).toNat = true then
            ∃ e, let w := (s.myCore.csr c + e) &&& 0xFFFFFFFFFFFF
              WroteReg (s.fresh.updMyCore (·.setCsr c w)) t d w 0 ∧ counts t w
          else WroteReg s t d (s.myCore.csr c) 0 ∧ (bits (s.myCore.csr c) 63 48 = 0 → counts t (s.myCore.csr c))))
      ∧ (∀ c : CsrNum, storedCsr c → (csrSup c.toNat = true → s.me.sup = true) →
        ∃ t, exec (.csrWriteOther f c) s = .next t ∧ wrote t c.toNat))

/-- The counter instructions (R202): a threshold is reached when (c - t) mod 2^32 < 2^31 (R197). -/
def Obligations.Counters : Prop :=
  ∀ (d b : Reg) (c : BitVec 5) s,
    let n := c.toNat
    let old := s.myCore.counter n
    (∃ t, exec (.cntr d c) s = .next t ∧ WroteReg s t d (old.setWidth 64) 0)
    ∧ (∃ t, exec (.cntadd d c b) s = .next t
      ∧ WroteReg (s.release.bumpCounter s.cur.core n ((s.reg b).setWidth 32)) t d (old.setWidth 64) 0
      ∧ ((∀ p ∈ s.ctxs, p.2.evWait = []) → ∀ k, (t.core s.cur.core).counter k
          = if k = n then old + (s.reg b).setWidth 32 else s.myCore.counter k))
    ∧ ((old - (s.reg b).setWidth 32).toNat < 2 ^ 31 →
      ∃ t, exec (.waitc d c b) s = .next t ∧ WroteReg s t d (old.setWidth 64) 0)
    ∧ (2 ^ 31 ≤ (old - (s.reg b).setWidth 32).toNat →
      ∃ t, exec (.waitc d c b) s = .next t ∧ Waits s t (.counter n ((s.reg b).setWidth 32)) (.waitc d c b))

/-- SEND by its checks in order (R200; those of its operand block by R130), the zeroing of the halters that it takes (R324), RKMAP (R205) and RKMOVE (R206). That RKMOVE with a[63:16] not 0 writes 0 and changes nothing, that the entry reads as the old one with T set while an RKMAP waits, and that this RKMAP answers with the entry as it stood when it began to wait, are the model's choices of log entry 36. -/
def Obligations.SendAndRanks : Prop :=
  (∀ (d a b : Reg) s,
      (let ea := s.reg b
        let inside := localBase.toNat ≤ ea.toNat ∧ ea.toNat + 16 ≤ localBase.toNat + localBytes
        let prot := s.myCore.protRefused (!s.me.sup) ea.toNat 16 true false
        (¬ inside → exec (.send d a b) s = .next (s.trap 3 ea))
        ∧ (inside → ea.toNat % 16 ≠ 0 → exec (.send d a b) s = .next (s.trap 2 ea))
        ∧ (inside → ea.toNat % 16 = 0 → (∀ x, prot = some x → exec (.send d a b) s = .next (s.trap 3 (BitVec.ofNat 64 x)))
          ∧ ∀ y, prot = none → s.myCore.rangeHit ea.toNat 16 false = some y →
            exec (.send d a b) s = .next (s.trap 5 (BitVec.ofNat 64 y))))
      ∧ ∀ bs, ReadsLocal s (s.reg b) 16 16 bs →
      let d0 := dwordAt bs 0
      let d1 := dwordAt bs 8
      let r := s.reg a
      let src := bits d0 31 0
      let len := bits d1 12 0
      let lo := (localBase + BitVec.ofNat 64 src).toNat
      (badDesc d0 d1 = true → ∃ t, exec (.send d a b) s = .next t ∧ WroteReg s t d 1 0)
      ∧ (badDesc d0 d1 = false → (bits r 63 16 ≠ 0 ∨ rankV (s.myCtx.rank (bits r 15 0)) = false) →
        exec (.send d a b) s = .next (s.trap 19 r))
      ∧ (badDesc d0 d1 = false → bits r 63 16 = 0 → rankV (s.myCtx.rank r.toNat) = true →
        (∀ x, s.myCore.protRefused (!s.me.sup) lo len true false = some x →
          exec (.send d a b) s = .next (s.trap 3 (BitVec.ofNat 64 x)))
        ∧ (s.myCore.protRefused (!s.me.sup) lo len true false = none → d1.getLsbD 16 = true →
          let w := s.myCore.protRefused (!s.me.sup) lo len false true
          let g := s.myCore.rangeHit lo len true
          (∀ x, w = some x → (∀ y, g = some y → x ≤ y) → exec (.send d a b) s = .next (s.trap 3 (BitVec.ofNat 64 x)))
          ∧ (∀ y, g = some y → (∀ x, w = some x → y < x) → exec (.send d a b) s = .next (s.trap 5 (BitVec.ofNat 64 y))))
        ∧ (s.sendCheck src len (d1.getLsbD 16) = none →
          (rankT (s.myCtx.rank r.toNat) = true → 64 ≤ s.heldFor s.me.ctx r.toNat (dieOf s.cur.core) →
            ∃ t, exec (.send d a b) s = .next t ∧ Waits s t (.transit r.toNat) (.send d a b))
          ∧ ((rankT (s.myCtx.rank r.toNat) = true → s.heldFor s.me.ctx r.toNat (dieOf s.cur.core) < 64) →
            let u := s.release.postMsg r.toNat (s.myCtx.rank r.toNat)
              (.send (bits d0 63 32) (bits d1 28 24) (s.release.engineBytes s.cur.core (.loc src) len))
            let w := if d1.getLsbD 16 then u.writeAt s.cur.core (.loc src) (List.replicate len 0) else u
            ∃ t, exec (.send d a b) s = .next t ∧ WroteReg w t d 0 0))))
  ∧ (∀ (d a b : Reg) s, s.me.sup = true →
      let r := (s.reg a).toNat
      let e := s.reg b
      let x := s.me.ctx
      let old := s.myCtx.rank r
      let u := s.release
      (Fresh s → bits (s.reg a) 63 16 ≠ 0 ∨ rankReserved e = true →
        ∃ t, exec (.rkmap d a b) s = .next t ∧ WroteReg s t d (BitVec.allOnes 64) 0)
      ∧ (Fresh s → bits (s.reg a) 63 16 = 0 → rankReserved e = false → (rankT e = true → u.onTheWay x r old = false) →
        ∃ t, exec (.rkmap d a b) s = .next t ∧ WroteReg (u.setRank x r e) t d old 0)
      ∧ (Fresh s → bits (s.reg a) 63 16 = 0 → rankReserved e = false → rankT e = true → u.onTheWay x r old = true →
        ∃ t, exec (.rkmap d a b) s = .next t
          ∧ Waits (u.setRank x r (old ||| (1#64 <<< 62))) t (.landing r old) (.rkmap d a b))
      ∧ (∀ n o, s.me.waitOf = some (.landing n o) → s.onTheWay x n o = false →
        ∃ t, exec (.rkmap d a b) s = .next t ∧ WroteReg (s.setRank x n e) t d o 0)
      ∧ (bits (s.reg a) 63 16 ≠ 0 ∨ rankReserved e = true ∨ rankT (s.myCtx.rank (bits (s.reg a) 15 0)) = false →
        ∃ t, exec (.rkmove d a b) s = .next t ∧ WroteReg s t d 0 0)
      ∧ (bits (s.reg a) 63 16 = 0 → rankReserved e = false → rankT old = true →
        ∃ t, exec (.rkmove d a b) s = .next t
          ∧ WroteReg ((s.setRank x r ((1#64 <<< 63) ||| (e &&& 0xFFFFFF#64))).releaseRank x r (rankDev e) (rankCore e)) t d
              (BitVec.ofNat 64 (s.msgs.filter (fun m => m.held && m.ctx == x && m.rank == r)).length) 0))

/-- The BAR instructions (R209): arrivals, generations, waits, the query word, and cause 7 where the rule gives it. -/
def Obligations.NamedBarriers : Prop :=
  (∀ (d a b : Reg) s, let n := (s.reg a).toNat
      n ≤ 39 ∨ n = 47 →
      let o := s.myCore.bar n
      let g : W32 := (s.reg b).setWidth 32;
      (bits (s.reg b) 63 11 = 0 → (o.isOpen = true → o.arrived = 0) → ∃ t, exec (.barinit a b) s = .next t
        ∧ WentOn (s.updMyCore (·.setBar n (if (s.reg b).setWidth 11 = 0#11 then ⟨false, 0, 0, 0⟩
            else ⟨true, (s.reg b).setWidth 11, 0, if o.isOpen then o.gen else 0⟩))) t)
      ∧ (o.isOpen = true → o.members.getLsbD s.cur.slot = true → o.arrived.getLsbD s.cur.slot = false →
        let full := o.arrived ||| (1#11 <<< s.cur.slot) = o.members
        let r := s.release.updMyCore (·.setBar n
          (if full then { o with arrived := 0, gen := o.gen + 1 } else { o with arrived := o.arrived ||| (1#11 <<< s.cur.slot) }))
        let u := if full then r.latchAll s.cur.core else r;
        (∃ t, exec (.bararr d a) s = .next t ∧ WroteReg u t d (o.gen.setWidth 64) 0)
        ∧ (Fresh s → full → ∃ t, exec (.barsync d a) s = .next t ∧ WroteReg u t d (o.gen.setWidth 64) 0)
        ∧ (Fresh s → ¬ full → ∃ t, exec (.barsync d a) s = .next t
          ∧ Waits (u.setReg d (o.gen.setWidth 64)) t (.barSync n o.gen) (.barsync d a)))
      ∧ ((o.g - g - 1).toNat < 2 ^ 31 → ∃ t, exec (.barwait a b) s = .next t ∧ WentOn s t)
      ∧ (2 ^ 31 ≤ (o.g - g - 1).toNat → s.me.woke = none → ∃ t, exec (.barwait a b) s = .next t
        ∧ Waits s t (.barrier n g) (.barwait a b))
      ∧ (∀ l, s.me.woke = some (.barrier n g, l) → ∃ t, exec (.barwait a b) s = .next t ∧ WentOn s t)
      ∧ (∀ k h l, s.me.state = .ready → s.me.woke = some (.barSync k h, l) →
        ∃ t, exec (.barsync d a) s = .next t ∧ WentOn s t)
      ∧ (∃ t, exec (.barq d a) s = .next t ∧ WroteReg s t d
          (BitVec.ofNat 64 (o.g.toNat * 2 ^ 32 + (if o.isOpen then 1 else 0) * 2 ^ 29 + o.members.toNat * 2 ^ 12 + o.arrived.toNat)) 0))
  ∧ (∀ (d a b : Reg) s, let n := (s.reg a).toNat
      let o := s.myCore.bar n
      let arrives := exec (.bararr d a) s = .next (s.trap 7 (s.reg a))
        ∧ (Fresh s → exec (.barsync d a) s = .next (s.trap 7 (s.reg a)));
      (47 < n → exec (.barinit a b) s = .next (s.trap 7 (s.reg a)) ∧ exec (.barwait a b) s = .next (s.trap 7 (s.reg a))
        ∧ arrives ∧ exec (.barq d a) s = .next (s.trap 7 (s.reg a)))
      ∧ (40 ≤ n → n ≤ 46 → exec (.barinit a b) s = .next (s.trap 7 (s.reg a))
        ∧ (s.me.level ≠ n - 40 → arrives) ∧ (s.domainArrived s.cur = true → arrives))
      ∧ (bits (s.reg b) 63 11 ≠ 0 → exec (.barinit a b) s = .next (s.trap 7 (s.reg a)))
      ∧ (o.isOpen = true → o.arrived ≠ 0 → exec (.barinit a b) s = .next (s.trap 7 (s.reg a)))
      ∧ (n ≤ 39 ∨ n = 47 → o.isOpen = false ∨ o.members.getLsbD s.cur.slot = false ∨ o.arrived.getLsbD s.cur.slot = true → arrives))

/-- Arrival at a domain barrier (R209, R210) and the completion of a generation when every member has arrived (R212). -/
def Obligations.DomainBarriers : Prop :=
  (∀ (d a b : Reg) s, let n := (s.reg a).toNat
      40 ≤ n → n ≤ 46 →
      let g := s.myCtx.domainGen (s.domainKey s.cur (n - 40))
      let h : W32 := (s.reg b).setWidth 32
      let u := s.release.updMe (fun x => { x with arrival := some ⟨g, s.release.myCore.serial⟩ });
      (s.me.level = n - 40 → s.domainArrived s.cur = false →
        (∃ t, exec (.bararr d a) s = .next t ∧ WroteReg u t d (g.setWidth 64) 0)
        ∧ (Fresh s → ∃ t, exec (.barsync d a) s = .next t
          ∧ Waits (u.setReg d (g.setWidth 64)) t (.barSync n g) (.barsync d a)))
      ∧ ((g - h - 1).toNat < 2 ^ 31 → ∃ t, exec (.barwait a b) s = .next t ∧ WentOn s t)
      ∧ (2 ^ 31 ≤ (g - h - 1).toNat → s.me.woke = none → ∃ t, exec (.barwait a b) s = .next t
        ∧ Waits s t (.barrier n h) (.barwait a b))
      ∧ (let ms := s.domainMembers s.me.ctx (s.domainKey s.cur (n - 40))
         let mine := ms.filter (fun t => t.core == s.cur.core)
         ∃ t, exec (.barq d a) s = .next t ∧ WroteReg s t d (BitVec.ofNat 64 (g.toNat * 2 ^ 32
          + (if ms = [] then 0 else if ms.all (fun t => s.domainArrived t) then 2 else 1) * 2 ^ 29
          + mine.length * 2 ^ 12 + (mine.filter (fun t => s.domainArrived t)).length)) 0))
  ∧ (∀ x k key s, (s.instances x)[k]? = some key → s.mayComplete x key = true →
      ∃ t, exec (.domainBarrierCompletion x k) s = .next t
        ∧ (t.ctx x).domainGen key = (s.ctx x).domainGen key + 1
        ∧ (∀ c ∈ (s.domainMembers x key).map (·.core), ∀ n, n < 11 → ((t.core c).thread n).latch = true)
        ∧ (∀ c p, t.loadByte c p = s.loadByte c p))

/-- HELP, HJOIN and SELF (R61-R63), and what a new helper holds (R61). -/
def Obligations.Helpers : Prop :=
  (∀ (d a b : Reg) s,
      (∀ bs n, s.cur.slot = 0 → bits (s.reg a) 1 0 = 0 → bits (s.reg a) 63 56 = 0 → bs.length = 24 →
        (∀ i, i < 3 → ReadsLocal s (s.reg b + BitVec.ofNat 64 (8 * i)) 8 8 ((bs.drop (8 * i)).take 8)) → s.myCore.freeSlot = some n → ∃ t, exec (.help d a b) s = .next t
          ∧ WroteReg (s.release.updMyCore (·.setThread n (s.release.me.helper (s.reg a) (dwordAt bs 0) (dwordAt bs 8)
              (dwordAt bs 16) s.release.myCore.serial))) t d (BitVec.ofNat 64 n) 0)
      ∧ (s.cur.slot ≠ 0 → ∃ t, exec (.help d a b) s = .next t ∧ WroteReg s t d 0 0)
      ∧ (s.cur.slot = 0 → bits (s.reg a) 1 0 ≠ 0 ∨ bits (s.reg a) 63 56 ≠ 0 → exec (.help d a b) s = .next (s.trap 2 (s.reg a)))
      ∧ (s.cur.slot = 0 → bits (s.reg a) 1 0 = 0 → bits (s.reg a) 63 56 = 0 →
        ((s.reg b).toNat < 0xFFFFFFFFFFF00000 ∨ 0xFFFFFFFFFFF7FFE8 < (s.reg b).toNat →
          exec (.help d a b) s = .next (s.trap 3 (s.reg b)))
        ∧ (0xFFFFFFFFFFF00000 ≤ (s.reg b).toNat → (s.reg b).toNat ≤ 0xFFFFFFFFFFF7FFE8 → bits (s.reg b) 2 0 ≠ 0 →
          exec (.help d a b) s = .next (s.trap 2 (s.reg b))))
      ∧ (∀ bs : List Byte, s.cur.slot = 0 → bits (s.reg a) 1 0 = 0 → bits (s.reg a) 63 56 = 0 → bs.length = 24 →
        (∀ i, i < 3 → ReadsLocal s (s.reg b + BitVec.ofNat 64 (8 * i)) 8 8 ((bs.drop (8 * i)).take 8)) → s.myCore.freeSlot = none →
        ∃ t, exec (.help d a b) s = .next t ∧ WroteReg s t d 0 0)
      ∧ (∀ n, (s.reg a).toNat = n → 1 ≤ n → n ≤ 10 → n ≠ s.cur.slot → s.joinReady n = true →
        (∀ v, (s.myCore.thread n).state = .done v → s.joinTaken n = false → ∃ t, exec (.hjoin d a) s = .next t
          ∧ WroteReg ((s.joined s.cur.core s.cur.slot n).updMyCore
              (fun k => (k.setThread n Thread.reset).mapThreads (·.joinGone n))) t d v 0)
        ∧ ((s.myCore.thread n).state = .free ∨ s.joinTaken n = true → ∃ t, exec (.hjoin d a) s = .next t
          ∧ WroteReg s t d (BitVec.allOnes 64) 0))
      ∧ (∀ n, (s.reg a).toNat = n → 1 ≤ n → n ≤ 10 → Fresh s → s.joinReady n = false →
        ∃ t, exec (.hjoin d a) s = .next t
          ∧ Waits (s.updMyCore (fun k => { k with serial := k.serial + 1 })) t (.join n s.myCore.serial false) (.hjoin d a))
      ∧ ((s.reg a).toNat = 0 ∨ 10 < (s.reg a).toNat → ∃ t, exec (.hjoin d a) s = .next t
          ∧ WroteReg s t d (BitVec.allOnes 64) 0)
      ∧ (∃ t, exec (.self d) s = .next t ∧ WroteReg s t d s.selfWord 0))
  ∧ (∀ t : Thread, ∀ entry sp lim arg n,
      let h := t.helper entry sp lim arg n
      h.state = .ready ∧ h.pc = entry ∧ h.ctx = t.ctx ∧ h.reg 1 = sp ∧ h.reg 2 = t.reg 2 ∧ h.reg 8 = arg
        ∧ h.csr 0x021 = sp &&& ~~~7#64 ∧ h.csr 0x022 = lim &&& ~~~7#64 ∧ h.csr 0x004 = t.csr 0x004 ∧ h.csr 0x010 = t.csr 0x010
        ∧ h.csr 0x020 = t.csr 0x020 ∧ h.csr 0x040 = t.csr 0x040 ∧ h.csr 0x0F3 = t.csr 0x0F3
        ∧ h.csr 0x011 = 0 ∧ h.sup = t.sup ∧ h.intrap = false ∧ h.resident = 1 ∧ h.spilled = 0)

/-- HITCH (R218) and UNHITCH (R219): the masks refused, the wait, the rendezvous that fuses the members with what each finds in d, and the dissolution. -/
def Obligations.Hitches : Prop :=
  ∀ (d a : Reg) s, let k : BitVec 16 := (s.reg a).setWidth 16
    let named := bits (s.reg a) 63 16 = 0 ∧ k.getLsbD (coreIdOf s.cur.core) = true ∧ k &&& ~~~s.groupMask = 0#16
    let word := fun (f : BitVec 16) (l : Nat) => BitVec.ofNat 64 (l * 2 ^ 16 + f.toNat)
    let member := fun (t : State) (m : ThreadId) (r : Reg) (v : Word) =>
      (t.thread m).state = .ready ∧ ((s.thread m).replay = none → (t.thread m).pc = (s.thread m).pc + 4)
        ∧ ∀ n, regNo (t.thread m) n = if n = (s.thread m).regId r ∧ n ≠ 0 then some v else regNo (s.thread m) n
    (s.cur.slot ≠ 0 → ∃ t, exec (.hitch d a) s = .next t ∧ WroteReg s t d 0 0)
    ∧ (∀ h, s.cur.slot = 0 → s.me.hitch = some h → ∃ t, exec (.hitch d a) s = .next t
      ∧ WroteReg s t d (word h.mask h.leader) 0)
    ∧ (s.cur.slot = 0 → s.me.hitch = none → ¬ named → ∃ t, exec (.hitch d a) s = .next t ∧ WroteReg s t d 0 0)
    ∧ (s.cur.slot = 0 → s.me.hitch = none → named → s.rendezvous s.me.pc k = none →
      ∃ t, exec (.hitch d a) s = .next t ∧ Waits s t (.hitch s.me.pc k) (.hitch d a))
    ∧ (∀ f, s.cur.slot = 0 → s.me.hitch = none → named → s.rendezvous s.me.pc k = some f →
      ((hitchMembers s.cur f).length = 1 → ∃ t, exec (.hitch d a) s = .next t ∧ WroteReg s t d (word f (leaderOf f)) 0)
      ∧ (2 ≤ (hitchMembers s.cur f).length → ∃ t, exec (.hitch d a) s = .next t
        ∧ (∀ c p, t.loadByte c p = s.loadByte c p)
        ∧ (∀ m ∈ hitchMembers s.cur f, (t.thread m).hitch = some ⟨f, leaderOf f, 0⟩ ∧ (t.thread m).hitched = true)
        ∧ member t s.cur d (word f (leaderOf f))
        ∧ ∀ m ∈ hitchMembers s.cur f, ∀ r x, m ≠ s.cur → (s.thread m).word = wordOf (.hitch r x) →
            member t m r (word f (leaderOf f))))
    ∧ (s.rendezvous s.me.pc k = none ↔ ∃ i, i < 16 ∧ k.getLsbD i = true ∧ (let m : ThreadId := ⟨16 * clusterOf s.cur.core + i, 0⟩
        m ≠ s.cur ∧ (s.thread m).state.live = true ∧ (s.thread m).waitOf ≠ some (.hitch s.me.pc k)))
    ∧ (s.me.hitch = none → ∃ t, exec (.unhitch d) s = .next t ∧ WroteReg s t d 0 0)
    ∧ (∀ h, s.me.hitch = some h → h.mask.getLsbD (coreIdOf s.cur.core) = true → s.cur.slot = 0 →
      ∃ t, exec (.unhitch d) s = .next t ∧ (∀ c p, t.loadByte c p = s.loadByte c p)
        ∧ ∀ m ∈ hitchMembers s.cur h.mask, (t.thread m).hitch = none ∧ (t.thread m).hitched = false
          ∧ member t m d (word h.mask h.leader))

/-- ENQ (R250) and QRES (R251) on a resident descriptor, which they touch (R240), and QPIN (R252), which touches none. -/
def Obligations.QueueInstructions : Prop :=
  (∀ (d a b : Reg) s,
      let h := bits (s.reg a) 11 0
      let x := s.me.ctx
      let q := s.myCtx.queue h
      let u := s.updDie q.home (·.touch x h)
      (bits (s.reg a) 63 12 ≠ 0 → exec (.enq d a b) s = .next (s.trap 8 (s.reg a)))
      ∧ (bits (s.reg a) 63 12 = 0 → s.myRes h = 0 → exec (.enq d a b) s = .next (s.trap 8 (BitVec.ofNat 64 h)))
      ∧ (bits (s.reg a) 63 12 = 0 → s.myRes h ≠ 0 → (s.reg b).toNat % 8 ≠ 0 → exec (.enq d a b) s = .next (s.trap 2 (s.reg b)))
      ∧ (bits (s.reg a) 63 12 = 0 → s.myRes h ≠ 0 → (s.reg b).toNat % 8 = 0 → (s.die q.home).isResident x h = true →
        ∀ p l, addrClass (s.reg b) = .loc ∨ (s.reg b).toNat % 65536 + q.rbytes ≤ 65536 →
        u.check s.cur (s.reg b) q.rbytes 8 .read = .ok p → u.meetsBad s.cur.core p q.rbytes = false → (∀ e y, p ≠ .remote e y) →
        u.engineSpan s.cur.core x (!s.me.sup) .write (q.base + BitVec.ofNat 64 (q.tail * q.rbytes)) q.rbytes = .ok l →
        ∃ t, exec (.enq d a b) s = .next t
          ∧ WroteReg (u.enqueue h q l (u.loadBytes s.cur.core p q.rbytes)) t d (BitVec.ofNat 64 q.tail) 0)
      ∧ (bits (s.reg a) 63 12 = 0 → s.myRes h ≠ 0 → (s.reg b).toNat % 8 = 0 → (s.die q.home).isResident x h = false → Fresh s →
        ∃ t, exec (.enq d a b) s = .next t ∧ Waits (u.hpm s.cur.core 0x18 1) t (.swap q.home h) (.enq d a b)))
  ∧ (∀ (d a b : Reg) s,
      let h := bits (s.reg a) 11 0
      let x := s.me.ctx
      let q := s.myCtx.queue h
      let u := s.updDie q.home (·.touch x h)
      (bits (s.reg a) 63 12 ≠ 0 ∨ bits (s.reg b) 63 32 ≠ 0 ∨ s.chunkOf s.cur.core = none →
        ∃ t, exec (.qres d a b) s = .next t ∧ WroteReg s t d 0 0)
      ∧ ∀ g k, bits (s.reg a) 63 12 = 0 → bits (s.reg b) 63 32 = 0 → s.chunkOf s.cur.core = some (x, g, k) →
        let no := (q.kind ≠ .node ∧ q.kind ≠ .encoder) ∨ (16 ≤ (k.resv.filter (fun r => r.2 != 0)).length ∧ k.res h = 0)
        (no → ∃ t, exec (.qres d a b) s = .next t ∧ WroteReg s t d 0 0)
        ∧ (¬ no → (s.die q.home).isResident x h = true →
          let n := min (s.reg b).toNat q.room
          ∃ t, exec (.qres d a b) s = .next t
            ∧ WroteReg ((u.updQueue x h (fun q => { q with reserved := q.reserved + n })).updChunk x g.id
                (fun k => { k with resv := Tbl.set k.resv h (k.res h + n) })) t d (BitVec.ofNat 64 n) 0)
        ∧ (¬ no → (s.die q.home).isResident x h = false → Fresh s →
          ∃ t, exec (.qres d a b) s = .next t ∧ Waits (u.hpm s.cur.core 0x18 1) t (.swap q.home h) (.qres d a b)))
  ∧ (∀ (d a b : Reg) s, s.me.sup = true →
      let h := bits (s.reg a) 11 0
      let x := s.me.ctx
      let q := s.myCtx.queue h
      (bits (s.reg a) 63 12 ≠ 0 ∨ q.kind = .free → ∃ t, exec (.qpin d a b) s = .next t ∧ WroteReg s t d 1 0)
      ∧ (bits (s.reg a) 63 12 = 0 → q.kind ≠ .free →
        (1 < (s.reg b).toNat → ∃ t, exec (.qpin d a b) s = .next t ∧ WroteReg s t d 3 0)
        ∧ (s.reg b = 1 → q.pinned = true → ∃ t, exec (.qpin d a b) s = .next t ∧ WroteReg s t d 0 0)
        ∧ (s.reg b = 1 → q.pinned = false → 224 ≤ s.pinnedOn q.home → ∃ t, exec (.qpin d a b) s = .next t ∧ WroteReg s t d 2 0)
        ∧ (s.reg b = 1 → q.pinned = false → s.pinnedOn q.home < 224 →
          ((s.die q.home).isResident x h = true → ∃ t, exec (.qpin d a b) s = .next t
            ∧ WroteReg (s.updQueue x h (fun q => { q with pinned := true })) t d 0 0)
          ∧ ((s.die q.home).isResident x h = false → ∃ t, exec (.qpin d a b) s = .next t
            ∧ Waits (s.updDie q.home (·.fetch x h)) t (.swap q.home h) (.qpin d a b)))
        ∧ (s.reg b = 0 → ∃ t, exec (.qpin d a b) s = .next t
          ∧ WroteReg (s.updQueue x h (fun q => { q with pinned := false })) t d 0 0)))

/-- LAUNCH (R234), TLINK (R235), TRIG (R236) and KWAIT (R237), and the atomic accesses of a TCB (R233). -/
def Obligations.KernelInstructions : Prop :=
  (∀ (d a b : Reg) s,
      bits (s.reg a) 5 0 = 0 → addrClass (s.reg a) = .global → s.reg b = 0 →
      ∀ p bs c, s.check s.cur (s.reg a) 64 64 .read = .ok (.hbm p) → s.meetsBad s.cur.core (.hbm p) 64 = false →
      bs = s.loadBytes s.cur.core (.hbm p) 64 → 
      (parseCard (s.reg a) bs = none → ∃ t, exec (.launch d a b) s = .next t ∧ WroteReg s t d (BitVec.ofNat 64 (2 ^ 32)) 0)
      ∧ (parseCard (s.reg a) bs = some (c, 0) →
        (s.launchCode s.me.ctx c ≠ 0 → ∃ t, exec (.launch d a b) s = .next t
          ∧ WroteReg s t d (BitVec.ofNat 64 (s.launchCode s.me.ctx c * 2 ^ 32)) 0)
        ∧ (s.launchCode s.me.ctx c = 0 → ∃ t, exec (.launch d a b) s = .next t
          ∧ WroteReg (s.release.addKernel s.me.ctx c 0 false none) t d ((nextKid s.myCtx.lastKid).setWidth 64) 0)))
  ∧ (∀ (d a b : Reg) s p bs c y, bits (s.reg a) 5 0 = 0 → addrClass (s.reg a) = .global → s.reg b ≠ 0 →
      bits (s.reg b) 5 0 = 0 → addrClass (s.reg b) = .global →
      s.check s.cur (s.reg a) 64 64 .read = .ok (.hbm p) → s.meetsBad s.cur.core (.hbm p) 64 = false →
      bs = s.loadBytes s.cur.core (.hbm p) 64 → parseCard (s.reg a) bs = some (c, 0) → s.launchCode s.me.ctx c = 0 →
      s.check s.cur (s.reg b) 64 64 .read = .ok (.hbm y) → s.meetsBad s.cur.core (.hbm y) 64 = false →
      let st := dwordAt (s.loadBytes s.cur.core (.hbm y) 64) 16
      (bits st 5 4 ≠ 0 ∨ 5 < bits st 2 0 → ∃ t, exec (.launch d a b) s = .next t
        ∧ WroteReg s t d (BitVec.ofNat 64 (5 * 2 ^ 32)) 0)
      ∧ (bits st 5 4 = 0 → bits st 2 0 ≤ 5 → s.check s.cur (s.reg b) 64 64 .atomic = .ok (.hbm y) →
        let r := s.release
        let kid := nextKid s.myCtx.lastKid
        let pred := bits (dwordAt (r.homeBytes s.cur.core (.hbm y) 64) 0) 31 0
        ∃ t, exec (.launch d a b) s = .next t
          ∧ WroteReg (((r.dirty (s.reg b)).launchTcb s.cur.core (.hbm y) kid (s.reg a)).addKernel s.me.ctx c (s.reg b)
              (pred != 0) none) t d (kid.setWidth 64) 0))
  ∧ (∀ (d a : Reg) s,
      (s.cur.slot = 0 → ∃ t, exec .trig s = .next t ∧ WentOn (s.release.updMe (fun x => { x with trigDone := true })) t)
      ∧ (s.cur.slot ≠ 0 → ∃ t, exec .trig s = .next t ∧ WentOn s.release t)
      ∧ (bits (s.reg a) 63 32 = 0 → s.reg a ≠ 0 → (s.myCtx.lastKid - (s.reg a).setWidth 32).toNat < 2 ^ 31 →
        (s.reg a).toNat ≠ s.me.kernid →
        (s.myCtx.kidLive ((s.reg a).setWidth 32) = false → ∃ t, exec (.kwait d a) s = .next t ∧ WroteReg s t d 0 0)
        ∧ (s.myCtx.kidLive ((s.reg a).setWidth 32) = true → ∃ t, exec (.kwait d a) s = .next t
            ∧ Waits s t (.kernel ((s.reg a).setWidth 32)) (.kwait d a)))
      ∧ (s.reg a = 0 ∨ bits (s.reg a) 63 32 ≠ 0 ∨ 2 ^ 31 ≤ (s.myCtx.lastKid - (s.reg a).setWidth 32).toNat →
          ∃ t, exec (.kwait d a) s = .next t ∧ WroteReg s t d 1 0)
      ∧ (1 ≤ (s.reg a).toNat → (s.reg a).toNat < 2 ^ 32 → (s.myCtx.lastKid - (s.reg a).setWidth 32).toNat < 2 ^ 31 →
          (s.reg a).toNat = s.me.kernid → ∃ t, exec (.kwait d a) s = .next t ∧ WroteReg s t d 2 0))
  ∧ (∀ (d a b : Reg) s p q, bits (s.reg a) 5 0 = 0 → bits (s.reg a) 63 56 = 0 → bits (s.reg b) 5 1 = 0 → bits (s.reg b) 63 56 = 0 →
      let tb := BitVec.ofNat 64 ((s.reg b).toNat / 64 * 64)
      s.check s.cur (s.reg a) 64 64 .atomic = .ok p → s.check s.cur tb 64 64 .atomic = .ok q →
      let r := s.release
      let c := s.cur.core
      let pa := r.homeBytes c p 64
      let pb := r.homeBytes c q 64
      let u := r.readBy c [(p, 64), (q, 64)]
      let n := bits (dwordAt pa 16) 2 0
      let closed := bits (dwordAt pa 16) 5 4 = 3 ∨ ((s.reg b).getLsbD 0 = true ∧ (dwordAt pa 16).getLsbD 3 = true);
      (bits (dwordAt pb 16) 5 4 ≠ 0 → ∃ t, exec (.tlink d a b) s = .next t ∧ WroteReg u t d 3 0)
      ∧ (bits (dwordAt pb 16) 5 4 = 0 →
        (closed → ∃ t, exec (.tlink d a b) s = .next t ∧ WroteReg u t d 1 0)
        ∧ (¬ closed → 5 ≤ n → ∃ t, exec (.tlink d a b) s = .next t ∧ WroteReg u t d 2 0)
        ∧ (¬ closed → n < 5 →
          let v := ((u.dirty (s.reg a)).dirty tb).writeAt c (p.plus (24 + 8 * n)) (wordBytes (s.reg b))
          let w := ((v.rmw c (p.plus 16) 0 true 1).2.rmw c q 0 false 1).2
          ∃ t, exec (.tlink d a b) s = .next t ∧ WroteReg w t d 0 0)))
  ∧ (∀ s c p (dword : Bool) (v : Word), MemOk s → (∀ e x, p ≠ .remote e x) →
      let n := if dword then 8 else 4
      let old := leValue (s.homeBytes c p n)
      let new := leBytes n ((old + v.toNat) % 2 ^ (8 * n))
      let t := (s.rmw c p 0 dword v).2
      (s.rmw c p 0 dword v).1 = old
        ∧ (∀ x, (∀ e y, x ≠ .remote e y) → t.memByte c x = (writeCovers x (p, new)).getD (s.memByte c x))
        ∧ ∀ x i die, p = .hbm x → i < n → t.hbmByte die (x + i) = t.hbm.byte (x + i))

/-- The PAGE instructions (R187-R191), and the privilege trap of the supervisor-only instructions in user mode. -/
def Obligations.PageInstructions : Prop :=
  (∀ (d a b : Reg) s, s.me.sup = true → 
      (∃ t, exec (.fbread d a b) s = .next t ∧ WroteReg s t d (s.myCtx.fbread (s.reg a) (s.reg b)) 0)
      ∧ (s.reg a = 8 → ∃ t, exec (.fbclr a) s = .next t
          ∧ WentOn (s.updCtx s.me.ctx (fun x => { x with dropFlag := false, dropped := 0 })) t)
      ∧ ((s.reg a).toNat < 8 → ∃ t, exec (.fbclr a) s = .next t ∧ WentOn (s.freeRecord s.me.ctx (s.reg a).toNat) t)
      ∧ (8 < (s.reg a).toNat → ∃ t, exec (.fbclr a) s = .next t ∧ WentOn s t)
      ∧ (∃ t, exec .replay s = .next t ∧ WentOn (s.release.replayAll s.me.ctx) t)
      ∧ (let ends := (List.range 4).map (fun k => (s.die k).walkNext)
         let u := fun all => (s.release.drainCtx s.me.ctx).invTlbs s.me.ctx (s.reg a) all
         Fresh s → ∀ all : Bool, s.reg b = (if all then 1 else 0) →
          (s.walksLeft ends = false → ∃ t, exec (.tlbinv a b) s = .next t ∧ WentOn (u all) t)
          ∧ (s.walksLeft ends = true → ∃ t, exec (.tlbinv a b) s = .next t ∧ Waits (u all) t (.tlbinv ends) (.tlbinv a b)))
      ∧ (1 < (s.reg b).toNat → ∃ t, exec (.tlbinv a b) s = .next t ∧ WentOn s t)
      ∧ (s.reg b = 0 → ∃ t, exec (.freply a b) s = .next t ∧ WentOn (s.freeRecord s.me.ctx (bits (s.reg a) 2 0)) t)
      ∧ (1 < (s.reg b).toNat ∨ s.myCtx.faultRec (bits (s.reg a) 2 0) = none →
          ∃ t, exec (.freply a b) s = .next t ∧ WentOn s t)
      ∧ (∀ r, s.reg b = 1 → s.myCtx.faultRec (bits (s.reg a) 2 0) = some r →
          (s.release.coalAt r.die r.entry).state ≠ .reported → ∃ t, exec (.freply a b) s = .next t
          ∧ WentOn (s.release.freeRecord s.me.ctx (bits (s.reg a) 2 0)) t)
      ∧ (∀ r, s.reg b = 1 → s.myCtx.faultRec (bits (s.reg a) 2 0) = some r →
          (s.release.coalAt r.die r.entry).state = .reported → ∃ t, exec (.freply a b) s = .next t
          ∧ WentOn ((s.release.updCtx s.me.ctx (fun y => { y with faults := y.faults.erase (bits (s.reg a) 2 0) })).failCoal
              r.die r.entry) t))
  ∧ (∀ (d a b : Reg) s, s.me.sup = false →
      let tr := fun (i : Instr) => Host.Outcome.next (s.trap 16 ((wordOf i).setWidth 64))
      exec (.fbread d a b) s = tr (.fbread d a b) ∧ exec (.fbclr a) s = tr (.fbclr a) ∧ exec .replay s = tr .replay
        ∧ exec (.tlbinv a b) s = tr (.tlbinv a b) ∧ exec (.freply a b) s = tr (.freply a b)
        ∧ exec (.rkmap d a b) s = tr (.rkmap d a b) ∧ exec (.rkmove d a b) s = tr (.rkmove d a b)
        ∧ exec (.qpin d a b) s = tr (.qpin d a b)
        ∧ (∀ op : CsrOp, ∀ c, csrSup (BitVec.toNat c) = true →
            exec (csrInstr ⟨op, d, a⟩ c) s = tr (csrInstr ⟨op, d, a⟩ c)))

/-- LD (R137), LDA (R138, R139) and VLD (R142) of an access that R130 allows: the bytes in address order, extended as the form says. The bytes that another device answers are a free value (log entry 6); that such a load completes at once, with its request in the outbox, is log entry 33. -/
def Obligations.LoadInstructions : Prop :=
  (∀ (d a : Reg) (off : BitVec 12) (sz : Size) s p,
      let n := sizeBytes sz
      let v := leValue (s.loadBytes s.cur.core p n)
      Loads s (s.reg a + BitVec.ofInt 64 (off.toInt * n)) n p →
      (∃ t, exec (.ld d a off sz false) s = .next t ∧ WroteReg s t d (BitVec.ofNat 64 v) 0)
      ∧ (sz ≠ .d → ∃ t, exec (.ld d a off sz true) s = .next t
          ∧ WroteReg s t d (BitVec.ofInt 64 (if v < 2 ^ (8 * n - 1) then (v : Int) else (v : Int) - 2 ^ (8 * n))) 0))
  ∧ ((∀ (d a : Reg) sc (sz : WSize) s p, let u := s.acquire sc
      Loads u (s.reg a) (wsizeBytes sz) p → ∃ t, exec (.lda d a sc sz) s = .next t
        ∧ WroteReg u t d (BitVec.ofNat 64 (leValue (u.loadBytes s.cur.core p (wsizeBytes sz)))) 0)
    ∧ (∀ (r : RowCode) (a : Reg) (off : BitVec 12) s p, Loads s (s.reg a + BitVec.ofInt 64 (off.toInt * 64)) 64 p →
        ∃ t, exec (.vld r a off) s = .next t
          ∧ WroteRow s t r 0xFFFF (fun i => BitVec.ofNat 32 (leValue (s.loadBytes s.cur.core (p.plus (4 * i)) 4))) 0))
  ∧ (∀ (d a : Reg) (off : BitVec 12) (sz : Size) s e x,
      let n := sizeBytes sz
      s.check s.cur (s.reg a + BitVec.ofInt 64 (off.toInt * n)) n n .read = .ok (.remote e x) →
      s.meetsBad s.cur.core (.remote e x) n = false →
      let u : State := { s.fresh with outbox := s.outbox ++ [⟨some (s.cur, s.myCore.serial), 0x02, dieOf s.cur.core, e, .access x (.read n)⟩] }
      ∃ t, exec (.ld d a off sz false) s = .next t
        ∧ WroteReg u t d (BitVec.ofNat 64 (leValue (s.loadBytes s.cur.core (.remote e x) n))) 0)

/-- ST, STR and VST: the D bit (R176), the entry that enters the store buffer, what the core reads afterwards (R159), and that no other byte changes. -/
def Obligations.StoreInstructions : Prop :=
  (∀ (d a b : Reg) (r : RowCode) (off : BitVec 12) (sz : Size) (wsz : WSize) sc s p,
      let u := fun ea => s.dirty ea
      (let ea := s.reg a + BitVec.ofInt 64 (off.toInt * sizeBytes sz)
       Stores s ea (sizeBytes sz) p →
        ∃ t, exec (.st d a off sz) s = .next t
          ∧ WentOn ((u ea).pushStore s.cur [(p, leBytes (sizeBytes sz) (s.reg d).toNat)] none) t
          ∧ ∀ c q, t.loadByte c q = if c = s.cur.core then
              (writeCovers q (p, leBytes (sizeBytes sz) (s.reg d).toNat)).getD ((u ea).loadByte c q) else (u ea).loadByte c q)
      ∧ (Stores s (s.reg a) (wsizeBytes wsz) p →
        ∃ t, exec (.str a b sc wsz) s = .next t
          ∧ WentOn ((u (s.reg a)).pushStore s.cur [(p, leBytes (wsizeBytes wsz) (s.reg b).toNat)] (some sc)) t)
      ∧ (Stores s (s.reg a + BitVec.ofInt 64 (off.toInt * 64)) 64 p →
        ∃ t, exec (.vst r a off) s = .next t
          ∧ WentOn ((u (s.reg a + BitVec.ofInt 64 (off.toInt * 64))).pushStore s.cur [(p, rowBytes (s.row r))] none) t))
  ∧ (∀ (s : State) p (bs : List Byte) rel c q,
      (s.pushStore s.cur [(p, bs)] rel).loadByte c q =
        if c = s.cur.core then (writeCovers q (p, bs)).getD (s.loadByte c q) else s.loadByte c q)
  ∧ (∀ (p : Place) (bs : List Byte),
      (∀ k (h : k < bs.length), writeCovers (p.plus k) (p, bs) = some bs[k])
      ∧ ∀ q, (∀ k, k < bs.length → q ≠ p.plus k) → writeCovers q (p, bs) = none)
  ∧ (∀ (s : State) ea, s.hbm.wf = true →
      let leaf := if addrClass ea = .global then (s.tlbFind (clusterOf s.cur.core) s.me.ctx ea.toNat).bind (·.owesD) else none
      (leaf = none → s.dirty ea = s)
      ∧ ∀ x, leaf = some x → (s.dirty ea).hbm.byte x = s.hbm.byte x ||| 0xC0
          ∧ (∀ c q, q ≠ .hbm x → (s.dirty ea).loadByte c q = s.loadByte c q)
          ∧ ∀ c, (s.dirty ea).core c = s.core c)

/-- ATOM (R140) and AFADD (R141): old value to d, new value to memory. Which earlier stores are performed first is log entry 8, the atomic on an uncorrectable word log entry 34, the access of another device's page log entries 6 and 33. -/
def Obligations.Atomics : Prop :=
  (∀ (d a b : Reg) sc sz o s p, let n := wsizeBytes sz
      s.check s.cur (s.reg a) n n .atomic = .ok p →
      let r := ((if ordAcquires o then s.acquire sc else s).atomicDrain p n sc o).dirty (s.reg a)
      let x := (s.reg b).toNat % 2 ^ (8 * n)
      let sg := fun (v : Nat) => if v < 2 ^ (8 * n - 1) then (v : Int) else (v : Int) - 2 ^ (8 * n)
      ((∀ e x, p ≠ .remote e x) →
        let q := r.rmwRead s.cur (s.reg a) p n
        let old := leValue q.1
        let does := fun (i : Instr) (v : Nat) => ∃ t, exec i s = .next t
          ∧ WroteReg (q.2.atomicWrite p (leBytes n v) sc o) t d (BitVec.ofNat 64 old) 0
        does (.aadd d a b sc sz o) ((old + x) % 2 ^ (8 * n)) ∧ does (.aand d a b sc sz o) (old &&& x)
          ∧ does (.aor d a b sc sz o) (old ||| x) ∧ does (.axor d a b sc sz o) (old ^^^ x)
          ∧ does (.amin d a b sc sz o) (if sg old < sg x then old else x)
          ∧ does (.amax d a b sc sz o) (if sg old < sg x then x else old)
          ∧ does (.aminu d a b sc sz o) (min old x) ∧ does (.amaxu d a b sc sz o) (max old x)
          ∧ does (.aswp d a b sc sz o) x
          ∧ does (.acas d a b sc sz o) (if old = (s.reg d).toNat % 2 ^ (8 * n) then x else old)
          ∧ (sz = .w → does (.afadd d a b sc o) (faddBits .rne (BitVec.ofNat 32 old) (BitVec.ofNat 32 x)).1.toNat))
      ∧ (∀ e y, p = .remote e y →
        let away := fun (i : Instr) (fn : BitVec 4) => ∃ t, exec i s = .next t
          ∧ WroteReg { r.fresh with outbox := r.outbox ++ [⟨some (s.cur, r.myCore.serial), 0x02, dieOf s.cur.core, e, .access y (.atomic fn (sz == .d) (s.reg b) (s.reg d))⟩] }
              t d (BitVec.ofNat 64 (leValue (r.homeBytes s.cur.core p n))) 0
        away (.aadd d a b sc sz o) 0 ∧ away (.aand d a b sc sz o) 1 ∧ away (.aor d a b sc sz o) 2 ∧ away (.axor d a b sc sz o) 3
          ∧ away (.amin d a b sc sz o) 4 ∧ away (.amax d a b sc sz o) 5 ∧ away (.aminu d a b sc sz o) 6
          ∧ away (.amaxu d a b sc sz o) 7 ∧ away (.aswp d a b sc sz o) 8 ∧ away (.acas d a b sc sz o) 9
          ∧ (sz = .w → away (.afadd d a b sc o) 10)))
  ∧ (∀ s p n (bs : List Byte) sc o ea, (∀ e x, p ≠ .remote e x) → MemOk s →
      let c := s.cur.core
      let t := s.atomicWrite p bs sc o
      (s.badAt c p n = false → s.rmwRead s.cur ea p n = ((List.range n).map (fun i => s.memByte c (p.plus i)), s))
      ∧ (s.badAt c p n = true → s.rmwRead s.cur ea p n = (List.replicate n 0, s.reportError s.cur ea p (s.badWords p n)))
      ∧ (∀ x, (∀ e y, x ≠ .remote e y) → t.memByte c x = (writeCovers x (p, bs)).getD (s.memByte c x))
      ∧ (∀ k x, k ≠ c → t.memByte k (.loc x) = s.memByte k (.loc x))
      ∧ (∀ x i, p = .hbm x → i < bs.length → t.hbmByte (dieOf c) (x + i) = t.hbm.byte (x + i)
          ∧ (ordReleases o = true → 4 ≤ Machine.scopeCode sc → ∀ die, t.hbmByte die (x + i) = t.hbm.byte (x + i)))
      ∧ (ordReleases o = true → 1 ≤ Machine.scopeCode sc → ((s.atomicDrain p n sc o).core c).stores = []))

/-- The gather and scatter of R143: one access of each active lane. That the writes of all lanes of a VSTX take one store-buffer entry is the model's choice of log entry 34. -/
def Obligations.GatherAndScatter : Prop :=
  ∀ m (d : RowCode) (sz : Elem) (a : Reg) (b : RowCode) s (q : Nat → Place), let n := elemBytes sz;
    (((∀ i, i < 16 → (s.mask m).getLsbD i = true →
        s.check s.cur (s.reg a + BitVec.ofInt 64 ((s.row b).lane i).toInt) n n .read = .ok (q i)
        ∧ s.meetsBad s.cur.core (q i) n = false ∧ ∀ e x, q i ≠ .remote e x) →
      ∃ t, exec (.vldx m d sz a b) s = .next t
        ∧ WroteRow s t d (s.mask m) (fun i => BitVec.ofNat 32 (leValue (s.loadBytes s.cur.core (q i) n))) 0)
    ∧ ((∀ i, i < 16 → (s.mask m).getLsbD i = true →
        s.check s.cur (s.reg a + BitVec.ofInt 64 ((s.row b).lane i).toInt) n n .write = .ok (q i)) →
      s.storeFull s.cur = false →
      ∃ t, exec (.vstx m d sz a b) s = .next t
        ∧ WentOn (((lanes.filter (fun i => (s.mask m).getLsbD i)).foldl
            (fun u i => u.dirty (s.reg a + BitVec.ofInt 64 ((s.row b).lane i).toInt)) s).pushStore s.cur
            ((lanes.filter (fun i => (s.mask m).getLsbD i)).map (fun i => (q i, leBytes n ((s.row d).lane i).toNat))) none) t))

/-- The checks of R130 in their order, and that LD and ST take what they give. -/
def Obligations.AccessTraps : Prop :=
  ∀ s t ea n al k, 
    (addrClass ea = .none → s.check t ea n al k = .trap 3 ea)
    ∧ (addrClass ea ≠ .none → ea.toNat % al ≠ 0 → s.check t ea n al k = .trap 2 ea)
    ∧ (∀ x, addrClass ea = .loc → ea.toNat % al = 0 →
        (s.core t.core).protRefused (!(s.thread t).sup) ea.toNat n k.reads k.writes = some x →
        s.check t ea n al k = .trap 3 (BitVec.ofNat 64 x))
    ∧ (∀ x, addrClass ea ≠ .none → ea.toNat % al = 0 →
        (addrClass ea = .loc → (s.core t.core).protRefused (!(s.thread t).sup) ea.toNat n k.reads k.writes = none) →
        (s.core t.core).rangeHit ea.toNat n k.writes = some x → s.check t ea n al k = .trap 5 (BitVec.ofNat 64 x))
    ∧ (∀ (d a : Reg) off sz sx c v, s.check s.cur (s.reg a + BitVec.ofInt 64 (off.toInt * sizeBytes sz)) (sizeBytes sz)
        (sizeBytes sz) .read = .trap c v → exec (.ld d a off sz sx) s = .next (s.trap c v))
    ∧ (∀ (d a : Reg) off sz c v, s.check s.cur (s.reg a + BitVec.ofInt 64 (off.toInt * sizeBytes sz)) (sizeBytes sz)
        (sizeBytes sz) .write = .trap c v → exec (.st d a off sz) s = .next (s.trap c v))

/-- FENCE (R166, R167), LUNGE (R107, R108) and the replay (R109-R111): which row fields stride, and how it goes on. -/
def Obligations.FenceAndLunge : Prop :=
  (∀ p q sc s,
      (p = 0 ∨ q = 0 → ∃ t, exec (.fence p q sc) s = .next t ∧ WentOn s t)
      ∧ (p ≠ 0 → q ≠ 0 → ∃ t, exec (.fence p q sc) s = .next t
        ∧ WentOn ((s.updMyCore (fun k => { k with serial := k.serial + 1 })).updMe
            (fun x => { x with fences := x.fences ++ [⟨p, q, sc, s.myCore.serial, s.me.ilSeen⟩] })) t))
  ∧ (∀ (len : BitVec 4) (cnt : BitVec 8) (stride : BitVec 7) (fix : BitVec 3) s ws,
      s.capture (s.me.pc + 4) (len.toNat + 1) = .ok ws →
      let u := (List.range (len.toNat + 1)).foldl (fun u i => u.fetchAsks u.cur (u.me.pc + 4 + BitVec.ofNat 64 (4 * i))) s
      ∃ t, exec (.lunge len cnt stride fix) s = .next t
        ∧ Aside u t ∧ Retired u t 0 ∧ RegsSame s t ∧ RowsSame s t ∧ MasksSame s t ∧ t.me.pc = s.me.pc + 4
        ∧ t.me.replay = some ⟨s.me.pc, len.toNat + 1, cnt.toNat + 1, stride, fix, 0, 0, ws⟩)
  ∧ (∀ (len : BitVec 4) (cnt : BitVec 8) (stride : BitVec 7) (fix : BitVec 3) s k w,
      let word := fun i => s.fetchWord s.cur (s.me.pc + 4 + BitVec.ofNat 64 (4 * i))
      k ≤ len.toNat → (∀ i, i < k → ∃ p v b, word i = (.ok p, v) ∧ decode v = .ok b ∧ bodyMajor v = true) →
      (∀ p, word k = (.ok p, w) →
        ((∃ e, decode w = .error e) → exec (.lunge len cnt stride fix) s = .next (s.trap 1 (w.setWidth 64)))
        ∧ (∀ b, decode w = .ok b → bodyMajor w = false → exec (.lunge len cnt stride fix) s = .next (s.trap 10 (w.setWidth 64))))
      ∧ (word k = (.miss, w) → exec (.lunge len cnt stride fix) s
          = .next (s.holdOnPage (s.me.pc + 4 + BitVec.ofNat 64 (4 * k)) .fetch)))
  ∧ ((∀ (s : State) r, s.me.replay = some r → let t := s.advance
      s.nextWord s.cur = .word (bodyWord (r.words.getD r.j 0) r.p r.stride r.fix)
      ∧ (r.j + 1 < r.len → t.me.replay = some { r with j := r.j + 1 } ∧ t.me.pc = s.me.pc + 4)
      ∧ (r.j + 1 = r.len → r.p + 1 < r.cnt → t.me.replay = some { r with p := r.p + 1, j := 0 } ∧ t.me.pc = r.addr + 4)
      ∧ (r.j + 1 = r.len → r.p + 1 = r.cnt → t.me.replay = none ∧ t.me.pc = s.me.pc + 4)
      ∧ t.me.csr 0x081 = s.me.csr 0x081 + 1
      ∧ ∀ i, i < 8 → s.myCore.csr (0x070 + i) = 0x1A →
          t.myCore.csr (0x078 + i) = if r.j + 1 = r.len then BitVec.ofNat 64 (((s.myCore.csr (0x078 + i)).toNat + 1) % 2 ^ 48)
            else BitVec.ofNat 64 ((s.myCore.csr (0x078 + i)).toNat % 2 ^ 48))
    ∧ (∀ (w : W32) p (stride : BitVec 7) (fix : BitVec 3), bodyMajor w = true → let v := bodyWord w p stride fix
      let op := (w.extractLsb' 25 7).toNat
      let sc := w.getLsbD 0
      let field := fun (lo : Nat) (row : Bool) => v.extractLsb' lo 7
        = w.extractLsb' lo 7 + (if row then BitVec.ofNat 7 p * stride else 0)
      v.extractLsb' 25 7 = w.extractLsb' 25 7
      ∧ (op = 0x25 → field 18 (!fix.getLsbD 2) ∧ v.extractLsb' 0 18 = w.extractLsb' 0 18)
      ∧ (op ≠ 0x25 →
        let vcmp := op = 0x49 ∨ op = 0x4A
        let vext := op = 0x5C ∧ sc = false
        let vins := op = 0x5C ∧ sc = true
        field 15 (!fix.getLsbD 2 && !decide (vcmp ∨ op = 0x5B ∨ vext))
        ∧ field 8 (!fix.getLsbD 1 && !decide (op = 0x26 ∨ op = 0x5E ∨ vins))
        ∧ field 1 (!fix.getLsbD 0 && !decide (op = 0x48 ∨ op = 0x5A ∨ op = 0x5B ∨ op = 0x5C ∨ (sc = true ∧ op ≠ 0x26 ∧ op ≠ 0x5D)))
        ∧ v.extractLsb' 22 3 = w.extractLsb' 22 3 ∧ v.getLsbD 0 = sc)))

/-- Read after write, canonical form and extensionality of byte memory, and that draining store buffers leaves what the core reads. -/
def Obligations.ByteMemory : Prop :=
  (∀ (m : Mem) a (bs : List Byte) x, m.wf = true →
      (m.write a bs).wf = true
      ∧ (m.write a bs).byte x = if a ≤ x ∧ x < a + bs.length then bs.getD (x - a) 0 else m.byte x)
  ∧ (∀ (m n : Mem), m.wf = true → n.wf = true → (∀ a, m.byte a = n.byte a) → m = n)
  ∧ (∀ (s : State) (p : Place), MemOk s → (∀ d a, p ≠ .remote d a) → (∀ e ∈ s.stale, e.die ≠ dieOf s.cur.core) →
      s.release.loadByte s.cur.core p = s.loadByte s.cur.core p)

/-- Acceptance (R119) and execution (R120, R123-R125) of the MAT instructions; the arithmetic of an element (R34-R36), and how a ring slot's bytes are its elements, in the plain formats and in E8C (R115, R116, R121, R38). An MMA under MMODE.chk = 1 is accepted as MCHK is. That an uncorrectable element counts once for A and once for B, also where both operands name one slot, is the model's choice of log entry 29. -/
def Obligations.MatrixInstructions : Prop :=
  (∀ (d : TileCode) (a b : Reg) (ka kb : Bool) s, let x := ringId (s.reg a); let y := ringId (s.reg b)
      s.me.state = .ready → s.myCore.matQ.length < 3 → 
      ((s.myCore.slotTest (ringPair x y) false = true →
        ((s.me.csr 0x035).getLsbD 0 = false → ∃ t, exec (.mma d a b ka kb) s = .next t
          ∧ WentOn (s.matAccept .mma d.toNat x y ka kb) t)
        ∧ ((s.me.csr 0x035).getLsbD 0 = true → ∃ t, exec (.mma d a b ka kb) s = .next t
          ∧ Waits (s.matAccept .mchk d.toNat x y ka kb) t (.check s.myCore.matId) (.mma d a b ka kb))
        ∧ (∃ t, exec (.mchk d a b ka kb) s = .next t
          ∧ Waits (s.matAccept .mchk d.toNat x y ka kb) t (.check s.myCore.matId) (.mchk d a b ka kb)))
      ∧ (∃ t, exec (.mzero d) s = .next t ∧ WentOn (s.matAccept .mzero d.toNat 0 0 false false) t)
      ∧ (1 ≤ s.myCore.slotsFull x → ∃ t, exec (.mld d a) s = .next t ∧ WentOn (s.matAccept .mld d.toNat x x false false) t)
      ∧ (1 ≤ s.myCore.slotsFree x → ∃ t, exec (.mst d a) s = .next t ∧ WentOn (s.matAccept .mst d.toNat x x false false) t)
      ∧ (s.myCore.tileBusy s.cur.slot d.toNat = false → ∃ t, exec (.mwait d) s = .next t ∧ WentOn s t)
      ∧ (s.myCore.tileBusy s.cur.slot d.toNat = true → ∃ t, exec (.mwait d) s = .next t
          ∧ Waits s t (.tile d.toNat) (.mwait d))))
  ∧ (∀ c o q s, (s.core c).matQ = o :: q → o.tile < 8 →
      let k := s.core c
      let old := k.thread o.slot
      let alive := s.opAlive c o.slot o.serial = true
      let mode := RMode.ofCode o.frm.toNat
      let ra := k.ring o.ra
      let rb := k.ring o.rb
      let A := k.operand ra ra.head (bits o.mfmt 3 0)
      let B := k.operand rb rb.head (bits o.mfmt 7 4)
      let e := fun i j => if o.mfmt.getLsbD 12 then scaleExp o.msca i + scaleExp o.mscb j else 0
      let cell := fun (i j : Nat) => if bits o.mfmt 3 0 = 5 then (mmaInt ((old.row (16 * o.tile + i)).lane j) (A.getD i []) (B.getD j []), 0)
        else mmaFloat mode ((old.row (16 * o.tile + i)).lane j) (A.getD i []) (B.getD j []) (e i j)
      let pops := fun n => if o.ra = o.rb then o.ra = n ∧ ¬ (o.keepA = true ∧ o.keepB = true)
        else (o.ra = n ∧ o.keepA = false) ∨ (o.rb = n ∧ o.keepB = false)
      let popped := fun (t : State) (n : Nat) => ((t.core c).ring n).occ = (k.ring n).occ - 1
        ∧ ((t.core c).ring n).head = ((k.ring n).head + 1) % max 1 (k.ring n).count
      let tile := fun (t : State) (w : Nat → Nat → W32) (fl : Nat → Nat → FFlags) (bad : Nat) => let x := (t.core c).thread o.slot
        (∀ i j, i < 16 → j < 16 → (x.row (16 * o.tile + i)).lane j = w i j)
        ∧ (∀ n, n < 128 → ¬ (16 * o.tile ≤ n ∧ n < 16 * o.tile + 16) → x.row n = old.row n) ∧ (∀ n, regNo x n = regNo old n)
        ∧ (∀ b, b < 5 → ((x.csr 0x011).getLsbD b = true ↔
            (old.csr 0x011).getLsbD b = true ∨ ∃ i j, i < 16 ∧ j < 16 ∧ (fl i j).getLsbD b = true))
        ∧ x.csr 0x033 = (if bad = 0 then old.csr 0x033 else BitVec.ofNat 64 (2 ^ 32 + min 0xFFFFFFFF (bits (old.csr 0x033) 31 0 + bad)))
        ∧ x.latch = true
      let made := fun (t : State) => (t.core c).matQ = q
        ∧ (alive → tile t (fun i j => (cell i j).1) (fun i j => (cell i j).2) (A.flatten.countP (·.isNone) + B.flatten.countP (·.isNone)))
        ∧ (∀ n, (pops n → popped t n) ∧ (¬ pops n → (t.core c).ring n = k.ring n))
        ∧ (∀ c' p, t.memByte c' p = s.memByte c' p ∨ ∃ d x, p = .remote d x) ∧ ∀ c', c' ≠ c → t.core c' = s.core c';
      (o.kind = .mzero → ∃ t, exec (.matOpRetire c) s = .next t ∧ (t.core c).matQ = q
        ∧ (alive → tile t (fun _ _ => 0) (fun _ _ => 0) 0) ∧ ∀ n, (t.core c).ring n = k.ring n)
      ∧ (o.kind = .mma → ∃ t, exec (.matOpRetire c) s = .next t ∧ made t)
      ∧ (o.kind = .mchk → ∃ t n, exec (.matOpRetire c) s = .next t
        ∧ (n < 2 → made t) ∧ (s.checksMade c o = false → n = 0)
        ∧ (∀ w l, old.state = .blocked (.check o.id) l → n < 2 → w = (t.core c).thread o.slot →
            w.state = .ready ∧ (old.replay = none → w.pc = old.pc + 4))
        ∧ (∀ l, old.state = .blocked (.check o.id) l → 2 ≤ n →
            ∃ u : State, t = u.trapAt ⟨c, o.slot⟩ 9 (BitVec.ofNat 64 o.tile) ∧ u.thread ⟨c, o.slot⟩ = old))
      ∧ (o.kind = .mld → ∃ t, exec (.matOpRetire c) s = .next t ∧ (t.core c).matQ = q
        ∧ (let at' := fun i j => localOff ra.base + ra.head * ra.slotBytes + 64 * i + 4 * j
           let bad := fun i j => k.slotBad ra ra.head (64 * i + 4 * j) 4
           alive → tile t (fun i j => if bad i j then 0 else BitVec.ofNat 32 (leValue (k.mem.read (at' i j) 4))) (fun _ _ => 0)
            ((List.range 256).countP (fun x => bad (x / 16) (x % 16))))
        ∧ popped t o.ra ∧ ∀ n, n ≠ o.ra → (t.core c).ring n = k.ring n)
      ∧ (o.kind = .mst → MemOk s → ∃ t, exec (.matOpRetire c) s = .next t ∧ (t.core c).matQ = q
        ∧ (let lane := fun i j => mstLane (bits o.mfmt 11 8) mode ((old.row (16 * o.tile + i)).lane j)
           let bytes := fun i => ((List.range 16).map (fun j => (lane i j).1)).flatten
           let base := localOff ra.base + ra.tail * ra.slotBytes
           (∀ i b, i < 16 → b < 64 → 64 * i + b < ra.slotBytes →
              t.memByte c (.loc (base + 64 * i + b)) = (bytes i).getD b 0)
           ∧ (∀ x, ¬ (base ≤ x ∧ x < base + min 1024 ra.slotBytes) → t.memByte c (.loc x) = s.memByte c (.loc x))
           ∧ (alive → ((t.core c).thread o.slot).latch = true ∧ ∀ b, b < 5 → ((((t.core c).thread o.slot).csr 0x011).getLsbD b = true ↔
              (old.csr 0x011).getLsbD b = true ∨ ∃ i j, i < 16 ∧ j < 16 ∧ (lane i j).2.getLsbD b = true)))
        ∧ ((t.core c).ring o.ra).occ = ra.occ + 1 ∧ ((t.core c).ring o.ra).tail = (ra.tail + 1) % max 1 ra.count
        ∧ ∀ n, n ≠ o.ra → (t.core c).ring n = k.ring n))
  ∧ ((∀ (acc : W32) (l : List (Int × Int)),
      mmaInt acc (l.map (fun p => some (.fin (p.1 < 0) p.1.natAbs 0))) (l.map (fun p => some (.fin (p.2 < 0) p.2.natAbs 0)))
        = BitVec.ofInt 32 (acc.toInt + (l.map (fun p => p.1 * p.2)).sum))
    ∧ (∀ mode (acc : W32) (l : List (Option FVal × Option FVal)) sh,
      let c := unpack32 acc
      let ps := l.map (fun p => (p.1.getD (.fin false 0 0), p.2.getD (.fin false 0 0)))
      let nan := c.isNan = true ∨ ∃ p ∈ ps, p.1.isNan = true ∨ p.2.isNan = true
      let infTimesZero := ∃ p ∈ ps, (p.1.isInf = true ∧ p.2.isZero = true) ∨ (p.1.isZero = true ∧ p.2.isInf = true)
      let infs := fun neg => c = .inf neg ∨ ∃ p ∈ ps, mulExact p.1 p.2 = some (.inf neg)
      let val := fun (v : FVal) => ((v.dy.n : ℚ) * 2 ^ v.dy.e)
      let invalid := infTimesZero ∨ (infs false ∧ infs true)
      let r := mmaFloat mode acc (l.map (·.1)) (l.map (·.2)) sh;
      (nan ∨ invalid → r.1 = 0x7FC00000 ∧ (r.2 ≠ 0 ↔ invalid ∨ c.isSig = true))
      ∧ (¬ nan → ¬ invalid → infs false → r = (0x7F800000, 0)) ∧ (¬ nan → ¬ invalid → infs true → r = (0xFF800000, 0))
      ∧ (let zeros := c.isZero = true ∧ ∀ p ∈ ps, (p.1.isZero = true ∨ p.2.isZero = true) ∧ (p.1.sgn != p.2.sgn) = c.sgn
        ¬ nan → ¬ invalid → ¬ infs false → ¬ infs true → ∃ (d : Dy) (z : Bool), r = d.round32 mode z
          ∧ (zeros → z = c.sgn) ∧ (¬ zeros → z = (mode == .rdn))
          ∧ (d.n : ℚ) * 2 ^ d.e = val c + (ps.map (fun p => val p.1 * val p.2)).sum * 2 ^ sh)))
  ∧ (∀ (k : Core) (r : Ring) slot fmt i e, i < 16 →
      let el := ((k.operand r slot fmt).getD i []).getD e none
      let at' := localOff r.base + slot * r.slotBytes
      let byte := fun o => (k.mem.byte (at' + o)).toNat
      let wide := fmt = 1 ∨ fmt = 2;
      (wide → e < 192 → k.slotBad r slot (384 * i + 2 * e) 2 = false →
        el = some ((if fmt = 1 then Fmt.bf16 else Fmt.f16).unpack (byte (384 * i + 2 * e) + 256 * byte (384 * i + 2 * e + 1))))
      ∧ (fmt = 3 ∨ fmt = 4 ∨ fmt = 5 → e < 384 → k.slotBad r slot (384 * i + e) 1 = false →
        let b := byte (384 * i + e)
        el = some (if fmt = 3 then unpackF8A b else if fmt = 4 then unpackF8B b
          else let x : Int := if b < 128 then (b : Int) else (b : Int) - 256; .fin (x < 0) x.natAbs 0))
      ∧ (fmt ≠ 7 → e < (if wide then 192 else 384) →
        k.slotBad r slot (384 * i + (if wide then 2 else 1) * e) (if wide then 2 else 1) = true → el = none)
      ∧ (∀ at_ : Nat → Nat, fmt = 7 → e < 384 → at_ 0 = 0 →
        let len := fun o => (if byte o / 128 = 1 then 26 else 34) + byte (o + 1)
        let n := 6 * i + e / 64
        (∀ m, m < 96 → at_ (m + 1) = at_ m + len (at_ m)) →
        ((∀ m, m ≤ n → at_ m + len (at_ m) ≤ r.slotBytes) →
          (k.slotBad r slot (at_ n) (len (at_ n)) = false →
            let d := e8cDecode (k.mem.read (at' + at_ n) (len (at_ n)))
            el = (d.1.getD (e % 64) none).map (fun b => if d.2 then unpackF8B b.toNat else unpackF8A b.toNat))
          ∧ (k.slotBad r slot (at_ n) (len (at_ n)) = true → el = none))
        ∧ ((∃ m, m ≤ n ∧ r.slotBytes < at_ m + len (at_ m)) → el = none)))

/-- The RING instructions (R126) and one slot of a loader or storer (R127). The numbering of subscription ids, the extra refusals of badSub, the waits of subWaits and that moved starts at 0 are log entry 29; that a FAILED ring is busy for RINIT is log entry 11. -/
def Obligations.RingInstructions : Prop :=
  (∀ (d a b : Reg) s, let n := ringId (s.reg a); let r := s.myCore.ring n;
      (∀ bs, ReadsLocal s (s.reg b) 32 8 bs → let st := s.ringStatus n (dwordAt bs 0) (dwordAt bs 8)
        ∃ t, exec (.rinit d a b) s = .next t
          ∧ WroteReg (if st = 0 then s.updRing s.cur.core n (fun _ => ringOf (dwordAt bs 0) (dwordAt bs 8)) else s) t d
              (BitVec.ofNat 64 st) 0)
      ∧ (let k := bits (s.reg b) 5 0;
        (r.state = .opened ∨ r.state = .storing) → k ≤ r.count → k ≤ s.myCore.slotsFree n → k ≠ 0 →
        ∃ t, exec (.rpush d a b) s = .next t ∧ WroteReg (s.release.pushSlots s.cur.core n k) t d 0 0)
      ∧ ((r.state = .free ∨ r.state = .loading ∨ r.state = .failed) →
        ∃ t, exec (.rpush d a b) s = .next t ∧ WroteReg s.release t d 1 0)
      ∧ (∀ bs st, ReadsLocal s (s.reg b) 32 8 bs → r.state = .opened →
        badSub r (dwordAt bs 0) (dwordAt bs 8) (dwordAt bs 16) (dwordAt bs 24) = false →
        (st = true → s.myCore.freeRanges ≠ 0) → s.myCore.subWaits n st = false →
        let u := s.release
        let x : Sub := ⟨s.cur, dwordAt bs 0, bits (dwordAt bs 8) 63 32, bits (dwordAt bs 8) 20 16, bits (dwordAt bs 8) 15 0,
          dwordAt bs 16, dwordAt bs 24, !s.me.sup, false, s.myCore.serial⟩
        let e := subExtent x.gaddr x.n x.rows x.rowBytes x.rowStride x.slotStride
        let id := s.myCore.subId % 0xFFFFFFFF + 1
        let v := u.updMyCore (fun k =>
          { k.setRing n { r with state := if st then .storing else .loading, sub := some x, moved := 0 } with
            subId := id, serial := k.serial + 1 })
        let w := if st then v.updMyCore (fun k => k.addRange true e.1.toNat e.2.toNat n) else v
        ∃ t, exec (.rsub d a b st) s = .next t ∧ WroteReg w t d (BitVec.ofNat 64 id) 0)
      ∧ (Fresh s → r.sub.isSome = true → (r.state = .storing → r.occ = 0) →
        ∃ t, exec (.runsub d a) s = .next t ∧ WroteReg (s.endSub s.cur.core n .opened) t d (BitVec.ofNat 64 r.moved) 0)
      ∧ (Fresh s → r.sub.isSome = true → r.state = .storing → r.occ ≠ 0 →
        ∃ t, exec (.runsub d a) s = .next t ∧ Waits s t (.unsub n (r.moved + r.occ) none) (.runsub d a))
      ∧ (∀ m k v, s.me.waitOf = some (.unsub m k (some v)) →
        ∃ t, exec (.runsub d a) s = .next t ∧ WroteReg s t d (BitVec.ofNat 64 v) 0)
      ∧ (∀ m k, s.me.waitOf = some (.unsub m k none) → r.state = .storing → k ≤ r.moved →
        ∃ t, exec (.runsub d a) s = .next t ∧ WroteReg (s.endSub s.cur.core n .opened) t d (BitVec.ofNat 64 r.moved) 0)
      ∧ (Fresh s → r.sub = none → ∃ t, exec (.runsub d a) s = .next t ∧ WroteReg s t d (BitVec.allOnes 64) 0)
      ∧ (∃ t, exec (.rstat d a) s = .next t ∧ WroteReg s t d r.word 0))
  ∧ (∀ c n u rows s, let r := (s.core c).ring n
      r.sub = some u → u.held = false →
      (r.state = .loading → r.occ + ((s.core c).matQ.map (fun o => o.pushes n)).sum < r.count →
        s.engineRun c (s.coreCtx c) u.user .loader (r.rowAddrs u) u.rowBytes = (none, rows) →
        ∃ t, exec (.loaderSlotLand c n) s = .next t
          ∧ ((t.core c).ring n).occ = r.occ + 1 ∧ ((t.core c).ring n).tail = (r.tail + 1) % max 1 r.count
          ∧ ((t.core c).ring n).moved = r.moved + 1
          ∧ ((t.core c).ring n).state = if r.moved + 1 = u.n then .opened else .loading)
      ∧ (r.state = .storing → r.occ ≠ 0 →
        s.engineRun c (s.coreCtx c) u.user .storer (r.rowAddrs u) u.rowBytes = (none, rows) →
        ∃ t, exec (.storerSlotWritten c n) s = .next t
          ∧ ((t.core c).ring n).occ = r.occ - 1 ∧ ((t.core c).ring n).head = (r.head + 1) % max 1 r.count
          ∧ ((t.core c).ring n).moved = r.moved + 1
          ∧ ((t.core c).ring n).state = if r.moved + 1 = u.n then .opened else .storing))

/-- The COPY instructions (R148-R151) and the STRM instructions (R155) with their engines. PROT of an element at its SPOP, and that the stream stays open after a failed one, are log entry 34. -/
def Obligations.CopyAndStreamInstructions : Prop :=
  (∀ (d a : Reg) s, let tag := nextTag s.me.copyTag
      let c := s.me.copyOf s.cur.slot tag (8 + s.myCore.rangeNext) s.myCore.serial;
      ((c.mode = 3 ∨ c.mode = 4 → s.me.sup = true) → s.myCore.copyRefused c = true →
        ∃ t, exec (.cpy d) s = .next t ∧ WroteReg s t d 0 0)
      ∧ ((c.mode = 3 ∨ c.mode = 4 → s.me.sup = true) → s.myCore.copyRefused c = false → s.myCore.copies.length < 3 →
        (if c.mode = 5 then 1 else 2) ≤ s.myCore.freeRanges →
        let u := s.release.updMyCore (fun k =>
          { k with copies := k.copies ++ [c], serial := k.serial + 1, rangeNext := k.rangeNext + 1 })
        let v := if c.mode = 5 then u
          else u.updMyCore (fun k => k.addRange false c.srcExtent.1.toNat c.srcExtent.2.toNat c.rangeId)
        let w := v.updMyCore (fun k => k.addRange true c.dstExtent.1.toNat c.dstExtent.2.toNat c.rangeId)
        let st : CopyState := if s.myCore.copies.isEmpty then .running else .queued
        ∃ t, exec (.cpy d) s = .next t
          ∧ WroteReg (w.updMe (fun x => { x with copyTag := tag, copyRecs := keepRecs (x.copyRecs ++ [⟨tag, st, 0, 0⟩]) })) t d
              (tag.setWidth 64) 0)
      ∧ ((c.mode = 3 ∨ c.mode = 4) → s.me.sup = false → exec (.cpy d) s = .next (s.trap 16 ((wordOf (.cpy d)).setWidth 64)))
      ∧ (∀ l, s.me.covers (s.reg a) = some l → s.me.copiesBusy l = false →
        s.me.copyRecs.find? (fun r => s.me.covered l r && r.state.isFailed) = none →
        ∃ t, exec (.cwait d a) s = .next t ∧ WroteReg s t d 0 0)
      ∧ (∀ l r e v, s.me.covers (s.reg a) = some l → s.me.copiesBusy l = false →
        s.me.copyRecs.find? (fun r => s.me.covered l r && r.state.isFailed) = some r → r.state = .failed e v →
        exec (.cwait d a) s = .next ((s.updMe (fun x => { x with copyRecs := x.copyRecs.map (fun q =>
          if q.tag = r.tag then { q with state := .done } else q) })).trap e v))
      ∧ (∀ l, s.me.covers (s.reg a) = some l → s.me.copiesBusy l = true →
        ∃ t, exec (.cwait d a) s = .next t ∧ Waits s t (.copies l) (.cwait d a))
      ∧ (s.me.covers (s.reg a) = none → ∃ t, exec (.cwait d a) s = .next t ∧ WroteReg s t d 1 0)
      ∧ (∃ t, exec (.cstat d a) s = .next t ∧ WroteReg s t d (s.me.copyWord (s.reg a)) 0))
  ∧ (∀ core c q s, (s.core core).copies = c :: q → c.held = false →
      (∀ u, s.copyUnit core (s.coreCtx core) c = .ok u →
        (u.next.row < c.rows → ∃ t, exec (.copyUnitDone core) s = .next t ∧ (t.core core).copies = u.next :: q)
        ∧ (c.rows ≤ u.next.row → ∃ t, exec (.copyUnitDone core) s = .next t ∧ (t.core core).copies = q
          ∧ ∀ r ∈ (t.core core).ranges, r.id ≠ c.rangeId))
      ∧ (∀ src dst n, c.mode = 0 → MemOk s →
        n = min (min (c.len - c.srcOff) (65536 - (c.srcAt c.srcOff).toNat % 65536)) (65536 - (c.dstAt c.srcOff).toNat % 65536) →
        s.engineSpan core (s.coreCtx core) c.user .copyRead (c.srcAt c.srcOff) n = .ok [(src, n)] →
        s.engineSpan core (s.coreCtx core) c.user .copyWrite (c.dstAt c.srcOff) n = .ok [(dst, n)] → (∀ d x, dst ≠ .remote d x) →
        ∃ t, exec (.copyUnitDone core) s = .next t
          ∧ ∀ i, i < n → t.memByte core (dst.plus i) = s.dieByte core (src.plus i)))
  ∧ (∀ (d a b : Reg) s, let n := strmId (s.reg a); let c := s.cur.core; let x := s.myCore.strm n; let k := min 16 (x.count - x.i);
      (let y := s.myCore.strmOf n s.cur.slot (!s.me.sup)
        let refused := if localBase.toNat ≤ y.bbase.toNat then
          s.myCore.protRefused y.user y.bbase.toNat (4 * y.count) true false else none
        (y.bad = true → ∃ t, exec (.sopen d a) s = .next t ∧ WroteReg s t d 1 0)
        ∧ (y.bad = false → x.isOpen = true → ∃ t, exec (.sopen d a) s = .next t ∧ WroteReg s t d 2 0)
        ∧ (y.bad = false → x.isOpen = false → x.ops = [] →
          (∀ v, refused = some v → exec (.sopen d a) s = .next (s.trap 3 (BitVec.ofNat 64 v)))
          ∧ (refused = none → ∃ t, exec (.sopen d a) s = .next t
            ∧ WroteReg (s.release.updMyCore (fun k => { k.setStrm n y with serial := k.serial + 1 })) t d 0 0)))
      ∧ (x.isOpen = true → x.scatter = false → x.ops.length < 3 → k ≤ x.fetched.length →
        ∃ t, exec (.spop d a b) s = .next t
          ∧ WroteReg ((s.setRow ((s.reg b).setWidth 7) (Row.ofLanes (fun j => if j < k then x.fetched.getD j 0 else 0))).takeStrm
              c n k) t d (BitVec.ofNat 64 k) 0)
      ∧ (∀ l, x.isOpen = true → x.scatter = false → x.ops.length < 3 → x.fetched.length < k → x.failed = none → x.held = none →
        s.streamFind c x ((List.range k).drop x.fetched.length) = .ok l →
        let u := s.readBy c (l.map (fun q => (q.1, 4)))
        let r := bits (s.reg b) 6 0
        let o : StrmOp := ⟨s.cur.slot, u.myCore.serial, r, x.fetched, l.map (fun q => q.2.2)⟩
        let v := u.updMyCore (fun y => { y.setStrm n { x.advance k with fetched := [], ops := x.ops ++ [o] } with
          serial := y.serial + 1 })
        ∃ t, exec (.spop d a b) s = .next t
          ∧ WroteReg (v.updMe (fun y => { y with pend := y.pend ++ [.row r] })) t d (BitVec.ofNat 64 k) 0)
      ∧ (∀ e v, x.isOpen = true → x.scatter = false → x.ops.length < 3 → x.fetched.length < k → x.failed = some (e, v) →
        exec (.spop d a b) s = .next ((s.updStrm c n (fun x => { x with failed := none })).trap e v))
      ∧ (∀ die e, x.isOpen = true → x.scatter = false → x.ops.length < 3 → x.fetched.length < k → x.failed = none →
        x.held = some (die, e) → ∃ t, exec (.spop d a b) s = .next t ∧ Waits s t (.page die e) (.spop d a b))
      ∧ (∀ q : Nat → Place, x.isOpen = true → x.scatter = true → k ≤ x.fetched.length → s.storeFull s.cur = false →
        (∀ j, j < k → s.check s.cur (x.elemEa (x.fetched.getD j 0)) (2 ^ x.esize) (2 ^ x.esize) .write = .ok (q j)) →
        ∃ t, exec (.spush d a b) s = .next t
          ∧ WroteReg ((((List.range k).foldl (fun u j => u.dirty (x.elemEa (x.fetched.getD j 0))) s.release).pushStore s.cur
              ((List.range k).map (fun j => (q j, leBytes (2 ^ x.esize) ((s.row ((s.reg b).setWidth 7)).lane j).toNat))) none).takeStrm
              c n k) t d (BitVec.ofNat 64 k) 0)
      ∧ (x.isOpen = false ∨ x.scatter = true → ∃ t, exec (.spop d a b) s = .next t ∧ WroteReg s t d 0 0)
      ∧ (x.isOpen = false ∨ x.scatter = false → ∃ t, exec (.spush d a b) s = .next t ∧ WroteReg s t d 0 0))
  ∧ (∀ c n s, let x := (s.core c).strm n; let j := x.i + x.fetched.length;
      (∀ p, x.ops = [] → x.isOpen = true → x.held = none → x.failed = none → j < x.count →
        s.streamAt c x (x.bbase + BitVec.ofNat 64 (4 * j)) 4 = .ok p →
        let v := BitVec.ofNat 32 (leValue (s.engineBytes c p 4));
        (x.scatter = true → ∃ t, exec (.streamReadDone c n) s = .next t ∧ ((t.core c).strm n).fetched = x.fetched ++ [v])
        ∧ (∀ q, x.scatter = false → s.streamAt c x (x.elemEa v) (2 ^ x.esize) = .ok q →
          ∃ t, exec (.streamReadDone c n) s = .next t
            ∧ ((t.core c).strm n).fetched = x.fetched ++ [BitVec.ofNat 32 (leValue (s.engineBytes c q (2 ^ x.esize)))]))
      ∧ (∀ o rest q, x.ops = o :: rest → o.todo = [q] → s.opAlive c o.slot o.serial = true →
        let l := o.got ++ [BitVec.ofNat 32 (leValue (s.engineBytes c q (2 ^ x.esize)))]
        ∃ t, exec (.streamReadDone c n) s = .next t ∧ ((t.core c).strm n).ops = rest
          ∧ (let y := (t.core c).thread o.slot
             (∀ i, i < 16 → (y.row o.row).lane i = l.getD i 0) ∧ y.latch = true
             ∧ y.pend = ((s.core c).thread o.slot).pend.filter (· != .row o.row))))

/-- The MRG instructions (R309-R311). -/
def Obligations.MergeInstructions : Prop :=
  (∀ (d a b : Reg) s, let n := mgNum (s.reg a); let cl := clusterOf s.cur.core; let p := coreIdOf s.cur.core
      let m := s.mg cl n
      let cnt := bits (s.reg b) 11 7
      let row : RowCode := BitVec.ofNat 7 (bits (s.reg b) 6 0)
      let ps := (List.range cnt).map (fun i => ((s.row row).lane i, (s.row (row + 1)).lane i))
      let block := bits (s.reg b) 63 12 = 0 ∧ 1 ≤ cnt ∧ cnt ≤ 16
      let takes := m.state.live = true ∧ m.drained = false
      let port := m.members.getLsbD p = true ∧ m.ended.getLsbD p = false
      let gets := fun (i : Instr) (v : Word) => ∃ t, exec i s = .next t ∧ WroteReg s t d v 0;
      (bits (s.reg a) 63 2 ≠ 0 → gets (.mgpush d a b) (BitVec.allOnes 64) ∧ gets (.mgend d a) (BitVec.allOnes 64))
      ∧ (bits (s.reg a) 63 2 = 0 →
        (¬ block → gets (.mgpush d a b) 3)
        ∧ (m.restoring = true → (block → exec (.mgpush d a b) s = .next s) ∧ exec (.mgend d a) s = .next s)
        ∧ (m.restoring = false → (¬ takes → (block → gets (.mgpush d a b) 1) ∧ gets (.mgend d a) 1)
        ∧ (takes → ¬ port → (block → gets (.mgpush d a b) 2) ∧ gets (.mgend d a) 2)
        ∧ (takes → port →
          (block → (∀ c, pushFail (m.lastPushed p) ps = some c → exec (.mgpush d a b) s = .next (s.trap 17 (c.setWidth 64)))
            ∧ (pushFail (m.lastPushed p) ps = none → (s.cluster cl).pushFull p = false →
              let k := s.myCore.serial
              let u := (s.release.updMyCore (fun c => { c with serial := c.serial + 1 })).updMg cl n (fun m =>
                { m with last := m.last.set p ((ps.getLastD (0, 0)).1), pushed := m.pushed ||| (1#16 <<< p) })
              let v := u.updCluster cl (fun c =>
                { c with mq := c.mq ++ ps.map (fun x => ⟨p, s.cur.slot, n, c.mqNext, k, x.1, x.2⟩), mqNext := c.mqNext + 1 })
              ∃ t, exec (.mgpush d a b) s = .next t ∧ WroteReg (v.hpm s.cur.core 0x15 1) t d 0 0))
          ∧ (let u := s.release.updMg cl n (fun m => { m with ended := m.ended ||| (1#16 <<< p) })
            ((u.cluster cl).allEnded n = false → ∃ t, exec (.mgend d a) s = .next t ∧ WroteReg u t d 0 0)
            ∧ ∃ t, exec (.mgend d a) s = .next t ∧ t = (u.put d 0).mgSettle cl n)))))
  ∧ (∀ (d a b : Reg) s, let n := mgNum (s.reg a); let cl := clusterOf s.cur.core; let m := s.mg cl n
      let gets := fun (i : Instr) (v : Word) => ∃ t, exec i s = .next t ∧ WroteReg s t d v 0
      bits (s.reg a) 63 2 = 0 →
      ((∀ bs, let id := 8 + s.myCore.rangeNext
        ReadsLocal s (s.reg b) 64 64 bs →
        (parseMg bs (s.reg b) s.cur (!s.me.sup) s.myCore.serial id = none → gets (.mgopen d a b) 1)
        ∧ (∀ x re, parseMg bs (s.reg b) s.cur (!s.me.sup) s.myCore.serial id = some (x, re) →
          let need := if x.outk = .area then 2 else 1
          let bad := s.myCore.mgNoWrite x.user x.spill x.sbytes = true
            ∨ (x.outk = .area ∧ s.myCore.mgNoWrite x.user x.out (8 * x.outcap) = true);
          (m.state ≠ .free → gets (.mgopen d a b) 2)
          ∧ (m.state = .free → s.myCore.freeRanges < need → gets (.mgopen d a b) 3)
          ∧ (m.state = .free → need ≤ s.myCore.freeRanges → bad → gets (.mgopen d a b) 4)
          ∧ (m.state = .free → need ≤ s.myCore.freeRanges → ¬ bad → re = false →
            ∃ t, exec (.mgopen d a b) s = .next t ∧ WroteReg (s.mgOpen n x id) t d 0 0)))
      ∧ (m.state = .free ∨ m.holder ≠ s.cur → gets (.mgdrain d a) (BitVec.allOnes 64))
      ∧ (m.state ≠ .free → m.holder = s.cur → s.mgHolderLive m = true →
        let u := s.release.mgDrain cl n
        let x := u.mg cl n
        (x.state = .failed → ∃ t, exec (.mgdrain d a) s = .next t ∧ WroteReg (u.mgFree cl n) t d (BitVec.allOnes 64) 0)
        ∧ (x.state ≠ .failed → x.calm = true → x.drained = true ∨ x.state = .done →
          ∃ t, exec (.mgdrain d a) s = .next t ∧ WroteReg (u.mgFree cl n) t d (BitVec.ofNat 64 x.runs) 0)
        ∧ (x.state ≠ .failed → x.calm = false ∨ (x.drained = false ∧ x.state ≠ .done) →
          ∃ t, exec (.mgdrain d a) s = .next t ∧ Waits u t (.mergeDrain n) (.mgdrain d a)))
      ∧ (∀ row, bits (s.reg b) 63 7 = 0 → row = BitVec.ofNat 7 (s.reg b).toNat → m.state ≠ .free → m.outk = .pop →
        m.holder.core = s.cur.core →
        let out := m.popQ.take 16
        let u := s.updMg cl n (fun m => { m with popQ := m.popQ.drop 16 })
        let v := u.setRow row (Row.ofLanes (fun i => (out.getD i (0, 0)).1))
        ∃ t, exec (.mgpop d a b) s = .next t
          ∧ WroteReg (v.setRow (row + 1) (Row.ofLanes (fun i => (out.getD i (0, 0)).2))) t d (BitVec.ofNat 64 out.length) 0)
      ∧ (bits (s.reg b) 63 7 ≠ 0 ∨ m.state = .free ∨ m.outk ≠ .pop ∨ m.holder.core ≠ s.cur.core →
        gets (.mgpop d a b) (BitVec.allOnes 64))
      ∧ (m.restoring = true → exec (.mgstat d a b) s = .next s)
      ∧ (m.restoring = false → (s.reg b = 0 → gets (.mgstat d a b) m.statWord)
      ∧ (s.reg b = 1 → gets (.mgstat d a b) (BitVec.ofNat 64 (min m.emitted 0xFFFFFFFF)))
      ∧ (s.reg b = 2 → gets (.mgstat d a b) (BitVec.ofNat 64 (min m.zeros 0xFFFFFFFF)))
      ∧ (s.reg b = 3 → gets (.mgstat d a b) (BitVec.ofNat 64 (min m.discard 0xFFFFFFFF))))))

/-- Order, acceptance and emission of the merge network (R300-R302, R310). That no pair waiting in a push is at or below the emitted coordinate is log entry 19. -/
def Obligations.MergeNetwork : Prop :=
  (∀ (last : Option W32) (ps : List (W32 × W32)),
      pushFail last ps = none ↔ (last.toList ++ ps.map (·.1)).Pairwise (fun x y => x.toNat < y.toNat))
  ∧ (∀ (c : Cluster) n x, c.emittable n = some x →
      x ∈ (c.mg n).buf.map (·.2.1)
      ∧ (∀ e ∈ (c.mg n).buf, x.toNat ≤ e.2.1.toNat)
      ∧ (∀ q ∈ c.mq, q.mctx = n → q.port < 16 → (c.mg n).members.getLsbD q.port = true → x.toNat < q.coord.toNat)
      ∧ (∀ p, p < 16 → (c.mg n).members.getLsbD p = true → (c.mg n).ended.getLsbD p = false →
          ∃ l, (c.mg n).lastPushed p = some l ∧ x.toNat ≤ l.toNat))
  ∧ (∀ (m : MergeCtx) (c : W32) (l : List (Nat × W32)), l.Pairwise (fun x y => x.1 < y.1) →
      (∀ p v, (p, v) ∈ l ↔ p < 16 ∧ (p, c, v) ∈ m.buf) →
      m.sumAt c = match l with
        | [] => 0
        | x :: rest => rest.foldl (fun s y => (faddBits (RMode.ofCode m.round) s y.2).1) x.2)
  ∧ (∀ cl q s, let n := q.mctx; let m := s.mg cl n
      ((s.cluster cl).mq = [q] → q.port < 16 → m.state.live = true → m.calm = true → s.mgOutWaits cl n = false →
        m.buf.length < m.cap → (m.state = .opened ∨ m.buf.length + 1 < m.cap) →
        let u := (s.updCluster cl (fun c => { c with mq := [], mqLast := q.port })).updMg cl n (fun m =>
          { m with buf := m.buf ++ [(q.port, q.coord, q.val)] })
        ∃ t, exec (.mergeAccept cl) s = .next t ∧ t = (u.latchThread ⟨16 * cl + q.port, q.slot⟩).mgSettle cl n)
      ∧ (∀ c, m.state = .opened → m.calm = true → m.drained = false → (s.cluster cl).emittable n = some c →
        let gone := fun (x : MergeCtx) => { x with buf := x.buf.filter (fun e => e.2.1 != c) }
        let zero := m.sumAt c = 0 ∨ m.sumAt c = 0x80000000;
        (m.dz = true → zero → ∃ t, exec (.mergeEmit cl n) s = .next t
          ∧ t = (s.updMg cl n (fun x => { gone x with zeros := x.zeros + 1 })).mgSettle cl n)
        ∧ ((m.dz = true → ¬ zero) →
          (m.outk = .pop → m.popQ.length < 64 → ∃ t, exec (.mergeEmit cl n) s = .next t
            ∧ t = (s.updMg cl n (fun x => { gone x with emitted := x.emitted + 1, popQ := x.popQ ++ [(c, x.sumAt c)] })).mgSettle cl n)
          ∧ (m.outk = .area → m.outcap ≤ m.emitted → ∃ t, exec (.mergeEmit cl n) s = .next t
            ∧ t = (s.updMg cl n (fun x => { gone x with emitted := x.emitted + 1, discard := x.discard + 1 })).mgSettle cl n)
          ∧ (∀ r, let k := m.holder.core
            m.outk = .area → m.emitted < m.outcap → (s.cluster cl).allEnded n = false → MemOk s → (∀ e x, r ≠ .remote e x) →
            s.engineSpan k (s.coreCtx k) m.user .copyWrite (m.out + BitVec.ofNat 64 (8 * m.emitted)) 8 = .ok [(r, 8)] →
            ∃ t, exec (.mergeEmit cl n) s = .next t ∧ (t.mg cl n).emitted = m.emitted + 1
              ∧ (t.mg cl n).buf = m.buf.filter (fun e => e.2.1 != c)
              ∧ ∀ i, i < 8 → t.memByte k (r.plus i) = (leBytes 4 c.toNat ++ leBytes 4 (m.sumAt c).toNat).getD i 0))))

/-- The IL instructions (R277-R279), the engine's turn (R284), and what each operation and arrival does to its ray slot (R267-R276). -/
def Obligations.ListInstructions : Prop :=
  (∀ (d a b : Reg) s, let n := bits (s.reg a) 5 0
      let goes := fun (i : Instr) (k : IlKind) (l : List W32) (row : Option Nat) (pair : Nat) =>
        ∃ t, exec i s = .next t
          ∧ WentOn ((s.ilAccept k d n l (row.getD 0) pair false).updMe (fun x => { x with
              pend := x.pend ++ ((if d = 0 then [] else [Pend.reg (s.me.regId d)]) ++ (row.map Pend.row).toList) })) t
      bits (s.reg a) 63 6 = 0 → s.myCore.ilQ.length < 3 →
      (goes (.ilcut d a) .cut [] none 0 ∧ goes (.ilstat d a) .stat [] none 0
      ∧ (bits (s.reg b) 63 7 = 0 → goes (.ilcomp d a b) .comp [] (some (s.reg b).toNat) 0)
      ∧ (bits (s.reg b) 63 10 = 0 → goes (.ilread d a b) .read [] (some (bits (s.reg b) 6 0)) (bits (s.reg b) 9 7))
      ∧ (Fresh s → s.myCore.mayBeMode n .spill 1 = false → goes (.ilclose d a) .close [] none 0)
      ∧ (∀ bs, ReadsLocal s (s.reg b) 32 32 bs →
        let l := (List.range 8).map (fun i => BitVec.ofNat 32 (leValue ((bs.drop (4 * i)).take 4)))
        goes (.ilopen d a b) .opn l none 0
        ∧ (Fresh s → s.myCore.mayBeMode n .trap 2 = false → goes (.ilins d a b) .ins l none 0))))
  ∧ (∀ (d a b : Reg) s bs, let r := bits (s.reg a) 15 0; let e := s.myCtx.rank r
      bits (s.reg a) 63 22 = 0 → ReadsLocal s (s.reg b) 32 32 bs → rankV e = true →
      (rankT e = true → s.heldFor s.me.ctx r (dieOf s.cur.core) < 64) →
      ∃ t, exec (.ilsend d a b) s = .next t
        ∧ WroteReg (s.release.postMsg r e (.answer (bits (s.reg a) 21 16)
            (Answer.ofLanes ((List.range 8).map (fun i => BitVec.ofNat 32 (leValue ((bs.drop (4 * i)).take 4))))))) t d 0 0)
  ∧ (∀ c o q s, let u := s.spillAll c
      (u.core c).ilQ = o :: q → (u.core c).ilReady = true → ((u.core c).ilTurn = true → (u.core c).arrivals = []) →
      u.ilAlive c o = true → o.row < 128 →
      let r := (u.core c).ray o.ray
      let y := (u.core c).thread o.slot
      let w := fun (i : Nat) => o.block.getD i 0
      let hi := (w 3).toNat
      let gives := fun (t : State) (v : Word) => let x := (t.core c).thread o.slot
        exec (.listEngineOperation c) s = .next t ∧ (t.core c).ilQ = q
        ∧ (o.dest ≠ 0 → regNo x o.dest = some v) ∧ (∀ n, n ≠ o.dest → regNo x n = regNo y n) ∧ x.latch = true
        ∧ (∀ p, p ∈ x.pend ↔ p ∈ y.pend ∧ p ≠ .reg o.dest ∧ (o.kind = .comp ∨ o.kind = .read → p ≠ .row o.row))
        ∧ (∀ l, o.waits = true → y.state = .blocked .listEngine l → x.state = .ready ∧ (y.replay = none → x.pc = y.pc + 4))
      let rows := fun (t : State) (f : Option (Nat → W32)) => ∀ n i, n < 128 → i < 16 →
        (((t.core c).thread o.slot).row n).lane i = match f with
          | none => (y.row n).lane i
          | some g => if n = o.row then g i else (y.row n).lane i
      let slot := fun (t : State) => (t.core c).ray o.ray
      let traps := fun (cause : Nat) (v : Word) (ray : RaySlot) => ∃ z : State, exec (.listEngineOperation c) s = .next (z.byEngine ⟨c, o.slot⟩ (·.trapAt ⟨c, o.slot⟩ cause v))
        ∧ (z.core c).ray o.ray = ray ∧ z.thread ⟨c, o.slot⟩ = y;
      (o.kind = .cut → ∃ t, gives t (if r.state = .free then BitVec.allOnes 64 else r.cut.setWidth 64) ∧ slot t = r ∧ rows t none)
      ∧ (o.kind = .stat → ∃ t, gives t r.statWord ∧ slot t = r ∧ rows t none)
      ∧ (o.kind = .opn → let refusal := if badOpen o.block then 1 else if r.state ≠ .free then 2
            else if hi % 4 = 1 ∧ (u.core c).freeRanges = 0 then 3 else 0
          let area : Word := (w 5).setWidth 64 <<< 32 ||| (w 4).setWidth 64
          let n := 32 * (w 6).toNat
          let noArea := spanClass area.toNat n = .none ∨ (spanClass area.toNat n = .loc
            ∧ ({ u.core c with csrs := o.prot }.protRefused o.user area.toNat n false true).isSome = true);
          (refusal ≠ 0 → ∃ t, gives t (BitVec.ofNat 64 refusal) ∧ slot t = r ∧ rows t none)
          ∧ (refusal = 0 → hi % 4 = 1 → noArea → ∃ t, gives t 4 ∧ slot t = r ∧ rows t none)
          ∧ (refusal = 0 → (hi % 4 = 1 → ¬ noArea) → ∃ t, gives t 0 ∧ rows t none
            ∧ (slot t).state = .opened ∧ (slot t).entries = [] ∧ (slot t).cut = 0x7F800000 ∧ (slot t).tmin = w 0 ∧ (slot t).tmax = w 1
            ∧ (slot t).tauStop = stopDepth (w 2) ∧ (slot t).inserted = 0 ∧ (slot t).culled = 0 ∧ (slot t).arrivals = 0
            ∧ (slot t).mode = (if hi % 4 = 1 then .spill else if hi % 4 = 2 then .trap else .collapse)
            ∧ (slot t).cen = decide (hi / 2 ^ 13 % 2 = 1) ∧ (slot t).ctr = hi / 2 ^ 8 % 32
            ∧ (hi % 4 = 1 → (slot t).area = area ∧ (slot t).cap = (w 6).toNat
                ∧ ∃ id, (t.core c).ranges = (u.core c).ranges ++ [⟨id, true, area.toNat, area.toNat + n⟩])))
      ∧ (o.kind = .ins → let a := Answer.ofLanes o.block
          (r.state ≠ .opened → ∃ t, gives t 6 ∧ slot t = r ∧ rows t none)
          ∧ (r.state = .opened → a.malformed = true → ∃ t, gives t 2 ∧ slot t = r ∧ rows t none)
          ∧ (r.state = .opened → a.malformed = false → (∀ x, a.clip r.tmin r.tmax = some x → f32Lt r.cut x.tin = true) →
            ∃ t, gives t 1 ∧ slot t = { r with culled := r.culled + 1 } ∧ rows t none)
          ∧ (∀ x, r.state = .opened → a.malformed = false → a.clip r.tmin r.tmax = some x → f32Lt r.cut x.tin = false →
            (∀ e, r.entries.find? (fun e => e.key == x.key) = some e → ∃ t, gives t 3 ∧ rows t none
              ∧ slot t = { r with conflict := r.conflict || (e.tau != x.tau || e.gr != x.gr || e.cb != x.cb || e.fk != x.fk) })
            ∧ ((∀ e ∈ r.entries, e.key ≠ x.key) →
              let es := insertBy Answer.key x r.entries
              let k := cutOf r.tauStop es
              let cut := if f32Le k r.cut then k else r.cut
              let keep := es.filter (fun e => !f32Lt cut e.tin)
              (keep.length ≤ 16 → ∃ t, gives t 0 ∧ rows t none
                ∧ slot t = { r with entries := keep, cut := cut, culled := r.culled + (es.length - keep.length), inserted := r.inserted + 1 })
              ∧ (16 < keep.length → r.mode = .trap → traps 13 (BitVec.ofNat 64 o.ray) r)
              ∧ (16 < keep.length → r.mode = .collapse ∨ (r.mode = .spill ∧ r.cap ≤ r.spilledN) →
                ∃ t, gives t 4 ∧ rows t none ∧ (slot t).lossy = true ∧ (slot t).inserted = r.inserted + 1)
              ∧ (16 < keep.length → r.mode = .spill → r.spilledN < r.cap →
                ∃ t, gives t 5 ∧ rows t none ∧ (slot t).spilledF = true ∧ (slot t).spilledN = r.spilledN + 1
                  ∧ (slot t).inserted = r.inserted + 1))))
      ∧ (o.kind = .comp →
          (r.state = .free → ∃ t, gives t 1 ∧ slot t = r ∧ rows t none)
          ∧ (r.state = .opened → let x := composite r.entries
            ∃ t, gives t 0 ∧ rows t (some (r.resultRow x).lane)
              ∧ slot t = { r with state := .composited, result := some (r.resultRow x), mixed := x.mixed })
          ∧ (∀ w, r.state = .composited → r.result = some w → ∃ t, gives t 0 ∧ rows t (some w.lane) ∧ slot t = r))
      ∧ (o.kind = .read → let es := (r.entries.drop (2 * o.pair)).take 2
          (r.state = .free → ∃ t, gives t (BitVec.allOnes 64) ∧ slot t = r ∧ rows t none)
          ∧ (r.state ≠ .free → ∃ t, gives t (BitVec.ofNat 64 es.length) ∧ slot t = r
            ∧ rows t (some (fun i => (es.flatMap Answer.lanes).getD i 0))))
      ∧ (o.kind = .close →
          (r.state = .free → ∃ t, gives t 1 ∧ slot t = r ∧ rows t none)
          ∧ (r.state ≠ .free → r.wfail = none → ∃ t, gives t 0 ∧ slot t = RaySlot.reset ∧ rows t none
            ∧ ∀ id, r.rangeId = some id → ∀ x ∈ (t.core c).ranges, x.id ≠ id)
          ∧ (∀ e v, r.state ≠ .free → r.wfail = some (e, v) → traps e v { r with wfail := none })))
  ∧ (∀ c m n x l s, (s.core c).arrivals = ⟨m, n, x⟩ :: l → ((s.core c).ilTurn = true ∨ (s.core c).ilReady = false) →
      (∀ p ∈ s.ctxs, p.2.evWait = []) →
      let r := (s.core c).ray n
      ∃ t, exec (.listArrival c) s = .next t ∧ (t.core c).arrivals = l
        ∧ (r.state = .free → (t.core c).ray n = r ∧ ∀ k, (t.core c).counter k = (s.core c).counter k)
        ∧ (r.state ≠ .free → ((t.core c).ray n).arrivals = r.arrivals + 1
          ∧ (∀ k, (t.core c).counter k = if r.cen = true ∧ k = r.ctr then (s.core c).counter k + 1 else (s.core c).counter k)
          ∧ (r.cen = true → ∀ j, j < 11 → ((t.core c).thread j).latch = true))
        ∧ (r.state = .composited → (t.core c).ray n = { r with late := true, arrivals := r.arrivals + 1 })
        ∧ (r.state = .opened →
          (x.malformed = true → (t.core c).ray n = { r with arrivals := r.arrivals + 1 })
          ∧ (x.malformed = false → x.clip r.tmin r.tmax = none →
            (t.core c).ray n = { r with culled := r.culled + 1, arrivals := r.arrivals + 1 })
          ∧ (∀ y, x.malformed = false → x.clip r.tmin r.tmax = some y → f32Lt r.cut y.tin = false → (∀ e ∈ r.entries, e.key ≠ y.key) →
            let es := insertBy Answer.key y r.entries
            let k := cutOf r.tauStop es
            let cut := if f32Le k r.cut then k else r.cut
            let keep := es.filter (fun e => !f32Lt cut e.tin)
            (keep.length ≤ 16 → (t.core c).ray n = { r with entries := keep, cut := cut, culled := r.culled + (es.length - keep.length), inserted := r.inserted + 1, arrivals := r.arrivals + 1 })
            ∧ (16 < keep.length → r.mode = .trap → ((t.core c).ray n).remoteOvf = true ∧ ((t.core c).ray n).lossy = true))))
  ∧ ((let x := composite []
      x.l = [0, 0, 0] ∧ x.t = 0x3F800000 ∧ x.mixed = false)
    ∧ (∀ e : Answer, f32Eq e.tin e.tout = true → let x := composite [e]
        x.t = rnMul 0x3F800000 (exp2RN (f32Neg e.tau)) ∧ x.mixed = false
          ∧ ∀ ch, ch < 3 → x.l.getD ch 0 = rnAdd 0 (rnMul 0x3F800000 (e.rad ch)))
    ∧ (∀ a b : Answer, let m := a.merge b
        m.tin = a.tin ∧ m.tout = (if f32Lt a.tout b.tout then b.tout else a.tout) ∧ m.tau = rnAdd a.tau b.tau
          ∧ m.source = 0xFFFFFFFF ∧ m.fk.toNat % 16 = 14
          ∧ m.user = (if a.kind = 14 then a.user else 1) + (if b.kind = 14 then b.user else 1)
          ∧ (let l := fun ch => f16Bits (rnAdd (a.rad ch) (rnMul (exp2RN (f32Neg a.tau)) (b.rad ch)))
            m.gr = BitVec.ofNat 32 (l 1 * 65536 + l 0) ∧ m.cb = BitVec.ofNat 32 (min a.conf b.conf * 65536 + l 2))))

/-- The HAL instructions (R318-R323) on the issuing core. -/
def Obligations.HalterInstructions : Prop :=
  (∀ (d a b : Reg) s, let h := s.reg a; let n := s.myCore.halNext; s.me.atHome = false → s.myCore.halterFull = false →
      let good := h ≠ 0 ∧ halBad h = false
      let waits := fun (i : Instr) => ∃ t, exec i s = .next t ∧ Waits s t (.halter n 0 none false) i
      let alone := s.myCore.halNums = []
      let u := s.latchThread s.cur
      waits (.hnew d a)
      ∧ (good → waits (.haddr d a))
      ∧ (¬ good → (alone → ∃ t, exec (.haddr d a) s = .next t ∧ WroteReg u t d (BitVec.allOnes 64) 0) ∧ (¬ alone → waits (.haddr d a)))
      ∧ (good → d ≠ 0 → d ≠ a → ¬ alone → waits (.hcopy d a))
      ∧ (good → d ≠ 0 → d ≠ a → alone → 1 ≤ halE h → ∃ t, exec (.hcopy d a) s = .next t
          ∧ WroteReg (u.setReg a (halWith h (halE h - 1))) t d (halWith h (halE h - 1)) 0)
      ∧ (∀ k, good → d ≠ 0 → d ≠ a → alone → halE h = 0 → (s.die (dieOf s.cur.core)).freeCell = some k →
          let die := dieOf s.cur.core
          let g := (halWith h 61 &&& ~~~0x7FFFFFF#64) ||| BitVec.ofNat 64 (2 ^ 33 + s.devNum * 2 ^ 19 + die * 2 ^ 17 + k)
          ∃ t, exec (.hcopy d a) s = .next t
          ∧ WroteReg ((u.updDie die (fun x => { x with cells := x.cells.set k ⟨h, 0, s.me.ctx⟩ })).setReg a g) t d g 0)
      ∧ (h = 0 → ∃ t, exec (.hdrop a) s = .next t ∧ WentOn s t)
      ∧ (h ≠ 0 → halBad h = true ∨ s.hasRoute (halDest h s.me.ctx).dev = false → exec (.hdrop a) s = .next (s.trap 12 h))
      ∧ (good → s.hasRoute (halDest h s.me.ctx).dev = true →
          let r := s.release
          let w : Weight := ⟨halDest h s.me.ctx, 2 ^ halE h, s.me.ctx, BitVec.ofNat 32 s.me.kernid, s.cur, r.myCore.serial⟩
          let v := r.updMyCore (fun k => { k with serial := k.serial + 1 })
          (r.myCore.halNext = 1 → ∃ t, exec (.hdrop a) s = .next t ∧ WentOn (((v.postWeight w).latchThread s.cur).setReg a 0) t)
          ∧ (r.myCore.halNext ≠ 1 → ∃ t, exec (.hdrop a) s = .next t
            ∧ WentOn ((v.updMyCore (fun k => { k with drops := k.drops ++ [(r.myCore.halNext, w)] })).setReg a 0) t))
      ∧ (¬ alone → waits (.hwgt d a))
      ∧ (alone → ∃ t, exec (.hwgt d a) s = .next t ∧ WroteReg u t d (if h = 0 ∨ halBad h = true then BitVec.allOnes 64
          else BitVec.ofNat 64 ((if halInd h then 256 else 0) + halE h)) 0)
      ∧ (good → a ≠ b → s.reg b = h → halE h ≠ 62 → (alone → ∃ t, exec (.hmerge d a b) s = .next t
          ∧ WroteReg ((u.setReg a 0).setReg b 0) t d (halWith h (halE h + 1)) 0) ∧ (¬ alone → waits (.hmerge d a b)))
      ∧ (¬ good ∨ d = 0 ∨ d = a → exec (.hcopy d a) s = .next (s.trap 12 h))
      ∧ (¬ good ∨ s.reg b ≠ h ∨ a = b ∨ halE h = 62 → exec (.hmerge d a b) s = .next (s.trap 12 h)))
  ∧ (∀ (d a b : Reg) s p, s.me.atHome = false → s.myCore.halterFull = false → s.reg a ≠ 0 → halBad (s.reg a) = false →
      (bits (s.reg b) 5 0 ≠ 0 ∨ bits (s.reg b) 63 56 ≠ 0 → exec (.hbind d a b) s = .next (s.trap 2 (s.reg b)))
      ∧ (bits (s.reg b) 5 0 = 0 → addrClass (s.reg b) = .global → s.check s.cur (s.reg b) 64 64 .read = .ok (.hbm p) →
        s.meetsBad s.cur.core (.hbm p) 64 = false →
        let card := parseCard (s.reg b) (s.loadBytes s.cur.core (.hbm p) 64)
        let waits := fun (st : Nat) (c : Option Card) => ∃ t, exec (.hbind d a b) s = .next t
          ∧ Waits s t (.halter s.myCore.halNext st c false) (.hbind d a b);
        (card = none → waits 1 none)
        ∧ ∀ c, card = some (c, 0) → waits (if c.cores then 2 else if (s.myCtx.queue c.queue).kind ≠ .card then 3 else 0) (some c)))

/-- Homes (R318, R319, R322), arrivals of weight at entries and cells (R314-R316, Table 19-2), and the split of R313. What a finaliser that cannot be launched leaves is log entry 17; the halter in the report of a FREE cell is log entry 18. -/
def Obligations.HalterHomes : Prop :=
  (∀ (d a b : Reg) c n s num st card asked l, let th : ThreadId := ⟨c, n⟩
      let x := (s.thread th).ctx
      let die := dieOf c
      let h := (s.thread th).reg a
      let at' := fun (i : Instr) => (s.thread th).word = wordOf i
      let ten := (s.ctx x).tensor (halDie h) (halId h)
      (s.thread th).state = .blocked (.halter num st card asked) l → (s.core c).halTurn num = true →
      (∀ id, at' (.hnew d a) → (s.ctx x).nextTensor die = some id →
        Replied ((s.setTensor x die id ⟨.live, 0, h, none⟩).updCtx x (fun y => { y with lastTensor := y.lastTensor.set die id }))
          c n (.hnew d a) s d (BitVec.ofNat 64 (s.devNum * 2 ^ 56 + die * 2 ^ 54 + id * 2 ^ 34 + 62 * 2 ^ 27)))
      ∧ (at' (.hnew d a) → (s.ctx x).nextTensor die = none → Replied s c n (.hnew d a) s d 0)
      ∧ (∀ t, at' (.haddr d a) → h ≠ 0 → halBad h = false → halDev h = s.devNum → ten = some t → t.state = .live →
        Replied s c n (.haddr d a) s d t.addr)
      ∧ (at' (.haddr d a) → h ≠ 0 → halBad h = false → halDev h = s.devNum → (∀ t, ten = some t → t.state ≠ .live) →
        Replied s c n (.haddr d a) s d (BitVec.allOnes 64))
      ∧ (at' (.hbind d a b) → st ≠ 0 → Replied s c n (.hbind d a b) s d (BitVec.ofNat 64 st))
      ∧ (at' (.hbind d a b) → st = 0 → h ≠ 0 → halBad h = false → halDev h = s.devNum →
        ((∀ t, ten = some t → t.state ≠ .live) → Replied s c n (.hbind d a b) s d 4)
        ∧ (∀ t, ten = some t → t.state = .live → t.card ≠ none → Replied s c n (.hbind d a b) s d 5)
        ∧ (∀ t, ten = some t → t.state = .live → t.card = none →
          Replied (s.setTensor x (halDie h) (halId h) { t with card := card }) c n (.hbind d a b) s d 0))
      ∧ (at' (.hwgt d a) → h ≠ 0 → halBad h = false →
        Replied s c n (.hwgt d a) s d (BitVec.ofNat 64 ((if halInd h then 256 else 0) + halE h)))
      ∧ (at' (.hcopy d a) → 1 ≤ halE h → Replied (s.updThread th (·.setReg a (halWith h (halE h - 1)))) c n (.hcopy d a) s d
          (halWith h (halE h - 1)))
      ∧ (at' (.hmerge d a b) → Replied (s.updThread th (fun x => (x.setReg a 0).setReg b 0)) c n (.hmerge d a b) s d
          (halWith h (halE h + 1))))
  ∧ (∀ i w s, s.weights[i]? = some w → 
      let u : State := { s with weights := s.weights.eraseIdx i }
      (∀ x die id t, w.dest = .tensor x s.devNum die id → (s.ctx x).tensor die id = some t → t.state = .live →
        (t.sum + w.amount < 2 ^ 62 → ∃ v, exec (.tensorWeightArrival i) s = .next v
          ∧ v = u.setTensor x die id { t with sum := t.sum + w.amount })
        ∧ (t.sum + w.amount = 2 ^ 62 → t.card = none → ∃ v, exec (.tensorWeightArrival i) s = .next v
          ∧ (v.ctx x).tensor die id = none)
        ∧ (∀ c, t.sum + w.amount = 2 ^ 62 → t.card = some c →
          let y := u.setTensor x die id { t with sum := 2 ^ 62, state := .dead }
          ∃ v, exec (.tensorWeightArrival i) s = .next v
            ∧ (∀ z, y.finalOuts x c = (none, z) → v = z)
            ∧ (∀ k z, y.finalOuts x c = (some k, z) →
              (z.launchCode x k = 0 → v = z.addKernel x k 0 false (some (die, id)))
              ∧ (z.launchCode x k = 4 → v = z.updCtx x (fun r => { r with finals := r.finals ++ [(die, id, k)] }))
              ∧ (z.launchCode x k ≠ 0 → z.launchCode x k ≠ 4 → v = z))))
      ∧ (∀ x die id t, w.dest = .tensor x s.devNum die id → (s.ctx x).tensor die id = some t → t.state ≠ .poisoned →
        2 ^ 62 < t.sum + w.amount → ∃ v, exec (.tensorWeightArrival i) s = .next v
          ∧ v = (u.setTensor x die id { t with sum := min (t.sum + w.amount) (2 ^ 64 - 1), state := .poisoned }).reportPoison
              x s.devNum die id)
      ∧ (∀ x die id t, w.dest = .tensor x s.devNum die id → (s.ctx x).tensor die id = some t → t.state = .poisoned →
        ∃ v, exec (.tensorWeightArrival i) s = .next v
          ∧ v = u.setTensor x die id { t with sum := min (t.sum + w.amount) (2 ^ 64 - 1) })
      ∧ (∀ x die id, w.dest = .tensor x s.devNum die id → (s.ctx x).tensor die id = none →
        ∃ v, exec (.tensorWeightArrival i) s = .next v ∧ v = u.reportPoison x s.devNum die id)
      ∧ (∀ die cell, w.dest = .cell s.devNum die cell → (s.die die).cells.find? (fun c => c.1 == cell) = none →
        ∃ v, exec (.cellWeightArrival i) s = .next v ∧ v = u.reportPoison w.ctx s.devNum die 0)
      ∧ (∀ die cell c, w.dest = .cell s.devNum die cell → (s.die die).cells.find? (fun c => c.1 == cell) = some (cell, c) →
        (c.sum + w.amount < 2 ^ 62 → ∃ v, exec (.cellWeightArrival i) s = .next v
          ∧ v = u.updDie die (fun d => { d with cells := d.cells.set cell { c with sum := c.sum + w.amount } }))
        ∧ (c.sum + w.amount = 2 ^ 62 → ∃ v, exec (.cellWeightArrival i) s = .next v
          ∧ v = (u.updDie die (fun d => { d with cells := d.cells.erase cell })).postWeight
              { w with dest := halDest c.held c.ctx, amount := 1, ctx := c.ctx })
        ∧ (2 ^ 62 < c.sum + w.amount → ∃ v, exec (.cellWeightArrival i) s = .next v
          ∧ v = (u.updDie die (fun d => { d with cells := d.cells.erase cell })).reportPoison
              c.ctx (halDev c.held) (halDie c.held) (halId c.held))))
  ∧ (∀ h : Word, 1 ≤ halE h → halE h ≤ 62 →
      let g := halWith h (halE h - 1)
      halE g = halE h - 1 ∧ 2 ^ halE g + 2 ^ halE g = 2 ^ halE h
        ∧ (halBad h = false → halBad g = false) ∧ halWith g (halE h) = h)

/-- The scene-form helpers (R290-R297): the rows and masks that they write; TEXL with and without its two maps (R294-R296). -/
def Obligations.SceneForms : Prop :=
  (∀ (m : MaskCode) (d a b : RowCode) s,
      (let child := fun c => boxChild (s.row a) (fun i => (s.row (b + BitVec.ofNat 7 (2 * i))).lane c)
          (fun i => (s.row (b + BitVec.ofNat 7 (2 * i + 1))).lane c)
        ∃ t, exec (.boxt m d a b) s = .next t
          ∧ WroteRows s t (fun r i => if r = d then (if (child i).2 then (child i).1 else 0x7F800000#32) else (s.row r).lane i) m
              (fun i => (child i).2))
      ∧ (let x := fun k => triTest (s.row a) (s.row b) (s.row (b + 1)) (s.row (b + 2)) k ((s.me.csr 0x0C2).getLsbD 1)
            ((s.me.csr 0x0C2).getLsbD 0)
        ∃ t, exec (.trit m d a b) s = .next t
          ∧ WroteRows s t (fun r i => if r = d ∧ (s.mask m).getLsbD (i % 4) = true then
                (if i < 4 then (if (x i).1 then (x i).2.1 else 0x7F800000#32)
                 else if i < 8 then (if (x (i % 4)).1 then (x (i % 4)).2.2.1 else 0)
                 else if i < 12 then (if (x (i % 4)).1 then (x (i % 4)).2.2.2 else 0)
                 else if (x (i % 4)).1 then 1 else 0)
              else (s.row r).lane i) m (fun i => decide (i < 4) && (s.mask m).getLsbD i && (x i).1))
      ∧ (∃ t, exec (.splt m d a b) s = .next t
          ∧ WroteRow s t d (if (s.mask m).getLsbD 0 then 0x00FF else 0) (fun i => (splat (s.row a) (s.row b)).getD i 0) 0)
      ∧ (let ins := fun l k => edgeIn (s.row a) (((s.row b).lane 0).toInt + (l % 4 : Nat)) (((s.row b).lane 1).toInt + (l / 4 : Nat)) k
        ∃ t, exec (.edge m d a b) s = .next t
          ∧ WroteRows s t (fun r l => if r = d ∧ (s.mask m).getLsbD l = true then
                BitVec.ofNat 32 ((if ins l 0 then 1 else 0) + (if ins l 1 then 2 else 0) + (if ins l 2 then 4 else 0))
              else (s.row r).lane l) m (fun l => (s.mask m).getLsbD l && (ins l 0 && ins l 1 && ins l 2)))
      ∧ (∃ t, exec (.texd m d a b) s = .next t
          ∧ WroteRow s t d (s.mask m) (fun l => let q := ((s.row b).lane l).toNat / 16 % 8
              t4Texel ((s.row a).lane (2 * q)) ((s.row a).lane (2 * q + 1)) (((s.row b).lane l).toNat % 16)) 0))
  ∧ (∀ (m : MaskCode) (d a b : RowCode) s bs, ReadsLocal s (s.me.csr 0x0C0) 32 32 bs →
      let rows := fun (f g : Nat → W32) (r : RowCode) i =>
        if r = d + 1 ∧ (s.mask m).getLsbD i = true then g i else if r = d ∧ (s.mask m).getLsbD i = true then f i else (s.row r).lane i
      (TexDesc.parse bs = none → ∃ t, exec (.texl m d a b) s = .next t
        ∧ WroteRows s t (rows (fun _ => 0xFFFFFFFF) (fun _ => 0xFFFFFFFF)) 0 (fun _ => true))
      ∧ (∀ x (q r : Nat → Place), TexDesc.parse bs = some x →
        let act := (List.range 16).filter (fun i => (s.mask m).getLsbD i)
        let g := fun i => x.region ((s.row a).lane i) ((s.row b).lane i)
        let at' := fun (base : Word) i => base + BitVec.ofNat 64 (4 * g i)
        let u := if x.minmap = 0 ∨ act = [] then s else s.acquire .device
        (x.minmap ≠ 0 → ∀ i ∈ act, Loads u (at' x.minmap i) 4 (q i)) →
        (x.feedback ≠ 0 → ∀ i ∈ act, u.check s.cur (at' x.feedback i) 4 4 .atomic = .ok (r i)) →
        let want := min (bits (s.me.csr 0x0C1) 3 0) (x.levels - 1)
        let res := fun i => if x.minmap = 0 then 0 else min (leValue (u.loadBytes s.cur.core (q i) 4)) (x.levels - 1)
        let v := if x.feedback = 0 then u
          else act.foldl (fun z i => (z.atomicAt (at' x.feedback i) (r i) 6 .w (BitVec.ofNat 64 want) 0 .device .relaxed).2) u
        let tx := fun i => x.texel ((s.row a).lane i) ((s.row b).lane i) (max want (res i))
        ∃ t, exec (.texl m d a b) s = .next t
          ∧ WroteRows v t (rows (fun i => BitVec.ofNat 32 (tx i).1) (fun i => BitVec.ofNat 32 (tx i).2)) 0 (fun _ => true)))

/-- B-form branches (R75, R76), JMP (R77) and JR (R78). -/
def Obligations.BranchesAndJumps : Prop :=
  (∀ (a b : Reg) (m : MaskCode) (off : BitVec 15) s,
      let br := fun (i : Instr) (c : Bool) =>
        ∃ t, exec i s = .next t ∧ WentTo s t (if c then s.me.pc + off.signExtend 64 * 4 else s.me.pc + 4)
      br (.beq a b off) (s.reg a == s.reg b) ∧ br (.bne a b off) (s.reg a != s.reg b)
        ∧ br (.blt a b off) (decide ((s.reg a).toInt < (s.reg b).toInt)) ∧ br (.bge a b off) (decide ((s.reg b).toInt ≤ (s.reg a).toInt))
        ∧ br (.bltu a b off) (decide ((s.reg a).toNat < (s.reg b).toNat)) ∧ br (.bgeu a b off) (decide ((s.reg b).toNat ≤ (s.reg a).toNat))
        ∧ br (.bmany m off) (decide (s.mask m ≠ 0)) ∧ br (.bmnone m off) (decide (s.mask m = 0))
        ∧ br (.bmall m off) (decide (s.mask m = 0xFFFF)))
  ∧ (∀ (a : Reg) (off : BitVec 25) s,
      (∃ t, exec (.jmp off) s = .next t ∧ WentTo s t (s.me.pc + off.signExtend 64 * 4))
        ∧ (badTarget (s.reg a) = false → ∃ t, exec (.jr a) s = .next t ∧ WentTo s t (s.reg a))
        ∧ (badTarget (s.reg a) = true → exec (.jr a) s = .next (s.trap 2 (s.reg a))
            ∧ exec (.callr a) s = .next (s.trap 2 (s.reg a))))

/-- CALL, CALLR and RET (R67, R78), the spill (R68) and the fill (R69). That the spill of a window takes one store-buffer entry is the model's choice of log entry 34, and the numbering of the physical registers of the frames that of log entry 4 (DEDUCED). -/
def Obligations.CallsAndReturns : Prop :=
  (∀ (off : BitVec 25) (a : Reg) s,
      (s.me.resident ≠ 5 → (∃ t, exec (.call off) s = .next t ∧ Called s t (s.me.pc + off.signExtend 64 * 4))
        ∧ (badTarget (s.reg a) = false → ∃ t, exec (.callr a) s = .next t ∧ Called s t (s.reg a)))
      ∧ (s.me.spilled = 0 → s.me.resident = 1 → ∃ t, exec .ret s = .next t ∧ t.me.state = .done 0)
      ∧ ((s.me.spilled ≠ 0 ∨ s.me.resident ≠ 1) → badTarget (s.reg 15) = true → exec .ret s = .next (s.trap 2 (s.reg 15)))
      ∧ (2 ≤ s.me.resident → badTarget (s.reg 15) = false → ∃ t, exec .ret s = .next t ∧ Left s t (s.reg 15)))
  ∧ (∀ (off : BitVec 25) s,
      (let nb := s.me.wbase - 136
       let ws := s.me.spillWrites
       s.me.resident = 5 →
        ((nb.toNat < s.me.wlimit.toNat ∨ s.me.spilled = 65535) → exec (.call off) s = .next (s.trap 11 nb))
        ∧ ∀ ps x, s.me.wlimit.toNat ≤ nb.toNat → s.me.spilled ≠ 65535 →
          s.checkDwords nb (ws.map (·.1)) .write = (.ok x, ps) → s.recordMiss nb .write = none → s.storeFull s.cur = false →
          ∃ t, exec (.call off) s = .next t ∧ t.me.csr 0x021 = nb ∧ t.me.spilled = s.me.spilled + 1 ∧ t.me.resident = 5
            ∧ t.me.wptr = (s.me.wptr + 16) % 88 ∧ t.me.pc = s.me.pc + off.signExtend 64 * 4 ∧ t.reg 15 = s.me.pc + 4
            ∧ t.myCore.stores = s.myCore.stores ++ [⟨s.cur.slot, s.myCore.serial, s.me.ilSeen, ps.zip (ws.map (fun w => wordBytes w.2)), none⟩])
      ∧ (let nb := s.me.wbase
         ∀ ps qs x y, s.me.spilled ≠ 0 → s.me.resident ≤ 1 → badTarget (s.reg 15) = false →
          s.checkDwords nb [0] .read = (.ok x, ps) →
          let f := s.fillLoads nb [0] ps
          let ns := lanes.filter (fun n => !(f.1.headD 0).getLsbD n)
          f.2.checkDwords nb (ns.map (fun n => 8 + 8 * n)) .read = (.ok y, qs) →
          let vs := (f.2.fillLoads nb (ns.map (fun n => 8 + 8 * n)) qs).1
          ∃ t, exec .ret s = .next t ∧ t.me.csr 0x021 = nb + 136 ∧ t.me.spilled = s.me.spilled - 1 ∧ t.me.resident = 1
            ∧ t.me.wptr = (s.me.wptr + 72) % 88 ∧ t.me.pc = s.reg 15
            ∧ (∀ n, n < 16 → (f.1.headD 0).getLsbD n = true → regNo t.me (8 + (s.me.wptr + 72 + n) % 88) = none)
            ∧ ∀ i, i < ns.length → s.me.conv.getLsbD (24 + ns.getD i 0) = false →
                regNo t.me (8 + (s.me.wptr + 72 + ns.getD i 0) % 88) = some (vs.getD i 0)))

/-- From the two halves of R67: the window, the place and the unmarked registers come back. -/
def Obligations.CallThenReturn : Prop :=
  ∀ (off : BitVec 25) s t u, s.me.wptr < 88 → 1 ≤ s.me.resident → s.me.resident < 5 → badTarget (s.me.pc + 4) = false →
    exec (.call off) s = .next t → exec .ret t = .next u →
    u.me.pc = s.me.pc + 4 ∧ u.me.wptr = s.me.wptr ∧ u.me.resident = s.me.resident
      ∧ (∀ n, n < 8 → regNo u.me n = regNo s.me n)
      ∧ ∀ k, k < 23 → s.me.conv.getLsbD k = false → s.me.conv.getLsbD (24 + k) = false →
          regNo u.me (8 + (s.me.wptr + k) % 88) = regNo s.me (8 + (s.me.wptr + k) % 88)

/-- R82, with where a trap goes: the handler (Delivered says what R65 does) or, without one, the end of the thread or of the context. -/
def Obligations.Traps : Prop :=
  ∀ (a : Reg) (w : W32) s,
    exec (.trap a) s = .next (s.trap 15 (s.reg a)) ∧ exec .brk s = .next (s.trap 14 0)
      ∧ exec (.illegal w) s = .next (s.trap 1 (w.setWidth 64))
      ∧ ∀ cause tval, let u := s.leaveHitch s.cur
        (u.me.ownHandler cause = true → Delivered u (s.trap cause tval) cause tval)
        ∧ (u.me.ownHandler cause = false → let t := s.trap cause tval
          t.me.csr 1 = BitVec.ofNat 64 cause ∧ t.me.csr 2 = s.me.pc ∧ t.me.csr 3 = tval
            ∧ (s.me.sup = false → t.me.state = .done (BitVec.allOnes 64))
            ∧ (s.me.sup = true → (s.ctx s.me.ctx).state = .active → (t.ctx s.me.ctx).state = .failed))

/-- R66: its word, and its effect in either mode whatever INTRAP and the call depth; also the lunge record (R112). -/
def Obligations.TrapReturn : Prop :=
  encode .eret = some 0x62000002 ∧ ∀ s : State, ∃ t, exec .eret s = .next t ∧ Aside s t ∧ RegsSame s t ∧ RowsSame s t ∧ MasksSame s t
    ∧ t.me.state = .ready ∧ t.me.pc = s.me.csr 2
    ∧ (∀ b, b < 64 → (t.me.csr 0).getLsbD b = if b = 2 then false
        else if b = 0 ∧ s.me.sup = true then (s.me.csr 0).getLsbD 1 else (s.me.csr 0).getLsbD b)
    ∧ t.me.csr 0x081 = s.me.csr 0x081 + 1 ∧ (∀ n, n ≠ 0 → n ≠ 0x081 → t.me.csr n = s.me.csr n)
    ∧ t.me.wptr = s.me.wptr ∧ t.me.resident = s.me.resident ∧ t.me.spilled = s.me.spilled ∧ t.me.lunge = none
    ∧ (∀ r, s.me.lunge = some r → t.me.replay = if s.me.csr 2 = r.addr + 4 + BitVec.ofNat 64 (4 * r.j) then some r else none)

/-- EXIT (R84), YIELD (R83), WFE (R85), IPF (R87) and CHKPT (R86, R259). -/
def Obligations.ThreadEndAndWaits : Prop :=
  (∀ (a : Reg) s,
      (∃ t, exec (.exit a) s = .next t ∧ t.me.state = .done (s.reg a) ∧ t.me.hitch = none ∧ t.me.resident = 1
        ∧ t.me.spilled = 0
        ∧ (s.cur.slot ≠ 0 → ∀ n, n < 11 → n ≠ s.cur.slot → ((t.core s.cur.core).thread n).latch = true)
        ∧ ∀ c p, t.loadByte c p = s.loadByte c p)
      ∧ (s.me.hitch = none → ∃ t, exec .yield s = .next t ∧ Behind s t ∧ RegsSame s t ∧ RowsSame s t ∧ MasksSame s t
        ∧ (∀ n, n < 11 → t.me.yieldMask.getLsbD n = decide (n ≠ s.cur.slot ∧ (s.myCore.thread n).state = .ready))
        ∧ (∀ n, n < 11 → n ≠ s.cur.slot → (t.myCore.thread n).latch = true) ∧ t.me.latch = s.me.latch
        ∧ ∀ c p, t.loadByte c p = s.loadByte c p)
      ∧ (s.me.latch = true → ∃ t, exec .wfe s = .next t ∧ WentOn (s.updMe (fun x => { x with latch := false })) t)
      ∧ (s.me.latch = false → ∃ t, exec .wfe s = .next t ∧ Waits s t .latch .wfe)
      ∧ (∃ t, exec (.ipf a) s = .next t ∧ WentOn s t))
  ∧ (∀ (a : Reg) s, let v := s.reg a
      (s.myCore.line = false → ∃ t, exec (.chkpt a) s = .next t ∧ WentOn s t)
      ∧ (s.myCore.line = true → (bits v 2 0 ≠ 0 ∨ addrClass v ≠ .global) → exec (.chkpt a) s = .next (s.trap 18 v))
      ∧ ∀ p q, s.myCore.line = true → (∀ e x, p ≠ .remote e x ∧ q ≠ .remote e x) → bits v 2 0 = 0 → addrClass v = .global → v.toNat % 65536 + 40 ≤ 65536 →
        s.check s.cur v 40 8 .read = .ok p → s.meetsBad s.cur.core p 40 = false →
        let n := 40 + 16 * bits (dwordAt (s.loadBytes s.cur.core p 40) 0) 55 48
        bits (dwordAt (s.loadBytes s.cur.core p 40) 0) 55 48 ≤ 32 →
        v.toNat % 65536 + n ≤ 65536 → s.check s.cur v n 8 .read = .ok q → s.meetsBad s.cur.core q n = false →
        (tableOk (dwordsOf (s.loadBytes s.cur.core q n)) = false → exec (.chkpt a) s = .next (s.trap 18 v))
        ∧ (tableOk (dwordsOf (s.loadBytes s.cur.core q n)) = true → ∃ t, exec (.chkpt a) s = .next t ∧ Behind s t
          ∧ t.me.state = .parked false none ∧ t.me.table = dwordsOf (s.loadBytes s.cur.core q n)
          ∧ RegsSame s t ∧ RowsSame s t ∧ MasksSame s t ∧ ∀ c p, t.loadByte c p = s.loadByte c p))

/-- Steps that a core, a die or a context takes on its own. That the event of a deadlock enters the queue of IO0 alone is log entry 28; which dies a mailbox command goes to is log entry 16; what other dies see of a drained store log entry 8. -/
def Obligations.CoreEvents : Prop :=
  (∀ s : State,
      (∀ c e r, (s.core c).stores = e :: r → (∀ f ∈ r, e.serial < f.serial) →
        s.strWaits c e = false →
        ∃ t, exec (.storeBufferDrain c e.slot) s = .next t ∧ (t.core c).stores = r
          ∧ (MemOk s → (∀ x ∈ s.stale, x.die ≠ dieOf c) → ∀ p, (∀ d a, p ≠ .remote d a) → t.loadByte c p = s.loadByte c p))
      ∧ (∀ c bs, ∃ t, exec (.cflagsAccrual c bs) s = .next t
          ∧ (t.cluster c).cflags = (s.cluster c).cflags ||| (bs &&& (s.cluster c).onTheWay)
          ∧ (t.cluster c).onTheWay = (s.cluster c).onTheWay &&& ~~~bs
          ∧ (∀ k, k ≠ c → t.cluster k = s.cluster k) ∧ (∀ k, t.core k = s.core k) ∧ deviceRest t = deviceRest s)
      ∧ (∀ c n w lim, (s.thread ⟨c, n⟩).state = .blocked w lim → w.limited = true → lim ≠ 0 → s.waitOver ⟨c, n⟩ w = false →
          (s.ctx (s.thread ⟨c, n⟩).ctx).state = .active →
          exec (.waittoExpiry c n) s = .next (s.trapAt ⟨c, n⟩ 6 ((s.thread ⟨c, n⟩).word.setWidth 64)))
      ∧ (∀ c n v, (s.core c).line = true → s.serviceCore (s.coreCtx c) ≠ some c → (s.thread ⟨c, n⟩).state = .blocked .latch v →
          exec (.chkmaxExpiry c n) s = .next ((s.hardPark c).parkProgress (s.coreCtx c)))
      ∧ (∀ c n l, (s.cluster c).icMisses = [n] → (s.thread n).state = .blocked .icache l →
          ∃ t, exec (.instructionCacheFill c) s = .next t ∧ (t.thread n).state = .ready ∧ (t.cluster c).icMisses = []))
  ∧ (∀ die m rest s, (s.die die).mailbox = m :: rest →
      (∀ d e, d < 4 → e ∈ ((s.updDie die (fun x => { x with mailbox := rest })).die d).mailbox → e.is m.hdr = true →
        ∃ t, exec (.mailboxCommand die) s = .next t ∧ t = s.updDie die (fun x => { x with mailbox := rest }))
      ∧ (∀ h b c₀, m = ⟨h, 0x24, .preempt, b⟩ → Waiting s die m → h.ctx < 16 → (s.ctx h.ctx).state = .active →
        (∀ c ∈ s.paddockCores h.ctx, ∀ p ∈ (s.core c).threads, p.2.state.live = true → (p.2.csr 0x051).setWidth 32 ≠ 0#32) →
        c₀ ∈ s.paddockCores h.ctx → s.serviceCore h.ctx ≠ some c₀ → (s.core c₀).still = false →
        ∃ t, exec (.mailboxCommand die) s = .next t ∧ (t.die die).mailbox = rest ∧ (t.ctx h.ctx).park = some (.preempt h)
          ∧ ∀ c ∈ s.paddockCores h.ctx, (t.core c).line = true ∧ (t.core c).hardNow = false
            ∧ ∀ n, n < 11 → ((t.core c).thread n).latch = true ∧ ((t.core c).thread n).state = ((s.core c).thread n).state
              ∧ (((s.core c).thread n).state.live = true →
                  ((t.core c).thread n).chkSample = (((s.core c).thread n).csr 0x051).setWidth 32)))
  ∧ (∀ s : State,
      (∀ x kid k, (s.ctx x).kernel kid = some k → k.state = .retiring → k.trigged = true → k.todo = [] → s.kernelQuiet x k = true →
        (s.ctx x).state = .active → k.tcb = 0 → k.held = none →
        ∃ t, exec (.kernelRetirement x kid) s = .next t ∧ (t.ctx x).kernel kid = none
          ∧ ∀ j, j ≠ kid → (t.ctx x).kernel j = (s.ctx x).kernel j)
      ∧ (∀ d x h, (s.die d).swaps.contains (x, h) = true → (s.die d).resident.length < 256 →
        ∃ t, exec (.queueSwapComplete d x h) s = .next t ∧ (t.die d).resident = (s.die d).resident ++ [(x, h)]
          ∧ (t.die d).swaps.contains (x, h) = false ∧ (∀ e, e ≠ d → t.die e = s.die e) ∧ ∀ c p, t.loadByte c p = s.loadByte c p)
      ∧ (∀ d x h v, (s.die d).swaps.contains (x, h) = true → 256 ≤ (s.die d).resident.length →
        (s.die d).resident.find? (fun r => !((s.ctx r.1).queue r.2).pinned) = some v →
        ∃ t, exec (.queueSwapComplete d x h) s = .next t
          ∧ (t.die d).resident = (s.die d).resident.filter (fun r => r != v) ++ [(x, h)])
      ∧ (∀ x, (s.ctx x).state = .active → (s.ctx x).declared = false → s.quiet x = true →
        ∃ t, exec (.deadlockDeclaration x) s = .next t ∧ (t.ctx x).declared = true
          ∧ (∀ q, q ≠ 0 → t.io q = s.io q)
          ∧ ∀ c n, t.thread ⟨c, n⟩ = { s.thread ⟨c, n⟩ with latch := (t.thread ⟨c, n⟩).latch }))
  ∧ (∀ s x kid k p, (s.ctx x).kernel kid = some k → k.state = .retiring → k.trigged = true → k.todo = [] → s.kernelQuiet x k = true →
      (s.ctx x).state = .active → k.tcb ≠ 0 → k.held = none → MemOk s →
      let die := s.firstDie x
      let c := 512 * die
      s.tcbPlace x die k.tcb = .ok p → (∀ e y, p ≠ .remote e y) →
      let u := s.dirtyAt (32 * die) x k.tcb
      let bs := u.homeBytes c p 64
      let w := u.writeAt c (p.plus 16) (wordBytes (dwordAt bs 16 ||| 0x30))
      let entry := fun (n : Nat) => dwordAt bs (24 + 8 * n)
      let none' := fun (n : Nat) => n < min 5 (tcbNsucc bs) → (entry n).getLsbD 0 = true
      ((∀ n, none' n) → ∃ t, exec (.kernelRetirement x kid) s = .next t ∧ (t.ctx x).kernel kid = none
        ∧ (∀ j, j ≠ kid → (t.ctx x).kernel j = (s.ctx x).kernel j)
        ∧ ∀ d y, (∀ e a, y ≠ .remote e a) → t.memByte d y = w.memByte d y)
      ∧ (∀ n q, n < min 5 (tcbNsucc bs) → (entry n).getLsbD 0 = false → (∀ m, m ≠ n → none' m) →
        let va := BitVec.ofNat 64 ((entry n).toNat / 64 * 64)
        s.tcbPlace x die va = .ok q → (∀ e y, q ≠ .remote e y) →
        let v := w.dirtyAt (32 * die) x va
        let cs := v.homeBytes c q 64
        let pred := bits (dwordAt cs 0) 31 0
        let due := pred = 1 ∧ tcbState cs = 1
        let id : W32 := BitVec.ofNat 32 (bits (dwordAt cs 0) 63 32)
        ∃ t, exec (.kernelRetirement x kid) s = .next t ∧ (t.ctx x).kernel kid = none
          ∧ (∀ j, j ≠ kid → (due → j ≠ id) → (t.ctx x).kernel j = (s.ctx x).kernel j)
          ∧ (∀ y, due → id ≠ kid → (s.ctx x).kernel id = some y → y.state = .pending →
            ∃ z, (t.ctx x).kernel id = some z ∧ z.state = (if y.card.count = 0 then .retiring else .queued))
          ∧ ∀ d y, (∀ e a, y ≠ .remote e a) → t.memByte d y =
            (if due then ((v.writeAt c q (leBytes 4 0)).writeAt c (q.plus 16) (wordBytes (dwordAt cs 16 ^^^ 0x30))).memByte d y
             else if pred = 0 then v.memByte d y else (v.writeAt c q (leBytes 4 (pred - 1))).memByte d y)))

/-- Landings (R201, R279, R329), walks (R176, R182) and fault messages (R184, R185). How many flits a message is, and which message a list of flits is, are log entry 10; that a message to another device counts as on its way until it may have landed there is log entry 33. That it leaves whenever the port has room for its flits, whatever the credits, is the model's choice of log entry 25. -/
def Obligations.MessagesAndFaults : Prop :=
  (∀ i (m : Msg) s, s.msgs[i]? = some m → s.mayLand m = true →
      (∀ off ctr pl, m.dev = s.devNum → m.kind = .send off ctr pl →
        (∀ p ∈ s.ctxs, s.serviceCore p.1 = some m.core → p.2.evWait = []) → (s.core m.core).mem.wf = true →
        ∃ t, exec (.messageLanding i) s = .next t ∧ t.msgs = s.msgs.eraseIdx i
          ∧ (∀ k, k < pl.length → t.memByte m.core (.loc (off + k)) = pl.getD k 0)
          ∧ (∀ a, a < off ∨ off + pl.length ≤ a → t.memByte m.core (.loc a) = s.memByte m.core (.loc a))
          ∧ (∀ n, (t.core m.core).counter n = (s.core m.core).counter n + (if n = ctr then 1 else 0))
          ∧ (∀ n, n < 11 → (t.core m.core).thread n = { (s.core m.core).thread n with latch := true })
          ∧ (∀ c, c ≠ m.core → t.core c = s.core c) ∧ t.hbm = s.hbm ∧ t.weight = s.weight)
      ∧ (∀ ray a, m.dev = s.devNum → m.kind = .answer ray a →
        ((s.core m.core).arrivals.length < 16 →
          ∃ t, exec (.messageLanding i) s = .next t ∧ t.msgs = s.msgs.eraseIdx i
            ∧ (t.core m.core).arrivals = (s.core m.core).arrivals ++ [⟨m, ray, a⟩]
            ∧ (∀ n, n < 11 → (t.core m.core).thread n = { (s.core m.core).thread n with latch := true })
            ∧ (∀ c, c ≠ m.core → t.core c = s.core c) ∧ (t.core m.core).mem = (s.core m.core).mem ∧ t.hbm = s.hbm ∧ t.weight = s.weight)
        ∧ (16 ≤ (s.core m.core).arrivals.length → ∃ t, exec (.messageLanding i) s = .next t ∧ t = s))
      ∧ (∀ p, let fs := (Config.messageFlits s.freeCount).take 512
        m.dev ≠ s.devNum → s.routePort (ioOfDie (dieOf m.src.core)) m.dev = some p → (s.port p).room fs.length = true →
        ∃ t, exec (.messageLanding i) s = .next t ∧ t.msgs = s.msgs.eraseIdx i ∧ t.awayMsgs = s.awayMsgs ++ [(s.nextTag, m)]
          ∧ (t.port p).unacked.length = (s.port p).unacked.length + fs.length ∧ (∀ q, q ≠ p → t.port q = s.port q)
          ∧ (∀ c, t.core c = s.core c) ∧ t.hbm = s.hbm ∧ t.weight = s.weight)
      ∧ (∀ p, m.dev ≠ s.devNum → s.routePort (ioOfDie (dieOf m.src.core)) m.dev = some p →
        (s.port p).room ((Config.messageFlits s.freeCount).take 512).length = false →
        ∃ t, exec (.messageLanding i) s = .next t ∧ t = s)
      ∧ (m.dev ≠ s.devNum → s.routePort (ioOfDie (dieOf m.src.core)) m.dev = none →
        ∃ t, exec (.messageLanding i) s = .next t ∧ t = s))
  ∧ (∀ s : State,
      (∀ d e t' u, (s.coalAt d e).state = .walking → s.earlierWalk d (s.coalAt d e).seq = false →
        s.walk (512 * d) (s.coalAt d e).ctx (BitVec.ofNat 64 (s.coalAt d e).va) (s.coalAt d e).access (s.coalAt d e).user = (.ok t', u) →
        ∃ t, exec (.pageWalkComplete d e) s = .next t ∧ t = (u.fillTlbs d (s.coalAt d e).reqs t').releaseCoal d e .free)
      ∧ (∀ d e l r u, (s.coalAt d e).state = .walking → s.earlierWalk d (s.coalAt d e).seq = false →
        s.walk (512 * d) (s.coalAt d e).ctx (BitVec.ofNat 64 (s.coalAt d e).va) (s.coalAt d e).access (s.coalAt d e).user = (.error (l, r), u) →
        ∃ t, exec (.pageWalkComplete d e) s = .next t ∧ (t.coalAt d e).state = .reported
          ∧ t.faultMsgs = u.faultMsgs ++ [⟨(s.coalAt d e).ctx, (s.coalAt d e).record d e l r⟩])
      ∧ (∀ i m n, s.faultMsgs[i]? = some m → n < 8 → (s.ctx m.ctx).faultRec n = none → (∀ k, k < n → (s.ctx m.ctx).faultRec k ≠ none) →
        ∃ t, exec (.faultMessageArrival i) s = .next t ∧ t.faultMsgs = s.faultMsgs.eraseIdx i
          ∧ (t.ctx m.ctx).faultRec n = some { m.record with w3 := (s.readTime).1 }
          ∧ (∀ k, k ≠ n → (t.ctx m.ctx).faultRec k = (s.ctx m.ctx).faultRec k)
          ∧ (t.ctx m.ctx).dropFlag = (s.ctx m.ctx).dropFlag
          ∧ ∀ c, s.serviceCore m.ctx = some c → ∀ n, n < 11 → ((t.core c).thread n).latch = true)
      ∧ (∀ i m, s.faultMsgs[i]? = some m → (∀ k, k < 8 → (s.ctx m.ctx).faultRec k ≠ none) →
        ∃ t, exec (.faultMessageArrival i) s = .next t ∧ t.faultMsgs = s.faultMsgs.eraseIdx i
          ∧ (t.ctx m.ctx).dropFlag = true ∧ (t.ctx m.ctx).dropped = min 0xFFFFFFFF ((s.ctx m.ctx).dropped + 1)
          ∧ (t.ctx m.ctx).faults = (s.ctx m.ctx).faults
          ∧ ((s.coalAt m.record.die m.record.entry).state = .reported →
              (t.coalAt m.record.die m.record.entry).state = .unreported)))

/-- The deal decision and its order of choice (R245), chunk sizes (R225; which groups count is log entry 32), the start of a chunk (R228) and the encode engines (R247, R248). That a refused record's done word is written is R248; the bitstream is a free value (log entry 10). That an engine reads its records and frames and writes its done word through the NI of its queue's home die is the model's choice of log entry 28. -/
def Obligations.DealingAndEncoding : Prop :=
  ((∀ die s, let ws := s.works die
      let u := ws.foldl (fun s w => s.drainReserve die w) (ws.foldl (fun s w => s.dealTouch w.ctx w.handle) s)
      ((u.die die).choose (ws.filter (u.dealReady die)) = none → ∃ t, exec (.dealDecision die) s = .next t ∧ t = u)
      ∧ (∀ w, (u.die die).choose (ws.filter (u.dealReady die)) = some w →
          (u.die w.queue.home).isResident w.ctx w.handle = false → ∃ t, exec (.dealDecision die) s = .next t ∧ t = u)
      ∧ (∀ w g v, (u.die die).choose (ws.filter (u.dealReady die)) = some w →
          (u.die w.queue.home).isResident w.ctx w.handle = true →
          let d := u.updDie die (·.decided ws w)
          (d.asking w die ≠ [] → d.workAt w.ctx w.handle ((d.ctx w.ctx).queue w.handle) die = some v → d.asker v die = some g →
            ∃ t, exec (.dealDecision die) s = .next t ∧ t = d.fresh.dealTo die v g)
          ∧ (∀ l, d.asking w die = [] → d.placement w die = some l →
            let p := l.foldl (fun s cs => s.placeGroup w die cs) d
            p.workAt w.ctx w.handle ((p.ctx w.ctx).queue w.handle) die = some v → p.asker v die = some g →
            ∃ t, exec (.dealDecision die) s = .next t ∧ t = p.fresh.dealTo die v g)))
    ∧ (∀ x c kid first n arg born, n < 2 ^ 64 → let t := chunkThread x c kid first n arg born
        t.state = .ready ∧ t.ctx = x ∧ t.pc = c.entry ∧ t.reg 1 = 0xFFFFFFFFFFF80000 ∧ t.reg 2 = c.addr ∧ t.reg 8 = arg
          ∧ t.reg 9 = BitVec.ofNat 64 n ∧ (∀ r : Reg, 10 ≤ r.toNat → t.reg r = 0) ∧ t.csr 0x000 = 0
          ∧ t.csr 0x021 = 0xFFFFFFFFFFF80000 ∧ t.csr 0x022 = 0xFFFFFFFFFFF80000 - BitVec.ofNat 64 c.stack
          ∧ t.csr 0x004 = c.tvec &&& ~~~3 ∧ t.csr 0x040 = BitVec.ofNat 64 c.level
          ∧ t.csr 0x051 = (if c.chk then c.chkmax.setWidth 64 else 0x100) ∧ t.csr 0x050 = 0x100000 ∧ t.csr 0x0F0 = BitVec.ofNat 64 first ∧ t.csr 0x0F1 = BitVec.ofNat 64 (first + n)
          ∧ t.csr 0x0F2 = arg ∧ t.csr 0x0F3 = kid.setWidth 64 ∧ t.resident = 1 ∧ t.spilled = 0)
    ∧ (∀ die w (s : State), let gs := (s.ctx w.ctx).groupsOf w.kid
      (w.queue.kind = .card → w.card.ord = false → s.dealGroups die w = (gs.filter (fun g => g.die == die)).length)
        ∧ (w.queue.kind = .card → w.card.ord = true → s.dealGroups die w = gs.length)
        ∧ (w.queue.kind = .node → s.dealGroups die w = gs.length))
    ∧ (∀ (d : Die) ws, (d.choose ws = none ↔ ws = []) ∧ ∀ w, d.choose ws = some w → w ∈ ws ∧ ∀ v ∈ ws,
      let age := fun (z : Work) => d.age z.ctx z.handle
      let late := fun (z : Work) => 8 * 4096 ≤ age z
      let prio := fun (z : Work) => min 7 (z.queue.prio + age z / 4096)
      let next := fun (z : Work) => (z.handle + 4096 - d.lastDealt - 1) % 4096
      (late v → late w ∧ age v ≤ age w)
      ∧ ((late v ∧ age v = age w) ∨ (¬ late v ∧ ¬ late w) → prio v ≤ prio w
        ∧ (prio v = prio w → v.queue.depth ≤ w.queue.depth
          ∧ (v.queue.depth = w.queue.depth → v.ctx < 1024 → w.ctx < 1024 → next w ≤ next v))))
    ∧ (∀ u m g, 1 ≤ g → chunkSize u m g = min u (max m ((u + 4 * g - 1) / (4 * g)))))
  ∧ (∀ eng x h q p s, (s.encoder eng).held = none → (s.encoder eng).owes = none → s.encoderQueue eng = some (x, h, q) →
      s.encTranslate x q.home (q.base + BitVec.ofNat 64 (64 * q.head)) .copyRead = .ok p →
      let f : Frame := dwordsOf (s.engineBytes (512 * q.home) p 64)
      let r := s.readBy (512 * q.home) [(p, 64)]
      let cs := f.reads.map (fun a => (a.1, a.2, r.encTranslate x q.home a.1 .copyRead))
      let u := r.readBy (512 * q.home) (cs.filterMap (fun a => match a.2.2 with | .ok p => some (p, a.2.1) | _ => none))
      let g := fun (q : Queue) => { q with head := (q.head + 1) % max 1 q.capacity, occupied := q.occupied - 1, undealt := q.undealt - 1 }
      let sent := fun (t : State) => ∃ m, (t.encoder eng).sent = (s.encoder eng).sent ++ [m]
        ∧ (f.endpoint, m.conn) ∈ (s.encoder eng).binds ∧ m.w0 = f.seq
        ∧ m.w1 = BitVec.ofNat 64 (f.codec * 2 ^ 32 + m.bits.length % 2 ^ 32) ∧ m.w2 = BitVec.ofNat 64 (bits (f.w 6) 1 0)
        ∧ (∀ k, s.uetConn m.conn = some k → k.rod = true → m.entropy = Config.entropy m.conn)
        ∧ ∃ n, m.frames = s.framed m.conn n (wordBytes m.w0 ++ wordBytes m.w1 ++ wordBytes m.w2 ++ leBytes 8 0 ++ m.bits);
      (f.refused (s.encoder eng) = false → s.frameFailed eng x h = false → (s.encoder eng).doneFails = false →
        (∀ a ∈ f.reads, ∃ p, r.encTranslate x q.home a.1 .copyRead = .ok p) →
        (f.done = 0 → ∃ t, exec (.encodeFrame eng) s = .next t ∧ (t.ctx x).queue h = g ((s.ctx x).queue h) ∧ sent t
          ∧ (∀ c p, t.core c = u.core c ∧ ((∀ e a, p ≠ .remote e a) → t.memByte c p = s.memByte c p)))
        ∧ (∀ d, f.done ≠ 0 → u.fresh.encTranslate x q.home f.done .copyWrite = .ok d → (∀ e a, d ≠ .remote e a) →
          ∃ t, exec (.encodeFrame eng) s = .next t ∧ (t.ctx x).queue h = g ((s.ctx x).queue h) ∧ sent t
            ∧ ∀ c a, t.memByte c a
              = ((u.fresh.dirtyAt (32 * q.home) x f.done).writeAt (512 * q.home) d (wordBytes f.seq)).memByte c a))
      ∧ (∀ d, f.refused (s.encoder eng) = true ∨ s.frameFailed eng x h = true → (s.encoder eng).doneFails = false →
        f.done ≠ 0 → doneOk f.done = true →
        r.encTranslate x q.home f.done .copyWrite = .ok d →
        ∃ t, exec (.encodeFrame eng) s = .next t ∧ (t.ctx x).queue h = g ((s.ctx x).queue h)
          ∧ (t.encoder eng).sent = (s.encoder eng).sent
          ∧ ∀ c a, t.memByte c a
            = ((r.dirtyAt (32 * q.home) x f.done).writeAt (512 * q.home) d (wordBytes (BitVec.allOnes 64))).memByte c a))

/-- The harness ports (R325-R329) and the front ports (R331). Which flits make a message is a free value (log entry 10); the numbering of connections is log entry 31. That forwarding pays no regard to credits, and that a flit is held where the buffer of its port is full, is the model's choice of log entry 25. -/
def Obligations.Links : Prop :=
  (∀ n s, let p := s.port n
      (∀ f : Flit, p.state = .up ∨ p.state = .degraded → flitOk f = true → f.type = 1 → f.seq = p.rxSeq →
        (s.io 0).held = [] → (s.io 1).held = [] →
        let took := fun (t : State) => (t.port n).rxSeq = p.rxSeq + 1 ∧ (t.port n).credits = p.credits + f.credits.toNat
          ∧ (t.port n).unacked = (p.acked f.ackseq).unacked
          ∧ (∃ a, (t.port n).sent = p.sent ++ [a] ∧ a.type = 2 ∧ a.seq = f.seq ∧ a.ackseq = p.rxSeq ∧ flitOk a = true)
        let mine := (p.received.filter (fun g => g.src == f.src)).map (·.payload) ++ [f.payload]
        (f.dst.toNat = s.devNum → Config.arrivedMessage f.src.toNat mine = none →
          ∃ t, exec (.harnessFlitReceive n f) s = .next t ∧ took t ∧ (t.port n).received = p.received ++ [f]
            ∧ ∀ q, q ≠ n → t.port q = s.port q)
        ∧ (∀ ns bs, f.dst.toNat = s.devNum → Config.arrivedMessage f.src.toNat mine = some (ns, bs) →
          ∃ t, ∃ u : State, exec (.harnessFlitReceive n f) s = .next t ∧ took t ∧ (t.port n).received = p.received.filter (fun g => g.src != f.src)
            ∧ t = u.takeArrived f.src.toNat ns bs ∧ u.msgs = s.msgs ∧ u.weights = s.weights ∧ ∀ q, q ≠ n → t.port q = s.port q)
        ∧ (f.dst.toNat ≠ s.devNum → f.hops = 15 →
          ∃ t, exec (.harnessFlitReceive n f) s = .next t ∧ took t ∧ (t.port n).received = p.received
            ∧ ∀ q, q ≠ n → t.port q = s.port q)
        ∧ (∀ q, f.dst.toNat ≠ s.devNum → f.hops ≠ 15 → s.routePort (ioOfPort n) f.dst.toNat = some q → q ≠ n →
          (s.port q).unacked.length < 512 →
          ∃ t, exec (.harnessFlitReceive n f) s = .next t ∧ took t ∧ (t.port n).received = p.received
            ∧ ∃ g, (t.port q).unacked = (s.port q).unacked ++ [g] ∧ g.flit.dst = f.dst ∧ g.flit.src = f.src
              ∧ g.flit.hops = f.hops + 1 ∧ g.flit.payload = f.payload ∧ g.flit.seq = (s.port q).txSeq)
        ∧ (f.dst.toNat ≠ s.devNum → f.hops ≠ 15 →
          (∀ q, s.routePort (ioOfPort n) f.dst.toNat = some q → q ≠ n ∧ 512 ≤ (s.port q).unacked.length) →
          ∃ t, exec (.harnessFlitReceive n f) s = .next t ∧ took t ∧ (t.port n).received = p.received
            ∧ (t.io (ioOfPort n)).held = [⟨{ f with hops := f.hops + 1 }, 0, s.flitNum, 0⟩]))
      ∧ (∀ f : Flit, p.state = .up ∨ p.state = .degraded → flitOk f = false →
        ∃ t a, exec (.harnessFlitReceive n f) s = .next t ∧ (t.port n).rxSeq = p.rxSeq ∧ (t.port n).unacked = p.unacked
          ∧ (t.port n).sent = p.sent ++ [a] ∧ a.type = 3 ∧ a.seq = f.seq ∧ flitOk a = true)
      ∧ (∀ seq i, p.state = .up ∨ p.state = .degraded → p.unacked.findIdx? (fun u => u.flit.seq == seq) = some i →
        ((p.unacked.drop i).any (fun u => 7 ≤ u.resent) = false → ∃ t, exec (.harnessNak n seq) s = .next t
          ∧ (t.port n).sent = p.sent ++ (p.unacked.drop i).map (·.flit) ∧ (t.port n).state = p.state
          ∧ (t.port n).unacked.map (·.flit) = p.unacked.map (·.flit))
        ∧ ((p.unacked.drop i).any (fun u => 7 ≤ u.resent) = true → ∃ t, exec (.harnessNak n seq) s = .next t
          ∧ (t.port n).state = .retrain))
      ∧ (p.state = .up ∨ p.state = .degraded → ∃ t, exec (.laneLockLoss n) s = .next t ∧ (t.port n).state = .retrain
          ∧ (t.port n).unacked = p.unacked
          ∧ t.mgmt.life.retrains.get 0 n = min (2 ^ 64 - 1) (s.mgmt.life.retrains.get 0 n + 1))
      ∧ (p.state = .training → p.waitRetry = false → (s.io 0).held = [] → (s.io 1).held = [] →
        (∃ t, exec (.linkTrainingResult n 4) s = .next t ∧ (t.port n).state = .up ∧ (t.port n).txSeq = 0 ∧ (t.port n).rxSeq = 0)
        ∧ (∃ t, exec (.linkTrainingResult n 3) s = .next t ∧ (t.port n).state = .degraded)
        ∧ (∀ l, l < 3 → p.attempts < 2 → ∃ t, exec (.linkTrainingResult n l) s = .next t ∧ (t.port n).state = .training
            ∧ (t.port n).attempts = p.attempts + 1 ∧ (t.port n).waitRetry = true)
        ∧ (∀ l, l < 3 → 2 ≤ p.attempts → ∃ t, exec (.linkTrainingResult n l) s = .next t ∧ (t.port n).state = .failed
            ∧ (t.port n).unacked = [] ∧ (t.io (ioOfPort n)).held.map (·.flit) = p.unacked.map (·.flit)))
      ∧ (p.state = .retrain → (s.io 0).held = [] → (s.io 1).held = [] →
        (∀ l, 3 ≤ l → ∃ t, exec (.linkTrainingResult n l) s = .next t ∧ (t.port n).state = (if l = 3 then .degraded else .up)
          ∧ (t.port n).txSeq = p.txSeq ∧ (t.port n).rxSeq = p.rxSeq ∧ (t.port n).attempts = 0
          ∧ (t.port n).unacked.map (·.flit) = p.unacked.map (·.flit) ∧ (∀ u ∈ (t.port n).unacked, u.resent = 0)
          ∧ (t.port n).sent = p.sent ++ p.unacked.map (·.flit))
        ∧ (∀ l, l < 3 → p.attempts < 2 → ∃ t, exec (.linkTrainingResult n l) s = .next t
          ∧ (∀ q, t.port q = if q = n then { p with attempts := p.attempts + 1, waitRetry := false } else s.port q))
        ∧ (∀ l, l < 3 → 2 ≤ p.attempts → ∃ t, exec (.linkTrainingResult n l) s = .next t ∧ (t.port n).state = .failed
            ∧ (t.port n).unacked = [] ∧ (t.io (ioOfPort n)).held.map (·.flit) = p.unacked.map (·.flit)))
      ∧ (p.state = .training → p.waitRetry = true → ∃ t a, exec (.trainingRetryTimer n) s = .next t
          ∧ (t.port n).waitRetry = false ∧ (t.port n).state = .training ∧ (t.port n).sent = p.sent ++ [a] ∧ a.type = 4))
  ∧ (∀ n c e (frame : List Byte) s, let before := ((s.uetConn c).map (·.packets)).getD 0;
      (∃ t, exec (.uetPacket n ⟨.unreliable, c, e, frame⟩) s = .next t ∧ (t.io (n / 2)).uetDropped = (s.io (n / 2)).uetDropped + 1)
      ∧ (∃ t, exec (.uetPacket n ⟨.rudIdempotent, c, e, frame⟩) s = .next t ∧ (t.io (n / 2)).uetDropped = (s.io (n / 2)).uetDropped + 1)
      ∧ (frame.length ≤ 9216 → n < 4 → c < 8192 → ioOfConn c = n / 2 →
        (∀ k, (s.io (n / 2)).keys.find? (fun k => k.1 == c) = some k → (Config.gcmOpens k.2 frame).isSome = true) →
        (∃ t, exec (.uetPacket n ⟨.rod, c, e, frame⟩) s = .next t ∧ t.uetConn c = some ⟨c, n, e, true, before + 1⟩ ∧ ∀ d, t.core d = s.core d)
        ∧ ∃ t, exec (.uetPacket n ⟨.rud, c, e, frame⟩) s = .next t ∧ t.uetConn c = some ⟨c, n, e, false, before + 1⟩ ∧ ∀ d, t.core d = s.core d)
      ∧ (9216 < frame.length ∨ 4 ≤ n ∨ 8192 ≤ c ∨ ioOfConn c ≠ n / 2 →
        exec (.uetPacket n ⟨.rod, c, e, frame⟩) s = .next s ∧ exec (.uetPacket n ⟨.rud, c, e, frame⟩) s = .next s))

/-- Context commands (R254, R255, R260, R262, R263): taken and posted (R14), then carried out. Statuses of refusals are log entry 15, which dies a command affects log entry 16, that a command takes a packet of its connection log entry 31; that the save area fits or not is a free value (log entry 6). -/
def Obligations.ContextCommands : Prop :=
  ∀ (h : CmdHdr),
    ((∀ c, Takes (.typoroContextCreate h c) h 0x01 (.contextCreate c)) ∧ Takes (.typoroTeardown h) h 0x02 .teardown
      ∧ Takes (.typoroPreempt h) h 0x24 .preempt ∧ (∀ p, Takes (.typoroResume h p) h 0x25 (.resume p))
      ∧ ∀ w0 w1, Takes (.typoroGroupMove h w0 w1) h 0x26 (.groupMove w0 w1))
    ∧ ∀ d b s, h.ctx < 16 →
    (∀ c p k ks, Waiting s d ⟨h, 0x01, .contextCreate c, b⟩ → (s.ctx h.ctx).state = .free → s.paddocks[c.paddock]? = some p →
      bits c.root 12 0 = 0 → bits c.root 63 46 = 0 → bits c.entry 1 0 = 0 → bits c.entry 63 56 = 0 → p.clusters = k :: ks →
      (Config.saveAreaFits s.freeCount = true → ∃ t, exec (.mailboxCommand d) s = .next t ∧ Answered s t h 0x01 0 []
        ∧ (t.ctx h.ctx).root = c.root.toNat ∧ (t.ctx h.ctx).entry = c.entry
        ∧ (p.state ≠ PadState.empty → (t.ctx h.ctx).state = .parked)
        ∧ (p.state = PadState.empty → (t.ctx h.ctx).state = .active ∧ (t.ctx h.ctx).paddock = some c.paddock
          ∧ let x := (t.core (16 * k)).thread 0
            x.state = .ready ∧ x.ctx = h.ctx ∧ x.pc = c.entry ∧ x.reg 1 = c.g1 ∧ x.sup = true
              ∧ x.csr 0x021 = c.wbase &&& ~~~7 ∧ x.csr 0x022 = c.wlimit &&& ~~~7))
      ∧ (Config.saveAreaFits s.freeCount = false → ∃ t, exec (.mailboxCommand d) s = .next t ∧ Answered s t h 0x01 3 []
        ∧ t.ctx h.ctx = s.ctx h.ctx))
    ∧ (Waiting s d ⟨h, 0x02, .teardown, b⟩ → (s.ctx h.ctx).state = .parked → (s.ctx h.ctx).paddock = none →
      ∃ t, exec (.mailboxCommand d) s = .next t ∧ Answered s t h 0x02 0 [] ∧ t.ctx h.ctx = Ctx.reset)
    ∧ (Waiting s d ⟨h, 0x24, .preempt, b⟩ → (s.ctx h.ctx).state = .parked →
      ∃ t, exec (.mailboxCommand d) s = .next t ∧ Answered s t h 0x24 2 [] ∧ t.ctx h.ctx = s.ctx h.ctx)
    ∧ (∀ p q, Waiting s d ⟨h, 0x25, .resume p, b⟩ → (s.ctx h.ctx).state = .parked → s.paddocks[p]? = some q →
      (q.state = PadState.empty → fits (s.clustersOf h.ctx) q.clusters = true → (s.ctx h.ctx).kernels = [] →
        (∀ v ∈ (s.ctx h.ctx).saved, v.merges = [] ∧ ∀ r ∈ v.data.rays, r.2.writes = []) →
        ∃ t, exec (.mailboxCommand d) s = .next t ∧ Answered s t h 0x25 0 [] ∧ (t.ctx h.ctx).state = .active
          ∧ (t.ctx h.ctx).paddock = some p ∧ (t.ctx h.ctx).clusters = q.clusters ∧ (t.ctx h.ctx).saved = [])
      ∧ (q.state ≠ PadState.empty ∨ fits (s.clustersOf h.ctx) q.clusters = false →
        ∃ t, exec (.mailboxCommand d) s = .next t ∧ Answered s t h 0x25 2 [] ∧ t.ctx h.ctx = s.ctx h.ctx))
    ∧ (∀ (w0 : Word) g, let k := bits w0 22 16
      Waiting s d ⟨h, 0x26, .groupMove w0 0, b⟩ → (s.ctx h.ctx).state = .active →
      bits w0 7 4 = 0 → w0.getLsbD 15 = false → bits w0 30 23 = 0 → bits w0 63 32 = 0 →
      s.groupAt h.ctx (bits w0 14 8 * 16 + bits w0 3 0) = some g → k ∈ s.clustersOf h.ctx →
      (∀ c ∈ g.cores, 16 * k + coreIdOf c ∈ s.freeCores h.ctx k g.kid) → g.state ≠ .retired → s.levelForbids g k = false →
      (∃ c ∈ g.cores, (s.core c).line = false) → s.groupFlying h.ctx g.cores = true →
      ∃ t, exec (.mailboxCommand d) s = .next t ∧ (t.ctx h.ctx).park = some (.move h g.id k (w0.getLsbD 31))
        ∧ t.replies = s.replies ∧ (∀ c, t.core c = s.core c)
        ∧ (t.ctx h.ctx).ranks = (s.ctx h.ctx).ranks.map (fun e =>
            (e.1, if rankV e.2 && rankDev e.2 == s.devNum && g.cores.contains (rankCore e.2) then e.2 ||| (1#64 <<< 62) else e.2)))

/-- Memory commands (R15), the weight-store window (R136), launches (R234) and queue commands (R239, R252). The clauses on TYPORO_MAP_MEMORY and TYPORO_UNMAP_MEMORY rest on log entry 13, the model's choice: the payload is pairs of an entry's physical address and its value or virtual address, addresses are 8-byte aligned and below 2^46; which die owns an address is log entry 13 too, the statuses log entry 15, the dies that a command goes to log entry 16, that a command takes a packet of its connection log entry 31, and that a host copy is one step under the translation at its start log entry 28. -/
def Obligations.MemoryAndQueueCommands : Prop :=
  (∀ (h : CmdHdr),
      ((∀ es, Takes (.typoroMapMemory h es) h 0x10 (.mapMemory es)) ∧ (∀ es, Takes (.typoroUnmapMemory h es) h 0x11 (.unmapMemory es))
        ∧ (∀ va bs, Takes (.typoroCopyToDevice h va bs) h 0x12 (.copyToDevice va bs))
        ∧ (∀ va n, Takes (.typoroCopyToHost h va n) h 0x13 (.copyToHost va n))
        ∧ Takes (.typoroWsWindowOpen h) h 0x40 .wsWindowOpen ∧ Takes (.typoroWsWindowClose h) h 0x41 .wsWindowClose)
      ∧ ∀ d b s, h.ctx < 16 → (s.ctx h.ctx).state = .active ∨ (s.ctx h.ctx).state = .parked →
      (∀ a v, Waiting s d ⟨h, 0x10, .mapMemory [(a, v)], b⟩ →
        (badEntry (a, v) = false → ∃ t, exec (.mailboxCommand d) s = .next t ∧ Answered s t h 0x10 0 []
          ∧ t.hbm = s.hbm.write a.toNat (wordBytes v) ∧ (∀ c, t.core c = s.core c) ∧ ∀ x, t.ctx x = s.ctx x)
        ∧ (badEntry (a, v) = true → ∃ t, exec (.mailboxCommand d) s = .next t ∧ Answered s t h 0x10 1 [] ∧ t.hbm = s.hbm))
      ∧ (∀ a va, Waiting s d ⟨h, 0x11, .unmapMemory [(a, va)], b⟩ → badEntry (a, va) = false →
        ∃ t, exec (.mailboxCommand d) s = .next t ∧ Answered s t h 0x11 0 []
        ∧ (∀ p ∈ t.dies, ∀ e ∈ p.2.l2, e.covers h.ctx va.toNat = false) ∧ ∀ p ∈ t.clusters, ∀ e ∈ p.2.l1, e.covers h.ctx va.toNat = false)
      ∧ (∀ va bs ps u, Waiting s d ⟨h, 0x12, .copyToDevice va bs, b⟩ → s.hostSpan h.ctx va bs.length .copyWrite = some (ps, u) →
        (bs.length ≤ 65536 → ((∀ p ∈ ps, p.1.isWeight = false) ∨ (s.ctx h.ctx).wsOpen = true ∧ (s.ctx h.ctx).kernelLive = false) →
          ∃ t, exec (.mailboxCommand d) s = .next t ∧ Answered s t h 0x12 0 []
            ∧ ∀ c p, t.loadByte c p = (u.writeSpan ioCore ps bs).loadByte c p)
        ∧ (bs.length ≤ 65536 → (∃ p ∈ ps, p.1.isWeight = true) →
          ((s.ctx h.ctx).wsOpen = false ∨ (s.ctx h.ctx).kernelLive = true) →
          ∃ t, exec (.mailboxCommand d) s = .next t ∧ Answered s t h 0x12 2 [] ∧ t.weight = s.weight))
      ∧ (∀ va n ps u, Waiting s d ⟨h, 0x13, .copyToHost va n, b⟩ → n ≤ 65536 → s.hostSpan h.ctx va n .copyRead = some (ps, u) →
        (∀ p ∈ ps, s.badAt ioCore p.1 p.2 = false) →
        ∃ t, exec (.mailboxCommand d) s = .next t ∧ Answered s t h 0x13 0 (u.spanBytes ioCore ps)
          ∧ ∀ c p, t.loadByte c p = (u.readBy ioCore ps).loadByte c p)
      ∧ (∀ va n, Waiting s d ⟨h, 0x13, .copyToHost va n, b⟩ → s.hostSpan h.ctx va n .copyRead = none →
        ∃ t, exec (.mailboxCommand d) s = .next t ∧ Answered s t h 0x13 4 [])
      ∧ (Waiting s d ⟨h, 0x40, .wsWindowOpen, b⟩ →
        ((s.ctx h.ctx).kernelLive = false → ∃ t, exec (.mailboxCommand d) s = .next t ∧ Answered s t h 0x40 0 []
          ∧ t.ctx h.ctx = { s.ctx h.ctx with wsOpen := true })
        ∧ ((s.ctx h.ctx).kernelLive = true → ∃ t, exec (.mailboxCommand d) s = .next t ∧ Answered s t h 0x40 2 []
          ∧ t.ctx h.ctx = s.ctx h.ctx))
      ∧ (Waiting s d ⟨h, 0x41, .wsWindowClose, b⟩ → ∃ t, exec (.mailboxCommand d) s = .next t ∧ Answered s t h 0x41 0 []
          ∧ t.ctx h.ctx = { s.ctx h.ctx with wsOpen := false }))
  ∧ (∀ (h : CmdHdr),
      ((∀ card tcb, Takes (.typoroLaunch h card tcb) h 0x20 (.launch card tcb))
        ∧ (∀ q, Takes (.typoroQueueCreate h q) h 0x21 (.queueCreate q)) ∧ (∀ n, Takes (.typoroQueueDestroy h n) h 0x22 (.queueDestroy n))
        ∧ ∀ n p, Takes (.typoroQueuePin h n p) h 0x23 (.queuePin n p))
      ∧ ∀ d b s, h.ctx < 16 → (s.ctx h.ctx).state = .active ∨ (s.ctx h.ctx).state = .parked →
      (∀ card c u, Waiting s d ⟨h, 0x20, .launch card 0, b⟩ → (s.ctx h.ctx).wsOpen = false → bits card 5 0 = 0 → bits card 63 56 = 0 →
        s.hostCard h.ctx card = .ok (some c, u) →
        (s.launchCode h.ctx c = 0 →
          ∃ t, exec (.mailboxCommand d) s = .next t ∧ Answered s t h 0x20 0 (wordBytes ((nextKid (s.ctx h.ctx).lastKid).setWidth 64))
            ∧ (t.ctx h.ctx).lastKid = nextKid (s.ctx h.ctx).lastKid)
        ∧ (s.launchCode h.ctx c ≠ 0 →
          ∃ t, exec (.mailboxCommand d) s = .next t
            ∧ Answered s t h 0x20 0 (wordBytes (BitVec.ofNat 64 (s.launchCode h.ctx c * 2 ^ 32)))
            ∧ t.ctx h.ctx = s.ctx h.ctx))
      ∧ (∀ q, Waiting s d ⟨h, 0x21, .queueCreate q, b⟩ → q.handle < 4096 → ((s.ctx h.ctx).queue q.handle).kind = .free →
        q.kind = .card → q.home < 4 → q.depth < 16 → q.prio < 8 → q.enc < 8 →
        ∃ t, exec (.mailboxCommand d) s = .next t ∧ Answered s t h 0x21 0 []
          ∧ let d := (t.ctx h.ctx).queue q.handle
            d.kind = .card ∧ d.home = q.home ∧ d.depth = q.depth ∧ d.prio = q.prio ∧ d.pinned = false ∧ d.kernels = [])
      ∧ (∀ n, Waiting s d ⟨h, 0x22, .queueDestroy n, b⟩ → n < 4096 → ((s.ctx h.ctx).queue n).kind ≠ .free →
        ((s.ctx h.ctx).queueInUse n = false →
          ∃ t, exec (.mailboxCommand d) s = .next t ∧ Answered s t h 0x22 0 [] ∧ ((t.ctx h.ctx).queue n).kind = .free
            ∧ (∀ k, k ≠ n → (t.ctx h.ctx).queue k = (s.ctx h.ctx).queue k) ∧ ∀ d, (h.ctx, n) ∉ (t.die d).resident)
        ∧ ((s.ctx h.ctx).queueInUse n = true →
          ∃ t, exec (.mailboxCommand d) s = .next t ∧ Answered s t h 0x22 2 [] ∧ t.ctx h.ctx = s.ctx h.ctx))
      ∧ (∀ n, n < 4096 → ((s.ctx h.ctx).queue n).kind ≠ .free →
        (Waiting s d ⟨h, 0x23, .queuePin n false, b⟩ → ∃ t, exec (.mailboxCommand d) s = .next t ∧ Answered s t h 0x23 0 []
          ∧ (t.ctx h.ctx).queue n = { (s.ctx h.ctx).queue n with pinned := false })
        ∧ (Waiting s d ⟨h, 0x23, .queuePin n true, b⟩ → s.pinnedOn ((s.ctx h.ctx).queue n).home < 224 →
          ∃ t, exec (.mailboxCommand d) s = .next t ∧ Answered s t h 0x23 0 []
            ∧ (t.ctx h.ctx).queue n = { (s.ctx h.ctx).queue n with pinned := true }
            ∧ (h.ctx, n) ∈ (t.die ((s.ctx h.ctx).queue n).home).resident)))

/-- Device commands (R253, R17, R328, R329, R335, R336, R342), and R333 for repeated and unknown ones. The layout of an event reply is log entry 13; status 2 for a connection that an engine cannot serve is log entry 15; that a paddock definition goes to the dies of its clusters is log entry 16; the numbering of connections by IO die, keys at that die, and that a command takes a packet of its connection are log entry 31. -/
def Obligations.DeviceCommands : Prop :=
  (∀ (h : CmdHdr), (∀ sets, Takes (.typoroPaddockDefine h sets) h 0x03 (.paddockDefine sets)) ∧
      (∀ (sets : List (List Nat)) d b s, h.ctx = 31 → Waiting s d ⟨h, 0x03, .paddockDefine sets, b⟩ →
        (∀ p ∈ s.paddocks, p.state = PadState.empty) → sets ≠ [] → sets.length ≤ 8 → (∀ l ∈ sets, l ≠ []) →
        (∀ c ∈ sets.flatten, c < 128 ∧ (s.cluster c).available = true) → sets.flatten.Nodup →
        ∃ t, exec (.mailboxCommand d) s = .next t ∧ Answered s t h 0x03 0 []
          ∧ t.paddocks.length = sets.length ∧ ∀ p ∈ t.paddocks, p.state = PadState.empty ∧ p.clusters.Pairwise (· ≤ ·))
      ∧ ∀ s,
      (∀ io n, CmdReady s h → badHdr h (.eventRead io n) = false → io < 2 → n < 256 → ∃ t, exec (.typoroEventRead h io n) s = .next t
        ∧ (∃ pl, Answered s t h 0x30 0 pl ∧ pl.length = 16 + 32 * ((s.io io).events.take n).length)
        ∧ t.io io = ((s.usePacket h.conn).io io).read n)
      ∧ (∀ n : BitVec 8, DevReady s h (.linkConfig (some n) [] []) →
        ∃ t, exec (.typoroLinkConfig h (some n) [] []) s = .next t ∧ Answered s t h 0x50 0 [] ∧ t.devNum = n.toNat)
      ∧ (∀ p, DevReady s h (.linkConfig none [(p, true)] []) → p < 36 → (s.port p).state = .down →
        ∃ t a, exec (.typoroLinkConfig h none [(p, true)] []) s = .next t
          ∧ Answered s t h 0x50 0 [] ∧ (t.port p).state = .training ∧ (t.port p).sent = (s.port p).sent ++ [a] ∧ a.type = 4
          ∧ ∀ q, q ≠ p → t.port q = s.port q)
      ∧ (∀ c (key : List Byte), DevReady s h (.linkConfig none [] [(c, key)]) → c < 8192 → key.length = 32 →
        ∃ t, exec (.typoroLinkConfig h none [] [(c, key)]) s = .next t
          ∧ Answered s t h 0x50 0 [] ∧ (t.io (ioOfConn c)).keys.find? (fun k => k.1 == c) = some (c, key))
      ∧ (∀ (dst : BitVec 8) p, DevReady s h (.routeSet dst (some p)) → p < 36 → (s.port p).state = .down →
        ∃ t, exec (.typoroRouteSet h dst (some p)) s = .next t
        ∧ Answered s t h 0x51 0 [] ∧ ∀ io, io < 2 → (t.io io).routes.find? (fun r => r.1 == dst.toNat) = some (dst.toNat, p))
      ∧ (∀ eng e c, DevReady s h (.encoderSetup eng [(e, some c)]) → eng < 8 → e < 64 →
        (s.serves eng c = true → ∃ t, exec (.typoroEncoderSetup h eng [(e, some c)]) s = .next t ∧ Answered s t h 0x60 0 []
          ∧ (t.encoder eng).binds.find? (fun b => b.1 == e) = some (e, c) ∧ ∀ k, k ≠ eng → t.encoder k = s.encoder k)
        ∧ (s.uetConn c ≠ none → s.serves eng c = false →
          ∃ t, exec (.typoroEncoderSetup h eng [(e, some c)]) s = .next t ∧ Answered s t h 0x60 2 [] ∧ ∀ k, t.encoder k = s.encoder k))
      ∧ (∀ nonce : List Byte, CmdReady s h → badHdr h (.attestationQuote nonce) = false → nonce.length = 32 →
        ∃ t pl, exec (.typoroAttestationQuote h nonce) s = .next t
        ∧ Answered s t h 0x70 0 pl ∧ pl.length = 4776 ∧ pl.take 4712 = s.quoteBody nonce
        ∧ pl.drop 4712 = leBytes 64 (Config.edSign Config.keySeed (s.quoteBody nonce)).toNat)
      ∧ (∀ (image : List Byte) es sig, DevReady s h (.patchLoad image) →
        (∀ x ∈ s.ctxs, x.2.state = .free ∨ x.2.state = .parked) → 32 ≤ image.length →
        let n := bits (dwordAt image 8) 7 0;
        n ≠ 0 → n ≤ 64 → parseEntries n (image.drop 32) = some (es, sig) → sig.length = 64 →
        s.patches.length + es.length ≤ 64 →
          ∃ t, exec (.typoroPatchLoad h image) s = .next t
            ∧ if bits (dwordAt image 0) 31 0 = Config.romVersion.toNat ∧ Config.patchSignatureHolds (image.take (image.length - 64)) sig = true then
                Answered s t h 0x80 0 [] ∧ t.patches = s.patches ++ es
              else Answered s t h 0x80 5 [] ∧ t.patches = s.patches))
  ∧ (∀ (h : CmdHdr) s,
      (∀ l, s.mgmt.powered = true → s.mgmt.ready = true → (∃ u, s.uetConn h.conn = some u ∧ u.rod = true ∧ u.endpoint = 0 ∧ u.packets ≠ 0) →
        (s.conn h.conn).lastSeq = some l → h.seq ≠ l + 1 →
        let u := s.usePacket h.conn;
        (s.inbox.countP (fun c => c.hdr.conn == h.conn) < 64 →
          ((l - h.seq).toNat < min 64 (s.conn h.conn).taken →
            (∀ r, (s.conn h.conn).stored.find? (fun r => r.seq == h.seq) = some r →
              ∃ t, exec (.typoroRepeatedCommand h) s = .next t ∧ t = { u with replies := s.replies ++ [r] })
            ∧ ((s.conn h.conn).stored.find? (fun r => r.seq == h.seq) = none →
              ∃ t, exec (.typoroRepeatedCommand h) s = .next t ∧ t = u))
          ∧ (min 64 (s.conn h.conn).taken ≤ (l - h.seq).toNat → ∃ t r, exec (.typoroRepeatedCommand h) s = .next t ∧ t = { u with replies := s.replies ++ [r] }
              ∧ r.status = 1 ∧ r.conn = h.conn ∧ r.seq = h.seq ∧ r.isReply = true ∧ r.length = 0 ∧ r.payload = []))
        ∧ (64 ≤ s.inbox.countP (fun c => c.hdr.conn == h.conn) → exec (.typoroRepeatedCommand h) s = .next s))
      ∧ (∀ op, CmdReady s h → ∃ t, exec (.typoroBadCommand h op) s = .next t ∧ Answered s t h op.toNat 1 []
          ∧ (∀ x, t.ctx x = s.ctx x) ∧ ∀ c, t.core c = s.core c))

/-- Bring-up and resets (R337, R340), trips (R339), the clock (R338), the lifetime record (R341), forwarded accesses (R178). That memory reads 0 after power-on, a reset and a power loss is log entries 2 and 25; that an answer leaves as die 0's traffic log entry 28. -/
def Obligations.PowerResetsAndForwarding : Prop :=
  (∀ (bad : List Nat) s,
      (s.mgmt.input = false → ∃ t, exec (.powerOn bad) s = .next t ∧ t.mgmt.input = true ∧ t.mgmt.cause = 0
        ∧ (bringsUp s.freeCount = true → CameUp t bad)
        ∧ (bringsUp s.freeCount = false → t.mgmt.powered = false ∧ t.mgmt.ready = false))
      ∧ (s.mgmt.input = true → bringsUp s.freeCount = true →
        (∀ ms, 10 ≤ ms → ∃ t, exec (.grcResetN ms bad) s = .next t ∧ CameUp t bad)
        ∧ ∃ t, exec (.smbusResetWrite bad) s = .next t ∧ CameUp t bad)
      ∧ (s.mgmt.input = true → bringsUp s.freeCount = false →
        (∀ ms, 10 ≤ ms → ∃ t, exec (.grcResetN ms bad) s = .next t ∧ t.mgmt.powered = false ∧ t.mgmt.ready = false)
        ∧ ∃ t, exec (.smbusResetWrite bad) s = .next t ∧ t.mgmt.powered = false ∧ t.mgmt.ready = false)
      ∧ (∀ ms, ms < 10 → exec (.grcResetN ms bad) s = .next s)
      ∧ (∀ r v, exec (.smbusWriteOther r v) s = .next s)
      ∧ (s.mgmt.input = true → ∃ t, exec .powerLoss s = .next t ∧ t.mgmt.input = false ∧ t.mgmt.powered = false ∧ t.hbm = []
          ∧ ∀ c, t.core c = State.reset.core c))
  ∧ (∀ (r : Sensors) s,
      (s.mgmt.input = true → s.mgmt.powered = true →
        (tripCause r ≠ 0 → ∃ t, exec (.sensorSample r) s = .next t ∧ t.mgmt.powered = false ∧ t.mgmt.ready = false
          ∧ t.mgmt.tripped = true ∧ t.mgmt.cause = tripCause r ∧ t.mgmt.life.trips = min (2 ^ 64 - 1) (s.mgmt.life.trips + 1)
          ∧ ∀ c, t.core c = State.reset.core c)
        ∧ (tripCause r = 0 → (∃ x ∈ r.dieTemp, 100 < x) → ∃ t, exec (.sensorSample r) s = .next t ∧ t.mgmt.step = min 12 (s.mgmt.step + 1)
          ∧ ∀ c, t.core c = s.core c))
      ∧ (s.mgmt.input = true → ∃ t, exec .lifetimeRecordWrite s = .next t ∧ t.mgmt.secs = s.mgmt.secs + 10
          ∧ t.mgmt.life.bins.get 0 (tempBin s.mgmt.hot.toNat) = min (2 ^ 64 - 1) (s.mgmt.life.bins.get 0 (tempBin s.mgmt.hot.toNat) + 1)
          ∧ t.mgmt.life.hours = (if (s.mgmt.secs + 10) % 3600 = 0 then min (2 ^ 64 - 1) (s.mgmt.life.hours + 1) else s.mgmt.life.hours)
          ∧ t.mgmt.nextCopy = 1 - s.mgmt.nextCopy % 2 ∧ ∀ c, t.core c = s.core c)
      ∧ (s.mgmt.powered = true → s.mgmt.coolRule = true → ∃ t, exec .coolantStepTimer s = .next t
          ∧ t.mgmt.step = min 12 (s.mgmt.step + 1))
      ∧ (s.mgmt.coolRule = false → exec .coolantStepTimer s = .next s)
      ∧ (∀ d, s.mgmt.powered = true → d < 4 → ∃ t, exec (.voltageDroop d) s = .next t
          ∧ t.mgmt.life.droops.get 0 d = min (2 ^ 64 - 1) (s.mgmt.life.droops.get 0 d + 1)
          ∧ (∀ e, e ≠ d → t.mgmt.life.droops.get 0 e = s.mgmt.life.droops.get 0 e) ∧ ∀ c, t.core c = s.core c))
  ∧ (∀ x (va : Word) (user : Bool) (dev : BitVec 8) s,
      let go := fun (what : RemoteKind) => exec (.forwardedAccess x va user ⟨dev, what⟩) s
      let answers := fun (t u : State) (a : Option (List Byte)) => t.outbox = u.outbox ++ [⟨none, 0, 0, dev.toNat, .answer a⟩]
        ∧ ∀ c p, t.loadByte c p = u.loadByte c p
      let dirtied := fun (u : State) (e : TlbEnt) => match e.owesD with
        | some a => u.setDirty a
        | none => u;
      ((s.ctx x).state = .free ∨ 2 ^ 56 ≤ va.toNat → ∀ op, ∃ t, go op = .next t ∧ answers t s none)
      ∧ ((s.ctx x).state ≠ .free → va.toNat < 2 ^ 56 →
        (∀ n e u, s.walk ioCore x va .read user = (.ok e, u) →
          ∃ t, go (.read n) = .next t ∧ answers t (u.readBy ioCore [(e.place va.toNat, n)]) (some (u.engineBytes ioCore (e.place va.toNat) n)))
        ∧ (∀ bs e u, s.walk ioCore x va .write user = (.ok e, u) → (e.kind = .weight → (u.ctx x).kernelLive = false) →
          ∃ t, go (.write bs) = .next t ∧ answers t ((dirtied u e).writeAt ioCore (e.place va.toNat) bs) (some []))
        ∧ (∀ bs e u, s.walk ioCore x va .write user = (.ok e, u) → e.kind = .weight → (u.ctx x).kernelLive = true →
          ∃ t, go (.write bs) = .next t ∧ answers t u none)
        ∧ (∀ fn dw b c e u v, s.walk ioCore x va .atomic user = (.ok e, u) → e.kind ≠ .weight →
          let n := if dw then 8 else 4
          let old := leNat (u.homeBytes ioCore (e.place va.toNat) n)
          atomicNew fn dw b c old = some v →
          ∃ t, go (.atomic fn dw b c) = .next t
            ∧ answers t ((dirtied u e).writeAt ioCore (e.place va.toNat) (leBytes n v)) (some (leBytes n old)))
        ∧ (∀ op r u, s.walk ioCore x va (match op with | .read _ => .read | .write _ => .write | .atomic _ _ _ _ => .atomic) user = (.error r, u) →
          ∃ t, go op = .next t ∧ answers t u none)))

/-- No bit of an encoding is dropped: decode of encode is the identity on every well-formed instruction with a word. -/
def Obligations.DecodeOfEncode : Prop :=
  ∀ i : Instr, i.wellFormed = true → ∀ w, encode i = some w → decode w = .ok i

/-- The other direction: a word that decodes is the one word of a well-formed instruction, so nonzero reserved fields are refused (R47). -/
def Obligations.EncodeOfDecode : Prop :=
  ∀ (w : W32) i, decode w = .ok i → encode i = some w ∧ i.wellFormed = true

/-- The invariant of the byte memories (MemOk), over every step of the device from every state that has it. -/
def Obligations.StepKeepsMemory : Prop :=
  ∀ s t, MemOk s → step s = .next t → MemOk t

/-- State.reset has the invariant MemOk, and what the manual says of the state after reset. That memory reads 0 is the model's choice (log entry 2), and that READY is 1: State.reset is the device after bring-up (log entry 3). -/
def Obligations.ResetState : Prop :=
  MemOk State.reset
    ∧ (∀ c n, (State.reset.thread ⟨c, n⟩).state = .free) ∧ (∀ x, (State.reset.ctx x).state = .free)
    ∧ (∀ c n, let t := State.reset.thread ⟨c, n⟩
        t.csr 0x000 = 0 ∧ t.csr 0x010 = 0 ∧ t.csr 0x011 = 0 ∧ t.csr 0x030 = 0x33 ∧ t.csr 0x050 = 0x100000 ∧ t.csr 0x051 = 0x100)
    ∧ State.reset.time = 0 ∧ (∀ p, (State.reset.port p).state = .down) ∧ State.reset.mgmt.ready = true
    ∧ State.reset.mgmt.cause = 0 ∧ ∀ p, State.reset.loadByte 0 (.hbm p) = 0

/-- R49, and words that the manual derives from its encoding tables (Tables 1-1, 4-7 and the instruction tables) decode to what they stand for. -/
def Obligations.NopAndIllegalWords : Prop :=
  (decode 0x04000000 = .ok (.addi 0 0 0) ∧ (∀ s, ∃ t, exec (.addi 0 0 0) s = .next t ∧ WentOn s t)
      ∧ instrOf 0x00000000 = .illegal 0 ∧ instrOf 0xFFFFFFFF = .illegal 0xFFFFFFFF
      ∧ (∀ s, exec (instrOf 0x00000000) s = .next (s.trap 1 0) ∧ exec (instrOf 0xFFFFFFFF) s = .next (s.trap 1 0xFFFFFFFF))
      ∧ decode 0x04000001 = .ok (.addi 0 0 1) ∧ ∀ s, ∃ t, exec (.addi 0 0 1) s = .next t ∧ WroteReg s t 0 1 0)
  ∧ (decode 0x0284A800 = .ok (.add 8 9 10) ∧ decode 0x0580000C = .ok (.addi 24 0 12) ∧ decode 0x10B63403 = .ok (.div 11 12 13)
      ∧ decode 0x22C07FFD = .ok (.bne 12 0 (-3)) ∧ decode 0x2E000040 = .ok (.jmp 64) ∧ decode 0x62000002 = .ok .eret
      ∧ decode 0x40C08015 = .ok (.ld 12 1 2 .w true) ∧ decode 0x42C08016 = .ok (.st 12 1 2 .d)
      ∧ decode 0x46B84622 = .ok (.aor 11 16 17 .device .w .release) ∧ decode 0x48040300 = .ok (.fence 0x02 0x01 .device)
      ∧ decode 0x6401C801 = .ok (.waitc 0 3 18) ∧ decode 0x68B63400 = .ok (.help 11 12 13)
      ∧ decode 0x80C9121B = .ok (.vadd 3 18 18 (.scalar 13)) ∧ decode 0xC006B900 = .ok (.mma 0 13 14 false true)
      ∧ decode 0xC8B84400 = .ok (.mgopen 11 16 17) ∧ decode 0xCA084400 = .ok (.ilopen 0 16 17)
      ∧ decode 0xCCC58001 = .ok (.hcopy 12 11) ∧ decode 0xD4090002 = .ok (.splt 0 18 0 1))

/-- From bytes to effect (R42, R43, R47, R59): the step is exec of the decoded instruction as that thread, then State.settle, State.wakeAll and State.endEpisodes. That the agenda says whose turn it is is log entry 5. -/
def Obligations.StepRunsDecoded : Prop :=
  (∀ s c rest pre n post w p (i : Instr) t, s.agenda = .core c :: rest → s.mgmt.powered = true → (s.core c).helpersNext = false →
    let h : ThreadId := ⟨c, n⟩
    let u : State := ({ s with agenda := rest } : State).fetched h
    (s.core c).slotOrder = pre ++ n :: post → (∀ m ∈ pre, (s.thread ⟨c, m⟩).state ≠ .ready) →
    (s.thread h).state = .ready → (s.ctx (s.thread h).ctx).state = .active → (s.thread h).yieldMask = 0 → (s.thread h).hitch = none →
    (s.thread h).fences = [] → (s.thread h).replay = none → s.fetchWord h (s.thread h).pc = (.ok p, w) →
    (decode w = .ok i ∨ (∃ r, decode w = .error r) ∧ i = .illegal w) → u.stalls h i = false →
    let x : State := (u.issued h).updThread h (·.atWord w i)
    exec i { x with cur := h } = .next t → t.thread h ≠ x.thread h → step s = .next t.settle.wakeAll.endEpisodes)
  ∧ (∀ s rest i t, s.agenda = .event i :: rest → exec i { s with agenda := rest } = .next t →
      step s = .next t.settle.wakeAll.endEpisodes)

/-- Nothing in the operation table ends a run: traps, refusals with a status and waits are next states. -/
def Obligations.EveryInstructionGoesOn : Prop :=
  ∀ (i : Instr) s, ∃ t, exec i s = .next t

/-- The exact mathematical result rounded once (R29), said with real numbers: the nearest or the bounding F32 of Table 3-1 in each mode of Table 3-3, overflow, the inexact flag, and the signs of exact zeros (R27). ScalarFloat and RowFloat say which instruction applies which function. -/
def Obligations.RoundedOnce : Prop :=
  ∀ (mode : RMode) (a b c : W32), f32Number a → f32Number b → f32Number c →
    let v := fun (z : W32) => ((f32Value z : ℚ) : ℝ)
    let once := fun (x : ℝ) (r : W32 × FFlags) => x ≠ 0 →
      Rounded mode x r.1 ∧ (flagNX &&& r.2 ≠ 0 ↔ ¬ f32Number r.1 ∨ v r.1 ≠ x) ∧ (¬ f32Number r.1 → r.2 = flagOF ||| flagNX)
    once (v a + v b) (faddBits mode a b) ∧ once (v a - v b) (fsubBits mode a b) ∧ once (v a * v b) (fmulBits mode a b)
    ∧ (v b ≠ 0 → once (v a / v b) (fdivBits mode a b)) ∧ (0 ≤ v a → once (Real.sqrt (v a)) (fsqrtBits mode a))
    ∧ once (v a * v b + v c) (ffmaBits mode a b c)
    ∧ (v a + v b = 0 → faddBits mode a b = (if v a = 0 ∧ a.msb = b.msb then a else if mode = .rdn then 0x80000000 else 0, 0))
    ∧ (v a * v b = 0 → fmulBits mode a b = (if a.msb = b.msb then 0 else 0x80000000, 0))
end

