-- ==== Sys2Proof/Laws/Decode.lean ====
section
/-! SUPPORT. The fields of a packed word of each form are what was packed. -/

namespace Sys2Proof

/-! Form S. -/

@[simp] theorem field_packS_op (op : BitVec 7) (d a b : BitVec 5) (fn : BitVec 10) : field (packS op d a b fn) 25 7 = op := by
  apply BitVec.eq_of_getLsbD_eq
  intro i hi
  simp only [field, packS, BitVec.getLsbD_extractLsb', BitVec.getLsbD_append, hi, decide_true, Bool.true_and]
  repeat' split
  all_goals first | omega | (congr 1; omega)
@[simp] theorem field_packS_d (op : BitVec 7) (d a b : BitVec 5) (fn : BitVec 10) : field (packS op d a b fn) 20 5 = d := by
  apply BitVec.eq_of_getLsbD_eq
  intro i hi
  simp only [field, packS, BitVec.getLsbD_extractLsb', BitVec.getLsbD_append, hi, decide_true, Bool.true_and]
  repeat' split
  all_goals first | omega | (congr 1; omega)
@[simp] theorem field_packS_a (op : BitVec 7) (d a b : BitVec 5) (fn : BitVec 10) : field (packS op d a b fn) 15 5 = a := by
  apply BitVec.eq_of_getLsbD_eq
  intro i hi
  simp only [field, packS, BitVec.getLsbD_extractLsb', BitVec.getLsbD_append, hi, decide_true, Bool.true_and]
  repeat' split
  all_goals first | omega | (congr 1; omega)
@[simp] theorem field_packS_b (op : BitVec 7) (d a b : BitVec 5) (fn : BitVec 10) : field (packS op d a b fn) 10 5 = b := by
  apply BitVec.eq_of_getLsbD_eq
  intro i hi
  simp only [field, packS, BitVec.getLsbD_extractLsb', BitVec.getLsbD_append, hi, decide_true, Bool.true_and]
  repeat' split
  all_goals first | omega | (congr 1; omega)
@[simp] theorem field_packS_fn (op : BitVec 7) (d a b : BitVec 5) (fn : BitVec 10) : field (packS op d a b fn) 0 10 = fn := by
  apply BitVec.eq_of_getLsbD_eq
  intro i hi
  simp only [field, packS, BitVec.getLsbD_extractLsb', BitVec.getLsbD_append, hi, decide_true, Bool.true_and]
  repeat' split
  all_goals first | omega | (congr 1; omega)
/-! Form I. -/

@[simp] theorem field_packI_op (op : BitVec 7) (d a : BitVec 5) (imm : BitVec 15) : field (packI op d a imm) 25 7 = op := by
  apply BitVec.eq_of_getLsbD_eq
  intro i hi
  simp only [field, packI, BitVec.getLsbD_extractLsb', BitVec.getLsbD_append, hi, decide_true, Bool.true_and]
  repeat' split
  all_goals first | omega | (congr 1; omega)
@[simp] theorem field_packI_d (op : BitVec 7) (d a : BitVec 5) (imm : BitVec 15) : field (packI op d a imm) 20 5 = d := by
  apply BitVec.eq_of_getLsbD_eq
  intro i hi
  simp only [field, packI, BitVec.getLsbD_extractLsb', BitVec.getLsbD_append, hi, decide_true, Bool.true_and]
  repeat' split
  all_goals first | omega | (congr 1; omega)
@[simp] theorem field_packI_a (op : BitVec 7) (d a : BitVec 5) (imm : BitVec 15) : field (packI op d a imm) 15 5 = a := by
  apply BitVec.eq_of_getLsbD_eq
  intro i hi
  simp only [field, packI, BitVec.getLsbD_extractLsb', BitVec.getLsbD_append, hi, decide_true, Bool.true_and]
  repeat' split
  all_goals first | omega | (congr 1; omega)
@[simp] theorem field_packI_imm (op : BitVec 7) (d a : BitVec 5) (imm : BitVec 15) : field (packI op d a imm) 0 15 = imm := by
  apply BitVec.eq_of_getLsbD_eq
  intro i hi
  simp only [field, packI, BitVec.getLsbD_extractLsb', BitVec.getLsbD_append, hi, decide_true, Bool.true_and]
  repeat' split
  all_goals first | omega | (congr 1; omega)
/-! Form U. -/

@[simp] theorem field_packU_op (op : BitVec 7) (d : BitVec 5) (imm : BitVec 20) : field (packU op d imm) 25 7 = op := by
  apply BitVec.eq_of_getLsbD_eq
  intro i hi
  simp only [field, packU, BitVec.getLsbD_extractLsb', BitVec.getLsbD_append, hi, decide_true, Bool.true_and]
  repeat' split
  all_goals first | omega | (congr 1; omega)
@[simp] theorem field_packU_d (op : BitVec 7) (d : BitVec 5) (imm : BitVec 20) : field (packU op d imm) 20 5 = d := by
  apply BitVec.eq_of_getLsbD_eq
  intro i hi
  simp only [field, packU, BitVec.getLsbD_extractLsb', BitVec.getLsbD_append, hi, decide_true, Bool.true_and]
  repeat' split
  all_goals first | omega | (congr 1; omega)
@[simp] theorem field_packU_imm (op : BitVec 7) (d : BitVec 5) (imm : BitVec 20) : field (packU op d imm) 0 20 = imm := by
  apply BitVec.eq_of_getLsbD_eq
  intro i hi
  simp only [field, packU, BitVec.getLsbD_extractLsb', BitVec.getLsbD_append, hi, decide_true, Bool.true_and]
  repeat' split
  all_goals first | omega | (congr 1; omega)
/-! Form J. -/

@[simp] theorem field_packJ_op (op : BitVec 7) (off : BitVec 25) : field (packJ op off) 25 7 = op := by
  apply BitVec.eq_of_getLsbD_eq
  intro i hi
  simp only [field, packJ, BitVec.getLsbD_extractLsb', BitVec.getLsbD_append, hi, decide_true, Bool.true_and]
  repeat' split
  all_goals first | omega | (congr 1; omega)
@[simp] theorem field_packJ_off (op : BitVec 7) (off : BitVec 25) : field (packJ op off) 0 25 = off := by
  apply BitVec.eq_of_getLsbD_eq
  intro i hi
  simp only [field, packJ, BitVec.getLsbD_extractLsb', BitVec.getLsbD_append, hi, decide_true, Bool.true_and]
  repeat' split
  all_goals first | omega | (congr 1; omega)
/-! Form M. -/

@[simp] theorem field_packM_op (op : BitVec 7) (d a : BitVec 5) (off : BitVec 12) (sz : BitVec 2) (sx : BitVec 1) : field (packM op d a off sz sx) 25 7 = op := by
  apply BitVec.eq_of_getLsbD_eq
  intro i hi
  simp only [field, packM, BitVec.getLsbD_extractLsb', BitVec.getLsbD_append, hi, decide_true, Bool.true_and]
  repeat' split
  all_goals first | omega | (congr 1; omega)
@[simp] theorem field_packM_d (op : BitVec 7) (d a : BitVec 5) (off : BitVec 12) (sz : BitVec 2) (sx : BitVec 1) : field (packM op d a off sz sx) 20 5 = d := by
  apply BitVec.eq_of_getLsbD_eq
  intro i hi
  simp only [field, packM, BitVec.getLsbD_extractLsb', BitVec.getLsbD_append, hi, decide_true, Bool.true_and]
  repeat' split
  all_goals first | omega | (congr 1; omega)
@[simp] theorem field_packM_a (op : BitVec 7) (d a : BitVec 5) (off : BitVec 12) (sz : BitVec 2) (sx : BitVec 1) : field (packM op d a off sz sx) 15 5 = a := by
  apply BitVec.eq_of_getLsbD_eq
  intro i hi
  simp only [field, packM, BitVec.getLsbD_extractLsb', BitVec.getLsbD_append, hi, decide_true, Bool.true_and]
  repeat' split
  all_goals first | omega | (congr 1; omega)
@[simp] theorem field_packM_off (op : BitVec 7) (d a : BitVec 5) (off : BitVec 12) (sz : BitVec 2) (sx : BitVec 1) : field (packM op d a off sz sx) 3 12 = off := by
  apply BitVec.eq_of_getLsbD_eq
  intro i hi
  simp only [field, packM, BitVec.getLsbD_extractLsb', BitVec.getLsbD_append, hi, decide_true, Bool.true_and]
  repeat' split
  all_goals first | omega | (congr 1; omega)
@[simp] theorem field_packM_sz (op : BitVec 7) (d a : BitVec 5) (off : BitVec 12) (sz : BitVec 2) (sx : BitVec 1) : field (packM op d a off sz sx) 1 2 = sz := by
  apply BitVec.eq_of_getLsbD_eq
  intro i hi
  simp only [field, packM, BitVec.getLsbD_extractLsb', BitVec.getLsbD_append, hi, decide_true, Bool.true_and]
  repeat' split
  all_goals first | omega | (congr 1; omega)
@[simp] theorem field_packM_sx (op : BitVec 7) (d a : BitVec 5) (off : BitVec 12) (sz : BitVec 2) (sx : BitVec 1) : field (packM op d a off sz sx) 0 1 = sx := by
  apply BitVec.eq_of_getLsbD_eq
  intro i hi
  simp only [field, packM, BitVec.getLsbD_extractLsb', BitVec.getLsbD_append, hi, decide_true, Bool.true_and]
  repeat' split
  all_goals first | omega | (congr 1; omega)
/-! Form C. -/

@[simp] theorem field_packC_op (op : BitVec 7) (d a : BitVec 5) (csr : BitVec 12) (k : BitVec 3) : field (packC op d a csr k) 25 7 = op := by
  apply BitVec.eq_of_getLsbD_eq
  intro i hi
  simp only [field, packC, BitVec.getLsbD_extractLsb', BitVec.getLsbD_append, hi, decide_true, Bool.true_and]
  repeat' split
  all_goals first | omega | (congr 1; omega)
@[simp] theorem field_packC_d (op : BitVec 7) (d a : BitVec 5) (csr : BitVec 12) (k : BitVec 3) : field (packC op d a csr k) 20 5 = d := by
  apply BitVec.eq_of_getLsbD_eq
  intro i hi
  simp only [field, packC, BitVec.getLsbD_extractLsb', BitVec.getLsbD_append, hi, decide_true, Bool.true_and]
  repeat' split
  all_goals first | omega | (congr 1; omega)
@[simp] theorem field_packC_a (op : BitVec 7) (d a : BitVec 5) (csr : BitVec 12) (k : BitVec 3) : field (packC op d a csr k) 15 5 = a := by
  apply BitVec.eq_of_getLsbD_eq
  intro i hi
  simp only [field, packC, BitVec.getLsbD_extractLsb', BitVec.getLsbD_append, hi, decide_true, Bool.true_and]
  repeat' split
  all_goals first | omega | (congr 1; omega)
@[simp] theorem field_packC_csr (op : BitVec 7) (d a : BitVec 5) (csr : BitVec 12) (k : BitVec 3) : field (packC op d a csr k) 3 12 = csr := by
  apply BitVec.eq_of_getLsbD_eq
  intro i hi
  simp only [field, packC, BitVec.getLsbD_extractLsb', BitVec.getLsbD_append, hi, decide_true, Bool.true_and]
  repeat' split
  all_goals first | omega | (congr 1; omega)
@[simp] theorem field_packC_k (op : BitVec 7) (d a : BitVec 5) (csr : BitVec 12) (k : BitVec 3) : field (packC op d a csr k) 0 3 = k := by
  apply BitVec.eq_of_getLsbD_eq
  intro i hi
  simp only [field, packC, BitVec.getLsbD_extractLsb', BitVec.getLsbD_append, hi, decide_true, Bool.true_and]
  repeat' split
  all_goals first | omega | (congr 1; omega)
/-! Form F. -/

@[simp] theorem field_packF_op (op : BitVec 7) (pred succ : BitVec 8) (sc : BitVec 3) (z : BitVec 6) : field (packF op pred succ sc z) 25 7 = op := by
  apply BitVec.eq_of_getLsbD_eq
  intro i hi
  simp only [field, packF, BitVec.getLsbD_extractLsb', BitVec.getLsbD_append, hi, decide_true, Bool.true_and]
  repeat' split
  all_goals first | omega | (congr 1; omega)
@[simp] theorem field_packF_pred (op : BitVec 7) (pred succ : BitVec 8) (sc : BitVec 3) (z : BitVec 6) : field (packF op pred succ sc z) 17 8 = pred := by
  apply BitVec.eq_of_getLsbD_eq
  intro i hi
  simp only [field, packF, BitVec.getLsbD_extractLsb', BitVec.getLsbD_append, hi, decide_true, Bool.true_and]
  repeat' split
  all_goals first | omega | (congr 1; omega)
@[simp] theorem field_packF_succ (op : BitVec 7) (pred succ : BitVec 8) (sc : BitVec 3) (z : BitVec 6) : field (packF op pred succ sc z) 9 8 = succ := by
  apply BitVec.eq_of_getLsbD_eq
  intro i hi
  simp only [field, packF, BitVec.getLsbD_extractLsb', BitVec.getLsbD_append, hi, decide_true, Bool.true_and]
  repeat' split
  all_goals first | omega | (congr 1; omega)
@[simp] theorem field_packF_sc (op : BitVec 7) (pred succ : BitVec 8) (sc : BitVec 3) (z : BitVec 6) : field (packF op pred succ sc z) 6 3 = sc := by
  apply BitVec.eq_of_getLsbD_eq
  intro i hi
  simp only [field, packF, BitVec.getLsbD_extractLsb', BitVec.getLsbD_append, hi, decide_true, Bool.true_and]
  repeat' split
  all_goals first | omega | (congr 1; omega)
@[simp] theorem field_packF_z (op : BitVec 7) (pred succ : BitVec 8) (sc : BitVec 3) (z : BitVec 6) : field (packF op pred succ sc z) 0 6 = z := by
  apply BitVec.eq_of_getLsbD_eq
  intro i hi
  simp only [field, packF, BitVec.getLsbD_extractLsb', BitVec.getLsbD_append, hi, decide_true, Bool.true_and]
  repeat' split
  all_goals first | omega | (congr 1; omega)
/-! Form W. -/

@[simp] theorem field_packW_op (op r : BitVec 7) (a : BitVec 5) (off : BitVec 12) (x : BitVec 1) : field (packW op r a off x) 25 7 = op := by
  apply BitVec.eq_of_getLsbD_eq
  intro i hi
  simp only [field, packW, BitVec.getLsbD_extractLsb', BitVec.getLsbD_append, hi, decide_true, Bool.true_and]
  repeat' split
  all_goals first | omega | (congr 1; omega)
@[simp] theorem field_packW_r (op r : BitVec 7) (a : BitVec 5) (off : BitVec 12) (x : BitVec 1) : field (packW op r a off x) 18 7 = r := by
  apply BitVec.eq_of_getLsbD_eq
  intro i hi
  simp only [field, packW, BitVec.getLsbD_extractLsb', BitVec.getLsbD_append, hi, decide_true, Bool.true_and]
  repeat' split
  all_goals first | omega | (congr 1; omega)
@[simp] theorem field_packW_a (op r : BitVec 7) (a : BitVec 5) (off : BitVec 12) (x : BitVec 1) : field (packW op r a off x) 13 5 = a := by
  apply BitVec.eq_of_getLsbD_eq
  intro i hi
  simp only [field, packW, BitVec.getLsbD_extractLsb', BitVec.getLsbD_append, hi, decide_true, Bool.true_and]
  repeat' split
  all_goals first | omega | (congr 1; omega)
@[simp] theorem field_packW_off (op r : BitVec 7) (a : BitVec 5) (off : BitVec 12) (x : BitVec 1) : field (packW op r a off x) 1 12 = off := by
  apply BitVec.eq_of_getLsbD_eq
  intro i hi
  simp only [field, packW, BitVec.getLsbD_extractLsb', BitVec.getLsbD_append, hi, decide_true, Bool.true_and]
  repeat' split
  all_goals first | omega | (congr 1; omega)
@[simp] theorem field_packW_x (op r : BitVec 7) (a : BitVec 5) (off : BitVec 12) (x : BitVec 1) : field (packW op r a off x) 0 1 = x := by
  apply BitVec.eq_of_getLsbD_eq
  intro i hi
  simp only [field, packW, BitVec.getLsbD_extractLsb', BitVec.getLsbD_append, hi, decide_true, Bool.true_and]
  repeat' split
  all_goals first | omega | (congr 1; omega)
/-! Form V. -/

@[simp] theorem field_packV_op (op : BitVec 7) (m : BitVec 3) (d a b : BitVec 7) (s : BitVec 1) : field (packV op m d a b s) 25 7 = op := by
  apply BitVec.eq_of_getLsbD_eq
  intro i hi
  simp only [field, packV, BitVec.getLsbD_extractLsb', BitVec.getLsbD_append, hi, decide_true, Bool.true_and]
  repeat' split
  all_goals first | omega | (congr 1; omega)
@[simp] theorem field_packV_m (op : BitVec 7) (m : BitVec 3) (d a b : BitVec 7) (s : BitVec 1) : field (packV op m d a b s) 22 3 = m := by
  apply BitVec.eq_of_getLsbD_eq
  intro i hi
  simp only [field, packV, BitVec.getLsbD_extractLsb', BitVec.getLsbD_append, hi, decide_true, Bool.true_and]
  repeat' split
  all_goals first | omega | (congr 1; omega)
@[simp] theorem field_packV_d (op : BitVec 7) (m : BitVec 3) (d a b : BitVec 7) (s : BitVec 1) : field (packV op m d a b s) 15 7 = d := by
  apply BitVec.eq_of_getLsbD_eq
  intro i hi
  simp only [field, packV, BitVec.getLsbD_extractLsb', BitVec.getLsbD_append, hi, decide_true, Bool.true_and]
  repeat' split
  all_goals first | omega | (congr 1; omega)
@[simp] theorem field_packV_a (op : BitVec 7) (m : BitVec 3) (d a b : BitVec 7) (s : BitVec 1) : field (packV op m d a b s) 8 7 = a := by
  apply BitVec.eq_of_getLsbD_eq
  intro i hi
  simp only [field, packV, BitVec.getLsbD_extractLsb', BitVec.getLsbD_append, hi, decide_true, Bool.true_and]
  repeat' split
  all_goals first | omega | (congr 1; omega)
@[simp] theorem field_packV_b (op : BitVec 7) (m : BitVec 3) (d a b : BitVec 7) (s : BitVec 1) : field (packV op m d a b s) 1 7 = b := by
  apply BitVec.eq_of_getLsbD_eq
  intro i hi
  simp only [field, packV, BitVec.getLsbD_extractLsb', BitVec.getLsbD_append, hi, decide_true, Bool.true_and]
  repeat' split
  all_goals first | omega | (congr 1; omega)
@[simp] theorem field_packV_s (op : BitVec 7) (m : BitVec 3) (d a b : BitVec 7) (s : BitVec 1) : field (packV op m d a b s) 0 1 = s := by
  apply BitVec.eq_of_getLsbD_eq
  intro i hi
  simp only [field, packV, BitVec.getLsbD_extractLsb', BitVec.getLsbD_append, hi, decide_true, Bool.true_and]
  repeat' split
  all_goals first | omega | (congr 1; omega)
/-! Form E. -/

@[simp] theorem field_packE_op (op : BitVec 7) (d a b : BitVec 5) (ctl : BitVec 4) (fn : BitVec 6) : field (packE op d a b ctl fn) 25 7 = op := by
  apply BitVec.eq_of_getLsbD_eq
  intro i hi
  simp only [field, packE, BitVec.getLsbD_extractLsb', BitVec.getLsbD_append, hi, decide_true, Bool.true_and]
  repeat' split
  all_goals first | omega | (congr 1; omega)
@[simp] theorem field_packE_d (op : BitVec 7) (d a b : BitVec 5) (ctl : BitVec 4) (fn : BitVec 6) : field (packE op d a b ctl fn) 20 5 = d := by
  apply BitVec.eq_of_getLsbD_eq
  intro i hi
  simp only [field, packE, BitVec.getLsbD_extractLsb', BitVec.getLsbD_append, hi, decide_true, Bool.true_and]
  repeat' split
  all_goals first | omega | (congr 1; omega)
@[simp] theorem field_packE_a (op : BitVec 7) (d a b : BitVec 5) (ctl : BitVec 4) (fn : BitVec 6) : field (packE op d a b ctl fn) 15 5 = a := by
  apply BitVec.eq_of_getLsbD_eq
  intro i hi
  simp only [field, packE, BitVec.getLsbD_extractLsb', BitVec.getLsbD_append, hi, decide_true, Bool.true_and]
  repeat' split
  all_goals first | omega | (congr 1; omega)
@[simp] theorem field_packE_b (op : BitVec 7) (d a b : BitVec 5) (ctl : BitVec 4) (fn : BitVec 6) : field (packE op d a b ctl fn) 10 5 = b := by
  apply BitVec.eq_of_getLsbD_eq
  intro i hi
  simp only [field, packE, BitVec.getLsbD_extractLsb', BitVec.getLsbD_append, hi, decide_true, Bool.true_and]
  repeat' split
  all_goals first | omega | (congr 1; omega)
@[simp] theorem field_packE_ctl (op : BitVec 7) (d a b : BitVec 5) (ctl : BitVec 4) (fn : BitVec 6) : field (packE op d a b ctl fn) 6 4 = ctl := by
  apply BitVec.eq_of_getLsbD_eq
  intro i hi
  simp only [field, packE, BitVec.getLsbD_extractLsb', BitVec.getLsbD_append, hi, decide_true, Bool.true_and]
  repeat' split
  all_goals first | omega | (congr 1; omega)
@[simp] theorem field_packE_fn (op : BitVec 7) (d a b : BitVec 5) (ctl : BitVec 4) (fn : BitVec 6) : field (packE op d a b ctl fn) 0 6 = fn := by
  apply BitVec.eq_of_getLsbD_eq
  intro i hi
  simp only [field, packE, BitVec.getLsbD_extractLsb', BitVec.getLsbD_append, hi, decide_true, Bool.true_and]
  repeat' split
  all_goals first | omega | (congr 1; omega)
/-! Form L. -/

@[simp] theorem field_packL_op (op : BitVec 7) (len : BitVec 4) (cnt : BitVec 8) (stride : BitVec 7) (fix z : BitVec 3) : field (packL op len cnt stride fix z) 25 7 = op := by
  apply BitVec.eq_of_getLsbD_eq
  intro i hi
  simp only [field, packL, BitVec.getLsbD_extractLsb', BitVec.getLsbD_append, hi, decide_true, Bool.true_and]
  repeat' split
  all_goals first | omega | (congr 1; omega)
@[simp] theorem field_packL_len (op : BitVec 7) (len : BitVec 4) (cnt : BitVec 8) (stride : BitVec 7) (fix z : BitVec 3) : field (packL op len cnt stride fix z) 21 4 = len := by
  apply BitVec.eq_of_getLsbD_eq
  intro i hi
  simp only [field, packL, BitVec.getLsbD_extractLsb', BitVec.getLsbD_append, hi, decide_true, Bool.true_and]
  repeat' split
  all_goals first | omega | (congr 1; omega)
@[simp] theorem field_packL_cnt (op : BitVec 7) (len : BitVec 4) (cnt : BitVec 8) (stride : BitVec 7) (fix z : BitVec 3) : field (packL op len cnt stride fix z) 13 8 = cnt := by
  apply BitVec.eq_of_getLsbD_eq
  intro i hi
  simp only [field, packL, BitVec.getLsbD_extractLsb', BitVec.getLsbD_append, hi, decide_true, Bool.true_and]
  repeat' split
  all_goals first | omega | (congr 1; omega)
@[simp] theorem field_packL_stride (op : BitVec 7) (len : BitVec 4) (cnt : BitVec 8) (stride : BitVec 7) (fix z : BitVec 3) : field (packL op len cnt stride fix z) 6 7 = stride := by
  apply BitVec.eq_of_getLsbD_eq
  intro i hi
  simp only [field, packL, BitVec.getLsbD_extractLsb', BitVec.getLsbD_append, hi, decide_true, Bool.true_and]
  repeat' split
  all_goals first | omega | (congr 1; omega)
@[simp] theorem field_packL_fix (op : BitVec 7) (len : BitVec 4) (cnt : BitVec 8) (stride : BitVec 7) (fix z : BitVec 3) : field (packL op len cnt stride fix z) 3 3 = fix := by
  apply BitVec.eq_of_getLsbD_eq
  intro i hi
  simp only [field, packL, BitVec.getLsbD_extractLsb', BitVec.getLsbD_append, hi, decide_true, Bool.true_and]
  repeat' split
  all_goals first | omega | (congr 1; omega)
@[simp] theorem field_packL_z (op : BitVec 7) (len : BitVec 4) (cnt : BitVec 8) (stride : BitVec 7) (fix z : BitVec 3) : field (packL op len cnt stride fix z) 0 3 = z := by
  apply BitVec.eq_of_getLsbD_eq
  intro i hi
  simp only [field, packL, BitVec.getLsbD_extractLsb', BitVec.getLsbD_append, hi, decide_true, Bool.true_and]
  repeat' split
  all_goals first | omega | (congr 1; omega)

/-! Codes within fields. -/

@[simp] theorem low_append {m n : Nat} (x : BitVec m) (y : BitVec n) : (x ++ y).extractLsb' 0 n = y := by
  apply BitVec.eq_of_getLsbD_eq
  intro i hi
  simp [BitVec.getLsbD_append, hi]
@[simp] theorem high_append {m n : Nat} (x : BitVec m) (y : BitVec n) : (x ++ y).extractLsb' n m = x := by
  apply BitVec.eq_of_getLsbD_eq
  intro i hi
  simp [BitVec.getLsbD_append, hi]

theorem mid_append {m n k : Nat} (x : BitVec m) (y : BitVec n) (z : BitVec k) : (x ++ y ++ z).extractLsb' k n = y := by
  apply BitVec.eq_of_getLsbD_eq
  intro i hi
  simp [BitVec.getLsbD_append, hi]
theorem top_append {m n k : Nat} (x : BitVec m) (y : BitVec n) (z : BitVec k) :
    (x ++ y ++ z).extractLsb' (n + k) m = x := by
  apply BitVec.eq_of_getLsbD_eq
  intro i hi
  have h1 : ¬ (n + k + i < k) := by omega
  have h2 : ¬ (n + k + i - k < n) := by omega
  have h3 : n + k + i - k - n = i := by omega
  simp [BitVec.getLsbD_append, hi, h1, h2, h3]

@[simp] theorem maskField_small (m : BitVec 3) : maskField (small m) = true := by
  simp only [maskField, small, high_append]
  rfl
@[simp] theorem maskCode_small (m : BitVec 3) : maskCode (small m) = m := by
  simp only [maskCode, small, low_append]
@[simp] theorem vsrcOf_bits (b : VSrc) : vsrcOf (vsrcBits b) (vsrcS b) = .ok b := by
  cases b with
  | row r => rfl
  | scalar r =>
    simp only [vsrcOf, vsrcBits, vsrcS, need, if_true, low_append, high_append]
    rfl
@[simp] theorem scopeOf_code (c : Scope) : scopeOf (scopeCode c) = .ok c := by
  cases c <;> rfl
@[simp] theorem wsizeOf_code (c : WSize) : wsizeOf (wsizeCode c) = c := by
  cases c <;> rfl
@[simp] theorem aordOf_code (c : AOrd) : aordOf (aordCode c) = c := by
  cases c <;> rfl
@[simp] theorem sizeOf2_code (c : Size) : sizeOf2 (sizeCode c) = c := by
  cases c <;> rfl
@[simp] theorem fcondOf_code (c : FCond) : fcondOf (fcondCode c) = c := by
  cases c <;> rfl
@[simp] theorem icondOf_code (c : ICond) : icondOf (icondCode c) = .ok c := by
  cases c <;> rfl
@[simp] theorem cvtOf_code (c : CvtFn) : cvtOf (cvtCode c).toNat = .ok c := by
  cases c <;> rfl
@[simp] theorem redOf_code (c : RedOp) : redOf (redCode c) = c := by
  cases c <;> rfl
@[simp] theorem elemOf_code (c : Elem) : elemOf (elemCode c) = .ok c := by
  cases c <;> rfl
@[simp] theorem bit_eq_one (b : Bool) : (bit b == 1#1) = b := by
  cases b <;> rfl

/-! Majors whose operand fields are cut further. -/

theorem decodeShi_packed (d a : Reg) (k : BitVec 2) (sh : BitVec 6) : decodeShi d a (k ++ 0#7 ++ sh) =
    (match k.toNat with
     | 0 => .ok (.slli d a sh)
     | 1 => .ok (.srli d a sh)
     | 2 => .ok (.srai d a sh)
     | _ => .error .fn) := by
  have h1 : (k ++ 0#7 ++ sh).extractLsb' 6 7 = 0#7 := mid_append ..
  have h2 : (k ++ 0#7 ++ sh).extractLsb' 13 2 = k := top_append ..
  have h3 : (k ++ 0#7 ++ sh).extractLsb' 0 6 = sh := low_append ..
  simp only [decodeShi, h1, h2, h3]
  rfl
theorem decodeBm_packed (k : BitVec 2) (m : BitVec 3) (off : BitVec 15) : decodeBm (k ++ m) 0 off =
    (match k.toNat with
     | 0 => .ok (.bmany m off)
     | 1 => .ok (.bmnone m off)
     | 2 => .ok (.bmall m off)
     | _ => .error .fn) := by
  simp only [decodeBm, high_append, low_append]
  rfl
theorem decodeVgs_packed (m : MaskCode) (d : RowCode) (sz : Elem) (a : Reg) (b : RowCode) (s : BitVec 1) :
    decodeVgs m d (elemCode sz ++ a) b s = .ok (if s = 1 then .vstx m d sz a b else .vldx m d sz a b) := by
  simp only [decodeVgs, high_append, low_append, elemOf_code]
theorem decodeVcmpf_packed (m : MaskCode) (cc : FCond) (k : MaskCode) (a : RowCode) (b : VSrc) :
    decodeVcmpf m (fcondCode cc ++ 0#1 ++ k) a (vsrcBits b) (vsrcS b) = .ok (.vcmpf m cc k a b) := by
  have h1 : (fcondCode cc ++ 0#1 ++ k).extractLsb' 3 1 = 0#1 := mid_append ..
  have h2 : (fcondCode cc ++ 0#1 ++ k).extractLsb' 4 3 = fcondCode cc := top_append ..
  have h3 : (fcondCode cc ++ 0#1 ++ k).extractLsb' 0 3 = k := low_append ..
  simp only [decodeVcmpf, decodeV, h1, h2, h3, fcondOf_code, vsrcOf_bits]
  rfl
theorem decodeVcmpi_packed (m : MaskCode) (cc : ICond) (k : MaskCode) (a : RowCode) (b : VSrc) :
    decodeVcmpi m (icondCode cc ++ 0#1 ++ k) a (vsrcBits b) (vsrcS b) = .ok (.vcmpi m cc k a b) := by
  have h1 : (icondCode cc ++ 0#1 ++ k).extractLsb' 3 1 = 0#1 := mid_append ..
  have h2 : (icondCode cc ++ 0#1 ++ k).extractLsb' 4 3 = icondCode cc := top_append ..
  have h3 : (icondCode cc ++ 0#1 ++ k).extractLsb' 0 3 = k := low_append ..
  simp only [decodeVcmpi, decodeV, h1, h2, h3, icondOf_code, vsrcOf_bits]
  rfl
theorem decodeVxs_ext (d : Reg) (a : RowCode) (n : BitVec 4) : decodeVxs 0 (0#2 ++ d) a (0#3 ++ n) 0 = .ok (.vext d a n) := by
  simp only [decodeVxs, high_append, low_append]
  rfl
theorem decodeVxs_ins (d : RowCode) (n : BitVec 4) (b : Reg) : decodeVxs 0 d (0#3 ++ n) (0#2 ++ b) 1 = .ok (.vins d n b) := by
  simp only [decodeVxs, high_append, low_append]
  rfl

end Sys2Proof
end

