-- ==== Sys2Proof/Laws/State.lean ====
section
/-! SUPPORT. What a table holds after a write, and each field of the state, of a core and of a thread after each of the plain
updates. -/

namespace Sys2Proof

@[simp] theorem Tbl.get_nil {α : Type} (d : α) (k : Nat) : Tbl.get ([] : Tbl α) d k = d := rfl

theorem Tbl.get_set {α : Type} (t : Tbl α) (d : α) (j k : Nat) (v : α) :
    (t.set k v).get d j = if j = k then v else t.get d j := by
  induction t with
  | nil =>
    simp only [Tbl.set, Tbl.get]
    by_cases h : j = k
    · simp [h]
    · have : k ≠ j := fun e => h e.symm
      simp [h, this]
  | cons p rest ih =>
    obtain ⟨i, u⟩ := p
    simp only [Tbl.set]
    split
    · rename_i h
      subst h
      simp only [Tbl.get]
      by_cases g : i = j
      · simp [g]
      · have : j ≠ i := fun e => g e.symm
        simp [g, this]
    · split
      · simp only [Tbl.get]
        by_cases g : k = j
        · simp [g]
        · have : j ≠ k := fun e => g e.symm
          simp [g, this]
      · rename_i h _
        simp only [Tbl.get, ih]
        by_cases g : i = j
        · have : j ≠ k := fun e => h (g.trans e)
          simp [g, this]
        · simp [g]

@[simp] theorem Tbl.get_set_self {α : Type} (t : Tbl α) (d : α) (k : Nat) (v : α) : (t.set k v).get d k = v := by
  simp [Tbl.get_set]

@[simp] theorem Tbl.get_set_ne {α : Type} (t : Tbl α) (d : α) {j k : Nat} (v : α) (h : j ≠ k) :
    (t.set k v).get d j = t.get d j := by
  simp [Tbl.get_set, h]

end Sys2Proof

namespace Sys2Proof.Machine

open Sys2Proof

/-! Fields of the state. -/

@[simp] theorem State.setCore_clusters (s : State) (c : Nat) (k : Core) : (s.setCore c k).clusters = s.clusters := rfl
@[simp] theorem State.setCore_dies (s : State) (c : Nat) (k : Core) : (s.setCore c k).dies = s.dies := rfl
@[simp] theorem State.setCore_ctxs (s : State) (c : Nat) (k : Core) : (s.setCore c k).ctxs = s.ctxs := rfl
@[simp] theorem State.setCore_hbm (s : State) (c : Nat) (k : Core) : (s.setCore c k).hbm = s.hbm := rfl
@[simp] theorem State.setCore_weight (s : State) (c : Nat) (k : Core) : (s.setCore c k).weight = s.weight := rfl
@[simp] theorem State.setCore_hbmBad (s : State) (c : Nat) (k : Core) : (s.setCore c k).hbmBad = s.hbmBad := rfl
@[simp] theorem State.setCore_stale (s : State) (c : Nat) (k : Core) : (s.setCore c k).stale = s.stale := rfl
@[simp] theorem State.setCore_oldCode (s : State) (c : Nat) (k : Core) : (s.setCore c k).oldCode = s.oldCode := rfl
@[simp] theorem State.setCore_paddocks (s : State) (c : Nat) (k : Core) : (s.setCore c k).paddocks = s.paddocks := rfl
@[simp] theorem State.setCore_msgs (s : State) (c : Nat) (k : Core) : (s.setCore c k).msgs = s.msgs := rfl
@[simp] theorem State.setCore_awayMsgs (s : State) (c : Nat) (k : Core) : (s.setCore c k).awayMsgs = s.awayMsgs := rfl
@[simp] theorem State.setCore_weights (s : State) (c : Nat) (k : Core) : (s.setCore c k).weights = s.weights := rfl
@[simp] theorem State.setCore_awayWeights (s : State) (c : Nat) (k : Core) : (s.setCore c k).awayWeights = s.awayWeights := rfl
@[simp] theorem State.setCore_outbox (s : State) (c : Nat) (k : Core) : (s.setCore c k).outbox = s.outbox := rfl
@[simp] theorem State.setCore_flitNum (s : State) (c : Nat) (k : Core) : (s.setCore c k).flitNum = s.flitNum := rfl
@[simp] theorem State.setCore_faultMsgs (s : State) (c : Nat) (k : Core) : (s.setCore c k).faultMsgs = s.faultMsgs := rfl
@[simp] theorem State.setCore_ios (s : State) (c : Nat) (k : Core) : (s.setCore c k).ios = s.ios := rfl
@[simp] theorem State.setCore_conns (s : State) (c : Nat) (k : Core) : (s.setCore c k).conns = s.conns := rfl
@[simp] theorem State.setCore_inbox (s : State) (c : Nat) (k : Core) : (s.setCore c k).inbox = s.inbox := rfl
@[simp] theorem State.setCore_replies (s : State) (c : Nat) (k : Core) : (s.setCore c k).replies = s.replies := rfl
@[simp] theorem State.setCore_devNum (s : State) (c : Nat) (k : Core) : (s.setCore c k).devNum = s.devNum := rfl
@[simp] theorem State.setCore_ports (s : State) (c : Nat) (k : Core) : (s.setCore c k).ports = s.ports := rfl
@[simp] theorem State.setCore_encoders (s : State) (c : Nat) (k : Core) : (s.setCore c k).encoders = s.encoders := rfl
@[simp] theorem State.setCore_patches (s : State) (c : Nat) (k : Core) : (s.setCore c k).patches = s.patches := rfl
@[simp] theorem State.setCore_patchImages (s : State) (c : Nat) (k : Core) : (s.setCore c k).patchImages = s.patchImages := rfl
@[simp] theorem State.setCore_time (s : State) (c : Nat) (k : Core) : (s.setCore c k).time = s.time := rfl
@[simp] theorem State.setCore_mgmt (s : State) (c : Nat) (k : Core) : (s.setCore c k).mgmt = s.mgmt := rfl
@[simp] theorem State.setCore_cur (s : State) (c : Nat) (k : Core) : (s.setCore c k).cur = s.cur := rfl
@[simp] theorem State.setCore_agenda (s : State) (c : Nat) (k : Core) : (s.setCore c k).agenda = s.agenda := rfl
@[simp] theorem State.setCore_roundLeft (s : State) (c : Nat) (k : Core) : (s.setCore c k).roundLeft = s.roundLeft := rfl
@[simp] theorem State.setCore_freeCount (s : State) (c : Nat) (k : Core) : (s.setCore c k).freeCount = s.freeCount := rfl
@[simp] theorem State.updCore_clusters (s : State) (c : Nat) (f : Core → Core) : (s.updCore c f).clusters = s.clusters := rfl
@[simp] theorem State.updCore_dies (s : State) (c : Nat) (f : Core → Core) : (s.updCore c f).dies = s.dies := rfl
@[simp] theorem State.updCore_ctxs (s : State) (c : Nat) (f : Core → Core) : (s.updCore c f).ctxs = s.ctxs := rfl
@[simp] theorem State.updCore_hbm (s : State) (c : Nat) (f : Core → Core) : (s.updCore c f).hbm = s.hbm := rfl
@[simp] theorem State.updCore_weight (s : State) (c : Nat) (f : Core → Core) : (s.updCore c f).weight = s.weight := rfl
@[simp] theorem State.updCore_hbmBad (s : State) (c : Nat) (f : Core → Core) : (s.updCore c f).hbmBad = s.hbmBad := rfl
@[simp] theorem State.updCore_stale (s : State) (c : Nat) (f : Core → Core) : (s.updCore c f).stale = s.stale := rfl
@[simp] theorem State.updCore_oldCode (s : State) (c : Nat) (f : Core → Core) : (s.updCore c f).oldCode = s.oldCode := rfl
@[simp] theorem State.updCore_paddocks (s : State) (c : Nat) (f : Core → Core) : (s.updCore c f).paddocks = s.paddocks := rfl
@[simp] theorem State.updCore_msgs (s : State) (c : Nat) (f : Core → Core) : (s.updCore c f).msgs = s.msgs := rfl
@[simp] theorem State.updCore_awayMsgs (s : State) (c : Nat) (f : Core → Core) : (s.updCore c f).awayMsgs = s.awayMsgs := rfl
@[simp] theorem State.updCore_weights (s : State) (c : Nat) (f : Core → Core) : (s.updCore c f).weights = s.weights := rfl
@[simp] theorem State.updCore_awayWeights (s : State) (c : Nat) (f : Core → Core) : (s.updCore c f).awayWeights = s.awayWeights := rfl
@[simp] theorem State.updCore_outbox (s : State) (c : Nat) (f : Core → Core) : (s.updCore c f).outbox = s.outbox := rfl
@[simp] theorem State.updCore_flitNum (s : State) (c : Nat) (f : Core → Core) : (s.updCore c f).flitNum = s.flitNum := rfl
@[simp] theorem State.updCore_faultMsgs (s : State) (c : Nat) (f : Core → Core) : (s.updCore c f).faultMsgs = s.faultMsgs := rfl
@[simp] theorem State.updCore_ios (s : State) (c : Nat) (f : Core → Core) : (s.updCore c f).ios = s.ios := rfl
@[simp] theorem State.updCore_conns (s : State) (c : Nat) (f : Core → Core) : (s.updCore c f).conns = s.conns := rfl
@[simp] theorem State.updCore_inbox (s : State) (c : Nat) (f : Core → Core) : (s.updCore c f).inbox = s.inbox := rfl
@[simp] theorem State.updCore_replies (s : State) (c : Nat) (f : Core → Core) : (s.updCore c f).replies = s.replies := rfl
@[simp] theorem State.updCore_devNum (s : State) (c : Nat) (f : Core → Core) : (s.updCore c f).devNum = s.devNum := rfl
@[simp] theorem State.updCore_ports (s : State) (c : Nat) (f : Core → Core) : (s.updCore c f).ports = s.ports := rfl
@[simp] theorem State.updCore_encoders (s : State) (c : Nat) (f : Core → Core) : (s.updCore c f).encoders = s.encoders := rfl
@[simp] theorem State.updCore_patches (s : State) (c : Nat) (f : Core → Core) : (s.updCore c f).patches = s.patches := rfl
@[simp] theorem State.updCore_patchImages (s : State) (c : Nat) (f : Core → Core) : (s.updCore c f).patchImages = s.patchImages := rfl
@[simp] theorem State.updCore_time (s : State) (c : Nat) (f : Core → Core) : (s.updCore c f).time = s.time := rfl
@[simp] theorem State.updCore_mgmt (s : State) (c : Nat) (f : Core → Core) : (s.updCore c f).mgmt = s.mgmt := rfl
@[simp] theorem State.updCore_cur (s : State) (c : Nat) (f : Core → Core) : (s.updCore c f).cur = s.cur := rfl
@[simp] theorem State.updCore_agenda (s : State) (c : Nat) (f : Core → Core) : (s.updCore c f).agenda = s.agenda := rfl
@[simp] theorem State.updCore_roundLeft (s : State) (c : Nat) (f : Core → Core) : (s.updCore c f).roundLeft = s.roundLeft := rfl
@[simp] theorem State.updCore_freeCount (s : State) (c : Nat) (f : Core → Core) : (s.updCore c f).freeCount = s.freeCount := rfl
@[simp] theorem State.setThread_clusters (s : State) (i : ThreadId) (x : Thread) : (s.setThread i x).clusters = s.clusters := rfl
@[simp] theorem State.setThread_dies (s : State) (i : ThreadId) (x : Thread) : (s.setThread i x).dies = s.dies := rfl
@[simp] theorem State.setThread_ctxs (s : State) (i : ThreadId) (x : Thread) : (s.setThread i x).ctxs = s.ctxs := rfl
@[simp] theorem State.setThread_hbm (s : State) (i : ThreadId) (x : Thread) : (s.setThread i x).hbm = s.hbm := rfl
@[simp] theorem State.setThread_weight (s : State) (i : ThreadId) (x : Thread) : (s.setThread i x).weight = s.weight := rfl
@[simp] theorem State.setThread_hbmBad (s : State) (i : ThreadId) (x : Thread) : (s.setThread i x).hbmBad = s.hbmBad := rfl
@[simp] theorem State.setThread_stale (s : State) (i : ThreadId) (x : Thread) : (s.setThread i x).stale = s.stale := rfl
@[simp] theorem State.setThread_oldCode (s : State) (i : ThreadId) (x : Thread) : (s.setThread i x).oldCode = s.oldCode := rfl
@[simp] theorem State.setThread_paddocks (s : State) (i : ThreadId) (x : Thread) : (s.setThread i x).paddocks = s.paddocks := rfl
@[simp] theorem State.setThread_msgs (s : State) (i : ThreadId) (x : Thread) : (s.setThread i x).msgs = s.msgs := rfl
@[simp] theorem State.setThread_awayMsgs (s : State) (i : ThreadId) (x : Thread) : (s.setThread i x).awayMsgs = s.awayMsgs := rfl
@[simp] theorem State.setThread_weights (s : State) (i : ThreadId) (x : Thread) : (s.setThread i x).weights = s.weights := rfl
@[simp] theorem State.setThread_awayWeights (s : State) (i : ThreadId) (x : Thread) : (s.setThread i x).awayWeights = s.awayWeights := rfl
@[simp] theorem State.setThread_outbox (s : State) (i : ThreadId) (x : Thread) : (s.setThread i x).outbox = s.outbox := rfl
@[simp] theorem State.setThread_flitNum (s : State) (i : ThreadId) (x : Thread) : (s.setThread i x).flitNum = s.flitNum := rfl
@[simp] theorem State.setThread_faultMsgs (s : State) (i : ThreadId) (x : Thread) : (s.setThread i x).faultMsgs = s.faultMsgs := rfl
@[simp] theorem State.setThread_ios (s : State) (i : ThreadId) (x : Thread) : (s.setThread i x).ios = s.ios := rfl
@[simp] theorem State.setThread_conns (s : State) (i : ThreadId) (x : Thread) : (s.setThread i x).conns = s.conns := rfl
@[simp] theorem State.setThread_inbox (s : State) (i : ThreadId) (x : Thread) : (s.setThread i x).inbox = s.inbox := rfl
@[simp] theorem State.setThread_replies (s : State) (i : ThreadId) (x : Thread) : (s.setThread i x).replies = s.replies := rfl
@[simp] theorem State.setThread_devNum (s : State) (i : ThreadId) (x : Thread) : (s.setThread i x).devNum = s.devNum := rfl
@[simp] theorem State.setThread_ports (s : State) (i : ThreadId) (x : Thread) : (s.setThread i x).ports = s.ports := rfl
@[simp] theorem State.setThread_encoders (s : State) (i : ThreadId) (x : Thread) : (s.setThread i x).encoders = s.encoders := rfl
@[simp] theorem State.setThread_patches (s : State) (i : ThreadId) (x : Thread) : (s.setThread i x).patches = s.patches := rfl
@[simp] theorem State.setThread_patchImages (s : State) (i : ThreadId) (x : Thread) : (s.setThread i x).patchImages = s.patchImages := rfl
@[simp] theorem State.setThread_time (s : State) (i : ThreadId) (x : Thread) : (s.setThread i x).time = s.time := rfl
@[simp] theorem State.setThread_mgmt (s : State) (i : ThreadId) (x : Thread) : (s.setThread i x).mgmt = s.mgmt := rfl
@[simp] theorem State.setThread_cur (s : State) (i : ThreadId) (x : Thread) : (s.setThread i x).cur = s.cur := rfl
@[simp] theorem State.setThread_agenda (s : State) (i : ThreadId) (x : Thread) : (s.setThread i x).agenda = s.agenda := rfl
@[simp] theorem State.setThread_roundLeft (s : State) (i : ThreadId) (x : Thread) : (s.setThread i x).roundLeft = s.roundLeft := rfl
@[simp] theorem State.setThread_freeCount (s : State) (i : ThreadId) (x : Thread) : (s.setThread i x).freeCount = s.freeCount := rfl
@[simp] theorem State.updThread_clusters (s : State) (i : ThreadId) (f : Thread → Thread) : (s.updThread i f).clusters = s.clusters := rfl
@[simp] theorem State.updThread_dies (s : State) (i : ThreadId) (f : Thread → Thread) : (s.updThread i f).dies = s.dies := rfl
@[simp] theorem State.updThread_ctxs (s : State) (i : ThreadId) (f : Thread → Thread) : (s.updThread i f).ctxs = s.ctxs := rfl
@[simp] theorem State.updThread_hbm (s : State) (i : ThreadId) (f : Thread → Thread) : (s.updThread i f).hbm = s.hbm := rfl
@[simp] theorem State.updThread_weight (s : State) (i : ThreadId) (f : Thread → Thread) : (s.updThread i f).weight = s.weight := rfl
@[simp] theorem State.updThread_hbmBad (s : State) (i : ThreadId) (f : Thread → Thread) : (s.updThread i f).hbmBad = s.hbmBad := rfl
@[simp] theorem State.updThread_stale (s : State) (i : ThreadId) (f : Thread → Thread) : (s.updThread i f).stale = s.stale := rfl
@[simp] theorem State.updThread_oldCode (s : State) (i : ThreadId) (f : Thread → Thread) : (s.updThread i f).oldCode = s.oldCode := rfl
@[simp] theorem State.updThread_paddocks (s : State) (i : ThreadId) (f : Thread → Thread) : (s.updThread i f).paddocks = s.paddocks := rfl
@[simp] theorem State.updThread_msgs (s : State) (i : ThreadId) (f : Thread → Thread) : (s.updThread i f).msgs = s.msgs := rfl
@[simp] theorem State.updThread_awayMsgs (s : State) (i : ThreadId) (f : Thread → Thread) : (s.updThread i f).awayMsgs = s.awayMsgs := rfl
@[simp] theorem State.updThread_weights (s : State) (i : ThreadId) (f : Thread → Thread) : (s.updThread i f).weights = s.weights := rfl
@[simp] theorem State.updThread_awayWeights (s : State) (i : ThreadId) (f : Thread → Thread) : (s.updThread i f).awayWeights = s.awayWeights := rfl
@[simp] theorem State.updThread_outbox (s : State) (i : ThreadId) (f : Thread → Thread) : (s.updThread i f).outbox = s.outbox := rfl
@[simp] theorem State.updThread_flitNum (s : State) (i : ThreadId) (f : Thread → Thread) : (s.updThread i f).flitNum = s.flitNum := rfl
@[simp] theorem State.updThread_faultMsgs (s : State) (i : ThreadId) (f : Thread → Thread) : (s.updThread i f).faultMsgs = s.faultMsgs := rfl
@[simp] theorem State.updThread_ios (s : State) (i : ThreadId) (f : Thread → Thread) : (s.updThread i f).ios = s.ios := rfl
@[simp] theorem State.updThread_conns (s : State) (i : ThreadId) (f : Thread → Thread) : (s.updThread i f).conns = s.conns := rfl
@[simp] theorem State.updThread_inbox (s : State) (i : ThreadId) (f : Thread → Thread) : (s.updThread i f).inbox = s.inbox := rfl
@[simp] theorem State.updThread_replies (s : State) (i : ThreadId) (f : Thread → Thread) : (s.updThread i f).replies = s.replies := rfl
@[simp] theorem State.updThread_devNum (s : State) (i : ThreadId) (f : Thread → Thread) : (s.updThread i f).devNum = s.devNum := rfl
@[simp] theorem State.updThread_ports (s : State) (i : ThreadId) (f : Thread → Thread) : (s.updThread i f).ports = s.ports := rfl
@[simp] theorem State.updThread_encoders (s : State) (i : ThreadId) (f : Thread → Thread) : (s.updThread i f).encoders = s.encoders := rfl
@[simp] theorem State.updThread_patches (s : State) (i : ThreadId) (f : Thread → Thread) : (s.updThread i f).patches = s.patches := rfl
@[simp] theorem State.updThread_patchImages (s : State) (i : ThreadId) (f : Thread → Thread) : (s.updThread i f).patchImages = s.patchImages := rfl
@[simp] theorem State.updThread_time (s : State) (i : ThreadId) (f : Thread → Thread) : (s.updThread i f).time = s.time := rfl
@[simp] theorem State.updThread_mgmt (s : State) (i : ThreadId) (f : Thread → Thread) : (s.updThread i f).mgmt = s.mgmt := rfl
@[simp] theorem State.updThread_cur (s : State) (i : ThreadId) (f : Thread → Thread) : (s.updThread i f).cur = s.cur := rfl
@[simp] theorem State.updThread_agenda (s : State) (i : ThreadId) (f : Thread → Thread) : (s.updThread i f).agenda = s.agenda := rfl
@[simp] theorem State.updThread_roundLeft (s : State) (i : ThreadId) (f : Thread → Thread) : (s.updThread i f).roundLeft = s.roundLeft := rfl
@[simp] theorem State.updThread_freeCount (s : State) (i : ThreadId) (f : Thread → Thread) : (s.updThread i f).freeCount = s.freeCount := rfl
@[simp] theorem State.setMe_clusters (s : State) (x : Thread) : (s.setMe x).clusters = s.clusters := rfl
@[simp] theorem State.setMe_dies (s : State) (x : Thread) : (s.setMe x).dies = s.dies := rfl
@[simp] theorem State.setMe_ctxs (s : State) (x : Thread) : (s.setMe x).ctxs = s.ctxs := rfl
@[simp] theorem State.setMe_hbm (s : State) (x : Thread) : (s.setMe x).hbm = s.hbm := rfl
@[simp] theorem State.setMe_weight (s : State) (x : Thread) : (s.setMe x).weight = s.weight := rfl
@[simp] theorem State.setMe_hbmBad (s : State) (x : Thread) : (s.setMe x).hbmBad = s.hbmBad := rfl
@[simp] theorem State.setMe_stale (s : State) (x : Thread) : (s.setMe x).stale = s.stale := rfl
@[simp] theorem State.setMe_oldCode (s : State) (x : Thread) : (s.setMe x).oldCode = s.oldCode := rfl
@[simp] theorem State.setMe_paddocks (s : State) (x : Thread) : (s.setMe x).paddocks = s.paddocks := rfl
@[simp] theorem State.setMe_msgs (s : State) (x : Thread) : (s.setMe x).msgs = s.msgs := rfl
@[simp] theorem State.setMe_awayMsgs (s : State) (x : Thread) : (s.setMe x).awayMsgs = s.awayMsgs := rfl
@[simp] theorem State.setMe_weights (s : State) (x : Thread) : (s.setMe x).weights = s.weights := rfl
@[simp] theorem State.setMe_awayWeights (s : State) (x : Thread) : (s.setMe x).awayWeights = s.awayWeights := rfl
@[simp] theorem State.setMe_outbox (s : State) (x : Thread) : (s.setMe x).outbox = s.outbox := rfl
@[simp] theorem State.setMe_flitNum (s : State) (x : Thread) : (s.setMe x).flitNum = s.flitNum := rfl
@[simp] theorem State.setMe_faultMsgs (s : State) (x : Thread) : (s.setMe x).faultMsgs = s.faultMsgs := rfl
@[simp] theorem State.setMe_ios (s : State) (x : Thread) : (s.setMe x).ios = s.ios := rfl
@[simp] theorem State.setMe_conns (s : State) (x : Thread) : (s.setMe x).conns = s.conns := rfl
@[simp] theorem State.setMe_inbox (s : State) (x : Thread) : (s.setMe x).inbox = s.inbox := rfl
@[simp] theorem State.setMe_replies (s : State) (x : Thread) : (s.setMe x).replies = s.replies := rfl
@[simp] theorem State.setMe_devNum (s : State) (x : Thread) : (s.setMe x).devNum = s.devNum := rfl
@[simp] theorem State.setMe_ports (s : State) (x : Thread) : (s.setMe x).ports = s.ports := rfl
@[simp] theorem State.setMe_encoders (s : State) (x : Thread) : (s.setMe x).encoders = s.encoders := rfl
@[simp] theorem State.setMe_patches (s : State) (x : Thread) : (s.setMe x).patches = s.patches := rfl
@[simp] theorem State.setMe_patchImages (s : State) (x : Thread) : (s.setMe x).patchImages = s.patchImages := rfl
@[simp] theorem State.setMe_time (s : State) (x : Thread) : (s.setMe x).time = s.time := rfl
@[simp] theorem State.setMe_mgmt (s : State) (x : Thread) : (s.setMe x).mgmt = s.mgmt := rfl
@[simp] theorem State.setMe_cur (s : State) (x : Thread) : (s.setMe x).cur = s.cur := rfl
@[simp] theorem State.setMe_agenda (s : State) (x : Thread) : (s.setMe x).agenda = s.agenda := rfl
@[simp] theorem State.setMe_roundLeft (s : State) (x : Thread) : (s.setMe x).roundLeft = s.roundLeft := rfl
@[simp] theorem State.setMe_freeCount (s : State) (x : Thread) : (s.setMe x).freeCount = s.freeCount := rfl
@[simp] theorem State.updMe_clusters (s : State) (f : Thread → Thread) : (s.updMe f).clusters = s.clusters := rfl
@[simp] theorem State.updMe_dies (s : State) (f : Thread → Thread) : (s.updMe f).dies = s.dies := rfl
@[simp] theorem State.updMe_ctxs (s : State) (f : Thread → Thread) : (s.updMe f).ctxs = s.ctxs := rfl
@[simp] theorem State.updMe_hbm (s : State) (f : Thread → Thread) : (s.updMe f).hbm = s.hbm := rfl
@[simp] theorem State.updMe_weight (s : State) (f : Thread → Thread) : (s.updMe f).weight = s.weight := rfl
@[simp] theorem State.updMe_hbmBad (s : State) (f : Thread → Thread) : (s.updMe f).hbmBad = s.hbmBad := rfl
@[simp] theorem State.updMe_stale (s : State) (f : Thread → Thread) : (s.updMe f).stale = s.stale := rfl
@[simp] theorem State.updMe_oldCode (s : State) (f : Thread → Thread) : (s.updMe f).oldCode = s.oldCode := rfl
@[simp] theorem State.updMe_paddocks (s : State) (f : Thread → Thread) : (s.updMe f).paddocks = s.paddocks := rfl
@[simp] theorem State.updMe_msgs (s : State) (f : Thread → Thread) : (s.updMe f).msgs = s.msgs := rfl
@[simp] theorem State.updMe_awayMsgs (s : State) (f : Thread → Thread) : (s.updMe f).awayMsgs = s.awayMsgs := rfl
@[simp] theorem State.updMe_weights (s : State) (f : Thread → Thread) : (s.updMe f).weights = s.weights := rfl
@[simp] theorem State.updMe_awayWeights (s : State) (f : Thread → Thread) : (s.updMe f).awayWeights = s.awayWeights := rfl
@[simp] theorem State.updMe_outbox (s : State) (f : Thread → Thread) : (s.updMe f).outbox = s.outbox := rfl
@[simp] theorem State.updMe_flitNum (s : State) (f : Thread → Thread) : (s.updMe f).flitNum = s.flitNum := rfl
@[simp] theorem State.updMe_faultMsgs (s : State) (f : Thread → Thread) : (s.updMe f).faultMsgs = s.faultMsgs := rfl
@[simp] theorem State.updMe_ios (s : State) (f : Thread → Thread) : (s.updMe f).ios = s.ios := rfl
@[simp] theorem State.updMe_conns (s : State) (f : Thread → Thread) : (s.updMe f).conns = s.conns := rfl
@[simp] theorem State.updMe_inbox (s : State) (f : Thread → Thread) : (s.updMe f).inbox = s.inbox := rfl
@[simp] theorem State.updMe_replies (s : State) (f : Thread → Thread) : (s.updMe f).replies = s.replies := rfl
@[simp] theorem State.updMe_devNum (s : State) (f : Thread → Thread) : (s.updMe f).devNum = s.devNum := rfl
@[simp] theorem State.updMe_ports (s : State) (f : Thread → Thread) : (s.updMe f).ports = s.ports := rfl
@[simp] theorem State.updMe_encoders (s : State) (f : Thread → Thread) : (s.updMe f).encoders = s.encoders := rfl
@[simp] theorem State.updMe_patches (s : State) (f : Thread → Thread) : (s.updMe f).patches = s.patches := rfl
@[simp] theorem State.updMe_patchImages (s : State) (f : Thread → Thread) : (s.updMe f).patchImages = s.patchImages := rfl
@[simp] theorem State.updMe_time (s : State) (f : Thread → Thread) : (s.updMe f).time = s.time := rfl
@[simp] theorem State.updMe_mgmt (s : State) (f : Thread → Thread) : (s.updMe f).mgmt = s.mgmt := rfl
@[simp] theorem State.updMe_cur (s : State) (f : Thread → Thread) : (s.updMe f).cur = s.cur := rfl
@[simp] theorem State.updMe_agenda (s : State) (f : Thread → Thread) : (s.updMe f).agenda = s.agenda := rfl
@[simp] theorem State.updMe_roundLeft (s : State) (f : Thread → Thread) : (s.updMe f).roundLeft = s.roundLeft := rfl
@[simp] theorem State.updMe_freeCount (s : State) (f : Thread → Thread) : (s.updMe f).freeCount = s.freeCount := rfl
@[simp] theorem State.updMyCore_clusters (s : State) (f : Core → Core) : (s.updMyCore f).clusters = s.clusters := rfl
@[simp] theorem State.updMyCore_dies (s : State) (f : Core → Core) : (s.updMyCore f).dies = s.dies := rfl
@[simp] theorem State.updMyCore_ctxs (s : State) (f : Core → Core) : (s.updMyCore f).ctxs = s.ctxs := rfl
@[simp] theorem State.updMyCore_hbm (s : State) (f : Core → Core) : (s.updMyCore f).hbm = s.hbm := rfl
@[simp] theorem State.updMyCore_weight (s : State) (f : Core → Core) : (s.updMyCore f).weight = s.weight := rfl
@[simp] theorem State.updMyCore_hbmBad (s : State) (f : Core → Core) : (s.updMyCore f).hbmBad = s.hbmBad := rfl
@[simp] theorem State.updMyCore_stale (s : State) (f : Core → Core) : (s.updMyCore f).stale = s.stale := rfl
@[simp] theorem State.updMyCore_oldCode (s : State) (f : Core → Core) : (s.updMyCore f).oldCode = s.oldCode := rfl
@[simp] theorem State.updMyCore_paddocks (s : State) (f : Core → Core) : (s.updMyCore f).paddocks = s.paddocks := rfl
@[simp] theorem State.updMyCore_msgs (s : State) (f : Core → Core) : (s.updMyCore f).msgs = s.msgs := rfl
@[simp] theorem State.updMyCore_awayMsgs (s : State) (f : Core → Core) : (s.updMyCore f).awayMsgs = s.awayMsgs := rfl
@[simp] theorem State.updMyCore_weights (s : State) (f : Core → Core) : (s.updMyCore f).weights = s.weights := rfl
@[simp] theorem State.updMyCore_awayWeights (s : State) (f : Core → Core) : (s.updMyCore f).awayWeights = s.awayWeights := rfl
@[simp] theorem State.updMyCore_outbox (s : State) (f : Core → Core) : (s.updMyCore f).outbox = s.outbox := rfl
@[simp] theorem State.updMyCore_flitNum (s : State) (f : Core → Core) : (s.updMyCore f).flitNum = s.flitNum := rfl
@[simp] theorem State.updMyCore_faultMsgs (s : State) (f : Core → Core) : (s.updMyCore f).faultMsgs = s.faultMsgs := rfl
@[simp] theorem State.updMyCore_ios (s : State) (f : Core → Core) : (s.updMyCore f).ios = s.ios := rfl
@[simp] theorem State.updMyCore_conns (s : State) (f : Core → Core) : (s.updMyCore f).conns = s.conns := rfl
@[simp] theorem State.updMyCore_inbox (s : State) (f : Core → Core) : (s.updMyCore f).inbox = s.inbox := rfl
@[simp] theorem State.updMyCore_replies (s : State) (f : Core → Core) : (s.updMyCore f).replies = s.replies := rfl
@[simp] theorem State.updMyCore_devNum (s : State) (f : Core → Core) : (s.updMyCore f).devNum = s.devNum := rfl
@[simp] theorem State.updMyCore_ports (s : State) (f : Core → Core) : (s.updMyCore f).ports = s.ports := rfl
@[simp] theorem State.updMyCore_encoders (s : State) (f : Core → Core) : (s.updMyCore f).encoders = s.encoders := rfl
@[simp] theorem State.updMyCore_patches (s : State) (f : Core → Core) : (s.updMyCore f).patches = s.patches := rfl
@[simp] theorem State.updMyCore_patchImages (s : State) (f : Core → Core) : (s.updMyCore f).patchImages = s.patchImages := rfl
@[simp] theorem State.updMyCore_time (s : State) (f : Core → Core) : (s.updMyCore f).time = s.time := rfl
@[simp] theorem State.updMyCore_mgmt (s : State) (f : Core → Core) : (s.updMyCore f).mgmt = s.mgmt := rfl
@[simp] theorem State.updMyCore_cur (s : State) (f : Core → Core) : (s.updMyCore f).cur = s.cur := rfl
@[simp] theorem State.updMyCore_agenda (s : State) (f : Core → Core) : (s.updMyCore f).agenda = s.agenda := rfl
@[simp] theorem State.updMyCore_roundLeft (s : State) (f : Core → Core) : (s.updMyCore f).roundLeft = s.roundLeft := rfl
@[simp] theorem State.updMyCore_freeCount (s : State) (f : Core → Core) : (s.updMyCore f).freeCount = s.freeCount := rfl
@[simp] theorem State.setReg_clusters (s : State) (r : Reg) (v : Word) : (s.setReg r v).clusters = s.clusters := rfl
@[simp] theorem State.setReg_dies (s : State) (r : Reg) (v : Word) : (s.setReg r v).dies = s.dies := rfl
@[simp] theorem State.setReg_ctxs (s : State) (r : Reg) (v : Word) : (s.setReg r v).ctxs = s.ctxs := rfl
@[simp] theorem State.setReg_hbm (s : State) (r : Reg) (v : Word) : (s.setReg r v).hbm = s.hbm := rfl
@[simp] theorem State.setReg_weight (s : State) (r : Reg) (v : Word) : (s.setReg r v).weight = s.weight := rfl
@[simp] theorem State.setReg_hbmBad (s : State) (r : Reg) (v : Word) : (s.setReg r v).hbmBad = s.hbmBad := rfl
@[simp] theorem State.setReg_stale (s : State) (r : Reg) (v : Word) : (s.setReg r v).stale = s.stale := rfl
@[simp] theorem State.setReg_oldCode (s : State) (r : Reg) (v : Word) : (s.setReg r v).oldCode = s.oldCode := rfl
@[simp] theorem State.setReg_paddocks (s : State) (r : Reg) (v : Word) : (s.setReg r v).paddocks = s.paddocks := rfl
@[simp] theorem State.setReg_msgs (s : State) (r : Reg) (v : Word) : (s.setReg r v).msgs = s.msgs := rfl
@[simp] theorem State.setReg_awayMsgs (s : State) (r : Reg) (v : Word) : (s.setReg r v).awayMsgs = s.awayMsgs := rfl
@[simp] theorem State.setReg_weights (s : State) (r : Reg) (v : Word) : (s.setReg r v).weights = s.weights := rfl
@[simp] theorem State.setReg_awayWeights (s : State) (r : Reg) (v : Word) : (s.setReg r v).awayWeights = s.awayWeights := rfl
@[simp] theorem State.setReg_outbox (s : State) (r : Reg) (v : Word) : (s.setReg r v).outbox = s.outbox := rfl
@[simp] theorem State.setReg_flitNum (s : State) (r : Reg) (v : Word) : (s.setReg r v).flitNum = s.flitNum := rfl
@[simp] theorem State.setReg_faultMsgs (s : State) (r : Reg) (v : Word) : (s.setReg r v).faultMsgs = s.faultMsgs := rfl
@[simp] theorem State.setReg_ios (s : State) (r : Reg) (v : Word) : (s.setReg r v).ios = s.ios := rfl
@[simp] theorem State.setReg_conns (s : State) (r : Reg) (v : Word) : (s.setReg r v).conns = s.conns := rfl
@[simp] theorem State.setReg_inbox (s : State) (r : Reg) (v : Word) : (s.setReg r v).inbox = s.inbox := rfl
@[simp] theorem State.setReg_replies (s : State) (r : Reg) (v : Word) : (s.setReg r v).replies = s.replies := rfl
@[simp] theorem State.setReg_devNum (s : State) (r : Reg) (v : Word) : (s.setReg r v).devNum = s.devNum := rfl
@[simp] theorem State.setReg_ports (s : State) (r : Reg) (v : Word) : (s.setReg r v).ports = s.ports := rfl
@[simp] theorem State.setReg_encoders (s : State) (r : Reg) (v : Word) : (s.setReg r v).encoders = s.encoders := rfl
@[simp] theorem State.setReg_patches (s : State) (r : Reg) (v : Word) : (s.setReg r v).patches = s.patches := rfl
@[simp] theorem State.setReg_patchImages (s : State) (r : Reg) (v : Word) : (s.setReg r v).patchImages = s.patchImages := rfl
@[simp] theorem State.setReg_time (s : State) (r : Reg) (v : Word) : (s.setReg r v).time = s.time := rfl
@[simp] theorem State.setReg_mgmt (s : State) (r : Reg) (v : Word) : (s.setReg r v).mgmt = s.mgmt := rfl
@[simp] theorem State.setReg_cur (s : State) (r : Reg) (v : Word) : (s.setReg r v).cur = s.cur := rfl
@[simp] theorem State.setReg_agenda (s : State) (r : Reg) (v : Word) : (s.setReg r v).agenda = s.agenda := rfl
@[simp] theorem State.setReg_roundLeft (s : State) (r : Reg) (v : Word) : (s.setReg r v).roundLeft = s.roundLeft := rfl
@[simp] theorem State.setReg_freeCount (s : State) (r : Reg) (v : Word) : (s.setReg r v).freeCount = s.freeCount := rfl
@[simp] theorem State.setRow_clusters (s : State) (r : RowCode) (v : Row) : (s.setRow r v).clusters = s.clusters := rfl
@[simp] theorem State.setRow_dies (s : State) (r : RowCode) (v : Row) : (s.setRow r v).dies = s.dies := rfl
@[simp] theorem State.setRow_ctxs (s : State) (r : RowCode) (v : Row) : (s.setRow r v).ctxs = s.ctxs := rfl
@[simp] theorem State.setRow_hbm (s : State) (r : RowCode) (v : Row) : (s.setRow r v).hbm = s.hbm := rfl
@[simp] theorem State.setRow_weight (s : State) (r : RowCode) (v : Row) : (s.setRow r v).weight = s.weight := rfl
@[simp] theorem State.setRow_hbmBad (s : State) (r : RowCode) (v : Row) : (s.setRow r v).hbmBad = s.hbmBad := rfl
@[simp] theorem State.setRow_stale (s : State) (r : RowCode) (v : Row) : (s.setRow r v).stale = s.stale := rfl
@[simp] theorem State.setRow_oldCode (s : State) (r : RowCode) (v : Row) : (s.setRow r v).oldCode = s.oldCode := rfl
@[simp] theorem State.setRow_paddocks (s : State) (r : RowCode) (v : Row) : (s.setRow r v).paddocks = s.paddocks := rfl
@[simp] theorem State.setRow_msgs (s : State) (r : RowCode) (v : Row) : (s.setRow r v).msgs = s.msgs := rfl
@[simp] theorem State.setRow_awayMsgs (s : State) (r : RowCode) (v : Row) : (s.setRow r v).awayMsgs = s.awayMsgs := rfl
@[simp] theorem State.setRow_weights (s : State) (r : RowCode) (v : Row) : (s.setRow r v).weights = s.weights := rfl
@[simp] theorem State.setRow_awayWeights (s : State) (r : RowCode) (v : Row) : (s.setRow r v).awayWeights = s.awayWeights := rfl
@[simp] theorem State.setRow_outbox (s : State) (r : RowCode) (v : Row) : (s.setRow r v).outbox = s.outbox := rfl
@[simp] theorem State.setRow_flitNum (s : State) (r : RowCode) (v : Row) : (s.setRow r v).flitNum = s.flitNum := rfl
@[simp] theorem State.setRow_faultMsgs (s : State) (r : RowCode) (v : Row) : (s.setRow r v).faultMsgs = s.faultMsgs := rfl
@[simp] theorem State.setRow_ios (s : State) (r : RowCode) (v : Row) : (s.setRow r v).ios = s.ios := rfl
@[simp] theorem State.setRow_conns (s : State) (r : RowCode) (v : Row) : (s.setRow r v).conns = s.conns := rfl
@[simp] theorem State.setRow_inbox (s : State) (r : RowCode) (v : Row) : (s.setRow r v).inbox = s.inbox := rfl
@[simp] theorem State.setRow_replies (s : State) (r : RowCode) (v : Row) : (s.setRow r v).replies = s.replies := rfl
@[simp] theorem State.setRow_devNum (s : State) (r : RowCode) (v : Row) : (s.setRow r v).devNum = s.devNum := rfl
@[simp] theorem State.setRow_ports (s : State) (r : RowCode) (v : Row) : (s.setRow r v).ports = s.ports := rfl
@[simp] theorem State.setRow_encoders (s : State) (r : RowCode) (v : Row) : (s.setRow r v).encoders = s.encoders := rfl
@[simp] theorem State.setRow_patches (s : State) (r : RowCode) (v : Row) : (s.setRow r v).patches = s.patches := rfl
@[simp] theorem State.setRow_patchImages (s : State) (r : RowCode) (v : Row) : (s.setRow r v).patchImages = s.patchImages := rfl
@[simp] theorem State.setRow_time (s : State) (r : RowCode) (v : Row) : (s.setRow r v).time = s.time := rfl
@[simp] theorem State.setRow_mgmt (s : State) (r : RowCode) (v : Row) : (s.setRow r v).mgmt = s.mgmt := rfl
@[simp] theorem State.setRow_cur (s : State) (r : RowCode) (v : Row) : (s.setRow r v).cur = s.cur := rfl
@[simp] theorem State.setRow_agenda (s : State) (r : RowCode) (v : Row) : (s.setRow r v).agenda = s.agenda := rfl
@[simp] theorem State.setRow_roundLeft (s : State) (r : RowCode) (v : Row) : (s.setRow r v).roundLeft = s.roundLeft := rfl
@[simp] theorem State.setRow_freeCount (s : State) (r : RowCode) (v : Row) : (s.setRow r v).freeCount = s.freeCount := rfl
@[simp] theorem State.setMask_clusters (s : State) (m : MaskCode) (v : BitVec 16) : (s.setMask m v).clusters = s.clusters := rfl
@[simp] theorem State.setMask_dies (s : State) (m : MaskCode) (v : BitVec 16) : (s.setMask m v).dies = s.dies := rfl
@[simp] theorem State.setMask_ctxs (s : State) (m : MaskCode) (v : BitVec 16) : (s.setMask m v).ctxs = s.ctxs := rfl
@[simp] theorem State.setMask_hbm (s : State) (m : MaskCode) (v : BitVec 16) : (s.setMask m v).hbm = s.hbm := rfl
@[simp] theorem State.setMask_weight (s : State) (m : MaskCode) (v : BitVec 16) : (s.setMask m v).weight = s.weight := rfl
@[simp] theorem State.setMask_hbmBad (s : State) (m : MaskCode) (v : BitVec 16) : (s.setMask m v).hbmBad = s.hbmBad := rfl
@[simp] theorem State.setMask_stale (s : State) (m : MaskCode) (v : BitVec 16) : (s.setMask m v).stale = s.stale := rfl
@[simp] theorem State.setMask_oldCode (s : State) (m : MaskCode) (v : BitVec 16) : (s.setMask m v).oldCode = s.oldCode := rfl
@[simp] theorem State.setMask_paddocks (s : State) (m : MaskCode) (v : BitVec 16) : (s.setMask m v).paddocks = s.paddocks := rfl
@[simp] theorem State.setMask_msgs (s : State) (m : MaskCode) (v : BitVec 16) : (s.setMask m v).msgs = s.msgs := rfl
@[simp] theorem State.setMask_awayMsgs (s : State) (m : MaskCode) (v : BitVec 16) : (s.setMask m v).awayMsgs = s.awayMsgs := rfl
@[simp] theorem State.setMask_weights (s : State) (m : MaskCode) (v : BitVec 16) : (s.setMask m v).weights = s.weights := rfl
@[simp] theorem State.setMask_awayWeights (s : State) (m : MaskCode) (v : BitVec 16) : (s.setMask m v).awayWeights = s.awayWeights := rfl
@[simp] theorem State.setMask_outbox (s : State) (m : MaskCode) (v : BitVec 16) : (s.setMask m v).outbox = s.outbox := rfl
@[simp] theorem State.setMask_flitNum (s : State) (m : MaskCode) (v : BitVec 16) : (s.setMask m v).flitNum = s.flitNum := rfl
@[simp] theorem State.setMask_faultMsgs (s : State) (m : MaskCode) (v : BitVec 16) : (s.setMask m v).faultMsgs = s.faultMsgs := rfl
@[simp] theorem State.setMask_ios (s : State) (m : MaskCode) (v : BitVec 16) : (s.setMask m v).ios = s.ios := rfl
@[simp] theorem State.setMask_conns (s : State) (m : MaskCode) (v : BitVec 16) : (s.setMask m v).conns = s.conns := rfl
@[simp] theorem State.setMask_inbox (s : State) (m : MaskCode) (v : BitVec 16) : (s.setMask m v).inbox = s.inbox := rfl
@[simp] theorem State.setMask_replies (s : State) (m : MaskCode) (v : BitVec 16) : (s.setMask m v).replies = s.replies := rfl
@[simp] theorem State.setMask_devNum (s : State) (m : MaskCode) (v : BitVec 16) : (s.setMask m v).devNum = s.devNum := rfl
@[simp] theorem State.setMask_ports (s : State) (m : MaskCode) (v : BitVec 16) : (s.setMask m v).ports = s.ports := rfl
@[simp] theorem State.setMask_encoders (s : State) (m : MaskCode) (v : BitVec 16) : (s.setMask m v).encoders = s.encoders := rfl
@[simp] theorem State.setMask_patches (s : State) (m : MaskCode) (v : BitVec 16) : (s.setMask m v).patches = s.patches := rfl
@[simp] theorem State.setMask_patchImages (s : State) (m : MaskCode) (v : BitVec 16) : (s.setMask m v).patchImages = s.patchImages := rfl
@[simp] theorem State.setMask_time (s : State) (m : MaskCode) (v : BitVec 16) : (s.setMask m v).time = s.time := rfl
@[simp] theorem State.setMask_mgmt (s : State) (m : MaskCode) (v : BitVec 16) : (s.setMask m v).mgmt = s.mgmt := rfl
@[simp] theorem State.setMask_cur (s : State) (m : MaskCode) (v : BitVec 16) : (s.setMask m v).cur = s.cur := rfl
@[simp] theorem State.setMask_agenda (s : State) (m : MaskCode) (v : BitVec 16) : (s.setMask m v).agenda = s.agenda := rfl
@[simp] theorem State.setMask_roundLeft (s : State) (m : MaskCode) (v : BitVec 16) : (s.setMask m v).roundLeft = s.roundLeft := rfl
@[simp] theorem State.setMask_freeCount (s : State) (m : MaskCode) (v : BitVec 16) : (s.setMask m v).freeCount = s.freeCount := rfl
@[simp] theorem State.hpm_clusters (s : State) (c code n : Nat) : (s.hpm c code n).clusters = s.clusters := rfl
@[simp] theorem State.hpm_dies (s : State) (c code n : Nat) : (s.hpm c code n).dies = s.dies := rfl
@[simp] theorem State.hpm_ctxs (s : State) (c code n : Nat) : (s.hpm c code n).ctxs = s.ctxs := rfl
@[simp] theorem State.hpm_hbm (s : State) (c code n : Nat) : (s.hpm c code n).hbm = s.hbm := rfl
@[simp] theorem State.hpm_weight (s : State) (c code n : Nat) : (s.hpm c code n).weight = s.weight := rfl
@[simp] theorem State.hpm_hbmBad (s : State) (c code n : Nat) : (s.hpm c code n).hbmBad = s.hbmBad := rfl
@[simp] theorem State.hpm_stale (s : State) (c code n : Nat) : (s.hpm c code n).stale = s.stale := rfl
@[simp] theorem State.hpm_oldCode (s : State) (c code n : Nat) : (s.hpm c code n).oldCode = s.oldCode := rfl
@[simp] theorem State.hpm_paddocks (s : State) (c code n : Nat) : (s.hpm c code n).paddocks = s.paddocks := rfl
@[simp] theorem State.hpm_msgs (s : State) (c code n : Nat) : (s.hpm c code n).msgs = s.msgs := rfl
@[simp] theorem State.hpm_awayMsgs (s : State) (c code n : Nat) : (s.hpm c code n).awayMsgs = s.awayMsgs := rfl
@[simp] theorem State.hpm_weights (s : State) (c code n : Nat) : (s.hpm c code n).weights = s.weights := rfl
@[simp] theorem State.hpm_awayWeights (s : State) (c code n : Nat) : (s.hpm c code n).awayWeights = s.awayWeights := rfl
@[simp] theorem State.hpm_outbox (s : State) (c code n : Nat) : (s.hpm c code n).outbox = s.outbox := rfl
@[simp] theorem State.hpm_flitNum (s : State) (c code n : Nat) : (s.hpm c code n).flitNum = s.flitNum := rfl
@[simp] theorem State.hpm_faultMsgs (s : State) (c code n : Nat) : (s.hpm c code n).faultMsgs = s.faultMsgs := rfl
@[simp] theorem State.hpm_ios (s : State) (c code n : Nat) : (s.hpm c code n).ios = s.ios := rfl
@[simp] theorem State.hpm_conns (s : State) (c code n : Nat) : (s.hpm c code n).conns = s.conns := rfl
@[simp] theorem State.hpm_inbox (s : State) (c code n : Nat) : (s.hpm c code n).inbox = s.inbox := rfl
@[simp] theorem State.hpm_replies (s : State) (c code n : Nat) : (s.hpm c code n).replies = s.replies := rfl
@[simp] theorem State.hpm_devNum (s : State) (c code n : Nat) : (s.hpm c code n).devNum = s.devNum := rfl
@[simp] theorem State.hpm_ports (s : State) (c code n : Nat) : (s.hpm c code n).ports = s.ports := rfl
@[simp] theorem State.hpm_encoders (s : State) (c code n : Nat) : (s.hpm c code n).encoders = s.encoders := rfl
@[simp] theorem State.hpm_patches (s : State) (c code n : Nat) : (s.hpm c code n).patches = s.patches := rfl
@[simp] theorem State.hpm_patchImages (s : State) (c code n : Nat) : (s.hpm c code n).patchImages = s.patchImages := rfl
@[simp] theorem State.hpm_time (s : State) (c code n : Nat) : (s.hpm c code n).time = s.time := rfl
@[simp] theorem State.hpm_mgmt (s : State) (c code n : Nat) : (s.hpm c code n).mgmt = s.mgmt := rfl
@[simp] theorem State.hpm_cur (s : State) (c code n : Nat) : (s.hpm c code n).cur = s.cur := rfl
@[simp] theorem State.hpm_agenda (s : State) (c code n : Nat) : (s.hpm c code n).agenda = s.agenda := rfl
@[simp] theorem State.hpm_roundLeft (s : State) (c code n : Nat) : (s.hpm c code n).roundLeft = s.roundLeft := rfl
@[simp] theorem State.hpm_freeCount (s : State) (c code n : Nat) : (s.hpm c code n).freeCount = s.freeCount := rfl
@[simp] theorem State.retire_clusters (s : State) : (s.retire).clusters = s.clusters := rfl
@[simp] theorem State.retire_dies (s : State) : (s.retire).dies = s.dies := rfl
@[simp] theorem State.retire_ctxs (s : State) : (s.retire).ctxs = s.ctxs := rfl
@[simp] theorem State.retire_hbm (s : State) : (s.retire).hbm = s.hbm := rfl
@[simp] theorem State.retire_weight (s : State) : (s.retire).weight = s.weight := rfl
@[simp] theorem State.retire_hbmBad (s : State) : (s.retire).hbmBad = s.hbmBad := rfl
@[simp] theorem State.retire_stale (s : State) : (s.retire).stale = s.stale := rfl
@[simp] theorem State.retire_oldCode (s : State) : (s.retire).oldCode = s.oldCode := rfl
@[simp] theorem State.retire_paddocks (s : State) : (s.retire).paddocks = s.paddocks := rfl
@[simp] theorem State.retire_msgs (s : State) : (s.retire).msgs = s.msgs := rfl
@[simp] theorem State.retire_awayMsgs (s : State) : (s.retire).awayMsgs = s.awayMsgs := rfl
@[simp] theorem State.retire_weights (s : State) : (s.retire).weights = s.weights := rfl
@[simp] theorem State.retire_awayWeights (s : State) : (s.retire).awayWeights = s.awayWeights := rfl
@[simp] theorem State.retire_outbox (s : State) : (s.retire).outbox = s.outbox := rfl
@[simp] theorem State.retire_flitNum (s : State) : (s.retire).flitNum = s.flitNum := rfl
@[simp] theorem State.retire_faultMsgs (s : State) : (s.retire).faultMsgs = s.faultMsgs := rfl
@[simp] theorem State.retire_ios (s : State) : (s.retire).ios = s.ios := rfl
@[simp] theorem State.retire_conns (s : State) : (s.retire).conns = s.conns := rfl
@[simp] theorem State.retire_inbox (s : State) : (s.retire).inbox = s.inbox := rfl
@[simp] theorem State.retire_replies (s : State) : (s.retire).replies = s.replies := rfl
@[simp] theorem State.retire_devNum (s : State) : (s.retire).devNum = s.devNum := rfl
@[simp] theorem State.retire_ports (s : State) : (s.retire).ports = s.ports := rfl
@[simp] theorem State.retire_encoders (s : State) : (s.retire).encoders = s.encoders := rfl
@[simp] theorem State.retire_patches (s : State) : (s.retire).patches = s.patches := rfl
@[simp] theorem State.retire_patchImages (s : State) : (s.retire).patchImages = s.patchImages := rfl
@[simp] theorem State.retire_time (s : State) : (s.retire).time = s.time := rfl
@[simp] theorem State.retire_mgmt (s : State) : (s.retire).mgmt = s.mgmt := rfl
@[simp] theorem State.retire_cur (s : State) : (s.retire).cur = s.cur := rfl
@[simp] theorem State.retire_agenda (s : State) : (s.retire).agenda = s.agenda := rfl
@[simp] theorem State.retire_roundLeft (s : State) : (s.retire).roundLeft = s.roundLeft := rfl
@[simp] theorem State.retire_freeCount (s : State) : (s.retire).freeCount = s.freeCount := rfl
@[simp] theorem State.advance_clusters (s : State) : (s.advance).clusters = s.clusters := rfl
@[simp] theorem State.advance_dies (s : State) : (s.advance).dies = s.dies := rfl
@[simp] theorem State.advance_ctxs (s : State) : (s.advance).ctxs = s.ctxs := rfl
@[simp] theorem State.advance_hbm (s : State) : (s.advance).hbm = s.hbm := rfl
@[simp] theorem State.advance_weight (s : State) : (s.advance).weight = s.weight := rfl
@[simp] theorem State.advance_hbmBad (s : State) : (s.advance).hbmBad = s.hbmBad := rfl
@[simp] theorem State.advance_stale (s : State) : (s.advance).stale = s.stale := rfl
@[simp] theorem State.advance_oldCode (s : State) : (s.advance).oldCode = s.oldCode := rfl
@[simp] theorem State.advance_paddocks (s : State) : (s.advance).paddocks = s.paddocks := rfl
@[simp] theorem State.advance_msgs (s : State) : (s.advance).msgs = s.msgs := rfl
@[simp] theorem State.advance_awayMsgs (s : State) : (s.advance).awayMsgs = s.awayMsgs := rfl
@[simp] theorem State.advance_weights (s : State) : (s.advance).weights = s.weights := rfl
@[simp] theorem State.advance_awayWeights (s : State) : (s.advance).awayWeights = s.awayWeights := rfl
@[simp] theorem State.advance_outbox (s : State) : (s.advance).outbox = s.outbox := rfl
@[simp] theorem State.advance_flitNum (s : State) : (s.advance).flitNum = s.flitNum := rfl
@[simp] theorem State.advance_faultMsgs (s : State) : (s.advance).faultMsgs = s.faultMsgs := rfl
@[simp] theorem State.advance_ios (s : State) : (s.advance).ios = s.ios := rfl
@[simp] theorem State.advance_conns (s : State) : (s.advance).conns = s.conns := rfl
@[simp] theorem State.advance_inbox (s : State) : (s.advance).inbox = s.inbox := rfl
@[simp] theorem State.advance_replies (s : State) : (s.advance).replies = s.replies := rfl
@[simp] theorem State.advance_devNum (s : State) : (s.advance).devNum = s.devNum := rfl
@[simp] theorem State.advance_ports (s : State) : (s.advance).ports = s.ports := rfl
@[simp] theorem State.advance_encoders (s : State) : (s.advance).encoders = s.encoders := rfl
@[simp] theorem State.advance_patches (s : State) : (s.advance).patches = s.patches := rfl
@[simp] theorem State.advance_patchImages (s : State) : (s.advance).patchImages = s.patchImages := rfl
@[simp] theorem State.advance_time (s : State) : (s.advance).time = s.time := rfl
@[simp] theorem State.advance_mgmt (s : State) : (s.advance).mgmt = s.mgmt := rfl
@[simp] theorem State.advance_cur (s : State) : (s.advance).cur = s.cur := rfl
@[simp] theorem State.advance_agenda (s : State) : (s.advance).agenda = s.agenda := rfl
@[simp] theorem State.advance_roundLeft (s : State) : (s.advance).roundLeft = s.roundLeft := rfl
@[simp] theorem State.advance_freeCount (s : State) : (s.advance).freeCount = s.freeCount := rfl
@[simp] theorem State.put_clusters (s : State) (d : Reg) (v : Word) : (s.put d v).clusters = s.clusters := rfl
@[simp] theorem State.put_dies (s : State) (d : Reg) (v : Word) : (s.put d v).dies = s.dies := rfl
@[simp] theorem State.put_ctxs (s : State) (d : Reg) (v : Word) : (s.put d v).ctxs = s.ctxs := rfl
@[simp] theorem State.put_hbm (s : State) (d : Reg) (v : Word) : (s.put d v).hbm = s.hbm := rfl
@[simp] theorem State.put_weight (s : State) (d : Reg) (v : Word) : (s.put d v).weight = s.weight := rfl
@[simp] theorem State.put_hbmBad (s : State) (d : Reg) (v : Word) : (s.put d v).hbmBad = s.hbmBad := rfl
@[simp] theorem State.put_stale (s : State) (d : Reg) (v : Word) : (s.put d v).stale = s.stale := rfl
@[simp] theorem State.put_oldCode (s : State) (d : Reg) (v : Word) : (s.put d v).oldCode = s.oldCode := rfl
@[simp] theorem State.put_paddocks (s : State) (d : Reg) (v : Word) : (s.put d v).paddocks = s.paddocks := rfl
@[simp] theorem State.put_msgs (s : State) (d : Reg) (v : Word) : (s.put d v).msgs = s.msgs := rfl
@[simp] theorem State.put_awayMsgs (s : State) (d : Reg) (v : Word) : (s.put d v).awayMsgs = s.awayMsgs := rfl
@[simp] theorem State.put_weights (s : State) (d : Reg) (v : Word) : (s.put d v).weights = s.weights := rfl
@[simp] theorem State.put_awayWeights (s : State) (d : Reg) (v : Word) : (s.put d v).awayWeights = s.awayWeights := rfl
@[simp] theorem State.put_outbox (s : State) (d : Reg) (v : Word) : (s.put d v).outbox = s.outbox := rfl
@[simp] theorem State.put_flitNum (s : State) (d : Reg) (v : Word) : (s.put d v).flitNum = s.flitNum := rfl
@[simp] theorem State.put_faultMsgs (s : State) (d : Reg) (v : Word) : (s.put d v).faultMsgs = s.faultMsgs := rfl
@[simp] theorem State.put_ios (s : State) (d : Reg) (v : Word) : (s.put d v).ios = s.ios := rfl
@[simp] theorem State.put_conns (s : State) (d : Reg) (v : Word) : (s.put d v).conns = s.conns := rfl
@[simp] theorem State.put_inbox (s : State) (d : Reg) (v : Word) : (s.put d v).inbox = s.inbox := rfl
@[simp] theorem State.put_replies (s : State) (d : Reg) (v : Word) : (s.put d v).replies = s.replies := rfl
@[simp] theorem State.put_devNum (s : State) (d : Reg) (v : Word) : (s.put d v).devNum = s.devNum := rfl
@[simp] theorem State.put_ports (s : State) (d : Reg) (v : Word) : (s.put d v).ports = s.ports := rfl
@[simp] theorem State.put_encoders (s : State) (d : Reg) (v : Word) : (s.put d v).encoders = s.encoders := rfl
@[simp] theorem State.put_patches (s : State) (d : Reg) (v : Word) : (s.put d v).patches = s.patches := rfl
@[simp] theorem State.put_patchImages (s : State) (d : Reg) (v : Word) : (s.put d v).patchImages = s.patchImages := rfl
@[simp] theorem State.put_time (s : State) (d : Reg) (v : Word) : (s.put d v).time = s.time := rfl
@[simp] theorem State.put_mgmt (s : State) (d : Reg) (v : Word) : (s.put d v).mgmt = s.mgmt := rfl
@[simp] theorem State.put_cur (s : State) (d : Reg) (v : Word) : (s.put d v).cur = s.cur := rfl
@[simp] theorem State.put_agenda (s : State) (d : Reg) (v : Word) : (s.put d v).agenda = s.agenda := rfl
@[simp] theorem State.put_roundLeft (s : State) (d : Reg) (v : Word) : (s.put d v).roundLeft = s.roundLeft := rfl
@[simp] theorem State.put_freeCount (s : State) (d : Reg) (v : Word) : (s.put d v).freeCount = s.freeCount := rfl
@[simp] theorem State.setCluster_cores (s : State) (n : Nat) (c : Cluster) : (s.setCluster n c).cores = s.cores := rfl
@[simp] theorem State.setCluster_dies (s : State) (n : Nat) (c : Cluster) : (s.setCluster n c).dies = s.dies := rfl
@[simp] theorem State.setCluster_ctxs (s : State) (n : Nat) (c : Cluster) : (s.setCluster n c).ctxs = s.ctxs := rfl
@[simp] theorem State.setCluster_hbm (s : State) (n : Nat) (c : Cluster) : (s.setCluster n c).hbm = s.hbm := rfl
@[simp] theorem State.setCluster_weight (s : State) (n : Nat) (c : Cluster) : (s.setCluster n c).weight = s.weight := rfl
@[simp] theorem State.setCluster_hbmBad (s : State) (n : Nat) (c : Cluster) : (s.setCluster n c).hbmBad = s.hbmBad := rfl
@[simp] theorem State.setCluster_stale (s : State) (n : Nat) (c : Cluster) : (s.setCluster n c).stale = s.stale := rfl
@[simp] theorem State.setCluster_oldCode (s : State) (n : Nat) (c : Cluster) : (s.setCluster n c).oldCode = s.oldCode := rfl
@[simp] theorem State.setCluster_paddocks (s : State) (n : Nat) (c : Cluster) : (s.setCluster n c).paddocks = s.paddocks := rfl
@[simp] theorem State.setCluster_msgs (s : State) (n : Nat) (c : Cluster) : (s.setCluster n c).msgs = s.msgs := rfl
@[simp] theorem State.setCluster_awayMsgs (s : State) (n : Nat) (c : Cluster) : (s.setCluster n c).awayMsgs = s.awayMsgs := rfl
@[simp] theorem State.setCluster_weights (s : State) (n : Nat) (c : Cluster) : (s.setCluster n c).weights = s.weights := rfl
@[simp] theorem State.setCluster_awayWeights (s : State) (n : Nat) (c : Cluster) : (s.setCluster n c).awayWeights = s.awayWeights := rfl
@[simp] theorem State.setCluster_outbox (s : State) (n : Nat) (c : Cluster) : (s.setCluster n c).outbox = s.outbox := rfl
@[simp] theorem State.setCluster_flitNum (s : State) (n : Nat) (c : Cluster) : (s.setCluster n c).flitNum = s.flitNum := rfl
@[simp] theorem State.setCluster_faultMsgs (s : State) (n : Nat) (c : Cluster) : (s.setCluster n c).faultMsgs = s.faultMsgs := rfl
@[simp] theorem State.setCluster_ios (s : State) (n : Nat) (c : Cluster) : (s.setCluster n c).ios = s.ios := rfl
@[simp] theorem State.setCluster_conns (s : State) (n : Nat) (c : Cluster) : (s.setCluster n c).conns = s.conns := rfl
@[simp] theorem State.setCluster_inbox (s : State) (n : Nat) (c : Cluster) : (s.setCluster n c).inbox = s.inbox := rfl
@[simp] theorem State.setCluster_replies (s : State) (n : Nat) (c : Cluster) : (s.setCluster n c).replies = s.replies := rfl
@[simp] theorem State.setCluster_devNum (s : State) (n : Nat) (c : Cluster) : (s.setCluster n c).devNum = s.devNum := rfl
@[simp] theorem State.setCluster_ports (s : State) (n : Nat) (c : Cluster) : (s.setCluster n c).ports = s.ports := rfl
@[simp] theorem State.setCluster_encoders (s : State) (n : Nat) (c : Cluster) : (s.setCluster n c).encoders = s.encoders := rfl
@[simp] theorem State.setCluster_patches (s : State) (n : Nat) (c : Cluster) : (s.setCluster n c).patches = s.patches := rfl
@[simp] theorem State.setCluster_patchImages (s : State) (n : Nat) (c : Cluster) : (s.setCluster n c).patchImages = s.patchImages := rfl
@[simp] theorem State.setCluster_time (s : State) (n : Nat) (c : Cluster) : (s.setCluster n c).time = s.time := rfl
@[simp] theorem State.setCluster_mgmt (s : State) (n : Nat) (c : Cluster) : (s.setCluster n c).mgmt = s.mgmt := rfl
@[simp] theorem State.setCluster_cur (s : State) (n : Nat) (c : Cluster) : (s.setCluster n c).cur = s.cur := rfl
@[simp] theorem State.setCluster_agenda (s : State) (n : Nat) (c : Cluster) : (s.setCluster n c).agenda = s.agenda := rfl
@[simp] theorem State.setCluster_roundLeft (s : State) (n : Nat) (c : Cluster) : (s.setCluster n c).roundLeft = s.roundLeft := rfl
@[simp] theorem State.setCluster_freeCount (s : State) (n : Nat) (c : Cluster) : (s.setCluster n c).freeCount = s.freeCount := rfl
@[simp] theorem State.updCluster_cores (s : State) (n : Nat) (f : Cluster → Cluster) : (s.updCluster n f).cores = s.cores := rfl
@[simp] theorem State.updCluster_dies (s : State) (n : Nat) (f : Cluster → Cluster) : (s.updCluster n f).dies = s.dies := rfl
@[simp] theorem State.updCluster_ctxs (s : State) (n : Nat) (f : Cluster → Cluster) : (s.updCluster n f).ctxs = s.ctxs := rfl
@[simp] theorem State.updCluster_hbm (s : State) (n : Nat) (f : Cluster → Cluster) : (s.updCluster n f).hbm = s.hbm := rfl
@[simp] theorem State.updCluster_weight (s : State) (n : Nat) (f : Cluster → Cluster) : (s.updCluster n f).weight = s.weight := rfl
@[simp] theorem State.updCluster_hbmBad (s : State) (n : Nat) (f : Cluster → Cluster) : (s.updCluster n f).hbmBad = s.hbmBad := rfl
@[simp] theorem State.updCluster_stale (s : State) (n : Nat) (f : Cluster → Cluster) : (s.updCluster n f).stale = s.stale := rfl
@[simp] theorem State.updCluster_oldCode (s : State) (n : Nat) (f : Cluster → Cluster) : (s.updCluster n f).oldCode = s.oldCode := rfl
@[simp] theorem State.updCluster_paddocks (s : State) (n : Nat) (f : Cluster → Cluster) : (s.updCluster n f).paddocks = s.paddocks := rfl
@[simp] theorem State.updCluster_msgs (s : State) (n : Nat) (f : Cluster → Cluster) : (s.updCluster n f).msgs = s.msgs := rfl
@[simp] theorem State.updCluster_awayMsgs (s : State) (n : Nat) (f : Cluster → Cluster) : (s.updCluster n f).awayMsgs = s.awayMsgs := rfl
@[simp] theorem State.updCluster_weights (s : State) (n : Nat) (f : Cluster → Cluster) : (s.updCluster n f).weights = s.weights := rfl
@[simp] theorem State.updCluster_awayWeights (s : State) (n : Nat) (f : Cluster → Cluster) : (s.updCluster n f).awayWeights = s.awayWeights := rfl
@[simp] theorem State.updCluster_outbox (s : State) (n : Nat) (f : Cluster → Cluster) : (s.updCluster n f).outbox = s.outbox := rfl
@[simp] theorem State.updCluster_flitNum (s : State) (n : Nat) (f : Cluster → Cluster) : (s.updCluster n f).flitNum = s.flitNum := rfl
@[simp] theorem State.updCluster_faultMsgs (s : State) (n : Nat) (f : Cluster → Cluster) : (s.updCluster n f).faultMsgs = s.faultMsgs := rfl
@[simp] theorem State.updCluster_ios (s : State) (n : Nat) (f : Cluster → Cluster) : (s.updCluster n f).ios = s.ios := rfl
@[simp] theorem State.updCluster_conns (s : State) (n : Nat) (f : Cluster → Cluster) : (s.updCluster n f).conns = s.conns := rfl
@[simp] theorem State.updCluster_inbox (s : State) (n : Nat) (f : Cluster → Cluster) : (s.updCluster n f).inbox = s.inbox := rfl
@[simp] theorem State.updCluster_replies (s : State) (n : Nat) (f : Cluster → Cluster) : (s.updCluster n f).replies = s.replies := rfl
@[simp] theorem State.updCluster_devNum (s : State) (n : Nat) (f : Cluster → Cluster) : (s.updCluster n f).devNum = s.devNum := rfl
@[simp] theorem State.updCluster_ports (s : State) (n : Nat) (f : Cluster → Cluster) : (s.updCluster n f).ports = s.ports := rfl
@[simp] theorem State.updCluster_encoders (s : State) (n : Nat) (f : Cluster → Cluster) : (s.updCluster n f).encoders = s.encoders := rfl
@[simp] theorem State.updCluster_patches (s : State) (n : Nat) (f : Cluster → Cluster) : (s.updCluster n f).patches = s.patches := rfl
@[simp] theorem State.updCluster_patchImages (s : State) (n : Nat) (f : Cluster → Cluster) : (s.updCluster n f).patchImages = s.patchImages := rfl
@[simp] theorem State.updCluster_time (s : State) (n : Nat) (f : Cluster → Cluster) : (s.updCluster n f).time = s.time := rfl
@[simp] theorem State.updCluster_mgmt (s : State) (n : Nat) (f : Cluster → Cluster) : (s.updCluster n f).mgmt = s.mgmt := rfl
@[simp] theorem State.updCluster_cur (s : State) (n : Nat) (f : Cluster → Cluster) : (s.updCluster n f).cur = s.cur := rfl
@[simp] theorem State.updCluster_agenda (s : State) (n : Nat) (f : Cluster → Cluster) : (s.updCluster n f).agenda = s.agenda := rfl
@[simp] theorem State.updCluster_roundLeft (s : State) (n : Nat) (f : Cluster → Cluster) : (s.updCluster n f).roundLeft = s.roundLeft := rfl
@[simp] theorem State.updCluster_freeCount (s : State) (n : Nat) (f : Cluster → Cluster) : (s.updCluster n f).freeCount = s.freeCount := rfl
@[simp] theorem State.setDie_cores (s : State) (n : Nat) (d : Die) : (s.setDie n d).cores = s.cores := rfl
@[simp] theorem State.setDie_clusters (s : State) (n : Nat) (d : Die) : (s.setDie n d).clusters = s.clusters := rfl
@[simp] theorem State.setDie_ctxs (s : State) (n : Nat) (d : Die) : (s.setDie n d).ctxs = s.ctxs := rfl
@[simp] theorem State.setDie_hbm (s : State) (n : Nat) (d : Die) : (s.setDie n d).hbm = s.hbm := rfl
@[simp] theorem State.setDie_weight (s : State) (n : Nat) (d : Die) : (s.setDie n d).weight = s.weight := rfl
@[simp] theorem State.setDie_hbmBad (s : State) (n : Nat) (d : Die) : (s.setDie n d).hbmBad = s.hbmBad := rfl
@[simp] theorem State.setDie_stale (s : State) (n : Nat) (d : Die) : (s.setDie n d).stale = s.stale := rfl
@[simp] theorem State.setDie_oldCode (s : State) (n : Nat) (d : Die) : (s.setDie n d).oldCode = s.oldCode := rfl
@[simp] theorem State.setDie_paddocks (s : State) (n : Nat) (d : Die) : (s.setDie n d).paddocks = s.paddocks := rfl
@[simp] theorem State.setDie_msgs (s : State) (n : Nat) (d : Die) : (s.setDie n d).msgs = s.msgs := rfl
@[simp] theorem State.setDie_awayMsgs (s : State) (n : Nat) (d : Die) : (s.setDie n d).awayMsgs = s.awayMsgs := rfl
@[simp] theorem State.setDie_weights (s : State) (n : Nat) (d : Die) : (s.setDie n d).weights = s.weights := rfl
@[simp] theorem State.setDie_awayWeights (s : State) (n : Nat) (d : Die) : (s.setDie n d).awayWeights = s.awayWeights := rfl
@[simp] theorem State.setDie_outbox (s : State) (n : Nat) (d : Die) : (s.setDie n d).outbox = s.outbox := rfl
@[simp] theorem State.setDie_flitNum (s : State) (n : Nat) (d : Die) : (s.setDie n d).flitNum = s.flitNum := rfl
@[simp] theorem State.setDie_faultMsgs (s : State) (n : Nat) (d : Die) : (s.setDie n d).faultMsgs = s.faultMsgs := rfl
@[simp] theorem State.setDie_ios (s : State) (n : Nat) (d : Die) : (s.setDie n d).ios = s.ios := rfl
@[simp] theorem State.setDie_conns (s : State) (n : Nat) (d : Die) : (s.setDie n d).conns = s.conns := rfl
@[simp] theorem State.setDie_inbox (s : State) (n : Nat) (d : Die) : (s.setDie n d).inbox = s.inbox := rfl
@[simp] theorem State.setDie_replies (s : State) (n : Nat) (d : Die) : (s.setDie n d).replies = s.replies := rfl
@[simp] theorem State.setDie_devNum (s : State) (n : Nat) (d : Die) : (s.setDie n d).devNum = s.devNum := rfl
@[simp] theorem State.setDie_ports (s : State) (n : Nat) (d : Die) : (s.setDie n d).ports = s.ports := rfl
@[simp] theorem State.setDie_encoders (s : State) (n : Nat) (d : Die) : (s.setDie n d).encoders = s.encoders := rfl
@[simp] theorem State.setDie_patches (s : State) (n : Nat) (d : Die) : (s.setDie n d).patches = s.patches := rfl
@[simp] theorem State.setDie_patchImages (s : State) (n : Nat) (d : Die) : (s.setDie n d).patchImages = s.patchImages := rfl
@[simp] theorem State.setDie_time (s : State) (n : Nat) (d : Die) : (s.setDie n d).time = s.time := rfl
@[simp] theorem State.setDie_mgmt (s : State) (n : Nat) (d : Die) : (s.setDie n d).mgmt = s.mgmt := rfl
@[simp] theorem State.setDie_cur (s : State) (n : Nat) (d : Die) : (s.setDie n d).cur = s.cur := rfl
@[simp] theorem State.setDie_agenda (s : State) (n : Nat) (d : Die) : (s.setDie n d).agenda = s.agenda := rfl
@[simp] theorem State.setDie_roundLeft (s : State) (n : Nat) (d : Die) : (s.setDie n d).roundLeft = s.roundLeft := rfl
@[simp] theorem State.setDie_freeCount (s : State) (n : Nat) (d : Die) : (s.setDie n d).freeCount = s.freeCount := rfl
@[simp] theorem State.updDie_cores (s : State) (n : Nat) (f : Die → Die) : (s.updDie n f).cores = s.cores := rfl
@[simp] theorem State.updDie_clusters (s : State) (n : Nat) (f : Die → Die) : (s.updDie n f).clusters = s.clusters := rfl
@[simp] theorem State.updDie_ctxs (s : State) (n : Nat) (f : Die → Die) : (s.updDie n f).ctxs = s.ctxs := rfl
@[simp] theorem State.updDie_hbm (s : State) (n : Nat) (f : Die → Die) : (s.updDie n f).hbm = s.hbm := rfl
@[simp] theorem State.updDie_weight (s : State) (n : Nat) (f : Die → Die) : (s.updDie n f).weight = s.weight := rfl
@[simp] theorem State.updDie_hbmBad (s : State) (n : Nat) (f : Die → Die) : (s.updDie n f).hbmBad = s.hbmBad := rfl
@[simp] theorem State.updDie_stale (s : State) (n : Nat) (f : Die → Die) : (s.updDie n f).stale = s.stale := rfl
@[simp] theorem State.updDie_oldCode (s : State) (n : Nat) (f : Die → Die) : (s.updDie n f).oldCode = s.oldCode := rfl
@[simp] theorem State.updDie_paddocks (s : State) (n : Nat) (f : Die → Die) : (s.updDie n f).paddocks = s.paddocks := rfl
@[simp] theorem State.updDie_msgs (s : State) (n : Nat) (f : Die → Die) : (s.updDie n f).msgs = s.msgs := rfl
@[simp] theorem State.updDie_awayMsgs (s : State) (n : Nat) (f : Die → Die) : (s.updDie n f).awayMsgs = s.awayMsgs := rfl
@[simp] theorem State.updDie_weights (s : State) (n : Nat) (f : Die → Die) : (s.updDie n f).weights = s.weights := rfl
@[simp] theorem State.updDie_awayWeights (s : State) (n : Nat) (f : Die → Die) : (s.updDie n f).awayWeights = s.awayWeights := rfl
@[simp] theorem State.updDie_outbox (s : State) (n : Nat) (f : Die → Die) : (s.updDie n f).outbox = s.outbox := rfl
@[simp] theorem State.updDie_flitNum (s : State) (n : Nat) (f : Die → Die) : (s.updDie n f).flitNum = s.flitNum := rfl
@[simp] theorem State.updDie_faultMsgs (s : State) (n : Nat) (f : Die → Die) : (s.updDie n f).faultMsgs = s.faultMsgs := rfl
@[simp] theorem State.updDie_ios (s : State) (n : Nat) (f : Die → Die) : (s.updDie n f).ios = s.ios := rfl
@[simp] theorem State.updDie_conns (s : State) (n : Nat) (f : Die → Die) : (s.updDie n f).conns = s.conns := rfl
@[simp] theorem State.updDie_inbox (s : State) (n : Nat) (f : Die → Die) : (s.updDie n f).inbox = s.inbox := rfl
@[simp] theorem State.updDie_replies (s : State) (n : Nat) (f : Die → Die) : (s.updDie n f).replies = s.replies := rfl
@[simp] theorem State.updDie_devNum (s : State) (n : Nat) (f : Die → Die) : (s.updDie n f).devNum = s.devNum := rfl
@[simp] theorem State.updDie_ports (s : State) (n : Nat) (f : Die → Die) : (s.updDie n f).ports = s.ports := rfl
@[simp] theorem State.updDie_encoders (s : State) (n : Nat) (f : Die → Die) : (s.updDie n f).encoders = s.encoders := rfl
@[simp] theorem State.updDie_patches (s : State) (n : Nat) (f : Die → Die) : (s.updDie n f).patches = s.patches := rfl
@[simp] theorem State.updDie_patchImages (s : State) (n : Nat) (f : Die → Die) : (s.updDie n f).patchImages = s.patchImages := rfl
@[simp] theorem State.updDie_time (s : State) (n : Nat) (f : Die → Die) : (s.updDie n f).time = s.time := rfl
@[simp] theorem State.updDie_mgmt (s : State) (n : Nat) (f : Die → Die) : (s.updDie n f).mgmt = s.mgmt := rfl
@[simp] theorem State.updDie_cur (s : State) (n : Nat) (f : Die → Die) : (s.updDie n f).cur = s.cur := rfl
@[simp] theorem State.updDie_agenda (s : State) (n : Nat) (f : Die → Die) : (s.updDie n f).agenda = s.agenda := rfl
@[simp] theorem State.updDie_roundLeft (s : State) (n : Nat) (f : Die → Die) : (s.updDie n f).roundLeft = s.roundLeft := rfl
@[simp] theorem State.updDie_freeCount (s : State) (n : Nat) (f : Die → Die) : (s.updDie n f).freeCount = s.freeCount := rfl
@[simp] theorem State.setCtx_cores (s : State) (n : Nat) (x : Ctx) : (s.setCtx n x).cores = s.cores := rfl
@[simp] theorem State.setCtx_clusters (s : State) (n : Nat) (x : Ctx) : (s.setCtx n x).clusters = s.clusters := rfl
@[simp] theorem State.setCtx_dies (s : State) (n : Nat) (x : Ctx) : (s.setCtx n x).dies = s.dies := rfl
@[simp] theorem State.setCtx_hbm (s : State) (n : Nat) (x : Ctx) : (s.setCtx n x).hbm = s.hbm := rfl
@[simp] theorem State.setCtx_weight (s : State) (n : Nat) (x : Ctx) : (s.setCtx n x).weight = s.weight := rfl
@[simp] theorem State.setCtx_hbmBad (s : State) (n : Nat) (x : Ctx) : (s.setCtx n x).hbmBad = s.hbmBad := rfl
@[simp] theorem State.setCtx_stale (s : State) (n : Nat) (x : Ctx) : (s.setCtx n x).stale = s.stale := rfl
@[simp] theorem State.setCtx_oldCode (s : State) (n : Nat) (x : Ctx) : (s.setCtx n x).oldCode = s.oldCode := rfl
@[simp] theorem State.setCtx_paddocks (s : State) (n : Nat) (x : Ctx) : (s.setCtx n x).paddocks = s.paddocks := rfl
@[simp] theorem State.setCtx_msgs (s : State) (n : Nat) (x : Ctx) : (s.setCtx n x).msgs = s.msgs := rfl
@[simp] theorem State.setCtx_awayMsgs (s : State) (n : Nat) (x : Ctx) : (s.setCtx n x).awayMsgs = s.awayMsgs := rfl
@[simp] theorem State.setCtx_weights (s : State) (n : Nat) (x : Ctx) : (s.setCtx n x).weights = s.weights := rfl
@[simp] theorem State.setCtx_awayWeights (s : State) (n : Nat) (x : Ctx) : (s.setCtx n x).awayWeights = s.awayWeights := rfl
@[simp] theorem State.setCtx_outbox (s : State) (n : Nat) (x : Ctx) : (s.setCtx n x).outbox = s.outbox := rfl
@[simp] theorem State.setCtx_flitNum (s : State) (n : Nat) (x : Ctx) : (s.setCtx n x).flitNum = s.flitNum := rfl
@[simp] theorem State.setCtx_faultMsgs (s : State) (n : Nat) (x : Ctx) : (s.setCtx n x).faultMsgs = s.faultMsgs := rfl
@[simp] theorem State.setCtx_ios (s : State) (n : Nat) (x : Ctx) : (s.setCtx n x).ios = s.ios := rfl
@[simp] theorem State.setCtx_conns (s : State) (n : Nat) (x : Ctx) : (s.setCtx n x).conns = s.conns := rfl
@[simp] theorem State.setCtx_inbox (s : State) (n : Nat) (x : Ctx) : (s.setCtx n x).inbox = s.inbox := rfl
@[simp] theorem State.setCtx_replies (s : State) (n : Nat) (x : Ctx) : (s.setCtx n x).replies = s.replies := rfl
@[simp] theorem State.setCtx_devNum (s : State) (n : Nat) (x : Ctx) : (s.setCtx n x).devNum = s.devNum := rfl
@[simp] theorem State.setCtx_ports (s : State) (n : Nat) (x : Ctx) : (s.setCtx n x).ports = s.ports := rfl
@[simp] theorem State.setCtx_encoders (s : State) (n : Nat) (x : Ctx) : (s.setCtx n x).encoders = s.encoders := rfl
@[simp] theorem State.setCtx_patches (s : State) (n : Nat) (x : Ctx) : (s.setCtx n x).patches = s.patches := rfl
@[simp] theorem State.setCtx_patchImages (s : State) (n : Nat) (x : Ctx) : (s.setCtx n x).patchImages = s.patchImages := rfl
@[simp] theorem State.setCtx_time (s : State) (n : Nat) (x : Ctx) : (s.setCtx n x).time = s.time := rfl
@[simp] theorem State.setCtx_mgmt (s : State) (n : Nat) (x : Ctx) : (s.setCtx n x).mgmt = s.mgmt := rfl
@[simp] theorem State.setCtx_cur (s : State) (n : Nat) (x : Ctx) : (s.setCtx n x).cur = s.cur := rfl
@[simp] theorem State.setCtx_agenda (s : State) (n : Nat) (x : Ctx) : (s.setCtx n x).agenda = s.agenda := rfl
@[simp] theorem State.setCtx_roundLeft (s : State) (n : Nat) (x : Ctx) : (s.setCtx n x).roundLeft = s.roundLeft := rfl
@[simp] theorem State.setCtx_freeCount (s : State) (n : Nat) (x : Ctx) : (s.setCtx n x).freeCount = s.freeCount := rfl
@[simp] theorem State.updCtx_cores (s : State) (n : Nat) (f : Ctx → Ctx) : (s.updCtx n f).cores = s.cores := rfl
@[simp] theorem State.updCtx_clusters (s : State) (n : Nat) (f : Ctx → Ctx) : (s.updCtx n f).clusters = s.clusters := rfl
@[simp] theorem State.updCtx_dies (s : State) (n : Nat) (f : Ctx → Ctx) : (s.updCtx n f).dies = s.dies := rfl
@[simp] theorem State.updCtx_hbm (s : State) (n : Nat) (f : Ctx → Ctx) : (s.updCtx n f).hbm = s.hbm := rfl
@[simp] theorem State.updCtx_weight (s : State) (n : Nat) (f : Ctx → Ctx) : (s.updCtx n f).weight = s.weight := rfl
@[simp] theorem State.updCtx_hbmBad (s : State) (n : Nat) (f : Ctx → Ctx) : (s.updCtx n f).hbmBad = s.hbmBad := rfl
@[simp] theorem State.updCtx_stale (s : State) (n : Nat) (f : Ctx → Ctx) : (s.updCtx n f).stale = s.stale := rfl
@[simp] theorem State.updCtx_oldCode (s : State) (n : Nat) (f : Ctx → Ctx) : (s.updCtx n f).oldCode = s.oldCode := rfl
@[simp] theorem State.updCtx_paddocks (s : State) (n : Nat) (f : Ctx → Ctx) : (s.updCtx n f).paddocks = s.paddocks := rfl
@[simp] theorem State.updCtx_msgs (s : State) (n : Nat) (f : Ctx → Ctx) : (s.updCtx n f).msgs = s.msgs := rfl
@[simp] theorem State.updCtx_awayMsgs (s : State) (n : Nat) (f : Ctx → Ctx) : (s.updCtx n f).awayMsgs = s.awayMsgs := rfl
@[simp] theorem State.updCtx_weights (s : State) (n : Nat) (f : Ctx → Ctx) : (s.updCtx n f).weights = s.weights := rfl
@[simp] theorem State.updCtx_awayWeights (s : State) (n : Nat) (f : Ctx → Ctx) : (s.updCtx n f).awayWeights = s.awayWeights := rfl
@[simp] theorem State.updCtx_outbox (s : State) (n : Nat) (f : Ctx → Ctx) : (s.updCtx n f).outbox = s.outbox := rfl
@[simp] theorem State.updCtx_flitNum (s : State) (n : Nat) (f : Ctx → Ctx) : (s.updCtx n f).flitNum = s.flitNum := rfl
@[simp] theorem State.updCtx_faultMsgs (s : State) (n : Nat) (f : Ctx → Ctx) : (s.updCtx n f).faultMsgs = s.faultMsgs := rfl
@[simp] theorem State.updCtx_ios (s : State) (n : Nat) (f : Ctx → Ctx) : (s.updCtx n f).ios = s.ios := rfl
@[simp] theorem State.updCtx_conns (s : State) (n : Nat) (f : Ctx → Ctx) : (s.updCtx n f).conns = s.conns := rfl
@[simp] theorem State.updCtx_inbox (s : State) (n : Nat) (f : Ctx → Ctx) : (s.updCtx n f).inbox = s.inbox := rfl
@[simp] theorem State.updCtx_replies (s : State) (n : Nat) (f : Ctx → Ctx) : (s.updCtx n f).replies = s.replies := rfl
@[simp] theorem State.updCtx_devNum (s : State) (n : Nat) (f : Ctx → Ctx) : (s.updCtx n f).devNum = s.devNum := rfl
@[simp] theorem State.updCtx_ports (s : State) (n : Nat) (f : Ctx → Ctx) : (s.updCtx n f).ports = s.ports := rfl
@[simp] theorem State.updCtx_encoders (s : State) (n : Nat) (f : Ctx → Ctx) : (s.updCtx n f).encoders = s.encoders := rfl
@[simp] theorem State.updCtx_patches (s : State) (n : Nat) (f : Ctx → Ctx) : (s.updCtx n f).patches = s.patches := rfl
@[simp] theorem State.updCtx_patchImages (s : State) (n : Nat) (f : Ctx → Ctx) : (s.updCtx n f).patchImages = s.patchImages := rfl
@[simp] theorem State.updCtx_time (s : State) (n : Nat) (f : Ctx → Ctx) : (s.updCtx n f).time = s.time := rfl
@[simp] theorem State.updCtx_mgmt (s : State) (n : Nat) (f : Ctx → Ctx) : (s.updCtx n f).mgmt = s.mgmt := rfl
@[simp] theorem State.updCtx_cur (s : State) (n : Nat) (f : Ctx → Ctx) : (s.updCtx n f).cur = s.cur := rfl
@[simp] theorem State.updCtx_agenda (s : State) (n : Nat) (f : Ctx → Ctx) : (s.updCtx n f).agenda = s.agenda := rfl
@[simp] theorem State.updCtx_roundLeft (s : State) (n : Nat) (f : Ctx → Ctx) : (s.updCtx n f).roundLeft = s.roundLeft := rfl
@[simp] theorem State.updCtx_freeCount (s : State) (n : Nat) (f : Ctx → Ctx) : (s.updCtx n f).freeCount = s.freeCount := rfl
@[simp] theorem State.updIo_cores (s : State) (n : Nat) (f : IoDie → IoDie) : (s.updIo n f).cores = s.cores := rfl
@[simp] theorem State.updIo_clusters (s : State) (n : Nat) (f : IoDie → IoDie) : (s.updIo n f).clusters = s.clusters := rfl
@[simp] theorem State.updIo_dies (s : State) (n : Nat) (f : IoDie → IoDie) : (s.updIo n f).dies = s.dies := rfl
@[simp] theorem State.updIo_ctxs (s : State) (n : Nat) (f : IoDie → IoDie) : (s.updIo n f).ctxs = s.ctxs := rfl
@[simp] theorem State.updIo_hbm (s : State) (n : Nat) (f : IoDie → IoDie) : (s.updIo n f).hbm = s.hbm := rfl
@[simp] theorem State.updIo_weight (s : State) (n : Nat) (f : IoDie → IoDie) : (s.updIo n f).weight = s.weight := rfl
@[simp] theorem State.updIo_hbmBad (s : State) (n : Nat) (f : IoDie → IoDie) : (s.updIo n f).hbmBad = s.hbmBad := rfl
@[simp] theorem State.updIo_stale (s : State) (n : Nat) (f : IoDie → IoDie) : (s.updIo n f).stale = s.stale := rfl
@[simp] theorem State.updIo_oldCode (s : State) (n : Nat) (f : IoDie → IoDie) : (s.updIo n f).oldCode = s.oldCode := rfl
@[simp] theorem State.updIo_paddocks (s : State) (n : Nat) (f : IoDie → IoDie) : (s.updIo n f).paddocks = s.paddocks := rfl
@[simp] theorem State.updIo_msgs (s : State) (n : Nat) (f : IoDie → IoDie) : (s.updIo n f).msgs = s.msgs := rfl
@[simp] theorem State.updIo_awayMsgs (s : State) (n : Nat) (f : IoDie → IoDie) : (s.updIo n f).awayMsgs = s.awayMsgs := rfl
@[simp] theorem State.updIo_weights (s : State) (n : Nat) (f : IoDie → IoDie) : (s.updIo n f).weights = s.weights := rfl
@[simp] theorem State.updIo_awayWeights (s : State) (n : Nat) (f : IoDie → IoDie) : (s.updIo n f).awayWeights = s.awayWeights := rfl
@[simp] theorem State.updIo_outbox (s : State) (n : Nat) (f : IoDie → IoDie) : (s.updIo n f).outbox = s.outbox := rfl
@[simp] theorem State.updIo_flitNum (s : State) (n : Nat) (f : IoDie → IoDie) : (s.updIo n f).flitNum = s.flitNum := rfl
@[simp] theorem State.updIo_faultMsgs (s : State) (n : Nat) (f : IoDie → IoDie) : (s.updIo n f).faultMsgs = s.faultMsgs := rfl
@[simp] theorem State.updIo_conns (s : State) (n : Nat) (f : IoDie → IoDie) : (s.updIo n f).conns = s.conns := rfl
@[simp] theorem State.updIo_inbox (s : State) (n : Nat) (f : IoDie → IoDie) : (s.updIo n f).inbox = s.inbox := rfl
@[simp] theorem State.updIo_replies (s : State) (n : Nat) (f : IoDie → IoDie) : (s.updIo n f).replies = s.replies := rfl
@[simp] theorem State.updIo_devNum (s : State) (n : Nat) (f : IoDie → IoDie) : (s.updIo n f).devNum = s.devNum := rfl
@[simp] theorem State.updIo_ports (s : State) (n : Nat) (f : IoDie → IoDie) : (s.updIo n f).ports = s.ports := rfl
@[simp] theorem State.updIo_encoders (s : State) (n : Nat) (f : IoDie → IoDie) : (s.updIo n f).encoders = s.encoders := rfl
@[simp] theorem State.updIo_patches (s : State) (n : Nat) (f : IoDie → IoDie) : (s.updIo n f).patches = s.patches := rfl
@[simp] theorem State.updIo_patchImages (s : State) (n : Nat) (f : IoDie → IoDie) : (s.updIo n f).patchImages = s.patchImages := rfl
@[simp] theorem State.updIo_time (s : State) (n : Nat) (f : IoDie → IoDie) : (s.updIo n f).time = s.time := rfl
@[simp] theorem State.updIo_mgmt (s : State) (n : Nat) (f : IoDie → IoDie) : (s.updIo n f).mgmt = s.mgmt := rfl
@[simp] theorem State.updIo_cur (s : State) (n : Nat) (f : IoDie → IoDie) : (s.updIo n f).cur = s.cur := rfl
@[simp] theorem State.updIo_agenda (s : State) (n : Nat) (f : IoDie → IoDie) : (s.updIo n f).agenda = s.agenda := rfl
@[simp] theorem State.updIo_roundLeft (s : State) (n : Nat) (f : IoDie → IoDie) : (s.updIo n f).roundLeft = s.roundLeft := rfl
@[simp] theorem State.updIo_freeCount (s : State) (n : Nat) (f : IoDie → IoDie) : (s.updIo n f).freeCount = s.freeCount := rfl
@[simp] theorem State.fresh_cores (s : State) : (s.fresh).cores = s.cores := rfl
@[simp] theorem State.fresh_clusters (s : State) : (s.fresh).clusters = s.clusters := rfl
@[simp] theorem State.fresh_dies (s : State) : (s.fresh).dies = s.dies := rfl
@[simp] theorem State.fresh_ctxs (s : State) : (s.fresh).ctxs = s.ctxs := rfl
@[simp] theorem State.fresh_hbm (s : State) : (s.fresh).hbm = s.hbm := rfl
@[simp] theorem State.fresh_weight (s : State) : (s.fresh).weight = s.weight := rfl
@[simp] theorem State.fresh_hbmBad (s : State) : (s.fresh).hbmBad = s.hbmBad := rfl
@[simp] theorem State.fresh_stale (s : State) : (s.fresh).stale = s.stale := rfl
@[simp] theorem State.fresh_oldCode (s : State) : (s.fresh).oldCode = s.oldCode := rfl
@[simp] theorem State.fresh_paddocks (s : State) : (s.fresh).paddocks = s.paddocks := rfl
@[simp] theorem State.fresh_msgs (s : State) : (s.fresh).msgs = s.msgs := rfl
@[simp] theorem State.fresh_awayMsgs (s : State) : (s.fresh).awayMsgs = s.awayMsgs := rfl
@[simp] theorem State.fresh_weights (s : State) : (s.fresh).weights = s.weights := rfl
@[simp] theorem State.fresh_awayWeights (s : State) : (s.fresh).awayWeights = s.awayWeights := rfl
@[simp] theorem State.fresh_outbox (s : State) : (s.fresh).outbox = s.outbox := rfl
@[simp] theorem State.fresh_flitNum (s : State) : (s.fresh).flitNum = s.flitNum := rfl
@[simp] theorem State.fresh_faultMsgs (s : State) : (s.fresh).faultMsgs = s.faultMsgs := rfl
@[simp] theorem State.fresh_ios (s : State) : (s.fresh).ios = s.ios := rfl
@[simp] theorem State.fresh_conns (s : State) : (s.fresh).conns = s.conns := rfl
@[simp] theorem State.fresh_inbox (s : State) : (s.fresh).inbox = s.inbox := rfl
@[simp] theorem State.fresh_replies (s : State) : (s.fresh).replies = s.replies := rfl
@[simp] theorem State.fresh_devNum (s : State) : (s.fresh).devNum = s.devNum := rfl
@[simp] theorem State.fresh_ports (s : State) : (s.fresh).ports = s.ports := rfl
@[simp] theorem State.fresh_encoders (s : State) : (s.fresh).encoders = s.encoders := rfl
@[simp] theorem State.fresh_patches (s : State) : (s.fresh).patches = s.patches := rfl
@[simp] theorem State.fresh_patchImages (s : State) : (s.fresh).patchImages = s.patchImages := rfl
@[simp] theorem State.fresh_time (s : State) : (s.fresh).time = s.time := rfl
@[simp] theorem State.fresh_mgmt (s : State) : (s.fresh).mgmt = s.mgmt := rfl
@[simp] theorem State.fresh_cur (s : State) : (s.fresh).cur = s.cur := rfl
@[simp] theorem State.fresh_agenda (s : State) : (s.fresh).agenda = s.agenda := rfl
@[simp] theorem State.fresh_roundLeft (s : State) : (s.fresh).roundLeft = s.roundLeft := rfl

/-! Fields of a core. -/

@[simp] theorem Core.setThread_counters (k : Core) (n : Nat) (x : Thread) : (k.setThread n x).counters = k.counters := rfl
@[simp] theorem Core.setThread_bars (k : Core) (n : Nat) (x : Thread) : (k.setThread n x).bars = k.bars := rfl
@[simp] theorem Core.setThread_mem (k : Core) (n : Nat) (x : Thread) : (k.setThread n x).mem = k.mem := rfl
@[simp] theorem Core.setThread_eccBad (k : Core) (n : Nat) (x : Thread) : (k.setThread n x).eccBad = k.eccBad := rfl
@[simp] theorem Core.setThread_csrs (k : Core) (n : Nat) (x : Thread) : (k.setThread n x).csrs = k.csrs := rfl
@[simp] theorem Core.setThread_cycle (k : Core) (n : Nat) (x : Thread) : (k.setThread n x).cycle = k.cycle := rfl
@[simp] theorem Core.setThread_rings (k : Core) (n : Nat) (x : Thread) : (k.setThread n x).rings = k.rings := rfl
@[simp] theorem Core.setThread_matQ (k : Core) (n : Nat) (x : Thread) : (k.setThread n x).matQ = k.matQ := rfl
@[simp] theorem Core.setThread_matId (k : Core) (n : Nat) (x : Thread) : (k.setThread n x).matId = k.matId := rfl
@[simp] theorem Core.setThread_matFail (k : Core) (n : Nat) (x : Thread) : (k.setThread n x).matFail = k.matFail := rfl
@[simp] theorem Core.setThread_copies (k : Core) (n : Nat) (x : Thread) : (k.setThread n x).copies = k.copies := rfl
@[simp] theorem Core.setThread_streams (k : Core) (n : Nat) (x : Thread) : (k.setThread n x).streams = k.streams := rfl
@[simp] theorem Core.setThread_ranges (k : Core) (n : Nat) (x : Thread) : (k.setThread n x).ranges = k.ranges := rfl
@[simp] theorem Core.setThread_rangeNext (k : Core) (n : Nat) (x : Thread) : (k.setThread n x).rangeNext = k.rangeNext := rfl
@[simp] theorem Core.setThread_stores (k : Core) (n : Nat) (x : Thread) : (k.setThread n x).stores = k.stores := rfl
@[simp] theorem Core.setThread_rays (k : Core) (n : Nat) (x : Thread) : (k.setThread n x).rays = k.rays := rfl
@[simp] theorem Core.setThread_ilQ (k : Core) (n : Nat) (x : Thread) : (k.setThread n x).ilQ = k.ilQ := rfl
@[simp] theorem Core.setThread_ilTurn (k : Core) (n : Nat) (x : Thread) : (k.setThread n x).ilTurn = k.ilTurn := rfl
@[simp] theorem Core.setThread_arrivals (k : Core) (n : Nat) (x : Thread) : (k.setThread n x).arrivals = k.arrivals := rfl
@[simp] theorem Core.setThread_drops (k : Core) (n : Nat) (x : Thread) : (k.setThread n x).drops = k.drops := rfl
@[simp] theorem Core.setThread_group (k : Core) (n : Nat) (x : Thread) : (k.setThread n x).group = k.group := rfl
@[simp] theorem Core.setThread_line (k : Core) (n : Nat) (x : Thread) : (k.setThread n x).line = k.line := rfl
@[simp] theorem Core.setThread_hardNow (k : Core) (n : Nat) (x : Thread) : (k.setThread n x).hardNow = k.hardNow := rfl
@[simp] theorem Core.setThread_lastIss (k : Core) (n : Nat) (x : Thread) : (k.setThread n x).lastIss = k.lastIss := rfl
@[simp] theorem Core.setThread_helpersNext (k : Core) (n : Nat) (x : Thread) : (k.setThread n x).helpersNext = k.helpersNext := rfl
@[simp] theorem Core.setThread_serial (k : Core) (n : Nat) (x : Thread) : (k.setThread n x).serial = k.serial := rfl
@[simp] theorem Core.setThread_subId (k : Core) (n : Nat) (x : Thread) : (k.setThread n x).subId = k.subId := rfl
@[simp] theorem Core.setCsr_threads (k : Core) (n : Nat) (v : Word) : (k.setCsr n v).threads = k.threads := rfl
@[simp] theorem Core.setCsr_counters (k : Core) (n : Nat) (v : Word) : (k.setCsr n v).counters = k.counters := rfl
@[simp] theorem Core.setCsr_bars (k : Core) (n : Nat) (v : Word) : (k.setCsr n v).bars = k.bars := rfl
@[simp] theorem Core.setCsr_mem (k : Core) (n : Nat) (v : Word) : (k.setCsr n v).mem = k.mem := rfl
@[simp] theorem Core.setCsr_eccBad (k : Core) (n : Nat) (v : Word) : (k.setCsr n v).eccBad = k.eccBad := rfl
@[simp] theorem Core.setCsr_cycle (k : Core) (n : Nat) (v : Word) : (k.setCsr n v).cycle = k.cycle := rfl
@[simp] theorem Core.setCsr_rings (k : Core) (n : Nat) (v : Word) : (k.setCsr n v).rings = k.rings := rfl
@[simp] theorem Core.setCsr_matQ (k : Core) (n : Nat) (v : Word) : (k.setCsr n v).matQ = k.matQ := rfl
@[simp] theorem Core.setCsr_matId (k : Core) (n : Nat) (v : Word) : (k.setCsr n v).matId = k.matId := rfl
@[simp] theorem Core.setCsr_matFail (k : Core) (n : Nat) (v : Word) : (k.setCsr n v).matFail = k.matFail := rfl
@[simp] theorem Core.setCsr_copies (k : Core) (n : Nat) (v : Word) : (k.setCsr n v).copies = k.copies := rfl
@[simp] theorem Core.setCsr_streams (k : Core) (n : Nat) (v : Word) : (k.setCsr n v).streams = k.streams := rfl
@[simp] theorem Core.setCsr_ranges (k : Core) (n : Nat) (v : Word) : (k.setCsr n v).ranges = k.ranges := rfl
@[simp] theorem Core.setCsr_rangeNext (k : Core) (n : Nat) (v : Word) : (k.setCsr n v).rangeNext = k.rangeNext := rfl
@[simp] theorem Core.setCsr_stores (k : Core) (n : Nat) (v : Word) : (k.setCsr n v).stores = k.stores := rfl
@[simp] theorem Core.setCsr_rays (k : Core) (n : Nat) (v : Word) : (k.setCsr n v).rays = k.rays := rfl
@[simp] theorem Core.setCsr_ilQ (k : Core) (n : Nat) (v : Word) : (k.setCsr n v).ilQ = k.ilQ := rfl
@[simp] theorem Core.setCsr_ilTurn (k : Core) (n : Nat) (v : Word) : (k.setCsr n v).ilTurn = k.ilTurn := rfl
@[simp] theorem Core.setCsr_arrivals (k : Core) (n : Nat) (v : Word) : (k.setCsr n v).arrivals = k.arrivals := rfl
@[simp] theorem Core.setCsr_drops (k : Core) (n : Nat) (v : Word) : (k.setCsr n v).drops = k.drops := rfl
@[simp] theorem Core.setCsr_group (k : Core) (n : Nat) (v : Word) : (k.setCsr n v).group = k.group := rfl
@[simp] theorem Core.setCsr_line (k : Core) (n : Nat) (v : Word) : (k.setCsr n v).line = k.line := rfl
@[simp] theorem Core.setCsr_hardNow (k : Core) (n : Nat) (v : Word) : (k.setCsr n v).hardNow = k.hardNow := rfl
@[simp] theorem Core.setCsr_lastIss (k : Core) (n : Nat) (v : Word) : (k.setCsr n v).lastIss = k.lastIss := rfl
@[simp] theorem Core.setCsr_helpersNext (k : Core) (n : Nat) (v : Word) : (k.setCsr n v).helpersNext = k.helpersNext := rfl
@[simp] theorem Core.setCsr_serial (k : Core) (n : Nat) (v : Word) : (k.setCsr n v).serial = k.serial := rfl
@[simp] theorem Core.setCsr_subId (k : Core) (n : Nat) (v : Word) : (k.setCsr n v).subId = k.subId := rfl

/-! Fields of a thread. -/

@[simp] theorem Thread.setReg_state (t : Thread) (r : Reg) (v : Word) : (t.setReg r v).state = t.state := by
  unfold Thread.setReg
  split
  · rfl
  · split <;> rfl
@[simp] theorem Thread.setReg_ctx (t : Thread) (r : Reg) (v : Word) : (t.setReg r v).ctx = t.ctx := by
  unfold Thread.setReg
  split
  · rfl
  · split <;> rfl
@[simp] theorem Thread.setReg_pc (t : Thread) (r : Reg) (v : Word) : (t.setReg r v).pc = t.pc := by
  unfold Thread.setReg
  split
  · rfl
  · split <;> rfl
@[simp] theorem Thread.setReg_wptr (t : Thread) (r : Reg) (v : Word) : (t.setReg r v).wptr = t.wptr := by
  unfold Thread.setReg
  split
  · rfl
  · split <;> rfl
@[simp] theorem Thread.setReg_resident (t : Thread) (r : Reg) (v : Word) : (t.setReg r v).resident = t.resident := by
  unfold Thread.setReg
  split
  · rfl
  · split <;> rfl
@[simp] theorem Thread.setReg_spilled (t : Thread) (r : Reg) (v : Word) : (t.setReg r v).spilled = t.spilled := by
  unfold Thread.setReg
  split
  · rfl
  · split <;> rfl
@[simp] theorem Thread.setReg_masks (t : Thread) (r : Reg) (v : Word) : (t.setReg r v).masks = t.masks := by
  unfold Thread.setReg
  split
  · rfl
  · split <;> rfl
@[simp] theorem Thread.setReg_rows (t : Thread) (r : Reg) (v : Word) : (t.setReg r v).rows = t.rows := by
  unfold Thread.setReg
  split
  · rfl
  · split <;> rfl
@[simp] theorem Thread.setReg_csrs (t : Thread) (r : Reg) (v : Word) : (t.setReg r v).csrs = t.csrs := by
  unfold Thread.setReg
  split
  · rfl
  · split <;> rfl
@[simp] theorem Thread.setReg_latch (t : Thread) (r : Reg) (v : Word) : (t.setReg r v).latch = t.latch := by
  unfold Thread.setReg
  split
  · rfl
  · split <;> rfl
@[simp] theorem Thread.setReg_lunge (t : Thread) (r : Reg) (v : Word) : (t.setReg r v).lunge = t.lunge := by
  unfold Thread.setReg
  split
  · rfl
  · split <;> rfl
@[simp] theorem Thread.setReg_replay (t : Thread) (r : Reg) (v : Word) : (t.setReg r v).replay = t.replay := by
  unfold Thread.setReg
  split
  · rfl
  · split <;> rfl
@[simp] theorem Thread.setReg_opNum (t : Thread) (r : Reg) (v : Word) : (t.setReg r v).opNum = t.opNum := by
  unfold Thread.setReg
  split
  · rfl
  · split <;> rfl
@[simp] theorem Thread.setReg_copyTag (t : Thread) (r : Reg) (v : Word) : (t.setReg r v).copyTag = t.copyTag := by
  unfold Thread.setReg
  split
  · rfl
  · split <;> rfl
@[simp] theorem Thread.setReg_copyRecs (t : Thread) (r : Reg) (v : Word) : (t.setReg r v).copyRecs = t.copyRecs := by
  unfold Thread.setReg
  split
  · rfl
  · split <;> rfl
@[simp] theorem Thread.setReg_fences (t : Thread) (r : Reg) (v : Word) : (t.setReg r v).fences = t.fences := by
  unfold Thread.setReg
  split
  · rfl
  · split <;> rfl
@[simp] theorem Thread.setReg_pend (t : Thread) (r : Reg) (v : Word) : (t.setReg r v).pend = t.pend := by
  unfold Thread.setReg
  split
  · rfl
  · split <;> rfl
@[simp] theorem Thread.setReg_hitch (t : Thread) (r : Reg) (v : Word) : (t.setReg r v).hitch = t.hitch := by
  unfold Thread.setReg
  split
  · rfl
  · split <;> rfl
@[simp] theorem Thread.setReg_trigDone (t : Thread) (r : Reg) (v : Word) : (t.setReg r v).trigDone = t.trigDone := by
  unfold Thread.setReg
  split
  · rfl
  · split <;> rfl
@[simp] theorem Thread.setReg_arrival (t : Thread) (r : Reg) (v : Word) : (t.setReg r v).arrival = t.arrival := by
  unfold Thread.setReg
  split
  · rfl
  · split <;> rfl
@[simp] theorem Thread.setReg_woke (t : Thread) (r : Reg) (v : Word) : (t.setReg r v).woke = t.woke := by
  unfold Thread.setReg
  split
  · rfl
  · split <;> rfl
@[simp] theorem Thread.setReg_ilSeen (t : Thread) (r : Reg) (v : Word) : (t.setReg r v).ilSeen = t.ilSeen := by
  unfold Thread.setReg
  split
  · rfl
  · split <;> rfl
@[simp] theorem Thread.setReg_filled (t : Thread) (r : Reg) (v : Word) : (t.setReg r v).filled = t.filled := by
  unfold Thread.setReg
  split
  · rfl
  · split <;> rfl
@[simp] theorem Thread.setReg_chkSample (t : Thread) (r : Reg) (v : Word) : (t.setReg r v).chkSample = t.chkSample := by
  unfold Thread.setReg
  split
  · rfl
  · split <;> rfl
@[simp] theorem Thread.setReg_yieldMask (t : Thread) (r : Reg) (v : Word) : (t.setReg r v).yieldMask = t.yieldMask := by
  unfold Thread.setReg
  split
  · rfl
  · split <;> rfl
@[simp] theorem Thread.setReg_born (t : Thread) (r : Reg) (v : Word) : (t.setReg r v).born = t.born := by
  unfold Thread.setReg
  split
  · rfl
  · split <;> rfl
@[simp] theorem Thread.setReg_word (t : Thread) (r : Reg) (v : Word) : (t.setReg r v).word = t.word := by
  unfold Thread.setReg
  split
  · rfl
  · split <;> rfl
@[simp] theorem Thread.setReg_faultVa (t : Thread) (r : Reg) (v : Word) : (t.setReg r v).faultVa = t.faultVa := by
  unfold Thread.setReg
  split
  · rfl
  · split <;> rfl
@[simp] theorem Thread.setReg_table (t : Thread) (r : Reg) (v : Word) : (t.setReg r v).table = t.table := by
  unfold Thread.setReg
  split
  · rfl
  · split <;> rfl
@[simp] theorem Thread.setCsr_state (t : Thread) (n : Nat) (v : Word) : (t.setCsr n v).state = t.state := rfl
@[simp] theorem Thread.setCsr_ctx (t : Thread) (n : Nat) (v : Word) : (t.setCsr n v).ctx = t.ctx := rfl
@[simp] theorem Thread.setCsr_pc (t : Thread) (n : Nat) (v : Word) : (t.setCsr n v).pc = t.pc := rfl
@[simp] theorem Thread.setCsr_gregs (t : Thread) (n : Nat) (v : Word) : (t.setCsr n v).gregs = t.gregs := rfl
@[simp] theorem Thread.setCsr_phys (t : Thread) (n : Nat) (v : Word) : (t.setCsr n v).phys = t.phys := rfl
@[simp] theorem Thread.setCsr_dead (t : Thread) (n : Nat) (v : Word) : (t.setCsr n v).dead = t.dead := rfl
@[simp] theorem Thread.setCsr_wptr (t : Thread) (n : Nat) (v : Word) : (t.setCsr n v).wptr = t.wptr := rfl
@[simp] theorem Thread.setCsr_resident (t : Thread) (n : Nat) (v : Word) : (t.setCsr n v).resident = t.resident := rfl
@[simp] theorem Thread.setCsr_spilled (t : Thread) (n : Nat) (v : Word) : (t.setCsr n v).spilled = t.spilled := rfl
@[simp] theorem Thread.setCsr_masks (t : Thread) (n : Nat) (v : Word) : (t.setCsr n v).masks = t.masks := rfl
@[simp] theorem Thread.setCsr_rows (t : Thread) (n : Nat) (v : Word) : (t.setCsr n v).rows = t.rows := rfl
@[simp] theorem Thread.setCsr_latch (t : Thread) (n : Nat) (v : Word) : (t.setCsr n v).latch = t.latch := rfl
@[simp] theorem Thread.setCsr_lunge (t : Thread) (n : Nat) (v : Word) : (t.setCsr n v).lunge = t.lunge := rfl
@[simp] theorem Thread.setCsr_replay (t : Thread) (n : Nat) (v : Word) : (t.setCsr n v).replay = t.replay := rfl
@[simp] theorem Thread.setCsr_opNum (t : Thread) (n : Nat) (v : Word) : (t.setCsr n v).opNum = t.opNum := rfl
@[simp] theorem Thread.setCsr_copyTag (t : Thread) (n : Nat) (v : Word) : (t.setCsr n v).copyTag = t.copyTag := rfl
@[simp] theorem Thread.setCsr_copyRecs (t : Thread) (n : Nat) (v : Word) : (t.setCsr n v).copyRecs = t.copyRecs := rfl
@[simp] theorem Thread.setCsr_fences (t : Thread) (n : Nat) (v : Word) : (t.setCsr n v).fences = t.fences := rfl
@[simp] theorem Thread.setCsr_pend (t : Thread) (n : Nat) (v : Word) : (t.setCsr n v).pend = t.pend := rfl
@[simp] theorem Thread.setCsr_hitch (t : Thread) (n : Nat) (v : Word) : (t.setCsr n v).hitch = t.hitch := rfl
@[simp] theorem Thread.setCsr_trigDone (t : Thread) (n : Nat) (v : Word) : (t.setCsr n v).trigDone = t.trigDone := rfl
@[simp] theorem Thread.setCsr_arrival (t : Thread) (n : Nat) (v : Word) : (t.setCsr n v).arrival = t.arrival := rfl
@[simp] theorem Thread.setCsr_woke (t : Thread) (n : Nat) (v : Word) : (t.setCsr n v).woke = t.woke := rfl
@[simp] theorem Thread.setCsr_points (t : Thread) (n : Nat) (v : Word) : (t.setCsr n v).points = t.points := rfl
@[simp] theorem Thread.setCsr_ilSeen (t : Thread) (n : Nat) (v : Word) : (t.setCsr n v).ilSeen = t.ilSeen := rfl
@[simp] theorem Thread.setCsr_filled (t : Thread) (n : Nat) (v : Word) : (t.setCsr n v).filled = t.filled := rfl
@[simp] theorem Thread.setCsr_chkSample (t : Thread) (n : Nat) (v : Word) : (t.setCsr n v).chkSample = t.chkSample := rfl
@[simp] theorem Thread.setCsr_yieldMask (t : Thread) (n : Nat) (v : Word) : (t.setCsr n v).yieldMask = t.yieldMask := rfl
@[simp] theorem Thread.setCsr_born (t : Thread) (n : Nat) (v : Word) : (t.setCsr n v).born = t.born := rfl
@[simp] theorem Thread.setCsr_word (t : Thread) (n : Nat) (v : Word) : (t.setCsr n v).word = t.word := rfl
@[simp] theorem Thread.setCsr_faultVa (t : Thread) (n : Nat) (v : Word) : (t.setCsr n v).faultVa = t.faultVa := rfl
@[simp] theorem Thread.setCsr_table (t : Thread) (n : Nat) (v : Word) : (t.setCsr n v).table = t.table := rfl
@[simp] theorem Thread.setRow_state (t : Thread) (n : Nat) (v : Row) : (t.setRow n v).state = t.state := rfl
@[simp] theorem Thread.setRow_ctx (t : Thread) (n : Nat) (v : Row) : (t.setRow n v).ctx = t.ctx := rfl
@[simp] theorem Thread.setRow_pc (t : Thread) (n : Nat) (v : Row) : (t.setRow n v).pc = t.pc := rfl
@[simp] theorem Thread.setRow_gregs (t : Thread) (n : Nat) (v : Row) : (t.setRow n v).gregs = t.gregs := rfl
@[simp] theorem Thread.setRow_phys (t : Thread) (n : Nat) (v : Row) : (t.setRow n v).phys = t.phys := rfl
@[simp] theorem Thread.setRow_dead (t : Thread) (n : Nat) (v : Row) : (t.setRow n v).dead = t.dead := rfl
@[simp] theorem Thread.setRow_wptr (t : Thread) (n : Nat) (v : Row) : (t.setRow n v).wptr = t.wptr := rfl
@[simp] theorem Thread.setRow_resident (t : Thread) (n : Nat) (v : Row) : (t.setRow n v).resident = t.resident := rfl
@[simp] theorem Thread.setRow_spilled (t : Thread) (n : Nat) (v : Row) : (t.setRow n v).spilled = t.spilled := rfl
@[simp] theorem Thread.setRow_masks (t : Thread) (n : Nat) (v : Row) : (t.setRow n v).masks = t.masks := rfl
@[simp] theorem Thread.setRow_csrs (t : Thread) (n : Nat) (v : Row) : (t.setRow n v).csrs = t.csrs := rfl
@[simp] theorem Thread.setRow_latch (t : Thread) (n : Nat) (v : Row) : (t.setRow n v).latch = t.latch := rfl
@[simp] theorem Thread.setRow_lunge (t : Thread) (n : Nat) (v : Row) : (t.setRow n v).lunge = t.lunge := rfl
@[simp] theorem Thread.setRow_replay (t : Thread) (n : Nat) (v : Row) : (t.setRow n v).replay = t.replay := rfl
@[simp] theorem Thread.setRow_opNum (t : Thread) (n : Nat) (v : Row) : (t.setRow n v).opNum = t.opNum := rfl
@[simp] theorem Thread.setRow_copyTag (t : Thread) (n : Nat) (v : Row) : (t.setRow n v).copyTag = t.copyTag := rfl
@[simp] theorem Thread.setRow_copyRecs (t : Thread) (n : Nat) (v : Row) : (t.setRow n v).copyRecs = t.copyRecs := rfl
@[simp] theorem Thread.setRow_fences (t : Thread) (n : Nat) (v : Row) : (t.setRow n v).fences = t.fences := rfl
@[simp] theorem Thread.setRow_pend (t : Thread) (n : Nat) (v : Row) : (t.setRow n v).pend = t.pend := rfl
@[simp] theorem Thread.setRow_hitch (t : Thread) (n : Nat) (v : Row) : (t.setRow n v).hitch = t.hitch := rfl
@[simp] theorem Thread.setRow_trigDone (t : Thread) (n : Nat) (v : Row) : (t.setRow n v).trigDone = t.trigDone := rfl
@[simp] theorem Thread.setRow_arrival (t : Thread) (n : Nat) (v : Row) : (t.setRow n v).arrival = t.arrival := rfl
@[simp] theorem Thread.setRow_woke (t : Thread) (n : Nat) (v : Row) : (t.setRow n v).woke = t.woke := rfl
@[simp] theorem Thread.setRow_ilSeen (t : Thread) (n : Nat) (v : Row) : (t.setRow n v).ilSeen = t.ilSeen := rfl
@[simp] theorem Thread.setRow_filled (t : Thread) (n : Nat) (v : Row) : (t.setRow n v).filled = t.filled := rfl
@[simp] theorem Thread.setRow_chkSample (t : Thread) (n : Nat) (v : Row) : (t.setRow n v).chkSample = t.chkSample := rfl
@[simp] theorem Thread.setRow_yieldMask (t : Thread) (n : Nat) (v : Row) : (t.setRow n v).yieldMask = t.yieldMask := rfl
@[simp] theorem Thread.setRow_born (t : Thread) (n : Nat) (v : Row) : (t.setRow n v).born = t.born := rfl
@[simp] theorem Thread.setRow_word (t : Thread) (n : Nat) (v : Row) : (t.setRow n v).word = t.word := rfl
@[simp] theorem Thread.setRow_faultVa (t : Thread) (n : Nat) (v : Row) : (t.setRow n v).faultVa = t.faultVa := rfl
@[simp] theorem Thread.setRow_table (t : Thread) (n : Nat) (v : Row) : (t.setRow n v).table = t.table := rfl
@[simp] theorem Thread.mixRow_state (t : Thread) (n : Nat) (m : BitVec 16) (v : Row) : (t.mixRow n m v).state = t.state := rfl
@[simp] theorem Thread.mixRow_ctx (t : Thread) (n : Nat) (m : BitVec 16) (v : Row) : (t.mixRow n m v).ctx = t.ctx := rfl
@[simp] theorem Thread.mixRow_pc (t : Thread) (n : Nat) (m : BitVec 16) (v : Row) : (t.mixRow n m v).pc = t.pc := rfl
@[simp] theorem Thread.mixRow_gregs (t : Thread) (n : Nat) (m : BitVec 16) (v : Row) : (t.mixRow n m v).gregs = t.gregs := rfl
@[simp] theorem Thread.mixRow_phys (t : Thread) (n : Nat) (m : BitVec 16) (v : Row) : (t.mixRow n m v).phys = t.phys := rfl
@[simp] theorem Thread.mixRow_dead (t : Thread) (n : Nat) (m : BitVec 16) (v : Row) : (t.mixRow n m v).dead = t.dead := rfl
@[simp] theorem Thread.mixRow_wptr (t : Thread) (n : Nat) (m : BitVec 16) (v : Row) : (t.mixRow n m v).wptr = t.wptr := rfl
@[simp] theorem Thread.mixRow_resident (t : Thread) (n : Nat) (m : BitVec 16) (v : Row) : (t.mixRow n m v).resident = t.resident := rfl
@[simp] theorem Thread.mixRow_spilled (t : Thread) (n : Nat) (m : BitVec 16) (v : Row) : (t.mixRow n m v).spilled = t.spilled := rfl
@[simp] theorem Thread.mixRow_masks (t : Thread) (n : Nat) (m : BitVec 16) (v : Row) : (t.mixRow n m v).masks = t.masks := rfl
@[simp] theorem Thread.mixRow_csrs (t : Thread) (n : Nat) (m : BitVec 16) (v : Row) : (t.mixRow n m v).csrs = t.csrs := rfl
@[simp] theorem Thread.mixRow_latch (t : Thread) (n : Nat) (m : BitVec 16) (v : Row) : (t.mixRow n m v).latch = t.latch := rfl
@[simp] theorem Thread.mixRow_lunge (t : Thread) (n : Nat) (m : BitVec 16) (v : Row) : (t.mixRow n m v).lunge = t.lunge := rfl
@[simp] theorem Thread.mixRow_replay (t : Thread) (n : Nat) (m : BitVec 16) (v : Row) : (t.mixRow n m v).replay = t.replay := rfl
@[simp] theorem Thread.mixRow_opNum (t : Thread) (n : Nat) (m : BitVec 16) (v : Row) : (t.mixRow n m v).opNum = t.opNum := rfl
@[simp] theorem Thread.mixRow_copyTag (t : Thread) (n : Nat) (m : BitVec 16) (v : Row) : (t.mixRow n m v).copyTag = t.copyTag := rfl
@[simp] theorem Thread.mixRow_copyRecs (t : Thread) (n : Nat) (m : BitVec 16) (v : Row) : (t.mixRow n m v).copyRecs = t.copyRecs := rfl
@[simp] theorem Thread.mixRow_fences (t : Thread) (n : Nat) (m : BitVec 16) (v : Row) : (t.mixRow n m v).fences = t.fences := rfl
@[simp] theorem Thread.mixRow_pend (t : Thread) (n : Nat) (m : BitVec 16) (v : Row) : (t.mixRow n m v).pend = t.pend := rfl
@[simp] theorem Thread.mixRow_hitch (t : Thread) (n : Nat) (m : BitVec 16) (v : Row) : (t.mixRow n m v).hitch = t.hitch := rfl
@[simp] theorem Thread.mixRow_trigDone (t : Thread) (n : Nat) (m : BitVec 16) (v : Row) : (t.mixRow n m v).trigDone = t.trigDone := rfl
@[simp] theorem Thread.mixRow_arrival (t : Thread) (n : Nat) (m : BitVec 16) (v : Row) : (t.mixRow n m v).arrival = t.arrival := rfl
@[simp] theorem Thread.mixRow_woke (t : Thread) (n : Nat) (m : BitVec 16) (v : Row) : (t.mixRow n m v).woke = t.woke := rfl
@[simp] theorem Thread.mixRow_ilSeen (t : Thread) (n : Nat) (m : BitVec 16) (v : Row) : (t.mixRow n m v).ilSeen = t.ilSeen := rfl
@[simp] theorem Thread.mixRow_filled (t : Thread) (n : Nat) (m : BitVec 16) (v : Row) : (t.mixRow n m v).filled = t.filled := rfl
@[simp] theorem Thread.mixRow_chkSample (t : Thread) (n : Nat) (m : BitVec 16) (v : Row) : (t.mixRow n m v).chkSample = t.chkSample := rfl
@[simp] theorem Thread.mixRow_yieldMask (t : Thread) (n : Nat) (m : BitVec 16) (v : Row) : (t.mixRow n m v).yieldMask = t.yieldMask := rfl
@[simp] theorem Thread.mixRow_born (t : Thread) (n : Nat) (m : BitVec 16) (v : Row) : (t.mixRow n m v).born = t.born := rfl
@[simp] theorem Thread.mixRow_word (t : Thread) (n : Nat) (m : BitVec 16) (v : Row) : (t.mixRow n m v).word = t.word := rfl
@[simp] theorem Thread.mixRow_faultVa (t : Thread) (n : Nat) (m : BitVec 16) (v : Row) : (t.mixRow n m v).faultVa = t.faultVa := rfl
@[simp] theorem Thread.mixRow_table (t : Thread) (n : Nat) (m : BitVec 16) (v : Row) : (t.mixRow n m v).table = t.table := rfl
@[simp] theorem Thread.setMask_state (t : Thread) (m : MaskCode) (v : BitVec 16) : (t.setMask m v).state = t.state := by
  unfold Thread.setMask
  split <;> rfl
@[simp] theorem Thread.setMask_ctx (t : Thread) (m : MaskCode) (v : BitVec 16) : (t.setMask m v).ctx = t.ctx := by
  unfold Thread.setMask
  split <;> rfl
@[simp] theorem Thread.setMask_pc (t : Thread) (m : MaskCode) (v : BitVec 16) : (t.setMask m v).pc = t.pc := by
  unfold Thread.setMask
  split <;> rfl
@[simp] theorem Thread.setMask_gregs (t : Thread) (m : MaskCode) (v : BitVec 16) : (t.setMask m v).gregs = t.gregs := by
  unfold Thread.setMask
  split <;> rfl
@[simp] theorem Thread.setMask_phys (t : Thread) (m : MaskCode) (v : BitVec 16) : (t.setMask m v).phys = t.phys := by
  unfold Thread.setMask
  split <;> rfl
@[simp] theorem Thread.setMask_dead (t : Thread) (m : MaskCode) (v : BitVec 16) : (t.setMask m v).dead = t.dead := by
  unfold Thread.setMask
  split <;> rfl
@[simp] theorem Thread.setMask_wptr (t : Thread) (m : MaskCode) (v : BitVec 16) : (t.setMask m v).wptr = t.wptr := by
  unfold Thread.setMask
  split <;> rfl
@[simp] theorem Thread.setMask_resident (t : Thread) (m : MaskCode) (v : BitVec 16) : (t.setMask m v).resident = t.resident := by
  unfold Thread.setMask
  split <;> rfl
@[simp] theorem Thread.setMask_spilled (t : Thread) (m : MaskCode) (v : BitVec 16) : (t.setMask m v).spilled = t.spilled := by
  unfold Thread.setMask
  split <;> rfl
@[simp] theorem Thread.setMask_rows (t : Thread) (m : MaskCode) (v : BitVec 16) : (t.setMask m v).rows = t.rows := by
  unfold Thread.setMask
  split <;> rfl
@[simp] theorem Thread.setMask_csrs (t : Thread) (m : MaskCode) (v : BitVec 16) : (t.setMask m v).csrs = t.csrs := by
  unfold Thread.setMask
  split <;> rfl
@[simp] theorem Thread.setMask_latch (t : Thread) (m : MaskCode) (v : BitVec 16) : (t.setMask m v).latch = t.latch := by
  unfold Thread.setMask
  split <;> rfl
@[simp] theorem Thread.setMask_lunge (t : Thread) (m : MaskCode) (v : BitVec 16) : (t.setMask m v).lunge = t.lunge := by
  unfold Thread.setMask
  split <;> rfl
@[simp] theorem Thread.setMask_replay (t : Thread) (m : MaskCode) (v : BitVec 16) : (t.setMask m v).replay = t.replay := by
  unfold Thread.setMask
  split <;> rfl
@[simp] theorem Thread.setMask_opNum (t : Thread) (m : MaskCode) (v : BitVec 16) : (t.setMask m v).opNum = t.opNum := by
  unfold Thread.setMask
  split <;> rfl
@[simp] theorem Thread.setMask_copyTag (t : Thread) (m : MaskCode) (v : BitVec 16) : (t.setMask m v).copyTag = t.copyTag := by
  unfold Thread.setMask
  split <;> rfl
@[simp] theorem Thread.setMask_copyRecs (t : Thread) (m : MaskCode) (v : BitVec 16) : (t.setMask m v).copyRecs = t.copyRecs := by
  unfold Thread.setMask
  split <;> rfl
@[simp] theorem Thread.setMask_fences (t : Thread) (m : MaskCode) (v : BitVec 16) : (t.setMask m v).fences = t.fences := by
  unfold Thread.setMask
  split <;> rfl
@[simp] theorem Thread.setMask_pend (t : Thread) (m : MaskCode) (v : BitVec 16) : (t.setMask m v).pend = t.pend := by
  unfold Thread.setMask
  split <;> rfl
@[simp] theorem Thread.setMask_hitch (t : Thread) (m : MaskCode) (v : BitVec 16) : (t.setMask m v).hitch = t.hitch := by
  unfold Thread.setMask
  split <;> rfl
@[simp] theorem Thread.setMask_trigDone (t : Thread) (m : MaskCode) (v : BitVec 16) : (t.setMask m v).trigDone = t.trigDone := by
  unfold Thread.setMask
  split <;> rfl
@[simp] theorem Thread.setMask_arrival (t : Thread) (m : MaskCode) (v : BitVec 16) : (t.setMask m v).arrival = t.arrival := by
  unfold Thread.setMask
  split <;> rfl
@[simp] theorem Thread.setMask_woke (t : Thread) (m : MaskCode) (v : BitVec 16) : (t.setMask m v).woke = t.woke := by
  unfold Thread.setMask
  split <;> rfl
@[simp] theorem Thread.setMask_points (t : Thread) (m : MaskCode) (v : BitVec 16) : (t.setMask m v).points = t.points := by
  unfold Thread.setMask
  split <;> rfl
@[simp] theorem Thread.setMask_ilSeen (t : Thread) (m : MaskCode) (v : BitVec 16) : (t.setMask m v).ilSeen = t.ilSeen := by
  unfold Thread.setMask
  split <;> rfl
@[simp] theorem Thread.setMask_filled (t : Thread) (m : MaskCode) (v : BitVec 16) : (t.setMask m v).filled = t.filled := by
  unfold Thread.setMask
  split <;> rfl
@[simp] theorem Thread.setMask_chkSample (t : Thread) (m : MaskCode) (v : BitVec 16) : (t.setMask m v).chkSample = t.chkSample := by
  unfold Thread.setMask
  split <;> rfl
@[simp] theorem Thread.setMask_yieldMask (t : Thread) (m : MaskCode) (v : BitVec 16) : (t.setMask m v).yieldMask = t.yieldMask := by
  unfold Thread.setMask
  split <;> rfl
@[simp] theorem Thread.setMask_born (t : Thread) (m : MaskCode) (v : BitVec 16) : (t.setMask m v).born = t.born := by
  unfold Thread.setMask
  split <;> rfl
@[simp] theorem Thread.setMask_word (t : Thread) (m : MaskCode) (v : BitVec 16) : (t.setMask m v).word = t.word := by
  unfold Thread.setMask
  split <;> rfl
@[simp] theorem Thread.setMask_faultVa (t : Thread) (m : MaskCode) (v : BitVec 16) : (t.setMask m v).faultVa = t.faultVa := by
  unfold Thread.setMask
  split <;> rfl
@[simp] theorem Thread.setMask_table (t : Thread) (m : MaskCode) (v : BitVec 16) : (t.setMask m v).table = t.table := by
  unfold Thread.setMask
  split <;> rfl
@[simp] theorem Thread.stepPc_state (t : Thread) : (t.stepPc).state = t.state := by
  unfold Thread.stepPc
  split
  · rfl
  · split
    · rfl
    · split <;> rfl
@[simp] theorem Thread.stepPc_ctx (t : Thread) : (t.stepPc).ctx = t.ctx := by
  unfold Thread.stepPc
  split
  · rfl
  · split
    · rfl
    · split <;> rfl
@[simp] theorem Thread.stepPc_gregs (t : Thread) : (t.stepPc).gregs = t.gregs := by
  unfold Thread.stepPc
  split
  · rfl
  · split
    · rfl
    · split <;> rfl
@[simp] theorem Thread.stepPc_phys (t : Thread) : (t.stepPc).phys = t.phys := by
  unfold Thread.stepPc
  split
  · rfl
  · split
    · rfl
    · split <;> rfl
@[simp] theorem Thread.stepPc_dead (t : Thread) : (t.stepPc).dead = t.dead := by
  unfold Thread.stepPc
  split
  · rfl
  · split
    · rfl
    · split <;> rfl
@[simp] theorem Thread.stepPc_wptr (t : Thread) : (t.stepPc).wptr = t.wptr := by
  unfold Thread.stepPc
  split
  · rfl
  · split
    · rfl
    · split <;> rfl
@[simp] theorem Thread.stepPc_resident (t : Thread) : (t.stepPc).resident = t.resident := by
  unfold Thread.stepPc
  split
  · rfl
  · split
    · rfl
    · split <;> rfl
@[simp] theorem Thread.stepPc_spilled (t : Thread) : (t.stepPc).spilled = t.spilled := by
  unfold Thread.stepPc
  split
  · rfl
  · split
    · rfl
    · split <;> rfl
@[simp] theorem Thread.stepPc_masks (t : Thread) : (t.stepPc).masks = t.masks := by
  unfold Thread.stepPc
  split
  · rfl
  · split
    · rfl
    · split <;> rfl
@[simp] theorem Thread.stepPc_rows (t : Thread) : (t.stepPc).rows = t.rows := by
  unfold Thread.stepPc
  split
  · rfl
  · split
    · rfl
    · split <;> rfl
@[simp] theorem Thread.stepPc_csrs (t : Thread) : (t.stepPc).csrs = t.csrs := by
  unfold Thread.stepPc
  split
  · rfl
  · split
    · rfl
    · split <;> rfl
@[simp] theorem Thread.stepPc_latch (t : Thread) : (t.stepPc).latch = t.latch := by
  unfold Thread.stepPc
  split
  · rfl
  · split
    · rfl
    · split <;> rfl
@[simp] theorem Thread.stepPc_lunge (t : Thread) : (t.stepPc).lunge = t.lunge := by
  unfold Thread.stepPc
  split
  · rfl
  · split
    · rfl
    · split <;> rfl
@[simp] theorem Thread.stepPc_opNum (t : Thread) : (t.stepPc).opNum = t.opNum := by
  unfold Thread.stepPc
  split
  · rfl
  · split
    · rfl
    · split <;> rfl
@[simp] theorem Thread.stepPc_copyTag (t : Thread) : (t.stepPc).copyTag = t.copyTag := by
  unfold Thread.stepPc
  split
  · rfl
  · split
    · rfl
    · split <;> rfl
@[simp] theorem Thread.stepPc_copyRecs (t : Thread) : (t.stepPc).copyRecs = t.copyRecs := by
  unfold Thread.stepPc
  split
  · rfl
  · split
    · rfl
    · split <;> rfl
@[simp] theorem Thread.stepPc_fences (t : Thread) : (t.stepPc).fences = t.fences := by
  unfold Thread.stepPc
  split
  · rfl
  · split
    · rfl
    · split <;> rfl
@[simp] theorem Thread.stepPc_pend (t : Thread) : (t.stepPc).pend = t.pend := by
  unfold Thread.stepPc
  split
  · rfl
  · split
    · rfl
    · split <;> rfl
@[simp] theorem Thread.stepPc_hitch (t : Thread) : (t.stepPc).hitch = t.hitch := by
  unfold Thread.stepPc
  split
  · rfl
  · split
    · rfl
    · split <;> rfl
@[simp] theorem Thread.stepPc_trigDone (t : Thread) : (t.stepPc).trigDone = t.trigDone := by
  unfold Thread.stepPc
  split
  · rfl
  · split
    · rfl
    · split <;> rfl
@[simp] theorem Thread.stepPc_arrival (t : Thread) : (t.stepPc).arrival = t.arrival := by
  unfold Thread.stepPc
  split
  · rfl
  · split
    · rfl
    · split <;> rfl
@[simp] theorem Thread.stepPc_woke (t : Thread) : (t.stepPc).woke = t.woke := by
  unfold Thread.stepPc
  split
  · rfl
  · split
    · rfl
    · split <;> rfl
@[simp] theorem Thread.stepPc_points (t : Thread) : (t.stepPc).points = t.points := by
  unfold Thread.stepPc
  split
  · rfl
  · split
    · rfl
    · split <;> rfl
@[simp] theorem Thread.stepPc_ilSeen (t : Thread) : (t.stepPc).ilSeen = t.ilSeen := by
  unfold Thread.stepPc
  split
  · rfl
  · split
    · rfl
    · split <;> rfl
@[simp] theorem Thread.stepPc_filled (t : Thread) : (t.stepPc).filled = t.filled := by
  unfold Thread.stepPc
  split
  · rfl
  · split
    · rfl
    · split <;> rfl
@[simp] theorem Thread.stepPc_chkSample (t : Thread) : (t.stepPc).chkSample = t.chkSample := by
  unfold Thread.stepPc
  split
  · rfl
  · split
    · rfl
    · split <;> rfl
@[simp] theorem Thread.stepPc_yieldMask (t : Thread) : (t.stepPc).yieldMask = t.yieldMask := by
  unfold Thread.stepPc
  split
  · rfl
  · split
    · rfl
    · split <;> rfl
@[simp] theorem Thread.stepPc_born (t : Thread) : (t.stepPc).born = t.born := by
  unfold Thread.stepPc
  split
  · rfl
  · split
    · rfl
    · split <;> rfl
@[simp] theorem Thread.stepPc_word (t : Thread) : (t.stepPc).word = t.word := by
  unfold Thread.stepPc
  split
  · rfl
  · split
    · rfl
    · split <;> rfl
@[simp] theorem Thread.stepPc_faultVa (t : Thread) : (t.stepPc).faultVa = t.faultVa := by
  unfold Thread.stepPc
  split
  · rfl
  · split
    · rfl
    · split <;> rfl
@[simp] theorem Thread.stepPc_table (t : Thread) : (t.stepPc).table = t.table := by
  unfold Thread.stepPc
  split
  · rfl
  · split
    · rfl
    · split <;> rfl
@[simp] theorem Thread.retire_ctx (t : Thread) : (t.retire).ctx = t.ctx := rfl
@[simp] theorem Thread.retire_pc (t : Thread) : (t.retire).pc = t.pc := rfl
@[simp] theorem Thread.retire_gregs (t : Thread) : (t.retire).gregs = t.gregs := rfl
@[simp] theorem Thread.retire_phys (t : Thread) : (t.retire).phys = t.phys := rfl
@[simp] theorem Thread.retire_dead (t : Thread) : (t.retire).dead = t.dead := rfl
@[simp] theorem Thread.retire_wptr (t : Thread) : (t.retire).wptr = t.wptr := rfl
@[simp] theorem Thread.retire_resident (t : Thread) : (t.retire).resident = t.resident := rfl
@[simp] theorem Thread.retire_spilled (t : Thread) : (t.retire).spilled = t.spilled := rfl
@[simp] theorem Thread.retire_masks (t : Thread) : (t.retire).masks = t.masks := rfl
@[simp] theorem Thread.retire_rows (t : Thread) : (t.retire).rows = t.rows := rfl
@[simp] theorem Thread.retire_latch (t : Thread) : (t.retire).latch = t.latch := rfl
@[simp] theorem Thread.retire_lunge (t : Thread) : (t.retire).lunge = t.lunge := rfl
@[simp] theorem Thread.retire_replay (t : Thread) : (t.retire).replay = t.replay := rfl
@[simp] theorem Thread.retire_opNum (t : Thread) : (t.retire).opNum = t.opNum := rfl
@[simp] theorem Thread.retire_copyTag (t : Thread) : (t.retire).copyTag = t.copyTag := rfl
@[simp] theorem Thread.retire_copyRecs (t : Thread) : (t.retire).copyRecs = t.copyRecs := rfl
@[simp] theorem Thread.retire_fences (t : Thread) : (t.retire).fences = t.fences := rfl
@[simp] theorem Thread.retire_pend (t : Thread) : (t.retire).pend = t.pend := rfl
@[simp] theorem Thread.retire_trigDone (t : Thread) : (t.retire).trigDone = t.trigDone := rfl
@[simp] theorem Thread.retire_arrival (t : Thread) : (t.retire).arrival = t.arrival := rfl
@[simp] theorem Thread.retire_points (t : Thread) : (t.retire).points = t.points := rfl
@[simp] theorem Thread.retire_ilSeen (t : Thread) : (t.retire).ilSeen = t.ilSeen := rfl
@[simp] theorem Thread.retire_filled (t : Thread) : (t.retire).filled = t.filled := rfl
@[simp] theorem Thread.retire_chkSample (t : Thread) : (t.retire).chkSample = t.chkSample := rfl
@[simp] theorem Thread.retire_yieldMask (t : Thread) : (t.retire).yieldMask = t.yieldMask := rfl
@[simp] theorem Thread.retire_born (t : Thread) : (t.retire).born = t.born := rfl
@[simp] theorem Thread.retire_word (t : Thread) : (t.retire).word = t.word := rfl
@[simp] theorem Thread.retire_faultVa (t : Thread) : (t.retire).faultVa = t.faultVa := rfl
@[simp] theorem Thread.retire_table (t : Thread) : (t.retire).table = t.table := rfl

/-! Parts by number. -/

@[simp] theorem State.core_setCore (s : State) (c d : Nat) (k : Core) :
    (s.setCore c k).core d = if d = c then k else s.core d := Tbl.get_set _ _ _ _ _
@[simp] theorem State.core_updCore (s : State) (c d : Nat) (f : Core → Core) :
    (s.updCore c f).core d = if d = c then f (s.core c) else s.core d := Tbl.get_set _ _ _ _ _
@[simp] theorem Core.thread_setThread (k : Core) (m n : Nat) (x : Thread) :
    (k.setThread m x).thread n = if n = m then x else k.thread n := Tbl.get_set _ _ _ _ _
@[simp] theorem State.cluster_setCluster (s : State) (c d : Nat) (k : Cluster) :
    (s.setCluster c k).cluster d = if d = c then k else s.cluster d := Tbl.get_set _ _ _ _ _
@[simp] theorem State.cluster_updCluster (s : State) (c d : Nat) (f : Cluster → Cluster) :
    (s.updCluster c f).cluster d = if d = c then f (s.cluster c) else s.cluster d := Tbl.get_set _ _ _ _ _
@[simp] theorem State.die_setDie (s : State) (c d : Nat) (k : Die) :
    (s.setDie c k).die d = if d = c then k else s.die d := Tbl.get_set _ _ _ _ _
@[simp] theorem State.die_updDie (s : State) (c d : Nat) (f : Die → Die) :
    (s.updDie c f).die d = if d = c then f (s.die c) else s.die d := Tbl.get_set _ _ _ _ _
@[simp] theorem State.ctx_setCtx (s : State) (c d : Nat) (k : Ctx) :
    (s.setCtx c k).ctx d = if d = c then k else s.ctx d := Tbl.get_set _ _ _ _ _
@[simp] theorem State.ctx_updCtx (s : State) (c d : Nat) (f : Ctx → Ctx) :
    (s.updCtx c f).ctx d = if d = c then f (s.ctx c) else s.ctx d := Tbl.get_set _ _ _ _ _
@[simp] theorem State.io_updIo (s : State) (c d : Nat) (f : IoDie → IoDie) :
    (s.updIo c f).io d = if d = c then f (s.io c) else s.io d := Tbl.get_set _ _ _ _ _

@[simp] theorem State.cluster_setCore (s : State) (c : Nat) (k : Core) (j : Nat) : (s.setCore c k).cluster j = s.cluster j := rfl
@[simp] theorem State.die_setCore (s : State) (c : Nat) (k : Core) (j : Nat) : (s.setCore c k).die j = s.die j := rfl
@[simp] theorem State.ctx_setCore (s : State) (c : Nat) (k : Core) (j : Nat) : (s.setCore c k).ctx j = s.ctx j := rfl
@[simp] theorem State.io_setCore (s : State) (c : Nat) (k : Core) (j : Nat) : (s.setCore c k).io j = s.io j := rfl
@[simp] theorem State.cluster_updCore (s : State) (c : Nat) (f : Core → Core) (j : Nat) : (s.updCore c f).cluster j = s.cluster j := rfl
@[simp] theorem State.die_updCore (s : State) (c : Nat) (f : Core → Core) (j : Nat) : (s.updCore c f).die j = s.die j := rfl
@[simp] theorem State.ctx_updCore (s : State) (c : Nat) (f : Core → Core) (j : Nat) : (s.updCore c f).ctx j = s.ctx j := rfl
@[simp] theorem State.io_updCore (s : State) (c : Nat) (f : Core → Core) (j : Nat) : (s.updCore c f).io j = s.io j := rfl
@[simp] theorem State.cluster_setThread (s : State) (i : ThreadId) (x : Thread) (j : Nat) : (s.setThread i x).cluster j = s.cluster j := rfl
@[simp] theorem State.die_setThread (s : State) (i : ThreadId) (x : Thread) (j : Nat) : (s.setThread i x).die j = s.die j := rfl
@[simp] theorem State.ctx_setThread (s : State) (i : ThreadId) (x : Thread) (j : Nat) : (s.setThread i x).ctx j = s.ctx j := rfl
@[simp] theorem State.io_setThread (s : State) (i : ThreadId) (x : Thread) (j : Nat) : (s.setThread i x).io j = s.io j := rfl
@[simp] theorem State.cluster_updThread (s : State) (i : ThreadId) (f : Thread → Thread) (j : Nat) : (s.updThread i f).cluster j = s.cluster j := rfl
@[simp] theorem State.die_updThread (s : State) (i : ThreadId) (f : Thread → Thread) (j : Nat) : (s.updThread i f).die j = s.die j := rfl
@[simp] theorem State.ctx_updThread (s : State) (i : ThreadId) (f : Thread → Thread) (j : Nat) : (s.updThread i f).ctx j = s.ctx j := rfl
@[simp] theorem State.io_updThread (s : State) (i : ThreadId) (f : Thread → Thread) (j : Nat) : (s.updThread i f).io j = s.io j := rfl
@[simp] theorem State.cluster_setMe (s : State) (x : Thread) (j : Nat) : (s.setMe x).cluster j = s.cluster j := rfl
@[simp] theorem State.die_setMe (s : State) (x : Thread) (j : Nat) : (s.setMe x).die j = s.die j := rfl
@[simp] theorem State.ctx_setMe (s : State) (x : Thread) (j : Nat) : (s.setMe x).ctx j = s.ctx j := rfl
@[simp] theorem State.io_setMe (s : State) (x : Thread) (j : Nat) : (s.setMe x).io j = s.io j := rfl
@[simp] theorem State.cluster_updMe (s : State) (f : Thread → Thread) (j : Nat) : (s.updMe f).cluster j = s.cluster j := rfl
@[simp] theorem State.die_updMe (s : State) (f : Thread → Thread) (j : Nat) : (s.updMe f).die j = s.die j := rfl
@[simp] theorem State.ctx_updMe (s : State) (f : Thread → Thread) (j : Nat) : (s.updMe f).ctx j = s.ctx j := rfl
@[simp] theorem State.io_updMe (s : State) (f : Thread → Thread) (j : Nat) : (s.updMe f).io j = s.io j := rfl
@[simp] theorem State.cluster_updMyCore (s : State) (f : Core → Core) (j : Nat) : (s.updMyCore f).cluster j = s.cluster j := rfl
@[simp] theorem State.die_updMyCore (s : State) (f : Core → Core) (j : Nat) : (s.updMyCore f).die j = s.die j := rfl
@[simp] theorem State.ctx_updMyCore (s : State) (f : Core → Core) (j : Nat) : (s.updMyCore f).ctx j = s.ctx j := rfl
@[simp] theorem State.io_updMyCore (s : State) (f : Core → Core) (j : Nat) : (s.updMyCore f).io j = s.io j := rfl
@[simp] theorem State.cluster_setReg (s : State) (r : Reg) (v : Word) (j : Nat) : (s.setReg r v).cluster j = s.cluster j := rfl
@[simp] theorem State.die_setReg (s : State) (r : Reg) (v : Word) (j : Nat) : (s.setReg r v).die j = s.die j := rfl
@[simp] theorem State.ctx_setReg (s : State) (r : Reg) (v : Word) (j : Nat) : (s.setReg r v).ctx j = s.ctx j := rfl
@[simp] theorem State.io_setReg (s : State) (r : Reg) (v : Word) (j : Nat) : (s.setReg r v).io j = s.io j := rfl
@[simp] theorem State.cluster_setRow (s : State) (r : RowCode) (v : Row) (j : Nat) : (s.setRow r v).cluster j = s.cluster j := rfl
@[simp] theorem State.die_setRow (s : State) (r : RowCode) (v : Row) (j : Nat) : (s.setRow r v).die j = s.die j := rfl
@[simp] theorem State.ctx_setRow (s : State) (r : RowCode) (v : Row) (j : Nat) : (s.setRow r v).ctx j = s.ctx j := rfl
@[simp] theorem State.io_setRow (s : State) (r : RowCode) (v : Row) (j : Nat) : (s.setRow r v).io j = s.io j := rfl
@[simp] theorem State.cluster_setMask (s : State) (m : MaskCode) (v : BitVec 16) (j : Nat) : (s.setMask m v).cluster j = s.cluster j := rfl
@[simp] theorem State.die_setMask (s : State) (m : MaskCode) (v : BitVec 16) (j : Nat) : (s.setMask m v).die j = s.die j := rfl
@[simp] theorem State.ctx_setMask (s : State) (m : MaskCode) (v : BitVec 16) (j : Nat) : (s.setMask m v).ctx j = s.ctx j := rfl
@[simp] theorem State.io_setMask (s : State) (m : MaskCode) (v : BitVec 16) (j : Nat) : (s.setMask m v).io j = s.io j := rfl
@[simp] theorem State.cluster_hpm (s : State) (c code n : Nat) (j : Nat) : (s.hpm c code n).cluster j = s.cluster j := rfl
@[simp] theorem State.die_hpm (s : State) (c code n : Nat) (j : Nat) : (s.hpm c code n).die j = s.die j := rfl
@[simp] theorem State.ctx_hpm (s : State) (c code n : Nat) (j : Nat) : (s.hpm c code n).ctx j = s.ctx j := rfl
@[simp] theorem State.io_hpm (s : State) (c code n : Nat) (j : Nat) : (s.hpm c code n).io j = s.io j := rfl
@[simp] theorem State.cluster_retire (s : State) (j : Nat) : (s.retire).cluster j = s.cluster j := rfl
@[simp] theorem State.die_retire (s : State) (j : Nat) : (s.retire).die j = s.die j := rfl
@[simp] theorem State.ctx_retire (s : State) (j : Nat) : (s.retire).ctx j = s.ctx j := rfl
@[simp] theorem State.io_retire (s : State) (j : Nat) : (s.retire).io j = s.io j := rfl
@[simp] theorem State.cluster_advance (s : State) (j : Nat) : (s.advance).cluster j = s.cluster j := rfl
@[simp] theorem State.die_advance (s : State) (j : Nat) : (s.advance).die j = s.die j := rfl
@[simp] theorem State.ctx_advance (s : State) (j : Nat) : (s.advance).ctx j = s.ctx j := rfl
@[simp] theorem State.io_advance (s : State) (j : Nat) : (s.advance).io j = s.io j := rfl
@[simp] theorem State.cluster_put (s : State) (d : Reg) (v : Word) (j : Nat) : (s.put d v).cluster j = s.cluster j := rfl
@[simp] theorem State.die_put (s : State) (d : Reg) (v : Word) (j : Nat) : (s.put d v).die j = s.die j := rfl
@[simp] theorem State.ctx_put (s : State) (d : Reg) (v : Word) (j : Nat) : (s.put d v).ctx j = s.ctx j := rfl
@[simp] theorem State.io_put (s : State) (d : Reg) (v : Word) (j : Nat) : (s.put d v).io j = s.io j := rfl
@[simp] theorem State.core_setCluster (s : State) (n : Nat) (c : Cluster) (j : Nat) : (s.setCluster n c).core j = s.core j := rfl
@[simp] theorem State.die_setCluster (s : State) (n : Nat) (c : Cluster) (j : Nat) : (s.setCluster n c).die j = s.die j := rfl
@[simp] theorem State.ctx_setCluster (s : State) (n : Nat) (c : Cluster) (j : Nat) : (s.setCluster n c).ctx j = s.ctx j := rfl
@[simp] theorem State.io_setCluster (s : State) (n : Nat) (c : Cluster) (j : Nat) : (s.setCluster n c).io j = s.io j := rfl
@[simp] theorem State.thread_setCluster (s : State) (n : Nat) (c : Cluster) (j : ThreadId) : (s.setCluster n c).thread j = s.thread j := rfl
@[simp] theorem State.me_setCluster (s : State) (n : Nat) (c : Cluster)  : (s.setCluster n c).me  = s.me  := rfl
@[simp] theorem State.myCore_setCluster (s : State) (n : Nat) (c : Cluster)  : (s.setCluster n c).myCore  = s.myCore  := rfl
@[simp] theorem State.core_updCluster (s : State) (n : Nat) (f : Cluster → Cluster) (j : Nat) : (s.updCluster n f).core j = s.core j := rfl
@[simp] theorem State.die_updCluster (s : State) (n : Nat) (f : Cluster → Cluster) (j : Nat) : (s.updCluster n f).die j = s.die j := rfl
@[simp] theorem State.ctx_updCluster (s : State) (n : Nat) (f : Cluster → Cluster) (j : Nat) : (s.updCluster n f).ctx j = s.ctx j := rfl
@[simp] theorem State.io_updCluster (s : State) (n : Nat) (f : Cluster → Cluster) (j : Nat) : (s.updCluster n f).io j = s.io j := rfl
@[simp] theorem State.thread_updCluster (s : State) (n : Nat) (f : Cluster → Cluster) (j : ThreadId) : (s.updCluster n f).thread j = s.thread j := rfl
@[simp] theorem State.me_updCluster (s : State) (n : Nat) (f : Cluster → Cluster)  : (s.updCluster n f).me  = s.me  := rfl
@[simp] theorem State.myCore_updCluster (s : State) (n : Nat) (f : Cluster → Cluster)  : (s.updCluster n f).myCore  = s.myCore  := rfl
@[simp] theorem State.core_setDie (s : State) (n : Nat) (d : Die) (j : Nat) : (s.setDie n d).core j = s.core j := rfl
@[simp] theorem State.cluster_setDie (s : State) (n : Nat) (d : Die) (j : Nat) : (s.setDie n d).cluster j = s.cluster j := rfl
@[simp] theorem State.ctx_setDie (s : State) (n : Nat) (d : Die) (j : Nat) : (s.setDie n d).ctx j = s.ctx j := rfl
@[simp] theorem State.io_setDie (s : State) (n : Nat) (d : Die) (j : Nat) : (s.setDie n d).io j = s.io j := rfl
@[simp] theorem State.thread_setDie (s : State) (n : Nat) (d : Die) (j : ThreadId) : (s.setDie n d).thread j = s.thread j := rfl
@[simp] theorem State.me_setDie (s : State) (n : Nat) (d : Die)  : (s.setDie n d).me  = s.me  := rfl
@[simp] theorem State.myCore_setDie (s : State) (n : Nat) (d : Die)  : (s.setDie n d).myCore  = s.myCore  := rfl
@[simp] theorem State.core_updDie (s : State) (n : Nat) (f : Die → Die) (j : Nat) : (s.updDie n f).core j = s.core j := rfl
@[simp] theorem State.cluster_updDie (s : State) (n : Nat) (f : Die → Die) (j : Nat) : (s.updDie n f).cluster j = s.cluster j := rfl
@[simp] theorem State.ctx_updDie (s : State) (n : Nat) (f : Die → Die) (j : Nat) : (s.updDie n f).ctx j = s.ctx j := rfl
@[simp] theorem State.io_updDie (s : State) (n : Nat) (f : Die → Die) (j : Nat) : (s.updDie n f).io j = s.io j := rfl
@[simp] theorem State.thread_updDie (s : State) (n : Nat) (f : Die → Die) (j : ThreadId) : (s.updDie n f).thread j = s.thread j := rfl
@[simp] theorem State.me_updDie (s : State) (n : Nat) (f : Die → Die)  : (s.updDie n f).me  = s.me  := rfl
@[simp] theorem State.myCore_updDie (s : State) (n : Nat) (f : Die → Die)  : (s.updDie n f).myCore  = s.myCore  := rfl
@[simp] theorem State.core_setCtx (s : State) (n : Nat) (x : Ctx) (j : Nat) : (s.setCtx n x).core j = s.core j := rfl
@[simp] theorem State.cluster_setCtx (s : State) (n : Nat) (x : Ctx) (j : Nat) : (s.setCtx n x).cluster j = s.cluster j := rfl
@[simp] theorem State.die_setCtx (s : State) (n : Nat) (x : Ctx) (j : Nat) : (s.setCtx n x).die j = s.die j := rfl
@[simp] theorem State.io_setCtx (s : State) (n : Nat) (x : Ctx) (j : Nat) : (s.setCtx n x).io j = s.io j := rfl
@[simp] theorem State.thread_setCtx (s : State) (n : Nat) (x : Ctx) (j : ThreadId) : (s.setCtx n x).thread j = s.thread j := rfl
@[simp] theorem State.me_setCtx (s : State) (n : Nat) (x : Ctx)  : (s.setCtx n x).me  = s.me  := rfl
@[simp] theorem State.myCore_setCtx (s : State) (n : Nat) (x : Ctx)  : (s.setCtx n x).myCore  = s.myCore  := rfl
@[simp] theorem State.core_updCtx (s : State) (n : Nat) (f : Ctx → Ctx) (j : Nat) : (s.updCtx n f).core j = s.core j := rfl
@[simp] theorem State.cluster_updCtx (s : State) (n : Nat) (f : Ctx → Ctx) (j : Nat) : (s.updCtx n f).cluster j = s.cluster j := rfl
@[simp] theorem State.die_updCtx (s : State) (n : Nat) (f : Ctx → Ctx) (j : Nat) : (s.updCtx n f).die j = s.die j := rfl
@[simp] theorem State.io_updCtx (s : State) (n : Nat) (f : Ctx → Ctx) (j : Nat) : (s.updCtx n f).io j = s.io j := rfl
@[simp] theorem State.thread_updCtx (s : State) (n : Nat) (f : Ctx → Ctx) (j : ThreadId) : (s.updCtx n f).thread j = s.thread j := rfl
@[simp] theorem State.me_updCtx (s : State) (n : Nat) (f : Ctx → Ctx)  : (s.updCtx n f).me  = s.me  := rfl
@[simp] theorem State.myCore_updCtx (s : State) (n : Nat) (f : Ctx → Ctx)  : (s.updCtx n f).myCore  = s.myCore  := rfl
@[simp] theorem State.core_updIo (s : State) (n : Nat) (f : IoDie → IoDie) (j : Nat) : (s.updIo n f).core j = s.core j := rfl
@[simp] theorem State.cluster_updIo (s : State) (n : Nat) (f : IoDie → IoDie) (j : Nat) : (s.updIo n f).cluster j = s.cluster j := rfl
@[simp] theorem State.die_updIo (s : State) (n : Nat) (f : IoDie → IoDie) (j : Nat) : (s.updIo n f).die j = s.die j := rfl
@[simp] theorem State.ctx_updIo (s : State) (n : Nat) (f : IoDie → IoDie) (j : Nat) : (s.updIo n f).ctx j = s.ctx j := rfl
@[simp] theorem State.thread_updIo (s : State) (n : Nat) (f : IoDie → IoDie) (j : ThreadId) : (s.updIo n f).thread j = s.thread j := rfl
@[simp] theorem State.me_updIo (s : State) (n : Nat) (f : IoDie → IoDie)  : (s.updIo n f).me  = s.me  := rfl
@[simp] theorem State.myCore_updIo (s : State) (n : Nat) (f : IoDie → IoDie)  : (s.updIo n f).myCore  = s.myCore  := rfl
@[simp] theorem State.core_fresh (s : State) (j : Nat) : (s.fresh).core j = s.core j := rfl
@[simp] theorem State.cluster_fresh (s : State) (j : Nat) : (s.fresh).cluster j = s.cluster j := rfl
@[simp] theorem State.die_fresh (s : State) (j : Nat) : (s.fresh).die j = s.die j := rfl
@[simp] theorem State.ctx_fresh (s : State) (j : Nat) : (s.fresh).ctx j = s.ctx j := rfl
@[simp] theorem State.io_fresh (s : State) (j : Nat) : (s.fresh).io j = s.io j := rfl
@[simp] theorem State.thread_fresh (s : State) (j : ThreadId) : (s.fresh).thread j = s.thread j := rfl
@[simp] theorem State.me_fresh (s : State)  : (s.fresh).me  = s.me  := rfl
@[simp] theorem State.myCore_fresh (s : State)  : (s.fresh).myCore  = s.myCore  := rfl

theorem ThreadId.eq_of {a b : ThreadId} (h : a.core = b.core) (g : a.slot = b.slot) : a = b := by
  cases a; cases b; simp_all

@[simp] theorem State.thread_setThread (s : State) (i j : ThreadId) (x : Thread) :
    (s.setThread i x).thread j = if j = i then x else s.thread j := by
  unfold State.setThread State.thread
  simp only [State.core_updCore]
  split
  · rename_i h
    simp only [Core.thread_setThread]
    split
    · rename_i g
      simp [ThreadId.eq_of h g]
    · rename_i g
      have : j ≠ i := fun e => g (by rw [e])
      simp [this, h]
  · rename_i h
    have : j ≠ i := fun e => h (by rw [e])
    simp [this]
@[simp] theorem State.thread_updThread (s : State) (i j : ThreadId) (f : Thread → Thread) :
    (s.updThread i f).thread j = if j = i then f (s.thread i) else s.thread j := State.thread_setThread s i j _
@[simp] theorem State.me_setMe (s : State) (x : Thread) : (s.setMe x).me = x := by
  simp [State.me, State.setMe]
@[simp] theorem State.me_updMe (s : State) (f : Thread → Thread) : (s.updMe f).me = f s.me := by
  simp [State.me, State.updMe]
theorem State.thread_updMe (s : State) (f : Thread → Thread) (j : ThreadId) :
    (s.updMe f).thread j = if j = s.cur then f s.me else s.thread j := State.thread_updThread s s.cur j f
@[simp] theorem State.myCore_updMyCore (s : State) (f : Core → Core) : (s.updMyCore f).myCore = f s.myCore := by
  simp [State.myCore, State.updMyCore]

/-! CSRs, rows, masks and registers of a thread. -/

theorem Thread.csr_setCsr (t : Thread) (m n : Nat) (v : Word) :
    (t.setCsr m v).csr n = if n = m then v else t.csr n := by
  unfold Thread.csr Thread.setCsr
  rw [Tbl.get_set]
@[simp] theorem Thread.csr_setCsr_self (t : Thread) (n : Nat) (v : Word) : (t.setCsr n v).csr n = v := by
  simp [Thread.csr_setCsr]
theorem Core.csr_setCsr (k : Core) (m n : Nat) (v : Word) :
    (k.setCsr m v).csr n = if n = m then v else k.csr n := Tbl.get_set _ _ _ _ _
theorem Thread.row_setRow (t : Thread) (m n : Nat) (v : Row) :
    (t.setRow m v).row n = if n % 128 = m % 128 then v else t.row n := Tbl.get_set _ _ _ _ _
theorem Thread.row_mixRow (t : Thread) (m n : Nat) (p : BitVec 16) (v : Row) :
    (t.mixRow m p v).row n = if n % 128 = m % 128 then v else t.row n := Tbl.get_set _ _ _ _ _
theorem Thread.mask_setMask (t : Thread) (m k : MaskCode) (v : BitVec 16) :
    (t.setMask m v).mask k = if k = m ∧ m ≠ 0 then v else t.mask k := by
  unfold Thread.setMask
  split
  · simp_all
  · unfold Thread.mask
    rename_i h0
    by_cases hk : k = 0
    · have : ¬ (k = m ∧ m ≠ 0) := fun e => e.2 (e.1 ▸ hk)
      rw [if_pos hk, if_neg this, if_pos hk]
    · simp only [if_neg hk, Tbl.get_set]
      by_cases h : k = m
      · subst h
        simp only [ne_eq, h0, not_false_eq_true, and_self, if_true]
      · have : k.toNat ≠ m.toNat := fun e => h (BitVec.eq_of_toNat_eq e)
        simp [h, this]

end Sys2Proof.Machine
end

