-- ==== Sys2Proof/Laws/Ops.lean ====
section
/-! SUPPORT. What the shared operations do, each said once: counting, registers, rows and masks, retiring, and what an
instruction that only computes leaves as it was. -/

namespace Sys2Proof.Machine

open Sys2Proof Sys2Proof.Safety

/-! Counting. -/

theorem foldl_keeps {α β : Type} {f : α → β → α} {P : α → Prop} {l : List β} (hf : ∀ a, ∀ b ∈ l, P a → P (f a b)) :
    ∀ a, P a → P (l.foldl f a) := by
  induction l with
  | nil => exact fun a h => h
  | cons b l ih =>
    exact fun a h => ih (fun a c hc => hf a c (List.mem_cons_of_mem _ hc)) _ (hf a b (List.mem_cons_self ..) h)

@[simp] theorem Core.hpm_rest (k : Core) (code n : Nat) : coreRest (k.hpm code n) = coreRest k := by
  unfold Core.hpm
  split
  · rfl
  · refine foldl_keeps (P := fun j => coreRest j = coreRest k) (fun a b _ h => ?_) k rfl
    split
    · exact h
    · exact h

theorem Core.hpm_csr (k : Core) (code n j : Nat) (h : ¬ (0x078 ≤ j ∧ j ≤ 0x07F)) : (k.hpm code n).csr j = k.csr j := by
  unfold Core.hpm
  split
  · rfl
  · refine foldl_keeps (P := fun c => c.csr j = k.csr j) (fun a b hb hc => ?_) k rfl
    have := List.mem_range.1 hb
    split
    · rw [Core.csr_setCsr, if_neg (by omega), hc]
    · exact hc

@[simp] theorem Core.hpm_threads (k : Core) (code n : Nat) : (k.hpm code n).threads = k.threads := by
  unfold Core.hpm
  split
  · rfl
  · refine foldl_keeps (P := fun j => j.threads = k.threads) (fun a b _ h => ?_) k rfl
    split
    · exact h
    · exact h
@[simp] theorem Core.hpm_thread (k : Core) (code n j : Nat) : (k.hpm code n).thread j = k.thread j := by
  unfold Core.thread
  rw [Core.hpm_threads]
@[simp] theorem Core.hpm_mem (k : Core) (code n : Nat) : (k.hpm code n).mem = k.mem :=
  show (coreRest (k.hpm code n)).mem = (coreRest k).mem by rw [Core.hpm_rest]
@[simp] theorem Core.hpm_stores (k : Core) (code n : Nat) : (k.hpm code n).stores = k.stores :=
  show (coreRest (k.hpm code n)).stores = (coreRest k).stores by rw [Core.hpm_rest]

@[simp] theorem State.thread_hpm (s : State) (c code n : Nat) (j : ThreadId) : (s.hpm c code n).thread j = s.thread j := by
  unfold State.hpm State.thread
  simp only [State.core_updCore]
  split
  · rename_i h
    rw [Core.hpm_thread, h]
  · rfl
@[simp] theorem State.me_hpm (s : State) (c code n : Nat) : (s.hpm c code n).me = s.me := State.thread_hpm s c code n s.cur

/-! An update of the thread that runs, with its core's counters and its cluster's flags: what it leaves. -/

/-- The device less its cores and clusters. -/
def deviceAll (s : State) : State := { s with cores := [], clusters := [] }

/-- `t` is `s` with the thread that runs changed to `x`, events counted on its core, and `w` on the way to its CFLAGS. -/
def Mine (s t : State) (x : Thread) (w : FFlags) : Prop :=
  deviceAll t = deviceAll s
    ∧ (∀ c, t.cluster c = if c = clusterOf s.cur.core then { s.cluster c with onTheWay := w } else s.cluster c)
    ∧ (∀ c, c ≠ s.cur.core → t.core c = s.core c)
    ∧ (∀ n, n ≠ s.cur.slot → (t.core s.cur.core).thread n = (s.core s.cur.core).thread n)
    ∧ coreRest (t.core s.cur.core) = coreRest (s.core s.cur.core)
    ∧ (∀ n, ¬ (0x078 ≤ n ∧ n ≤ 0x07F) → (t.core s.cur.core).csr n = (s.core s.cur.core).csr n) ∧ t.me = x

/-- The flags on the way in the cluster of the thread that runs. -/
def State.way (s : State) : FFlags := (s.cluster (clusterOf s.cur.core)).onTheWay

theorem Mine.refl (s : State) : Mine s s s.me s.way := by
  refine ⟨rfl, fun c => ?_, fun _ _ => rfl, fun _ _ => rfl, rfl, fun _ _ => rfl, rfl⟩
  split
  · rename_i h
    rw [h]
    rfl
  · rfl

theorem Mine.cur {s t : State} {x : Thread} {w : FFlags} (h : Mine s t x w) : t.cur = s.cur :=
  show (deviceAll t).cur = (deviceAll s).cur by rw [h.1]

theorem Mine.stale {s t : State} {x : Thread} {w : FFlags} (h : Mine s t x w) : t.stale = s.stale :=
  show (deviceAll t).stale = (deviceAll s).stale by rw [h.1]

theorem Mine.updMe {s t : State} {x : Thread} {w : FFlags} (h : Mine s t x w) (f : Thread → Thread) :
    Mine s (t.updMe f) (f x) w := by
  have hc := h.cur
  obtain ⟨h1, h2, h3, h4, h5, h6, h7⟩ := h
  refine ⟨h1, h2, ?_, ?_, ?_, ?_, by rw [State.me_updMe, h7]⟩
  · intro c hcn
    simp only [State.updMe, State.updThread, State.setThread, State.core_updCore, hc, if_neg hcn]
    exact h3 c hcn
  · intro n hn
    simp only [State.updMe, State.updThread, State.setThread, State.core_updCore, hc, if_true, Core.thread_setThread,
      if_neg hn]
    exact h4 n hn
  · simp only [State.updMe, State.updThread, State.setThread, State.core_updCore, hc, if_true]
    exact h5
  · intro n hn
    simp only [State.updMe, State.updThread, State.setThread, State.core_updCore, hc, if_true]
    exact h6 n hn

theorem Mine.hpm {s t : State} {x : Thread} {w : FFlags} (h : Mine s t x w) (code n : Nat) :
    Mine s (t.hpm s.cur.core code n) x w := by
  obtain ⟨h1, h2, h3, h4, h5, h6, h7⟩ := h
  refine ⟨h1, h2, ?_, ?_, ?_, ?_, by rw [State.me_hpm, h7]⟩
  · intro c hcn
    simp only [State.hpm, State.core_updCore, if_neg hcn]
    exact h3 c hcn
  · intro j hj
    simp only [State.hpm, State.core_updCore, if_true, Core.hpm_thread]
    exact h4 j hj
  · simp only [State.hpm, State.core_updCore, if_true, Core.hpm_rest]
    exact h5
  · intro j hj
    simp only [State.hpm, State.core_updCore, if_true]
    rw [Core.hpm_csr _ _ _ _ hj]
    exact h6 j hj

theorem Mine.retire {s t : State} {x : Thread} {w : FFlags} (h : Mine s t x w) : Mine s t.retire x.retire w := by
  unfold State.retire
  have := (h.updMe Thread.retire).hpm 0x02 1
  rwa [← h.cur] at this

theorem Mine.advance {s t : State} {x : Thread} {w : FFlags} (h : Mine s t x w) : Mine s t.advance x.retire.stepPc w := by
  unfold State.advance
  have := (h.retire.updMe Thread.stepPc).hpm 0x1A (if t.me.endsPass then 1 else 0)
  rwa [← h.cur] at this

/-- The thread after it has raised flags. -/
def Thread.raised (x : Thread) (f : FFlags) : Thread :=
  if f = 0 then x else x.setCsr 0x011 (x.csr 0x011 ||| f.setWidth 64)

theorem Mine.accrue {s t : State} {x : Thread} {w : FFlags} (h : Mine s t x w) (f : FFlags) :
    Mine s (t.accrue f) (x.raised f) (w ||| (f &&& ~~~(x.csr 0x011).setWidth 5)) := by
  unfold State.accrue State.accrueAt Thread.raised
  by_cases hf : f = 0
  · subst hf
    simpa using h
  · rw [if_neg hf, if_neg hf]
    have hm : t.thread t.cur = x := h.2.2.2.2.2.2
    have hc := h.cur
    obtain ⟨h1, h2, h3, h4, h5, h6, h7⟩ := h.updMe (fun y => y.setCsr 0x011 (x.csr 0x011 ||| f.setWidth 64))
    rw [hm]
    refine ⟨h1, fun c => ?_, h3, h4, h5, h6, h7⟩
    have e := h.2.1
    simp only [State.cluster_updCluster, State.cluster_updThread, hc]
    split
    · rename_i hh
      subst hh
      simp [e]
    · rename_i hh
      rw [e, if_neg hh]

theorem Mine.loadByte {s t : State} {x : Thread} {w : FFlags} (h : Mine s t x w) (c : Nat) (p : Place) :
    t.loadByte c p = s.loadByte c p := by
  obtain ⟨h1, -, h3, -, h5, -, -⟩ := h
  have hk : ∀ c, (t.core c).stores = (s.core c).stores ∧ (t.core c).mem = (s.core c).mem := by
    intro c
    by_cases hc : c = s.cur.core
    · subst hc
      exact ⟨(congrArg (fun k : Core => k.stores) h5 :), (congrArg (fun k : Core => k.mem) h5 :)⟩
    · rw [h3 c hc]
      exact ⟨rfl, rfl⟩
  have e1 : t.hbm = s.hbm := (congrArg (fun k : State => k.hbm) h1 :)
  have e2 : t.weight = s.weight := (congrArg (fun k : State => k.weight) h1 :)
  have e3 : t.freeCount = s.freeCount := (congrArg (fun k : State => k.freeCount) h1 :)
  have e4 : t.stale = s.stale := (congrArg (fun k : State => k.stale) h1 :)
  have hb : t.dieByte c p = s.dieByte c p := by
    have hm : t.memByte c p = s.memByte c p := by
      cases p <;> simp [State.memByte, (hk c).2, e1, e2, e3]
    have ho : ∀ a, t.hbmByte (dieOf c) a = s.hbmByte (dieOf c) a := fun a => by simp [State.hbmByte, e1, e4]
    unfold State.dieByte
    split
    · exact ho _
    · exact hm
    · exact hm
    · exact hm
  unfold State.loadByte
  rw [(hk c).1, hb]

theorem Mine.aside {s t : State} {x : Thread} {w : FFlags} (h : Mine s t x w) : Aside s t :=
  ⟨congrArg (fun u : State => { u with stale := [] }) h.1, fun e he => h.stale ▸ he,
    fun c hc => by rw [h.2.1, if_neg hc], by rw [h.2.1, if_pos rfl]; rfl, h.2.2.1, h.2.2.2.1, h.2.2.2.2.1,
    h.2.2.2.2.2.1, h.loadByte⟩

/-! Registers by their own numbers. -/

theorem Thread.reg_eq (t : Thread) (r : Reg) : t.reg r = (regNo t (t.regId r)).getD 0 := by
  unfold Thread.reg regNo Thread.regId physIdx
  have := r.isLt
  by_cases h0 : r.toNat = 0
  · simp [h0]
  · by_cases h8 : r.toNat < 8
    · simp [h0, h8]
    · simp only [h0, h8, if_false]
      generalize (t.wptr + (r.toNat - 8)) % 88 = m
      have e1 : ¬ 8 + m = 0 := by omega
      have e2 : ¬ 8 + m < 8 := by omega
      have e3 : 8 + m - 8 = m := by omega
      simp only [e1, e2, e3, if_false]
      cases t.dead.getLsbD m <;> rfl

theorem Thread.regNo_setReg (t : Thread) (d : Reg) (v : Word) (n : Nat) :
    regNo (t.setReg d v) n = if n = t.regId d ∧ n ≠ 0 then some v else regNo t n := by
  have hlt := d.isLt
  by_cases h0 : d.toNat = 0
  · have : t.setReg d v = t := by simp [Thread.setReg, h0]
    rw [this, if_neg]
    rintro ⟨h, hn⟩
    exact hn (by simpa [Thread.regId, h0] using h)
  · by_cases h8 : d.toNat < 8
    · have hs : t.setReg d v = { t with gregs := t.gregs.set d.toNat v, points := t.dropPoint (.reg d.toNat) } := by simp [Thread.setReg, h0, h8]
      have hi : t.regId d = d.toNat := by simp [Thread.regId, h8]
      rw [hs, hi]
      unfold regNo
      dsimp only
      rw [Tbl.get_set]
      by_cases hn : n = d.toNat
      · subst hn
        simp [h0, h8]
      · simp [hn]
    · have hm : physIdx t.wptr (d.toNat - 8) < 88 := Nat.mod_lt _ (by decide)
      have hs : t.setReg d v = { t with
          phys := t.phys.set (physIdx t.wptr (d.toNat - 8)) v
          dead := t.dead &&& ~~~(1#88 <<< (physIdx t.wptr (d.toNat - 8)))
          points := t.dropPoint (.reg (8 + physIdx t.wptr (d.toNat - 8))) } := by simp [Thread.setReg, h0, h8]
      have hi : t.regId d = 8 + physIdx t.wptr (d.toNat - 8) := by simp [Thread.regId, h8]
      rw [hs, hi]
      generalize physIdx t.wptr (d.toNat - 8) = m at hm
      unfold regNo
      dsimp only
      rw [Tbl.get_set]
      by_cases hn : n = 8 + m
      · subst hn
        simp [hm]
      · by_cases hn8 : n < 8
        · have : ¬ (n = 8 + m ∧ n ≠ 0) := fun h => hn h.1
          simp [hn8, this]
        · have hne : n - 8 ≠ m := by omega
          simp only [hn, hn8, hne, false_and, if_false]
          by_cases hb : n - 8 < 88
          · have : (t.dead &&& ~~~(1#88 <<< m)).getLsbD (n - 8) = t.dead.getLsbD (n - 8) := by
              simp only [BitVec.getLsbD_and, BitVec.getLsbD_not, BitVec.getLsbD_shiftLeft, BitVec.getLsbD_one, hb]
              have : ¬ n - 8 - m = 0 ∨ n - 8 < m := by omega
              rcases this with h | h <;> simp [h]
            rw [this]
          · have : (t.dead &&& ~~~(1#88 <<< m)).getLsbD (n - 8) = t.dead.getLsbD (n - 8) := by
              rw [BitVec.getLsbD_of_ge _ _ (by omega), BitVec.getLsbD_of_ge _ _ (by omega)]
            rw [this]

theorem Thread.regNo_congr {t u : Thread} (h1 : t.gregs = u.gregs) (h2 : t.phys = u.phys) (h3 : t.dead = u.dead) (n : Nat) :
    regNo t n = regNo u n := by
  unfold regNo
  rw [h1, h2, h3]

@[simp] theorem Thread.regNo_setCsr (t : Thread) (m : Nat) (v : Word) (n : Nat) : regNo (t.setCsr m v) n = regNo t n := rfl
@[simp] theorem Thread.regNo_setRow (t : Thread) (m : Nat) (v : Row) (n : Nat) : regNo (t.setRow m v) n = regNo t n := rfl
@[simp] theorem Thread.regNo_mixRow (t : Thread) (m : Nat) (p : BitVec 16) (v : Row) (n : Nat) :
    regNo (t.mixRow m p v) n = regNo t n := rfl
@[simp] theorem Thread.regNo_setMask (t : Thread) (m : MaskCode) (v : BitVec 16) (n : Nat) :
    regNo (t.setMask m v) n = regNo t n := Thread.regNo_congr (by simp) (by simp) (by simp) n
@[simp] theorem Thread.regNo_retire (t : Thread) (n : Nat) : regNo t.retire n = regNo t n := rfl
@[simp] theorem Thread.regNo_stepPc (t : Thread) (n : Nat) : regNo t.stepPc n = regNo t n :=
  Thread.regNo_congr (by simp) (by simp) (by simp) n
@[simp] theorem Thread.regNo_raised (t : Thread) (f : FFlags) (n : Nat) : regNo (t.raised f) n = regNo t n := by
  unfold Thread.raised
  split <;> rfl

/-! Retirement. -/

@[simp] theorem Thread.threadRest_retire (t : Thread) : threadRest t.retire = threadRest t := rfl
@[simp] theorem Thread.threadRest_setCsr (t : Thread) (n : Nat) (v : Word) : threadRest (t.setCsr n v) = threadRest t := rfl
@[simp] theorem Thread.threadRest_setRow (t : Thread) (n : Nat) (v : Row) : threadRest (t.setRow n v) = threadRest t := rfl
@[simp] theorem Thread.threadRest_mixRow (t : Thread) (n : Nat) (p : BitVec 16) (v : Row) :
    threadRest (t.mixRow n p v) = threadRest t := rfl
@[simp] theorem Thread.threadRest_setMask (t : Thread) (m : MaskCode) (v : BitVec 16) :
    threadRest (t.setMask m v) = threadRest t := by
  unfold Thread.setMask
  split <;> rfl
@[simp] theorem Thread.threadRest_setReg (t : Thread) (r : Reg) (v : Word) : threadRest (t.setReg r v) = threadRest t := by
  unfold Thread.setReg
  split
  · rfl
  · split <;> rfl
@[simp] theorem Thread.threadRest_stepPc (t : Thread) : threadRest t.stepPc = threadRest t := by
  unfold Thread.stepPc
  split
  · rfl
  · split
    · rfl
    · split <;> rfl
@[simp] theorem Thread.threadRest_raised (t : Thread) (f : FFlags) : threadRest (t.raised f) = threadRest t := by
  unfold Thread.raised
  split <;> rfl

theorem Thread.csr_congr {t u : Thread} (h : t.csrs = u.csrs) (n : Nat) : t.csr n = u.csr n := by
  unfold Thread.csr
  rw [h]
@[simp] theorem Thread.csr_setReg (t : Thread) (r : Reg) (v : Word) (n : Nat) : (t.setReg r v).csr n = t.csr n :=
  Thread.csr_congr (by simp) n
@[simp] theorem Thread.csr_setRow (t : Thread) (m : Nat) (v : Row) (n : Nat) : (t.setRow m v).csr n = t.csr n := rfl
@[simp] theorem Thread.csr_mixRow (t : Thread) (m : Nat) (p : BitVec 16) (v : Row) (n : Nat) : (t.mixRow m p v).csr n = t.csr n := rfl
@[simp] theorem Thread.csr_setMask (t : Thread) (m : MaskCode) (v : BitVec 16) (n : Nat) :
    (t.setMask m v).csr n = t.csr n := Thread.csr_congr (by simp) n
@[simp] theorem Thread.csr_stepPc (t : Thread) (n : Nat) : t.stepPc.csr n = t.csr n := Thread.csr_congr (by simp) n
theorem Thread.csr_retire (t : Thread) (n : Nat) : t.retire.csr n = if n = 0x081 then t.csr 0x081 + 1 else t.csr n :=
  Thread.csr_setCsr t 0x081 n _
theorem Thread.csr_raised (t : Thread) (f : FFlags) (n : Nat) :
    (t.raised f).csr n = if n = 0x011 then t.csr 0x011 ||| f.setWidth 64 else t.csr n := by
  unfold Thread.raised
  split
  · rename_i h
    subst h
    split <;> simp_all
  · exact Thread.csr_setCsr t 0x011 n _
/-- What retires with flags `f` from a thread that has the CSRs and the rest of the one before. -/
theorem Mine.retired {s t : State} {x : Thread} {f : FFlags} (h : Mine s t ((x.raised f).retire.stepPc)
    (s.way ||| (f &&& ~~~(s.me.csr 0x011).setWidth 5))) (hc : ∀ n, x.csr n = s.me.csr n) (hr : threadRest x = threadRest s.me) :
    Retired s t f := by
  have hm := h.2.2.2.2.2.2
  refine ⟨?_, ?_, ?_, ?_, ?_, ?_, ?_⟩
  · rw [hm, Thread.stepPc_state]
    rfl
  · rw [hm, Thread.csr_stepPc, Thread.csr_retire, if_pos rfl, Thread.csr_raised, if_neg (by decide), hc]
  · rw [hm, Thread.csr_stepPc, Thread.csr_retire, if_neg (by decide), Thread.csr_raised, if_pos rfl, hc]
  · rw [h.2.1, if_pos rfl]
    rfl
  · intro n h1 h2
    rw [hm, Thread.csr_stepPc, Thread.csr_retire, if_neg h2, Thread.csr_raised, if_neg h1, hc]
  · rw [hm]
    simpa using hr
  · rw [hm, Thread.stepPc_woke]
    rfl

theorem Thread.stepPc_behind (t : Thread) (h : t.replay = none) : t.stepPc.pc = t.pc + 4 ∧ t.stepPc.replay = none := by
  unfold Thread.stepPc
  rw [h]
  exact ⟨rfl, rfl⟩

theorem Mine.behind {s t : State} {x : Thread} {w : FFlags} (h : Mine s t x.retire.stepPc w) (hp : x.pc = s.me.pc)
    (hr : x.replay = s.me.replay) : Behind s t := by
  intro h0
  have := Thread.stepPc_behind x.retire (by simpa [h0] using hr)
  rw [h.2.2.2.2.2.2]
  simpa [hp] using this

@[simp] theorem Thread.raised_zero (t : Thread) : t.raised 0 = t := by simp [Thread.raised]
@[simp] theorem Thread.raised_pc (t : Thread) (f : FFlags) : (t.raised f).pc = t.pc := by
  unfold Thread.raised
  split <;> rfl
@[simp] theorem Thread.raised_replay (t : Thread) (f : FFlags) : (t.raised f).replay = t.replay := by
  unfold Thread.raised
  split <;> rfl
@[simp] theorem Thread.raised_rows (t : Thread) (f : FFlags) : (t.raised f).rows = t.rows := by
  unfold Thread.raised
  split <;> rfl
@[simp] theorem Thread.raised_masks (t : Thread) (f : FFlags) : (t.raised f).masks = t.masks := by
  unfold Thread.raised
  split <;> rfl

theorem Thread.row_congr {t u : Thread} (h : t.rows = u.rows) (n : Nat) : t.row n = u.row n := by
  unfold Thread.row
  rw [h]
theorem Thread.mask_congr {t u : Thread} (h : t.masks = u.masks) (m : MaskCode) : t.mask m = u.mask m := by
  unfold Thread.mask
  rw [h]

/-! The instructions' three shapes: a register, a row or a mask is written. -/

/-- Write a register, raise flags, go on. -/
theorem State.putFp_wrote (s : State) (d : Reg) (v : W32) (f : FFlags) :
    WroteReg s (s.putFp d (v, f)) d (v.setWidth 64) f := by
  have h := (((Mine.refl s).updMe (·.setReg d (v.setWidth 64))).accrue f).advance
  rw [Thread.csr_setReg] at h
  refine ⟨h.aside, h.retired (by simp) (by simp), h.behind (by simp) (by simp), ?_, ?_, ?_⟩
  · intro n
    rw [show (s.putFp d (v, f)).me = _ from h.2.2.2.2.2.2]
    simp [Thread.regNo_setReg]
  · intro r
    exact (congrArg (fun x : Thread => x.row r.toNat) h.2.2.2.2.2.2).trans (Thread.row_congr (by simp) _)
  · intro m
    exact (congrArg (fun x : Thread => x.mask m) h.2.2.2.2.2.2).trans (Thread.mask_congr (by simp) _)

theorem State.put_wrote (s : State) (d : Reg) (v : Word) : WroteReg s (s.put d v) d v 0 := by
  have h := (((Mine.refl s).updMe (·.setReg d v)).accrue 0).advance
  rw [Thread.csr_setReg] at h
  refine ⟨h.aside, h.retired (by simp) (by simp), h.behind (by simp) (by simp), ?_, ?_, ?_⟩
  · intro n
    rw [show (s.put d v).me = _ from h.2.2.2.2.2.2]
    simp [Thread.regNo_setReg]
  · intro r
    exact (congrArg (fun x : Thread => x.row r.toNat) h.2.2.2.2.2.2).trans (Thread.row_congr (by simp) _)
  · intro m
    exact (congrArg (fun x : Thread => x.mask m) h.2.2.2.2.2.2).trans (Thread.mask_congr (by simp) _)

theorem Row.lane_zero (x : Row) (v : W32) : Row.lane ((x <<< 32) ||| v.setWidth 512) 0 = v := by
  unfold Row.lane
  apply BitVec.eq_of_getLsbD_eq
  intro i hi
  have : i < 512 := by omega
  simp [hi, this]

theorem Row.lane_succ (x : Row) (v : W32) (k : Nat) (hk : k + 1 < 16) :
    Row.lane ((x <<< 32) ||| v.setWidth 512) (k + 1) = Row.lane x k := by
  unfold Row.lane
  apply BitVec.eq_of_getLsbD_eq
  intro i hi
  have h1 : 32 * (k + 1) + i < 512 := by omega
  have h2 : ¬ 32 * (k + 1) + i < 32 := by omega
  have h3 : 32 * (k + 1) + i - 32 = 32 * k + i := by omega
  have h4 : v.getLsbD (32 * (k + 1) + i) = false := BitVec.getLsbD_of_ge _ _ (by omega)
  have h5 : 32 * k + i < 512 := by omega
  simp [hi, h1, h2, h3, h4, BitVec.getLsbD_eq_getElem h5]

theorem Row.lane_foldr (f : Nat → W32) (n a k : Nat) (hk : k < n) (h16 : k < 16) :
    Row.lane ((List.range' a n).foldr (fun i acc => (acc <<< 32) ||| (f i).setWidth 512) (0 : Row)) k = f (a + k) := by
  induction n generalizing a k with
  | zero => omega
  | succ n ih =>
    rw [List.range'_succ, List.foldr_cons]
    cases k with
    | zero => exact Row.lane_zero _ _
    | succ k =>
      rw [Row.lane_succ _ _ _ h16, ih (a + 1) k (by omega) (by omega)]
      congr 1
      omega

@[simp] theorem Row.lane_ofLanes (f : Nat → W32) (i : Nat) (hi : i < 16) : (Row.ofLanes f).lane i = f i := by
  unfold Row.ofLanes
  rw [List.range_eq_range', Row.lane_foldr f 16 0 i hi hi, Nat.zero_add]

theorem State.rowFp_wrote (s : State) (m : MaskCode) (d : RowCode) (g : Nat → W32 × FFlags) :
    WroteRow s (s.rowFp m d g) d (s.mask m) (fun i => (g i).1) (laneFlags (s.mask m) (fun i => (g i).2)) := by
  have h := (((Mine.refl s).updMe (·.mixRow d.toNat (s.mask m) (Row.ofLanes (fun i =>
    if (s.mask m).getLsbD i then (g i).1 else (s.row d).lane i)))).accrue (laneFlags (s.mask m) (fun i => (g i).2))).advance
  rw [Thread.csr_mixRow] at h
  refine ⟨h.aside, h.retired (by simp) (by simp), h.behind (by simp) (by simp), ?_, ?_, ?_⟩
  · intro n
    rw [show (s.rowFp m d g).me = _ from h.2.2.2.2.2.2]
    simp
  · intro k
    exact (congrArg (fun x : Thread => x.mask k) h.2.2.2.2.2.2).trans (Thread.mask_congr (by simp) _)
  · intro r i hi
    have e : (s.rowFp m d g).row r = (s.me.mixRow d.toNat (s.mask m) (Row.ofLanes (fun i =>
        if (s.mask m).getLsbD i then (g i).1 else (s.row d).lane i))).row r.toNat :=
      (congrArg (fun x : Thread => x.row r.toNat) h.2.2.2.2.2.2).trans (Thread.row_congr (by simp) _)
    rw [e, Thread.row_mixRow]
    have hr := r.isLt
    have hd := d.isLt
    by_cases hrd : r = d
    · subst hrd
      rw [if_pos rfl, Row.lane_ofLanes _ _ hi]
      simp
    · have : ¬ r.toNat % 128 = d.toNat % 128 := by
        rw [Nat.mod_eq_of_lt hr, Nat.mod_eq_of_lt hd]
        exact fun h => hrd (BitVec.eq_of_toNat_eq h)
      rw [if_neg this, if_neg (fun h => hrd h.1)]
      rfl

theorem laneFlags_zero (p : BitVec 16) : laneFlags p (fun _ => 0) = 0 := by
  unfold laneFlags
  refine foldl_keeps (P := fun a => a = 0) (fun a b _ h => ?_) 0 rfl
  split <;> simp [h]

theorem State.rowInt_wrote (s : State) (m : MaskCode) (d : RowCode) (g : Nat → W32) :
    WroteRow s (s.rowInt m d g) d (s.mask m) g 0 := by
  have h := s.rowFp_wrote m d (fun i => (g i, 0))
  rw [laneFlags_zero] at h
  have e : s.rowFp m d (fun i => (g i, 0)) = s.rowInt m d g := by
    unfold State.rowFp State.rowInt
    simp only [laneFlags_zero]
    rfl
  rw [e] at h
  exact h

theorem State.maskCmp_wrote (s : State) (m k : MaskCode) (g : Nat → Bool × FFlags) :
    WroteMask s (s.maskCmp m k g) k (maskOf (s.mask m) (fun i => (g i).1)) (laneFlags (s.mask m) (fun i => (g i).2)) := by
  have h := (((Mine.refl s).updMe (·.setMask k (maskOf (s.mask m) (fun i => (g i).1)))).accrue
    (laneFlags (s.mask m) (fun i => (g i).2))).advance
  rw [Thread.csr_setMask] at h
  refine ⟨h.aside, h.retired (by simp) (by simp), h.behind (by simp) (by simp), ?_, ?_, ?_⟩
  · intro n
    rw [show (s.maskCmp m k g).me = _ from h.2.2.2.2.2.2]
    simp
  · intro r
    exact (congrArg (fun x : Thread => x.row r.toNat) h.2.2.2.2.2.2).trans (Thread.row_congr (by simp) _)
  · intro j
    have e : (s.maskCmp m k g).mask j = (s.me.setMask k (maskOf (s.mask m) (fun i => (g i).1))).mask j :=
      (congrArg (fun x : Thread => x.mask j) h.2.2.2.2.2.2).trans (Thread.mask_congr (by simp) _)
    rw [e, Thread.mask_setMask]
    rfl

theorem State.maskPut_wrote (s : State) (d : MaskCode) (v : BitVec 16) : WroteMask s (s.setMask d v).advance d v 0 := by
  have h := (((Mine.refl s).updMe (·.setMask d v)).accrue 0).advance
  rw [Thread.csr_setMask] at h
  refine ⟨h.aside, h.retired (by simp) (by simp), h.behind (by simp) (by simp), ?_, ?_, ?_⟩
  · intro n
    rw [show (s.setMask d v).advance.me = _ from h.2.2.2.2.2.2]
    simp
  · intro r
    exact (congrArg (fun x : Thread => x.row r.toNat) h.2.2.2.2.2.2).trans (Thread.row_congr (by simp) _)
  · intro j
    have e : (s.setMask d v).advance.mask j = (s.me.setMask d v).mask j :=
      (congrArg (fun x : Thread => x.mask j) h.2.2.2.2.2.2).trans (Thread.mask_congr (by simp) _)
    rw [e, Thread.mask_setMask]
    rfl

/-- Retire and go on elsewhere: nothing but the place changed. -/
theorem State.advance_wrote (s : State) :
    WentOn s s.advance := by
  have h := ((Mine.refl s).accrue 0).advance
  refine ⟨h.aside, h.retired (by simp) (by simp), h.behind (by simp) (by simp), ?_, ?_, ?_⟩
  · intro n
    rw [show s.advance.me = _ from h.2.2.2.2.2.2]
    simp
  · intro r
    exact (congrArg (fun x : Thread => x.row r.toNat) h.2.2.2.2.2.2).trans (Thread.row_congr (by simp) _)
  · intro m
    exact (congrArg (fun x : Thread => x.mask m) h.2.2.2.2.2.2).trans (Thread.mask_congr (by simp) _)

/-! Going on elsewhere, and taking a trap. -/

theorem State.jumpTo_went (s : State) (pc : Word) : WentTo s (s.jumpTo pc) pc := by
  have h := ((Mine.refl s).retire).updMe (fun t => { t with pc := pc })
  have hm := h.2.2.2.2.2.2
  refine ⟨h.aside, ⟨?_, ?_, ?_, ?_, ?_, ?_, ?_⟩, ?_, ?_, ?_, ?_, ?_⟩
  · exact (congrArg (fun x : Thread => x.state) hm :)
  · exact (congrArg (fun x : Thread => x.csr 0x081) hm :).trans (by show s.me.retire.csr 0x081 = _; rw [Thread.csr_retire, if_pos rfl])
  · refine (congrArg (fun x : Thread => x.csr 0x011) hm :).trans (by show s.me.retire.csr 0x011 = _; rw [Thread.csr_retire, if_neg (by decide)]; simp)
  · have := h.2.1 (clusterOf s.cur.core)
    rw [if_pos rfl] at this
    exact (congrArg (fun x : Cluster => x.onTheWay) this :).trans (by simp [State.way])
  · intro n h1 h2
    exact (congrArg (fun x : Thread => x.csr n) hm :).trans (by show s.me.retire.csr n = _; rw [Thread.csr_retire, if_neg h2])
  · exact (congrArg threadRest hm :)
  · exact (congrArg (fun x : Thread => x.woke) hm :)
  · exact (congrArg (fun x : Thread => x.pc) hm :)
  · exact (congrArg (fun x : Thread => x.replay) hm :)
  · exact fun n => (congrArg (fun x : Thread => regNo x n) hm :)
  · exact fun r => (congrArg (fun x : Thread => x.row r.toNat) hm :)
  · exact fun m => (congrArg (fun x : Thread => x.mask m) hm :)

theorem Thread.setStatusBit_getLsbD (t : Thread) (b : Nat) (hb : b < 64) (v : Bool) (k : Nat) :
    ((t.setStatusBit b v).csr 0).getLsbD k = if k = b then v else (t.csr 0).getLsbD k := by
  unfold Thread.setStatusBit
  rw [Thread.csr_setCsr, if_pos rfl]
  cases v <;> simp [BitVec.getLsbD_shiftLeft, BitVec.getLsbD_one]
  all_goals (by_cases hk : k = b <;> simp_all)
  all_goals (try omega)
  all_goals (intro h1; have := BitVec.lt_of_getLsbD h1; omega)

theorem Thread.setStatusBit_csr (t : Thread) (b n : Nat) (v : Bool) (h : n ≠ 0) : (t.setStatusBit b v).csr n = t.csr n := by
  unfold Thread.setStatusBit
  rw [Thread.csr_setCsr, if_neg h]

theorem State.setThread_me (s : State) (x : Thread) : s.setThread s.cur x = s.updMe (fun _ => x) := rfl

theorem Thread.csr_trapRegs (t : Thread) (cause : Nat) (tval : Word) (n : Nat) :
    (t.trapRegs cause tval).csr n
      = if n = 1 then BitVec.ofNat 64 cause else if n = 2 then t.pc else if n = 3 then tval else t.csr n := by
  unfold Thread.trapRegs
  simp only [Thread.csr_setCsr]
  by_cases h1 : n = 1 <;> by_cases h2 : n = 2 <;> by_cases h3 : n = 3 <;> simp [h1, h2, h3]

/-- What keeping the lunge record leaves. -/
theorem Thread.lungeTrap_rest (x : Thread) :
    x.lungeTrap.csrs = x.csrs ∧ x.lungeTrap.replay = none ∧ x.lungeTrap.gregs = x.gregs ∧ x.lungeTrap.phys = x.phys
      ∧ x.lungeTrap.dead = x.dead ∧ x.lungeTrap.rows = x.rows ∧ x.lungeTrap.masks = x.masks
      ∧ threadRest x.lungeTrap = threadRest { x with lunge := if x.replay.isSome then x.replay else x.lunge } := by
  unfold Thread.lungeTrap
  split <;> rename_i h <;> simp [h] <;> rfl

theorem Thread.toHandler_csr (t : Thread) (cause : Nat) (tval : Word) (n : Nat) (h : n ≠ 0) :
    (t.toHandler cause tval).csr n
      = if n = 1 then BitVec.ofNat 64 cause else if n = 2 then t.pc else if n = 3 then tval else t.csr n := by
  show (Thread.setStatusBit (Thread.setStatusBit (t.trapRegs cause tval).lungeTrap _ _) _ _).csr n = _
  rw [Thread.setStatusBit_csr _ _ _ _ h, Thread.setStatusBit_csr _ _ _ _ h,
    Thread.csr_congr (t.trapRegs cause tval).lungeTrap_rest.1, Thread.csr_trapRegs]

theorem Thread.toHandler_status (t : Thread) (cause : Nat) (tval : Word) (b : Nat) :
    ((t.toHandler cause tval).csr 0).getLsbD b
      = if b = 1 then t.sup else if b = 2 then true else (t.csr 0).getLsbD b := by
  show ((Thread.setStatusBit (Thread.setStatusBit (t.trapRegs cause tval).lungeTrap _ _) _ _).csr 0).getLsbD b = _
  have e0 : (t.trapRegs cause tval).lungeTrap.csr 0 = t.csr 0 := by
    rw [Thread.csr_congr (t.trapRegs cause tval).lungeTrap_rest.1, Thread.csr_trapRegs]
    rfl
  have e1 : (t.trapRegs cause tval).lungeTrap.sup = t.sup := by
    unfold Thread.sup
    rw [e0]
  rw [Thread.setStatusBit_getLsbD _ _ (by decide), Thread.setStatusBit_getLsbD _ _ (by decide), e0, e1]
  by_cases hb1 : b = 1
  · subst hb1
    rfl
  · by_cases hb2 : b = 2 <;> simp [hb1, hb2]

theorem Thread.toHandler_rest (t : Thread) (cause : Nat) (tval : Word) :
    threadRest (t.toHandler cause tval) = threadRest { t with lunge := if t.replay.isSome then t.replay else t.lunge } := by
  have h := (t.trapRegs cause tval).lungeTrap_rest.2.2.2.2.2.2.2
  have a : ∀ (x : Thread) (pc : Word), threadRest { x with pc := pc, state := .ready, woke := none } = threadRest x := fun _ _ => rfl
  unfold Thread.toHandler
  simp only []
  rw [a]
  unfold Thread.setStatusBit
  rw [Thread.threadRest_setCsr, Thread.threadRest_setCsr, h]
  rfl

/-- Delivery to the thread's own handler. -/
theorem Mine.delivered {s t : State} (h0 : Mine s t s.me s.way) (cause : Nat) (tval : Word) :
    Delivered s (t.updMe (fun _ => s.me.toHandler cause tval)) cause tval := by
  have h := h0.updMe (fun _ => s.me.toHandler cause tval)
  have hm := h.2.2.2.2.2.2
  obtain ⟨l1, l3, l5, l6, l7, l8, l9, l10⟩ := (s.me.trapRegs cause tval).lungeTrap_rest
  refine ⟨h.aside, ?_, ?_, ?_, ?_, ?_, ?_, ?_, ?_, ?_, ?_, ?_, ?_, ?_⟩
  · intro n
    rw [hm]
    exact Thread.regNo_congr l5 l6 l7 n
  · intro r
    exact (congrArg (fun x : Thread => x.row r.toNat) hm :).trans (Thread.row_congr l8 _)
  · intro m
    exact (congrArg (fun x : Thread => x.mask m) hm :).trans (Thread.mask_congr l9 _)
  · rw [hm]
    rfl
  · rw [hm]
    exact (s.me.toHandler_csr cause tval 4 (by decide) :)
  · rw [hm]
    exact l3
  · rw [hm]
    exact (s.me.toHandler_csr cause tval 1 (by decide) :)
  · rw [hm]
    exact (s.me.toHandler_csr cause tval 2 (by decide) :)
  · rw [hm]
    exact (s.me.toHandler_csr cause tval 3 (by decide) :)
  · intro b
    rw [hm]
    exact s.me.toHandler_status cause tval b
  · intro n hn
    rw [hm, s.me.toHandler_csr cause tval n (by omega), if_neg (by omega), if_neg (by omega), if_neg (by omega)]
  · rw [hm]
    exact s.me.toHandler_rest cause tval
  · exact (congrArg (fun x : Cluster => x.onTheWay) (h.2.1 (clusterOf s.cur.core)) :).trans (by simp [State.way])

theorem State.cur_leaveHitch (s : State) (t : ThreadId) : (s.leaveHitch t).cur = s.cur := by
  have hf : ∀ (l : List ThreadId) (f : Thread → Thread) (u : State), u.cur = s.cur →
      (l.foldl (fun s m => s.updThread m f) u).cur = s.cur := by
    intro l f
    induction l with
    | nil => exact fun u h => h
    | cons a l ih => exact fun u h => ih _ h
  unfold State.leaveHitch
  split
  · rfl
  · unfold State.leaveWith
    split
    · exact hf _ _ _ rfl
    · simp only []
      split <;> exact hf _ _ _ rfl

/-- A trap that goes to the thread's own handler, after the thread has left its hitch. -/
theorem State.trap_delivered (s : State) (cause : Nat) (tval : Word)
    (h : (s.leaveHitch s.cur).me.ownHandler cause = true) :
    Delivered (s.leaveHitch s.cur) (s.trap cause tval) cause tval := by
  have hc : s.cur = (s.leaveHitch s.cur).cur := (State.cur_leaveHitch s s.cur).symm
  unfold State.trap State.trapAt
  dsimp only
  generalize s.leaveHitch s.cur = u at *
  rw [hc]
  have hm : Mine u (if cause = 5 then u.hpm u.cur.core 0x0D 1 else u) u.me u.way := by
    split
    · exact (Mine.refl u).hpm _ _
    · exact Mine.refl u
  generalize (if cause = 5 then u.hpm u.cur.core 0x0D 1 else u) = v at *
  have e : v.thread u.cur = u.me := by
    rw [← hm.cur]
    exact hm.2.2.2.2.2.2
  simp only [e, h, if_true]
  have := hm.delivered cause tval
  rw [State.updMe, State.updThread, hm.cur] at this
  exact this

/-- A register and a CSR of the thread are written. -/
theorem State.put_setCsr_wrote (s : State) (d : Reg) (v : Word) (n : Nat) (w : Word) (hn : n ≠ 0x081) :
    WroteCsr s ((s.put d v).updMe (·.setCsr n w)) d v n w := by
  have h := ((((Mine.refl s).updMe (·.setReg d v)).accrue 0).advance).updMe (·.setCsr n w)
  rw [Thread.csr_setReg] at h
  have hm := h.2.2.2.2.2.2
  have hb : ((s.put d v).updMe (·.setCsr n w)).me
      = ((((s.me.setReg d v).raised 0).retire.stepPc).setCsr n w) := hm
  have hs := (s.put_wrote d v).2.1.1
  have hp := (s.put_wrote d v)
  have hme : ((s.put d v).updMe (·.setCsr n w)).me = (s.put d v).me.setCsr n w := by simp
  refine ⟨h.aside, ?_, ?_, ?_, ?_, ?_, ?_, ?_, ?_, ?_⟩
  · intro h0
    rw [hme]
    exact hp.2.2.1 h0
  · intro k
    rw [hme, Thread.regNo_setCsr]
    exact hp.2.2.2.1 k
  · intro r
    rw [State.row, hme]
    exact hp.2.2.2.2.1 r
  · intro m
    rw [State.mask, hme]
    exact hp.2.2.2.2.2 m
  · rw [hme]
    exact hs
  · rw [hme, Thread.csr_setCsr, if_pos rfl]
  · rw [hme, Thread.csr_setCsr, if_neg (fun e => hn e.symm)]
    exact hp.2.1.2.1
  · intro k h1 h2
    rw [hme, Thread.csr_setCsr, if_neg h1]
    by_cases h3 : k = 0x011
    · subst h3
      simpa using hp.2.1.2.2.1
    · exact hp.2.1.2.2.2.2.1 k h3 h2
  · rw [hme, Thread.threadRest_setCsr]
    exact hp.2.1.2.2.2.2.2.1

/-! What dies see (R158, R160). -/

@[simp] theorem State.memByte_spreadFrom (s : State) (die c : Nat) (p : Place) : (s.spreadFrom die).memByte c p = s.memByte c p := by
  cases p <;> rfl

/-- What a die sees becomes what every die sees: to the die itself nothing changes. -/
theorem State.hbmByte_spreadFrom (s : State) (die a : Nat) : (s.spreadFrom die).hbmByte die a = s.hbmByte die a := by
  have hf : ∀ l : List StaleByte, (∀ e ∈ l, e ∈ s.stale) →
      (l.filter (fun e => s.stale.any (fun f => f.die == die && f.addr / 8 == e.addr / 8 && f.num ≤ e.num))).find?
        (fun e => e.die == die && e.addr == a) = l.find? (fun e => e.die == die && e.addr == a) := by
    intro l
    induction l with
    | nil => exact fun _ => rfl
    | cons e l ih =>
      intro h
      have ih := ih (fun x hx => h x (List.mem_cons_of_mem _ hx))
      rw [List.filter_cons]
      split
      · rw [List.find?_cons, List.find?_cons, ih]
      · rename_i hp
        have hq : (e.die == die && e.addr == a) = false := by
          by_contra hq
          exact hp (List.any_eq_true.2 ⟨e, h e (List.mem_cons_self ..), by simp_all⟩)
        rw [ih, List.find?_cons, hq]
  have e1 : (s.spreadFrom die).stale.find? (fun e => e.die == die && e.addr == a)
      = s.stale.find? (fun e => e.die == die && e.addr == a) := hf s.stale (fun _ h => h)
  unfold State.hbmByte
  rw [e1]
  rfl

/-- An engine's completion for a thread that is not PARKED is that thread's own going on. -/
theorem State.byEngine_of_not_parked (s : State) (t : ThreadId) (f : State → State)
    (h : (s.thread t).state.parkedS = false) : s.byEngine t f = s.asThread t f := by
  unfold State.byEngine
  cases hs : (s.thread t).state with
  | parked b x => rw [hs] at h; cases h
  | _ => rfl

end Sys2Proof.Machine
end

