-- ==== Sys2Proof/Laws/Memory.lean ====
section
/-! SUPPORT. Laws of byte memory: the canonical form, read after write of a byte, and that every operation over memory keeps
MemOk. -/

namespace Sys2Proof.Machine

open Sys2Proof Sys2Proof.Safety

/-! One memory. -/

theorem Mem.wf_cons (j : Nat) (v : Byte) (m : Mem) :
    Mem.wf ((j, v) :: m) = true ↔ v ≠ unlisted ∧ (∀ e ∈ m, j < e.1) ∧ Mem.wf m = true := by
  induction m generalizing j v with
  | nil => simp [Mem.wf]
  | cons e rest ih =>
    obtain ⟨k, u⟩ := e
    have hk := ih k u
    constructor
    · intro h
      simp only [Mem.wf, Bool.and_eq_true, bne_iff_ne, decide_eq_true_eq] at h
      refine ⟨h.1.1, ?_, h.2⟩
      intro e he
      rcases List.mem_cons.mp he with rfl | he
      · exact h.1.2
      · exact Nat.lt_trans h.1.2 ((hk.mp h.2).2.1 e he)
    · rintro ⟨hv, ha, hw⟩
      simp only [Mem.wf, Bool.and_eq_true, bne_iff_ne, decide_eq_true_eq]
      exact ⟨⟨hv, ha _ (List.mem_cons_self ..)⟩, hw⟩

/-- A byte that no entry names reads as an unlisted one. -/
theorem Mem.byte_below (m : Mem) (a : Nat) (h : ∀ e ∈ m, a < e.1) : m.byte a = unlisted := by
  cases m with
  | nil => rfl
  | cons e rest =>
    obtain ⟨j, v⟩ := e
    have hj : a < j := h (j, v) (List.mem_cons_self ..)
    simp [Mem.byte, hj, Nat.ne_of_gt hj]

/-- The entries of a memory after a write of a byte: that one, and others that were there. -/
theorem Mem.mem_setByte (m : Mem) (a : Nat) (b : Byte) : ∀ e ∈ m.setByte a b, e.1 = a ∨ e ∈ m := by
  induction m with
  | nil => intro e he; simp only [Mem.setByte] at he; split at he <;> simp_all
  | cons x rest ih =>
    obtain ⟨j, v⟩ := x
    intro e he
    simp only [Mem.setByte] at he
    split at he
    · split at he
      · exact Or.inr he
      · exact (List.mem_cons.mp he).imp (fun h => by rw [h]) id
    · split at he
      · split at he
        · exact Or.inr (List.mem_cons_of_mem _ he)
        · exact (List.mem_cons.mp he).imp (fun h => by rw [h]) (List.mem_cons_of_mem _)
      · rcases List.mem_cons.mp he with rfl | he
        · exact Or.inr (List.mem_cons_self ..)
        · exact (ih e he).imp id (fun h => List.mem_cons_of_mem _ h)

theorem Mem.wf_setByte (m : Mem) (a : Nat) (b : Byte) (h : m.wf = true) : (m.setByte a b).wf = true := by
  induction m with
  | nil => simp only [Mem.setByte]; split <;> simp_all [Mem.wf]
  | cons x rest ih =>
    obtain ⟨j, v⟩ := x
    obtain ⟨hv, ha, hw⟩ := (Mem.wf_cons j v rest).mp h
    simp only [Mem.setByte]
    split
    · next hlt =>
      split
      · exact h
      · next hb =>
        refine (Mem.wf_cons a b _).mpr ⟨hb, ?_, h⟩
        intro e he
        rcases List.mem_cons.mp he with rfl | he
        · exact hlt
        · exact Nat.lt_trans hlt (ha e he)
    · next hge =>
      split
      · next heq =>
        subst heq
        split
        · exact hw
        · next hb => exact (Mem.wf_cons j b rest).mpr ⟨hb, ha, hw⟩
      · next hne =>
        refine (Mem.wf_cons j v _).mpr ⟨hv, ?_, ih hw⟩
        intro e he
        rcases Mem.mem_setByte rest a b e he with h1 | h1
        · omega
        · exact ha e h1

/-- Read after write of one byte. -/
theorem Mem.byte_setByte (m : Mem) (a x : Nat) (b : Byte) (h : m.wf = true) :
    (m.setByte a b).byte x = if x = a then b else m.byte x := by
  induction m with
  | nil =>
    simp only [Mem.setByte]
    split
    · next hb => subst hb; simp [Mem.byte]
    · by_cases hx : x = a
      · simp [Mem.byte, hx]
      · simp [Mem.byte, hx, Ne.symm hx]
  | cons y rest ih =>
    obtain ⟨j, v⟩ := y
    obtain ⟨hv, ha, hw⟩ := (Mem.wf_cons j v rest).mp h
    simp only [Mem.setByte]
    split
    · next hlt =>
      have hbelow : Mem.byte ((j, v) :: rest) a = unlisted := by simp [Mem.byte, hlt, Nat.ne_of_gt hlt]
      split
      · next hb =>
        subst hb
        by_cases hx : x = a
        · simp [hx, hbelow]
        · simp [hx]
      · by_cases hx : x = a
        · simp [Mem.byte, hx]
        · by_cases h2 : x < a
          · have h3 : x < j := Nat.lt_trans h2 hlt
            simp [Mem.byte, hx, Ne.symm hx, h2, h3, Nat.ne_of_gt h3]
          · rw [show Mem.byte ((a, b) :: (j, v) :: rest) x = Mem.byte ((j, v) :: rest) x from by
              conv => lhs; unfold Mem.byte
              simp [Ne.symm hx, h2]]
            simp [hx]
    · next hge =>
      split
      · next heq =>
        subst heq
        split
        · next hb =>
          subst hb
          by_cases hx : x = j
          · simp [hx, Mem.byte_below rest j ha]
          · by_cases h2 : x < j
            · simp [Mem.byte, hx, Ne.symm hx, h2]
              exact Mem.byte_below rest x (fun e he => Nat.lt_trans h2 (ha e he))
            · simp [Mem.byte, hx, Ne.symm hx, h2]
        · by_cases hx : x = j
          · simp [Mem.byte, hx]
          · simp [Mem.byte, hx, Ne.symm hx]
      · next hne =>
        have hja : j < a := by omega
        by_cases hx : j = x
        · have : x ≠ a := by omega
          simp [Mem.byte, hx, this]
        · by_cases h2 : x < j
          · have : x ≠ a := by omega
            simp [Mem.byte, hx, h2, this]
          · simp only [Mem.byte, hx, h2, if_false]
            exact ih hw

theorem Mem.wf_write (m : Mem) (a : Nat) (bs : List Byte) (h : m.wf = true) : (m.write a bs).wf = true := by
  induction bs generalizing m a with
  | nil => exact h
  | cons b rest ih => exact ih _ _ (Mem.wf_setByte m a b h)

/-! Every memory of the device. -/

theorem memOk_of_eq {s t : State} (h : MemOk s) (h1 : t.hbm = s.hbm) (h2 : t.weight = s.weight)
    (h3 : ∀ c, (t.core c).mem = (s.core c).mem) (h4 : ∀ x, (t.ctx x).saved = (s.ctx x).saved) : MemOk t :=
  ⟨h1 ▸ h.1, h2 ▸ h.2.1, fun c => h3 c ▸ h.2.2.1 c, fun x v hv => h.2.2.2 x v (h4 x ▸ hv)⟩

/-- A change of one core keeps MemOk when the core's memory stays in canonical form. -/
theorem memOk_updCore {s : State} (h : MemOk s) (c : Nat) (f : Core → Core) (hf : (f (s.core c)).mem.wf = true) :
    MemOk (s.updCore c f) := by
  refine ⟨h.1, h.2.1, fun d => ?_, h.2.2.2⟩
  by_cases hd : d = c
  · subst hd; simpa using hf
  · have := h.2.2.1 d
    simp_all
theorem memOk_updThread {s : State} (h : MemOk s) (t : ThreadId) (f : Thread → Thread) : MemOk (s.updThread t f) :=
  memOk_updCore h _ _ (h.2.2.1 _)
theorem memOk_hpm {s : State} (h : MemOk s) (c code n : Nat) : MemOk (s.hpm c code n) :=
  memOk_updCore h _ _ (by rw [Core.hpm_mem]; exact h.2.2.1 _)

/-- A write of bytes at a place keeps MemOk. -/
theorem memOk_writeAt {s : State} (h : MemOk s) (c : Nat) (p : Place) (bs : List Byte) : MemOk (s.writeAt c p bs) := by
  cases p with
  | loc o => exact memOk_updCore h _ _ (Mem.wf_write _ _ _ (h.2.2.1 c))
  | hbm a => exact ⟨Mem.wf_write _ _ _ h.1, h.2⟩
  | weight a => exact ⟨h.1, Mem.wf_write _ _ _ h.2.1, h.2.2⟩
  | remote d a => exact h
theorem memOk_performPlain {s : State} (h : MemOk s) (t : ThreadId) (n : Nat) (p : Place) (bs : List Byte) :
    MemOk (s.performPlain t n p bs) := by
  cases p with
  | hbm a => exact (memOk_writeAt h t.core (.hbm a) bs :)
  | loc o => exact memOk_writeAt h t.core (.loc o) bs
  | weight a => exact memOk_writeAt h t.core (.weight a) bs
  | remote d a => exact memOk_writeAt h t.core (.remote d a) bs
theorem memOk_spreadFrom {s : State} (h : MemOk s) (die : Nat) : MemOk (s.spreadFrom die) := h
theorem memOk_spreadOne {s : State} (h : MemOk s) (die dword : Nat) : MemOk (s.spreadOne die dword) := by
  unfold State.spreadOne
  split
  · exact h
  · exact h
theorem memOk_perform {s : State} (h : MemOk s) (c : Nat) (e : StoreEnt) : MemOk (s.perform c e) := by
  unfold State.perform
  split
  · exact foldl_keeps (P := MemOk) (fun _ _ _ hs => memOk_writeAt hs c _ _) _ (memOk_spreadFrom h _)
  · exact foldl_keeps (P := MemOk) (fun _ _ _ hs => memOk_performPlain hs _ _ _ _) s h
theorem memOk_drainCore {s : State} (h : MemOk s) (c : Nat) : MemOk (s.drainCore c) :=
  foldl_keeps (P := MemOk) (fun _ _ _ hs => memOk_perform hs c _) _
    (memOk_updCore h c (fun k => { k with stores := [] }) (h.2.2.1 c))
theorem memOk_drainAll {s : State} (h : MemOk s) (c : Nat) : MemOk (s.drainAll c) := memOk_spreadFrom (memOk_drainCore h c) _
theorem memOk_drainUpTo {s : State} (h : MemOk s) (c : Nat) (f : StoreEnt → Bool) : MemOk (s.drainUpTo c f) :=
  foldl_keeps (P := MemOk) (fun _ _ _ hs => memOk_perform hs c _) _
    (memOk_updCore h c (fun k => { k with stores := k.stores.drop (k.stores.findIdx f + 1) }) (h.2.2.1 c))
theorem memOk_orByte {s : State} (h : MemOk s) (a : Nat) (b : Byte) : MemOk (s.orByte a b) := memOk_writeAt h _ _ _
theorem memOk_pushStore {s : State} (h : MemOk s) (t : ThreadId) (ws : List (Place × List Byte)) (rel : Option Scope) :
    MemOk (s.pushStore t ws rel) := memOk_updCore h _ _ (h.2.2.1 _)
theorem memOk_release {s : State} (h : MemOk s) : MemOk s.release := memOk_drainAll h _

end Sys2Proof.Machine
end

