-- ==== Sys2Proof/Laws/PerInstr.lean ====
section
/-! SUPPORT. The statements made per instruction: the word that the encoder gives a well-formed instruction decodes to it. -/

namespace Sys2Proof.Laws

set_option linter.unusedSimpArgs false
set_option Elab.async false

/-- Decode after encode: every operand at every value that the encoding admits comes back. An instruction without a word of
its own (a device event, a CSR row) has nothing to decode. -/
def RoundTrip.Statement (i : Instr) : Prop := i.wellFormed = true → ∀ w, encode i = some w → decode w = .ok i


theorem RoundTrip.matOpRetire (x0 : Nat) : RoundTrip.Statement (.matOpRetire x0) := fun _ _ h => nomatch h
theorem RoundTrip.loaderSlotLand (x0 : Nat) (x1 : Nat) : RoundTrip.Statement (.loaderSlotLand x0 x1) := fun _ _ h => nomatch h
theorem RoundTrip.storerSlotWritten (x0 : Nat) (x1 : Nat) : RoundTrip.Statement (.storerSlotWritten x0 x1) := fun _ _ h => nomatch h
theorem RoundTrip.copyUnitDone (x0 : Nat) : RoundTrip.Statement (.copyUnitDone x0) := fun _ _ h => nomatch h
theorem RoundTrip.streamReadDone (x0 : Nat) (x1 : Nat) : RoundTrip.Statement (.streamReadDone x0 x1) := fun _ _ h => nomatch h
theorem RoundTrip.mergeAccept (x0 : Nat) : RoundTrip.Statement (.mergeAccept x0) := fun _ _ h => nomatch h
theorem RoundTrip.mergeEmit (x0 : Nat) (x1 : Nat) : RoundTrip.Statement (.mergeEmit x0 x1) := fun _ _ h => nomatch h
theorem RoundTrip.listEngineOperation (x0 : Nat) : RoundTrip.Statement (.listEngineOperation x0) := fun _ _ h => nomatch h
theorem RoundTrip.listArrival (x0 : Nat) : RoundTrip.Statement (.listArrival x0) := fun _ _ h => nomatch h
theorem RoundTrip.tensorWeightArrival (x0 : Nat) : RoundTrip.Statement (.tensorWeightArrival x0) := fun _ _ h => nomatch h
theorem RoundTrip.cellWeightArrival (x0 : Nat) : RoundTrip.Statement (.cellWeightArrival x0) := fun _ _ h => nomatch h
theorem RoundTrip.storeBufferDrain (x0 : Nat) (x1 : Nat) : RoundTrip.Statement (.storeBufferDrain x0 x1) := fun _ _ h => nomatch h
theorem RoundTrip.cflagsAccrual (x0 : Nat) (x1 : BitVec 5) : RoundTrip.Statement (.cflagsAccrual x0 x1) := fun _ _ h => nomatch h
theorem RoundTrip.messageLanding (x0 : Nat) : RoundTrip.Statement (.messageLanding x0) := fun _ _ h => nomatch h
theorem RoundTrip.domainBarrierCompletion (x0 : Nat) (x1 : Nat) : RoundTrip.Statement (.domainBarrierCompletion x0 x1) := fun _ _ h => nomatch h
theorem RoundTrip.pageWalkComplete (x0 : Nat) (x1 : Nat) : RoundTrip.Statement (.pageWalkComplete x0 x1) := fun _ _ h => nomatch h
theorem RoundTrip.faultMessageArrival (x0 : Nat) : RoundTrip.Statement (.faultMessageArrival x0) := fun _ _ h => nomatch h
theorem RoundTrip.mailboxCommand (x0 : Nat) : RoundTrip.Statement (.mailboxCommand x0) := fun _ _ h => nomatch h
theorem RoundTrip.dealDecision (x0 : Nat) : RoundTrip.Statement (.dealDecision x0) := fun _ _ h => nomatch h
theorem RoundTrip.kernelRetirement (x0 : Nat) (x1 : W32) : RoundTrip.Statement (.kernelRetirement x0 x1) := fun _ _ h => nomatch h
theorem RoundTrip.queueSwapComplete (x0 : Nat) (x1 : Nat) (x2 : Nat) : RoundTrip.Statement (.queueSwapComplete x0 x1 x2) := fun _ _ h => nomatch h
theorem RoundTrip.encodeFrame (x0 : Nat) : RoundTrip.Statement (.encodeFrame x0) := fun _ _ h => nomatch h
theorem RoundTrip.illegal (x0 : W32) : RoundTrip.Statement (.illegal x0) := fun _ _ h => nomatch h
theorem RoundTrip.add (d : Reg) (a : Reg) (b : Reg) : RoundTrip.Statement (.add d a b) := by
  intro hw w h
  cases h
  simp [decode, need, decodeAlu]
theorem RoundTrip.sub (d : Reg) (a : Reg) (b : Reg) : RoundTrip.Statement (.sub d a b) := by
  intro hw w h
  cases h
  simp [decode, need, decodeAlu]
theorem RoundTrip.and (d : Reg) (a : Reg) (b : Reg) : RoundTrip.Statement (.and d a b) := by
  intro hw w h
  cases h
  simp [decode, need, decodeAlu]
theorem RoundTrip.or (d : Reg) (a : Reg) (b : Reg) : RoundTrip.Statement (.or d a b) := by
  intro hw w h
  cases h
  simp [decode, need, decodeAlu]
theorem RoundTrip.xor (d : Reg) (a : Reg) (b : Reg) : RoundTrip.Statement (.xor d a b) := by
  intro hw w h
  cases h
  simp [decode, need, decodeAlu]
theorem RoundTrip.sll (d : Reg) (a : Reg) (b : Reg) : RoundTrip.Statement (.sll d a b) := by
  intro hw w h
  cases h
  simp [decode, need, decodeAlu]
theorem RoundTrip.srl (d : Reg) (a : Reg) (b : Reg) : RoundTrip.Statement (.srl d a b) := by
  intro hw w h
  cases h
  simp [decode, need, decodeAlu]
theorem RoundTrip.sra (d : Reg) (a : Reg) (b : Reg) : RoundTrip.Statement (.sra d a b) := by
  intro hw w h
  cases h
  simp [decode, need, decodeAlu]
theorem RoundTrip.slt (d : Reg) (a : Reg) (b : Reg) : RoundTrip.Statement (.slt d a b) := by
  intro hw w h
  cases h
  simp [decode, need, decodeAlu]
theorem RoundTrip.sltu (d : Reg) (a : Reg) (b : Reg) : RoundTrip.Statement (.sltu d a b) := by
  intro hw w h
  cases h
  simp [decode, need, decodeAlu]
theorem RoundTrip.seq (d : Reg) (a : Reg) (b : Reg) : RoundTrip.Statement (.seq d a b) := by
  intro hw w h
  cases h
  simp [decode, need, decodeAlu]
theorem RoundTrip.min (d : Reg) (a : Reg) (b : Reg) : RoundTrip.Statement (.min d a b) := by
  intro hw w h
  cases h
  simp [decode, need, decodeAlu]
theorem RoundTrip.max (d : Reg) (a : Reg) (b : Reg) : RoundTrip.Statement (.max d a b) := by
  intro hw w h
  cases h
  simp [decode, need, decodeAlu]
theorem RoundTrip.minu (d : Reg) (a : Reg) (b : Reg) : RoundTrip.Statement (.minu d a b) := by
  intro hw w h
  cases h
  simp [decode, need, decodeAlu]
theorem RoundTrip.maxu (d : Reg) (a : Reg) (b : Reg) : RoundTrip.Statement (.maxu d a b) := by
  intro hw w h
  cases h
  simp [decode, need, decodeAlu]
theorem RoundTrip.andn (d : Reg) (a : Reg) (b : Reg) : RoundTrip.Statement (.andn d a b) := by
  intro hw w h
  cases h
  simp [decode, need, decodeAlu]
theorem RoundTrip.addi (d : Reg) (a : Reg) (imm : BitVec 15) : RoundTrip.Statement (.addi d a imm) := by
  intro hw w h
  cases h
  simp [decode, need]
theorem RoundTrip.andi (d : Reg) (a : Reg) (imm : BitVec 15) : RoundTrip.Statement (.andi d a imm) := by
  intro hw w h
  cases h
  simp [decode, need]
theorem RoundTrip.ori (d : Reg) (a : Reg) (imm : BitVec 15) : RoundTrip.Statement (.ori d a imm) := by
  intro hw w h
  cases h
  simp [decode, need]
theorem RoundTrip.xori (d : Reg) (a : Reg) (imm : BitVec 15) : RoundTrip.Statement (.xori d a imm) := by
  intro hw w h
  cases h
  simp [decode, need]
theorem RoundTrip.slli (d : Reg) (a : Reg) (sh : BitVec 6) : RoundTrip.Statement (.slli d a sh) := by
  intro hw w h
  cases h
  have e : ∀ x, decode (packI 0x06 d a x) = decodeShi d a x := by
    intro x
    simp [decode]
  rw [e]
  rw [decodeShi_packed]
  rfl
theorem RoundTrip.srli (d : Reg) (a : Reg) (sh : BitVec 6) : RoundTrip.Statement (.srli d a sh) := by
  intro hw w h
  cases h
  have e : ∀ x, decode (packI 0x06 d a x) = decodeShi d a x := by
    intro x
    simp [decode]
  rw [e]
  rw [decodeShi_packed]
  rfl
theorem RoundTrip.srai (d : Reg) (a : Reg) (sh : BitVec 6) : RoundTrip.Statement (.srai d a sh) := by
  intro hw w h
  cases h
  have e : ∀ x, decode (packI 0x06 d a x) = decodeShi d a x := by
    intro x
    simp [decode]
  rw [e]
  rw [decodeShi_packed]
  rfl
theorem RoundTrip.slti (d : Reg) (a : Reg) (imm : BitVec 15) : RoundTrip.Statement (.slti d a imm) := by
  intro hw w h
  cases h
  simp [decode, need]
theorem RoundTrip.sltiu (d : Reg) (a : Reg) (imm : BitVec 15) : RoundTrip.Statement (.sltiu d a imm) := by
  intro hw w h
  cases h
  simp [decode, need]
theorem RoundTrip.mul (d : Reg) (a : Reg) (b : Reg) : RoundTrip.Statement (.mul d a b) := by
  intro hw w h
  cases h
  simp [decode, need, decodeMulDiv]
theorem RoundTrip.mulh (d : Reg) (a : Reg) (b : Reg) : RoundTrip.Statement (.mulh d a b) := by
  intro hw w h
  cases h
  simp [decode, need, decodeMulDiv]
theorem RoundTrip.mulhu (d : Reg) (a : Reg) (b : Reg) : RoundTrip.Statement (.mulhu d a b) := by
  intro hw w h
  cases h
  simp [decode, need, decodeMulDiv]
theorem RoundTrip.div (d : Reg) (a : Reg) (b : Reg) : RoundTrip.Statement (.div d a b) := by
  intro hw w h
  cases h
  simp [decode, need, decodeMulDiv]
theorem RoundTrip.divu (d : Reg) (a : Reg) (b : Reg) : RoundTrip.Statement (.divu d a b) := by
  intro hw w h
  cases h
  simp [decode, need, decodeMulDiv]
theorem RoundTrip.rem (d : Reg) (a : Reg) (b : Reg) : RoundTrip.Statement (.rem d a b) := by
  intro hw w h
  cases h
  simp [decode, need, decodeMulDiv]
theorem RoundTrip.remu (d : Reg) (a : Reg) (b : Reg) : RoundTrip.Statement (.remu d a b) := by
  intro hw w h
  cases h
  simp [decode, need, decodeMulDiv]
theorem RoundTrip.lup (d : Reg) (imm : BitVec 20) : RoundTrip.Statement (.lup d imm) := by
  intro hw w h
  cases h
  simp [decode, need]
theorem RoundTrip.aupc (d : Reg) (imm : BitVec 20) : RoundTrip.Statement (.aupc d imm) := by
  intro hw w h
  cases h
  simp [decode, need]
theorem RoundTrip.clz (d : Reg) (a : Reg) : RoundTrip.Statement (.clz d a) := by
  intro hw w h
  cases h
  simp [decode, need, decodeBits]
theorem RoundTrip.ctz (d : Reg) (a : Reg) : RoundTrip.Statement (.ctz d a) := by
  intro hw w h
  cases h
  simp [decode, need, decodeBits]
theorem RoundTrip.popc (d : Reg) (a : Reg) : RoundTrip.Statement (.popc d a) := by
  intro hw w h
  cases h
  simp [decode, need, decodeBits]
theorem RoundTrip.brev (d : Reg) (a : Reg) : RoundTrip.Statement (.brev d a) := by
  intro hw w h
  cases h
  simp [decode, need, decodeBits]
theorem RoundTrip.sextb (d : Reg) (a : Reg) : RoundTrip.Statement (.sextb d a) := by
  intro hw w h
  cases h
  simp [decode, need, decodeBits]
theorem RoundTrip.sexth (d : Reg) (a : Reg) : RoundTrip.Statement (.sexth d a) := by
  intro hw w h
  cases h
  simp [decode, need, decodeBits]
theorem RoundTrip.sextw (d : Reg) (a : Reg) : RoundTrip.Statement (.sextw d a) := by
  intro hw w h
  cases h
  simp [decode, need, decodeBits]
theorem RoundTrip.zextw (d : Reg) (a : Reg) : RoundTrip.Statement (.zextw d a) := by
  intro hw w h
  cases h
  simp [decode, need, decodeBits]
theorem RoundTrip.fadd (d : Reg) (a : Reg) (b : Reg) : RoundTrip.Statement (.fadd d a b) := by
  intro hw w h
  cases h
  simp [decode, need, decodeSfp]
theorem RoundTrip.fsub (d : Reg) (a : Reg) (b : Reg) : RoundTrip.Statement (.fsub d a b) := by
  intro hw w h
  cases h
  simp [decode, need, decodeSfp]
theorem RoundTrip.fmul (d : Reg) (a : Reg) (b : Reg) : RoundTrip.Statement (.fmul d a b) := by
  intro hw w h
  cases h
  simp [decode, need, decodeSfp]
theorem RoundTrip.fdiv (d : Reg) (a : Reg) (b : Reg) : RoundTrip.Statement (.fdiv d a b) := by
  intro hw w h
  cases h
  simp [decode, need, decodeSfp]
theorem RoundTrip.fmin (d : Reg) (a : Reg) (b : Reg) : RoundTrip.Statement (.fmin d a b) := by
  intro hw w h
  cases h
  simp [decode, need, decodeSfp]
theorem RoundTrip.fmax (d : Reg) (a : Reg) (b : Reg) : RoundTrip.Statement (.fmax d a b) := by
  intro hw w h
  cases h
  simp [decode, need, decodeSfp]
theorem RoundTrip.feq (d : Reg) (a : Reg) (b : Reg) : RoundTrip.Statement (.feq d a b) := by
  intro hw w h
  cases h
  simp [decode, need, decodeSfp]
theorem RoundTrip.flt (d : Reg) (a : Reg) (b : Reg) : RoundTrip.Statement (.flt d a b) := by
  intro hw w h
  cases h
  simp [decode, need, decodeSfp]
theorem RoundTrip.fle (d : Reg) (a : Reg) (b : Reg) : RoundTrip.Statement (.fle d a b) := by
  intro hw w h
  cases h
  simp [decode, need, decodeSfp]
theorem RoundTrip.fcvtif (d : Reg) (a : Reg) : RoundTrip.Statement (.fcvtif d a) := by
  intro hw w h
  cases h
  simp [decode, need, decodeSfp]
theorem RoundTrip.fcvtfi (d : Reg) (a : Reg) : RoundTrip.Statement (.fcvtfi d a) := by
  intro hw w h
  cases h
  simp [decode, need, decodeSfp]
theorem RoundTrip.fsqrt (d : Reg) (a : Reg) : RoundTrip.Statement (.fsqrt d a) := by
  intro hw w h
  cases h
  simp [decode, need, decodeSfp]
theorem RoundTrip.fma (d : Reg) (a : Reg) (b : Reg) : RoundTrip.Statement (.fma d a b) := by
  intro hw w h
  cases h
  simp [decode, need, decodeSfp]
theorem RoundTrip.fclass (d : Reg) (a : Reg) : RoundTrip.Statement (.fclass d a) := by
  intro hw w h
  cases h
  simp [decode, need, decodeSfp]
theorem RoundTrip.beq (a : Reg) (b : Reg) (off : BitVec 15) : RoundTrip.Statement (.beq a b off) := by
  intro hw w h
  cases h
  simp [decode, need]
theorem RoundTrip.bne (a : Reg) (b : Reg) (off : BitVec 15) : RoundTrip.Statement (.bne a b off) := by
  intro hw w h
  cases h
  simp [decode, need]
theorem RoundTrip.blt (a : Reg) (b : Reg) (off : BitVec 15) : RoundTrip.Statement (.blt a b off) := by
  intro hw w h
  cases h
  simp [decode, need]
theorem RoundTrip.bge (a : Reg) (b : Reg) (off : BitVec 15) : RoundTrip.Statement (.bge a b off) := by
  intro hw w h
  cases h
  simp [decode, need]
theorem RoundTrip.bltu (a : Reg) (b : Reg) (off : BitVec 15) : RoundTrip.Statement (.bltu a b off) := by
  intro hw w h
  cases h
  simp [decode, need]
theorem RoundTrip.bgeu (a : Reg) (b : Reg) (off : BitVec 15) : RoundTrip.Statement (.bgeu a b off) := by
  intro hw w h
  cases h
  simp [decode, need]
theorem RoundTrip.bmany (m : MaskCode) (off : BitVec 15) : RoundTrip.Statement (.bmany m off) := by
  intro hw w h
  cases h
  have e : ∀ x, decode (packI 0x16 x 0 off) = decodeBm x 0 off := by
    intro x
    simp [decode]
  rw [e]
  rw [decodeBm_packed]
  rfl
theorem RoundTrip.bmnone (m : MaskCode) (off : BitVec 15) : RoundTrip.Statement (.bmnone m off) := by
  intro hw w h
  cases h
  have e : ∀ x, decode (packI 0x16 x 0 off) = decodeBm x 0 off := by
    intro x
    simp [decode]
  rw [e]
  rw [decodeBm_packed]
  rfl
theorem RoundTrip.bmall (m : MaskCode) (off : BitVec 15) : RoundTrip.Statement (.bmall m off) := by
  intro hw w h
  cases h
  have e : ∀ x, decode (packI 0x16 x 0 off) = decodeBm x 0 off := by
    intro x
    simp [decode]
  rw [e]
  rw [decodeBm_packed]
  rfl
theorem RoundTrip.jmp (off : BitVec 25) : RoundTrip.Statement (.jmp off) := by
  intro hw w h
  cases h
  simp [decode, need]
theorem RoundTrip.call (off : BitVec 25) : RoundTrip.Statement (.call off) := by
  intro hw w h
  cases h
  simp [decode, need]
theorem RoundTrip.jr (a : Reg) : RoundTrip.Statement (.jr a) := by
  intro hw w h
  cases h
  simp [decode, need, decodeJx]
theorem RoundTrip.callr (a : Reg) : RoundTrip.Statement (.callr a) := by
  intro hw w h
  cases h
  simp [decode, need, decodeJx]
theorem RoundTrip.ld (d : Reg) (a : Reg) (off : BitVec 12) (sz : Size) (sx : Bool) : RoundTrip.Statement (.ld d a off sz sx) := by
  intro hw w h
  cases h
  simp [Instr.wellFormed] at hw
  have e : ∀ x y, decode (packM 0x20 d a off x y) = decodeLd d a off x y := by
    intro x y
    simp [decode]
  rw [e]
  cases sz <;> cases sx <;> first | rfl | simp at hw
theorem RoundTrip.st (d : Reg) (a : Reg) (off : BitVec 12) (sz : Size) : RoundTrip.Statement (.st d a off sz) := by
  intro hw w h
  cases h
  simp [decode, need, decodeSt]
theorem RoundTrip.lda (d : Reg) (a : Reg) (sc : Scope) (sz : WSize) : RoundTrip.Statement (.lda d a sc sz) := by
  intro hw w h
  cases h
  have e : ∀ x, decode (packS 0x22 d a 0 x) = decodeOrd d a 0 x := by
    intro x
    simp [decode]
  rw [e]
  cases sc <;> cases sz <;> rfl
theorem RoundTrip.str (a : Reg) (b : Reg) (sc : Scope) (sz : WSize) : RoundTrip.Statement (.str a b sc sz) := by
  intro hw w h
  cases h
  have e : ∀ x, decode (packS 0x22 0 a b x) = decodeOrd 0 a b x := by
    intro x
    simp [decode]
  rw [e]
  cases sc <;> cases sz <;> rfl
theorem RoundTrip.aadd (d : Reg) (a : Reg) (b : Reg) (sc : Scope) (sz : WSize) (o : AOrd) : RoundTrip.Statement (.aadd d a b sc sz o) := by
  intro hw w h
  cases h
  have e : ∀ x, decode (packS 0x23 d a b x) = decodeAtom d a b x := by
    intro x
    simp [decode]
  rw [encodeAtom, e]
  cases sc <;> cases sz <;> cases o <;> rfl
theorem RoundTrip.aand (d : Reg) (a : Reg) (b : Reg) (sc : Scope) (sz : WSize) (o : AOrd) : RoundTrip.Statement (.aand d a b sc sz o) := by
  intro hw w h
  cases h
  have e : ∀ x, decode (packS 0x23 d a b x) = decodeAtom d a b x := by
    intro x
    simp [decode]
  rw [encodeAtom, e]
  cases sc <;> cases sz <;> cases o <;> rfl
theorem RoundTrip.aor (d : Reg) (a : Reg) (b : Reg) (sc : Scope) (sz : WSize) (o : AOrd) : RoundTrip.Statement (.aor d a b sc sz o) := by
  intro hw w h
  cases h
  have e : ∀ x, decode (packS 0x23 d a b x) = decodeAtom d a b x := by
    intro x
    simp [decode]
  rw [encodeAtom, e]
  cases sc <;> cases sz <;> cases o <;> rfl
theorem RoundTrip.axor (d : Reg) (a : Reg) (b : Reg) (sc : Scope) (sz : WSize) (o : AOrd) : RoundTrip.Statement (.axor d a b sc sz o) := by
  intro hw w h
  cases h
  have e : ∀ x, decode (packS 0x23 d a b x) = decodeAtom d a b x := by
    intro x
    simp [decode]
  rw [encodeAtom, e]
  cases sc <;> cases sz <;> cases o <;> rfl
theorem RoundTrip.amin (d : Reg) (a : Reg) (b : Reg) (sc : Scope) (sz : WSize) (o : AOrd) : RoundTrip.Statement (.amin d a b sc sz o) := by
  intro hw w h
  cases h
  have e : ∀ x, decode (packS 0x23 d a b x) = decodeAtom d a b x := by
    intro x
    simp [decode]
  rw [encodeAtom, e]
  cases sc <;> cases sz <;> cases o <;> rfl
theorem RoundTrip.amax (d : Reg) (a : Reg) (b : Reg) (sc : Scope) (sz : WSize) (o : AOrd) : RoundTrip.Statement (.amax d a b sc sz o) := by
  intro hw w h
  cases h
  have e : ∀ x, decode (packS 0x23 d a b x) = decodeAtom d a b x := by
    intro x
    simp [decode]
  rw [encodeAtom, e]
  cases sc <;> cases sz <;> cases o <;> rfl
theorem RoundTrip.aminu (d : Reg) (a : Reg) (b : Reg) (sc : Scope) (sz : WSize) (o : AOrd) : RoundTrip.Statement (.aminu d a b sc sz o) := by
  intro hw w h
  cases h
  have e : ∀ x, decode (packS 0x23 d a b x) = decodeAtom d a b x := by
    intro x
    simp [decode]
  rw [encodeAtom, e]
  cases sc <;> cases sz <;> cases o <;> rfl
theorem RoundTrip.amaxu (d : Reg) (a : Reg) (b : Reg) (sc : Scope) (sz : WSize) (o : AOrd) : RoundTrip.Statement (.amaxu d a b sc sz o) := by
  intro hw w h
  cases h
  have e : ∀ x, decode (packS 0x23 d a b x) = decodeAtom d a b x := by
    intro x
    simp [decode]
  rw [encodeAtom, e]
  cases sc <;> cases sz <;> cases o <;> rfl
theorem RoundTrip.aswp (d : Reg) (a : Reg) (b : Reg) (sc : Scope) (sz : WSize) (o : AOrd) : RoundTrip.Statement (.aswp d a b sc sz o) := by
  intro hw w h
  cases h
  have e : ∀ x, decode (packS 0x23 d a b x) = decodeAtom d a b x := by
    intro x
    simp [decode]
  rw [encodeAtom, e]
  cases sc <;> cases sz <;> cases o <;> rfl
theorem RoundTrip.acas (d : Reg) (a : Reg) (b : Reg) (sc : Scope) (sz : WSize) (o : AOrd) : RoundTrip.Statement (.acas d a b sc sz o) := by
  intro hw w h
  cases h
  have e : ∀ x, decode (packS 0x23 d a b x) = decodeAtom d a b x := by
    intro x
    simp [decode]
  rw [encodeAtom, e]
  cases sc <;> cases sz <;> cases o <;> rfl
theorem RoundTrip.afadd (d : Reg) (a : Reg) (b : Reg) (sc : Scope) (o : AOrd) : RoundTrip.Statement (.afadd d a b sc o) := by
  intro hw w h
  cases h
  have e : ∀ x, decode (packS 0x23 d a b x) = decodeAtom d a b x := by
    intro x
    simp [decode]
  rw [encodeAtom, e]
  cases sc <;> cases o <;> rfl
theorem RoundTrip.fence (pred : BitVec 8) (succ : BitVec 8) (sc : Scope) : RoundTrip.Statement (.fence pred succ sc) := by
  intro hw w h
  cases h
  simp [decode, need, decodeFence]
theorem RoundTrip.vld (r : RowCode) (a : Reg) (off : BitVec 12) : RoundTrip.Statement (.vld r a off) := by
  intro hw w h
  cases h
  simp [decode, need]
theorem RoundTrip.vst (r : RowCode) (a : Reg) (off : BitVec 12) : RoundTrip.Statement (.vst r a off) := by
  intro hw w h
  cases h
  simp [decode, need]
theorem RoundTrip.vldx (m : MaskCode) (d : RowCode) (sz : Elem) (a : Reg) (b : RowCode) : RoundTrip.Statement (.vldx m d sz a b) := by
  intro hw w h
  cases h
  have e : ∀ x y, decode (packV 0x26 m d x b y) = decodeVgs m d x b y := by
    intro x y
    simp [decode, decodeRow]
  rw [e]
  rw [decodeVgs_packed]
  rfl
theorem RoundTrip.vstx (m : MaskCode) (d : RowCode) (sz : Elem) (a : Reg) (b : RowCode) : RoundTrip.Statement (.vstx m d sz a b) := by
  intro hw w h
  cases h
  have e : ∀ x y, decode (packV 0x26 m d x b y) = decodeVgs m d x b y := by
    intro x y
    simp [decode, decodeRow]
  rw [e]
  rw [decodeVgs_packed]
  rfl
theorem RoundTrip.csrr (d : Reg) (csr : CsrNum) : RoundTrip.Statement (.csrr d csr) := by
  intro hw w h
  cases h
  simp [Instr.wellFormed] at hw
  simp [decode, need, decodeCsr, hw]
theorem RoundTrip.csrw (d : Reg) (a : Reg) (csr : CsrNum) : RoundTrip.Statement (.csrw d a csr) := by
  intro hw w h
  cases h
  simp [Instr.wellFormed] at hw
  simp [decode, need, decodeCsr, hw]
theorem RoundTrip.csrs (d : Reg) (a : Reg) (csr : CsrNum) : RoundTrip.Statement (.csrs d a csr) := by
  intro hw w h
  cases h
  simp [Instr.wellFormed] at hw
  simp [decode, need, decodeCsr, hw]
theorem RoundTrip.csrc (d : Reg) (a : Reg) (csr : CsrNum) : RoundTrip.Statement (.csrc d a csr) := by
  intro hw w h
  cases h
  simp [Instr.wellFormed] at hw
  simp [decode, need, decodeCsr, hw]
theorem RoundTrip.csrwi (d : Reg) (imm : BitVec 5) (csr : CsrNum) : RoundTrip.Statement (.csrwi d imm csr) := by
  intro hw w h
  cases h
  simp [Instr.wellFormed] at hw
  simp [decode, need, decodeCsr, hw]
theorem RoundTrip.trap (a : Reg) : RoundTrip.Statement (.trap a) := by
  intro hw w h
  cases h
  simp [decode, need, decodeSys]
theorem RoundTrip.exit (a : Reg) : RoundTrip.Statement (.exit a) := by
  intro hw w h
  cases h
  simp [decode, need, decodeSys]
theorem RoundTrip.chkpt (a : Reg) : RoundTrip.Statement (.chkpt a) := by
  intro hw w h
  cases h
  simp [decode, need, decodeSys]
theorem RoundTrip.ipf (a : Reg) : RoundTrip.Statement (.ipf a) := by
  intro hw w h
  cases h
  simp [decode, need, decodeSys]
theorem RoundTrip.send (d : Reg) (a : Reg) (b : Reg) : RoundTrip.Statement (.send d a b) := by
  intro hw w h
  cases h
  simp [decode, need, decodeMsg]
theorem RoundTrip.waitc (d : Reg) (c : BitVec 5) (b : Reg) : RoundTrip.Statement (.waitc d c b) := by
  intro hw w h
  cases h
  simp [decode, need, decodeMsg]
theorem RoundTrip.cntr (d : Reg) (c : BitVec 5) : RoundTrip.Statement (.cntr d c) := by
  intro hw w h
  cases h
  simp [decode, need, decodeMsg]
theorem RoundTrip.cntadd (d : Reg) (c : BitVec 5) (b : Reg) : RoundTrip.Statement (.cntadd d c b) := by
  intro hw w h
  cases h
  simp [decode, need, decodeMsg]
theorem RoundTrip.rkmap (d : Reg) (a : Reg) (b : Reg) : RoundTrip.Statement (.rkmap d a b) := by
  intro hw w h
  cases h
  simp [decode, need, decodeMsg]
theorem RoundTrip.rkmove (d : Reg) (a : Reg) (b : Reg) : RoundTrip.Statement (.rkmove d a b) := by
  intro hw w h
  cases h
  simp [decode, need, decodeMsg]
theorem RoundTrip.barinit (a : Reg) (b : Reg) : RoundTrip.Statement (.barinit a b) := by
  intro hw w h
  cases h
  simp [decode, need, decodeBar]
theorem RoundTrip.bararr (d : Reg) (a : Reg) : RoundTrip.Statement (.bararr d a) := by
  intro hw w h
  cases h
  simp [decode, need, decodeBar]
theorem RoundTrip.barwait (a : Reg) (b : Reg) : RoundTrip.Statement (.barwait a b) := by
  intro hw w h
  cases h
  simp [decode, need, decodeBar]
theorem RoundTrip.barsync (d : Reg) (a : Reg) : RoundTrip.Statement (.barsync d a) := by
  intro hw w h
  cases h
  simp [decode, need, decodeBar]
theorem RoundTrip.barq (d : Reg) (a : Reg) : RoundTrip.Statement (.barq d a) := by
  intro hw w h
  cases h
  simp [decode, need, decodeBar]
theorem RoundTrip.help (d : Reg) (a : Reg) (b : Reg) : RoundTrip.Statement (.help d a b) := by
  intro hw w h
  cases h
  simp [decode, need, decodeThr]
theorem RoundTrip.hjoin (d : Reg) (a : Reg) : RoundTrip.Statement (.hjoin d a) := by
  intro hw w h
  cases h
  simp [decode, need, decodeThr]
theorem RoundTrip.hitch (d : Reg) (a : Reg) : RoundTrip.Statement (.hitch d a) := by
  intro hw w h
  cases h
  simp [decode, need, decodeThr]
theorem RoundTrip.unhitch (d : Reg) : RoundTrip.Statement (.unhitch d) := by
  intro hw w h
  cases h
  simp [decode, need, decodeThr]
theorem RoundTrip.self (d : Reg) : RoundTrip.Statement (.self d) := by
  intro hw w h
  cases h
  simp [decode, need, decodeThr]
theorem RoundTrip.enq (d : Reg) (a : Reg) (b : Reg) : RoundTrip.Statement (.enq d a b) := by
  intro hw w h
  cases h
  simp [decode, need, decodeTask]
theorem RoundTrip.qres (d : Reg) (a : Reg) (b : Reg) : RoundTrip.Statement (.qres d a b) := by
  intro hw w h
  cases h
  simp [decode, need, decodeTask]
theorem RoundTrip.tlink (d : Reg) (a : Reg) (b : Reg) : RoundTrip.Statement (.tlink d a b) := by
  intro hw w h
  cases h
  simp [decode, need, decodeTask]
theorem RoundTrip.launch (d : Reg) (a : Reg) (b : Reg) : RoundTrip.Statement (.launch d a b) := by
  intro hw w h
  cases h
  simp [decode, need, decodeTask]
theorem RoundTrip.kwait (d : Reg) (a : Reg) : RoundTrip.Statement (.kwait d a) := by
  intro hw w h
  cases h
  simp [decode, need, decodeTask]
theorem RoundTrip.qpin (d : Reg) (a : Reg) (b : Reg) : RoundTrip.Statement (.qpin d a b) := by
  intro hw w h
  cases h
  simp [decode, need, decodeTask]
theorem RoundTrip.tlbinv (a : Reg) (b : Reg) : RoundTrip.Statement (.tlbinv a b) := by
  intro hw w h
  cases h
  simp [decode, need, decodePage]
theorem RoundTrip.freply (a : Reg) (b : Reg) : RoundTrip.Statement (.freply a b) := by
  intro hw w h
  cases h
  simp [decode, need, decodePage]
theorem RoundTrip.fbread (d : Reg) (a : Reg) (b : Reg) : RoundTrip.Statement (.fbread d a b) := by
  intro hw w h
  cases h
  simp [decode, need, decodePage]
theorem RoundTrip.fbclr (a : Reg) : RoundTrip.Statement (.fbclr a) := by
  intro hw w h
  cases h
  simp [decode, need, decodePage]
theorem RoundTrip.lunge (len : BitVec 4) (cnt : BitVec 8) (stride : BitVec 7) (fix : BitVec 3) : RoundTrip.Statement (.lunge len cnt stride fix) := by
  intro hw w h
  cases h
  simp [decode, need]
theorem RoundTrip.vadd (m : MaskCode) (d : RowCode) (a : RowCode) (b : VSrc) : RoundTrip.Statement (.vadd m d a b) := by
  intro hw w h
  cases h
  simp [decode, need, decodeRow, decodeV, encodeV]
theorem RoundTrip.vsub (m : MaskCode) (d : RowCode) (a : RowCode) (b : VSrc) : RoundTrip.Statement (.vsub m d a b) := by
  intro hw w h
  cases h
  simp [decode, need, decodeRow, decodeV, encodeV]
theorem RoundTrip.vmul (m : MaskCode) (d : RowCode) (a : RowCode) (b : VSrc) : RoundTrip.Statement (.vmul m d a b) := by
  intro hw w h
  cases h
  simp [decode, need, decodeRow, decodeV, encodeV]
theorem RoundTrip.vfma (m : MaskCode) (d : RowCode) (a : RowCode) (b : VSrc) : RoundTrip.Statement (.vfma m d a b) := by
  intro hw w h
  cases h
  simp [decode, need, decodeRow, decodeV, encodeV]
theorem RoundTrip.vfms (m : MaskCode) (d : RowCode) (a : RowCode) (b : VSrc) : RoundTrip.Statement (.vfms m d a b) := by
  intro hw w h
  cases h
  simp [decode, need, decodeRow, decodeV, encodeV]
theorem RoundTrip.vfnma (m : MaskCode) (d : RowCode) (a : RowCode) (b : VSrc) : RoundTrip.Statement (.vfnma m d a b) := by
  intro hw w h
  cases h
  simp [decode, need, decodeRow, decodeV, encodeV]
theorem RoundTrip.vmin (m : MaskCode) (d : RowCode) (a : RowCode) (b : VSrc) : RoundTrip.Statement (.vmin m d a b) := by
  intro hw w h
  cases h
  simp [decode, need, decodeRow, decodeV, encodeV]
theorem RoundTrip.vmax (m : MaskCode) (d : RowCode) (a : RowCode) (b : VSrc) : RoundTrip.Statement (.vmax m d a b) := by
  intro hw w h
  cases h
  simp [decode, need, decodeRow, decodeV, encodeV]
theorem RoundTrip.vabs (m : MaskCode) (d : RowCode) (a : RowCode) : RoundTrip.Statement (.vabs m d a) := by
  intro hw w h
  cases h
  simp [decode, need, decodeVfu, decodeRow, encodeV, decodeV]
theorem RoundTrip.vneg (m : MaskCode) (d : RowCode) (a : RowCode) : RoundTrip.Statement (.vneg m d a) := by
  intro hw w h
  cases h
  simp [decode, need, decodeVfu, decodeRow, encodeV, decodeV]
theorem RoundTrip.vrcp (m : MaskCode) (d : RowCode) (a : RowCode) : RoundTrip.Statement (.vrcp m d a) := by
  intro hw w h
  cases h
  simp [decode, need, decodeVfu, decodeRow, encodeV, decodeV]
theorem RoundTrip.vrsq (m : MaskCode) (d : RowCode) (a : RowCode) : RoundTrip.Statement (.vrsq m d a) := by
  intro hw w h
  cases h
  simp [decode, need, decodeVfu, decodeRow, encodeV, decodeV]
theorem RoundTrip.vexp2 (m : MaskCode) (d : RowCode) (a : RowCode) : RoundTrip.Statement (.vexp2 m d a) := by
  intro hw w h
  cases h
  simp [decode, need, decodeVfu, decodeRow, encodeV, decodeV]
theorem RoundTrip.vlog2 (m : MaskCode) (d : RowCode) (a : RowCode) : RoundTrip.Statement (.vlog2 m d a) := by
  intro hw w h
  cases h
  simp [decode, need, decodeVfu, decodeRow, encodeV, decodeV]
theorem RoundTrip.vsqrt (m : MaskCode) (d : RowCode) (a : RowCode) : RoundTrip.Statement (.vsqrt m d a) := by
  intro hw w h
  cases h
  simp [decode, need, decodeVfu, decodeRow, encodeV, decodeV]
theorem RoundTrip.vflr (m : MaskCode) (d : RowCode) (a : RowCode) : RoundTrip.Statement (.vflr m d a) := by
  intro hw w h
  cases h
  simp [decode, need, decodeVfu, decodeRow, encodeV, decodeV]
theorem RoundTrip.vceil (m : MaskCode) (d : RowCode) (a : RowCode) : RoundTrip.Statement (.vceil m d a) := by
  intro hw w h
  cases h
  simp [decode, need, decodeVfu, decodeRow, encodeV, decodeV]
theorem RoundTrip.vrndn (m : MaskCode) (d : RowCode) (a : RowCode) : RoundTrip.Statement (.vrndn m d a) := by
  intro hw w h
  cases h
  simp [decode, need, decodeVfu, decodeRow, encodeV, decodeV]
theorem RoundTrip.vcmpf (m : MaskCode) (cc : FCond) (k : MaskCode) (a : RowCode) (b : VSrc) : RoundTrip.Statement (.vcmpf m cc k a b) := by
  intro hw w h
  cases h
  have e : ∀ x y z, decode (packV 0x49 m x a y z) = decodeVcmpf m x a y z := by
    intro x y z
    simp [decode, decodeRow]
  rw [encodeV, e]
  rw [decodeVcmpf_packed]
theorem RoundTrip.vcmpi (m : MaskCode) (cc : ICond) (k : MaskCode) (a : RowCode) (b : VSrc) : RoundTrip.Statement (.vcmpi m cc k a b) := by
  intro hw w h
  cases h
  have e : ∀ x y z, decode (packV 0x4A m x a y z) = decodeVcmpi m x a y z := by
    intro x y z
    simp [decode, decodeRow]
  rw [encodeV, e]
  rw [decodeVcmpi_packed]
theorem RoundTrip.viadd (m : MaskCode) (d : RowCode) (a : RowCode) (b : VSrc) : RoundTrip.Statement (.viadd m d a b) := by
  intro hw w h
  cases h
  simp [decode, need, decodeRow, decodeV, encodeV]
theorem RoundTrip.visub (m : MaskCode) (d : RowCode) (a : RowCode) (b : VSrc) : RoundTrip.Statement (.visub m d a b) := by
  intro hw w h
  cases h
  simp [decode, need, decodeRow, decodeV, encodeV]
theorem RoundTrip.vimul (m : MaskCode) (d : RowCode) (a : RowCode) (b : VSrc) : RoundTrip.Statement (.vimul m d a b) := by
  intro hw w h
  cases h
  simp [decode, need, decodeRow, decodeV, encodeV]
theorem RoundTrip.vand (m : MaskCode) (d : RowCode) (a : RowCode) (b : VSrc) : RoundTrip.Statement (.vand m d a b) := by
  intro hw w h
  cases h
  simp [decode, need, decodeRow, decodeV, encodeV]
theorem RoundTrip.vor (m : MaskCode) (d : RowCode) (a : RowCode) (b : VSrc) : RoundTrip.Statement (.vor m d a b) := by
  intro hw w h
  cases h
  simp [decode, need, decodeRow, decodeV, encodeV]
theorem RoundTrip.vxor (m : MaskCode) (d : RowCode) (a : RowCode) (b : VSrc) : RoundTrip.Statement (.vxor m d a b) := by
  intro hw w h
  cases h
  simp [decode, need, decodeRow, decodeV, encodeV]
theorem RoundTrip.vshl (m : MaskCode) (d : RowCode) (a : RowCode) (b : VSrc) : RoundTrip.Statement (.vshl m d a b) := by
  intro hw w h
  cases h
  simp [decode, need, decodeRow, decodeV, encodeV]
theorem RoundTrip.vshr (m : MaskCode) (d : RowCode) (a : RowCode) (b : VSrc) : RoundTrip.Statement (.vshr m d a b) := by
  intro hw w h
  cases h
  simp [decode, need, decodeRow, decodeV, encodeV]
theorem RoundTrip.vshra (m : MaskCode) (d : RowCode) (a : RowCode) (b : VSrc) : RoundTrip.Statement (.vshra m d a b) := by
  intro hw w h
  cases h
  simp [decode, need, decodeRow, decodeV, encodeV]
theorem RoundTrip.vimin (m : MaskCode) (d : RowCode) (a : RowCode) (b : VSrc) : RoundTrip.Statement (.vimin m d a b) := by
  intro hw w h
  cases h
  simp [decode, need, decodeRow, decodeV, encodeV]
theorem RoundTrip.vimax (m : MaskCode) (d : RowCode) (a : RowCode) (b : VSrc) : RoundTrip.Statement (.vimax m d a b) := by
  intro hw w h
  cases h
  simp [decode, need, decodeRow, decodeV, encodeV]
theorem RoundTrip.viminu (m : MaskCode) (d : RowCode) (a : RowCode) (b : VSrc) : RoundTrip.Statement (.viminu m d a b) := by
  intro hw w h
  cases h
  simp [decode, need, decodeRow, decodeV, encodeV]
theorem RoundTrip.vimaxu (m : MaskCode) (d : RowCode) (a : RowCode) (b : VSrc) : RoundTrip.Statement (.vimaxu m d a b) := by
  intro hw w h
  cases h
  simp [decode, need, decodeRow, decodeV, encodeV]
theorem RoundTrip.vsel (k : MaskCode) (d : RowCode) (a : RowCode) (b : VSrc) : RoundTrip.Statement (.vsel k d a b) := by
  intro hw w h
  cases h
  simp [decode, need, decodeRow, decodeV, encodeV]
theorem RoundTrip.vperm (m : MaskCode) (d : RowCode) (a : RowCode) (b : VSrc) : RoundTrip.Statement (.vperm m d a b) := by
  intro hw w h
  cases h
  simp [decode, need, decodeRow, decodeV, encodeV]
theorem RoundTrip.vcvt (m : MaskCode) (d : RowCode) (a : RowCode) (f : CvtFn) : RoundTrip.Statement (.vcvt m d a f) := by
  intro hw w h
  cases h
  simp [decode, need, decodeRow, decodeV, encodeV]
theorem RoundTrip.vred (m : MaskCode) (o : RedOp) (d : Reg) (a : RowCode) : RoundTrip.Statement (.vred m o d a) := by
  intro hw w h
  cases h
  simp [decode, need, decodeRow]
  exact ⟨by rw [high_append, redOf_code], low_append ..⟩
theorem RoundTrip.vext (d : Reg) (a : RowCode) (n : BitVec 4) : RoundTrip.Statement (.vext d a n) := by
  intro hw w h
  cases h
  have e : ∀ x y z w, decode (packV 0x5C 0 x y z w) = decodeVxs 0 x y z w := by
    intro x y z w
    simp [decode, decodeRow]
  rw [e]
  rw [decodeVxs_ext]
theorem RoundTrip.vins (d : RowCode) (n : BitVec 4) (b : Reg) : RoundTrip.Statement (.vins d n b) := by
  intro hw w h
  cases h
  have e : ∀ x y z w, decode (packV 0x5C 0 x y z w) = decodeVxs 0 x y z w := by
    intro x y z w
    simp [decode, decodeRow]
  rw [e]
  rw [decodeVxs_ins]
theorem RoundTrip.vpackBf16 (m : MaskCode) (d : RowCode) (a : RowCode) (b : RowCode) : RoundTrip.Statement (.vpackBf16 m d a b) := by
  intro hw w h
  cases h
  simp [decode, need, decodeRow, decodeV, encodeV]
theorem RoundTrip.vpackF16 (m : MaskCode) (d : RowCode) (a : RowCode) (b : RowCode) : RoundTrip.Statement (.vpackF16 m d a b) := by
  intro hw w h
  cases h
  simp [decode, need, decodeRow, decodeV, encodeV]
theorem RoundTrip.vmov (m : MaskCode) (d : RowCode) (b : VSrc) : RoundTrip.Statement (.vmov m d b) := by
  intro hw w h
  cases h
  simp [decode, need, decodeRow, decodeV, encodeV]
theorem RoundTrip.mand (d : MaskCode) (a : MaskCode) (b : MaskCode) : RoundTrip.Statement (.mand d a b) := by
  intro hw w h
  cases h
  simp [decode, need, decodeMask]
theorem RoundTrip.mor (d : MaskCode) (a : MaskCode) (b : MaskCode) : RoundTrip.Statement (.mor d a b) := by
  intro hw w h
  cases h
  simp [decode, need, decodeMask]
theorem RoundTrip.mxor (d : MaskCode) (a : MaskCode) (b : MaskCode) : RoundTrip.Statement (.mxor d a b) := by
  intro hw w h
  cases h
  simp [decode, need, decodeMask]
theorem RoundTrip.mandn (d : MaskCode) (a : MaskCode) (b : MaskCode) : RoundTrip.Statement (.mandn d a b) := by
  intro hw w h
  cases h
  simp [decode, need, decodeMask]
theorem RoundTrip.mnot (d : MaskCode) (a : MaskCode) : RoundTrip.Statement (.mnot d a) := by
  intro hw w h
  cases h
  simp [decode, need, decodeMask]
theorem RoundTrip.mmov (d : MaskCode) (a : MaskCode) : RoundTrip.Statement (.mmov d a) := by
  intro hw w h
  cases h
  simp [decode, need, decodeMask]
theorem RoundTrip.mpopc (d : Reg) (a : MaskCode) : RoundTrip.Statement (.mpopc d a) := by
  intro hw w h
  cases h
  simp [decode, need, decodeMask]
theorem RoundTrip.mfirst (d : Reg) (a : MaskCode) : RoundTrip.Statement (.mfirst d a) := by
  intro hw w h
  cases h
  simp [decode, need, decodeMask]
theorem RoundTrip.mset (d : MaskCode) (a : Reg) : RoundTrip.Statement (.mset d a) := by
  intro hw w h
  cases h
  simp [decode, need, decodeMask]
theorem RoundTrip.mget (d : Reg) (a : MaskCode) : RoundTrip.Statement (.mget d a) := by
  intro hw w h
  cases h
  simp [decode, need, decodeMask]
theorem RoundTrip.mma (d : TileCode) (a : Reg) (b : Reg) (ka : Bool) (kb : Bool) : RoundTrip.Statement (.mma d a b ka kb) := by
  intro hw w h
  cases h
  have e : ∀ x y, decode (packE 0x60 (small d) a b x y) = decodeMat (small d) a b x y.toNat := by
    intro x y
    simp [decode]
  rw [e]
  cases ka <;> cases kb <;> simp [decodeMat, need] <;> rfl
theorem RoundTrip.mzero (d : TileCode) : RoundTrip.Statement (.mzero d) := by
  intro hw w h
  cases h
  simp [decode, need, decodeMat]
theorem RoundTrip.mst (d : TileCode) (a : Reg) : RoundTrip.Statement (.mst d a) := by
  intro hw w h
  cases h
  simp [decode, need, decodeMat]
theorem RoundTrip.mld (d : TileCode) (a : Reg) : RoundTrip.Statement (.mld d a) := by
  intro hw w h
  cases h
  simp [decode, need, decodeMat]
theorem RoundTrip.mwait (d : TileCode) : RoundTrip.Statement (.mwait d) := by
  intro hw w h
  cases h
  simp [decode, need, decodeMat]
theorem RoundTrip.mchk (d : TileCode) (a : Reg) (b : Reg) (ka : Bool) (kb : Bool) : RoundTrip.Statement (.mchk d a b ka kb) := by
  intro hw w h
  cases h
  have e : ∀ x y, decode (packE 0x60 (small d) a b x y) = decodeMat (small d) a b x y.toNat := by
    intro x y
    simp [decode]
  rw [e]
  cases ka <;> cases kb <;> simp [decodeMat, need] <;> rfl
theorem RoundTrip.rinit (d : Reg) (a : Reg) (b : Reg) : RoundTrip.Statement (.rinit d a b) := by
  intro hw w h
  cases h
  simp [decode, need, decodeRing]
theorem RoundTrip.rpush (d : Reg) (a : Reg) (b : Reg) : RoundTrip.Statement (.rpush d a b) := by
  intro hw w h
  cases h
  simp [decode, need, decodeRing]
theorem RoundTrip.rsub (d : Reg) (a : Reg) (b : Reg) (storer : Bool) : RoundTrip.Statement (.rsub d a b storer) := by
  intro hw w h
  cases h
  have e : ∀ x y, decode (packE 0x61 d a b x y) = decodeRing d a b x y.toNat := by
    intro x y
    simp [decode]
  rw [e]
  cases storer <;> rfl
theorem RoundTrip.runsub (d : Reg) (a : Reg) : RoundTrip.Statement (.runsub d a) := by
  intro hw w h
  cases h
  simp [decode, need, decodeRing]
theorem RoundTrip.rstat (d : Reg) (a : Reg) : RoundTrip.Statement (.rstat d a) := by
  intro hw w h
  cases h
  simp [decode, need, decodeRing]
theorem RoundTrip.cpy (d : Reg) : RoundTrip.Statement (.cpy d) := by
  intro hw w h
  cases h
  simp [decode, need, decodeCopy]
theorem RoundTrip.cwait (d : Reg) (a : Reg) : RoundTrip.Statement (.cwait d a) := by
  intro hw w h
  cases h
  simp [decode, need, decodeCopy]
theorem RoundTrip.cstat (d : Reg) (a : Reg) : RoundTrip.Statement (.cstat d a) := by
  intro hw w h
  cases h
  simp [decode, need, decodeCopy]
theorem RoundTrip.sopen (d : Reg) (a : Reg) : RoundTrip.Statement (.sopen d a) := by
  intro hw w h
  cases h
  simp [decode, need, decodeStrm]
theorem RoundTrip.spop (d : Reg) (a : Reg) (b : Reg) : RoundTrip.Statement (.spop d a b) := by
  intro hw w h
  cases h
  simp [decode, need, decodeStrm]
theorem RoundTrip.spush (d : Reg) (a : Reg) (b : Reg) : RoundTrip.Statement (.spush d a b) := by
  intro hw w h
  cases h
  simp [decode, need, decodeStrm]
theorem RoundTrip.mgopen (d : Reg) (a : Reg) (b : Reg) : RoundTrip.Statement (.mgopen d a b) := by
  intro hw w h
  cases h
  simp [decode, need, decodeMrg]
theorem RoundTrip.mgpush (d : Reg) (a : Reg) (b : Reg) : RoundTrip.Statement (.mgpush d a b) := by
  intro hw w h
  cases h
  simp [decode, need, decodeMrg]
theorem RoundTrip.mgend (d : Reg) (a : Reg) : RoundTrip.Statement (.mgend d a) := by
  intro hw w h
  cases h
  simp [decode, need, decodeMrg]
theorem RoundTrip.mgpop (d : Reg) (a : Reg) (b : Reg) : RoundTrip.Statement (.mgpop d a b) := by
  intro hw w h
  cases h
  simp [decode, need, decodeMrg]
theorem RoundTrip.mgstat (d : Reg) (a : Reg) (b : Reg) : RoundTrip.Statement (.mgstat d a b) := by
  intro hw w h
  cases h
  simp [decode, need, decodeMrg]
theorem RoundTrip.mgdrain (d : Reg) (a : Reg) : RoundTrip.Statement (.mgdrain d a) := by
  intro hw w h
  cases h
  simp [decode, need, decodeMrg]
theorem RoundTrip.ilopen (d : Reg) (a : Reg) (b : Reg) : RoundTrip.Statement (.ilopen d a b) := by
  intro hw w h
  cases h
  simp [decode, need, decodeIl]
theorem RoundTrip.ilins (d : Reg) (a : Reg) (b : Reg) : RoundTrip.Statement (.ilins d a b) := by
  intro hw w h
  cases h
  simp [decode, need, decodeIl]
theorem RoundTrip.ilsend (d : Reg) (a : Reg) (b : Reg) : RoundTrip.Statement (.ilsend d a b) := by
  intro hw w h
  cases h
  simp [decode, need, decodeIl]
theorem RoundTrip.ilcut (d : Reg) (a : Reg) : RoundTrip.Statement (.ilcut d a) := by
  intro hw w h
  cases h
  simp [decode, need, decodeIl]
theorem RoundTrip.ilcomp (d : Reg) (a : Reg) (b : Reg) : RoundTrip.Statement (.ilcomp d a b) := by
  intro hw w h
  cases h
  simp [decode, need, decodeIl]
theorem RoundTrip.ilread (d : Reg) (a : Reg) (b : Reg) : RoundTrip.Statement (.ilread d a b) := by
  intro hw w h
  cases h
  simp [decode, need, decodeIl]
theorem RoundTrip.ilclose (d : Reg) (a : Reg) : RoundTrip.Statement (.ilclose d a) := by
  intro hw w h
  cases h
  simp [decode, need, decodeIl]
theorem RoundTrip.ilstat (d : Reg) (a : Reg) : RoundTrip.Statement (.ilstat d a) := by
  intro hw w h
  cases h
  simp [decode, need, decodeIl]
theorem RoundTrip.hnew (d : Reg) (a : Reg) : RoundTrip.Statement (.hnew d a) := by
  intro hw w h
  cases h
  simp [decode, need, decodeHal]
theorem RoundTrip.hcopy (d : Reg) (a : Reg) : RoundTrip.Statement (.hcopy d a) := by
  intro hw w h
  cases h
  simp [decode, need, decodeHal]
theorem RoundTrip.hdrop (a : Reg) : RoundTrip.Statement (.hdrop a) := by
  intro hw w h
  cases h
  simp [decode, need, decodeHal]
theorem RoundTrip.hbind (d : Reg) (a : Reg) (b : Reg) : RoundTrip.Statement (.hbind d a b) := by
  intro hw w h
  cases h
  simp [decode, need, decodeHal]
theorem RoundTrip.hwgt (d : Reg) (a : Reg) : RoundTrip.Statement (.hwgt d a) := by
  intro hw w h
  cases h
  simp [decode, need, decodeHal]
theorem RoundTrip.haddr (d : Reg) (a : Reg) : RoundTrip.Statement (.haddr d a) := by
  intro hw w h
  cases h
  simp [decode, need, decodeHal]
theorem RoundTrip.hmerge (d : Reg) (a : Reg) (b : Reg) : RoundTrip.Statement (.hmerge d a b) := by
  intro hw w h
  cases h
  simp [decode, need, decodeHal]
theorem RoundTrip.boxt (k : MaskCode) (d : RowCode) (a : RowCode) (b : RowCode) : RoundTrip.Statement (.boxt k d a b) := by
  intro hw w h
  cases h
  simp [Instr.wellFormed] at hw
  simp [decode, need, decodeRow, hw]
theorem RoundTrip.trit (m : MaskCode) (d : RowCode) (a : RowCode) (b : RowCode) : RoundTrip.Statement (.trit m d a b) := by
  intro hw w h
  cases h
  simp [decode, need, decodeRow, decodeV, encodeV]
theorem RoundTrip.splt (m : MaskCode) (d : RowCode) (a : RowCode) (b : RowCode) : RoundTrip.Statement (.splt m d a b) := by
  intro hw w h
  cases h
  simp [decode, need, decodeRow, decodeV, encodeV]
theorem RoundTrip.edge (m : MaskCode) (d : RowCode) (a : RowCode) (b : RowCode) : RoundTrip.Statement (.edge m d a b) := by
  intro hw w h
  cases h
  simp [decode, need, decodeRow, decodeV, encodeV]
theorem RoundTrip.texl (m : MaskCode) (d : RowCode) (a : RowCode) (b : RowCode) : RoundTrip.Statement (.texl m d a b) := by
  intro hw w h
  cases h
  simp [decode, need, decodeRow, decodeV, encodeV]
theorem RoundTrip.texd (m : MaskCode) (d : RowCode) (a : RowCode) (b : RowCode) : RoundTrip.Statement (.texd m d a b) := by
  intro hw w h
  cases h
  simp [decode, need, decodeRow, decodeV, encodeV]
theorem RoundTrip.ret : RoundTrip.Statement (.ret) := by
  intro hw w h
  cases h
  simp [decode, need, decodeJx]
theorem RoundTrip.eret : RoundTrip.Statement (.eret) := by
  intro hw w h
  cases h
  simp [decode, need, decodeSys]
theorem RoundTrip.brk : RoundTrip.Statement (.brk) := by
  intro hw w h
  cases h
  simp [decode, need, decodeSys]
theorem RoundTrip.yield : RoundTrip.Statement (.yield) := by
  intro hw w h
  cases h
  simp [decode, need, decodeSys]
theorem RoundTrip.wfe : RoundTrip.Statement (.wfe) := by
  intro hw w h
  cases h
  simp [decode, need, decodeSys]
theorem RoundTrip.trig : RoundTrip.Statement (.trig) := by
  intro hw w h
  cases h
  simp [decode, need, decodeTask]
theorem RoundTrip.replay : RoundTrip.Statement (.replay) := by
  intro hw w h
  cases h
  simp [decode, need, decodePage]
theorem RoundTrip.csrWriteFrm (x0 : CsrForm) : RoundTrip.Statement (.csrWriteFrm x0) := fun _ _ h => nomatch h
theorem RoundTrip.csrAccessFflags (x0 : CsrForm) : RoundTrip.Statement (.csrAccessFflags x0) := fun _ _ h => nomatch h
theorem RoundTrip.csrReadCflags (x0 : CsrForm) : RoundTrip.Statement (.csrReadCflags x0) := fun _ _ h => nomatch h
theorem RoundTrip.csrWriteStatus (x0 : CsrForm) : RoundTrip.Statement (.csrWriteStatus x0) := fun _ _ h => nomatch h
theorem RoundTrip.csrWriteWindow (x0 : CsrForm) (x1 : Bool) : RoundTrip.Statement (.csrWriteWindow x0 x1) := fun _ _ h => nomatch h
theorem RoundTrip.csrWriteMfmt (x0 : CsrForm) : RoundTrip.Statement (.csrWriteMfmt x0) := fun _ _ h => nomatch h
theorem RoundTrip.csrWriteMerr (x0 : CsrForm) : RoundTrip.Statement (.csrWriteMerr x0) := fun _ _ h => nomatch h
theorem RoundTrip.csrWriteDomain (x0 : CsrForm) : RoundTrip.Statement (.csrWriteDomain x0) := fun _ _ h => nomatch h
theorem RoundTrip.csrWriteHpmcnt (x0 : CsrForm) (x1 : BitVec 3) : RoundTrip.Statement (.csrWriteHpmcnt x0 x1) := fun _ _ h => nomatch h
theorem RoundTrip.csrWriteOther (x0 : CsrForm) (x1 : CsrNum) : RoundTrip.Statement (.csrWriteOther x0 x1) := fun _ _ h => nomatch h
theorem RoundTrip.halterHomeReply (x0 : Nat) (x1 : Nat) : RoundTrip.Statement (.halterHomeReply x0 x1) := fun _ _ h => nomatch h
theorem RoundTrip.waittoExpiry (x0 : Nat) (x1 : Nat) : RoundTrip.Statement (.waittoExpiry x0 x1) := fun _ _ h => nomatch h
theorem RoundTrip.chkmaxExpiry (x0 : Nat) (x1 : Nat) : RoundTrip.Statement (.chkmaxExpiry x0 x1) := fun _ _ h => nomatch h
theorem RoundTrip.deadlockDeclaration (x0 : Nat) : RoundTrip.Statement (.deadlockDeclaration x0) := fun _ _ h => nomatch h
theorem RoundTrip.instructionCacheFill (x0 : Nat) : RoundTrip.Statement (.instructionCacheFill x0) := fun _ _ h => nomatch h
theorem RoundTrip.harnessFlitReceive (x0 : Nat) (x1 : Flit) : RoundTrip.Statement (.harnessFlitReceive x0 x1) := fun _ _ h => nomatch h
theorem RoundTrip.harnessNak (x0 : Nat) (x1 : BitVec 12) : RoundTrip.Statement (.harnessNak x0 x1) := fun _ _ h => nomatch h
theorem RoundTrip.laneLockLoss (x0 : Nat) : RoundTrip.Statement (.laneLockLoss x0) := fun _ _ h => nomatch h
theorem RoundTrip.linkTrainingResult (x0 : Nat) (x1 : Nat) : RoundTrip.Statement (.linkTrainingResult x0 x1) := fun _ _ h => nomatch h
theorem RoundTrip.trainingRetryTimer (x0 : Nat) : RoundTrip.Statement (.trainingRetryTimer x0) := fun _ _ h => nomatch h
theorem RoundTrip.typoroContextCreate (x0 : CmdHdr) (x1 : CtxSpec) : RoundTrip.Statement (.typoroContextCreate x0 x1) := fun _ _ h => nomatch h
theorem RoundTrip.typoroTeardown (x0 : CmdHdr) : RoundTrip.Statement (.typoroTeardown x0) := fun _ _ h => nomatch h
theorem RoundTrip.typoroPaddockDefine (x0 : CmdHdr) (x1 : List (List Nat)) : RoundTrip.Statement (.typoroPaddockDefine x0 x1) := fun _ _ h => nomatch h
theorem RoundTrip.typoroMapMemory (x0 : CmdHdr) (x1 : List (Word × Word)) : RoundTrip.Statement (.typoroMapMemory x0 x1) := fun _ _ h => nomatch h
theorem RoundTrip.typoroUnmapMemory (x0 : CmdHdr) (x1 : List (Word × Word)) : RoundTrip.Statement (.typoroUnmapMemory x0 x1) := fun _ _ h => nomatch h
theorem RoundTrip.typoroCopyToDevice (x0 : CmdHdr) (x1 : Word) (x2 : List Byte) : RoundTrip.Statement (.typoroCopyToDevice x0 x1 x2) := fun _ _ h => nomatch h
theorem RoundTrip.typoroCopyToHost (x0 : CmdHdr) (x1 : Word) (x2 : Nat) : RoundTrip.Statement (.typoroCopyToHost x0 x1 x2) := fun _ _ h => nomatch h
theorem RoundTrip.typoroLaunch (x0 : CmdHdr) (x1 : Word) (x2 : Word) : RoundTrip.Statement (.typoroLaunch x0 x1 x2) := fun _ _ h => nomatch h
theorem RoundTrip.typoroQueueCreate (x0 : CmdHdr) (x1 : QueueSpec) : RoundTrip.Statement (.typoroQueueCreate x0 x1) := fun _ _ h => nomatch h
theorem RoundTrip.typoroQueueDestroy (x0 : CmdHdr) (x1 : Nat) : RoundTrip.Statement (.typoroQueueDestroy x0 x1) := fun _ _ h => nomatch h
theorem RoundTrip.typoroQueuePin (x0 : CmdHdr) (x1 : Nat) (x2 : Bool) : RoundTrip.Statement (.typoroQueuePin x0 x1 x2) := fun _ _ h => nomatch h
theorem RoundTrip.typoroPreempt (x0 : CmdHdr) : RoundTrip.Statement (.typoroPreempt x0) := fun _ _ h => nomatch h
theorem RoundTrip.typoroResume (x0 : CmdHdr) (x1 : Nat) : RoundTrip.Statement (.typoroResume x0 x1) := fun _ _ h => nomatch h
theorem RoundTrip.typoroGroupMove (x0 : CmdHdr) (x1 : Word) (x2 : Word) : RoundTrip.Statement (.typoroGroupMove x0 x1 x2) := fun _ _ h => nomatch h
theorem RoundTrip.typoroEventRead (x0 : CmdHdr) (x1 : Nat) (x2 : Nat) : RoundTrip.Statement (.typoroEventRead x0 x1 x2) := fun _ _ h => nomatch h
theorem RoundTrip.typoroWsWindowOpen (x0 : CmdHdr) : RoundTrip.Statement (.typoroWsWindowOpen x0) := fun _ _ h => nomatch h
theorem RoundTrip.typoroWsWindowClose (x0 : CmdHdr) : RoundTrip.Statement (.typoroWsWindowClose x0) := fun _ _ h => nomatch h
theorem RoundTrip.typoroLinkConfig (x0 : CmdHdr) (x1 : Option (BitVec 8)) (x2 : List (Nat × Bool)) (x3 : List (Nat × List Byte)) : RoundTrip.Statement (.typoroLinkConfig x0 x1 x2 x3) := fun _ _ h => nomatch h
theorem RoundTrip.typoroRouteSet (x0 : CmdHdr) (x1 : BitVec 8) (x2 : Option Nat) : RoundTrip.Statement (.typoroRouteSet x0 x1 x2) := fun _ _ h => nomatch h
theorem RoundTrip.typoroEncoderSetup (x0 : CmdHdr) (x1 : Nat) (x2 : List (Nat × Option Nat)) : RoundTrip.Statement (.typoroEncoderSetup x0 x1 x2) := fun _ _ h => nomatch h
theorem RoundTrip.typoroAttestationQuote (x0 : CmdHdr) (x1 : List Byte) : RoundTrip.Statement (.typoroAttestationQuote x0 x1) := fun _ _ h => nomatch h
theorem RoundTrip.typoroPatchLoad (x0 : CmdHdr) (x1 : List Byte) : RoundTrip.Statement (.typoroPatchLoad x0 x1) := fun _ _ h => nomatch h
theorem RoundTrip.typoroRepeatedCommand (x0 : CmdHdr) : RoundTrip.Statement (.typoroRepeatedCommand x0) := fun _ _ h => nomatch h
theorem RoundTrip.typoroBadCommand (x0 : CmdHdr) (x1 : BitVec 16) : RoundTrip.Statement (.typoroBadCommand x0 x1) := fun _ _ h => nomatch h
theorem RoundTrip.powerOn (x0 : List Nat) : RoundTrip.Statement (.powerOn x0) := fun _ _ h => nomatch h
theorem RoundTrip.grcResetN (x0 : Nat) (x1 : List Nat) : RoundTrip.Statement (.grcResetN x0 x1) := fun _ _ h => nomatch h
theorem RoundTrip.smbusResetWrite (x0 : List Nat) : RoundTrip.Statement (.smbusResetWrite x0) := fun _ _ h => nomatch h
theorem RoundTrip.smbusWriteOther (x0 : Byte) (x1 : Byte) : RoundTrip.Statement (.smbusWriteOther x0 x1) := fun _ _ h => nomatch h
theorem RoundTrip.sensorSample (x0 : Sensors) : RoundTrip.Statement (.sensorSample x0) := fun _ _ h => nomatch h
theorem RoundTrip.coolantStepTimer : RoundTrip.Statement (.coolantStepTimer) := fun _ _ h => nomatch h
theorem RoundTrip.lifetimeRecordWrite : RoundTrip.Statement (.lifetimeRecordWrite) := fun _ _ h => nomatch h
theorem RoundTrip.powerLoss : RoundTrip.Statement (.powerLoss) := fun _ _ h => nomatch h
theorem RoundTrip.voltageDroop (x0 : Nat) : RoundTrip.Statement (.voltageDroop x0) := fun _ _ h => nomatch h
theorem RoundTrip.forwardedAccess (x0 : Nat) (x1 : Word) (x2 : Bool) (x3 : RemoteOp) : RoundTrip.Statement (.forwardedAccess x0 x1 x2 x3) := fun _ _ h => nomatch h
theorem RoundTrip.uetPacket (x0 : Nat) (x1 : UetPacket) : RoundTrip.Statement (.uetPacket x0 x1) := fun _ _ h => nomatch h

end Sys2Proof.Laws
end

