-- ==== Sys2Proof/Tests/Slice0.lean ====
section
/-! SUPPORT. Tests: words that the manual writes out and what they decode to, ill-formed terms, small results from the manual's
examples, and for every statement's hypotheses a state and operands that meet them. -/

namespace Sys2Proof.Tests

open Sys2Proof Sys2Proof.Machine Sys2Proof.Safety

/-! Words and their assembly as the manual's tables print them (Tables 1-1, 4-7, 4-8, 5-2, 5-6, 5-8, 6-8, 7-5, 7-6, 8-3 to 8-17,
9-9, 10-8, 16-4, 17-2, 18-6, 19-3). -/

theorem test_decode_scalar :
    decode 0x0580000C = .ok (.addi 24 0 12) ∧ decode 0x0CB58008 = .ok (.slli 11 11 8) ∧ decode 0x12800012 = .ok (.lup 8 0x12)
      ∧ decode 0x1884A800 = .ok (.fadd 8 9 10) ∧ decode 0x0284A800 = .ok (.add 8 9 10)
      ∧ decode 0x10B63403 = .ok (.div 11 12 13) := by decide
theorem test_decode_control :
    decode 0x22C07FFD = .ok (.bne 12 0 (-3)) ∧ decode 0x2E000040 = .ok (.jmp 64) ∧ decode 0x2C200004 = .ok (.bmany 2 4)
      ∧ decode 0x32000002 = .ok .ret ∧ decode 0x62000002 = .ok .eret ∧ decode 0x62000003 = .ok .brk
      ∧ decode 0x62000004 = .ok .yield ∧ decode 0x62000006 = .ok .wfe ∧ decode 0x62040001 = .ok (.trap 8)
      ∧ decode 0x62040005 = .ok (.exit 8) ∧ decode 0x62040007 = .ok (.chkpt 8) ∧ decode 0x62040008 = .ok (.ipf 8) := by decide
theorem test_decode_csr :
    decode 0x60058101 = .ok (.csrw 0 11 0x020) ∧ decode 0x60008084 = .ok (.csrwi 0 1 0x010) := by decide
theorem test_decode_memory :
    decode 0x40C08015 = .ok (.ld 12 1 2 .w true) ∧ decode 0x40C08014 = .ok (.ld 12 1 2 .w false)
      ∧ decode 0x4084FFF8 = .ok (.ld 8 9 (-1) .b false) ∧ decode 0x42C08016 = .ok (.st 12 1 2 .d)
      ∧ decode 0x44B80200 = .ok (.lda 11 16 .device .w) ∧ decode 0x44083201 = .ok (.str 16 12 .device .w)
      ∧ decode 0x46B84622 = .ok (.aor 11 16 17 .device .w .release)
      ∧ decode 0x46B84679 = .ok (.acas 11 16 17 .device .d .acqRel)
      ∧ decode 0x4A4E0004 = .ok (.vld 19 16 2) ∧ decode 0x4A002001 = .ok (.vst 0 1 0)
      ∧ decode 0x4C505020 = .ok (.vldx 1 32 .w 16 0x10) ∧ decode 0x4C180123 = .ok (.vstx 0 48 .b 1 0x11) := by decide
theorem test_decode_fence :
    decode 0x48040300 = .ok (.fence 0x02 0x01 .device) ∧ decode 0x48100200 = .ok (.fence 0x08 0x01 .thread)
      ∧ decode 0x48062040 = .ok (.fence 0x03 0x10 .core) ∧ decode 0x48810080 = .ok (.fence 0x40 0x80 .cluster)
      ∧ decode 0x49D60740 = .ok (.fence 0xEB 0x03 .system) := by decide
theorem test_decode_thread_and_message :
    decode 0x68B63400 = .ok (.help 11 12 13) ∧ decode 0x68B60001 = .ok (.hjoin 11 12) ∧ decode 0x68B00004 = .ok (.self 11)
      ∧ decode 0x68D60002 = .ok (.hitch 13 12) ∧ decode 0x6401C801 = .ok (.waitc 0 3 18)
      ∧ decode 0x640C6400 = .ok (.send 0 24 25) ∧ decode 0x6AB84400 = .ok (.enq 11 16 17) := by decide
theorem test_decode_page :
    decode 0x6C084400 = .ok (.tlbinv 16 17) ∧ decode 0x6C084401 = .ok (.freply 16 17) ∧ decode 0x6C000002 = .ok .replay
      ∧ decode 0x6CB84403 = .ok (.fbread 11 16 17) ∧ decode 0x6C080004 = .ok (.fbclr 16) := by decide
theorem test_decode_row :
    decode 0x80C9121B = .ok (.vadd 3 18 18 (.scalar 13)) ∧ decode 0x86100020 = .ok (.vfma 0 32 0 (.row 16))
      ∧ decode 0x90008004 = .ok (.vrcp 0 1 0) ∧ decode 0x92110001 = .ok (.vcmpf 0 .lt 2 0 (.scalar 0))
      ∧ decode 0x9420B015 = .ok (.vcmpi 0 .ltu 1 48 (.scalar 10)) ∧ decode 0x963060C2 = .ok (.viadd 0 96 96 (.row 97))
      ∧ decode 0xB1010002 = .ok (.vsel 4 2 0 (.row 1)) ∧ decode 0xB2018004 = .ok (.vperm 0 3 0 (.row 2))
      ∧ decode 0xB4202010 = .ok (.vcvt 0 64 32 .f8a) ∧ decode 0xB605A000 = .ok (.vred 0 .fsum 11 32)
      ∧ decode 0xB806130E = .ok (.vext 12 19 7) ∧ decode 0xB8098719 = .ok (.vins 19 7 12)
      ∧ decode 0xBA280002 = .ok (.vpackBf16 0 80 0 1) ∧ decode 0xBC100001 = .ok (.vmov 0 32 (.scalar 0)) := by decide
theorem test_decode_mask :
    decode 0xBE110C00 = .ok (.mand 1 2 3) ∧ decode 0xBEB10006 = .ok (.mpopc 11 2) ∧ decode 0xBE558008 = .ok (.mset 5 11) := by
  decide
theorem test_decode_engine :
    decode 0xC026B900 = .ok (.mma 2 13 14 false true) ∧ decode 0xC0000001 = .ok (.mzero 0) ∧ decode 0xC0078002 = .ok (.mst 0 15)
      ∧ decode 0xC0178003 = .ok (.mld 1 15) ∧ decode 0xC0000004 = .ok (.mwait 0) ∧ decode 0xC006B805 = .ok (.mchk 0 13 14 false false)
      ∧ decode 0xC2B6C000 = .ok (.rinit 11 13 16) ∧ decode 0xC2B6C401 = .ok (.rpush 11 13 17)
      ∧ decode 0xC2B6C202 = .ok (.rsub 11 13 16 true) ∧ decode 0xC2B68003 = .ok (.runsub 11 13)
      ∧ decode 0xC2B68004 = .ok (.rstat 11 13) ∧ decode 0xC4B00000 = .ok (.cpy 11) ∧ decode 0xC4D58001 = .ok (.cwait 13 11)
      ∧ decode 0xC4C58002 = .ok (.cstat 12 11) ∧ decode 0xC6B68000 = .ok (.sopen 11 13) ∧ decode 0xC6B6B801 = .ok (.spop 11 13 14)
      ∧ decode 0xC6B6B802 = .ok (.spush 11 13 14) := by decide
theorem test_decode_merge_list_halter :
    decode 0xC8B84400 = .ok (.mgopen 11 16 17) ∧ decode 0xC8B84401 = .ok (.mgpush 11 16 17) ∧ decode 0xC8B80002 = .ok (.mgend 11 16)
      ∧ decode 0xC8B84403 = .ok (.mgpop 11 16 17) ∧ decode 0xC8B84404 = .ok (.mgstat 11 16 17)
      ∧ decode 0xC8B80005 = .ok (.mgdrain 11 16) ∧ decode 0xCA084400 = .ok (.ilopen 0 16 17)
      ∧ decode 0xCB284C01 = .ok (.ilins 18 16 19) ∧ decode 0xCAB84402 = .ok (.ilsend 11 16 17) ∧ decode 0xCB480003 = .ok (.ilcut 20 16)
      ∧ decode 0xCAB84404 = .ok (.ilcomp 11 16 17) ∧ decode 0xCAB84405 = .ok (.ilread 11 16 17) ∧ decode 0xCAB80006 = .ok (.ilclose 11 16)
      ∧ decode 0xCAB80007 = .ok (.ilstat 11 16) ∧ decode 0xCCB80000 = .ok (.hnew 11 16) ∧ decode 0xCCC58001 = .ok (.hcopy 12 11)
      ∧ decode 0xCC058002 = .ok (.hdrop 11) ∧ decode 0xCCD5C403 = .ok (.hbind 13 11 17) ∧ decode 0xCCD58004 = .ok (.hwgt 13 11)
      ∧ decode 0xCCD58005 = .ok (.haddr 13 11) ∧ decode 0xCCB5B006 = .ok (.hmerge 11 11 12) := by decide
theorem test_decode_scene_and_lunge :
    decode 0xD0480040 = .ok (.boxt 1 16 0 32) ∧ decode 0xD2888060 = .ok (.trit 2 17 0 48) ∧ decode 0xD4090002 = .ok (.splt 0 18 0 1)
      ∧ decode 0xD6E050A2 = .ok (.edge 3 64 80 81) ∧ decode 0xD8301022 = .ok (.texl 0 96 16 17) ∧ decode 0xDA3864CA = .ok (.texd 0 112 100 101)
      ∧ decode 0x7000E448 = .ok (.lunge 0 7 17 1) ∧ decode 0x70006060 = .ok (.lunge 0 3 1 4) := by decide
/-- The words of Table 4-7 that decode to none. -/
theorem test_decode_illegal :
    (decode 0x02000010).isOk = false
      ∧ (decode 0x0C006000).isOk = false
      ∧ (decode 0x92150001).isOk = false
      ∧ (decode 0x92110041).isOk = false
      ∧ (decode 0xD0080040).isOk = false
      ∧ (decode 0x00000000).isOk = false
      ∧ (decode 0xFFFFFFFF).isOk = false := by decide
theorem test_encode :
    encode (.ld 12 1 2 .w true) = some 0x40C08015 ∧ encode (.vadd 3 18 18 (.scalar 13)) = some 0x80C9121B
      ∧ encode (.fence 0xEB 0x03 .system) = some 0x49D60740 ∧ encode (.hmerge 11 11 12) = some 0xCCB5B006
      ∧ encode (.lunge 0 3 1 4) = some 0x70006060 := by decide

/-! Ill-formed terms, one for each check. -/

def hdr32 : CmdHdr := ⟨0, 0, 32, 0, false, 0, 0⟩
def reads1 : CsrForm := ⟨.r, 8, 1⟩
theorem test_illformed_core :
    ∀ i ∈ [Instr.ld 8 9 0 .d true, .boxt 0 16 0 32, .illegal 0x0284A800, .csrr 8 0xFFF, .csrw 8 9 0xFFF, .csrs 8 9 0xFFF, .csrc 8 9 0xFFF,
        .csrwi 8 9 0xFFF], i.wellFormed = false := by decide
theorem test_illformed_csr_rows :
    ∀ i ∈ [Instr.csrWriteFrm ⟨.s, 8, 0⟩, .csrAccessFflags reads1, .csrReadCflags reads1, .csrWriteStatus ⟨.r, 8, 0⟩,
        .csrWriteWindow ⟨.r, 8, 0⟩ true, .csrWriteMfmt ⟨.c, 8, 0⟩, .csrWriteMerr ⟨.r, 8, 0⟩, .csrWriteDomain ⟨.r, 8, 0⟩,
        .csrWriteHpmcnt ⟨.r, 8, 0⟩ 0, .csrWriteOther ⟨.w, 8, 9⟩ 0x010], i.wellFormed = false := by decide
theorem test_illformed_engine_events :
    ∀ i ∈ [Instr.matOpRetire 2048, .loaderSlotLand 0 8, .storerSlotWritten 2048 0, .copyUnitDone 2048, .streamReadDone 0 4,
        .mergeAccept 128, .mergeEmit 0 4, .listEngineOperation 2048, .listArrival 2048, .halterHomeReply 0 11, .storeBufferDrain 0 11,
        .cflagsAccrual 128 0, .domainBarrierCompletion 16 0, .waittoExpiry 2048 0, .chkmaxExpiry 0 11], i.wellFormed = false := by decide
theorem test_illformed_device_events :
    ∀ i ∈ [Instr.pageWalkComplete 0 256, .mailboxCommand 4, .dealDecision 4, .kernelRetirement 16 0, .queueSwapComplete 4 0 0,
        .deadlockDeclaration 16, .encodeFrame 8, .harnessFlitReceive 0 ⟨1, 0, 0, 0, 0, 0, 0, [], 0⟩, .harnessNak 36 0, .laneLockLoss 36,
        .linkTrainingResult 0 5, .trainingRetryTimer 36, .smbusWriteOther 0x10 0xA5, .voltageDroop 4, .forwardedAccess 16 0 true ⟨0, .read 8⟩,
        .uetPacket 4 ⟨.rod, 0, 0, []⟩, .instructionCacheFill 128], i.wellFormed = false := by decide
theorem test_illformed_commands :
    ∀ i ∈ [Instr.typoroContextCreate hdr32 ⟨0, 0, 0, 0, 0, 0⟩, .typoroTeardown hdr32, .typoroPaddockDefine hdr32 [], .typoroMapMemory hdr32 [],
        .typoroUnmapMemory hdr32 [], .typoroCopyToDevice hdr32 0 [], .typoroCopyToHost hdr32 0 0, .typoroLaunch hdr32 0 0,
        .typoroQueueCreate hdr32 ⟨0, .card, 0, 0, 0, 0, 0, 0, 0⟩, .typoroQueueDestroy hdr32 0, .typoroQueuePin hdr32 0 true,
        .typoroPreempt hdr32, .typoroResume hdr32 0, .typoroGroupMove hdr32 0 0, .typoroEventRead hdr32 0 0, .typoroWsWindowOpen hdr32,
        .typoroWsWindowClose hdr32, .typoroLinkConfig hdr32 none [] [], .typoroRouteSet hdr32 0 none, .typoroEncoderSetup hdr32 0 [],
        .typoroAttestationQuote hdr32 [], .typoroPatchLoad hdr32 [], .typoroRepeatedCommand hdr32, .typoroBadCommand hdr32 0],
      i.wellFormed = false := by decide

/-! One word for every constructor not named above, from its match word and fields in the operation table. -/

theorem test_decode_table1 :
    decode 0x03553001 = .ok (.sub 21 10 12) ∧ decode 0x03553002 = .ok (.and 21 10 12)
      ∧ decode 0x03553003 = .ok (.or 21 10 12) ∧ decode 0x03553004 = .ok (.xor 21 10 12)
      ∧ decode 0x03553005 = .ok (.sll 21 10 12) ∧ decode 0x03553006 = .ok (.srl 21 10 12)
      ∧ decode 0x03553007 = .ok (.sra 21 10 12) ∧ decode 0x03553008 = .ok (.slt 21 10 12)
      ∧ decode 0x03553009 = .ok (.sltu 21 10 12) ∧ decode 0x0355300A = .ok (.seq 21 10 12)
      ∧ decode 0x0355300B = .ok (.min 21 10 12) ∧ decode 0x0355300C = .ok (.max 21 10 12)
      ∧ decode 0x0355300D = .ok (.minu 21 10 12) ∧ decode 0x0355300E = .ok (.maxu 21 10 12)
      ∧ decode 0x0355300F = .ok (.andn 21 10 12) ∧ decode 0x07557B2E = .ok (.andi 21 10 (-1234)) := by decide
theorem test_decode_table2 :
    decode 0x09557B2E = .ok (.ori 21 10 (-1234)) ∧ decode 0x0B557B2E = .ok (.xori 21 10 (-1234))
      ∧ decode 0x0D552025 = .ok (.srli 21 10 37) ∧ decode 0x0D554025 = .ok (.srai 21 10 37)
      ∧ decode 0x0F557B2E = .ok (.slti 21 10 (-1234)) ∧ decode 0x1B557B2E = .ok (.sltiu 21 10 (-1234))
      ∧ decode 0x11553000 = .ok (.mul 21 10 12) ∧ decode 0x11553001 = .ok (.mulh 21 10 12)
      ∧ decode 0x11553002 = .ok (.mulhu 21 10 12) ∧ decode 0x11553004 = .ok (.divu 21 10 12)
      ∧ decode 0x11553005 = .ok (.rem 21 10 12) ∧ decode 0x11553006 = .ok (.remu 21 10 12)
      ∧ decode 0x155FFFF7 = .ok (.aupc 21 (-9)) ∧ decode 0x17550000 = .ok (.clz 21 10) ∧ decode 0x17550001 = .ok (.ctz 21 10)
      ∧ decode 0x17550002 = .ok (.popc 21 10) := by decide
theorem test_decode_table3 :
    decode 0x17550003 = .ok (.brev 21 10) ∧ decode 0x17550004 = .ok (.sextb 21 10) ∧ decode 0x17550005 = .ok (.sexth 21 10)
      ∧ decode 0x17550006 = .ok (.sextw 21 10) ∧ decode 0x17550007 = .ok (.zextw 21 10)
      ∧ decode 0x19553001 = .ok (.fsub 21 10 12) ∧ decode 0x19553002 = .ok (.fmul 21 10 12)
      ∧ decode 0x19553003 = .ok (.fdiv 21 10 12) ∧ decode 0x19553004 = .ok (.fmin 21 10 12)
      ∧ decode 0x19553005 = .ok (.fmax 21 10 12) ∧ decode 0x19553006 = .ok (.feq 21 10 12)
      ∧ decode 0x19553007 = .ok (.flt 21 10 12) ∧ decode 0x19553008 = .ok (.fle 21 10 12)
      ∧ decode 0x19550009 = .ok (.fcvtif 21 10) ∧ decode 0x1955000A = .ok (.fcvtfi 21 10)
      ∧ decode 0x1955000B = .ok (.fsqrt 21 10) := by decide
theorem test_decode_table4 :
    decode 0x1955300C = .ok (.fma 21 10 12) ∧ decode 0x1955000D = .ok (.fclass 21 10)
      ∧ decode 0x21557FFB = .ok (.beq 21 10 (-5)) ∧ decode 0x25557FFB = .ok (.blt 21 10 (-5))
      ∧ decode 0x27557FFB = .ok (.bge 21 10 (-5)) ∧ decode 0x29557FFB = .ok (.bltu 21 10 (-5))
      ∧ decode 0x2B557FFB = .ok (.bgeu 21 10 (-5)) ∧ decode 0x2CD07FFB = .ok (.bmnone 5 (-5))
      ∧ decode 0x2D507FFB = .ok (.bmall 5 (-5)) ∧ decode 0x31FFFFFA = .ok (.call (-6)) ∧ decode 0x320A8000 = .ok (.jr 21)
      ∧ decode 0x320A8001 = .ok (.callr 21) ∧ decode 0x475531E0 = .ok (.aadd 21 10 12 .die .d .release)
      ∧ decode 0x475531E1 = .ok (.aand 21 10 12 .die .d .release) ∧ decode 0x475531E3 = .ok (.axor 21 10 12 .die .d .release)
      ∧ decode 0x475531E4 = .ok (.amin 21 10 12 .die .d .release) := by decide
theorem test_decode_table5 :
    decode 0x475531E5 = .ok (.amax 21 10 12 .die .d .release) ∧ decode 0x475531E6 = .ok (.aminu 21 10 12 .die .d .release)
      ∧ decode 0x475531E7 = .ok (.amaxu 21 10 12 .die .d .release)
      ∧ decode 0x475531E8 = .ok (.aswp 21 10 12 .die .d .release) ∧ decode 0x475531AA = .ok (.afadd 21 10 12 .die .release)
      ∧ decode 0x61500100 = .ok (.csrr 21 0x020) ∧ decode 0x61550102 = .ok (.csrs 21 10 0x020)
      ∧ decode 0x61550103 = .ok (.csrc 21 10 0x020) ∧ decode 0x65598002 = .ok (.cntr 21 19)
      ∧ decode 0x6559A803 = .ok (.cntadd 21 19 10) ∧ decode 0x65553004 = .ok (.rkmap 21 10 12)
      ∧ decode 0x65553005 = .ok (.rkmove 21 10 12) ∧ decode 0x660AA800 = .ok (.barinit 21 10)
      ∧ decode 0x67550001 = .ok (.bararr 21 10) ∧ decode 0x660AA802 = .ok (.barwait 21 10)
      ∧ decode 0x67550003 = .ok (.barsync 21 10) := by decide
theorem test_decode_table6 :
    decode 0x67550004 = .ok (.barq 21 10) ∧ decode 0x69500003 = .ok (.unhitch 21) ∧ decode 0x6B553001 = .ok (.qres 21 10 12)
      ∧ decode 0x6B553003 = .ok (.tlink 21 10 12) ∧ decode 0x6B553004 = .ok (.launch 21 10 12)
      ∧ decode 0x6B550005 = .ok (.kwait 21 10) ∧ decode 0x6B553006 = .ok (.qpin 21 10 12)
      ∧ decode 0x836AAA1B = .ok (.vsub 5 85 42 (.scalar 13)) ∧ decode 0x856AAA1B = .ok (.vmul 5 85 42 (.scalar 13))
      ∧ decode 0x896AAA1B = .ok (.vfms 5 85 42 (.scalar 13)) ∧ decode 0x8B6AAA1B = .ok (.vfnma 5 85 42 (.scalar 13))
      ∧ decode 0x8D6AAA1B = .ok (.vmin 5 85 42 (.scalar 13)) ∧ decode 0x8F6AAA1B = .ok (.vmax 5 85 42 (.scalar 13))
      ∧ decode 0x916AAA00 = .ok (.vabs 5 85 42) ∧ decode 0x916AAA02 = .ok (.vneg 5 85 42)
      ∧ decode 0x916AAA06 = .ok (.vrsq 5 85 42) := by decide
theorem test_decode_table7 :
    decode 0x916AAA08 = .ok (.vexp2 5 85 42) ∧ decode 0x916AAA0A = .ok (.vlog2 5 85 42)
      ∧ decode 0x916AAA0C = .ok (.vsqrt 5 85 42) ∧ decode 0x916AAA0E = .ok (.vflr 5 85 42)
      ∧ decode 0x916AAA10 = .ok (.vceil 5 85 42) ∧ decode 0x916AAA12 = .ok (.vrndn 5 85 42)
      ∧ decode 0x996AAA1B = .ok (.visub 5 85 42 (.scalar 13)) ∧ decode 0x9B6AAA1B = .ok (.vimul 5 85 42 (.scalar 13))
      ∧ decode 0x9D6AAA1B = .ok (.vand 5 85 42 (.scalar 13)) ∧ decode 0x9F6AAA1B = .ok (.vor 5 85 42 (.scalar 13))
      ∧ decode 0xA16AAA1B = .ok (.vxor 5 85 42 (.scalar 13)) ∧ decode 0xA36AAA1B = .ok (.vshl 5 85 42 (.scalar 13))
      ∧ decode 0xA56AAA1B = .ok (.vshr 5 85 42 (.scalar 13)) ∧ decode 0xA76AAA1B = .ok (.vshra 5 85 42 (.scalar 13))
      ∧ decode 0xA96AAA1B = .ok (.vimin 5 85 42 (.scalar 13)) ∧ decode 0xAB6AAA1B = .ok (.vimax 5 85 42 (.scalar 13)) := by decide
theorem test_decode_table8 :
    decode 0xAD6AAA1B = .ok (.viminu 5 85 42 (.scalar 13)) ∧ decode 0xAF6AAA1B = .ok (.vimaxu 5 85 42 (.scalar 13))
      ∧ decode 0xBB6AAAC7 = .ok (.vpackF16 5 85 42 99) ∧ decode 0xBE511801 = .ok (.mor 5 2 6)
      ∧ decode 0xBE511802 = .ok (.mxor 5 2 6) ∧ decode 0xBE511803 = .ok (.mandn 5 2 6) ∧ decode 0xBE510004 = .ok (.mnot 5 2)
      ∧ decode 0xBE510005 = .ok (.mmov 5 2) ∧ decode 0xBF528007 = .ok (.mfirst 21 5) ∧ decode 0xBF528009 = .ok (.mget 21 5)
      ∧ decode 0x6A000002 = .ok .trig := by decide

set_option maxRecDepth 20000

/-! Small results, from the manual's examples. -/

/-- Context 0 is ACTIVE on paddock 0 with cluster 0; slot 0 of core 0 is READY in it with registers and CSRs. -/
def on (regs : List (Reg × Word)) (csrs : List (Nat × Word)) : State :=
  let t := regs.foldl (fun t r => t.setReg r.1 r.2) { Thread.reset with state := .ready }
  let t := csrs.foldl (fun t c => t.setCsr c.1 c.2) t
  let s := State.reset.updCtx 0 (fun x => { x with state := .active, paddock := some 0, clusters := [0] })
  { s with paddocks := [⟨[0], .occupied, 0⟩], cores := [(0, { Core.reset with threads := [(0, t)], group := some (0, 0) })] }
/-- The same in supervisor mode. -/
def sup (regs : List (Reg × Word)) : State := on regs [(0, 1)]
/-- The state after an instruction. -/
def after (i : Instr) (s : State) : State :=
  match exec i s with
  | .next t => t
  | .fault _ => s
  | .refused _ => s

def ds (i : Instr) (a b : Word) : Word := (after i (on [(12, a), (13, b)] [])).reg 11

/-- The table under R71. -/
theorem test_div : ds (.div 11 12 13) (-7) 2 = -3 ∧ ds (.div 11 12 13) 5 0 = -1
    ∧ ds (.div 11 12 13) 0x8000000000000000 (-1) = 0x8000000000000000 := by decide
theorem test_rem : ds (.rem 11 12 13) (-7) 2 = -1 ∧ ds (.rem 11 12 13) 5 0 = 5 ∧ ds (.rem 11 12 13) 0x8000000000000000 (-1) = 0 := by
  decide
theorem test_divu : ds (.divu 11 12 13) (-7) 2 = 0x7FFFFFFFFFFFFFFC ∧ ds (.divu 11 12 13) 5 0 = -1 := by decide
theorem test_remu : ds (.remu 11 12 13) (-7) 2 = 1 ∧ ds (.remu 11 12 13) 0x8000000000000000 (-1) = 0x8000000000000000 := by decide
/-- R73 and Table 4-7: lup w0, 0x12 gives 0x0009_0000. -/
theorem test_lup : (after (.lup 8 0x12) (on [] [])).reg 8 = 0x90000 := by decide
theorem test_add_wraps : ds (.add 11 12 13) (-1) 2 = 1 ∧ ds (.sub 11 12 13) 0 1 = -1 := by decide
theorem test_sra : ds (.sra 11 12 13) (-8) 65 = -4 := by decide
theorem test_mulh : ds (.mulh 11 12 13) (-1) (-1) = 0 ∧ ds (.mulhu 11 12 13) (-1) (-1) = -2 := by decide
theorem test_slt : ds (.slt 11 12 13) (-1) 0 = 1 ∧ ds (.sltu 11 12 13) (-1) 0 = 0 := by decide
theorem test_clz : ds (.clz 11 12) 0 0 = 64 ∧ ds (.clz 11 12) 1 0 = 63 ∧ ds (.ctz 11 12) 8 0 = 3 := by decide
theorem test_sext : ds (.sextb 11 12) 0x80 0 = -128 ∧ ds (.zextw 11 12) (-1) 0 = 0xFFFFFFFF := by decide
theorem test_g0_discards : (after (.add 0 12 13) (on [(12, 1), (13, 2)] [])).reg 0 = 0 := by decide
/-- R33's example: VRCP of 3.0 keeps fraction 01010101011 over 12 zero bits. -/
theorem test_vrcp : (vrcpBits 0x40400000).1 = 0x3EAAB000 := by decide
/-- Under R32: 455.0 converts to 448 in F8A with NX only. -/
theorem test_f8a : cvtF8A .rne 0x43E38000 = (0x7E, flagNX) := by decide
theorem test_fadd_flags : faddBits .rne 0x7F800000 0xFF800000 = (0x7FC00000, flagNV) := by decide
theorem test_fdiv_by_zero : fdivBits .rne 0x3F800000 0 = (0x7F800000, flagDZ) := by decide
/-- R67: a call moves the window by 16 and links in w7. -/
theorem test_call : let t := after (.call 4) (on [] []); (t.me.pc, t.me.wptr, t.me.resident, t.reg 15) = (16, 16, 2, 4) := by decide
/-- R65, R82: TRAP goes to TVEC with CAUSE, EPC and TVAL. -/
theorem test_trap : let t := after (.trap 12) (on [(12, 7)] [(4, 0x100)])
    (t.me.pc, t.me.csr 1, t.me.csr 3, t.me.intrap) = (0x100, 15, 7, true) := by decide
theorem test_eret : let t := after .eret (on [] [(0, 0x7), (2, 0x40)]); (t.me.pc, t.me.sup, t.me.intrap) = (0x40, true, false) := by
  decide
theorem test_exit : (after (.exit 12) (on [(12, 9)] [])).me.state = .done 9 := by decide
theorem test_wfe_waits : (after .wfe (on [] [])).me.state.live = true ∧ (after .wfe (on [] [])).me.pc = 0 := by decide
/-- R28: 5 to 7 are no rounding modes. -/
theorem test_frm_illegal : let t := after (.csrwi 0 5 0x010) (on [] [(4, 0x100)]); (t.me.pc, t.me.csr 1) = (0x100, 1) := by decide
/-- A store is read back by the core that made it, in supervisor mode with no region in force (R134, R159). -/
theorem test_st_ld : let t := after (.st 12 13 0 .w) (sup [(12, 0x80000001), (13, 0xFFFFFFFFFFF00100)])
    (after (.ld 11 13 0 .w true) t).reg 11 = 0xFFFFFFFF80000001 := by decide
theorem test_ld_misaligned : let t := after (.ld 11 13 0 .w true) (on [(13, 0xFFFFFFFFFFF00102)] [(4, 0x100)])
    (t.me.pc, t.me.csr 1, t.me.csr 3) = (0x100, 2, 0xFFFFFFFFFFF00102) := by decide
theorem test_amax : let t := after (.st 12 13 0 .d) (sup [(12, -1), (13, 0xFFFFFFFFFFF00100), (14, 5)])
    let u := after (.amax 11 13 14 .core .d .relaxed) t
    (u.reg 11, (after (.ld 11 13 0 .d false) u).reg 11) = (-1, 5) := by decide
theorem test_cntadd : let t := after (.cntadd 11 3 12) (on [(12, 2)] []); (t.reg 11, (after (.cntr 11 3) t).reg 11) = (0, 2) := by decide
theorem test_waitc_waits : (after (.waitc 11 3 12) (on [(12, 1)] [])).me.state ≠ .ready := by decide
theorem test_bar_of_one : let s := after (.barinit 12 13) (on [(12, 3), (13, 1)] [])
    (after (.bararr 11 12) s).reg 11 = 0 ∧ (after (.barq 11 12) (after (.bararr 11 12) s)).reg 11 = 0x120001000 := by decide
theorem test_mask : ((after (.mnot 1 0) (on [] [])).mask 1, (after (.mnot 0 0) (on [] [])).mask 0) = (0, 0xFFFF) := by decide
theorem test_vins : let t := after (.vins 19 7 12) (on [(12, 5)] []); (t.row 19).lane 7 = 5 ∧ (t.row 19).lane 6 = 0 := by decide
theorem test_hwgt_null : (after (.hwgt 11 12) (on [] [])).reg 11 = -1 := by decide
theorem test_priv : let t := after .replay (on [] [(4, 0x100)]); (t.me.csr 1, t.me.csr 3) = (16, 0x6C000002) := by decide
theorem test_self : (after (.self 11) (on [] [])).reg 11 = (on [] []).selfWord := by decide
/-- The published check value of CRC-32C: the nine bytes of "123456789" (R325; log entry 30). -/
theorem test_crc32c : crc32c [0x31, 0x32, 0x33, 0x34, 0x35, 0x36, 0x37, 0x38, 0x39] = 0xE3069283 := by decide +kernel

end Sys2Proof.Tests
end

