-- ==== Sys2Proof/Tests/Witness1.lean ====
section
/-! SUPPORT. Witnesses, first part: for each statement with hypotheses, states and operands that meet them, clause by clause. -/

namespace Sys2Proof.Tests

open Sys2Proof Sys2Proof.Machine Sys2Proof.Safety

set_option maxRecDepth 20000

/-- Bytes in the running core's local memory. -/
def loc (o : Nat) (bs : List Byte) (s : State) : State := s.updMyCore (fun k => { k with mem := k.mem.write o bs })
/-- Bytes in HBM. -/
def hbmAt (o : Nat) (bs : List Byte) (s : State) : State := { s with hbm := s.hbm.write o bs }
/-- Context 0's page at 0, with every right, in cluster 0's TLB. -/
def paged (s : State) : State :=
  s.updCluster 0 (fun c => { c with l1 := [⟨0, 0, 65536, .hbm, 0, true, true, true, true, true, false, none⟩] })
def dwords (l : List Word) : List Byte := l.flatMap wordBytes
/-- The local address of an offset. -/
def la (o : Nat) : Word := localAddr o
/-- What a local block reads. -/
def rl (s : State) (o n : Nat) : List Byte := s.loadBytes s.cur.core (.loc o) n

theorem witness_canonicalNan :
    f32Nan (faddBits .rne 0x7F800000 0xFF800000).1 = true ∧ f32Nan (fsubBits .rne 0x7F800000 0x7F800000).1 = true
      ∧ f32Nan (fmulBits .rne 0 0x7F800000).1 = true ∧ f32Nan (fdivBits .rne 0 0).1 = true
      ∧ f32Nan (ffmaBits .rne 0x7F800000 0 0x3F800000).1 = true ∧ f32Nan (fsqrtBits .rne 0xBF800000).1 = true
      ∧ f32Nan (fminBits 0x7F800001 0xFFC00000).1 = true ∧ f32Nan (fmaxBits 0x7F800001 0xFFC00000).1 = true
      ∧ f32Nan 0xFF800001 = true := by decide
/-- 1 and 1.5 are finite, and so are their sum and their quotient's operands; 1 - 1 is an exact zero. -/
theorem witness_roundedOnce : f32Number 0x3F800000 ∧ f32Number 0x3FC00000 ∧ f32Value 0x3F800000 = 1 ∧ f32Value 0x3FC00000 = 3 / 2
    ∧ f32Value 0xBF800000 = -1 ∧ f32Value 0 = 0 := by
  refine ⟨by unfold f32Number; decide, by unfold f32Number; decide, ?_, ?_, ?_, ?_⟩
  · rw [show f32Value 0x3F800000 = 1 * (((2 ^ 23 + 0 : ℕ) : ℚ) * 2 ^ 127 / 2 ^ 150) from rfl]; norm_num
  · rw [show f32Value 0x3FC00000 = 1 * (((2 ^ 23 + 4194304 : ℕ) : ℚ) * 2 ^ 127 / 2 ^ 150) from rfl]; norm_num
  · rw [show f32Value 0xBF800000 = -1 * (((2 ^ 23 + 0 : ℕ) : ℚ) * 2 ^ 127 / 2 ^ 150) from rfl]; norm_num
  · rw [show f32Value 0 = 1 * (((0 : ℕ) : ℚ) / 2 ^ 149) from rfl]; norm_num
theorem witness_compareConditions : (f32Nan 0x7F800001 = true ∨ f32Nan 0 = true) ∧ f32Nan 0x80000000 = false ∧ f32Nan 0x7F800000 = false := by
  decide
theorem witness_minMaxOrder : f32Nan 0x7FC00000 = true ∧ f32Nan 0xFF800001 = true ∧ f32Nan 0 = false ∧ f32Nan 0xFF800000 = false := by
  decide

theorem witness_csrInstructions : (storedCsr 0x004 ∧ (csrSup 0x004 = true → (on [] []).me.sup = true))
    ∧ (storedCsr 0x051 ∧ (csrSup 0x051 = true → (sup []).me.sup = true)) := by
  unfold storedCsr; decide
/-- HPMSEL3 (0x073) and PROT1's limit (0x093) are the core's own; a timing event is selected in the second state. -/
theorem witness_csrCore : csrListed 0x073 = true ∧ csrOfCore 0x073 = true ∧ (csrSup 0x073 = true → (sup []).me.sup = true)
    ∧ csrListed 0x093 = true ∧ csrOfCore 0x093 = true ∧ (csrSup 0x093 = true → (sup []).me.sup = true)
    ∧ hpmTiming ((sup []).myCore.csr 0x073).toNat = false
    ∧ hpmTiming (((sup []).updMyCore (·.setCsr 0x073 0x01)).myCore.csr 0x073).toNat = true := by decide
/-- Core 0 is rank 6 in a context with an entry before it, and no rank without entries. -/
theorem witness_csrReads : let s := (sup []).updCtx 0 (fun x => { x with ranks := [(5, mkRank 1 0), (6, mkRank 0 0), (7, mkRank 0 0)] })
    s.myCtx.ranks = [(5, mkRank 1 0)] ++ (6, mkRank 0 0) :: [(7, mkRank 0 0)] ∧ rankV (mkRank 0 0) = true ∧ rankDev (mkRank 0 0) = s.devNum
      ∧ rankCore (mkRank 0 0) = s.cur.core
      ∧ (∀ p ∈ [(5, mkRank 1 0)], ¬ (rankV p.2 = true ∧ rankDev p.2 = s.devNum ∧ rankCore p.2 = s.cur.core))
      ∧ (∀ p ∈ (sup []).myCtx.ranks, ¬ (rankV p.2 = true ∧ rankDev p.2 = 0 ∧ rankCore p.2 = 0))
      ∧ hpmTiming ((sup []).myCore.csr 0x070).toNat = false := by decide
theorem witness_csrReadOnly : csrListed 0x080 = true ∧ csrRo 0x080 = true ∧ (csrSup 0x080 = true → (on [] []).me.sup = true) := by decide
/-- FRM 4 and 5 are the ends of its two ranges. -/
theorem witness_csrRows : bits 4 2 0 ≤ 4 ∧ 5 ≤ bits 5 2 0 ∧ (sup []).me.sup = true ∧ (on [] []).me.sup = false
    ∧ (0#64).getLsbD 1 = ((on [] []).me.csr 0).getLsbD 1 ∧ (2#64).getLsbD 1 ≠ ((on [] []).me.csr 0).getLsbD 1
    ∧ mfmtOk (masked 0x030 ((on [] []).me.csr 0x030) 0x33) ∧ ¬ mfmtOk (masked 0x030 ((on [] []).me.csr 0x030) (-1))
    ∧ (on [] []).domainWritable (on [] []).cur (masked 0x040 ((on [] []).me.csr 0x040) 1) = true
    ∧ masked 0x040 ((on [] []).me.csr 0x040) 1 ≠ (on [] []).me.csr 0x040
    ∧ bits ((on [] []).myCore.csr 0x078) 63 48 = 0
    ∧ bits ((on [] []).me.csr 0x010 ||| 4) 2 0 ≤ 4 ∧ 5 ≤ bits ((on [] []).me.csr 0x010 ||| 5) 2 0
    ∧ bits ((on [] []).me.csr 0x010 &&& ~~~1#64) 2 0 ≤ 4 := by decide
theorem witness_csrRows_other : storedCsr 0x004 ∧ (csrSup 0x004 = true → (on [] []).me.sup = true) := by unfold storedCsr; decide

theorem witness_csrRows_forms : ((CsrOp.c = .s ∨ CsrOp.c = .c) ∧ (0 : Reg) = 0) ∧ CsrOp.wi ≠ .r ∧ (CsrOp.s = .s ∨ CsrOp.s = .c → (12 : Reg) ≠ 0)
    ∧ 0x030#12 ∈ [0x000#12, 0x010#12, 0x011#12, 0x030#12, 0x040#12] ∧ hpmTiming 0x19 = true ∧ hpmTiming 0x1A = false := by decide

/-- The threshold is one below the count, then one above it; a release of the core's event area is possible with no event. -/
theorem witness_counters : (∀ p ∈ (on [] []).ctxs, p.2.evWait = []) ∧ ((on [] []).myCore.counter 31 - 0xFFFFFFFF).toNat < 2 ^ 31
    ∧ ((on [] []).myCore.counter 31 - 0x80000001).toNat < 2 ^ 31 ∧ 2 ^ 31 ≤ ((on [] []).myCore.counter 31 - 1).toNat
    ∧ 2 ^ 31 ≤ ((on [] []).myCore.counter 31 - 0x80000000).toNat := by decide

/-- A SEND of 16 bytes from 0x200 to 0x300; rank 5 is core 0 of device 0; `d` is word 1 of the descriptor, `r` register 12. -/
def sends (d r : Word) : State :=
  (loc 0x100 (dwords [0x30000000200, d]) (sup [(12, r), (13, la 0x100)])).updCtx 0
    (fun x => { x with ranks := [(5, mkRank 0 0), (6, mkRank 1 0 ||| (1#64 <<< 62))] })
theorem witness_send_desc (d r : Word) (h : ∃ p, (sends d r).check (sends d r).cur ((sends d r).reg 13) 16 16 .read = .ok p
    ∧ (sends d r).meetsBad (sends d r).cur.core p 16 = false ∧ rl (sends d r) 0x100 16 = (sends d r).loadBytes (sends d r).cur.core p 16) (h' : (sends d r).reg 13 = la 0x100) :
    ReadsLocal (sends d r) ((sends d r).reg 13) 16 16 (rl (sends d r) 0x100 16) := by
  refine ⟨?_, ?_, ?_, h⟩ <;> rw [h'] <;> decide
theorem witness_send_bad : badDesc (dwordAt (rl (sends 0 5) 0x100 16) 0) (dwordAt (rl (sends 0 5) 0x100 16) 8) = true
    ∧ ReadsLocal (sends 0 5) ((sends 0 5).reg 13) 16 16 (rl (sends 0 5) 0x100 16) :=
  ⟨by decide, witness_send_desc 0 5 ⟨.loc 0x100, by decide, by decide, rfl⟩ (by decide)⟩
theorem witness_send_rank : badDesc (dwordAt (rl (sends 16 7) 0x100 16) 0) (dwordAt (rl (sends 16 7) 0x100 16) 8) = false
    ∧ rankV ((sends 16 7).myCtx.rank (bits ((sends 16 7).reg 12) 15 0)) = false ∧ bits ((sends 16 0x10005).reg 12) 63 16 ≠ 0
    ∧ ReadsLocal (sends 16 7) ((sends 16 7).reg 13) 16 16 (rl (sends 16 7) 0x100 16) :=
  ⟨by decide, by decide, by decide, witness_send_desc 16 7 ⟨.loc 0x100, by decide, by decide, rfl⟩ (by decide)⟩
theorem witness_send : let s := sends 0x1F010010 6
    badDesc (dwordAt (rl s 0x100 16) 0) (dwordAt (rl s 0x100 16) 8) = false ∧ bits (s.reg 12) 63 16 = 0
      ∧ rankV (s.myCtx.rank (s.reg 12).toNat) = true ∧ rankT (s.myCtx.rank (s.reg 12).toNat) = true
      ∧ s.heldFor s.me.ctx (s.reg 12).toNat (dieOf s.cur.core) < 64
      ∧ s.sendCheck (bits (dwordAt (rl s 0x100 16) 0) 31 0) (bits (dwordAt (rl s 0x100 16) 8) 12 0) ((dwordAt (rl s 0x100 16) 8).getLsbD 16) = none
      ∧ ReadsLocal s (s.reg 13) 16 16 (rl s 0x100 16) :=
  ⟨by decide, by decide, by decide, by decide, by decide, by decide, witness_send_desc _ _ ⟨.loc 0x100, by decide, by decide, rfl⟩ (by decide)⟩
/-- Slot 0's user may not read 0x200: PROT; may read and not write with halters: PROT; may write, but a lock covers it: RANGE. -/
theorem witness_sendTraps :
    let a := (localAddr 0x200).toNat
    let k := (sends 0x10010 5).myCore
    let deny := { k with csrs := (k.csrs.set 0x090 0).set 0x092 0 }
    let ro := { k with csrs := (k.csrs.set 0x090 0xFFFFFFFFFFF0000D).set 0x091 0xFFFFFFFFFFF80000 }
    let locked := k.addRange false (a + 8) (a + 16) 3
    (deny.protRefused true a 16 true false = some a) ∧ (ro.protRefused true a 16 true false = none ∧ ro.protRefused true a 16 false true = some a)
      ∧ locked.protRefused false a 16 true false = none ∧ locked.protRefused false a 16 false true = none
      ∧ locked.rangeHit a 16 true = some (a + 8) := by decide
/-- The operand block lies outside local memory, is misaligned, is refused, and is locked. -/
theorem witness_sendBlock : let k := (sends 16 5).myCore; let ea := la 0x100
    ¬ ((0xFFFFFFFFFFF80000#64).toNat + 16 ≤ localBase.toNat + localBytes) ∧ (la 0x108).toNat % 16 ≠ 0 ∧ ea.toNat % 16 = 0
      ∧ localBase.toNat ≤ ea.toNat ∧ ea.toNat + 16 ≤ localBase.toNat + localBytes
      ∧ ({ k with csrs := (k.csrs.set 0x090 0).set 0x092 0 }).protRefused true ea.toNat 16 true false = some ea.toNat
      ∧ k.protRefused false ea.toNat 16 true false = none
      ∧ (k.addRange true (ea.toNat + 8) (ea.toNat + 16) 3).rangeHit ea.toNat 16 false = some (ea.toNat + 8) := by decide
/-- 64 messages are held for rank 6. -/
theorem witness_sendWaits : let s := sends 16 6
    let s : State := { s with msgs := List.replicate 64 ⟨0, 0, 0, ⟨0, 0⟩, 0, 6, 0, 0, .send 0 0 [], 0, true⟩ }
    rankT (s.myCtx.rank (s.reg 12).toNat) = true ∧ 64 ≤ s.heldFor s.me.ctx (s.reg 12).toNat (dieOf s.cur.core) := by decide
theorem witness_ranks : let s := (sup [(12, 6), (13, mkRank 1 3), (14, 3)]).updCtx 0 (fun x => { x with ranks := [(6, 3#64 <<< 62)] })
    s.me.sup = true ∧ Fresh s ∧ bits (s.reg 12) 63 16 = 0 ∧ rankReserved (s.reg 13) = false
      ∧ (rankT (s.reg 13) = true → s.release.onTheWay s.me.ctx (s.reg 12).toNat (s.myCtx.rank (s.reg 12).toNat) = false)
      ∧ bits (s.reg 14) 63 24 = 0 ∧ bits (s.reg 14) 15 11 = 0 ∧ rankT (s.myCtx.rank (s.reg 12).toNat) = true := by unfold Fresh; decide

/-- A message to rank 6 is on its way, and the new entry is in transit. -/
theorem witness_rankWaits : let s := (sup [(12, 6), (13, 3#64 <<< 62)])
    let s : State := { s with msgs := [⟨0, 0, 0, ⟨0, 0⟩, 0, 6, 0, 3, .send 0 0 [], 0, false⟩] }
    rankReserved (s.reg 13) = false ∧ rankT (s.reg 13) = true
      ∧ s.release.onTheWay s.me.ctx (s.reg 12).toNat (s.myCtx.rank (s.reg 12).toNat) = true := by decide
/-- The RKMAP that waited is issued again when they have landed. -/
theorem witness_rankLanded : let s := (sup [(12, 6), (13, 3#64 <<< 62)]).updMe (fun t => { t with woke := some (.landing 6 0, 0) })
    s.me.waitOf = some (.landing 6 0) ∧ s.onTheWay s.me.ctx 6 0 = false := by decide

/-- Barrier 3 is OPEN for slots 0 and 1; slot 0 runs. -/
def barred (n m : Word) (arrived : BitVec 11) : State :=
  (on [(12, n), (13, m)] []).updMyCore (·.setBar 3 ⟨true, 3, arrived, 7⟩)
theorem witness_barinit : (barred 39 0x7FF 0).reg 12 = 39 ∧ bits ((barred 39 0x7FF 0).reg 13) 63 11 = 0
    ∧ ((barred 3 0 0).myCore.bar ((barred 3 0 0).reg 12).toNat).arrived = 0 ∧ bits ((barred 47 3 0).reg 13) 63 11 = 0 := by decide
theorem witness_bararr : let s := barred 3 0 2; let o := s.myCore.bar (s.reg 12).toNat
    (s.reg 12).toNat ≤ 39 ∧ o.isOpen = true ∧ o.members.getLsbD s.cur.slot = true ∧ o.arrived.getLsbD s.cur.slot = false
      ∧ Fresh s ∧ o.arrived ||| (1#11 <<< s.cur.slot) = o.members
      ∧ ((barred 3 0 0).myCore.bar 3).arrived ||| (1#11 <<< 0) ≠ ((barred 3 0 0).myCore.bar 3).members := by unfold Fresh; decide
/-- Generation 6 has completed where G is 7, and 7 has not. -/
theorem witness_barwait : ((barred 3 6 0).myCore.bar 3).g - ((barred 3 6 0).reg 13).setWidth 32 - 1 = 0
    ∧ 2 ^ 31 ≤ (((barred 3 7 0).myCore.bar 3).g - ((barred 3 7 0).reg 13).setWidth 32 - 1).toNat := by decide
theorem witness_barsync_woken : let s := (barred 3 0 0).updMe (fun t => { t with woke := some (.barSync 3 7, 0) })
    s.me.state = .ready ∧ s.me.woke = some (.barSync 3 7, 0) := by decide
theorem witness_barwait_woken : let s := (barred 3 6 0).updMe (fun t => { t with woke := some (.barrier 3 6, 0) })
    s.me.woke = some (.barrier (s.reg 12).toNat ((s.reg 13).setWidth 32), 0) := by decide
/-- Reserved bits; arrivals; a non-member; a second arrival. -/
theorem witness_bar_refusals : bits ((barred 3 0x800 0).reg 13) 63 11 ≠ 0
    ∧ ((barred 3 0 2).myCore.bar 3).isOpen = true ∧ ((barred 3 0 2).myCore.bar 3).arrived ≠ 0
    ∧ ({ barred 3 0 0 with cur := ⟨0, 2⟩ }.myCore.bar 3).members.getLsbD 2 = false
    ∧ ((barred 3 0 1).myCore.bar 3).arrived.getLsbD (barred 3 0 1).cur.slot = true
    ∧ (after (.bararr 11 12) (on [(12, 40)] [])).domainArrived ⟨0, 0⟩ = true := by decide
theorem witness_domainWait : let g := (on [(12, 40)] []).myCtx.domainGen ((on [(12, 40)] []).domainKey ⟨0, 0⟩ 0)
    (g - (g - 1) - 1).toNat < 2 ^ 31 ∧ 2 ^ 31 ≤ (g - g - 1).toNat ∧ (on [(12, 40)] []).me.woke = none := by decide
theorem witness_bar_traps : 47 < ((barred 48 0 0).reg 12).toNat ∧ (40 ≤ ((barred 40 0 0).reg 12).toNat ∧ ((barred 46 0 0).reg 12).toNat ≤ 46)
    ∧ (barred 46 0 0).me.level ≠ ((barred 46 0 0).reg 12).toNat - 40
    ∧ (((barred 39 0 0).reg 12).toNat ≤ 39 ∨ ((barred 39 0 0).reg 12).toNat = 47) ∧ ((barred 39 0 0).myCore.bar 39).isOpen = false := by
  decide
theorem witness_domainArrival : let s := on [(12, 40)] []
    40 ≤ (s.reg 12).toNat ∧ (s.reg 12).toNat ≤ 46 ∧ s.me.level = (s.reg 12).toNat - 40 ∧ s.domainArrived s.cur = false := by decide
/-- The one member of its instance has arrived. -/
theorem witness_domainCompletion : let s := after (.bararr 11 12) (on [(12, 40)] [])
    ∃ key, (s.instances 0)[0]? = some key ∧ s.mayComplete 0 key = true := ⟨_, rfl, by decide⟩

/-- Slot 2 is DONE with 9; the arguments of a helper stand at 0x100. -/
def helps (entry : Word) : State :=
  (loc 0x100 (dwords [1, 2, 3]) (sup [(12, entry), (13, la 0x100), (14, 2)])).updMyCore
    (·.setThread 2 { Thread.reset with state := .done 9 })
theorem witness_help : let s := helps 0x1000
    s.cur.slot = 0 ∧ bits (s.reg 12) 1 0 = 0 ∧ bits (s.reg 12) 63 56 = 0 ∧ s.myCore.freeSlot = some 1
      ∧ (rl s 0x100 24).length = 24
      ∧ ∀ i, i < 3 → ReadsLocal s (s.reg 13 + BitVec.ofNat 64 (8 * i)) 8 8 (((rl s 0x100 24).drop (8 * i)).take 8) := by
  refine ⟨by decide, by decide, by decide, by decide, by decide, fun i h => ?_⟩
  match i, h with
  | 0, _ => exact ⟨by decide, by decide, by decide, .loc 0x100, by decide, by decide, by decide⟩
  | 1, _ => exact ⟨by decide, by decide, by decide, .loc 0x108, by decide, by decide, by decide⟩
  | 2, _ => exact ⟨by decide, by decide, by decide, .loc 0x110, by decide, by decide, by decide⟩
/-- Every slot is taken. -/
theorem witness_help_full : (slots.foldl (fun s n => s.updMyCore (·.setThread n { Thread.reset with state := .ready })) (helps 0x1000)).myCore.freeSlot = none := by
  decide
theorem witness_help_traps : bits ((helps 2).reg 12) 1 0 ≠ 0 ∧ ((sup [(13, 0xFFFFFFFFFFEFFFFF)]).reg 13).toNat < 0xFFFFFFFFFFF00000
    ∧ 0xFFFFFFFFFFF7FFE8 < ((sup [(13, 0xFFFFFFFFFFF7FFE9)]).reg 13).toNat
    ∧ (let s := sup [(13, 0xFFFFFFFFFFF7FFE4)]
       0xFFFFFFFFFFF00000 ≤ (s.reg 13).toNat ∧ (s.reg 13).toNat ≤ 0xFFFFFFFFFFF7FFE8 ∧ bits (s.reg 13) 2 0 ≠ 0) := by decide
theorem witness_help_slot : ({ helps 0 with cur := ⟨0, 2⟩ } : State).cur.slot ≠ 0 := by decide
theorem witness_hjoin : let s := helps 0
    1 ≤ (s.reg 14).toNat ∧ (s.reg 14).toNat ≤ 10 ∧ (s.reg 14).toNat ≠ s.cur.slot ∧ s.joinReady (s.reg 14).toNat = true
      ∧ (s.myCore.thread (s.reg 14).toNat).state = .done 9 ∧ (s.reg 12).toNat = 0 ∧ 10 < ((helps 11).reg 12).toNat := by decide

/-- The slot is FREE, or still runs. -/
theorem witness_hjoin_waits : let s := (helps 0).updMyCore (·.setThread 2 { Thread.reset with state := .ready })
    (s.reg 14).toNat = 2 ∧ Fresh s ∧ s.joinReady 2 = false
      ∧ ((sup [(14, 5)]).myCore.thread 5).state = .free ∧ (sup [(14, 5)]).joinReady 5 = true := by unfold Fresh; decide

/-- Another HJOIN took the value that this one waited for. -/
theorem witness_hjoin_taken : let s := (helps 0).updMe (fun t => { t with woke := some (.join 2 0 true, 0) })
    (s.reg 14).toNat = 2 ∧ s.joinTaken 2 = true ∧ s.joinReady 2 = true ∧ (helps 0).joinTaken 2 = false := by decide

/-- Core 1's slot 0 waits at the HITCH of address 0 and mask 3; cores 0 and 1 are one group. -/
def atHitch : State :=
  ((on [(12, 3)] []).updCtx 0 (fun x => { x with groups := [⟨0, 1, 0, [0, 1], .running, none⟩] })).setThread ⟨1, 0⟩
    { Thread.reset with state := .blocked (.hitch 0 3) 0 }
theorem witness_hitch : atHitch.cur.slot = 0 ∧ atHitch.me.hitch = none ∧ bits (atHitch.reg 12) 63 16 = 0
    ∧ ((atHitch.reg 12).setWidth 16).getLsbD (coreIdOf atHitch.cur.core) = true
    ∧ ((atHitch.reg 12).setWidth 16) &&& ~~~atHitch.groupMask = 0#16
    ∧ atHitch.rendezvous atHitch.me.pc ((atHitch.reg 12).setWidth 16) = some 3 ∧ 2 ≤ (hitchMembers atHitch.cur 3).length := by decide
/-- A mask that is refused, a core that has not come, and a hitch of one; what core 1 waits at is the HITCH of its word. -/
theorem witness_hitch_others : let away := atHitch.setThread ⟨1, 0⟩ { Thread.reset with state := .ready }
    let named := fun (k : BitVec 16) => k.getLsbD (coreIdOf atHitch.cur.core) = true ∧ k &&& ~~~atHitch.groupMask = 0#16
    ¬ named 2 ∧ ¬ named 5 ∧ named 3 ∧ away.rendezvous away.me.pc 3 = none ∧ (hitchMembers atHitch.cur 1).length = 1
      ∧ atHitch.rendezvous atHitch.me.pc 1 = some 1
      ∧ ((atHitch.setThread ⟨1, 0⟩ { atHitch.thread ⟨1, 0⟩ with word := wordOf (.hitch 9 12) }).thread ⟨1, 0⟩).word = wordOf (.hitch 9 12)
      ∧ (⟨1, 0⟩ : ThreadId) ∈ hitchMembers atHitch.cur 3 := by decide
theorem witness_unhitch : let s := after (.hitch 11 12) atHitch
    s.me.hitch = some ⟨3, 0, 0⟩ ∧ (3#16).getLsbD (coreIdOf s.cur.core) = true ∧ s.cur.slot = 0 := by decide
theorem witness_hitch_slot : ({ atHitch with cur := ⟨0, 1⟩ } : State).cur.slot ≠ 0 := by decide

end Sys2Proof.Tests
end

