-- ==== Sys2Proof/Tests/Witness2.lean ====
section
/-! SUPPORT. Witnesses, second part: queues, kernels, pages, memory. -/

namespace Sys2Proof.Tests

open Sys2Proof Sys2Proof.Machine Sys2Proof.Safety

set_option maxRecDepth 20000

/-- Core 0 runs a chunk of group 1 with a reservation of 2 on queue 4, a node queue of 16 records at 0x1000, resident. -/
def queued (va vb : Word) : State :=
  (((paged (sup [(12, va), (13, vb)])).updMyCore (fun k => { k with group := some (0, 1) })).updCtx 0 (fun x => { x with
    groups := [⟨1, 1, 0, [0], .running, some ⟨9, 0, 1, [(4, 2)]⟩⟩]
    queues := [(4, { Queue.reset with kind := .node, base := 0x1000, capacity := 16, rbytes := 8, kid := 3 })] })).updDie 0
    (fun d => { d with resident := [(0, 4)] })
theorem witness_qres : let s := queued 4 100
    bits (s.reg 12) 63 12 = 0 ∧ (s.die 0).isResident s.me.ctx 4 = true ∧ bits (s.reg 13) 63 32 = 0
      ∧ s.chunkOf s.cur.core = some (s.me.ctx, ⟨1, 1, 0, [0], .running, some ⟨9, 0, 1, [(4, 2)]⟩⟩, ⟨9, 0, 1, [(4, 2)]⟩)
      ∧ (s.myCtx.queue 4).kind = .node := by decide
theorem witness_enq : let s := queued 4 (la 0x100)
    let q := s.myCtx.queue (bits (s.reg 12) 11 0)
    let u := s.updDie q.home (·.touch s.me.ctx 4)
    bits (s.reg 12) 63 12 = 0 ∧ (s.die q.home).isResident s.me.ctx 4 = true ∧ s.myRes 4 ≠ 0 ∧ (s.reg 13).toNat % 8 = 0
      ∧ 1 ≤ q.rbytes ∧ addrClass (s.reg 13) = .loc ∧ u.check s.cur (s.reg 13) q.rbytes 8 .read = .ok (.loc 0x100)
      ∧ u.meetsBad s.cur.core (.loc 0x100) q.rbytes = false
      ∧ u.engineSpan s.cur.core s.me.ctx (!s.me.sup) .write (q.base + BitVec.ofNat 64 (q.tail * q.rbytes)) q.rbytes = .ok [(.hbm 0x1000, 8)] := by
  refine ⟨?_, ?_, ?_, ?_, ?_, ?_, ?_, ?_, ?_⟩
  · decide
  · decide
  · decide
  · decide
  · decide
  · decide
  · decide
  · decide
  · rfl
/-- The same with queue 4 swapped out; a handle above 4,095, a misaligned source, and no reservation. -/
theorem witness_queue_traps : let s := (queued 4 (la 0x100)).updDie 0 (fun d => { d with resident := [] })
    Fresh s ∧ (s.die 0).isResident s.me.ctx 4 = false ∧ bits ((queued 0x1004 0).reg 12) 63 12 ≠ 0 ∧ ((queued 4 4).reg 13).toNat % 8 ≠ 0
      ∧ (queued 5 0).myRes 5 = 0 ∧ bits ((queued 5 0).reg 12) 63 12 = 0 ∧ bits ((queued 4 (-1)).reg 13) 63 32 ≠ 0
      ∧ ((queued 5 1).myCtx.queue 5).kind ≠ .node ∧ ((queued 5 1).myCtx.queue 5).kind ≠ .encoder ∧ (on [] []).chunkOf 0 = none := by
  unfold Fresh; decide
/-- A pinned queue; 224 pinned queues on die 0 and one that is not. -/
theorem witness_qpin_pinned : let f := fun (s : State) => s.updQueue 0 4 (fun q => { q with pinned := true })
    ((f (queued 4 1)).myCtx.queue 4).pinned = true ∧ ((queued 4 1).myCtx.queue 4).pinned = false
      ∧ (let pins : Tbl Queue := (List.range 224).map (fun i => (100 + i, { Queue.reset with kind := .card, pinned := true }))
        let s := (queued 4 1).updCtx 0 (fun x => { x with queues := x.queues ++ pins })
        224 ≤ s.pinnedOn 0 ∧ (s.myCtx.queue 4).pinned = false)
      ∧ 1 < ((queued 4 2).reg 13).toNat ∧ ((queued 3 1).myCtx.queue 3).kind = .free := by decide
theorem witness_qpin : (queued 4 1).me.sup = true ∧ ((queued 4 1).myCtx.queue 4).kind ≠ .free ∧ (queued 4 1).pinnedOn 0 < 224
    ∧ (queued 4 1).reg 13 = 1 ∧ (queued 4 0).reg 13 = 0 ∧ (queued 4 0).me.sup = true := by decide

/-- A job card at 0x400 for queue 2, of kind card in context 0 when `k` says so; the card's first dword is `e`. -/
def carded (e : Word) (k : QueueKind) : State :=
  (hbmAt 0x400 (dwords [e, 0x5000, 0x100000008, 0x2000100000100, 0, 0, 0, 0]) (paged (sup [(12, 0x400), (13, 0)]))).updCtx 0
    (fun x => { x with queues := [(2, { Queue.reset with kind := k })], lastKid := 5 })
def cardBytes (e : Word) (k : QueueKind) : List Byte := (carded e k).loadBytes 0 (.hbm 0x400) 64
def cardOf (k : QueueKind) : Card := ((parseCard 0x400 (cardBytes 0x1000 k)).getD (⟨0, 0, 0, 0, 0, 0, 0, 0, 0, 0, false, false, [], 0, 0, 0, false, 0⟩, 0)).1
theorem witness_launch_address : let s := carded 0x1000 .card
    bits (s.reg 12) 5 0 = 0 ∧ addrClass (s.reg 12) = .global ∧ s.reg 13 = 0 ∧ s.check s.cur (s.reg 12) 64 64 .read = .ok (.hbm 0x400)
      ∧ s.meetsBad s.cur.core (.hbm 0x400) 64 = false := by decide
theorem witness_launch_broken : (carded 1 .card).check (carded 1 .card).cur 0x400 64 64 .read = .ok (.hbm 0x400)
    ∧ parseCard 0x400 (cardBytes 1 .card) = none := by decide
theorem witness_launch : parseCard 0x400 (cardBytes 0x1000 .card) = some (cardOf .card, 0) ∧ (carded 0x1000 .card).launchCode 0 (cardOf .card) = 0
    ∧ parseCard 0x400 (cardBytes 0x1000 .node) = some (cardOf .node, 0) ∧ (carded 0x1000 .node).launchCode 0 (cardOf .node) = 3 := by decide
theorem witness_trig : (on [] []).cur.slot = 0 ∧ ({ on [] [] with cur := ⟨0, 10⟩ } : State).cur.slot ≠ 0 := by decide
/-- Kernel 3 has retired, 4 has not; the thread's own is 2 or 5. -/
def card0 : Card := ⟨0x400, 0x1000, 0, 1, 8, 2, 1, 0, 1, 0, false, false, [], 0, 0, 0, false, 0⟩
def waits (v own : Word) : State :=
  (on [(12, v)] [(0x0F3, own)]).updCtx 0 (fun x => { x with
    lastKid := 5, kernels := [⟨4, .running, card0, 0, [], false, false, [], none, none, []⟩] })
theorem witness_kwait : let s := waits 3 2
    bits (s.reg 12) 63 32 = 0 ∧ s.reg 12 ≠ 0 ∧ (s.myCtx.lastKid - (s.reg 12).setWidth 32).toNat < 2 ^ 31
      ∧ (s.reg 12).toNat ≠ s.me.kernid ∧ s.myCtx.kidLive ((s.reg 12).setWidth 32) = false := by decide
theorem witness_kwait_live : let s := waits 4 2
    bits (s.reg 12) 63 32 = 0 ∧ s.reg 12 ≠ 0 ∧ (s.myCtx.lastKid - (s.reg 12).setWidth 32).toNat < 2 ^ 31
      ∧ (s.reg 12).toNat ≠ s.me.kernid ∧ s.myCtx.kidLive ((s.reg 12).setWidth 32) = true := by decide
theorem witness_kwait_own : let s := waits 5 5
    1 ≤ (s.reg 12).toNat ∧ (s.reg 12).toNat < 2 ^ 32 ∧ (s.myCtx.lastKid - (s.reg 12).setWidth 32).toNat < 2 ^ 31
      ∧ (s.reg 12).toNat = s.me.kernid ∧ (waits 0 5).reg 12 = 0 := by decide
/-- No identifier, one with upper bits, and one not issued yet. -/
theorem witness_kwait_unknown : (waits 0 2).reg 12 = 0 ∧ bits ((waits 0x100000003 2).reg 12) 63 32 ≠ 0
    ∧ 2 ^ 31 ≤ ((waits 6 2).myCtx.lastKid - ((waits 6 2).reg 12).setWidth 32).toNat := by decide
/-- The card of witness_launch with a TCB at 0x800 whose state dword is `n`. -/
def cardedTcb (n : Word) : State := (hbmAt 0x800 (dwords [7, 0, n]) (carded 0x1000 .card)).setReg 13 0x800
theorem witness_launch_tcb : let s := cardedTcb 5
    bits (s.reg 12) 5 0 = 0 ∧ addrClass (s.reg 12) = .global ∧ s.reg 13 ≠ 0 ∧ bits (s.reg 13) 5 0 = 0 ∧ addrClass (s.reg 13) = .global
      ∧ s.check s.cur (s.reg 12) 64 64 .read = .ok (.hbm 0x400) ∧ s.meetsBad s.cur.core (.hbm 0x400) 64 = false
      ∧ s.check s.cur (s.reg 13) 64 64 .read = .ok (.hbm 0x800) ∧ s.meetsBad s.cur.core (.hbm 0x800) 64 = false
      ∧ s.check s.cur (s.reg 13) 64 64 .atomic = .ok (.hbm 0x800) ∧ bits (dwordAt (s.loadBytes s.cur.core (.hbm 0x800) 64) 16) 5 4 = 0
      ∧ bits (dwordAt (s.loadBytes s.cur.core (.hbm 0x800) 64) 16) 2 0 ≤ 5 := by decide
/-- The card is that of witness_launch. -/
theorem witness_launch_tcb_card : (cardedTcb 5).loadBytes 0 (.hbm 0x400) 64 = cardBytes 0x1000 .card := by decide
theorem witness_launch_tcb_code : (cardedTcb 5).launchCode 0 (cardOf .card) = 0 := by decide
theorem witness_launch_tcb_refused : let st := fun n => dwordAt ((cardedTcb n).loadBytes 0 (.hbm 0x800) 64) 16
    bits (st 0x10) 5 4 ≠ 0 ∧ 5 < bits (st 6) 2 0 := by decide
/-- TCBs at 0x800 (its state dword `n`) and at 0x840. -/
def linked (n : Word) : State := hbmAt 0x800 (dwords [0, 0, n]) (paged (sup [(12, 0x800), (13, 0x841)]))
theorem witness_tlink_places : let s := linked 0x24
    bits (s.reg 12) 5 0 = 0 ∧ bits (s.reg 12) 63 56 = 0 ∧ bits (s.reg 13) 5 1 = 0 ∧ bits (s.reg 13) 63 56 = 0
      ∧ s.check s.cur (s.reg 12) 64 64 .atomic = .ok (.hbm 0x800)
      ∧ BitVec.ofNat 64 ((s.reg 13).toNat / 64 * 64) = 0x840 ∧ s.check s.cur 0x840 64 64 .atomic = .ok (.hbm 0x840) := by decide
/-- The successor is FREE, or not; the list is open with room or full, or closed in either way. -/
theorem witness_tlink : let pa := fun n => dwordAt ((linked n).release.homeBytes 0 (.hbm 0x800) 64) 16
    bits (dwordAt ((linked 0x24).release.homeBytes 0 (.hbm 0x840) 64) 16) 5 4 = 0
      ∧ bits (dwordAt ((hbmAt 0x840 (dwords [0, 0, 0x10]) (linked 0x24)).release.homeBytes 0 (.hbm 0x840) 64) 16) 5 4 ≠ 0
      ∧ ¬ (bits (pa 0x24) 5 4 = 3 ∨ (((linked 0x24).reg 13).getLsbD 0 = true ∧ (pa 0x24).getLsbD 3 = true)) ∧ bits (pa 0x24) 2 0 < 5
      ∧ ¬ (bits (pa 0x25) 5 4 = 3 ∨ (((linked 0x25).reg 13).getLsbD 0 = true ∧ (pa 0x25).getLsbD 3 = true)) ∧ 5 ≤ bits (pa 0x25) 2 0
      ∧ bits (pa 0x30) 5 4 = 3 ∧ ((linked 0x28).reg 13).getLsbD 0 = true ∧ (pa 0x28).getLsbD 3 = true := by decide

theorem witness_fbclr : ((sup [(12, 8)]).me.sup = true ∧ (sup [(12, 8)]).reg 12 = 8) ∧ ((sup [(12, 7)]).reg 12).toNat < 8
    ∧ 8 < ((sup [(12, 9)]).reg 12).toNat ∧ (on [] []).me.sup = false := by decide
/-- With no walk in progress, and with one. -/
theorem witness_tlbinv_walks : let ends := fun (s : State) => (List.range 4).map (fun k => (s.die k).walkNext)
    Fresh (sup [(13, 1)]) ∧ (sup [(13, 1)]).walksLeft (ends (sup [(13, 1)])) = false
      ∧ (let s := (sup [(13, 1)]).updDie 0 (fun d => { d with walkNext := 1, coal := [(0, { Coal.reset with state := .walking })] })
        Fresh s ∧ s.walksLeft (ends s) = true) ∧ 1 < ((sup [(13, 2)]).reg 13).toNat := by
  unfold Fresh; decide
theorem witness_tlbinv : (sup [(13, 1)]).me.sup = true ∧ (sup [(13, 1)]).reg 13 = 1 ∧ (sup [(13, 0)]).reg 13 = 0 := by decide
/-- Record 7 names entry 2 of die 0, which has reported. -/
theorem witness_freply : let r : FaultRec := ⟨0, 0, 0, 0, 0, 2⟩
    let s := ((sup [(12, 7), (13, 1)]).updCtx 0 (fun x => { x with faults := [(7, r)] })).updDie 0 (fun d =>
      { d with coal := [(2, { Coal.reset with state := .reported })] })
    s.me.sup = true ∧ s.reg 13 = 1 ∧ s.myCtx.faultRec (bits (s.reg 12) 2 0) = some r ∧ (s.release.coalAt r.die r.entry).state = .reported := by
  decide
/-- No record; a record whose entry has not reported; b above 1. -/
theorem witness_freply_none : let s := (sup [(12, 7), (13, 1)]).updCtx 0 (fun x => { x with faults := [(7, ⟨0, 0, 0, 0, 0, 2⟩)] })
    s.reg 13 = 1 ∧ (s.release.coalAt 0 2).state ≠ .reported ∧ (sup [(12, 7)]).myCtx.faultRec 7 = none ∧ (sup [(13, 0)]).reg 13 = 0
      ∧ s.myCtx.faultRec (bits (s.reg 12) 2 0) = some ⟨0, 0, 0, 0, 0, 2⟩ ∧ 1 < ((sup [(13, 2)]).reg 13).toNat := by decide
theorem witness_page_csrs : csrSup (BitVec.toNat (0x051 : CsrNum)) = true ∧ (on [] []).me.sup = false := by decide

/-- Local address 0x100 in register 12, and the same in global memory. -/
def mem (a : Word) : State := paged (sup [(12, a), (13, 5)])
theorem witness_ld : Loads (mem (la 0x104)) ((mem (la 0x104)).reg 12 + BitVec.ofInt 64 ((-1#12).toInt * sizeBytes .w)) 4 (.loc 0x100)
    ∧ Loads (mem 0xFFF8) ((mem 0xFFF8).reg 12 + BitVec.ofInt 64 ((0#12).toInt * sizeBytes .d)) 8 (.hbm 0xFFF8) ∧ Size.b ≠ Size.d :=
  ⟨⟨by decide, by decide, nofun⟩, ⟨by decide, by decide, nofun⟩, by decide⟩
/-- A page of device 3: a load of it is forwarded unless that device's NI refuses it, which is a free value (log entry 6). -/
def remotePage : State := (mem 0x200).updCluster 0 (fun c =>
  { c with l1 := [⟨0, 0, 65536, .remote, 3 * 2 ^ 24, true, true, false, true, true, false, none⟩] })
theorem witness_remoteLoad (h : Config.remoteRefuses 0 = false) : ∃ e x,
    remotePage.check remotePage.cur (remotePage.reg 12 + BitVec.ofInt 64 ((0#12).toInt * sizeBytes .w)) 4 4 .read = .ok (.remote e x)
      ∧ remotePage.meetsBad remotePage.cur.core (.remote e x) 4 = false := by
  unfold State.check State.translate
  have h' : Config.remoteRefuses remotePage.freeCount = false := h
  rw [h']
  exact ⟨_, _, rfl, rfl⟩
theorem witness_remoteAtomic (h : Config.remoteRefuses 0 = false) : ∃ e x,
    (remotePage.updCluster 0 (fun c => { c with l1 := c.l1.map (fun e => { e with w := true }) })).check remotePage.cur
      (remotePage.reg 12) 4 4 .atomic = .ok (.remote e x) := by
  unfold State.check State.translate
  have h' : Config.remoteRefuses (remotePage.updCluster 0 (fun c => { c with l1 := c.l1.map (fun e => { e with w := true }) })).freeCount = false := h
  rw [h']
  exact ⟨_, _, rfl⟩
/-- A leaf at 0x8000 whose D is to be set, and none. -/
theorem witness_dirtyBit : let s := (mem 0x200).updCluster 0 (fun c => { c with l1 := c.l1.map (fun e => { e with owesD := some 0x8000 }) })
    addrClass 0x200 = .global ∧ (s.tlbFind (clusterOf s.cur.core) s.me.ctx 0x200).bind (·.owesD) = some 0x8000 ∧ s.hbm.wf = true
      ∧ ((mem 0x200).tlbFind 0 0 0x200).bind (·.owesD) = none := by decide
theorem witness_lda_vld : Loads ((mem 0x200).acquire .device) ((mem 0x200).reg 12) (wsizeBytes .w) (.hbm 0x200)
    ∧ Loads (mem 0x200) ((mem 0x200).reg 12 + BitVec.ofInt 64 ((1#12).toInt * 64)) 64 (.hbm 0x240) :=
  ⟨⟨by decide, by decide, nofun⟩, ⟨by decide, by decide, nofun⟩⟩
theorem witness_st_str_vst : Stores (mem (la 0x104)) ((mem (la 0x104)).reg 12 + BitVec.ofInt 64 ((-1#12).toInt * sizeBytes .w)) (sizeBytes .w) (.loc 0x100)
    ∧ Stores (mem 0x200) ((mem 0x200).reg 12) (wsizeBytes .d) (.hbm 0x200)
    ∧ Stores (mem 0x200) ((mem 0x200).reg 12 + BitVec.ofInt 64 ((1#12).toInt * 64)) 64 (.hbm 0x240) :=
  ⟨⟨by decide, by decide⟩, ⟨by decide, by decide⟩, ⟨by decide, by decide⟩⟩
theorem witness_writeCovers : (∀ k, k < 2 → Place.loc 8 ≠ (Place.loc 6).plus k) ∧ (0 : Nat) < [1#8, 2#8].length := by decide
theorem memOk_reset : MemOk State.reset := ⟨by decide, by decide, fun _ => rfl, fun _ _ h => nomatch h⟩
theorem witness_atomics : (mem 0x200).check (mem 0x200).cur ((mem 0x200).reg 12) (wsizeBytes .w) (wsizeBytes .w) .atomic = .ok (.hbm 0x200)
    ∧ ∀ e x, Place.hbm 0x200 ≠ .remote e x :=
  ⟨by decide, nofun⟩
/-- A good word, a bad one, a release at device scope, and TCB counts. -/
theorem witness_atomicWords : MemOk State.reset ∧ State.reset.badAt 0 (.hbm 0x200) 8 = false
    ∧ (State.reset.updCore 0 (fun k => { k with eccBad := [64] })).badAt 0 (.loc 0x200) 8 = true
    ∧ ordReleases .release = true ∧ 4 ≤ Machine.scopeCode .device ∧ 2 ≤ Machine.scopeCode .cluster ∧ ∀ e x, Place.hbm 0x200 ≠ .remote e x :=
  ⟨memOk_reset, by decide, by decide, by decide, by decide, by decide, nofun⟩
/-- Lanes 0 and 3 are active and their offsets are 0 and 4. -/
def gathers : State :=
  ((mem 0x300).setMask 1 9).setRow 2 (Row.ofLanes (fun i => if i = 3 then 4 else 0))
theorem witness_gather (i : Nat) (hi : i < 16) (h : (gathers.mask 1).getLsbD i = true) :
    gathers.check gathers.cur (gathers.reg 12 + BitVec.ofInt 64 ((gathers.row 2).lane i).toInt) 4 4 .read = .ok (.hbm (if i = 3 then 0x304 else 0x300))
      ∧ gathers.meetsBad gathers.cur.core (.hbm (if i = 3 then 0x304 else 0x300)) 4 = false
      ∧ ∀ e x, Place.hbm (if i = 3 then 0x304 else 0x300) ≠ .remote e x := by
  have : i = 0 ∨ i = 3 := by revert i; decide
  rcases this with rfl | rfl
  · exact ⟨by decide, by decide, nofun⟩
  · exact ⟨by decide, by decide, nofun⟩
theorem witness_scatter (i : Nat) (hi : i < 16) (h : (gathers.mask 1).getLsbD i = true) : gathers.storeFull gathers.cur = false
      ∧ gathers.check gathers.cur (gathers.reg 12 + BitVec.ofInt 64 ((gathers.row 2).lane i).toInt) 4 4 .write = .ok (.hbm (if i = 3 then 0x304 else 0x300)) := by
  have : i = 0 ∨ i = 3 := by revert i; decide
  rcases this with rfl | rfl <;> exact ⟨by decide, by decide⟩

/-- No class, misaligned, outside every region in user mode, and in a locked range. -/
theorem witness_access_traps : addrClass 0x0100000000000000 = .none ∧ (addrClass 0x102 ≠ .none ∧ (0x102#64).toNat % 4 ≠ 0)
    ∧ (addrClass (la 0) = .loc ∧ (la 0).toNat % 4 = 0
      ∧ (on [] []).myCore.protRefused (!(on [] []).me.sup) (la 0).toNat 4 Access.read.reads Access.read.writes = some (la 0).toNat)
    ∧ (let s := (sup []).updMyCore (fun k => k.addRange true 0x100 0x200 0)
      addrClass 0x1FC ≠ .none ∧ (0x1FC#64).toNat % 4 = 0 ∧ addrClass 0x1FC ≠ .loc
        ∧ (s.core 0).rangeHit (0x1FC#64).toNat 4 Access.read.writes = some 0x1FC)
    ∧ (on [(12, 1)] []).check (on [(12, 1)] []).cur ((on [(12, 1)] []).reg 12 + BitVec.ofInt 64 ((0#12).toInt * sizeBytes .w)) 4 4 .read = .trap 2 1
    ∧ (on [(12, 1)] []).check (on [(12, 1)] []).cur ((on [(12, 1)] []).reg 12 + BitVec.ofInt 64 ((0#12).toInt * sizeBytes .w)) 4 4 .write = .trap 2 1 := by
  decide
theorem witness_fence : ((0x02#8 = 0 ∨ 0#8 = 0#8)) ∧ (0x02#8 ≠ 0 ∧ 0x01#8 ≠ 0) := by decide
/-- VADD stands twice behind a LUNGE at 0. -/
theorem witness_lunge : let s := hbmAt 4 (dwords [0x80C9121B80C9121B]) (paged (on [] []))
    s.capture (s.me.pc + 4) ((1#4).toNat + 1) = .ok [0x80C9121B, 0x80C9121B] := by rfl
/-- Behind a LUNGE stands a VADD and then an illegal word, an instruction that may not be there, or no page. -/
theorem witness_lungeRefused : let s := fun w => hbmAt 4 (dwords [w]) (paged (on [] []))
    let word := fun (s : State) i => s.fetchWord s.cur (s.me.pc + 4 + BitVec.ofNat 64 (4 * i))
    (∃ p b, word (s 0xFFFFFFFF80C9121B) 0 = (.ok p, 0x80C9121B) ∧ decode 0x80C9121B = .ok b ∧ bodyMajor 0x80C9121B = true)
      ∧ (∃ p e, word (s 0xFFFFFFFF80C9121B) 1 = (.ok p, 0xFFFFFFFF) ∧ decode 0xFFFFFFFF = .error e)
      ∧ (∃ p b, word (s 0x6A00000280C9121B) 1 = (.ok p, 0x6A000002) ∧ decode 0x6A000002 = .ok b ∧ bodyMajor 0x6A000002 = false)
      ∧ word (on [] []) 0 = (.miss, 0) :=
  ⟨⟨_, _, rfl, rfl, by decide⟩, ⟨_, _, rfl, rfl⟩, ⟨_, _, rfl, rfl, by decide⟩, rfl⟩
/-- A replay at the last word of a pass that is not, and that is, the last; the words that stride in each of the three ways. -/
theorem witness_replay : (∀ r, ((on [] []).updMe (fun t => { t with replay := some r })).me.replay = some r)
    ∧ (0 + 1 < 2 ∧ 1 + 1 = 2) ∧ ((on [] []).updMyCore (fun k => { k with csrs := k.csrs.set 0x070 0x1A })).myCore.csr (0x070 + 0) = 0x1A
    ∧ bodyMajor 0x80C9121B = true ∧ bodyMajor 0x4A000000 = true ∧ ((0x4A000000#32).extractLsb' 25 7).toNat = 0x25
    ∧ ((0x80C9121B#32).extractLsb' 25 7).toNat ≠ 0x25 := ⟨fun _ => rfl, by decide⟩
theorem witness_byteMemory : Mem.wf [(3, 1), (7, 9)] = true ∧ Mem.wf [] = true ∧ MemOk State.reset ∧ (∀ d a, Place.loc 0 ≠ .remote d a)
    ∧ ∀ e ∈ State.reset.stale, e.die ≠ dieOf State.reset.cur.core :=
  ⟨by decide, by decide, memOk_reset, nofun, nofun⟩

end Sys2Proof.Tests
end

