-- ==== Sys2Proof/Tests/Witness3.lean ====
section
/-! SUPPORT. Witnesses, third part: the engines of a core and the merge network. -/

namespace Sys2Proof.Tests

open Sys2Proof Sys2Proof.Machine Sys2Proof.Safety

set_option maxRecDepth 20000

/-- Rings 1 and 2 are OPEN with one of two slots full; register 12 names ring 1, register 13 ring 2. -/
def ring0 (o : Nat) : Ring := { Ring.reset with state := .opened, base := la o, slotBytes := 64, count := 2, occ := 1, tail := 1 }
def rings : State := (paged (sup [(12, 1), (13, 2), (14, 3)])).updMyCore (fun k => (k.setRing 1 (ring0 0x1000)).setRing 2 (ring0 0x2000))
theorem witness_mat : rings.me.state = .ready ∧ rings.myCore.matQ.length < 3
    ∧ rings.myCore.slotTest (ringPair (ringId (rings.reg 12)) (ringId (rings.reg 13))) false = true
    ∧ (rings.me.csr 0x035).getLsbD 0 = false ∧ ((rings.updMe (fun t => t.setCsr 0x035 1)).me.csr 0x035).getLsbD 0 = true ∧ 1 ≤ rings.myCore.slotsFull (ringId (rings.reg 12))
    ∧ 1 ≤ rings.myCore.slotsFree (ringId (rings.reg 12)) ∧ rings.myCore.tileBusy rings.cur.slot 7 = false
    ∧ (after (.mzero 7) rings).myCore.tileBusy rings.cur.slot 7 = true := by decide
/-- An accepted operation of each kind at the head of the queue. -/
theorem witness_matOpRetire :
    (∃ o q, ((after (.mzero 7) rings).core 0).matQ = o :: q ∧ o.kind = .mzero ∧ (after (.mzero 7) rings).opAlive 0 o.slot o.serial = true ∧ o.tile < 8)
    ∧ (∃ o q, ((after (.mma 0 12 13 false false) rings).core 0).matQ = o :: q ∧ o.kind = .mma ∧ o.tile < 8 ∧ (after (.mma 0 12 13 false false) rings).opAlive 0 o.slot o.serial = true)
    ∧ (∃ o q, ((after (.mld 0 12) rings).core 0).matQ = o :: q ∧ o.kind = .mld)
    ∧ (∃ o q, ((after (.mst 0 12) rings).core 0).matQ = o :: q ∧ o.kind = .mst)
    ∧ (∃ o q, ((after (.mchk 0 12 13 false false) rings).core 0).matQ = o :: q ∧ o.kind = .mchk) :=
  ⟨⟨_, _, rfl, by decide, by decide, by decide⟩, ⟨_, _, rfl, by decide, by decide, by decide⟩, ⟨_, _, rfl, by decide⟩, ⟨_, _, rfl, by decide⟩, ⟨_, _, rfl, by decide⟩⟩

/-- An MCHK waits; it fails its second check when the first has been noted. -/
theorem witness_mchk : let s := after (.mchk 0 12 13 false false) rings
    (∃ o q l, (s.core 0).matQ = o :: q ∧ s.me.state = .blocked (.check o.id) l) ∧ MemOk State.reset :=
  ⟨⟨_, _, _, rfl, rfl⟩, memOk_reset⟩
/-- A NaN, an infinity times zero, two infinities of different signs, one infinity, zeros only, and finite numbers. -/
theorem witness_matrixElements : let v := fun (w : W32) => unpack32 w
    (v 0x7FC00000).isNan = true ∧ (v 0x7F800000).isInf = true ∧ (v 0).isZero = true ∧ v 0x7F800000 = .inf false ∧ v 0xFF800000 = .inf true
      ∧ (v 0x80000000).isZero = true ∧ (v 0x3F800000).isNan = false ∧ (v 0x3F800000).isZero = false := by decide
/-- A ring slot's elements of each width; element 1 of an F32-wide format lies in a bad word when that is marked. -/
theorem witness_ringElements : let r := rings.myCore.ring 1
    rings.myCore.slotBad r 0 2 2 = false ∧ rings.myCore.slotBad r 0 1 1 = false
      ∧ ({ rings.myCore with eccBad := [0x1000 / 8] } : Core).slotBad r 0 2 2 = true
      ∧ ({ rings.myCore with eccBad := [0x1000 / 8] } : Core).slotBad r 0 1 1 = true := by decide

/-- A slot of 64 zero bytes in E8C: block 0 fits, also where it meets a bad word; block 1 does not. -/
theorem witness_ringE8c : let k := rings.myCore; let r := k.ring 1
    let byte := fun o => (k.mem.byte (localOff r.base + 0 * r.slotBytes + o)).toNat
    let len := fun o => (if byte o / 128 = 1 then 26 else 34) + byte (o + 1)
    (∀ m, m < 96 → 34 * (m + 1) = 34 * m + len (34 * m)) ∧ 0 + len 0 ≤ r.slotBytes ∧ k.slotBad r 0 0 (len 0) = false
      ∧ ({ k with eccBad := [0x1000 / 8] } : Core).slotBad r 0 0 (len 0) = true ∧ r.slotBytes < 34 + len 34 := by decide

/-- A subscription block of one slot of 64 bytes at 0x8000, in local memory at 0x100, register 13. -/
def subs : State := loc 0x100 (dwords [0x8000, 0x100010040, 0, 0]) (rings.setReg 13 (la 0x100))
theorem witness_ring_block : ReadsLocal subs (subs.reg 13) 32 8 (rl subs 0x100 32) :=
  ⟨by decide, by decide, by decide, .loc 0x100, by decide, by decide, rfl⟩
theorem witness_rpush : let s := rings.setReg 13 1; let n := ringId (s.reg 12); let r := s.myCore.ring n; let k := bits (s.reg 13) 5 0
    r.state = .opened ∧ k ≤ r.count ∧ k ≤ s.myCore.slotsFree n ∧ k ≠ 0 ∧ (s.myCore.ring (ringId (s.reg 14))).state = .free := by decide
theorem witness_rsub : let bs := rl subs 0x100 32; let r := subs.myCore.ring (ringId (subs.reg 12))
    r.state = .opened ∧ badSub r (dwordAt bs 0) (dwordAt bs 8) (dwordAt bs 16) (dwordAt bs 24) = false ∧ subs.myCore.freeRanges ≠ 0
    ∧ ∀ st, subs.myCore.subWaits (ringId (subs.reg 12)) st = false := by decide
theorem witness_runsub : let s := after (.rsub 11 12 13 false) subs; let r := s.myCore.ring (ringId (s.reg 12))
    Fresh s ∧ r.sub.isSome = true ∧ (r.state = .storing → r.occ = 0) ∧ Fresh rings ∧ (rings.myCore.ring 1).sub = none := by
  unfold Fresh; decide
/-- A storer of ring 1 with a slot still to write: RUNSUB waits, then ends it; or its subscription has ended by itself. -/
theorem witness_runsub_waits : let s := after (.rsub 11 12 13 true) subs; let r := s.myCore.ring 1
    Fresh s ∧ r.sub.isSome = true ∧ r.state = .storing ∧ r.occ ≠ 0
      ∧ (let u := (s.updRing 0 1 (fun r => { r with moved := 1, occ := 0 })).updMe (fun t => { t with woke := some (.unsub 1 1 none, 0) })
        u.me.waitOf = some (.unsub 1 1 none) ∧ (u.myCore.ring 1).state = .storing ∧ 1 ≤ (u.myCore.ring 1).moved)
      ∧ (s.updMe (fun t => { t with woke := some (.unsub 1 1 (some 1), 0) })).me.waitOf = some (.unsub 1 1 (some 1)) := by
  unfold Fresh; decide
/-- A loader and a storer of ring 1, neither of which is held. -/
def subbed (st : Bool) : State := rings.updRing 0 1 (fun r =>
  { r with state := if st then .storing else .loading, sub := some ⟨⟨0, 0⟩, 0x8000, 1, 1, 64, 0, 0, false, false, 0⟩ })
theorem witness_loader_storer : ∀ st, let r := ((subbed st).core 0).ring 1; let u : Sub := ⟨⟨0, 0⟩, 0x8000, 1, 1, 64, 0, 0, false, false, 0⟩
    r.sub = some u ∧ u.held = false ∧ r.state = (if st then .storing else .loading)
      ∧ r.occ + (((subbed st).core 0).matQ.map (fun o => o.pushes 1)).sum < r.count ∧ r.occ ≠ 0
      ∧ (subbed st).engineRun 0 ((subbed st).coreCtx 0) u.user (if st then .storer else .loader) (r.rowAddrs u) u.rowBytes = (none, [[.hbm 0x8000]]) := by
  decide

/-- CSRs of a copy of `rows` rows of 8 bytes from 0x3000 to 0x4000, or of mode `mode`. -/
def copies (rows mode : Word) (len : Word) : State :=
  paged (on [] [(0, 1), (0x100, 0x3000), (0x101, 0x4000), (0x102, len), (0x103, rows), (0x104, 8), (0x105, 8), (0x106, mode)])
def copyAt (s : State) : Copy := s.me.copyOf s.cur.slot (nextTag s.me.copyTag) (8 + s.myCore.rangeNext) s.myCore.serial
theorem witness_cpy : (copies 1 0 8).myCore.copyRefused (copyAt (copies 1 0 8)) = false ∧ (copies 1 0 8).myCore.copies.length < 3
    ∧ 2 ≤ (copies 1 0 8).myCore.freeRanges ∧ (copyAt (copies 1 0 8)).mode ≠ 3 ∧ (copyAt (copies 1 0 8)).mode ≠ 4
    ∧ (copies 1 0 0).myCore.copyRefused (copyAt (copies 1 0 0)) = true ∧ (copyAt (copies 1 5 8)).mode = 5
    ∧ (copies 1 5 8).myCore.copyRefused (copyAt (copies 1 5 8)) = false ∧ (copyAt (copies 1 3 65536)).mode = 3 ∧ (on [] []).me.sup = false := by
  decide
theorem witness_cpy_user : let s := on [] [(0x106, 4)]; (copyAt s).mode = 4 ∧ s.me.sup = false := by decide
theorem witness_cwait : let s := copies 1 0 8; let t := after (.cpy 11) s
    s.me.covers 0 = some 0 ∧ s.me.copiesBusy 0 = false ∧ s.me.copyRecs.find? (fun r => s.me.covered 0 r && r.state.isFailed) = none
      ∧ t.me.covers 0 = some 1 ∧ t.me.copiesBusy 1 = true ∧ s.me.covers 5 = none := by decide
/-- The copy that CWAIT finds FAILED. -/
theorem witness_cwait_failed : let s := (after (.cpy 11) (copies 1 0 8)).updMe (fun t => { t with copyRecs := [⟨1, .failed 3 0x3000, 0, 0⟩] })
    s.me.covers 0 = some 1 ∧ s.me.copiesBusy 1 = false
      ∧ s.me.copyRecs.find? (fun r => s.me.covered 1 r && r.state.isFailed) = some ⟨1, .failed 3 0x3000, 0, 0⟩ := by decide
/-- A mode-0 unit of 8 bytes from one page to another. -/
theorem witness_copyBytes : let s := after (.cpy 11) (copies 1 0 8)
    ∃ c q, (s.core 0).copies = c :: q ∧ c.mode = 0 ∧ 8 = min (min (c.len - c.srcOff) (65536 - (c.srcAt c.srcOff).toNat % 65536)) (65536 - (c.dstAt c.srcOff).toNat % 65536)
      ∧ s.engineSpan 0 (s.coreCtx 0) c.user .copyRead (c.srcAt c.srcOff) 8 = .ok [(.hbm 0x3000, 8)]
      ∧ s.engineSpan 0 (s.coreCtx 0) c.user .copyWrite (c.dstAt c.srcOff) 8 = .ok [(.hbm 0x4000, 8)] ∧ ∀ d x, Place.hbm 0x4000 ≠ .remote d x :=
  ⟨_, _, rfl, by decide, by decide, rfl, rfl, nofun⟩
/-- The first row of two, and the only row of one. -/
theorem witness_copyUnit : ∀ rows ∈ [1#64, 2#64], let s := after (.cpy 11) (copies rows 0 8)
    ∃ c q u, (s.core 0).copies = c :: q ∧ c.held = false ∧ s.copyUnit 0 (s.coreCtx 0) c = .ok u ∧ c.rows = rows.toNat ∧ u.next.row = 1 := by
  intro rows h
  rcases List.mem_cons.mp h with rfl | h
  · exact ⟨_, _, _, rfl, by decide, rfl, by decide, by decide⟩
  · rcases List.mem_singleton.mp h with rfl
    exact ⟨_, _, _, rfl, by decide, rfl, by decide, by decide⟩

/-- Stream 0 of core 0: its registers describe a gather of 20 words from 0x5000 by the indices at local 0x200. -/
def streams : State := (paged (sup [(12, 0), (13, 20)])).updMyCore (fun k =>
  { k with csrs := [(0x120, 0x5000), (0x121, la 0x200), (0x122, 20), (0x123, 2)] })
theorem witness_sopen : let y := streams.myCore.strmOf 0 streams.cur.slot (!streams.me.sup)
    y.bad = false ∧ (streams.myCore.strm 0).isOpen = false
      ∧ (localBase.toNat ≤ y.bbase.toNat ∧ streams.myCore.protRefused y.user y.bbase.toNat (4 * y.count) true false = none)
      ∧ ((after (.sopen 11 12) streams).myCore.strm 0).isOpen = true
      ∧ ((sup []).myCore.strmOf 0 0 false).bad = true := by decide
/-- The stream is open, with its last element there; `sc` for a scatter. -/
def popping (sc : Bool) : State := streams.updStrm 0 0 (fun _ =>
  { Strm.reset with isOpen := true, abase := 0x5000, bbase := la 0x200, count := 20, i := 19, esize := 2, scatter := sc, fetched := [7] })
theorem witness_spop_spush : (∀ sc, let x := (popping sc).myCore.strm (strmId ((popping sc).reg 12))
      x.isOpen = true ∧ x.scatter = sc ∧ min 16 (x.count - x.i) ≤ x.fetched.length ∧ (popping sc).storeFull (popping sc).cur = false)
    ∧ (popping true).check (popping true).cur (((popping true).myCore.strm 0).elemEa 7) 4 4 .write = .ok (.hbm 0x501C)
    ∧ (streams.myCore.strm 0).isOpen = false := by decide
/-- The index block lies in a region that the user may not read. -/
theorem witness_sopen_prot : let y := (streams.updMe (fun t => { t with csrs := [] })).myCore.strmOf 0 0 true
    y.bad = false ∧ localBase.toNat ≤ y.bbase.toNat
      ∧ ({ streams.myCore with csrs := streams.myCore.csrs } : Core).protRefused true y.bbase.toNat (4 * y.count) true false = some y.bbase.toNat := by
  decide
/-- An SPOP whose 16 elements have not been fetched: it is accepted; it traps for a failed read; it waits for a page. -/
theorem witness_spop_more : let s := (popping false).updStrm 0 0 (fun x => { x with i := 0, fetched := [] }); let x := s.myCore.strm 0
    x.isOpen = true ∧ x.scatter = false ∧ x.ops.length < 3 ∧ x.fetched.length < min 16 (x.count - x.i) ∧ x.failed = none ∧ x.held = none
      ∧ (∃ l, s.streamFind 0 x ((List.range 16).drop 0) = .ok l)
      ∧ ((s.updStrm 0 0 (fun x => { x with failed := some (3, 5) })).myCore.strm 0).failed = some (3, 5)
      ∧ ((s.updStrm 0 0 (fun x => { x with held := some (0, 1) })).myCore.strm 0).held = some (0, 1) :=
  ⟨by decide, by decide, by decide, by decide, by decide, by decide, ⟨_, rfl⟩, by decide, by decide⟩
/-- The stream is open and has its first index to read. -/
def reading (sc : Bool) : State := streams.updStrm 0 0 (fun _ =>
  { Strm.reset with isOpen := true, abase := 0x5000, bbase := la 0x200, count := 20, esize := 2, scatter := sc })
theorem witness_streamReadDone : ∀ sc, let x := ((reading sc).core 0).strm 0
    x.isOpen = true ∧ x.held = none ∧ x.failed = none ∧ x.i + x.fetched.length < x.count ∧ x.scatter = sc
      ∧ (reading sc).streamAt 0 x (x.bbase + BitVec.ofNat 64 (4 * (x.i + x.fetched.length))) 4 = .ok (.loc 0x200)
      ∧ (reading sc).streamAt 0 x (x.elemEa 0) (2 ^ x.esize) = .ok (.hbm 0x5000) := by decide

/-- An accepted SPOP waits for its last element. -/
theorem witness_streamOp : let s := streams.updStrm 0 0 (fun x => { x with ops := [⟨0, 0, 3, [], [.hbm 0x5000]⟩] })
    ((s.core 0).strm 0).ops = [⟨0, 0, 3, [], [.hbm 0x5000]⟩] ∧ s.opAlive 0 0 0 = true := by decide

/-- Merge context 0 of cluster 0, held by core 0 slot 0, whose members are `m`; rows 0 and 1 hold the pairs of register 13. -/
def merging (f : MergeCtx → MergeCtx) : State :=
  (((paged (sup [(12, 0), (13, 0x100)])).setRow 0 (Row.ofLanes (fun i => BitVec.ofNat 32 (i + 1)))).updMg 0 0
    (fun m => f { m with state := .opened, members := 3, cap := 8, outk := .pop, spill := 0x6000, sbytes := 256 }))
def pushed2 (s : State) : List (W32 × W32) := (List.range 2).map (fun i => ((s.row 0).lane i, (s.row 1).lane i))
theorem witness_mgpush : let s := merging id; let m := s.mg 0 0
    bits (s.reg 12) 63 2 = 0 ∧ bits (s.reg 13) 63 12 = 0 ∧ bits (s.reg 13) 11 7 = 2 ∧ BitVec.ofNat 7 (bits (s.reg 13) 6 0) = 0#7
      ∧ m.state.live = true ∧ m.members.getLsbD 0 = true ∧ m.ended.getLsbD 0 = false
      ∧ pushFail (m.lastPushed 0) (pushed2 s) = none ∧ (s.cluster 0).pushFull 0 = false := by decide
/-- The last coordinate pushed was 1, and the first of the next push is 1 again. -/
theorem witness_mgpush_order : let s := merging (fun m => { m with pushed := 1, last := [(0, 1)] })
    pushFail ((s.mg 0 0).lastPushed 0) (pushed2 s) = some 1 := by decide
/-- A bad register or block, a context that takes nothing, a port that has ended. -/
theorem witness_mg_refusals : bits ((sup [(12, 4)]).reg 12) 63 2 ≠ 0
    ∧ ¬ (bits ((sup [(13, 0x1000)]).reg 13) 63 12 = 0 ∧ 1 ≤ bits ((sup [(13, 0x1000)]).reg 13) 11 7 ∧ bits ((sup [(13, 0x1000)]).reg 13) 11 7 ≤ 16)
    ∧ ¬ (((sup []).mg 0 0).state.live = true ∧ ((sup []).mg 0 0).drained = false)
    ∧ ¬ (((merging (fun m => { m with ended := 1 })).mg 0 0).members.getLsbD 0 = true
      ∧ ((merging (fun m => { m with ended := 1 })).mg 0 0).ended.getLsbD 0 = false) := by decide
theorem witness_mgend : let s := merging id; let u := s.updMg 0 0 (fun m => { m with ended := m.ended ||| (1#16 <<< 0) })
    (u.cluster 0).allEnded 0 = false ∧ ((sup []).mg 0 0).state.live = false := by decide
/-- Descriptors for an area and for MGPOP, at local 0x100. -/
def opens (w0 w1 w3 : Word) : State := loc 0x100 (dwords [w0, w1, 0x6000, w3, 0, 0, 0, 0]) (paged (sup [(12, 0), (13, la 0x100)]))
theorem witness_mgopen_block (w0 w1 w3 : Word) (h : ∃ p, (opens w0 w1 w3).check (opens w0 w1 w3).cur ((opens w0 w1 w3).reg 13) 64 64 .read = .ok p
    ∧ (opens w0 w1 w3).meetsBad (opens w0 w1 w3).cur.core p 64 = false ∧ rl (opens w0 w1 w3) 0x100 64 = (opens w0 w1 w3).loadBytes (opens w0 w1 w3).cur.core p 64) (h' : (opens w0 w1 w3).reg 13 = la 0x100) :
    ReadsLocal (opens w0 w1 w3) ((opens w0 w1 w3).reg 13) 64 64 (rl (opens w0 w1 w3) 0x100 64) := by
  refine ⟨?_, ?_, ?_, h⟩ <;> rw [h'] <;> decide
def mgOf (s : State) : Option (MergeCtx × Bool) :=
  parseMg (rl s 0x100 64) (s.reg 13) s.cur (!s.me.sup) s.myCore.serial (8 + s.myCore.rangeNext)
theorem witness_mgopen : let s := opens 0 0x10008 0x8000000020
    (∃ x, mgOf s = some (x, false) ∧ x.outk = .pop ∧ s.myCore.mgNoWrite x.user x.spill x.sbytes = false) ∧ (s.mg 0 0).state = .free
      ∧ 2 ≤ s.myCore.freeRanges ∧ ReadsLocal s (s.reg 13) 64 64 (rl s 0x100 64) :=
  ⟨⟨_, rfl, by decide, by decide⟩, by decide, by decide, witness_mgopen_block _ _ _ ⟨.loc 0x100, by decide, by decide, rfl⟩ (by decide)⟩
theorem witness_mgopen_area : let s := opens 0x7000 0x800010008 0x8000000000
    (∃ x, mgOf s = some (x, false) ∧ x.outk = .area ∧ s.myCore.mgNoWrite x.user x.spill x.sbytes = false
      ∧ s.myCore.mgNoWrite x.user x.out (8 * x.outcap) = false)
      ∧ ReadsLocal s (s.reg 13) 64 64 (rl s 0x100 64) :=
  ⟨⟨_, rfl, by decide, by decide, by decide⟩, witness_mgopen_block _ _ _ ⟨.loc 0x100, by decide, by decide, rfl⟩ (by decide)⟩
/-- No FREE context, too few range registers, an area that may not be written. -/
theorem witness_mgopen_refused : let s := opens 0 0x10008 0x8000000020
    (s.updMg 0 0 (fun m => { m with state := .opened })).mg 0 0 ≠ MergeCtx.reset
      ∧ (s.updMyCore (fun k => { k with ranges := List.replicate 8 ⟨0, false, 0, 0⟩ })).myCore.freeRanges < 1
      ∧ parseMg (rl (opens 1 0 0) 0x100 64) ((opens 1 0 0).reg 13) ⟨0, 0⟩ false 0 8 = none
      ∧ (on [] []).myCore.mgNoWrite true (la 0x6000) 64 = true := by decide
theorem witness_mgdrain : let u := fun (f : MergeCtx → MergeCtx) => (merging f).release.mgDrain 0 0
    (((merging id).mg 0 0).state ≠ .free ∧ ((merging id).mg 0 0).holder = (merging id).cur ∧ (merging id).mgHolderLive ((merging id).mg 0 0) = true)
    ∧ ((u (fun m => { m with state := .failed })).mg 0 0).state = .failed
    ∧ (((u (fun m => { m with state := .done })).mg 0 0).state = .done ∧ ((u (fun m => { m with state := .done })).mg 0 0).calm = true)
    ∧ (((u (fun m => { m with state := .done, owes := [.head false] })).mg 0 0).state ≠ .failed)
    ∧ ((sup []).mg 0 0).state = .free := by decide
theorem witness_mgpop : let s := (merging id).setReg 13 2; let m := s.mg 0 0
    bits (s.reg 13) 63 7 = 0 ∧ m.state ≠ .free ∧ m.outk = .pop ∧ m.holder.core = s.cur.core ∧ (s.reg 13 = 2) ∧ (s.setReg 13 3).reg 13 = 3 := by
  decide
/-- Port 0 has ended behind 5, and a pair of port 1 waits at 9. -/
def emitting (dz : Bool) : State := (merging (fun m => { m with buf := [(0, 5, 0x3F800000)], pushed := 3, last := [(0, 5), (1, 9)], dz := dz })).updCluster 0
  (fun c => { c with mq := [⟨1, 0, 0, 0, 0, 9, 1⟩] })
theorem witness_emittable : ((emitting true).cluster 0).emittable 0 = some 5 ∧ (⟨1, 0, 0, 0, 0, 9, 1⟩ : MergePush) ∈ ((emitting true).cluster 0).mq
    ∧ ((emitting true).mg 0 0).members.getLsbD 1 = true ∧ ((emitting true).mg 0 0).ended.getLsbD 0 = false := by decide
/-- The context's record is being read; the pairs at 5 of ports 3, 0 and 9 in the order of their ports. -/
theorem witness_merge_restoring : ((merging (fun m => { m with owes := [.restore] })).mg 0 0).restoring = true
    ∧ ((merging id).mg 0 0).restoring = false := by decide
theorem witness_mergeSum : let m : MergeCtx := { MergeCtx.reset with buf := [(3, 5, 7), (0, 5, 8), (1, 6, 9), (9, 5, 7)] }
    let l : List (Nat × W32) := [(0, 8), (3, 7), (9, 7)]
    l.Pairwise (fun x y => x.1 < y.1) ∧ ∀ p v, (p, v) ∈ l ↔ p < 16 ∧ (p, (5 : W32), v) ∈ m.buf := by
  refine ⟨by decide, fun p v => ?_⟩
  simp only [List.mem_cons, Prod.mk.injEq, List.not_mem_nil, or_false]
  constructor
  · rintro (⟨rfl, rfl⟩ | ⟨rfl, rfl⟩ | ⟨rfl, rfl⟩) <;> decide
  · rintro ⟨-, ⟨rfl, -, rfl⟩ | ⟨rfl, -, rfl⟩ | ⟨-, h, -⟩ | ⟨rfl, -, rfl⟩⟩
    · decide
    · decide
    · exact absurd h (by decide)
    · decide
theorem witness_mergeAccept : let q : MergePush := ⟨1, 0, 0, 0, 0, 9, 1⟩; let s := emitting true; let m := s.mg 0 q.mctx
    (s.cluster 0).mq = [q] ∧ q.port < 16 ∧ m.state.live = true ∧ m.calm = true ∧ s.mgOutWaits 0 q.mctx = false
      ∧ m.buf.length < m.cap ∧ m.state = .opened := by decide
theorem witness_mergeEmit : let s := emitting true; let m := s.mg 0 0
    m.state = .opened ∧ m.calm = true ∧ (s.cluster 0).emittable 0 = some 5 ∧ m.outk = .pop ∧ m.popQ.length < 64 ∧ m.dz = true
      ∧ m.sumAt 5 ≠ 0 ∧ m.sumAt 5 ≠ 0x80000000 := by decide
/-- An output area at 0x7000 with a place left, and with none; a sum of zero is dropped. -/
theorem witness_mergeEmit_area : let f := fun (cap : Nat) => (emitting false).updMg 0 0 (fun m => { m with outk := .area, out := 0x7000, outcap := cap })
    ((f 1).mg 0 0).outk = .area ∧ ((f 1).mg 0 0).emitted < ((f 1).mg 0 0).outcap ∧ ((f 1).cluster 0).allEnded 0 = false
      ∧ (f 1).engineSpan 0 ((f 1).coreCtx 0) ((f 1).mg 0 0).user .copyWrite (((f 1).mg 0 0).out + BitVec.ofNat 64 (8 * ((f 1).mg 0 0).emitted)) 8
        = .ok [(.hbm 0x7000, 8)]
      ∧ ((f 0).mg 0 0).outcap ≤ ((f 0).mg 0 0).emitted
      ∧ (((emitting true).updMg 0 0 (fun m => { m with buf := [(0, 5, 0x80000000)] })).mg 0 0).sumAt 5 = 0x80000000 := by decide

end Sys2Proof.Tests
end

