-- ==== Sys2Proof/Tests/Witness4.lean ====
section
/-! SUPPORT. Witnesses, fourth part: lists, halters, scene forms, control, traps, the events of cores and contexts. -/

namespace Sys2Proof.Tests

open Sys2Proof Sys2Proof.Machine Sys2Proof.Safety

set_option maxRecDepth 20000

/-- Ray slot 63 in register 12; 32 bytes at local 0x100 in register 13; rank 5 of context 0 is core 0. -/
def listing (a : Word) : State :=
  (loc 0x100 (dwords [1, 2, 3, 4]) (sup [(12, a), (13, la 0x100), (14, 127)])).updCtx 0 (fun x => { x with ranks := [(5, mkRank 0 0)] })
theorem witness_list : let s := listing 63
    bits (s.reg 12) 63 6 = 0 ∧ s.myCore.ilQ.length < 3 ∧ bits (s.reg 14) 63 7 = 0 ∧ bits (s.reg 14) 63 10 = 0 ∧ Fresh s
      ∧ s.myCore.mayBeMode 63 .spill 1 = false ∧ s.myCore.mayBeMode 63 .trap 2 = false := by unfold Fresh; decide
theorem witness_list_block : ReadsLocal (listing 63) ((listing 63).reg 13) 32 32 (rl (listing 63) 0x100 32) :=
  ⟨by decide, by decide, by decide, .loc 0x100, by decide, by decide, rfl⟩
theorem witness_ilsend : let s := listing 0x3F0005; let e := s.myCtx.rank (bits (s.reg 12) 15 0)
    bits (s.reg 12) 63 22 = 0 ∧ ReadsLocal s (s.reg 13) 32 32 (rl s 0x100 32) ∧ rankV e = true
      ∧ (rankT e = true → s.heldFor s.me.ctx (bits (s.reg 12) 15 0) (dieOf s.cur.core) < 64) :=
  ⟨by decide, ⟨by decide, by decide, by decide, .loc 0x100, by decide, by decide, rfl⟩, by decide, by decide⟩
/-- Operation `o` stands alone in the list engine's queue, and slot 63 is `r`. -/
def engine (o : IlOp) (r : RaySlot) : State := (on [] []).updMyCore (fun k => { k with ilQ := [o], rays := [(63, r)] })
def ilop (k : IlKind) (block : List W32) : IlOp := ⟨0, k, 11, 63, block, 127, 0, false, [], 5, false⟩
theorem witness_listEngine : let u := (engine (ilop .cut []) RaySlot.reset).spillAll 0; let o := ilop .cut []
    (u.core 0).ilQ = [o] ∧ (u.core 0).ilReady = true ∧ ((u.core 0).ilTurn = true → (u.core 0).arrivals = [])
      ∧ u.ilAlive 0 o = true ∧ o.row < 128 := by decide
/-- Words of an ILOPEN with the third word `m`, an area at `a` of 4,096 blocks, and the last word `z`. -/
def opening (m a z : W32) : List W32 := [0, 0x3F800000, 0x3F000000, m, a, 0xFF000000, 4096, z]
theorem witness_ilopen :
    badOpen (opening 1 0 1) = true ∧ badOpen (opening 1 0xF80000 0) = false ∧ badOpen (opening 0 0 0) = false
      ∧ RaySlot.reset.state = .free ∧ { RaySlot.reset with state := .opened }.state ≠ .free
      ∧ ((Core.reset.addRange true 0 8 1).addRange true 0 8 2).freeRanges ≠ 0 ∧ { Core.reset with ranges := List.replicate 8 ⟨0, true, 0, 8⟩ }.freeRanges = 0
      ∧ spanClass 0xFF00000000000000 131072 = .none := by decide
/-- The local area is refused to the user that may write nothing, and given to the supervisor. -/
theorem witness_ilopen_prot : spanClass localBase.toNat 131072 = .loc
    ∧ ({ Core.reset with csrs := [] }.protRefused true localBase.toNat 131072 false true).isSome = true
    ∧ spanClass 0 131072 = .global := by decide
/-- A point answer at 1.0 of source `n`. -/
def point (n : W32) : Answer := Answer.ofLanes [0x3F800000, 0x3F800000, 0x3F800000, 0, 0, 1, n, 1]
/-- An OPEN slot for [0, 2.0] that holds `es`. -/
def raying (m : OvfMode) (n : Nat) (es : List Answer) : RaySlot :=
  { RaySlot.reset with state := .opened, tmin := 0, tmax := 0x40000000, tauStop := 0x7F800000, cut := 0x7F800000, mode := m, cap := n, entries := es }
def sixteen : List Answer := (List.range 16).map (fun i => point (BitVec.ofNat 32 i))
theorem witness_ilins :
    (Answer.ofLanes [0x7FC00000]).malformed = true ∧ (point 9).malformed = false ∧ (point 9).clip 0 0x40000000 = some (point 9)
      ∧ (point 9).clip 0x40000000 0x40000000 = none ∧ f32Lt 0x3F000000 (point 9).tin = true ∧ f32Lt 0x7F800000 (point 9).tin = false
      ∧ [point 9].find? (fun e => e.key == (point 9).key) = some (point 9) ∧ (∀ e ∈ sixteen, e.key ≠ (point 99).key) := by decide
theorem witness_ilins_full : let r := raying .trap 0 sixteen
    let es := insertBy Answer.key (point 99) r.entries
    let k := cutOf r.tauStop es
    let cut := if f32Le k r.cut then k else r.cut
    16 < (es.filter (fun e => !f32Lt cut e.tin)).length := by decide
theorem witness_ilins_room : let r := raying .spill 1 [point 9]
    let es := insertBy Answer.key (point 99) r.entries
    let k := cutOf r.tauStop es
    let cut := if f32Le k r.cut then k else r.cut
    (es.filter (fun e => !f32Lt cut e.tin)).length ≤ 16 ∧ r.mode = .spill ∧ r.spilledN < r.cap ∧ (raying .spill 0 []).cap ≤ (raying .spill 0 []).spilledN := by
  decide
theorem witness_ilclose : { raying .spill 1 [] with wfail := some (8, 64) }.wfail = some (8, 64) ∧ (raying .spill 1 []).wfail = none
    ∧ { raying .spill 1 [] with state := .composited, result := some (Row.ofLanes (fun _ => 0)) }.result = some (Row.ofLanes (fun _ => 0)) := by decide
def landed : Msg := ⟨0, 0, 0, ⟨1, 0⟩, 0, 5, 0, 0, .answer 63 (point 9), 0, false⟩
theorem witness_listArrival : let s := (on [] []).updCore 0 (·.takeAnswer landed 63 (point 9))
    (s.core 0).arrivals = [⟨landed, 63, point 9⟩] ∧ (s.core 0).ilReady = false ∧ ∀ p ∈ s.ctxs, p.2.evWait = [] := by decide
theorem witness_listComposite : f32Eq (point 9).tin (point 9).tout = true := by decide

/-- A direct halter of tensor 7 of this device's die 0, at weight exponent `e`. -/
def hal (e : Nat) : Word := BitVec.ofNat 64 (7 * 2 ^ 34 + e * 2 ^ 27)
def halting (h : Word) : State := on [(12, h), (13, h)] []
theorem witness_halter : (halting (hal 62)).me.atHome = false ∧ (halting (hal 62)).myCore.halterFull = false ∧ hal 62 ≠ 0 ∧ halBad (hal 62) = false ∧ 1 ≤ halE (hal 62)
    ∧ (11 : Reg) ≠ 0 ∧ (11 : Reg) ≠ 12 ∧ (12 : Reg) ≠ 13 ∧ (halting (hal 61)).reg 13 = (halting (hal 61)).reg 12 ∧ halE (hal 61) ≠ 62
    ∧ hal 0 ≠ 0 ∧ halBad (hal 0) = false ∧ halE (hal 0) = 0 ∧ ((halting (hal 0)).die (dieOf (halting (hal 0)).cur.core)).freeCell = some 0
    ∧ (halting (hal 0)).hasRoute (halDest (hal 0) 0).dev = true ∧ (halting 0).reg 12 = 0 ∧ halBad 1 = true
    ∧ (halting (hal 0)).myCore.halNums = [] ∧ (halting (hal 0)).release.myCore.halNext = 1
    ∧ (halting (hal 0)).hasRoute (halDest (hal 0 ||| (1#64 <<< 56)) 0).dev = false ∧ halE (hal 62) = 62 := by decide
/-- Slot 1's HNEW is in the halter unit. -/
def inUnit (h : Word) : State := (halting h).updMyCore (fun k => { k with
  threads := k.threads.set 1 { Thread.reset with state := .blocked (.halter 1 0 none false) 0, word := wordOf (.hnew 11 12) } })
theorem witness_halter_queued : (inUnit (hal 5)).me.atHome = false ∧ (inUnit (hal 5)).myCore.halterFull = false
    ∧ (inUnit (hal 5)).myCore.halNums ≠ [] ∧ (inUnit (hal 5)).release.myCore.halNext ≠ 1 ∧ hal 5 ≠ 0 ∧ halBad (hal 5) = false := by decide
theorem witness_hbind : let s := (carded 0x1000 .card).setReg 12 (hal 5) |>.setReg 13 0x400
    s.me.atHome = false ∧ s.myCore.halterFull = false ∧ s.reg 12 ≠ 0 ∧ halBad (s.reg 12) = false ∧ bits (s.reg 13) 5 0 = 0 ∧ addrClass (s.reg 13) = .global
      ∧ s.check s.cur (s.reg 13) 64 64 .read = .ok (.hbm 0x400) ∧ s.meetsBad s.cur.core (.hbm 0x400) 64 = false := by decide
/-- An HBIND's card address that is misaligned, and one that is no global address. -/
theorem witness_hbind_misaligned : (halting (hal 5)).me.atHome = false ∧ (halting (hal 5)).myCore.halterFull = false ∧ bits 0x420#64 5 0 ≠ 0
    ∧ bits (1#64 <<< 56) 63 56 ≠ 0 := by decide
theorem witness_hbind_card : let s := (carded 0x1000 .card).setReg 12 (hal 5) |>.setReg 13 0x400
    parseCard 0x400 (s.loadBytes s.cur.core (.hbm 0x400) 64) = some (cardOf .card, 0) := by rfl
/-- `i` waits as the halter unit's first operation, with status `st` and card `c` found. -/
def atUnit (i : Instr) (st : Nat) (c : Option Card) (s : State) : State :=
  s.updMe (fun t => { t with state := .blocked (.halter 1 st c false) 0, word := wordOf i })
theorem witness_hnew_reply : let s := after (.hnew 11 12) (halting 0x77); let th : ThreadId := ⟨0, 0⟩
    (∃ l, (s.thread th).state = .blocked (.halter 1 0 none false) l) ∧ (s.core 0).halTurn 1 = true
      ∧ (s.thread th).word = wordOf (.hnew 11 12) ∧ (s.ctx (s.thread th).ctx).nextTensor (dieOf 0) = some 1 :=
  ⟨⟨_, rfl⟩, by decide, by decide, by decide⟩
/-- A die whose 0xFFFFF ids are all taken. -/
theorem witness_hnew_full (t : Tensor) : ({ Ctx.reset with tensors := [(0, List.replicate 0xFFFFF (1, t))] } : Ctx).nextTensor 0 = none := by
  have h : ({ Ctx.reset with tensors := [(0, List.replicate 0xFFFFF (1, t))] } : Ctx).tensors.get [] 0 = List.replicate 0xFFFFF (1, t) := rfl
  unfold Ctx.nextTensor
  simp only [h, List.length_replicate, Nat.le_refl, if_true]
/-- Tensor 7 is LIVE with weight `sum`. -/
def live (sum : Nat) (h : Word) : State := (halting h).setTensor 0 0 7 ⟨.live, sum, 0x5000, none⟩
theorem witness_haddr_reply : let s := atUnit (.haddr 11 12) 0 none (live 0 (hal 5)); let h := (s.thread ⟨0, 0⟩).reg 12
    (s.thread ⟨0, 0⟩).state = .blocked (.halter 1 0 none false) 0 ∧ (s.core 0).halTurn 1 = true ∧ (s.thread ⟨0, 0⟩).word = wordOf (.haddr 11 12)
      ∧ h ≠ 0 ∧ halBad h = false ∧ halDev h = s.devNum ∧ (s.ctx 0).tensor (halDie h) (halId h) = some ⟨.live, 0, 0x5000, none⟩
      ∧ ((halting (hal 5)).ctx 0).tensor (halDie h) (halId h) = none := by decide
/-- Tensor 7 is LIVE with a card. -/
def bound : State := (halting (hal 5)).setTensor 0 0 7 ⟨.live, 0, 0x5000, some card0⟩
theorem witness_hbind_reply : let s := atUnit (.hbind 11 12 13) 0 (some card0) (live 0 (hal 5)); let h := (s.thread ⟨0, 0⟩).reg 12
    (s.thread ⟨0, 0⟩).state = .blocked (.halter 1 0 (some card0) false) 0 ∧ (s.core 0).halTurn 1 = true
      ∧ (s.thread ⟨0, 0⟩).word = wordOf (.hbind 11 12 13) ∧ h ≠ 0 ∧ halBad h = false ∧ halDev h = s.devNum
      ∧ (s.ctx 0).tensor (halDie h) (halId h) = some ⟨.live, 0, 0x5000, none⟩ ∧ ((halting (hal 5)).ctx 0).tensor (halDie h) (halId h) = none
      ∧ (bound.ctx 0).tensor (halDie h) (halId h) = some ⟨.live, 0, 0x5000, some card0⟩ := by decide
theorem witness_unit_reply :
    (∀ i ∈ [Instr.hbind 11 12 13, .hwgt 11 12, .hcopy 11 12, .hmerge 11 12 13],
      let s := atUnit i 1 none (halting (hal 5))
      (s.thread ⟨0, 0⟩).state = .blocked (.halter 1 1 none false) 0 ∧ (s.core 0).halTurn 1 = true ∧ (s.thread ⟨0, 0⟩).word = wordOf i
        ∧ 1 ≤ halE ((s.thread ⟨0, 0⟩).reg 12)) := by decide
/-- Weight `n` on its way to tensor 7, and to cell 3. -/
def arriving (sum n : Nat) : State := { live sum (hal 0) with
  weights := [⟨.tensor 0 0 0 7, n, 0, 0, ⟨0, 0⟩, 0⟩, ⟨.cell 0 0 3, n, 0, 0, ⟨0, 0⟩, 0⟩]
  dies := [(0, { Die.reset with cells := [(3, ⟨hal 0, sum, 0⟩)] })] }
theorem witness_arrivals : let s := arriving (2 ^ 61) (2 ^ 61)
    s.weights[0]? = some ⟨.tensor 0 s.devNum 0 7, 2 ^ 61, 0, 0, ⟨0, 0⟩, 0⟩ ∧ s.weights[1]? = some ⟨.cell s.devNum 0 3, 2 ^ 61, 0, 0, ⟨0, 0⟩, 0⟩
      ∧ (s.ctx 0).tensor 0 7 = some ⟨.live, 2 ^ 61, 0x5000, none⟩
      ∧ (s.die 0).cells.find? (fun c => c.1 == 3) = some (3, ⟨hal 0, 2 ^ 61, 0⟩)
      ∧ 2 ^ 61 + 2 ^ 61 = 2 ^ 62 ∧ 2 ^ 61 + 1 < 2 ^ 62 ∧ 2 ^ 62 < 2 ^ 61 + (2 ^ 61 + 1) := by decide
/-- The full weight comes to a tensor with a card; the card may be launched, waits for a kernel to retire, or may not be launched. -/
def dead : State :=
  (bound.updCtx 0 (fun x => { x with queues := [(0, { Queue.reset with kind := .card })] })).setTensor 0 0 7 ⟨.dead, 2 ^ 62, 0x5000, some card0⟩
theorem witness_finaliser : let y := dead; let z := dead.updCtx 0 (fun x => { x with queues := [(2, { Queue.reset with kind := .card })] })
    let late := z.updCtx 0 (fun x => { x with kernels := List.replicate 1024 ⟨4, .running, card0, 0, [], false, false, [], none, none, []⟩ })
    y.finalOuts 0 card0 = (some card0, y) ∧ y.launchCode 0 card0 = 3 ∧ z.finalOuts 0 card0 = (some card0, z) ∧ z.launchCode 0 card0 = 0
      ∧ late.finalOuts 0 card0 = (some card0, late) ∧ late.launchCode 0 card0 = 4
      ∧ ∃ u, y.finalOuts 0 { card0 with outAt := 0x10000 } = (none, u) := ⟨rfl, rfl, rfl, rfl, rfl, rfl, _, rfl⟩
/-- A tensor that is poisoned, or FREE; a FREE cell, and one that its weight overfills. -/
theorem witness_arrivals_other : let s := arriving 5 6; let full := arriving (2 ^ 61 + 1) (2 ^ 61)
    ((s.setTensor 0 0 7 ⟨.poisoned, 2 ^ 63, 0x5000, none⟩).ctx 0).tensor 0 7 = some ⟨.poisoned, 2 ^ 63, 0x5000, none⟩
      ∧ ((State.reset.ctx 0).tensor 0 7 = none) ∧ (State.reset.die 0).cells.find? (fun c => c.1 == 3) = none
      ∧ (full.die 0).cells.find? (fun c => c.1 == 3) = some (3, ⟨hal 0, 2 ^ 61 + 1, 0⟩) ∧ 2 ^ 62 < 2 ^ 61 + 1 + 2 ^ 61
      ∧ (full.ctx 0).tensor 0 7 = some ⟨.live, 2 ^ 61 + 1, 0x5000, none⟩ := by decide
theorem witness_split : 1 ≤ halE (hal 1) ∧ halE (hal 62) ≤ 62 ∧ halBad (hal 1) = false := by decide

/-- A texture descriptor at local 0x100 with `w` as its first dword, which TEXBASE names. -/
def textured (w : Word) : State := loc 0x100 (dwords [w, 0, 0, 0]) (on [] [(0, 1), (0x0C0, la 0x100)])
theorem witness_texl : let s := textured 0x122
    ReadsLocal s (s.me.csr 0x0C0) 32 32 (rl s 0x100 32) ∧ ∃ x, TexDesc.parse (rl s 0x100 32) = some x ∧ x.minmap = 0 ∧ x.feedback = 0 :=
  ⟨⟨by decide, by decide, by decide, .loc 0x100, by decide, by decide, rfl⟩, _, rfl, by decide, by decide⟩
/-- The same with a map at 0x400 and one at 0x800: every lane asks for region 0. -/
def mapped2 : State := loc 0x100 (dwords [0x122, 0x400, 0x800, 0]) (paged (on [] [(0, 1), (0x0C0, la 0x100)]))
theorem witness_texl_maps : let s := mapped2; let u := s.acquire .device
    ReadsLocal s (s.me.csr 0x0C0) 32 32 (rl s 0x100 32) ∧ ∃ x, TexDesc.parse (rl s 0x100 32) = some x ∧ x.minmap ≠ 0 ∧ x.feedback ≠ 0
      ∧ (∀ i, i < 16 → Loads u (x.minmap + BitVec.ofNat 64 (4 * x.region ((s.row 1).lane i) ((s.row 2).lane i))) 4 (.hbm 0x400))
      ∧ ∀ i, i < 16 → u.check s.cur (x.feedback + BitVec.ofNat 64 (4 * x.region ((s.row 1).lane i) ((s.row 2).lane i))) 4 4 .atomic = .ok (.hbm 0x800) :=
  ⟨⟨by decide, by decide, by decide, .loc 0x100, by decide, by decide, rfl⟩, _, rfl, by decide, by decide,
    fun i h => ⟨by revert i; decide, by decide, nofun⟩, by decide⟩
theorem witness_texl_bad : let s := textured 0
    ReadsLocal s (s.me.csr 0x0C0) 32 32 (rl s 0x100 32) ∧ TexDesc.parse (rl s 0x100 32) = none :=
  ⟨⟨by decide, by decide, by decide, .loc 0x100, by decide, by decide, rfl⟩, by decide⟩

theorem witness_jumps : badTarget 0x00FFFFFFFFFFFFFC = false ∧ badTarget 2 = true ∧ badTarget 0x0100000000000000 = true := by decide
theorem witness_call_ret : (on [] []).me.resident ≠ 5 ∧ badTarget ((on [(12, 0x40)] []).reg 12) = false ∧ (on [] []).me.spilled = 0
    ∧ (on [] []).me.resident = 1 := by decide
/-- `n` frames are resident and w7 is `l`. -/
def framed (n : Nat) (l wbase wlimit : Word) : State :=
  (paged (on [(15, l)] [(0, 1), (0x021, wbase), (0x022, wlimit)])).updMe (fun t => { t with resident := n })
theorem witness_ret : (framed 2 3 0 0).me.resident ≠ 1 ∧ badTarget ((framed 2 3 0 0).reg 15) = true ∧ 2 ≤ (framed 5 0x40 0 0).me.resident
    ∧ badTarget ((framed 5 0x40 0 0).reg 15) = false := by decide
theorem witness_spill_overflow : let s := framed 5 0x40 0xA000 0x9F79
    s.me.resident = 5 ∧ (s.me.wbase - 136).toNat < s.me.wlimit.toNat := by decide
theorem witness_spill : let s := framed 5 0x40 0xA000 0x9F78; let nb := s.me.wbase - 136
    s.me.resident = 5 ∧ s.me.wlimit.toNat ≤ nb.toNat ∧ s.me.spilled ≠ 65535 ∧ s.recordMiss nb .write = none ∧ s.storeFull s.cur = false := by
  decide
theorem witness_spill_places : let s := framed 5 0x40 0xA000 0x9F78
    ∃ x ps, s.checkDwords (s.me.wbase - 136) (s.me.spillWrites.map (·.1)) .write = (.ok x, ps) := ⟨_, _, rfl⟩
def filling : State := (framed 1 0x40 0xA000 0).updMe (fun t => { t with spilled := 1 })
theorem witness_fill : filling.me.spilled ≠ 0 ∧ filling.me.resident ≤ 1 ∧ badTarget (filling.reg 15) = false
    ∧ filling.checkDwords filling.me.wbase [0] .read = (.ok (.loc 0), [.hbm 0xA000]) := by decide
theorem witness_fill_places : let f := filling.fillLoads filling.me.wbase [0] [.hbm 0xA000]
    ∃ y qs, f.2.checkDwords filling.me.wbase ((lanes.filter (fun n => !(f.1.headD 0).getLsbD n)).map (fun n => 8 + 8 * n)) .read = (.ok y, qs) :=
  ⟨_, _, rfl⟩
theorem witness_callThenReturn : (on [] []).me.wptr < 88 ∧ 1 ≤ (on [] []).me.resident ∧ (on [] []).me.resident < 5
    ∧ badTarget ((on [] []).me.pc + 4) = false ∧ ∃ t u, exec (.call 4) (on [] []) = .next t ∧ exec .ret t = .next u :=
  ⟨by decide, by decide, by decide, by decide, _, _, rfl, rfl⟩

theorem witness_traps : ((on [] [(4, 0x100)]).leaveHitch ⟨0, 0⟩).me.ownHandler 15 = true ∧ ((on [] []).leaveHitch ⟨0, 0⟩).me.ownHandler 15 = false
    ∧ (on [] []).me.sup = false ∧ (sup []).me.sup = true ∧ ((sup []).leaveHitch ⟨0, 0⟩).me.ownHandler 15 = false
    ∧ ((sup []).ctx (sup []).me.ctx).state = .active := by decide
theorem witness_trapReturn : let r : LungeRec := ⟨0x100, 1, 1, 0, 0, 0, 0, []⟩
    let s := (on [] []).updMe (fun t => { t with lunge := some r }); s.me.lunge = some r := by rfl

theorem witness_waits : (on [] []).me.hitch = none ∧ ((on [] []).latchThread ⟨0, 0⟩).me.latch = true ∧ (on [] []).me.latch = false
    ∧ (on [] []).myCore.line = false := by decide
/-- CHKPEND reads 1; a live-range table with first dword `w` stands at 0x4000. -/
def parking (v w : Word) : State := (hbmAt 0x4000 (dwords [w]) (paged (sup [(12, v)]))).updMyCore (fun k => { k with line := true })
theorem witness_chkpt_bad : (parking 0x4004 0).myCore.line = true ∧ bits ((parking 0x4004 0).reg 12) 2 0 ≠ 0 := by decide
theorem witness_chkpt : let s := parking 0x4000 (1#64 <<< 56); let v := s.reg 12
    s.myCore.line = true ∧ bits v 2 0 = 0 ∧ addrClass v = .global ∧ v.toNat % 65536 + 40 ≤ 65536 ∧ s.check s.cur v 40 8 .read = .ok (.hbm 0x4000)
      ∧ s.meetsBad s.cur.core (.hbm 0x4000) 40 = false ∧ bits (dwordAt (s.loadBytes s.cur.core (.hbm 0x4000) 40) 0) 55 48 = 0
      ∧ tableOk (dwordsOf (s.loadBytes s.cur.core (.hbm 0x4000) 40)) = true := by decide
theorem witness_chkpt_table : tableOk (dwordsOf ((parking 0x4000 0).loadBytes 0 (.hbm 0x4000) 40)) = false := by decide

theorem witness_drain : let s := after (.st 12 13 0 .w) (sup [(13, la 0x100)])
    (∃ e r, (s.core 0).stores = e :: r ∧ (∀ f ∈ r, e.serial < f.serial) ∧ e.isRelease = false) ∧ ∀ x ∈ s.stale, x.die ≠ dieOf 0 :=
  ⟨⟨_, _, rfl, by simp, by decide⟩, by decide⟩
/-- WAITC waits, with the limit of one cycle. -/
theorem witness_waitto : let s := after (.waitc 0 3 12) (on [(12, 1)] [])
    ∃ w l, (s.thread ⟨0, 0⟩).state = .blocked w l ∧ w.limited = true ∧ l ≠ 0 ∧ s.waitOver ⟨0, 0⟩ w = false
      ∧ (s.ctx (s.thread ⟨0, 0⟩).ctx).state = .active := ⟨_, _, rfl, by decide, by decide, by decide, by decide⟩
theorem witness_chkmax : let s := (on [] []).setCore 1 { Core.reset with
      line := true, group := some (0, 1), threads := [(2, { Thread.reset with state := .blocked .latch 0 })] }
    (s.core 1).line = true ∧ s.serviceCore (s.coreCtx 1) ≠ some 1 ∧ (s.thread ⟨1, 2⟩).state = .blocked .latch 0 := by decide
theorem witness_icFill : let s := (on [] []).icMissAt ⟨0, 0⟩
    (s.cluster 0).icMisses = [⟨0, 0⟩] ∧ (s.thread ⟨0, 0⟩).state = .blocked .icache 0 := by decide
/-- A pre-emption of context 0 stands in the mailbox of die 0, and where `two` says so in that of die 1; core 1 has a thread. -/
def asked (two : Bool) : State :=
  let m : Command := ⟨⟨0, 1, 0, 0, false, 0, 0⟩, 0x24, .preempt, true⟩
  { (on [] []).setCore 1 { Core.reset with group := some (0, 1), threads := [(0, { Thread.reset with state := .ready })] } with
    dies := [(0, { Die.reset with mailbox := [m] }), (1, { Die.reset with mailbox := if two then [m] else [] })]
    conns := [(0, ⟨some 1, 0, []⟩)] }
theorem witness_mailbox_two : ∃ m, ((asked true).die 0).mailbox = [m] ∧
    m ∈ (((asked true).updDie 0 (fun x => { x with mailbox := [] })).die 1).mailbox ∧ m.is m.hdr = true := ⟨_, rfl, by decide, by decide⟩
theorem witness_mailbox : let m : Command := ⟨⟨0, 1, 0, 0, false, 0, 0⟩, 0x24, .preempt, true⟩; let s := asked false
    (s.die 0).mailbox = [m] ∧ Waiting s 0 m ∧ m.hdr.ctx < 16 ∧ (s.ctx 0).state = .active
      ∧ (∀ c ∈ s.paddockCores 0, ∀ p ∈ (s.core c).threads, p.2.state.live = true → (p.2.csr 0x051).setWidth 32 ≠ 0#32)
      ∧ 1 ∈ s.paddockCores 0 ∧ s.serviceCore 0 ≠ some 1 ∧ (s.core 1).still = false := by
  refine ⟨rfl, ⟨⟨[], rfl, by decide⟩, fun k hk e he => ?_, by decide, by decide⟩, by decide, by decide, by decide, by decide, by decide, by decide⟩
  exfalso
  match k with
  | 0 => exact hk rfl
  | 1 => exact List.not_mem_nil he
  | k + 2 => exact List.not_mem_nil he
theorem witness_kernelRetirement : let k : Kernel := ⟨4, .retiring, card0, 0, [], false, true, [], none, none, []⟩
    let s := (on [] []).updCtx 0 (fun x => { x with kernels := [k] })
    (s.ctx 0).kernel 4 = some k ∧ s.kernelQuiet 0 k = true ∧ (s.ctx 0).state = .active := by decide
/-- Kernel 4 has its TCB at 0x4000: without a successor that is due at retirement, and with one at 0x5000, which is PENDING with one
predecessor and is kernel 9's. -/
def tcbs (n e : Word) : State :=
  (hbmAt 0x4000 (dwords [0x400000000, 0, n, e]) (hbmAt 0x5000 (dwords [0x900000001, 0, 0x10]) (paged (on [] [])))).updCtx 0 (fun x => { x with
    kernels := [⟨4, .retiring, card0, 0x4000, [], false, true, [], none, none, []⟩, ⟨9, .pending, card0, 0x5000, [], false, false, [], none, none, []⟩] })
theorem witness_tcb : ∀ s ∈ [tcbs 0x29 0x5001, tcbs 0x29 0x5000], let u := s.dirtyAt (32 * s.firstDie 0) 0 0x4000
    let bs := u.homeBytes (512 * s.firstDie 0) (.hbm 0x4000) 64
    (∃ k, (s.ctx 0).kernel 4 = some k ∧ k.state = .retiring ∧ k.tcb = 0x4000 ∧ s.kernelQuiet 0 k = true) ∧ (s.ctx 0).state = .active
      ∧ s.tcbPlace 0 (s.firstDie 0) 0x4000 = .ok (.hbm 0x4000) ∧ s.tcbPlace 0 (s.firstDie 0) 0x5000 = .ok (.hbm 0x5000)
      ∧ min 5 (tcbNsucc bs) = 1 := by
  intro s hs
  simp only [List.mem_cons, List.not_mem_nil, or_false] at hs
  rcases hs with rfl | rfl <;> exact ⟨⟨_, rfl, rfl, rfl, by decide⟩, by decide, by decide, by decide, by decide⟩
theorem witness_successor : let bs := fun (s : State) => s.homeBytes 0 (.hbm 0x4000) 64
    (dwordAt (bs (tcbs 0x29 0x5001)) 24).getLsbD 0 = true ∧ (dwordAt (bs (tcbs 0x29 0x5000)) 24).getLsbD 0 = false
      ∧ bits (dwordAt ((tcbs 0x29 0x5000).homeBytes 0 (.hbm 0x5000) 64) 0) 31 0 = 1 ∧ tcbState ((tcbs 0x29 0x5000).homeBytes 0 (.hbm 0x5000) 64) = 1 := by
  decide
theorem witness_swap : let s := State.reset.updDie 0 (·.touch 0 4)
    (s.die 0).swaps.contains (0, 4) = true ∧ (s.die 0).resident.length < 256 := by decide
/-- 256 descriptors are resident, none of them pinned. -/
theorem witness_swap_full : let s := State.reset.updDie 0 (fun d => { d with swaps := [(0, 300)], resident := (List.range 256).map (fun h => (0, h)) })
    (s.die 0).swaps.contains (0, 300) = true ∧ 256 ≤ (s.die 0).resident.length
      ∧ (s.die 0).resident.find? (fun r => !((s.ctx r.1).queue r.2).pinned) = some (0, 0) := by decide
theorem witness_deadlock : let s := after .wfe (on [] [])
    (s.ctx 0).state = .active ∧ (s.ctx 0).declared = false ∧ s.quiet 0 = true := by decide

end Sys2Proof.Tests
end

