-- ==== Sys2Proof/Tests/Witness5.lean ====
section
/-! SUPPORT. Witnesses, fifth part: messages, pages, dealing, links, commands, power, encodings and steps. -/

namespace Sys2Proof.Tests

open Sys2Proof Sys2Proof.Machine Sys2Proof.Safety

set_option maxRecDepth 20000

/-- Messages of core 0 to core 1 of this device and to device 9, which port 0 leads to when `r` is set. -/
def sending (kind : MsgKind) (dev : Nat) (r : Bool) : State := { on [] [] with
  msgs := [⟨0, 0, 0, ⟨0, 0⟩, 0, 5, dev, 1, kind, 0, false⟩]
  ios := if r then [(0, { IoDie.reset with routes := [(9, 0)] })] else []
  ports := [(0, { Port.reset with state := .up })] }
theorem witness_landings : (∃ m, (sending (.send 0x100 3 [1]) 0 false).msgs[0]? = some m ∧ (sending (.send 0x100 3 [1]) 0 false).mayLand m = true
      ∧ m.dev = (sending (.send 0x100 3 [1]) 0 false).devNum ∧ m.kind = .send 0x100 3 [1])
    ∧ (∃ m, (sending (.answer 2 (Answer.ofLanes [])) 0 false).msgs[0]? = some m ∧ m.kind = .answer 2 (Answer.ofLanes [])
      ∧ ((sending (.answer 2 (Answer.ofLanes [])) 0 false).core m.core).arrivalRoom = true) :=
  ⟨⟨_, rfl, by decide, by decide, by decide⟩, _, rfl, by decide, by decide⟩
/-- What a landing SEND and an arrival need of the core, and a core whose 16 places for arrivals are taken. -/
theorem witness_landings_room : let s := sending (.send 0x100 3 [1]) 0 false
    (∀ p ∈ s.ctxs, s.serviceCore p.1 = some 1 → p.2.evWait = []) ∧ (s.core 1).mem.wf = true ∧ (s.core 1).arrivals.length < 16
      ∧ 16 ≤ ((s.updCore 1 (fun k => { k with arrivals := List.replicate 16 ⟨landed, 63, point 9⟩ })).core 1).arrivals.length := by
  decide
theorem witness_leaves : let s := sending (.send 0 0 [1]) 9 true
    ∃ m, s.msgs[0]? = some m ∧ s.mayLand m = true ∧ m.dev ≠ s.devNum ∧ s.routePort (ioOfDie (dieOf m.src.core)) m.dev = some 0
      ∧ (s.port 0).room ((Config.messageFlits s.freeCount).take 512).length = true := by
  refine ⟨_, rfl, by decide, by decide, by decide, ?_⟩
  have : (sending (.send 0 0 [1]) 9 true).port 0 = { Port.reset with state := .up } := rfl
  simp only [Port.room, this, List.length_take, decide_eq_true_eq]
  exact Nat.le_trans (Nat.add_le_add_left (Nat.min_le_left ..) _) (by decide)
theorem port_updPort (s : State) (n : Nat) (f : Port → Port) : (s.updPort n f).port n = f (s.port n) := by
  simp [State.port, State.updPort]
/-- The replay buffer is full, which a message of one flit or more does not fit. -/
theorem witness_leaves_full (hn : Config.messageFlits 0 ≠ []) :
    let s := (sending (.send 0 0 [1]) 9 true).updPort 0 (fun p => { p with unacked := List.replicate 512 ⟨⟨1, 0, 9, 0, 0, 0, 0, [], 0⟩, 0, 0, 0⟩ })
    s.routePort 0 9 = some 0 ∧ (s.port 0).room ((Config.messageFlits s.freeCount).take 512).length = false := by
  refine ⟨by decide, ?_⟩
  have h : 0 < ((Config.messageFlits 0).take 512).length := by
    rw [List.length_take]; exact Nat.lt_min.mpr ⟨by decide, List.length_pos_of_ne_nil hn⟩
  have hc : ((sending (.send 0 0 [1]) 9 true).updPort 0 (fun p =>
    { p with unacked := List.replicate 512 ⟨⟨1, 0, 9, 0, 0, 0, 0, [], 0⟩, 0, 0, 0⟩ })).freeCount = 0 := rfl
  simp only [hc, port_updPort, Port.room, List.length_replicate, decide_eq_false_iff_not]
  omega
theorem witness_noRoute : let s := sending (.send 0 0 [1]) 9 false
    ∃ m, s.msgs[0]? = some m ∧ s.mayLand m = true ∧ m.dev ≠ s.devNum ∧ s.routePort (ioOfDie (dieOf m.src.core)) m.dev = none :=
  ⟨_, rfl, by decide, by decide, by decide⟩

/-- Context 0's tables: from 0x2000 over 0x4000 and 0x6000 to 0x8000, whose entry 1 (virtual 0x10000) holds `leaf`. -/
def mapped (leaf : Word) (s : State) : State :=
  (hbmAt 0x8008 (wordBytes leaf) (hbmAt 0x6000 (wordBytes 0x8001) (hbmAt 0x4000 (wordBytes 0x6001) (hbmAt 0x2000 (wordBytes 0x4001) s)))).updCtx 0
    (fun x => { x with root := 0x2000 })
def walks (leaf : Word) : State := (mapped leaf (on [] [])).updDie 0 (fun d =>
  { d with coal := [(2, { Coal.reset with state := .walking, page := 1, va := 0x10000, reqs := [.thread ⟨0, 0⟩] })] })
theorem witness_walk : let s := walks 0x100DF
    (s.coalAt 0 2).state = .walking ∧ s.earlierWalk 0 (s.coalAt 0 2).seq = false
      ∧ ∃ t' u, s.walk (512 * 0) (s.coalAt 0 2).ctx (BitVec.ofNat 64 (s.coalAt 0 2).va) (s.coalAt 0 2).access (s.coalAt 0 2).user = (.ok t', u) :=
  ⟨by decide, by decide, _, _, rfl⟩
theorem witness_walk_fault : let s := walks 0
    (s.coalAt 0 2).state = .walking ∧ s.earlierWalk 0 (s.coalAt 0 2).seq = false
      ∧ ∃ l r u, s.walk (512 * 0) (s.coalAt 0 2).ctx (BitVec.ofNat 64 (s.coalAt 0 2).va) (s.coalAt 0 2).access (s.coalAt 0 2).user = (.error (l, r), u) :=
  ⟨by decide, by decide, _, _, _, rfl⟩
/-- A fault message, and a buffer with records 0 to `n - 1`. -/
def faulting (n : Nat) : State :=
  let r : FaultRec := ⟨0, 0, 0, 0, 0, 2⟩
  ({ on [] [] with faultMsgs := [⟨0, r⟩] }.updCtx 0 (fun x => { x with faults := (List.range n).map (fun k => (k, r)) })).updDie 0
    (fun d => { d with coal := [(2, { Coal.reset with state := .reported })] })
theorem witness_faultMessage : (faulting 7).faultMsgs[0]? = some ⟨0, ⟨0, 0, 0, 0, 0, 2⟩⟩ ∧ ((faulting 7).ctx 0).faultRec 7 = none
    ∧ (∀ k, k < 7 → ((faulting 7).ctx 0).faultRec k ≠ none) ∧ (faulting 7).serviceCore 0 = some 0 := by decide
theorem witness_faultMessage_full : (faulting 8).faultMsgs[0]? = some ⟨0, ⟨0, 0, 0, 0, 0, 2⟩⟩ ∧ (∀ k, k < 8 → ((faulting 8).ctx 0).faultRec k ≠ none)
    ∧ ((faulting 8).coalAt 0 2).state = .reported := by decide

/-- Kernel 6 of one record, launched on card queue 2, with a placed group on core 1. -/
def dealing : State :=
  ((((on [] []).updCtx 0 (fun x => { x with queues := [(2, { Queue.reset with kind := .card })], lastKid := 5 })).addKernel 0 card0 0 false none).updCtx 0
    (fun x => { x with groups := [⟨1, 6, 0, [1], .placed, none⟩] })).updDie 0 (fun d => { d with resident := [(0, 2)] })
/-- Die 0 as its deal decision sees it, and the work that it chooses. -/
def afterTouch (s : State) : State :=
  (s.works 0).foldl (fun s w => s.drainReserve 0 w) ((s.works 0).foldl (fun s w => s.dealTouch w.ctx w.handle) s)
def chosen (s : State) : Option Work := ((afterTouch s).die 0).choose ((s.works 0).filter ((afterTouch s).dealReady 0))
theorem witness_deal : let s := dealing
    ∃ w v, chosen s = some w ∧ ((afterTouch s).die w.queue.home).isResident w.ctx w.handle = true
      ∧ let d := (afterTouch s).updDie 0 (·.decided (s.works 0) w)
        d.asking w 0 ≠ [] ∧ d.workAt w.ctx w.handle ((d.ctx w.ctx).queue w.handle) 0 = some v ∧ d.asker v 0 = some ⟨1, 6, 0, [1], .placed, none⟩ := by
  refine ⟨_, _, rfl, by rfl, by decide, rfl, ?_⟩
  simp only [State.asker]
  exact congrArg (fun n => ([⟨1, 6, 0, [1], .placed, none⟩] : List Group)[n]?) (Nat.mod_one _)
/-- The descriptor of the queue is not resident. -/
theorem witness_deal_swapped : let s := dealing.updDie 0 (fun d => { d with resident := [] })
    ∃ w, chosen s = some w ∧ ((afterTouch s).die w.queue.home).isResident w.ctx w.handle = false := ⟨_, rfl, by rfl⟩
/-- Context 0 has no group: the decision places one on core 0. -/
def unplaced : State := (dealing.updCtx 0 (fun x => { x with groups := [] }))
theorem witness_deal_places : let s := unplaced
    ∃ w l v, chosen s = some w ∧ ((afterTouch s).die w.queue.home).isResident w.ctx w.handle = true
      ∧ let d := (afterTouch s).updDie 0 (·.decided (s.works 0) w)
        let p := l.foldl (fun s cs => s.placeGroup w 0 cs) d
        d.asking w 0 = [] ∧ d.placement w 0 = some l ∧ p.workAt w.ctx w.handle ((p.ctx w.ctx).queue w.handle) 0 = some v
          ∧ p.asker v 0 = some ⟨0, 6, 0, [1], .placed, none⟩ := by
  refine ⟨_, _, _, rfl, by rfl, by rfl, rfl, rfl, ?_⟩
  simp only [State.asker]
  exact congrArg (fun n => ([⟨0, 6, 0, [1], .placed, none⟩] : List Group)[n]?) (Nat.mod_one _)
theorem witness_deal_none : let s := on [] []; let ws := s.works 0
    let u := ws.foldl (fun s w => s.drainReserve 0 w) (ws.foldl (fun s w => s.dealTouch w.ctx w.handle) s)
    (u.die 0).choose (ws.filter (u.dealReady 0)) = none := by rfl
theorem witness_dealGroups : (∃ w, chosen dealing = some w ∧ w.queue.kind = .card ∧ w.card.ord = false) ∧ { card0 with ord := true }.ord = true
    ∧ { Queue.reset with kind := .node }.kind = .node := ⟨⟨_, rfl, rfl, rfl⟩, rfl, rfl⟩
/-- An overdue queue and a fresh one; two fresh ones. -/
theorem witness_choose : ∃ w, chosen dealing = some w ∧ let d := { dealing.die 0 with aging := [((w.ctx, w.handle), 40000)] }
    8 * 4096 ≤ d.age w.ctx w.handle ∧ d.choose [{ w with handle := 7 }, w] = some w ∧ ¬ 8 * 4096 ≤ d.age w.ctx 7 ∧ w.ctx < 1024 :=
  ⟨_, rfl, by decide, by rfl, by decide, by decide⟩
theorem witness_chunk : 65535 < 2 ^ 64 ∧ 10 ≤ (10 : Reg).toNat ∧ (1 : Nat) ≤ 1 := by decide
/-- A frame record at 0x1000 for endpoint `e` and a done word at `done`; engine 0 has endpoint 3 bound. -/
def framing (e done : Word) : State :=
  { (hbmAt 0x1000 (dwords [0x8000, 0xA000, 0x4000400040, 0, e, 9, 0, done]) (paged (on [] []))).updCtx 0 (fun x => { x with
      queues := [(4, { Queue.reset with kind := .encoder, base := 0x1000, capacity := 4, rbytes := 64, occupied := 1, undealt := 1 })] }) with
    encoders := [(0, { Encoder.reset with binds := [(3, 1)] })] }
def frameOf (e done : Word) : Frame := dwordsOf ((framing e done).engineBytes (512 * 0) (.hbm 0x1000) 64)
/-- The state in which engine 0 has read its record. -/
def framed' (e done : Word) : State := (framing e done).readBy (512 * 0) [(.hbm 0x1000, 64)]
theorem witness_encode_queue : ((framing 3 0).encoder 0).held = none ∧ ((framing 3 0).encoder 0).owes = none ∧ (∃ q, (framing 3 0).encoderQueue 0 = some (0, 4, q) ∧ q.home = 0 ∧ q.base = 0x1000 ∧ q.head = 0)
    ∧ (framing 3 0).encTranslate 0 0 0x1000 .copyRead = .ok (.hbm 0x1000) :=
  ⟨by decide, by decide, ⟨_, rfl, rfl, rfl, rfl⟩, by decide⟩
theorem witness_encode : (frameOf 3 0).refused ((framing 3 0).encoder 0) = false ∧ (framing 3 0).frameFailed 0 0 4 = false ∧ ((framing 3 0).encoder 0).doneFails = false ∧ (frameOf 3 0).done = 0 := by decide
theorem witness_encode_reads : ∀ a ∈ (frameOf 3 0).reads, ∃ p, (framed' 3 0).encTranslate 0 0 a.1 .copyRead = .ok p := by
  have h : (frameOf 3 0).reads.all (fun a => match (framed' 3 0).encTranslate 0 0 a.1 .copyRead with | .ok _ => true | _ => false) = true := by
    decide +kernel
  intro a ha
  have := List.all_eq_true.mp h a ha
  split at this
  · exact ⟨_, by assumption⟩
  · exact absurd this (by decide)
theorem witness_encode_done : (frameOf 3 0xF000).refused ((framing 3 0xF000).encoder 0) = false ∧ (frameOf 3 0xF000).done = 0xF000
    ∧ (framed' 3 0xF000).fresh.encTranslate 0 0 0xF000 .copyWrite = .ok (.hbm 0xF000) := by decide
theorem witness_encode_refused : (frameOf 4 0xF000).refused ((framing 4 0xF000).encoder 0) = true ∧ ((framing 4 0xF000).encoder 0).doneFails = false
    ∧ (frameOf 4 0xF000).done = 0xF000 ∧ doneOk 0xF000 = true ∧ (framed' 4 0xF000).encTranslate 0 0 0xF000 .copyWrite = .ok (.hbm 0xF000) := by decide

/-! Links. -/

theorem flitOk_sealFlit (f : Flit) : flitOk (sealFlit f) = true := beq_self_eq_true _
theorem flitOk_wrong (f : Flit) : flitOk { f with crc := crc32c (flitBody f) + 1 } = false := by
  show (crc32c (flitBody f) + 1 == crc32c (flitBody f)) = false
  exact beq_eq_false_iff_ne.mpr (by bv_omega)
/-- Port 0 in a state, with flit 5 in its replay buffer, sent `k` times again; port 1 is up and device 8 is reached by it. -/
def ported (x : LinkState) (k : Nat) : State := { on [] [] with
  ports := [(0, { Port.reset with state := x, txSeq := 6, rxSeq := 0xFFF, unacked := [⟨sealFlit ⟨1, 0, 9, 0, 5, 0, 0, [], 0⟩, 0, 0, k⟩] }),
    (1, { Port.reset with state := .up })]
  ios := [(0, { IoDie.reset with routes := [(8, 1)] })] }
/-- A flit from device 7, whose fields after the type are given. -/
def flit (hops : BitVec 4) (dst : BitVec 8) : Flit := sealFlit ⟨1, hops, dst, 7, 0xFFF, 5, 3, [1], 0⟩
theorem witness_flits (x : LinkState) : let s := ported x 0
    (s.port 0).state = x ∧ (s.io 0).held = [] ∧ (s.io 1).held = []
      ∧ (∀ hops dst, flitOk (flit hops dst) = true ∧ (flit hops dst).type = 1 ∧ (flit hops dst).seq = (s.port 0).rxSeq)
      ∧ (flit 0 0).dst.toNat = s.devNum ∧ (flit 15 8).dst.toNat ≠ s.devNum ∧ (flit 15 8).hops = 15 ∧ (flit 3 8).hops ≠ 15
      ∧ (flit 3 9).dst.toNat ≠ s.devNum ∧ (flit 3 9).hops ≠ 15 ∧ s.routePort (ioOfPort 0) 9 = none
      ∧ s.routePort (ioOfPort 0) (flit 3 8).dst.toNat = some 1 ∧ (s.port 1).unacked.length < 512 := by
  refine ⟨rfl, rfl, rfl, fun hops dst => ⟨flitOk_sealFlit _, rfl, rfl⟩, rfl, ?_, rfl, ?_, ?_, ?_, rfl, rfl, ?_⟩ <;>
    simp [flit, sealFlit, ported, on, State.reset, State.port, Tbl.get, Port.reset]
/-- The port to device 8 has its replay buffer full: a flit for it is held. -/
theorem witness_flit_held : let s := (ported .up 0).updPort 1 (fun p => { p with unacked := List.replicate 512 ⟨flit 0 8, 0, 0, 0⟩ })
    ∀ q, s.routePort (ioOfPort 0) 8 = some q → q ≠ 0 ∧ 512 ≤ (s.port q).unacked.length := by
  intro s q h
  obtain rfl : q = 1 := Option.some.inj (h.symm.trans (by rfl))
  simp only [s, port_updPort, List.length_replicate]
  decide
/-- Whatever the flits of device 7 carry, one of the two clauses on a flit for this device applies. -/
theorem witness_arrived (ps : List (List Byte)) :
    Config.arrivedMessage 7 ps = none ∨ ∃ ns bs, Config.arrivedMessage 7 ps = some (ns, bs) := by
  cases Config.arrivedMessage 7 ps with
  | none => exact .inl rfl
  | some x => exact .inr ⟨x.1, x.2, rfl⟩
theorem witness_nak : ∀ k ∈ [6, 7], let p := (ported .up k).port 0
    p.state = .up ∧ p.unacked.findIdx? (fun u => u.flit.seq == 5) = some 0 ∧ (p.unacked.drop 0).any (fun u => 7 ≤ u.resent) = decide (k = 7) := by
  intro k hk
  simp at hk
  rcases hk with rfl | rfl <;> exact ⟨rfl, rfl, by decide⟩
theorem witness_training : ((ported .training 0).port 0).state = .training ∧ ((ported .training 0).port 0).waitRetry = false
    ∧ ((ported .training 0).io 0).held = [] ∧ ((ported .training 0).io 1).held = [] ∧ ((ported .training 0).port 0).attempts < 2 :=
  ⟨rfl, rfl, rfl, rfl, by decide⟩
theorem witness_training_again : let s := (ported .training 0).updPort 0 (fun p => { p with attempts := 2 })
    (s.port 0).state = .training ∧ (s.port 0).waitRetry = false ∧ 2 ≤ (s.port 0).attempts
      ∧ ((s.updPort 0 (fun p => { p with waitRetry := true })).port 0).waitRetry = true := ⟨rfl, rfl, Nat.le_refl 2, rfl⟩
theorem witness_retraining : let s := ported .retrain 3; let t := s.updPort 0 (fun p => { p with attempts := 2 })
    (s.port 0).state = .retrain ∧ (s.io 0).held = [] ∧ (s.io 1).held = [] ∧ (s.port 0).attempts < 2 ∧ 2 ≤ (t.port 0).attempts
      ∧ (t.port 0).state = .retrain := ⟨rfl, rfl, rfl, by decide, by decide, rfl⟩
theorem witness_frontPorts : let s := on [] []
    ([1, 2] : List Byte).length ≤ 9216 ∧ (1 : Nat) < 4 ∧ ioOfConn 5 = 1 / 2
      ∧ (∀ k, (s.io (1 / 2)).keys.find? (fun k => k.1 == 5) = some k → (Config.gcmOpens k.2 [1, 2]).isSome = true) ∧ ioOfConn 5 ≠ 2 / 2 :=
  ⟨by decide, by decide, by decide, fun k h => absurd (show (none : Option (Nat × List Byte)) = some k from h) nofun, by decide⟩

/-! Commands. -/

/-- A header of connection 1 with the payload length `n`. -/
def hdrOf (x n : Nat) : CmdHdr := ⟨1, 7, x, n, false, 0, 0⟩
def hdr (x : Nat) : CmdHdr := hdrOf x 0
/-- Connection 1 has brought a packet. -/
def onLink (s : State) : State := s.useConn 1 0 0 true
theorem ready (s : State) (x n : Nat) (h : s.mgmt = Mgmt.reset) (hc : s.conns = []) (hi : s.inbox = [])
    (hu : s.uetConn 1 = some ⟨1, 0, 0, true, 1⟩) : CmdReady s (hdrOf x n) :=
  ⟨by rw [h]; rfl, by rw [h]; rfl, ⟨_, hu, rfl, rfl, by decide⟩, by simp [State.conn, hc, Conn.reset, Conn.next], hi⟩
/-- The device commands, each with the payload length that its row has. -/
theorem witness_devReady : ∀ c ∈ [Typoro.eventRead 1 255, .linkConfig (some 3) [] [], .linkConfig none [(35, true)] [],
      .linkConfig none [] [(8191, List.replicate 32 0)], .routeSet 9 (some 35), .encoderSetup 7 [(63, some 5)]],
    DevReady (onLink (on [] [])) (hdr 31) c := by
  intro c hc
  refine ⟨ready _ _ _ rfl rfl rfl rfl, ?_, rfl⟩
  simp only [List.mem_cons, List.not_mem_nil, or_false] at hc
  rcases hc with rfl | rfl | rfl | rfl | rfl | rfl <;> decide
theorem witness_alwaysReady : CmdReady (onLink (on [] [])) (hdrOf 5 32) ∧ badHdr (hdrOf 5 32) (.attestationQuote (List.replicate 32 0)) = false
    ∧ CmdReady (onLink (on [] [])) (hdr 5) ∧ badHdr (hdr 5) (.eventRead 1 255) = false :=
  ⟨ready _ _ _ rfl rfl rfl rfl, by decide, ready _ _ _ rfl rfl rfl rfl, by decide⟩
/-- A command for the dispatchers, one of an address that no page holds, and one whose mailboxes are full. -/
theorem witness_takes : let s := onLink (on [] []); let t := s.updDie 0 (fun d => { d with mailbox := List.replicate 64 ⟨hdr 0, 2, .teardown, true⟩ })
    CmdReady s (hdr 0) ∧ badHdr (hdr 0) .teardown = false ∧ s.commandDies (hdr 0) .teardown ≠ [] ∧ s.mailRoom (s.commandDies (hdr 0) .teardown) = true
      ∧ CmdReady t (hdr 0) ∧ t.commandDies (hdr 0) .teardown ≠ [] ∧ t.mailRoom (t.commandDies (hdr 0) .teardown) = false
      ∧ s.commandDies (hdr 0) (.copyToHost 0x10000 4) = [] ∧ badHdr (hdr 0) (.copyToHost 0x10000 4) = false :=
  ⟨ready _ _ _ rfl rfl rfl rfl, by decide, by decide, by decide, ready _ _ _ rfl rfl rfl rfl, by decide, by decide, by decide, by decide⟩
/-- The command stands in the mailbox of die 0. -/
def mailed (s : State) (x : Nat) (op : Nat) (c : Typoro) : State :=
  { s.updDie 0 (fun d => { d with mailbox := [⟨hdr x, op, c, true⟩] }) with conns := [(1, ⟨some 7, 0, []⟩)] }
theorem waiting (s : State) (x op : Nat) (c : Typoro) (h : ∀ k, k ≠ 0 → s.die k = Die.reset) :
    Waiting (mailed s x op c) 0 ⟨hdr x, op, c, true⟩ := by
  refine ⟨⟨[], ?_, fun e he => absurd he List.not_mem_nil⟩, fun k hk e he => ?_, by decide, rfl⟩
  · simp [mailed, State.die, State.updDie, State.setDie]
  · have : ((mailed s x op c).die k) = s.die k := by simp [mailed, State.die, State.updDie, State.setDie, hk]
    rw [this, h k hk] at he
    exact absurd he List.not_mem_nil
/-- Paddock 0 is of cluster 2, in state `x`. -/
def padded (x : PadState) : State := { State.reset with paddocks := [⟨[2], x, 0⟩] }
theorem witness_create (x : PadState) : let c : CtxSpec := { paddock := 0, root := 0x2000, entry := 0x1000, g1 := 0, wbase := 0, wlimit := 0 }
    let s := mailed (padded x) 3 1 (.contextCreate c)
    Waiting s 0 ⟨hdr 3, 1, .contextCreate c, true⟩ ∧ (s.ctx 3).state = .free ∧ s.paddocks[0]? = some ⟨[2], x, 0⟩
      ∧ bits c.root 12 0 = 0 ∧ bits c.root 63 46 = 0 ∧ bits c.entry 1 0 = 0 ∧ bits c.entry 63 56 = 0 :=
  ⟨waiting _ _ _ _ (fun _ _ => rfl), rfl, rfl, by decide, by decide, by decide, by decide⟩
/-- Context 3 is PARKED, of a paddock of one cluster of die 0. -/
def parkedCtx : State := (padded .empty).updCtx 3 (fun x => { x with state := .parked, clusters := [1] })
theorem witness_parked (op : Nat) (c : Typoro) : let s := mailed parkedCtx 3 op c
    Waiting s 0 ⟨hdr 3, op, c, true⟩ ∧ (s.ctx 3).state = .parked ∧ (s.ctx 3).paddock = none
      ∧ s.paddocks[0]? = some ⟨[2], .empty, 0⟩ ∧ fits (s.clustersOf 3) [2] = true ∧ (s.ctx 3).kernels = [] :=
  ⟨waiting _ _ _ _ (fun _ _ => rfl), rfl, rfl, rfl, rfl, rfl⟩
theorem witness_parked_saved (op : Nat) (c : Typoro) : let s := mailed parkedCtx 3 op c
    ∀ v ∈ (s.ctx 3).saved, v.merges = [] ∧ ∀ r ∈ v.data.rays, r.2.writes = [] := fun _ h => nomatch h
theorem witness_resume_occupied (op : Nat) (c : Typoro) : let s := mailed { parkedCtx with paddocks := [⟨[2], .occupied, 0⟩] } 3 op c
    Waiting s 0 ⟨hdr 3, op, c, true⟩ ∧ (s.ctx 3).state = .parked ∧ s.paddocks[0]? = some ⟨[2], .occupied, 0⟩ :=
  ⟨waiting _ _ _ _ (fun _ _ => rfl), rfl, rfl⟩
/-- Group 5 of core 1 of cluster 0 may move to cluster 1; a message is on its way to it, and rank 3 names it. -/
def moving : State := { ((on [] []).updCtx 0 (fun x => { x with
      clusters := [0, 1], groups := [⟨5, 6, 0, [1], .running, none⟩], ranks := [(3, mkRank 0 1)] })).updCore 1 (fun k => { k with group := some (0, 5) }) with
  msgs := [⟨0, 0, 0, ⟨0, 0⟩, 0, 5, 0, 1, .send 0 0 [1], 0, false⟩] }
theorem witness_groupMove : let w0 : Word := 0x10001; let s := mailed moving 0 0x26 (.groupMove w0 0); let k := bits w0 22 16
    let g : Group := ⟨5, 6, 0, [1], .running, none⟩
    Waiting s 0 ⟨hdr 0, 0x26, .groupMove w0 0, true⟩ ∧ (s.ctx 0).state = .active ∧ bits w0 7 4 = 0 ∧ w0.getLsbD 15 = false ∧ bits w0 30 23 = 0
      ∧ bits w0 63 32 = 0 ∧ s.groupAt 0 (bits w0 14 8 * 16 + bits w0 3 0) = some g ∧ k ∈ s.clustersOf 0
      ∧ (∀ c ∈ g.cores, 16 * k + coreIdOf c ∈ s.freeCores 0 k g.kid) ∧ g.state ≠ .retired ∧ s.levelForbids g k = false
      ∧ (∃ c ∈ g.cores, (s.core c).line = false) ∧ s.groupFlying 0 g.cores = true :=
  ⟨waiting _ _ _ _ (fun _ _ => rfl), by decide, by decide, by decide, by decide, by decide, by decide, by decide, by decide, by decide,
    by decide, by decide, by decide⟩
theorem witness_memory : let c : Typoro := .copyToHost 0x10000 4; let s := mailed (on [] []) 0 0x13 c
    Waiting s 0 ⟨hdr 0, 0x13, c, true⟩ ∧ (s.ctx 0).state = .active ∧ badEntry (0x2000, 0x100DF) = false ∧ badEntry (4, 0) = true
      ∧ (s.ctx 0).kernelLive = false ∧ s.hostSpan 0 0x10000 4 .copyRead = none :=
  ⟨waiting _ _ _ _ (fun _ _ => rfl), by decide, by decide, by decide, by decide, by decide⟩
/-- `dealing` has a live kernel. -/
theorem witness_windowLive (op : Nat) (c : Typoro) : let s := mailed dealing 0 op c
    Waiting s 0 ⟨hdr 0, op, c, true⟩ ∧ (s.ctx 0).state = .active ∧ (s.ctx 0).kernelLive = true := by
  refine ⟨waiting _ _ _ _ (fun k hk => ?_), rfl, rfl⟩
  match k with
  | 0 => exact absurd rfl hk
  | k + 1 => rfl
theorem witness_copies : let c : Typoro := .copyToHost 0x10000 4; let s := mailed (mapped 0x100DF (on [] [])) 0 0x13 c
    Waiting s 0 ⟨hdr 0, 0x13, c, true⟩ ∧ (s.ctx 0).state = .active ∧ (∃ u, s.hostSpan 0 0x10000 4 .copyWrite = some ([(.hbm 0x10000, 4)], u))
      ∧ (∃ u, s.hostSpan 0 0x10000 4 .copyRead = some ([(.hbm 0x10000, 4)], u)) ∧ s.badAt ioCore (.hbm 0x10000) 4 = false :=
  ⟨waiting _ _ _ _ (fun _ _ => rfl), by decide, ⟨_, rfl⟩, ⟨_, rfl⟩, by decide⟩
/-- The page is of the weight store. -/
theorem witness_weightCopy : let s := mapped 0x101DF (on [] [])
    (s.ctx 0).state = .active ∧ (s.ctx 0).wsOpen = false ∧ ∃ u a, s.hostSpan 0 0x10000 4 .copyWrite = some ([(.weight a, 4)], u) :=
  ⟨rfl, rfl, _, _, rfl⟩
/-- A card for queue 2 at virtual 0x10000. -/
def launching (k : QueueKind) : State :=
  (hbmAt 0x10000 (dwords [0x1000, 0x5000, 0x100000008, 0x2000100000100, 0, 0, 0, 0]) (mapped 0x100DF (on [] []))).updCtx 0
    (fun x => { x with queues := [(2, { Queue.reset with kind := k })] })
theorem witness_hostLaunch (k : QueueKind) : let s := mailed (launching k) 0 0x20 (.launch 0x10000 0)
    Waiting s 0 ⟨hdr 0, 0x20, .launch 0x10000 0, true⟩ ∧ (s.ctx 0).state = .active ∧ (s.ctx 0).wsOpen = false ∧ bits (0x10000 : Word) 5 0 = 0
      ∧ bits (0x10000 : Word) 63 56 = 0 ∧ ∃ c u, s.hostCard 0 0x10000 = .ok (some c, u) ∧ (launching .card).launchCode 0 c = 0
        ∧ (launching .node).launchCode 0 c = 3 := by
  refine ⟨waiting _ _ _ _ (fun _ _ => rfl), by cases k <;> rfl, by cases k <;> rfl, by decide, by decide, ?_⟩
  cases k <;> exact ⟨_, _, rfl, by decide, by decide⟩
theorem witness_queueCommands : let c : Typoro := .queuePin 2 true; let s := mailed (launching .card) 0 0x23 c
    Waiting s 0 ⟨hdr 0, 0x23, c, true⟩ ∧ (s.ctx 0).state = .active ∧ ((s.ctx 0).queue 4095).kind = .free
      ∧ ((s.ctx 0).queue 2).kind ≠ .free ∧ (s.ctx 0).queueInUse 2 = false ∧ s.pinnedOn ((s.ctx 0).queue 2).home < 224 :=
  ⟨waiting _ _ _ _ (fun _ _ => rfl), rfl, rfl, by decide, by decide, by decide⟩
theorem witness_queueInUse : let s := dealing
    (s.ctx 0).state = .active ∧ ((s.ctx 0).queue 2).kind ≠ .free ∧ (s.ctx 0).queueInUse 2 = true := ⟨rfl, by decide, by decide⟩
theorem witness_paddockDefine : let sets := [[0, 1], [127]]; let s := mailed State.reset 31 3 (.paddockDefine sets)
    Waiting s 0 ⟨hdr 31, 3, .paddockDefine sets, true⟩ ∧ (∀ p ∈ s.paddocks, p.state = PadState.empty) ∧ sets ≠ [] ∧ sets.length ≤ 8
      ∧ (∀ l ∈ sets, l ≠ []) ∧ (∀ c ∈ sets.flatten, c < 128 ∧ (s.cluster c).available = true) ∧ sets.flatten.Nodup :=
  ⟨waiting _ _ _ _ (fun _ _ => rfl), by decide, by decide, by decide, by decide, by decide, by decide⟩
/-- Connection 5 is in use, and ordered where `rod` says so. -/
def connected (rod : Bool) : State := (onLink (on [] [])).useConn 5 1 0 rod
theorem witness_links : ((on [] []).port 35).state = .down ∧ (List.replicate 32 (0 : Byte)).length = 32
    ∧ (∀ r, DevReady (connected r) (hdr 31) (.encoderSetup 3 [(63, some 5)])) ∧ (connected true).serves 3 5 = true
    ∧ (connected false).uetConn 5 ≠ none ∧ (connected false).serves 3 5 = false :=
  ⟨rfl, by decide, fun r => ⟨ready _ _ _ rfl rfl rfl (by cases r <;> rfl), by decide, rfl⟩, by decide, by decide, by decide⟩
/-- A patch image of one entry of 4 bytes. -/
def image : List Byte := dwords [0, 1, 0, 0, 0x100, 4, 0xFFFFFFFF, 0] ++ List.replicate 64 0
theorem witness_patch : DevReady (onLink parkedCtx) (hdrOf 31 image.length) (.patchLoad image) ∧ (∀ x ∈ parkedCtx.ctxs, x.2.state = .free ∨ x.2.state = .parked) ∧ 32 ≤ image.length
    ∧ bits (dwordAt image 8) 7 0 = 1 ∧ ∃ es, parseEntries 1 (image.drop 32) = some (es, List.replicate 64 0) ∧ parkedCtx.patches.length + es.length ≤ 64 :=
  ⟨⟨ready _ _ _ rfl rfl rfl rfl, by decide, rfl⟩, by decide, by decide, by decide, _, rfl, by decide⟩
/-- The connection's last number is 99, the reply to number 99 is stored, and `n` commands of it are outstanding. -/
def replied : Reply := ⟨1, 99, true, 0x30, 0, 31, 0, [], 0, []⟩
def answered (n : Nat) : State := { onLink State.reset with
  conns := [(1, { Conn.reset with lastSeq := some 99, taken := 3, stored := [replied] })], inbox := List.replicate n ⟨hdr 31, 0x30, .eventRead 0 1, false⟩ }
theorem witness_repeated : let s := answered 63; let at' := fun (n : W32) => (s.conn 1).stored.find? (fun r => r.seq == n)
    s.mgmt.powered = true ∧ s.mgmt.ready = true ∧ s.uetConn 1 = some ⟨1, 0, 0, true, 1⟩ ∧ (99 : W32) ≠ 99 + 1 ∧ (98 : W32) ≠ 99 + 1 ∧ (96 : W32) ≠ 99 + 1
      ∧ (s.conn 1).lastSeq = some 99 ∧ at' 99 = some replied ∧ at' 98 = none ∧ (99 - 98 : W32).toNat < min 64 (s.conn 1).taken
      ∧ min 64 (s.conn 1).taken ≤ (99 - 96 : W32).toNat ∧ s.inbox.countP (fun c => c.hdr.conn == 1) < 64 ∧ 64 ≤ (answered 64).inbox.countP (fun c => c.hdr.conn == 1) := by
  decide
theorem witness_bad : CmdReady (onLink (on [] [])) (hdr 0) := ready _ _ _ rfl rfl rfl rfl

/-! The controller, and what comes from another device. -/

theorem witness_power : ({ State.reset with mgmt := { Mgmt.reset with input := false } } : State).mgmt.input = false ∧ State.reset.mgmt.input = true
    ∧ State.reset.mgmt.powered = true ∧ State.reset.mgmt.coolRule = false ∧ (bringsUp 0 = true ∨ bringsUp 0 = false)
    ∧ ({ State.reset with mgmt := { Mgmt.reset with coolRule := true } } : State).mgmt.coolRule = true :=
  ⟨rfl, rfl, rfl, rfl, by cases bringsUp 0 <;> simp, rfl⟩
theorem witness_sensors : tripCause ⟨0, [116], 20, 48000⟩ ≠ 0 ∧ tripCause ⟨0, [101], 20, 48000⟩ = 0 ∧ ∃ x ∈ [101], 100 < x := by
  refine ⟨?_, ?_, by decide⟩ <;> simp [tripCause]
theorem witness_forwarded : let s := mapped 0x100DF (on [] [])
    (s.ctx 0).state ≠ .free ∧ (0x10000#64).toNat < 2 ^ 56 ∧ (∃ e u, s.walk ioCore 0 0x10000 .read true = (.ok e, u))
      ∧ ∃ e u, s.walk ioCore 0 0x10000 .write true = (.ok e, u) ∧ e.kind = .hbm := ⟨by decide, by decide, ⟨_, _, rfl⟩, _, _, rfl, rfl⟩
/-- A context that is FREE, an address beyond global memory, and a WEIGHT page with and without a live kernel. -/
theorem witness_forwarded_refusals : (State.reset.ctx 9).state = .free ∧ 2 ^ 56 ≤ (1#64 <<< 56).toNat
    ∧ (∃ e u, (mapped 0x101DF (on [] [])).walk ioCore 0 0x10000 .write true = (.ok e, u) ∧ e.kind = .weight ∧ (u.ctx 0).kernelLive = false)
    ∧ ∃ e u, (mapped 0x101DF dealing).walk ioCore 0 0x10000 .write true = (.ok e, u) ∧ e.kind = .weight ∧ (u.ctx 0).kernelLive = true :=
  ⟨by decide, by decide, ⟨_, _, rfl, by decide, by decide⟩, _, _, rfl, by decide, by decide⟩
theorem witness_forwarded_atomic : let s := mapped 0x100DF (on [] [])
    ∃ e u v, s.walk ioCore 0 0x10000 .atomic true = (.ok e, u) ∧ e.kind ≠ .weight
      ∧ atomicNew 0 true 1 0 (leNat (u.homeBytes ioCore (e.place 0x10000) 8)) = some v := ⟨_, _, _, rfl, by decide, rfl⟩
theorem witness_forwarded_refused : ∃ r u, (mapped 0 (on [] [])).walk ioCore 0 0x10000 .read true = (.error r, u) := ⟨_, _, rfl⟩

theorem witness_encodings : (Instr.add 8 9 10).wellFormed = true ∧ encode (.add 8 9 10) = some 0x0284A800 ∧ decode 0x0284A800 = .ok (.add 8 9 10) := by
  decide
theorem witness_stepKeepsMemory : let s := { State.reset with agenda := [.event (.grcResetN 1 [])] }
    MemOk s ∧ ∃ t, step s = .next t := ⟨⟨by decide, by decide, fun _ => rfl, fun _ _ h => nomatch h⟩, _, rfl⟩
/-- An ADDI that the next step runs, on slot 0 of core 0. -/
def running : State := State.reset.withFetchWord 32 0x0580000C
theorem witness_step : let u : State := ({ running with agenda := [] } : State).fetched ⟨0, 0⟩; let h : ThreadId := ⟨0, 0⟩
    let x : State := (u.issued h).updThread h (fun t => { t with word := 0x0580000C })
    running.agenda = [.core 0] ∧ running.mgmt.powered = true ∧ (running.core 0).helpersNext = false
      ∧ (running.core 0).slotOrder = [] ++ 0 :: [1, 2, 3, 4, 5, 6, 7, 8, 9, 10]
      ∧ (running.thread h).state = .ready ∧ (running.ctx 0).state = .active ∧ (running.thread h).yieldMask = 0 ∧ (running.thread h).hitch = none
      ∧ (running.thread h).fences = [] ∧ (running.thread h).replay = none ∧ running.fetchWord h (running.thread h).pc = (.ok (.hbm 0), 0x0580000C)
      ∧ decode 0x0580000C = .ok (.addi 24 0 12) ∧ running.stalls h (.addi 24 0 12) = false
      ∧ (after (.addi 24 0 12) { x with cur := h }).thread h ≠ x.thread h := by decide
theorem witness_step_illegal : (∃ r, decode 0 = .error r) ∧ instrOf 0 = .illegal 0 := ⟨⟨_, rfl⟩, rfl⟩
theorem witness_step_event : let s := { State.reset with agenda := [.event (.grcResetN 1 [])] }
    s.agenda = .event (.grcResetN 1 []) :: [] ∧ ∃ t, exec (.grcResetN 1 []) { s with agenda := [] } = .next t := ⟨rfl, _, rfl⟩

end Sys2Proof.Tests
end

section
/-! SUPPORT. Tables and lists: what is left of a table when a number is forgotten, and a list less its repetitions. -/

namespace Sys2Proof

theorem Tbl.get_erase {α : Type} (t : Tbl α) (dflt : α) (n k : Nat) : (t.erase n).get dflt k = if k = n then dflt else t.get dflt k := by
  induction t with
  | nil => exact (ite_self _).symm
  | cons p rest ih =>
    obtain ⟨j, v⟩ := p
    unfold Tbl.erase at ih ⊢
    by_cases hj : j = n
    · subst hj
      simp only [List.filter_cons, bne_self_eq_false, Bool.false_eq_true, if_false, ih, Tbl.get]
      by_cases hk : k = j
      · simp [hk]
      · simp [hk, Ne.symm hk]
    · have hb : (j != n) = true := by simpa using hj
      simp only [List.filter_cons, hb, if_true, Tbl.get, ih]
      by_cases hk : j = k
      · subst hk
        simp [hj]
      · simp [hk]
theorem Tbl.get_map {α : Type} (t : Tbl α) (dflt : α) (f : α → α) (hf : f dflt = dflt) (k : Nat) :
    Tbl.get (t.map (fun p => (p.1, f p.2))) dflt k = f (t.get dflt k) := by
  induction t with
  | nil => exact hf.symm
  | cons p rest ih =>
    simp only [List.map_cons, Tbl.get, ih]
    split <;> rfl

theorem mem_of_mem_eraseDups {a : Nat} (l : List Nat) (h : a ∈ l.eraseDups) : a ∈ l := by
  match l with
  | [] => exact h
  | b :: rest =>
    rw [List.eraseDups_cons, List.mem_cons] at h
    rcases h with rfl | h
    · exact List.mem_cons_self ..
    · exact List.mem_cons_of_mem _ (List.mem_of_mem_filter (mem_of_mem_eraseDups (rest.filter (fun c => !c == b)) h))
termination_by l.length
decreasing_by exact Nat.lt_succ_of_le (List.length_filter_le ..)
theorem nodup_eraseDups (l : List Nat) : l.eraseDups.Nodup := by
  match l with
  | [] => exact List.nodup_nil
  | b :: rest =>
    rw [List.eraseDups_cons, List.nodup_cons]
    refine ⟨fun h => ?_, nodup_eraseDups (rest.filter (fun c => !c == b))⟩
    simpa using List.of_mem_filter (mem_of_mem_eraseDups _ h)
termination_by l.length
decreasing_by exact Nat.lt_succ_of_le (List.length_filter_le ..)

end Sys2Proof
end

section
/-! SUPPORT. What the firmware's translating, reading and writing leaves as it was, and what it does not look at (R15, R172, R176). -/

namespace Sys2Proof.Machine

open Sys2Proof Sys2Proof.Safety

/-! What the firmware's reading and writing leaves as it was. -/

/-- The contexts, the connections and the replies are as they were. -/
structure HostKept (s t : State) : Prop where
  ctxs : t.ctxs = s.ctxs
  conns : t.conns = s.conns
  replies : t.replies = s.replies

theorem HostKept.refl (s : State) : HostKept s s := ⟨rfl, rfl, rfl⟩
theorem HostKept.trans {s t u : State} (h : HostKept s t) (g : HostKept t u) : HostKept s u :=
  ⟨g.ctxs.trans h.ctxs, g.conns.trans h.conns, g.replies.trans h.replies⟩
theorem HostKept.ctx {s t : State} (h : HostKept s t) (x : Nat) : t.ctx x = s.ctx x := congrArg (fun l => Tbl.get l _ x) h.ctxs
/-- A fold of steps that each keep contexts, connections and replies keeps them. -/
theorem HostKept.foldl {β : Type} {f : State → β → State} (hf : ∀ s b, HostKept s (f s b)) (s : State) (l : List β) :
    HostKept s (l.foldl f s) :=
  foldl_keeps (P := HostKept s) (fun t b _ h => h.trans (hf t b)) s (.refl s)

theorem hostKept_updCore (s : State) (c : Nat) (f : Core → Core) : HostKept s (s.updCore c f) := ⟨rfl, rfl, rfl⟩
theorem hostKept_sentBy {s t u : State} (src : Option (ThreadId × Nat)) (cls : BitVec 8) (h : HostKept t u) :
    HostKept t (s.sentBy src cls u) := ⟨h.ctxs, h.conns, h.replies⟩
theorem hostKept_writeAt (s : State) (c : Nat) (p : Place) (bs : List Byte) : HostKept s (s.writeAt c p bs) := by
  cases p <;> exact ⟨rfl, rfl, rfl⟩
theorem hostKept_performPlain (s : State) (t : ThreadId) (n : Nat) (p : Place) (bs : List Byte) :
    HostKept s (s.performPlain t n p bs) := by
  cases p <;> exact ⟨rfl, rfl, rfl⟩
theorem hostKept_perform (s : State) (c : Nat) (e : StoreEnt) : HostKept s (s.perform c e) := by
  unfold State.perform
  refine hostKept_sentBy _ _ ?_
  split
  · have hs : HostKept s (s.spreadFrom (dieOf c)) := ⟨rfl, rfl, rfl⟩
    exact hs.trans (HostKept.foldl (fun t w => hostKept_writeAt t c w.1 w.2) _ e.writes)
  · exact HostKept.foldl (fun t w => hostKept_performPlain t _ _ w.1 w.2) s e.writes
theorem hostKept_drainAll (s : State) (c : Nat) : HostKept s (s.drainAll c) :=
  have hd := HostKept.foldl (fun t e => hostKept_perform t c e) (s.updCore c (fun k => { k with stores := [] })) (s.core c).stores
  ⟨hd.ctxs, hd.conns, hd.replies⟩

/-! What a walk reads is counted, and asked of other devices. -/

theorem hostKept_countWords (s : State) (ws : List Nat) : HostKept s (s.countWords ws) :=
  HostKept.foldl (f := fun s w => s.hbmError (8 * w)) (fun _ _ => ⟨rfl, rfl, rfl⟩) s ws
theorem hostKept_seen (s : State) (c : Nat) (p : Place) (n : Nat) : HostKept s (s.seen c p n) := by
  cases p <;> exact ⟨rfl, rfl, rfl⟩
theorem hostKept_readBy (s : State) (c : Nat) (l : List (Place × Nat)) : HostKept s (s.readBy c l) :=
  (HostKept.foldl (fun t _ => hostKept_countWords t _) s l).trans (HostKept.foldl (fun t p => hostKept_seen t c p.1 p.2) _ l)

/-! The SPOPs that a stream has accepted. -/

theorem hostKept_strmRetires (s : State) (c n : Nat) : HostKept s (s.strmRetires c n) := by
  unfold State.strmRetires
  dsimp only
  split
  · exact .refl _
  · split <;> exact ⟨rfl, rfl, rfl⟩
theorem hostKept_popDone (s : State) (c n : Nat) (o : StrmOp) : HostKept s (s.popDone c n o) := by
  unfold State.popDone
  refine HostKept.trans ?_ (hostKept_strmRetires _ c n)
  split <;> exact ⟨rfl, rfl, rfl⟩
theorem hostKept_popStep (s : State) (c n : Nat) (o : StrmOp) : HostKept s (s.popStep c n o) := by
  have last (u : State) (b : Bool) (o : StrmOp) (hu : HostKept s u) : HostKept s (if b then u.popDone c n o else u) := by
    cases b
    · exact hu
    · exact hu.trans (hostKept_popDone u c n o)
  unfold State.popStep
  split
  · exact hostKept_popDone s c n o
  · exact last _ _ _ (HostKept.trans (hostKept_sentBy _ _ (hostKept_readBy s c _)) (hostKept_updCore _ c _))
theorem hostKept_drainStrm (s : State) (c n fuel : Nat) : HostKept s (s.drainStrm c n fuel) := by
  induction fuel generalizing s with
  | zero => exact .refl _
  | succ fuel ih =>
    unfold State.drainStrm
    split
    · exact .refl _
    · exact (hostKept_popStep s c n _).trans (ih _)
theorem hostKept_drainCtx (s : State) (x : Nat) : HostKept s (s.drainCtx x) :=
  HostKept.foldl (fun t c => (hostKept_drainAll t c).trans (HostKept.foldl (fun u n => hostKept_drainStrm u c n _) _ _)) s _

/-! Translating a range of the host's (R15, R172, R176). -/

/-- What a walk leaves of how its table reading ends. -/
def State.walkEnd (s : State) (ctx : Nat) (va : Word) (k : Access) (user : Bool) (w : Walk) : Except (Nat × Reason) TlbEnt × State :=
  match w with
  | .stop level r => (.error (level, r), s)
  | .leaf level a e =>
    let t := leafEnt ctx level va e
    let u := (if t.kind = .remote then s.fresh else s).orByte a 0x40
    match s.leafSays ctx t k user with
    | .fault r => (.error (level, r), u)
    | .use performed => (.ok { t with d := t.d || performed, owesD := if performed && !t.d then some a else none }, u)

/-- A walk is its table reading, counted, and what it comes to. -/
theorem walk_eq (s : State) (c x : Nat) (va : Word) (k : Access) (user : Bool) :
    s.walk c x va k user =
      (s.readBy c ((walkReads (fun a => s.hbmBytes (dieOf c) a 8) va 4 (s.ctx x).root).map (fun a => (Place.hbm a, 8)))).walkEnd x va k user
        (walkFrom (fun a => s.hbmBytes (dieOf c) a 8) va 4 (s.ctx x).root) := by
  unfold State.walk State.walkEnd
  dsimp only
  cases walkFrom (fun a => s.hbmBytes (dieOf c) a 8) va 4 (s.ctx x).root with
  | stop level r => rfl
  | leaf level a e =>
    dsimp only
    cases (leafEnt x level va e).kind <;> rfl

theorem hostKept_walkEnd (s : State) (x : Nat) (va : Word) (k : Access) (user : Bool) (w : Walk) :
    HostKept s (s.walkEnd x va k user w).2 := by
  cases w with
  | stop level r => exact .refl _
  | leaf level a e =>
    have hu : HostKept s ((if (leafEnt x level va e).kind = .remote then s.fresh else s).orByte a 0x40) := by
      split <;> exact ⟨rfl, rfl, rfl⟩
    unfold State.walkEnd
    dsimp only
    split <;> exact hu
theorem hostKept_walk (s : State) (c x : Nat) (va : Word) (k : Access) (user : Bool) : HostKept s (s.walk c x va k user).2 := by
  rw [walk_eq]
  exact (hostKept_readBy s c _).trans (hostKept_walkEnd _ x va k user _)

/-- What a translation still owes its leaf is paid (R176). -/
def State.payDirty (s : State) (e : TlbEnt) : State :=
  match e.owesD with
  | some a => s.setDirty a
  | none => s
theorem hostKept_payDirty (s : State) (e : TlbEnt) : HostKept s (s.payDirty e) := by
  unfold State.payDirty
  split <;> exact ⟨rfl, rfl, rfl⟩

/-- A range translates where its first page does, and then the rest. -/
theorem walkSpan_cons (s : State) (x : Nat) (k : Access) (va : Word) (n : Nat) (l : List (Word × Nat)) :
    s.walkSpan x k ((va, n) :: l) = match s.walk ioCore x va k false with
      | (.error _, _) => none
      | (.ok e, u) => ((u.payDirty e).walkSpan x k l).map (fun r => ((e.place va.toNat, n) :: r.1, r.2)) := by
  rw [State.walkSpan]
  rcases s.walk ioCore x va k false with ⟨_ | e, u⟩
  · rfl
  · change _ = ((u.payDirty e).walkSpan x k l).map _
    unfold State.payDirty
    dsimp only
    generalize State.walkSpan _ x k l = r
    cases r <;> rfl

theorem hostKept_walkSpan {s u : State} {x : Nat} {k : Access} {l : List (Word × Nat)} {ps : List (Place × Nat)}
    (h : s.walkSpan x k l = some (ps, u)) : HostKept s u := by
  induction l generalizing s ps with
  | nil =>
    obtain ⟨-, rfl⟩ : _ ∧ _ := by simpa [State.walkSpan] using h
    exact .refl s
  | cons p l ih =>
    have hw := hostKept_walk s ioCore x p.1 k false
    rw [walkSpan_cons] at h
    split at h
    · exact absurd h (by simp)
    · next e v he =>
      obtain ⟨⟨qs, w⟩, hq, hp⟩ := Option.map_eq_some_iff.mp h
      obtain ⟨-, rfl⟩ : _ ∧ _ := by simpa using hp
      rw [he] at hw
      exact (hw.trans (hostKept_payDirty v e)).trans (ih hq)
theorem hostKept_hostSpan {s u : State} {x : Nat} {va : Word} {n : Nat} {k : Access} {ps : List (Place × Nat)}
    (h : s.hostSpan x va n k = some (ps, u)) : HostKept s u := by
  unfold State.hostSpan at h
  split at h
  · exact absurd h (by simp)
  · exact hostKept_walkSpan h
theorem hostKept_hostRead {s u : State} {x : Nat} {va : Word} {n : Nat} {bs : List Byte} (h : s.hostRead x va n = .ok (bs, u)) :
    HostKept s u := by
  unfold State.hostRead at h
  split at h
  · exact absurd h (by simp)
  · next ps v hs =>
    split at h
    · exact absurd h (by simp)
    · obtain ⟨-, rfl⟩ : _ ∧ _ := by simpa using h
      exact (hostKept_hostSpan hs).trans (hostKept_readBy v ioCore ps)
theorem hostKept_hostOuts {s u : State} {x : Nat} {c : Card} {r : Option Card} (h : s.hostOuts x c = .ok (r, u)) : HostKept s u := by
  unfold State.hostOuts at h
  split at h
  · exact absurd h (by simp)
  · next hd v hv =>
    have hk := hostKept_hostRead hv
    split at h
    · obtain ⟨-, rfl⟩ : _ ∧ _ := by simpa using h
      exact hk
    · split at h
      · exact absurd h (by simp)
      · next es w hw =>
        obtain ⟨-, rfl⟩ : _ ∧ _ := by simpa using h
        exact hk.trans (hostKept_hostRead hw)
theorem hostKept_hostCard {s u : State} {x : Nat} {a : Word} {r : Option Card} (h : s.hostCard x a = .ok (r, u)) : HostKept s u := by
  unfold State.hostCard at h
  split at h
  · exact absurd h (by simp)
  · next bs v hv =>
    have hk := hostKept_hostRead hv
    split at h
    · obtain ⟨-, rfl⟩ : _ ∧ _ := by simpa using h
      exact hk
    · split at h
      · obtain ⟨-, rfl⟩ : _ ∧ _ := by simpa using h
        exact hk
      · exact hk.trans (hostKept_hostOuts h)

theorem hostKept_writeSpan (s : State) (c : Nat) (l : List (Place × Nat)) (bs : List Byte) : HostKept s (s.writeSpan c l bs) := by
  induction l generalizing s bs with
  | nil => exact .refl s
  | cons p l ih => exact (hostKept_writeAt s c p.1 (bs.take p.2)).trans (ih _ (bs.drop p.2))

/-! None of it looks at what the links and the dispatchers hold. -/

/-- The device less what front ports, firmware, dispatchers and the dies' TLBs hold. -/
def State.offHost (s : State) : State := { s with dies := [], ios := [], conns := [], inbox := [], replies := [] }

theorem offHost_countWords (s : State) (ws : List Nat) : (s.countWords ws).offHost = s.offHost.countWords ws :=
  (List.foldl_hom State.offHost (fun _ _ => rfl)).symm
theorem offHost_countBad (s : State) (l : List (Place × Nat)) : (s.countBad l).offHost = s.offHost.countBad l :=
  (List.foldl_hom State.offHost (fun s p => (offHost_countWords s (s.badWords p.1 p.2)).symm)).symm
theorem offHost_seen (s : State) (c : Nat) (p : Place) (n : Nat) : (s.seen c p n).offHost = s.offHost.seen c p n := by
  cases p <;> rfl
theorem offHost_readBy (s : State) (c : Nat) (l : List (Place × Nat)) : (s.readBy c l).offHost = s.offHost.readBy c l := by
  unfold State.readBy
  rw [← offHost_countBad]
  exact (List.foldl_hom State.offHost (fun s p => (offHost_seen s c p.1 p.2).symm)).symm
theorem offHost_writeAt (s : State) (c : Nat) (p : Place) (bs : List Byte) : (s.writeAt c p bs).offHost = s.offHost.writeAt c p bs := by
  cases p <;> rfl
theorem offHost_payDirty (s : State) (e : TlbEnt) : (s.payDirty e).offHost = s.offHost.payDirty e := by
  unfold State.payDirty
  split <;> rfl
theorem offHost_walkEnd (s : State) (x : Nat) (va : Word) (k : Access) (user : Bool) (w : Walk) :
    s.offHost.walkEnd x va k user w = ((s.walkEnd x va k user w).1, (s.walkEnd x va k user w).2.offHost) := by
  cases w with
  | stop level r => rfl
  | leaf level a e =>
    have hu : (if (leafEnt x level va e).kind = .remote then s.offHost.fresh else s.offHost).orByte a 0x40 =
        ((if (leafEnt x level va e).kind = .remote then s.fresh else s).orByte a 0x40).offHost := by
      split <;> rfl
    unfold State.walkEnd
    dsimp only
    rw [hu, show s.offHost.leafSays x (leafEnt x level va e) k user = s.leafSays x (leafEnt x level va e) k user from rfl]
    split <;> rfl
theorem offHost_walk (s : State) (c x : Nat) (va : Word) (k : Access) (user : Bool) :
    s.offHost.walk c x va k user = ((s.walk c x va k user).1, (s.walk c x va k user).2.offHost) := by
  rw [walk_eq, walk_eq, ← offHost_walkEnd, offHost_readBy]
  rfl
/-- A result with the state that it leaves, seen off the host's side. -/
def offHostResult {α : Type} (r : α × State) : α × State := (r.1, r.2.offHost)
theorem offHost_walkSpan (s : State) (x : Nat) (k : Access) (l : List (Word × Nat)) :
    s.offHost.walkSpan x k l = (s.walkSpan x k l).map offHostResult := by
  induction l generalizing s with
  | nil => rfl
  | cons p l ih =>
    rw [walkSpan_cons, walkSpan_cons, offHost_walk]
    rcases s.walk ioCore x p.1 k false with ⟨_ | e, u⟩
    · rfl
    · dsimp only
      rw [← offHost_payDirty, ih]
      cases (u.payDirty e).walkSpan x k l <;> rfl
theorem offHost_hostSpan (s : State) (x : Nat) (va : Word) (n : Nat) (k : Access) :
    s.offHost.hostSpan x va n k = (s.hostSpan x va n k).map offHostResult := by
  unfold State.hostSpan
  split
  · rfl
  · exact offHost_walkSpan s x k _
theorem offHost_hostRead (s : State) (x : Nat) (va : Word) (n : Nat) :
    s.offHost.hostRead x va n = (s.hostRead x va n).map offHostResult := by
  unfold State.hostRead
  rw [offHost_hostSpan]
  rcases s.hostSpan x va n .read with _ | ⟨ps, u⟩
  · rfl
  · change (if ps.any (fun p => u.badAt ioCore p.1 p.2) then _ else Except.ok (u.spanBytes ioCore ps, u.offHost.readBy ioCore ps)) = _
    rw [← offHost_readBy]
    dsimp only
    split <;> rfl
theorem offHost_hostOuts (s : State) (x : Nat) (c : Card) : s.offHost.hostOuts x c = (s.hostOuts x c).map offHostResult := by
  unfold State.hostOuts
  rw [offHost_hostRead]
  rcases s.hostRead x c.outAt 8 with _ | ⟨hd, u⟩
  · rfl
  · simp only [Except.map, offHostResult]
    rcases outCount (dwordAt hd 0) with _ | n
    · rfl
    · dsimp only
      rw [offHost_hostRead]
      rcases u.hostRead x (c.outAt + 8) (8 * n) with _ | ⟨es, v⟩ <;> rfl
theorem offHost_hostCard (s : State) (x : Nat) (a : Word) : s.offHost.hostCard x a = (s.hostCard x a).map offHostResult := by
  unfold State.hostCard
  rw [offHost_hostRead]
  rcases s.hostRead x a 64 with _ | ⟨bs, u⟩
  · rfl
  · simp only [Except.map, offHostResult]
    rcases parseCard a bs with _ | ⟨c, outs⟩
    · rfl
    · dsimp only
      split
      · rfl
      · exact offHost_hostOuts u x c
theorem offHost_writeSpan (s : State) (c : Nat) (l : List (Place × Nat)) (bs : List Byte) :
    (s.writeSpan c l bs).offHost = s.offHost.writeSpan c l bs := by
  induction l generalizing s bs with
  | nil => rfl
  | cons p l ih =>
    change ((s.writeAt c p.1 (bs.take p.2)).writeSpan c l (bs.drop p.2)).offHost
      = (s.offHost.writeAt c p.1 (bs.take p.2)).writeSpan c l (bs.drop p.2)
    rw [ih, offHost_writeAt]

/-- A result off the host's side is that of a state which has the same there. -/
theorem hostSpan_of_offHost {s t u : State} (h : t.offHost = s.offHost) {x : Nat} {va : Word} {n : Nat} {k : Access} {ps : List (Place × Nat)}
    (hs : s.hostSpan x va n k = some (ps, u)) : ∃ v, t.hostSpan x va n k = some (ps, v) ∧ v.offHost = u.offHost := by
  have ht : (t.hostSpan x va n k).map offHostResult = some (ps, u.offHost) := by
    rw [← offHost_hostSpan, h, offHost_hostSpan, hs]
    rfl
  obtain ⟨⟨qs, v⟩, hv, he⟩ := Option.map_eq_some_iff.mp ht
  obtain ⟨rfl, hu⟩ : qs = ps ∧ v.offHost = u.offHost := by simpa [offHostResult] using he
  exact ⟨v, hv, hu⟩
theorem hostSpan_none_of_offHost {s t : State} (h : t.offHost = s.offHost) {x : Nat} {va : Word} {n : Nat} {k : Access}
    (hs : s.hostSpan x va n k = none) : t.hostSpan x va n k = none := by
  have ht : (t.hostSpan x va n k).map offHostResult = none := by
    rw [← offHost_hostSpan, h, offHost_hostSpan, hs]
    rfl
  exact Option.map_eq_none_iff.mp ht
theorem hostCard_of_offHost {s t u : State} (h : t.offHost = s.offHost) {x : Nat} {a : Word} {c : Option Card}
    (hs : s.hostCard x a = .ok (c, u)) : ∃ v, t.hostCard x a = .ok (c, v) := by
  have ht : (t.hostCard x a).map offHostResult = .ok (c, u.offHost) := by
    rw [← offHost_hostCard, h, offHost_hostCard, hs]
    rfl
  rcases hv : t.hostCard x a with e | ⟨d, v⟩
  · rw [hv] at ht
    exact nomatch ht
  · rw [hv] at ht
    obtain ⟨rfl, -⟩ : d = c ∧ v.offHost = u.offHost := by simpa [Except.map, offHostResult] using ht
    exact ⟨v, rfl⟩
theorem loadByte_of_offHost {s t : State} (h : t.offHost = s.offHost) (c : Nat) (p : Place) : t.loadByte c p = s.loadByte c p :=
  (congrArg (fun u => u.loadByte c p) h :)
theorem spanBytes_of_offHost {s t : State} (h : t.offHost = s.offHost) (c : Nat) (l : List (Place × Nat)) :
    t.spanBytes c l = s.spanBytes c l := (congrArg (fun u => u.spanBytes c l) h :)

end Sys2Proof.Machine
end

section
/-! SUPPORT. How the firmware takes a command, and how a dispatcher that carries it out answers it (R14, R15, R332). -/

namespace Sys2Proof.Machine

open Sys2Proof Sys2Proof.Safety

/-! Which dies a command goes to (R14, R15). -/

theorem spanDies_offHost (s : State) (x : Nat) (va : Word) (n : Nat) (k : Access) :
    s.offHost.spanDies x va n k = s.spanDies x va n k := by
  unfold State.spanDies
  rw [offHost_hostSpan]
  cases s.hostSpan x va n k <;> rfl
theorem launchHome_offHost (s : State) (x : Nat) (card : Word) : s.offHost.launchHome x card = s.launchHome x card := by
  unfold State.launchHome
  rw [offHost_hostCard]
  rcases s.hostCard x card with _ | ⟨_ | c, u⟩ <;> rfl
theorem commandDies_offHost (s : State) (h : CmdHdr) (c : Typoro) : s.offHost.commandDies h c = s.commandDies h c := by
  cases c with
  | copyToDevice va bs => exact spanDies_offHost s h.ctx va bs.length .copyWrite
  | copyToHost va n => exact spanDies_offHost s h.ctx va n .copyRead
  | launch card tcb => exact congrArg (fun l => (s.ctxDies h.ctx ++ l).eraseDups) (launchHome_offHost s h.ctx card)
  | _ => rfl

theorem diesOf_nodup (l : List Nat) : (diesOf l).Nodup := nodup_eraseDups _
theorem spanDies_nodup (s : State) (x : Nat) (va : Word) (n : Nat) (k : Access) : (s.spanDies x va n k).Nodup := by
  unfold State.spanDies
  split
  · exact List.nodup_nil
  · exact nodup_eraseDups _
/-- A command is written once into each mailbox. -/
theorem commandDies_nodup (s : State) (h : CmdHdr) (c : Typoro) : (s.commandDies h c).Nodup := by
  cases c with
  | contextCreate | teardown | unmapMemory | preempt | resume | groupMove => exact (by decide : allDies.Nodup)
  | paddockDefine => exact diesOf_nodup _
  | wsWindowOpen | wsWindowClose => exact diesOf_nodup _
  | copyToDevice | copyToHost => exact spanDies_nodup ..
  | mapMemory | launch => exact nodup_eraseDups _
  | queueCreate q =>
    change (if q.home < 4 then [q.home] else []).Nodup
    split
    · exact List.nodup_singleton _
    · exact List.nodup_nil
  | queueDestroy | queuePin => exact List.nodup_singleton _
  | eventRead | linkConfig | routeSet | encoderSetup | attestationQuote | patchLoad | bad => exact List.nodup_nil

/-! The firmware takes a command (R14, R332). -/

theorem taken_offHost (s : State) (c : Command) : (taken s c).offHost = s.offHost := rfl
theorem commandDies_taken (s : State) (c : Command) (h : CmdHdr) (cmd : Typoro) :
    (taken s c).commandDies h cmd = s.commandDies h cmd := by
  rw [← commandDies_offHost, taken_offHost, commandDies_offHost]

/-- A connection from which the firmware takes a command now is one that it reads. -/
theorem reads_of_cmdReady {s : State} {h : CmdHdr} (hr : CmdReady s h) : s.reads h = true := by
  obtain ⟨hp, hm, ⟨u, hu, hrod, he, hk⟩, -, hi⟩ := hr
  simp [State.reads, hp, hm, hu, hrod, he, hk, hi]
/-- A command that comes to an empty inbox is before all others. -/
theorem receive_of_cmdReady {s : State} {h : CmdHdr} (hr : CmdReady s h) (op : Nat) (cmd : Typoro) :
    s.receive h op cmd = (taken s ⟨h, op, cmd, false⟩).firmware := by
  have ⟨_, _, _, hnext, _⟩ := hr
  unfold State.receive
  rw [reads_of_cmdReady hr, hnext]
  rfl
/-- The only command of the inbox begins where its mailboxes have room. -/
theorem startable_taken {s : State} {h : CmdHdr} {op : Nat} {cmd : Typoro} (hi : s.inbox = []) (hb : badHdr h cmd = false) :
    (taken s ⟨h, op, cmd, false⟩).startable = if s.mailRoom (s.commandDies h cmd) then some ⟨h, op, cmd, false⟩ else none := by
  have hin : (taken s ⟨h, op, cmd, false⟩).inbox = [⟨h, op, cmd, false⟩] := by simp [taken, hi]
  have hm : (taken s ⟨h, op, cmd, false⟩).mailRoom = s.mailRoom := rfl
  unfold State.startable
  rw [hin]
  simp only [List.zipIdx_cons, List.zipIdx_nil, List.find?_cons, List.find?_nil, State.mayStart, List.take_zero, List.all_nil, hb, hm,
    commandDies_taken, Bool.not_false, Bool.true_and, Bool.false_or]
  cases s.mailRoom (s.commandDies h cmd) <;> rfl

/-! A command in the mailboxes (R14). -/

/-- A command is put last into the mailboxes of dies. -/
def State.mailAll (s : State) (c : Command) (dies : List Nat) : State :=
  dies.foldl (fun s d => s.updDie d (fun q => { q with mailbox := q.mailbox ++ [c] })) s
/-- The device less its dies. -/
def State.offDies (s : State) : State := { s with dies := [] }

theorem post_eq (s : State) (c : Command) (dies : List Nat) :
    s.post c dies = ({ s with inbox := s.inbox.map (fun d => if d.is c.hdr then { d with posted := true } else d) } : State).mailAll
      { c with posted := true } dies := rfl
theorem mailAll_die (c : Command) {dies : List Nat} (hn : dies.Nodup) (s : State) (d : Nat) :
    (s.mailAll c dies).die d = if d ∈ dies then { s.die d with mailbox := (s.die d).mailbox ++ [c] } else s.die d := by
  induction dies generalizing s with
  | nil => rfl
  | cons e rest ih =>
    obtain ⟨he, hr⟩ := List.nodup_cons.mp hn
    change ((s.updDie e _).mailAll c rest).die d = _
    rw [ih hr, State.die_updDie]
    by_cases hd : d = e
    · subst hd
      simp [he]
    · simp [hd]
theorem mailAll_offDies (c : Command) (dies : List Nat) (s : State) : (s.mailAll c dies).offDies = s.offDies := by
  induction dies generalizing s with
  | nil => rfl
  | cons e rest ih => exact ih (s.updDie e _)

theorem posted_of_post {s : State} {h : CmdHdr} {op : Nat} {cmd : Typoro} (hi : s.inbox = []) {dies : List Nat} (hn : dies.Nodup) :
    Posted s ((taken s ⟨h, op, cmd, false⟩).post ⟨h, op, cmd, false⟩ dies) ⟨h, op, cmd, true⟩ dies := by
  have hin : ((taken s ⟨h, op, cmd, false⟩).inbox.map (fun d => if d.is h then { d with posted := true } else d))
      = s.inbox ++ [⟨h, op, cmd, true⟩] := by
    simp [taken, hi, Command.is]
  rw [post_eq]
  dsimp only
  rw [hin]
  generalize hu : ({ taken s ⟨h, op, cmd, false⟩ with inbox := s.inbox ++ [⟨h, op, cmd, true⟩] } : State) = u
  have hud (d : Nat) : u.die d = s.die d := by rw [← hu]; rfl
  have hrest := mailAll_offDies ⟨h, op, cmd, true⟩ dies u
  refine ⟨?_, ?_, ?_, fun d hd => ?_, fun d hd => ?_, fun x => ?_, fun c p => ?_⟩
  · exact (congrArg State.replies hrest).trans (by rw [← hu]; rfl)
  · refine (congrArg (fun v : State => (v.conn h.conn).lastSeq) hrest).trans ?_
    rw [← hu]
    simp [State.offDies, taken, State.conn, State.updConn]
  · exact (congrArg State.inbox hrest).trans (by rw [← hu]; rfl)
  · rw [mailAll_die _ hn, if_pos hd, hud]
  · rw [mailAll_die _ hn, if_neg hd, hud]
  · exact (congrArg (fun v : State => v.ctx x) hrest).trans (by rw [← hu]; rfl)
  · exact (congrArg (fun v : State => v.loadByte c p) hrest).trans (by rw [← hu]; rfl)

/-- Every command of Table 20-4 that the firmware receives goes the way of R14 and R15. -/
theorem takes_of_receive {i : Instr} {h : CmdHdr} {op : Nat} {cmd : Typoro} (hi : ∀ s, exec i s = .next (s.receive h op cmd)) :
    Takes i h op cmd := by
  intro s hr hb
  have ⟨_, _, _, _, hin⟩ := hr
  refine ⟨_, hi s, ?_, ?_, ?_⟩
  all_goals
    intro hd
    rw [receive_of_cmdReady hr, State.firmware, startable_taken hin hb]
  · rw [hd, if_pos (by rfl)]
    simp only [State.startCommand, hb, commandDies_taken, hd]
    rfl
  · intro hm
    rw [if_pos hm]
    simp only [State.startCommand, hb, commandDies_taken]
    rw [if_neg Bool.false_ne_true, if_neg (by simpa using hd)]
    exact posted_of_post hin (commandDies_nodup s h cmd)
  · intro hm
    rw [if_neg (by simp [hm])]

/-! A dispatcher carries a command out, and it is answered (R14, R332). -/

/-- The dispatcher of a die has taken the first command of its mailbox. -/
def State.unmail (s : State) (d : Nat) : State := s.updDie d (fun q => { q with mailbox := q.mailbox.tail })

theorem unmail_offHost (s : State) (d : Nat) : (s.unmail d).offHost = s.offHost := rfl

theorem exec_of_waiting {s : State} {d : Nat} {c : Command} (hw : Waiting s d c) :
    exec (.mailboxCommand d) s = .next ((s.unmail d).carryOut c) := by
  obtain ⟨⟨rest, hm, hrest⟩, hother, -, -⟩ := hw
  have hgone : [0, 1, 2, 3].any (fun k => ((s.unmail d).die k).mailbox.any (fun e => e.is c.hdr)) = false := by
    refine List.any_eq_false.mpr (fun k _ => ?_)
    simp only [State.unmail, State.die_updDie, Bool.not_eq_true, List.any_eq_false]
    split
    · next hk => simpa [hk, hm] using hrest
    · next hk => simpa using hother k hk
  have hu : s.updDie d (fun q => { q with mailbox := rest }) = s.unmail d := by
    simp [State.unmail, State.updDie, hm]
  change Host.Outcome.next _ = _
  rw [hm]
  dsimp only
  rw [hu, hgone]
  rfl

theorem answered_reply {s u : State} {h : CmdHdr} (hl : (s.conn h.conn).lastSeq = some h.seq) (hc : u.conns = s.conns)
    (hr : u.replies = s.replies) (op st : Nat) (pl : List Byte) : Answered s (u.reply h op st pl) h op st pl := by
  have hconn (k : Nat) : u.conn k = s.conn k := congrArg (fun l => Tbl.get l _ k) hc
  have hup (k : Nat) : (u.reply h op st pl).conn k = if k = h.conn then { u.conn h.conn with
      stored := ((u.conn h.conn).stored ++ [u.mkReply h op st pl]).filter (fun q => (((u.conn h.conn).lastSeq.getD h.seq) - q.seq).toNat < 64) }
      else u.conn k := Tbl.get_set ..
  refine ⟨u.mkReply h op st pl, rfl, rfl, rfl, rfl, rfl, rfl, rfl, rfl, rfl, rfl, ?_, ?_, ?_, ?_, ?_⟩
  · exact congrArg (· ++ [u.mkReply h op st pl]) hr
  · rw [hup, if_pos rfl, hconn, hl]
    refine List.mem_filter.mpr ⟨List.mem_append_right _ (List.mem_singleton_self _), ?_⟩
    simp only [State.mkReply, Option.getD_some, BitVec.sub_self]
    decide
  · rw [hup, if_pos rfl, hconn, hl]
  · exact fun c hcin => (Bool.not_eq_true' _).mp (List.of_mem_filter (p := fun c : Command => !c.is h) hcin)
  · intro k hk
    rw [hup, if_neg hk, hconn]

/-- The dispatcher carries out a command that waits, which comes to a reply of a state with the same connections and replies. -/
theorem answered_of_waiting {s u : State} {d : Nat} {c : Command} {op st : Nat} {pl : List Byte} (hw : Waiting s d c)
    (ho : (s.unmail d).carryOut c = u.reply c.hdr op st pl) (hc : u.conns = s.conns) (hr : u.replies = s.replies) :
    exec (.mailboxCommand d) s = .next (u.reply c.hdr op st pl) ∧ Answered s (u.reply c.hdr op st pl) c.hdr op st pl :=
  have ⟨_, _, _, hl⟩ := hw
  ⟨by rw [exec_of_waiting hw, ho], answered_reply hl hc hr op st pl⟩

end Sys2Proof.Machine
end

section
/-! SUPPORT. The Typoro commands on memory, the weight-store window, launches and queues (R15, R136, R234, R239, R240, R252). -/

namespace Sys2Proof.Machine

open Sys2Proof Sys2Proof.Safety

/-! What a reply leaves. -/

@[simp] theorem State.die_reply (s : State) (h : CmdHdr) (op st : Nat) (pl : List Byte) (d : Nat) :
    (s.reply h op st pl).die d = s.die d := rfl
@[simp] theorem State.ctx_reply (s : State) (h : CmdHdr) (op st : Nat) (pl : List Byte) (x : Nat) :
    (s.reply h op st pl).ctx x = s.ctx x := rfl
@[simp] theorem State.loadByte_reply (s : State) (h : CmdHdr) (op st : Nat) (pl : List Byte) (c : Nat) (p : Place) :
    (s.reply h op st pl).loadByte c p = s.loadByte c p := rfl

/-! What a context admits (R254, R332). -/

/-- The context that a command names can be used: it is one of the 16, and ACTIVE or PARKED. -/
def Usable (s : State) (h : CmdHdr) : Prop := h.ctx < 16 ∧ ((s.ctx h.ctx).state = .active ∨ (s.ctx h.ctx).state = .parked)

theorem usable_ctx {s : State} {h : CmdHdr} (hu : Usable s h) : (s.ctx h.ctx).usable = true := by
  rcases hu.2 with hs | hs <;> simp [Ctx.usable, hs]
theorem ctxAdmit_admitted {s : State} {h : CmdHdr} (hx : h.ctx < 16) {admits : Ctx → Bool} (ha : admits (s.ctx h.ctx) = true)
    (op : Nat) (go : State) : s.ctxAdmit h op admits go = go := by
  rw [State.ctxAdmit, if_neg (Nat.not_le.mpr hx), if_pos ha]
theorem ctxAdmit_usable {s : State} {h : CmdHdr} (hu : Usable s h) (op : Nat) (go : State) : s.ctxAdmit h op Ctx.usable go = go :=
  ctxAdmit_admitted hu.1 (usable_ctx hu) op go
/-- A usable context that refuses the command: status 2. -/
theorem ctxAdmit_refused {s : State} {h : CmdHdr} (hu : Usable s h) {admits : Ctx → Bool} (ha : admits (s.ctx h.ctx) = false)
    (op : Nat) (go : State) : s.ctxAdmit h op admits go = s.reply h op 2 [] := by
  have hf : (s.ctx h.ctx).state ≠ .free := by
    rcases hu.2 with hs | hs <;> simp [hs]
  rw [State.ctxAdmit, if_neg (Nat.not_le.mpr hu.1), ha, if_neg Bool.false_ne_true, if_neg hf]

/-! What each command does, case by case (Table 20-4). -/

/-- The range holds a WEIGHT page, and the window is closed or a kernel is live (R136). -/
def WeightBarred (s : State) (x : Nat) (ps : List (Place × Nat)) : Prop :=
  (ps.any (fun p => p.1.isWeight)) = true ∧ ((s.ctx x).wsOpen = false ∨ (s.ctx x).kernelLive = true)

theorem specBad_card {q : QueueSpec} (hk : q.kind = .card) (hh : q.home < 4) (hd : q.depth < 16) (hp : q.prio < 8) (he : q.enc < 8) :
    specBad q 0 = false := by
  simp only [specBad, hk, bne_self_eq_false, Bool.false_and, Bool.or_false, Bool.or_eq_false_iff, decide_eq_false_iff_not]
  omega
/-- A die forgets a queue's descriptor. -/
def Die.forget (q : Die) (r : Nat × Nat) : Die :=
  { q with resident := q.resident.filter (fun p => p != r), swaps := q.swaps.filter (fun p => p != r), aging := q.aging.filter (fun p => p.1 != r) }
/-- The device forgets a queue of a context. -/
def State.forgetQueue (s : State) (x n : Nat) : State :=
  { s.updCtx x (fun y => { y with queues := y.queues.erase n }) with dies := s.dies.map (fun p => (p.1, p.2.forget (x, n))) }

section
variable {s : State} {h : CmdHdr} (hu : Usable s h)
include hu

theorem doMapMemory_one {a v : Word} (hb : badEntry (a, v) = false) :
    s.doMapMemory h [(a, v)] = (s.storeEntry a.toNat v).reply h 0x10 0 [] := by
  rw [State.doMapMemory, ctxAdmit_usable hu, if_neg (by simp [hb])]
  rfl
theorem doMapMemory_bad {a v : Word} (hb : badEntry (a, v) = true) : s.doMapMemory h [(a, v)] = s.reply h 0x10 1 [] := by
  rw [State.doMapMemory, ctxAdmit_usable hu, if_pos (by simp [hb])]
theorem doUnmapMemory_one {a va : Word} (hb : badEntry (a, va) = false) :
    s.doUnmapMemory h [(a, va)] = (((s.storeEntry a.toNat 0).drainCtx h.ctx).invTlbs h.ctx va false).reply h 0x11 0 [] := by
  rw [State.doUnmapMemory, ctxAdmit_usable hu, if_neg (by simp [hb])]
  rfl

theorem doCopyToDevice_done {va : Word} {bs : List Byte} {ps : List (Place × Nat)} {u : State}
    (hs : s.hostSpan h.ctx va bs.length .copyWrite = some (ps, u)) (hn : bs.length ≤ 65536) (hw : ¬ WeightBarred s h.ctx ps) :
    s.doCopyToDevice h va bs = (u.writeSpan ioCore ps bs).reply h 0x12 0 [] := by
  rw [State.doCopyToDevice, ctxAdmit_usable hu, hs]
  exact (if_neg (Nat.not_lt.mpr hn)).trans (if_neg hw)
theorem doCopyToDevice_barred {va : Word} {bs : List Byte} {ps : List (Place × Nat)} {u : State}
    (hs : s.hostSpan h.ctx va bs.length .copyWrite = some (ps, u)) (hn : bs.length ≤ 65536) (hw : WeightBarred s h.ctx ps) :
    s.doCopyToDevice h va bs = s.reply h 0x12 2 [] := by
  rw [State.doCopyToDevice, ctxAdmit_usable hu, hs]
  exact (if_neg (Nat.not_lt.mpr hn)).trans (if_pos hw)
theorem doCopyToHost_done {va : Word} {n : Nat} {ps : List (Place × Nat)} {u : State}
    (hs : s.hostSpan h.ctx va n .copyRead = some (ps, u)) (hn : n ≤ 65536) (hb : ∀ p ∈ ps, s.badAt ioCore p.1 p.2 = false) :
    s.doCopyToHost h va n = (u.readBy ioCore ps).reply h 0x13 0 (u.spanBytes ioCore ps) := by
  have hgood : (ps.any (fun p => s.badAt ioCore p.1 p.2)) = false :=
    List.any_eq_false.mpr (fun p hp => by rw [hb p hp]; exact Bool.false_ne_true)
  rw [State.doCopyToHost, ctxAdmit_usable hu, hs]
  exact (if_neg (Nat.not_lt.mpr hn)).trans (if_neg (by rw [hgood]; exact Bool.false_ne_true))
theorem doCopyToHost_untranslated {va : Word} {n : Nat} (hs : s.hostSpan h.ctx va n .copyRead = none) :
    s.doCopyToHost h va n = s.reply h 0x13 4 [] := by
  rw [State.doCopyToHost, ctxAdmit_usable hu, hs]

theorem doWsWindowOpen_opened (hk : (s.ctx h.ctx).kernelLive = false) :
    s.doWsWindowOpen h = (s.updCtx h.ctx (fun x => { x with wsOpen := true })).reply h 0x40 0 [] :=
  ctxAdmit_admitted (admits := fun x => x.usable && !x.kernelLive) hu.1 (by simp [usable_ctx hu, hk]) 0x40 _
theorem doWsWindowOpen_refused (hk : (s.ctx h.ctx).kernelLive = true) : s.doWsWindowOpen h = s.reply h 0x40 2 [] :=
  ctxAdmit_refused (admits := fun x => x.usable && !x.kernelLive) hu (by simp [hk]) 0x40 _
theorem doWsWindowClose_closed :
    s.doWsWindowClose h = (s.updCtx h.ctx (fun x => { x with wsOpen := false })).reply h 0x41 0 [] := ctxAdmit_usable hu 0x41 _

/-- A launch of an aligned card without a TCB: the identifier, or the code that refuses it (R234). -/
theorem doLaunch_card {card : Word} {c : Card} {u : State} (hws : (s.ctx h.ctx).wsOpen = false) (h5 : bits card 5 0 = 0)
    (h63 : bits card 63 56 = 0) (hc : s.hostCard h.ctx card = .ok (some c, u)) :
    s.doLaunch h card 0 =
      if s.launchCode h.ctx c ≠ 0 then u.reply h 0x20 0 (wordBytes (refusal (s.launchCode h.ctx c)))
      else (u.addKernel h.ctx c 0 false none).reply h 0x20 0 (wordBytes ((nextKid (s.ctx h.ctx).lastKid).setWidth 64)) := by
  have hadm : ((s.ctx h.ctx).usable && !(s.ctx h.ctx).wsOpen) = true := by simp [usable_ctx hu, hws]
  have hal : ¬ (misaligned64 card = true ∨ (0 : Word) ≠ 0 ∧ misaligned64 0 = true) := by simp [misaligned64, h5, h63]
  rw [State.doLaunch, ctxAdmit_admitted hu.1 hadm]
  dsimp only
  rw [if_neg hal, hc]
  dsimp only
  rw [if_pos rfl]

theorem doQueueCreate_card {q : QueueSpec} (hn : q.handle < 4096) (hf : ((s.ctx h.ctx).queue q.handle).kind = .free) (hk : q.kind = .card)
    (hb : specBad q 0 = false) :
    s.doQueueCreate h q = (s.updQueue h.ctx q.handle (fun _ => queueOf q 0 0 none)).reply h 0x21 0 [] := by
  rw [State.doQueueCreate, ctxAdmit_usable hu]
  dsimp only
  rw [if_neg (Nat.not_le.mpr hn), if_neg (not_not.mpr hf), hk]
  dsimp only
  rw [hb, if_neg Bool.false_ne_true]

theorem doQueueDestroy_idle {n : Nat} (hn : n < 4096) (hf : ((s.ctx h.ctx).queue n).kind ≠ .free)
    (hi : (s.ctx h.ctx).queueInUse n = false) : s.doQueueDestroy h n = (s.forgetQueue h.ctx n).reply h 0x22 0 [] := by
  rw [State.doQueueDestroy, ctxAdmit_usable hu]
  exact (if_neg (not_or.mpr ⟨Nat.not_le.mpr hn, hf⟩)).trans (if_neg (by rw [hi]; exact Bool.false_ne_true))
theorem doQueueDestroy_busy {n : Nat} (hn : n < 4096) (hf : ((s.ctx h.ctx).queue n).kind ≠ .free)
    (hi : (s.ctx h.ctx).queueInUse n = true) : s.doQueueDestroy h n = s.reply h 0x22 2 [] := by
  rw [State.doQueueDestroy, ctxAdmit_usable hu]
  exact (if_neg (not_or.mpr ⟨Nat.not_le.mpr hn, hf⟩)).trans (if_pos hi)

theorem doQueuePin_unpin {n : Nat} (hn : n < 4096) (hf : ((s.ctx h.ctx).queue n).kind ≠ .free) :
    s.doQueuePin h n false = (s.updQueue h.ctx n (fun q => { q with pinned := false })).reply h 0x23 0 [] := by
  rw [State.doQueuePin, ctxAdmit_usable hu]
  exact (if_neg (not_or.mpr ⟨Nat.not_le.mpr hn, hf⟩)).trans (if_pos Bool.false_ne_true)
theorem doQueuePin_pin {n : Nat} (hn : n < 4096) (hf : ((s.ctx h.ctx).queue n).kind ≠ .free)
    (hroom : s.pinnedOn ((s.ctx h.ctx).queue n).home < 224) :
    s.doQueuePin h n true = ((if (s.die ((s.ctx h.ctx).queue n).home).isResident h.ctx n then s
      else s.swapIn ((s.ctx h.ctx).queue n).home h.ctx n).updQueue h.ctx n (fun q => { q with pinned := true })).reply h 0x23 0 [] := by
  rw [State.doQueuePin, ctxAdmit_usable hu]
  exact (if_neg (not_or.mpr ⟨Nat.not_le.mpr hn, hf⟩)).trans
    ((if_neg (not_not.mpr rfl)).trans (if_neg (fun hp => Nat.not_le.mpr hroom hp.2)))
end

/-! What the operations on TLBs, kernels and queues leave. -/

/-- No TLB that is searched for an address keeps an entry that covers it. -/
theorem keepTlb_covers {x : Nat} {va : Word} {l : List TlbEnt} {e : TlbEnt} (he : e ∈ keepTlb x va false l) :
    e.covers x va.toNat = false := by
  simpa using List.of_mem_filter he

/-- A kernel that enters its queue leaves identifiers, connections and replies. -/
theorem enterQueue_kept (t : State) (x : Nat) (kid : W32) :
    ((t.enterQueue x kid).ctx x).lastKid = (t.ctx x).lastKid ∧ (t.enterQueue x kid).conns = t.conns
      ∧ (t.enterQueue x kid).replies = t.replies := by
  unfold State.enterQueue
  split
  · exact ⟨rfl, rfl, rfl⟩
  · split <;> exact ⟨by simp [State.updQueue, State.updKernel], rfl, rfl⟩
/-- A launch takes the identifier after the context's last (R229). -/
theorem addKernel_kept (t : State) (x : Nat) (c : Card) (tcb : Word) (pending : Bool) (final : Option (Nat × Nat)) :
    ((t.addKernel x c tcb pending final).ctx x).lastKid = nextKid (t.ctx x).lastKid
      ∧ (t.addKernel x c tcb pending final).conns = t.conns ∧ (t.addKernel x c tcb pending final).replies = t.replies := by
  unfold State.addKernel
  dsimp only
  split
  · exact ⟨by simp, rfl, rfl⟩
  · obtain ⟨hk, hc, hr⟩ := enterQueue_kept (t.updCtx x (fun y => { y with
      kernels := y.kernels ++ [⟨nextKid (t.ctx x).lastKid, .pending, c, tcb, [], false, false, [], none, final, []⟩]
      lastKid := nextKid (t.ctx x).lastKid, kidIssued := y.kidIssued + 1 })) x (nextKid (t.ctx x).lastKid)
    exact ⟨hk.trans (by simp), hc, hr⟩

theorem updQueue_queue (t : State) (x n k : Nat) (f : Queue → Queue) :
    ((t.updQueue x n f).ctx x).queue k = if k = n then f ((t.ctx x).queue n) else (t.ctx x).queue k := by
  simp only [State.updQueue, State.ctx_updCtx, if_true, Ctx.queue, Tbl.get_set]
theorem swapIn_resident (t : State) (die x n : Nat) : (x, n) ∈ ((t.swapIn die x n).die die).resident := by
  simp [State.swapIn]

theorem forgetQueue_queue (s : State) (x n k : Nat) :
    ((s.forgetQueue x n).ctx x).queue k = if k = n then Queue.reset else (s.ctx x).queue k := by
  change (((s.updCtx x (fun y => { y with queues := y.queues.erase n })).ctx x).queue k) = _
  simp only [State.ctx_updCtx, if_true, Ctx.queue, Tbl.get_erase]
theorem forgetQueue_die (s : State) (x n d : Nat) : (s.forgetQueue x n).die d = (s.die d).forget (x, n) :=
  Tbl.get_map s.dies Die.reset (fun q => q.forget (x, n)) rfl d

/-! The dispatcher carries the command out. -/

section
variable {s : State} {h : CmdHdr} {d : Nat} {b : Bool} (hu : Usable s h)
include hu

theorem mapMemory_stored {a v : Word} (hw : Waiting s d ⟨h, 0x10, .mapMemory [(a, v)], b⟩) (hb : badEntry (a, v) = false) :
    ∃ t, exec (.mailboxCommand d) s = .next t ∧ Answered s t h 0x10 0 [] ∧ t.hbm = s.hbm.write a.toNat (wordBytes v)
      ∧ (∀ c, t.core c = s.core c) ∧ ∀ x, t.ctx x = s.ctx x := by
  obtain ⟨he, ha⟩ := answered_of_waiting hw (doMapMemory_one (s := s.unmail d) hu hb) rfl rfl
  exact ⟨_, he, ha, rfl, fun _ => rfl, fun _ => rfl⟩
theorem mapMemory_bad {a v : Word} (hw : Waiting s d ⟨h, 0x10, .mapMemory [(a, v)], b⟩) (hb : badEntry (a, v) = true) :
    ∃ t, exec (.mailboxCommand d) s = .next t ∧ Answered s t h 0x10 1 [] ∧ t.hbm = s.hbm := by
  obtain ⟨he, ha⟩ := answered_of_waiting hw (doMapMemory_bad (s := s.unmail d) hu hb) rfl rfl
  exact ⟨_, he, ha, rfl⟩
theorem unmapMemory_removed {a va : Word} (hw : Waiting s d ⟨h, 0x11, .unmapMemory [(a, va)], b⟩) (hb : badEntry (a, va) = false) :
    ∃ t, exec (.mailboxCommand d) s = .next t ∧ Answered s t h 0x11 0 []
      ∧ (∀ p ∈ t.dies, ∀ e ∈ p.2.l2, e.covers h.ctx va.toNat = false) ∧ ∀ p ∈ t.clusters, ∀ e ∈ p.2.l1, e.covers h.ctx va.toNat = false := by
  obtain ⟨-, hc, hr⟩ := hostKept_drainCtx ((s.unmail d).storeEntry a.toNat 0) h.ctx
  obtain ⟨he, ha⟩ := answered_of_waiting hw (doUnmapMemory_one (s := s.unmail d) hu hb) hc hr
  refine ⟨_, he, ha, fun p hp e he => ?_, fun p hp e he => ?_⟩
  all_goals
    obtain ⟨q, -, rfl⟩ := List.mem_map.mp hp
    exact keepTlb_covers he

theorem copyToDevice_written {va : Word} {bs : List Byte} {ps : List (Place × Nat)} {u : State}
    (hw : Waiting s d ⟨h, 0x12, .copyToDevice va bs, b⟩) (hs : s.hostSpan h.ctx va bs.length .copyWrite = some (ps, u))
    (hn : bs.length ≤ 65536)
    (hok : (∀ p ∈ ps, p.1.isWeight = false) ∨ (s.ctx h.ctx).wsOpen = true ∧ (s.ctx h.ctx).kernelLive = false) :
    ∃ t, exec (.mailboxCommand d) s = .next t ∧ Answered s t h 0x12 0 []
      ∧ ∀ c p, t.loadByte c p = (u.writeSpan ioCore ps bs).loadByte c p := by
  have hgo : ¬ WeightBarred s h.ctx ps := by
    rintro ⟨hwt, hc⟩
    rcases hok with hno | ⟨ho, hk⟩
    · obtain ⟨p, hp, hpw⟩ := List.any_eq_true.mp hwt
      simp [hno p hp] at hpw
    · simp [ho, hk] at hc
  obtain ⟨v, hv, hvu⟩ := hostSpan_of_offHost (unmail_offHost s d) hs
  obtain ⟨-, hc, hr⟩ := (hostKept_hostSpan hv).trans (hostKept_writeSpan v ioCore ps bs)
  obtain ⟨he, ha⟩ := answered_of_waiting hw (doCopyToDevice_done (s := s.unmail d) hu hv hn hgo) hc hr
  refine ⟨_, he, ha, fun c p => ?_⟩
  rw [State.loadByte_reply]
  exact loadByte_of_offHost (by rw [offHost_writeSpan, offHost_writeSpan, hvu]) c p
theorem copyToDevice_refused {va : Word} {bs : List Byte} {ps : List (Place × Nat)} {u : State}
    (hw : Waiting s d ⟨h, 0x12, .copyToDevice va bs, b⟩) (hs : s.hostSpan h.ctx va bs.length .copyWrite = some (ps, u))
    (hn : bs.length ≤ 65536) (hwt : ∃ p ∈ ps, p.1.isWeight = true)
    (hc : (s.ctx h.ctx).wsOpen = false ∨ (s.ctx h.ctx).kernelLive = true) :
    ∃ t, exec (.mailboxCommand d) s = .next t ∧ Answered s t h 0x12 2 [] ∧ t.weight = s.weight := by
  obtain ⟨v, hv, -⟩ := hostSpan_of_offHost (unmail_offHost s d) hs
  obtain ⟨he, ha⟩ :=
    answered_of_waiting hw (doCopyToDevice_barred (s := s.unmail d) hu hv hn ⟨List.any_eq_true.mpr hwt, hc⟩) rfl rfl
  exact ⟨_, he, ha, rfl⟩
theorem copyToHost_read {va : Word} {n : Nat} {ps : List (Place × Nat)} {u : State} (hw : Waiting s d ⟨h, 0x13, .copyToHost va n, b⟩)
    (hn : n ≤ 65536) (hs : s.hostSpan h.ctx va n .copyRead = some (ps, u)) (hb : ∀ p ∈ ps, s.badAt ioCore p.1 p.2 = false) :
    ∃ t, exec (.mailboxCommand d) s = .next t ∧ Answered s t h 0x13 0 (u.spanBytes ioCore ps)
      ∧ ∀ c p, t.loadByte c p = (u.readBy ioCore ps).loadByte c p := by
  obtain ⟨v, hv, hvu⟩ := hostSpan_of_offHost (unmail_offHost s d) hs
  obtain ⟨-, hc, hr⟩ := (hostKept_hostSpan hv).trans (hostKept_readBy v ioCore ps)
  obtain ⟨he, ha⟩ := answered_of_waiting hw (doCopyToHost_done (s := s.unmail d) hu hv hn hb) hc hr
  rw [spanBytes_of_offHost hvu] at he ha
  refine ⟨_, he, ha, fun c p => ?_⟩
  rw [State.loadByte_reply]
  exact loadByte_of_offHost (by rw [offHost_readBy, offHost_readBy, hvu]) c p
theorem copyToHost_untranslated {va : Word} {n : Nat} (hw : Waiting s d ⟨h, 0x13, .copyToHost va n, b⟩)
    (hs : s.hostSpan h.ctx va n .copyRead = none) : ∃ t, exec (.mailboxCommand d) s = .next t ∧ Answered s t h 0x13 4 [] :=
  ⟨_, answered_of_waiting hw
    (doCopyToHost_untranslated (s := s.unmail d) hu (hostSpan_none_of_offHost (unmail_offHost s d) hs)) rfl rfl⟩

theorem wsWindowOpen_opened (hw : Waiting s d ⟨h, 0x40, .wsWindowOpen, b⟩) (hk : (s.ctx h.ctx).kernelLive = false) :
    ∃ t, exec (.mailboxCommand d) s = .next t ∧ Answered s t h 0x40 0 [] ∧ t.ctx h.ctx = { s.ctx h.ctx with wsOpen := true } := by
  obtain ⟨he, ha⟩ := answered_of_waiting hw (doWsWindowOpen_opened (s := s.unmail d) hu hk) rfl rfl
  exact ⟨_, he, ha, by rw [State.ctx_reply, State.ctx_updCtx, if_pos rfl]; rfl⟩
theorem wsWindowOpen_refused (hw : Waiting s d ⟨h, 0x40, .wsWindowOpen, b⟩) (hk : (s.ctx h.ctx).kernelLive = true) :
    ∃ t, exec (.mailboxCommand d) s = .next t ∧ Answered s t h 0x40 2 [] ∧ t.ctx h.ctx = s.ctx h.ctx := by
  obtain ⟨he, ha⟩ := answered_of_waiting hw (doWsWindowOpen_refused (s := s.unmail d) hu hk) rfl rfl
  exact ⟨_, he, ha, rfl⟩
theorem wsWindowClose_closed (hw : Waiting s d ⟨h, 0x41, .wsWindowClose, b⟩) :
    ∃ t, exec (.mailboxCommand d) s = .next t ∧ Answered s t h 0x41 0 [] ∧ t.ctx h.ctx = { s.ctx h.ctx with wsOpen := false } := by
  obtain ⟨he, ha⟩ := answered_of_waiting hw (doWsWindowClose_closed (s := s.unmail d) hu) rfl rfl
  exact ⟨_, he, ha, by rw [State.ctx_reply, State.ctx_updCtx, if_pos rfl]; rfl⟩

theorem launch_accepted {card : Word} {c : Card} {u : State} (hw : Waiting s d ⟨h, 0x20, .launch card 0, b⟩)
    (hws : (s.ctx h.ctx).wsOpen = false) (h5 : bits card 5 0 = 0) (h63 : bits card 63 56 = 0)
    (hc : s.hostCard h.ctx card = .ok (some c, u)) (hcode : s.launchCode h.ctx c = 0) :
    ∃ t, exec (.mailboxCommand d) s = .next t ∧ Answered s t h 0x20 0 (wordBytes ((nextKid (s.ctx h.ctx).lastKid).setWidth 64))
      ∧ (t.ctx h.ctx).lastKid = nextKid (s.ctx h.ctx).lastKid := by
  obtain ⟨v, hv⟩ := hostCard_of_offHost (unmail_offHost s d) hc
  obtain ⟨hl, hcn, hr⟩ := addKernel_kept v h.ctx c 0 false none
  have hk := hostKept_hostCard hv
  have ho := (doLaunch_card (s := s.unmail d) hu hws h5 h63 hv).trans (if_neg (not_not.mpr hcode))
  obtain ⟨he, ha⟩ := answered_of_waiting hw ho (hcn.trans hk.conns) (hr.trans hk.replies)
  exact ⟨_, he, ha, hl.trans (congrArg (fun y => nextKid y.lastKid) (hk.ctx h.ctx))⟩
theorem launch_refused {card : Word} {c : Card} {u : State} (hw : Waiting s d ⟨h, 0x20, .launch card 0, b⟩)
    (hws : (s.ctx h.ctx).wsOpen = false) (h5 : bits card 5 0 = 0) (h63 : bits card 63 56 = 0)
    (hc : s.hostCard h.ctx card = .ok (some c, u)) (hcode : s.launchCode h.ctx c ≠ 0) :
    ∃ t, exec (.mailboxCommand d) s = .next t ∧ Answered s t h 0x20 0 (wordBytes (BitVec.ofNat 64 (s.launchCode h.ctx c * 2 ^ 32)))
      ∧ t.ctx h.ctx = s.ctx h.ctx := by
  obtain ⟨v, hv⟩ := hostCard_of_offHost (unmail_offHost s d) hc
  have hk := hostKept_hostCard hv
  have ho := (doLaunch_card (s := s.unmail d) hu hws h5 h63 hv).trans (if_pos hcode)
  obtain ⟨he, ha⟩ := answered_of_waiting hw ho hk.conns hk.replies
  exact ⟨_, he, ha, hk.ctx h.ctx⟩

theorem queueCreate_card {q : QueueSpec} (hw : Waiting s d ⟨h, 0x21, .queueCreate q, b⟩) (hn : q.handle < 4096)
    (hf : ((s.ctx h.ctx).queue q.handle).kind = .free) (hk : q.kind = .card) (hb : specBad q 0 = false) :
    ∃ t, exec (.mailboxCommand d) s = .next t ∧ Answered s t h 0x21 0 [] ∧ (t.ctx h.ctx).queue q.handle = queueOf q 0 0 none := by
  obtain ⟨he, ha⟩ := answered_of_waiting hw (doQueueCreate_card (s := s.unmail d) hu hn hf hk hb) rfl rfl
  exact ⟨_, he, ha, by rw [State.ctx_reply, updQueue_queue, if_pos rfl]⟩
theorem queueDestroy_idle {n : Nat} (hw : Waiting s d ⟨h, 0x22, .queueDestroy n, b⟩) (hn : n < 4096)
    (hf : ((s.ctx h.ctx).queue n).kind ≠ .free) (hi : (s.ctx h.ctx).queueInUse n = false) :
    ∃ t, exec (.mailboxCommand d) s = .next t ∧ Answered s t h 0x22 0 [] ∧ ((t.ctx h.ctx).queue n).kind = .free
      ∧ (∀ k, k ≠ n → (t.ctx h.ctx).queue k = (s.ctx h.ctx).queue k) ∧ ∀ d, (h.ctx, n) ∉ (t.die d).resident := by
  obtain ⟨he, ha⟩ := answered_of_waiting hw (doQueueDestroy_idle (s := s.unmail d) hu hn hf hi) rfl rfl
  refine ⟨_, he, ha, ?_, fun k hk => ?_, fun e hin => ?_⟩
  · rw [State.ctx_reply, forgetQueue_queue, if_pos rfl]
    rfl
  · rw [State.ctx_reply, forgetQueue_queue, if_neg hk]
    rfl
  · rw [State.die_reply, forgetQueue_die] at hin
    simpa using List.of_mem_filter hin
theorem queueDestroy_busy {n : Nat} (hw : Waiting s d ⟨h, 0x22, .queueDestroy n, b⟩) (hn : n < 4096)
    (hf : ((s.ctx h.ctx).queue n).kind ≠ .free) (hi : (s.ctx h.ctx).queueInUse n = true) :
    ∃ t, exec (.mailboxCommand d) s = .next t ∧ Answered s t h 0x22 2 [] ∧ t.ctx h.ctx = s.ctx h.ctx := by
  obtain ⟨he, ha⟩ := answered_of_waiting hw (doQueueDestroy_busy (s := s.unmail d) hu hn hf hi) rfl rfl
  exact ⟨_, he, ha, rfl⟩

theorem queuePin_unpinned {n : Nat} (hw : Waiting s d ⟨h, 0x23, .queuePin n false, b⟩) (hn : n < 4096)
    (hf : ((s.ctx h.ctx).queue n).kind ≠ .free) :
    ∃ t, exec (.mailboxCommand d) s = .next t ∧ Answered s t h 0x23 0 []
      ∧ (t.ctx h.ctx).queue n = { (s.ctx h.ctx).queue n with pinned := false } := by
  obtain ⟨he, ha⟩ := answered_of_waiting hw (doQueuePin_unpin (s := s.unmail d) hu hn hf) rfl rfl
  exact ⟨_, he, ha, by rw [State.ctx_reply, updQueue_queue, if_pos rfl]; rfl⟩
theorem queuePin_pinned {n : Nat} (hw : Waiting s d ⟨h, 0x23, .queuePin n true, b⟩) (hn : n < 4096)
    (hf : ((s.ctx h.ctx).queue n).kind ≠ .free) (hroom : s.pinnedOn ((s.ctx h.ctx).queue n).home < 224) :
    ∃ t, exec (.mailboxCommand d) s = .next t ∧ Answered s t h 0x23 0 []
      ∧ (t.ctx h.ctx).queue n = { (s.ctx h.ctx).queue n with pinned := true }
      ∧ (h.ctx, n) ∈ (t.die ((s.ctx h.ctx).queue n).home).resident := by
  have ho := doQueuePin_pin (s := s.unmail d) hu hn hf hroom
  generalize hv : (if ((s.unmail d).die (((s.unmail d).ctx h.ctx).queue n).home).isResident h.ctx n then s.unmail d
    else (s.unmail d).swapIn (((s.unmail d).ctx h.ctx).queue n).home h.ctx n) = v at ho
  obtain ⟨hk, hin⟩ : HostKept s v ∧ (h.ctx, n) ∈ (v.die ((s.ctx h.ctx).queue n).home).resident := by
    rw [← hv]
    split
    · next hr => exact ⟨⟨rfl, rfl, rfl⟩, List.contains_iff_mem.mp hr⟩
    · exact ⟨⟨rfl, rfl, rfl⟩, swapIn_resident _ _ _ _⟩
  obtain ⟨he, ha⟩ := answered_of_waiting hw ho hk.conns hk.replies
  refine ⟨_, he, ha, ?_, hin⟩
  rw [State.ctx_reply, updQueue_queue, if_pos rfl, hk.ctx]
end

/-- Settles O50: every clause is what the dispatcher or the firmware does with the one command, which the lemmas above say. -/
theorem memoryAndQueueCommands : Obligations.MemoryAndQueueCommands := by
  unfold Obligations.MemoryAndQueueCommands
  refine ⟨fun h => ⟨?taken, fun d b s hx hst => ?carried⟩, fun h => ⟨?takenQ, fun d b s hx hst => ?carriedQ⟩⟩
  case taken =>
    exact ⟨fun _ => takes_of_receive fun _ => rfl, fun _ => takes_of_receive fun _ => rfl, fun _ _ => takes_of_receive fun _ => rfl,
      fun _ _ => takes_of_receive fun _ => rfl, takes_of_receive fun _ => rfl, takes_of_receive fun _ => rfl⟩
  case takenQ =>
    exact ⟨fun _ _ => takes_of_receive fun _ => rfl, fun _ => takes_of_receive fun _ => rfl, fun _ => takes_of_receive fun _ => rfl,
      fun _ _ => takes_of_receive fun _ => rfl⟩
  case carried =>
    have hu : Usable s h := ⟨hx, hst⟩
    exact ⟨fun a v hw => ⟨mapMemory_stored hu hw, mapMemory_bad hu hw⟩, fun a va hw => unmapMemory_removed hu hw,
      fun va bs ps u hw hs => ⟨copyToDevice_written hu hw hs, copyToDevice_refused hu hw hs⟩,
      fun va n ps u hw hn hs => copyToHost_read hu hw hn hs, fun va n hw => copyToHost_untranslated hu hw,
      fun hw => ⟨wsWindowOpen_opened hu hw, wsWindowOpen_refused hu hw⟩, fun hw => wsWindowClose_closed hu hw⟩
  case carriedQ =>
    have hu : Usable s h := ⟨hx, hst⟩
    refine ⟨fun card c u hw hws h5 h63 hc => ⟨launch_accepted hu hw hws h5 h63 hc, launch_refused hu hw hws h5 h63 hc⟩,
      fun q hw hn hf hk hh hd hp he => ?_,
      fun n hw hn hf => ⟨queueDestroy_idle hu hw hn hf, queueDestroy_busy hu hw hn hf⟩,
      fun n hn hf => ⟨fun hw => queuePin_unpinned hu hw hn hf, fun hw => queuePin_pinned hu hw hn hf⟩⟩
    obtain ⟨t, ht, ha, hq⟩ := queueCreate_card hu hw hn hf hk (specBad_card hk hh hd hp he)
    refine ⟨t, ht, ha, ?_⟩
    rw [hq]
    exact ⟨hk, rfl, rfl, rfl, rfl, rfl⟩

end Sys2Proof.Machine
end

section
/-! SUPPORT. F32 encodings as a sign and a magnitude, and what rounding answers (R21, R22, R29). -/

namespace Sys2Proof.Machine

open Sys2Proof Sys2Proof.Safety

/-! Encodings (Table 3-1). -/

theorem f32Sign_eq (x : W32) : (x.toNat / 2 ^ 31 % 2 == 1) = x.msb := by
  rw [BitVec.msb_eq_decide]
  have := x.isLt
  rcases (by omega : x.toNat / 2 ^ 31 = 0 ∧ x.toNat < 2 ^ 31 ∨ x.toNat / 2 ^ 31 = 1 ∧ 2 ^ 31 ≤ x.toNat) with ⟨h, g⟩ | ⟨h, g⟩
  · rw [h, decide_eq_false (by omega)]
    rfl
  · rw [h, decide_eq_true (by omega)]
    rfl

/-- The value of an encoding, by its exponent field and its fraction (R21, R22). -/
theorem unpack32_eq (x : W32) : unpack32 x =
    if x.toNat / 2 ^ 23 % 256 = 255 then (if x.toNat % 2 ^ 23 = 0 then .inf x.msb else .nan (x.toNat % 2 ^ 23 < 2 ^ 22))
    else if x.toNat / 2 ^ 23 % 256 = 0 then .fin x.msb (x.toNat % 2 ^ 23) (-149)
    else .fin x.msb (2 ^ 23 + x.toNat % 2 ^ 23) ((x.toNat / 2 ^ 23 % 256 : ℕ) - 150) := by
  rw [← f32Sign_eq, show ((x.toNat / 2 ^ 23 % 256 : ℕ) : ℤ) - 150 = (x.toNat / 2 ^ 23 % 256 : ℕ) - 127 - 23 by ring]
  rfl

/-- The F32 encoding of a sign and a magnitude. -/
def f32Of (neg : Bool) (mag : Nat) : W32 := BitVec.ofNat 32 ((if neg then 2 ^ 31 else 0) + mag)

theorem f32Of_toNat {mag : Nat} (neg : Bool) (h : mag < 2 ^ 31) : (f32Of neg mag).toNat = (if neg then 2 ^ 31 else 0) + mag := by
  rw [f32Of, BitVec.toNat_ofNat, Nat.mod_eq_of_lt]
  split <;> omega
theorem f32Of_msb {mag : Nat} (neg : Bool) (h : mag < 2 ^ 31) : (f32Of neg mag).msb = neg := by
  rw [BitVec.msb_eq_decide, f32Of_toNat neg h]
  cases neg
  · simpa using h
  · simp
theorem f32Of_exp {mag : Nat} (neg : Bool) (h : mag < 2 ^ 31) : (f32Of neg mag).toNat / 2 ^ 23 % 256 = mag / 2 ^ 23 := by
  rw [f32Of_toNat neg h]
  split <;> omega
theorem f32Of_frac {mag : Nat} (neg : Bool) (h : mag < 2 ^ 31) : (f32Of neg mag).toNat % 2 ^ 23 = mag % 2 ^ 23 := by
  rw [f32Of_toNat neg h]
  split <;> omega

/-- Up to the infinities no magnitude is a NaN. -/
theorem f32Nan_f32Of {mag : Nat} (neg : Bool) (h : mag ≤ 255 * 2 ^ 23) : f32Nan (f32Of neg mag) = false := by
  have hm : mag < 2 ^ 31 := by omega
  rw [f32Nan, unpack32_eq, f32Of_exp neg hm, f32Of_frac neg hm]
  split
  · rw [if_pos (by omega)]
    rfl
  · split <;> rfl

/-! Rounding (R29). -/

/-- What becomes of `k` units of 2^q once the discarded part is known: an encoding, or an overflow, with the flags. -/
def packF32 (mode : RMode) (neg : Bool) (k : Nat) (q : Int) (inexact tiny : Bool) : W32 × FFlags :=
  let n := if k = 2 ^ 24 then 2 ^ 23 else k
  let q' : Int := if k = 2 ^ 24 then q + 1 else q
  let field : Int := if n < 2 ^ 23 then 0 else q' + 23 + 127
  if field ≥ 255 then (f32Of neg (if overflowsToInf mode neg then 255 * 2 ^ 23 else 255 * 2 ^ 23 - 1), flagOF ||| flagNX)
  else (f32Of neg (field.toNat * 2 ^ 23 + n % 2 ^ 23), (if inexact then flagNX else 0) ||| (if tiny && inexact then flagUF else 0))

/-- The exponent of the last kept place of a magnitude m x 2^e. -/
def lastPlace (m : Nat) (e : Int) : Int := if (bitLen m : Int) - 1 + e - 23 < -149 then -149 else (bitLen m : Int) - 1 + e - 23

/-- Below the smallest normal number also when rounded as if the exponent had no end (R29). -/
def isTiny (mode : RMode) (neg : Bool) (m : Nat) (e : Int) (sticky : Bool) : Bool :=
  decide ((bitLen m : Int) - 1 + e < -126)
    && !(decide ((bitLen m : Int) - 1 + e = -127) && (roundAt mode neg m e ((bitLen m : Int) - 1 + e - 23) sticky).1 == 2 ^ 24)

/-- A magnitude that is not 0 is rounded at its last kept place and packed. -/
theorem round32_eq (mode : RMode) (neg : Bool) {m : Nat} (e : Int) (sticky : Bool) (hm : m ≠ 0 ∨ sticky = true) :
    round32 mode neg m e sticky = packF32 mode neg (roundAt mode neg m e (lastPlace m e) sticky).1 (lastPlace m e)
      (roundAt mode neg m e (lastPlace m e) sticky).2 (isTiny mode neg m e sticky) := by
  have h0 : ¬ (decide (m = 0) && !sticky) = true := by
    rcases hm with h | h <;> simp [h]
  have hpair : ∀ (p : Prop) [Decidable p] (a b : Nat × FFlags), (BitVec.ofNat 32 (if p then a else b).1, (if p then a else b).2) =
      if p then (BitVec.ofNat 32 a.1, a.2) else (BitVec.ofNat 32 b.1, b.2) := fun p _ a b => by split <;> rfl
  unfold round32 Fmt.round packF32
  dsimp only
  rw [if_neg h0, hpair]
  refine if_congr Iff.rfl ?_ ?_
  · cases neg <;> cases overflowsToInf mode _ <;> rfl
  · rw [f32Of, ← Nat.add_assoc]
    rfl

theorem packF32_mag_le (mode : RMode) (neg : Bool) (k : Nat) (q : Int) (inexact tiny : Bool) :
    ∃ mag ≤ 255 * 2 ^ 23, (packF32 mode neg k q inexact tiny).1 = f32Of neg mag := by
  unfold packF32
  dsimp only
  generalize (if k = 2 ^ 24 then 2 ^ 23 else k) = n
  generalize (if n < 2 ^ 23 then (0 : Int) else _) = field
  split
  · exact ⟨if overflowsToInf mode neg then 255 * 2 ^ 23 else 255 * 2 ^ 23 - 1, by split <;> omega, rfl⟩
  · next h => exact ⟨field.toNat * 2 ^ 23 + n % 2 ^ 23, by omega, rfl⟩
/-- Rounding answers a number or an infinity. -/
theorem f32Nan_round32 (mode : RMode) (neg : Bool) (m : Nat) (e : Int) (sticky : Bool) :
    f32Nan (round32 mode neg m e sticky).1 = false := by
  by_cases hm : m ≠ 0 ∨ sticky = true
  · obtain ⟨mag, hle, hp⟩ := packF32_mag_le mode neg _ (lastPlace m e) (roundAt mode neg m e (lastPlace m e) sticky).2
      (isTiny mode neg m e sticky)
    rw [round32_eq mode neg e sticky hm, hp, f32Nan_f32Of neg hle]
  · obtain ⟨rfl, rfl⟩ : m = 0 ∧ sticky = false := by simpa using hm
    exact f32Nan_f32Of neg (Nat.zero_le _)

theorem f32Nan_dyRound32 (mode : RMode) (x : Dy) (zneg : Bool) : f32Nan (x.round32 mode zneg).1 = false := by
  unfold Dy.round32
  split
  · cases zneg <;> decide
  · exact f32Nan_round32 ..

/-! NaN results (R24, R25). -/

/-- A result is canonical: a number, an infinity, or the one NaN of R24. -/
def CanonF32 (r : W32 × FFlags) : Prop := f32Nan r.1 = true → r.1 = 0x7FC00000#32

theorem canonF32_nan (f : FFlags) : CanonF32 (nan32, f) := fun _ => rfl
theorem canonF32_of_not_nan {r : W32 × FFlags} (h : f32Nan r.1 = false) : CanonF32 r := fun hn => absurd (h ▸ hn) Bool.false_ne_true
theorem canonF32_inf (s : Bool) (f : FFlags) : CanonF32 (if s then ninf32 else inf32, f) :=
  canonF32_of_not_nan (show f32Nan (if s then ninf32 else inf32) = false by cases s <;> decide)
theorem canonF32_zero (s : Bool) (f : FFlags) : CanonF32 (if s then 0x80000000#32 else 0, f) :=
  canonF32_of_not_nan (show f32Nan (if s then 0x80000000#32 else 0) = false by cases s <;> decide)

theorem canonF32_addVal (mode : RMode) (x y : FVal) : CanonF32 (addVal mode x y) := by
  rcases x with s | a | ⟨a, m, e⟩ <;> rcases y with s' | b | ⟨b, n, k⟩
  case inf.inf =>
    unfold addVal
    dsimp only
    split
    · exact canonF32_inf _ _
    · exact canonF32_nan _
  case inf.fin | fin.inf => exact canonF32_inf _ _
  case fin.fin => exact canonF32_of_not_nan (f32Nan_dyRound32 ..)
  all_goals exact canonF32_nan _
theorem canonF32_roundVal (mode : RMode) (x : FVal) : CanonF32 (roundVal mode x) := by
  rcases x with s | a | ⟨a, m, e⟩
  · exact canonF32_nan _
  · exact canonF32_inf _ _
  · unfold roundVal
    dsimp only
    split
    · exact canonF32_zero _ _
    · exact canonF32_of_not_nan (f32Nan_round32 ..)
theorem canonF32_mulVal (mode : RMode) (x y : FVal) : CanonF32 (mulVal mode x y) := by
  unfold mulVal
  split
  · exact canonF32_nan _
  · split
    · exact canonF32_nan _
    · exact canonF32_roundVal mode _
theorem canonF32_fmaVal (mode : RMode) (x y z : FVal) : CanonF32 (fmaVal mode x y z) := by
  unfold fmaVal
  split
  · exact canonF32_nan _
  · split
    · exact canonF32_nan _
    · exact canonF32_addVal mode _ z
theorem canonF32_divVal (mode : RMode) (x y : FVal) : CanonF32 (divVal mode x y) := by
  rcases x with s | a | ⟨a, m, e⟩ <;> rcases y with s' | b | ⟨b, n, k⟩
  case inf.fin => exact canonF32_inf _ _
  case fin.inf => exact canonF32_zero _ _
  case fin.fin =>
    unfold divVal
    dsimp only
    split
    · split
      · exact canonF32_nan _
      · exact canonF32_inf _ _
    · split
      · exact canonF32_zero _ _
      · exact canonF32_of_not_nan (f32Nan_round32 ..)
  all_goals exact canonF32_nan _
theorem canonF32_sqrtVal (mode : RMode) (x : FVal) : CanonF32 (sqrtVal mode x) := by
  rcases x with s | a | ⟨a, m, e⟩
  · exact canonF32_nan _
  · cases a
    · exact canonF32_inf false _
    · exact canonF32_nan _
  · unfold sqrtVal
    dsimp only
    split
    · exact canonF32_zero _ _
    · split
      · exact canonF32_nan _
      · exact canonF32_of_not_nan (f32Nan_round32 ..)

/-- The lesser and the greater operand, and what stands for them beside a NaN (R25). -/
theorem fminBits_eq (x y : W32) : fminBits x y =
    (if f32Nan x then (if f32Nan y then nan32 else y) else if f32Nan y then x else if lessOrder y x then y else x,
      sigFlag [unpack32 x, unpack32 y]) := rfl
theorem fmaxBits_eq (x y : W32) : fmaxBits x y =
    (if f32Nan x then (if f32Nan y then nan32 else y) else if f32Nan y then x else if lessOrder x y then y else x,
      sigFlag [unpack32 x, unpack32 y]) := rfl

/-- The choice that both make is never a NaN of an operand. -/
theorem canonF32_choice (x y : W32) (b : Bool) (f : FFlags) :
    CanonF32 (if f32Nan x then (if f32Nan y then nan32 else y) else if f32Nan y then x else if b then y else x, f) := by
  unfold CanonF32
  dsimp only
  cases hx : f32Nan x <;> cases hy : f32Nan y <;> cases b <;> simp [hx, hy, nan32]

/-- Settles O5: each operation answers the canonical NaN, or rounds, and rounding gives no NaN. -/
theorem canonicalNan : Obligations.CanonicalNan := by
  unfold Obligations.CanonicalNan
  intro m x y z
  refine ⟨canonF32_addVal m _ _, canonF32_addVal m _ _, canonF32_mulVal m _ _, canonF32_divVal m _ _, canonF32_fmaVal m _ _ _,
    canonF32_sqrtVal m _, canonF32_choice x y _ _, canonF32_choice x y _ _, fun hx => ?_⟩
  have hx : (unpack32 x).isNan = true := hx
  exact ⟨by rw [vabsBits, hx]; rfl, by rw [vnegBits, hx]; rfl⟩

/-! Comparison (R26). -/

theorem Dy.sub_n_swap (x y : Dy) : (y.sub x).n = -(x.sub y).n := by
  obtain ⟨a, i⟩ := x
  obtain ⟨b, j⟩ := y
  simp only [Dy.sub, Dy.add, Dy.neg, neg_eq_zero]
  by_cases ha : a = 0
  · by_cases hb : b = 0 <;> simp [ha, hb]
  by_cases hb : b = 0
  · simp [ha, hb]
  rcases lt_trichotomy i j with h | rfl | h
  · simp only [if_neg ha, if_neg hb, ← sub_eq_add_neg, if_pos h.le, if_neg (not_le.mpr h)]
    ring
  · simp only [if_neg ha, if_neg hb, le_refl, if_true, sub_self]
    simp
  · simp only [if_neg ha, if_neg hb, ← sub_eq_add_neg, if_pos h.le, if_neg (not_le.mpr h)]
    ring

/-- The order of two numbers by the sign of their exact difference. -/
theorem cmpVal_fin (a b : Bool) (m n : Nat) (e k : Int) :
    cmpVal (.fin a m e) (.fin b n k) = compare ((Dy.ofParts a m e).sub (Dy.ofParts b n k)).n 0 := by
  unfold cmpVal
  dsimp only
  generalize ((Dy.ofParts a m e).sub (Dy.ofParts b n k)).n = d
  rw [compare, instOrdInt]
  unfold compareOfLessAndEq
  rfl

theorem cmpVal_swap (x y : FVal) : cmpVal y x = (cmpVal x y).swap := by
  rcases x with s | a | ⟨a, m, e⟩ <;> rcases y with s' | b | ⟨b, n, k⟩
  case fin.fin =>
    rw [cmpVal_fin, cmpVal_fin, Dy.sub_n_swap]
    generalize ((Dy.ofParts a m e).sub (Dy.ofParts b n k)).n = d
    rcases lt_trichotomy d 0 with h | rfl | h
    · rw [compare_lt_iff_lt.mpr h, compare_gt_iff_gt.mpr (neg_pos.mpr h)]
      rfl
    · rfl
    · rw [compare_gt_iff_gt.mpr h, compare_lt_iff_lt.mpr (neg_neg_iff_pos.mpr h)]
      rfl
  case inf.inf => cases a <;> cases b <;> rfl
  case inf.nan | inf.fin => cases a <;> rfl
  case nan.inf | fin.inf => cases b <;> rfl
  all_goals rfl
theorem cmpVal_self (x : FVal) : cmpVal x x = .eq := by
  have h := cmpVal_swap x x
  generalize cmpVal x x = o at h
  cases o
  · exact nomatch h
  · rfl
  · exact nomatch h

theorem FVal.isSig_of_isNan {v : FVal} (h : v.isNan = false) : v.isSig = false := by
  cases v with
  | nan s => exact nomatch h
  | inf | fin => rfl

/-- With a NaN operand only NE and UN are true, and NV is raised by the loud conditions and by a signalling NaN. -/
theorem fcond_of_nan {x y : W32} (h : f32Nan x = true ∨ f32Nan y = true) (c : FCond) :
    (fcond c x y).1 = (c == .ne || c == .un)
      ∧ (fcond c x y).2 = if c = .lt ∨ c = .le ∨ c = .gt ∨ c = .ge ∨ (unpack32 x).isSig ∨ (unpack32 y).isSig then flagNV else 0 := by
  have hn : ((unpack32 x).isNan || (unpack32 y).isNan) = true := by simpa [f32Nan] using h
  unfold fcond sigFlag
  dsimp only
  rw [hn]
  cases c <;> simp
theorem fcond_of_numbers {x y : W32} (hx : f32Nan x = false) (hy : f32Nan y = false) (c : FCond) :
    fcond c x y = (match c with
      | .eq => cmpVal (unpack32 x) (unpack32 y) == .eq
      | .ne => cmpVal (unpack32 x) (unpack32 y) != .eq
      | .lt => cmpVal (unpack32 x) (unpack32 y) == .lt
      | .le => cmpVal (unpack32 x) (unpack32 y) != .gt
      | .gt => cmpVal (unpack32 x) (unpack32 y) == .gt
      | .ge => cmpVal (unpack32 x) (unpack32 y) != .lt
      | .un => false
      | .ord => true, 0) := by
  have hn : ((unpack32 x).isNan || (unpack32 y).isNan) = false := by simpa [f32Nan] using ⟨hx, hy⟩
  have hs : sigFlag [unpack32 x, unpack32 y] = 0 := by
    unfold sigFlag
    rw [if_neg]
    simp [FVal.isSig_of_isNan hx, FVal.isSig_of_isNan hy]
  unfold fcond
  dsimp only
  rw [hn, hs]
  cases c <;> rfl

/-- How the conditions of two numbers hang together. -/
theorem fcond_numbers {x y : W32} (hx : f32Nan x = false) (hy : f32Nan y = false) :
    (∀ c, (fcond c x y).2 = 0)
      ∧ (fcond .ne x y).1 = !(fcond .eq x y).1 ∧ (fcond .ge x y).1 = !(fcond .lt x y).1
      ∧ (fcond .le x y).1 = !(fcond .gt x y).1 ∧ (fcond .gt x y).1 = (fcond .lt y x).1
      ∧ (fcond .le x y).1 = ((fcond .lt x y).1 || (fcond .eq x y).1)
      ∧ (fcond .un x y).1 = false ∧ (fcond .ord x y).1 = true ∧ (fcond .eq x x).1 = true := by
  refine ⟨fun c => by rw [fcond_of_numbers hx hy], ?_⟩
  simp only [fcond_of_numbers hx hy, fcond_of_numbers hy hx, fcond_of_numbers hx hx, cmpVal_self,
    cmpVal_swap (unpack32 x) (unpack32 y)]
  cases cmpVal (unpack32 x) (unpack32 y) <;> decide

theorem getLsbD_maskFold (p : BitVec 16) (f : Nat → Bool) (n a i : Nat) (hi : i < 16) :
    ((List.range' a n).foldr (fun i (acc : BitVec 16) => (acc <<< 1) ||| (if p.getLsbD i && f i then 1 else 0)) 0).getLsbD i =
      (decide (i < n) && p.getLsbD (a + i) && f (a + i)) := by
  induction n generalizing a i with
  | zero => simp
  | succ n ih =>
    have hb : ∀ b : Bool, (if b then 1 else 0 : BitVec 16).getLsbD i = (decide (i = 0) && b) := fun b => by
      cases b <;> simp [BitVec.getLsbD_one]
    rw [List.range'_succ, List.foldr_cons, BitVec.getLsbD_or, BitVec.getLsbD_shiftLeft, hb]
    cases i with
    | zero => simp
    | succ i =>
      rw [Nat.add_sub_cancel, ih (a + 1) i (by omega), Nat.add_assoc, Nat.add_comm 1 i]
      simp [hi]
@[simp] theorem getLsbD_maskOf (p : BitVec 16) (f : Nat → Bool) {i : Nat} (hi : i < 16) :
    (maskOf p f).getLsbD i = (p.getLsbD i && f i) := by
  unfold maskOf lanes
  rw [List.range_eq_range', getLsbD_maskFold p f 16 0 i hi, Nat.zero_add, decide_eq_true hi, Bool.true_and]

theorem floats_of_putFp {i : Instr} {d : Reg} {r : State → W32 × FFlags} (h : ∀ s, exec i s = .next (s.putFp d (r s))) : Floats i d r :=
  fun s => ⟨_, h s, s.putFp_wrote d _ _⟩
theorem lanes_of_rowFp {i : Instr} {m : MaskCode} {d : RowCode} {g : State → Nat → W32 × FFlags}
    (h : ∀ s, exec i s = .next (s.rowFp m d (g s))) : Lanes i m d g :=
  fun s => ⟨_, h s, s.rowFp_wrote m d _⟩

/-- Settles O6: the conditions are read off the three-way comparison, which turns round with its operands; the instructions write them. -/
theorem compareConditions : Obligations.CompareConditions := by
  unfold Obligations.CompareConditions
  refine ⟨fun x y => ⟨fun h => ⟨fun c => (fcond_of_nan h c).1, fun c => (fcond_of_nan h c).2⟩, fcond_numbers⟩, by decide, by decide,
    fun d a b => ⟨floats_of_putFp fun _ => rfl, floats_of_putFp fun _ => rfl, floats_of_putFp fun _ => rfl⟩,
    fun m k a b c s => ⟨_, _, rfl, s.maskCmp_wrote m k _, fun i hi => getLsbD_maskOf _ _ hi⟩⟩

/-! Minimum and maximum (R25). -/

theorem sigFlag_pair (u v : FVal) : sigFlag [u, v] = if u.isSig ∨ v.isSig then flagNV else 0 := by
  simp [sigFlag]

/-- Settles O7: the choices by NaN and order are the functions' own branches; the instructions write what they give. -/
theorem minMaxOrder : Obligations.MinMaxOrder := by
  unfold Obligations.MinMaxOrder
  refine ⟨fun x y => ?_, by decide, by decide, by decide, by decide,
    fun d a b => ⟨floats_of_putFp fun _ => rfl, floats_of_putFp fun _ => rfl⟩,
    fun m d a b => ⟨lanes_of_rowFp fun _ => rfl, lanes_of_rowFp fun _ => rfl⟩,
    fun m d a => ⟨floats_of_putFp fun _ => rfl, floats_of_putFp fun _ => rfl⟩⟩
  rw [fminBits_eq, fmaxBits_eq]
  refine ⟨fun hx hy => ?_, fun hx hy => ?_, fun hx hy => ?_, sigFlag_pair _ _, sigFlag_pair _ _⟩
  all_goals simp [hx, hy, nan32]

end Sys2Proof.Machine
end

section
/-! SUPPORT. What a CSR instruction reads and writes, each said once (R28, R30, R31, R79, R118, R211). -/

namespace Sys2Proof.Machine

open Sys2Proof Sys2Proof.Safety

/-! What the thread that runs and its core's counters may take beside a result. -/

theorem Mine.setCounter {s t : State} {x : Thread} {w : FFlags} (h : Mine s t x w) {n : Nat} (hn : 0x078 ≤ n ∧ n ≤ 0x07F) (v : Word) :
    Mine s (t.updMyCore (·.setCsr n v)) x w := by
  have hc := h.cur
  obtain ⟨hall, hclusters, hcores, hthreads, hrest, hcsrs, hme⟩ := h
  have hcore : ∀ c, (t.updMyCore (·.setCsr n v)).core c = if c = s.cur.core then (t.core c).setCsr n v else t.core c := fun c => by
    rw [State.updMyCore, State.core_updCore, hc]
    split
    · next h => rw [h]
    · rfl
  refine ⟨hall, hclusters, fun c hcn => ?_, fun j hj => ?_, ?_, fun j hj => ?_, ?_⟩
  · rw [hcore, if_neg hcn, hcores c hcn]
  · rw [hcore, if_pos rfl]
    exact hthreads j hj
  · rw [hcore, if_pos rfl]
    exact hrest
  · rw [hcore, if_pos rfl, Core.csr_setCsr, if_neg (fun e : j = n => hj (e.symm ▸ hn))]
    exact hcsrs j hj
  · rw [← hme]
    change ((t.updMyCore (·.setCsr n v)).core t.cur.core).thread t.cur.slot = (t.core t.cur.core).thread t.cur.slot
    rw [hcore]
    split <;> rfl

theorem Mine.raiseWay {s t : State} {x : Thread} {w : FFlags} (h : Mine s t x w) (f : FFlags) :
    Mine s (t.updCluster (clusterOf s.cur.core) (fun c => { c with onTheWay := c.onTheWay ||| f })) x (w ||| f) := by
  obtain ⟨hall, hclusters, hcores, hthreads, hrest, hcsrs, hme⟩ := h
  refine ⟨hall, fun c => ?_, hcores, hthreads, hrest, hcsrs, hme⟩
  rw [State.cluster_updCluster]
  split
  · next hcc => rw [hclusters, if_pos rfl, hcc]
  · next hcc => rw [hclusters, if_neg hcc]

/-- A change of the thread beforehand is no matter where the thread is given. -/
theorem Mine.before_updMe {s t : State} {x : Thread} {w : FFlags} (h : Mine s t x w) (f : Thread → Thread) : Mine (s.updMe f) t x w := by
  obtain ⟨hall, hclusters, hcores, hthreads, hrest, hcsrs, hme⟩ := h
  have hcore : ∀ c, (s.updMe f).core c = if c = s.cur.core then (s.core c).setThread s.cur.slot (f s.me) else s.core c := fun c => by
    rw [State.updMe, State.updThread, State.setThread, State.core_updCore]
    split
    · next h => rw [h]; rfl
    · rfl
  have hmine : (s.updMe f).core (s.updMe f).cur.core = (s.core s.cur.core).setThread s.cur.slot (f s.me) :=
    (hcore s.cur.core).trans (if_pos rfl)
  refine ⟨hall, hclusters, fun c hcn => ?_, fun j hj => ?_, ?_, fun j hj => ?_, hme⟩
  · exact (hcores c hcn).trans ((hcore c).trans (if_neg hcn)).symm
  · rw [hmine, Core.thread_setThread]
    exact (hthreads j hj).trans (if_neg hj).symm
  · rw [hmine]
    exact hrest
  · rw [hmine]
    exact hcsrs j hj

/-- The thread that has written a register and gone on. -/
def Thread.afterPut (x : Thread) (d : Reg) (v : Word) : Thread := (x.setReg d v).retire.stepPc

theorem mine_put (s : State) (d : Reg) (v : Word) : Mine s (s.put d v) (s.me.afterPut d v) s.way :=
  ((Mine.refl s).updMe (·.setReg d v)).advance

theorem Mine.regsPut {s t : State} {d : Reg} {v : Word} {w : FFlags} (h : Mine s t (s.me.afterPut d v) w) : RegsPut s t d v := fun n => by
  rw [h.2.2.2.2.2.2, Thread.afterPut, Thread.regNo_stepPc, Thread.regNo_retire, Thread.regNo_setReg]
theorem Mine.wroteReg {s t : State} {d : Reg} {v : Word} (h : Mine s t (s.me.afterPut d v) s.way) : WroteReg s t d v 0 := by
  have hr : Mine s t (((s.me.setReg d v).raised 0).retire.stepPc) (s.way ||| (0 &&& ~~~(s.me.csr 0x011).setWidth 5)) := by
    rw [Thread.raised_zero, show ∀ y : FFlags, s.way ||| (0 &&& y) = s.way from fun y => by simp]
    exact h
  refine ⟨h.aside, hr.retired (by simp) (by simp), Mine.behind h (by simp) (by simp), h.regsPut, fun r => ?_, fun m => ?_⟩
  · exact (congrArg (fun x : Thread => x.row r.toNat) h.2.2.2.2.2.2).trans (Thread.row_congr (by simp [Thread.afterPut]) _)
  · exact (congrArg (fun x : Thread => x.mask m) h.2.2.2.2.2.2).trans (Thread.mask_congr (by simp [Thread.afterPut]) _)

/-- The thread that has then written a CSR of its own: all that is said of it. -/
theorem Mine.wroteCsr {s t : State} {d : Reg} {v z : Word} {n : Nat} {w : FFlags} (hn : n ≠ 0x081)
    (h : Mine s t ((s.me.afterPut d v).setCsr n z) w) : WroteCsr s t d v n z := by
  have hm := h.2.2.2.2.2.2
  have hcsr : ∀ k, (s.me.afterPut d v).csr k = if k = 0x081 then s.me.csr 0x081 + 1 else s.me.csr k := fun k => by
    rw [Thread.afterPut, Thread.csr_stepPc, Thread.csr_retire, Thread.csr_setReg, Thread.csr_setReg]
  refine ⟨h.aside, fun h0 => ?_, fun k => ?_, fun r => ?_, fun m => ?_, ?_, ?_, ?_, fun k hk h81 => ?_, ?_⟩
  · have := Thread.stepPc_behind (s.me.setReg d v).retire (by simpa using h0)
    rw [hm]
    simpa [Thread.afterPut] using this
  · rw [hm, Thread.regNo_setCsr, Thread.afterPut, Thread.regNo_stepPc, Thread.regNo_retire, Thread.regNo_setReg]
  · exact (congrArg (fun x : Thread => x.row r.toNat) hm).trans (Thread.row_congr (by simp [Thread.afterPut]) _)
  · exact (congrArg (fun x : Thread => x.mask m) hm).trans (Thread.mask_congr (by simp [Thread.afterPut]) _)
  · rw [hm, Thread.setCsr_state, Thread.afterPut, Thread.stepPc_state]
    rfl
  · rw [hm, Thread.csr_setCsr, if_pos rfl]
  · rw [hm, Thread.csr_setCsr, if_neg hn.symm, hcsr, if_pos rfl]
  · rw [hm, Thread.csr_setCsr, if_neg hk, hcsr, if_neg h81]
  · rw [hm]
    simp [Thread.afterPut]

/-! One CSR instruction (R79). -/

/-- The word that a refused CSR instruction names is that of the instruction of its form. -/
theorem csrOp_eq (s : State) (op : CsrOp) (d a : Reg) (c : CsrNum) : s.csrOp op d a c =
    if csrSup c.toNat ∧ ¬ s.me.sup then .next (s.trap 16 ((wordOf (csrInstr ⟨op, d, a⟩ c)).setWidth 64))
    else if s.statusPriv c.toNat (csrNew op a (s.reg a) (s.csrRead c.toNat).1) then
      .next (s.trap 16 ((wordOf (csrInstr ⟨op, d, a⟩ c)).setWidth 64))
    else match csrNew op a (s.reg a) (s.csrRead c.toNat).1 with
      | none => .next ((s.csrRead c.toNat).2.put d (s.csrRead c.toNat).1)
      | some v =>
        if c.toNat = 0x010 ∧ 5 ≤ bits v 2 0 then .next (s.trap 1 ((wordOf (csrInstr ⟨op, d, a⟩ c)).setWidth 64))
        else .next (((s.csrRead c.toNat).2.put d (s.csrRead c.toNat).1).csrWrite c.toNat v) := by
  cases op <;> rfl

/-- A form that only reads. -/
theorem csrOp_read {s : State} {op : CsrOp} {d a : Reg} {c : CsrNum} (hs : csrSup c.toNat = true → s.me.sup = true)
    (hn : csrNew op a (s.reg a) (s.csrRead c.toNat).1 = none) :
    s.csrOp op d a c = .next ((s.csrRead c.toNat).2.put d (s.csrRead c.toNat).1) := by
  rw [csrOp_eq, if_neg (fun h => h.2 (hs h.1)), hn]
  rfl
/-- A form that writes `v`. -/
theorem csrOp_write {s : State} {op : CsrOp} {d a : Reg} {c : CsrNum} {v : Word} (hs : csrSup c.toNat = true → s.me.sup = true)
    (hn : csrNew op a (s.reg a) (s.csrRead c.toNat).1 = some v) (hp : s.statusPriv c.toNat (some v) = false)
    (hf : c.toNat = 0x010 → bits v 2 0 ≤ 4) :
    s.csrOp op d a c = .next (((s.csrRead c.toNat).2.put d (s.csrRead c.toNat).1).csrWrite c.toNat v) := by
  rw [csrOp_eq, if_neg (fun h => h.2 (hs h.1)), hn, hp, if_neg Bool.false_ne_true]
  exact if_neg fun h => absurd (hf h.1) (by omega)

/-- A CSR of the thread reads as what it holds. -/
theorem csrRead_thread {n : Nat} (s : State) (hro : csrRo n = false) (hc : csrOfCore n = false) : s.csrRead n = (s.me.csr n, s) := by
  simp only [csrRo, csrOfCore, Bool.or_eq_false_iff, beq_eq_false_iff_ne, Bool.and_eq_false_iff, decide_eq_false_iff_not] at hro hc
  unfold State.csrRead
  dsimp only
  rw [if_neg (by omega), if_neg (by omega), if_neg (by omega), if_neg (by omega), if_neg (by omega), if_neg (by omega), if_neg (by omega),
    if_neg (by omega), if_neg (by omega), if_neg (by omega), if_neg (by omega), if_neg (by omega), if_neg]
  simp only [csrOfCore, Bool.or_eq_true, Bool.and_eq_true, decide_eq_true_eq]
  omega
/-- A write of a CSR of the thread that has no rule of its own. -/
theorem csrWrite_thread {n : Nat} (s : State) (v : Word) (hro : csrRo n = false) (hc : csrOfCore n = false) (h11 : n ≠ 0x011) (h30 : n ≠ 0x030)
    (h40 : n ≠ 0x040) : s.csrWrite n v = s.updMe (·.setCsr n (masked n (s.me.csr n) v)) := by
  unfold State.csrWrite
  dsimp only
  rw [hro, hc, if_neg Bool.false_ne_true, if_neg, if_neg Bool.false_ne_true, if_neg h11, if_neg h30, if_neg h40]
  · rfl
  · simp only [csrOfCore, Bool.or_eq_false_iff, Bool.and_eq_false_iff, decide_eq_false_iff_not] at hc
    omega

/-- After a result is written the thread's CSRs other than INSTRET are as they were. -/
theorem csr_put (s : State) (d : Reg) (v : Word) {n : Nat} (hn : n ≠ 0x081) : (s.put d v).me.csr n = s.me.csr n := by
  rw [(mine_put s d v).2.2.2.2.2.2, Thread.afterPut, Thread.csr_stepPc, Thread.csr_retire, if_neg hn, Thread.csr_setReg]

/-! Counters stay below 2^48 (R343). -/

theorem Core.hpm_csr_lt {k : Core} {n : Nat} (h : (k.csr n).toNat < 2 ^ 48) (code m : Nat) : ((k.hpm code m).csr n).toNat < 2 ^ 48 := by
  unfold Core.hpm
  split
  · exact h
  · refine foldl_keeps (P := fun c : Core => (c.csr n).toNat < 2 ^ 48) (fun c i _ hc => ?_) k h
    split
    · rw [Core.csr_setCsr]
      split
      · rw [BitVec.toNat_ofNat]
        omega
      · exact hc
    · exact hc
theorem myCore_hpm (s : State) (code m : Nat) : (s.hpm s.cur.core code m).myCore = s.myCore.hpm code m := State.myCore_updMyCore s _
theorem myCore_csr_updMe (s : State) (f : Thread → Thread) (n : Nat) : (s.updMe f).myCore.csr n = s.myCore.csr n :=
  (congrArg (fun k : Core => k.csr n) (State.myCore_updMyCore s fun k => k.setThread s.cur.slot (f s.me)) :)
theorem myCore_csr_put_lt {s : State} {n : Nat} (h : (s.myCore.csr n).toNat < 2 ^ 48) (d : Reg) (v : Word) :
    ((s.put d v).myCore.csr n).toNat < 2 ^ 48 := by
  have hret : ((s.setReg d v).retire.myCore.csr n).toNat < 2 ^ 48 := by
    rw [State.retire, show ((s.setReg d v).updMe Thread.retire).hpm (s.setReg d v).cur.core 2 1
      = ((s.setReg d v).updMe Thread.retire).hpm ((s.setReg d v).updMe Thread.retire).cur.core 2 1 from rfl, myCore_hpm]
    refine Core.hpm_csr_lt ?_ 2 1
    rwa [myCore_csr_updMe, State.setReg, myCore_csr_updMe]
  rw [State.put, State.advance]
  change ((((s.setReg d v).retire.updMe Thread.stepPc).hpm ((s.setReg d v).retire.updMe Thread.stepPc).cur.core 0x1A _).myCore.csr n).toNat < _
  rw [myCore_hpm]
  refine Core.hpm_csr_lt ?_ 0x1A _
  rwa [myCore_csr_updMe]

theorem csrMask_counter {n : Nat} (hn : 0x078 ≤ n ∧ n ≤ 0x07F) : csrMask n = BitVec.ofNat 64 (2 ^ 48 - 1) := by
  unfold csrMask
  rw [if_neg (by omega), if_neg (by omega), if_neg (by omega), if_neg (by omega), if_neg (by omega), if_neg (by omega), if_neg (by omega),
    if_neg (by omega), if_neg (by omega), if_neg (by omega), if_neg (by omega), if_neg (by omega), if_neg (by omega), if_pos hn]
  rfl
/-- A write of a counter leaves the low 48 bits of the value. -/
theorem masked_counter {n : Nat} (hn : 0x078 ≤ n ∧ n ≤ 0x07F) {old : Word} (h : old.toNat < 2 ^ 48) (v : Word) :
    masked n old v = BitVec.ofNat 64 (v.toNat % 2 ^ 48) := by
  apply BitVec.eq_of_getLsbD_eq
  intro i hi
  rw [masked, csrMask_counter hn, BitVec.getLsbD_or, BitVec.getLsbD_and, BitVec.getLsbD_and, BitVec.getLsbD_not, BitVec.getLsbD_ofNat,
    BitVec.getLsbD_ofNat, Nat.testBit_two_pow_sub_one, Nat.testBit_mod_two_pow]
  by_cases h48 : i < 48
  · simp [h48, hi, BitVec.getLsbD]
  · have : old.getLsbD i = false := Nat.testBit_lt_two_pow (h.trans_le (Nat.pow_le_pow_right (by decide) (by omega)))
    simp [h48, this]
theorem csrOfCore_counter {n : Nat} (hn : 0x078 ≤ n ∧ n ≤ 0x07F) : csrOfCore n = true := by
  simp only [csrOfCore, Bool.or_eq_true, Bool.and_eq_true, decide_eq_true_eq]
  omega
theorem csrWrite_counter {n : Nat} (s : State) (v : Word) (hn : 0x078 ≤ n ∧ n ≤ 0x07F) :
    s.csrWrite n v = s.updMyCore (·.setCsr n (masked n (s.myCore.csr n) v)) := by
  have hro : csrRo n = false := by
    simp only [csrRo, Bool.or_eq_false_iff, beq_eq_false_iff_ne, Bool.and_eq_false_iff, decide_eq_false_iff_not]
    omega
  unfold State.csrWrite
  dsimp only
  rw [hro, csrOfCore_counter hn, if_neg Bool.false_ne_true, if_neg (by omega), if_pos rfl, if_pos rfl]
  rfl

/-- What a counter has grown by when it is read: nothing, or a free value where its event counts time (log entry 9). -/
theorem csrRead_counter {n : Nat} (s : State) (hn : 0x078 ≤ n ∧ n ≤ 0x07F) : s.csrRead n =
    if hpmTiming (s.myCore.csr (n - 8)).toNat then
      ((s.myCore.csr n + Config.elapsedCycles s.freeCount) &&& 0xFFFFFFFFFFFF,
        s.fresh.updMyCore (·.setCsr n ((s.myCore.csr n + Config.elapsedCycles s.freeCount) &&& 0xFFFFFFFFFFFF)))
    else (s.myCore.csr n, s) := by
  unfold State.csrRead
  dsimp only
  rw [if_neg (by omega), if_neg (by omega), if_neg (by omega), if_neg (by omega), if_neg (by omega), if_neg (by omega), if_neg (by omega),
    if_neg (by omega), if_neg (by omega), if_neg (by omega), if_neg (by omega), csrOfCore_counter hn, if_pos rfl]
  simp only [hn, true_and]

/-! The CSRs of a thread with a rule of their own. -/

theorem Thread.stepPc_arrival_none (t : Thread) : ({ t with arrival := none } : Thread).stepPc = { t.stepPc with arrival := none } := by
  unfold Thread.stepPc
  dsimp only
  split
  · rfl
  · split
    · rfl
    · split <;> rfl
theorem Thread.setReg_arrival_none (t : Thread) (d : Reg) (v : Word) :
    ({ t with arrival := none } : Thread).setReg d v = { t.setReg d v with arrival := none } := by
  unfold Thread.setReg
  dsimp only
  split
  · rfl
  · split <;> rfl
/-- Nothing of a result depends on the thread's arrival. -/
theorem afterPut_arrival (t : Thread) (d : Reg) (v : Word) :
    ({ t with arrival := none } : Thread).afterPut d v = { t.afterPut d v with arrival := none } := by
  rw [Thread.afterPut, Thread.setReg_arrival_none]
  exact Thread.stepPc_arrival_none (t.setReg d v).retire

theorem domainWritable_put (s : State) (d : Reg) (v w : Word) : (s.put d v).domainWritable (s.put d v).cur w = s.domainWritable s.cur w := by
  have hm := mine_put s d v
  have hme : (s.put d v).thread s.cur = s.me.afterPut d v := hm.2.2.2.2.2.2
  have hgroup : ((s.put d v).core s.cur.core).group = (s.core s.cur.core).group := (congrArg (fun k : Core => k.group) hm.2.2.2.2.1 :)
  have hcsr : ∀ n, n ≠ 0x081 → (s.me.afterPut d v).csr n = s.me.csr n := fun n hn => by rw [← hm.2.2.2.2.2.2, csr_put s d v hn]
  unfold State.domainWritable State.domainArrived State.domainKey State.container Thread.level Thread.kernid
  simp only [State.put_cur, hme, hgroup, hcsr 0x040 (by decide), hcsr 0x0F3 (by decide)]
  simp [Thread.afterPut, State.me]

theorem csrWrite_fflags (s : State) (v : Word) : s.csrWrite 0x011 v =
    (s.updMe (·.setCsr 0x011 (masked 0x011 (s.me.csr 0x011) v))).updCluster (clusterOf s.cur.core)
      (fun c => { c with onTheWay := c.onTheWay ||| ((masked 0x011 (s.me.csr 0x011) v).setWidth 5 &&& ~~~(s.me.csr 0x011).setWidth 5) }) := rfl
theorem csrWrite_mfmt (s : State) (v : Word) : s.csrWrite 0x030 v =
    if mfmtOk (masked 0x030 (s.me.csr 0x030) v) then s.updMe (·.setCsr 0x030 (masked 0x030 (s.me.csr 0x030) v)) else s := rfl
theorem csrWrite_domain (s : State) (v : Word) : s.csrWrite 0x040 v =
    if s.domainWritable s.cur (masked 0x040 (s.me.csr 0x040) v) && masked 0x040 (s.me.csr 0x040) v != s.me.csr 0x040 then
      s.updMe (fun t => { t.setCsr 0x040 (masked 0x040 (s.me.csr 0x040) v) with arrival := none }) else s := rfl

theorem masked_fflags (old v : Word) : (masked 0x011 old v).setWidth 5 = v.setWidth 5 := by
  apply BitVec.eq_of_getLsbD_eq
  intro i hi
  have hm : (csrMask 0x011).getLsbD i = true := by
    rw [show csrMask 0x011 = BitVec.ofNat 64 (2 ^ 5 - 1) from rfl, BitVec.getLsbD_ofNat, Nat.testBit_two_pow_sub_one]
    simp [hi]
    omega
  simp only [masked, BitVec.getLsbD_setWidth, BitVec.getLsbD_or, BitVec.getLsbD_and, BitVec.getLsbD_not, hm]
  simp [hi]

/-! What a form that writes makes of each CSR. -/

section
variable {s : State} {op : CsrOp} {d a : Reg} {new : Word → Word} (hnew : ∀ old, csrNew op a (s.reg a) old = some (new old))
include hnew

/-- A CSR of the thread without a rule of its own is read, and takes the value. -/
theorem csrOp_thread {c : CsrNum} (hro : csrRo c.toNat = false) (hc : csrOfCore c.toNat = false) (hs : csrSup c.toNat = true → s.me.sup = true)
    (hp : s.statusPriv c.toNat (some (new (s.me.csr c.toNat))) = false) (hf : c.toNat = 0x010 → bits (new (s.me.csr c.toNat)) 2 0 ≤ 4) :
    s.csrOp op d a c = .next ((s.put d (s.me.csr c.toNat)).csrWrite c.toNat (new (s.me.csr c.toNat))) := by
  have hr := csrRead_thread s hro hc
  have h := csrOp_write (d := d) hs (hnew _) (by rwa [hr]) (by rwa [hr])
  rwa [hr] at h

theorem csrOp_stored {c : CsrNum} (hro : csrRo c.toNat = false) (hc : csrOfCore c.toNat = false) (hs : csrSup c.toNat = true → s.me.sup = true)
    (hp : s.statusPriv c.toNat (some (new (s.me.csr c.toNat))) = false) (hf : c.toNat = 0x010 → bits (new (s.me.csr c.toNat)) 2 0 ≤ 4)
    (h11 : c.toNat ≠ 0x011) (h30 : c.toNat ≠ 0x030) (h40 : c.toNat ≠ 0x040) :
    ∃ t, s.csrOp op d a c = .next t
      ∧ WroteCsr s t d (s.me.csr c.toNat) c.toNat (masked c.toNat (s.me.csr c.toNat) (new (s.me.csr c.toNat))) := by
  have h81 : c.toNat ≠ 0x081 := fun h => by rw [h] at hro; exact nomatch hro
  refine ⟨_, csrOp_thread hnew hro hc hs hp hf, ?_⟩
  rw [csrWrite_thread _ _ hro hc h11 h30 h40, csr_put s d _ h81]
  exact Mine.wroteCsr h81 ((mine_put s d _).updMe _)

theorem csrOp_frm_refused (hf : 5 ≤ bits (new (s.me.csr 0x010)) 2 0) :
    s.csrOp op d a 0x010 = .next (s.trap 1 ((wordOf (csrInstr ⟨op, d, a⟩ 0x010)).setWidth 64)) := by
  have hr := csrRead_thread (n := (0x010 : CsrNum).toNat) s rfl rfl
  rw [csrOp_eq, if_neg (fun h => nomatch h.1), hr, hnew, if_neg (fun h => nomatch h)]
  exact if_pos ⟨rfl, hf⟩
theorem csrOp_status_refused (hs : s.me.sup = false) (hne : ¬ (new (s.me.csr 0)).getLsbD 1 = (s.me.csr 0).getLsbD 1) :
    s.csrOp op d a 0x000 = .next (s.trap 16 ((wordOf (csrInstr ⟨op, d, a⟩ 0x000)).setWidth 64)) := by
  have hr := csrRead_thread (n := (0x000 : CsrNum).toNat) s rfl rfl
  have hp : s.statusPriv (0x000 : CsrNum).toNat (some (new (s.me.csr 0))) = true := by
    change (true && !s.me.sup && (new (s.me.csr 0)).getLsbD 1 != (s.me.csr 0).getLsbD 1) = true
    rw [hs, bne_iff_ne.mpr hne]
    rfl
  rw [csrOp_eq, if_neg (fun h => nomatch h.1), hr, hnew]
  exact if_pos hp

theorem csrOp_fflags : ∃ t, s.csrOp op d a 0x011 = .next t
    ∧ WroteCsr s t d (s.me.csr 0x011) 0x011 (masked 0x011 (s.me.csr 0x011) (new (s.me.csr 0x011)))
    ∧ (t.cluster (clusterOf s.cur.core)).onTheWay = (s.cluster (clusterOf s.cur.core)).onTheWay
        ||| ((new (s.me.csr 0x011)).setWidth 5 &&& ~~~(s.me.csr 0x011).setWidth 5) := by
  refine ⟨_, csrOp_thread hnew rfl rfl (fun h => nomatch h) rfl (fun h => nomatch h), ?_⟩
  change WroteCsr s ((s.put d (s.me.csr 0x011)).csrWrite 0x011 (new (s.me.csr 0x011))) d _ 0x011 _
    ∧ (((s.put d (s.me.csr 0x011)).csrWrite 0x011 (new (s.me.csr 0x011))).cluster (clusterOf s.cur.core)).onTheWay = _
  rw [csrWrite_fflags, csr_put s d _ (by decide), masked_fflags]
  have hm := ((mine_put s d (s.me.csr 0x011)).updMe (·.setCsr 0x011 (masked 0x011 (s.me.csr 0x011) (new (s.me.csr 0x011))))).raiseWay
    ((new (s.me.csr 0x011)).setWidth 5 &&& ~~~(s.me.csr 0x011).setWidth 5)
  exact ⟨hm.wroteCsr (by decide), congrArg Cluster.onTheWay ((hm.2.1 (clusterOf s.cur.core)).trans (if_pos rfl))⟩

theorem csrOp_mfmt : ∃ t, s.csrOp op d a 0x030 = .next t
    ∧ (if mfmtOk (masked 0x030 (s.me.csr 0x030) (new (s.me.csr 0x030))) then
        WroteCsr s t d (s.me.csr 0x030) 0x030 (masked 0x030 (s.me.csr 0x030) (new (s.me.csr 0x030)))
      else WroteReg s t d (s.me.csr 0x030) 0) := by
  refine ⟨_, csrOp_thread hnew rfl rfl (fun h => nomatch h) rfl (fun h => nomatch h), ?_⟩
  change (if _ then WroteCsr s ((s.put d (s.me.csr 0x030)).csrWrite 0x030 (new (s.me.csr 0x030))) d _ 0x030 _
    else WroteReg s ((s.put d (s.me.csr 0x030)).csrWrite 0x030 (new (s.me.csr 0x030))) d _ 0)
  rw [csrWrite_mfmt, csr_put s d _ (by decide)]
  split
  · exact ((mine_put s d _).updMe _).wroteCsr (by decide)
  · exact s.put_wrote d _

theorem csrOp_domain : ∃ t, s.csrOp op d a 0x040 = .next t
    ∧ (if s.domainWritable s.cur (masked 0x040 (s.me.csr 0x040) (new (s.me.csr 0x040))) = true
          ∧ masked 0x040 (s.me.csr 0x040) (new (s.me.csr 0x040)) ≠ s.me.csr 0x040 then
        WroteCsr (s.updMe (fun t => { t with arrival := none })) t d (s.me.csr 0x040) 0x040
          (masked 0x040 (s.me.csr 0x040) (new (s.me.csr 0x040)))
      else WroteReg s t d (s.me.csr 0x040) 0) := by
  refine ⟨_, csrOp_thread hnew rfl rfl (fun h => nomatch h) rfl (fun h => nomatch h), ?_⟩
  change (if _ then WroteCsr _ ((s.put d (s.me.csr 0x040)).csrWrite 0x040 (new (s.me.csr 0x040))) d _ 0x040 _
    else WroteReg s ((s.put d (s.me.csr 0x040)).csrWrite 0x040 (new (s.me.csr 0x040))) d _ 0)
  rw [csrWrite_domain, csr_put s d _ (by decide), domainWritable_put]
  by_cases h : s.domainWritable s.cur (masked 0x040 (s.me.csr 0x040) (new (s.me.csr 0x040))) = true
      ∧ masked 0x040 (s.me.csr 0x040) (new (s.me.csr 0x040)) ≠ s.me.csr 0x040
  · rw [if_pos h, if_pos (by simpa using h)]
    have hm := ((mine_put s d (s.me.csr 0x040)).updMe
      (fun t => { t.setCsr 0x040 (masked 0x040 (s.me.csr 0x040) (new (s.me.csr 0x040))) with arrival := none })).before_updMe
        (fun t => { t with arrival := none })
    refine Mine.wroteCsr (n := 0x040) (w := s.way) (by decide) ?_
    rw [State.me_updMe, afterPut_arrival]
    exact hm
  · rw [if_neg h, if_neg (by simpa using h)]
    exact s.put_wrote d _

/-- A counter holds the low 48 bits of what was written, where it held no more before. -/
theorem csrOp_counted {u : State} {old : Word} {c : CsrNum} (hc : 0x078 ≤ c.toNat ∧ c.toNat ≤ 0x07F) (hr : s.csrRead c.toNat = (old, u))
    (hu : u.cur = s.cur) :
    ∃ t, s.csrOp op d a c = .next t ∧ WroteReg u t d old 0
      ∧ ((u.myCore.csr c.toNat).toNat < 2 ^ 48 → (t.core s.cur.core).csr c.toNat = BitVec.ofNat 64 ((new old).toNat % 2 ^ 48)) := by
  have hs : csrSup c.toNat = false := by
    simp only [csrSup, Bool.or_eq_false_iff, beq_eq_false_iff_ne, Bool.and_eq_false_iff, decide_eq_false_iff_not]
    omega
  have hp : s.statusPriv c.toNat (some (new (s.csrRead c.toNat).1)) = false := by
    have h0 : (c.toNat == 0) = false := beq_eq_false_iff_ne.mpr (by omega)
    rw [State.statusPriv, h0]
    rfl
  have h := csrOp_write (d := d) (fun h => nomatch hs.symm.trans h) (hnew _) hp (fun h => by omega)
  rw [hr] at h
  rw [csrWrite_counter _ _ hc] at h
  refine ⟨_, h, ((mine_put u d old).setCounter hc _).wroteReg, fun hlt => ?_⟩
  rw [← hu]
  change (((u.put d old).updMyCore _).myCore).csr _ = _
  rw [State.myCore_updMyCore, Core.csr_setCsr, if_pos rfl, masked_counter hc (myCore_csr_put_lt hlt d old)]

theorem csrOp_counter {c : CsrNum} (hc : 0x078 ≤ c.toNat ∧ c.toNat ≤ 0x07F) :
    ∃ t, s.csrOp op d a c = .next t
      ∧ (if hpmTiming (s.myCore.csr (c.toNat - 8)).toNat = true then
          ∃ e, let w := (s.myCore.csr c.toNat + e) &&& 0xFFFFFFFFFFFF
            WroteReg (s.fresh.updMyCore (·.setCsr c.toNat w)) t d w 0
              ∧ (t.core s.cur.core).csr c.toNat = BitVec.ofNat 64 ((new w).toNat % 2 ^ 48)
        else WroteReg s t d (s.myCore.csr c.toNat) 0
          ∧ (bits (s.myCore.csr c.toNat) 63 48 = 0 →
            (t.core s.cur.core).csr c.toNat = BitVec.ofNat 64 ((new (s.myCore.csr c.toNat)).toNat % 2 ^ 48))) := by
  have hr := csrRead_counter s hc
  split at hr
  · next h =>
    obtain ⟨t, he, hw, hcount⟩ := csrOp_counted (d := d) hnew hc hr rfl
    refine ⟨t, he, ?_⟩
    rw [if_pos h]
    refine ⟨Config.elapsedCycles s.freeCount, hw, hcount ?_⟩
    rw [State.myCore_updMyCore, Core.csr_setCsr, if_pos rfl, BitVec.toNat_and]
    exact Nat.and_le_right.trans_lt (by decide)
  · next h =>
    obtain ⟨t, he, hw, hcount⟩ := csrOp_counted (d := d) hnew hc hr rfl
    refine ⟨t, he, ?_⟩
    rw [if_neg h]
    refine ⟨hw, fun hb => hcount ?_⟩
    simp only [bits] at hb
    omega

end

/-- Settles O13: each row is its form's one CSR operation, and what that operation does with each CSR is said above. -/
theorem csrRows : Obligations.CsrRows := by
  unfold Obligations.CsrRows
  refine ⟨fun f s => ?rows, fun d a s => ⟨fun op c hop hc => ?reads, fun hs => ?cflags, fun hs => ?cflagsPriv, fun op hop ha => ?writes⟩⟩
  case rows =>
    obtain ⟨op, d, a⟩ := f
    cases op <;> exact ⟨rfl, rfl, rfl, rfl, fun _ => rfl, rfl, rfl, rfl, fun _ => rfl, fun _ => rfl⟩
  case reads =>
    refine ⟨_, ?_, s.put_wrote d _⟩
    obtain ⟨hro, hof, hsup⟩ : csrRo c.toNat = false ∧ csrOfCore c.toNat = false ∧ csrSup c.toNat = false := by
      fin_cases hc <;> exact ⟨rfl, rfl, rfl⟩
    have hr := csrRead_thread s hro hof
    have hn : csrNew op a (s.reg a) (s.csrRead c.toNat).1 = none := by
      obtain rfl | ⟨rfl | rfl, rfl⟩ := hop <;> rfl
    have h := csrOp_read (d := d) (fun h => nomatch hsup.symm.trans h) hn
    rw [hr] at h
    rw [← h]
    obtain rfl | ⟨rfl | rfl, rfl⟩ := hop <;> rfl
  case cflags => exact ⟨_, csrOp_read (fun _ => hs) rfl, (s.updCluster _ _).put_wrote d _⟩
  case cflagsPriv =>
    change s.csrOp .r d 0 0x012 = _
    rw [csrOp_eq, if_pos ⟨rfl, by simp [hs]⟩]
    rfl
  case writes =>
    intro f new refused wrote
    have hnew : ∀ old, csrNew op a (s.reg a) old = some (new old) := fun old => by
      cases op with
      | r => exact absurd rfl hop
      | w | wi => rfl
      | s => exact if_neg (ha (.inl rfl))
      | c => exact if_neg (ha (.inr rfl))
    refine ⟨fun hf => csrOp_stored hnew (c := 0x010) rfl rfl (fun h => nomatch h) rfl (fun _ => hf) (by decide) (by decide) (by decide),
      csrOp_frm_refused hnew, csrOp_fflags hnew, ⟨fun h => ?_, csrOp_status_refused hnew⟩, ?_, ?_, csrOp_mfmt hnew, ?_,
      csrOp_domain hnew, fun n => ?_, fun c hc hs => ?_⟩
    · refine csrOp_stored hnew (c := 0x000) rfl rfl (fun h => nomatch h) ?_ (fun h => nomatch h) (by decide) (by decide) (by decide)
      rcases h with h | h
      · simp [State.statusPriv, h]
      · exact (Bool.and_eq_false_imp.mpr fun _ => bne_eq_false_iff_eq.mpr h)
    · exact csrOp_stored hnew (c := 0x021) rfl rfl (fun h => nomatch h) rfl (fun h => nomatch h) (by decide) (by decide) (by decide)
    · exact csrOp_stored hnew (c := 0x022) rfl rfl (fun h => nomatch h) rfl (fun h => nomatch h) (by decide) (by decide) (by decide)
    · exact csrOp_stored hnew (c := 0x033) rfl rfl (fun h => nomatch h) rfl (fun h => nomatch h) (by decide) (by decide) (by decide)
    · have hn : (0x078 + n.setWidth 12 : CsrNum).toNat = 0x078 + n.toNat := by bv_omega
      have h := csrOp_counter (c := 0x078 + n.setWidth 12) (d := d) hnew (by omega)
      rw [hn, (by omega : 0x078 + n.toNat - 8 = 0x070 + n.toNat)] at h
      exact h
    · obtain ⟨-, hro, hof, h0, h10, h11, h30, h40⟩ := hc
      have hne : ∀ k : CsrNum, c ≠ k → c.toNat ≠ k.toNat := fun k h e => h (BitVec.eq_of_toNat_eq e)
      refine csrOp_stored hnew hro hof hs ?_ (fun h => absurd h (hne _ h10)) (hne _ h11) (hne _ h30) (hne _ h40)
      rw [State.statusPriv, (beq_eq_false_iff_ne.mpr (hne 0 h0) : (c.toNat == 0) = false)]
      rfl

end Sys2Proof.Machine
end

section
/-! SUPPORT. The values of magnitudes, and that rounding gives the nearest or the bounding one (R21, R28, R29). -/

namespace Sys2Proof.Machine

open Sys2Proof Sys2Proof.Safety

/-! Exact numbers (R21). -/

/-- The number that a dyadic number is. -/
def Dy.val (x : Dy) : ℚ := (x.n : ℚ) * 2 ^ x.e
/-- 1, or -1 for a negative sign. -/
def signOf (neg : Bool) : ℚ := if neg then -1 else 1

theorem two_zpow_sub_toNat {e k : Int} (h : e ≤ k) : (2 : ℚ) ^ k = 2 ^ (k - e).toNat * 2 ^ e := by
  rw [← zpow_natCast, Int.toNat_of_nonneg (by omega), ← zpow_add₀ (by norm_num)]
  congr 1
  omega
theorem Dy.val_add (x y : Dy) : (x.add y).val = x.val + y.val := by
  unfold Dy.add
  split
  · next h => simp [Dy.val, h]
  · split
    · next h => simp [Dy.val, h]
    · split
      · next h =>
        simp only [Dy.val]
        rw [two_zpow_sub_toNat h]
        push_cast
        ring
      · next h =>
        simp only [Dy.val]
        rw [two_zpow_sub_toNat (not_le.mp h).le]
        push_cast
        ring
theorem Dy.val_ofParts (neg : Bool) (m : Nat) (e : Int) : (Dy.ofParts neg m e).val = signOf neg * (m * 2 ^ e) := by
  cases neg <;> simp [Dy.val, Dy.ofParts, signOf]
theorem Dy.val_eq_zero_iff (x : Dy) : x.val = 0 ↔ x.n = 0 := by
  simp [Dy.val, zpow_ne_zero]
theorem signOf_bne (a b : Bool) : signOf (a != b) = signOf a * signOf b := by
  cases a <;> cases b <;> simp [signOf]
theorem signOf_not (a : Bool) : signOf (!a) = -signOf a := by
  cases a <;> simp [signOf]

theorem eq_f32Of (z : W32) : z = f32Of z.msb (z.toNat % 2 ^ 31) := by
  apply BitVec.eq_of_toNat_eq
  rw [f32Of_toNat _ (by omega), BitVec.msb_eq_decide]
  have := z.isLt
  by_cases h31 : 2 ^ 31 ≤ z.toNat
  · rw [decide_eq_true h31, if_pos rfl]
    omega
  · rw [decide_eq_false h31, if_neg Bool.false_ne_true]
    omega
/-- What a finite encoding denotes is the number it unpacks to. -/
theorem unpack32_number {x : W32} (h : f32Number x) :
    ∃ m e, unpack32 x = .fin x.msb m e ∧ m < 2 ^ 24 ∧ f32Value x = (Dy.ofParts x.msb m e).val
      ∧ (m = 0 → x = if x.msb then 0x80000000 else 0) := by
  have hz : x.toNat / 2 ^ 23 % 256 = 0 → x.toNat % 2 ^ 23 = 0 → x = if x.msb then 0x80000000 else 0 := fun he hf => by
    refine (eq_f32Of x).trans ?_
    rw [(by omega : x.toNat % 2 ^ 31 = 0)]
    cases x.msb <;> rfl
  rw [unpack32_eq, if_neg h]
  unfold f32Value
  dsimp only
  split
  · next he =>
    refine ⟨_, _, rfl, by omega, ?_, hz he⟩
    rw [Dy.val_ofParts, signOf, zpow_neg]
    rfl
  · next he =>
    refine ⟨_, _, rfl, by omega, ?_, fun h => by omega⟩
    rw [Dy.val_ofParts, signOf, zpow_sub₀ (by norm_num), zpow_natCast, mul_div_assoc]
    rfl

/-! Magnitudes. -/

/-- The number that the low 31 bits of an encoding stand for, past the largest finite ones too. -/
noncomputable def magValue (mag : Nat) : ℝ :=
  if mag / 2 ^ 23 = 0 then mag * 2 ^ (-149 : ℤ) else ((2 ^ 23 + mag % 2 ^ 23 : ℕ) : ℝ) * 2 ^ (((mag / 2 ^ 23 : ℕ) : ℤ) - 150)

/-- A magnitude by its last place: `k` units of the exponent that `place` names. -/
theorem magValue_place {place k : Nat} (hk : k ≤ 2 ^ 24) (h : place = 0 ∨ 2 ^ 23 ≤ k) :
    magValue (place * 2 ^ 23 + k) = k * 2 ^ ((place : ℤ) - 149) := by
  unfold magValue
  rcases (by omega : place = 0 ∧ k < 2 ^ 23 ∨ (2 ^ 23 ≤ k ∧ k < 2 ^ 24) ∨ k = 2 ^ 24) with ⟨rfl, hlt⟩ | ⟨hle, hlt⟩ | rfl
  · rw [if_pos (by omega)]
    simp
  · rw [if_neg (by omega), (by omega : (place * 2 ^ 23 + k) / 2 ^ 23 = place + 1), (by omega : 2 ^ 23 + (place * 2 ^ 23 + k) % 2 ^ 23 = k)]
    congr 2
    push_cast
    ring
  · rw [if_neg (by omega), (by omega : (place * 2 ^ 23 + 2 ^ 24) / 2 ^ 23 = place + 2),
      (by omega : 2 ^ 23 + (place * 2 ^ 23 + 2 ^ 24) % 2 ^ 23 = 2 ^ 23),
      (by push_cast; ring : ((place + 2 : ℕ) : ℤ) - 150 = 1 + ((place : ℤ) - 149)), zpow_add₀ (by norm_num)]
    push_cast
    ring
theorem exists_place (mag : Nat) : ∃ place k, mag = place * 2 ^ 23 + k ∧ k < 2 ^ 24 ∧ (place = 0 ∨ 2 ^ 23 ≤ k) :=
  ⟨mag / 2 ^ 23 - 1, mag - (mag / 2 ^ 23 - 1) * 2 ^ 23, by omega, by omega, by omega⟩
theorem magValue_strictMono : StrictMono magValue := by
  refine strictMono_nat_of_lt_succ fun mag => ?_
  obtain ⟨place, k, rfl, hlt, hn⟩ := exists_place mag
  rw [Nat.add_assoc, magValue_place hlt.le hn, magValue_place (by omega) (by omega)]
  push_cast
  have : (0 : ℝ) < 2 ^ ((place : ℤ) - 149) := zpow_pos (by norm_num) _
  linarith
theorem magValue_zero : magValue 0 = 0 := by simp [magValue]
theorem magValue_nonneg (mag : Nat) : 0 ≤ magValue mag := magValue_zero ▸ magValue_strictMono.monotone (Nat.zero_le mag)

/-- The magnitude of the infinities, and the largest finite one. -/
def infMag : Nat := 255 * 2 ^ 23
theorem magValue_infMag : magValue infMag = 2 ^ 128 := by
  have h := magValue_place (place := 254) (k := 2 ^ 23) (by norm_num) (.inr le_rfl)
  norm_num at h
  norm_num [infMag, h]
theorem magValue_maxMag : magValue (infMag - 1) = (2 ^ 24 - 1) * 2 ^ 104 := by
  have h := magValue_place (place := 253) (k := 2 ^ 24 - 1) (by norm_num) (.inr (by norm_num))
  norm_num at h
  norm_num [infMag, h]

/-- An encoding by its sign and its magnitude. -/
theorem f32Number_f32Of {mag : Nat} (neg : Bool) (h : mag < infMag) : f32Number (f32Of neg mag) := by
  rw [infMag] at h
  rw [f32Number, f32Of_exp neg (by omega)]
  omega
theorem not_f32Number_inf (neg : Bool) : ¬ f32Number (f32Of neg infMag) := by
  rw [f32Number, f32Of_exp neg (by decide)]
  decide
theorem f32Value_f32Of {mag : Nat} (neg : Bool) (h : mag < infMag) : (f32Value (f32Of neg mag) : ℝ) = signOf neg * magValue mag := by
  rw [infMag] at h
  have hm : mag < 2 ^ 31 := by omega
  unfold f32Value magValue
  dsimp only
  rw [f32Of_msb neg hm, f32Of_exp neg hm, f32Of_frac neg hm, Rat.cast_mul]
  refine congrArg _ ?_
  by_cases h0 : mag / 2 ^ 23 = 0
  · rw [if_pos h0, if_pos h0, Nat.mod_eq_of_lt (by omega : mag < 2 ^ 23), zpow_neg]
    push_cast
    rfl
  · rw [if_neg h0, if_neg h0, zpow_sub₀ (by norm_num), zpow_natCast, ← mul_div_assoc]
    push_cast
    rfl
theorem exists_f32Of {z : W32} (h : f32Number z) : ∃ neg mag, mag < infMag ∧ z = f32Of neg mag := by
  refine ⟨z.msb, z.toNat % 2 ^ 31, ?_, eq_f32Of z⟩
  rw [f32Number] at h
  rw [infMag]
  omega

end Sys2Proof.Machine
end

section
/-! SUPPORT. A number between two neighbours of a scale: which of them a mode takes, and what rounding at a place leaves (R28, R29). -/

namespace Sys2Proof.Machine

open Sys2Proof Sys2Proof.Safety

/-! Where a number lies between two neighbours, and which of them a mode takes (R28). -/

/-- `x` lies from the `n`-th number of a scale on and below the next one: at it or not, and below, at or above the middle. -/
structure Bracket (scale : Nat → ℝ) (x : ℝ) (n : Nat) (inexact : Bool) (half : Nat) : Prop where
  le : scale n ≤ x
  lt : x < scale (n + 1)
  inexact_iff : inexact = true ↔ x ≠ scale n
  half : half = 0 ∧ 2 * x < scale n + scale (n + 1) ∨ half = 1 ∧ 2 * x = scale n + scale (n + 1)
    ∨ half = 2 ∧ scale n + scale (n + 1) < 2 * x

/-- `n` is the last number of the scale not above `x`. -/
def FromBelow (scale : Nat → ℝ) (x : ℝ) (n : Nat) : Prop := ∀ j, scale j ≤ x ↔ j ≤ n
/-- `n` is the first number of the scale not below `x`. -/
def FromAbove (scale : Nat → ℝ) (x : ℝ) (n : Nat) : Prop := ∀ j, x ≤ scale j ↔ n ≤ j
/-- `n` is nearest to `x`, and `tie` holds of each other number that is as near. -/
def Nearest (scale : Nat → ℝ) (x : ℝ) (n : Nat) (tie : Nat → Prop) : Prop :=
  ∀ j, |x - scale n| ≤ |x - scale j| ∧ (j ≠ n → |x - scale j| = |x - scale n| → tie j)
/-- `n` is what a mode makes of the magnitude `x` of a number with a sign. -/
def RoundsTo (scale : Nat → ℝ) (mode : RMode) (neg : Bool) (x : ℝ) (n : Nat) : Prop :=
  match mode with
  | .rne => Nearest scale x n (fun _ => n % 2 = 0)
  | .rmm => Nearest scale x n (· < n)
  | .rtz => FromBelow scale x n
  | .rdn => if neg then FromAbove scale x n else FromBelow scale x n
  | .rup => if neg then FromBelow scale x n else FromAbove scale x n

section
variable {scale : Nat → ℝ} (hs : StrictMono scale) {x : ℝ} {n : Nat} {inexact : Bool} {half : Nat} (h : Bracket scale x n inexact half)
include hs h

theorem Bracket.fromBelow : FromBelow scale x n := fun _ =>
  ⟨fun hj => Nat.lt_succ_iff.mp (hs.lt_iff_lt.mp (hj.trans_lt h.lt)), fun hj => (hs.monotone hj).trans h.le⟩
theorem Bracket.fromAbove : FromAbove scale x (if inexact then n + 1 else n) := by
  intro j
  cases hi : inexact with
  | false =>
    have hx : x = scale n := by
      by_contra hne
      exact nomatch hi.symm.trans (h.inexact_iff.mpr hne)
    rw [hx, if_neg Bool.false_ne_true, hs.le_iff_le]
  | true =>
    rw [if_pos rfl]
    have hlt : scale n < x := lt_of_le_of_ne h.le (h.inexact_iff.mp hi).symm
    exact ⟨fun hj => hs.lt_iff_lt.mp (hlt.trans_le hj), fun hj => h.lt.le.trans (hs.monotone hj)⟩
/-- The lower neighbour is nearest where `x` is not above the middle. -/
theorem Bracket.nearest_lower {tie : Nat → Prop} (hx : half ≠ 2) (ht : half = 1 → tie (n + 1)) : Nearest scale x n tie := fun j => by
  have hmid : 2 * x ≤ scale n + scale (n + 1) := by
    rcases h.half with ⟨-, hl⟩ | ⟨-, he⟩ | ⟨h2, -⟩
    · exact hl.le
    · exact he.le
    · exact absurd h2 hx
  have hle := h.le
  rw [abs_of_nonneg (by linarith : 0 ≤ x - scale n)]
  rcases lt_trichotomy j n with hj | rfl | hj
  · have hlt := hs hj
    rw [abs_of_nonneg (by linarith : 0 ≤ x - scale j)]
    exact ⟨by linarith, fun _ he => by linarith⟩
  · rw [abs_of_nonneg (by linarith : 0 ≤ x - scale j)]
    exact ⟨le_rfl, fun hj => absurd rfl hj⟩
  · have hge := hs.monotone (Nat.succ_le_of_lt hj)
    have hlt := h.lt
    rw [abs_of_nonpos (by linarith : x - scale j ≤ 0)]
    refine ⟨by linarith, fun _ he => ?_⟩
    have hj1 : j = n + 1 := hs.injective (by linarith)
    rw [hj1]
    refine ht ?_
    rcases h.half with ⟨-, hl⟩ | ⟨h1, -⟩ | ⟨h2, -⟩
    · linarith
    · exact h1
    · exact absurd h2 hx
/-- The upper neighbour is nearest where `x` is not below the middle. -/
theorem Bracket.nearest_upper {tie : Nat → Prop} (hx : half ≠ 0) (ht : half = 1 → tie n) : Nearest scale x (n + 1) tie := fun j => by
  have hmid : scale n + scale (n + 1) ≤ 2 * x := by
    rcases h.half with ⟨h0, -⟩ | ⟨-, he⟩ | ⟨-, hl⟩
    · exact absurd h0 hx
    · exact he.ge
    · exact hl.le
  have hlt := h.lt
  rw [abs_of_nonpos (by linarith : x - scale (n + 1) ≤ 0)]
  rcases lt_trichotomy j (n + 1) with hj | rfl | hj
  · have hge := hs.monotone (Nat.lt_succ_iff.mp hj)
    have hle := h.le
    rw [abs_of_nonneg (by linarith : 0 ≤ x - scale j)]
    refine ⟨by linarith, fun _ he => ?_⟩
    have hj1 : j = n := hs.injective (by linarith)
    rw [hj1]
    refine ht ?_
    rcases h.half with ⟨h0, -⟩ | ⟨h1, -⟩ | ⟨-, hl⟩
    · exact absurd h0 hx
    · exact h1
    · linarith
  · rw [abs_of_nonpos (by linarith : x - scale (n + 1) ≤ 0)]
    exact ⟨le_rfl, fun hj => absurd rfl hj⟩
  · have hgt := hs hj
    rw [abs_of_nonpos (by linarith : x - scale j ≤ 0)]
    exact ⟨by linarith, fun _ he => by linarith⟩

/-- Going up where the mode says so gives what the mode asks for. -/
theorem Bracket.roundsTo (mode : RMode) (neg : Bool) :
    RoundsTo scale mode neg x (if roundsUp mode neg (n % 2 == 1) inexact half then n + 1 else n) := by
  have hhalf : half = 0 ∨ half = 1 ∨ half = 2 := h.half.imp And.left (Or.imp And.left And.left)
  cases mode with
  | rtz => exact h.fromBelow hs
  | rdn =>
    cases neg with
    | false => exact h.fromBelow hs
    | true => exact h.fromAbove hs
  | rup =>
    cases neg with
    | false => exact h.fromAbove hs
    | true => exact h.fromBelow hs
  | rmm =>
    rcases hhalf with rfl | rfl | rfl
    · exact h.nearest_lower hs (by decide) (fun h => nomatch h)
    · exact h.nearest_upper hs (by decide) (fun _ => Nat.lt_succ_self n)
    · exact h.nearest_upper hs (by decide) (fun h => nomatch h)
  | rne =>
    rcases hhalf with rfl | rfl | rfl
    · exact h.nearest_lower hs (by decide) (fun h => nomatch h)
    · rcases Nat.mod_two_eq_zero_or_one n with hn | hn
      · rw [hn]
        exact h.nearest_lower hs (by decide) (fun _ => hn)
      · rw [hn]
        exact h.nearest_upper hs (by decide) (fun _ => (by omega : (n + 1) % 2 = 0))
    · exact h.nearest_upper hs (by decide) (fun h => nomatch h)
end

/-- What a mode takes is `x` itself just where the lower neighbour is. -/
theorem Bracket.inexact_iff_ne {scale : Nat → ℝ} {x : ℝ} {n : Nat} {inexact : Bool} {half : Nat} (h : Bracket scale x n inexact half) (mode : RMode) (neg : Bool) :
    inexact = true ↔ x ≠ scale (if roundsUp mode neg (n % 2 == 1) inexact half then n + 1 else n) := by
  refine h.inexact_iff.trans ?_
  split
  · next hup =>
    refine ⟨fun _ => h.lt.ne, fun _ he => ?_⟩
    have hi : inexact = false := by
      by_contra hi
      exact h.inexact_iff.mp (by simpa using hi) he
    have h0 : half = 0 := by
      have hlt := h.lt
      rcases h.half with ⟨h0, -⟩ | ⟨-, hm⟩ | ⟨-, hm⟩
      · exact h0
      · linarith
      · linarith
    rw [hi, h0] at hup
    cases mode <;> simp [roundsUp] at hup
  · exact Iff.rfl

/-- A bracket between integers is one on a scale that starts there with steps of `u`. -/
theorem Bracket.scaled {scale : Nat → ℝ} {y u : ℝ} {k n : Nat} {inexact : Bool} {half : Nat} (h : Bracket Nat.cast y k inexact half) (hu : 0 < u)
    (h0 : scale n = k * u) (h1 : scale (n + 1) = (k + 1 : ℕ) * u) : Bracket scale (y * u) n inexact half where
  le := h0 ▸ mul_le_mul_of_nonneg_right h.le hu.le
  lt := h1 ▸ mul_lt_mul_of_pos_right h.lt hu
  inexact_iff := by rw [h.inexact_iff, h0, ne_eq, ne_eq, mul_left_inj' hu.ne']
  half := by
    have hm : ∀ a b c : ℝ, a * u + b * u < 2 * (c * u) ↔ a + b < 2 * c := fun a b c => by
      rw [← add_mul, ← mul_assoc, mul_lt_mul_iff_left₀ hu]
    have hm' : ∀ a b c : ℝ, 2 * (c * u) < a * u + b * u ↔ 2 * c < a + b := fun a b c => by
      rw [← add_mul, ← mul_assoc, mul_lt_mul_iff_left₀ hu]
    have hm'' : ∀ a b c : ℝ, 2 * (c * u) = a * u + b * u ↔ 2 * c = a + b := fun a b c => by
      rw [← add_mul, ← mul_assoc, mul_left_inj' hu.ne']
    rw [h0, h1, hm, hm', hm'']
    exact h.half

/-! What roundAt discards (R29). -/

/-- `x` is m x 2^e and, where more follows, something less than a unit of 2^e. -/
structure Approx (x : ℝ) (m : Nat) (e : Int) (sticky : Bool) : Prop where
  le : (m : ℝ) * 2 ^ e ≤ x
  lt : x < ((m + 1 : ℕ) : ℝ) * 2 ^ e
  sticky_iff : sticky = true ↔ x ≠ (m : ℝ) * 2 ^ e

theorem lt_two_pow_bitLen (m : Nat) : m < 2 ^ bitLen m := by
  unfold bitLen
  split
  · next h => simp [h]
  · exact Nat.lt_log2_self
theorem two_pow_le_of_bitLen {m : Nat} (h : m ≠ 0) : 2 ^ (bitLen m - 1) ≤ m := by
  rw [bitLen, if_neg h]
  exact Nat.log2_self_le h

/-- What is left of a number below a place 2^k, from its integer part. -/
theorem bracket_div {t : ℝ} {m k : Nat} (sticky : Bool) (hk : 0 < k) (hle : (m : ℝ) ≤ t) (hlt : t < (m + 1 : ℕ)) (hs : sticky = true ↔ t ≠ m) :
    Bracket Nat.cast (t / 2 ^ k) (m / 2 ^ k) (m % 2 ^ k != 0 || sticky)
      (if m % 2 ^ k < 2 ^ (k - 1) then 0 else if m % 2 ^ k = 2 ^ (k - 1) && !sticky then 1 else 2) := by
  have hpos : (0 : ℝ) < 2 ^ k := by positivity
  have hm : (m : ℝ) = 2 ^ k * (m / 2 ^ k : ℕ) + (m % 2 ^ k : ℕ) := by exact_mod_cast (Nat.div_add_mod m (2 ^ k)).symm
  have hrest : m % 2 ^ k + 1 ≤ 2 ^ k := Nat.mod_lt m (by positivity)
  have htwo : 2 * 2 ^ (k - 1) = 2 ^ k := by rw [← pow_succ', Nat.sub_add_cancel hk]
  have htwoR : (2 : ℝ) * 2 ^ (k - 1) = 2 ^ k := by exact_mod_cast htwo
  have hrestR : ((m % 2 ^ k : ℕ) : ℝ) + 1 ≤ 2 ^ k := by exact_mod_cast hrest
  push_cast at hlt
  generalize m / 2 ^ k = d at *
  generalize m % 2 ^ k = r at *
  have hr0 : (0 : ℝ) ≤ r := Nat.cast_nonneg r
  refine ⟨?_, ?_, ?_, ?_⟩
  · rw [le_div_iff₀ hpos]
    linarith
  · rw [div_lt_iff₀ hpos]
    push_cast
    linarith
  · rw [ne_eq, div_eq_iff hpos.ne', Bool.or_eq_true, bne_iff_ne, hs, ← not_and_or, not_iff_not]
    constructor
    · rintro ⟨rfl, rfl⟩
      rw [hm]
      push_cast
      ring
    · intro he
      have hr : (r : ℝ) = 0 := by linarith
      exact ⟨by exact_mod_cast hr, by linarith⟩
  · have hsum : (d : ℝ) + ((d + 1 : ℕ) : ℝ) = 2 * d + 1 := by
      push_cast
      ring
    rw [hsum, ← mul_div_assoc, div_lt_iff₀ hpos, div_eq_iff hpos.ne', lt_div_iff₀ hpos]
    split
    · next hr =>
      have hrR : (r : ℝ) + 1 ≤ 2 ^ (k - 1) := by exact_mod_cast hr
      exact .inl ⟨rfl, by linarith⟩
    · next hr =>
      have hrR : (2 : ℝ) ^ (k - 1) ≤ r := by exact_mod_cast not_lt.mp hr
      split
      · next he =>
        obtain ⟨her, hst⟩ : r = 2 ^ (k - 1) ∧ sticky = false := by simpa using he
        have ht : t = m := by
          by_contra hne
          exact nomatch hst.symm.trans (hs.mpr hne)
        have hrR : (r : ℝ) = 2 ^ (k - 1) := by exact_mod_cast her
        exact .inr (.inl ⟨rfl, by linarith⟩)
      · next hne =>
        refine .inr (.inr ⟨rfl, ?_⟩)
        by_cases her : r = 2 ^ (k - 1)
        · have hst : sticky = true := by simpa [her] using hne
          have hlt : (m : ℝ) < t := lt_of_le_of_ne hle (hs.mp hst).symm
          linarith
        · have hrR : (2 : ℝ) ^ (k - 1) < r := by exact_mod_cast lt_of_le_of_ne (not_lt.mp hr) (Ne.symm her)
          linarith
/-- Rounding at the place 2^q takes a neighbour of x / 2^q among the integers; more may follow only below that place. -/
theorem roundAt_bracket (mode : RMode) (neg : Bool) {x : ℝ} {m : Nat} {e q : Int} {sticky : Bool} (h : Approx x m e sticky)
    (hq : sticky = true → e < q) : ∃ k half, Bracket Nat.cast (x / 2 ^ q) k (roundAt mode neg m e q sticky).2 half
      ∧ (roundAt mode neg m e q sticky).1
        = if roundsUp mode neg (k % 2 == 1) (roundAt mode neg m e q sticky).2 half then k + 1 else k := by
  have hpos : ∀ i : ℤ, (0 : ℝ) < 2 ^ i := fun i => zpow_pos (by norm_num) i
  obtain ⟨hle, hlt, hs⟩ := h
  unfold roundAt
  split
  · next hqe =>
    obtain rfl : sticky = false := by
      by_contra hst
      have := hq (by simpa using hst)
      omega
    have hx : x = m * 2 ^ e := by
      by_contra hne
      exact nomatch hs.mpr hne
    refine ⟨m * 2 ^ (e - q).toNat, 0, ?_, rfl⟩
    have hy : x / 2 ^ q = ((m * 2 ^ (e - q).toNat : ℕ) : ℝ) := by
      rw [hx, div_eq_iff (hpos q).ne']
      push_cast
      rw [mul_assoc, ← zpow_natCast, ← zpow_add₀ (by norm_num), Int.toNat_of_nonneg (by omega), sub_add_cancel]
    rw [hy]
    refine ⟨le_rfl, by push_cast; linarith, by simp, .inl ⟨rfl, by push_cast; linarith⟩⟩
  · next hqe =>
    have hk : 0 < (q - e).toNat := by omega
    have hy : x / 2 ^ q = x / 2 ^ e / 2 ^ (q - e).toNat := by
      rw [div_div, ← zpow_natCast, ← zpow_add₀ (by norm_num), Int.toNat_of_nonneg (by omega), add_sub_cancel]
    have hb := bracket_div (t := x / 2 ^ e) (m := m) sticky hk ((le_div_iff₀ (hpos e)).mpr hle) ((div_lt_iff₀ (hpos e)).mpr hlt)
      (hs.trans (not_congr (div_eq_iff (hpos e).ne').symm))
    rw [hy]
    dsimp only
    generalize (q - e).toNat = k at *
    split
    · next hlen =>
      have hm := lt_two_pow_bitLen m
      have hm1 : m < 2 ^ (k - 1) := hm.trans_le (Nat.pow_le_pow_right (by decide) (by omega))
      have hm2 : m < 2 ^ k := hm1.trans_le (Nat.pow_le_pow_right (by decide) (by omega))
      rw [Nat.div_eq_of_lt hm2, Nat.mod_eq_of_lt hm2, if_pos hm1] at hb
      exact ⟨0, 0, hb, rfl⟩
    · exact ⟨_, _, hb, rfl⟩

end Sys2Proof.Machine
end

section
/-! SUPPORT. Rounded results meet what IEEE 754 asks of each mode (R28, R29), and the operations round their exact results. -/

namespace Sys2Proof.Machine

open Sys2Proof Sys2Proof.Safety

/-! The encoding that a rounded magnitude gives (R29). -/

/-- The encoding of a rounded magnitude, past the largest finite one what the mode takes there. -/
def packMag (mode : RMode) (neg : Bool) (mag : Nat) : W32 :=
  f32Of neg (if mag < infMag then mag else if overflowsToInf mode neg then infMag else infMag - 1)

theorem packMag_of_lt (mode : RMode) (neg : Bool) {mag : Nat} (h : mag < infMag) : packMag mode neg mag = f32Of neg mag := by
  rw [packMag, if_pos h]
theorem packMag_of_le {mode : RMode} {neg : Bool} {mag : Nat} (h : infMag ≤ mag) :
    packMag mode neg mag = f32Of neg (if overflowsToInf mode neg then infMag else infMag - 1) := by
  rw [packMag, if_neg (not_lt.mpr h)]
theorem packMag_msb (mode : RMode) (neg : Bool) (mag : Nat) : (packMag mode neg mag).msb = neg := by
  rw [packMag, f32Of_msb]
  unfold infMag
  repeat' split
  all_goals omega
theorem f32Of_infMag (neg : Bool) : f32Of neg infMag = if neg then ninf32 else inf32 := by cases neg <;> decide
theorem f32Of_getLsbD_zero {mag : Nat} (neg : Bool) (h : mag < 2 ^ 31) (h0 : mag % 2 = 0) : (f32Of neg mag).getLsbD 0 = false := by
  rw [← BitVec.testBit_toNat, Nat.testBit_zero, f32Of_toNat neg h]
  split <;> simp <;> omega

/-- Units of the last kept place, packed. -/
theorem packF32_eq (mode : RMode) (neg : Bool) {k : Nat} {q : Int} (inexact tiny : Bool) (hk : k ≤ 2 ^ 24) (hq : -149 ≤ q)
    (hn : q = -149 ∨ 2 ^ 23 ≤ k) :
    packF32 mode neg k q inexact tiny = (packMag mode neg ((q + 149).toNat * 2 ^ 23 + k),
      if (q + 149).toNat * 2 ^ 23 + k < infMag then (if inexact then flagNX else 0) ||| (if tiny && inexact then flagUF else 0)
      else flagOF ||| flagNX) := by
  unfold packF32
  dsimp only
  generalize hn : (if k = 2 ^ 24 then 2 ^ 23 else k) = n
  generalize hq' : (if k = 2 ^ 24 then q + 1 else q) = q'
  generalize hf : (if n < 2 ^ 23 then (0 : Int) else q' + 23 + 127) = field
  have hsub : k < 2 ^ 23 ∧ n = k ∧ field = 0 ∨ 2 ^ 23 ≤ k ∧ k < 2 ^ 24 ∧ n = k ∧ field = q + 150 ∨ k = 2 ^ 24 ∧ n = 2 ^ 23 ∧ field = q + 151 := by
    split at hn <;> split at hf <;> omega
  have hfield : (q + 149).toNat * 2 ^ 23 + k < infMag ↔ field < 255 := by
    unfold infMag
    omega
  by_cases hlt : field < 255
  · rw [if_neg (not_le.mpr hlt), if_pos (hfield.mpr hlt), packMag_of_lt mode neg (hfield.mpr hlt),
      (by omega : field.toNat * 2 ^ 23 + n % 2 ^ 23 = (q + 149).toNat * 2 ^ 23 + k)]
  · rw [if_pos (not_lt.mp hlt), if_neg (mt hfield.mp hlt), packMag_of_le (not_lt.mp (mt hfield.mp hlt))]
    rfl

/-! A mode's choice among the magnitudes is the mode's rounding (R28). -/

theorem abs_signOf_mul (neg : Bool) (x : ℝ) : |(signOf neg : ℝ) * x| = |x| := by
  cases neg <;> simp [signOf]
theorem signOf_mul_self (neg : Bool) (x : ℝ) : (signOf neg : ℝ) * (signOf neg * x) = x := by
  cases neg <;> simp [signOf]
theorem signOf_mul_neg_iff (neg : Bool) {x : ℝ} (h : 0 < x) : (signOf neg : ℝ) * x < 0 ↔ neg = true := by
  cases neg
  · simp [signOf, h.le]
  · simp [signOf, h]

/-- Another number is as near as a magnitude of the sign sought is, or is further. -/
theorem exists_mag_nearer (neg : Bool) {x : ℝ} (hx : 0 < x) {z : W32} (hz : f32Number z) :
    ∃ j < infMag, |x - magValue j| ≤ |signOf neg * x - f32Value z|
      ∧ (|signOf neg * x - f32Value z| = |x - magValue j| → (f32Value z : ℝ) = signOf neg * magValue j) := by
  obtain ⟨neg', mag, hlt, rfl⟩ := exists_f32Of hz
  rw [f32Value_f32Of neg' hlt]
  by_cases hs : neg' = neg
  · subst hs
    refine ⟨mag, hlt, ?_, fun _ => rfl⟩
    rw [← mul_sub, abs_signOf_mul]
  · obtain rfl : neg' = !neg := by cases neg <;> cases neg' <;> simp_all
    have h0 := magValue_nonneg mag
    have hd : |(signOf neg : ℝ) * x - signOf (!neg) * magValue mag| = x + magValue mag := by
      rw [signOf_not, Rat.cast_neg, neg_mul, sub_neg_eq_add, ← mul_add, abs_signOf_mul, abs_of_pos (by linarith)]
    refine ⟨0, by decide, ?_, fun h => ?_⟩
    · rw [hd, magValue_zero, sub_zero, abs_of_pos hx]
      linarith
    · rw [hd, magValue_zero, sub_zero, abs_of_pos hx] at h
      rw [(by linarith : magValue mag = 0), magValue_zero, mul_zero, mul_zero]

/-- The middle between the largest number and the next magnitude. -/
theorem two_mul_overflow : (2 : ℝ) * ((2 ^ 25 - 1) * 2 ^ 103) = magValue (infMag - 1) + magValue infMag := by
  rw [magValue_maxMag, magValue_infMag]
  norm_num

/-- The nearest magnitude is a number just where `x` is below that middle, if the largest number gives way in a tie. -/
theorem Nearest.lt_infMag_iff {x : ℝ} {n : Nat} {tie : Nat → Prop} (h : Nearest magValue x n tie) (ht : n = infMag - 1 → ¬ tie infMag) :
    n < infMag ↔ x < (2 ^ 25 - 1) * 2 ^ 103 := by
  have hmid := two_mul_overflow
  have hlt : magValue (infMag - 1) < magValue infMag := magValue_strictMono (by decide)
  constructor
  · intro hn
    by_contra hx
    obtain ⟨hd, htie⟩ := h infMag
    have hle : magValue n ≤ magValue (infMag - 1) := magValue_strictMono.monotone (by omega)
    rw [abs_of_nonneg (by linarith : 0 ≤ x - magValue n)] at hd htie
    rcases le_total (magValue infMag) x with hge | hge
    · rw [abs_of_nonneg (by linarith : 0 ≤ x - magValue infMag)] at hd
      linarith
    · rw [abs_of_nonpos (by linarith : x - magValue infMag ≤ 0)] at hd htie
      have hn' : n = infMag - 1 := magValue_strictMono.injective (by linarith)
      exact ht hn' (htie (by omega) (by linarith))
  · intro hx
    by_contra hn
    have hd := (h (infMag - 1)).1
    have hle : magValue infMag ≤ magValue n := magValue_strictMono.monotone (by omega)
    rw [abs_of_nonpos (by linarith : x - magValue n ≤ 0)] at hd
    rcases le_total (magValue (infMag - 1)) x with hge | hge
    · rw [abs_of_nonneg (by linarith : 0 ≤ x - magValue (infMag - 1))] at hd
      linarith
    · rw [abs_of_nonpos (by linarith : x - magValue (infMag - 1) ≤ 0)] at hd
      linarith

/-- A nearest magnitude gives a nearest number. -/
theorem Nearest.nearest_number {x : ℝ} {n : Nat} {tie : Nat → Prop} (h : Nearest magValue x n tie) (hx : 0 < x) (neg : Bool) (hn : n < infMag)
    {z : W32} (hz : f32Number z) :
    |signOf neg * x - f32Value (f32Of neg n)| ≤ |signOf neg * x - f32Value z|
      ∧ ((f32Value z : ℝ) ≠ f32Value (f32Of neg n) → |signOf neg * x - f32Value z| = |signOf neg * x - f32Value (f32Of neg n)| →
        ∃ j < infMag, (f32Value z : ℝ) = f32Value (f32Of neg j) ∧ tie j) := by
  have hy : |(signOf neg : ℝ) * x - f32Value (f32Of neg n)| = |x - magValue n| := by
    rw [f32Value_f32Of neg hn, ← mul_sub, abs_signOf_mul]
  obtain ⟨j, hj, hle, heq⟩ := exists_mag_nearer neg hx hz
  obtain ⟨hd, htie⟩ := h j
  rw [hy]
  refine ⟨hd.trans hle, fun hne he => ?_⟩
  have hj' : |x - magValue j| = |x - magValue n| := le_antisymm (hle.trans he.le) hd
  have hv := heq (he.trans hj'.symm)
  rw [← f32Value_f32Of neg hj] at hv
  exact ⟨j, hj, hv, htie (fun hjn => hne (hjn ▸ hv)) hj'⟩

section
variable {x : ℝ} {n : Nat} (neg : Bool)

/-- Rounded to nearest, the largest number is passed at the middle (R29). -/
theorem Nearest.rounded {tie : Nat → Prop} (h : Nearest magValue x n tie) (hx : 0 < x) (hn : n = infMag - 1 → ¬ tie infMag)
    {mode : RMode} (hinf : ∀ neg, overflowsToInf mode neg = true) {tieOf : W32 → Prop}
    (ht : n < infMag → ∀ z j, j < infMag → (f32Value z : ℝ) = f32Value (f32Of neg j) → tie j → tieOf z) :
    if |(signOf neg : ℝ) * x| < (2 ^ 25 - 1) * 2 ^ 103 then
      f32Number (packMag mode neg n) ∧ ∀ z, f32Number z → |signOf neg * x - f32Value (packMag mode neg n)| ≤ |signOf neg * x - f32Value z|
        ∧ ((f32Value z : ℝ) ≠ f32Value (packMag mode neg n) →
          |signOf neg * x - f32Value z| = |signOf neg * x - f32Value (packMag mode neg n)| → tieOf z)
    else packMag mode neg n = if (signOf neg : ℝ) * x < 0 then ninf32 else inf32 := by
  rw [abs_signOf_mul, abs_of_pos hx]
  split
  · next hlt =>
    replace hlt := (h.lt_infMag_iff hn).mpr hlt
    rw [packMag_of_lt mode neg hlt]
    refine ⟨f32Number_f32Of neg hlt, fun z hz => ?_⟩
    obtain ⟨hle, htie⟩ := h.nearest_number hx neg hlt hz
    refine ⟨hle, fun hne he => ?_⟩
    obtain ⟨j, hj, hv, hj'⟩ := htie hne he
    exact ht hlt z j hj hv hj'
  · next hge =>
    replace hge := mt (h.lt_infMag_iff hn).mp hge
    simp only [packMag_of_le (not_lt.mp hge), hinf, if_true, f32Of_infMag, signOf_mul_neg_iff neg hx]

/-- The magnitude that is taken where no infinity is: the last one not above `x`. -/
theorem FromBelow.exists_packMag {mode : RMode} (h : FromBelow magValue x n) (hmode : overflowsToInf mode neg = false) :
    ∃ j < infMag, packMag mode neg n = f32Of neg j ∧ magValue j ≤ x ∧ ∀ i < infMag, magValue i ≤ x → magValue i ≤ magValue j := by
  by_cases hn : n < infMag
  · exact ⟨n, hn, packMag_of_lt mode neg hn, (h n).mpr le_rfl, fun i _ hi => magValue_strictMono.monotone ((h i).mp hi)⟩
  · refine ⟨infMag - 1, by decide, ?_, (h _).mpr (by omega), fun i hi _ => magValue_strictMono.monotone (by omega)⟩
    rw [packMag_of_le (not_lt.mp hn), hmode, if_neg Bool.false_ne_true]
/-- Where an infinity is taken the first magnitude not below `x` is. -/
theorem FromAbove.lt_infMag_iff (h : FromAbove magValue x n) : n < infMag ↔ x ≤ (2 ^ 24 - 1) * 2 ^ 104 := by
  rw [← magValue_maxMag, h, infMag]
  omega
end

/-- A number is a magnitude or its opposite. -/
theorem exists_magValue {z : W32} (hz : f32Number z) : ∃ j < infMag, |(f32Value z : ℝ)| = magValue j
    ∧ ((f32Value z : ℝ) = magValue j ∨ (f32Value z : ℝ) = -magValue j) := by
  obtain ⟨neg, mag, hlt, rfl⟩ := exists_f32Of hz
  rw [f32Value_f32Of neg hlt, abs_signOf_mul, abs_of_nonneg (magValue_nonneg mag)]
  refine ⟨mag, hlt, rfl, ?_⟩
  cases neg <;> simp [signOf]
theorem f32Value_pos {mag : Nat} (h : mag < infMag) : (f32Value (f32Of false mag) : ℝ) = magValue mag := by
  rw [f32Value_f32Of false h]
  simp [signOf]
theorem f32Value_neg {mag : Nat} (h : mag < infMag) : (f32Value (f32Of true mag) : ℝ) = -magValue mag := by
  rw [f32Value_f32Of true h]
  simp [signOf]

section
variable {x : ℝ} {n : Nat}

/-- Towards zero (R28). -/
theorem FromBelow.rounded_rtz (h : FromBelow magValue x n) (hx : 0 < x) (neg : Bool) : Rounded .rtz (signOf neg * x) (packMag .rtz neg n) := by
  obtain ⟨j, hj, hy, hle, hmax⟩ := h.exists_packMag neg (mode := .rtz) rfl
  refine ⟨by rw [packMag_msb, signOf_mul_neg_iff neg hx], ?_⟩
  dsimp only
  rw [hy, f32Value_f32Of neg hj, abs_signOf_mul, abs_signOf_mul, abs_of_pos hx, abs_of_nonneg (magValue_nonneg j)]
  refine ⟨f32Number_f32Of neg hj, hle, fun z hz hz' => ?_⟩
  obtain ⟨i, hi, habs, -⟩ := exists_magValue hz
  rw [habs] at hz' ⊢
  exact hmax i hi hz'
/-- Down from a positive number, and up from a negative one: towards zero. -/
theorem FromBelow.rounded_rdn (h : FromBelow magValue x n) (hx : 0 < x) : Rounded .rdn x (packMag .rdn false n) := by
  obtain ⟨j, hj, hy, hle, hmax⟩ := h.exists_packMag false (mode := .rdn) rfl
  refine ⟨by simp [packMag_msb, hx.le], ?_⟩
  dsimp only
  rw [if_pos (by norm_num; linarith), hy, f32Value_pos hj]
  refine ⟨f32Number_f32Of false hj, hle, fun z hz hz' => ?_⟩
  obtain ⟨i, hi, -, hv | hv⟩ := exists_magValue hz
  · rw [hv] at hz' ⊢
    exact hmax i hi hz'
  · linarith [magValue_nonneg i, magValue_nonneg j]
theorem FromBelow.rounded_rup (h : FromBelow magValue x n) (hx : 0 < x) : Rounded .rup (-x) (packMag .rup true n) := by
  obtain ⟨j, hj, hy, hle, hmax⟩ := h.exists_packMag true (mode := .rup) rfl
  refine ⟨by simp [packMag_msb, hx], ?_⟩
  dsimp only
  rw [if_pos (by norm_num; linarith), hy, f32Value_neg hj]
  refine ⟨f32Number_f32Of true hj, neg_le_neg hle, fun z hz hz' => ?_⟩
  obtain ⟨i, hi, -, hv | hv⟩ := exists_magValue hz
  · linarith [magValue_nonneg i, magValue_nonneg j]
  · rw [hv] at hz' ⊢
    exact neg_le_neg (hmax i hi (neg_le_neg_iff.mp hz'))
/-- Up from a positive number, and down from a negative one: away from zero, to an infinity past the largest number. -/
theorem FromAbove.rounded_rup (h : FromAbove magValue x n) (hx : 0 < x) : Rounded .rup x (packMag .rup false n) := by
  refine ⟨by simp [packMag_msb, hx.le], ?_⟩
  dsimp only
  split
  · next hle =>
    have hn := h.lt_infMag_iff.mpr hle
    rw [packMag_of_lt _ _ hn, f32Value_pos hn]
    refine ⟨f32Number_f32Of false hn, (h n).mpr le_rfl, fun z hz hz' => ?_⟩
    obtain ⟨i, hi, -, hv | hv⟩ := exists_magValue hz
    · rw [hv] at hz' ⊢
      exact magValue_strictMono.monotone ((h i).mp hz')
    · linarith [magValue_nonneg i]
  · next hgt =>
    rw [packMag_of_le (not_lt.mp (mt h.lt_infMag_iff.mp hgt))]
    exact f32Of_infMag false
theorem FromAbove.rounded_rdn (h : FromAbove magValue x n) (hx : 0 < x) : Rounded .rdn (-x) (packMag .rdn true n) := by
  refine ⟨by simp [packMag_msb, hx], ?_⟩
  dsimp only
  split
  · next hle =>
    have hn := h.lt_infMag_iff.mpr (neg_le_neg_iff.mp hle)
    rw [packMag_of_lt _ _ hn, f32Value_neg hn]
    refine ⟨f32Number_f32Of true hn, neg_le_neg ((h n).mpr le_rfl), fun z hz hz' => ?_⟩
    obtain ⟨i, hi, -, hv | hv⟩ := exists_magValue hz
    · linarith [magValue_nonneg i]
    · rw [hv] at hz' ⊢
      exact neg_le_neg (magValue_strictMono.monotone ((h i).mp (neg_le_neg_iff.mp hz')))
  · next hgt =>
    rw [packMag_of_le (not_lt.mp (mt h.lt_infMag_iff.mp (mt neg_le_neg hgt)))]
    exact f32Of_infMag true

/-- What a mode takes among the magnitudes is what the mode asks for (R28, R29). -/
theorem RoundsTo.rounded {mode : RMode} {neg : Bool} (h : RoundsTo magValue mode neg x n) (hx : 0 < x) :
    Rounded mode (signOf neg * x) (packMag mode neg n) := by
  have hsign : (packMag mode neg n).msb = true ↔ (signOf neg : ℝ) * x < 0 := by rw [packMag_msb, signOf_mul_neg_iff neg hx]
  have hpos : (signOf false : ℝ) * x = x := by simp [signOf]
  have hneg : (signOf true : ℝ) * x = -x := by simp [signOf]
  cases mode with
  | rtz => exact h.rounded_rtz hx neg
  | rdn =>
    cases neg with
    | false => exact hpos.symm ▸ FromBelow.rounded_rdn h hx
    | true => exact hneg.symm ▸ FromAbove.rounded_rdn h hx
  | rup =>
    cases neg with
    | false => exact hpos.symm ▸ FromAbove.rounded_rup h hx
    | true => exact hneg.symm ▸ FromBelow.rounded_rup h hx
  | rne =>
    refine ⟨hsign, Nearest.rounded neg h hx (fun hn => ?_) (fun _ => rfl) (fun hn z j hj hv heven => ?_)⟩
    · rw [hn]
      decide
    · rw [packMag_of_lt _ _ hn]
      exact f32Of_getLsbD_zero neg (hn.trans (by decide)) heven
  | rmm =>
    refine ⟨hsign, Nearest.rounded neg h hx (fun hn => ?_) (fun _ => rfl) (fun hn z j hj hv hlt => ?_)⟩
    · rw [hn]
      decide
    · dsimp only
      rw [packMag_of_lt _ _ hn, hv, f32Value_f32Of neg hj, f32Value_f32Of neg hn, abs_signOf_mul, abs_signOf_mul,
        abs_of_nonneg (magValue_nonneg j), abs_of_nonneg (magValue_nonneg n)]
      exact magValue_strictMono hlt

/-- Past the magnitudes of numbers where the largest of them is taken, `x` is past them too. -/
theorem RoundsTo.infMag_le {mode : RMode} {neg : Bool} (h : RoundsTo magValue mode neg x n) (hmode : overflowsToInf mode neg = false)
    (hn : infMag ≤ n) : magValue infMag ≤ x := by
  have hbelow : FromBelow magValue x n → magValue infMag ≤ x := fun h => (h infMag).mpr hn
  cases mode with
  | rne | rmm => exact Bool.noConfusion hmode
  | rtz => exact hbelow h
  | rdn =>
    obtain rfl : neg = false := hmode
    exact hbelow h
  | rup =>
    obtain rfl : neg = true := by simpa [overflowsToInf] using hmode
    exact hbelow h
end

end Sys2Proof.Machine
end

section
/-! SUPPORT. Each operation of R29 rounds its exact result once. -/

namespace Sys2Proof.Machine

open Sys2Proof Sys2Proof.Safety

/-- The nonzero number `x` rounded once, with the flags that say so (R29). -/
def Once (mode : RMode) (x : ℝ) (r : W32 × FFlags) : Prop :=
  Rounded mode x r.1 ∧ (flagNX &&& r.2 ≠ 0 ↔ ¬ f32Number r.1 ∨ (f32Value r.1 : ℝ) ≠ x) ∧ (¬ f32Number r.1 → r.2 = flagOF ||| flagNX)

/-- The place of the last bit kept of a number with its leading bit, and how many units of it the number has. -/
theorem lastPlace_bounds {m : Nat} {e : Int} {sticky : Bool} {x : ℝ} (h : Approx x m e sticky) (hm : m ≠ 0) :
    -149 ≤ lastPlace m e ∧ x / 2 ^ lastPlace m e < 2 ^ 24 ∧ (lastPlace m e = -149 ∨ 2 ^ 23 ≤ x / 2 ^ lastPlace m e) := by
  have hpos : ∀ i : ℤ, (0 : ℝ) < 2 ^ i := fun i => zpow_pos (by norm_num) i
  have hbit : (0 : Int) < bitLen m := by
    rw [bitLen, if_neg hm]
    omega
  have hlt : x < 2 ^ ((bitLen m : Int) + e) := by
    rw [zpow_add₀ (by norm_num), zpow_natCast]
    refine h.lt.trans_le (mul_le_mul_of_nonneg_right ?_ (hpos e).le)
    exact_mod_cast lt_two_pow_bitLen m
  have hle : (2 : ℝ) ^ ((bitLen m : Int) - 1 + e) ≤ x := by
    rw [zpow_add₀ (by norm_num), ← Nat.cast_pred (by omega), zpow_natCast]
    refine le_trans (mul_le_mul_of_nonneg_right ?_ (hpos e).le) h.le
    exact_mod_cast two_pow_le_of_bitLen hm
  have hup : ∀ q : ℤ, (bitLen m : Int) - 1 + e - 23 ≤ q → x / 2 ^ q < 2 ^ 24 := fun q hq => by
    rw [div_lt_iff₀ (hpos q), ← zpow_natCast, ← zpow_add₀ (by norm_num)]
    exact hlt.trans_le (zpow_le_zpow_right₀ (by norm_num) (by push_cast; omega))
  unfold lastPlace
  split
  · next hq => exact ⟨le_rfl, hup _ hq.le, .inl rfl⟩
  · next hq =>
    refine ⟨not_lt.mp hq, hup _ le_rfl, .inr ?_⟩
    rw [le_div_iff₀ (hpos _), ← zpow_natCast, ← zpow_add₀ (by norm_num)]
    refine le_of_eq_of_le (congrArg _ ?_) hle
    push_cast
    ring

/-- Rounding takes the magnitude that the mode asks for (R29). -/
theorem round32_roundsTo (mode : RMode) (neg : Bool) {x : ℝ} {m : Nat} {e : Int} {sticky : Bool} (h : Approx x m e sticky) (hm : m ≠ 0)
    (hs : sticky = true → e < lastPlace m e) :
    ∃ mag inexact tiny, RoundsTo magValue mode neg x mag ∧ (inexact = true ↔ x ≠ magValue mag)
      ∧ round32 mode neg m e sticky = (packMag mode neg mag,
        if mag < infMag then (if inexact then flagNX else 0) ||| (if tiny && inexact then flagUF else 0) else flagOF ||| flagNX) := by
  obtain ⟨hq, hlt, hge⟩ := lastPlace_bounds h hm
  obtain ⟨k, half, hb, hr⟩ := roundAt_bracket mode neg h hs
  rw [round32_eq mode neg e sticky (.inl hm)]
  generalize lastPlace m e = q at *
  generalize (roundAt mode neg m e q sticky).2 = inexact at *
  obtain ⟨p, rfl⟩ : ∃ p : ℕ, q = p - 149 := ⟨(q + 149).toNat, by omega⟩
  have hu : (0 : ℝ) < 2 ^ ((p : ℤ) - 149) := zpow_pos (by norm_num) _
  have hk : k < 2 ^ 24 := by exact_mod_cast hb.le.trans_lt hlt
  have hk' : p = 0 ∨ 2 ^ 23 ≤ k := by
    refine hge.imp (by omega) fun hge => ?_
    have : (2 : ℝ) ^ 23 < (k + 1 : ℕ) := hge.trans_lt hb.lt
    exact Nat.lt_succ_iff.mp (by exact_mod_cast this)
  have hb' := hb.scaled (scale := magValue) (n := p * 2 ^ 23 + k) hu (magValue_place hk.le hk')
    (by rw [Nat.add_assoc]; exact magValue_place (by omega) (by omega))
  rw [div_mul_cancel₀ _ hu.ne'] at hb'
  have hpar : (p * 2 ^ 23 + k) % 2 = k % 2 := by omega
  have hto := hb'.roundsTo magValue_strictMono mode neg
  have hex := hb'.inexact_iff_ne mode neg
  rw [hpar] at hto hex
  have hmag : p * 2 ^ 23 + (roundAt mode neg m e (p - 149) sticky).1
      = if roundsUp mode neg (k % 2 == 1) inexact half then p * 2 ^ 23 + k + 1 else p * 2 ^ 23 + k := by
    rw [hr, Nat.add_assoc, ← apply_ite (p * 2 ^ 23 + ·)]
  rw [← hmag] at hto hex
  refine ⟨_, inexact, isTiny mode neg m e sticky, hto, hex, ?_⟩
  have hr' : (roundAt mode neg m e (p - 149) sticky).1 = k + 1 ∨ (roundAt mode neg m e (p - 149) sticky).1 = k := by
    rw [hr]
    split
    · exact .inl rfl
    · exact .inr rfl
  rw [packF32_eq mode neg inexact _ (by omega) hq (by omega), sub_add_cancel, Int.toNat_natCast]

theorem flagNX_of_flags (inexact tiny : Bool) :
    flagNX &&& ((if inexact then flagNX else 0) ||| (if tiny && inexact then flagUF else 0)) ≠ 0 ↔ inexact = true := by
  cases inexact <;> cases tiny <;> decide

/-- The function that rounds does so once: the sign, the number and the flags. -/
theorem round32_once (mode : RMode) (neg : Bool) {x : ℝ} {m : Nat} {e : Int} {sticky : Bool} (h : Approx x m e sticky) (hm : m ≠ 0)
    (hs : sticky = true → e < lastPlace m e) : Once mode (signOf neg * x) (round32 mode neg m e sticky) := by
  obtain ⟨mag, inexact, tiny, hto, hex, hr⟩ := round32_roundsTo mode neg h hm hs
  have hx : 0 < x := lt_of_lt_of_le (mul_pos (by exact_mod_cast Nat.pos_of_ne_zero hm) (zpow_pos (by norm_num) e)) h.le
  have hval : ∀ {mag}, mag < infMag → ((f32Value (f32Of neg mag) : ℝ) ≠ signOf neg * x ↔ x ≠ magValue mag) := fun hlt => by
    rw [f32Value_f32Of neg hlt, not_iff_not]
    refine ⟨fun he => ?_, fun he => by rw [he]⟩
    rw [← signOf_mul_self neg x, ← he, signOf_mul_self]
  rw [hr]
  refine ⟨hto.rounded hx, ?_⟩
  by_cases hlt : mag < infMag
  · have hnum := f32Number_f32Of neg hlt
    rw [packMag_of_lt mode neg hlt, if_pos hlt]
    refine ⟨(flagNX_of_flags inexact tiny).trans (hex.trans ((hval hlt).symm.trans ⟨.inr, fun h => h.resolve_left (not_not_intro hnum)⟩)),
      fun h => absurd hnum h⟩
  · simp only [if_neg hlt, packMag_of_le (not_lt.mp hlt)]
    refine ⟨iff_of_true (by decide) ?_, fun _ => trivial⟩
    cases hov : overflowsToInf mode neg with
    | true => exact .inl (not_f32Number_inf neg)
    | false =>
      refine .inr ((hval (by decide)).mpr (ne_of_gt ?_))
      exact (magValue_strictMono (by decide)).trans_le (hto.infMag_le hov (not_lt.mp hlt))

/-! Exact results and what is cut off of quotients and roots. -/

theorem approx_exact (m : Nat) (e : Int) : Approx (m * 2 ^ e) m e false where
  le := le_rfl
  lt := mul_lt_mul_of_pos_right (by exact_mod_cast Nat.lt_succ_self m) (zpow_pos (by norm_num) e)
  sticky_iff := by simp
/-- A quotient of integers, cut off. -/
theorem approx_div (w : Nat) {n : Nat} (e : Int) (hn : 0 < n) : Approx (w / n * 2 ^ e) (w / n) e (w % n != 0) where
  le := mul_le_mul_of_nonneg_right Nat.cast_div_le (zpow_pos (by norm_num) e).le
  lt := by
    refine mul_lt_mul_of_pos_right ?_ (zpow_pos (by norm_num) e)
    rw [div_lt_iff₀ (by exact_mod_cast hn)]
    rw [mul_comm]
    exact_mod_cast Nat.lt_mul_div_succ w hn
  sticky_iff := by
    have hw : (w : ℝ) = n * (w / n : ℕ) + (w % n : ℕ) := by exact_mod_cast (Nat.div_add_mod w n).symm
    have hn' : (n : ℝ) ≠ 0 := by exact_mod_cast hn.ne'
    rw [ne_eq, mul_left_inj' (zpow_ne_zero e (by norm_num)), div_eq_iff hn', bne_iff_ne, not_iff_not, ← Nat.cast_eq_zero (R := ℝ)]
    constructor <;> intro h <;> linarith
/-- A square root of an integer, cut off. -/
theorem approx_sqrt (w : Nat) (e : Int) : Approx (√w * 2 ^ e) (Nat.sqrt w) e (Nat.sqrt w * Nat.sqrt w != w) where
  le := mul_le_mul_of_nonneg_right Real.nat_sqrt_le_real_sqrt (zpow_pos (by norm_num) e).le
  lt := by
    refine mul_lt_mul_of_pos_right ?_ (zpow_pos (by norm_num) e)
    exact_mod_cast Real.real_sqrt_lt_nat_sqrt_succ
  sticky_iff := by
    rw [ne_eq, mul_left_inj' (zpow_ne_zero e (by norm_num)), Real.sqrt_eq_iff_mul_self_eq (by positivity) (by positivity), bne_iff_ne,
      not_iff_not]
    exact_mod_cast eq_comm

/-- The root that the model builds bit by bit. -/
theorem isqrtFrom_eq_sqrt {n : Nat} (i r : Nat) (hle : r * r ≤ n) (hlt : n < (r + 2 ^ (i + 1)) * (r + 2 ^ (i + 1))) :
    isqrtFrom n i r = Nat.sqrt n := by
  induction i generalizing r with
  | zero =>
    rw [isqrtFrom]
    split
    · next h => exact Nat.eq_sqrt.mpr ⟨h, hlt⟩
    · next h => exact Nat.eq_sqrt.mpr ⟨hle, not_le.mp h⟩
  | succ i ih =>
    rw [isqrtFrom]
    split
    · next h =>
      refine ih _ h ?_
      rwa [Nat.add_assoc, ← Nat.two_mul, ← Nat.pow_succ']
    · next h => exact ih _ hle (not_le.mp h)
theorem isqrt_eq_sqrt (n : Nat) : isqrt n = Nat.sqrt n := by
  refine isqrtFrom_eq_sqrt _ 0 (Nat.zero_le n) ?_
  rw [Nat.zero_add, ← Nat.pow_add]
  exact (lt_two_pow_bitLen n).trans_le (Nat.pow_le_pow_right (by decide) (by omega))

/-- With 25 bits or more the last place kept lies above what was cut off. -/
theorem lt_lastPlace {m : Nat} (e : Int) (h : 2 ^ 24 ≤ m) : e < lastPlace m e := by
  have hb : 24 < bitLen m := (Nat.pow_lt_pow_iff_right (a := 2) (by decide)).mp (h.trans_lt (lt_two_pow_bitLen m))
  unfold lastPlace
  split <;> omega

/-! The operations. -/

theorem round32_ofParts_once (mode : RMode) (neg : Bool) {m : Nat} (e : Int) (hm : m ≠ 0) :
    Once mode ((Dy.ofParts neg m e).val : ℝ) (round32 mode neg m e false) := by
  have h := round32_once mode neg (approx_exact m e) hm (fun h => nomatch h)
  rw [Dy.val_ofParts]
  push_cast
  exact h
theorem dyRound32_once (mode : RMode) (d : Dy) (zneg : Bool) (h : (d.val : ℝ) ≠ 0) : Once mode (d.val : ℝ) (d.round32 mode zneg) := by
  have hn : d.n ≠ 0 := fun hn => h (by exact_mod_cast (Dy.val_eq_zero_iff d).mpr hn)
  have hd : Dy.ofParts (decide (d.n < 0)) d.n.natAbs d.e = d := by
    obtain ⟨n, e⟩ := d
    simp only [Dy.ofParts, Dy.mk.injEq, and_true, decide_eq_true_eq]
    split <;> omega
  have hr := round32_ofParts_once mode (decide (d.n < 0)) d.e (Int.natAbs_ne_zero.mpr hn)
  rw [hd] at hr
  rwa [Dy.round32, if_neg hn]

theorem addVal_once (mode : RMode) (a b : Bool) (m n : Nat) (e k : Int) {x : ℝ}
    (hx : x = ((Dy.ofParts a m e).val + (Dy.ofParts b n k).val : ℚ)) (h0 : x ≠ 0) : Once mode x (addVal mode (.fin a m e) (.fin b n k)) := by
  rw [← Dy.val_add] at hx
  subst hx
  exact dyRound32_once mode _ _ h0

/-- Products and quotients of numbers, by their parts. -/
theorem Dy.val_ofParts_mul (a b : Bool) (m n : Nat) (e k : Int) :
    (Dy.ofParts a m e).val * (Dy.ofParts b n k).val = (Dy.ofParts (a != b) (m * n) (e + k)).val := by
  rw [Dy.val_ofParts, Dy.val_ofParts, Dy.val_ofParts, signOf_bne, zpow_add₀ (by norm_num)]
  push_cast
  ring
theorem Dy.val_ofParts_div (a b : Bool) (m n : Nat) (e k : Int) :
    (Dy.ofParts a m e).val / (Dy.ofParts b n k).val = signOf (a != b) * ((m * 2 ^ 64 : ℕ) / n * 2 ^ (e - k - 64)) := by
  have hs : signOf a / signOf b = signOf (a != b) := by cases a <;> cases b <;> simp [signOf]
  rw [Dy.val_ofParts, Dy.val_ofParts, ← hs, zpow_sub₀ (by norm_num), zpow_sub₀ (by norm_num)]
  push_cast
  ring
theorem mulVal_fin (mode : RMode) (a b : Bool) (m n : Nat) (e k : Int) : mulVal mode (.fin a m e) (.fin b n k) =
    if m * n = 0 then (if a != b then 0x80000000#32 else 0, 0) else round32 mode (a != b) (m * n) (e + k) false := rfl
theorem fmaVal_fin (mode : RMode) (a b : Bool) (m n : Nat) (e k : Int) (z : FVal) :
    fmaVal mode (.fin a m e) (.fin b n k) z = addVal mode (.fin (a != b) (m * n) (e + k)) z := rfl
theorem divVal_fin (mode : RMode) (a b : Bool) (m n : Nat) (e k : Int) : divVal mode (.fin a m e) (.fin b n k) =
    if n = 0 then (if m = 0 then (nan32, flagNV) else (if a != b then ninf32 else inf32, flagDZ))
    else if m = 0 then (if a != b then 0x80000000#32 else 0, 0)
    else round32 mode (a != b) (m * 2 ^ 64 / n) (e - k - 64) (m * 2 ^ 64 % n != 0) := rfl

section
variable (mode : RMode) {a b c : W32} (ha : f32Number a) (hb : f32Number b)
include ha hb

theorem faddBits_once (hx : (f32Value a + f32Value b : ℝ) ≠ 0) : Once mode (f32Value a + f32Value b : ℝ) (faddBits mode a b) := by
  obtain ⟨m, e, hu, -, hv, -⟩ := unpack32_number ha
  obtain ⟨n, k, hu', -, hv', -⟩ := unpack32_number hb
  rw [faddBits, hu, hu']
  exact addVal_once mode _ _ _ _ _ _ (by rw [hv, hv']; push_cast; rfl) hx
theorem fsubBits_once (hx : (f32Value a - f32Value b : ℝ) ≠ 0) : Once mode (f32Value a - f32Value b : ℝ) (fsubBits mode a b) := by
  obtain ⟨m, e, hu, -, hv, -⟩ := unpack32_number ha
  obtain ⟨n, k, hu', -, hv', -⟩ := unpack32_number hb
  rw [fsubBits, hu, hu', FVal.neg]
  refine addVal_once mode _ _ _ _ _ _ ?_ hx
  rw [hv, hv', Dy.val_ofParts (!b.msb), signOf_not, neg_mul, ← Dy.val_ofParts, ← sub_eq_add_neg]
  push_cast
  rfl
theorem fmulBits_once (hx : (f32Value a * f32Value b : ℝ) ≠ 0) : Once mode (f32Value a * f32Value b : ℝ) (fmulBits mode a b) := by
  obtain ⟨m, e, hu, -, hv, -⟩ := unpack32_number ha
  obtain ⟨n, k, hu', -, hv', -⟩ := unpack32_number hb
  have hp : (f32Value a * f32Value b : ℝ) = ((Dy.ofParts (a.msb != b.msb) (m * n) (e + k)).val : ℚ) := by
    rw [← Dy.val_ofParts_mul, hv, hv']
    push_cast
    rfl
  rw [hp] at hx ⊢
  have hmn : m * n ≠ 0 := fun h => hx (by rw [Dy.val_ofParts, h]; simp)
  rw [fmulBits, hu, hu', mulVal_fin, if_neg hmn]
  exact round32_ofParts_once mode _ _ hmn
theorem ffmaBits_once (hc : f32Number c) (hx : (f32Value a * f32Value b + f32Value c : ℝ) ≠ 0) :
    Once mode (f32Value a * f32Value b + f32Value c : ℝ) (ffmaBits mode a b c) := by
  obtain ⟨m, e, hu, -, hv, -⟩ := unpack32_number ha
  obtain ⟨n, k, hu', -, hv', -⟩ := unpack32_number hb
  obtain ⟨p, l, hu'', -, hv'', -⟩ := unpack32_number hc
  rw [ffmaBits, hu, hu', hu'', fmaVal_fin]
  refine addVal_once mode _ _ _ _ _ _ ?_ hx
  rw [← Dy.val_ofParts_mul, hv, hv', hv'']
  push_cast
  rfl
theorem fdivBits_once (hb0 : (f32Value b : ℝ) ≠ 0) (hx : (f32Value a / f32Value b : ℝ) ≠ 0) :
    Once mode (f32Value a / f32Value b : ℝ) (fdivBits mode a b) := by
  obtain ⟨m, e, hu, -, hv, -⟩ := unpack32_number ha
  obtain ⟨n, k, hu', hlt, hv', -⟩ := unpack32_number hb
  have hm : m ≠ 0 := fun h => hx (by rw [hv, Dy.val_ofParts, h]; simp)
  have hn : n ≠ 0 := fun h => hb0 (by rw [hv', Dy.val_ofParts, h]; simp)
  rw [fdivBits, hu, hu', divVal_fin, if_neg hn, if_neg hm]
  have hw : 2 ^ 24 ≤ m * 2 ^ 64 / n := by
    rw [Nat.le_div_iff_mul_le (Nat.pos_of_ne_zero hn)]
    have := Nat.mul_le_mul_right (2 ^ 64) (Nat.pos_of_ne_zero hm)
    omega
  have hq : (f32Value a / f32Value b : ℝ) = signOf (a.msb != b.msb) * ((m * 2 ^ 64 : ℕ) / n * 2 ^ (e - k - 64)) := by
    rw [hv, hv', ← Rat.cast_div, Dy.val_ofParts_div]
    push_cast
    rfl
  rw [hq]
  exact round32_once mode _ (approx_div _ _ (Nat.pos_of_ne_zero hn)) (by omega) (fun _ => lt_lastPlace _ hw)
end

/-- The root of an integer of 64 bits or more with an even exponent. -/
theorem round32_sqrt_once (mode : RMode) {w : Nat} (j : Int) (hw : 2 ^ 64 ≤ w) :
    Once mode √((w : ℝ) * 2 ^ (2 * j)) (round32 mode false (isqrt w) j (isqrt w * isqrt w != w)) := by
  have hr : 2 ^ 24 ≤ Nat.sqrt w := Nat.le_sqrt.mpr (le_trans (by norm_num) hw)
  have h := round32_once mode false (approx_sqrt w j) (by omega) (fun _ => lt_lastPlace j hr)
  have hx : √((w : ℝ) * 2 ^ (2 * j)) = signOf false * (√w * 2 ^ j) := by
    rw [two_mul, zpow_add₀ (by norm_num), Real.sqrt_mul (by positivity), Real.sqrt_mul_self (by positivity)]
    simp [signOf]
  rwa [isqrt_eq_sqrt, hx]
theorem sqrtVal_fin (mode : RMode) {m : Nat} (e : Int) (hm : m ≠ 0) : sqrtVal mode (.fin false m e) =
    round32 mode false (isqrt ((if e % 2 != 0 then m * 2 else m) * 2 ^ 64)) (((if e % 2 != 0 then e - 1 else e) - 64) / 2)
      (isqrt ((if e % 2 != 0 then m * 2 else m) * 2 ^ 64) * isqrt ((if e % 2 != 0 then m * 2 else m) * 2 ^ 64)
        != (if e % 2 != 0 then m * 2 else m) * 2 ^ 64) := by
  rw [sqrtVal, if_neg hm]
  rfl
theorem sqrtVal_once (mode : RMode) {m : Nat} (e : Int) (hm : m ≠ 0) : Once mode √((m : ℝ) * 2 ^ e) (sqrtVal mode (.fin false m e)) := by
  have hpos : ∀ w : Nat, w ≠ 0 → 2 ^ 64 ≤ w * 2 ^ 64 := fun w hw => Nat.le_mul_of_pos_left _ (Nat.pos_of_ne_zero hw)
  rw [sqrtVal_fin mode e hm]
  rcases (by omega : e % 2 = 0 ∧ e = 2 * (e / 2 - 32) + 64 ∨ e % 2 = 1 ∧ e = 2 * (e / 2 - 32) + 65) with ⟨he, hj⟩ | ⟨he, hj⟩
  · have h := round32_sqrt_once mode (e / 2 - 32) (hpos m hm)
    have hx : ((m * 2 ^ 64 : ℕ) : ℝ) * 2 ^ (2 * (e / 2 - 32)) = m * 2 ^ e := by
      conv_rhs => rw [hj, zpow_add₀ (by norm_num)]
      push_cast
      ring
    rw [hx] at h
    simpa only [he, bne_self_eq_false, Bool.false_eq_true, if_false, (by omega : (e - 64) / 2 = e / 2 - 32)] using h
  · have h := round32_sqrt_once mode (e / 2 - 32) (hpos (m * 2) (by omega))
    have hx : ((m * 2 * 2 ^ 64 : ℕ) : ℝ) * 2 ^ (2 * (e / 2 - 32)) = m * 2 ^ e := by
      conv_rhs => rw [hj, zpow_add₀ (by norm_num)]
      push_cast
      ring
    rw [hx] at h
    simpa only [he, (by decide : ((1 : Int) != 0) = true), if_true, (by omega : (e - 1 - 64) / 2 = e / 2 - 32)] using h
theorem fsqrtBits_once (mode : RMode) {a : W32} (ha : f32Number a) (hpos : 0 ≤ (f32Value a : ℝ)) (hx : √(f32Value a : ℝ) ≠ 0) :
    Once mode √(f32Value a : ℝ) (fsqrtBits mode a) := by
  obtain ⟨m, e, hu, -, hv, -⟩ := unpack32_number ha
  have hm : m ≠ 0 := fun h => hx (by rw [hv, Dy.val_ofParts, h]; simp)
  have hv' : (f32Value a : ℝ) = signOf a.msb * (m * 2 ^ e) := by
    rw [hv, Dy.val_ofParts]
    push_cast
    rfl
  have hs : a.msb = false := by
    by_contra hs
    rw [hv'] at hpos
    exact hpos.not_gt ((signOf_mul_neg_iff a.msb (by positivity)).mpr (by simpa using hs))
  rw [fsqrtBits, hu, hs, hv', hs]
  simpa [signOf] using sqrtVal_once mode e hm

/-! Exact zeros (R27). -/

/-- The parts of a number that is 0, and of no other. -/
theorem ofParts_eq_zero_iff (neg : Bool) (m : Nat) (e : Int) : (((Dy.ofParts neg m e).val : ℚ) : ℝ) = 0 ↔ m = 0 := by
  rw [Rat.cast_eq_zero, Dy.val_eq_zero_iff]
  cases neg <;> simp [Dy.ofParts]
theorem faddBits_zero (mode : RMode) {a b : W32} (ha : f32Number a) (hb : f32Number b) (h : (f32Value a + f32Value b : ℝ) = 0) :
    faddBits mode a b = (if (f32Value a : ℝ) = 0 ∧ a.msb = b.msb then a else if mode = .rdn then 0x80000000 else 0, 0) := by
  obtain ⟨m, e, hu, -, hv, hz⟩ := unpack32_number ha
  obtain ⟨n, k, hu', -, hv', -⟩ := unpack32_number hb
  have hsum : ((Dy.ofParts a.msb m e).add (Dy.ofParts b.msb n k)).n = 0 := by
    rw [← Dy.val_eq_zero_iff, Dy.val_add, ← hv, ← hv']
    exact_mod_cast h
  have hma : (f32Value a : ℝ) = 0 ↔ m = 0 := by rw [hv, ofParts_eq_zero_iff]
  have hmn : m = 0 → n = 0 := fun hm => by
    rw [hma.mpr hm, zero_add, hv', ofParts_eq_zero_iff] at h
    exact h
  have hr : faddBits mode a b = (if zeroSumNeg mode (m == 0 && n == 0) a.msb b.msb then 0x80000000 else 0, 0) := by
    rw [faddBits, hu, hu', addVal, Dy.round32, if_pos hsum]
    rfl
  rw [hr]
  by_cases hm : m = 0
  · by_cases hs : a.msb = b.msb
    · have ha0 : a = if zeroSumNeg mode (m == 0 && n == 0) a.msb b.msb then 0x80000000 else 0 := by
        refine (hz hm).trans ?_
        simp [zeroSumNeg, hm, hmn hm, hs]
      rw [← ha0, ite_cond_eq_true _ _ (eq_true ⟨hma.mpr hm, hs⟩)]
    · simp [zeroSumNeg, hs]
  · simp [zeroSumNeg, hm, mt hma.mp hm]
theorem fmulBits_zero (mode : RMode) {a b : W32} (ha : f32Number a) (hb : f32Number b) (h : (f32Value a * f32Value b : ℝ) = 0) :
    fmulBits mode a b = (if a.msb = b.msb then 0 else 0x80000000, 0) := by
  obtain ⟨m, e, hu, -, hv, -⟩ := unpack32_number ha
  obtain ⟨n, k, hu', -, hv', -⟩ := unpack32_number hb
  have hmn : m * n = 0 := by
    rw [Nat.mul_eq_zero]
    exact (mul_eq_zero.mp h).imp (fun h => (ofParts_eq_zero_iff _ m e).mp (hv ▸ h)) (fun h => (ofParts_eq_zero_iff _ n k).mp (hv' ▸ h))
  rw [fmulBits, hu, hu', mulVal_fin, if_pos hmn]
  cases a.msb <;> cases b.msb <;> rfl

/-- Settles O60: each function rounds its exact result at the last place kept, where the magnitudes around it are its neighbours. -/
theorem roundedOnce : Obligations.RoundedOnce := by
  unfold Obligations.RoundedOnce
  intro mode a b c ha hb hc
  exact ⟨faddBits_once mode ha hb, fsubBits_once mode ha hb, fmulBits_once mode ha hb, fdivBits_once mode ha hb, fsqrtBits_once mode ha,
    ffmaBits_once mode ha hb hc, faddBits_zero mode ha hb, fmulBits_zero mode ha hb⟩

end Sys2Proof.Machine
end

section
/-! SUPPORT. The MAT instructions are accepted (R119), and the elements of the operands of the matrix engine (R115, R116, R121). -/

namespace Sys2Proof.Machine

open Sys2Proof Sys2Proof.Safety

/-! Acceptance (R119, R366). -/

theorem matIssue_of_room {s : State} {rings : List Nat} {push : Bool} (hq : s.myCore.matQ.length < 3) (ht : s.myCore.slotTest rings push = true)
    (i : Instr) (go : State → State) : s.matIssue i rings push go = .next (go s) := by
  have hf : s.myCore.matFull = false := decide_eq_false (by omega)
  rw [State.matIssue, hf, ht]
  rfl
theorem slotTest_nil (k : Core) (push : Bool) : k.slotTest [] push = true := rfl
theorem slotTest_one (k : Core) (n : Nat) (push : Bool) : k.slotTest [n] push = decide (0 < if push then k.slotsFree n else k.slotsFull n) := by
  simp [Core.slotTest]

section
variable {s : State} (hq : s.myCore.matQ.length < 3)
include hq

theorem execMzero_of_room (d : TileCode) : execMzero d s = .next (s.matAccept .mzero d.toNat 0 0 false false).advance :=
  matIssue_of_room hq (slotTest_nil _ _) _ _
theorem execMld_of_room {a : Reg} (hx : 1 ≤ s.myCore.slotsFull (ringId (s.reg a))) (d : TileCode) :
    execMld d a s = .next (s.matAccept .mld d.toNat (ringId (s.reg a)) (ringId (s.reg a)) false false).advance := by
  unfold execMld
  exact matIssue_of_room hq ((slotTest_one _ _ false).trans (decide_eq_true hx)) _ _
theorem execMst_of_room {a : Reg} (hx : 1 ≤ s.myCore.slotsFree (ringId (s.reg a))) (d : TileCode) :
    execMst d a s = .next (s.matAccept .mst d.toNat (ringId (s.reg a)) (ringId (s.reg a)) false false).advance := by
  unfold execMst
  exact matIssue_of_room hq ((slotTest_one _ _ true).trans (decide_eq_true hx)) _ _
end

section
variable {s : State} (hr : s.me.state = .ready) (hq : s.myCore.matQ.length < 3)
include hr hq

/-- With slots to read an MMA goes on, in checksum mode it waits for its check. -/
theorem execMma_of_room {a b : Reg} (ht : s.myCore.slotTest (ringPair (ringId (s.reg a)) (ringId (s.reg b))) false = true)
    (d : TileCode) (ka kb : Bool) : execMma d a b ka kb s = .next
      (if (s.me.csr 0x035).getLsbD 0 then s.matCheck d.toNat (ringId (s.reg a)) (ringId (s.reg b)) ka kb (.mma d a b ka kb)
      else (s.matAccept .mma d.toNat (ringId (s.reg a)) (ringId (s.reg b)) ka kb).advance) := by
  unfold execMma
  rw [hr]
  exact matIssue_of_room hq ht _ _
theorem execMchk_of_room {a b : Reg} (ht : s.myCore.slotTest (ringPair (ringId (s.reg a)) (ringId (s.reg b))) false = true)
    (d : TileCode) (ka kb : Bool) :
    execMchk d a b ka kb s = .next (s.matCheck d.toNat (ringId (s.reg a)) (ringId (s.reg b)) ka kb (.mchk d a b ka kb)) := by
  unfold execMchk
  rw [hr]
  exact matIssue_of_room hq ht _ _

/-- The first part of O30. -/
theorem matAccepted (d : TileCode) (a b : Reg) (ka kb : Bool) :
    let x := ringId (s.reg a); let y := ringId (s.reg b)
    (s.myCore.slotTest (ringPair x y) false = true →
      ((s.me.csr 0x035).getLsbD 0 = false → ∃ t, exec (.mma d a b ka kb) s = .next t
        ∧ WentOn (s.matAccept .mma d.toNat x y ka kb) t)
      ∧ ((s.me.csr 0x035).getLsbD 0 = true → ∃ t, exec (.mma d a b ka kb) s = .next t
        ∧ Waits (s.matAccept .mchk d.toNat x y ka kb) t (.check s.myCore.matId) (.mma d a b ka kb))
      ∧ (∃ t, exec (.mchk d a b ka kb) s = .next t
        ∧ Waits (s.matAccept .mchk d.toNat x y ka kb) t (.check s.myCore.matId) (.mchk d a b ka kb)))
    ∧ (∃ t, exec (.mzero d) s = .next t ∧ WentOn (s.matAccept .mzero d.toNat 0 0 false false) t)
    ∧ (1 ≤ s.myCore.slotsFull x → ∃ t, exec (.mld d a) s = .next t ∧ WentOn (s.matAccept .mld d.toNat x x false false) t)
    ∧ (1 ≤ s.myCore.slotsFree x → ∃ t, exec (.mst d a) s = .next t ∧ WentOn (s.matAccept .mst d.toNat x x false false) t)
    ∧ (s.myCore.tileBusy s.cur.slot d.toNat = false → ∃ t, exec (.mwait d) s = .next t ∧ WentOn s t)
    ∧ (s.myCore.tileBusy s.cur.slot d.toNat = true → ∃ t, exec (.mwait d) s = .next t
        ∧ Waits s t (.tile d.toNat) (.mwait d)) := by
  intro x y
  have hmwait : exec (.mwait d) s = .next (if s.myCore.tileBusy s.cur.slot d.toNat then s.wait (.tile d.toNat) (.mwait d) else s.advance) := rfl
  refine ⟨fun ht => ⟨fun hm => ?_, fun hm => ?_, ?_⟩, ?_, fun hx => ?_, fun hx => ?_, fun hb => ?_, fun hb => ?_⟩
  · refine ⟨_, (execMma_of_room hr hq ht d ka kb).trans ?_, State.advance_wrote _⟩
    rw [hm]
    rfl
  · refine ⟨_, (execMma_of_room hr hq ht d ka kb).trans ?_, rfl⟩
    rw [hm]
    rfl
  · exact ⟨_, execMchk_of_room hr hq ht d ka kb, rfl⟩
  · exact ⟨_, execMzero_of_room hq d, State.advance_wrote _⟩
  · exact ⟨_, execMld_of_room hq hx d, State.advance_wrote _⟩
  · exact ⟨_, execMst_of_room hq hx d, State.advance_wrote _⟩
  · rw [hmwait, hb]
    exact ⟨_, rfl, State.advance_wrote s⟩
  · rw [hmwait, hb]
    exact ⟨_, rfl, rfl⟩
end

/-! Elements of the plain formats (R115). -/

theorem getD_map_range {α : Type} (f : Nat → α) (d : α) {i n : Nat} (h : i < n) : ((List.range n).map f).getD i d = f i := by
  simp [h]
theorem getD_map_lanes {α : Type} (f : Nat → α) (d : α) {i : Nat} (h : i < 16) : (lanes.map f).getD i d = f i := getD_map_range f d h
theorem getD_replicate_none {α : Type} (n i : Nat) : (List.replicate n (none : Option α)).getD i none = none := by
  rw [List.getD_eq_getElem?_getD, List.getElem?_replicate]
  split <;> rfl
theorem leRange_one (g : Nat → Byte) : (List.range 1).foldr (fun j acc => acc * 256 + (g j).toNat) 0 = (g 0).toNat := by
  change 0 * 256 + (g 0).toNat = _
  rw [Nat.zero_mul, Nat.zero_add]
theorem leRange_two (g : Nat → Byte) :
    (List.range 2).foldr (fun j acc => acc * 256 + (g j).toNat) 0 = (g 0).toNat + 256 * (g 1).toNat := by
  change (0 * 256 + (g 1).toNat) * 256 + (g 0).toNat = _
  omega
theorem fmtWide_iff (fmt : Nat) : fmtWide fmt = true ↔ fmt = 1 ∨ fmt = 2 := by simp [fmtWide]

section
variable (k : Core) (r : Ring) (slot : Nat)

/-- An element of an operand in a plain format. -/
theorem operand_plain {fmt i e : Nat} (hf : fmt ≠ 7) (hi : i < 16) (he : e < if fmtWide fmt then 192 else 384) :
    ((k.operand r slot fmt).getD i []).getD e none = k.plainElem r slot fmt i e := by
  rw [Core.operand, if_neg hf]
  dsimp only
  rw [getD_map_lanes _ _ hi, getD_map_range _ _ he]
theorem plainElem_bad {fmt row e : Nat}
    (h : k.slotBad r slot (384 * row + (if fmtWide fmt then 2 else 1) * e) (if fmtWide fmt then 2 else 1) = true) :
    k.plainElem r slot fmt row e = none := by
  rw [Core.plainElem]
  exact if_pos h
theorem plainElem_wide {fmt row e : Nat} (hf : fmt = 1 ∨ fmt = 2) (h : k.slotBad r slot (384 * row + 2 * e) 2 = false) :
    k.plainElem r slot fmt row e = some ((if fmt = 1 then Fmt.bf16 else Fmt.f16).unpack
      ((k.slotByte r slot (384 * row + 2 * e)).toNat + 256 * (k.slotByte r slot (384 * row + 2 * e + 1)).toNat)) := by
  rw [Core.plainElem, (fmtWide_iff fmt).mpr hf, if_pos rfl, h, if_neg Bool.false_ne_true]
  dsimp only
  rw [leRange_two (fun j => k.slotByte r slot (384 * row + 2 * e + j))]
  rcases hf with rfl | rfl <;> rfl
theorem plainElem_byte {fmt row e : Nat} (hf : fmt = 3 ∨ fmt = 4 ∨ fmt = 5) (h : k.slotBad r slot (384 * row + e) 1 = false) :
    let b := (k.slotByte r slot (384 * row + e)).toNat
    k.plainElem r slot fmt row e = some (if fmt = 3 then unpackF8A b else if fmt = 4 then unpackF8B b
      else let x : Int := if b < 128 then (b : Int) else (b : Int) - 256; .fin (x < 0) x.natAbs 0) := by
  intro b
  have hw : fmtWide fmt = false := by
    rcases hf with rfl | rfl | rfl <;> rfl
  have hx : (BitVec.ofNat 8 b).toInt = if b < 128 then (b : Int) else (b : Int) - 256 := by
    have hlt : b < 256 := (k.slotByte r slot (384 * row + e)).isLt
    rw [BitVec.toInt_eq_toNat_cond, BitVec.toNat_ofNat, Nat.mod_eq_of_lt hlt]
    split <;> split <;> omega
  rw [Core.plainElem, hw, if_neg Bool.false_ne_true, Nat.one_mul, h, if_neg Bool.false_ne_true]
  dsimp only
  rw [leRange_one (fun j => k.slotByte r slot (384 * row + e + j))]
  rcases hf with rfl | rfl | rfl
  · rfl
  · rfl
  · rw [← hx]
    rfl

/-! Elements of E8C (R116). -/

theorem e8cElems_length (signs mants : List Byte) (f8b : Bool) (table base n e : Nat) (l : List Bool) :
    (e8cElems signs mants f8b table base n e l).length = n := by
  induction n generalizing e l with
  | zero => rfl
  | succ n ih =>
    rw [e8cElems]
    dsimp only
    split
    · exact List.length_replicate
    · rw [List.length_cons, ih]
theorem e8cDecode_length (bs : List Byte) : (e8cDecode bs).1.length = 64 := by
  unfold e8cDecode
  dsimp only
  split
  · exact List.length_replicate
  · exact e8cElems_length ..

/-- The stored length of the block at an offset, and its elements. -/
def Core.e8cLen (o : Nat) : Nat := (if (k.slotByte r slot o).toNat / 128 = 1 then 26 else 34) + (k.slotByte r slot (o + 1)).toNat
def Core.e8cBlock (o : Nat) : List (Option FVal) :=
  if k.slotBad r slot o (k.e8cLen r slot o) then List.replicate 64 none
  else
    let d := e8cDecode (k.mem.read (r.slotOff slot + o) (k.e8cLen r slot o))
    d.1.map (fun x => x.map (fun b => if d.2 then unpackF8B b.toNat else unpackF8A b.toNat))

theorem e8cBlock_length (o : Nat) : (k.e8cBlock r slot o).length = 64 := by
  unfold Core.e8cBlock
  split
  · exact List.length_replicate
  · exact List.length_map .. |>.trans (e8cDecode_length _)
/-- The walk over the blocks, a block at a time. -/
theorem e8cBlocks_succ (n o : Nat) : k.e8cBlocks r slot (n + 1) o =
    if r.slotBytes < o + k.e8cLen r slot o then List.replicate (64 * (n + 1)) none
    else k.e8cBlock r slot o ++ k.e8cBlocks r slot n (o + k.e8cLen r slot o) := by
  have hlen : e8cLength ((List.range 2).map (fun j => k.slotByte r slot (o + j))) = k.e8cLen r slot o := by
    have hmsb : (k.slotByte r slot o).getLsbD 7 = decide ((k.slotByte r slot o).toNat / 128 = 1) := by
      have := (k.slotByte r slot o).isLt
      rw [← BitVec.testBit_toNat, Nat.testBit_eq_decide_div_mod_eq]
      congr 1
      simp only [eq_iff_iff]
      omega
    have hhead : (List.range 2).map (fun j => k.slotByte r slot (o + j)) = [k.slotByte r slot o, k.slotByte r slot (o + 1)] := rfl
    rw [hhead, e8cLength, Core.e8cLen, List.getD_cons_zero, hmsb]
    by_cases h : (k.slotByte r slot o).toNat / 128 = 1 <;> simp [h, e8cMant]
  have hread : ∀ n, k.mem.read (r.slotOff slot + o) n = (List.range n).map (fun j => k.slotByte r slot (o + j)) := fun n => by
    simp only [Mem.read, Core.slotByte, Nat.add_assoc]
  rw [Core.e8cBlocks]
  dsimp only
  rw [hlen, Core.e8cBlock, hread]
  by_cases h : r.slotBytes < o + k.e8cLen r slot o
  · rw [if_pos h, ite_self]
  · have h2 : ¬ r.slotBytes < o + 2 := by
      have : 26 ≤ k.e8cLen r slot o := by
        unfold Core.e8cLen
        split <;> omega
      omega
    rw [if_neg h2, if_neg h]
/-- The elements of a block of the walk, where the blocks up to it lie in the slot, and where one does not. -/
theorem e8cBlocks_getD {at_ : Nat → Nat} (hat : ∀ m, m < 96 → at_ (m + 1) = at_ m + k.e8cLen r slot (at_ m)) {x : Nat} (hx : x < 64) (j : Nat) :
    ∀ n m, j < n → m + j < 96 →
      ((∀ i, i ≤ j → at_ (m + i) + k.e8cLen r slot (at_ (m + i)) ≤ r.slotBytes) →
        (k.e8cBlocks r slot n (at_ m)).getD (64 * j + x) none = (k.e8cBlock r slot (at_ (m + j))).getD x none)
      ∧ ((∃ i, i ≤ j ∧ r.slotBytes < at_ (m + i) + k.e8cLen r slot (at_ (m + i))) →
        (k.e8cBlocks r slot n (at_ m)).getD (64 * j + x) none = none) := by
  induction j with
  | zero =>
    intro n m hn hm
    obtain ⟨n, rfl⟩ : ∃ p, n = p + 1 := ⟨n - 1, by omega⟩
    rw [e8cBlocks_succ, Nat.mul_zero, Nat.zero_add]
    constructor
    · intro h
      rw [if_neg (show ¬ r.slotBytes < at_ m + k.e8cLen r slot (at_ m) from not_lt.mpr (h 0 le_rfl)), List.getD_append _ _ _ _ (by rw [e8cBlock_length]; exact hx)]
      rfl
    · rintro ⟨i, hi, h⟩
      obtain rfl : i = 0 := by omega
      rw [if_pos (show r.slotBytes < at_ m + k.e8cLen r slot (at_ m) from h), getD_replicate_none]
  | succ j ih =>
    intro n m hn hm
    obtain ⟨n, rfl⟩ : ∃ p, n = p + 1 := ⟨n - 1, by omega⟩
    obtain ⟨hin, hout⟩ := ih n (m + 1) (by omega) (by omega)
    have hnext : ∀ i, m + 1 + i = m + (i + 1) := fun i => by omega
    simp only [hnext] at hin hout
    by_cases h0 : r.slotBytes < at_ m + k.e8cLen r slot (at_ m)
    · rw [e8cBlocks_succ, if_pos h0, getD_replicate_none]
      exact ⟨fun h => absurd (h 0 (Nat.zero_le _)) (not_le.mpr h0), fun _ => rfl⟩
    · have hgo : (k.e8cBlocks r slot (n + 1) (at_ m)).getD (64 * (j + 1) + x) none = (k.e8cBlocks r slot n (at_ (m + 1))).getD (64 * j + x) none := by
        rw [e8cBlocks_succ, if_neg h0, List.getD_append_right _ _ _ _ (by rw [e8cBlock_length]; omega), e8cBlock_length, ← hat m (by omega)]
        congr 1
        omega
      rw [hgo]
      refine ⟨fun h => hin fun i hi => h (i + 1) (by omega), ?_⟩
      rintro ⟨i, hi, h⟩
      cases i with
      | zero => exact absurd h h0
      | succ i => exact hout ⟨i, by omega, h⟩
/-- An element of an operand in E8C. -/
theorem operand_e8c {i e : Nat} (hi : i < 16) (he : e < 384) :
    ((k.operand r slot 7).getD i []).getD e none = (k.e8cBlocks r slot 96 0).getD (64 * (6 * i + e / 64) + e % 64) none := by
  rw [Core.operand, if_pos rfl]
  dsimp only
  rw [getD_map_lanes _ _ hi, List.getD_eq_getElem?_getD, List.getElem?_take_of_lt he, List.getElem?_drop, List.getD_eq_getElem?_getD]
  congr 2
  omega
theorem e8cBlock_good {o x : Nat} (h : k.slotBad r slot o (k.e8cLen r slot o) = false) :
    let d := e8cDecode (k.mem.read (r.slotOff slot + o) (k.e8cLen r slot o))
    (k.e8cBlock r slot o).getD x none = (d.1.getD x none).map (fun b => if d.2 then unpackF8B b.toNat else unpackF8A b.toNat) := by
  intro d
  rw [Core.e8cBlock, h, if_neg Bool.false_ne_true]
  simp only [List.getD_eq_getElem?_getD, List.getElem?_map]
  cases d.1[x]? <;> rfl
theorem e8cBlock_bad {o : Nat} (x : Nat) (h : k.slotBad r slot o (k.e8cLen r slot o) = true) : (k.e8cBlock r slot o).getD x none = none := by
  rw [Core.e8cBlock, if_pos h, getD_replicate_none]
end

/-- The fourth part of O30. -/
theorem operandElements (k : Core) (r : Ring) (slot fmt i e : Nat) (hi : i < 16) :
    let el := ((k.operand r slot fmt).getD i []).getD e none
    let at' := localOff r.base + slot * r.slotBytes
    let byte := fun o => (k.mem.byte (at' + o)).toNat
    let wide := fmt = 1 ∨ fmt = 2;
    (wide → e < 192 → k.slotBad r slot (384 * i + 2 * e) 2 = false →
      el = some ((if fmt = 1 then Fmt.bf16 else Fmt.f16).unpack (byte (384 * i + 2 * e) + 256 * byte (384 * i + 2 * e + 1))))
    ∧ (fmt = 3 ∨ fmt = 4 ∨ fmt = 5 → e < 384 → k.slotBad r slot (384 * i + e) 1 = false →
      let b := byte (384 * i + e)
      el = some (if fmt = 3 then unpackF8A b else if fmt = 4 then unpackF8B b
        else let x : Int := if b < 128 then (b : Int) else (b : Int) - 256; .fin (x < 0) x.natAbs 0))
    ∧ (fmt ≠ 7 → e < (if wide then 192 else 384) →
      k.slotBad r slot (384 * i + (if wide then 2 else 1) * e) (if wide then 2 else 1) = true → el = none)
    ∧ (∀ at_ : Nat → Nat, fmt = 7 → e < 384 → at_ 0 = 0 →
      let len := fun o => (if byte o / 128 = 1 then 26 else 34) + byte (o + 1)
      let n := 6 * i + e / 64
      (∀ m, m < 96 → at_ (m + 1) = at_ m + len (at_ m)) →
      ((∀ m, m ≤ n → at_ m + len (at_ m) ≤ r.slotBytes) →
        (k.slotBad r slot (at_ n) (len (at_ n)) = false →
          let d := e8cDecode (k.mem.read (at' + at_ n) (len (at_ n)))
          el = (d.1.getD (e % 64) none).map (fun b => if d.2 then unpackF8B b.toNat else unpackF8A b.toNat))
        ∧ (k.slotBad r slot (at_ n) (len (at_ n)) = true → el = none))
      ∧ ((∃ m, m ≤ n ∧ r.slotBytes < at_ m + len (at_ m)) → el = none)) := by
  intro el at' byte wide
  refine ⟨fun hw he hb => ?_, fun hf he hb => ?_, fun hf he hb => ?_, ?_⟩
  · have hw' := (fmtWide_iff fmt).mpr hw
    exact (operand_plain k r slot (by omega) hi (by rw [hw']; exact he)).trans (plainElem_wide k r slot hw hb)
  · have hw' : ¬ fmtWide fmt = true := fun h => by
      have := (fmtWide_iff fmt).mp h
      omega
    exact (operand_plain k r slot (by omega) hi (by rw [if_neg hw']; exact he)).trans (plainElem_byte k r slot hf hb)
  · have hif : ∀ a b : Nat, (if wide then a else b) = if fmtWide fmt = true then a else b := fun a b =>
      if_congr (fmtWide_iff fmt).symm rfl rfl
    rw [hif] at he
    rw [hif] at hb
    exact (operand_plain k r slot hf hi he).trans (plainElem_bad k r slot hb)
  · intro at_ hf he h0 len n hat
    subst hf
    have hel : el = (k.e8cBlocks r slot 96 (at_ 0)).getD (64 * n + e % 64) none := by
      rw [h0]
      exact operand_e8c k r slot hi he
    obtain ⟨hin, hout⟩ := e8cBlocks_getD k r slot hat (Nat.mod_lt e (by decide)) n 96 0 (by omega) (by omega)
    simp only [Nat.zero_add] at hin hout
    rw [hel]
    exact ⟨fun h => ⟨fun hb => (hin h).trans (e8cBlock_good k r slot hb), fun hb => (hin h).trans (e8cBlock_bad k r slot _ hb)⟩, hout⟩

end Sys2Proof.Machine
end

section
/-! SUPPORT. The arithmetic of an element that the matrix engine makes (R34, R35, R36). -/

namespace Sys2Proof.Machine

open Sys2Proof Sys2Proof.Safety

/-! Integers (R36). -/

theorem ofParts_natAbs (x : Int) : (Dy.ofParts (decide (x < 0)) x.natAbs 0).n = x := by
  simp only [Dy.ofParts, decide_eq_true_eq]
  split <;> omega
/-- An I8 element is the exact sum of products, wrapped. -/
theorem mmaInt_eq (acc : W32) (l : List (Int × Int)) :
    mmaInt acc (l.map (fun p => some (.fin (p.1 < 0) p.1.natAbs 0))) (l.map (fun p => some (.fin (p.2 < 0) p.2.natAbs 0)))
      = BitVec.ofInt 32 (acc.toInt + (l.map (fun p => p.1 * p.2)).sum) := by
  have hp : ∀ x y : Int, (elemOr0 (some (.fin (x < 0) x.natAbs 0))).dy.n * (elemOr0 (some (.fin (y < 0) y.natAbs 0))).dy.n = x * y := fun x y =>
    congrArg₂ (· * ·) (ofParts_natAbs x) (ofParts_natAbs y)
  rw [mmaInt, List.zip_map', List.map_map]
  congr 3
  exact List.map_congr_left fun p _ => hp p.1 p.2

/-! Numbers, infinities and NaNs (R34, R35). -/

/-- The exact products of the pairs without a NaN, and all that is added with the accumulator's element. -/
def mmaProducts (ps : List (FVal × FVal)) : List FVal :=
  ps.filterMap (fun p => if p.1.isNan || p.2.isNan then none else mulExact p.1 p.2)
def mmaTerms (c : FVal) (ps : List (FVal × FVal)) : List FVal := mmaProducts ps ++ (if c.isNan then [] else [c])
/-- The element is invalid: an infinity times zero, or infinities of both signs. -/
def mmaInvalid (c : FVal) (ps : List (FVal × FVal)) : Bool :=
  ps.any (fun p => (mulExact p.1 p.2).isNone) || ((mmaTerms c ps).any (· == .inf false) && (mmaTerms c ps).any (· == .inf true))
/-- The sign of an exact zero sum. -/
def mmaZeroNeg (mode : RMode) (c : FVal) (ps : List (FVal × FVal)) : Bool :=
  if (mmaTerms c ps).all (fun v => v.isZero) && (mmaTerms c ps).all (fun v => v.sgn == c.sgn) then c.sgn else mode == .rdn
/-- The exact sum of the products, and with the scale and the accumulator's element. -/
def mmaSum (ps : List (FVal × FVal)) : Dy := (mmaProducts ps).foldl (fun acc v => acc.add v.dy) Dy.zero
def mmaExact (c : FVal) (ps : List (FVal × FVal)) (sh : Int) : Dy := c.dy.add ⟨(mmaSum ps).n, (mmaSum ps).e + sh⟩

theorem mulExact_nan {x y : FVal} (h : (x.isNan || y.isNan) = true) : (mulExact x y).isNone = false := by
  cases x with
  | nan s => cases y <;> rfl
  | inf | fin =>
    cases y with
    | nan s => rfl
    | inf | fin => exact nomatch h
theorem isInf_and_sgn (v : FVal) : (v.isInf && !v.sgn) = (v == .inf false) ∧ (v.isInf && v.sgn) = (v == .inf true) := by
  rcases v with s | s | ⟨s, m, e⟩
  · exact ⟨rfl, rfl⟩
  · cases s <;> exact ⟨rfl, rfl⟩
  · exact ⟨rfl, rfl⟩

/-- The model's element by those parts. -/
theorem mmaFloat_eq (mode : RMode) (acc : W32) (l : List (Option FVal × Option FVal)) (sh : Int) :
    let c := unpack32 acc
    let ps := l.map (fun p => (p.1.getD (.fin false 0 0), p.2.getD (.fin false 0 0)))
    mmaFloat mode acc (l.map (·.1)) (l.map (·.2)) sh =
      if (c.isNan || ps.any (fun p => p.1.isNan || p.2.isNan)) || mmaInvalid c ps then (nan32, if mmaInvalid c ps || c.isSig then flagNV else 0)
      else if (mmaTerms c ps).any (· == .inf false) then (inf32, 0)
      else if (mmaTerms c ps).any (· == .inf true) then (ninf32, 0)
      else (mmaExact c ps sh).round32 mode (mmaZeroNeg mode c ps) := by
  intro c ps
  have hps : ((l.map (·.1)).map elemOr0).zip ((l.map (·.2)).map elemOr0) = ps := by
    rw [List.map_map, List.map_map, List.zip_map']
    rfl
  have hprods : (ps.filterMap (fun p => if p.1.isNan || p.2.isNan then none else some (mulExact p.1 p.2))).filterMap id = mmaProducts ps := by
    rw [List.filterMap_filterMap]
    refine List.filterMap_congr fun p _ => ?_
    cases p.1.isNan || p.2.isNan <;> rfl
  have hnone : (ps.filterMap (fun p => if p.1.isNan || p.2.isNan then none else some (mulExact p.1 p.2))).any (fun p => p.isNone)
      = ps.any (fun p => (mulExact p.1 p.2).isNone) := by
    rw [List.any_filterMap]
    congr 1
    funext p
    cases h : p.1.isNan || p.2.isNan with
    | true => exact (mulExact_nan h).symm
    | false => rfl
  unfold mmaFloat
  dsimp only
  rw [hps, hprods, hnone]
  simp only [(isInf_and_sgn _).1, (isInf_and_sgn _).2]
  rfl

section
variable {c : FVal} {ps : List (FVal × FVal)}

theorem mulExact_eq_none_iff (x y : FVal) :
    mulExact x y = none ↔ (x.isInf = true ∧ y.isZero = true) ∨ (x.isZero = true ∧ y.isInf = true) := by
  rcases x with s | s | ⟨s, m, e⟩ <;> rcases y with s' | s' | ⟨s', n, k⟩ <;> simp [mulExact, FVal.isInf, FVal.isZero]
/-- An infinity among the terms is the accumulator's or an exact product. -/
theorem any_mmaTerms_inf (neg : Bool) :
    (mmaTerms c ps).any (· == .inf neg) = true ↔ c = .inf neg ∨ ∃ p ∈ ps, mulExact p.1 p.2 = some (.inf neg) := by
  have hp : ∀ x y : FVal, (if x.isNan || y.isNan then none else mulExact x y) = some (.inf neg) ↔ mulExact x y = some (.inf neg) := fun x y => by
    rcases x with s | s | ⟨s, m, e⟩ <;> rcases y with s' | s' | ⟨s', n, k⟩ <;> simp [mulExact, FVal.isNan]
  have hc : FVal.inf neg ∈ (if c.isNan then [] else [c]) ↔ c = .inf neg := by
    cases c <;> simp [FVal.isNan, eq_comm]
  simp only [List.any_eq_true, beq_iff_eq, exists_eq_right, mmaTerms, mmaProducts, List.mem_append, List.mem_filterMap, hp, hc]
  exact or_comm
theorem mmaInvalid_iff : mmaInvalid c ps = true ↔
    (∃ p ∈ ps, (p.1.isInf = true ∧ p.2.isZero = true) ∨ (p.1.isZero = true ∧ p.2.isInf = true))
      ∨ ((c = .inf false ∨ ∃ p ∈ ps, mulExact p.1 p.2 = some (.inf false)) ∧ (c = .inf true ∨ ∃ p ∈ ps, mulExact p.1 p.2 = some (.inf true))) := by
  rw [mmaInvalid, Bool.or_eq_true, Bool.and_eq_true, any_mmaTerms_inf, any_mmaTerms_inf, List.any_eq_true]
  simp only [Option.isNone_iff_eq_none, mulExact_eq_none_iff]

/-- A pair of finite numbers. -/
def BothFinite (p : FVal × FVal) : Prop := ∃ a m e b n k, p = (.fin a m e, .fin b n k)
theorem bothFinite_of {p : FVal × FVal} (hn : ¬ (p.1.isNan = true ∨ p.2.isNan = true)) (hz : mulExact p.1 p.2 ≠ none)
    (hi : ∀ neg, mulExact p.1 p.2 ≠ some (.inf neg)) : BothFinite p := by
  obtain ⟨x, y⟩ := p
  rcases x with s | s | ⟨s, m, e⟩ <;> rcases y with s' | s' | ⟨s', n, k⟩
  case fin.fin => exact ⟨_, _, _, _, _, _, rfl⟩
  case inf.inf => exact absurd rfl (hi _)
  case inf.fin | fin.inf =>
    simp only [mulExact] at hz hi
    split at hz
    · exact absurd rfl hz
    · next h => exact absurd (if_neg h) (hi _)
  all_goals simp [FVal.isNan] at hn

/-! The sum of finite numbers (R35). -/

theorem mmaProducts_cons_fin (a b : Bool) (m n : Nat) (e k : Int) :
    mmaProducts ((.fin a m e, .fin b n k) :: ps) = .fin (a != b) (m * n) (e + k) :: mmaProducts ps := rfl
theorem val_foldl_add (vs : List FVal) (d : Dy) : (vs.foldl (fun acc v => acc.add v.dy) d).val = d.val + (vs.map (·.dy.val)).sum := by
  induction vs generalizing d with
  | nil => simp
  | cons v vs ih =>
    rw [List.foldl_cons, ih, Dy.val_add, List.map_cons, List.sum_cons, add_assoc]
/-- The products of finite numbers add up to the sum of the products of what they are. -/
theorem sum_mmaProducts (h : ∀ p ∈ ps, BothFinite p) :
    ((mmaProducts ps).map (·.dy.val)).sum = (ps.map (fun p => p.1.dy.val * p.2.dy.val)).sum := by
  induction ps with
  | nil => rfl
  | cons p ps ih =>
    obtain ⟨a, m, e, b, n, k, rfl⟩ := h p (List.mem_cons_self ..)
    rw [mmaProducts_cons_fin, List.map_cons, List.sum_cons, List.map_cons, List.sum_cons, ih fun p hp => h p (List.mem_cons_of_mem _ hp)]
    exact congrArg (· + _) (Dy.val_ofParts_mul a b m n e k).symm
theorem mmaExact_val (h : ∀ p ∈ ps, BothFinite p) (sh : Int) :
    (mmaExact c ps sh).val = c.dy.val + (ps.map (fun p => p.1.dy.val * p.2.dy.val)).sum * 2 ^ sh := by
  have hsum : (mmaSum ps).val = (ps.map (fun p => p.1.dy.val * p.2.dy.val)).sum := by
    rw [mmaSum, val_foldl_add, sum_mmaProducts h]
    simp [Dy.val, Dy.zero]
  rw [mmaExact, Dy.val_add, ← hsum, Dy.val, Dy.val, Dy.val, zpow_add₀ (by norm_num), mul_assoc]

/-- A test of all products of finite numbers, by the pairs. -/
theorem all_mmaProducts (h : ∀ p ∈ ps, BothFinite p) {f : FVal → Bool} {P : FVal × FVal → Prop}
    (hf : ∀ a b m n e k, f (.fin (a != b) (m * n) (e + k)) = true ↔ P (.fin a m e, .fin b n k)) :
    (mmaProducts ps).all f = true ↔ ∀ p ∈ ps, P p := by
  induction ps with
  | nil => simp [mmaProducts]
  | cons p ps ih =>
    obtain ⟨a, m, e, b, n, k, rfl⟩ := h p (List.mem_cons_self ..)
    rw [mmaProducts_cons_fin, List.forall_mem_cons, List.all_cons, Bool.and_eq_true, hf, ih fun p hp => h p (List.mem_cons_of_mem _ hp)]
/-- Every term is a zero of the accumulator's sign. -/
theorem mmaTerms_zeros_iff (hc : c.isNan = false) (h : ∀ p ∈ ps, BothFinite p) :
    ((mmaTerms c ps).all (fun v => v.isZero) && (mmaTerms c ps).all (fun v => v.sgn == c.sgn)) = true ↔
      c.isZero = true ∧ ∀ p ∈ ps, (p.1.isZero = true ∨ p.2.isZero = true) ∧ (p.1.sgn != p.2.sgn) = c.sgn := by
  have hz := all_mmaProducts h (f := fun v => v.isZero) (P := fun p => p.1.isZero = true ∨ p.2.isZero = true)
    (fun a b m n e k => by simp [FVal.isZero])
  have hs := all_mmaProducts h (f := fun v => v.sgn == c.sgn) (P := fun p => (p.1.sgn != p.2.sgn) = c.sgn)
    (fun a b m n e k => beq_iff_eq)
  have hall : ∀ f : FVal → Bool, (mmaTerms c ps).all f = ((mmaProducts ps).all f && f c) := fun f => by
    simp [mmaTerms, hc]
  rw [hall, hall, Bool.and_eq_true, Bool.and_eq_true, Bool.and_eq_true, hz, hs, beq_self_eq_true]
  exact ⟨fun ⟨⟨h1, h2⟩, h3, _⟩ => ⟨h2, fun p hp => ⟨h1 p hp, h3 p hp⟩⟩,
    fun ⟨h1, h2⟩ => ⟨⟨fun p hp => (h2 p hp).1, h1⟩, fun p hp => (h2 p hp).2, rfl⟩⟩
end

/-- The third part of O30. -/
theorem mmaElements :
    (∀ (acc : W32) (l : List (Int × Int)),
      mmaInt acc (l.map (fun p => some (.fin (p.1 < 0) p.1.natAbs 0))) (l.map (fun p => some (.fin (p.2 < 0) p.2.natAbs 0)))
        = BitVec.ofInt 32 (acc.toInt + (l.map (fun p => p.1 * p.2)).sum))
    ∧ (∀ mode (acc : W32) (l : List (Option FVal × Option FVal)) sh,
      let c := unpack32 acc
      let ps := l.map (fun p => (p.1.getD (.fin false 0 0), p.2.getD (.fin false 0 0)))
      let nan := c.isNan = true ∨ ∃ p ∈ ps, p.1.isNan = true ∨ p.2.isNan = true
      let infTimesZero := ∃ p ∈ ps, (p.1.isInf = true ∧ p.2.isZero = true) ∨ (p.1.isZero = true ∧ p.2.isInf = true)
      let infs := fun neg => c = .inf neg ∨ ∃ p ∈ ps, mulExact p.1 p.2 = some (.inf neg)
      let val := fun (v : FVal) => ((v.dy.n : ℚ) * 2 ^ v.dy.e)
      let invalid := infTimesZero ∨ (infs false ∧ infs true)
      let r := mmaFloat mode acc (l.map (·.1)) (l.map (·.2)) sh;
      (nan ∨ invalid → r.1 = 0x7FC00000 ∧ (r.2 ≠ 0 ↔ invalid ∨ c.isSig = true))
      ∧ (¬ nan → ¬ invalid → infs false → r = (0x7F800000, 0)) ∧ (¬ nan → ¬ invalid → infs true → r = (0xFF800000, 0))
      ∧ (let zeros := c.isZero = true ∧ ∀ p ∈ ps, (p.1.isZero = true ∨ p.2.isZero = true) ∧ (p.1.sgn != p.2.sgn) = c.sgn
        ¬ nan → ¬ invalid → ¬ infs false → ¬ infs true → ∃ (d : Dy) (z : Bool), r = d.round32 mode z
          ∧ (zeros → z = c.sgn) ∧ (¬ zeros → z = (mode == .rdn))
          ∧ (d.n : ℚ) * 2 ^ d.e = val c + (ps.map (fun p => val p.1 * val p.2)).sum * 2 ^ sh)) := by
  refine ⟨mmaInt_eq, fun mode acc l sh => ?_⟩
  intro c ps nan infTimesZero infs val invalid r
  have hr : r = _ := mmaFloat_eq mode acc l sh
  have hnan : (c.isNan || ps.any (fun p => p.1.isNan || p.2.isNan)) = true ↔ nan := by
    simp [nan]
  have hinv : mmaInvalid c ps = true ↔ invalid := mmaInvalid_iff
  have hinf : ∀ neg, (mmaTerms c ps).any (· == .inf neg) = true ↔ infs neg := fun neg => any_mmaTerms_inf neg
  have hnan' : ¬ nan → ¬ invalid → ¬ ((c.isNan || ps.any (fun p => p.1.isNan || p.2.isNan)) || mmaInvalid c ps) = true := fun hn hi => by
    rw [Bool.or_eq_true, hnan, hinv]
    exact not_or.mpr ⟨hn, hi⟩
  refine ⟨fun h => ?_, fun hn hi hp => ?_, fun hn hi hm => ?_, fun hn hi hp hm => ?_⟩
  · rw [← hnan, ← hinv, ← Bool.or_eq_true] at h
    rw [hr, if_pos h, ← hinv, ← Bool.or_eq_true]
    exact ⟨rfl, by cases mmaInvalid c ps || c.isSig <;> decide⟩
  · rw [hr, if_neg (hnan' hn hi), if_pos ((hinf false).mpr hp)]
    rfl
  · rw [hr, if_neg (hnan' hn hi), if_neg (mt (hinf false).mp fun hp => hi (.inr ⟨hp, hm⟩)), if_pos ((hinf true).mpr hm)]
    rfl
  · have hfin : ∀ p ∈ ps, BothFinite p := fun p hps => bothFinite_of (fun h => hn (.inr ⟨p, hps, h⟩))
      (fun h => hi (.inl ⟨p, hps, (mulExact_eq_none_iff _ _).mp h⟩)) (fun neg h => by
        cases neg
        · exact hp (.inr ⟨p, hps, h⟩)
        · exact hm (.inr ⟨p, hps, h⟩))
    have hz := mmaTerms_zeros_iff (by simpa using fun h => hn (.inl h)) hfin
    refine ⟨mmaExact c ps sh, mmaZeroNeg mode c ps, ?_, fun h => if_pos (hz.mpr h), fun h => if_neg (mt hz.mp h), mmaExact_val hfin sh⟩
    rw [hr, if_neg (hnan' hn hi), if_neg (mt (hinf false).mp hp), if_neg (mt (hinf true).mp hm)]

end Sys2Proof.Machine
end

section
/-! SUPPORT. What the retirement of a MAT operation leaves, and what it does to rings and to its thread (R120, R121, R123). -/

namespace Sys2Proof.Machine

open Sys2Proof Sys2Proof.Safety

/-! What the engine leaves as it was. -/

/-- A core less what the retirement of an operation changes: threads, counters and rings. -/
def ringless (k : Core) : Core := { coreRest k with rings := [] }

/-- `t` is `s` but for the threads, counters and rings of a core, seen at the cores and the memories. -/
structure EngineKept (c : Nat) (s t : State) : Prop where
  cores : ∀ d, d ≠ c → t.core d = s.core d
  rest : ringless (t.core c) = ringless (s.core c)
  hbm : t.hbm = s.hbm
  weight : t.weight = s.weight

section
variable {c : Nat} {s t u : State}

theorem EngineKept.refl (c : Nat) (s : State) : EngineKept c s s := ⟨fun _ _ => rfl, rfl, rfl, rfl⟩
theorem EngineKept.trans (h : EngineKept c s t) (g : EngineKept c t u) : EngineKept c s u :=
  ⟨fun d hd => (g.cores d hd).trans (h.cores d hd), g.rest.trans h.rest, g.hbm.trans h.hbm, g.weight.trans h.weight⟩
theorem engineKept_updCore {f : Core → Core} (hf : ∀ k, ringless (f k) = ringless k) (s : State) : EngineKept c s (s.updCore c f) :=
  ⟨fun d hd => by rw [State.core_updCore, if_neg hd], by rw [State.core_updCore, if_pos rfl, hf], rfl, rfl⟩
theorem engineKept_hpm (s : State) (c code n : Nat) : EngineKept c s (s.hpm c code n) :=
  engineKept_updCore (fun k => by rw [ringless, Core.hpm_rest]; rfl) s
theorem engineKept_updThread (s : State) (c n : Nat) (f : Thread → Thread) : EngineKept c s (s.updThread ⟨c, n⟩ f) :=
  engineKept_updCore (f := (·.setThread n (f (s.thread ⟨c, n⟩)))) (fun _ => rfl) s
/-- What else than cores and memories changes does not matter. -/
theorem EngineKept.of_eq (h : EngineKept c s t) (hc : u.cores = t.cores) (hh : u.hbm = t.hbm) (hw : u.weight = t.weight) : EngineKept c s u := by
  have hcore : ∀ d, u.core d = t.core d := fun d => congrArg (fun k => k.get Core.reset d) hc
  exact ⟨fun d hd => (hcore d).trans (h.cores d hd), (hcore c).symm ▸ h.rest, hh.trans h.hbm, hw.trans h.weight⟩
theorem engineKept_accrueAt (s : State) (c n : Nat) (f : FFlags) : EngineKept c s (s.accrueAt ⟨c, n⟩ f) := by
  unfold State.accrueAt
  split
  · exact .refl c s
  · exact (engineKept_updThread s c n (·.setCsr 0x011 ((s.thread ⟨c, n⟩).csr 0x011 ||| f.setWidth 64))).of_eq rfl rfl rfl
theorem engineKept_countZeroed (s : State) (c n : Nat) : EngineKept c s (s.countZeroed c n) :=
  (engineKept_hpm s c 0x14 n).of_eq rfl rfl rfl
theorem latchAll_rest (k : Core) : coreRest k.latchAll = coreRest k := by
  unfold Core.latchAll
  refine foldl_keeps (P := fun j => coreRest j = coreRest k) (fun j n _ h => ?_) k rfl
  exact h
theorem engineKept_latchAll (s : State) (c : Nat) : EngineKept c s (s.latchAll c) :=
  engineKept_updCore (fun k => by rw [ringless, latchAll_rest]; rfl) s
theorem engineKept_popSlot (s : State) (c n : Nat) : EngineKept c s (s.popSlot c n) := by
  have hr : EngineKept c s (s.updRing c n (fun r => { r with head := (r.head + 1) % max 1 r.count, occ := r.occ - 1 })) :=
    engineKept_updCore (f := fun k => k.setRing n _) (fun _ => rfl) s
  unfold State.popSlot
  dsimp only
  split
  · exact hr.trans (engineKept_latchAll _ c)
  · exact hr
theorem engineKept_advance (s : State) (c n : Nat) : EngineKept c s (s.asThread ⟨c, n⟩ State.advance) := by
  obtain ⟨-, -, hc, -, hr, -, -⟩ := (Mine.refl ({ s with cur := ⟨c, n⟩ } : State)).advance
  exact ⟨hc, congrArg (fun k : Core => { k with rings := [] }) hr, rfl, rfl⟩

theorem EngineKept.matQ (h : EngineKept c s t) : (t.core c).matQ = (s.core c).matQ :=
  (congrArg (fun k : Core => k.matQ) h.rest :)
theorem EngineKept.mem (h : EngineKept c s t) (d : Nat) : (t.core d).mem = (s.core d).mem := by
  by_cases hd : d = c
  · subst hd
    exact (congrArg (fun k : Core => k.mem) h.rest :)
  · rw [h.cores d hd]
/-- Every byte of memory of this device is as it was. -/
theorem memByte_of_mem (hm : ∀ d, (t.core d).mem = (s.core d).mem) (hh : t.hbm = s.hbm) (hw : t.weight = s.weight) (d : Nat) (p : Place) :
    t.memByte d p = s.memByte d p ∨ ∃ e x, p = .remote e x := by
  cases p with
  | loc o => exact .inl (congrArg (Mem.byte · o) (hm d))
  | hbm a => exact .inl (congrArg (Mem.byte · a) hh)
  | weight a => exact .inl (congrArg (Mem.byte · a) hw)
  | remote e x => exact .inr ⟨e, x, rfl⟩
theorem EngineKept.memByte (h : EngineKept c s t) : ∀ d p, t.memByte d p = s.memByte d p ∨ ∃ e x, p = .remote e x :=
  memByte_of_mem h.mem h.hbm h.weight
end

/-! Rings (R114, R123). -/

/-- A ring with its head slot popped, and with a slot pushed at the tail. -/
def Ring.popped (r : Ring) : Ring := { r with head := (r.head + 1) % max 1 r.count, occ := r.occ - 1 }
def Ring.pushed (r : Ring) : Ring := { r with tail := (r.tail + 1) % max 1 r.count, occ := r.occ + 1 }

theorem ring_of_rest {k j : Core} (h : coreRest j = coreRest k) (n : Nat) : j.ring n = k.ring n :=
  (congrArg (fun k : Core => k.rings.get Ring.reset n) h :)
theorem ring_setRing (k : Core) (m n : Nat) (r : Ring) : (k.setRing m r).ring n = if n = m then r else k.ring n := Tbl.get_set ..

section
variable (s : State) (c n : Nat)

theorem ring_hpm (code m : Nat) : ((s.hpm c code m).core c).ring n = (s.core c).ring n := by
  rw [State.hpm, State.core_updCore, if_pos rfl, ring_of_rest (Core.hpm_rest _ _ _)]
theorem ring_updThread (slot : Nat) (f : Thread → Thread) : ((s.updThread ⟨c, slot⟩ f).core c).ring n = (s.core c).ring n := by
  rw [State.updThread, State.setThread, State.core_updCore, if_pos rfl]
  rfl
theorem ring_accrueAt (slot : Nat) (f : FFlags) : ((s.accrueAt ⟨c, slot⟩ f).core c).ring n = (s.core c).ring n := by
  unfold State.accrueAt
  split
  · rfl
  · exact ring_updThread s c n slot (·.setCsr 0x011 ((s.thread ⟨c, slot⟩).csr 0x011 ||| f.setWidth 64))
theorem ring_latchAll : ((s.latchAll c).core c).ring n = (s.core c).ring n := by
  rw [State.latchAll, State.core_updCore, if_pos rfl, ring_of_rest (latchAll_rest _)]
theorem ring_updRing (m : Nat) (f : Ring → Ring) :
    ((s.updRing c m f).core c).ring n = if n = m then f ((s.core c).ring m) else (s.core c).ring n := by
  rw [State.updRing, State.core_updCore, if_pos rfl, ring_setRing]
theorem ring_popSlot (m : Nat) : ((s.popSlot c m).core c).ring n = if n = m then ((s.core c).ring m).popped else (s.core c).ring n := by
  unfold State.popSlot
  dsimp only
  split
  · rw [ring_latchAll, ring_updRing]
    rfl
  · rw [ring_updRing]
    rfl
theorem ring_pushSlot (m : Nat) : ((s.pushSlots c m 1).core c).ring n = if n = m then ((s.core c).ring m).pushed else (s.core c).ring n := by
  unfold State.pushSlots
  dsimp only
  split
  · rw [ring_latchAll, ring_updRing]
    rfl
  · rw [ring_updRing]
    rfl
theorem ring_advance (slot : Nat) : ((s.asThread ⟨c, slot⟩ State.advance).core c).ring n = (s.core c).ring n := by
  obtain ⟨-, -, -, -, hr, -, -⟩ := (Mine.refl ({ s with cur := ⟨c, slot⟩ } : State)).advance
  exact ring_of_rest hr n
end

/-- The rings after an operation's pops. -/
theorem ring_matPops (s : State) (c : Nat) (o : MatOp) (n : Nat) : ((s.matPops c o).core c).ring n =
    if n ∈ ringPair o.ra o.rb ∧ o.pops n ≠ 0 then ((s.core c).ring n).popped else (s.core c).ring n := by
  have hstep : ∀ (s : State) m, ((if o.pops m = 0 then s else s.popSlot c m).core c).ring n =
      if n = m ∧ o.pops m ≠ 0 then ((s.core c).ring n).popped else (s.core c).ring n := fun s m => by
    by_cases hm : o.pops m = 0
    · rw [if_pos hm, if_neg fun h => h.2 hm]
    · rw [if_neg hm, ring_popSlot]
      by_cases hn : n = m
      · rw [if_pos hn, if_pos ⟨hn, hm⟩, hn]
      · rw [if_neg hn, if_neg fun h => hn h.1]
  unfold State.matPops ringPair
  split
  · rw [List.foldl_cons, List.foldl_nil, hstep]
    refine if_congr ⟨?_, ?_⟩ rfl rfl
    · rintro ⟨rfl, h⟩
      exact ⟨List.mem_singleton_self _, h⟩
    · rintro ⟨hn, h⟩
      rw [List.mem_singleton] at hn
      exact ⟨hn, hn ▸ h⟩
  · next hne =>
    rw [List.foldl_cons, List.foldl_cons, List.foldl_nil, hstep, hstep]
    by_cases ha : n = o.ra
    · subst ha
      simp [hne]
    · by_cases hb : n = o.rb
      · subst hb
        simp [ha]
      · simp [ha, hb]
theorem engineKept_matPops (s : State) (c : Nat) (o : MatOp) : EngineKept c s (s.matPops c o) :=
  foldl_keeps (P := EngineKept c s) (fun t n _ h => by
    split
    · exact h
    · exact h.trans (engineKept_popSlot t c n)) s (.refl c s)

/-! The thread of an operation. -/

/-- `y` is `x`, perhaps with its latch set. -/
def LatchedFrom (x y : Thread) : Prop := y = x ∨ y = { x with latch := true }

theorem LatchedFrom.trans {x y z : Thread} (h : LatchedFrom x y) (g : LatchedFrom y z) : LatchedFrom x z := by
  rcases g with rfl | rfl
  · exact h
  · rcases h with rfl | rfl <;> exact .inr rfl
theorem LatchedFrom.eq {x y : Thread} (h : LatchedFrom x y) (hx : x.latch = true) : y = x := by
  rcases h with rfl | rfl
  · rfl
  · rw [← hx]
theorem latchedFrom_latchAll (s : State) (c n : Nat) : LatchedFrom (s.thread ⟨c, n⟩) ((s.latchAll c).thread ⟨c, n⟩) := by
  have hk : LatchedFrom ((s.core c).thread n) ((s.core c).latchAll.thread n) :=
    foldl_keeps (P := fun k : Core => LatchedFrom ((s.core c).thread n) (k.thread n)) (fun k m _ h => by
      rw [Core.thread_setThread]
      split
      · next hm => exact h.trans (.inr (by rw [hm]))
      · exact h) (s.core c) (.inl rfl)
  have hl : (s.latchAll c).thread ⟨c, n⟩ = (s.core c).latchAll.thread n := by
    rw [State.thread, State.latchAll, State.core_updCore, if_pos rfl]
  rw [hl]
  exact hk
theorem thread_updRing (s : State) (c m : Nat) (f : Ring → Ring) (n : Nat) : (s.updRing c m f).thread ⟨c, n⟩ = s.thread ⟨c, n⟩ := by
  rw [State.updRing, State.thread, State.core_updCore, if_pos rfl]
  rfl
theorem latchedFrom_popSlot (s : State) (c m n : Nat) : LatchedFrom (s.thread ⟨c, n⟩) ((s.popSlot c m).thread ⟨c, n⟩) := by
  unfold State.popSlot
  dsimp only
  rw [← thread_updRing s c m (fun r => { r with head := (r.head + 1) % max 1 r.count, occ := r.occ - 1 }) n]
  split
  · exact latchedFrom_latchAll ..
  · exact .inl rfl
theorem latchedFrom_pushSlots (s : State) (c m i n : Nat) : LatchedFrom (s.thread ⟨c, n⟩) ((s.pushSlots c m i).thread ⟨c, n⟩) := by
  unfold State.pushSlots
  dsimp only
  rw [← thread_updRing s c m (fun r => { r with tail := (r.tail + i) % max 1 r.count, occ := r.occ + i }) n]
  split
  · exact latchedFrom_latchAll ..
  · exact .inl rfl
theorem latchedFrom_matPops (s : State) (c : Nat) (o : MatOp) (n : Nat) : LatchedFrom (s.thread ⟨c, n⟩) ((s.matPops c o).thread ⟨c, n⟩) :=
  foldl_keeps (P := fun t : State => LatchedFrom (s.thread ⟨c, n⟩) (t.thread ⟨c, n⟩)) (fun t m _ h => by
    split
    · exact h
    · exact h.trans (latchedFrom_popSlot t c m n)) s (.inl rfl)
theorem thread_accrueAt (s : State) (i : ThreadId) (f : FFlags) : (s.accrueAt i f).thread i = (s.thread i).raised f := by
  unfold State.accrueAt Thread.raised
  split
  · rfl
  · rw [State.thread_updCluster, State.thread_updThread, if_pos rfl]
theorem thread_advance (s : State) (i : ThreadId) : (s.asThread i State.advance).thread i = (s.thread i).retire.stepPc :=
  ((Mine.refl { s with cur := i }).advance).2.2.2.2.2.2

/-! A tile written (R120, R121, R123). -/

/-- A thread after rows of a tile were written: all but its rows is as it was. -/
theorem setTile_eq (t : Thread) (tile : Nat) (rows : List Row) : ∃ r p, t.setTile tile rows = { t with rows := r, points := p } := by
  unfold Thread.setTile
  refine foldl_keeps (P := fun x : Thread => ∃ r p, x = { t with rows := r, points := p }) (fun x r _ h => ?_) t ⟨t.rows, t.points, rfl⟩
  obtain ⟨r', p', rfl⟩ := h
  exact ⟨_, _, rfl⟩
theorem row_setRows {tile : Nat} (ht : tile < 8) {n : Nat} (hn : n < 128) (rows : List Row) (k : Nat) (hk : k + rows.length ≤ 16) (t : Thread) :
    ((rows.zipIdx k).foldl (fun t r => t.setRow (16 * tile + r.2) r.1) t).row n =
      if 16 * tile + k ≤ n ∧ n < 16 * tile + k + rows.length then rows.getD (n - (16 * tile + k)) 0 else t.row n := by
  induction rows generalizing k t with
  | nil => rw [List.zipIdx_nil, List.foldl_nil, if_neg (by rw [List.length_nil]; omega)]
  | cons r rows ih =>
    rw [List.length_cons] at hk ⊢
    rw [List.zipIdx_cons, List.foldl_cons, ih (k + 1) (by omega), Thread.row_setRow, Nat.mod_eq_of_lt hn, Nat.mod_eq_of_lt (by omega)]
    rcases lt_trichotomy n (16 * tile + k) with h | h | h
    · rw [if_neg (by omega), if_neg (by omega), if_neg (by omega)]
    · rw [if_neg (by omega), if_pos h, if_pos (by omega), h, Nat.sub_self]
      rfl
    · by_cases h2 : n < 16 * tile + k + (rows.length + 1)
      · rw [if_pos (by omega), if_pos (by omega), (by omega : n - (16 * tile + k) = n - (16 * tile + (k + 1)) + 1)]
        rfl
      · rw [if_neg (by omega), if_neg (by omega), if_neg (by omega)]
/-- The rows of the tile, and the others. -/
theorem row_setTile {tile : Nat} (ht : tile < 8) {n : Nat} (hn : n < 128) {rows : List Row} (hl : rows.length = 16) (t : Thread) :
    (t.setTile tile rows).row n = if 16 * tile ≤ n ∧ n < 16 * tile + 16 then rows.getD (n - 16 * tile) 0 else t.row n := by
  have h := row_setRows ht hn rows 0 (by omega) t
  rwa [Nat.add_zero, hl] at h

/-- The thread whose tile an operation has written. -/
def Thread.committed (t : Thread) (o : MatOp) (rows : List Row) (f : FFlags) (bad : List (Nat × Nat × Nat × Nat)) : Thread :=
  let (x, ring, row, el) := bad.headD (0, 0, 0, 0)
  ({ (t.setTile o.tile rows).merr bad.length o.opNum x ring row el with latch := true }).raised f

/-- The tile of a thread holds `w`, its flags are raised by `fl`, `bad` elements are counted, and the latch is set (R121, R123). -/
def TileMade (old x : Thread) (tile : Nat) (w : Nat → Nat → W32) (fl : Nat → Nat → FFlags) (bad : Nat) : Prop :=
  (∀ i j, i < 16 → j < 16 → (x.row (16 * tile + i)).lane j = w i j)
    ∧ (∀ n, n < 128 → ¬ (16 * tile ≤ n ∧ n < 16 * tile + 16) → x.row n = old.row n) ∧ (∀ n, regNo x n = regNo old n)
    ∧ (∀ b, b < 5 → ((x.csr 0x011).getLsbD b = true ↔
        (old.csr 0x011).getLsbD b = true ∨ ∃ i j, i < 16 ∧ j < 16 ∧ (fl i j).getLsbD b = true))
    ∧ x.csr 0x033 = (if bad = 0 then old.csr 0x033 else BitVec.ofNat 64 (2 ^ 32 + min 0xFFFFFFFF (bits (old.csr 0x033) 31 0 + bad)))
    ∧ x.latch = true

/-- What counting replaced elements changes of a thread. -/
theorem merr_eq (t : Thread) (n : Nat) (opNum : W32) (x ring row el : Nat) : ∃ cs, t.merr n opNum x ring row el = { t with csrs := cs } := by
  unfold Thread.merr
  split
  · exact ⟨t.csrs, rfl⟩
  · exact ⟨_, rfl⟩
theorem csr_merr (t : Thread) (n : Nat) (opNum : W32) (x ring row el : Nat) {m : Nat} (hm : m ≠ 0x034) : (t.merr n opNum x ring row el).csr m =
    if m = 0x033 ∧ n ≠ 0 then BitVec.ofNat 64 (2 ^ 32 + min 0xFFFFFFFF (bits (t.csr 0x033) 31 0 + n)) else t.csr m := by
  unfold Thread.merr
  split
  · next h => rw [if_neg fun hc => hc.2 h]
  · next h =>
    dsimp only
    rw [Thread.csr_setCsr, if_neg hm, Thread.csr_setCsr]
    exact if_congr ⟨fun he => ⟨he, h⟩, And.left⟩ rfl rfl
/-- Flags raised, a bit at a time. -/
theorem getLsbD_raised (t : Thread) (f : FFlags) {b : Nat} (hb : b < 5) :
    ((t.raised f).csr 0x011).getLsbD b = true ↔ (t.csr 0x011).getLsbD b = true ∨ f.getLsbD b = true := by
  rw [Thread.csr_raised, if_pos rfl, BitVec.getLsbD_or, Bool.or_eq_true, BitVec.getLsbD_setWidth, decide_eq_true (by omega : b < 64), Bool.true_and]
@[simp] theorem raised_latch (t : Thread) (f : FFlags) : (t.raised f).latch = t.latch := by
  unfold Thread.raised
  split <;> rfl

/-- What the committed thread keeps, and that its tile is made. -/
theorem committed_eq (t : Thread) (o : MatOp) (rows : List Row) (f : FFlags) (bad : List (Nat × Nat × Nat × Nat)) :
    ∃ r p cs, t.committed o rows f bad = { t with rows := r, points := p, csrs := cs, latch := true } := by
  obtain ⟨r, p, hr⟩ := setTile_eq t o.tile rows
  unfold Thread.committed
  dsimp only
  obtain ⟨cs, hm⟩ := merr_eq (t.setTile o.tile rows) bad.length o.opNum (bad.headD (0, 0, 0, 0)).1 (bad.headD (0, 0, 0, 0)).2.1
    (bad.headD (0, 0, 0, 0)).2.2.1 (bad.headD (0, 0, 0, 0)).2.2.2
  rw [hm, hr, Thread.raised]
  split
  · exact ⟨r, p, cs, rfl⟩
  · exact ⟨r, p, _, rfl⟩
theorem tileMade_committed (t : Thread) {o : MatOp} (ho : o.tile < 8) {rows : List Row} (hl : rows.length = 16) {f : FFlags}
    (bad : List (Nat × Nat × Nat × Nat)) {w : Nat → Nat → W32} (hw : ∀ i j, i < 16 → j < 16 → (rows.getD i 0).lane j = w i j)
    {fl : Nat → Nat → FFlags} (hf : ∀ b, f.getLsbD b = true ↔ ∃ i j, i < 16 ∧ j < 16 ∧ (fl i j).getLsbD b = true) :
    TileMade t (t.committed o rows f bad) o.tile w fl bad.length := by
  obtain ⟨⟨x, ring, row, el⟩, hx⟩ : ∃ q, bad.headD (0, 0, 0, 0) = q := ⟨_, rfl⟩
  have hc : t.committed o rows f bad = ({ (t.setTile o.tile rows).merr bad.length o.opNum x ring row el with latch := true } : Thread).raised f := by
    rw [Thread.committed, hx]
  obtain ⟨cs, hm⟩ := merr_eq (t.setTile o.tile rows) bad.length o.opNum x ring row el
  obtain ⟨r, p, hr⟩ := setTile_eq t o.tile rows
  have hrow : ∀ n, n < 128 → (t.committed o rows f bad).row n =
      if 16 * o.tile ≤ n ∧ n < 16 * o.tile + 16 then rows.getD (n - 16 * o.tile) 0 else t.row n := fun n hn => by
    rw [← row_setTile ho hn hl t, hc]
    refine Thread.row_congr ?_ n
    rw [Thread.raised_rows, hm]
  have hcsr : ∀ m, m ≠ 0x034 → ({ (t.setTile o.tile rows).merr bad.length o.opNum x ring row el with latch := true } : Thread).csr m =
      if m = 0x033 ∧ bad.length ≠ 0 then BitVec.ofNat 64 (2 ^ 32 + min 0xFFFFFFFF (bits (t.csr 0x033) 31 0 + bad.length)) else t.csr m := fun m h4 => by
    refine (csr_merr (t.setTile o.tile rows) bad.length o.opNum x ring row el h4).trans ?_
    rw [hr]
    rfl
  refine ⟨fun i j hi hj => ?_, fun n hn hnt => ?_, fun n => ?_, fun b hb => ?_, ?_, ?_⟩
  · rw [hrow _ (by omega), if_pos (by omega), Nat.add_sub_cancel_left, hw i j hi hj]
  · rw [hrow n hn, if_neg hnt]
  · rw [hc, Thread.regNo_raised, hm, hr]
    rfl
  · rw [hc, getLsbD_raised _ _ hb, hcsr 0x011 (by decide), if_neg fun h => absurd h.1 (by decide), hf]
  · rw [hc, Thread.csr_raised, if_neg (by decide), hcsr 0x033 (by decide)]
    by_cases hb : bad.length = 0
    · rw [if_neg fun h => h.2 hb, if_pos hb]
    · rw [if_pos ⟨rfl, hb⟩, if_neg hb]
  · rw [hc, raised_latch]
/-- Going on keeps a made tile. -/
theorem TileMade.advance {old x : Thread} {tile : Nat} {w : Nat → Nat → W32} {fl : Nat → Nat → FFlags} {bad : Nat}
    (h : TileMade old x tile w fl bad) : TileMade old x.retire.stepPc tile w fl bad := by
  have hrow : ∀ n, x.retire.stepPc.row n = x.row n := Thread.row_congr (by simp)
  have hcsr : ∀ n, n ≠ 0x081 → x.retire.stepPc.csr n = x.csr n := fun n hn => by
    rw [Thread.csr_stepPc, Thread.csr_retire, if_neg hn]
  obtain ⟨h1, h2, h3, h4, h5, h6⟩ := h
  refine ⟨fun i j hi hj => ?_, fun n hn hnt => ?_, fun n => ?_, fun b hb => ?_, ?_, ?_⟩
  · rw [hrow, h1 i j hi hj]
  · rw [hrow, h2 n hn hnt]
  · rw [Thread.regNo_stepPc, Thread.regNo_retire, h3]
  · rw [hcsr 0x011 (by decide), h4 b hb]
  · rw [hcsr 0x033 (by decide), h5]
  · simpa using h6

/-! An operation's results committed, and its pops made. -/

section
variable (s : State) (c : Nat) (o : MatOp) (rows : List Row) (f : FFlags) (bad : List (Nat × Nat × Nat × Nat))

theorem thread_countZeroed (n : Nat) (i : ThreadId) : (s.countZeroed c n).thread i = s.thread i := State.thread_hpm s c 0x14 n i
theorem opAlive_countZeroed (n slot serial : Nat) : (s.countZeroed c n).opAlive c slot serial = s.opAlive c slot serial := by
  have h := thread_countZeroed s c n ⟨c, slot⟩
  unfold State.opAlive
  rw [show ((s.countZeroed c n).core c).thread slot = (s.core c).thread slot from h]
theorem engineKept_matCommit : EngineKept c s (s.matCommit c o rows f bad) := by
  unfold State.matCommit
  dsimp only
  split
  · exact ((engineKept_countZeroed s c _).trans (engineKept_updThread _ c o.slot _)).trans (engineKept_accrueAt _ c o.slot f)
  · exact engineKept_countZeroed s c _
theorem ring_matCommit (n : Nat) : ((s.matCommit c o rows f bad).core c).ring n = (s.core c).ring n := by
  unfold State.matCommit
  dsimp only
  split
  · rw [ring_accrueAt, ring_updThread]
    exact ring_hpm s c n 0x14 _
  · exact ring_hpm s c n 0x14 _
theorem thread_matCommit : (s.matCommit c o rows f bad).thread ⟨c, o.slot⟩ =
    if s.opAlive c o.slot o.serial then (s.thread ⟨c, o.slot⟩).committed o rows f bad else s.thread ⟨c, o.slot⟩ := by
  unfold State.matCommit
  dsimp only
  rw [opAlive_countZeroed]
  split
  · rw [thread_accrueAt, State.thread_updThread, if_pos rfl, thread_countZeroed]
    rfl
  · exact thread_countZeroed s c _ _
end

end Sys2Proof.Machine
end

section
/-! SUPPORT. The MAT operations at retirement: products, zeroing, loading and the check (R120, R121, R123, R124, R125). -/

namespace Sys2Proof.Machine

open Sys2Proof Sys2Proof.Safety

/-! Uncorrectable elements (R121). -/

theorem length_badRow (l : List (Option FVal)) (i k : Nat) :
    ((l.zipIdx k).filterMap (fun e => if e.1.isNone then some (i, e.2) else none)).length = l.countP (·.isNone) := by
  induction l generalizing k with
  | nil => rfl
  | cons x l ih =>
    rw [List.zipIdx_cons, List.filterMap_cons, List.countP_cons]
    cases x with
    | none => exact congrArg (· + 1) (ih (k + 1))
    | some v => exact ih (k + 1)
theorem length_badElems (m : List (List (Option FVal))) : (badElems m).length = m.flatten.countP (·.isNone) := by
  have h : ∀ k, ((m.zipIdx k).flatMap (fun row => row.1.zipIdx.filterMap (fun e => if e.1.isNone then some (row.2, e.2) else none))).length
      = m.flatten.countP (·.isNone) := by
    induction m with
    | nil => exact fun _ => rfl
    | cons l m ih =>
      intro k
      rw [List.zipIdx_cons, List.flatMap_cons, List.length_append, length_badRow, ih, List.flatten_cons, List.countP_append]
  exact h 0

/-! The elements of a tile (R123). -/

/-- Flags that a list raises together. -/
theorem getLsbD_foldl_or {α : Type} (g : α → FFlags) (l : List α) (a : FFlags) (b : Nat) :
    (l.foldl (fun acc x => acc ||| g x) a).getLsbD b = true ↔ a.getLsbD b = true ∨ ∃ x ∈ l, (g x).getLsbD b = true := by
  induction l generalizing a with
  | nil => simp
  | cons x l ih =>
    simp only [List.foldl_cons, ih, BitVec.getLsbD_or, Bool.or_eq_true, List.mem_cons, exists_eq_or_imp, or_assoc]
theorem getLsbD_flags_lanes {α : Type} (g : α → FFlags) (cell : Nat → Nat → α) (b : Nat) :
    ((lanes.map (fun i => lanes.map (cell i))).foldl (fun acc (r : List α) => r.foldl (fun acc c => acc ||| g c) acc) 0).getLsbD b = true ↔
      ∃ i j, i < 16 ∧ j < 16 ∧ (g (cell i j)).getLsbD b = true := by
  have hrows : ∀ (rows : List (List α)) (a : FFlags), (rows.foldl (fun acc r => r.foldl (fun acc c => acc ||| g c) acc) a).getLsbD b = true ↔
      a.getLsbD b = true ∨ ∃ r ∈ rows, ∃ x ∈ r, (g x).getLsbD b = true := fun rows => by
    induction rows with
    | nil => simp
    | cons r rows ih =>
      intro a
      simp only [List.foldl_cons, ih, getLsbD_foldl_or, List.mem_cons, exists_eq_or_imp, or_assoc]
  rw [hrows]
  simp [lanes]

/-- An element of the tile that a product leaves, with its flags. -/
def mmaCell (o : MatOp) (old : Nat → Row) (a b : List (List (Option FVal))) (i j : Nat) : W32 × FFlags :=
  if bits o.mfmt 3 0 = 5 then (mmaInt ((old i).lane j) (a.getD i []) (b.getD j []), 0)
  else mmaFloat (RMode.ofCode o.frm.toNat) ((old i).lane j) (a.getD i []) (b.getD j [])
    (if o.mfmt.getLsbD 12 then scaleExp o.msca i + scaleExp o.mscb j else 0)

theorem mmaTile_eq (o : MatOp) (old : Nat → Row) (a b : List (List (Option FVal))) : mmaTile o old a b =
    ((lanes.map (fun i => lanes.map (mmaCell o old a b i))).map (fun r => Row.ofLanes (fun j => (r.getD j (0, 0)).1)),
      (lanes.map (fun i => lanes.map (mmaCell o old a b i))).foldl (fun acc r => r.foldl (fun acc c => acc ||| c.2) acc) 0) := rfl
theorem lane_mmaTile (o : MatOp) (old : Nat → Row) (a b : List (List (Option FVal))) {i j : Nat} (hi : i < 16) (hj : j < 16) :
    ((mmaTile o old a b).1.getD i 0).lane j = (mmaCell o old a b i j).1 := by
  rw [mmaTile_eq, List.map_map, getD_map_lanes _ _ hi]
  exact (Row.lane_ofLanes _ j hj).trans (congrArg Prod.fst (getD_map_lanes _ _ hj))
theorem getLsbD_mmaTile (o : MatOp) (old : Nat → Row) (a b : List (List (Option FVal))) (n : Nat) :
    (mmaTile o old a b).2.getLsbD n = true ↔ ∃ i j, i < 16 ∧ j < 16 ∧ (mmaCell o old a b i j).2.getLsbD n = true := by
  rw [mmaTile_eq]
  exact getLsbD_flags_lanes Prod.snd _ n

/-! A product at retirement (R121, R123). -/

/-- A thread stands where another does. -/
def SamePlace (x y : Thread) : Prop := y.state = x.state ∧ y.pc = x.pc ∧ y.replay = x.replay
theorem LatchedFrom.samePlace {x y : Thread} (h : LatchedFrom x y) : SamePlace x y := by
  rcases h with rfl | rfl <;> exact ⟨rfl, rfl, rfl⟩

section
variable (s : State) (c : Nat) (o : MatOp) (rows : List Row) (f : FFlags) (bad : List (Nat × Nat × Nat × Nat))

/-- A commit and the pops: what they leave, the rings, and the thread. -/
theorem engineKept_retired : EngineKept c s ((s.matCommit c o rows f bad).matPops c o) :=
  (engineKept_matCommit s c o rows f bad).trans (engineKept_matPops _ c o)
theorem ring_retired (n : Nat) : (((s.matCommit c o rows f bad).matPops c o).core c).ring n =
    if n ∈ ringPair o.ra o.rb ∧ o.pops n ≠ 0 then ((s.core c).ring n).popped else (s.core c).ring n := by
  rw [ring_matPops, ring_matCommit]
theorem thread_retired (ha : s.opAlive c o.slot o.serial = true) :
    ((s.matCommit c o rows f bad).matPops c o).thread ⟨c, o.slot⟩ = (s.thread ⟨c, o.slot⟩).committed o rows f bad := by
  have ht := thread_matCommit s c o rows f bad
  rw [if_pos ha] at ht
  obtain ⟨r, p, cs, hc⟩ := committed_eq (s.thread ⟨c, o.slot⟩) o rows f bad
  exact (ht ▸ latchedFrom_matPops (s.matCommit c o rows f bad) c o o.slot).eq (by rw [hc])
theorem samePlace_retired : SamePlace (s.thread ⟨c, o.slot⟩) (((s.matCommit c o rows f bad).matPops c o).thread ⟨c, o.slot⟩) := by
  have hp := (latchedFrom_matPops (s.matCommit c o rows f bad) c o o.slot).samePlace
  rw [thread_matCommit] at hp
  split at hp
  · obtain ⟨r, p, cs, hc⟩ := committed_eq (s.thread ⟨c, o.slot⟩) o rows f bad
    rw [hc] at hp
    exact hp
  · exact hp
end

/-- What an operation with operands A and B pops (R119). -/
theorem pops_product_iff {o : MatOp} (hk : o.kind = .mma ∨ o.kind = .mchk) (n : Nat) : (n ∈ ringPair o.ra o.rb ∧ o.pops n ≠ 0) ↔
    if o.ra = o.rb then o.ra = n ∧ ¬ (o.keepA = true ∧ o.keepB = true) else (o.ra = n ∧ o.keepA = false) ∨ (o.rb = n ∧ o.keepB = false) := by
  have hp : o.pops n = if o.ra = o.rb then (if o.ra = n ∧ ¬ (o.keepA ∧ o.keepB) then 1 else 0)
      else (if o.ra = n ∧ ¬ o.keepA then 1 else 0) + (if o.rb = n ∧ ¬ o.keepB then 1 else 0) := by
    unfold MatOp.pops
    rcases hk with hk | hk <;> rw [hk]
  rw [hp, ringPair]
  by_cases hr : o.ra = o.rb
  · simp only [if_pos hr, List.mem_singleton]
    by_cases hn : o.ra = n
    · simp [hn]
    · simp [hn]
  · simp only [if_neg hr, List.mem_cons, List.not_mem_nil, or_false]
    by_cases ha : o.ra = n
    · by_cases hb : o.rb = n
      · exact absurd (ha.trans hb.symm) hr
      · simp [ha, hb]
    · by_cases hb : o.rb = n
      · simp [ha, hb]
      · simp [ha, hb, Ne.symm ha, Ne.symm hb]

/-! The oldest operation leaves the queue (R120). -/

/-- Bytes as a number, by both of the model's readings. -/
theorem leNat_eq_leValue (bs : List Byte) : leNat bs = leValue bs := by
  have hf : (fun (b : Byte) acc => acc * 256 + b.toNat) = fun b acc => b.toNat + 256 * acc := by
    funext b acc
    omega
  rw [leNat, hf, leValue]

/-- A core's queue set. -/
def State.dequeue (s : State) (c : Nat) (q : List MatOp) : State := s.updCore c (fun k => { k with matQ := q })
/-- `u` is `s` with the queue of a core at `q`, seen at the cores and the memories. -/
structure Dequeued (c : Nat) (q : List MatOp) (s u : State) : Prop where
  core : u.core c = { s.core c with matQ := q }
  cores : ∀ d, d ≠ c → u.core d = s.core d
  hbm : u.hbm = s.hbm
  weight : u.weight = s.weight

section
variable {s t u : State} {c : Nat} {q : List MatOp}

theorem dequeued (s : State) (c : Nat) (q : List MatOp) : Dequeued c q s (s.dequeue c q) :=
  ⟨by rw [State.dequeue, State.core_updCore, if_pos rfl], fun d hd => by rw [State.dequeue, State.core_updCore, if_neg hd], rfl, rfl⟩
theorem Dequeued.thread (h : Dequeued c q s u) (n : Nat) : u.thread ⟨c, n⟩ = s.thread ⟨c, n⟩ := by
  rw [State.thread, h.core]
  rfl
theorem Dequeued.ring (h : Dequeued c q s u) (n : Nat) : (u.core c).ring n = (s.core c).ring n := by
  rw [h.core]
  rfl
theorem Dequeued.opAlive (h : Dequeued c q s u) (slot serial : Nat) : u.opAlive c slot serial = s.opAlive c slot serial := by
  rw [State.opAlive, h.core]
  rfl
theorem Dequeued.matQ (h : Dequeued c q s u) (g : EngineKept c u t) : (t.core c).matQ = q := by
  rw [g.matQ, h.core]
theorem Dequeued.cores_of (h : Dequeued c q s u) (g : EngineKept c u t) (d : Nat) (hd : d ≠ c) : t.core d = s.core d :=
  (g.cores d hd).trans (h.cores d hd)
theorem Dequeued.mem (h : Dequeued c q s u) (d : Nat) : (u.core d).mem = (s.core d).mem := by
  by_cases hd : d = c
  · subst hd
    rw [h.core]
  · rw [h.cores d hd]
theorem Dequeued.memByte (h : Dequeued c q s u) (g : EngineKept c u t) : ∀ d p, t.memByte d p = s.memByte d p ∨ ∃ e x, p = .remote e x :=
  memByte_of_mem (fun d => (g.mem d).trans (h.mem d)) (g.hbm.trans h.hbm) (g.weight.trans h.weight)
end

/-- What the engine reads of a slot does not depend on the queue. -/
theorem Dequeued.slotBad {s u : State} {c : Nat} {q : List MatOp} (h : Dequeued c q s u) (r : Ring) (i o n : Nat) :
    (u.core c).slotBad r i o n = (s.core c).slotBad r i o n :=
  (congrArg (fun k : Core => k.slotBad r i o n) h.core :)
theorem Dequeued.loadWord {s u : State} {c : Nat} {q : List MatOp} (h : Dequeued c q s u) (r : Ring) (i x y : Nat) :
    leNat ((List.range 4).map (fun b => (u.core c).slotByte r i (x + y + b))) =
      leValue ((s.core c).mem.read (localOff r.base + i * r.slotBytes + x + y) 4) := by
  rw [leNat_eq_leValue, Mem.read]
  refine congrArg leValue (List.map_congr_left fun b _ => ?_)
  rw [Core.slotByte, h.mem, Ring.slotOff, ← Nat.add_assoc, ← Nat.add_assoc]
/-- Operands do not depend on the queue. -/
theorem operand_matQ (k : Core) (q : List MatOp) (r : Ring) (slot fmt : Nat) : ({ k with matQ := q } : Core).operand r slot fmt = k.operand r slot fmt := by
  have he : ∀ n o, ({ k with matQ := q } : Core).e8cBlocks r slot n o = k.e8cBlocks r slot n o := fun n => by
    induction n with
    | zero => exact fun _ => rfl
    | succ n ih =>
      intro o
      have hblock : ({ k with matQ := q } : Core).e8cBlock r slot o = k.e8cBlock r slot o := rfl
      have hlen : ({ k with matQ := q } : Core).e8cLen r slot o = k.e8cLen r slot o := rfl
      rw [e8cBlocks_succ, e8cBlocks_succ, hblock, hlen, ih]
  unfold Core.operand
  rw [he]
  rfl

theorem Dequeued.operand {s u : State} {c : Nat} {q : List MatOp} (h : Dequeued c q s u) (r : Ring) (slot fmt : Nat) :
    (u.core c).operand r slot fmt = (s.core c).operand r slot fmt :=
  (congrArg (fun k : Core => k.operand r slot fmt) h.core).trans (operand_matQ ..)

/-- What the product at the heads of its rings has done when it retires (R121, R123). -/
def ProductMade (c : Nat) (o : MatOp) (q : List MatOp) (s t : State) : Prop :=
  let k := s.core c
  let old := k.thread o.slot
  let ra := k.ring o.ra
  let rb := k.ring o.rb
  let A := k.operand ra ra.head (bits o.mfmt 3 0)
  let B := k.operand rb rb.head (bits o.mfmt 7 4)
  let cell := mmaCell o (fun i => old.row (16 * o.tile + i)) A B
  let pops := fun n => if o.ra = o.rb then o.ra = n ∧ ¬ (o.keepA = true ∧ o.keepB = true)
    else (o.ra = n ∧ o.keepA = false) ∨ (o.rb = n ∧ o.keepB = false)
  (t.core c).matQ = q
    ∧ (s.opAlive c o.slot o.serial = true → TileMade old (t.thread ⟨c, o.slot⟩) o.tile (fun i j => (cell i j).1) (fun i j => (cell i j).2)
      (A.flatten.countP (·.isNone) + B.flatten.countP (·.isNone)))
    ∧ (∀ n, (pops n → ((t.core c).ring n).occ = (k.ring n).occ - 1 ∧ ((t.core c).ring n).head = ((k.ring n).head + 1) % max 1 (k.ring n).count)
      ∧ (¬ pops n → (t.core c).ring n = k.ring n))
    ∧ (∀ c' p, t.memByte c' p = s.memByte c' p ∨ ∃ d x, p = .remote d x) ∧ ∀ c', c' ≠ c → t.core c' = s.core c'

section
variable {s t u : State} {c : Nat} {o : MatOp} {q : List MatOp}

theorem matProduct_made (hu : Dequeued c q s u) (ho : o.tile < 8) (hk : o.kind = .mma ∨ o.kind = .mchk) :
    ProductMade c o q s (u.matProduct c o) := by
  unfold ProductMade State.matProduct
  dsimp only
  simp only [hu.ring, hu.operand]
  generalize (s.core c).operand ((s.core c).ring o.ra) _ _ = A
  generalize (s.core c).operand ((s.core c).ring o.rb) _ _ = B
  have hkept := engineKept_retired u c o
  refine ⟨hu.matQ (hkept _ _ _), fun hal => ?_, fun n => ?_, hu.memByte (hkept _ _ _), hu.cores_of (hkept _ _ _)⟩
  · rw [thread_retired u c o _ _ _ ((hu.opAlive _ _).trans hal), hu.thread]
    have hold : (fun i => ((u.core c).thread o.slot).tileRow o.tile i) = fun i => ((s.core c).thread o.slot).row (16 * o.tile + i) := by
      funext i
      exact congrArg (fun x : Thread => x.tileRow o.tile i) (hu.thread o.slot)
    rw [hold]
    have hlen : ((badElems A).map (fun e : Nat × Nat => (0, o.ra, e.1, e.2)) ++ (badElems B).map (fun e : Nat × Nat => (1, o.rb, e.1, e.2))).length =
        A.flatten.countP (·.isNone) + B.flatten.countP (·.isNone) := by
      rw [List.length_append, List.length_map, List.length_map, length_badElems, length_badElems]
    rw [← hlen]
    exact tileMade_committed (s.thread ⟨c, o.slot⟩) ho (by rfl) _ (fun i j => lane_mmaTile o _ A B) (fun b => getLsbD_mmaTile o _ A B b)
  · rw [ring_retired, hu.ring]
    constructor
    · intro hp
      rw [if_pos ((pops_product_iff hk n).mpr hp)]
      exact ⟨rfl, rfl⟩
    · intro hp
      rw [if_neg (mt (pops_product_iff hk n).mp hp)]
/-- What follows keeps it: counting, and going on. -/
theorem ProductMade.next {v : State} (h : ProductMade c o q s t) (hk : EngineKept c t v) (hr : ∀ n, (v.core c).ring n = (t.core c).ring n)
    (ht : v.thread ⟨c, o.slot⟩ = t.thread ⟨c, o.slot⟩ ∨ v.thread ⟨c, o.slot⟩ = (t.thread ⟨c, o.slot⟩).retire.stepPc) : ProductMade c o q s v := by
  obtain ⟨hq, hal, hp, hm, hc⟩ := h
  refine ⟨hk.matQ.trans hq, fun ha => ?_, fun n => ?_, fun d p => ?_, fun d hd => (hk.cores d hd).trans (hc d hd)⟩
  · rcases ht with ht | ht
    · exact ht ▸ hal ha
    · exact ht ▸ (hal ha).advance
  · rw [hr]
    exact hp n
  · rcases hk.memByte d p with h1 | h1
    · exact (hm d p).imp_left h1.trans
    · exact .inr h1
end

/-! The check (R124). -/

theorem waitsCheck_iff (s : State) (t : ThreadId) (id : Nat) : s.waitsCheck t id = true ↔ ∃ l, (s.thread t).state = .blocked (.check id) l := by
  unfold State.waitsCheck
  split
  · next i l h => simp [h]
  · next h =>
    refine ⟨fun h => absurd h Bool.false_ne_true, ?_⟩
    rintro ⟨l, hl⟩
    exact absurd hl (h id l)
/-- How many mismatches a check meets, and the state in which its product is then made. -/
def State.mismatches (s : State) (c : Nat) (o : MatOp) : Nat := if s.checksMade c o then Config.checkMismatch s.freeCount else 0
def State.rerun (s : State) (n : Nat) : State := if n = 0 then s.fresh else s.fresh.addRerun
theorem matCheckDone_eq (s : State) (c : Nat) (o : MatOp) : s.matCheckDone c o =
    let u := s.rerun (s.mismatches c o)
    if s.mismatches c o < 2 then
      if (u.matProduct c o).waitsCheck ⟨c, o.slot⟩ o.id then (u.matProduct c o).asThread ⟨c, o.slot⟩ State.advance else u.matProduct c o
    else if u.waitsCheck ⟨c, o.slot⟩ o.id then u.trapAt ⟨c, o.slot⟩ 9 (BitVec.ofNat 64 o.tile) else u := rfl
theorem Dequeued.rerun {s u : State} {c : Nat} {q : List MatOp} (h : Dequeued c q s u) (n : Nat) : Dequeued c q s (u.rerun n) := by
  unfold State.rerun
  split
  · exact ⟨h.core, h.cores, h.hbm, h.weight⟩
  · exact ⟨h.core, h.cores, h.hbm, h.weight⟩
theorem Dequeued.checksMade {s u : State} {c : Nat} {q : List MatOp} (h : Dequeued c q s u) (o : MatOp) : u.checksMade c o = s.checksMade c o := by
  unfold State.checksMade
  dsimp only
  rw [h.operand, h.operand, h.ring, h.ring]

/-! Pairs of rows and columns. -/

/-- Pairs that a test finds among 16 columns of `n` rows. -/
theorem length_flatMap_lanes {α : Type} (p : Nat → Nat → Bool) (g : Nat → Nat → α) (n : Nat) :
    ((List.range n).flatMap (fun i => (lanes.filter (p i)).map (g i))).length = (List.range (16 * n)).countP (fun x => p (x / 16) (x % 16)) := by
  induction n with
  | zero => rfl
  | succ n ih =>
    have hrow : ((List.range 16).map (16 * n + ·)).countP (fun x => p (x / 16) (x % 16)) = lanes.countP (p n) := by
      rw [List.countP_map]
      refine List.countP_congr fun j hj => ?_
      have := List.mem_range.mp hj
      simp only [Function.comp_apply, (by omega : (16 * n + j) / 16 = n), (by omega : (16 * n + j) % 16 = j)]
    rw [List.range_succ, List.flatMap_append, List.length_append, ih, Nat.mul_succ, List.range_add, List.countP_append, hrow,
      List.flatMap_singleton, List.length_map, ← List.countP_eq_length_filter]

/-! Retirement, kind by kind. -/

/-- What the operation that completes does, by its kind. -/
def State.matRetire (s : State) (c : Nat) (o : MatOp) : State :=
  match o.kind with
  | .mma => (s.matProduct c o).hpm c 0x13 1
  | .mchk => s.matCheckDone c o
  | .mzero => s.matCommit c o (List.replicate 16 0) 0 []
  | .mld => s.matLoad c o
  | .mst => s.matStore c o

section
variable {s : State} {c : Nat} {o : MatOp} {q : List MatOp} (hq : (s.core c).matQ = o :: q)
include hq

/-- The oldest operation leaves the queue and takes its effect. -/
theorem exec_matOpRetire : exec (.matOpRetire c) s = .next ((s.dequeue c q).matRetire c o) := by
  refine Eq.trans (b := execMatOpRetire c s) rfl ?_
  unfold execMatOpRetire
  rw [hq]
  rfl

theorem mma_retires (ho : o.tile < 8) (hk : o.kind = .mma) : ∃ t, exec (.matOpRetire c) s = .next t ∧ ProductMade c o q s t := by
  refine ⟨_, exec_matOpRetire hq, ?_⟩
  rw [State.matRetire, hk]
  refine (matProduct_made (dequeued s c q) ho (.inl hk)).next (engineKept_hpm _ c 0x13 1) (fun n => ring_hpm _ c n 0x13 1) (.inl ?_)
  exact State.thread_hpm _ c 0x13 1 _
theorem mzero_retires (ho : o.tile < 8) (hk : o.kind = .mzero) : ∃ t, exec (.matOpRetire c) s = .next t ∧ (t.core c).matQ = q
    ∧ (s.opAlive c o.slot o.serial = true → TileMade (s.thread ⟨c, o.slot⟩) (t.thread ⟨c, o.slot⟩) o.tile (fun _ _ => 0) (fun _ _ => 0) 0)
    ∧ ∀ n, (t.core c).ring n = (s.core c).ring n := by
  have hu := dequeued s c q
  refine ⟨_, exec_matOpRetire hq, ?_⟩
  rw [State.matRetire, hk]
  refine ⟨hu.matQ (engineKept_matCommit _ c o _ _ _), fun ha => ?_, fun n => ?_⟩
  · have ht := thread_matCommit (s.dequeue c q) c o (List.replicate 16 0) 0 []
    rw [if_pos ((hu.opAlive _ _).trans ha), hu.thread] at ht
    rw [ht]
    refine tileMade_committed (s.thread ⟨c, o.slot⟩) ho List.length_replicate [] (fun i j hi _ => ?_) (fun b => ?_)
    · rw [List.getD_replicate (0 : Row) hi]
      simp [Row.lane]
    · simp
  · rw [ring_matCommit, hu.ring]

/-- MLD: the words of the head slot, and the pop of that slot (R125). -/
theorem mld_retires (ho : o.tile < 8) (hk : o.kind = .mld) : ∃ t, exec (.matOpRetire c) s = .next t ∧ (t.core c).matQ = q
    ∧ (let k := s.core c
       let ra := k.ring o.ra
       let at' := fun i j => localOff ra.base + ra.head * ra.slotBytes + 64 * i + 4 * j
       let bad := fun i j => k.slotBad ra ra.head (64 * i + 4 * j) 4
       s.opAlive c o.slot o.serial = true → TileMade (s.thread ⟨c, o.slot⟩) (t.thread ⟨c, o.slot⟩) o.tile
        (fun i j => if bad i j then 0 else BitVec.ofNat 32 (leValue (k.mem.read (at' i j) 4))) (fun _ _ => 0)
        ((List.range 256).countP (fun x => bad (x / 16) (x % 16))))
    ∧ (((t.core c).ring o.ra).occ = ((s.core c).ring o.ra).occ - 1
      ∧ ((t.core c).ring o.ra).head = (((s.core c).ring o.ra).head + 1) % max 1 ((s.core c).ring o.ra).count)
    ∧ ∀ n, n ≠ o.ra → (t.core c).ring n = (s.core c).ring n := by
  have hu := dequeued s c q
  have hpops : ∀ n, (n ∈ ringPair o.ra o.rb ∧ o.pops n ≠ 0) ↔ n = o.ra := fun n => by
    have hp : o.pops n = if o.ra = n then 1 else 0 := by
      unfold MatOp.pops
      rw [hk]
    have hmem : o.ra ∈ ringPair o.ra o.rb := by
      unfold ringPair
      split <;> simp
    rw [hp]
    by_cases hn : n = o.ra
    · subst hn
      simp [hmem]
    · simp [hn, Ne.symm hn]
  refine ⟨_, exec_matOpRetire hq, ?_⟩
  rw [State.matRetire, hk]
  unfold State.matLoad
  dsimp only
  refine ⟨hu.matQ (engineKept_retired _ c o _ _ _), fun ha => ?_, ?_, fun n hn => ?_⟩
  · rw [thread_retired _ c o _ _ _ ((hu.opAlive _ _).trans ha), hu.thread]
    simp only [hu.ring, hu.slotBad, hu.loadWord]
    rw [← length_flatMap_lanes (fun i j => (s.core c).slotBad ((s.core c).ring o.ra) ((s.core c).ring o.ra).head (64 * i + 4 * j) 4)
      (fun i j => (0, o.ra, i, j)) 16]
    refine tileMade_committed (s.thread ⟨c, o.slot⟩) ho (by rfl) _ (fun i j hi hj => ?_) (fun b => by simp)
    rw [getD_map_lanes _ _ hi, Row.lane_ofLanes _ _ hj]
  · rw [ring_retired, if_pos ((hpops _).mpr rfl), hu.ring]
    exact ⟨rfl, rfl⟩
  · rw [ring_retired, if_neg (mt (hpops n).mp hn), hu.ring]

/-- MCHK: the product, unless the check fails twice (R124). -/
theorem mchk_retires (ho : o.tile < 8) (hk : o.kind = .mchk) : ∃ t n, exec (.matOpRetire c) s = .next t
    ∧ (n < 2 → ProductMade c o q s t) ∧ (s.checksMade c o = false → n = 0)
    ∧ (∀ w l, (s.thread ⟨c, o.slot⟩).state = .blocked (.check o.id) l → n < 2 → w = t.thread ⟨c, o.slot⟩ →
        w.state = .ready ∧ ((s.thread ⟨c, o.slot⟩).replay = none → w.pc = (s.thread ⟨c, o.slot⟩).pc + 4))
    ∧ (∀ l, (s.thread ⟨c, o.slot⟩).state = .blocked (.check o.id) l → 2 ≤ n →
        ∃ u : State, t = u.trapAt ⟨c, o.slot⟩ 9 (BitVec.ofNat 64 o.tile) ∧ u.thread ⟨c, o.slot⟩ = s.thread ⟨c, o.slot⟩) := by
  have hu := (dequeued s c q).rerun
  have hchk : (s.dequeue c q).mismatches c o = if s.checksMade c o then Config.checkMismatch s.freeCount else 0 := by
    rw [State.mismatches, (dequeued s c q).checksMade]
    rfl
  refine ⟨_, (s.dequeue c q).mismatches c o, exec_matOpRetire hq, ?_⟩
  rw [State.matRetire, hk]
  dsimp only
  rw [matCheckDone_eq]
  generalize (s.dequeue c q).mismatches c o = n at *
  have hu : Dequeued c q s ((s.dequeue c q).rerun n) := hu n
  generalize (s.dequeue c q).rerun n = u at *
  have hmade := matProduct_made hu ho (.inr hk)
  have hplace : SamePlace (s.thread ⟨c, o.slot⟩) ((u.matProduct c o).thread ⟨c, o.slot⟩) := hu.thread o.slot ▸ samePlace_retired u c o _ _ _
  refine ⟨fun hn => ?_, fun hc => by rw [hchk, hc]; rfl, ?_, fun l hl hn => ?_⟩
  · rw [if_pos hn]
    split
    · exact hmade.next (engineKept_advance _ c o.slot) (fun m => ring_advance _ c m o.slot) (.inr (thread_advance _ _))
    · exact hmade
  · rintro _ l hl hn rfl
    rw [if_pos hn, if_pos ((waitsCheck_iff _ _ _).mpr ⟨l, hplace.1.trans hl⟩), thread_advance]
    refine ⟨Thread.stepPc_state _, fun hr => ?_⟩
    obtain ⟨hpc, -⟩ := Thread.stepPc_behind ((u.matProduct c o).thread ⟨c, o.slot⟩).retire (hplace.2.2.trans hr)
    exact hpc.trans (congrArg (· + 4) hplace.2.1)
  · rw [if_neg (not_lt.mpr hn), if_pos ((waitsCheck_iff _ _ _).mpr ⟨l, by rw [hu.thread, hl]⟩)]
    exact ⟨u, rfl, hu.thread o.slot⟩
end

end Sys2Proof.Machine
end

section
/-! SUPPORT. The store of a tile (R125), and the MAT instructions together. -/

namespace Sys2Proof.Machine

open Sys2Proof Sys2Proof.Safety

/-! Bytes written (R125). -/

/-- Read after write of some bytes. -/
theorem Mem.byte_write (bs : List Byte) (m : Mem) (a x : Nat) (h : m.wf = true) :
    (m.write a bs).byte x = if a ≤ x ∧ x < a + bs.length then bs.getD (x - a) 0 else m.byte x := by
  induction bs generalizing m a with
  | nil => rw [Mem.write, if_neg (by rw [List.length_nil]; omega)]
  | cons b bs ih =>
    rw [Mem.write, ih _ _ (Mem.wf_setByte m a b h), Mem.byte_setByte m a x b h, List.length_cons]
    rcases lt_trichotomy x a with hx | hx | hx
    · rw [if_neg (by omega), if_neg (by omega), if_neg (by omega)]
    · rw [if_neg (by omega), if_pos hx, if_pos (by omega), hx, Nat.sub_self]
      rfl
    · by_cases h2 : x < a + (bs.length + 1)
      · rw [if_pos (by omega), if_pos (by omega), (by omega : x - a = x - (a + 1) + 1)]
        rfl
      · rw [if_neg (by omega), if_neg (by omega), if_neg (by omega)]
/-- Rows of 64 bytes one behind the other, as far as a slot goes. -/
def storeRows {α : Type} (g : α → List Byte) (base size : Nat) (m : Mem) (rows : List (α × Nat)) : Mem :=
  rows.foldl (fun m row => m.write (base + 64 * row.2) ((g row.1).take (size - 64 * row.2))) m
theorem byte_storeRows {α : Type} {g : α → List Byte} (base size x : Nat) (rows : List α) (hg : ∀ r ∈ rows, (g r).length = 64) (k : Nat)
    (m : Mem) (h : m.wf = true) : (storeRows g base size m (rows.zipIdx k)).byte x =
      if base ≤ x ∧ x - base < size ∧ k ≤ (x - base) / 64 ∧ (x - base) / 64 < k + rows.length
      then ((rows.map g).getD ((x - base) / 64 - k) []).getD ((x - base) % 64) 0 else m.byte x := by
  induction rows generalizing k m with
  | nil =>
    rw [if_neg (by rw [List.length_nil]; omega)]
    rfl
  | cons r rows ih =>
    have hlen : ((g r).take (size - 64 * k)).length = min (size - 64 * k) 64 := by rw [List.length_take, hg r (List.mem_cons_self ..)]
    have hstep : storeRows g base size m ((r :: rows).zipIdx k) =
        storeRows g base size (m.write (base + 64 * k) ((g r).take (size - 64 * k))) (rows.zipIdx (k + 1)) := rfl
    rw [hstep, ih (fun r hr => hg r (List.mem_cons_of_mem _ hr)) (k + 1) _ (Mem.wf_write _ _ _ h), Mem.byte_write _ _ _ _ h, hlen, List.length_cons]
    by_cases hb : base ≤ x ∧ x - base < size
    · obtain ⟨hb, hsize⟩ := hb
      rcases lt_trichotomy ((x - base) / 64) k with hi | hi | hi
      · rw [if_neg (by omega), if_neg (by omega), if_neg (by omega)]
      · rw [if_neg (by omega), if_pos (by omega), if_pos (by omega), hi, Nat.sub_self, List.map_cons, List.getD_cons_zero,
          (by omega : x - (base + 64 * k) = (x - base) % 64), List.getD_eq_getElem?_getD, List.getElem?_take_of_lt (by omega),
          List.getD_eq_getElem?_getD]
      · by_cases h2 : (x - base) / 64 < k + (rows.length + 1)
        · rw [if_pos (by omega), if_pos (by omega), (by omega : (x - base) / 64 - k = (x - base) / 64 - (k + 1) + 1), List.map_cons,
            List.getD_cons_succ]
        · rw [if_neg (by omega), if_neg (by omega), if_neg (by omega)]
    · rw [if_neg (by omega), if_neg (by omega), if_neg (by omega)]

/-! A tile stored (R125). -/

theorem mstLane_length (out : Nat) (mode : RMode) (x : W32) : (mstLane out mode x).1.length ≤ 4 := by
  have hle : ∀ n v, (leBytes n v).length = n := fun n v => by rw [leBytes, List.length_map, List.length_range]
  unfold mstLane
  repeat' split
  all_goals simp [hle, w32Bytes]
/-- The bytes of a converted row, filled up to 64. -/
def storedRow (row : List (List Byte × FFlags)) : List Byte :=
  row.flatMap (·.1) ++ List.replicate (64 - (row.flatMap (·.1)).length) 0
theorem getD_storedRow (row : List (List Byte × FFlags)) (b : Nat) : (storedRow row).getD b 0 = ((row.map (·.1)).flatten).getD b 0 := by
  rw [storedRow, ← List.flatMap_def]
  by_cases hb : b < (row.flatMap (·.1)).length
  · exact List.getD_append _ _ _ _ hb
  · rw [List.getD_append_right _ _ _ _ (not_lt.mp hb), List.getD_eq_default _ _ (not_lt.mp hb), List.getD_eq_getElem?_getD,
      List.getElem?_getD_replicate_default_eq]
theorem length_storedRow {row : List (List Byte × FFlags)} (hl : row.length = 16) (h : ∀ x ∈ row, x.1.length ≤ 4) : (storedRow row).length = 64 := by
  have hle : (row.flatMap (·.1)).length ≤ 64 := by
    rw [List.length_flatMap]
    refine (List.sum_le_card_nsmul _ 4 ?_).trans ?_
    · intro n hn
      obtain ⟨x, hx, rfl⟩ := List.mem_map.mp hn
      exact h x hx
    · rw [List.length_map, hl]
      decide
  rw [storedRow, List.length_append, List.length_replicate]
  omega

/-- The rows written to the tail slot, and what that leaves of a core. -/
def State.storeTile (s : State) (c : Nat) (r : Ring) (rows : List (List (List Byte × FFlags))) : State :=
  rows.zipIdx.foldl (fun s row =>
    s.writeAt c (.loc (r.slotOff r.tail + 64 * row.2)) ((storedRow row.1).take (r.slotBytes - 64 * row.2))) s
def memless (k : Core) : Core := { k with mem := [], eccBad := [] }
theorem ring_of_memless {k j : Core} (h : memless j = memless k) (n : Nat) : j.ring n = k.ring n :=
  (congrArg (fun k : Core => k.rings.get Ring.reset n) h :)
theorem thread_of_memless {k j : Core} (h : memless j = memless k) (n : Nat) : j.thread n = k.thread n :=
  (congrArg (fun k : Core => k.threads.get Thread.reset n) h :)
theorem matQ_of_memless {k j : Core} (h : memless j = memless k) : j.matQ = k.matQ := (congrArg (fun k : Core => k.matQ) h :)

section
variable (s : State) (c : Nat) (r : Ring) (rows : List (List (List Byte × FFlags)))

theorem storeTile_mem : ((s.storeTile c r rows).core c).mem = storeRows storedRow (r.slotOff r.tail) r.slotBytes (s.core c).mem rows.zipIdx := by
  refine (List.foldl_hom (fun u : State => (u.core c).mem) fun u row => ?_).symm
  rw [State.writeAt, State.core_updCore, if_pos rfl]
theorem storeTile_rest : memless ((s.storeTile c r rows).core c) = memless (s.core c) := by
  unfold State.storeTile
  refine foldl_keeps (P := fun u : State => memless (u.core c) = memless (s.core c)) (fun u row _ h => ?_) s rfl
  rw [State.writeAt, State.core_updCore, if_pos rfl]
  exact h
end

/-- The model's store, by those parts. -/
def mstCell (s : State) (c : Nat) (o : MatOp) (i j : Nat) : List Byte × FFlags :=
  mstLane (bits o.mfmt 11 8) (RMode.ofCode o.frm.toNat) ((((s.core c).thread o.slot).tileRow o.tile i).lane j)
def mstCells (s : State) (c : Nat) (o : MatOp) : List (List (List Byte × FFlags)) := lanes.map (fun i => lanes.map (mstCell s c o i))
def mstFlags (s : State) (c : Nat) (o : MatOp) : FFlags := (mstCells s c o).foldl (fun acc row => row.foldl (fun acc x => acc ||| x.2) acc) 0
def State.storedTile (s : State) (c : Nat) (o : MatOp) : State := (s.storeTile c ((s.core c).ring o.ra) (mstCells s c o)).pushSlots c o.ra 1
theorem matStore_eq (s : State) (c : Nat) (o : MatOp) : s.matStore c o =
    if (s.storedTile c o).opAlive c o.slot o.serial then ((s.storedTile c o).accrueAt ⟨c, o.slot⟩ (mstFlags s c o)).latchThread ⟨c, o.slot⟩
    else s.storedTile c o := rfl

theorem engineKept_pushSlot (s : State) (c n : Nat) : EngineKept c s (s.pushSlots c n 1) := by
  have hr : EngineKept c s (s.updRing c n (fun r => { r with tail := (r.tail + 1) % max 1 r.count, occ := r.occ + 1 })) :=
    engineKept_updCore (f := fun k => k.setRing n _) (fun _ => rfl) s
  unfold State.pushSlots
  dsimp only
  split
  · exact hr.trans (engineKept_latchAll _ c)
  · exact hr
theorem opAlive_of_born {s t : State} {c slot : Nat} (h : (t.thread ⟨c, slot⟩).born = (s.thread ⟨c, slot⟩).born) (serial : Nat) :
    t.opAlive c slot serial = s.opAlive c slot serial := congrArg (fun n => decide (n ≤ serial)) h

section
variable (s : State) (c : Nat) (o : MatOp)

theorem engineKept_matStore : EngineKept c (s.storeTile c ((s.core c).ring o.ra) (mstCells s c o)) (s.matStore c o) := by
  have hp : EngineKept c (s.storeTile c ((s.core c).ring o.ra) (mstCells s c o)) (s.storedTile c o) := engineKept_pushSlot _ c o.ra
  rw [matStore_eq]
  split
  · exact (hp.trans (engineKept_accrueAt _ c o.slot _)).trans (engineKept_updThread _ c o.slot _)
  · exact hp
theorem ring_storedTile (n : Nat) : ((s.storedTile c o).core c).ring n = if n = o.ra then ((s.core c).ring o.ra).pushed else (s.core c).ring n := by
  have hr : ∀ n, ((s.storeTile c ((s.core c).ring o.ra) (mstCells s c o)).core c).ring n = (s.core c).ring n := fun n =>
    ring_of_memless (storeTile_rest s c _ _) n
  rw [State.storedTile, ring_pushSlot, hr, hr]
theorem ring_matStore (n : Nat) : ((s.matStore c o).core c).ring n = if n = o.ra then ((s.core c).ring o.ra).pushed else (s.core c).ring n := by
  rw [matStore_eq, ← ring_storedTile]
  split
  · rw [State.latchThread, ring_updThread, ring_accrueAt]
  · rfl
theorem latchedFrom_storedTile (n : Nat) : LatchedFrom (s.thread ⟨c, n⟩) ((s.storedTile c o).thread ⟨c, n⟩) := by
  have ht : (s.storeTile c ((s.core c).ring o.ra) (mstCells s c o)).thread ⟨c, n⟩ = s.thread ⟨c, n⟩ :=
    thread_of_memless (storeTile_rest s c _ _) n
  have hp := latchedFrom_pushSlots (s.storeTile c ((s.core c).ring o.ra) (mstCells s c o)) c o.ra 1 n
  rwa [ht] at hp
/-- The operation's thread has its flags and its latch. -/
theorem thread_matStore (ha : s.opAlive c o.slot o.serial = true) : ((s.matStore c o).thread ⟨c, o.slot⟩).latch = true
    ∧ ∀ b, b < 5 → ((((s.matStore c o).thread ⟨c, o.slot⟩).csr 0x011).getLsbD b = true ↔
      ((s.thread ⟨c, o.slot⟩).csr 0x011).getLsbD b = true ∨ ∃ i j, i < 16 ∧ j < 16 ∧ (mstCell s c o i j).2.getLsbD b = true) := by
  obtain ⟨hborn, hcsr⟩ : ((s.storedTile c o).thread ⟨c, o.slot⟩).born = (s.thread ⟨c, o.slot⟩).born
      ∧ ((s.storedTile c o).thread ⟨c, o.slot⟩).csr 0x011 = (s.thread ⟨c, o.slot⟩).csr 0x011 := by
    rcases latchedFrom_storedTile s c o o.slot with hl | hl
    · rw [hl]
      exact ⟨rfl, rfl⟩
    · rw [hl]
      exact ⟨rfl, rfl⟩
  have ht : (s.matStore c o).thread ⟨c, o.slot⟩ = { ((s.storedTile c o).thread ⟨c, o.slot⟩).raised (mstFlags s c o) with latch := true } := by
    rw [matStore_eq, if_pos ((opAlive_of_born hborn _).trans ha), State.latchThread, State.thread_updThread, if_pos rfl, thread_accrueAt]
  rw [ht]
  refine ⟨rfl, fun b hb => (getLsbD_raised _ _ hb).trans ?_⟩
  rw [hcsr, mstFlags, mstCells, getLsbD_flags_lanes Prod.snd]
/-- The bytes of the tail slot, as far as it goes, and no other bytes. -/
theorem byte_matStore (hw : (s.core c).mem.wf = true) {r : Ring} (hr : (s.core c).ring o.ra = r) {base : Nat} (hbase : r.slotOff r.tail = base)
    (x : Nat) : ((s.matStore c o).core c).mem.byte x = if base ≤ x ∧ x - base < r.slotBytes ∧ (x - base) / 64 < 16
      then (((List.range 16).map (fun j => (mstCell s c o ((x - base) / 64) j).1)).flatten).getD ((x - base) % 64) 0
      else (s.core c).mem.byte x := by
  have hlen : ∀ row ∈ mstCells s c o, (storedRow row).length = 64 := fun row hrow => by
    obtain ⟨i, -, rfl⟩ := List.mem_map.mp hrow
    refine length_storedRow (by rfl) fun y hy => ?_
    obtain ⟨j, -, rfl⟩ := List.mem_map.mp hy
    exact mstLane_length ..
  rw [(engineKept_matStore s c o).mem, storeTile_mem, hr, hbase, byte_storeRows base r.slotBytes x _ hlen 0 _ hw]
  have hl : (mstCells s c o).length = 16 := rfl
  rw [hl, Nat.zero_add, Nat.sub_zero]
  by_cases h : base ≤ x ∧ x - base < r.slotBytes ∧ (x - base) / 64 < 16
  · obtain ⟨hb, hsize, hi⟩ := h
    rw [if_pos ⟨hb, hsize, Nat.zero_le _, hi⟩, if_pos ⟨hb, hsize, hi⟩, mstCells, List.map_map, getD_map_lanes _ _ hi]
    refine (getD_storedRow _ _).trans ?_
    rw [List.map_map]
    rfl
  · rw [if_neg h, if_neg fun hc => h ⟨hc.1, hc.2.1, hc.2.2.2⟩]
end

theorem memByte_loc (s : State) (c x : Nat) : s.memByte c (.loc x) = (s.core c).mem.byte x := rfl

/-- MST: the converted tile into the tail slot, which is pushed (R125). -/
theorem mst_retires {s : State} {c : Nat} {o : MatOp} {q : List MatOp} (hq : (s.core c).matQ = o :: q) (hk : o.kind = .mst)
    (hmem : MemOk s) : ∃ t, exec (.matOpRetire c) s = .next t ∧ (t.core c).matQ = q
    ∧ (let k := s.core c
       let old := k.thread o.slot
       let ra := k.ring o.ra
       let lane := fun i j => mstLane (bits o.mfmt 11 8) (RMode.ofCode o.frm.toNat) ((old.row (16 * o.tile + i)).lane j)
       let bytes := fun i => ((List.range 16).map (fun j => (lane i j).1)).flatten
       let base := localOff ra.base + ra.tail * ra.slotBytes
       (∀ i b, i < 16 → b < 64 → 64 * i + b < ra.slotBytes →
          t.memByte c (.loc (base + 64 * i + b)) = (bytes i).getD b 0)
       ∧ (∀ x, ¬ (base ≤ x ∧ x < base + min 1024 ra.slotBytes) → t.memByte c (.loc x) = s.memByte c (.loc x))
       ∧ (s.opAlive c o.slot o.serial = true → (t.thread ⟨c, o.slot⟩).latch = true ∧ ∀ b, b < 5 → (((t.thread ⟨c, o.slot⟩).csr 0x011).getLsbD b = true ↔
          (old.csr 0x011).getLsbD b = true ∨ ∃ i j, i < 16 ∧ j < 16 ∧ (lane i j).2.getLsbD b = true)))
    ∧ ((t.core c).ring o.ra).occ = ((s.core c).ring o.ra).occ + 1
    ∧ ((t.core c).ring o.ra).tail = (((s.core c).ring o.ra).tail + 1) % max 1 ((s.core c).ring o.ra).count
    ∧ ∀ n, n ≠ o.ra → (t.core c).ring n = (s.core c).ring n := by
  have hu := dequeued s c q
  have hcell : mstCell (s.dequeue c q) c o = mstCell s c o := by
    funext i j
    exact congrArg (fun x : Thread => mstLane (bits o.mfmt 11 8) (RMode.ofCode o.frm.toNat) ((x.tileRow o.tile i).lane j)) (hu.thread o.slot)
  have hwf : ((s.dequeue c q).core c).mem.wf = true := by
    rw [hu.mem]
    exact hmem.2.2.1 c
  have hbyte := byte_matStore (s.dequeue c q) c o hwf (hu.ring o.ra) rfl
  rw [hcell, hu.mem] at hbyte
  rw [Ring.slotOff] at hbyte
  have hq' : (((s.dequeue c q).matStore c o).core c).matQ = q := by
    rw [(engineKept_matStore (s.dequeue c q) c o).matQ]
    rw [matQ_of_memless (storeTile_rest (s.dequeue c q) c _ _), hu.core]
  have hring := fun n => ring_matStore (s.dequeue c q) c o n
  simp only [hu.ring] at hring
  have hthread := fun ha => thread_matStore (s.dequeue c q) c o ((hu.opAlive _ _).trans ha)
  rw [hu.thread, hcell] at hthread
  have hret : (s.dequeue c q).matRetire c o = (s.dequeue c q).matStore c o := by rw [State.matRetire, hk]
  refine ⟨_, (exec_matOpRetire hq).trans (congrArg _ hret), ?_⟩
  generalize (s.dequeue c q).matStore c o = t at *
  refine ⟨hq', ⟨fun i b hi hb hs => ?_, fun x hx => ?_, hthread⟩, ?_, ?_, fun n hn => ?_⟩
  · rw [memByte_loc, hbyte, if_pos ⟨by omega, by omega, by omega⟩, Nat.add_assoc, Nat.add_sub_cancel_left, (by omega : (64 * i + b) / 64 = i),
      (by omega : (64 * i + b) % 64 = b)]
    rfl
  · rw [memByte_loc, memByte_loc, hbyte, if_neg ?_]
    rintro ⟨hb, hs, hi⟩
    exact hx ⟨hb, by omega⟩
  · rw [hring, if_pos rfl]
    rfl
  · rw [hring, if_pos rfl]
    rfl
  · rw [hring, if_neg hn]

/-- Settles O30: acceptance goes on or waits, each kind of operation takes its effect at retirement, and the arithmetic and the elements are
those of the exact sum and of the slot's bytes. -/
theorem matrixInstructions : Obligations.MatrixInstructions := by
  unfold Obligations.MatrixInstructions
  refine ⟨?_, ?_, mmaElements, operandElements⟩
  · intro d a b ka kb s x y hr hq
    exact matAccepted hr hq d a b ka kb
  · intro c o q s hq ho
    exact ⟨mzero_retires hq ho, mma_retires hq ho, mchk_retires hq ho, mld_retires hq ho, mst_retires hq⟩

end Sys2Proof.Machine
end

section
/-! SUPPORT. Decoding after encoding, over the whole table of operations (R42, R44, R45, R50-R53). -/

namespace Sys2Proof.Laws

/-- Every row of the table comes back from its word; the rows without a word have nothing to decode. -/
theorem roundTrip (i : Instr) : RoundTrip.Statement i := by
  cases i with
  -- ALU, R71
  | add d a b => exact RoundTrip.add d a b | sub d a b => exact RoundTrip.sub d a b | and d a b => exact RoundTrip.and d a b
  | or d a b => exact RoundTrip.or d a b | xor d a b => exact RoundTrip.xor d a b | sll d a b => exact RoundTrip.sll d a b
  | srl d a b => exact RoundTrip.srl d a b | sra d a b => exact RoundTrip.sra d a b | slt d a b => exact RoundTrip.slt d a b
  | sltu d a b => exact RoundTrip.sltu d a b | seq d a b => exact RoundTrip.seq d a b | min d a b => exact RoundTrip.min d a b
  | max d a b => exact RoundTrip.max d a b | minu d a b => exact RoundTrip.minu d a b | maxu d a b => exact RoundTrip.maxu d a b
  | andn d a b => exact RoundTrip.andn d a b
  -- immediates, R72
  | addi d a imm => exact RoundTrip.addi d a imm | andi d a imm => exact RoundTrip.andi d a imm | ori d a imm => exact RoundTrip.ori d a imm
  | xori d a imm => exact RoundTrip.xori d a imm | slli d a sh => exact RoundTrip.slli d a sh | srli d a sh => exact RoundTrip.srli d a sh
  | srai d a sh => exact RoundTrip.srai d a sh | slti d a imm => exact RoundTrip.slti d a imm
  | sltiu d a imm => exact RoundTrip.sltiu d a imm
  -- MULDIV, R71
  | mul d a b => exact RoundTrip.mul d a b | mulh d a b => exact RoundTrip.mulh d a b | mulhu d a b => exact RoundTrip.mulhu d a b
  | div d a b => exact RoundTrip.div d a b | divu d a b => exact RoundTrip.divu d a b | rem d a b => exact RoundTrip.rem d a b
  | remu d a b => exact RoundTrip.remu d a b
  -- upper immediates, R73
  | lup d imm => exact RoundTrip.lup d imm | aupc d imm => exact RoundTrip.aupc d imm
  -- BITS, R71
  | clz d a => exact RoundTrip.clz d a | ctz d a => exact RoundTrip.ctz d a | popc d a => exact RoundTrip.popc d a
  | brev d a => exact RoundTrip.brev d a | sextb d a => exact RoundTrip.sextb d a | sexth d a => exact RoundTrip.sexth d a
  | sextw d a => exact RoundTrip.sextw d a | zextw d a => exact RoundTrip.zextw d a
  -- scalar floating point, R74
  | fadd d a b => exact RoundTrip.fadd d a b | fsub d a b => exact RoundTrip.fsub d a b | fmul d a b => exact RoundTrip.fmul d a b
  | fdiv d a b => exact RoundTrip.fdiv d a b | fmin d a b => exact RoundTrip.fmin d a b | fmax d a b => exact RoundTrip.fmax d a b
  | feq d a b => exact RoundTrip.feq d a b | flt d a b => exact RoundTrip.flt d a b | fle d a b => exact RoundTrip.fle d a b
  | fcvtif d a => exact RoundTrip.fcvtif d a | fcvtfi d a => exact RoundTrip.fcvtfi d a | fsqrt d a => exact RoundTrip.fsqrt d a
  | fma d a b => exact RoundTrip.fma d a b | fclass d a => exact RoundTrip.fclass d a
  -- branches, R75-R78
  | beq a b off => exact RoundTrip.beq a b off | bne a b off => exact RoundTrip.bne a b off | blt a b off => exact RoundTrip.blt a b off
  | bge a b off => exact RoundTrip.bge a b off | bltu a b off => exact RoundTrip.bltu a b off | bgeu a b off => exact RoundTrip.bgeu a b off
  | bmany m off => exact RoundTrip.bmany m off | bmnone m off => exact RoundTrip.bmnone m off | bmall m off => exact RoundTrip.bmall m off
  | jmp off => exact RoundTrip.jmp off | call off => exact RoundTrip.call off | jr a => exact RoundTrip.jr a
  | callr a => exact RoundTrip.callr a
  -- memory, R137-R143
  | ld d a off sz sx => exact RoundTrip.ld d a off sz sx | st d a off sz => exact RoundTrip.st d a off sz
  | lda d a sc sz => exact RoundTrip.lda d a sc sz | str a b sc sz => exact RoundTrip.str a b sc sz
  | aadd d a b sc sz o => exact RoundTrip.aadd d a b sc sz o | aand d a b sc sz o => exact RoundTrip.aand d a b sc sz o
  | aor d a b sc sz o => exact RoundTrip.aor d a b sc sz o | axor d a b sc sz o => exact RoundTrip.axor d a b sc sz o
  | amin d a b sc sz o => exact RoundTrip.amin d a b sc sz o | amax d a b sc sz o => exact RoundTrip.amax d a b sc sz o
  | aminu d a b sc sz o => exact RoundTrip.aminu d a b sc sz o | amaxu d a b sc sz o => exact RoundTrip.amaxu d a b sc sz o
  | aswp d a b sc sz o => exact RoundTrip.aswp d a b sc sz o | acas d a b sc sz o => exact RoundTrip.acas d a b sc sz o
  | afadd d a b sc o => exact RoundTrip.afadd d a b sc o | fence pred succ sc => exact RoundTrip.fence pred succ sc
  | vld r a off => exact RoundTrip.vld r a off | vst r a off => exact RoundTrip.vst r a off
  | vldx m d sz a b => exact RoundTrip.vldx m d sz a b | vstx m d sz a b => exact RoundTrip.vstx m d sz a b
  -- CSR, R79
  | csrr d csr => exact RoundTrip.csrr d csr | csrw d a csr => exact RoundTrip.csrw d a csr | csrs d a csr => exact RoundTrip.csrs d a csr
  | csrc d a csr => exact RoundTrip.csrc d a csr | csrwi d imm csr => exact RoundTrip.csrwi d imm csr
  -- SYS, R81
  | trap a => exact RoundTrip.trap a | exit a => exact RoundTrip.exit a | chkpt a => exact RoundTrip.chkpt a
  | ipf a => exact RoundTrip.ipf a
  -- MSG, R198
  | send d a b => exact RoundTrip.send d a b | waitc d c b => exact RoundTrip.waitc d c b | cntr d c => exact RoundTrip.cntr d c
  | cntadd d c b => exact RoundTrip.cntadd d c b | rkmap d a b => exact RoundTrip.rkmap d a b | rkmove d a b => exact RoundTrip.rkmove d a b
  -- BAR, R208
  | barinit a b => exact RoundTrip.barinit a b | bararr d a => exact RoundTrip.bararr d a | barwait a b => exact RoundTrip.barwait a b
  | barsync d a => exact RoundTrip.barsync d a | barq d a => exact RoundTrip.barq d a
  -- THR, R60, R217
  | help d a b => exact RoundTrip.help d a b | hjoin d a => exact RoundTrip.hjoin d a | hitch d a => exact RoundTrip.hitch d a
  | unhitch d => exact RoundTrip.unhitch d | self d => exact RoundTrip.self d
  -- TASK, R233, R249
  | enq d a b => exact RoundTrip.enq d a b | qres d a b => exact RoundTrip.qres d a b | tlink d a b => exact RoundTrip.tlink d a b
  | launch d a b => exact RoundTrip.launch d a b | kwait d a => exact RoundTrip.kwait d a | qpin d a b => exact RoundTrip.qpin d a b
  -- PAGE, R186
  | tlbinv a b => exact RoundTrip.tlbinv a b | freply a b => exact RoundTrip.freply a b | fbread d a b => exact RoundTrip.fbread d a b
  | fbclr a => exact RoundTrip.fbclr a
  -- LUNGE, R107
  | lunge len cnt stride fix => exact RoundTrip.lunge len cnt stride fix
  -- floating-point rows, R94-R96
  | vadd m d a b => exact RoundTrip.vadd m d a b | vsub m d a b => exact RoundTrip.vsub m d a b
  | vmul m d a b => exact RoundTrip.vmul m d a b | vfma m d a b => exact RoundTrip.vfma m d a b
  | vfms m d a b => exact RoundTrip.vfms m d a b | vfnma m d a b => exact RoundTrip.vfnma m d a b
  | vmin m d a b => exact RoundTrip.vmin m d a b | vmax m d a b => exact RoundTrip.vmax m d a b | vabs m d a => exact RoundTrip.vabs m d a
  | vneg m d a => exact RoundTrip.vneg m d a | vrcp m d a => exact RoundTrip.vrcp m d a | vrsq m d a => exact RoundTrip.vrsq m d a
  | vexp2 m d a => exact RoundTrip.vexp2 m d a | vlog2 m d a => exact RoundTrip.vlog2 m d a | vsqrt m d a => exact RoundTrip.vsqrt m d a
  | vflr m d a => exact RoundTrip.vflr m d a | vceil m d a => exact RoundTrip.vceil m d a | vrndn m d a => exact RoundTrip.vrndn m d a
  | vcmpf m cc k a b => exact RoundTrip.vcmpf m cc k a b | vcmpi m cc k a b => exact RoundTrip.vcmpi m cc k a b
  -- integer rows, R97
  | viadd m d a b => exact RoundTrip.viadd m d a b | visub m d a b => exact RoundTrip.visub m d a b
  | vimul m d a b => exact RoundTrip.vimul m d a b | vand m d a b => exact RoundTrip.vand m d a b
  | vor m d a b => exact RoundTrip.vor m d a b | vxor m d a b => exact RoundTrip.vxor m d a b | vshl m d a b => exact RoundTrip.vshl m d a b
  | vshr m d a b => exact RoundTrip.vshr m d a b | vshra m d a b => exact RoundTrip.vshra m d a b
  | vimin m d a b => exact RoundTrip.vimin m d a b | vimax m d a b => exact RoundTrip.vimax m d a b
  | viminu m d a b => exact RoundTrip.viminu m d a b | vimaxu m d a b => exact RoundTrip.vimaxu m d a b
  -- moves, conversions, reduction, R98-R104
  | vsel k d a b => exact RoundTrip.vsel k d a b | vperm m d a b => exact RoundTrip.vperm m d a b
  | vcvt m d a f => exact RoundTrip.vcvt m d a f | vred m o d a => exact RoundTrip.vred m o d a | vext d a n => exact RoundTrip.vext d a n
  | vins d n b => exact RoundTrip.vins d n b | vpackBf16 m d a b => exact RoundTrip.vpackBf16 m d a b
  | vpackF16 m d a b => exact RoundTrip.vpackF16 m d a b | vmov m d b => exact RoundTrip.vmov m d b
  -- MASK, R105
  | mand d a b => exact RoundTrip.mand d a b | mor d a b => exact RoundTrip.mor d a b | mxor d a b => exact RoundTrip.mxor d a b
  | mandn d a b => exact RoundTrip.mandn d a b | mnot d a => exact RoundTrip.mnot d a | mmov d a => exact RoundTrip.mmov d a
  | mpopc d a => exact RoundTrip.mpopc d a | mfirst d a => exact RoundTrip.mfirst d a | mset d a => exact RoundTrip.mset d a
  | mget d a => exact RoundTrip.mget d a
  -- MAT, R122
  | mma d a b ka kb => exact RoundTrip.mma d a b ka kb | mzero d => exact RoundTrip.mzero d | mst d a => exact RoundTrip.mst d a
  | mld d a => exact RoundTrip.mld d a | mwait d => exact RoundTrip.mwait d | mchk d a b ka kb => exact RoundTrip.mchk d a b ka kb
  -- RING, R126
  | rinit d a b => exact RoundTrip.rinit d a b | rpush d a b => exact RoundTrip.rpush d a b
  | rsub d a b storer => exact RoundTrip.rsub d a b storer | runsub d a => exact RoundTrip.runsub d a
  | rstat d a => exact RoundTrip.rstat d a
  -- COPY, R147
  | cpy d => exact RoundTrip.cpy d | cwait d a => exact RoundTrip.cwait d a | cstat d a => exact RoundTrip.cstat d a
  -- STRM, R154
  | sopen d a => exact RoundTrip.sopen d a | spop d a b => exact RoundTrip.spop d a b | spush d a b => exact RoundTrip.spush d a b
  -- MRG, R308
  | mgopen d a b => exact RoundTrip.mgopen d a b | mgpush d a b => exact RoundTrip.mgpush d a b | mgend d a => exact RoundTrip.mgend d a
  | mgpop d a b => exact RoundTrip.mgpop d a b | mgstat d a b => exact RoundTrip.mgstat d a b | mgdrain d a => exact RoundTrip.mgdrain d a
  -- IL, R277
  | ilopen d a b => exact RoundTrip.ilopen d a b | ilins d a b => exact RoundTrip.ilins d a b | ilsend d a b => exact RoundTrip.ilsend d a b
  | ilcut d a => exact RoundTrip.ilcut d a | ilcomp d a b => exact RoundTrip.ilcomp d a b | ilread d a b => exact RoundTrip.ilread d a b
  | ilclose d a => exact RoundTrip.ilclose d a | ilstat d a => exact RoundTrip.ilstat d a
  -- HAL, R317
  | hnew d a => exact RoundTrip.hnew d a | hcopy d a => exact RoundTrip.hcopy d a | hdrop a => exact RoundTrip.hdrop a
  | hbind d a b => exact RoundTrip.hbind d a b | hwgt d a => exact RoundTrip.hwgt d a | haddr d a => exact RoundTrip.haddr d a
  | hmerge d a b => exact RoundTrip.hmerge d a b
  -- scene forms, R287
  | boxt k d a b => exact RoundTrip.boxt k d a b | trit m d a b => exact RoundTrip.trit m d a b
  | splt m d a b => exact RoundTrip.splt m d a b | edge m d a b => exact RoundTrip.edge m d a b
  | texl m d a b => exact RoundTrip.texl m d a b | texd m d a b => exact RoundTrip.texd m d a b
  -- words without fields, R78, R81, R186, R249
  | ret => exact RoundTrip.ret | eret => exact RoundTrip.eret | brk => exact RoundTrip.brk | yield => exact RoundTrip.yield
  | wfe => exact RoundTrip.wfe | trig => exact RoundTrip.trig | replay => exact RoundTrip.replay
  -- device rows and the CSR rows that only name a CSR instruction
  | _ => exact fun _ _ h => nomatch h

/-- Settles O53: each instruction with a word comes back from it, field by field of its form. -/
theorem decodeOfEncode : Obligations.DecodeOfEncode := roundTrip

end Sys2Proof.Laws
end

section
/-! SUPPORT. A word that decodes is the word of its instruction (R44, R47, R50, R51): each major's decoder answers a row whose fields,
packed again, are the word that was cut. -/

namespace Sys2Proof

/-! The fields of a word, packed again (Table 4-1). -/

theorem join_extracts {m n : Nat} (x : BitVec (m + n)) : x.extractLsb' n m ++ x.extractLsb' 0 n = x := by
  rw [BitVec.extractLsb'_append_extractLsb'_eq_extractLsb' (by omega)]
  exact BitVec.extractLsb'_eq_self
theorem eq_ofNat_of_toNat {n k : Nat} {x : BitVec n} (h : x.toNat = k) : x = BitVec.ofNat n k := by simp [← h]

section
variable {w : W32} {op : BitVec 7} (h : field w 25 7 = op)
include h

theorem packS_fields : packS op (field w 20 5) (field w 15 5) (field w 10 5) (BitVec.ofNat 10 (field w 0 10).toNat) = w := by
  subst h
  simp (disch := rfl) only [packS, field, BitVec.extractLsb'_append_extractLsb'_eq_extractLsb', BitVec.ofNat_toNat, BitVec.setWidth_eq]
  exact BitVec.extractLsb'_eq_self
theorem packI_fields : packI op (field w 20 5) (field w 15 5) (field w 0 15) = w := by
  subst h
  simp (disch := rfl) only [packI, field, BitVec.extractLsb'_append_extractLsb'_eq_extractLsb']
  exact BitVec.extractLsb'_eq_self
theorem packU_fields : packU op (field w 20 5) (field w 0 20) = w := by
  subst h
  simp (disch := rfl) only [packU, field, BitVec.extractLsb'_append_extractLsb'_eq_extractLsb']
  exact BitVec.extractLsb'_eq_self
theorem packJ_fields : packJ op (field w 0 25) = w := by
  subst h
  simp (disch := rfl) only [packJ, field, BitVec.extractLsb'_append_extractLsb'_eq_extractLsb']
  exact BitVec.extractLsb'_eq_self
theorem packM_fields : packM op (field w 20 5) (field w 15 5) (field w 3 12) (field w 1 2) (field w 0 1) = w := by
  subst h
  simp (disch := rfl) only [packM, field, BitVec.extractLsb'_append_extractLsb'_eq_extractLsb']
  exact BitVec.extractLsb'_eq_self
theorem packC_fields : packC op (field w 20 5) (field w 15 5) (field w 3 12) (field w 0 3) = w := by
  subst h
  simp (disch := rfl) only [packC, field, BitVec.extractLsb'_append_extractLsb'_eq_extractLsb']
  exact BitVec.extractLsb'_eq_self
theorem packF_fields : packF op (field w 17 8) (field w 9 8) (field w 6 3) (field w 0 6) = w := by
  subst h
  simp (disch := rfl) only [packF, field, BitVec.extractLsb'_append_extractLsb'_eq_extractLsb']
  exact BitVec.extractLsb'_eq_self
theorem packW_fields : packW op (field w 18 7) (field w 13 5) (field w 1 12) (field w 0 1) = w := by
  subst h
  simp (disch := rfl) only [packW, field, BitVec.extractLsb'_append_extractLsb'_eq_extractLsb']
  exact BitVec.extractLsb'_eq_self
theorem packV_fields : packV op (field w 22 3) (field w 15 7) (field w 8 7) (field w 1 7) (field w 0 1) = w := by
  subst h
  simp (disch := rfl) only [packV, field, BitVec.extractLsb'_append_extractLsb'_eq_extractLsb']
  exact BitVec.extractLsb'_eq_self
theorem packE_fields : packE op (field w 20 5) (field w 15 5) (field w 10 5) (field w 6 4) (BitVec.ofNat 6 (field w 0 6).toNat) = w := by
  subst h
  simp (disch := rfl) only [packE, field, BitVec.extractLsb'_append_extractLsb'_eq_extractLsb', BitVec.ofNat_toNat, BitVec.setWidth_eq]
  exact BitVec.extractLsb'_eq_self
theorem packL_fields : packL op (field w 21 4) (field w 13 8) (field w 6 7) (field w 3 3) (field w 0 3) = w := by
  subst h
  simp (disch := rfl) only [packL, field, BitVec.extractLsb'_append_extractLsb'_eq_extractLsb']
  exact BitVec.extractLsb'_eq_self

end

/-! Codes within fields, read and written again (R45). -/

theorem small_maskCode {r : Reg} (h : maskField r = true) : small (maskCode r) = r := by
  revert r
  decide
theorem bit_beq_one (c : BitVec 1) : bit (c == 1) = c := by
  revert c
  decide
theorem wsizeCode_wsizeOf (c : BitVec 1) : wsizeCode (wsizeOf c) = c := by
  revert c
  decide
theorem aordCode_aordOf (c : BitVec 2) : aordCode (aordOf c) = c := by
  revert c
  decide
theorem sizeCode_sizeOf2 (c : BitVec 2) : sizeCode (sizeOf2 c) = c := by
  revert c
  decide
theorem fcondCode_fcondOf (c : BitVec 3) : fcondCode (fcondOf c) = c := by
  revert c
  decide
theorem redCode_redOf (c : BitVec 2) : redCode (redOf c) = c := by
  revert c
  decide
theorem scopeCode_of_scopeOf {c : BitVec 3} {sc : Scope} (h : scopeOf c = .ok sc) : scopeCode sc = c := by
  unfold scopeOf at h
  split at h <;> cases h
  all_goals exact (eq_ofNat_of_toNat ‹_›).symm
theorem elemCode_of_elemOf {c : BitVec 2} {e : Elem} (h : elemOf c = .ok e) : elemCode e = c := by
  unfold elemOf at h
  split at h <;> cases h
  all_goals exact (eq_ofNat_of_toNat ‹_›).symm
theorem icondCode_of_icondOf {c : BitVec 3} {cc : ICond} (h : icondOf c = .ok cc) : icondCode cc = c := by
  unfold icondOf at h
  split at h <;> cases h
  all_goals exact (eq_ofNat_of_toNat ‹_›).symm
theorem cvtCode_of_cvtOf {b : Nat} {f : CvtFn} (h : cvtOf b = .ok f) : cvtCode f = BitVec.ofNat 7 b := by
  unfold cvtOf at h
  split at h <;> cases h <;> rfl
theorem vsrc_of_vsrcOf {b : RowCode} {s : BitVec 1} {x : VSrc} (h : vsrcOf b s = .ok x) : vsrcBits x = b ∧ vsrcS x = s := by
  unfold vsrcOf need at h
  split at h
  case isTrue hs =>
    split at h
    case isTrue hb =>
      cases h
      have hj := join_extracts (m := 2) (n := 5) b
      rw [beq_iff_eq.mp hb] at hj
      exact ⟨hj, hs.symm⟩
    case isFalse => exact nomatch h
  case isFalse hs =>
    cases h
    exact ⟨rfl, (by bv_omega : 0 = s)⟩

/-! Sub-fields of `fn`, `d` and `ctl` joined again. -/

theorem join_fn (fn : BitVec 10) :
    fn.extractLsb' 7 3 ++ fn.extractLsb' 6 1 ++ fn.extractLsb' 4 2 ++ fn.extractLsb' 0 4 = fn := by
  simp (disch := rfl) only [BitVec.extractLsb'_append_extractLsb'_eq_extractLsb']
  exact BitVec.extractLsb'_eq_self
theorem order_zero (x : BitVec 4) : x ++ 0#2 ++ 0#4 = x ++ 0#6 ∧ x ++ 0#2 ++ 1#4 = x ++ 1#6 := by
  revert x
  decide
theorem join_shift (imm : BitVec 15) (h : imm.extractLsb' 6 7 = 0) : imm.extractLsb' 13 2 ++ 0#7 ++ imm.extractLsb' 0 6 = imm := by
  have hj : imm.extractLsb' 13 2 ++ imm.extractLsb' 6 7 ++ imm.extractLsb' 0 6 = imm := by
    simp (disch := rfl) only [BitVec.extractLsb'_append_extractLsb'_eq_extractLsb']
    exact BitVec.extractLsb'_eq_self
  rwa [h] at hj
theorem join_cond (d : RowCode) (h : d.extractLsb' 3 1 = 0) : d.extractLsb' 4 3 ++ 0#1 ++ d.extractLsb' 0 3 = d := by
  have hj : d.extractLsb' 4 3 ++ d.extractLsb' 3 1 ++ d.extractLsb' 0 3 = d := by
    simp (disch := rfl) only [BitVec.extractLsb'_append_extractLsb'_eq_extractLsb']
    exact BitVec.extractLsb'_eq_self
  rwa [h] at hj
theorem join_keeps {ctl : BitVec 4} (h : ctl.extractLsb' 0 2 = 0#2) :
    bit (ctl.extractLsb' 3 1 == 1#1) ++ bit (ctl.extractLsb' 2 1 == 1#1) ++ 0#2 = ctl := by
  revert ctl
  decide
theorem join_storer {ctl : BitVec 4} (h : ctl.extractLsb' 0 3 = 0#3) : bit (ctl.extractLsb' 3 1 == 1#1) ++ 0#3 = ctl := by
  revert ctl
  decide

/-! What a decoder may answer for a word. -/

/-- The answer is right for the word `w`: a refusal, or a well-formed instruction whose word is `w`. -/
def Spelled (w : W32) (r : Except IllegalReason Instr) : Prop :=
  match r with
  | .error _ => True
  | .ok i => encode i = some w ∧ i.wellFormed = true

theorem spelled_error (w : W32) (e : IllegalReason) : Spelled w (.error e) ↔ True := .rfl
theorem spelled_ok (w : W32) (i : Instr) : Spelled w (.ok i) ↔ encode i = some w ∧ i.wellFormed = true := .rfl
theorem spelled_need (w : W32) (c : Bool) (r : IllegalReason) (x : Except IllegalReason Instr) :
    Spelled w (need c r x) ↔ (c = true → Spelled w x) := by
  cases c <;> simp [need, spelled_error]
theorem spelled_zero {n : Nat} (w : W32) (z : BitVec n) (r : IllegalReason) (x : Except IllegalReason Instr) :
    Spelled w (need (z == 0) r x) ↔ (z = 0 → Spelled w x) := by
  rw [spelled_need, beq_iff_eq]
theorem spelled_and (w : W32) (c e : Bool) (r : IllegalReason) (x : Except IllegalReason Instr) :
    Spelled w (need (c && e) r x) ↔ Spelled w (need c r (need e r x)) := by
  rw [spelled_need, spelled_need, spelled_need, Bool.and_eq_true, and_imp]
theorem Spelled.refusal {w : W32} {e : IllegalReason} : Spelled w (.error e) := trivial
theorem Spelled.of_eq {w v : W32} {r : Except IllegalReason Instr} (h : Spelled v r) (hv : v = w) : Spelled w r := hv ▸ h
theorem Spelled.row {w v : W32} {i : Instr} (he : encode i = some v) (hw : i.wellFormed = true) (hv : v = w) : Spelled w (.ok i) :=
  ⟨hv ▸ he, hw⟩

/-! Majors whose rows differ in `fn` alone; fields that a row does not use are 0. -/

theorem spelled_decodeAlu (d a b : Reg) (fn : Nat) : Spelled (packS 0x01 d a b (BitVec.ofNat 10 fn)) (decodeAlu d a b fn) := by
  unfold decodeAlu
  split <;> simp only [spelled_error, spelled_ok]
  all_goals exact ⟨rfl, rfl⟩
theorem spelled_decodeMulDiv (d a b : Reg) (fn : Nat) : Spelled (packS 0x08 d a b (BitVec.ofNat 10 fn)) (decodeMulDiv d a b fn) := by
  unfold decodeMulDiv
  split <;> simp only [spelled_error, spelled_ok]
  all_goals exact ⟨rfl, rfl⟩
theorem spelled_decodeSfp (d a b : Reg) (fn : Nat) : Spelled (packS 0x0C d a b (BitVec.ofNat 10 fn)) (decodeSfp d a b fn) := by
  unfold decodeSfp
  split <;> simp only [spelled_error, spelled_zero, spelled_ok]
  all_goals (intros; subst_vars; exact ⟨rfl, rfl⟩)
theorem spelled_decodeJx (d a b : Reg) (fn : Nat) : Spelled (packS 0x19 d a b (BitVec.ofNat 10 fn)) (decodeJx d a b fn) := by
  unfold decodeJx
  split <;> simp only [spelled_error, spelled_and, spelled_zero, spelled_ok]
  all_goals (intros; subst_vars; exact ⟨rfl, rfl⟩)
theorem spelled_decodeSys (d a b : Reg) (fn : Nat) : Spelled (packS 0x31 d a b (BitVec.ofNat 10 fn)) (decodeSys d a b fn) := by
  unfold decodeSys
  split <;> simp only [spelled_error, spelled_and, spelled_zero, spelled_ok]
  all_goals (intros; subst_vars; exact ⟨rfl, rfl⟩)
theorem spelled_decodeMsg (d a b : Reg) (fn : Nat) : Spelled (packS 0x32 d a b (BitVec.ofNat 10 fn)) (decodeMsg d a b fn) := by
  unfold decodeMsg
  split <;> simp only [spelled_error, spelled_zero, spelled_ok]
  all_goals (intros; subst_vars; exact ⟨rfl, rfl⟩)
theorem spelled_decodeBar (d a b : Reg) (fn : Nat) : Spelled (packS 0x33 d a b (BitVec.ofNat 10 fn)) (decodeBar d a b fn) := by
  unfold decodeBar
  split <;> simp only [spelled_error, spelled_zero, spelled_ok]
  all_goals (intros; subst_vars; exact ⟨rfl, rfl⟩)
theorem spelled_decodeThr (d a b : Reg) (fn : Nat) : Spelled (packS 0x34 d a b (BitVec.ofNat 10 fn)) (decodeThr d a b fn) := by
  unfold decodeThr
  split <;> simp only [spelled_error, spelled_and, spelled_zero, spelled_ok]
  all_goals (intros; subst_vars; exact ⟨rfl, rfl⟩)
theorem spelled_decodeTask (d a b : Reg) (fn : Nat) : Spelled (packS 0x35 d a b (BitVec.ofNat 10 fn)) (decodeTask d a b fn) := by
  unfold decodeTask
  split <;> simp only [spelled_error, spelled_and, spelled_zero, spelled_ok]
  all_goals (intros; subst_vars; exact ⟨rfl, rfl⟩)
theorem spelled_decodePage (d a b : Reg) (fn : Nat) : Spelled (packS 0x36 d a b (BitVec.ofNat 10 fn)) (decodePage d a b fn) := by
  unfold decodePage
  split <;> simp only [spelled_error, spelled_and, spelled_zero, spelled_ok]
  all_goals (intros; subst_vars; exact ⟨rfl, rfl⟩)
theorem spelled_decodeBits (d a : Reg) (fn : Nat) : Spelled (packS 0x0B d a 0 (BitVec.ofNat 10 fn)) (decodeBits d a fn) := by
  unfold decodeBits
  split <;> simp only [spelled_error, spelled_ok]
  all_goals exact ⟨rfl, rfl⟩
theorem spelled_decodeCopy (d a b : Reg) (fn : Nat) : Spelled (packE 0x62 d a b 0 (BitVec.ofNat 6 fn)) (decodeCopy d a b fn) := by
  unfold decodeCopy
  split <;> simp only [spelled_error, spelled_and, spelled_zero, spelled_ok]
  all_goals (intros; subst_vars; exact ⟨rfl, rfl⟩)
theorem spelled_decodeStrm (d a b : Reg) (fn : Nat) : Spelled (packE 0x63 d a b 0 (BitVec.ofNat 6 fn)) (decodeStrm d a b fn) := by
  unfold decodeStrm
  split <;> simp only [spelled_error, spelled_zero, spelled_ok]
  all_goals (intros; subst_vars; exact ⟨rfl, rfl⟩)
theorem spelled_decodeMrg (d a b : Reg) (fn : Nat) : Spelled (packE 0x64 d a b 0 (BitVec.ofNat 6 fn)) (decodeMrg d a b fn) := by
  unfold decodeMrg
  split <;> simp only [spelled_error, spelled_zero, spelled_ok]
  all_goals (intros; subst_vars; exact ⟨rfl, rfl⟩)
theorem spelled_decodeIl (d a b : Reg) (fn : Nat) : Spelled (packE 0x65 d a b 0 (BitVec.ofNat 6 fn)) (decodeIl d a b fn) := by
  unfold decodeIl
  split <;> simp only [spelled_error, spelled_zero, spelled_ok]
  all_goals (intros; subst_vars; exact ⟨rfl, rfl⟩)
theorem spelled_decodeHal (d a b : Reg) (fn : Nat) : Spelled (packE 0x66 d a b 0 (BitVec.ofNat 6 fn)) (decodeHal d a b fn) := by
  unfold decodeHal
  split <;> simp only [spelled_error, spelled_and, spelled_zero, spelled_ok]
  all_goals (intros; subst_vars; exact ⟨rfl, rfl⟩)
theorem spelled_decodeVfu (m : MaskCode) (d a : RowCode) (b : Nat) :
    Spelled (packV 0x48 m d a (BitVec.ofNat 7 b) 0) (decodeVfu m d a b) := by
  unfold decodeVfu
  split <;> simp only [spelled_error, spelled_ok]
  all_goals exact ⟨rfl, rfl⟩

/-! Majors whose fields are cut further. -/

theorem spelled_decodeShi (d a : Reg) (imm : BitVec 15) : Spelled (packI 0x06 d a imm) (decodeShi d a imm) := by
  unfold decodeShi
  rw [spelled_zero]
  intro hz
  have hj := join_shift imm hz
  split
  case h_4 => exact .refusal
  all_goals
    next hk =>
      rw [eq_ofNat_of_toNat hk] at hj
      exact .row rfl rfl (congrArg _ hj)
theorem spelled_decodeBm (a b : Reg) (off : BitVec 15) : Spelled (packI 0x16 a b off) (decodeBm a b off) := by
  unfold decodeBm
  rw [spelled_zero]
  rintro rfl
  have hj := join_extracts (m := 2) (n := 3) a
  split
  case h_4 => exact .refusal
  all_goals
    next hk =>
      rw [eq_ofNat_of_toNat hk] at hj
      exact .row rfl rfl (congrArg (fun x => packI 0x16 x 0 off) hj)
theorem spelled_decodeLd (d a : Reg) (off : BitVec 12) (sz : BitVec 2) (sx : BitVec 1) :
    Spelled (packM 0x20 d a off sz sx) (decodeLd d a off sz sx) := by
  have hwf : (!(sz == 3 && sx == 1)) = true → (!(sizeOf2 sz == .d && (sx == 1))) = true := by
    revert sz sx
    decide
  unfold decodeLd
  rw [spelled_need]
  exact fun h => .row rfl (hwf h) (by rw [sizeCode_sizeOf2, bit_beq_one])
theorem spelled_decodeSt (d a : Reg) (off : BitVec 12) (sz : BitVec 2) (sx : BitVec 1) :
    Spelled (packM 0x21 d a off sz sx) (decodeSt d a off sz sx) := by
  unfold decodeSt
  rw [spelled_zero]
  rintro rfl
  exact .row rfl rfl (by rw [sizeCode_sizeOf2])
theorem spelled_decodeOrd (d a b : Reg) (fn : BitVec 10) :
    Spelled (packS 0x22 d a b (BitVec.ofNat 10 fn.toNat)) (decodeOrd d a b fn) := by
  rw [BitVec.ofNat_toNat, BitVec.setWidth_eq]
  unfold decodeOrd
  rw [spelled_zero]
  intro hz
  split
  next => exact .refusal
  next sc hsc =>
    have hj := join_fn fn
    rw [← scopeCode_of_scopeOf hsc, ← wsizeCode_wsizeOf (fn.extractLsb' 6 1), hz] at hj
    split
    case h_1 hf =>
      rw [eq_ofNat_of_toNat hf] at hj
      rw [spelled_zero]
      rintro rfl
      exact .row rfl rfl (congrArg _ ((order_zero _).1.symm.trans hj))
    case h_2 hf =>
      rw [eq_ofNat_of_toNat hf] at hj
      rw [spelled_zero]
      rintro rfl
      exact .row rfl rfl (congrArg _ ((order_zero _).2.symm.trans hj))
    case h_3 => exact .refusal
theorem spelled_decodeAtom (d a b : Reg) (fn : BitVec 10) :
    Spelled (packS 0x23 d a b (BitVec.ofNat 10 fn.toNat)) (decodeAtom d a b fn) := by
  rw [BitVec.ofNat_toNat, BitVec.setWidth_eq]
  unfold decodeAtom
  split
  next => exact .refusal
  next sc hsc =>
    have hj := join_fn fn
    rw [← scopeCode_of_scopeOf hsc, ← wsizeCode_wsizeOf (fn.extractLsb' 6 1), ← aordCode_aordOf (fn.extractLsb' 4 2)] at hj
    dsimp only
    split
    case h_11 hf =>
      rw [spelled_zero]
      intro hz
      rw [hz, eq_ofNat_of_toNat hf] at hj
      exact .row rfl rfl (congrArg _ hj)
    case h_12 => exact .refusal
    all_goals
      next hf =>
        rw [eq_ofNat_of_toNat hf] at hj
        exact .row rfl rfl (congrArg _ hj)
theorem spelled_decodeFence (p q : BitVec 8) (sc : BitVec 3) (z : BitVec 6) :
    Spelled (packF 0x24 p q sc z) (decodeFence p q sc z) := by
  unfold decodeFence
  rw [spelled_zero]
  rintro rfl
  split
  next => exact .refusal
  next hsc => exact .row rfl rfl (by rw [scopeCode_of_scopeOf hsc])
theorem spelled_decodeCsr (d a : Reg) (csr : CsrNum) (k : BitVec 3) : Spelled (packC 0x30 d a csr k) (decodeCsr d a csr k) := by
  unfold decodeCsr
  rw [spelled_need]
  intro hc
  split
  case h_1 hk =>
    rw [eq_ofNat_of_toNat hk, spelled_zero]
    rintro rfl
    exact .row rfl hc rfl
  case h_6 => exact .refusal
  all_goals
    next hk =>
      rw [eq_ofNat_of_toNat hk]
      exact .row rfl hc rfl
theorem spelled_decodeMask (d a b : Reg) (fn : Nat) : Spelled (packS 0x5F d a b (BitVec.ofNat 10 fn)) (decodeMask d a b fn) := by
  unfold decodeMask
  split <;> simp only [spelled_error, spelled_need, Bool.and_eq_true, beq_iff_eq, and_imp]
  all_goals
    intros
    refine .row rfl rfl ?_
    simp only [small_maskCode, BitVec.ofNat_eq_ofNat, *]
theorem spelled_decodeMat (d a b : Reg) (ctl : BitVec 4) (fn : Nat) :
    Spelled (packE 0x60 d a b ctl (BitVec.ofNat 6 fn)) (decodeMat d a b ctl fn) := by
  unfold decodeMat
  rw [spelled_need]
  intro hd
  split <;> simp only [spelled_error, spelled_and, spelled_zero]
  all_goals
    intros
    refine .row rfl rfl ?_
    simp only [small_maskCode, join_keeps, BitVec.ofNat_eq_ofNat, *]
theorem spelled_decodeRing (d a b : Reg) (ctl : BitVec 4) (fn : Nat) :
    Spelled (packE 0x61 d a b ctl (BitVec.ofNat 6 fn)) (decodeRing d a b ctl fn) := by
  unfold decodeRing
  split <;> simp only [spelled_error, spelled_and, spelled_zero]
  all_goals
    intros
    refine .row rfl rfl ?_
    simp only [join_storer, BitVec.ofNat_eq_ofNat, *]

/-! Majors of form V (R52). -/

theorem spelled_decodeV {f : VSrc → Instr} {op : BitVec 7} {m : MaskCode} {d a : RowCode} (b : RowCode) (s : BitVec 1)
    (he : ∀ x, encode (f x) = some (encodeV op m d a x)) (hw : ∀ x, (f x).wellFormed = true) :
    Spelled (packV op m d a b s) (decodeV f b s) := by
  unfold decodeV
  split
  next => exact .refusal
  next x hx =>
    obtain ⟨rfl, rfl⟩ := vsrc_of_vsrcOf hx
    exact ⟨he x, hw x⟩
theorem spelled_decodeVgs (m : MaskCode) (d a b : RowCode) (s : BitVec 1) :
    Spelled (packV 0x26 m d a b s) (decodeVgs m d a b s) := by
  unfold decodeVgs
  split
  next => exact .refusal
  next sz hsz =>
    have hj := join_extracts (m := 2) (n := 5) a
    rw [← elemCode_of_elemOf hsz] at hj
    split
    case isTrue hs => exact .row rfl rfl (hs ▸ congrArg (fun x => packV 0x26 m d x b 1) hj)
    case isFalse hs => exact .row rfl rfl ((by bv_omega : 0 = s) ▸ congrArg (fun x => packV 0x26 m d x b 0) hj)
theorem spelled_decodeVcmpf (m : MaskCode) (d a b : RowCode) (s : BitVec 1) :
    Spelled (packV 0x49 m d a b s) (decodeVcmpf m d a b s) := by
  unfold decodeVcmpf
  rw [spelled_zero]
  intro hz
  have hj := join_cond d hz
  rw [← fcondCode_fcondOf (d.extractLsb' 4 3)] at hj
  exact spelled_decodeV b s (fun x => congrArg (fun y => some (encodeV 0x49 m y a x)) hj) fun _ => rfl
theorem spelled_decodeVcmpi (m : MaskCode) (d a b : RowCode) (s : BitVec 1) :
    Spelled (packV 0x4A m d a b s) (decodeVcmpi m d a b s) := by
  unfold decodeVcmpi
  rw [spelled_zero]
  intro hz
  split
  next => exact .refusal
  next hcc =>
    have hj := join_cond d hz
    rw [← icondCode_of_icondOf hcc] at hj
    exact spelled_decodeV b s (fun x => congrArg (fun y => some (encodeV 0x4A m y a x)) hj) fun _ => rfl
theorem spelled_decodeVxs (m : MaskCode) (d a b : RowCode) (s : BitVec 1) :
    Spelled (packV 0x5C m d a b s) (decodeVxs m d a b s) := by
  have h3 := fun x : RowCode => join_extracts (m := 3) (n := 4) x
  have h2 := fun x : RowCode => join_extracts (m := 2) (n := 5) x
  unfold decodeVxs
  rw [spelled_zero]
  rintro rfl
  split <;> rw [spelled_and, spelled_zero, spelled_zero]
  case isTrue hs =>
    intro ha hb
    have hja := h3 a
    have hjb := h2 b
    rw [ha] at hja
    rw [hb] at hjb
    exact .row rfl rfl (by rw [hs]; exact congrArg₂ (fun x y => packV 0x5C 0 d x y 1) hja hjb)
  case isFalse hs =>
    intro hd hb
    have hjd := h2 d
    have hjb := h3 b
    rw [hd] at hjd
    rw [hb] at hjb
    exact .row rfl rfl ((by bv_omega : 0 = s) ▸ congrArg₂ (fun x y => packV 0x5C 0 x a y 0) hjd hjb)

theorem spelled_decodeRow (op : Nat) (m : MaskCode) (d a b : RowCode) (s : BitVec 1) :
    Spelled (packV (BitVec.ofNat 7 op) m d a b s) (decodeRow op m d a b s) := by
  unfold decodeRow
  split
  -- VLDX, VSTX
  case h_1 => exact spelled_decodeVgs ..
  -- VABS to VRNDN
  case h_10 =>
    rw [spelled_zero]
    rintro rfl
    exact (spelled_decodeVfu m d a b.toNat).of_eq (by simp)
  case h_11 => exact spelled_decodeVcmpf ..
  case h_12 => exact spelled_decodeVcmpi ..
  -- VCVT
  case h_28 =>
    rw [spelled_zero]
    rintro rfl
    split
    next => exact .refusal
    next hf => exact .row rfl rfl (by simp [cvtCode_of_cvtOf hf])
  -- VRED
  case h_29 =>
    rw [spelled_and, spelled_zero, spelled_zero]
    rintro rfl rfl
    refine .row rfl rfl (congrArg (fun x => packV 0x5B m x a 0 0) ?_)
    rw [redCode_redOf]
    exact join_extracts (m := 2) (n := 5) d
  case h_30 => exact spelled_decodeVxs ..
  -- VPACKBF16, VPACKF16
  case h_31 =>
    split
    case isTrue hs => exact .row rfl rfl (hs ▸ rfl)
    case isFalse hs => exact .row rfl rfl ((by bv_omega : 0 = s) ▸ rfl)
  -- VMOV
  case h_32 =>
    rw [spelled_zero]
    rintro rfl
    exact spelled_decodeV b s (fun _ => rfl) fun _ => rfl
  -- BOXT, whose mask is not m0
  case h_33 =>
    rw [spelled_and, spelled_zero, spelled_need]
    rintro rfl hm
    exact .row rfl hm rfl
  -- TRIT to TEXD
  case h_34 | h_35 | h_36 | h_37 | h_38 =>
    rw [spelled_zero]
    rintro rfl
    exact .row rfl rfl rfl
  case h_39 => exact .refusal
  -- the general pattern
  all_goals exact spelled_decodeV b s (fun _ => rfl) fun _ => rfl

/-! The decoder (Table 4-3). -/

theorem spelled_decode (w : W32) : Spelled w (decode w) := by
  unfold decode
  dsimp only
  generalize hop : (field w 25 7).toNat = op
  have h := eq_ofNat_of_toNat hop
  clear hop
  split
  case h_1 => exact (spelled_decodeAlu ..).of_eq (packS_fields h)
  case h_6 => exact (spelled_decodeShi ..).of_eq (packI_fields h)
  case h_8 => exact (spelled_decodeMulDiv ..).of_eq (packS_fields h)
  case h_9 | h_10 => exact .row rfl rfl (packU_fields h)
  case h_11 => exact (spelled_zero ..).mpr fun hb => (spelled_decodeBits ..).of_eq (hb ▸ packS_fields h)
  case h_12 => exact (spelled_decodeSfp ..).of_eq (packS_fields h)
  case h_20 => exact (spelled_decodeBm ..).of_eq (packI_fields h)
  case h_21 | h_22 => exact .row rfl rfl (packJ_fields h)
  case h_23 => exact (spelled_decodeJx ..).of_eq (packS_fields h)
  case h_24 => exact (spelled_decodeLd ..).of_eq (packM_fields h)
  case h_25 => exact (spelled_decodeSt ..).of_eq (packM_fields h)
  case h_26 => exact (spelled_decodeOrd ..).of_eq (packS_fields h)
  case h_27 => exact (spelled_decodeAtom ..).of_eq (packS_fields h)
  case h_28 => exact (spelled_decodeFence ..).of_eq (packF_fields h)
  -- VLD, VST
  case h_29 =>
    have hw := packW_fields h
    split
    case isTrue hx => exact .row rfl rfl (hx ▸ hw)
    case isFalse hx => exact .row rfl rfl ((by bv_omega : field w 0 1 = 0) ▸ hw)
  case h_30 => exact (spelled_decodeCsr ..).of_eq (packC_fields h)
  case h_31 => exact (spelled_decodeSys ..).of_eq (packS_fields h)
  case h_32 => exact (spelled_decodeMsg ..).of_eq (packS_fields h)
  case h_33 => exact (spelled_decodeBar ..).of_eq (packS_fields h)
  case h_34 => exact (spelled_decodeThr ..).of_eq (packS_fields h)
  case h_35 => exact (spelled_decodeTask ..).of_eq (packS_fields h)
  case h_36 => exact (spelled_decodePage ..).of_eq (packS_fields h)
  -- LUNGE
  case h_37 => exact (spelled_zero ..).mpr fun hz => .row rfl rfl (hz ▸ packL_fields h)
  case h_38 => exact (spelled_decodeMask ..).of_eq (packS_fields h)
  case h_39 => exact (spelled_decodeMat ..).of_eq (packE_fields h)
  case h_40 => exact (spelled_decodeRing ..).of_eq (packE_fields h)
  case h_41 => exact (spelled_zero ..).mpr fun hz => (spelled_decodeCopy ..).of_eq (hz ▸ packE_fields h)
  case h_42 => exact (spelled_zero ..).mpr fun hz => (spelled_decodeStrm ..).of_eq (hz ▸ packE_fields h)
  case h_43 => exact (spelled_zero ..).mpr fun hz => (spelled_decodeMrg ..).of_eq (hz ▸ packE_fields h)
  case h_44 => exact (spelled_zero ..).mpr fun hz => (spelled_decodeIl ..).of_eq (hz ▸ packE_fields h)
  case h_45 => exact (spelled_zero ..).mpr fun hz => (spelled_decodeHal ..).of_eq (hz ▸ packE_fields h)
  case h_46 => exact (spelled_decodeRow ..).of_eq (packV_fields h)
  -- immediates and branches
  all_goals exact .row rfl rfl (packI_fields h)

/-- Settles O54: the decoder answers a word only with a row whose fields, packed again, are that word. -/
theorem encodeOfDecode : Obligations.EncodeOfDecode := by
  unfold Obligations.EncodeOfDecode
  intro w i hi
  have h := spelled_decode w
  rwa [hi, spelled_ok] at h

end Sys2Proof
end

section
/-! SUPPORT. No meaning of the operation table faults or refuses (R47, R65): most are a next state as they stand, the others in each
of their cases. -/

namespace Sys2Proof.Machine

open Sys2Proof

theorem csrOp_goesOn (s : State) (op : CsrOp) (d a : Reg) (c : CsrNum) : ∃ t, s.csrOp op d a c = .next t := by
  rw [csrOp_eq]
  repeat' split
  all_goals exact ⟨_, rfl⟩
theorem csrForm_goesOn (s : State) (f : CsrForm) (c : CsrNum) : ∃ t, s.csrForm f c = .next t := csrOp_goesOn s f.op f.d f.a c
theorem mma_goesOn (d : TileCode) (a b : Reg) (ka kb : Bool) (s : State) : ∃ t, exec (.mma d a b ka kb) s = .next t := by
  change ∃ t, execMma d a b ka kb s = .next t
  unfold execMma
  split <;> exact ⟨_, rfl⟩
theorem mchk_goesOn (d : TileCode) (a b : Reg) (ka kb : Bool) (s : State) : ∃ t, exec (.mchk d a b ka kb) s = .next t := by
  change ∃ t, execMchk d a b ka kb s = .next t
  unfold execMchk
  split <;> exact ⟨_, rfl⟩
theorem fence_goesOn (pred succ : BitVec 8) (sc : Scope) (s : State) : ∃ t, exec (.fence pred succ sc) s = .next t := by
  change ∃ t, execFence pred succ sc s = .next t
  unfold execFence
  split <;> exact ⟨_, rfl⟩
theorem lunge_goesOn (len : BitVec 4) (cnt : BitVec 8) (stride : BitVec 7) (fix : BitVec 3) (s : State) :
    ∃ t, exec (.lunge len cnt stride fix) s = .next t := by
  change ∃ t, execLunge len cnt stride fix s = .next t
  unfold execLunge
  split <;> exact ⟨_, rfl⟩
theorem uetPacket_goesOn (port : Nat) (packet : UetPacket) (s : State) : ∃ t, exec (.uetPacket port packet) s = .next t := by
  change ∃ t, execUetPacket port packet s = .next t
  unfold execUetPacket
  dsimp only
  cases packet.svc <;> exact ⟨_, rfl⟩

/-- Settles O59: the meanings that are not a next state as they stand are split into their cases. -/
theorem everyInstructionGoesOn : Obligations.EveryInstructionGoesOn := by
  unfold Obligations.EveryInstructionGoesOn
  intro i s
  cases i with
  | mma d a b ka kb => exact mma_goesOn d a b ka kb s
  | mchk d a b ka kb => exact mchk_goesOn d a b ka kb s
  | fence pred succ sc => exact fence_goesOn pred succ sc s
  | lunge len cnt stride fix => exact lunge_goesOn len cnt stride fix s
  | uetPacket port packet => exact uetPacket_goesOn port packet s
  | csrr d c => exact csrOp_goesOn s .r d 0 c
  | csrw d a c => exact csrOp_goesOn s .w d a c
  | csrs d a c => exact csrOp_goesOn s .s d a c
  | csrc d a c => exact csrOp_goesOn s .c d a c
  | csrwi d imm c => exact csrOp_goesOn s .wi d imm c
  | csrWriteFrm f => exact csrForm_goesOn s f 0x010
  | csrAccessFflags f => exact csrForm_goesOn s f 0x011
  | csrReadCflags f => exact csrForm_goesOn s f 0x012
  | csrWriteStatus f => exact csrForm_goesOn s f 0x000
  | csrWriteWindow f limit => exact csrForm_goesOn s f _
  | csrWriteMfmt f => exact csrForm_goesOn s f 0x030
  | csrWriteMerr f => exact csrForm_goesOn s f 0x033
  | csrWriteDomain f => exact csrForm_goesOn s f 0x040
  | csrWriteHpmcnt f n => exact csrForm_goesOn s f _
  | csrWriteOther f c => exact csrForm_goesOn s f c
  | _ => exact ⟨_, rfl⟩

end Sys2Proof.Machine
end

section
/-! SUPPORT. The words of R49 and those that the manual writes out. -/

namespace Sys2Proof.Machine

open Sys2Proof Sys2Proof.Safety

theorem regsSame_of_regsPut_g0 {s t : State} {v : Word} (h : RegsPut s t 0 v) : RegsSame s t := fun n => by
  rw [h n, if_neg]
  rintro ⟨hn, h0⟩
  exact h0 (hn.trans rfl)
/-- A result written to g0 is discarded (R45). -/
theorem wentOn_of_wroteReg_g0 {s t : State} {v : Word} (h : WroteReg s t 0 v 0) : WentOn s t := by
  obtain ⟨haside, hretired, hbehind, hregs, hrows, hmasks⟩ := h
  exact ⟨haside, hretired, hbehind, regsSame_of_regsPut_g0 hregs, hrows, hmasks⟩

/-- ADDI with g0 on both sides gives its immediate (R72). -/
theorem addi_g0_wrote (imm : BitVec 15) (s : State) : ∃ t, exec (.addi 0 0 imm) s = .next t ∧ WroteReg s t 0 (immI imm) 0 :=
  ⟨s.put 0 (immI imm), congrArg (fun v => Host.Outcome.next (s.put 0 v)) (BitVec.zero_add (immI imm)), s.put_wrote 0 (immI imm)⟩

theorem exec_illegal (w : W32) (s : State) : exec (.illegal w) s = .next (s.trap 1 (w.setWidth 64)) := rfl

/-- Settles O57: the decoder evaluated on each word, and ADDI to g0 writes nothing. -/
theorem nopAndIllegalWords : Obligations.NopAndIllegalWords := by
  unfold Obligations.NopAndIllegalWords
  refine ⟨⟨by decide, fun s => ?_, by decide, by decide, fun s => ⟨?_, ?_⟩, by decide, fun s => ?_⟩, by decide⟩
  · obtain ⟨t, he, hw⟩ := addi_g0_wrote 0 s
    exact ⟨t, he, wentOn_of_wroteReg_g0 hw⟩
  · exact exec_illegal 0 s
  · exact exec_illegal 0xFFFFFFFF s
  · exact addi_g0_wrote 1 s

end Sys2Proof.Machine
end

section
/-! SUPPORT. What a core's turn comes to when one thread may issue (R42, R43, R47, R59). -/

namespace Sys2Proof.Machine

open Sys2Proof

theorem instrOf_of_decode {w : W32} {i : Instr} (h : decode w = .ok i ∨ (∃ r, decode w = .error r) ∧ i = .illegal w) :
    instrOf w = i := by
  unfold instrOf
  obtain h | ⟨⟨r, h⟩, rfl⟩ := h <;> rw [h]

/-! The turn (R59). -/

theorem step_core {s : State} {c : Nat} {rest : List Turn} (ha : s.agenda = .core c :: rest) (hp : s.mgmt.powered = true) :
    step s = settled (({ s with agenda := rest } : State).coreTurn c) := by
  unfold step
  rw [ha]
  exact if_neg fun h => by simp [hp] at h
theorem step_event {s : State} {i : Instr} {rest : List Turn} (ha : s.agenda = .event i :: rest) :
    step s = settled (exec i { s with agenda := rest }) := by
  unfold step
  rw [ha]
  exact if_neg fun h => nomatch h.1
theorem coreTurn_eq {s : State} {c : Nat} (h : (s.core c).helpersNext = false) : s.coreTurn c = s.issueFirst c (s.core c).slotOrder := by
  unfold State.coreTurn
  dsimp only
  rw [if_neg (by simp [h])]
theorem trySlot_of_not_ready {s : State} {t : ThreadId} (h : (s.thread t).state ≠ .ready) : s.trySlot t = .passed := by
  unfold State.trySlot
  rw [if_pos (by simp [h])]
theorem issueFirst_append {s : State} {c : Nat} {pre l : List Nat} (h : ∀ m ∈ pre, (s.thread ⟨c, m⟩).state ≠ .ready) :
    s.issueFirst c (pre ++ l) = s.issueFirst c l := by
  induction pre with
  | nil => rfl
  | cons m pre ih =>
    rw [List.cons_append, State.issueFirst, trySlot_of_not_ready (h m List.mem_cons_self)]
    exact ih fun k hk => h k (List.mem_cons_of_mem m hk)
theorem issueFirst_did {s : State} {c n : Nat} {l : List Nat} {o : Out} (h : s.trySlot ⟨c, n⟩ = .did o) :
    s.issueFirst c (n :: l) = o := by
  rw [State.issueFirst, h]
/-- A core's turn is that of the first slot in its order that may go (R59). -/
theorem coreTurn_did {s : State} {c n : Nat} {pre post : List Nat} {o : Out} (hh : (s.core c).helpersNext = false)
    (ho : (s.core c).slotOrder = pre ++ n :: post) (hpre : ∀ m ∈ pre, (s.thread ⟨c, m⟩).state ≠ .ready)
    (hd : s.trySlot ⟨c, n⟩ = .did o) : s.coreTurn c = o := by
  rw [coreTurn_eq hh, ho, issueFirst_append hpre, issueFirst_did hd]

/-! The thread that may issue. -/

/-- Nothing holds the thread back from its next word: it is READY in an ACTIVE context, and no YIELD, hitch, fence or replay is in its
way (R59, R83, R109, R166, R218). -/
structure Unheld (s : State) (h : ThreadId) : Prop where
  ready : (s.thread h).state = .ready
  active : (s.ctx (s.thread h).ctx).state = .active
  unyielded : (s.thread h).yieldMask = 0
  alone : (s.thread h).hitch = none
  unfenced : (s.thread h).fences = []
  unreplayed : (s.thread h).replay = none

theorem thread_fetched (s : State) (h j : ThreadId) : (s.fetched h).thread j = s.thread j := by
  unfold State.fetched State.fetchAsks
  split
  case isTrue => rfl
  case isFalse =>
    split
    next p _ => cases p <;> rfl
    next => rfl
    next => rfl
theorem trySlot_unheld {s : State} {h : ThreadId} (hu : Unheld s h) : s.trySlot h = s.tryThread h := by
  unfold State.trySlot State.yields
  simp [hu.ready, hu.active, hu.unyielded, hu.alone]
theorem tryThread_word {s : State} {h : ThreadId} {p : Place} {w : W32} (hu : Unheld s h)
    (hw : s.fetchWord h (s.thread h).pc = (.ok p, w)) : s.tryThread h = (s.fetched h).tryWord h w := by
  unfold State.tryThread State.nextWord
  simp [hu.unreplayed, hw]
theorem tryWord_unfenced {s : State} {h : ThreadId} {w : W32} (hf : (s.thread h).fences = []) (hs : s.stalls h (instrOf w) = false) :
    s.tryWord h w = s.runWord h w (instrOf w) := by
  unfold State.tryWord State.fenceHolds State.liveFences
  simp [hs, hf]
theorem runWord_did {s t : State} {h : ThreadId} {w : W32} {i : Instr} (hf : (s.thread h).fences = [])
    (he : (s.issued h).runAs h w i = .next t) (ht : t.thread h ≠ ((s.issued h).thread h).atWord w i) :
    s.runWord h w i = .did (.next t) := by
  have hp : s.pruneFences h = s := by
    unfold State.pruneFences
    rw [hf]
    rfl
  unfold State.runWord
  dsimp only
  rw [hp, he]
  exact if_neg ht
/-- The thread's word runs, where no operand of it is pending and it changes its thread. -/
theorem trySlot_runs {s t : State} {h : ThreadId} {p : Place} {w : W32} (hu : Unheld s h)
    (hw : s.fetchWord h (s.thread h).pc = (.ok p, w)) (hs : (s.fetched h).stalls h (instrOf w) = false)
    (he : ((s.fetched h).issued h).runAs h w (instrOf w) = .next t)
    (ht : t.thread h ≠ (((s.fetched h).issued h).thread h).atWord w (instrOf w)) : s.trySlot h = .did (.next t) := by
  have hf : ((s.fetched h).thread h).fences = [] := (congrArg Thread.fences (thread_fetched s h h)).trans hu.unfenced
  rw [trySlot_unheld hu, tryThread_word hu hw, tryWord_unfenced hf hs, runWord_did hf he ht]

/-- Settles O58: the slots before the thread's are passed over, nothing holds its instruction back, and it has changed its thread. -/
theorem stepRunsDecoded : Obligations.StepRunsDecoded := by
  unfold Obligations.StepRunsDecoded
  constructor
  · intro s c rest pre n post w p i t ha hp hh
    dsimp only
    intro ho hpre hr hc hy hhi hf hrp hw hi hst he ht
    obtain rfl := instrOf_of_decode hi
    rw [State.thread_updThread, if_pos rfl] at ht
    have hrun := trySlot_runs (s := { s with agenda := rest }) ⟨hr, hc, hy, hhi, hf, hrp⟩ hw hst he ht
    rw [step_core ha hp, coreTurn_did (s := { s with agenda := rest }) hh ho hpre hrun]
    rfl
  · intro s rest i t ha he
    rw [step_event ha, he]
    rfl

end Sys2Proof.Machine
end

section
/-! SUPPORT. The scalar integer and floating-point instructions write what a number's rule gives (R71-R74). -/

namespace Sys2Proof.Machine

open Sys2Proof Sys2Proof.Safety

/-! What an instruction gives that only writes a register. -/

theorem gives_put {i : Instr} {d : Reg} {v w : State → Word} (he : ∀ s, exec i s = .next (s.put d (w s))) (hv : ∀ s, w s = v s) :
    Gives i d v := fun s => ⟨_, he s, (hv s).symm ▸ s.put_wrote d (v s)⟩
theorem gives_alu {i : Instr} {d a b : Reg} {f g : Word → Word → Word} (he : ∀ s, exec i s = s.alu d a b f) (hf : ∀ x y, f x y = g x y) :
    Gives i d (fun s => g (s.reg a) (s.reg b)) := gives_put he fun _ => hf _ _

/-! Comparisons, products and quotients as numbers (R71). -/

theorem ofBool_slt (x y : Word) : ofBool (x.slt y) = if x.toInt < y.toInt then 1 else 0 := by simp [ofBool, BitVec.slt]
theorem ofBool_ult (x y : Word) : ofBool (x.ult y) = if x.toNat < y.toNat then 1 else 0 := by simp [ofBool, BitVec.ult]
theorem ofBool_beq (x y : Word) : ofBool (x == y) = if x = y then 1 else 0 := by simp [ofBool]
theorem smin_eq (x y : Word) : (if x.slt y then x else y) = BitVec.ofInt 64 (min x.toInt y.toInt) := by
  rw [BitVec.slt_eq_decide]
  rcases lt_or_ge x.toInt y.toInt with h | h
  · rw [min_eq_left h.le, BitVec.ofInt_toInt, if_pos (decide_eq_true h)]
  · rw [min_eq_right h, BitVec.ofInt_toInt, if_neg (by simpa using h)]
theorem smax_eq (x y : Word) : (if x.slt y then y else x) = BitVec.ofInt 64 (max x.toInt y.toInt) := by
  rw [BitVec.slt_eq_decide]
  rcases lt_or_ge x.toInt y.toInt with h | h
  · rw [max_eq_right h.le, BitVec.ofInt_toInt, if_pos (decide_eq_true h)]
  · rw [max_eq_left h, BitVec.ofInt_toInt, if_neg (by simpa using h)]
theorem umin_eq (x y : Word) : (if x.ult y then x else y) = BitVec.ofNat 64 (min x.toNat y.toNat) := by
  rw [BitVec.ult_eq_decide]
  rcases lt_or_ge x.toNat y.toNat with h | h
  · rw [min_eq_left h.le, BitVec.ofNat_toNat, BitVec.setWidth_eq, if_pos (decide_eq_true h)]
  · rw [min_eq_right h, BitVec.ofNat_toNat, BitVec.setWidth_eq, if_neg (by simpa using h)]
theorem umax_eq (x y : Word) : (if x.ult y then y else x) = BitVec.ofNat 64 (max x.toNat y.toNat) := by
  rw [BitVec.ult_eq_decide]
  rcases lt_or_ge x.toNat y.toNat with h | h
  · rw [max_eq_right h.le, BitVec.ofNat_toNat, BitVec.setWidth_eq, if_pos (decide_eq_true h)]
  · rw [max_eq_left h, BitVec.ofNat_toNat, BitVec.setWidth_eq, if_neg (by simpa using h)]
theorem mul_eq_ofInt (x y : Word) : x * y = BitVec.ofInt 64 (x.toInt * y.toInt) := by
  rw [BitVec.ofInt_mul, BitVec.ofInt_toInt, BitVec.ofInt_toInt]

theorem mulhuOp_eq (x y : Word) : mulhuOp x y = (x.setWidth 128 * y.setWidth 128).extractLsb' 64 64 := by
  have hx := x.isLt
  have hy := y.isLt
  have hxy : x.toNat * y.toNat < 2 ^ 128 := lt_of_lt_of_le (Nat.mul_lt_mul'' hx hy) (by decide)
  apply BitVec.eq_of_toNat_eq
  rw [mulhuOp, BitVec.toNat_ofNat, BitVec.extractLsb'_toNat, BitVec.toNat_mul, BitVec.toNat_setWidth, BitVec.toNat_setWidth,
    Nat.mod_eq_of_lt (hx.trans (by decide)), Nat.mod_eq_of_lt (hy.trans (by decide)), Nat.mod_eq_of_lt hxy, Nat.shiftRight_eq_div_pow]
theorem mulhOp_eq (x y : Word) : mulhOp x y = (x.signExtend 128 * y.signExtend 128).extractLsb' 64 64 := by
  apply BitVec.eq_of_toNat_eq
  rw [mulhOp, BitVec.signExtend, BitVec.signExtend, ← BitVec.ofInt_mul, BitVec.extractLsb'_toNat, BitVec.toNat_ofInt, BitVec.toNat_ofInt,
    Nat.shiftRight_eq_div_pow]
  generalize x.toInt * y.toInt = p
  omega
theorem divOp_eq (x y : Word) : divOp x y = if y = 0 then BitVec.allOnes 64 else x.sdiv y := by
  have h : BitVec.ofInt 64 (x.toInt.tdiv y.toInt) = x.sdiv y := BitVec.eq_of_toInt_eq (by rw [BitVec.toInt_ofInt, BitVec.toInt_sdiv])
  rw [divOp, h]
theorem divuOp_eq (x y : Word) : divuOp x y = if y = 0 then BitVec.allOnes 64 else x / y := by
  have h : BitVec.ofNat 64 (x.toNat / y.toNat) = x / y := BitVec.ofNat_toNat 64 (x / y) ▸ by simp
  rw [divuOp, h]
theorem remOp_eq (x y : Word) : remOp x y = if y = 0 then x else x.srem y := by
  rw [remOp, ← BitVec.toInt_srem, BitVec.ofInt_toInt]
theorem remuOp_eq (x y : Word) : remuOp x y = if y = 0 then x else x % y := by
  rw [remuOp, ← BitVec.toNat_umod, BitVec.ofNat_toNat, BitVec.setWidth_eq]

/-! Shifts and immediates (R71-R73). -/

theorem shiftLeft_eq_ofNat (x : Word) (n : Nat) : x <<< n = BitVec.ofNat 64 (x.toNat * 2 ^ n) := by
  apply BitVec.eq_of_toNat_eq
  rw [BitVec.toNat_shiftLeft, BitVec.toNat_ofNat, Nat.shiftLeft_eq]
theorem ushiftRight_eq_ofNat (x : Word) (n : Nat) : x >>> n = BitVec.ofNat 64 (x.toNat / 2 ^ n) := by
  apply BitVec.eq_of_toNat_eq
  rw [BitVec.toNat_ushiftRight, BitVec.toNat_ofNat, Nat.shiftRight_eq_div_pow, Nat.mod_eq_of_lt (lt_of_le_of_lt (Nat.div_le_self ..) x.isLt)]
theorem sshiftRight_eq_ofInt (x : Word) (n : Nat) : x.sshiftRight n = BitVec.ofInt 64 (x.toInt / 2 ^ n) := by
  rw [BitVec.sshiftRight_eq, Int.shiftRight_eq_div_pow]
  norm_cast
theorem add_immI (x : Word) (imm : BitVec 15) : x + immI imm = BitVec.ofInt 64 (x.toInt + imm.toInt) := by
  rw [BitVec.ofInt_add, BitVec.ofInt_toInt]
  rfl
theorem slt_immI (x : Word) (imm : BitVec 15) : ofBool (x.slt (immI imm)) = if x.toInt < imm.toInt then 1 else 0 := by
  rw [ofBool_slt, immI, BitVec.toInt_signExtend_of_le (by decide)]
theorem immU_eq (u : BitVec 20) : immU u = BitVec.ofInt 64 (u.toInt * 2 ^ 15) := by
  rw [immU, BitVec.shiftLeft_eq_mul_twoPow, BitVec.ofInt_mul]
  rfl
theorem setWidth32_eq_ofNat (x : Word) : (x.setWidth 32).setWidth 64 = BitVec.ofNat 64 (x.toNat % 2 ^ 32) := by
  apply BitVec.eq_of_toNat_eq
  rw [BitVec.toNat_setWidth, BitVec.toNat_setWidth, BitVec.toNat_ofNat]

/-! Counting and reversing bits (R72). -/

/-- A word built bit by bit from the highest: bit `i` says whether `p` holds of the place. -/
theorem getLsbD_bitFold {w : Nat} (p : Nat → Prop) [DecidablePred p] (n a i : Nat) (hi : i < w) :
    ((List.range' a n).foldr (fun i (acc : BitVec w) => (acc <<< 1) ||| (if p i then 1 else 0)) 0).getLsbD i =
      decide (i < n ∧ p (a + i)) := by
  induction n generalizing a i with
  | zero => simp
  | succ n ih =>
    have hb : ∀ q : Prop, [Decidable q] → (if q then 1 else 0 : BitVec w).getLsbD i = decide (i = 0 ∧ q) := fun q _ => by
      split <;> simp [*]
    rw [List.range'_succ, List.foldr_cons, BitVec.getLsbD_or, BitVec.getLsbD_shiftLeft, hb]
    cases i with
    | zero => simp
    | succ i =>
      rw [Nat.add_sub_cancel, ih (a + 1) i (by omega), Nat.add_assoc, Nat.add_comm 1 i]
      simp [hi]
theorem getLsbD_brevOp (x : Word) {i : Nat} (hi : i < 64) : (brevOp x).getLsbD i = x.getLsbD (63 - i) := by
  rw [brevOp, List.range_eq_range', getLsbD_bitFold (fun i => x.getLsbD (63 - i) = true) 64 0 i hi]
  simp [hi]

/-- The length of a number: its bit below that is 1, and none is from there on. -/
theorem testBit_ge_bitLen {m i : Nat} (h : bitLen m ≤ i) : m.testBit i = false :=
  Nat.testBit_lt_two_pow ((lt_two_pow_bitLen m).trans_le (Nat.pow_le_pow_right (by decide) h))
theorem testBit_bitLen_pred {m : Nat} (h : m ≠ 0) : m.testBit (bitLen m - 1) = true := by
  rw [bitLen, if_neg h]
  exact Nat.testBit_log2 h
theorem bitLen_le_64 (x : Word) : bitLen x.toNat ≤ 64 := by
  by_contra h
  have hp := two_pow_le_of_bitLen (m := x.toNat) (fun h0 => h (by rw [h0]; decide))
  have := Nat.pow_le_pow_right (n := 2) (by decide) (show 64 ≤ bitLen x.toNat - 1 by omega)
  exact absurd x.isLt (by omega)


theorem ctzOp_spec (x : Word) : ∃ n, ctzOp x = BitVec.ofNat 64 n ∧ n ≤ 64 ∧ (∀ i, i < n → x.getLsbD i = false)
    ∧ (n < 64 → x.getLsbD n = true) := by
  refine ⟨_, rfl, ?_⟩
  cases h : (List.range 64).find? (fun i => x.getLsbD i) with
  | none =>
    rw [List.find?_range_eq_none] at h
    exact ⟨le_rfl, fun i hi => by simpa using h i hi, fun h => absurd h (lt_irrefl 64)⟩
  | some n =>
    obtain ⟨hn, hmem, hlow⟩ := List.find?_range_eq_some.mp h
    exact ⟨(List.mem_range.mp hmem).le, fun i hi => by simpa using hlow i hi, fun _ => hn⟩
theorem clzOp_spec (x : Word) : ∃ n, clzOp x = BitVec.ofNat 64 n ∧ n ≤ 64 ∧ (∀ i, 64 - n ≤ i → x.getLsbD i = false)
    ∧ (n < 64 → x.getLsbD (63 - n) = true) := by
  have hb := bitLen_le_64 x
  refine ⟨_, rfl, Nat.sub_le .., fun i hi => testBit_ge_bitLen (by omega), fun h => ?_⟩
  have h0 : x.toNat ≠ 0 := fun h0 => by
    rw [h0] at h
    exact absurd h (by decide)
  rw [show 63 - (64 - bitLen x.toNat) = bitLen x.toNat - 1 by omega]
  exact testBit_bitLen_pred h0
theorem popcOp_eq (x : Word) : popcOp x = BitVec.ofNat 64 ((List.range 64).filter x.getLsbD).length := by
  rw [popcOp, List.countP_eq_length_filter]

/-- Settles O1: each is `alu` of a function on words that the rule says with numbers. -/
theorem scalarArithmetic : Obligations.ScalarArithmetic := by
  unfold Obligations.ScalarArithmetic
  exact fun d a b => ⟨gives_put (fun _ => rfl) fun _ => rfl, gives_put (fun _ => rfl) fun _ => rfl, gives_put (fun _ => rfl) fun _ => rfl,
    gives_put (fun _ => rfl) fun _ => rfl, gives_put (fun _ => rfl) fun _ => rfl, gives_put (fun _ => rfl) fun _ => rfl,
    gives_alu (fun _ => rfl) ofBool_slt, gives_alu (fun _ => rfl) ofBool_ult, gives_alu (fun _ => rfl) ofBool_beq,
    gives_alu (fun _ => rfl) smin_eq, gives_alu (fun _ => rfl) smax_eq, gives_alu (fun _ => rfl) umin_eq,
    gives_alu (fun _ => rfl) umax_eq, gives_alu (fun _ => rfl) mul_eq_ofInt⟩

/-- Settles O2: shifts and extensions are products and quotients by powers of two; the counts are those of the bits' own list. -/
theorem shiftsImmediatesAndBits : Obligations.ShiftsImmediatesAndBits := by
  unfold Obligations.ShiftsImmediatesAndBits
  refine ⟨fun d a b n => ⟨?_, ?_, ?_, ?_, ?_, ?_⟩, fun d a imm u => ⟨?_, ?_, ?_, ?_, ?_, ?_, ?_, ?_⟩,
    fun d a => ⟨fun s => ?clz, fun s => ?ctz, ?_, fun s => ?brev, ?_, ?_, ?_, ?_⟩⟩
  case clz =>
    obtain ⟨n, hn, hspec⟩ := clzOp_spec (s.reg a)
    exact ⟨_, n, rfl, hn ▸ s.put_wrote d _, hspec⟩
  case ctz =>
    obtain ⟨n, hn, hspec⟩ := ctzOp_spec (s.reg a)
    exact ⟨_, n, rfl, hn ▸ s.put_wrote d _, hspec⟩
  case brev => exact ⟨_, _, rfl, s.put_wrote d _, fun i hi => getLsbD_brevOp _ hi⟩
  · exact gives_put (fun _ => rfl) fun _ => shiftLeft_eq_ofNat _ _
  · exact gives_put (fun _ => rfl) fun _ => ushiftRight_eq_ofNat _ _
  · exact gives_put (fun _ => rfl) fun _ => sshiftRight_eq_ofInt _ _
  · exact gives_put (fun _ => rfl) fun _ => shiftLeft_eq_ofNat _ _
  · exact gives_put (fun _ => rfl) fun _ => ushiftRight_eq_ofNat _ _
  · exact gives_put (fun _ => rfl) fun _ => sshiftRight_eq_ofInt _ _
  · exact gives_put (fun _ => rfl) fun _ => add_immI _ imm
  · exact gives_put (fun _ => rfl) fun _ => rfl
  · exact gives_put (fun _ => rfl) fun _ => rfl
  · exact gives_put (fun _ => rfl) fun _ => rfl
  · exact gives_put (fun _ => rfl) fun _ => slt_immI _ imm
  · exact gives_put (fun _ => rfl) fun _ => ofBool_ult _ _
  · exact gives_put (fun _ => rfl) fun _ => immU_eq u
  · exact gives_put (fun _ => rfl) fun s => congrArg (s.me.pc + ·) (immU_eq u)
  · exact gives_put (fun _ => rfl) fun _ => popcOp_eq _
  · exact gives_put (fun _ => rfl) fun _ => rfl
  · exact gives_put (fun _ => rfl) fun _ => rfl
  · exact gives_put (fun _ => rfl) fun _ => rfl
  · exact gives_put (fun _ => rfl) fun _ => setWidth32_eq_ofNat _

/-- Settles O3: the high halves are those of the exact products, quotients and remainders those of the integers. -/
theorem multiplyHighAndDivide : Obligations.MultiplyHighAndDivide := by
  unfold Obligations.MultiplyHighAndDivide
  exact fun d a b => ⟨gives_alu (fun _ => rfl) mulhOp_eq, gives_alu (fun _ => rfl) mulhuOp_eq, gives_alu (fun _ => rfl) divOp_eq,
    gives_alu (fun _ => rfl) divuOp_eq, gives_alu (fun _ => rfl) remOp_eq, gives_alu (fun _ => rfl) remuOp_eq⟩

/-- Settles O4: each is `putFp` of its function's value and flags; FCLASS writes a number and raises none. -/
theorem scalarFloat : Obligations.ScalarFloat := by
  unfold Obligations.ScalarFloat
  exact fun d a b => ⟨floats_of_putFp fun _ => rfl, floats_of_putFp fun _ => rfl, floats_of_putFp fun _ => rfl, floats_of_putFp fun _ => rfl,
    floats_of_putFp fun _ => rfl, floats_of_putFp fun _ => rfl, floats_of_putFp fun _ => rfl, floats_of_putFp fun _ => rfl,
    floats_of_putFp fun _ => rfl, floats_of_putFp fun _ => rfl, floats_of_putFp fun _ => rfl, floats_of_putFp fun _ => rfl,
    floats_of_putFp fun _ => rfl, gives_put (fun _ => rfl) fun _ => rfl⟩

end Sys2Proof.Machine
end

section
/-! SUPPORT. The five CSR instructions on the CSRs that a thread or its core holds, and what the read-only ones read as (R55, R79, R80). -/

namespace Sys2Proof.Machine

open Sys2Proof Sys2Proof.Safety

/-- What the five instructions answer on a CSR that reads as `old`: `P` after one that only reads, `Q v` after one that writes `v`. -/
def CsrForms (s : State) (d a : Reg) (c : CsrNum) (old : Word) (P : State → Prop) (Q : Word → State → Prop) : Prop :=
  (∃ t, exec (.csrr d c) s = .next t ∧ P t)
    ∧ (∃ t, exec (.csrw d a c) s = .next t ∧ Q (s.reg a) t)
    ∧ (∃ t, exec (.csrs d a c) s = .next t ∧ (if a = 0 then P t else Q (old ||| s.reg a) t))
    ∧ (∃ t, exec (.csrc d a c) s = .next t ∧ (if a = 0 then P t else Q (old &&& ~~~s.reg a) t))
    ∧ (∃ t, exec (.csrwi d a c) s = .next t ∧ Q (a.setWidth 64) t)

theorem csrForms_of {s : State} {d a : Reg} {c : CsrNum} {old : Word} {P : State → Prop} {Q : Word → State → Prop}
    (hread : ∀ op, csrNew op a (s.reg a) old = none → ∃ t, s.csrOp op d a c = .next t ∧ P t)
    (hwrite : ∀ op v, csrNew op a (s.reg a) old = some v → ∃ t, s.csrOp op d a c = .next t ∧ Q v t) : CsrForms s d a c old P Q := by
  refine ⟨hread .r rfl, hwrite .w _ rfl, ?_, ?_, hwrite .wi _ rfl⟩
  · split
    · next h => exact hread .s (if_pos h)
    · next h => exact hwrite .s _ (if_neg h)
  · split
    · next h => exact hread .c (if_pos h)
    · next h => exact hwrite .c _ (if_neg h)

theorem statusPriv_of_ne {s : State} {n : Nat} (hn : n ≠ 0) (v : Option Word) : s.statusPriv n v = false := by
  cases v with
  | none => rfl
  | some v => rw [State.statusPriv, beq_eq_false_iff_ne.mpr hn]; rfl

/-- A form that only reads writes what it read. -/
theorem csrOp_reads {s u : State} {op : CsrOp} {d a : Reg} {c : CsrNum} {v : Word} (hs : csrSup c.toNat = true → s.me.sup = true)
    (hr : s.csrRead c.toNat = (v, u)) (hn : csrNew op a (s.reg a) v = none) : ∃ t, s.csrOp op d a c = .next t ∧ WroteReg u t d v 0 := by
  have h := csrOp_read (d := d) hs (by rwa [hr])
  rw [hr] at h
  exact ⟨_, h, u.put_wrote d v⟩
theorem csrr_reads {s u : State} {d : Reg} {c : CsrNum} {v : Word} (hs : csrSup c.toNat = true → s.me.sup = true)
    (hr : s.csrRead c.toNat = (v, u)) : ∃ t, exec (.csrr d c) s = .next t ∧ WroteReg u t d v 0 := csrOp_reads (op := .r) (a := 0) hs hr rfl

/-! CSRs of the thread. -/

theorem csrForms_stored {s : State} {c : CsrNum} (hc : storedCsr c) (hs : csrSup c.toNat = true → s.me.sup = true) (d a : Reg) :
    CsrForms s d a c (s.me.csr c.toNat) (fun t => WroteReg s t d (s.me.csr c.toNat) 0)
      (fun v t => WroteCsr s t d (s.me.csr c.toNat) c.toNat (masked c.toNat (s.me.csr c.toNat) v)) := by
  obtain ⟨-, hro, hof, h0, h10, h11, h30, h40⟩ := hc
  have hne : ∀ k : CsrNum, c ≠ k → c.toNat ≠ k.toNat := fun k hk h => hk (BitVec.eq_of_toNat_eq h)
  have h81 : c.toNat ≠ 0x081 := fun h => by rw [h] at hro; exact nomatch hro
  have hr := csrRead_thread s hro hof
  refine csrForms_of (fun op hn => csrOp_reads hs hr hn) fun op v hn => ?_
  have h := csrOp_write (d := d) hs (by rwa [hr]) (statusPriv_of_ne (hne 0 h0) _) (fun h => absurd h (hne 0x010 h10))
  rw [hr] at h
  refine ⟨_, h, ?_⟩
  rw [csrWrite_thread _ _ hro hof (hne 0x011 h11) (hne 0x030 h30) (hne 0x040 h40), csr_put s d _ h81]
  exact Mine.wroteCsr h81 ((mine_put s d _).updMe _)

/-! CSRs of the core, less the counters. -/

/-- A CSR of the core is none of the others, and its counters are 0x078 to 0x07F. -/
theorem csrRo_of_core {n : Nat} (hc : csrOfCore n = true) : csrRo n = false := by
  simp only [csrOfCore, csrRo, Bool.or_eq_true, Bool.and_eq_true, decide_eq_true_eq, Bool.or_eq_false_iff, beq_eq_false_iff_ne,
    Bool.and_eq_false_iff, decide_eq_false_iff_not] at hc ⊢
  omega
theorem csrRead_core {n : Nat} (s : State) (hc : csrOfCore n = true) (hn : n < 0x078 ∨ 0x07F < n) : s.csrRead n = (s.myCore.csr n, s) := by
  have hro := csrRo_of_core hc
  simp only [csrRo, Bool.or_eq_false_iff, beq_eq_false_iff_ne, Bool.and_eq_false_iff, decide_eq_false_iff_not] at hro
  unfold State.csrRead
  dsimp only
  rw [if_neg (by omega), if_neg (by omega), if_neg (by omega), if_neg (by omega), if_neg (by omega), if_neg (by omega), if_neg (by omega),
    if_neg (by omega), if_neg (by omega), if_neg (by omega), if_neg (by omega), if_neg (by omega), if_pos hc]
theorem csrWrite_core {n : Nat} (s : State) (v : Word) (hc : csrOfCore n = true) : s.csrWrite n v =
    if 0x070 ≤ n ∧ n ≤ 0x077 ∧ hpmTiming (s.myCore.csr n).toNat = true then
      s.fresh.updMyCore (fun k => (k.setCsr (n + 8) ((s.myCore.csr (n + 8) + Config.elapsedCycles s.freeCount) &&& 0xFFFFFFFFFFFF)).setCsr n
        (masked n (s.myCore.csr n) v))
    else s.updMyCore (·.setCsr n (masked n (s.myCore.csr n) v)) := by
  unfold State.csrWrite
  dsimp only
  rw [csrRo_of_core hc, if_neg Bool.false_ne_true, hc, if_pos rfl, if_pos rfl]
  rfl
/-- After a result is written the core's CSRs other than its counters are as they were. -/
theorem myCore_csr_put (s : State) (d : Reg) (v : Word) {n : Nat} (hn : n < 0x078 ∨ 0x07F < n) : (s.put d v).myCore.csr n = s.myCore.csr n :=
  (mine_put s d v).2.2.2.2.2.1 n (by omega)

/-- A core's CSR takes the value written; the counter of a selection that changes has come on, where its event counts time (log entry 9). -/
def WroteCoreCsr (s : State) (d : Reg) (n : Nat) (v : Word) (t : State) : Prop :=
  ∃ u, WroteReg s u d (s.myCore.csr n) 0 ∧
    (if 0x070 ≤ n ∧ n ≤ 0x077 ∧ hpmTiming (s.myCore.csr n).toNat = true then
      ∃ x, t = u.fresh.updMyCore (fun k => (k.setCsr (n + 8) x).setCsr n (masked n (s.myCore.csr n) v))
    else t = u.updMyCore (·.setCsr n (masked n (s.myCore.csr n) v)))

theorem csrForms_core {s : State} {c : CsrNum} (hc : csrOfCore c.toNat = true) (hn : c.toNat < 0x078 ∨ 0x07F < c.toNat)
    (hs : csrSup c.toNat = true → s.me.sup = true) (d a : Reg) :
    CsrForms s d a c (s.myCore.csr c.toNat) (fun t => WroteReg s t d (s.myCore.csr c.toNat) 0) (WroteCoreCsr s d c.toNat) := by
  have hr := csrRead_core s hc hn
  have hno : c.toNat ≠ 0 ∧ c.toNat ≠ 0x010 := by
    simp only [csrOfCore, Bool.or_eq_true, Bool.and_eq_true, decide_eq_true_eq] at hc
    omega
  refine csrForms_of (fun op hn => csrOp_reads hs hr hn) fun op v hv => ?_
  have h := csrOp_write (d := d) hs (by rwa [hr]) (statusPriv_of_ne hno.1 _) (fun h => absurd h hno.2)
  rw [hr] at h
  refine ⟨_, h, s.put d (s.myCore.csr c.toNat), s.put_wrote d _, ?_⟩
  rw [csrWrite_core _ _ hc, myCore_csr_put s d _ hn]
  split
  · exact ⟨_, rfl⟩
  · rfl

/-! CSRs that are only read (R55, R80). -/

theorem csrWrite_ro {n : Nat} (s : State) (v : Word) (hro : csrRo n = true) : s.csrWrite n v = s := by
  unfold State.csrWrite
  dsimp only
  rw [if_pos hro]
/-- Each form on a read-only CSR reads it, and writes nothing. -/
theorem csrOp_ro {s : State} {c : CsrNum} (hro : csrRo c.toNat = true) (hs : csrSup c.toNat = true → s.me.sup = true) (op : CsrOp) (d a : Reg) :
    s.csrOp op d a c = .next ((s.csrRead c.toNat).2.put d (s.csrRead c.toNat).1) := by
  have hne : ∀ k, csrRo k = false → c.toNat ≠ k := fun k hk h => by rw [h, hk] at hro; exact nomatch hro
  cases hn : csrNew op a (s.reg a) (s.csrRead c.toNat).1 with
  | none => exact csrOp_read hs hn
  | some v =>
    rw [csrOp_write hs hn (statusPriv_of_ne (hne 0 rfl) _) (fun h => absurd h (hne 0x010 rfl)), csrWrite_ro _ _ hro]

/-- RANK is the first valid entry's that names the core, and NONE where there is none (R204). -/
theorem rankOf_first {s : State} {x core r : Nat} {e : Word} {l m : List (Nat × Word)} (hl : (s.ctx x).ranks = l ++ (r, e) :: m)
    (he : rankV e = true ∧ rankDev e = s.devNum ∧ rankCore e = core)
    (hno : ∀ p ∈ l, ¬ (rankV p.2 = true ∧ rankDev p.2 = s.devNum ∧ rankCore p.2 = core)) : s.rankOf x core = BitVec.ofNat 64 r := by
  have h1 : l.find? (fun p => rankV p.2 && rankDev p.2 == s.devNum && rankCore p.2 == core) = none := by
    simpa [and_assoc] using hno
  rw [State.rankOf, hl, List.find?_append, h1, Option.none_or, List.find?_cons_of_pos (by simp [he])]
theorem rankOf_none {s : State} {x core : Nat}
    (hno : ∀ p ∈ (s.ctx x).ranks, ¬ (rankV p.2 = true ∧ rankDev p.2 = s.devNum ∧ rankCore p.2 = core)) : s.rankOf x core = 1#64 <<< 63 := by
  have h1 : (s.ctx x).ranks.find? (fun p => rankV p.2 && rankDev p.2 == s.devNum && rankCore p.2 == core) = none := by
    simpa [and_assoc] using hno
  rw [State.rankOf, h1]

theorem toNat_counterNum (i : BitVec 3) : (0x078 + i.setWidth 12 : CsrNum).toNat = 0x078 + i.toNat := by
  have := i.isLt
  rw [BitVec.toNat_add, BitVec.toNat_setWidth]
  simp
  omega
/-- A counter reads as it stands, or has come on where its event counts time (log entry 9). -/
theorem counter_reads (s : State) (d : Reg) (i : BitVec 3) :
    (hpmTiming (s.myCore.csr (0x078 + i.toNat - 8)).toNat = false →
      ∃ t, exec (.csrr d (0x078 + i.setWidth 12)) s = .next t ∧ WroteReg s t d (s.myCore.csr (0x078 + i.toNat)) 0)
    ∧ (hpmTiming (s.myCore.csr (0x078 + i.toNat - 8)).toNat = true → ∃ t e, exec (.csrr d (0x078 + i.setWidth 12)) s = .next t
      ∧ WroteReg (s.fresh.updMyCore (·.setCsr (0x078 + i.toNat) ((s.myCore.csr (0x078 + i.toNat) + e) &&& 0xFFFFFFFFFFFF))) t d
          ((s.myCore.csr (0x078 + i.toNat) + e) &&& 0xFFFFFFFFFFFF) 0) := by
  have hi := i.isLt
  have hn : 0x078 ≤ 0x078 + i.toNat ∧ 0x078 + i.toNat ≤ 0x07F := by omega
  have hc := toNat_counterNum i
  have hr := csrRead_counter s hn
  have hs : csrSup (0x078 + i.setWidth 12 : CsrNum).toNat = true → s.me.sup = true := fun h => by
    rw [hc] at h
    simp only [csrSup, Bool.or_eq_true, beq_iff_eq, Bool.and_eq_true, decide_eq_true_eq] at h
    omega
  rw [← hc] at hr
  constructor
  · intro ht
    rw [hc, if_neg (by rw [ht]; exact Bool.false_ne_true), ← hc] at hr
    exact hc ▸ csrr_reads hs hr
  · intro ht
    rw [hc, if_pos ht, ← hc] at hr
    obtain ⟨t, he, hw⟩ := csrr_reads (d := d) hs hr
    rw [hc] at hw
    exact ⟨t, _, he, hw⟩

/-- Settles O12: a CSR instruction is one read and one write, and both are said once for the thread's, the core's and the read-only CSRs. -/
theorem csrInstructions : Obligations.CsrInstructions := by
  unfold Obligations.CsrInstructions
  refine ⟨fun c d a s hc hs => csrForms_stored hc hs d a, fun c d a s _ hc hs hn => csrForms_core hc hn hs d a, fun d s => ?reads,
    fun c d a s _ hro hs => ?ignored⟩
  case reads =>
    have reads : ∀ {c : CsrNum} {v : Word}, csrSup c.toNat = false → s.csrRead c.toNat = (v, s) →
        ∃ t, exec (.csrr d c) s = .next t ∧ WroteReg s t d v 0 := fun hs hr => csrr_reads (fun h => nomatch hs.symm.trans h) hr
    refine ⟨reads rfl rfl, reads rfl rfl, reads rfl rfl, reads rfl rfl, reads rfl rfl, reads rfl rfl, reads rfl rfl, ?first, ?none,
      reads rfl rfl, ?cycle, ?time, reads rfl rfl, reads rfl rfl, reads rfl rfl, reads rfl rfl, ?phase, counter_reads s d⟩
    case first => exact fun l r e m hl hv hd hk hno => rankOf_first hl ⟨hv, hd, hk⟩ hno ▸ reads rfl rfl
    case none => exact fun hno => rankOf_none hno ▸ reads rfl rfl
    case cycle => exact (csrr_reads (c := 0x080) (fun h => nomatch h) rfl).imp fun t h => ⟨_, h⟩
    case time => exact (csrr_reads (c := 0x082) (fun h => nomatch h) rfl).imp fun t h => ⟨_, h⟩
    case phase => exact (csrr_reads (c := 0x0D0) (fun h => nomatch h) rfl).imp fun t h => ⟨_, h⟩
  case ignored =>
    have h := fun op a => csrOp_ro hro hs op d a
    exact ⟨(h .w a).trans (h .r 0).symm, (h .s a).trans (h .r 0).symm, (h .c a).trans (h .r 0).symm, (h .wi a).trans (h .r 0).symm⟩

end Sys2Proof.Machine
end

section
/-! SUPPORT. Branches and jumps, the return from a trap, and the state after reset (R58, R64, R66, R75-R78). -/

namespace Sys2Proof.Machine

open Sys2Proof Sys2Proof.Safety

/-! Branches (R75, R76). -/

theorem branch_went {i : Instr} {s : State} {b c : Bool} {off : BitVec 15} (he : exec i s = s.branch b off) (hc : b = c) :
    ∃ t, exec i s = .next t ∧ WentTo s t (if c then s.me.pc + off.signExtend 64 * 4 else s.me.pc + 4) :=
  ⟨_, hc ▸ he, s.jumpTo_went _⟩

theorem not_slt_eq (x y : Word) : (!x.slt y) = decide (y.toInt ≤ x.toInt) := by
  rw [BitVec.slt_eq_decide, ← decide_not, decide_eq_decide, not_lt]
theorem not_ult_eq (x y : Word) : (!x.ult y) = decide (y.toNat ≤ x.toNat) := by
  rw [BitVec.ult_eq_decide, ← decide_not, decide_eq_decide, not_lt]

/-- Settles O39: a branch is one jump to the place that its condition picks. -/
theorem branchesAndJumps : Obligations.BranchesAndJumps := by
  unfold Obligations.BranchesAndJumps
  refine ⟨fun a b m off s => ⟨branch_went rfl rfl, branch_went rfl rfl, branch_went rfl rfl, branch_went rfl (not_slt_eq _ _),
    branch_went rfl rfl, branch_went rfl (not_ult_eq _ _), branch_went rfl (by rw [bne, beq_eq_decide, decide_not]), branch_went rfl rfl, branch_went rfl rfl⟩,
    fun a off s => ⟨⟨_, rfl, s.jumpTo_went _⟩, fun h => ⟨_, ?_, s.jumpTo_went _⟩, fun h => ⟨?_, ?_⟩⟩⟩
  · exact congrArg Host.Outcome.next (if_neg (by simp [h]))
  · exact congrArg Host.Outcome.next (if_pos h)
  · exact congrArg Host.Outcome.next (if_pos h)

/-! ERET (R66). -/

/-- The thread out of its handler: INTRAP is 0, and in supervisor mode SUP is PSUP. -/
def Thread.trapLeft (t : Thread) : Thread :=
  let t' := t.setStatusBit 2 false
  if t.sup then t'.setStatusBit 0 ((t.csr 0).getLsbD 1) else t'
/-- The replay of a thread that returns: that of a lunge record at its word (R112). -/
def Thread.replayAfter (t : Thread) : Option LungeRec :=
  match t.lunge with
  | none => t.replay
  | some r => if t.csr 2 = r.addr + 4 + BitVec.ofNat 64 (4 * r.j) then some r else none

theorem Thread.trapLeft_eq (t : Thread) : ∃ cs, t.trapLeft = { t with csrs := cs } := by
  unfold Thread.trapLeft
  dsimp only
  split <;> exact ⟨_, rfl⟩
theorem Thread.csr_trapLeft (t : Thread) {n : Nat} (hn : n ≠ 0) : t.trapLeft.csr n = t.csr n := by
  unfold Thread.trapLeft
  dsimp only
  split
  · rw [Thread.setStatusBit_csr _ _ _ _ hn, Thread.setStatusBit_csr _ _ _ _ hn]
  · rw [Thread.setStatusBit_csr _ _ _ _ hn]
theorem Thread.status_trapLeft (t : Thread) (b : Nat) : (t.trapLeft.csr 0).getLsbD b =
    if b = 2 then false else if b = 0 ∧ t.sup = true then (t.csr 0).getLsbD 1 else (t.csr 0).getLsbD b := by
  unfold Thread.trapLeft
  dsimp only
  split
  · next hs =>
    rw [Thread.setStatusBit_getLsbD _ _ (by decide), Thread.setStatusBit_getLsbD _ _ (by decide)]
    by_cases h0 : b = 0
    · simp [h0, hs]
    · simp [h0]
  · next hs =>
    rw [Thread.setStatusBit_getLsbD _ _ (by decide), if_neg (fun h : b = 0 ∧ _ => hs h.2)]
theorem Thread.eret_eq (t : Thread) : t.eret = { t.trapLeft with pc := t.csr 2, lunge := none, replay := t.replayAfter } := by
  obtain ⟨cs, hcs⟩ := t.trapLeft_eq
  have he : t.eret = match t.lunge with
      | none => { t.trapLeft with pc := t.csr 2 }
      | some r => { t.trapLeft with pc := t.csr 2, lunge := none,
                                    replay := if t.csr 2 == r.addr + 4 + BitVec.ofNat 64 (4 * r.j) then some r else none } := rfl
  rw [he, Thread.replayAfter, hcs]
  cases h : t.lunge with
  | none => simp
  | some r => simp

/-- Settles O43: ERET retires and leaves the handler; only STATUS, the place and the lunge record change. -/
theorem trapReturn : Obligations.TrapReturn := by
  unfold Obligations.TrapReturn
  refine ⟨by decide, fun s => ⟨_, rfl, ?_⟩⟩
  have h := ((Mine.refl s).retire).updMe Thread.eret
  have hm := h.2.2.2.2.2.2
  obtain ⟨cs, hcs⟩ := s.me.retire.trapLeft_eq
  have hcsr : ∀ n, n ≠ 0 → s.me.retire.eret.csr n = s.me.retire.csr n := fun n hn => by
    rw [Thread.eret_eq]
    exact Thread.csr_trapLeft _ hn
  have hstatus : ∀ b, (s.me.retire.eret.csr 0).getLsbD b = (s.me.retire.trapLeft.csr 0).getLsbD b := fun b => by
    rw [Thread.eret_eq]
    rfl
  have heret := s.me.retire.eret_eq
  rw [hcs] at heret
  refine ⟨h.aside, fun n => ?_, fun r => ?_, fun m => ?_, ?_, ?_, fun b _ => ?_, ?_, fun n hn h81 => ?_, ?_, ?_, ?_, ?_, fun r hr => ?_⟩
  · rw [hm, heret]
    rfl
  · exact (congrArg (fun x : Thread => x.row r.toNat) (hm.trans heret) :)
  · exact (congrArg (fun x : Thread => x.mask m) (hm.trans heret) :)
  · exact (congrArg (fun x : Thread => x.state) (hm.trans heret) :)
  · exact (congrArg (fun x : Thread => x.pc) (hm.trans heret) :).trans (Thread.csr_retire s.me 2)
  · have hsup : s.me.retire.sup = s.me.sup := congrArg (fun v : Word => v.getLsbD 0) (Thread.csr_retire s.me 0)
    rw [hm, hstatus, Thread.status_trapLeft, hsup, Thread.csr_retire, if_neg (show ¬ (0 : Nat) = 0x081 by decide)]
  · rw [hm, hcsr _ (by decide), Thread.csr_retire, if_pos rfl]
  · rw [hm, hcsr _ hn, Thread.csr_retire, if_neg h81]
  · exact (congrArg (fun x : Thread => x.wptr) (hm.trans heret) :)
  · exact (congrArg (fun x : Thread => x.resident) (hm.trans heret) :)
  · exact (congrArg (fun x : Thread => x.spilled) (hm.trans heret) :)
  · exact (congrArg (fun x : Thread => x.lunge) (hm.trans heret) :)
  · refine (congrArg (fun x : Thread => x.replay) (hm.trans heret) :).trans ?_
    change s.me.retire.replayAfter = _
    have hl : s.me.retire.lunge = some r := hr
    rw [Thread.replayAfter, hl, Thread.csr_retire, if_neg (by decide)]

/-! Reset. -/

/-- Settles O56: every table of State.reset is empty, and an unlisted number holds its reset value. -/
theorem resetState : Obligations.ResetState := by
  unfold Obligations.ResetState
  exact ⟨⟨rfl, rfl, fun _ => rfl, fun _ _ hv => nomatch hv⟩, fun _ _ => rfl, fun _ => rfl, fun _ _ => ⟨rfl, rfl, rfl, rfl, rfl, rfl⟩,
    rfl, fun _ => rfl, rfl, rfl, fun _ => rfl⟩

end Sys2Proof.Machine
end

section
/-! SUPPORT. What leaving a hitch, posting an event and ending a thread leave of the threads and of what loads find (R65, R84, R221, R256). -/

namespace Sys2Proof.Machine

open Sys2Proof Sys2Proof.Safety

/-! A hitch left (R221). -/

/-- `y` is `x` but for its hitch and STATUS, of which SUP is kept. -/
structure HitchLeft (x y : Thread) : Prop where
  rest : { y with hitch := none, csrs := [] } = { x with hitch := none, csrs := [] }
  csr : ∀ n, n ≠ 0 → y.csr n = x.csr n
  sup : y.sup = x.sup

theorem HitchLeft.refl (x : Thread) : HitchLeft x x := ⟨rfl, fun _ _ => rfl, rfl⟩
theorem HitchLeft.trans {x y z : Thread} (h : HitchLeft x y) (g : HitchLeft y z) : HitchLeft x z :=
  ⟨g.rest.trans h.rest, fun n hn => (g.csr n hn).trans (h.csr n hn), g.sup.trans h.sup⟩
theorem hitchLeft_unhitched (x : Thread) : HitchLeft x x.unhitched :=
  ⟨rfl, fun n hn => Thread.setStatusBit_csr x 8 n false hn,
    (Thread.setStatusBit_getLsbD x 8 (by decide) false 0).trans (if_neg (by decide))⟩

/-- Threads of `t` have left hitches of `s`; the contexts are as they were. -/
def HitchesLeft (s t : State) : Prop := (∀ j, HitchLeft (s.thread j) (t.thread j)) ∧ t.ctxs = s.ctxs

theorem HitchesLeft.refl (s : State) : HitchesLeft s s := ⟨fun _ => .refl _, rfl⟩
theorem HitchesLeft.updThread {s t : State} (h : HitchesLeft s t) (i : ThreadId) {f : Thread → Thread} (hf : ∀ x, HitchLeft x (f x)) :
    HitchesLeft s (t.updThread i f) := by
  refine ⟨fun j => ?_, h.2⟩
  rw [State.thread_updThread]
  split
  · next hj => exact hj ▸ (h.1 j).trans (hj ▸ hf _)
  · exact h.1 j
theorem HitchesLeft.foldl {s t : State} (h : HitchesLeft s t) (l : List ThreadId) {f : Thread → Thread} (hf : ∀ x, HitchLeft x (f x)) :
    HitchesLeft s (l.foldl (fun s m => s.updThread m f) t) :=
  foldl_keeps (P := HitchesLeft s) (fun _ m _ hu => hu.updThread m hf) t h
theorem HitchesLeft.hpm {s t : State} (h : HitchesLeft s t) (c code n : Nat) : HitchesLeft s (t.hpm c code n) :=
  ⟨fun j => by rw [State.thread_hpm]; exact h.1 j, h.2⟩
theorem hitchesLeft_leaveHitch (s : State) (t : ThreadId) : HitchesLeft s (s.leaveHitch t) := by
  unfold State.leaveHitch
  split
  · exact .refl s
  · unfold State.leaveWith
    split
    · exact (HitchesLeft.refl s).foldl _ hitchLeft_unhitched
    · have h := ((HitchesLeft.refl s).updThread t hitchLeft_unhitched).hpm t.core 0x1B 1
      dsimp only
      split
      · exact h.foldl _ hitchLeft_unhitched
      · exact h.foldl _ fun _ => ⟨rfl, fun _ _ => rfl, rfl⟩

/-! Latches (R85). -/

theorem latchedFrom_coreLatchAll (k : Core) (n : Nat) : LatchedFrom (k.thread n) (k.latchAll.thread n) := by
  have h := latchedFrom_latchAll (State.reset.setCore 0 k) 0 n
  simpa [State.thread, State.latchAll] using h
theorem latchedFrom_latchAll_any (s : State) (c : Nat) (j : ThreadId) : LatchedFrom (s.thread j) ((s.latchAll c).thread j) := by
  by_cases hj : j.core = c
  · subst hj
    exact latchedFrom_latchAll s j.core j.slot
  · exact .inl (by rw [State.thread, State.latchAll, State.core_updCore, if_neg hj]; rfl)

/-- Latching the slots of a list but one sets just their latches. -/
theorem thread_latchFold (slot n : Nat) (l : List Nat) (k : Core) :
    (l.foldl (fun k m => if m = slot then k else k.setThread m { k.thread m with latch := true }) k).thread n =
      if n ∈ l ∧ n ≠ slot then { k.thread n with latch := true } else k.thread n := by
  induction l generalizing k with
  | nil => simp
  | cons m l ih =>
    rw [List.foldl_cons, ih]
    by_cases hm : m = slot
    · rw [if_pos hm]
      by_cases hn : n = m
      · simp [hn, hm]
      · simp [hn]
    · rw [if_neg hm, Core.thread_setThread]
      by_cases hn : n = m
      · subst hn
        simp [hm]
      · simp [hn]
theorem core_latchOthers (s : State) (t : ThreadId) (n : Nat) : ((s.latchOthers t).core t.core).thread n =
    if n < 11 ∧ n ≠ t.slot then { (s.core t.core).thread n with latch := true } else (s.core t.core).thread n := by
  rw [State.latchOthers, State.core_updCore, if_pos rfl, thread_latchFold]
  simp [slots]
theorem thread_latchOthers_self (s : State) (t : ThreadId) : (s.latchOthers t).thread t = s.thread t :=
  (core_latchOthers s t t.slot).trans (if_neg fun h => h.2 rfl)

/-! An event posted (R256). -/

theorem latchedFrom_writeEvent (s : State) (x c : Nat) (e : Event) (j : ThreadId) : LatchedFrom (s.thread j) ((s.writeEvent x c e).thread j) := by
  have h : ∀ (u : State) (f : Core → Core), (∀ k, (f k).threads = k.threads) → (∀ i, u.thread i = s.thread i) →
      LatchedFrom (s.thread j) ((((u.updCore c f).hpm c 0x0A 1).latchAll c).thread j) := fun u f hf hu => by
    have hthread : ((u.updCore c f).hpm c 0x0A 1).thread j = s.thread j := by
      rw [State.thread_hpm, ← hu, State.thread, State.core_updCore]
      split
      · next hj => rw [Core.thread, hf, ← hj]; rfl
      · rfl
    exact hthread ▸ latchedFrom_latchAll_any _ c j
  exact h { s.fresh with time := s.time + Config.elapsedNs s.freeCount } _ (fun _ => rfl) fun _ => rfl
theorem latchedFrom_postEvent (s : State) (x kind ident : Nat) (d1 d2 : Word) (j : ThreadId) :
    LatchedFrom (s.thread j) ((s.postEvent x kind ident d1 d2).thread j) := by
  unfold State.postEvent
  dsimp only
  split
  · exact .inl rfl
  · split
    · exact latchedFrom_writeEvent ..
    · split <;> exact .inl rfl
theorem cur_postEvent (s : State) (x kind ident : Nat) (d1 d2 : Word) : (s.postEvent x kind ident d1 d2).cur = s.cur := by
  unfold State.postEvent
  dsimp only
  split
  · rfl
  · split
    · rfl
    · split <;> rfl

/-! A context that fails. -/

theorem thread_failCtx (s : State) (x : Nat) (j : ThreadId) : (s.failCtx x).thread j = s.thread j := by
  unfold State.failCtx
  split <;> rfl
theorem cur_failCtx (s : State) (x : Nat) : (s.failCtx x).cur = s.cur := by
  unfold State.failCtx
  split <;> rfl
theorem failCtx_failed {s : State} {x : Nat} (h : (s.ctx x).state = .active) : ((s.failCtx x).ctx x).state = .failed := by
  unfold State.failCtx
  rw [if_pos h, State.ioEvent, State.ctx_updIo]
  exact (congrArg Ctx.state ((State.ctx_updCtx s x x (fun y => { y with state := .failed, park := some (y.park.getD .failure) })).trans
    (if_pos rfl)) :)

/-! A thread that ends (R84). -/

/-- The thread when it is DONE with a value. -/
def Thread.ended (x : Thread) (v : Word) : Thread :=
  { x.unhitched with
    state := .done v, resident := 1, spilled := 0, replay := none, fences := [], arrival := none, woke := none }

theorem latchedFrom_leaveBars (k : Core) (slot n : Nat) : LatchedFrom (k.thread n) ((k.leaveBars slot).thread n) := by
  unfold Core.leaveBars
  refine foldl_keeps (P := fun j : Core => LatchedFrom (k.thread n) (j.thread n)) (fun j m _ h => ?_) k (.inl rfl)
  dsimp only
  split
  · exact h.trans (latchedFrom_coreLatchAll _ n)
  · exact h
theorem leaveBars_loads (k : Core) (slot : Nat) : (k.leaveBars slot).mem = k.mem ∧ (k.leaveBars slot).stores = k.stores := by
  unfold Core.leaveBars
  refine foldl_keeps (P := fun j : Core => j.mem = k.mem ∧ j.stores = k.stores) (fun j m _ h => ?_) k ⟨rfl, rfl⟩
  dsimp only
  split
  · have hr := latchAll_rest { j with bars := j.bars.set m ((j.bar m).leave slot).1 }
    exact ⟨(congrArg (fun k : Core => k.mem) hr :).trans h.1, (congrArg (fun k : Core => k.stores) hr :).trans h.2⟩
  · exact h

theorem cur_endThread (s : State) (t : ThreadId) (v : Word) : (s.endThread t v).cur = s.cur := by
  unfold State.endThread
  dsimp only
  split <;> rfl
theorem thread_endThread (s : State) (t : ThreadId) (v : Word) : ∃ x, LatchedFrom (s.thread t) x ∧ (s.endThread t v).thread t = x.ended v := by
  refine ⟨((s.core t.core).leaveBars t.slot).thread t.slot, latchedFrom_leaveBars .., ?_⟩
  have h : (s.updCore t.core (fun k => k.leaveBars t.slot)).thread t = ((s.core t.core).leaveBars t.slot).thread t.slot := by
    rw [State.thread, State.core_updCore, if_pos rfl]
  unfold State.endThread
  dsimp only
  split
  · rw [State.thread_updThread, if_pos rfl, h]
    rfl
  · rw [thread_latchOthers_self, State.thread_updThread, if_pos rfl, h]
    rfl
theorem csr_ended {x y : Thread} (h : LatchedFrom x y) (v : Word) {n : Nat} (hn : n ≠ 0) : (y.ended v).csr n = x.csr n := by
  have hy : (y.ended v).csr n = y.csr n := (hitchLeft_unhitched y).csr n hn
  rcases h with rfl | rfl
  · exact hy
  · exact hy
theorem endThread_latches {s : State} {t : ThreadId} (v : Word) (ht : t.slot ≠ 0) {n : Nat} (hn : n < 11) (hne : n ≠ t.slot) :
    (((s.endThread t v).core t.core).thread n).latch = true := by
  unfold State.endThread
  dsimp only
  rw [if_neg ht, core_latchOthers, if_pos ⟨hn, hne⟩]

/-! What loads find. -/

/-- All that a load looks at is in `t` as in `s`. -/
structure LoadsKept (s t : State) : Prop where
  cores : ∀ c, (t.core c).mem = (s.core c).mem ∧ (t.core c).stores = (s.core c).stores
  hbm : t.hbm = s.hbm
  weight : t.weight = s.weight
  stale : t.stale = s.stale
  free : t.freeCount = s.freeCount

theorem LoadsKept.trans {s t u : State} (h : LoadsKept s t) (g : LoadsKept t u) : LoadsKept s u :=
  ⟨fun c => ⟨(g.cores c).1.trans (h.cores c).1, (g.cores c).2.trans (h.cores c).2⟩, g.hbm.trans h.hbm, g.weight.trans h.weight,
    g.stale.trans h.stale, g.free.trans h.free⟩
theorem loadsKept_updCore (s : State) (c : Nat) {f : Core → Core} (hf : (f (s.core c)).mem = (s.core c).mem ∧ (f (s.core c)).stores = (s.core c).stores) :
    LoadsKept s (s.updCore c f) := by
  refine ⟨fun d => ?_, rfl, rfl, rfl, rfl⟩
  rw [State.core_updCore]
  split
  · next h => exact h ▸ hf
  · exact ⟨rfl, rfl⟩
theorem loadsKept_updThread (s : State) (t : ThreadId) (f : Thread → Thread) : LoadsKept s (s.updThread t f) :=
  loadsKept_updCore s t.core (f := (·.setThread t.slot (f (s.thread t)))) ⟨rfl, rfl⟩
theorem Mine.loadsKept {s t : State} {x : Thread} {w : FFlags} (h : Mine s t x w) : LoadsKept s t := by
  obtain ⟨hall, -, hcores, -, hrest, -, -⟩ := h
  refine ⟨fun c => ?_, (congrArg State.hbm hall :), (congrArg State.weight hall :), (congrArg State.stale hall :), (congrArg State.freeCount hall :)⟩
  by_cases hc : c = s.cur.core
  · subst hc
    exact ⟨(congrArg Core.mem hrest :), (congrArg Core.stores hrest :)⟩
  · rw [hcores c hc]
    exact ⟨rfl, rfl⟩
theorem loadsKept_latchOthers (s : State) (t : ThreadId) : LoadsKept s (s.latchOthers t) :=
  loadsKept_updCore s t.core (foldl_keeps (P := fun k : Core => k.mem = (s.core t.core).mem ∧ k.stores = (s.core t.core).stores)
    (fun k n _ h => by split <;> exact h) (s.core t.core) ⟨rfl, rfl⟩)
theorem loadsKept_endThread (s : State) (t : ThreadId) (v : Word) : LoadsKept s (s.endThread t v) := by
  have h := loadsKept_updCore s t.core (f := fun k => k.leaveBars t.slot) (leaveBars_loads _ _)
  have hu : ∀ u f, LoadsKept s u → LoadsKept s (u.updThread t f) := fun u f hu => hu.trans (loadsKept_updThread u t f)
  unfold State.endThread
  dsimp only
  split
  · exact hu _ _ h
  · exact (hu _ _ h).trans (loadsKept_latchOthers _ t)
theorem LoadsKept.loadByte {s t : State} (h : LoadsKept s t) (c : Nat) (p : Place) : t.loadByte c p = s.loadByte c p := by
  have hhbm : ∀ d a, t.hbmByte d a = s.hbmByte d a := fun d a => by rw [State.hbmByte, State.hbmByte, h.hbm, h.stale]
  have hmem : t.memByte c p = s.memByte c p := by
    cases p with
    | loc o => exact congrArg (Mem.byte · o) (h.cores c).1
    | hbm a => exact congrArg (Mem.byte · a) h.hbm
    | weight a => exact congrArg (Mem.byte · a) h.weight
    | remote e a => exact congrArg (fun n => Config.remoteByte (n + a)) h.free
  have hdie : t.dieByte c p = s.dieByte c p := by
    cases p with
    | hbm a => exact hhbm _ a
    | loc o => exact hmem
    | weight a => exact hmem
    | remote e a => exact hmem
  rw [State.loadByte, State.loadByte, (h.cores c).2, hdie]

end Sys2Proof.Machine
end

section
/-! SUPPORT. Traps that no handler takes, and the instructions that end or hold their thread (R65, R82-R87, R257, R259). -/

namespace Sys2Proof.Machine

open Sys2Proof Sys2Proof.Safety

/-! A trap without a handler (R65, R257). -/

/-- The thread has left its hitch and names the trap; a supervisor's context fails, and a user thread ends after an event. -/
theorem trap_unhandled {s : State} {cause : Nat} {tval : Word} (h : (s.leaveHitch s.cur).me.ownHandler cause = false) :
    ∃ u x, HitchesLeft s u ∧ u.cur = s.cur ∧ u.thread s.cur = x ∧ s.trap cause tval =
      let v := u.setThread s.cur (x.trapRegs cause tval).lungeTrap
      if x.sup then (v.updThread s.cur (fun y => { y with state := .ready, woke := none })).failCtx x.ctx
      else (v.postEvent x.ctx 1 (identOf s.cur) (BitVec.ofNat 64 cause) tval).endThread s.cur (BitVec.allOnes 64) := by
  have hcur := s.cur_leaveHitch s.cur
  have hleft := hitchesLeft_leaveHitch s s.cur
  rw [State.me, hcur] at h
  unfold State.trap State.trapAt
  dsimp only
  generalize s.leaveHitch s.cur = u at *
  have hu : ∃ v, (if cause = 5 then u.hpm s.cur.core 0x0D 1 else u) = v ∧ HitchesLeft s v ∧ v.cur = s.cur
      ∧ v.thread s.cur = u.thread s.cur := by
    split
    · exact ⟨_, rfl, hleft.hpm _ _ _, hcur, State.thread_hpm ..⟩
    · exact ⟨_, rfl, hleft, hcur, rfl⟩
  obtain ⟨v, hv, hvleft, hvcur, hvx⟩ := hu
  refine ⟨v, _, hvleft, hvcur, rfl, ?_⟩
  rw [hv, if_neg (by rw [hvx, h]; exact Bool.false_ne_true)]

theorem csr_lungeTrap (x : Thread) (n : Nat) : x.lungeTrap.csr n = x.csr n := Thread.csr_congr x.lungeTrap_rest.1 n

/-- CAUSE, EPC and TVAL say what happened, wherever the trap goes (R57). -/
theorem trap_unhandled_me {s : State} {cause : Nat} {tval : Word} (h : (s.leaveHitch s.cur).me.ownHandler cause = false) :
    (∀ n, n ≠ 0 → (s.trap cause tval).me.csr n = (s.me.trapRegs cause tval).csr n)
      ∧ (s.me.sup = false → (s.trap cause tval).me.state = .done (BitVec.allOnes 64))
      ∧ (s.me.sup = true → (s.ctx s.me.ctx).state = .active → ((s.trap cause tval).ctx s.me.ctx).state = .failed) := by
  obtain ⟨u, x, ⟨hleft, hctxs⟩, hcur, hx, ht⟩ := trap_unhandled (tval := tval) h
  have hme : HitchLeft s.me x := hx ▸ hleft s.cur
  have hpc : x.pc = s.me.pc := (congrArg (fun y : Thread => y.pc) hme.rest :)
  have hctx : x.ctx = s.me.ctx := (congrArg (fun y : Thread => y.ctx) hme.rest :)
  have hregs : ∀ n, n ≠ 0 → (x.trapRegs cause tval).lungeTrap.csr n = (s.me.trapRegs cause tval).csr n := fun n hn => by
    rw [csr_lungeTrap, Thread.csr_trapRegs, Thread.csr_trapRegs, hpc, hme.csr n hn]
  dsimp only at ht
  rw [hme.sup, hctx] at ht
  cases hs : s.me.sup with
  | true =>
    rw [hs, if_pos rfl] at ht
    rw [ht]
    refine ⟨fun n hn => ?_, fun h => absurd h (by decide), fun _ ha => ?_⟩
    · rw [State.me, thread_failCtx, cur_failCtx, State.updThread_cur, State.setThread_cur, hcur, State.thread_updThread, if_pos rfl,
        State.thread_setThread, if_pos rfl]
      exact hregs n hn
    · exact failCtx_failed (by rw [State.ctx_updThread, State.ctx_setThread, State.ctx, hctxs]; exact ha)
  | false =>
    rw [hs, if_neg Bool.false_ne_true] at ht
    have hp := latchedFrom_postEvent (u.setThread s.cur (x.trapRegs cause tval).lungeTrap) s.me.ctx 1 (identOf s.cur) (BitVec.ofNat 64 cause) tval s.cur
    rw [State.thread_setThread, if_pos rfl] at hp
    obtain ⟨y, hy, hend⟩ := thread_endThread ((u.setThread s.cur (x.trapRegs cause tval).lungeTrap).postEvent s.me.ctx 1 (identOf s.cur)
      (BitVec.ofNat 64 cause) tval) s.cur (BitVec.allOnes 64)
    have hm : (s.trap cause tval).me = y.ended (BitVec.allOnes 64) := by
      rw [ht, State.me, cur_endThread, cur_postEvent, State.setThread_cur, hcur, hend]
    rw [hm]
    exact ⟨fun n hn => (csr_ended (hp.trans hy) _ hn).trans (hregs n hn), fun _ => rfl, fun h => absurd h (by decide)⟩

/-- Settles O42: the instructions are their traps; one with a handler is delivered, another ends the thread or fails its context. -/
theorem traps : Obligations.Traps := by
  unfold Obligations.Traps
  refine fun a w s => ⟨rfl, rfl, rfl, fun cause tval => ⟨fun h => State.trap_delivered s cause tval h, fun h => ?_⟩⟩
  obtain ⟨hcsr, huser, hsup⟩ := trap_unhandled_me (tval := tval) h
  refine ⟨?_, ?_, ?_, huser, hsup⟩
  · rw [hcsr 1 (by decide), Thread.csr_trapRegs, if_pos rfl]
  · rw [hcsr 2 (by decide), Thread.csr_trapRegs, if_neg (by decide), if_pos rfl]
  · rw [hcsr 3 (by decide), Thread.csr_trapRegs, if_neg (by decide), if_neg (by decide), if_pos rfl]

/-! Going on with a change of the thread that neither its place nor its registers, rows and masks show. -/

/-- A thread's place, registers, rows and masks. -/
def shown (x : Thread) : Word × Option LungeRec × Tbl Word × Tbl Word × BitVec 88 × Tbl Row × Tbl (BitVec 16) :=
  (x.pc, x.replay, x.gregs, x.phys, x.dead, x.rows, x.masks)
theorem goesOn_of_shown {s t : State} (h : shown t.me = shown s.me.retire.stepPc) : Behind s t ∧ RegsSame s t ∧ RowsSame s t ∧ MasksSame s t := by
  simp only [shown, Prod.mk.injEq] at h
  obtain ⟨hpc, hreplay, hgregs, hphys, hdead, hrows, hmasks⟩ := h
  refine ⟨fun h0 => ?_, fun n => ?_, fun r => ?_, fun m => ?_⟩
  · rw [hpc, hreplay]
    exact Thread.stepPc_behind s.me.retire h0
  · rw [Thread.regNo_congr hgregs hphys hdead, Thread.regNo_stepPc, Thread.regNo_retire]
  · exact Thread.row_congr (hrows.trans (Thread.stepPc_rows _)) _
  · exact Thread.mask_congr (hmasks.trans (Thread.stepPc_masks _)) _
theorem Mine.wentOn {s t : State} (h : Mine s t s.me.retire.stepPc s.way) : WentOn s t :=
  wentOn_of_wroteReg_g0 (v := 0) (Mine.wroteReg (d := 0) h)
theorem stepPc_latch_false (t : Thread) : ({ t with latch := false } : Thread).stepPc = { t.stepPc with latch := false } := by
  unfold Thread.stepPc
  dsimp only
  split
  · rfl
  · split
    · rfl
    · split <;> rfl

/-! YIELD (R83). -/

theorem getLsbD_readyOthers (k : Core) (slot : Nat) {n : Nat} (hn : n < 11) :
    (k.readyOthers slot).getLsbD n = decide (n ≠ slot ∧ (k.thread n).state = .ready) := by
  rw [Core.readyOthers, slots, List.range_eq_range', getLsbD_bitFold (fun n => n ≠ slot ∧ (k.thread n).state = .ready) 11 0 n hn]
  simp [hn]

/-- The thread that is passed over until the others have issued, and their latches set. -/
def State.turnPassed (s : State) (m : BitVec 11) : State := (s.advance.updMe (fun t => { t with yieldMask := m })).latchOthers s.cur

theorem exec_yield {s : State} (h : s.me.hitch = none) : exec .yield s = .next (s.turnPassed (s.myCore.readyOthers s.cur.slot)) := by
  change execYield s = _
  unfold execYield
  rw [h]
  rfl
theorem mine_turnPassed (s : State) (m : BitVec 11) :
    Mine s (s.advance.updMe (fun t => { t with yieldMask := m })) { s.me.retire.stepPc with yieldMask := m } s.way :=
  ((Mine.refl s).advance).updMe _
theorem me_turnPassed (s : State) (m : BitVec 11) : (s.turnPassed m).me = { s.me.retire.stepPc with yieldMask := m } :=
  (thread_latchOthers_self _ s.cur).trans (mine_turnPassed s m).2.2.2.2.2.2

/-! CHKPT (R259). -/

/-- A load that meets no uncorrectable word finds the bytes and leaves the state, where they are this device's (R133). -/
theorem loadChecked_good {s : State} {t : ThreadId} {ea : Word} {p : Place} {n : Nat} (hb : s.meetsBad t.core p n = false)
    (hr : ∀ d a, p ≠ .remote d a) : s.loadChecked t ea p n = (s.loadBytes t.core p n, s) := by
  have hseen : s.seen t.core p n = s := by
    cases p with
    | remote d a => exact absurd rfl (hr d a)
    | loc o => rfl
    | hbm a => rfl
    | weight a => rfl
  rw [State.loadChecked, hb, if_neg Bool.false_ne_true, hseen]
/-- A block within a page is loaded at one place. -/
theorem loadSpan_page {s : State} {ea : Word} {n align : Nat} {p : Place} (go : State → List Byte → State) (hg : addrClass ea = .global)
    (hn : ea.toNat % 65536 + n ≤ 65536) (hc : s.check s.cur ea n align .read = .ok p) (hb : s.meetsBad s.cur.core p n = false)
    (hr : ∀ d a, p ≠ .remote d a) : s.loadSpan ea n align go = go s (s.loadBytes s.cur.core p n) := by
  have hp : pieces ea n = [(ea, n)] := if_pos hn
  unfold State.loadSpan
  dsimp only
  rw [hg]
  dsimp only
  rw [hp, List.map_cons, List.map_nil]
  dsimp only
  rw [if_pos rfl, hc, List.find?_cons_of_neg Bool.false_ne_true, List.find?_nil, List.foldl_cons, List.foldl_nil]
  dsimp only
  rw [loadChecked_good hb hr, List.nil_append]

/-- CHKPT with a park asked for and a table in one page. -/
theorem exec_chkpt {s : State} {a : Reg} {p q : Place} (hl : s.myCore.line = true) (hr : ∀ e x, p ≠ .remote e x ∧ q ≠ .remote e x)
    (ha : bits (s.reg a) 2 0 = 0) (hg : addrClass (s.reg a) = .global) (hn : (s.reg a).toNat % 65536 + 40 ≤ 65536)
    (hp : s.check s.cur (s.reg a) 40 8 .read = .ok p) (hpb : s.meetsBad s.cur.core p 40 = false) {n : Nat}
    (hdef : n = 40 + 16 * bits (dwordAt (s.loadBytes s.cur.core p 40) 0) 55 48) (hm : (s.reg a).toNat % 65536 + n ≤ 65536)
    (hq : s.check s.cur (s.reg a) n 8 .read = .ok q) (hqb : s.meetsBad s.cur.core q n = false) :
    exec (.chkpt a) s = .next (if tableOk (dwordsOf (s.loadBytes s.cur.core q n)) then
      s.advance.updMe (fun t => { t with state := .parked false none, table := dwordsOf (s.loadBytes s.cur.core q n) })
    else s.trap 18 (s.reg a)) := by
  subst hdef
  change execChkpt a s = _
  unfold execChkpt
  dsimp only
  rw [hl, if_neg (by decide), if_neg (not_or.mpr ⟨not_not.mpr ha, not_not.mpr hg⟩), loadSpan_page _ hg hn hp hpb fun e x => (hr e x).1,
    loadSpan_page _ hg hm hq hqb fun e x => (hr e x).2]

/-- Settles O44: each ends, holds or parks its thread as its rule says, and none of them is seen by a load. -/
theorem threadEndAndWaits : Obligations.ThreadEndAndWaits := by
  unfold Obligations.ThreadEndAndWaits
  refine ⟨fun a s => ⟨⟨_, rfl, ?exit⟩, fun h => ⟨_, exec_yield h, ?yield⟩, fun h => ⟨_, congrArg Host.Outcome.next (if_pos h), ?latched⟩,
    fun h => ⟨_, congrArg Host.Outcome.next (if_neg (by rw [h]; exact Bool.false_ne_true)), rfl⟩, ⟨_, rfl, s.advance_wrote⟩⟩, fun a s => ?chkpt⟩
  case exit =>
    obtain ⟨x, -, hx⟩ := thread_endThread s.retire s.cur (s.reg a)
    have hm : (s.retire.endThread s.cur (s.reg a)).me = x.ended (s.reg a) := by rw [State.me, cur_endThread, State.retire_cur, hx]
    have hloads := (Mine.refl s).retire.loadsKept.trans (loadsKept_endThread s.retire s.cur (s.reg a))
    unfold State.exitWith
    rw [hm]
    exact ⟨rfl, rfl, rfl, rfl, fun h0 n hn hne => endThread_latches _ h0 hn hne, hloads.loadByte⟩
  case yield =>
    have hme := me_turnPassed s (s.myCore.readyOthers s.cur.slot)
    obtain ⟨hbehind, hregs, hrows, hmasks⟩ := goesOn_of_shown (s := s) ((congrArg shown hme).trans rfl)
    refine ⟨hbehind, hregs, hrows, hmasks, fun n hn => ?_, fun n hn hne => ?_, ?_,
      ((mine_turnPassed s _).loadsKept.trans (loadsKept_latchOthers _ s.cur)).loadByte⟩
    · rw [hme]
      exact getLsbD_readyOthers _ _ hn
    · exact congrArg Thread.latch ((core_latchOthers _ s.cur n).trans (if_pos ⟨hn, hne⟩))
    · rw [hme]
      exact Thread.stepPc_latch _
  case latched =>
    refine Mine.wentOn ?_
    have hm := (((Mine.refl s).advance).updMe (fun x => { x with latch := false })).before_updMe (fun x => { x with latch := false })
    rw [State.me_updMe, show ({ s.me with latch := false } : Thread).retire.stepPc = { s.me.retire.stepPc with latch := false } from
      stepPc_latch_false s.me.retire]
    exact hm
  case chkpt =>
    refine ⟨fun h => ⟨_, congrArg Host.Outcome.next (if_pos (by rw [h]; rfl)), s.advance_wrote⟩, fun h hbad => ?_,
      fun p q hl hr ha hg hn hp hpb => fun _ hm hq hqb => ⟨fun ht => ?_, fun ht => ?_⟩⟩
    · exact congrArg Host.Outcome.next ((if_neg (by rw [h]; decide)).trans (if_pos hbad))
    · rw [exec_chkpt hl hr ha hg hn hp hpb rfl hm hq hqb, ht]
      rfl
    · have hx := exec_chkpt hl hr ha hg hn hp hpb rfl hm hq hqb
      rw [ht, if_pos rfl] at hx
      have hmine := ((Mine.refl s).advance).updMe (fun t => { t with
        state := .parked false none, table := dwordsOf (s.loadBytes s.cur.core q (40 + 16 * bits (dwordAt (s.loadBytes s.cur.core p 40) 0) 55 48)) })
      have hme := hmine.2.2.2.2.2.2
      obtain ⟨hbehind, hregs, hrows, hmasks⟩ := goesOn_of_shown (s := s) ((congrArg shown hme).trans rfl)
      exact ⟨_, hx, hbehind, (congrArg Thread.state hme :), (congrArg Thread.table hme :), hregs, hrows, hmasks, hmine.loadsKept.loadByte⟩

end Sys2Proof.Machine
end

section
/-! SUPPORT. Local blocks that an instruction loads, and helpers (R58, R61-R63, R130, R133). -/

namespace Sys2Proof.Machine

open Sys2Proof Sys2Proof.Safety

/-! Dwords of local memory (R130, R133). -/

/-- A local address is checked to a place of local memory. -/
theorem check_loc {s : State} {t : ThreadId} {ea : Word} {n align : Nat} {k : Access} {p : Place} (hl : addrClass ea = .loc)
    (h : s.check t ea n align k = .ok p) : p = .loc (localOff ea) := by
  unfold State.check at h
  dsimp only at h
  rw [hl] at h
  dsimp only at h
  split at h
  · exact nomatch h
  · split at h
    · exact nomatch h
    · split at h
      · exact nomatch h
      · exact (Checked.ok.inj h).symm
theorem addrClass_loc {ea : Word} (hlo : localBase.toNat ≤ ea.toNat) (hhi : ea.toNat < localBase.toNat + localBytes) : addrClass ea = .loc := by
  have hb : localBase.toNat = 0xFFFFFFFFFFF00000 := rfl
  rw [addrClass, if_neg (by omega), if_pos ⟨hlo, hhi⟩]

theorem loadDwords_one {s : State} {t : ThreadId} {ea : Word} {p : Place} (hb : s.meetsBad t.core p 8 = false) (hr : ∀ d a, p ≠ .remote d a) :
    s.loadDwords t ea p (8 / 8) = (s.loadBytes t.core p 8, s) := by
  have hp : p.plus (8 * 0) = p := by cases p <;> rfl
  change ([] ++ (s.loadChecked t (ea + BitVec.ofNat 64 (8 * 0)) (p.plus (8 * 0)) 8).1,
    (s.loadChecked t (ea + BitVec.ofNat 64 (8 * 0)) (p.plus (8 * 0)) 8).2) = _
  rw [hp, loadChecked_good hb hr, List.nil_append]
theorem localBlock_reads {s : State} {ea : Word} {bs : List Byte} (go : State → List Byte → State) (h : ReadsLocal s ea 8 8 bs) :
    s.localBlock ea 8 8 false go = go s bs := by
  obtain ⟨hlo, hhi, hal, p, hc, hb, rfl⟩ := h
  obtain rfl := check_loc (addrClass_loc hlo (by omega)) hc
  unfold State.localBlock
  dsimp only
  rw [if_neg (fun h => nomatch h.1), if_neg (not_not.mpr ⟨hlo, hhi⟩), if_neg (not_not.mpr hal), hc]
  dsimp only
  rw [loadDwords_one hb fun _ _ h => nomatch h]
theorem localLoads_reads {s : State} (go : State → List Byte → State) (n : Nat) (ea : Word) (acc bs : List Byte) (hl : bs.length = 8 * n)
    (h : ∀ i, i < n → ReadsLocal s (ea + BitVec.ofNat 64 (8 * i)) 8 8 ((bs.drop (8 * i)).take 8)) :
    State.localLoads go n ea acc s = go s (acc ++ bs) := by
  induction n generalizing ea acc bs with
  | zero => rw [State.localLoads, List.eq_nil_of_length_eq_zero hl, List.append_nil]
  | succ n ih =>
    have h0 := h 0 (Nat.succ_pos n)
    rw [Nat.mul_zero, BitVec.add_zero, List.drop_zero] at h0
    rw [State.localLoads, localBlock_reads _ h0, ih (ea + 8) (acc ++ bs.take 8) (bs.drop 8) (by rw [List.length_drop, hl]; omega) fun i hi => ?_,
      List.append_assoc, List.take_append_drop]
    have hi := h (i + 1) (Nat.succ_lt_succ hi)
    rwa [show ea + BitVec.ofNat 64 (8 * (i + 1)) = ea + 8 + BitVec.ofNat 64 (8 * i) by
      rw [BitVec.add_assoc, Nat.mul_succ, Nat.add_comm, BitVec.ofNat_add]; rfl, show 8 * (i + 1) = 8 + 8 * i by omega, ← List.drop_drop] at hi

/-! HELP (R61). -/

/-- What HELP does with the block that it has read: nothing is free, or the lowest FREE slot starts. -/
def State.helpWith (s : State) (d : Reg) (va : Word) (bs : List Byte) : State :=
  match s.myCore.freeSlot with
  | none => s.put d 0
  | some n => (s.release.updMyCore (·.setThread n (s.release.me.helper va (dwordAt bs 0) (dwordAt bs 8) (dwordAt bs 16)
      s.release.myCore.serial))).put d (BitVec.ofNat 64 n)

section
variable {d a b : Reg} {s : State}

theorem help_inside (h : localBase.toNat ≤ (s.reg b).toNat) (g : (s.reg b).toNat ≤ 0xFFFFFFFFFFF7FFE8) :
    ¬ (s.reg b < localBase ∨ localBase + 0x7FFE8 < s.reg b) := by
  have hb : (localBase + 0x7FFE8).toNat = 0xFFFFFFFFFFF7FFE8 := rfl
  rw [BitVec.lt_def, BitVec.lt_def, hb]
  omega
/-- HELP with a block in local memory. -/
theorem exec_help {bs : List Byte} (h0 : s.cur.slot = 0) (hlow : bits (s.reg a) 1 0 = 0) (hhigh : bits (s.reg a) 63 56 = 0)
    (hl : bs.length = 24) (hr : ∀ i, i < 3 → ReadsLocal s (s.reg b + BitVec.ofNat 64 (8 * i)) 8 8 ((bs.drop (8 * i)).take 8)) :
    exec (.help d a b) s = .next (s.helpWith d (s.reg a) bs) := by
  obtain ⟨hlo, hhi, hal, -⟩ := hr 0 (by decide)
  obtain ⟨-, hhi2, -⟩ := hr 2 (by decide)
  rw [Nat.mul_zero, BitVec.add_zero] at hlo hhi hal
  have hb : localBase.toNat = 0xFFFFFFFFFFF00000 := rfl
  have hsum : (s.reg b + BitVec.ofNat 64 (8 * 2)).toNat = (s.reg b).toNat + 16 := by
    rw [BitVec.toNat_add, BitVec.toNat_ofNat]
    simp only [localBytes] at hhi
    omega
  have hin := help_inside hlo (show (s.reg b).toNat ≤ 0xFFFFFFFFFFF7FFE8 by simp only [localBytes] at hhi2; omega)
  have hbits : bits (s.reg b) 2 0 = 0 := by
    simp only [bits]
    omega
  change execHelp d a b s = _
  unfold execHelp
  dsimp only
  rw [if_neg (not_not.mpr h0), if_neg (not_or.mpr ⟨not_not.mpr hlow, not_not.mpr hhigh⟩), if_neg hin, if_neg (not_not.mpr hbits),
    localLoads_reads _ 3 _ _ bs hl hr]
  rfl
theorem exec_help_outside (h0 : s.cur.slot = 0) (hlow : bits (s.reg a) 1 0 = 0) (hhigh : bits (s.reg a) 63 56 = 0)
    (hout : (s.reg b).toNat < 0xFFFFFFFFFFF00000 ∨ 0xFFFFFFFFFFF7FFE8 < (s.reg b).toNat) :
    exec (.help d a b) s = .next (s.trap 3 (s.reg b)) := by
  have hlt : s.reg b < localBase ∨ localBase + 0x7FFE8 < s.reg b := hout
  change execHelp d a b s = _
  unfold execHelp
  dsimp only
  rw [if_neg (not_not.mpr h0), if_neg (not_or.mpr ⟨not_not.mpr hlow, not_not.mpr hhigh⟩), if_pos hlt]
theorem exec_help_misaligned (h0 : s.cur.slot = 0) (hlow : bits (s.reg a) 1 0 = 0) (hhigh : bits (s.reg a) 63 56 = 0)
    (hlo : 0xFFFFFFFFFFF00000 ≤ (s.reg b).toNat) (hhi : (s.reg b).toNat ≤ 0xFFFFFFFFFFF7FFE8) (hb : bits (s.reg b) 2 0 ≠ 0) :
    exec (.help d a b) s = .next (s.trap 2 (s.reg b)) := by
  change execHelp d a b s = _
  unfold execHelp
  dsimp only
  rw [if_neg (not_not.mpr h0), if_neg (not_or.mpr ⟨not_not.mpr hlow, not_not.mpr hhigh⟩), if_neg (help_inside hlo hhi), if_pos hb]

/-! HJOIN (R62). -/

/-- HJOIN that goes on: with the value of a helper that is DONE, or with all ones. -/
theorem exec_hjoin_done {v : Word} (hlo : 1 ≤ (s.reg a).toNat) (hhi : (s.reg a).toNat ≤ 10) (hj : s.joinReady (s.reg a).toNat = true)
    (hs : (s.myCore.thread (s.reg a).toNat).state = .done v) (ht : s.joinTaken (s.reg a).toNat = false) :
    exec (.hjoin d a) s = .next (((s.joined s.cur.core s.cur.slot (s.reg a).toNat).updMyCore
      (fun k => (k.setThread (s.reg a).toNat Thread.reset).mapThreads (·.joinGone (s.reg a).toNat))).put d v) := by
  change execHjoin d a s = _
  unfold execHjoin
  dsimp only
  rw [if_neg (by omega), if_pos hj, ht, hs]
theorem exec_hjoin_gone (hlo : 1 ≤ (s.reg a).toNat) (hhi : (s.reg a).toNat ≤ 10) (hj : s.joinReady (s.reg a).toNat = true)
    (hs : (s.myCore.thread (s.reg a).toNat).state = .free ∨ s.joinTaken (s.reg a).toNat = true) :
    exec (.hjoin d a) s = .next (s.put d (BitVec.allOnes 64)) := by
  change execHjoin d a s = _
  unfold execHjoin
  dsimp only
  rw [if_neg (by omega), if_pos hj]
  rcases hs with hs | ht
  · rw [hs]
    cases s.joinTaken (s.reg a).toNat <;> rfl
  · rw [ht]
theorem exec_hjoin_waits (hlo : 1 ≤ (s.reg a).toNat) (hhi : (s.reg a).toNat ≤ 10) (hf : Fresh s) (hj : s.joinReady (s.reg a).toNat = false) :
    exec (.hjoin d a) s = .next ((s.updMyCore (fun k => { k with serial := s.myCore.serial + 1 })).wait
      (.join (s.reg a).toNat s.myCore.serial false) (.hjoin d a)) := by
  have ho : s.joinOrder (s.reg a).toNat = none := by
    rw [State.joinOrder, Thread.waitOf, show s.me.begun = none from hf]
    rfl
  change execHjoin d a s = _
  unfold execHjoin
  dsimp only
  rw [if_neg (by omega), hj, if_neg Bool.false_ne_true, ho]

end

/-! What a helper starts with (R61). -/

theorem reg_setReg_self (t : Thread) {r : Reg} (hr : r ≠ 0) (v : Word) : (t.setReg r v).reg r = v := by
  have hid : (t.setReg r v).regId r = t.regId r := by rw [Thread.regId, Thread.setReg_wptr]; rfl
  have h0 : t.regId r ≠ 0 := by
    have : r.toNat ≠ 0 := fun h => hr (BitVec.eq_of_toNat_eq h)
    unfold Thread.regId
    split <;> omega
  rw [Thread.reg_eq, hid, Thread.regNo_setReg, if_pos ⟨rfl, h0⟩, Option.getD_some]

theorem get_foldl_set {α : Type} (f : Nat → α) (dflt : α) (k : Nat) (l : List Nat) (c : Tbl α) :
    (l.foldl (fun (c : Tbl α) n => c.set n (f n)) c).get dflt k = if k ∈ l then f k else c.get dflt k := by
  induction l generalizing c with
  | nil => simp
  | cons n l ih =>
    rw [List.foldl_cons, ih, Tbl.get_set]
    by_cases hk : k = n
    · simp [hk]
    · simp [hk]
theorem reg_setCsr (t : Thread) (n : Nat) (v : Word) (r : Reg) : (t.setCsr n v).reg r = t.reg r := rfl
theorem reg_helper_arg (t : Thread) (entry sp lim arg : Word) (born : Nat) : (t.helper entry sp lim arg born).reg 8 = arg := by
  unfold Thread.helper
  dsimp only
  rw [reg_setCsr, reg_setCsr, reg_setCsr, reg_setReg_self _ (by decide)]
theorem csr_helper (t : Thread) (entry sp lim arg : Word) (born n : Nat) : (t.helper entry sp lim arg born).csr n =
    if n = 0x000 then t.csr 0x000 &&& 0x3 else if n = 0x022 then lim &&& ~~~7#64 else if n = 0x021 then sp &&& ~~~7#64
    else if n ∈ helperCsrs then t.csr n else csrReset n := by
  unfold Thread.helper
  dsimp only
  rw [Thread.csr_setCsr, Thread.csr_setCsr, Thread.csr_setCsr, Thread.csr_setReg]
  unfold Thread.csr
  dsimp only
  rw [get_foldl_set (fun n => t.csrs.get (csrReset n) n)]
  rfl

/-- Settles O18: HELP's checks come in order before the block is read; HJOIN goes by its slot's state; a helper is Thread.helper. -/
theorem helpers : Obligations.Helpers := by
  unfold Obligations.Helpers
  refine ⟨fun d a b s => ⟨fun bs n h0 hlow hhigh hl hr hf => ⟨_, exec_help h0 hlow hhigh hl hr, ?started⟩,
    fun h0 => ⟨_, congrArg Host.Outcome.next (if_pos h0), s.put_wrote d 0⟩,
    fun h0 hbad => congrArg Host.Outcome.next ((if_neg (not_not.mpr h0)).trans (if_pos hbad)),
    fun h0 hlow hhigh => ⟨exec_help_outside h0 hlow hhigh, exec_help_misaligned h0 hlow hhigh⟩,
    fun bs h0 hlow hhigh hl hr hf => ⟨_, exec_help h0 hlow hhigh hl hr, ?full⟩, fun n hn hlo hhi _ hj => ?joins,
    fun n hn hlo hhi hfresh hj => ?waits, fun h => ⟨_, congrArg Host.Outcome.next (if_pos h), s.put_wrote d _⟩, ⟨_, rfl, s.put_wrote d _⟩⟩,
    fun t entry sp lim arg n => ?start⟩
  case started =>
    rw [State.helpWith, hf]
    exact State.put_wrote _ d _
  case full =>
    rw [State.helpWith, hf]
    exact s.put_wrote d 0
  case joins =>
    subst hn
    exact ⟨fun v hs ht => ⟨_, exec_hjoin_done hlo hhi hj hs ht, State.put_wrote _ d v⟩,
      fun hs => ⟨_, exec_hjoin_gone hlo hhi hj hs, s.put_wrote d _⟩⟩
  case waits =>
    subst hn
    exact ⟨_, exec_hjoin_waits hlo hhi hfresh hj, rfl⟩
  case start =>
    have hcsr := csr_helper t entry sp lim arg n
    have hstatus := hcsr 0x000
    refine ⟨rfl, rfl, rfl, rfl, rfl, reg_helper_arg .., hcsr 0x021, hcsr 0x022, hcsr 0x004, hcsr 0x010, hcsr 0x020, hcsr 0x040, hcsr 0x0F3, hcsr 0x011, ?_, ?_,
      rfl, rfl⟩
    · rw [Thread.sup, hstatus, if_pos rfl]
      simp [Thread.sup]
    · rw [Thread.intrap, hstatus, if_pos rfl]
      simp

end Sys2Proof.Machine
end

section
/-! SUPPORT. Calls and returns between resident frames (R67): what they mark, where the window goes, and that one undoes the other. -/

namespace Sys2Proof.Machine

open Sys2Proof Sys2Proof.Safety

/-! The registers that CONV marks (R67). -/

theorem getLsbD_or_bit (x : BitVec 88) {i j : Nat} (hi : i < 88) : (x ||| (1#88 <<< j)).getLsbD i = (x.getLsbD i || decide (i = j)) := by
  rw [BitVec.getLsbD_or, BitVec.getLsbD_shiftLeft, BitVec.getLsbD_one]
  by_cases h : i = j
  · subst h
    simp [hi]
  · have : ¬ (j ≤ i ∧ i - j = 0) := by omega
    simp [h, hi]
    omega
/-- What is dead after the marks of some registers of the window: what was, and those that CONV names. -/
theorem markFold_eq (lo : Nat) (l : List Nat) (t : Thread) :
    ∃ dead points, l.foldl (fun t n => if t.conv.getLsbD (lo + n) then t.markDead n else t) t = { t with dead := dead, points := points }
      ∧ ∀ i, i < 88 → (dead.getLsbD i = true ↔ t.dead.getLsbD i = true ∨ ∃ k ∈ l, t.conv.getLsbD (lo + k) = true ∧ i = (t.wptr + k) % 88) := by
  induction l generalizing t with
  | nil => exact ⟨t.dead, t.points, rfl, by simp⟩
  | cons n l ih =>
    rw [List.foldl_cons]
    by_cases hn : t.conv.getLsbD (lo + n) = true
    · obtain ⟨dead, points, he, hd⟩ := ih (t.markDead n)
      refine ⟨dead, points, by rw [if_pos hn, he]; rfl, fun i hi => (hd i hi).trans ?_⟩
      change (t.dead ||| (1#88 <<< physIdx t.wptr n)).getLsbD i = true ∨ (∃ k ∈ l, t.conv.getLsbD (lo + k) = true ∧ i = (t.wptr + k) % 88) ↔ _
      rw [getLsbD_or_bit _ hi, List.exists_mem_cons_iff, Bool.or_eq_true, decide_eq_true_eq, or_assoc, physIdx]
      simp [hn]
    · obtain ⟨dead, points, he, hd⟩ := ih t
      refine ⟨dead, points, by rw [if_neg hn, he], fun i hi => (hd i hi).trans ?_⟩
      simp [hn]
theorem markConv_eq (t : Thread) (lo : Nat) : ∃ dead points, t.markConv lo = { t with dead := dead, points := points }
    ∧ ∀ n, (convMarks t t.wptr lo n → regNo (t.markConv lo) n = none) ∧ (¬ convMarks t t.wptr lo n → regNo (t.markConv lo) n = regNo t n) := by
  obtain ⟨dead, points, he, hd⟩ := markFold_eq lo (List.range 24) t
  have hm : t.markConv lo = { t with dead := dead, points := points } := he
  refine ⟨dead, points, hm, fun n => ⟨?_, fun h => ?_⟩⟩
  · rintro ⟨k, hk, hc, rfl⟩
    have hi : (t.wptr + k) % 88 < 88 := Nat.mod_lt _ (by decide)
    have hdead := (hd _ hi).mpr (.inr ⟨k, List.mem_range.mpr hk, hc, rfl⟩)
    rw [hm, regNo, if_neg (by omega), if_neg (by omega), if_pos (by rwa [Nat.add_sub_cancel_left])]
  · rw [hm]
    unfold regNo
    dsimp only
    by_cases h8 : n < 8
    · rw [if_pos h8, if_pos h8]
    · have hsame : dead.getLsbD (n - 8) = t.dead.getLsbD (n - 8) := by
        by_cases hi : n - 8 < 88
        · rw [Bool.eq_iff_iff, hd _ hi]
          refine or_iff_left ?_
          rintro ⟨k, hk, hc, hn⟩
          exact h ⟨k, List.mem_range.mp hk, hc, by omega⟩
        · rw [BitVec.getLsbD_of_ge _ _ (by omega), BitVec.getLsbD_of_ge _ _ (by omega)]
      rw [hsame]
theorem convMarks_congr {t u : Thread} (h : t.conv = u.conv) (w lo n : Nat) : convMarks t w lo n ↔ convMarks u w lo n := by
  rw [convMarks, convMarks, h]
theorem conv_retire (t : Thread) : t.retire.conv = t.conv := Thread.csr_retire t 0x020

/-! The window moves. -/

/-- The thread of a call or a return: all but its window, its place and the marks is that of an instruction retired. -/
theorem Mine.moved {s t : State} {pc : Word} {w r : Nat} {phys : Tbl Word} {dead : BitVec 88} {points : List (Pend × Nat)}
    (h : Mine s t { s.me.retire with phys := phys, dead := dead, points := points, wptr := w, resident := r, pc := pc } s.way) :
    Moved s t pc w r := by
  have hm := h.2.2.2.2.2.2
  refine ⟨h.aside, fun r => ?_, fun m => ?_, ?_, ?_, ?_, ?_, ?_, ?_, fun n hn => ?_, ?_, ?_⟩
  · exact (congrArg (fun x : Thread => x.row r.toNat) hm :)
  · exact (congrArg (fun x : Thread => x.mask m) hm :)
  · exact (congrArg Thread.state hm :)
  · exact (congrArg Thread.pc hm :)
  · exact (congrArg Thread.wptr hm :)
  · exact (congrArg Thread.resident hm :)
  · exact (congrArg Thread.replay hm :)
  · exact (congrArg (fun x : Thread => x.csr 0x081) hm :).trans ((Thread.csr_retire s.me 0x081).trans (if_pos rfl))
  · exact (congrArg (fun x : Thread => x.csr n) hm :).trans ((Thread.csr_retire s.me n).trans (if_neg hn))
  · exact (congrArg (fun x : Thread => threadRest { x with wptr := 0, resident := 0 }) hm :)
  · exact (congrArg Cluster.onTheWay ((h.2.1 (clusterOf s.cur.core)).trans (if_pos rfl)) :)

/-- The place of the link, w7 of the callee's window. -/
theorem regId_link (t : Thread) : t.regId 15 = 8 + (t.wptr + 7) % 88 := rfl

/-- CALL and CALLR with a frame free (R67). -/
theorem callTo_called (s : State) (target : Word) (i : Instr) (h : s.me.resident ≠ 5) : Called s (s.callTo target i) target := by
  obtain ⟨dead, points, he, hmarks⟩ := markConv_eq s.me.retire 0
  have hc : s.callTo target i = s.retire.updMe (fun t => (t.markConv 0).enter (s.me.pc + 4) target) := if_neg h
  have hmine := ((Mine.refl s).retire).updMe (fun t => (t.markConv 0).enter (s.me.pc + 4) target)
  rw [← hc] at hmine
  have hm := hmine.2.2.2.2.2.2
  have hreg : ∀ n, regNo (s.callTo target i).me n =
      if n = 8 + ((s.me.wptr + 16) % 88 + 7) % 88 ∧ n ≠ 0 then some (s.me.pc + 4) else regNo (s.me.retire.markConv 0) n := fun n => by
    rw [hm]
    refine (Thread.regNo_setReg { s.me.retire.markConv 0 with
      wptr := ((s.me.retire.markConv 0).wptr + 16) % 88, resident := (s.me.retire.markConv 0).resident + 1 } 15 (s.me.pc + 4) n).trans ?_
    rw [regId_link, he]
    rfl
  refine ⟨?_, ?_, fun n hn => ?_⟩
  · rw [he] at hmine
    exact hmine.moved
  · rw [hreg, if_pos ⟨rfl, by omega⟩]
  · rw [hreg, if_neg (fun h => hn h.1)]
    have hconv := convMarks_congr (conv_retire s.me) s.me.wptr 0 n
    exact ⟨fun h => (hmarks n).1 (hconv.mpr h), fun h => (hmarks n).2 (fun g => h (hconv.mp g))⟩
/-- RET to a resident frame (R67). -/
theorem exec_ret_left {s : State} (h : 2 ≤ s.me.resident) (hb : badTarget (s.reg 15) = false) :
    ∃ t, exec .ret s = .next t ∧ Left s t (s.reg 15) := by
  obtain ⟨dead, points, he, hmarks⟩ := markConv_eq
    { s.me.retire with wptr := (s.me.wptr + 72) % 88, resident := max 1 (s.me.resident - 1) } 24
  have hx : exec .ret s = .next (s.retire.updMe (·.leave (s.reg 15))) := by
    change execRet s = _
    unfold execRet
    dsimp only
    rw [if_neg (by omega), if_neg (by rw [← State.reg, hb]; exact Bool.false_ne_true), if_neg (by omega)]
    rfl
  have hmine := ((Mine.refl s).retire).updMe (·.leave (s.reg 15))
  have hm := hmine.2.2.2.2.2.2
  refine ⟨_, hx, ?_, fun n => ?_⟩
  · have hl : s.me.retire.leave (s.reg 15) = { s.me.retire with
        phys := s.me.phys, dead := dead, points := points, wptr := (s.me.wptr + 72) % 88, resident := max 1 (s.me.resident - 1), pc := s.reg 15 } :=
      congrArg (fun x : Thread => { x with pc := s.reg 15 }) he
    rw [hl] at hmine
    exact hmine.moved
  · rw [hm]
    have hconv := convMarks_congr (t := { s.me.retire with wptr := (s.me.wptr + 72) % 88, resident := max 1 (s.me.resident - 1) })
      (conv_retire s.me) ((s.me.wptr + 72) % 88) 24 n
    exact ⟨fun h => (hmarks n).1 (hconv.mpr h), fun h => (hmarks n).2 (fun g => h (hconv.mp g))⟩

/-- Within a window no two of w0-w23 are the same register. -/
theorem window_inj {w k j : Nat} (hk : k < 24) (hj : j < 24) (h : 8 + (w + k) % 88 = 8 + (w + j) % 88) : k = j := by omega

/-- Settles O41: the return finds the link and marks by the window that the call left, which is the caller's again after it. -/
theorem callThenReturn : Obligations.CallThenReturn := by
  unfold Obligations.CallThenReturn
  intro off s t u hw h1 h5 hb hcall hret
  have hc := callTo_called s (s.me.pc + off.signExtend 64 * 4) (.call off) (by omega)
  obtain rfl : s.callTo (s.me.pc + off.signExtend 64 * 4) (.call off) = t := Host.Outcome.next.inj hcall
  generalize s.callTo (s.me.pc + off.signExtend 64 * 4) (.call off) = t at *
  obtain ⟨⟨-, -, -, -, -, hwptr, hres, -, -, hcsr, -⟩, hlink, hregs⟩ := hc
  have hpc : t.reg 15 = s.me.pc + 4 := by rw [State.reg, Thread.reg_eq, regId_link, hwptr, hlink, Option.getD_some]
  obtain ⟨v, hv, ⟨-, -, -, -, hpc', hwptr', hres', -⟩, hregs'⟩ := exec_ret_left (s := t) (by omega) (by rwa [hpc])
  obtain rfl : v = u := Host.Outcome.next.inj (hv.symm.trans hret)
  have hback : (t.me.wptr + 72) % 88 = s.me.wptr := by omega
  rw [hback] at hwptr' hregs'
  have hconv : t.me.conv = s.me.conv := hcsr 0x020 (by decide)
  have hkept : ∀ n, n ≠ 8 + ((s.me.wptr + 16) % 88 + 7) % 88 → ¬ convMarks s.me s.me.wptr 0 n → ¬ convMarks s.me s.me.wptr 24 n →
      regNo v.me n = regNo s.me n := fun n hn hin hout =>
    ((hregs' n).2 fun g => hout ((convMarks_congr hconv _ _ _).mp g)).trans ((hregs n hn).2 hin)
  refine ⟨hpc'.trans hpc, hwptr', by omega, fun n hn => hkept n (by omega) ?_ ?_, fun k hk hin hout => hkept _ (by omega) ?_ ?_⟩
  · rintro ⟨k, -, -, hk⟩
    omega
  · rintro ⟨k, -, -, hk⟩
    omega
  · rintro ⟨j, hj, hc, hkj⟩
    obtain rfl := window_inj (by omega) hj hkj
    exact absurd hc (by rw [Nat.zero_add, hin]; exact Bool.false_ne_true)
  · rintro ⟨j, hj, hc, hkj⟩
    obtain rfl := window_inj (by omega) hj hkj
    exact absurd hc (by rw [hout]; exact Bool.false_ne_true)

end Sys2Proof.Machine
end

section
/-! SUPPORT. The row and mask instructions write the lanes and masks that their rules give (R90-R105, R37). -/

namespace Sys2Proof.Machine

open Sys2Proof Sys2Proof.Safety

/-! Lanes of 32 bits as integers (R97). -/

section
variable {w : Nat} (x y : BitVec w)

theorem ite_slt_eq_min : (if x.slt y then x else y) = BitVec.ofInt w (min x.toInt y.toInt) := by
  simp only [min_def_lt, BitVec.slt_iff_toInt_lt, apply_ite (BitVec.ofInt w), BitVec.ofInt_toInt]
theorem ite_slt_eq_max : (if x.slt y then y else x) = BitVec.ofInt w (max x.toInt y.toInt) := by
  simp only [max_def_lt, BitVec.slt_iff_toInt_lt, apply_ite (BitVec.ofInt w), BitVec.ofInt_toInt]
theorem ite_ult_eq_min : (if x.ult y then x else y) = BitVec.ofNat w (min x.toNat y.toNat) := by
  simp only [min_def_lt, BitVec.ult_iff_toNat_lt, apply_ite (BitVec.ofNat w), BitVec.ofNat_toNat, BitVec.setWidth_eq]
theorem ite_ult_eq_max : (if x.ult y then y else x) = BitVec.ofNat w (max x.toNat y.toNat) := by
  simp only [max_def_lt, BitVec.ult_iff_toNat_lt, apply_ite (BitVec.ofNat w), BitVec.ofNat_toNat, BitVec.setWidth_eq]

end

/-! What an instruction does that only writes lanes of a row. -/

theorem puts_rowInt {i : Instr} {m : MaskCode} {d : RowCode} {g : State → Nat → W32} (h : ∀ s, exec i s = .next (s.rowInt m d (g s))) :
    Puts i (·.mask m) d g := fun s => ⟨_, h s, s.rowInt_wrote m d _⟩
theorem puts_vi {i : Instr} {m : MaskCode} {d a : RowCode} {b : VSrc} {f g : W32 → W32 → W32} (he : ∀ s, exec i s = s.vi m d a b f)
    (hf : ∀ x y, f x y = g x y) : Puts i (·.mask m) d (fun s k => g ((s.row a).lane k) (s.vlane b k)) := by
  obtain rfl : f = g := funext fun x => funext (hf x)
  exact puts_rowInt he

theorem State.row_mixRow (s : State) (d r : RowCode) (p : BitVec 16) (v : Row) :
    (s.me.mixRow d.toNat p v).row r.toNat = if r = d then v else s.row r := by
  rw [Thread.row_mixRow, Nat.mod_eq_of_lt r.isLt, Nat.mod_eq_of_lt d.isLt]
  simp only [BitVec.toNat_inj]
  rfl

/-- What a write of the lanes under `p` makes of row `d` (R91). -/
def State.mergedRow (s : State) (p : BitVec 16) (d : RowCode) (g : Nat → W32) : Row :=
  Row.ofLanes fun i => if p.getLsbD i then g i else (s.row d).lane i
theorem State.rowWrite_eq (s : State) (p : BitVec 16) (d : RowCode) (g : Nat → W32) :
    s.rowWrite p d g = s.updMe (·.mixRow d.toNat p (s.mergedRow p d g)) := rfl
theorem State.lane_mergedRow (s : State) (p : BitVec 16) (d : RowCode) (g : Nat → W32) {i : Nat} (hi : i < 16) :
    (s.mergedRow p d g).lane i = if p.getLsbD i then g i else (s.row d).lane i := Row.lane_ofLanes _ i hi

/-- Write the lanes of a row under given bits, and go on. -/
theorem State.rowWrite_wrote (s : State) (p : BitVec 16) (d : RowCode) (g : Nat → W32) :
    WroteRow s (s.rowWrite p d g).advance d p g 0 := by
  have h := (((Mine.refl s).updMe (·.mixRow d.toNat p (s.mergedRow p d g))).accrue 0).advance
  rw [Thread.csr_mixRow] at h
  have hme : (s.rowWrite p d g).advance.me = ((s.me.mixRow d.toNat p (s.mergedRow p d g)).raised 0).retire.stepPc := by
    rw [State.rowWrite_eq]
    exact h.2.2.2.2.2.2
  have hrow : ∀ r, (s.rowWrite p d g).advance.row r = if r = d then s.mergedRow p d g else s.row r := fun r => by
    rw [← State.row_mixRow s d r p, State.row, hme]
    exact Thread.row_congr (by simp) _
  refine ⟨h.aside, h.retired (by simp) (by simp), h.behind (by simp) (by simp), fun n => ?_, fun k => ?_, fun r i hi => ?_⟩
  · rw [hme]
    simp
  · rw [State.mask, hme]
    exact Thread.mask_congr (by simp) k
  · rw [hrow]
    by_cases hr : r = d
    · subst hr
      simp only [s.lane_mergedRow p r g hi, true_and, if_true]
    · rw [if_neg hr, if_neg fun h => hr h.1]

/-- Settles O8: each is `rowFp` of its lane function. -/
theorem rowFloat : Obligations.RowFloat := by
  unfold Obligations.RowFloat
  exact ⟨fun m d a b => ⟨lanes_of_rowFp fun _ => rfl, lanes_of_rowFp fun _ => rfl, lanes_of_rowFp fun _ => rfl, lanes_of_rowFp fun _ => rfl,
      lanes_of_rowFp fun _ => rfl, lanes_of_rowFp fun _ => rfl, lanes_of_rowFp fun _ => rfl, lanes_of_rowFp fun _ => rfl,
      lanes_of_rowFp fun _ => rfl, lanes_of_rowFp fun _ => rfl, lanes_of_rowFp fun _ => rfl, lanes_of_rowFp fun _ => rfl,
      lanes_of_rowFp fun _ => rfl, lanes_of_rowFp fun _ => rfl, lanes_of_rowFp fun _ => rfl, lanes_of_rowFp fun _ => rfl,
      lanes_of_rowFp fun _ => rfl, lanes_of_rowFp fun _ => rfl⟩,
    fun m d a e => ⟨fun f => lanes_of_rowFp fun _ => rfl, lanes_of_rowFp fun _ => rfl, lanes_of_rowFp fun _ => rfl⟩⟩

/-- Settles O9: each is `vi` of a function on lanes; the minima and maxima are those of the integers that the lanes stand for. -/
theorem rowInteger : Obligations.RowInteger := by
  unfold Obligations.RowInteger
  exact fun m d a b => ⟨puts_rowInt fun _ => rfl, puts_rowInt fun _ => rfl, puts_rowInt fun _ => rfl, puts_rowInt fun _ => rfl,
    puts_rowInt fun _ => rfl, puts_rowInt fun _ => rfl, puts_rowInt fun _ => rfl, puts_rowInt fun _ => rfl, puts_rowInt fun _ => rfl,
    puts_vi (fun _ => rfl) ite_slt_eq_min, puts_vi (fun _ => rfl) ite_slt_eq_max, puts_vi (fun _ => rfl) ite_ult_eq_min,
    puts_vi (fun _ => rfl) ite_ult_eq_max⟩

/-! The sum of lanes by the canonical tree (R37, R104). -/

/-- One lane sum of the tree: modulo 2^32, with no flag. -/
def laneSum (x y : W32) : W32 × FFlags := (x + y, 0)

theorem treeLevel_laneSum (xs : List W32) :
    (treeLevel laneSum xs).1.sum = xs.sum ∧ (treeLevel laneSum xs).2 = 0 ∧ (treeLevel laneSum xs).1.length = (xs.length + 1) / 2 := by
  induction xs using treeLevel.induct (f := laneSum) with
  | case1 x y rest ih =>
    obtain ⟨hsum, hflags, hlen⟩ := ih
    simp only [treeLevel, laneSum, List.sum_cons, List.length_cons] at hsum hflags hlen ⊢
    exact ⟨by rw [hsum, BitVec.add_assoc], by rw [hflags]; rfl, by omega⟩
  | case2 xs h =>
    match xs with
    | [] => simp [treeLevel]
    | [x] => simp [treeLevel]
    | x :: y :: rest => exact absurd rfl (h x y rest)

theorem headD_eq_sum_of_length_le_one : ∀ {xs : List W32}, xs.length ≤ 1 → xs.headD 0 = xs.sum
  | [], _ => rfl
  | [x], _ => by simp

/-- A tree of `n` levels adds up as many as 2^n lanes. -/
theorem tree_laneSum (n : Nat) (xs : List W32) (h : xs.length ≤ 2 ^ n) :
    (tree laneSum n xs).1.headD 0 = xs.sum ∧ (tree laneSum n xs).2 = 0 := by
  induction n generalizing xs with
  | zero => exact ⟨headD_eq_sum_of_length_le_one h, rfl⟩
  | succ n ih =>
    obtain ⟨hsum, hflags, hlen⟩ := treeLevel_laneSum xs
    rw [tree]
    split
    · next h1 => exact ⟨headD_eq_sum_of_length_le_one h1, rfl⟩
    · obtain ⟨hs, hf⟩ := ih (treeLevel laneSum xs).1 (by omega)
      exact ⟨hs.trans hsum, by simp [hf, hflags]⟩

theorem reduce_laneSum {xs : List W32} (h : xs.length ≤ 16) : reduce laneSum 0 xs = (xs.sum, 0) := by
  obtain ⟨hsum, hflags⟩ := tree_laneSum 8 xs (by omega)
  exact Prod.ext hsum hflags

/-- Lanes of a row under a mask, in lane order: what VRED reduces (R104). -/
def State.activeLanes (s : State) (m : MaskCode) (a : RowCode) : List W32 :=
  (lanes.filter (fun i => (s.mask m).getLsbD i)).map (fun i => (s.row a).lane i)
theorem length_activeLanes_le (s : State) (m : MaskCode) (a : RowCode) : (s.activeLanes m a).length ≤ 16 := by
  rw [State.activeLanes, List.length_map]
  exact List.length_filter_le ..

theorem vred_isum_gives (m : MaskCode) (d : Reg) (a : RowCode) :
    Gives (.vred m .isum d a) d (fun s => (s.activeLanes m a).sum.setWidth 64) := fun s => by
  have h := s.putFp_wrote d (s.activeLanes m a).sum 0
  rw [← reduce_laneSum (length_activeLanes_le s m a)] at h
  exact ⟨_, rfl, h⟩

/-- Settles O10: VSEL acts under m0, whose bits are all 1, VINS under one bit; the tree of sums adds up all active lanes and raises no flag.
FSUM, FMIN and FMAX are `reduceFp`, also for one active lane that holds a NaN (log entry 29). -/
theorem rowMovesAndReductions : Obligations.RowMovesAndReductions := by
  unfold Obligations.RowMovesAndReductions
  exact ⟨fun m d a b n g => ⟨puts_rowInt (m := 0) fun _ => rfl, puts_rowInt fun _ => rfl, puts_rowInt fun _ => rfl,
      gives_put (fun _ => rfl) fun _ => rfl, fun s => ⟨_, rfl, s.rowWrite_wrote _ d _⟩⟩,
    fun m d a => ⟨floats_of_putFp fun _ => rfl, floats_of_putFp fun _ => rfl, floats_of_putFp fun _ => rfl, vred_isum_gives m d a⟩⟩

/-! Masks (R90, R96, R105). -/

theorem masks_put {i : Instr} {k : MaskCode} {v : State → BitVec 16} (h : ∀ s, exec i s = s.maskPut k (v s)) : Masks i k v :=
  fun s => ⟨_, h s, s.maskPut_wrote k _⟩

theorem mpopc_eq (v : BitVec 16) : BitVec.ofNat 64 (lanes.countP (fun i => v.getLsbD i)) =
    BitVec.ofNat 64 ((List.range 16).filter v.getLsbD).length := by
  rw [List.countP_eq_length_filter, lanes]

/-- The first place below `n` at which `p` holds, `n` where there is none. -/
theorem find?_range_getD_spec (n : Nat) (p : Nat → Bool) : ((List.range n).find? p).getD n ≤ n
    ∧ (∀ i, i < ((List.range n).find? p).getD n → p i = false) ∧ (((List.range n).find? p).getD n < n → p (((List.range n).find? p).getD n) = true) := by
  cases h : (List.range n).find? p with
  | none =>
    rw [List.find?_range_eq_none] at h
    exact ⟨le_rfl, fun i hi => by simpa using h i hi, fun hn => absurd hn (lt_irrefl n)⟩
  | some k =>
    obtain ⟨hk, hmem, hlow⟩ := List.find?_range_eq_some.mp h
    exact ⟨(List.mem_range.mp hmem).le, fun i hi => by simpa using hlow i hi, fun _ => hk⟩

/-- A compare that raises no flag. -/
theorem vcmpi_wrote (m : MaskCode) (c : ICond) (k : MaskCode) (a : RowCode) (b : VSrc) (s : State) :
    ∃ t, exec (.vcmpi m c k a b) s = .next t ∧ WroteMask s t k (maskOf (s.mask m) fun i => icond c ((s.row a).lane i) (s.vlane b i)) 0 := by
  have h := s.maskCmp_wrote m k fun i => (icond c ((s.row a).lane i) (s.vlane b i), 0)
  rw [laneFlags_zero] at h
  exact ⟨_, rfl, h⟩

/-- Settles O11: a mask's new bits are those that `maskOf` collects or the operation on masks gives; the counts are those of the lanes' list. -/
theorem masksAndRowCompares : Obligations.MasksAndRowCompares := by
  unfold Obligations.MasksAndRowCompares
  refine ⟨fun d a b g => ⟨masks_put fun _ => rfl, masks_put fun _ => rfl, masks_put fun _ => rfl, masks_put fun _ => rfl,
      masks_put fun _ => rfl, masks_put fun _ => rfl, masks_put fun _ => rfl, gives_put (fun _ => rfl) fun _ => rfl,
      gives_put (fun _ => rfl) fun s => mpopc_eq (s.mask a), fun s => ⟨_, _, rfl, s.put_wrote g _, find?_range_getD_spec 16 _⟩⟩,
    fun m k a b => ⟨fun c s => ⟨_, _, rfl, s.maskCmp_wrote m k _, fun i hi => getLsbD_maskOf _ _ hi⟩, fun c s => ?_⟩⟩
  obtain ⟨t, ht, hw⟩ := vcmpi_wrote m c k a b s
  exact ⟨t, _, ht, hw, fun i hi => getLsbD_maskOf _ _ hi⟩

end Sys2Proof.Machine
end

section
/-! SUPPORT. What performing and reading bytes leaves of the cores, and the RING instructions with their loaders and storers (R113-R115, R126,
R127). -/

namespace Sys2Proof

/-- Of two writes of one number the later stands. -/
theorem Tbl.set_set {α : Type} (t : Tbl α) (k : Nat) (v w : α) : (t.set k v).set k w = t.set k w := by
  induction t with
  | nil => simp [Tbl.set]
  | cons p rest ih =>
    obtain ⟨j, u⟩ := p
    by_cases hj : j = k
    · simp [Tbl.set, hj]
    · by_cases hk : k < j
      · simp [Tbl.set, hj, hk]
      · simp [Tbl.set, hj, hk, ih]

end Sys2Proof

namespace Sys2Proof.Machine

open Sys2Proof Sys2Proof.Safety

theorem State.updMyCore_updMyCore (s : State) (f g : Core → Core) : (s.updMyCore f).updMyCore g = s.updMyCore (fun k => g (f k)) := by
  change (s.updCore s.cur.core f).setCore s.cur.core (g ((s.updCore s.cur.core f).core s.cur.core)) = _
  rw [State.core_updCore, if_pos rfl]
  exact congrArg (fun l => { s with cores := l }) (Tbl.set_set ..)

/-! What performing and reading bytes leaves of the cores. -/

/-- A core less its memory and its store buffers. -/
def byteless (k : Core) : Core := { memless k with stores := [] }

/-- The same thread runs, and every core is as it was but for its memory and its store buffers. -/
structure CoresKept (s t : State) : Prop where
  cur : t.cur = s.cur
  core : ∀ d, byteless (t.core d) = byteless (s.core d)

section
variable {s t u : State}

theorem CoresKept.refl (s : State) : CoresKept s s := ⟨rfl, fun _ => rfl⟩
theorem CoresKept.trans (h : CoresKept s t) (g : CoresKept t u) : CoresKept s u :=
  ⟨g.cur.trans h.cur, fun d => (g.core d).trans (h.core d)⟩
theorem CoresKept.foldl {β : Type} {f : State → β → State} (hf : ∀ s b, CoresKept s (f s b)) (s : State) (l : List β) :
    CoresKept s (l.foldl f s) :=
  foldl_keeps (P := CoresKept s) (fun t b _ h => h.trans (hf t b)) s (.refl s)

theorem CoresKept.ring (h : CoresKept s t) (d n : Nat) : (t.core d).ring n = (s.core d).ring n :=
  (congrArg (fun k : Core => k.rings.get Ring.reset n) (h.core d) :)
theorem CoresKept.myCore (h : CoresKept s t) : byteless t.myCore = byteless s.myCore := by
  rw [State.myCore, h.cur]
  exact h.core _
theorem CoresKept.serial (h : CoresKept s t) : t.myCore.serial = s.myCore.serial := (congrArg (fun k : Core => k.serial) h.myCore :)
theorem CoresKept.subId (h : CoresKept s t) : t.myCore.subId = s.myCore.subId := (congrArg (fun k : Core => k.subId) h.myCore :)
theorem CoresKept.me (h : CoresKept s t) : t.me = s.me := by
  rw [State.me, h.cur]
  exact (congrArg (fun k : Core => k.threads.get Thread.reset s.cur.slot) (h.core s.cur.core) :)
end

theorem coresKept_sentBy {s t u : State} (src : Option (ThreadId × Nat)) (cls : BitVec 8) (h : CoresKept t u) :
    CoresKept t (s.sentBy src cls u) := ⟨h.cur, h.core⟩
theorem coresKept_updCore {f : Core → Core} (hf : ∀ k, byteless (f k) = byteless k) (s : State) (c : Nat) : CoresKept s (s.updCore c f) := by
  refine ⟨rfl, fun d => ?_⟩
  rw [State.core_updCore]
  split
  · next hd => rw [hf, hd]
  · rfl
theorem coresKept_writeAt (s : State) (c : Nat) (p : Place) (bs : List Byte) : CoresKept s (s.writeAt c p bs) := by
  cases p with
  | loc o =>
    exact coresKept_updCore (f := fun k => { k with mem := k.mem.write o bs, eccBad := eccAfter k.eccBad o bs.length }) (fun _ => rfl) s c
  | hbm a => exact ⟨rfl, fun _ => rfl⟩
  | weight a => exact ⟨rfl, fun _ => rfl⟩
  | remote d a => exact ⟨rfl, fun _ => rfl⟩
theorem coresKept_performPlain (s : State) (t : ThreadId) (n : Nat) (p : Place) (bs : List Byte) : CoresKept s (s.performPlain t n p bs) := by
  cases p with
  | hbm a => exact ⟨rfl, fun _ => rfl⟩
  | loc o => exact coresKept_writeAt s t.core (.loc o) bs
  | weight a => exact coresKept_writeAt s t.core (.weight a) bs
  | remote d a => exact coresKept_writeAt s t.core (.remote d a) bs
theorem coresKept_perform (s : State) (c : Nat) (e : StoreEnt) : CoresKept s (s.perform c e) := by
  unfold State.perform
  refine coresKept_sentBy _ _ ?_
  split
  · have hs : CoresKept s (s.spreadFrom (dieOf c)) := ⟨rfl, fun _ => rfl⟩
    exact hs.trans (.foldl (fun t w => coresKept_writeAt t c w.1 w.2) _ e.writes)
  · exact .foldl (fun t w => coresKept_performPlain t _ _ w.1 w.2) s e.writes
/-- The earlier stores of the core are performed: only memory and store buffers change on the cores (R139). -/
theorem coresKept_release (s : State) : CoresKept s s.release := by
  have hd := (coresKept_updCore (f := fun k => { k with stores := [] }) (fun _ => rfl) s s.cur.core).trans
    (.foldl (fun t e => coresKept_perform t s.cur.core e) _ (s.core s.cur.core).stores)
  exact ⟨hd.cur, hd.core⟩
theorem coresKept_readBy (s : State) (c : Nat) (l : List (Place × Nat)) : CoresKept s (s.readBy c l) := by
  have hcount : CoresKept s (s.countBad l) :=
    .foldl (fun t p => .foldl (f := fun t w => t.hbmError (8 * w)) (fun _ _ => ⟨rfl, fun _ => rfl⟩) t _) s l
  refine hcount.trans (.foldl (fun t p => ?_) _ l)
  obtain ⟨p, n⟩ := p
  cases p <;> exact ⟨rfl, fun _ => rfl⟩
theorem coresKept_dirtyAt (s : State) (cluster ctx : Nat) (va : Word) : CoresKept s (s.dirtyAt cluster ctx va) := by
  unfold State.dirtyAt
  split <;> exact ⟨rfl, fun _ => rfl⟩

/-! Blocks of local memory that an instruction loads (R126, R130, R133). -/

theorem Place.plus_plus (p : Place) (m n : Nat) : (p.plus m).plus n = p.plus (m + n) := by
  cases p <;> simp [Place.plus, Nat.add_assoc]
theorem loadBytes_add (s : State) (c : Nat) (p : Place) (m n : Nat) :
    s.loadBytes c p (m + n) = s.loadBytes c p m ++ s.loadBytes c (p.plus m) n := by
  simp [State.loadBytes, List.range_add, Place.plus_plus, Function.comp_def]
theorem meetsBad_add (s : State) (c : Nat) (p : Place) (m n : Nat) :
    s.meetsBad c p (m + n) = (s.meetsBad c p m || s.meetsBad c (p.plus m) n) := by
  simp [State.meetsBad, List.range_add, Place.plus_plus, Function.comp_def]
/-- Dwords of local memory that meet no uncorrectable word are their bytes, and loading them changes nothing. -/
theorem loadDwords_good {s : State} {t : ThreadId} {ea : Word} {o : Nat} (n : Nat) (hb : s.meetsBad t.core (.loc o) (8 * n) = false) :
    s.loadDwords t ea (.loc o) n = (s.loadBytes t.core (.loc o) (8 * n), s) := by
  induction n with
  | zero => rfl
  | succ n ih =>
    rw [Nat.mul_succ, meetsBad_add, Bool.or_eq_false_iff] at hb
    obtain ⟨hfirst, hlast⟩ := hb
    rw [State.loadDwords, ih hfirst, Nat.mul_succ, loadBytes_add]
    dsimp only
    rw [loadChecked_good hlast fun _ _ h => nomatch h]
/-- A block of dwords that may be read goes on with its bytes, in the same state. -/
theorem localBlock_readsLocal {s : State} {ea : Word} {bs : List Byte} {n align : Nat} (first : Bool) (go : State → List Byte → State)
    (hn : 0 < n) (h8 : 8 ∣ n) (h : ReadsLocal s ea n align bs) : s.localBlock ea n align first go = go s bs := by
  obtain ⟨hlo, hhi, hal, p, hc, hb, rfl⟩ := h
  obtain rfl := check_loc (addrClass_loc hlo (by omega)) hc
  unfold State.localBlock
  dsimp only
  rw [if_neg (fun h => h.2.1 hal), if_neg (not_not.mpr ⟨hlo, hhi⟩), if_neg (not_not.mpr hal), hc]
  dsimp only
  rw [loadDwords_good (n / 8) (by rwa [Nat.mul_div_cancel' h8]), Nat.mul_div_cancel' h8]

/-! RINIT and RPUSH (R115, R126). -/

section
variable {d a b : Reg} {s : State} {n : Nat} {r : Ring} (hn : ringId (s.reg a) = n) (hr : s.myCore.ring n = r)
include hn

theorem exec_rinit {bs : List Byte} (hb : ReadsLocal s (s.reg b) 32 8 bs) : exec (.rinit d a b) s = .next
    ((if s.ringStatus n (dwordAt bs 0) (dwordAt bs 8) = 0 then s.updRing s.cur.core n (fun _ => ringOf (dwordAt bs 0) (dwordAt bs 8))
      else s).put d (BitVec.ofNat 64 (s.ringStatus n (dwordAt bs 0) (dwordAt bs 8)))) := by
  subst hn
  change execRinit d a b s = _
  unfold execRinit State.ringLocal
  dsimp only
  rw [localBlock_readsLocal true _ (by decide) (by decide) hb]

include hr

theorem exec_rpush (hs : r.state = .opened ∨ r.state = .storing) (hcount : bits (s.reg b) 5 0 ≤ r.count)
    (hfree : bits (s.reg b) 5 0 ≤ s.myCore.slotsFree n) (h0 : bits (s.reg b) 5 0 ≠ 0) :
    exec (.rpush d a b) s = .next ((s.release.pushSlots s.cur.core n (bits (s.reg b) 5 0)).put d 0) := by
  have hok : ¬ ((r.state ≠ .opened ∧ r.state ≠ .storing) ∨ r.count < bits (s.reg b) 5 0) := by
    rintro (⟨ho, hst⟩ | hlt)
    · exact hs.elim ho hst
    · omega
  subst hn hr
  change execRpush d a b s = _
  unfold execRpush
  dsimp only
  rw [if_neg hok, if_neg h0, if_neg (not_lt.mpr hfree)]
theorem exec_rpush_refused (ho : r.state ≠ .opened) (hs : r.state ≠ .storing) : exec (.rpush d a b) s = .next (s.release.put d 1) := by
  subst hn hr
  change execRpush d a b s = _
  unfold execRpush
  dsimp only
  rw [if_pos (.inl ⟨ho, hs⟩)]
end

/-! RSUB (R126). -/

/-- The subscription that a block describes, of the thread that runs. -/
def State.subOf (s : State) (bs : List Byte) : Sub :=
  ⟨s.cur, dwordAt bs 0, bits (dwordAt bs 8) 63 32, bits (dwordAt bs 8) 20 16, bits (dwordAt bs 8) 15 0, dwordAt bs 16, dwordAt bs 24,
    !s.me.sup, false, s.myCore.serial⟩
def Sub.extent (x : Sub) : Int × Int := subExtent x.gaddr x.n x.rows x.rowBytes x.rowStride x.slotStride
/-- Ring `n`, so far `r`, takes on a subscription with its id. -/
def Core.subscribe (k : Core) (n : Nat) (r : Ring) (x : Sub) (st : Bool) (id : Nat) : Core :=
  { k.setRing n { r with state := if st then .storing else .loading, sub := some x, moved := 0 } with subId := id, serial := k.serial + 1 }
/-- The same on the core of the thread that runs; a storer's extent is locked. -/
def State.subscribe (s : State) (n : Nat) (r : Ring) (x : Sub) (st : Bool) (id : Nat) : State :=
  let v := s.updMyCore (fun k => k.subscribe n r x st id)
  if st then v.updMyCore (fun k => k.addRange true x.extent.1.toNat x.extent.2.toNat n) else v
theorem subscribe_eq (s : State) (n : Nat) (r : Ring) (x : Sub) (st : Bool) (id : Nat) : s.subscribe n r x st id = s.updMyCore (fun k =>
    if st then (k.subscribe n r x st id).addRange true x.extent.1.toNat x.extent.2.toNat n else k.subscribe n r x st id) := by
  cases st with
  | false => rfl
  | true => exact s.updMyCore_updMyCore (fun k => k.subscribe n r x true id) (fun k => k.addRange true x.extent.1.toNat x.extent.2.toNat n)
theorem subOf_release (s : State) (bs : List Byte) : s.release.subOf bs = s.subOf bs := by
  have h := coresKept_release s
  rw [State.subOf, h.cur, h.me, h.serial]
  rfl

section
variable {d a b : Reg} {s : State} {n : Nat} {r : Ring} (hn : ringId (s.reg a) = n) (hr : s.myCore.ring n = r)
include hn hr

theorem exec_rsub {bs : List Byte} {st : Bool} (hb : ReadsLocal s (s.reg b) 32 8 bs) (ho : r.state = .opened)
    (hbad : badSub r (dwordAt bs 0) (dwordAt bs 8) (dwordAt bs 16) (dwordAt bs 24) = false)
    (hfree : st = true → s.myCore.freeRanges ≠ 0) (hw : s.myCore.subWaits n st = false) :
    exec (.rsub d a b st) s = .next ((s.release.subscribe n r (s.subOf bs) st (s.myCore.subId % 0xFFFFFFFF + 1)).put d
      (BitVec.ofNat 64 (s.myCore.subId % 0xFFFFFFFF + 1))) := by
  have hok : ¬ (r.state ≠ .opened ∨ badSub r (dwordAt bs 0) (dwordAt bs 8) (dwordAt bs 16) (dwordAt bs 24) = true
      ∨ (st = true ∧ s.myCore.freeRanges = 0)) := by
    rintro (h | h | ⟨h, g⟩)
    · exact h ho
    · exact Bool.false_ne_true (hbad.symm.trans h)
    · exact hfree h g
  subst hn hr
  change execRsub d a b st s = _
  unfold execRsub State.ringLocal
  dsimp only
  rw [hw, if_neg Bool.false_ne_true, localBlock_readsLocal true _ (by decide) (by decide) hb, if_neg hok, subscribe_eq, ← subOf_release,
    ← (coresKept_release s).subId]
  rfl

/-! RUNSUB (R126). -/

/-- A RUNSUB that has not waited yet. -/
theorem exec_runsub_fresh (hf : Fresh s) : exec (.runsub d a) s = .next (if r.sub.isNone then s.put d (BitVec.allOnes 64)
    else if r.state = .storing ∧ r.occ ≠ 0 then s.wait (.unsub n (r.moved + r.occ) none) (.runsub d a)
    else (s.endSub s.cur.core n .opened).put d (BitVec.ofNat 64 r.moved)) := by
  have hw : s.me.waitOf = none := congrArg (Option.map Prod.fst) hf
  subst hn hr
  change execRunsub d a s = _
  unfold execRunsub
  dsimp only
  rw [hw]
theorem exec_runsub_none (hf : Fresh s) (hsub : r.sub = none) : exec (.runsub d a) s = .next (s.put d (BitVec.allOnes 64)) := by
  rw [exec_runsub_fresh hn hr hf, hsub, if_pos Option.isNone_none]
theorem exec_runsub_waits (hf : Fresh s) (hsub : r.sub.isSome = true) (hs : r.state = .storing) (hocc : r.occ ≠ 0) :
    exec (.runsub d a) s = .next (s.wait (.unsub n (r.moved + r.occ) none) (.runsub d a)) := by
  rw [exec_runsub_fresh hn hr hf, Option.isNone_eq_false_iff.mpr hsub, if_neg Bool.false_ne_true, if_pos ⟨hs, hocc⟩]
theorem exec_runsub_ends (hf : Fresh s) (hsub : r.sub.isSome = true) (hs : r.state = .storing → r.occ = 0) :
    exec (.runsub d a) s = .next ((s.endSub s.cur.core n .opened).put d (BitVec.ofNat 64 r.moved)) := by
  rw [exec_runsub_fresh hn hr hf, Option.isNone_eq_false_iff.mpr hsub, if_neg Bool.false_ne_true, if_neg fun h => h.2 (hs h.1)]
/-- A RUNSUB whose wait is over: every slot that it waits for is written. -/
theorem exec_runsub_written {m k : Nat} (hw : s.me.waitOf = some (.unsub m k none)) (hs : r.state = .storing) (hk : k ≤ r.moved) :
    exec (.runsub d a) s = .next ((s.endSub s.cur.core n .opened).put d (BitVec.ofNat 64 r.moved)) := by
  subst hn hr
  change execRunsub d a s = _
  unfold execRunsub
  dsimp only
  rw [hw]
  dsimp only
  rw [if_pos hs, if_pos hk]
end

/-- A RUNSUB whose subscription has ended by itself while it waited. -/
theorem exec_runsub_told {d a : Reg} {s : State} {m k v : Nat} (hw : s.me.waitOf = some (.unsub m k (some v))) :
    exec (.runsub d a) s = .next (s.put d (BitVec.ofNat 64 v)) := by
  change execRunsub d a s = _
  unfold execRunsub
  dsimp only
  rw [hw]

/-! A slot transferred (R113, R127). -/

/-- A ring with one more slot transferred, of `n`: the last one ends the subscription. -/
def Ring.transferred (r : Ring) (n : Nat) : Ring :=
  if r.moved + 1 = n then { r with moved := r.moved + 1, state := .opened, sub := none } else { r with moved := r.moved + 1 }

section
variable (r : Ring) (n : Nat)

theorem Ring.transferred_occ : (r.transferred n).occ = r.occ := by
  unfold Ring.transferred
  split <;> rfl
theorem Ring.transferred_head : (r.transferred n).head = r.head := by
  unfold Ring.transferred
  split <;> rfl
theorem Ring.transferred_tail : (r.transferred n).tail = r.tail := by
  unfold Ring.transferred
  split <;> rfl
theorem Ring.transferred_moved : (r.transferred n).moved = r.moved + 1 := by
  unfold Ring.transferred
  split <;> rfl
theorem Ring.transferred_state : (r.transferred n).state = if r.moved + 1 = n then .opened else r.state := by
  unfold Ring.transferred
  split <;> rfl
end

section
variable (s : State) (c n : Nat)

theorem core_dropReq (q : Requester) : (s.dropReq q).core c = s.core c := rfl
theorem ring_endSub (st : RingState) : ((s.endSub c n st).core c).ring n = { (s.core c).ring n with state := st, sub := none } := by
  rw [State.endSub, core_dropReq, State.core_updCore, if_pos rfl]
  exact (ring_setRing ..).trans (if_pos rfl)
theorem ring_latchThread (t : ThreadId) : ((s.latchThread t).core c).ring n = (s.core c).ring n := by
  rw [State.latchThread, State.updThread, State.setThread, State.core_updCore]
  split
  · next hc =>
    rw [hc]
    rfl
  · rfl
theorem ring_slotMoved (u : Sub) : ((s.slotMoved c n u).core c).ring n = ((s.core c).ring n).transferred u.n := by
  have hcount : ((s.updRing c n (fun r => { r with moved := r.moved + 1 })).core c).ring n =
      { (s.core c).ring n with moved := ((s.core c).ring n).moved + 1 } := by rw [ring_updRing, if_pos rfl]
  unfold State.slotMoved Ring.transferred
  dsimp only
  rw [hcount]
  split
  · have hend := ring_endSub (s.updRing c n (fun r => { r with moved := r.moved + 1 })) c n .opened
    rw [hcount] at hend
    split
    · rw [ring_latchThread, hend]
    · exact hend
  · exact hcount
end

section
variable {s : State} {c n : Nat} {r : Ring} {u : Sub} {rows : List (List Place)}

/-- The rows of a slot, copied to the slot at the tail; and those of the slot at the head, copied to where the rows go. -/
def State.loadRows (s : State) (c : Nat) (r : Ring) (u : Sub) (rows : List (List Place)) : State :=
  rows.zipIdx.foldl (fun s row => row.1.zipIdx.foldl (fun s p =>
    s.writeAt c (.loc (r.slotOff r.tail + row.2 * u.rowBytes + 64 * p.2)) (s.engineBytes c p.1 64)) s) s
def State.storeRows (s : State) (c : Nat) (r : Ring) (u : Sub) (rows : List (List Place)) : State :=
  rows.zipIdx.foldl (fun s row => row.1.zipIdx.foldl (fun s p =>
    s.writeAt c p.1 (s.engineBytes c (.loc (r.slotOff r.head + row.2 * u.rowBytes + 64 * p.2)) 64)) s) s
/-- The translations that the rows of a storer's slot are written through have paid their leaves (R176). -/
def State.dirtyRows (s : State) (c : Nat) (r : Ring) (u : Sub) : State :=
  (r.rowAddrs u).foldl (fun s a => (s.dirtyAt (clusterOf c) (s.coreCtx c) a).dirtyAt (clusterOf c) (s.coreCtx c)
    (a + BitVec.ofNat 64 (u.rowBytes - 64))) s
/-- The state in which a loader's slot has its bytes, and that in which a storer's slot is written. -/
def State.slotLoaded (s : State) (c : Nat) (r : Ring) (u : Sub) (rows : List (List Place)) : State :=
  (s.sentBy (some (u.thread, u.serial)) 0 (s.readBy c (rows.flatten.map (fun p => (p, 64))))).loadRows c r u rows
def State.slotStored (s : State) (c : Nat) (r : Ring) (u : Sub) (rows : List (List Place)) : State :=
  (s.dirtyRows c r u).sentBy (some (u.thread, u.serial)) 0 ((s.dirtyRows c r u).storeRows c r u rows)

theorem coresKept_slotLoaded (s : State) (c : Nat) (r : Ring) (u : Sub) (rows : List (List Place)) : CoresKept s (s.slotLoaded c r u rows) :=
  (coresKept_sentBy _ _ (coresKept_readBy s c _)).trans
    (.foldl (fun t _ => .foldl (fun t _ => coresKept_writeAt t c _ _) t _) _ _)
theorem coresKept_slotStored (s : State) (c : Nat) (r : Ring) (u : Sub) (rows : List (List Place)) : CoresKept s (s.slotStored c r u rows) := by
  have hdirty : CoresKept s (s.dirtyRows c r u) := .foldl (fun t _ => (coresKept_dirtyAt t ..).trans (coresKept_dirtyAt _ ..)) s _
  exact hdirty.trans (coresKept_sentBy _ _ (.foldl (fun t _ => .foldl (fun t _ => coresKept_writeAt t c _ _) t _) _ _))

theorem exec_loaderSlotLand (hr : (s.core c).ring n = r) (hu : r.sub = some u) (hh : u.held = false) (hs : r.state = .loading)
    (hroom : r.occ + ((s.core c).matQ.map (fun o => o.pushes n)).sum < r.count)
    (hrun : s.engineRun c (s.coreCtx c) u.user .loader (r.rowAddrs u) u.rowBytes = (none, rows)) :
    exec (.loaderSlotLand c n) s = .next (((s.slotLoaded c r u rows).pushSlots c n 1).slotMoved c n u) := by
  have hgo : ¬ (r.state ≠ .loading ∨ u.held = true ∨ r.count ≤ r.occ + ((s.core c).matQ.map (fun o => o.pushes n)).sum) := by
    rintro (h | h | h)
    · exact h hs
    · exact Bool.false_ne_true (hh.symm.trans h)
    · omega
  change execLoaderSlotLand c n s = _
  unfold execLoaderSlotLand
  dsimp only
  rw [hr, hu]
  dsimp only
  rw [if_neg hgo, hrun]
  rfl
theorem exec_storerSlotWritten (hr : (s.core c).ring n = r) (hu : r.sub = some u) (hh : u.held = false) (hs : r.state = .storing)
    (hocc : r.occ ≠ 0) (hrun : s.engineRun c (s.coreCtx c) u.user .storer (r.rowAddrs u) u.rowBytes = (none, rows)) :
    exec (.storerSlotWritten c n) s = .next (((s.slotStored c r u rows).popSlot c n).slotMoved c n u) := by
  have hgo : ¬ (r.state ≠ .storing ∨ u.held = true ∨ r.occ = 0) := by
    rintro (h | h | h)
    · exact h hs
    · exact Bool.false_ne_true (hh.symm.trans h)
    · exact hocc h
  change execStorerSlotWritten c n s = _
  unfold execStorerSlotWritten
  dsimp only
  rw [hr, hu]
  dsimp only
  rw [if_neg hgo, hrun]
  rfl

theorem ring_slotLanded {t : State} (h : CoresKept s t) (u : Sub) :
    (((t.pushSlots c n 1).slotMoved c n u).core c).ring n = ((s.core c).ring n).pushed.transferred u.n := by
  rw [ring_slotMoved, ring_pushSlot, if_pos rfl, h.ring]
theorem ring_slotWritten {t : State} (h : CoresKept s t) (u : Sub) :
    (((t.popSlot c n).slotMoved c n u).core c).ring n = ((s.core c).ring n).popped.transferred u.n := by
  rw [ring_slotMoved, ring_popSlot, if_pos rfl, h.ring]
end

/-- Settles O31: each instruction is brought to the register write that ends it, and a transferred slot pushes or pops its ring and counts. -/
theorem ringInstructions : Obligations.RingInstructions := by
  unfold Obligations.RingInstructions
  refine ⟨fun d a b s => ⟨fun bs hr => ⟨_, exec_rinit rfl hr, State.put_wrote _ d _⟩,
    fun hs hcount hfree h0 => ⟨_, exec_rpush rfl rfl hs hcount hfree h0, State.put_wrote _ d 0⟩,
    fun hs => ⟨_, exec_rpush_refused rfl rfl ?notOpened ?notStoring, State.put_wrote _ d 1⟩,
    fun bs st hr ho hbad hfree hw => ⟨_, exec_rsub rfl rfl hr ho hbad hfree hw, State.put_wrote _ d _⟩,
    fun hf hsub hs => ⟨_, exec_runsub_ends rfl rfl hf hsub hs, State.put_wrote _ d _⟩,
    fun hf hsub hs hocc => ⟨_, exec_runsub_waits rfl rfl hf hsub hs hocc, rfl⟩,
    fun m k v hw => ⟨_, exec_runsub_told hw, s.put_wrote d _⟩,
    fun m k hw hs hk => ⟨_, exec_runsub_written rfl rfl hw hs hk, State.put_wrote _ d _⟩,
    fun hf hsub => ⟨_, exec_runsub_none rfl rfl hf hsub, s.put_wrote d _⟩,
    ⟨_, rfl, s.put_wrote d _⟩⟩,
    fun c n u rows s hu hh => ⟨fun hs hroom hrun => ⟨_, exec_loaderSlotLand rfl hu hh hs hroom hrun, ?landed⟩,
      fun hs hocc hrun => ⟨_, exec_storerSlotWritten rfl hu hh hs hocc hrun, ?written⟩⟩⟩
  case notOpened => rcases hs with hs | hs | hs <;> exact fun h => nomatch hs.symm.trans h
  case notStoring => rcases hs with hs | hs | hs <;> exact fun h => nomatch hs.symm.trans h
  case landed =>
    rw [ring_slotLanded (coresKept_slotLoaded s c _ u rows), Ring.transferred_occ, Ring.transferred_tail, Ring.transferred_moved,
      Ring.transferred_state]
    exact ⟨rfl, rfl, rfl, by rw [← hs]; rfl⟩
  case written =>
    rw [ring_slotWritten (coresKept_slotStored s c _ u rows), Ring.transferred_occ, Ring.transferred_head, Ring.transferred_moved,
      Ring.transferred_state]
    exact ⟨rfl, rfl, rfl, by rw [← hs]; rfl⟩

end Sys2Proof.Machine
end

section
/-! SUPPORT. Memories in canonical form (R128): what a state update keeps. -/

namespace Sys2Proof.Machine

open Sys2Proof Sys2Proof.Safety

-- One proof after another: hundreds of short ones at a time take more threads than check.sh's limit has stacks for.
set_option Elab.async false

variable {s t : State}

/-- Only cores, contexts and the two device memories count. -/
theorem memOk_fields (h : MemOk s) (e : (t.cores, t.ctxs, t.hbm, t.weight) =
    (s.cores, s.ctxs, s.hbm, s.weight)) : MemOk t := by
  obtain ⟨hc, hx, hh, hw⟩ : t.cores = s.cores ∧ t.ctxs = s.ctxs ∧ t.hbm = s.hbm ∧ t.weight = s.weight := by simpa using
    e
  exact memOk_of_eq h hh hw (fun c => congrArg (fun l => (Tbl.get l Core.reset c).mem) hc)
    (fun x => congrArg (fun l => (Tbl.get l Ctx.reset x).saved) hx)
theorem memOk_atReset : MemOk State.reset := ⟨rfl, rfl, fun _ => rfl, fun _ _ hv => nomatch hv⟩
theorem memOk_snd {α : Type} {p : α × State} {a : α} (h : MemOk p.2) (e : p = (a, t)) : MemOk t := by
  subst e
  exact h
theorem memOk_fst {α : Type} {p : State × α} {a : α} (h : MemOk p.1) (e : p = (t, a)) : MemOk t := by
  subst e
  exact h
theorem memOk_ite {p : Prop} [Decidable p] (hs : MemOk s) (ht : MemOk t) : MemOk (if p then s else t) := by
  split
  · exact hs
  · exact ht
theorem memOk_ite_snd {α : Type} {p : Prop} [Decidable p] {a b : α × State} (ha : MemOk a.2) (hb : MemOk b.2) :
    MemOk (if p then a else b).2 := by
  split
  · exact ha
  · exact hb
theorem memOk_foldl {α : Type} {f : State → α → State} {l : List α} (h : MemOk s)
    (hf : ∀ u b, MemOk u → MemOk (f u b)) :
    MemOk (l.foldl f s) := foldl_keeps (P := MemOk) (fun u b _ hu => hf u b hu) s h
theorem memOk_foldl_fst {α β : Type} {f : State × α → β → State × α} {l : List β} {a : State × α} (h : MemOk a.1)
    (hf : ∀ a b, MemOk a.1 → MemOk (f a b).1) : MemOk (l.foldl f a).1 := foldl_keeps (P := fun a => MemOk a.1)
      (fun a b _ hu => hf a b hu) a h
theorem memOk_foldl_snd {α β : Type} {f : α × State → β → α × State} {l : List β} {a : α × State} (h : MemOk a.2)
    (hf : ∀ a b, MemOk a.2 → MemOk (f a b).2) : MemOk (l.foldl f a).2 := foldl_keeps (P := fun a => MemOk a.2)
      (fun a b _ hu => hf a b hu) a h

theorem memOk_setCore {c : Nat} {k : Core} (h : MemOk s) (hk : k.mem =
    (s.core c).mem := by rfl) : MemOk (s.setCore c k) :=
  memOk_updCore h c (fun _ => k) (hk ▸ h.2.2.1 c)
theorem memOk_core {c : Nat} {f : Core → Core} (h : MemOk s) (hf : ∀ k,
    (f k).mem = k.mem := by exact fun _ => rfl) : MemOk (s.updCore c f) :=
  memOk_setCore h (hf _)
theorem memOk_updMyCore {f : Core → Core} (h : MemOk s) (hf : ∀ k,
    (f k).mem = k.mem := by exact fun _ => rfl) : MemOk (s.updMyCore f) := memOk_core h hf
theorem memOk_setThread {i : ThreadId} {x : Thread} (h : MemOk s) : MemOk (s.setThread i x) := memOk_core h fun _ => rfl
theorem memOk_setMe {x : Thread} (h : MemOk s) : MemOk (s.setMe x) := memOk_setThread h
theorem memOk_updMe {f : Thread → Thread} (h : MemOk s) : MemOk (s.updMe f) := memOk_updThread h _ _
theorem memOk_mapCores {f : Nat × Core → Core} (h : MemOk s) (hf : ∀ p, (f p).mem = p.2.mem := by exact fun _ => rfl) :
    MemOk { s with cores := s.cores.map fun p => (p.1, f p) } := by
  refine ⟨h.1, h.2.1, fun c => ?_, h.2.2.2⟩
  have hg : ∀ l : Tbl Core, ((Tbl.get (l.map fun p => (p.1, f p)) Core.reset c)).mem =
    (Tbl.get l Core.reset c).mem := fun l => by
    induction l with
    | nil => rfl
    | cons p l ih =>
      rw [List.map_cons, Tbl.get, Tbl.get]
      split
      · exact hf p
      · exact ih
  exact (hg s.cores).symm ▸ h.2.2.1 c
/-- A context's saved cores are replaced by others whose memories are in canonical form. -/
theorem memOk_ctxSaved {x : Nat} {y : Ctx} (h : MemOk s) (hy : ∀ v ∈ y.saved, v.data.mem.wf = true) : MemOk (s.setCtx x
    y) := by
  refine ⟨h.1, h.2.1, h.2.2.1, fun z v hv => ?_⟩
  have hz : ((s.setCtx x y).ctx z) = if z = x then y else s.ctx z := Tbl.get_set ..
  rw [hz] at hv
  split at hv
  · exact hy v hv
  · exact h.2.2.2 z v hv
theorem memOk_setCtx {x : Nat} {y : Ctx} (h : MemOk s) (hy : y.saved =
    (s.ctx x).saved := by rfl) : MemOk (s.setCtx x y) :=
  memOk_ctxSaved h fun v hv => h.2.2.2 x v (hy ▸ hv)
theorem memOk_updCtx {x : Nat} {f : Ctx → Ctx} (h : MemOk s) (hf : ∀ y,
    (f y).saved = y.saved := by exact fun _ => rfl) : MemOk (s.updCtx x f) :=
  memOk_setCtx h (hf _)
theorem memOk_asThread {i : ThreadId} {f : State → State} (h : MemOk s)
    (hf : ∀ u, MemOk u → MemOk (f u)) : MemOk (s.asThread i f) :=
  hf { s with cur := i } h

theorem memOk_ok {r : MgRes} (h : MemOk r.state) (e : r = .ok t) : MemOk t := by
  subst e
  exact h
theorem memOk_stop {r : MgRes} (h : MemOk r.state) (e : r = .stop t) : MemOk t := by
  subst e
  exact h
theorem memOk_okState (h : MemOk s) : MemOk (MgRes.ok s).state := h
theorem memOk_stopState (h : MemOk s) : MemOk (MgRes.stop s).state := h

/-- An outcome whose next state has its memories in canonical form. -/
def OutOk (o : Out) : Prop := ∀ t, o = .next t → MemOk t
theorem outOk_next (h : MemOk s) : OutOk (.next s) := fun _ e => by
  cases e
  exact h
theorem outOk_fault {r : Fault} : OutOk (.fault r) := nofun
theorem outOk_refused {r : Refusal} : OutOk (.refused r) := nofun
/-- The same of what trying to issue a thread comes to. -/
def TriedOk (o : Tried) : Prop := ∀ x, o = .did x → OutOk x
theorem triedOk_passed : TriedOk .passed := nofun
theorem triedOk_stalled : TriedOk .stalled := nofun
theorem triedOk_did {o : Out} (h : OutOk o) : TriedOk (.did o) := fun _ e => by
  cases e
  exact h

end Sys2Proof.Machine
end

section
/-! SUPPORT. Memories stay in canonical form (R128): registers, traps, loads and barriers. -/

namespace Sys2Proof.Machine

open Sys2Proof Sys2Proof.Safety

-- One proof after another: hundreds of short ones at a time take more threads than check.sh's limit has stacks for.
set_option Elab.async false

variable {s t : State}

/-! Registers, completion, traps, pages, loads and local blocks (R65, R82, R137, R176). -/

theorem memOk_setCluster {n : Nat} {c : Cluster} (h : MemOk s) : MemOk (s.setCluster n c) := h
theorem memOk_updCluster {n : Nat} {f : Cluster → Cluster} (h : MemOk s) : MemOk (s.updCluster n f) := memOk_setCluster
    h
theorem memOk_setDie {n : Nat} {d : Die} (h : MemOk s) : MemOk (s.setDie n d) := h
theorem memOk_updDie {n : Nat} {f : Die → Die} (h : MemOk s) : MemOk (s.updDie n f) := memOk_setDie h
theorem memOk_updIo {n : Nat} {f : IoDie → IoDie} (h : MemOk s) : MemOk (s.updIo n f) := h
theorem memOk_setReg {r : Reg} {v : Word} (h : MemOk s) : MemOk (s.setReg r v) := memOk_updMe h
theorem memOk_setRow {r : RowCode} {v : Row} (h : MemOk s) : MemOk (s.setRow r v) := memOk_updMe h
theorem memOk_setMask {m : MaskCode} {v : BitVec 16} (h : MemOk s) : MemOk (s.setMask m v) := memOk_updMe h
theorem memOk_accrueAt {t : ThreadId} {f : FFlags} (h : MemOk s) : MemOk (s.accrueAt t f) :=
  memOk_ite h (memOk_updCluster (memOk_updThread h _ _))
theorem memOk_accrue {f : FFlags} (h : MemOk s) : MemOk (s.accrue f) := memOk_accrueAt h
theorem memOk_retire (h : MemOk s) : MemOk s.retire := memOk_hpm (memOk_updMe h) _ _ _
theorem memOk_advance (h : MemOk s) : MemOk s.advance := memOk_hpm (memOk_updMe (memOk_retire h)) _ _ _
theorem memOk_put {d : Reg} {v : Word} (h : MemOk s) : MemOk (s.put d v) := memOk_advance (memOk_setReg h)
theorem memOk_fresh (h : MemOk s) : MemOk s.fresh := h
theorem memOk_readTime (h : MemOk s) : MemOk s.readTime.2 := by
  unfold State.readTime
  exact h
theorem memOk_latchAll {c : Nat} (h : MemOk s) : MemOk (s.latchAll c) := memOk_core h
theorem memOk_latchOthers {t : ThreadId} (h : MemOk s) : MemOk (s.latchOthers t) := by
  refine memOk_core h fun k => foldl_keeps (P := fun j : Core => j.mem = k.mem) (fun j n _ hj => ?_) k rfl
  split <;> exact hj
theorem memOk_latchThread {t : ThreadId} (h : MemOk s) : MemOk (s.latchThread t) := memOk_updThread h _ _
theorem memOk_sendOut {die dev : Nat} {what : Outgoing} (h : MemOk s) : MemOk (s.sendOut die dev what) := h
theorem memOk_askOut {c dev va : Nat} {what : RemoteKind} (h : MemOk s) : MemOk (s.askOut c dev va what) := h
theorem memOk_sentBy {src : Option (ThreadId × Nat)} {cls : BitVec 8} {u : State} (_ : MemOk s)
    (h1 : MemOk u) : MemOk (s.sentBy src cls u) :=
  h1
theorem memOk_setDirty {a : Nat} (h : MemOk s) : MemOk (s.setDirty a) := memOk_fields (memOk_orByte h _ _) rfl
theorem memOk_dirtyAt {cluster ctx : Nat} {va : Word} (h : MemOk s) : MemOk (s.dirtyAt cluster ctx va) := by
  unfold State.dirtyAt
  split
  · exact memOk_setDirty h
  · exact h
theorem memOk_dirty {ea : Word} (h : MemOk s) : MemOk (s.dirty ea) := memOk_ite (memOk_dirtyAt h) h
theorem memOk_dropOnDie {die ctx va : Nat} (h : MemOk s) : MemOk (s.dropOnDie die ctx va) := h
theorem memOk_joinMiss {die ctx : Nat} {va : Word} {k : Access} {user : Bool} {i : ThreadId} {r : Requester} {p : Nat ×
    State}
    (h : MemOk s) (e : s.joinMiss die ctx va k user i r = some p) : MemOk p.2 := by
  unfold State.joinMiss at e
  dsimp only at e
  split at e
  · cases e
    exact memOk_setDie (memOk_dropOnDie h)
  · split at e <;> cases e
    exact memOk_setDie (memOk_dropOnDie h)
theorem memOk_dropReq {r : Requester} (h : MemOk s) : MemOk (s.dropReq r) := h
theorem memOk_blockAt {t : ThreadId} {w : Wait} {word : W32} (h : MemOk s) : MemOk (s.blockAt t w word) :=
    memOk_updThread h _ _
theorem memOk_wait {w : Wait} {i : Instr} (h : MemOk s) : MemOk (s.wait w i) := memOk_blockAt h
theorem memOk_holdOnPage {ea : Word} {k : Access} (h : MemOk s) : MemOk (s.holdOnPage ea k) := by
  unfold State.holdOnPage
  dsimp only
  split
  · exact h
  · next e => exact memOk_updThread (memOk_joinMiss h e) _ _
theorem memOk_leaveWith {t : ThreadId} {g : HitchRec} (h : MemOk s) : MemOk (s.leaveWith t g) := by
  unfold State.leaveWith
  dsimp only
  split
  · exact memOk_foldl h fun u _ hu => memOk_updThread hu _ _
  · split <;> exact memOk_foldl (memOk_hpm (memOk_updThread h _ _) _ _ _) fun u _ hu => memOk_updThread hu _ _
theorem memOk_leaveHitch {t : ThreadId} (h : MemOk s) : MemOk (s.leaveHitch t) := by
  unfold State.leaveHitch
  split
  · exact h
  · exact memOk_leaveWith h
theorem memOk_ioEvent {die : Nat} {fatal : Bool} {code : Nat} {a b : Word}
    (h : MemOk s) : MemOk (s.ioEvent die fatal code a b) :=
  memOk_updIo h
theorem memOk_writeEvent {x c : Nat} {e : Event} (h : MemOk s) : MemOk (s.writeEvent x c e) := by
  have ht := memOk_readTime h
  unfold State.writeEvent
  exact memOk_updCtx (memOk_latchAll (memOk_hpm (memOk_updCore ht c _ (Mem.wf_write _ _ _ (ht.2.2.1 c))) _ _ _))
theorem memOk_postEvent {x kind ident : Nat} {d1 d2 : Word} (h : MemOk s) : MemOk (s.postEvent x kind ident d1 d2) := by
  unfold State.postEvent
  dsimp only
  split
  · exact memOk_updCtx h
  · exact memOk_ite (memOk_writeEvent h) (memOk_ite (memOk_updCtx h) (memOk_updCtx h))
theorem memOk_flushEvents {x c : Nat} (h : MemOk s) : MemOk (s.flushEvents x c) :=
  memOk_foldl h fun u _ hu => memOk_ite (memOk_writeEvent (memOk_updCtx hu)) hu
theorem mem_leaveBars {k : Core} {slot : Nat} : (k.leaveBars slot).mem = k.mem := (leaveBars_loads k slot).1
theorem memOk_settleCore {c : Nat} (h : MemOk s) : MemOk (s.settleCore c) := by
  unfold State.settleCore
  dsimp only
  split
  · exact memOk_ite (memOk_setCore h) h
  · exact h
theorem memOk_endThread {t : ThreadId} {v : Word} (h : MemOk s) : MemOk (s.endThread t v) := by
  unfold State.endThread
  extract_lets s1 s2
  have h1 : MemOk s1 := memOk_core h fun _ => mem_leaveBars
  have h2 : MemOk s2 := memOk_updThread h1 _ _
  exact memOk_ite h2 (memOk_latchOthers h2)
theorem memOk_failCtx {x : Nat} (h : MemOk s) : MemOk (s.failCtx x) := by
  unfold State.failCtx
  extract_lets s1 s2
  have h1 : MemOk s1 := memOk_updCtx h
  have h2 : MemOk s2 := h1
  exact memOk_ite (memOk_ioEvent h2) h
theorem memOk_trapAt {t : ThreadId} {cause : Nat} {tval : Word} (h : MemOk s) : MemOk (s.trapAt t cause tval) := by
  unfold State.trapAt
  extract_lets s1 s2 th
  have h1 : MemOk s1 := memOk_leaveHitch h
  have h2 : MemOk s2 := memOk_ite (memOk_hpm h1 _ _ _) h1
  split
  · exact memOk_setThread h2
  · split
    · exact memOk_failCtx (memOk_updThread (memOk_setThread h2) _ _)
    · exact memOk_endThread (memOk_postEvent (memOk_setThread h2))
theorem memOk_trap {cause : Nat} {tval : Word} (h : MemOk s) : MemOk (s.trap cause tval) := memOk_trapAt h
theorem memOk_priv {i : Instr} (h : MemOk s) : MemOk (s.priv i) := memOk_trap h
theorem memOk_access {ea : Word} {n align : Nat} {k : Access} {go : Place → State} (h : MemOk s)
    (hgo : ∀ b0, MemOk (go b0)) : MemOk (s.access ea n align k go) := by
  unfold State.access
  split
  · exact memOk_trap h
  · exact memOk_holdOnPage h
  · exact hgo _
theorem memOk_hbmError {a : Nat} (h : MemOk s) : MemOk (s.hbmError a) := h
theorem memOk_countWords {ws : List Nat} (h : MemOk s) : MemOk (s.countWords ws) := memOk_foldl h fun _ _ hu
    => memOk_hbmError hu
theorem memOk_reportError {t : ThreadId} {ea : Word} {p : Place} {ws : List Nat}
    (h : MemOk s) : MemOk (s.reportError t ea p ws) := by
  unfold State.reportError
  split
  · exact memOk_ioEvent (memOk_countWords (memOk_postEvent h))
  · exact memOk_postEvent h
  · exact memOk_postEvent h
  · exact memOk_postEvent h
theorem memOk_seen {c : Nat} {p : Place} {n : Nat} (h : MemOk s) : MemOk (s.seen c p n) := by
  unfold State.seen
  split
  · exact memOk_askOut (memOk_fresh h)
  · exact h
  · exact h
  · exact h
theorem memOk_countBad {l : List (Place × Nat)} (h : MemOk s) : MemOk (s.countBad l) := memOk_foldl h fun _ _ hu
    => memOk_countWords hu
theorem memOk_readBy {c : Nat} {l : List (Place × Nat)} (h : MemOk s) : MemOk (s.readBy c l) :=
  memOk_foldl (memOk_countBad h) fun _ _ hu => memOk_seen hu
theorem memOk_loadChecked {t : ThreadId} {ea : Word} {p : Place} {n : Nat}
    (h : MemOk s) : MemOk (s.loadChecked t ea p n).2 := by
  unfold State.loadChecked
  split
  · exact memOk_reportError h
  · exact memOk_seen h
theorem memOk_rmwRead {t : ThreadId} {ea : Word} {p : Place} {n : Nat}
    (h : MemOk s) : MemOk (s.rmwRead t ea p n).2 := by
  unfold State.rmwRead
  split
  · exact memOk_reportError h
  · exact h
theorem memOk_loadDwords {t : ThreadId} {ea : Word} {p : Place} {fuel : Nat}
    (h : MemOk s) : MemOk (s.loadDwords t ea p fuel).2 := by
  induction fuel generalizing s with
  | zero => exact h
  | succ fuel ih =>
    unfold State.loadDwords
    exact memOk_loadChecked (ih h)
theorem memOk_localBlock {ea : Word} {n align : Nat} {alignFirst : Bool} {go : State → List Byte → State}
    (h : MemOk s) (hgo : ∀ u b1, MemOk u → MemOk (go u b1)) : MemOk (s.localBlock ea n align alignFirst go) := by
  unfold State.localBlock
  dsimp only
  split
  · exact memOk_trap h
  · split
    · exact memOk_trap h
    · split
      · exact memOk_trap h
      · split
        · exact memOk_trap h
        · exact h
        · exact hgo _ _ (memOk_loadDwords h)
theorem memOk_localLoads {go : State → List Byte → State} {n : Nat} {a : Word} {bs : List Byte} (h : MemOk s)
    (hgo : ∀ u b, MemOk u → MemOk (go u b)) : MemOk (State.localLoads go n a bs s) := by
  induction n generalizing a bs s with
  | zero => exact hgo s bs h
  | succ n ih => exact memOk_localBlock h fun u b hu => ih hu
theorem memOk_rmw {c : Nat} {p : Place} {fn : BitVec 4} {dword : Bool} {operand : Word}
    (h : MemOk s) : MemOk (s.rmw c p fn dword operand).2 := by
  unfold State.rmw
  dsimp only
  split
  · exact memOk_askOut (memOk_fresh (memOk_countBad h))
  · exact memOk_writeAt (memOk_countBad h) _ _ _
  · exact memOk_writeAt (memOk_countBad h) _ _ _
  · exact memOk_writeAt (memOk_countBad h) _ _ _
theorem memOk_byEngine {t : ThreadId} {f : State → State} (h : MemOk s)
    (hf : ∀ u, MemOk u → MemOk (f u)) : MemOk (s.byEngine t f) := by
  unfold State.byEngine
  extract_lets s1
  have h1 : MemOk s1 := memOk_asThread h fun u hu => hf _ hu
  split
  · exact memOk_updThread h1 _ _
  · exact h1
  · exact h1
  · exact h1
  · exact h1
theorem memOk_supOnly {i : Instr} {u : State} (h : MemOk s) (h1 : MemOk u) : MemOk (s.supOnly i u) := memOk_ite h1
    (memOk_priv h)

/-! Row and mask results. -/

theorem memOk_rowWrite {m : BitVec 16} {d : RowCode} {f : Nat → W32}
    (h : MemOk s) : MemOk (s.rowWrite m d f) := memOk_updMe h
theorem memOk_rowFp {m : MaskCode} {d : RowCode} {f : Nat → W32 × FFlags} (h : MemOk s) : MemOk (s.rowFp m d f) :=
  memOk_advance (memOk_accrue (memOk_rowWrite h))
theorem memOk_rowInt {m : MaskCode} {d : RowCode} {f : Nat → W32}
    (h : MemOk s) : MemOk (s.rowInt m d f) := memOk_advance (memOk_rowWrite h)
theorem memOk_maskCmp {m k : MaskCode} {f : Nat → Bool × FFlags} (h : MemOk s) : MemOk (s.maskCmp m k f) :=
  memOk_advance (memOk_accrue (memOk_setMask h))
theorem memOk_putFp {d : Reg} {r : W32 × FFlags} (h : MemOk s) : MemOk (s.putFp d r) := memOk_advance (memOk_accrue
    (memOk_setReg h))

/-! Barrier domains (R207). -/

theorem saved_setDomainGen {x : Ctx} {key : Nat × Nat × Nat × Nat} {g : W32} :
    (x.setDomainGen key g).saved = x.saved := by
  unfold Ctx.setDomainGen
  split <;> rfl

/-! Counters, SEND, rank map and barriers (R200-R209). -/

theorem memOk_bumpCounter {c n : Nat} {v : W32} (h : MemOk s) : MemOk (s.bumpCounter c n v) := by
  unfold State.bumpCounter
  extract_lets s1
  have h1 : MemOk s1 := memOk_latchAll (memOk_core h)
  split
  · exact memOk_flushEvents h1
  · exact h1
theorem memOk_postMsg {rank : Nat} {e : Word} {kind : MsgKind}
    (h : MemOk s) : MemOk (s.postMsg rank e kind) := memOk_updMyCore h
theorem outOk_execSend {d a b : Reg} (h : MemOk s) : OutOk (execSend d a b s) := by
  unfold execSend
  refine outOk_next (memOk_localBlock h (fun u b1 hu => ?_))
  dsimp only
  split
  · exact memOk_put hu
  · split
    · exact memOk_trap hu
    · split
      · exact memOk_trap hu
      · split
        · exact memOk_wait hu
        · exact memOk_put (memOk_ite (memOk_writeAt (memOk_postMsg (memOk_release hu)) _ _ _) (memOk_postMsg
            (memOk_release hu)))
theorem memOk_landSend {c off ctr : Nat} {payload : List Byte} (h : MemOk s) : MemOk (s.landSend c off ctr payload) :=
  memOk_hpm (memOk_bumpCounter (memOk_writeAt h _ _ _)) _ _ _
theorem memOk_releaseRank {x rank dev core : Nat} (h : MemOk s) : MemOk (s.releaseRank x rank dev core) := h
theorem memOk_setRank {x rank : Nat} {e : Word} (h : MemOk s) : MemOk (s.setRank x rank e) := memOk_updCtx h
theorem outOk_execRkmap {d a b : Reg} (h : MemOk s) : OutOk (execRkmap d a b s) := by
  unfold execRkmap
  refine outOk_next (memOk_supOnly h ?_)
  dsimp only
  split
  · exact memOk_ite h (memOk_put (memOk_setRank h))
  · split
    · exact memOk_put h
    · exact memOk_ite (memOk_wait (memOk_setRank (memOk_release h))) (memOk_put (memOk_setRank (memOk_release h)))
theorem memOk_barArrive {n : Nat} (h : MemOk s) : MemOk (s.barArrive n) := by
  unfold State.barArrive
  extract_lets s1
  have h1 : MemOk s1 := memOk_release h
  exact memOk_ite (memOk_updMyCore (memOk_updMe h1)) (memOk_ite (memOk_latchAll (memOk_updMyCore h1))
    (memOk_updMyCore h1))
theorem outOk_execBarsync {d a : Reg} (h : MemOk s) : OutOk (execBarsync d a s) := by
  unfold execBarsync
  refine outOk_next ?_
  dsimp only
  split
  · exact memOk_ite (memOk_advance h) (memOk_wait h)
  · split
    · exact memOk_trap h
    · exact memOk_ite (memOk_advance (memOk_setReg (memOk_barArrive h))) (memOk_wait (memOk_setReg (memOk_barArrive h)))
theorem memOk_completeDomain {x : Nat} {key : Nat × Nat × Nat × Nat} (h : MemOk s) : MemOk (s.completeDomain x key) :=
  memOk_foldl (memOk_updCtx h (fun _ => saved_setDomainGen)) fun _ _ hu => memOk_latchAll hu
theorem outOk_execDomainBarrierCompletion {ctx inst : Nat} (h : MemOk s) : OutOk (execDomainBarrierCompletion ctx inst
    s) := by
  unfold execDomainBarrierCompletion
  refine outOk_next ?_
  split
  · exact h
  · exact memOk_ite (memOk_completeDomain h) h

end Sys2Proof.Machine
end

section
/-! SUPPORT. Memories stay in canonical form (R128): matrix units, copies, kernels and queues. -/

namespace Sys2Proof.Machine

open Sys2Proof Sys2Proof.Safety

-- One proof after another: hundreds of short ones at a time take more threads than check.sh's limit has stacks for.
set_option Elab.async false

variable {s t : State}

/-! Matrix units and rings (R113-R126). -/

theorem memOk_updRing {c n : Nat} {f : Ring → Ring} (h : MemOk s) : MemOk (s.updRing c n f) := memOk_core h
theorem memOk_popSlot {c n : Nat} (h : MemOk s) : MemOk (s.popSlot c n) := memOk_ite (memOk_latchAll
    (memOk_updRing h)) (memOk_updRing h)
theorem memOk_pushSlots {c n k : Nat} (h : MemOk s) : MemOk (s.pushSlots c n k) :=
  memOk_ite (memOk_latchAll (memOk_updRing h)) (memOk_updRing h)
theorem memOk_matAccept {kind : MatKind} {tile ra rb : Nat} {ka kb : Bool}
    (h : MemOk s) : MemOk (s.matAccept kind tile ra rb ka kb) :=
  memOk_updMe (memOk_updMyCore (memOk_release h))
theorem outOk_matIssue {i : Instr} {rings : List Nat} {push : Bool} {go : State → State} (h : MemOk s)
    (hgo : ∀ u, MemOk u → MemOk (go u)) : OutOk (s.matIssue i rings push go) :=
  outOk_next (memOk_ite h (memOk_ite (memOk_wait h) (hgo _ h)))
theorem memOk_matCheck {tile a b : Nat} {ka kb : Bool} {i : Instr}
    (h : MemOk s) : MemOk (s.matCheck tile a b ka kb i) :=
  memOk_wait (memOk_matAccept h)
theorem outOk_execMma {d : TileCode} {a b : Reg} {ka kb : Bool} (h : MemOk s) : OutOk (execMma d a b ka kb s) := by
  unfold execMma
  dsimp only
  split
  · exact outOk_next h
  · exact outOk_matIssue h fun u hu => memOk_ite (memOk_matCheck hu) (memOk_advance (memOk_matAccept hu))
theorem outOk_execMchk {d : TileCode} {a b : Reg} {ka kb : Bool} (h : MemOk s) : OutOk (execMchk d a b ka kb s) := by
  unfold execMchk
  dsimp only
  split
  · exact outOk_next h
  · exact outOk_matIssue h fun u hu => memOk_matCheck hu
theorem memOk_countZeroed {c n : Nat} (h : MemOk s) : MemOk (s.countZeroed c n) := memOk_fields (memOk_hpm h _ _ _) rfl
theorem memOk_matCommit {c : Nat} {o : MatOp} {rows : List Row} {f : FFlags} {bad : List (Nat × Nat × Nat × Nat)}
    (h : MemOk s) : MemOk (s.matCommit c o rows f bad) :=
  memOk_ite (memOk_accrueAt (memOk_updThread (memOk_countZeroed h) _ _)) (memOk_countZeroed h)
theorem memOk_matPops {c : Nat} {o : MatOp} (h : MemOk s) : MemOk (s.matPops c o) :=
  memOk_foldl h fun _ _ hu => memOk_ite hu (memOk_popSlot hu)
theorem memOk_matProduct {c : Nat} {o : MatOp} (h : MemOk s) : MemOk (s.matProduct c o) := memOk_matPops
    (memOk_matCommit h)
theorem memOk_matLoad {c : Nat} {o : MatOp} (h : MemOk s) : MemOk (s.matLoad c o) := memOk_matPops (memOk_matCommit h)
theorem memOk_matStore {c : Nat} {o : MatOp} (h : MemOk s) : MemOk (s.matStore c o) := by
  unfold State.matStore
  extract_lets k r out mode rows s1 f s2
  have h1 : MemOk s1 := memOk_foldl h fun u _ hu => memOk_writeAt hu _ _ _
  have h2 : MemOk s2 := memOk_pushSlots h1
  exact memOk_ite (memOk_latchThread (memOk_accrueAt h2)) h2
theorem memOk_addRerun (h : MemOk s) : MemOk s.addRerun := h
theorem memOk_matCheckDone {c : Nat} {o : MatOp} (h : MemOk s) : MemOk (s.matCheckDone c o) := by
  unfold State.matCheckDone
  extract_lets n s1 t s2
  have h1 : MemOk s1 := memOk_fresh h
  have h2 : MemOk s2 := memOk_ite h1 (memOk_addRerun h1)
  split
  · exact memOk_ite (memOk_asThread (memOk_matProduct h2) (fun u hu => memOk_advance hu)) (memOk_matProduct h2)
  · exact memOk_ite (memOk_trapAt h2) h2
theorem outOk_execMatOpRetire {core : Nat} (h : MemOk s) : OutOk (execMatOpRetire core s) := by
  unfold execMatOpRetire
  refine outOk_next ?_
  dsimp only
  split
  · exact h
  · split
    · exact memOk_hpm (memOk_matProduct (memOk_core h)) _ _ _
    · exact memOk_matCheckDone (memOk_core h)
    · exact memOk_matCommit (memOk_core h)
    · exact memOk_matLoad (memOk_core h)
    · exact memOk_matStore (memOk_core h)
theorem memOk_ringLocal {b : Word} {go : State → List Byte → State} (h : MemOk s)
    (hgo : ∀ u b1, MemOk u → MemOk (go u b1)) : MemOk (s.ringLocal b go) :=
  memOk_localBlock h fun _ _ hu => hgo _ _ hu
theorem outOk_execRpush {d a b : Reg} (h : MemOk s) : OutOk (execRpush d a b s) := by
  unfold execRpush
  exact outOk_next (memOk_ite (memOk_put (memOk_release h)) (memOk_ite (memOk_put (memOk_release h)) (memOk_ite
    (memOk_wait (memOk_release h)) (memOk_put (memOk_pushSlots (memOk_release h))))))
theorem outOk_execRsub {d a b : Reg} {storer : Bool} (h : MemOk s) : OutOk (execRsub d a b storer s) := by
  unfold execRsub
  refine outOk_next ?_
  dsimp only
  split
  · exact h
  · refine memOk_ringLocal h fun u b1 hu => ?_
    split
    · exact memOk_put hu
    · refine memOk_put (memOk_updMyCore (memOk_release hu) (fun k => ?_))
      split <;> exact rfl
theorem memOk_endSub {c n : Nat} {st : RingState} (h : MemOk s) : MemOk (s.endSub c n st) := memOk_dropReq
    (memOk_core h)
theorem outOk_execRunsub {d a : Reg} (h : MemOk s) : OutOk (execRunsub d a s) := by
  unfold execRunsub
  refine outOk_next ?_
  split
  · exact memOk_put h
  · exact memOk_ite (memOk_ite (memOk_put (memOk_endSub h)) h) (memOk_ite (memOk_put (memOk_endSub h)) (memOk_put h))
  · exact memOk_ite (memOk_put h) (memOk_ite (memOk_wait h) (memOk_put (memOk_endSub h)))
theorem memOk_holdRing {c n : Nat} {u : Sub} {va : Word} {k : Access}
    (h : MemOk s) : MemOk (s.holdRing c n u va k) := by
  unfold State.holdRing
  split
  · exact h
  · next e => exact memOk_updRing (memOk_joinMiss h e)
theorem memOk_slotMoved {c n : Nat} {u : Sub} (h : MemOk s) : MemOk (s.slotMoved c n u) :=
  memOk_ite (memOk_ite (memOk_latchThread (memOk_endSub (memOk_updRing h))) (memOk_endSub (memOk_updRing h)))
    (memOk_updRing h)
theorem outOk_execLoaderSlotLand {core ring : Nat} (h : MemOk s) : OutOk (execLoaderSlotLand core ring s) := by
  unfold execLoaderSlotLand
  refine outOk_next ?_
  dsimp only
  split
  · exact h
  · split
    · exact h
    · split
      · exact memOk_holdRing h
      · exact memOk_slotMoved (memOk_pushSlots (memOk_foldl (memOk_sentBy h (memOk_readBy h))
          (fun u _ hu => memOk_foldl hu (fun u _ hu' => memOk_writeAt hu' _ _ _))))
theorem outOk_execStorerSlotWritten {core ring : Nat} (h : MemOk s) : OutOk (execStorerSlotWritten core ring s) := by
  unfold execStorerSlotWritten
  refine outOk_next ?_
  dsimp only
  split
  · exact h
  · split
    · exact h
    · split
      · exact memOk_updRing h
      · exact memOk_holdRing h
      · exact memOk_slotMoved (memOk_popSlot (memOk_sentBy (memOk_foldl h (fun u _ hu => memOk_dirtyAt
          (memOk_dirtyAt hu))) (memOk_foldl (memOk_foldl h (fun u _ hu => memOk_dirtyAt (memOk_dirtyAt hu)))
          (fun u _ hu => memOk_foldl hu (fun u _ hu' => memOk_writeAt hu' _ _ _)))))

/-! Copy engine and streams (R144-R155). -/

theorem outOk_execCpy {d : Reg} (h : MemOk s) : OutOk (execCpy d s) := by
  unfold execCpy
  refine outOk_next ?_
  dsimp only
  split
  · exact memOk_priv h
  · split
    · exact memOk_put h
    · split
      · exact h
      · split <;> exact memOk_ite (memOk_wait h) (memOk_put (memOk_updMe (memOk_updMyCore (memOk_release h))))
theorem outOk_execCwait {d a : Reg} (h : MemOk s) : OutOk (execCwait d a s) := by
  unfold execCwait
  refine outOk_next ?_
  dsimp only
  split
  · exact memOk_put h
  · split
    · exact memOk_wait h
    · split
      · exact memOk_put h
      · split
        · exact memOk_trap (memOk_updMe h)
        · exact memOk_updMe h
theorem memOk_writeSpan {c : Nat} {l : List (Place × Nat)} {bs : List Byte}
    (h : MemOk s) : MemOk (s.writeSpan c l bs) :=
  memOk_foldl_fst h fun _ _ hu => memOk_writeAt hu _ _ _
theorem memOk_dirtySpan {c ctx : Nat} {va : Word} {n : Nat} (h : MemOk s) : MemOk (s.dirtySpan c ctx va n) := by
  unfold State.dirtySpan
  split
  · exact memOk_foldl h fun u _ hu => memOk_dirtyAt hu
  · exact h
theorem memOk_updRec {core : Nat} {c : Copy} {f : CopyRec → CopyRec} (h : MemOk s) : MemOk (s.updRec core c f) :=
  memOk_ite (memOk_updThread h _ _) h
theorem memOk_endCopy {core : Nat} {c : Copy} {st : CopyState} (h : MemOk s) : MemOk (s.endCopy core c st) := by
  unfold State.endCopy
  extract_lets s1 s2 s3
  have h1 : MemOk s1 := memOk_updRec h
  have h2 : MemOk s2 := memOk_core h1
  have h3 : MemOk s3 := memOk_ite (memOk_latchThread h2) h2
  split
  · exact h3
  · exact memOk_updRec h3
theorem memOk_setHeadCopy {core : Nat} {c : Copy} (h : MemOk s) : MemOk (s.setHeadCopy core c) := memOk_core h
theorem outOk_execCopyUnitDone {core : Nat} (h : MemOk s) : OutOk (execCopyUnitDone core s) := by
  unfold execCopyUnitDone
  refine outOk_next ?_
  dsimp only
  split
  · exact h
  · split
    · exact h
    · split
      · exact memOk_endCopy h
      · split
        · exact h
        · next e4 => exact memOk_updRec (memOk_setHeadCopy (memOk_joinMiss h e4))
      · split
        · exact memOk_setHeadCopy (memOk_updRec (memOk_countZeroed (memOk_sentBy h (memOk_foldl (memOk_foldl
            (memOk_readBy h) (fun u _ hu => memOk_dirtySpan hu)) (fun u _ hu => memOk_writeSpan hu)))))
        · exact memOk_endCopy (memOk_ite (memOk_updRec (memOk_updRec (memOk_countZeroed (memOk_sentBy h (memOk_foldl
            (memOk_foldl (memOk_readBy h) (fun u _ hu => memOk_dirtySpan hu)) (fun u _ hu => memOk_writeSpan hu))))))
            (memOk_updRec (memOk_countZeroed (memOk_sentBy h (memOk_foldl (memOk_foldl (memOk_readBy h)
            (fun u _ hu => memOk_dirtySpan hu)) (fun u _ hu => memOk_writeSpan hu))))))
theorem outOk_execSopen {d a : Reg} (h : MemOk s) : OutOk (execSopen d a s) := by
  unfold execSopen
  refine outOk_next ?_
  dsimp only
  split
  · exact memOk_put h
  · split
    · exact memOk_put h
    · split
      · exact h
      · split
        · exact memOk_trap h
        · exact memOk_put (memOk_updMyCore (memOk_release h))
theorem memOk_updStrm {c n : Nat} {f : Strm → Strm} (h : MemOk s) : MemOk (s.updStrm c n f) := memOk_core h
theorem memOk_streamStop {core n : Nat} {x : Strm} {va : Word} {c : Checked}
    (h : MemOk s) : MemOk (s.streamStop core n x va c) := by
  unfold State.streamStop
  split
  · exact memOk_updStrm h
  · exact h
  · split
    · exact h
    · next e => exact memOk_updStrm (memOk_joinMiss h e)
theorem memOk_strmRetires {c n : Nat} (h : MemOk s) : MemOk (s.strmRetires c n) := memOk_ite h (memOk_ite
    (memOk_latchThread h) h)
theorem memOk_popDone {c n : Nat} {o : StrmOp} (h : MemOk s) : MemOk (s.popDone c n o) :=
  memOk_strmRetires (memOk_ite (memOk_updThread (memOk_updStrm h) _ _) (memOk_updStrm h))
theorem memOk_popStep {c n : Nat} {o : StrmOp} (h : MemOk s) : MemOk (s.popStep c n o) := by
  unfold State.popStep
  dsimp only
  split
  · exact memOk_popDone h
  · split
    · exact memOk_popDone (memOk_updStrm (memOk_sentBy h (memOk_readBy h)))
    · exact memOk_updStrm (memOk_sentBy h (memOk_readBy h))
theorem outOk_execStreamReadDone {core stream : Nat} (h : MemOk s) : OutOk (execStreamReadDone core stream s) := by
  unfold execStreamReadDone
  refine outOk_next ?_
  dsimp only
  split
  · exact memOk_popStep h
  · split
    · exact h
    · split
      · split
        · exact memOk_updStrm (memOk_sentBy h (memOk_readBy h))
        · split
          · exact memOk_updStrm (memOk_sentBy h (memOk_readBy h))
          · exact memOk_streamStop h
      · exact memOk_streamStop h
theorem memOk_drainStrm {c n fuel : Nat} (h : MemOk s) : MemOk (s.drainStrm c n fuel) := by
  induction fuel generalizing s with
  | zero => exact h
  | succ fuel ih =>
    unfold State.drainStrm
    split
    · exact h
    · exact ih (memOk_popStep h)
theorem memOk_drainStrms {c : Nat} (h : MemOk s) : MemOk (s.drainStrms c) := memOk_foldl h fun _ _ hu
    => memOk_drainStrm hu
theorem memOk_takeStrm {c n k : Nat} (h : MemOk s) : MemOk (s.takeStrm c n k) := memOk_strmRetires (memOk_updStrm h)
theorem memOk_streamNotYet {n : Nat} {i : Instr} (h : MemOk s) : MemOk (s.streamNotYet n i) := by
  unfold State.streamNotYet
  split
  · exact memOk_trap (memOk_updStrm h)
  · split
    · exact memOk_wait h
    · exact h
theorem memOk_streamRest {n k : Nat} {i : Instr} {go : List (Place × W32 × Place) → State → State} (h : MemOk s)
    (hgo : ∀ b0 u1, MemOk u1 → MemOk (go b0 u1)) : MemOk (s.streamRest n k i go) := by
  unfold State.streamRest
  dsimp only
  split
  · exact memOk_streamNotYet h
  · split
    · exact memOk_streamNotYet (memOk_streamStop h)
    · exact hgo _ _ (memOk_readBy h)
theorem outOk_execSpop {d a b : Reg} (h : MemOk s) : OutOk (execSpop d a b s) := by
  unfold execSpop
  exact outOk_next (memOk_ite (memOk_put h) (memOk_ite h (memOk_ite (memOk_streamRest h (fun _ u hu => memOk_put
    (memOk_updMe (memOk_updMyCore hu)))) (memOk_put (memOk_takeStrm (memOk_setRow h))))))
theorem memOk_pushElems {n k : Nat} {idx : List W32} {d b : Reg} {i : Instr}
    (h : MemOk s) : MemOk (s.pushElems n k idx d b i) := by
  unfold State.pushElems
  dsimp only
  split
  · exact memOk_trap h
  · exact memOk_holdOnPage h
  · split
    · exact memOk_wait h
    · exact memOk_put (memOk_takeStrm (memOk_pushStore (memOk_foldl (memOk_release h)
        (fun u _ hu => memOk_dirty hu)) _ _ _))
theorem outOk_execSpush {d a b : Reg} (h : MemOk s) : OutOk (execSpush d a b s) :=
  outOk_next (memOk_ite (memOk_put h) (memOk_ite (memOk_streamRest h (fun _ _ hu => memOk_pushElems hu))
    (memOk_pushElems h)))

/-! Kernels and cards (R226-R237). -/

theorem memOk_updQueue {x g : Nat} {f : Queue → Queue} (h : MemOk s) : MemOk (s.updQueue x g f) := memOk_updCtx h
theorem memOk_updKernel {x : Nat} {kid : W32} {f : Kernel → Kernel}
    (h : MemOk s) : MemOk (s.updKernel x kid f) := memOk_updCtx h
theorem memOk_enterQueue {x : Nat} {kid : W32} (h : MemOk s) : MemOk (s.enterQueue x kid) := by
  unfold State.enterQueue
  split
  · exact h
  · exact memOk_ite (memOk_updKernel h) (memOk_updQueue (memOk_updKernel h))
theorem memOk_addKernel {x : Nat} {c : Card} {tcb : Word} {pending : Bool} {final : Option (Nat × Nat)}
    (h : MemOk s) : MemOk (s.addKernel x c tcb pending final) :=
  memOk_ite (memOk_updCtx h) (memOk_enterQueue (memOk_updCtx h))
theorem memOk_launchTcb {c : Nat} {p : Place} {kid : W32} {card : Word}
    (h : MemOk s) : MemOk (s.launchTcb c p kid card) :=
  memOk_writeAt (memOk_writeAt (memOk_writeAt (memOk_readBy h) _ _ _) _ _ _) _ _ _
theorem memOk_tcbStop {x die : Nat} {kid : W32} {va : Word} {c : Checked}
    (h : MemOk s) : MemOk (s.tcbStop x die kid va c) := by
  unfold State.tcbStop
  dsimp only
  split
  · split
    · exact h
    · next e => exact memOk_updKernel (memOk_joinMiss h e)
  · exact memOk_failCtx h
theorem memOk_satisfy {x c : Nat} {p : Place} (h : MemOk s) : MemOk (s.satisfy x c p) := by
  unfold State.satisfy
  extract_lets bs pred s1
  have h1 : MemOk s1 := memOk_readBy h
  split
  · exact h1
  · split
    · split
      · exact memOk_ite (memOk_enterQueue (memOk_rmw (memOk_rmw h1))) (memOk_rmw (memOk_rmw h1))
      · exact memOk_rmw (memOk_rmw h1)
    · exact memOk_rmw h1
theorem memOk_finishKernel {x : Nat} {k : Kernel} (h : MemOk s) : MemOk (s.finishKernel x k) := by
  unfold State.finishKernel
  extract_lets s1
  have h1 : MemOk s1 := memOk_updCtx h
  split
  · exact h1
  · refine memOk_updCtx h1 fun y => ?_
    split <;> exact rfl
theorem memOk_tcbStep {x : Nat} {k : Kernel} {st : TcbStep} (h : MemOk s) : MemOk (s.tcbStep x k st) := by
  unfold State.tcbStep
  dsimp only
  split
  · exact memOk_finishKernel h
  · split
    · exact memOk_updKernel (memOk_rmw (memOk_dirtyAt h))
    · exact memOk_tcbStop h
  · split
    · exact memOk_updKernel (memOk_rmw (memOk_dirtyAt h))
    · exact memOk_tcbStop h
  · split
    · split
      · exact memOk_updKernel (memOk_readBy h)
      · split
        · exact memOk_updKernel (memOk_satisfy (memOk_dirtyAt (memOk_readBy h)))
        · exact memOk_tcbStop (memOk_readBy h)
    · exact memOk_tcbStop h
theorem memOk_runTodo {x : Nat} {kid : W32} {fuel : Nat} (h : MemOk s) : MemOk (s.runTodo x kid fuel) := by
  induction fuel generalizing s with
  | zero => exact h
  | succ fuel ih =>
    unfold State.runTodo
    split
    · exact h
    · split
      · exact h
      · exact memOk_ite h (ih (memOk_sentBy h (memOk_tcbStep h)))
theorem outOk_execKernelRetirement {ctx : Nat} {kid : W32} (h : MemOk s) : OutOk (execKernelRetirement ctx kid s) := by
  unfold execKernelRetirement
  refine outOk_next ?_
  dsimp only
  split
  · exact h
  · exact memOk_ite (memOk_runTodo (memOk_updKernel h)) h
theorem memOk_loadSpan {ea : Word} {n align : Nat} {go : State → List Byte → State} (h : MemOk s)
    (hgo : ∀ u b1, MemOk u → MemOk (go u b1)) : MemOk (s.loadSpan ea n align go) := by
  unfold State.loadSpan
  dsimp only
  split
  · exact memOk_trap h
  · exact memOk_holdOnPage h
  · refine hgo _ _ (memOk_foldl_snd h (fun b b' hu => ?_))
    split
    · exact memOk_loadChecked hu
    · exact hu
theorem memOk_loadCard {a : Word} {go : State → Option Card → State} (h : MemOk s)
    (hgo : ∀ u b1, MemOk u → MemOk (go u b1)) : MemOk (s.loadCard a go) := by
  unfold State.loadCard
  refine memOk_loadSpan h fun u b1 hu => ?_
  split
  · exact hgo _ _ hu
  · split
    · exact hgo _ _ hu
    · refine memOk_loadSpan hu fun u b1 hu' => ?_
      split
      · exact hgo _ _ hu'
      · exact memOk_loadSpan hu' fun u _ hu'' => hgo _ _ hu''
theorem outOk_execLaunch {d a b : Reg} (h : MemOk s) : OutOk (execLaunch d a b s) := by
  unfold execLaunch
  refine outOk_next ?_
  dsimp only
  split
  · exact memOk_trap h
  · split
    · exact memOk_trap h
    · refine memOk_loadCard h fun u b1 hu => ?_
      split
      · exact memOk_put hu
      · split
        · exact memOk_put hu
        · split
          · exact memOk_put (memOk_addKernel (memOk_release hu))
          · exact memOk_loadSpan hu fun u _ hu' => memOk_ite (memOk_put hu') (memOk_access hu' (fun _ => memOk_put
              (memOk_addKernel (memOk_launchTcb (memOk_dirty (memOk_release hu'))))))
theorem outOk_execTlink {d a b : Reg} (h : MemOk s) : OutOk (execTlink d a b s) := by
  unfold execTlink
  exact outOk_next (memOk_ite (memOk_trap h) (memOk_ite (memOk_trap h) (memOk_access h (fun _ => memOk_access h
    (fun _ => memOk_ite (memOk_put (memOk_readBy (memOk_release h))) (memOk_ite (memOk_put (memOk_readBy
    (memOk_release h))) (memOk_ite (memOk_put (memOk_readBy (memOk_release h))) (memOk_put (memOk_rmw (memOk_rmw
    (memOk_writeAt (memOk_dirty (memOk_dirty (memOk_readBy (memOk_release h)))) _ _ _)))))))))))

/-! Queues (R250-R252). -/

theorem memOk_whenResident {g : Nat} {touches : Bool} {i : Instr} {go : State → State} (h : MemOk s)
    (hgo : ∀ u, MemOk u → MemOk (go u)) : MemOk (s.whenResident g touches i go) :=
  memOk_ite (hgo _ (memOk_ite (memOk_updDie h) h)) (memOk_wait (memOk_ite (memOk_hpm (memOk_updDie h) _ _ _)
    (memOk_updDie h)))
theorem memOk_swapIn {die x g : Nat} (h : MemOk s) : MemOk (s.swapIn die x g) := memOk_setDie h
theorem outOk_execQpin {d a b : Reg} (h : MemOk s) : OutOk (execQpin d a b s) := by
  unfold execQpin
  exact outOk_next (memOk_supOnly h (memOk_ite (memOk_put h) (memOk_ite (memOk_put h) (memOk_ite (memOk_put h)
    (memOk_ite (memOk_put h) (memOk_ite (memOk_put (memOk_updQueue h)) (memOk_whenResident h (fun u hu => memOk_put
    (memOk_updQueue hu)))))))))
theorem memOk_updChunk {x gid : Nat} {f : Chunk → Chunk} (h : MemOk s) : MemOk (s.updChunk x gid f) := memOk_updCtx h
theorem memOk_enqueue {g : Nat} {q : Queue} {l : List (Place × Nat)} {rc : List Byte}
    (h : MemOk s) : MemOk (s.enqueue g q l rc) := by
  unfold State.enqueue
  refine memOk_writeSpan ?_
  split
  · exact memOk_updQueue (memOk_dirtySpan (memOk_release h))
  · exact memOk_updChunk (memOk_updQueue (memOk_dirtySpan (memOk_release h)))
theorem outOk_execEnq {d a b : Reg} (h : MemOk s) : OutOk (execEnq d a b s) := by
  unfold execEnq
  refine outOk_next ?_
  dsimp only
  split
  · exact memOk_trap h
  · split
    · exact memOk_trap h
    · split
      · exact memOk_trap h
      · refine memOk_whenResident h fun u hu => memOk_loadSpan hu fun u b1 hu' => ?_
        split
        · exact memOk_trap hu'
        · exact memOk_holdOnPage hu'
        · exact memOk_put (memOk_enqueue hu')
theorem outOk_execQres {d a b : Reg} (h : MemOk s) : OutOk (execQres d a b s) := by
  unfold execQres
  refine outOk_next ?_
  dsimp only
  split
  · exact memOk_put h
  · split
    · exact memOk_put h
    · exact memOk_ite (memOk_put h) (memOk_whenResident h (fun u hu => memOk_put (memOk_updChunk (memOk_updQueue hu))))

/-! Dealing work to cores (R225-R248). -/

theorem memOk_retireGroup {x : Nat} {g : Group} (h : MemOk s) : MemOk (s.retireGroup x g) :=
  memOk_foldl (memOk_updCtx (memOk_updKernel h)) fun u _ hu => memOk_core hu
theorem memOk_placeGroup {w : Work} {die : Nat} {cores : List Nat} (h : MemOk s) : MemOk (s.placeGroup w die cores) :=
  memOk_foldl (memOk_updCtx h) fun u _ hu => memOk_core hu
theorem memOk_dealTouch {x g : Nat} (h : MemOk s) : MemOk (s.dealTouch x g) := memOk_setDie h
theorem memOk_takeRecords {die : Nat} {w : Work} {n : Nat} (h : MemOk s) : MemOk (s.takeRecords die w n) := by
  unfold State.takeRecords
  dsimp only
  split
  · exact memOk_updQueue h
  · split
    · exact h
    · exact memOk_updKernel h
theorem memOk_pruneAging (h : MemOk s) : MemOk s.pruneAging := memOk_foldl h fun _ _ hu => memOk_updDie hu
theorem memOk_dealTo {die : Nat} {w : Work} {g : Group} (h : MemOk s) : MemOk (s.dealTo die w g) := by
  unfold State.dealTo
  extract_lets n s1 s2 chunk s3 base arg
  have h1 : MemOk s1 := memOk_pruneAging (memOk_takeRecords h)
  have h2 : MemOk s2 := memOk_foldl h1 fun u _ hu => memOk_updQueue (memOk_dealTouch hu)
  have h3 : MemOk s3 := memOk_updCtx h2
  exact memOk_foldl h3 fun u _ hu => memOk_core hu
theorem memOk_drainReserve {die : Nat} {w : Work} (h : MemOk s) : MemOk (s.drainReserve die w) := memOk_ite
    (memOk_updCtx h) h
theorem outOk_execDealDecision {die : Nat} (h : MemOk s) : OutOk (execDealDecision die s) := by
  unfold execDealDecision
  refine outOk_next ?_
  dsimp only
  split
  · exact memOk_foldl (memOk_foldl h (fun u _ hu => memOk_dealTouch hu)) fun u _ hu => memOk_drainReserve hu
  · split
    · exact memOk_foldl (memOk_foldl h (fun u _ hu => memOk_dealTouch hu)) fun u _ hu => memOk_drainReserve hu
    · split
      · split
        · exact memOk_updDie (memOk_foldl (memOk_foldl h (fun u _ hu => memOk_dealTouch hu))
            (fun u _ hu => memOk_drainReserve hu))
        · split
          · exact memOk_updDie (memOk_foldl (memOk_foldl h (fun u _ hu => memOk_dealTouch hu))
              (fun u _ hu => memOk_drainReserve hu))
          · exact memOk_foldl (memOk_updDie (memOk_foldl (memOk_foldl h (fun u _ hu => memOk_dealTouch hu))
              (fun u _ hu => memOk_drainReserve hu))) fun u _ hu => memOk_placeGroup hu
      · split
        · split
          · exact memOk_updDie (memOk_foldl (memOk_foldl h (fun u _ hu => memOk_dealTouch hu))
              (fun u _ hu => memOk_drainReserve hu))
          · split
            · exact memOk_updDie (memOk_foldl (memOk_foldl h (fun u _ hu => memOk_dealTouch hu))
                (fun u _ hu => memOk_drainReserve hu))
            · exact memOk_foldl (memOk_updDie (memOk_foldl (memOk_foldl h (fun u _ hu => memOk_dealTouch hu))
                (fun u _ hu => memOk_drainReserve hu))) fun u _ hu => memOk_placeGroup hu
        · refine memOk_dealTo (memOk_fresh ?_)
          split
          · exact memOk_updDie (memOk_foldl (memOk_foldl h (fun u _ hu => memOk_dealTouch hu))
              (fun u _ hu => memOk_drainReserve hu))
          · split
            · exact memOk_updDie (memOk_foldl (memOk_foldl h (fun u _ hu => memOk_dealTouch hu))
                (fun u _ hu => memOk_drainReserve hu))
            · exact memOk_foldl (memOk_updDie (memOk_foldl (memOk_foldl h (fun u _ hu => memOk_dealTouch hu))
                (fun u _ hu => memOk_drainReserve hu))) fun u _ hu => memOk_placeGroup hu

end Sys2Proof.Machine
end

section
/-! SUPPORT. Memories stay in canonical form (R128): links, ray lists and merge units. -/

namespace Sys2Proof.Machine

open Sys2Proof Sys2Proof.Safety

-- One proof after another: hundreds of short ones at a time take more threads than check.sh's limit has stacks for.
set_option Elab.async false

variable {s t : State}

/-! Links and remote requests (R325-R331). -/

theorem memOk_updPort {n : Nat} {f : Port → Port} (h : MemOk s) : MemOk (s.updPort n f) := h
theorem memOk_sendFlit {p : Nat} {f : Flit} {tag : Nat} (h : MemOk s) : MemOk (s.sendFlit p f tag) := h
theorem memOk_forward {io : Nat} {f : Flit} (h : MemOk s) : MemOk (s.forward io f) := by
  unfold State.forward
  dsimp only
  split
  · exact memOk_sendFlit h
  · exact h
theorem memOk_sendHeld {dst fuel : Nat} (h : MemOk s) : MemOk (s.sendHeld dst fuel) := by
  induction fuel generalizing s with
  | zero => exact h
  | succ fuel ih =>
    unfold State.sendHeld
    split
    · exact h
    · split
      · exact h
      · exact ih (memOk_updPort (memOk_updIo h))
theorem memOk_sendAllHeld (h : MemOk s) : MemOk s.sendAllHeld := memOk_foldl h fun _ _ hu => memOk_sendHeld hu
theorem memOk_enterRetrain {n : Nat} (h : MemOk s) : MemOk (s.enterRetrain n) := memOk_ioEvent h
theorem memOk_nak {n : Nat} {seq : BitVec 12} (h : MemOk s) : MemOk (s.nak n seq) := by
  unfold State.nak
  dsimp only
  split
  · exact h
  · split
    · exact h
    · exact memOk_ite (memOk_enterRetrain (memOk_updPort h)) (memOk_updPort h)
theorem memOk_setTensor {x die id : Nat} {t : Tensor} (h : MemOk s) : MemOk (s.setTensor x die id t) := memOk_updCtx h
theorem memOk_bindAt {x die id : Nat} {card : Option Card} (h : MemOk s) : MemOk (s.bindAt x die id card).2 := by
  unfold State.bindAt
  split
  · exact h
  · split
    · exact h
    · split
      · exact h
      · exact memOk_setTensor h
theorem memOk_takeArrived {dev : Nat} {ns : List Nat} {bs : List Byte}
    (h : MemOk s) : MemOk (s.takeArrived dev ns bs) := by
  unfold State.takeArrived
  dsimp only
  split
  · exact h
  · exact h
  · exact h
  · exact h
  · split
    · exact h
    · exact memOk_sendOut (memOk_bindAt h)
  · exact memOk_sendOut h
  · exact h
theorem memOk_passOn {port : Nat} {f : Flit} (h : MemOk s) : MemOk (s.passOn port f) := by
  unfold State.passOn
  dsimp only
  split
  · exact memOk_updPort h
  · exact memOk_takeArrived (memOk_updPort h)
theorem outOk_execHarnessFlitReceive {port : Nat} {flit : Flit}
    (h : MemOk s) : OutOk (execHarnessFlitReceive port flit s) := by
  unfold execHarnessFlitReceive
  exact outOk_next (memOk_ite h (memOk_ite (memOk_updPort h) (memOk_ite h (memOk_ite (memOk_nak (memOk_sendAllHeld
    (memOk_updPort h))) (memOk_ite (memOk_sendAllHeld (memOk_updPort h)) (memOk_ite (memOk_passOn (memOk_updPort
    (memOk_sendAllHeld (memOk_updPort h)))) (memOk_ite (memOk_ioEvent (memOk_updPort (memOk_sendAllHeld
    (memOk_updPort h)))) (memOk_forward (memOk_updPort (memOk_sendAllHeld (memOk_updPort h)))))))))))
theorem memOk_handOn {n : Nat} (h : MemOk s) : MemOk (s.handOn n) := memOk_updIo (memOk_updPort h)
theorem outOk_execLinkTrainingResult {port lanes : Nat} (h : MemOk s) : OutOk (execLinkTrainingResult port lanes s) :=
    by
  unfold execLinkTrainingResult
  exact outOk_next (memOk_ite h (memOk_ite (memOk_sendAllHeld (memOk_ite (memOk_ioEvent (memOk_updPort h))
    (memOk_updPort h))) (memOk_ite (memOk_updPort h) (memOk_ioEvent (memOk_handOn (memOk_updPort h))))))
theorem memOk_trainingFlits {port : Nat} (h : MemOk s) : MemOk (s.trainingFlits port) := memOk_updPort h
theorem memOk_dropMsg {i : Nat} (h : MemOk s) : MemOk (s.dropMsg i) := h
theorem memOk_flitsOut {die dev tag : Nat} (h : MemOk s) (e : s.flitsOut die dev tag = some t) : MemOk t := by
  unfold State.flitsOut at e
  split at e
  · cases e
  · dsimp only at e
    split at e <;> cases e
    exact memOk_foldl (memOk_fresh h) fun _ _ hu => memOk_sendFlit hu
theorem memOk_leaveDevice {i : Nat} {m : Msg} (h : MemOk s) : MemOk (s.leaveDevice i m) := by
  unfold State.leaveDevice
  dsimp only
  split
  · exact h
  · next e => exact (memOk_flitsOut h e :)
theorem memOk_awayLands {i : Nat} (h : MemOk s) : MemOk (s.awayLands i) := by
  unfold State.awayLands
  split
  · exact memOk_ite h h
  · split
    · exact memOk_ite h h
    · exact h
theorem memOk_remoteLeaves {i : Nat} (h : MemOk s) : MemOk (s.remoteLeaves i) := by
  unfold State.remoteLeaves
  split
  · exact h
  · split
    · exact h
    · split
      · exact h
      · next e => exact (memOk_flitsOut h e :)
theorem outOk_execMessageLanding {i : Nat} (h : MemOk s) : OutOk (execMessageLanding i s) := by
  unfold execMessageLanding
  refine outOk_next ?_
  split
  · exact h
  · split
    · exact h
    · split
      · exact memOk_leaveDevice h
      · split
        · exact memOk_landSend (memOk_dropMsg h)
        · exact memOk_ite (memOk_latchAll (memOk_hpm (memOk_core (memOk_dropMsg h)) _ _ _)) h
theorem memOk_useConn {c port endpoint : Nat} {rod : Bool} (h : MemOk s) : MemOk (s.useConn c port endpoint rod) :=
    memOk_updIo h
theorem outOk_execUetPacket {port : Nat} {packet : UetPacket} (h : MemOk s) : OutOk (execUetPacket port packet s) := by
  unfold execUetPacket
  dsimp only
  split
  · exact outOk_next (memOk_ite h (memOk_useConn h))
  · exact outOk_next (memOk_ite h (memOk_useConn h))
  · exact outOk_next (memOk_updIo h)
  · exact outOk_next (memOk_updIo h)

/-! Ray lists (R267-R284). -/

theorem memOk_updRay {c n : Nat} {f : RaySlot → RaySlot} (h : MemOk s) : MemOk (s.updRay c n f) := memOk_core h
theorem memOk_spillDrain {c n fuel : Nat} (h : MemOk s) : MemOk (s.spillDrain c n fuel) := by
  induction fuel generalizing s with
  | zero => exact h
  | succ fuel ih =>
    unfold State.spillDrain
    dsimp only
    split
    · exact h
    · split
      · exact h
      · split
        · split
          · exact ih (memOk_updRay (memOk_sentBy h (memOk_writeAt (memOk_dirtyAt h) _ _ _)))
          · exact ih (memOk_updRay h)
          · split
            · exact h
            · next e4 => exact memOk_updRay (memOk_joinMiss h e4)
        · exact ih (memOk_updRay (memOk_writeAt h _ _ _))
theorem memOk_insertAnswer {c n : Nat} {x : Answer} {op : Option (Nat × Nat)}
    (h : MemOk s) : MemOk (s.insertAnswer c n x op).1 := by
  unfold State.insertAnswer
  dsimp only
  split
  · exact h
  · split
    · exact memOk_hpm (memOk_updRay h) _ _ _
    · split
      · exact memOk_hpm (memOk_updRay h) _ _ _
      · split
        · exact memOk_updRay h
        · split
          · exact memOk_hpm (memOk_hpm (memOk_updRay h) _ _ _) _ _ _
          · split
            · exact memOk_hpm h _ _ _
            · split
              · exact memOk_spillDrain (memOk_hpm (memOk_hpm (memOk_core (memOk_updRay
                  (memOk_hpm h _ _ _))) _ _ _) _ _ _)
              · exact memOk_hpm (memOk_hpm (memOk_core (memOk_updRay (memOk_hpm h _ _ _))) _ _ _) _ _ _
theorem memOk_ilAccept {kind : IlKind} {d : Reg} {ray : Nat} {block : List W32} {row pair : Nat} {waits : Bool}
    (h : MemOk s) : MemOk (s.ilAccept kind d ray block row pair waits) :=
  memOk_updMyCore (memOk_release h)
theorem memOk_ilGo {kind : IlKind} {d : Reg} {ray : Nat} {block : List W32} {row : Option Nat} {pair : Nat}
    (h : MemOk s) : MemOk (s.ilGo kind d ray block row pair) :=
  memOk_advance (memOk_updMe (memOk_ilAccept h))
theorem memOk_ilBlock {b : Word} {go : State → List W32 → State} (h : MemOk s)
    (hgo : ∀ u b1, MemOk u → MemOk (go u b1)) : MemOk (s.ilBlock b go) :=
  memOk_ite (memOk_trap h) (memOk_localBlock h (fun _ _ hu => hgo _ _ hu))
theorem outOk_execIlins {d a b : Reg} (h : MemOk s) : OutOk (execIlins d a b s) := by
  unfold execIlins
  refine outOk_next ?_
  split
  · exact h
  · split
    · exact memOk_put h
    · exact memOk_ite h (memOk_ilBlock h (fun u _ hu => memOk_ite (memOk_wait (memOk_ilAccept hu)) (memOk_ilGo hu)))
theorem outOk_execIlsend {d a b : Reg} (h : MemOk s) : OutOk (execIlsend d a b s) := by
  unfold execIlsend
  exact outOk_next (memOk_ite (memOk_put h) (memOk_ilBlock h (fun u _ hu => memOk_ite (memOk_trap hu) (memOk_ite
    (memOk_wait hu) (memOk_put (memOk_postMsg (memOk_release hu)))))))
theorem outOk_execIlclose {d a : Reg} (h : MemOk s) : OutOk (execIlclose d a s) := by
  unfold execIlclose
  refine outOk_next ?_
  split
  · exact h
  · exact memOk_ite (memOk_put h) (memOk_ite h (memOk_ite (memOk_wait (memOk_ilAccept h)) (memOk_ilGo h)))
theorem memOk_ilWrite {c : Nat} {o : IlOp} {v : Word} (h : MemOk s) : MemOk (s.ilWrite c o v) :=
  memOk_ite h (memOk_ite (memOk_byEngine (memOk_updThread h _ _) (fun _ hu => memOk_advance hu))
    (memOk_updThread h _ _))
theorem memOk_ilWriteRow {c : Nat} {o : IlOp} {v : Option Row} (h : MemOk s) : MemOk (s.ilWriteRow c o v) :=
  memOk_ite h (memOk_updThread h _ _)
theorem memOk_openRay {c : Nat} {o : IlOp} (h : MemOk s) : MemOk (s.openRay c o).1 := by
  unfold State.openRay
  dsimp only
  split
  · exact h
  · split
    · exact h
    · split
      · exact h
      · split
        · exact h
        · exact memOk_ite (memOk_core (memOk_updRay h)) (memOk_updRay h)
theorem memOk_freeRay {c n : Nat} (h : MemOk s) : MemOk (s.freeRay c n) := by
  unfold State.freeRay
  extract_lets r s1
  have h1 : MemOk s1 := memOk_updRay h
  split
  · exact h1
  · exact memOk_core h1
theorem memOk_compRay {c : Nat} {o : IlOp} (h : MemOk s) : MemOk (s.compRay c o) := by
  unfold State.compRay
  dsimp only
  split
  · exact memOk_ilWrite (memOk_ilWriteRow h)
  · exact memOk_ilWrite (memOk_ilWriteRow (memOk_updRay h))
  · exact memOk_ilWrite (memOk_ilWriteRow h)
theorem memOk_readRay {c : Nat} {o : IlOp} (h : MemOk s) : MemOk (s.readRay c o) :=
  memOk_ite (memOk_ilWrite (memOk_ilWriteRow h)) (memOk_ilWrite (memOk_ilWriteRow h))
theorem memOk_ilPerform {c : Nat} {o : IlOp} (h : MemOk s) : MemOk (s.ilPerform c o) := by
  unfold State.ilPerform
  dsimp only
  split
  · exact memOk_ilWrite (memOk_openRay h)
  · split
    · exact memOk_ilWrite h
    · split
      · next e2 => exact memOk_ilWrite (memOk_fst (memOk_insertAnswer h) e2)
      · next u e2 =>
          split
          · exact memOk_byEngine (memOk_fst (memOk_insertAnswer h) e2) fun u hu => memOk_trapAt hu
          · exact memOk_fst (memOk_insertAnswer h) e2
  · exact memOk_ilWrite h
  · exact memOk_compRay h
  · exact memOk_readRay h
  · split
    · exact memOk_ilWrite h
    · split
      · exact memOk_ilWrite (memOk_freeRay h)
      · exact memOk_ite (memOk_byEngine (memOk_updRay h) (fun u hu => memOk_trapAt hu)) (memOk_updRay h)
  · exact memOk_ilWrite h
theorem memOk_spillAll {c : Nat} (h : MemOk s) : MemOk (s.spillAll c) := memOk_foldl h fun _ _ hu => memOk_spillDrain hu
theorem memOk_ilStep {c : Nat} (h : MemOk s) : MemOk (s.ilStep c) := by
  unfold State.ilStep
  split
  · exact h
  · exact memOk_ilPerform (memOk_core h)
theorem memOk_arrive {c ray : Nat} {a : Answer} (h : MemOk s) : MemOk (s.arrive c ray a) := by
  unfold State.arrive
  dsimp only
  split
  · exact h
  · exact memOk_ite (memOk_bumpCounter (memOk_updRay (memOk_updRay h))) (memOk_updRay (memOk_updRay h))
  · exact memOk_ite (memOk_bumpCounter (memOk_updRay (memOk_insertAnswer h))) (memOk_updRay (memOk_insertAnswer h))
theorem memOk_arrivalStep {c : Nat} (h : MemOk s) : MemOk (s.arrivalStep c) := by
  unfold State.arrivalStep
  split
  · exact h
  · exact memOk_arrive (memOk_core h)

/-! Merge units (R300-R312). -/

theorem memOk_updMg {cl n : Nat} {f : MergeCtx → MergeCtx} (h : MemOk s) : MemOk (s.updMg cl n f) := memOk_updCluster h
theorem memOk_mgFail {cl n : Nat} (h : MemOk s) : MemOk (s.mgFail cl n) := memOk_ite h (memOk_postEvent (memOk_updMg h))
theorem memOk_mgFree {cl n : Nat} (h : MemOk s) : MemOk (s.mgFree cl n) := memOk_updCluster (memOk_foldl h
    (fun u _ hu => memOk_core hu))
theorem memOk_mgStopped {cl n : Nat} {e : Word × Checked} {k : Access}
    (h : MemOk s) : MemOk (s.mgStopped cl n e k) := by
  unfold State.mgStopped
  dsimp only
  split
  · split
    · exact h
    · next e2 => exact memOk_updMg (memOk_joinMiss h e2)
  · exact memOk_mgFail h
  · exact memOk_mgFail h
theorem memOk_mgWrite {cl n : Nat} {va : Word} {bs : List Byte} (h : MemOk s) : MemOk (s.mgWrite cl n va bs).state := by
  unfold State.mgWrite
  dsimp only
  split
  · exact memOk_stopState (memOk_mgStopped h)
  · exact memOk_okState (memOk_sentBy h (memOk_writeSpan (memOk_dirtySpan h)))
theorem memOk_mgStep {cl n : Nat} {x : MgStep} (h : MemOk s) : MemOk (s.mgStep cl n x).state := by
  unfold State.mgStep
  dsimp only
  split
  · split
    · next e => exact memOk_okState (memOk_updMg (memOk_ok (memOk_mgWrite h) e))
    · next e => exact memOk_stopState (memOk_stop (memOk_mgWrite h) e)
  · split
    · exact memOk_stopState (memOk_mgFail h)
    · split
      · next e1 => exact memOk_okState (memOk_hpm (memOk_updMg (memOk_ok (memOk_mgWrite h) e1)) _ _ _)
      · next e1 => exact memOk_stopState (memOk_stop (memOk_mgWrite h) e1)
  · exact memOk_mgWrite h
  · split
    · exact memOk_stopState (memOk_mgStopped h)
    · split
      · exact memOk_stopState (memOk_mgFree h)
      · exact memOk_okState (memOk_updMg (memOk_sentBy h (memOk_readBy h)))
theorem memOk_mgGo {cl n : Nat} {l : List MgStep} (h : MemOk s) : MemOk (s.mgGo cl n l) := by
  induction l generalizing s with
  | nil => exact h
  | cons x l ih =>
    unfold State.mgGo
    split
    · next e => exact ih (memOk_updMg (memOk_ok (memOk_mgStep h) e))
    · next e => exact memOk_stop (memOk_mgStep h) e
theorem memOk_mgOwed {cl n : Nat} (h : MemOk s) : MemOk (s.mgOwed cl n) := memOk_ite h (memOk_mgGo h)
theorem memOk_mgBegin {cl n : Nat} {f : MergeCtx → MergeCtx} {x : List MgStep}
    (h : MemOk s) : MemOk (s.mgBegin cl n f x) :=
  memOk_mgOwed (memOk_updMg h)
theorem memOk_mgFlush {cl n : Nat} (h : MemOk s) : MemOk (s.mgFlush cl n).state := by
  unfold State.mgFlush
  dsimp only
  split
  · exact memOk_okState h
  · split
    · exact memOk_stopState (memOk_mgFail h)
    · split
      · exact memOk_stopState h
      · exact memOk_okState (memOk_updMg (memOk_pushSlots (memOk_writeAt h _ _ _)))
theorem memOk_mgOut {cl n : Nat} {c : W32} (h : MemOk s) : MemOk (s.mgOut cl n c).state := by
  unfold State.mgOut
  dsimp only
  split
  · exact memOk_okState (memOk_updMg h)
  · split
    · exact memOk_stopState h
    · split
      · exact memOk_okState (memOk_updMg h)
      · split
        · exact memOk_okState (memOk_updMg h)
        · exact memOk_okState (memOk_mgBegin h)
      · split
        · exact memOk_stopState (memOk_mgFail h)
        · split
          · exact memOk_mgFlush (memOk_updMg h)
          · exact memOk_okState (memOk_updMg h)
theorem memOk_mgSettle {cl n : Nat} (h : MemOk s) : MemOk (s.mgSettle cl n) := by
  unfold State.mgSettle
  dsimp only
  split
  · exact h
  · split
    · next e1 => exact memOk_mgBegin (memOk_ok (memOk_mgFlush h) e1)
    · next e1 => exact memOk_stop (memOk_mgFlush h) e1
theorem memOk_mgEmit {cl n : Nat} (h : MemOk s) : MemOk (s.mgEmit cl n) := by
  unfold State.mgEmit
  dsimp only
  split
  · exact h
  · split
    · exact memOk_mgSettle (memOk_mgOwed h)
    · split
      · exact h
      · split
        · exact memOk_mgBegin h
        · split
          · exact memOk_mgSettle h
          · split
            · exact memOk_mgSettle h
            · split
              · next e6 => exact memOk_mgSettle (memOk_ok (memOk_mgOut h) e6)
              · next e6 => exact memOk_stop (memOk_mgOut h) e6
theorem memOk_mgEnter {cl : Nat} {q : MergePush} (h : MemOk s) : MemOk (s.mgEnter cl q) :=
  memOk_ite (memOk_updMg (memOk_updCluster h)) (memOk_latchThread (memOk_updMg (memOk_updCluster h)))
theorem memOk_mgEnterRun {cl : Nat} {q : MergePush} (h : MemOk s) : MemOk (s.mgEnterRun cl q) :=
  memOk_ite (memOk_mgEnter h) (memOk_mgBegin (memOk_mgEnter h))
theorem memOk_mgTake {cl : Nat} {q : MergePush} {force : Bool} (h : MemOk s) : MemOk (s.mgTake cl q force).state := by
  unfold State.mgTake
  dsimp only
  split
  · exact memOk_okState (memOk_updCluster h)
  · split
    · exact memOk_stopState h
    · split
      · exact memOk_stopState h
      · split
        · split
          · exact memOk_okState (memOk_mgEnterRun h)
          · exact memOk_stopState h
        · split
          · split
            · exact memOk_okState (memOk_mgEnterRun (memOk_mgBegin h))
            · exact memOk_stopState (memOk_mgBegin h)
          · split
            · exact memOk_stopState h
            · split
              · exact memOk_okState (memOk_mgEnterRun (memOk_mgOut h))
              · exact memOk_stopState (memOk_mgOut h)
theorem memOk_acceptFrom {cl : Nat} {l : List Nat} (h : MemOk s) : MemOk (s.acceptFrom cl l) := by
  induction l generalizing s with
  | nil => exact h
  | cons x l ih =>
    unfold State.acceptFrom
    split
    · exact ih h
    · split
      · next e1 => exact memOk_mgSettle (memOk_ok (memOk_mgTake h) e1)
      · next e1 => exact ih (memOk_stop (memOk_mgTake h) e1)
theorem memOk_mgTakeAll {cl n fuel : Nat} (h : MemOk s) : MemOk (s.mgTakeAll cl n fuel) := by
  induction fuel generalizing s with
  | zero => exact h
  | succ fuel ih =>
    unfold State.mgTakeAll
    split
    · exact h
    · split
      · next e1 => exact ih (memOk_ok (memOk_mgTake h) e1)
      · next e1 => exact memOk_stop (memOk_mgTake h) e1
theorem memOk_mgDrain {cl n : Nat} (h : MemOk s) : MemOk (s.mgDrain cl n) := by
  unfold State.mgDrain
  extract_lets s1
  have h1 : MemOk s1 := memOk_mgOwed h
  dsimp only
  split
  · exact h1
  · split
    · exact memOk_mgTakeAll h1
    · split
      · next e2 => exact memOk_mgBegin (memOk_ok (memOk_mgFlush (memOk_mgTakeAll h1)) e2)
      · next e2 => exact memOk_stop (memOk_mgFlush (memOk_mgTakeAll h1)) e2
theorem memOk_mgReap {cl n : Nat} (h : MemOk s) : MemOk (s.mgReap cl n) :=
  memOk_ite h (memOk_ite (memOk_postEvent (memOk_mgFree (memOk_mgDrain h))) (memOk_mgDrain h))
theorem memOk_mgOpen {n : Nat} {m : MergeCtx} {id : Nat} (h : MemOk s) : MemOk (s.mgOpen n m id) := by
  unfold State.mgOpen
  refine memOk_updMg (memOk_updMyCore (memOk_release h) (fun k => ?_))
  split <;> exact rfl
theorem outOk_execMgopen {d a b : Reg} (h : MemOk s) : OutOk (execMgopen d a b s) := by
  unfold execMgopen
  refine outOk_next ?_
  dsimp only
  split
  · exact memOk_put h
  · split
    · exact memOk_trap h
    · refine memOk_localBlock h fun u b1 hu => ?_
      split
      · exact memOk_put hu
      · split
        · exact memOk_put hu
        · split
          · split
            · exact memOk_put hu
            · split
              · exact memOk_put hu
              · split
                · exact memOk_put (memOk_mgOpen hu)
                · split
                  · exact memOk_holdOnPage (memOk_release hu)
                  · exact memOk_holdOnPage (memOk_release hu)
                  · exact memOk_trap (memOk_release hu)
                  · split
                    · exact memOk_put (memOk_readBy (memOk_release hu))
                    · exact memOk_mgSettle (memOk_mgBegin (memOk_put (memOk_mgOpen (memOk_readBy (memOk_release hu)))))
          · split
            · exact memOk_put hu
            · split
              · exact memOk_put hu
              · split
                · exact memOk_put (memOk_mgOpen hu)
                · split
                  · exact memOk_holdOnPage (memOk_release hu)
                  · exact memOk_holdOnPage (memOk_release hu)
                  · exact memOk_trap (memOk_release hu)
                  · split
                    · exact memOk_put (memOk_readBy (memOk_release hu))
                    · exact memOk_mgSettle (memOk_mgBegin (memOk_put (memOk_mgOpen (memOk_readBy (memOk_release hu)))))
theorem outOk_execMgpush {d a b : Reg} (h : MemOk s) : OutOk (execMgpush d a b s) := by
  unfold execMgpush
  refine outOk_next ?_
  dsimp only
  split
  · exact memOk_put h
  · split
    · exact memOk_put h
    · split
      · exact h
      · split
        · exact memOk_put h
        · split
          · exact memOk_trap h
          · exact memOk_ite h (memOk_put (memOk_hpm (memOk_updCluster (memOk_updMg (memOk_updMyCore
              (memOk_release h)))) _ _ _))
theorem outOk_execMgend {d a : Reg} (h : MemOk s) : OutOk (execMgend d a s) := by
  unfold execMgend
  exact outOk_next (memOk_ite (memOk_put h) (memOk_ite h (memOk_ite (memOk_put h) (memOk_mgSettle (memOk_put
    (memOk_updMg (memOk_release h)))))))
theorem outOk_execMgstat {d a b : Reg} (h : MemOk s) : OutOk (execMgstat d a b s) := by
  unfold execMgstat
  exact outOk_next (memOk_ite (memOk_put h) (memOk_ite h (memOk_ite (memOk_put h) (memOk_ite (memOk_put h) (memOk_ite
    (memOk_put h) (memOk_ite (memOk_put h) (memOk_ite (memOk_ite (memOk_put (memOk_updMg (memOk_fresh h)))
    (memOk_put h)) (memOk_put h))))))))
theorem outOk_execMgdrain {d a : Reg} (h : MemOk s) : OutOk (execMgdrain d a s) := by
  unfold execMgdrain
  exact outOk_next (memOk_ite (memOk_put h) (memOk_ite (memOk_put (memOk_mgFree (memOk_mgDrain (memOk_release h))))
    (memOk_ite (memOk_put (memOk_mgFree (memOk_mgDrain (memOk_release h)))) (memOk_wait (memOk_mgDrain
    (memOk_release h))))))

end Sys2Proof.Machine
end

section
/-! SUPPORT. Memories stay in canonical form (R128): pages, halters, helpers and accesses. -/

namespace Sys2Proof.Machine

open Sys2Proof Sys2Proof.Safety

-- One proof after another: hundreds of short ones at a time take more threads than check.sh's limit has stacks for.
set_option Elab.async false

variable {s t : State}

/-! Page walks, faults and spans of host memory (R182-R191). -/

theorem memOk_walk {c ctx : Nat} {va : Word} {k : Access} {user : Bool}
    (h : MemOk s) : MemOk (s.walk c ctx va k user).2 := by
  unfold State.walk
  dsimp only
  split
  · exact memOk_readBy h
  · split
    · refine memOk_orByte ?_ _ _
      split
      · exact memOk_fresh (memOk_readBy h)
      · exact memOk_readBy h
      · exact memOk_readBy h
      · exact memOk_readBy h
    · refine memOk_orByte ?_ _ _
      split
      · exact memOk_fresh (memOk_readBy h)
      · exact memOk_readBy h
      · exact memOk_readBy h
      · exact memOk_readBy h
theorem memOk_fillTlbs {die : Nat} {reqs : List Requester} {e : TlbEnt} (h : MemOk s) : MemOk (s.fillTlbs die reqs e) :=
  memOk_foldl (memOk_updDie h) fun _ _ hu => memOk_updCluster hu
theorem memOk_readyPage {die entry : Nat} (h : MemOk s) : MemOk (s.readyPage die entry) := memOk_mapCores h
theorem memOk_retryReq {r : Requester} (h : MemOk s) : MemOk (s.retryReq r) := by
  unfold State.retryReq
  dsimp only
  split
  · exact h
  · split
    · exact h
    · exact memOk_ite (memOk_setHeadCopy h) h
  · exact memOk_updRing h
  · exact memOk_updStrm h
  · exact memOk_spillDrain (memOk_updRay h)
  · exact memOk_mgEmit (memOk_updMg h)
  · exact memOk_runTodo (memOk_updKernel h)
  · exact h
theorem memOk_failReq {die entry : Nat} {r : Requester} (h : MemOk s) : MemOk (s.failReq die entry r) := by
  unfold State.failReq
  dsimp only
  split
  · split
    · exact memOk_ite (memOk_trapAt h) h
    · exact h
  · split
    · exact h
    · exact memOk_ite (memOk_endCopy h) h
  · split
    · exact memOk_ite (memOk_updRing h) h
    · exact h
  · exact memOk_ite (memOk_updStrm h) h
  · exact memOk_ite (memOk_spillDrain (memOk_updRay h)) h
  · exact memOk_ite (memOk_mgFail h) h
  · exact memOk_failCtx h
  · exact h
theorem memOk_setCoal {die entry : Nat} {e : Coal} (h : MemOk s) : MemOk (s.setCoal die entry e) := memOk_updDie h
theorem memOk_releaseCoal {die entry : Nat} {st : CoalState} (h : MemOk s) : MemOk (s.releaseCoal die entry st) :=
  memOk_foldl (memOk_readyPage (memOk_setCoal h)) fun _ _ hu => memOk_retryReq hu
theorem memOk_failCoal {die entry : Nat} (h : MemOk s) : MemOk (s.failCoal die entry) :=
  memOk_readyPage (memOk_foldl (memOk_setCoal h) (fun _ _ hu => memOk_failReq hu))
theorem outOk_execPageWalkComplete {die entry : Nat} (h : MemOk s) : OutOk (execPageWalkComplete die entry s) := by
  unfold execPageWalkComplete
  refine outOk_next ?_
  split
  · exact h
  · split
    · next e => exact memOk_releaseCoal (memOk_fillTlbs (memOk_snd (memOk_walk h) e))
    · next e => exact (memOk_snd (memOk_walk h) e :)
theorem memOk_faultArrives {m : FaultMsg} (h : MemOk s) : MemOk (s.faultArrives m) := by
  unfold State.faultArrives
  dsimp only
  split
  · split
    · exact memOk_latchAll (memOk_updCtx (memOk_readTime h))
    · exact memOk_updCtx (memOk_readTime h)
  · split
    · exact memOk_setCoal (memOk_updCtx h)
    · exact memOk_setCoal (memOk_updCtx h)
    · exact memOk_updCtx h
theorem outOk_execFaultMessageArrival {i : Nat} (h : MemOk s) : OutOk (execFaultMessageArrival i s) := by
  unfold execFaultMessageArrival
  refine outOk_next ?_
  split
  · exact h
  · exact memOk_faultArrives h
theorem memOk_freeRecord {x n : Nat} (h : MemOk s) : MemOk (s.freeRecord x n) := by
  unfold State.freeRecord
  dsimp only
  split
  · exact h
  · split
    · exact memOk_setCoal (memOk_updCtx h)
    · exact memOk_setCoal (memOk_updCtx h)
    · exact memOk_updCtx h
theorem outOk_execFbclr {a : Reg} (h : MemOk s) : OutOk (execFbclr a s) := by
  unfold execFbclr
  exact outOk_next (memOk_supOnly h (memOk_ite (memOk_advance (memOk_updCtx h)) (memOk_ite (memOk_advance
    (memOk_freeRecord h)) (memOk_advance h))))
theorem memOk_freply {x n : Nat} {b : Word} (h : MemOk s) : MemOk (s.freply x n b) := by
  unfold State.freply
  dsimp only
  split
  · exact h
  · split
    · exact memOk_freeRecord h
    · exact memOk_ite (memOk_ite (memOk_failCoal (memOk_updCtx (memOk_release h))) (memOk_freeRecord
        (memOk_release h))) h
theorem memOk_replayEntry {x die entry : Nat} (h : MemOk s) : MemOk (s.replayEntry x die entry) := by
  unfold State.replayEntry
  dsimp only
  split
  · exact h
  · split
    · exact memOk_releaseCoal h
    · exact memOk_releaseCoal h
    · exact memOk_releaseCoal h
    · exact h
theorem memOk_replayAll {x : Nat} (h : MemOk s) : MemOk (s.replayAll x) := memOk_foldl h fun _ _ hu
    => memOk_replayEntry hu
theorem memOk_invTlbs {x : Nat} {va : Word} {all : Bool} (h : MemOk s) : MemOk (s.invTlbs x va all) := h
theorem memOk_drainCtx {x : Nat} (h : MemOk s) : MemOk (s.drainCtx x) := memOk_foldl h fun _ _ hu => memOk_drainStrms
    (memOk_drainAll hu _)
theorem outOk_execTlbinv {a b : Reg} (h : MemOk s) : OutOk (execTlbinv a b s) := by
  unfold execTlbinv
  extract_lets v x s1 bounds
  have h1 : MemOk s1 := memOk_invTlbs (memOk_drainCtx (memOk_release h))
  exact outOk_next (memOk_supOnly h (memOk_ite (memOk_advance h) (memOk_ite (memOk_wait h1) (memOk_advance h1))))
theorem memOk_walkSpan {x : Nat} {k : Access} {l : List (Word × Nat)} {p : List (Place × Nat) × State} (h : MemOk s)
    (e : s.walkSpan x k l = some p) : MemOk p.2 := by
  induction l generalizing s p with
  | nil =>
    cases e
    exact h
  | cons y l ih =>
    unfold State.walkSpan at e
    split at e
    · cases e
    · next g u hu =>
      have hu : MemOk u := memOk_snd (memOk_walk h) hu
      dsimp only at e
      split at e
      · cases e
      · next hv =>
        cases e
        have hw : MemOk (match g.owesD with | some a => u.setDirty a | none => u) := by
          split
          · exact memOk_setDirty hu
          · exact hu
        exact memOk_snd (ih hw hv) rfl
theorem memOk_hostSpan {x n : Nat} {va : Word} {k : Access} {p : List (Place × Nat) × State} (h : MemOk s)
    (e : s.hostSpan x va n k = some p) : MemOk p.2 := by
  unfold State.hostSpan at e
  split at e
  · cases e
  · exact memOk_walkSpan h e
theorem memOk_hostRead {x n : Nat} {va : Word} {p : List Byte × State} (h : MemOk s)
    (e : s.hostRead x va n = .ok p) : MemOk p.2 := by
  unfold State.hostRead at e
  split at e
  · cases e
  · next hu =>
    split at e <;> cases e
    exact memOk_readBy (memOk_hostSpan h hu)
theorem memOk_hostOuts {x : Nat} {c : Card} {p : Option Card × State} (h : MemOk s)
    (e : s.hostOuts x c = .ok p) : MemOk p.2 := by
  unfold State.hostOuts at e
  split at e
  · cases e
  · next hu =>
    have hu := memOk_hostRead h hu
    split at e
    · cases e
      exact hu
    · split at e
      · cases e
      · next hv =>
        cases e
        exact memOk_hostRead hu hv

/-! Halters, tensors and cells (R313-R323). -/

theorem memOk_freeTensor {x die id : Nat} (h : MemOk s) : MemOk (s.freeTensor x die id) := memOk_updCtx h
theorem memOk_reportPoison {x dev die id : Nat} (h : MemOk s) : MemOk (s.reportPoison x dev die id) := memOk_ioEvent
    (memOk_postEvent h)
theorem memOk_finalOuts {x : Nat} {c : Card} (h : MemOk s) : MemOk (s.finalOuts x c).2 := by
  unfold State.finalOuts
  split
  · exact h
  · split
    · next e => exact memOk_hostOuts h e
    · exact memOk_countBad h
theorem memOk_finalise {x die id : Nat} {c : Card} (h : MemOk s) : MemOk (s.finalise x die id c) := by
  unfold State.finalise
  split
  · next e => exact memOk_snd (memOk_finalOuts h) e
  · next e =>
      split
      · exact memOk_addKernel (memOk_snd (memOk_finalOuts h) e)
      · exact memOk_updCtx (memOk_snd (memOk_finalOuts h) e)
      · exact memOk_snd (memOk_finalOuts h) e
theorem memOk_tensorArrival {x die id w : Nat} (h : MemOk s) : MemOk (s.tensorArrival x die id w) := by
  unfold State.tensorArrival
  dsimp only
  split
  · exact memOk_reportPoison h
  · split
    · exact memOk_setTensor h
    · split
      · exact memOk_reportPoison (memOk_setTensor h)
      · split
        · split
          · exact memOk_freeTensor (memOk_setTensor h)
          · exact memOk_finalise (memOk_setTensor h)
        · exact memOk_setTensor h
theorem memOk_postWeight {w : Weight} (h : MemOk s) : MemOk (s.postWeight w) := h
theorem memOk_cellArrival {die cell : Nat} {w : Weight} (h : MemOk s) : MemOk (s.cellArrival die cell w) := by
  unfold State.cellArrival
  dsimp only
  split
  · exact memOk_reportPoison h
  · exact memOk_ite (memOk_postWeight (memOk_updDie h)) (memOk_ite (memOk_reportPoison (memOk_updDie h))
      (memOk_updDie h))
theorem memOk_weightLeaves {i : Nat} {w : Weight} (h : MemOk s) : MemOk (s.weightLeaves i w) := by
  unfold State.weightLeaves
  dsimp only
  split
  · exact h
  · next e => exact (memOk_flitsOut h e :)
theorem outOk_execTensorWeightArrival {i : Nat} (h : MemOk s) : OutOk (execTensorWeightArrival i s) := by
  unfold execTensorWeightArrival
  refine outOk_next ?_
  split
  · exact h
  · split
    · exact h
    · exact memOk_ite (memOk_weightLeaves h) (memOk_tensorArrival h)
theorem outOk_execCellWeightArrival {i : Nat} (h : MemOk s) : OutOk (execCellWeightArrival i s) := by
  unfold execCellWeightArrival
  refine outOk_next ?_
  split
  · exact h
  · split
    · exact h
    · exact memOk_ite (memOk_weightLeaves h) (memOk_cellArrival h)
theorem memOk_halTrap {g : Word} (h : MemOk s) : MemOk (s.halTrap g) := memOk_trap h
theorem memOk_halAccept {u : State} (h : MemOk s) (h1 : MemOk u) : MemOk (s.halAccept u) := memOk_ite h h1
theorem memOk_halWait {st : Nat} {card : Option Card} {i : Instr}
    (h : MemOk s) : MemOk (s.halWait st card i) := memOk_wait h
theorem memOk_halNow {i : Instr} {u : State} (h : MemOk s) (h1 : MemOk u) : MemOk (s.halNow i u) :=
  memOk_ite (memOk_latchThread h1) (memOk_halWait h)
theorem memOk_copyHalter {d a : Reg} (h : MemOk s) : MemOk (s.copyHalter d a) := by
  unfold State.copyHalter
  dsimp only
  split
  · exact memOk_put (memOk_setReg h)
  · split
    · exact memOk_halTrap h
    · exact memOk_put (memOk_setReg (memOk_updDie h))
theorem outOk_execHdrop {a : Reg} (h : MemOk s) : OutOk (execHdrop a s) := by
  unfold execHdrop
  exact outOk_next (memOk_halAccept h (memOk_ite (memOk_advance h) (memOk_ite (memOk_halTrap h) (memOk_advance
    (memOk_setReg (memOk_ite (memOk_latchThread (memOk_postWeight (memOk_updMyCore (memOk_release h))))
    (memOk_updMyCore (memOk_updMyCore (memOk_release h)))))))))
theorem memOk_halPosts {c fuel : Nat} (h : MemOk s) : MemOk (s.halPosts c fuel) := by
  induction fuel generalizing s with
  | zero => exact h
  | succ fuel ih =>
    unfold State.halPosts
    dsimp only
    split
    · exact h
    · exact memOk_ite h (ih (memOk_ite (memOk_latchThread (memOk_postWeight (memOk_core h))) (memOk_postWeight
        (memOk_core h))))
theorem outOk_execHbind {d a b : Reg} (h : MemOk s) : OutOk (execHbind d a b s) := by
  unfold execHbind
  refine outOk_next (memOk_halAccept h ?_)
  dsimp only
  split
  · exact memOk_halTrap h
  · split
    · exact memOk_trap h
    · refine memOk_loadCard h fun u b1 hu => ?_
      split <;> exact memOk_halWait hu
theorem memOk_weighHalter {d a : Reg} (h : MemOk s) : MemOk (s.weighHalter d a) := memOk_put h
theorem memOk_mergeHalters {d a b : Reg} (h : MemOk s) : MemOk (s.mergeHalters d a b) := memOk_put (memOk_setReg
    (memOk_setReg h))
theorem memOk_newTensor {d : Reg} {addr : Word} (h : MemOk s) : MemOk (s.newTensor d addr) := by
  unfold State.newTensor
  dsimp only
  split
  · exact memOk_put h
  · exact memOk_put (memOk_updCtx (memOk_setTensor h))
theorem memOk_bindCard {d : Reg} {g : Word} {status : Nat} {card : Option Card}
    (h : MemOk s) : MemOk (s.bindCard d g status card) :=
  memOk_ite (memOk_put h) (memOk_ite (memOk_put (memOk_fresh h)) (memOk_put (memOk_bindAt h)))
theorem memOk_tensorAddr {d : Reg} {g : Word} (h : MemOk s) : MemOk (s.tensorAddr d g) :=
  memOk_ite (memOk_put h) (memOk_ite (memOk_put (memOk_fresh h)) (memOk_put h))
theorem memOk_homed {dev num st : Nat} {card : Option Card} {asked : Bool} {limit : W32} {u : State} (h : MemOk s)
    (h1 : MemOk u) : MemOk (s.homed dev num st card asked limit u) := by
  unfold State.homed
  split
  · exact memOk_latchThread h1
  · split
    · exact h
    · next e1 => exact memOk_updMe (memOk_flitsOut h e1)
theorem memOk_homeReply (h : MemOk s) : MemOk s.homeReply := by
  unfold State.homeReply
  split
  · split
    · exact h
    · split
      · exact memOk_latchThread (memOk_newTensor h)
      · exact memOk_latchThread (memOk_copyHalter h)
      · exact memOk_latchThread (memOk_weighHalter h)
      · exact memOk_latchThread (memOk_mergeHalters h)
      · exact memOk_homed h (memOk_bindCard h)
      · exact memOk_homed h (memOk_tensorAddr h)
      · exact h
  · exact h
theorem outOk_execHalterHomeReply {core slot : Nat} (h : MemOk s) : OutOk (execHalterHomeReply core slot s) :=
  outOk_next (memOk_halPosts (memOk_byEngine h (fun _ hu => memOk_homeReply hu)))
theorem memOk_drainHalter {c : Nat} (h : MemOk s) : MemOk (s.drainHalter c) :=
  memOk_foldl h fun _ _ hu => memOk_halPosts (memOk_byEngine hu (fun _ hu' => memOk_homeReply hu'))

/-! Helpers and hitches (R61-R63, R217-R219). -/

theorem outOk_execHelp {d a b : Reg} (h : MemOk s) : OutOk (execHelp d a b s) := by
  unfold execHelp
  refine outOk_next ?_
  dsimp only
  split
  · exact memOk_put h
  · split
    · exact memOk_trap h
    · split
      · exact memOk_trap h
      · split
        · exact memOk_trap h
        · refine memOk_localLoads h fun u b hu => ?_
          split
          · exact memOk_put hu
          · exact memOk_put (memOk_updMyCore (memOk_release hu))
theorem memOk_joined {c me n : Nat} (h : MemOk s) : MemOk (s.joined c me n) := by
  unfold State.joined
  extract_lets born s1
  have h1 : MemOk s1 := memOk_core h
  exact h1
theorem outOk_execHjoin {d a : Reg} (h : MemOk s) : OutOk (execHjoin d a s) := by
  unfold execHjoin
  refine outOk_next ?_
  dsimp only
  split
  · exact memOk_put h
  · split
    · split
      · exact memOk_put (memOk_updMyCore (memOk_joined h))
      · exact memOk_put h
    · split
      · exact h
      · exact memOk_wait (memOk_updMyCore h)
theorem memOk_fuse {d : Reg} {f : BitVec 16} (h : MemOk s) : MemOk (s.fuse d f) := memOk_updMe (memOk_put h)
theorem outOk_execHitch {d a : Reg} (h : MemOk s) : OutOk (execHitch d a s) := by
  unfold execHitch
  refine outOk_next ?_
  dsimp only
  split
  · exact memOk_put h
  · split
    · exact memOk_put h
    · split
      · exact memOk_put h
      · split
        · exact memOk_wait h
        · exact memOk_ite (memOk_put h) (memOk_foldl h (fun u _ hu => memOk_asThread hu (fun u hu' => memOk_fuse hu')))
theorem outOk_execUnhitch {d : Reg} (h : MemOk s) : OutOk (execUnhitch d s) := by
  unfold execUnhitch
  refine outOk_next ?_
  split
  · exact memOk_put h
  · exact memOk_foldl h fun u _ hu => memOk_asThread hu fun u hu' => memOk_updMe (memOk_put hu')

/-! Loads, stores and atomics (R137-R143). -/

theorem memOk_loadTo {ea : Word} {n : Nat} {fin : State → List Byte → State} (h : MemOk s)
    (hfin : ∀ u b1, MemOk u → MemOk (fin u b1)) : MemOk (s.loadTo ea n fin) :=
  memOk_access h fun _ => hfin _ _ (memOk_loadChecked h)
theorem memOk_storeTo {ea : Word} {bs : List Byte} {rel : Option Scope} {i : Instr}
    (h : MemOk s) : MemOk (s.storeTo ea bs rel i) :=
  memOk_access h fun _ => memOk_ite (memOk_wait h) (memOk_advance (memOk_pushStore (memOk_dirty h) _ _ _))
theorem memOk_acquire {sc : Scope} (h : MemOk s) : MemOk (s.acquire sc) := memOk_ite (memOk_release h) h
theorem memOk_drainOne {c slot : Nat} (h : MemOk s) : MemOk (s.drainOne c slot) := by
  unfold State.drainOne
  dsimp only
  split
  · exact h
  · exact memOk_ite h (memOk_ite (memOk_drainUpTo h _ _) (memOk_perform (memOk_core h) _ _))
theorem memOk_drainSlot {c slot fuel : Nat} (h : MemOk s) : MemOk (s.drainSlot c slot fuel) := by
  induction fuel generalizing s with
  | zero => exact h
  | succ fuel ih =>
    unfold State.drainSlot
    exact ih (memOk_drainOne h)
theorem memOk_atomicDrain {p : Place} {n : Nat} {sc : Scope} {o : AOrd}
    (h : MemOk s) : MemOk (s.atomicDrain p n sc o) :=
  memOk_ite (memOk_release h) (memOk_ite (memOk_drainCore h _) (memOk_drainSlot h))
theorem memOk_atomicWrite {p : Place} {bs : List Byte} {sc : Scope} {o : AOrd}
    (h : MemOk s) : MemOk (s.atomicWrite p bs sc o) :=
  memOk_ite (memOk_writeAt h _ _ _) (memOk_performPlain (memOk_updMyCore h) _ _ _ _)
theorem memOk_atomicAt {ea : Word} {p : Place} {fn : BitVec 4} {sz : WSize} {x y : Word} {sc : Scope} {o : AOrd}
    (h : MemOk s) : MemOk (s.atomicAt ea p fn sz x y sc o).2 := by
  unfold State.atomicAt
  dsimp only
  split
  · exact memOk_askOut (memOk_fresh (memOk_dirty (memOk_atomicDrain (memOk_ite (memOk_acquire h) h))))
  · exact memOk_atomicWrite (memOk_rmwRead (memOk_dirty (memOk_atomicDrain (memOk_ite (memOk_acquire h) h))))
theorem outOk_atomicOp {d a b : Reg} {fn : BitVec 4} {sz : WSize} {sc : Scope} {o : AOrd}
    (h : MemOk s) : OutOk (s.atomicOp d a b fn sz sc o) :=
  outOk_next (memOk_access h (fun _ => memOk_put (memOk_atomicAt h)))
theorem outOk_execFence {pred succ : BitVec 8} {sc : Scope} (h : MemOk s) : OutOk (execFence pred succ sc s) := by
  unfold execFence
  dsimp only
  split
  · exact outOk_next (memOk_advance h)
  · exact outOk_next (memOk_advance (memOk_updMe (memOk_updMyCore h)))
theorem outOk_execVldx {m : MaskCode} {d : RowCode} {sz : Elem} {a : Reg} {b : RowCode}
    (h : MemOk s) : OutOk (execVldx m d sz a b s) := by
  unfold execVldx
  refine outOk_next ?_
  dsimp only
  split
  · exact memOk_trap h
  · exact memOk_holdOnPage h
  · exact memOk_advance (memOk_rowWrite (memOk_foldl_snd h (fun _ _ hu => memOk_loadChecked hu)))
theorem outOk_execVstx {m : MaskCode} {d : RowCode} {sz : Elem} {a : Reg} {b : RowCode}
    (h : MemOk s) : OutOk (execVstx m d sz a b s) := by
  unfold execVstx
  refine outOk_next ?_
  dsimp only
  split
  · exact memOk_trap h
  · exact memOk_holdOnPage h
  · exact memOk_ite (memOk_wait h) (memOk_advance (memOk_pushStore (memOk_foldl h
      (fun u _ hu => memOk_dirty hu)) _ _ _))

/-! Issue. -/

theorem outOk_execWaittoExpiry {core slot : Nat} (h : MemOk s) : OutOk (execWaittoExpiry core slot s) := by
  unfold execWaittoExpiry
  refine outOk_next ?_
  split
  · exact memOk_ite (memOk_trapAt h) h
  · exact h
theorem outOk_execDeadlockDeclaration {ctx : Nat} (h : MemOk s) : OutOk (execDeadlockDeclaration ctx s) :=
  outOk_next (memOk_ite (memOk_ioEvent (memOk_postEvent (memOk_updCtx (memOk_fresh h)))) h)
theorem memOk_endEpisodes (h : MemOk s) : MemOk s.endEpisodes := memOk_foldl h fun u _ hu => memOk_ite
    (memOk_updCtx hu) hu

end Sys2Proof.Machine
end

section
/-! SUPPORT. Memories stay in canonical form (R128): contexts, calls and CSRs. -/

namespace Sys2Proof.Machine

open Sys2Proof Sys2Proof.Safety

-- One proof after another: hundreds of short ones at a time take more threads than check.sh's limit has stacks for.
set_option Elab.async false

variable {s t : State}

/-! Contexts: saving, parking and resuming (R254-R263). -/

theorem memOk_updConn {n : Nat} {f : Conn → Conn} (h : MemOk s) : MemOk (s.updConn n f) := h
theorem memOk_reply {g : CmdHdr} {opcode status : Nat} {payload : List Byte}
    (h : MemOk s) : MemOk (s.reply g opcode status payload) :=
  memOk_updConn h
theorem outOk_execChkpt {a : Reg} (h : MemOk s) : OutOk (execChkpt a s) := by
  unfold execChkpt
  exact outOk_next (memOk_ite (memOk_advance h) (memOk_ite (memOk_trap h) (memOk_loadSpan h
    (fun u _ hu => memOk_loadSpan hu (fun u _ hu' => memOk_ite (memOk_updMe (memOk_advance hu')) (memOk_trap hu'))))))
theorem memOk_afterOut {o : Out} (ho : OutOk o) (h : MemOk s) : MemOk (afterOut o s) := by
  unfold afterOut
  split
  · exact ho _ rfl
  · exact h
  · exact h
theorem memOk_drainMat {c fuel : Nat} (h : MemOk s) : MemOk (s.drainMat c fuel) := by
  induction fuel generalizing s with
  | zero => exact h
  | succ fuel ih =>
    unfold State.drainMat
    exact memOk_ite h (ih (memOk_afterOut (outOk_execMatOpRetire h) h))
theorem memOk_drainCopies {c fuel : Nat} (h : MemOk s) : MemOk (s.drainCopies c fuel) := by
  induction fuel generalizing s with
  | zero => exact h
  | succ fuel ih =>
    unfold State.drainCopies
    dsimp only
    split
    · exact h
    · split
      · exact h
      · exact memOk_ite (memOk_afterOut (outOk_execCopyUnitDone h) h) (ih (memOk_afterOut (outOk_execCopyUnitDone h) h))
theorem memOk_drainList {c fuel : Nat} (h : MemOk s) : MemOk (s.drainList c fuel) := by
  induction fuel generalizing s with
  | zero => exact h
  | succ fuel ih =>
    unfold State.drainList
    extract_lets s1 k
    have h1 : MemOk s1 := memOk_spillAll h
    exact memOk_ite (ih (memOk_ilStep h1)) (memOk_ite (ih (memOk_arrivalStep h1)) h1)
theorem memOk_drainEngines {c : Nat} (h : MemOk s) : MemOk (s.drainEngines c) :=
  memOk_drainList (memOk_drainCopies (memOk_drainMat (memOk_drainHalter (memOk_drainStrms (memOk_drainAll h _)))))
theorem memOk_hardPark {c : Nat} (h : MemOk s) : MemOk (s.hardPark c) := memOk_core (memOk_drainEngines h)
theorem Mem.wf_filter {m : Mem} (p : Host.Cell → Bool) (h : m.wf = true) : Mem.wf (m.filter p) = true := by
  induction m with
  | nil => rfl
  | cons x m ih =>
    obtain ⟨hv, ha, hw⟩ := (Mem.wf_cons x.1 x.2 m).mp h
    rw [List.filter_cons]
    split
    · exact (Mem.wf_cons ..).mpr ⟨hv, fun e he => ha e (List.mem_of_mem_filter he), ih hw⟩
    · exact ih hw

theorem mem_soften {k : Core} (h : k.mem.wf = true) : k.soften.mem.wf = true := Mem.wf_filter _ h
theorem mem_saved {k : Core} (h : k.mem.wf = true) : k.saved.mem.wf = true := by
  unfold Core.saved
  dsimp only
  split
  · exact mem_soften h
  · exact h
theorem memOk_dropCoreReqs {cs : List Nat} (h : MemOk s) : MemOk (s.dropCoreReqs cs) := h
theorem memOk_dropCtxReqs {x : Nat} (h : MemOk s) : MemOk (s.dropCtxReqs x) := h
theorem memOk_drainMerges {ms : List (Nat × Nat)} (h : MemOk s) : MemOk (s.drainMerges ms) := memOk_foldl h fun _ _ hu
    => memOk_mgDrain hu
theorem memOk_freeMerges {ms : List (Nat × Nat)} (h : MemOk s) : MemOk (s.freeMerges ms).1 := by
  unfold State.freeMerges
  exact memOk_foldl h fun u _ hu => memOk_mgFree hu
theorem memOk_reopenMerge {c : Nat} {km : Nat × MergeCtx} (h : MemOk s) : MemOk (s.reopenMerge c km) := by
  unfold State.reopenMerge
  dsimp only
  split
  · exact h
  · refine memOk_mgSettle (memOk_mgOwed (memOk_updMg (memOk_core h (fun k => ?_))))
    split <;> exact rfl
theorem memOk_landSome {p : Msg → Bool} {fuel : Nat} (h : MemOk s) : MemOk (s.landSome p fuel) := by
  induction fuel generalizing s with
  | zero => exact h
  | succ fuel ih =>
    unfold State.landSome
    dsimp only
    split
    · exact h
    · exact ih (memOk_drainList (memOk_afterOut (outOk_execMessageLanding h) h))
theorem memOk_landWeights {x fuel : Nat} (h : MemOk s) : MemOk (s.landWeights x fuel) := by
  induction fuel generalizing s with
  | zero => exact h
  | succ fuel ih =>
    unfold State.landWeights
    dsimp only
    split
    · exact h
    · exact ih (memOk_ite (memOk_afterOut (outOk_execTensorWeightArrival h) h) (memOk_afterOut
        (outOk_execCellWeightArrival h) h))
theorem memOk_markRanks {x : Nat} (h : MemOk s) : MemOk (s.markRanks x) := memOk_updCtx h
theorem memOk_freeCtx {x : Nat} (h : MemOk s) : MemOk (s.freeCtx x) := by
  have hi := memOk_invTlbs (x := x) (va := 0) (all := true) h
  exact (memOk_ctxSaved (x := x) (y := Ctx.reset) hi (fun _ hv => nomatch hv) :)
theorem memOk_parkReply {why : ParkWhy} (h : MemOk s) : MemOk (s.parkReply why) := by
  unfold State.parkReply
  split
  · exact memOk_reply h
  · exact memOk_reply h
  · exact memOk_reply h
  · exact h
theorem memOk_saveCtx {x : Nat} {why : ParkWhy} {cs : List Nat} {kept : List (Nat × MergeCtx)} (h : MemOk s) :
    MemOk (s.saveCtx x why cs kept) := by
  have hd := memOk_dropCtxReqs (x := x) h
  have hc : MemOk (cs.foldl (fun s c => s.updCore c Core.cleared) (s.dropCtxReqs x)) :=
    memOk_foldl hd fun u c hu => memOk_updCore hu c _ rfl
  refine memOk_parkReply (memOk_ite (memOk_freeCtx ?_) ?_) <;>
  · refine memOk_ctxSaved (hc :) fun v hv => ?_
    obtain ⟨c, -, rfl⟩ := List.mem_map.mp hv
    exact mem_saved (hd.2.2.1 c)
theorem memOk_finishPark {x : Nat} {why : ParkWhy} (h : MemOk s) : MemOk (s.finishPark x why) := by
  unfold State.finishPark
  extract_lets cs force others s1
  have h1 : MemOk s1 := memOk_drainMerges (memOk_foldl h (fun u _ hu => memOk_drainEngines hu))
  split
  · exact h1
  · split
    · exact memOk_landWeights (memOk_landSome (memOk_markRanks (memOk_drainMerges (memOk_foldl h1
        (fun u _ hu => memOk_hardPark hu)))))
    · exact memOk_saveCtx (memOk_freeMerges (memOk_landWeights (memOk_landSome (memOk_markRanks (memOk_drainMerges
        (memOk_foldl h1 (fun u _ hu => memOk_hardPark hu)))))))
theorem memOk_renameSrc {x : Nat} {f : Nat → Nat} (h : MemOk s) : MemOk (s.renameSrc x f) :=
  (memOk_mapCores (f := fun p => { p.2 with arrivals := p.2.arrivals.map fun a => { a with msg :=
    if a.msg.ctx = x ∧ a.msg.srcDev = s.devNum then { a.msg with src := ⟨f a.msg.src.core, a.msg.src.slot⟩ } else a.msg
      } }) h :)
theorem memOk_markGroupRanks {x : Nat} {cs : List Nat} (h : MemOk s) : MemOk (s.markGroupRanks x cs) := memOk_updCtx h
theorem memOk_renameOut {f : Nat → Nat} (h : MemOk s) : MemOk (s.renameOut f) := h
theorem memOk_finishMove {x : Nat} {why : ParkWhy} {g : Group} {target : Nat}
    (h : MemOk s) : MemOk (s.finishMove x why g target) := by
  unfold State.finishMove
  extract_lets cs f s1 ms s2
  have h2 : MemOk s2 := memOk_drainMerges (memOk_foldl h fun _ _ hu => memOk_drainEngines hu)
  split
  · exact h2
  · next r kept s3 old s4 s5 moved ranks s6 s7 s8 s9 s10 _ =>
    have h3 : MemOk s3 := memOk_dropCoreReqs (memOk_freeMerges h2)
    have hold : ∀ p ∈ old, p.2.mem.wf = true := fun p hp => by
      obtain ⟨c, -, rfl⟩ := List.mem_map.mp hp
      exact h3.2.2.1 c
    have h4 : MemOk s4 := memOk_foldl h3 fun _ c hu => memOk_updCore hu c _ rfl
    have h5 : MemOk s5 := foldl_keeps (P := MemOk) (fun _ p hp hu =>
      memOk_updCore hu _ _ (mem_saved (k := p.2.unheld) (hold p hp))) s4 h4
    have h6 : MemOk s6 := memOk_updCtx h5
    have h7 : MemOk s7 := memOk_renameOut (memOk_renameSrc h6)
    have h8 : MemOk s8 := memOk_foldl h7 fun _ _ hu => memOk_releaseRank hu
    have h9 : MemOk s9 := memOk_foldl h8 fun _ _ hu => memOk_foldl hu fun _ _ hw => memOk_reopenMerge hw
    exact memOk_parkReply (memOk_foldl h9 fun _ _ hu => memOk_spillAll hu)
theorem memOk_assertLine {c : Nat} {hard : Bool} (h : MemOk s) : MemOk (s.assertLine c hard) := memOk_latchAll
    (memOk_core h)
theorem memOk_hardAtOnce {x c : Nat} (h : MemOk s) : MemOk (s.hardAtOnce x c) := memOk_ite (memOk_hardPark h) h
theorem memOk_beginMove {x : Nat} {why : ParkWhy} {g : Group} {target : Nat}
    (h : MemOk s) : MemOk (s.beginMove x why g target) := by
  unfold State.beginMove
  extract_lets hard s1 s2
  have h1 : MemOk s1 := memOk_foldl h fun u _ hu => memOk_assertLine hu
  have h2 : MemOk s2 := memOk_foldl h1 fun u _ hu => memOk_hardAtOnce hu
  exact memOk_ite (memOk_finishMove h2) h2
theorem memOk_parkProgress {x : Nat} (h : MemOk s) : MemOk (s.parkProgress x) := by
  unfold State.parkProgress
  dsimp only
  split
  · exact h
  · split
    · split
      · exact h
      · split
        · exact memOk_parkReply (memOk_updCtx h)
        · exact memOk_ite (memOk_ite h (memOk_beginMove h)) (memOk_ite (memOk_finishMove h) h)
    · exact memOk_ite (memOk_finishPark h) (memOk_ite (memOk_finishPark h) h)
theorem memOk_beginPark {x : Nat} {why : ParkWhy} {hard : Bool} (h : MemOk s) : MemOk (s.beginPark x why hard) := by
  unfold State.beginPark
  extract_lets s1 s2 cs s3
  have h1 : MemOk s1 := memOk_updCtx h
  have h2 : MemOk s2 := h1
  have h3 : MemOk s3 := memOk_foldl h2 fun u _ hu => memOk_assertLine hu
  exact memOk_parkProgress (memOk_foldl h3 (fun u _ hu => memOk_hardAtOnce hu))
theorem outOk_execChkmaxExpiry {core slot : Nat} (h : MemOk s) : OutOk (execChkmaxExpiry core slot s) :=
  outOk_next (memOk_ite (memOk_parkProgress (memOk_hardPark h)) h)
theorem memOk_startSupervisor {x : Nat} (h : MemOk s) : MemOk (s.startSupervisor x) := by
  unfold State.startSupervisor
  dsimp only
  split
  · exact h
  · exact memOk_core h
theorem memOk_restoreAll {l : List Saved} {place : Saved → Nat} {f : Nat → Nat} (h : MemOk s)
    (hl : ∀ v ∈ l, v.data.mem.wf = true) :
    MemOk (l.foldl (fun s d => s.updCore (place d) (fun k => k.restored d.data f)) s) :=
  foldl_keeps (P := MemOk) (fun _ d hd hu => memOk_updCore hu _ _ (hl d hd)) s h

theorem memOk_restoreCtx {x p : Nat} (h : MemOk s) : MemOk (s.restoreCtx x p) := by
  have hs := h.2.2.2 x
  have hc := fun y hy => memOk_ctxSaved (x := x) (y := y) h hy
  have h0 := hc { s.ctx x with saved := [] } fun _ hv => nomatch hv
  unfold State.restoreCtx
  extract_lets old new f data u here ranks v
  have hv : MemOk v := memOk_ctxSaved (h : MemOk u) fun _ hv => nomatch hv
  split
  · exact memOk_startSupervisor (memOk_foldl hv fun _ _ hu => memOk_releaseRank hu)
  · next place v1 v2 v3 v4 v5 v6 _ =>
    have h1 : MemOk v1 := memOk_restoreAll hv hs
    have h3 : MemOk v3 := memOk_foldl (memOk_renameSrc h1) fun _ _ hu => memOk_releaseRank hu
    have h4 : MemOk v4 := memOk_foldl h3 fun _ d hu => memOk_foldl hu fun _ _ hw => memOk_reopenMerge hw
    have h5 : MemOk v5 := memOk_foldl h4 fun _ _ hu => memOk_spillAll hu
    have h6 : MemOk v6 := memOk_foldl h5 fun _ _ hu => memOk_runTodo hu
    split
    · exact memOk_flushEvents h6
    · exact h6

/-! Calls, spills and fills (R67-R69). -/

theorem memOk_jumpTo {target : Word} (h : MemOk s) : MemOk (s.jumpTo target) := memOk_updMe (memOk_retire h)
theorem outOk_branch {c : Bool} {off : BitVec 15} (h : MemOk s) : OutOk (s.branch c off) := outOk_next (memOk_jumpTo h)
theorem memOk_spillOldest {i : Instr} {go : State → State} (h : MemOk s)
    (hgo : ∀ u, MemOk u → MemOk (go u)) : MemOk (s.spillOldest i go) := by
  unfold State.spillOldest
  dsimp only
  split
  · exact memOk_trap h
  · split
    · exact memOk_trap h
    · split
      · exact memOk_holdOnPage h
      · split
        · exact memOk_wait h
        · exact hgo _ (memOk_hpm (memOk_hpm (memOk_updMe (memOk_pushStore (memOk_foldl h
            (fun u _ hu => memOk_dirty hu)) _ _ _)) _ _ _) _ _ _)
theorem memOk_callTo {target : Word} {i : Instr} (h : MemOk s) : MemOk (s.callTo target i) :=
  memOk_ite (memOk_spillOldest h (fun _ hu => memOk_updMe (memOk_retire hu))) (memOk_updMe (memOk_retire h))
theorem memOk_fillLoads {nb : Word} {offs : List Nat} {places : List Place}
    (h : MemOk s) : MemOk (s.fillLoads nb offs places).2 := by
  unfold State.fillLoads
  exact memOk_foldl_snd h fun _ _ hu => memOk_loadChecked hu
theorem memOk_fillReturn {link : Word} (h : MemOk s) : MemOk (s.fillReturn link) := by
  unfold State.fillReturn
  dsimp only
  split
  · exact memOk_trap h
  · exact memOk_holdOnPage h
  · split
    · exact memOk_hpm (memOk_updMe (memOk_retire (memOk_fillLoads (memOk_fillLoads h)))) _ _ _
    · split
      · exact memOk_trap h
      · exact memOk_holdOnPage h
      · exact h
theorem memOk_exitWith {v : Word} (h : MemOk s) : MemOk (s.exitWith v) := memOk_endThread (memOk_retire h)
theorem outOk_execRet (h : MemOk s) : OutOk (execRet s) := by
  unfold execRet
  exact outOk_next (memOk_ite (memOk_exitWith h) (memOk_ite (memOk_trap h) (memOk_ite (memOk_fillReturn h)
    (memOk_updMe (memOk_retire h)))))

/-! CSR instructions (R79, R80). -/

theorem memOk_csrRead {n : Nat} (h : MemOk s) : MemOk (s.csrRead n).2 :=
  memOk_ite_snd (memOk_updCluster h) <| memOk_ite_snd h <| memOk_ite_snd h <| memOk_ite_snd h <|
    memOk_ite_snd (memOk_updMyCore (memOk_fresh h)) <| memOk_ite_snd
      (memOk_readTime h) <| memOk_ite_snd h <| memOk_ite_snd h <|
    memOk_ite_snd h <| memOk_ite_snd h <| memOk_ite_snd (memOk_updDie (memOk_fresh h)) <|
    memOk_ite_snd (memOk_updMyCore (memOk_fresh h)) <| memOk_ite_snd h h
theorem memOk_csrWrite {n : Nat} {v : Word} (h : MemOk s) : MemOk (s.csrWrite n v) := by
  unfold State.csrWrite
  dsimp only
  split
  · exact h
  · split
    · exact memOk_updMyCore (memOk_fresh h)
    · split
      · exact memOk_updMyCore h
      · split
        · exact memOk_updCluster (memOk_updMe h)
        · exact memOk_ite (memOk_ite (memOk_updMe h) h) (memOk_ite (memOk_ite (memOk_updMe h) h) (memOk_updMe h))
theorem outOk_csrOp {op : CsrOp} {d : Reg} {a : BitVec 5} {csr : CsrNum}
    (h : MemOk s) : OutOk (s.csrOp op d a csr) := by
  unfold State.csrOp
  dsimp only
  split
  · exact outOk_next (memOk_trap h)
  · split
    · exact outOk_next (memOk_trap h)
    · split
      · exact outOk_next (memOk_put (memOk_csrRead h))
      · split
        · exact outOk_next (memOk_trap h)
        · exact outOk_next (memOk_csrWrite (memOk_put (memOk_csrRead h)))
theorem outOk_csrForm {f : CsrForm} {csr : CsrNum} (h : MemOk s) : OutOk (s.csrForm f csr) := outOk_csrOp h

end Sys2Proof.Machine
end

section
/-! SUPPORT. Memories stay in canonical form (R128): tensor engines, the host driver and management. -/

namespace Sys2Proof.Machine

open Sys2Proof Sys2Proof.Safety

-- One proof after another: hundreds of short ones at a time take more threads than check.sh's limit has stacks for.
set_option Elab.async false

variable {s t : State}

/-! Encoders and decoders of tensors (R225-R228). -/

theorem memOk_updEncoder {n : Nat} {f : Encoder → Encoder} (h : MemOk s) : MemOk (s.updEncoder n f) := h
theorem memOk_encHold {eng x die : Nat} {va : Word} {k : Access} (h : MemOk s) : MemOk (s.encHold eng x die va k) := by
  unfold State.encHold
  split
  · exact h
  · next e => exact memOk_updEncoder (memOk_joinMiss h e)
theorem memOk_holdFrame {eng x g die : Nat} {va : Word} (h : MemOk s) : MemOk (s.holdFrame eng x g die va) :=
  memOk_encHold (memOk_updEncoder h)
theorem memOk_freeFrame {x g : Nat} (h : MemOk s) : MemOk (s.freeFrame x g) := memOk_updQueue h
theorem memOk_encOwed {eng : Nat} (h : MemOk s) : MemOk (s.encOwed eng) := by
  unfold State.encOwed
  dsimp only
  split
  · exact h
  · split
    · exact memOk_updEncoder h
    · split
      · exact h
      · split
        · exact memOk_encHold h
        · exact memOk_updEncoder h
        · exact memOk_updEncoder (memOk_sentBy h (memOk_writeAt (memOk_dirtyAt h) _ _ _))
theorem memOk_oweDone {eng x die : Nat} {done v : Word} (h : MemOk s) : MemOk (s.oweDone eng x die done v) :=
  memOk_ite h (memOk_encOwed (memOk_updEncoder h))
theorem memOk_refuseFrame {eng x g die : Nat} {done : Word} (h : MemOk s) : MemOk (s.refuseFrame eng x g die done) :=
  memOk_oweDone (memOk_ioEvent (memOk_updEncoder (memOk_freeFrame h)))
theorem memOk_encodeFrame {eng x g die : Nat} {f : Frame} (h : MemOk s) : MemOk (s.encodeFrame eng x g die f) := by
  unfold State.encodeFrame
  dsimp only
  split
  · exact memOk_refuseFrame h
  · split
    · exact memOk_holdFrame h
    · exact memOk_oweDone (memOk_freeFrame (memOk_updEncoder (memOk_fresh (memOk_sentBy h (memOk_readBy h)))))
theorem outOk_execEncodeFrame {eng : Nat} (h : MemOk s) : OutOk (execEncodeFrame eng s) := by
  unfold execEncodeFrame
  refine outOk_next ?_
  dsimp only
  split
  · exact h
  · split
    · exact memOk_encOwed h
    · split
      · exact h
      · split
        · exact memOk_ite (memOk_refuseFrame h) (memOk_holdFrame h)
        · exact h
        · exact memOk_encodeFrame (memOk_sentBy h (memOk_readBy h))

/-! Commands of the host driver (R15, R136). -/

theorem memOk_ctxAdmit {g : CmdHdr} {opcode : Nat} {admits : Ctx → Bool} {u : State} (h : MemOk s)
    (h1 : MemOk u) : MemOk (s.ctxAdmit g opcode admits u) :=
  memOk_ite (memOk_reply h) (memOk_ite h1 (memOk_reply h))
theorem memOk_devAdmit {g : CmdHdr} {opcode : Nat} {u : State} (h : MemOk s)
    (h1 : MemOk u) : MemOk (s.devAdmit g opcode u) :=
  memOk_ite h1 (memOk_reply h)
theorem memOk_doContextCreate {g : CmdHdr} {c : CtxSpec} (h : MemOk s) : MemOk (s.doContextCreate g c) := by
  refine memOk_ctxAdmit h ?_
  split
  · exact memOk_reply h
  · split
    · exact memOk_reply h
    · split
      · exact memOk_reply (memOk_fresh h)
      · have hc := fun y hy => memOk_ctxSaved (x := g.ctx) (y := y) (memOk_fresh h) hy
        refine memOk_reply ?_
        split
        · exact memOk_restoreCtx (hc _ fun _ hv => nomatch hv)
        · exact hc _ fun _ hv => nomatch hv
theorem memOk_doTeardown {g : CmdHdr} (h : MemOk s) : MemOk (s.doTeardown g) := by
  unfold State.doTeardown
  exact memOk_ctxAdmit h (memOk_ite (memOk_beginPark h) (memOk_ite (memOk_parkProgress (memOk_updCtx h)) (memOk_reply
    (memOk_freeCtx h))))
theorem memOk_doPaddockDefine {g : CmdHdr} {sets : List (List Nat)} (h : MemOk s) : MemOk (s.doPaddockDefine g sets) :=
  memOk_devAdmit h (memOk_ite (memOk_reply h) (memOk_ite (memOk_reply h) (memOk_ite (memOk_reply h) (memOk_reply h))))
theorem memOk_doPreempt {g : CmdHdr} (h : MemOk s) : MemOk (s.doPreempt g) := memOk_ctxAdmit h (memOk_beginPark h)
theorem memOk_doResume {g : CmdHdr} {paddock : Nat} (h : MemOk s) : MemOk (s.doResume g paddock) := by
  unfold State.doResume
  refine memOk_ctxAdmit h ?_
  split
  · exact memOk_reply h
  · exact memOk_ite (memOk_reply (memOk_restoreCtx h)) (memOk_reply h)
theorem memOk_doGroupMove {g : CmdHdr} {w0 w1 : Word} (h : MemOk s) : MemOk (s.doGroupMove g w0 w1) := by
  unfold State.doGroupMove
  refine memOk_ctxAdmit h ?_
  dsimp only
  split
  · exact memOk_reply h
  · split
    · exact memOk_reply h
    · exact memOk_ite (memOk_reply h) (memOk_parkProgress (memOk_markGroupRanks (memOk_updCtx h)))
theorem memOk_storeEntry {a : Nat} {v : Word} (h : MemOk s) : MemOk (s.storeEntry a v) := memOk_writeAt h _ _ _
theorem memOk_doMapMemory {g : CmdHdr} {entries : List (Word × Word)} (h : MemOk s) : MemOk (s.doMapMemory g entries) :=
  memOk_ctxAdmit h (memOk_ite (memOk_reply h) (memOk_reply (memOk_foldl h (fun _ _ hu => memOk_storeEntry hu))))
theorem memOk_doUnmapMemory {g : CmdHdr} {vas : List (Word × Word)} (h : MemOk s) : MemOk (s.doUnmapMemory g vas) := by
  unfold State.doUnmapMemory
  exact memOk_ctxAdmit h (memOk_ite (memOk_reply h) (memOk_reply (memOk_foldl h (fun u b hu => memOk_invTlbs
    (memOk_drainCtx (memOk_storeEntry hu))))))
theorem memOk_fails {g : CmdHdr} {opcode status : Nat} {a : Word} {read : List (Place × Nat)}
    (h : MemOk s) : MemOk (s.fails g opcode status a read) :=
  memOk_reply (memOk_ite (memOk_ioEvent (memOk_countBad h)) h)
theorem memOk_doCopyToDevice {g : CmdHdr} {va : Word} {bytes : List Byte}
    (h : MemOk s) : MemOk (s.doCopyToDevice g va bytes) := by
  unfold State.doCopyToDevice
  refine memOk_ctxAdmit h ?_
  split
  · exact memOk_reply h
  · next e => exact memOk_ite (memOk_reply h) (memOk_ite (memOk_reply h) (memOk_reply (memOk_writeSpan
      (memOk_hostSpan h e))))
theorem memOk_doCopyToHost {g : CmdHdr} {va : Word} {len : Nat} (h : MemOk s) : MemOk (s.doCopyToHost g va len) := by
  unfold State.doCopyToHost
  refine memOk_ctxAdmit h ?_
  split
  · exact memOk_reply h
  · next e => exact memOk_ite (memOk_reply h) (memOk_ite (memOk_fails h) (memOk_reply (memOk_readBy
      (memOk_hostSpan h e))))
theorem memOk_doWsWindowOpen {g : CmdHdr} (h : MemOk s) : MemOk (s.doWsWindowOpen g) := memOk_ctxAdmit h (memOk_reply
    (memOk_updCtx h))
theorem memOk_doWsWindowClose {g : CmdHdr} (h : MemOk s) : MemOk (s.doWsWindowClose g) := memOk_ctxAdmit h
    (memOk_reply (memOk_updCtx h))
theorem memOk_hostCard {x : Nat} {a : Word} {p : Option Card × State} (h : MemOk s)
    (e : s.hostCard x a = .ok p) : MemOk p.2 := by
  unfold State.hostCard at e
  split at e
  · cases e
  · next hu =>
    have hu := memOk_hostRead h hu
    split at e
    · cases e
      exact hu
    · split at e
      · cases e
        exact hu
      · exact memOk_hostOuts hu e
theorem memOk_doLaunch {g : CmdHdr} {card tcb : Word} (h : MemOk s) : MemOk (s.doLaunch g card tcb) := by
  unfold State.doLaunch
  refine memOk_ctxAdmit h ?_
  dsimp only
  split
  · exact memOk_reply h
  · split
    · exact memOk_fails h
    · next e1 => exact memOk_reply (memOk_hostCard h e1)
    · next e1 =>
        split
        · exact memOk_reply (memOk_hostCard h e1)
        · split
          · exact memOk_reply (memOk_addKernel (memOk_hostCard h e1))
          · split
            · exact memOk_fails (memOk_hostCard h e1)
            · next e4 =>
                split
                · exact memOk_reply (memOk_hostRead (memOk_hostCard h e1) e4)
                · split
                  · exact memOk_reply h
                  · next e6 =>
                      split
                      · exact memOk_reply h
                      · split
                        · exact memOk_reply h
                        · exact memOk_reply (memOk_addKernel (memOk_launchTcb (memOk_hostSpan (memOk_hostRead
                            (memOk_hostCard h e1) e4) e6)))
theorem memOk_doQueueCreate {g : CmdHdr} {q : QueueSpec} (h : MemOk s) : MemOk (s.doQueueCreate g q) := by
  unfold State.doQueueCreate
  refine memOk_ctxAdmit h ?_
  dsimp only
  split
  · exact memOk_reply h
  · split
    · exact memOk_reply h
    · split
      · exact memOk_reply h
      · exact memOk_ite (memOk_reply h) (memOk_reply (memOk_updQueue h))
      · exact memOk_ite (memOk_reply h) (memOk_reply (memOk_updQueue h))
      · split
        · exact memOk_reply h
        · split
          · exact memOk_fails h
          · exact memOk_reply h
          · next e4 =>
              split
              · exact memOk_reply h
              · split
                · exact memOk_reply h
                · exact memOk_ite (memOk_reply h) (memOk_reply (memOk_updQueue (memOk_updCtx (memOk_hostCard h e4))))
theorem memOk_doQueueDestroy {g : CmdHdr} {handle : Nat} (h : MemOk s) : MemOk (s.doQueueDestroy g handle) := by
  unfold State.doQueueDestroy
  extract_lets x s1 s2
  have h1 : MemOk s1 := memOk_updCtx h
  have h2 : MemOk s2 := h1
  exact memOk_ctxAdmit h (memOk_ite (memOk_reply h) (memOk_ite (memOk_reply h) (memOk_reply h2)))
theorem memOk_doQueuePin {g : CmdHdr} {handle : Nat} {pin : Bool}
    (h : MemOk s) : MemOk (s.doQueuePin g handle pin) := by
  unfold State.doQueuePin
  exact memOk_ctxAdmit h (memOk_ite (memOk_reply h) (memOk_ite (memOk_reply (memOk_updQueue h)) (memOk_ite
    (memOk_reply h) (memOk_reply (memOk_updQueue (memOk_ite h (memOk_swapIn h)))))))

/-! Management commands (R337-R341). -/

theorem memOk_setPort {n : Nat} {enable : Bool} (h : MemOk s) : MemOk (s.setPort n enable) :=
  memOk_ite (memOk_ite (memOk_trainingFlits (memOk_updPort h)) h) (memOk_handOn (memOk_updPort h))
theorem memOk_setKey {k : Nat × List Byte} (h : MemOk s) : MemOk (s.setKey k) := memOk_updIo h
theorem memOk_doLinkConfig {g : CmdHdr} {number : Option (BitVec 8)} {ports : List (Nat × Bool)} {keys : List
    (Nat × List Byte)} (h : MemOk s) : MemOk (s.doLinkConfig g number ports keys) := by
  unfold State.doLinkConfig
  refine memOk_devAdmit h ?_
  dsimp only
  split
  · exact memOk_reply h
  · split
    · exact memOk_reply h
    · refine memOk_reply (memOk_foldl (memOk_foldl ?_ (fun u _ hu => memOk_setPort hu)) (fun u _ hu => memOk_setKey hu))
      split <;> exact h
theorem memOk_doRouteSet {g : CmdHdr} {dst : BitVec 8} {port : Option Nat}
    (h : MemOk s) : MemOk (s.doRouteSet g dst port) := by
  unfold State.doRouteSet
  refine memOk_devAdmit h ?_
  dsimp only
  split
  · exact memOk_reply (memOk_foldl h (fun u _ hu => memOk_updIo hu))
  · exact memOk_ite (memOk_reply h) (memOk_reply (memOk_sendHeld (memOk_foldl h (fun u _ hu => memOk_updIo hu))))
theorem memOk_doEncoderSetup {g : CmdHdr} {eng : Nat} {binds : List (Nat × Option Nat)}
    (h : MemOk s) : MemOk (s.doEncoderSetup g eng binds) :=
  memOk_devAdmit h (memOk_ite (memOk_reply h) (memOk_ite (memOk_reply h) (memOk_reply (memOk_updEncoder h))))
theorem memOk_doEventRead {g : CmdHdr} {io max : Nat} (h : MemOk s) : MemOk (s.doEventRead g io max) :=
  memOk_ite (memOk_reply h) (memOk_reply (memOk_updIo h))
theorem memOk_doAttestationQuote {g : CmdHdr} {nonce : List Byte}
    (h : MemOk s) : MemOk (s.doAttestationQuote g nonce) :=
  memOk_ite (memOk_reply h) (memOk_reply h)
theorem memOk_doPatchLoad {g : CmdHdr} {image : List Byte} (h : MemOk s) : MemOk (s.doPatchLoad g image) := by
  unfold State.doPatchLoad
  refine memOk_devAdmit h ?_
  dsimp only
  split
  · exact memOk_reply h
  · split
    · exact memOk_reply h
    · split
      · exact memOk_reply h
      · exact memOk_ite (memOk_reply h) (memOk_ite (memOk_reply h) (memOk_ite (memOk_reply h) (memOk_reply h)))
theorem memOk_dark : MemOk s.dark := memOk_fields memOk_atReset rfl
theorem memOk_bringUp {bad : List Nat} (_ : MemOk s) : MemOk (s.bringUp bad) :=
  memOk_ite memOk_atReset (memOk_foldl memOk_atReset (fun _ _ hu => memOk_ioEvent (memOk_updCluster hu)))
theorem memOk_deviceReset {bad : List Nat} (h : MemOk s) : MemOk (s.deviceReset bad) := memOk_ite (memOk_bringUp h) h
theorem memOk_clockStep {step : Nat} (h : MemOk s) : MemOk (s.clockStep step) := memOk_ite h (memOk_ioEvent h)
theorem memOk_lowerClock (h : MemOk s) : MemOk s.lowerClock := memOk_clockStep h
theorem memOk_tripNow {cause : BitVec 3} (_ : MemOk s) : MemOk (s.tripNow cause) := memOk_dark
theorem memOk_sample {r : Sensors} (h : MemOk s) : MemOk (s.sample r) := memOk_ite (memOk_lowerClock h) (memOk_ite
    (memOk_clockStep h) h)
theorem memOk_answer {dev : BitVec 8} {a : Option (List Byte)} (h : MemOk s) : MemOk (s.answer dev a) := memOk_sendOut h
theorem outOk_execForwardedAccess {ctx : Nat} {va : Word} {user : Bool} {op : RemoteOp}
    (h : MemOk s) : OutOk (execForwardedAccess ctx va user op s) := by
  unfold execForwardedAccess
  refine outOk_next ?_
  dsimp only
  split
  · exact memOk_answer h
  · split
    · next e1 => exact memOk_answer (memOk_snd (memOk_walk h) e1)
    · next e1 =>
        split
        · exact memOk_ite (memOk_answer (memOk_snd (memOk_walk h) e1)) (memOk_answer (memOk_readBy (memOk_snd
            (memOk_walk h) e1)))
        · split
          · exact memOk_answer (memOk_snd (memOk_walk h) e1)
          · refine memOk_answer (memOk_writeAt ?_ _ _ _)
            split
            · exact memOk_setDirty (memOk_snd (memOk_walk h) e1)
            · exact memOk_snd (memOk_walk h) e1
        · split
          · exact memOk_answer (memOk_snd (memOk_walk h) e1)
          · split
            · exact memOk_answer (memOk_snd (memOk_walk h) e1)
            · refine memOk_answer (memOk_writeAt (memOk_countBad ?_) _ _ _)
              split
              · exact memOk_setDirty (memOk_snd (memOk_walk h) e1)
              · exact memOk_snd (memOk_walk h) e1
theorem memOk_icMissAt {t : ThreadId} (h : MemOk s) : MemOk (s.icMissAt t) :=
  memOk_ite (memOk_updCluster (memOk_foldl h (fun _ _ hu => memOk_updThread hu _ _))) h
theorem outOk_execInstructionCacheFill {cluster : Nat} (h : MemOk s) : OutOk (execInstructionCacheFill cluster s) :=
  outOk_next (memOk_foldl (memOk_updCluster h) (fun _ _ hu => memOk_updThread hu _ _))

/-! Firmware events. -/

theorem memOk_answerAgain {g : CmdHdr} {opcode : Nat} (h : MemOk s) : MemOk (s.answerAgain g opcode) := by
  unfold State.answerAgain
  dsimp only
  split
  · split <;> exact h
  · exact h
theorem memOk_carryOut {c : Command} (h : MemOk s) : MemOk (s.carryOut c) := by
  unfold State.carryOut
  dsimp only
  split
  · exact memOk_doContextCreate h
  · exact memOk_doTeardown h
  · exact memOk_doPaddockDefine h
  · exact memOk_doMapMemory h
  · exact memOk_doUnmapMemory h
  · exact memOk_doCopyToDevice h
  · exact memOk_doCopyToHost h
  · exact memOk_doLaunch h
  · exact memOk_doQueueCreate h
  · exact memOk_doQueueDestroy h
  · exact memOk_doQueuePin h
  · exact memOk_doPreempt h
  · exact memOk_doResume h
  · exact memOk_doGroupMove h
  · exact memOk_doEventRead h
  · exact memOk_doWsWindowOpen h
  · exact memOk_doWsWindowClose h
  · exact memOk_doLinkConfig h
  · exact memOk_doRouteSet h
  · exact memOk_doEncoderSetup h
  · exact memOk_doAttestationQuote h
  · exact memOk_doPatchLoad h
  · exact memOk_reply h
theorem memOk_post {c : Command} {dies : List Nat} (h : MemOk s) : MemOk (s.post c dies) := memOk_foldl h fun _ _ hu
    => memOk_updDie hu
theorem memOk_startCommand {c : Command} (h : MemOk s) : MemOk (s.startCommand c) :=
  memOk_ite (memOk_reply h) (memOk_ite (memOk_carryOut h) (memOk_post h))
theorem memOk_firmware (h : MemOk s) : MemOk s.firmware := by
  unfold State.firmware
  split
  · exact h
  · exact memOk_startCommand h
theorem memOk_usePacket {conn : Nat} (h : MemOk s) : MemOk (s.usePacket conn) := memOk_updIo h
theorem memOk_receive {g : CmdHdr} {opcode : Nat} {cmd : Typoro} (h : MemOk s) : MemOk (s.receive g opcode cmd) :=
  memOk_ite h (memOk_ite (memOk_answerAgain (memOk_usePacket h)) (memOk_firmware h))
theorem outOk_execMailboxCommand {die : Nat} (h : MemOk s) : OutOk (execMailboxCommand die s) := by
  unfold execMailboxCommand
  refine outOk_next ?_
  dsimp only
  split
  · exact h
  · exact memOk_ite (memOk_updDie h) (memOk_carryOut (memOk_updDie h))

end Sys2Proof.Machine
end

section
/-! SUPPORT. Memories stay in canonical form (R128): the vector instructions and exec. -/

namespace Sys2Proof.Machine

open Sys2Proof Sys2Proof.Safety

-- One proof after another: hundreds of short ones at a time take more threads than check.sh's limit has stacks for.
set_option Elab.async false

variable {s t : State}

/-! Operand forms. -/

theorem memOk_texAccess {k : Access} {as : List Word} {f : State → Word → Place → State} {go : List
    (Word × Place) → State → State} (h : MemOk s) (hf : ∀ u b1 b2, MemOk u → MemOk (f u b1 b2))
    (hgo : ∀ b0 u1, MemOk u1 → MemOk (go b0 u1)) : MemOk (s.texAccess k as f go) := by
  unfold State.texAccess
  dsimp only
  split
  · exact hgo _ _ (memOk_foldl h (fun u _ hu => hf _ _ _ hu))
  · exact memOk_trap h
  · exact memOk_holdOnPage (memOk_foldl h (fun u _ hu => hf _ _ _ hu))
theorem outOk_execTexl {m : MaskCode} {d a b : RowCode} (h : MemOk s) : OutOk (execTexl m d a b s) := by
  unfold execTexl
  refine outOk_next (memOk_localBlock h (fun u b1 hu => ?_))
  dsimp only
  split
  · exact memOk_advance (memOk_rowWrite (memOk_rowWrite hu))
  · exact memOk_texAccess (memOk_ite hu (memOk_acquire hu)) (fun u _ _ hu' => hu') fun _ u' hu' => memOk_texAccess
      (memOk_foldl_snd hu' (fun _ _ hu'' => memOk_loadChecked hu''))
      (fun u _ _ hu'' => memOk_atomicAt hu'') fun _ u'' hu'' => memOk_advance (memOk_rowWrite (memOk_rowWrite hu''))

/-! Vector instructions. -/

theorem outOk_maskPut {d : MaskCode} {v : BitVec 16} (h : MemOk s) : OutOk (s.maskPut d v) := outOk_next
    (memOk_advance (memOk_setMask h))
theorem memOk_fetchAsks {t : ThreadId} {pc : Word} (h : MemOk s) : MemOk (s.fetchAsks t pc) := by
  unfold State.fetchAsks
  split
  · exact memOk_seen h
  · exact h
  · exact h
theorem memOk_lungeWith {c : Except CaptureStop (List W32)} {len : BitVec 4} {cnt : BitVec 8} {stride : BitVec 7} {fix
    : BitVec 3} (h : MemOk s) : MemOk (s.lungeWith c len cnt stride fix) := by
  unfold State.lungeWith
  dsimp only
  split
  · exact memOk_holdOnPage h
  · exact memOk_trap h
  · exact memOk_updMe (memOk_retire h)
theorem outOk_execLunge {len : BitVec 4} {cnt : BitVec 8} {stride : BitVec 7} {fix : BitVec 3}
    (h : MemOk s) : OutOk (execLunge len cnt stride fix s) := by
  unfold execLunge
  split
  · exact outOk_next (memOk_lungeWith h)
  · exact outOk_next (memOk_lungeWith (memOk_foldl h (fun u _ hu => memOk_fetchAsks hu)))

/-! Every instruction (R47). -/

theorem outOk_exec {i : Instr} (h : MemOk s) : OutOk (exec i s) := by
  cases i with
  | matOpRetire => exact outOk_execMatOpRetire h
  | loaderSlotLand => exact outOk_execLoaderSlotLand h
  | storerSlotWritten => exact outOk_execStorerSlotWritten h
  | copyUnitDone => exact outOk_execCopyUnitDone h
  | streamReadDone => exact outOk_execStreamReadDone h
  | mergeAccept => exact outOk_next (memOk_acceptFrom h)
  | mergeEmit => exact outOk_next (memOk_mgEmit h)
  | listEngineOperation => exact outOk_next (memOk_ite (memOk_spillAll h) (memOk_ilStep (memOk_spillAll h)))
  | listArrival => exact outOk_next (memOk_ite h (memOk_arrivalStep h))
  | tensorWeightArrival => exact outOk_execTensorWeightArrival h
  | cellWeightArrival => exact outOk_execCellWeightArrival h
  | storeBufferDrain => exact outOk_next (memOk_drainOne h)
  | cflagsAccrual => exact outOk_next (memOk_setCluster h)
  | messageLanding => exact outOk_execMessageLanding h
  | domainBarrierCompletion => exact outOk_execDomainBarrierCompletion h
  | pageWalkComplete => exact outOk_execPageWalkComplete h
  | faultMessageArrival => exact outOk_execFaultMessageArrival h
  | mailboxCommand => exact outOk_execMailboxCommand h
  | dealDecision => exact outOk_execDealDecision h
  | kernelRetirement => exact outOk_execKernelRetirement h
  | queueSwapComplete => exact outOk_next (memOk_ite (memOk_swapIn h) h)
  | encodeFrame => exact outOk_execEncodeFrame h
  | illegal | trap | brk => exact outOk_next (memOk_trap h)
  | add | sub | and | or | xor | sll | srl | sra | slt | sltu | seq | min | max | minu | maxu | andn | mul
  | mulh | mulhu | div | divu | rem | remu =>
    exact outOk_next (memOk_put h)
  | addi | andi | ori | xori | slli | srli | srai | slti | sltiu | clz | ctz | popc | brev | sextb | sexth
  | sextw | zextw =>
    exact outOk_next (memOk_put h)
  | lup | aupc | fclass | cntr | self | vext | mpopc | mfirst | mget | rstat | cstat => exact outOk_next (memOk_put h)
  | fadd | fsub | fmul | fdiv | fmin | fmax | feq | flt | fle | fma => exact outOk_next (memOk_putFp h)
  | fcvtif | fcvtfi | fsqrt => exact outOk_next (memOk_putFp h)
  | beq | bne | blt | bge | bltu | bgeu | bmany | bmnone | bmall => exact outOk_branch h
  | jmp => exact outOk_next (memOk_jumpTo h)
  | call => exact outOk_next (memOk_callTo h)
  | jr => exact outOk_next (memOk_ite (memOk_trap h) (memOk_jumpTo h))
  | callr => exact outOk_next (memOk_ite (memOk_trap h) (memOk_callTo h))
  | ld => exact outOk_next (memOk_loadTo h (fun u _ hu => memOk_put hu))
  | st | str | vst => exact outOk_next (memOk_storeTo h)
  | lda => exact outOk_next (memOk_loadTo (memOk_acquire h) (fun u _ hu => memOk_put hu))
  | aadd | aand | aor | axor | amin | amax | aminu | amaxu | aswp | acas | afadd => exact outOk_atomicOp h
  | fence => exact outOk_execFence h
  | vld => exact outOk_next (memOk_loadTo h (fun u _ hu => memOk_advance (memOk_setRow hu)))
  | vldx => exact outOk_execVldx h
  | vstx => exact outOk_execVstx h
  | csrr | csrw | csrs | csrc | csrwi => exact outOk_csrOp h
  | exit => exact outOk_next (memOk_exitWith h)
  | chkpt => exact outOk_execChkpt h
  | ipf => exact outOk_next (memOk_advance h)
  | send => exact outOk_execSend h
  | waitc => exact outOk_next (memOk_ite (memOk_put h) (memOk_wait h))
  | cntadd => exact outOk_next (memOk_put (memOk_bumpCounter (memOk_release h)))
  | rkmap => exact outOk_execRkmap h
  | rkmove =>
    exact outOk_next (memOk_supOnly h (memOk_ite (memOk_put h) (memOk_put (memOk_releaseRank (memOk_setRank h)))))
  | barinit => exact outOk_next (memOk_ite (memOk_trap h) (memOk_advance (memOk_updMyCore h)))
  | bararr => exact outOk_next (memOk_ite (memOk_trap h) (memOk_put (memOk_barArrive h)))
  | barwait => exact outOk_next (memOk_ite (memOk_trap h) (memOk_ite (memOk_advance h) (memOk_wait h)))
  | barsync => exact outOk_execBarsync h
  | barq => exact outOk_next (memOk_ite (memOk_trap h) (memOk_put h))
  | help => exact outOk_execHelp h
  | hjoin => exact outOk_execHjoin h
  | hitch => exact outOk_execHitch h
  | unhitch => exact outOk_execUnhitch h
  | enq => exact outOk_execEnq h
  | qres => exact outOk_execQres h
  | tlink => exact outOk_execTlink h
  | launch => exact outOk_execLaunch h
  | kwait =>
    exact outOk_next (memOk_ite (memOk_put h) (memOk_ite (memOk_put h) (memOk_ite (memOk_wait h) (memOk_put h))))
  | qpin => exact outOk_execQpin h
  | tlbinv => exact outOk_execTlbinv h
  | freply => exact outOk_next (memOk_supOnly h (memOk_advance (memOk_freply h)))
  | fbread => exact outOk_next (memOk_supOnly h (memOk_put h))
  | fbclr => exact outOk_execFbclr h
  | lunge => exact outOk_execLunge h
  | vadd | vsub | vmul | vmin | vmax | vpackBf16 | vpackF16 => exact outOk_next (memOk_rowFp h)
  | vfma | vfms | vfnma => exact outOk_next (memOk_rowFp h)
  | vabs | vneg | vrcp | vrsq | vexp2 | vlog2 | vsqrt | vflr | vceil | vrndn | vcvt => exact outOk_next (memOk_rowFp h)
  | vcmpf | vcmpi => exact outOk_next (memOk_maskCmp h)
  | viadd | visub | vimul | vand | vor | vxor | vshl | vshr | vshra | vimin | vimax | viminu | vimaxu =>
    exact outOk_next (memOk_rowInt h)
  | vsel | vperm | vmov | texd => exact outOk_next (memOk_rowInt h)
  | vred => exact outOk_next (memOk_putFp h)
  | vins | splt => exact outOk_next (memOk_advance (memOk_rowWrite h))
  | mand | mor | mxor | mandn | mnot | mmov | mset => exact outOk_maskPut h
  | mma => exact outOk_execMma h
  | mzero | mst | mld => exact outOk_matIssue h fun u hu => memOk_advance (memOk_matAccept hu)
  | mwait => exact outOk_next (memOk_ite (memOk_wait h) (memOk_advance h))
  | mchk => exact outOk_execMchk h
  | rinit => exact outOk_next (memOk_ringLocal h (fun u _ hu => memOk_put (memOk_ite (memOk_updRing hu) hu)))
  | rpush => exact outOk_execRpush h
  | rsub => exact outOk_execRsub h
  | runsub => exact outOk_execRunsub h
  | cpy => exact outOk_execCpy h
  | cwait => exact outOk_execCwait h
  | sopen => exact outOk_execSopen h
  | spop => exact outOk_execSpop h
  | spush => exact outOk_execSpush h
  | mgopen => exact outOk_execMgopen h
  | mgpush => exact outOk_execMgpush h
  | mgend => exact outOk_execMgend h
  | mgpop => exact outOk_next (memOk_ite (memOk_put h) (memOk_put (memOk_setRow (memOk_setRow (memOk_updMg h)))))
  | mgstat => exact outOk_execMgstat h
  | mgdrain => exact outOk_execMgdrain h
  | ilopen => exact outOk_next (memOk_ite (memOk_put h) (memOk_ite h (memOk_ilBlock h (fun u _ hu => memOk_ilGo hu))))
  | ilins => exact outOk_execIlins h
  | ilsend => exact outOk_execIlsend h
  | ilcut | ilread | ilstat => exact outOk_next (memOk_ite (memOk_put h) (memOk_ite h (memOk_ilGo h)))
  | ilcomp => exact outOk_next (memOk_ite (memOk_put h) (memOk_ite (memOk_put h) (memOk_ite h (memOk_ilGo h))))
  | ilclose => exact outOk_execIlclose h
  | hnew => exact outOk_next (memOk_halAccept h (memOk_halWait h))
  | hcopy => exact outOk_next (memOk_halAccept h (memOk_ite (memOk_halTrap h) (memOk_halNow h (memOk_copyHalter h))))
  | hdrop => exact outOk_execHdrop h
  | hbind => exact outOk_execHbind h
  | hwgt => exact outOk_next (memOk_halAccept h (memOk_halNow h (memOk_weighHalter h)))
  | haddr => exact outOk_next (memOk_halAccept h (memOk_ite (memOk_halNow h (memOk_put h)) (memOk_halWait h)))
  | hmerge =>
    exact outOk_next (memOk_halAccept h (memOk_ite (memOk_halTrap h) (memOk_halNow h (memOk_mergeHalters h))))
  | boxt | trit => exact outOk_next (memOk_advance (memOk_hpm (memOk_setMask (memOk_rowWrite h)) _ _ _))
  | edge => exact outOk_next (memOk_advance (memOk_setMask (memOk_rowWrite h)))
  | texl => exact outOk_execTexl h
  | ret => exact outOk_execRet h
  | eret => exact outOk_next (memOk_updMe (memOk_retire h))
  | yield => exact outOk_next (memOk_latchOthers (memOk_updMe (memOk_advance h)))
  | wfe => exact outOk_next (memOk_ite (memOk_updMe (memOk_advance h)) (memOk_wait h))
  | trig => exact outOk_next (memOk_advance (memOk_updMe (memOk_release h)))
  | replay => exact outOk_next (memOk_supOnly h (memOk_advance (memOk_replayAll (memOk_release h))))
  | csrWriteFrm => exact outOk_csrForm (csr := 0x010) h
  | csrAccessFflags => exact outOk_csrForm (csr := 0x011) h
  | csrWriteStatus => exact outOk_csrForm (csr := 0x000) h
  | csrWriteMfmt => exact outOk_csrForm (csr := 0x030) h
  | csrWriteMerr => exact outOk_csrForm (csr := 0x033) h
  | csrWriteDomain => exact outOk_csrForm (csr := 0x040) h
  | csrReadCflags | csrWriteWindow | csrWriteHpmcnt | csrWriteOther => exact outOk_csrForm h
  | halterHomeReply => exact outOk_execHalterHomeReply h
  | waittoExpiry => exact outOk_execWaittoExpiry h
  | chkmaxExpiry => exact outOk_execChkmaxExpiry h
  | deadlockDeclaration => exact outOk_execDeadlockDeclaration h
  | instructionCacheFill => exact outOk_execInstructionCacheFill h
  | harnessFlitReceive => exact outOk_execHarnessFlitReceive h
  | harnessNak => exact outOk_next (memOk_nak h)
  | laneLockLoss => exact outOk_next (memOk_ite (memOk_enterRetrain h) h)
  | linkTrainingResult => exact outOk_execLinkTrainingResult h
  | trainingRetryTimer => exact outOk_next (memOk_ite (memOk_trainingFlits (memOk_updPort h)) h)
  | typoroContextCreate | typoroTeardown | typoroPaddockDefine | typoroMapMemory | typoroUnmapMemory
  | typoroCopyToDevice | typoroCopyToHost | typoroLaunch | typoroQueueCreate | typoroQueueDestroy
  | typoroQueuePin | typoroPreempt | typoroResume | typoroGroupMove | typoroEventRead | typoroWsWindowOpen
  | typoroWsWindowClose | typoroLinkConfig | typoroRouteSet | typoroEncoderSetup | typoroAttestationQuote
  | typoroPatchLoad | typoroBadCommand =>
    exact outOk_next (memOk_receive h)
  | typoroRepeatedCommand => exact outOk_next (memOk_ite h (memOk_answerAgain (memOk_usePacket h)))
  | powerOn => exact outOk_next (memOk_ite h (memOk_bringUp h))
  | grcResetN => exact outOk_next (memOk_ite (memOk_deviceReset h) h)
  | smbusResetWrite => exact outOk_next (memOk_deviceReset h)
  | smbusWriteOther => exact outOk_next h
  | sensorSample => exact outOk_next (memOk_ite h (memOk_ite (memOk_tripNow h) (memOk_sample h)))
  | coolantStepTimer => exact outOk_next (memOk_ite (memOk_lowerClock h) h)
  | lifetimeRecordWrite | voltageDroop => exact outOk_next (memOk_ite h h)
  | powerLoss => exact outOk_next (memOk_ite h memOk_atReset)
  | forwardedAccess => exact outOk_execForwardedAccess h
  | uetPacket => exact outOk_execUetPacket h

end Sys2Proof.Machine
end

section
/-! SUPPORT. Memories stay in canonical form (R128): settling, issue and the step. -/

namespace Sys2Proof.Machine

open Sys2Proof Sys2Proof.Safety

-- One proof after another: hundreds of short ones at a time take more threads than check.sh's limit has stacks for.
set_option Elab.async false

variable {s t : State}

/-! Settling after a step (R65). -/

theorem memOk_completeChunk {x : Nat} {g : Group} {k : Chunk} (h : MemOk s) : MemOk (s.completeChunk x g k) := by
  unfold State.completeChunk
  extract_lets s1 s2 s3
  have h1 : MemOk s1 := memOk_foldl h fun u _ hu => memOk_drainAll hu _
  have h2 : MemOk s2 := memOk_foldl h1 fun u _ hu => memOk_updQueue hu
  have h3 : MemOk s3 := memOk_ite (memOk_updQueue h2) h2
  exact memOk_updCtx h3
theorem memOk_settleGroup {x : Nat} {g : Group} (h : MemOk s) : MemOk (s.settleGroup x g) := by
  unfold State.settleGroup
  extract_lets s1
  have h1 : MemOk s1 := by
    unfold s1
    split
    · exact h
    · exact memOk_ite (memOk_completeChunk h) h
  split
  · exact h1
  · exact memOk_ite (memOk_retireGroup h1) h1
theorem memOk_settleKernel {x : Nat} {kid : W32} (h : MemOk s) : MemOk (s.settleKernel x kid) := by
  unfold State.settleKernel
  dsimp only
  split
  · exact h
  · exact memOk_runTodo (memOk_ite (memOk_updKernel (memOk_ite (memOk_updKernel h) h)) (memOk_ite
      (memOk_updKernel h) h))
theorem memOk_settleFinals {x fuel : Nat} (h : MemOk s) : MemOk (s.settleFinals x fuel) := by
  induction fuel generalizing s with
  | zero => exact h
  | succ fuel ih =>
    unfold State.settleFinals
    split
    · exact h
    · exact memOk_ite h (ih (memOk_finalise (memOk_updCtx h)))
theorem memOk_settleCtx {x : Nat} (h : MemOk s) : MemOk (s.settleCtx x) := by
  unfold State.settleCtx
  dsimp only
  split
  · exact memOk_parkProgress h
  · exact memOk_parkProgress (memOk_settleFinals (memOk_foldl (memOk_foldl h (fun u _ hu => memOk_settleGroup hu))
      (fun u _ hu => memOk_settleKernel hu)))
theorem memOk_settleReserves (h : MemOk s) : MemOk s.settleReserves :=
  memOk_foldl h fun _ _ hu => memOk_foldl hu fun _ _ hu' => memOk_drainReserve hu'
theorem memOk_settle (h : MemOk s) : MemOk s.settle := by
  unfold State.settle
  extract_lets s1 s2
  have h1 : MemOk s1 := memOk_foldl h fun u _ hu => memOk_settleCore hu
  have h2 : MemOk s2 := memOk_foldl h1 fun u _ hu => memOk_foldl hu fun u _ hu' => memOk_mgReap hu'
  exact memOk_settleReserves (memOk_foldl h2 (fun u _ hu => memOk_settleCtx hu))

/-! Issue of threads, one turn (R42, R43, R59). -/

theorem memOk_fetched {t : ThreadId} (h : MemOk s) : MemOk (s.fetched t) := memOk_ite h (memOk_fetchAsks h)
theorem outOk_runAs {t : ThreadId} {w : W32} {i : Instr} (h : MemOk s) : OutOk (s.runAs t w i) := by
  have h1 := memOk_updThread h t (·.atWord w i)
  exact outOk_exec (s := { s.updThread t (·.atWord w i) with cur := t }) h1
theorem memOk_pruneFences {t : ThreadId} (h : MemOk s) : MemOk (s.pruneFences t) := memOk_ite h (memOk_updThread h _ _)
theorem memOk_issued {t : ThreadId} (h : MemOk s) : MemOk (s.issued t) := by
  refine memOk_core h fun k => ?_
  dsimp only
  split <;> split <;> rfl
theorem triedOk_progress {before : Thread} {t : ThreadId} {o : Out} (ho : OutOk o) : TriedOk (progress before t o) := by
  unfold progress
  split
  · split
    · exact triedOk_stalled
    · exact triedOk_did (outOk_next (ho _ rfl))
  · exact triedOk_did outOk_fault
  · exact triedOk_did outOk_refused
theorem triedOk_runWord {t : ThreadId} {w : W32} {i : Instr} (h : MemOk s) : TriedOk (s.runWord t w i) := by
  unfold State.runWord
  extract_lets s1
  have h1 : MemOk s1 := memOk_issued (memOk_pruneFences h)
  exact triedOk_progress (outOk_runAs h1)
theorem triedOk_tryWord {t : ThreadId} {w : W32} (h : MemOk s) : TriedOk (s.tryWord t w) := by
  unfold State.tryWord
  dsimp only
  split
  · exact triedOk_stalled
  · split
    · exact triedOk_did (outOk_next (memOk_blockAt h))
    · exact triedOk_runWord h
theorem triedOk_tryThread {t : ThreadId} (h : MemOk s) : TriedOk (s.tryThread t) := by
  unfold State.tryThread
  split
  · exact triedOk_did (outOk_next (memOk_trapAt (memOk_issued h)))
  · exact triedOk_progress (outOk_next (memOk_holdOnPage h))
  · exact triedOk_tryWord (memOk_fetched h)
theorem memOk_checkMember {lead m : ThreadId} (h : MemOk s) : MemOk (s.checkMember lead m) := by
  unfold State.checkMember
  split
  · exact h
  · split
    · exact h
    · exact memOk_ite (memOk_leaveWith h) h
    · exact memOk_leaveHitch h
    · exact memOk_ite (memOk_leaveHitch h) h
theorem memOk_checkHitch {lead : ThreadId} {ms : List ThreadId} (h : MemOk s) : MemOk (s.checkHitch lead ms) :=
  memOk_foldl h fun _ _ hu => memOk_checkMember hu
theorem outOk_runFollower {body : Option (Except CaptureStop (List W32))} {m : ThreadId} {w : W32} {i : Instr}
    (h : MemOk s) :
    OutOk (s.runFollower body m w i) := by
  unfold State.runFollower
  split
  · exact outOk_next (memOk_lungeWith (memOk_updThread h m (·.atWord w _)))
  · exact outOk_runAs h
theorem outOk_runFollowers {body : Option (Except CaptureStop (List W32))} {w : W32} {i : Instr} {l : List ThreadId}
    (h : MemOk s) : OutOk (s.runFollowers body w i l) := by
  induction l generalizing s with
  | nil => exact outOk_next h
  | cons x l ih =>
    unfold State.runFollowers
    split
    · next e => exact ih ((outOk_runFollower (memOk_issued (memOk_pruneFences h))) _ e)
    · exact outOk_fault
    · exact outOk_refused
theorem outOk_issueAll {lead : ThreadId} {ms : List ThreadId} {w : W32} {i : Instr}
    (h : MemOk s) : OutOk (s.issueAll lead ms w i) := by
  unfold State.issueAll
  dsimp only
  split
  · next u e =>
      split
      · exact outOk_next ((outOk_runAs (memOk_issued (memOk_pruneFences h))) _ e)
      · split
        · next e2 => exact outOk_next (memOk_checkHitch (memOk_foldl ((outOk_runFollowers ((outOk_runAs (memOk_issued
            (memOk_pruneFences h))) _ e)) _ e2) (fun u _ hu => memOk_leaveHitch hu)))
        · exact outOk_fault
        · exact outOk_refused
  · exact outOk_fault
  · exact outOk_refused
theorem triedOk_lockWord {lead : ThreadId} {ms : List ThreadId} {w : W32}
    (h : MemOk s) : TriedOk (s.lockWord lead ms w) := by
  unfold State.lockWord
  dsimp only
  split
  · exact triedOk_stalled
  · split
    · exact triedOk_did (outOk_next (memOk_foldl h (fun u b hu => memOk_ite (memOk_blockAt hu) hu)))
    · split
      · split
        · exact triedOk_stalled
        · split
          · refine triedOk_did (outOk_next (memOk_foldl h (fun u b hu => ?_)))
            split
            · exact memOk_setThread hu
            · exact hu
          · exact triedOk_did (outOk_issueAll (memOk_foldl h (fun u _ hu => memOk_ite (memOk_core hu) hu)))
      · split
        · exact triedOk_stalled
        · split
          · refine triedOk_did (outOk_next (memOk_foldl h (fun u b hu => ?_)))
            split
            · exact memOk_setThread hu
            · exact hu
          · exact triedOk_did (outOk_issueAll (memOk_foldl h (fun u _ hu => memOk_ite (memOk_core hu) hu)))
theorem triedOk_lockStep {lead : ThreadId} {ms : List ThreadId} (h : MemOk s) : TriedOk (s.lockStep lead ms) := by
  unfold State.lockStep
  split
  · exact triedOk_lockWord (memOk_fetched h)
  · exact triedOk_tryThread h
  · exact triedOk_tryThread h
theorem triedOk_tryMember {t : ThreadId} {g : HitchRec} (h : MemOk s) : TriedOk (s.tryMember t g) := by
  unfold State.tryMember
  dsimp only
  split
  · split
    · next e1 => exact triedOk_did (outOk_next (memOk_checkHitch ((triedOk_tryWord h) _ e1 _ rfl)))
    · exact triedOk_tryWord h
  · split
    · exact triedOk_passed
    · exact triedOk_lockStep h
theorem triedOk_trySlot {t : ThreadId} (h : MemOk s) : TriedOk (s.trySlot t) := by
  unfold State.trySlot
  dsimp only
  split
  · exact triedOk_passed
  · split
    · exact triedOk_tryThread h
    · exact triedOk_tryMember h
theorem memOk_stallSlot {t : ThreadId} (h : MemOk s) : MemOk (s.stallSlot t) := memOk_foldl h fun _ _ hu
    => memOk_blockAt hu
theorem outOk_issueFirst {c : Nat} {l : List Nat} (h : MemOk s) : OutOk (s.issueFirst c l) := by
  induction l generalizing s with
  | nil => exact outOk_next h
  | cons n l ih =>
    unfold State.issueFirst
    split
    · next o e => exact triedOk_trySlot h o e
    · exact ih h
    · exact ih (memOk_stallSlot h)
theorem outOk_coreTurn {c : Nat} (h : MemOk s) : OutOk (s.coreTurn c) := outOk_issueFirst (memOk_ite (memOk_core h) h)
theorem memOk_wakeSlot {t : ThreadId} (h : MemOk s) : MemOk (s.wakeSlot t) := by
  unfold State.wakeSlot
  dsimp only
  split
  · exact memOk_ite (memOk_foldl h (fun u _ hu => memOk_ite (memOk_updThread hu _ _) hu)) h
  · exact memOk_ite h (memOk_updThread h _ _)
  · exact memOk_ite (memOk_updThread h _ _) h
  · exact h
  · exact h
  · exact h
  · exact h
theorem memOk_wakeCore {c : Nat} (h : MemOk s) : MemOk (s.wakeCore c) := memOk_foldl h fun _ _ hu => memOk_wakeSlot hu
theorem memOk_wakeAll (h : MemOk s) : MemOk s.wakeAll := memOk_foldl h fun _ _ hu => memOk_wakeCore hu
theorem memOk_freeTurn {p : Turn × State} (h : MemOk s) (e : s.freeTurn = some p) : MemOk p.2 := by
  unfold State.freeTurn at e
  dsimp only at e
  split at e
  · cases e
  · split at e
    · split at e <;> cases e
      exact h
    · obtain ⟨t, -, rfl⟩ := Option.map_eq_some_iff.mp e
      exact h
theorem outOk_turn {t : Turn} (h : MemOk s) : OutOk (s.turn t) := by
  unfold State.turn
  split
  · exact outOk_exec h
  · exact outOk_coreTurn h
  · exact outOk_execWaittoExpiry h
  · exact outOk_execHalterHomeReply h
  · exact outOk_execChkmaxExpiry h
  · exact outOk_execDeadlockDeclaration h
  · exact outOk_next (memOk_icMissAt h)
  · exact outOk_execInstructionCacheFill h
  · exact outOk_next (memOk_firmware h)
  · exact outOk_next (memOk_remoteLeaves h)
  · exact outOk_next (memOk_awayLands h)
  · exact outOk_next (memOk_spreadOne h _ _)
theorem outOk_settled {o : Out} (ho : OutOk o) : OutOk (settled o) := by
  unfold settled
  split
  · exact outOk_next (memOk_endEpisodes (memOk_wakeAll (memOk_settle (ho _ rfl))))
  · exact outOk_fault
  · exact outOk_refused

/-! One step. -/

theorem outOk_step (h : MemOk s) : OutOk (step s) := by
  unfold step
  split
  · split
    · exact outOk_fault
    · exact outOk_settled (outOk_turn (h :))
  · split
    · exact outOk_next h
    · next e => exact outOk_settled (outOk_turn (memOk_freeTurn h e))

/-- Settles O55: each function that a step is made of keeps the memories in canonical form. -/
theorem stepKeepsMemory : Obligations.StepKeepsMemory := by
  unfold Obligations.StepKeepsMemory
  intro s t h e
  exact outOk_step h t e

end Sys2Proof.Machine
end

section
/-! SUPPORT. Loads and the checks of an access (R130, R137-R139, R142). -/

namespace Sys2Proof.Machine

open Sys2Proof Sys2Proof.Safety

/-! Addresses, and bytes as numbers. -/

theorem eaM_eq (a : Word) (off : BitVec 12) (n : Nat) : eaM a off n = a + BitVec.ofInt 64 (off.toInt * n) := by
  rw [eaM, BitVec.signExtend, ← BitVec.ofInt_natCast, ← BitVec.ofInt_mul]
theorem eaW_eq (a : Word) (off : BitVec 12) : eaW a off = a + BitVec.ofInt 64 (off.toInt * 64) := eaM_eq a off 64

@[simp] theorem leBytes_length (n v : Nat) : (leBytes n v).length = n := by simp [leBytes]
theorem leNat_cons (x : Byte) (bs : List Byte) : leNat (x :: bs) = leNat bs * 256 + x.toNat := rfl
theorem leNat_append (a b : List Byte) : leNat (a ++ b) = leNat a + 256 ^ a.length * leNat b := by
  induction a with
  | nil => simp [leNat]
  | cons x a ih =>
    rw [List.cons_append, leNat_cons, leNat_cons, ih, List.length_cons, Nat.pow_succ]
    ring
theorem leNat_lt (bs : List Byte) : leNat bs < 256 ^ bs.length := by
  induction bs with
  | nil => decide
  | cons x bs ih =>
    have hx := x.isLt
    rw [leNat_cons, List.length_cons, Nat.pow_succ]
    omega
@[simp] theorem loadBytes_length (s : State) (c : Nat) (p : Place) (n : Nat) : (s.loadBytes c p n).length = n := by simp [State.loadBytes]
theorem leValue_lt {bs : List Byte} {n : Nat} (h : bs.length = n) : leValue bs < 2 ^ (8 * n) := by
  rw [← leNat_eq_leValue, Nat.pow_mul]
  exact h ▸ leNat_lt bs

/-- The value of a load, zero- or sign-extended (R137). -/
theorem loadValue_zero (n : Nat) (bs : List Byte) : loadValue n false bs = BitVec.ofNat 64 (leValue bs) := by
  rw [← leNat_eq_leValue]
  rfl
theorem loadValue_sign {n : Nat} {bs : List Byte} (hn : n = 1 ∨ n = 2 ∨ n = 4) (hlen : bs.length = n) :
    loadValue n true bs = BitVec.ofInt 64 (if leValue bs < 2 ^ (8 * n - 1) then (leValue bs : Int) else (leValue bs : Int) - 2 ^ (8 * n)) := by
  have hv := leValue_lt hlen
  rw [loadValue, if_pos rfl, leNat_eq_leValue]
  generalize leValue bs = v at hv
  apply BitVec.eq_of_toInt_eq
  rw [BitVec.toInt_sshiftRight, BitVec.toInt_shiftLeft, BitVec.toNat_ofNat, BitVec.toInt_ofInt, Int.shiftRight_eq_div_pow, Nat.shiftLeft_eq]
  unfold Int.bmod
  rcases hn with rfl | rfl | rfl <;> norm_num at hv ⊢ <;> split_ifs <;> omega

/-! The checks, and what an access makes of them (R128-R130). -/

section
variable {s : State} {t : ThreadId} {ea : Word} {n al : Nat} {k : Access}

theorem check_noClass (h : addrClass ea = .none) : s.check t ea n al k = .trap 3 ea := by
  rw [State.check, h]
theorem check_misaligned (h : addrClass ea ≠ .none) (hal : ea.toNat % al ≠ 0) : s.check t ea n al k = .trap 2 ea := by
  rw [State.check]
  cases hc : addrClass ea with
  | none => exact absurd hc h
  | loc => exact if_pos hal
  | global => exact if_pos hal
theorem check_refused {x : Nat} (h : addrClass ea = .loc) (hal : ea.toNat % al = 0)
    (hx : (s.core t.core).protRefused (!(s.thread t).sup) ea.toNat n k.reads k.writes = some x) :
    s.check t ea n al k = .trap 3 (BitVec.ofNat 64 x) := by
  rw [State.check, h]
  dsimp only
  rw [if_neg (not_not.mpr hal), hx]
theorem check_locked {x : Nat} (h : addrClass ea ≠ .none) (hal : ea.toNat % al = 0)
    (hp : addrClass ea = .loc → (s.core t.core).protRefused (!(s.thread t).sup) ea.toNat n k.reads k.writes = none)
    (hx : (s.core t.core).rangeHit ea.toNat n k.writes = some x) : s.check t ea n al k = .trap 5 (BitVec.ofNat 64 x) := by
  rw [State.check]
  cases hc : addrClass ea with
  | none => exact absurd hc h
  | loc =>
    dsimp only
    rw [if_neg (not_not.mpr hal), hp hc, hx]
  | global =>
    dsimp only
    rw [if_neg (not_not.mpr hal), hx]

theorem access_trap {go : Place → State} {c : Nat} {v : Word} (h : s.check s.cur ea n al k = .trap c v) :
    s.access ea n al k go = s.trap c v := by
  rw [State.access, h]
theorem access_ok {go : Place → State} {p : Place} (h : s.check s.cur ea n al k = .ok p) : s.access ea n al k go = go p := by
  rw [State.access, h]
end

theorem exec_ld (d a : Reg) (off : BitVec 12) (sz : Size) (sx : Bool) (s : State) : exec (.ld d a off sz sx) s =
    .next (s.loadTo (s.reg a + BitVec.ofInt 64 (off.toInt * sizeBytes sz)) (sizeBytes sz) fun t bs => t.put d (loadValue (sizeBytes sz) sx bs)) := by
  rw [← eaM_eq]
  rfl
theorem exec_st (d a : Reg) (off : BitVec 12) (sz : Size) (s : State) : exec (.st d a off sz) s =
    .next (s.storeTo (s.reg a + BitVec.ofInt 64 (off.toInt * sizeBytes sz)) (leBytes (sizeBytes sz) (s.reg d).toNat) none (.st d a off sz)) := by
  rw [← eaM_eq]
  rfl

/-- Settles O27: the check is taken apart in its order, and an access takes the trap that it gives. -/
theorem accessTraps : Obligations.AccessTraps := by
  unfold Obligations.AccessTraps
  intro s t ea n al k
  refine ⟨check_noClass, check_misaligned, fun x => check_refused, fun x => check_locked,
    fun d a off sz sx c v h => ?_, fun d a off sz c v h => ?_⟩
  · rw [exec_ld, State.loadTo, access_trap h]
  · rw [exec_st, State.storeTo, leBytes_length, access_trap h]

/-- A request of the thread that runs to another device (R178). -/
theorem State.askOut_mine (s : State) (e x : Nat) (what : RemoteKind) : s.askOut s.cur.core e x what = { s with outbox := s.outbox ++
    [⟨some (s.cur, s.myCore.serial), 0x02, dieOf s.cur.core, e, .access x what⟩] } := by
  rw [State.askOut, if_pos rfl]

/-! Loads that are allowed (R137-R139, R142). -/

section
variable {s : State} {ea : Word} {n : Nat} {p : Place} {fin : State → List Byte → State}

theorem loadTo_loads (h : Loads s ea n p) : s.loadTo ea n fin = fin s (s.loadBytes s.cur.core p n) := by
  obtain ⟨hc, hb, hr⟩ := h
  rw [State.loadTo, access_ok hc, loadChecked_good hb hr]
/-- A load of another device's page leaves its request behind (R139). -/
theorem loadTo_remote {e x : Nat} (hc : s.check s.cur ea n n .read = .ok (.remote e x)) (hb : s.meetsBad s.cur.core (.remote e x) n = false) :
    s.loadTo ea n fin = fin { s.fresh with outbox := s.outbox ++
      [⟨some (s.cur, s.myCore.serial), 0x02, dieOf s.cur.core, e, .access x (.read n)⟩] } (s.loadBytes s.cur.core (.remote e x) n) := by
  rw [State.loadTo, access_ok hc, State.loadChecked, hb, if_neg Bool.false_ne_true]
  exact congrArg (fin · (s.loadBytes s.cur.core (.remote e x) n)) (s.fresh.askOut_mine e x (.read n))
end

/-! An acquire leaves the registers (R139). -/

theorem coresKept_acquire (s : State) (sc : Scope) : CoresKept s (s.acquire sc) := by
  unfold State.acquire
  split
  · exact coresKept_release s
  · exact ⟨rfl, fun _ => rfl⟩
theorem acquire_reg (s : State) (sc : Scope) (a : Reg) : (s.acquire sc).reg a = s.reg a :=
  congrArg (Thread.reg · a) (coresKept_acquire s sc).me

/-! A whole row written (R142). -/

theorem Row.ext_lanes {v w : Row} (h : ∀ i, i < 16 → v.lane i = w.lane i) : v = w := by
  apply BitVec.eq_of_getLsbD_eq
  intro i hi
  have hb := congrArg (fun x : W32 => x.getLsbD (i % 32)) (h (i / 32) (by omega))
  simpa [Row.lane, Nat.mod_lt, Nat.div_add_mod] using hb
/-- Write a row, and go on. -/
theorem State.setRow_wrote (s : State) (r : RowCode) (v : Row) : WroteRow s (s.setRow r v).advance r 0xFFFF v.lane 0 := by
  have hrow : s.rowWrite 0xFFFF r v.lane = s.setRow r v := by
    have hm : s.mergedRow 0xFFFF r v.lane = v := Row.ext_lanes fun i hi => by
      have hbit : (0xFFFF : BitVec 16).getLsbD i = true := by
        interval_cases i <;> rfl
      rw [s.lane_mergedRow 0xFFFF r v.lane hi]
      exact if_pos hbit
    rw [State.rowWrite_eq, hm]
    rfl
  rw [← hrow]
  exact s.rowWrite_wrote 0xFFFF r v.lane
theorem lane_ofNat {m i : Nat} (hi : i < 16) : Row.lane (BitVec.ofNat 512 m) i = BitVec.ofNat 32 (m / 2 ^ (32 * i)) := by
  rw [← Nat.shiftRight_eq_div_pow]
  apply BitVec.eq_of_getLsbD_eq
  intro j hj
  have h512 : 32 * i + j < 512 := by omega
  rw [Row.lane, BitVec.getLsbD_extractLsb', BitVec.getLsbD_ofNat, BitVec.getLsbD_ofNat, Nat.testBit_shiftRight]
  simp [hj, h512]
/-- The lanes of a row that is loaded are its words in address order. -/
theorem lane_rowOfBytes {s : State} {c : Nat} {p : Place} {i : Nat} (hi : i < 16) :
    (rowOfBytes (s.loadBytes c p 64)).lane i = BitVec.ofNat 32 (leValue (s.loadBytes c (p.plus (4 * i)) 4)) := by
  have hsplit : s.loadBytes c p 64 = s.loadBytes c p (4 * i) ++ (s.loadBytes c (p.plus (4 * i)) 4 ++
      s.loadBytes c (p.plus (4 * i + 4)) (60 - 4 * i)) := by
    rw [← Place.plus_plus, ← loadBytes_add, ← loadBytes_add]
    congr 1
    omega
  have hpow : 256 ^ (4 * i) = 2 ^ (32 * i) := by
    rw [(by norm_num : 256 = 2 ^ 8), ← Nat.pow_mul]
    congr 1
    omega
  have hlow := leNat_lt (s.loadBytes c p (4 * i))
  rw [loadBytes_length, hpow] at hlow
  rw [hsplit, rowOfBytes, leNat_append, leNat_append, loadBytes_length, loadBytes_length, leNat_eq_leValue (s.loadBytes c (p.plus (4 * i)) 4),
    lane_ofNat hi, hpow, Nat.add_mul_div_left _ _ (Nat.two_pow_pos _), Nat.div_eq_of_lt hlow, Nat.zero_add]
  exact BitVec.eq_of_toNat_eq (Nat.add_mul_mod_self_left _ _ _)
/-- What is said of the lanes that are written is said of their values only. -/
theorem wroteRow_congr {s t : State} {d : RowCode} {p : BitVec 16} {g g' : Nat → W32} {f : FFlags} (h : WroteRow s t d p g f)
    (hg : ∀ i, i < 16 → p.getLsbD i = true → g i = g' i) : WroteRow s t d p g' f := by
  obtain ⟨haside, hret, hpc, hregs, hmasks, hlanes⟩ := h
  refine ⟨haside, hret, hpc, hregs, hmasks, fun r i hi => ?_⟩
  rw [hlanes r i hi]
  split
  · next hw => exact hg i hi hw.2
  · rfl

/-- Settles O23: an allowed load goes on with the bytes of its place, whose value it puts. -/
theorem loadInstructions : Obligations.LoadInstructions := by
  unfold Obligations.LoadInstructions
  refine ⟨fun d a off sz s p h => ⟨?_, fun hsz => ?_⟩, ⟨fun d a sc sz s p h => ?_, fun r a off s p h => ?_⟩,
    fun d a off sz s e x hc hb => ?_⟩
  · refine ⟨_, by rw [exec_ld, loadTo_loads h], ?_⟩
    rw [loadValue_zero]
    exact s.put_wrote d _
  · refine ⟨_, by rw [exec_ld, loadTo_loads h], ?_⟩
    rw [loadValue_sign (by cases sz <;> simp_all [sizeBytes]) (loadBytes_length ..)]
    exact s.put_wrote d _
  · have he : exec (.lda d a sc sz) s = .next ((s.acquire sc).loadTo (s.reg a) (wsizeBytes sz)
        fun t bs => t.put d (loadValue (wsizeBytes sz) false bs)) := by
      rw [← acquire_reg s sc a]
      rfl
    have hcur : (s.acquire sc).cur = s.cur := (coresKept_acquire s sc).cur
    refine ⟨_, by rw [he, loadTo_loads h], ?_⟩
    rw [loadValue_zero, hcur]
    exact (s.acquire sc).put_wrote d _
  · have he : exec (.vld r a off) s = .next (s.loadTo (s.reg a + BitVec.ofInt 64 (off.toInt * 64)) 64
        fun t bs => (t.setRow r (rowOfBytes bs)).advance) := by
      rw [← eaW_eq]
      rfl
    refine ⟨_, by rw [he, loadTo_loads h], ?_⟩
    exact wroteRow_congr (s.setRow_wrote r _) fun i hi _ => lane_rowOfBytes hi
  · refine ⟨_, by rw [exec_ld, loadTo_remote hc hb], ?_⟩
    rw [loadValue_zero]
    exact State.put_wrote _ d _

end Sys2Proof.Machine
end

section
/-! SUPPORT. What a write leaves of memory, and store buffers (R128, R132, R158-R160). -/

namespace Sys2Proof.Machine

open Sys2Proof Sys2Proof.Safety

/-! What a write covers. -/

/-- Read after write, with what the write covers. -/
theorem Mem.byte_write_covers {m : Mem} (h : m.wf = true) (b o : Nat) (bs : List Byte) :
    (m.write b bs).byte o = (if b ≤ o ∧ o < b + bs.length then bs[o - b]? else none).getD (m.byte o) := by
  rw [Mem.byte_write bs m b o h]
  split
  · next hin => rw [List.getD_eq_getElem?_getD, List.getElem?_eq_getElem (by omega), Option.getD_some, Option.getD_some]
  · rfl
theorem writeCovers_plus (p : Place) (bs : List Byte) {k : Nat} (h : k < bs.length) : writeCovers (p.plus k) (p, bs) = some bs[k] := by
  cases p <;> simp [Place.plus, writeCovers, h]

/-! Bytes of this device's memory (R128). -/

/-- A write changes the bytes that it covers, as the core that writes finds them. -/
theorem memByte_writeAt {s : State} (h : MemOk s) (c : Nat) (w : Place × List Byte) {q : Place} (hq : ∀ d a, q ≠ .remote d a) :
    (s.writeAt c w.1 w.2).memByte c q = (writeCovers q w).getD (s.memByte c q) := by
  obtain ⟨hhbm, hweight, hcores, -⟩ := h
  obtain ⟨p, bs⟩ := w
  cases q with
  | remote d a => exact absurd rfl (hq d a)
  | loc o =>
    cases p with
    | loc b => 
      rw [State.memByte, State.writeAt, State.core_updCore, if_pos rfl]
      exact Mem.byte_write_covers (hcores c) b o bs
    | hbm b => rfl
    | weight b => rfl
    | remote d b => rfl
  | hbm o =>
    cases p with
    | hbm b => exact Mem.byte_write_covers hhbm b o bs
    | loc b => rfl
    | weight b => rfl
    | remote d b => rfl
  | weight o =>
    cases p with
    | weight b => exact Mem.byte_write_covers hweight b o bs
    | loc b => rfl
    | hbm b => rfl
    | remote d b => rfl
theorem memByte_performPlain (s : State) (t : ThreadId) (n : Nat) (p : Place) (bs : List Byte) (c : Nat) (q : Place) :
    (s.performPlain t n p bs).memByte c q = (s.writeAt t.core p bs).memByte c q := by
  cases p with
  | hbm a => cases q <;> rfl
  | loc a => rfl
  | weight a => rfl
  | remote d a => rfl

/-- No byte that die `d` sees is older than memory. -/
def SeesAll (d : Nat) (s : State) : Prop := ∀ e ∈ s.stale, e.die ≠ d
theorem dieByte_of_seesAll {s : State} {c : Nat} (h : SeesAll (dieOf c) s) (q : Place) : s.dieByte c q = s.memByte c q := by
  cases q with
  | hbm a =>
    have hnone : s.stale.find? (fun e => e.die == dieOf c && e.addr == a) = none := by
      rw [List.find?_eq_none]
      intro e he
      simp [h e he]
    rw [State.dieByte, State.hbmByte, hnone]
    rfl
  | loc o => rfl
  | weight a => rfl
  | remote d a => rfl
theorem seesAll_spreadFrom {d n : Nat} {s : State} (h : SeesAll d s) : SeesAll d (s.spreadFrom n) :=
  fun e he => h e (List.mem_of_mem_filter he)
theorem seesAll_writeAt {d : Nat} {s : State} (h : SeesAll d s) (c : Nat) (p : Place) (bs : List Byte) : SeesAll d (s.writeAt c p bs) := by
  cases p with
  | hbm a => exact fun e he => h e (List.mem_of_mem_filter he)
  | loc a => exact h
  | weight a => exact h
  | remote e a => exact h
theorem seesAll_performPlain {s : State} {t : ThreadId} (h : SeesAll (dieOf t.core) s) (n : Nat) (p : Place) (bs : List Byte) :
    SeesAll (dieOf t.core) (s.performPlain t n p bs) := by
  cases p with
  | hbm a =>
    intro e he
    rcases List.mem_append.mp he with he | he
    · exact h e (List.mem_of_mem_filter he)
    · obtain ⟨d, hd, he⟩ := List.mem_flatMap.mp he
      obtain ⟨i, -, rfl⟩ := List.mem_map.mp he
      simpa using (List.mem_filter.mp hd).2
  | loc a => exact seesAll_writeAt h t.core (.loc a) bs
  | weight a => exact seesAll_writeAt h t.core (.weight a) bs
  | remote e a => exact seesAll_writeAt h t.core (.remote e a) bs

/-! Stores in their order (R159). -/

/-- Steps that each leave a byte or give it a new value leave the newest value. -/
theorem foldl_newest {β : Type} {g : State → β → State} {P : State → Prop} {v : State → Byte} {cover : β → Option Byte}
    (hg : ∀ s b, P s → P (g s b) ∧ v (g s b) = (cover b).getD (v s)) (l : List β) :
    ∀ s, P s → P (l.foldl g s) ∧ v (l.foldl g s) = (l.reverse.findSome? cover).getD (v s) := by
  induction l with
  | nil => exact fun s h => ⟨h, rfl⟩
  | cons b l ih =>
    intro s h
    obtain ⟨hp, hv⟩ := hg s b h
    obtain ⟨hp', hv'⟩ := ih _ hp
    refine ⟨hp', ?_⟩
    rw [List.foldl_cons, hv', hv, List.reverse_cons, List.findSome?_append, Option.getD_or]
    cases hc : cover b <;> simp [hc]

section
variable {c : Nat} {q : Place} (hq : ∀ d a, q ≠ .remote d a)
include hq

theorem perform_newest (s : State) (e : StoreEnt) (h : MemOk s ∧ SeesAll (dieOf c) s) :
    (MemOk (s.perform c e) ∧ SeesAll (dieOf c) (s.perform c e))
      ∧ (s.perform c e).memByte c q = (e.writes.reverse.findSome? (writeCovers q)).getD (s.memByte c q) := by
  have hmem : ∀ u : State, (s.sentBy (some (⟨c, e.slot⟩, e.serial)) 0x02 u).memByte c q = u.memByte c q := fun u => by
    cases q with
    | remote d a => exact absurd rfl (hq d a)
    | loc o => rfl
    | hbm a => rfl
    | weight a => rfl
  unfold State.perform
  rw [hmem]
  split
  · exact foldl_newest (P := fun u => MemOk u ∧ SeesAll (dieOf c) u) (v := (·.memByte c q)) (fun u w hu =>
      ⟨⟨memOk_writeAt hu.1 c _ _, seesAll_writeAt hu.2 c _ _⟩, memByte_writeAt hu.1 c w hq⟩) e.writes (s.spreadFrom (dieOf c))
      ⟨h.1, seesAll_spreadFrom h.2⟩
  · exact foldl_newest (P := fun u => MemOk u ∧ SeesAll (dieOf c) u) (v := (·.memByte c q)) (fun u w hu =>
      ⟨⟨memOk_performPlain hu.1 _ _ _ _, seesAll_performPlain (t := ⟨c, e.slot⟩) hu.2 _ _ _⟩,
        (memByte_performPlain ..).trans (memByte_writeAt hu.1 c w hq)⟩) e.writes s h
/-- After the core's stores have been performed, memory holds what the core found in its buffers. -/
theorem drainCore_newest {s : State} (h : MemOk s) (hs : SeesAll (dieOf c) s) :
    SeesAll (dieOf c) (s.drainCore c) ∧ (s.drainCore c).memByte c q = s.loadByte c q := by
  have hm : (s.updCore c (fun k => { k with stores := [] })).memByte c q = s.memByte c q := by
    cases q with
    | loc o => 
      rw [State.memByte, State.core_updCore, if_pos rfl]
      rfl
    | hbm a => rfl
    | weight a => rfl
    | remote d a => rfl
  obtain ⟨⟨-, hall⟩, hv⟩ := foldl_newest (P := fun u => MemOk u ∧ SeesAll (dieOf c) u) (v := (·.memByte c q))
    (fun u e => perform_newest hq u e) (s.core c).stores (s.updCore c (fun k => { k with stores := [] }))
    ⟨memOk_updCore h c _ (h.2.2.1 c), hs⟩
  refine ⟨hall, ?_⟩
  rw [State.drainCore, hv, hm, State.loadByte, dieByte_of_seesAll hs, buffered]
  split <;> simp [*]
end

/-! A performed store leaves the buffers. -/

section
variable (s : State) (c d : Nat)

theorem stores_writeAt (p : Place) (bs : List Byte) : ((s.writeAt c p bs).core d).stores = (s.core d).stores := by
  cases p with
  | loc o =>
    rw [State.writeAt, State.core_updCore]
    split
    · next h => rw [h]
    · rfl
  | hbm a => rfl
  | weight a => rfl
  | remote e a => rfl
theorem stores_performPlain (t : ThreadId) (n : Nat) (p : Place) (bs : List Byte) :
    ((s.performPlain t n p bs).core d).stores = (s.core d).stores := by
  cases p with
  | hbm a => rfl
  | loc o => exact stores_writeAt s t.core d (.loc o) bs
  | weight a => rfl
  | remote e a => rfl
theorem stores_perform (e : StoreEnt) : ((s.perform c e).core d).stores = (s.core d).stores := by
  have hs : ∀ u : State, ((s.sentBy (some (⟨c, e.slot⟩, e.serial)) 0x02 u).core d).stores = (u.core d).stores := fun _ => rfl
  unfold State.perform
  rw [hs]
  split
  · exact foldl_keeps (P := fun u : State => (u.core d).stores = (s.core d).stores) (fun u w _ h => (stores_writeAt u c d _ _).trans h) _ rfl
  · exact foldl_keeps (P := fun u : State => (u.core d).stores = (s.core d).stores)
      (fun u w _ h => (stores_performPlain u d _ _ _ _).trans h) _ rfl
theorem stores_drainCore : ((s.drainCore c).core c).stores = [] := by
  refine foldl_keeps (P := fun u : State => (u.core c).stores = []) (fun u e _ h => (stores_perform u c c e).trans h) _ ?_
  rw [State.core_updCore, if_pos rfl]
end

/-- What a release leaves to be read is what was read before it. -/
theorem loadByte_release {s : State} (h : MemOk s) (hs : SeesAll (dieOf s.cur.core) s) {p : Place} (hp : ∀ d a, p ≠ .remote d a) :
    s.release.loadByte s.cur.core p = s.loadByte s.cur.core p := by
  obtain ⟨hall, hv⟩ := drainCore_newest hp h hs
  have hst : (s.release.core s.cur.core).stores = [] := stores_drainCore s s.cur.core
  rw [State.loadByte, hst, ← hv, State.release, State.drainAll, dieByte_of_seesAll (seesAll_spreadFrom hall), State.memByte_spreadFrom]
  rfl

/-! A canonical memory is what its bytes are (R128). -/

section
variable {j a : Nat} {v : Byte} {m : Mem}

theorem Mem.byte_head : Mem.byte ((j, v) :: m) j = v := by rw [Mem.byte, if_pos rfl]
theorem Mem.byte_before (h : a < j) : Mem.byte ((j, v) :: m) a = unlisted := by rw [Mem.byte, if_neg (by omega), if_pos h]
theorem Mem.byte_behind (h : j < a) : Mem.byte ((j, v) :: m) a = m.byte a := by rw [Mem.byte, if_neg (by omega), if_neg (by omega)]
end

theorem Mem.ext_byte {m n : Mem} (hm : m.wf = true) (hn : n.wf = true) (h : ∀ a, m.byte a = n.byte a) : m = n := by
  induction m generalizing n with
  | nil =>
    cases n with
    | nil => rfl
    | cons e n =>
      obtain ⟨hu, -, -⟩ := (Mem.wf_cons e.1 e.2 n).mp hn
      exact absurd ((h e.1).trans Mem.byte_head).symm hu
  | cons e m ih =>
    obtain ⟨j, v⟩ := e
    obtain ⟨hv, hlast, hw⟩ := (Mem.wf_cons j v m).mp hm
    cases n with
    | nil => exact absurd (Mem.byte_head.symm.trans (h j)) hv
    | cons e n =>
      obtain ⟨k, u⟩ := e
      obtain ⟨hu, hlast', hw'⟩ := (Mem.wf_cons k u n).mp hn
      rcases lt_trichotomy j k with hjk | rfl | hjk
      · exact absurd ((Mem.byte_head.symm.trans (h j)).trans (Mem.byte_before hjk)) hv
      · obtain rfl : v = u := (Mem.byte_head.symm.trans (h j)).trans Mem.byte_head
        refine congrArg _ (ih hw hw' fun a => ?_)
        by_cases ha : j < a
        · exact ((Mem.byte_behind ha).symm.trans (h a)).trans (Mem.byte_behind ha)
        · rw [Mem.byte_below m a fun e he => lt_of_le_of_lt (not_lt.mp ha) (hlast e he),
            Mem.byte_below n a fun e he => lt_of_le_of_lt (not_lt.mp ha) (hlast' e he)]
      · exact absurd ((Mem.byte_head.symm.trans (h k).symm).trans (Mem.byte_before hjk)) hu

/-- Settles O29: read after write, the canonical form as a normal form, and the drain as a fold of writes in their order. -/
theorem byteMemory : Obligations.ByteMemory := by
  unfold Obligations.ByteMemory
  exact ⟨fun m a bs x h => ⟨Mem.wf_write m a bs h, Mem.byte_write bs m a x h⟩, fun m n hm hn => Mem.ext_byte hm hn,
    fun s p h hp hs => loadByte_release h hs hp⟩

end Sys2Proof.Machine
end

section
/-! SUPPORT. The D bit that a store sets (R160, R176). -/

namespace Sys2Proof.Machine

open Sys2Proof Sys2Proof.Safety

/-- A leaf of which the TLB still owes the D bit, beside a byte of the same dword that die 0 still sees as 1, where memory holds 0. -/
def owesBesideStale : State :=
  { State.reset.updCluster 0 (fun c => { c with l1 := [⟨0, 0, 65536, .hbm, 0, true, true, false, true, false, false, some 0x8000⟩] }) with
    stale := [⟨0, 0x8001, 1, 1, ⟨0, 0⟩, 0⟩] }
theorem owesBesideStale_leaf : addrClass 0x200 = .global ∧ owesBesideStale.hbm.wf = true
    ∧ (owesBesideStale.tlbFind (clusterOf owesBesideStale.cur.core) owesBesideStale.me.ctx (0x200 : Word).toNat).bind (·.owesD) = some 0x8000 := by
  decide
theorem owesBesideStale_dirty : owesBesideStale.loadByte 0 (.hbm 0x8001) = 1 ∧ (owesBesideStale.dirty 0x200).loadByte 0 (.hbm 0x8001) = 0 := by
  decide

/-- Refutes O24: the write that sets the D bit of a leaf makes its die see the whole dword anew, and with it a byte beside the leaf's
whose older value the die still saw. -/
theorem not_storeInstructions : ¬ Obligations.StoreInstructions := by
  unfold Obligations.StoreInstructions
  rintro ⟨-, -, -, hdirty⟩
  obtain ⟨hclass, hwf, hleaf⟩ := owesBesideStale_leaf
  obtain ⟨hbefore, hafter⟩ := owesBesideStale_dirty
  have hkept := (hdirty owesBesideStale 0x200 hwf).2 0x8000 (by rw [if_pos hclass, hleaf])
  have hsame := hkept.2.1 0 (.hbm 0x8001) (by decide)
  rw [hbefore, hafter] at hsame
  exact absurd hsame (by decide)

end Sys2Proof.Machine
end

section
/-! SUPPORT. Gather and scatter (R143). -/

namespace Sys2Proof.Machine

open Sys2Proof Sys2Proof.Safety

/-- The active lanes of a mask, in order. -/
def activeLanes (m : BitVec 16) : List Nat := lanes.filter fun i => m.getLsbD i
theorem mem_activeLanes {m : BitVec 16} {i : Nat} : i ∈ activeLanes m ↔ i < 16 ∧ m.getLsbD i = true := by
  rw [activeLanes, List.mem_filter, lanes, List.mem_range]

/-- A table made of its keys has what it was made with. -/
theorem Tbl.get_ofKeys {α : Type} (dflt : α) (f : Nat → α) {l : List Nat} {i : Nat} (h : i ∈ l) :
    Tbl.get (l.map fun i => (i, f i)) dflt i = f i := by
  induction l with
  | nil => exact nomatch h
  | cons j l ih =>
    rw [List.map_cons, Tbl.get]
    by_cases hj : j = i
    · rw [if_pos hj, hj]
    · rw [if_neg hj]
      exact ih ((List.mem_cons.mp h).resolve_left (Ne.symm hj))

section
variable {s : State} {p : BitVec 16} {a : Reg} {b : RowCode} {n : Nat} {k : Access} {q : Nat → Place}

theorem checkLanes_ok (h : ∀ i ∈ activeLanes p, s.check s.cur (s.laneEa a b i) n n k = .ok (q i)) :
    s.checkLanes p a b n k = (none, (activeLanes p).map fun i => (i, q i)) := by
  have hcs : (activeLanes p).map (fun i => (i, s.laneEa a b i, s.check s.cur (s.laneEa a b i) n n k))
      = (activeLanes p).map (fun i => (i, s.laneEa a b i, .ok (q i))) := List.map_congr_left fun i hi => by rw [h i hi]
  unfold State.checkLanes
  rw [← activeLanes, hcs]
  dsimp only
  rw [List.filterMap_map]
  simp [Function.comp_def]

/-- Lanes that meet no uncorrectable word are loaded one after another, and the state stays. -/
theorem loadLanes_good {ea : Nat → Word} {l : List Nat} (h : ∀ i ∈ l, s.meetsBad s.cur.core (q i) n = false ∧ ∀ e x, q i ≠ .remote e x)
    (acc : List (Nat × W32)) :
    (l.map fun i => (i, q i)).foldl (fun (acc : List (Nat × W32) × State) (q : Nat × Place) =>
        ((acc.1 ++ [(q.1, BitVec.ofNat 32 (leNat (acc.2.loadChecked acc.2.cur (ea q.1) q.2 n).1))]),
          (acc.2.loadChecked acc.2.cur (ea q.1) q.2 n).2)) (acc, s)
      = (acc ++ l.map (fun i => (i, BitVec.ofNat 32 (leNat (s.loadBytes s.cur.core (q i) n)))), s) := by
  induction l generalizing acc with
  | nil => rw [List.map_nil, List.map_nil, List.append_nil]; rfl
  | cons i l ih =>
    obtain ⟨hb, hr⟩ := h i (List.mem_cons_self ..)
    rw [List.map_cons, List.foldl_cons, loadChecked_good hb hr, ih (fun j hj => h j (List.mem_cons_of_mem _ hj)), List.map_cons,
      List.append_assoc, List.singleton_append]

theorem exec_vldx {m : MaskCode} {d : RowCode} {sz : Elem} (h : ∀ i ∈ activeLanes (s.mask m),
      s.check s.cur (s.laneEa a b i) (elemBytes sz) (elemBytes sz) .read = .ok (q i)
        ∧ s.meetsBad s.cur.core (q i) (elemBytes sz) = false ∧ ∀ e x, q i ≠ .remote e x) :
    exec (.vldx m d sz a b) s = .next (s.rowInt m d fun i => Tbl.get ((activeLanes (s.mask m)).map fun i =>
      (i, BitVec.ofNat 32 (leNat (s.loadBytes s.cur.core (q i) (elemBytes sz))))) 0 i) := by
  change execVldx m d sz a b s = _
  unfold execVldx
  dsimp only
  rw [checkLanes_ok fun i hi => (h i hi).1]
  dsimp only
  rw [loadLanes_good (fun i hi => (h i hi).2) [], List.nil_append]
  rfl
theorem exec_vstx {m : MaskCode} {d : RowCode} {sz : Elem} (h : ∀ i ∈ activeLanes (s.mask m),
      s.check s.cur (s.laneEa a b i) (elemBytes sz) (elemBytes sz) .write = .ok (q i)) (hroom : s.storeFull s.cur = false) :
    exec (.vstx m d sz a b) s = .next ((((activeLanes (s.mask m)).foldl (fun u i => u.dirty (s.laneEa a b i)) s).pushStore s.cur
      ((activeLanes (s.mask m)).map fun i => (q i, leBytes (elemBytes sz) ((s.row d).lane i).toNat)) none).advance) := by
  change execVstx m d sz a b s = _
  unfold execVstx
  dsimp only
  rw [checkLanes_ok h]
  dsimp only
  rw [hroom, if_neg Bool.false_ne_true, List.foldl_map, List.map_map]
  rfl
end

/-- Settles O26: the lanes' checks are all passed, and the lanes are taken in order. -/
theorem gatherAndScatter : Obligations.GatherAndScatter := by
  unfold Obligations.GatherAndScatter
  intro m d sz a b s q
  refine ⟨fun h => ?_, fun h hroom => ?_⟩
  · refine ⟨_, exec_vldx fun i hi => h i (mem_activeLanes.mp hi).1 (mem_activeLanes.mp hi).2,
      wroteRow_congr (s.rowInt_wrote m d _) fun i hi hm => ?_⟩
    rw [Tbl.get_ofKeys _ _ (mem_activeLanes.mpr ⟨hi, hm⟩), leNat_eq_leValue]
  · exact ⟨_, exec_vstx (fun i hi => h i (mem_activeLanes.mp hi).1 (mem_activeLanes.mp hi).2) hroom, State.advance_wrote _⟩

end Sys2Proof.Machine
end

section
/-! SUPPORT. Atomic instructions (R140, R141, R160, R162, R163). -/

namespace Sys2Proof.Machine

open Sys2Proof Sys2Proof.Safety

/-! The thread that runs stays while stores are performed. -/

theorem coresKept_updStores (s : State) (c : Nat) (es : List StoreEnt) : CoresKept s (s.updCore c fun k => { k with stores := es }) :=
  coresKept_updCore (f := fun k => { k with stores := es }) (fun _ => rfl) s c
theorem coresKept_drainCore (s : State) (c : Nat) : CoresKept s (s.drainCore c) :=
  (coresKept_updStores s c []).trans (.foldl (fun t e => coresKept_perform t c e) _ (s.core c).stores)
theorem coresKept_drainOne (s : State) (c slot : Nat) : CoresKept s (s.drainOne c slot) := by
  unfold State.drainOne
  dsimp only
  split
  · exact .refl s
  · split
    · exact .refl s
    · split
      · exact (coresKept_updStores s c _).trans (.foldl (fun t e => coresKept_perform t c e) _ _)
      · exact (coresKept_updStores s c _).trans (coresKept_perform _ c _)
theorem coresKept_drainSlot (s : State) (c slot n : Nat) : CoresKept s (s.drainSlot c slot n) := by
  induction n generalizing s with
  | zero => exact .refl s
  | succ n ih => exact (coresKept_drainOne s c slot).trans (ih _)
theorem coresKept_atomicDrain (s : State) (p : Place) (n : Nat) (sc : Scope) (o : AOrd) : CoresKept s (s.atomicDrain p n sc o) := by
  unfold State.atomicDrain
  dsimp only
  split
  · exact coresKept_release s
  · split
    · exact coresKept_drainCore s _
    · exact coresKept_drainSlot s _ _ _
theorem coresKept_dirty (s : State) (ea : Word) : CoresKept s (s.dirty ea) := by
  unfold State.dirty
  split
  · exact coresKept_dirtyAt s _ _ _
  · exact .refl s

/-! The instructions (R140, R141). -/

/-- The state in which an atomic access takes place: what its order and scope put before it has been performed, and D is set. -/
def State.atomicBegun (s : State) (ea : Word) (p : Place) (n : Nat) (sc : Scope) (o : AOrd) : State :=
  ((if ordAcquires o then s.acquire sc else s).atomicDrain p n sc o).dirty ea
theorem cur_atomicBegun (s : State) (ea : Word) (p : Place) (n : Nat) (sc : Scope) (o : AOrd) : (s.atomicBegun ea p n sc o).cur = s.cur := by
  have hacq : CoresKept s (if ordAcquires o then s.acquire sc else s) := by
    split
    · exact coresKept_acquire s sc
    · exact .refl s
  exact ((hacq.trans (coresKept_atomicDrain _ p n sc o)).trans (coresKept_dirty _ ea)).cur

section
variable {d a b : Reg} {sc : Scope} {sz : WSize} {o : AOrd} {s : State} {p : Place} {fn : BitVec 4}
  (hc : s.check s.cur (s.reg a) (wsizeBytes sz) (wsizeBytes sz) .atomic = .ok p)
include hc

theorem atomicOp_here (hp : ∀ e x, p ≠ .remote e x) : s.atomicOp d a b fn sz sc o =
    let q := (s.atomicBegun (s.reg a) p (wsizeBytes sz) sc o).rmwRead s.cur (s.reg a) p (wsizeBytes sz)
    .next ((q.2.atomicWrite p (leBytes (wsizeBytes sz) ((atomicNew fn (sz == .d) (s.reg b) (s.reg d) (leValue q.1)).getD (leValue q.1)))
      sc o).put d (BitVec.ofNat 64 (leValue q.1))) := by
  simp only [← leNat_eq_leValue]
  unfold State.atomicOp
  dsimp only
  rw [access_ok hc]
  unfold State.atomicAt
  dsimp only
  rw [← State.atomicBegun, cur_atomicBegun]
  cases p with
  | remote e x => exact absurd rfl (hp e x)
  | loc x => rfl
  | hbm x => rfl
  | weight x => rfl
theorem atomicOp_away {e y : Nat} (hp : p = .remote e y) : s.atomicOp d a b fn sz sc o =
    let r := s.atomicBegun (s.reg a) p (wsizeBytes sz) sc o
    .next (({ r.fresh with outbox := r.outbox ++ [⟨some (s.cur, r.myCore.serial), 0x02, dieOf s.cur.core, e,
      .access y (.atomic fn (sz == .d) (s.reg b) (s.reg d))⟩] } : State).put d
      (BitVec.ofNat 64 (leValue (r.homeBytes s.cur.core p (wsizeBytes sz))))) := by
  subst hp
  have hcur := cur_atomicBegun s (s.reg a) (.remote e y) (wsizeBytes sz) sc o
  have hask := (s.atomicBegun (s.reg a) (.remote e y) (wsizeBytes sz) sc o).fresh.askOut_mine e y (.atomic fn (sz == .d) (s.reg b) (s.reg d))
  simp only [← leNat_eq_leValue]
  unfold State.atomicOp
  dsimp only
  rw [access_ok hc, State.atomicAt, ← State.atomicBegun, ← hcur]
  exact congrArg (fun u : State => Host.Outcome.next (u.put d _)) hask
end

/-! The new values (R140). -/

/-- One function of words of the access's own width gives the new value for both widths. -/
theorem atomicNew_pick (f : ∀ w, BitVec w → BitVec w → BitVec w) (sz : WSize) (old : Nat) (y : Word) :
    (if (sz == .d) = true then (f 64 (BitVec.ofNat 64 old) y).toNat else (f 32 (BitVec.ofNat 32 old) (y.setWidth 32)).toNat)
      = (f (8 * wsizeBytes sz) (BitVec.ofNat _ old) (BitVec.ofNat _ y.toNat)).toNat := by
  cases sz with
  | w => exact congrArg (fun z => (f 32 (BitVec.ofNat 32 old) z).toNat) (BitVec.ofNat_toNat ..).symm
  | d => exact congrArg (fun z => (f 64 (BitVec.ofNat 64 old) z).toNat) ((BitVec.ofNat_toNat 64 y).trans (BitVec.setWidth_eq y)).symm

/-- What a number of `w` bits stands for as a signed one. -/
def signedOf (w v : Nat) : Int := if v < 2 ^ (w - 1) then (v : Int) else (v : Int) - 2 ^ w
theorem toInt_ofNat_signed {w v : Nat} (hw : 0 < w) (hv : v < 2 ^ w) : (BitVec.ofNat w v).toInt = signedOf w v := by
  obtain ⟨w, rfl⟩ := Nat.exists_eq_succ_of_ne_zero hw.ne'
  rw [BitVec.toInt_eq_toNat_cond, BitVec.toNat_ofNat, Nat.mod_eq_of_lt hv, signedOf, Nat.succ_sub_one, Nat.pow_succ, Nat.cast_mul]
  have hiff : 2 * v < 2 ^ w * 2 ↔ v < 2 ^ w := by omega
  simp only [hiff]
  push_cast
  rfl

section
variable {w old x : Nat} (hold : old < 2 ^ w) (hx : x < 2 ^ w)
include hold hx

theorem toNat_minS (hw : 0 < w) :
    (minS (BitVec.ofNat w old) (BitVec.ofNat w x)).toNat = if signedOf w old < signedOf w x then old else x := by
  rw [minS, BitVec.slt_eq_decide, toInt_ofNat_signed hw hold, toInt_ofNat_signed hw hx]
  simp only [decide_eq_true_eq]
  split <;> simp [Nat.mod_eq_of_lt, *]
theorem toNat_maxS (hw : 0 < w) :
    (maxS (BitVec.ofNat w old) (BitVec.ofNat w x)).toNat = if signedOf w old < signedOf w x then x else old := by
  rw [maxS, BitVec.slt_eq_decide, toInt_ofNat_signed hw hold, toInt_ofNat_signed hw hx]
  simp only [decide_eq_true_eq]
  split <;> simp [Nat.mod_eq_of_lt, *]
theorem toNat_minU : (minU (BitVec.ofNat w old) (BitVec.ofNat w x)).toNat = min old x := by
  rw [minU, BitVec.ult_eq_decide, BitVec.toNat_ofNat, BitVec.toNat_ofNat, Nat.mod_eq_of_lt hold, Nat.mod_eq_of_lt hx]
  simp only [decide_eq_true_eq]
  split <;> simp [Nat.mod_eq_of_lt, *] <;> omega
theorem toNat_maxU : (maxU (BitVec.ofNat w old) (BitVec.ofNat w x)).toNat = max old x := by
  rw [maxU, BitVec.ult_eq_decide, BitVec.toNat_ofNat, BitVec.toNat_ofNat, Nat.mod_eq_of_lt hold, Nat.mod_eq_of_lt hx]
  simp only [decide_eq_true_eq]
  split <;> simp [Nat.mod_eq_of_lt, *] <;> omega
end

section
variable {sz : WSize} {old : Nat} {y z : Word} {fn : BitVec 4}

theorem ofNat_mod_width (w v : Nat) : BitVec.ofNat w (v % 2 ^ w) = BitVec.ofNat w v := BitVec.eq_of_toNat_eq (Nat.mod_mod ..)
theorem atomicNew_of (f : ∀ w, BitVec w → BitVec w → BitVec w) (hf : ∀ dword : Bool, atomicNew fn dword y z old = some
      (if dword = true then (f 64 (BitVec.ofNat 64 old) y).toNat else (f 32 (BitVec.ofNat 32 old) (y.setWidth 32)).toNat)) :
    (atomicNew fn (sz == .d) y z old).getD old
      = (f (8 * wsizeBytes sz) (BitVec.ofNat _ old) (BitVec.ofNat _ (y.toNat % 2 ^ (8 * wsizeBytes sz)))).toNat := by
  rw [hf, Option.getD_some, atomicNew_pick, ofNat_mod_width]

theorem toNat_ofNat_lt {w v : Nat} (h : v < 2 ^ w) : (BitVec.ofNat w v).toNat = v := Nat.mod_eq_of_lt h
theorem operand_lt : y.toNat % 2 ^ (8 * wsizeBytes sz) < 2 ^ (8 * wsizeBytes sz) := Nat.mod_lt _ (Nat.two_pow_pos _)
theorem width_pos : 0 < 8 * wsizeBytes sz := by cases sz <;> decide
theorem atomicNew_swap : (atomicNew 8 (sz == .d) y z old).getD old = y.toNat % 2 ^ (8 * wsizeBytes sz) := by
  rw [atomicNew_of (fun _ _ y => y) fun _ => rfl, toNat_ofNat_lt operand_lt]
theorem atomicNew_fadd (hsz : sz = .w) : (atomicNew 10 (sz == .d) y z old).getD old =
    (faddBits .rne (BitVec.ofNat 32 old) (BitVec.ofNat 32 (y.toNat % 2 ^ (8 * wsizeBytes sz)))).1.toNat := by
  subst hsz
  change _ = (faddBits .rne (BitVec.ofNat 32 old) (BitVec.ofNat 32 (y.toNat % 2 ^ 32))).1.toNat
  rw [ofNat_mod_width, BitVec.ofNat_toNat]
  rfl

variable (h : old < 2 ^ (8 * wsizeBytes sz))
include h

theorem atomicNew_add : (atomicNew 0 (sz == .d) y z old).getD old = (old + y.toNat % 2 ^ (8 * wsizeBytes sz)) % 2 ^ (8 * wsizeBytes sz) := by
  rw [atomicNew_of (fun _ => (· + ·)) fun _ => rfl, BitVec.toNat_add, toNat_ofNat_lt h, toNat_ofNat_lt operand_lt]
theorem atomicNew_and : (atomicNew 1 (sz == .d) y z old).getD old = old &&& (y.toNat % 2 ^ (8 * wsizeBytes sz)) := by
  rw [atomicNew_of (fun _ => (· &&& ·)) fun _ => rfl, BitVec.toNat_and, toNat_ofNat_lt h, toNat_ofNat_lt operand_lt]
theorem atomicNew_or : (atomicNew 2 (sz == .d) y z old).getD old = old ||| (y.toNat % 2 ^ (8 * wsizeBytes sz)) := by
  rw [atomicNew_of (fun _ => (· ||| ·)) fun _ => rfl, BitVec.toNat_or, toNat_ofNat_lt h, toNat_ofNat_lt operand_lt]
theorem atomicNew_xor : (atomicNew 3 (sz == .d) y z old).getD old = old ^^^ (y.toNat % 2 ^ (8 * wsizeBytes sz)) := by
  rw [atomicNew_of (fun _ => (· ^^^ ·)) fun _ => rfl, BitVec.toNat_xor, toNat_ofNat_lt h, toNat_ofNat_lt operand_lt]
theorem atomicNew_min : (atomicNew 4 (sz == .d) y z old).getD old =
    if signedOf (8 * wsizeBytes sz) old < signedOf (8 * wsizeBytes sz) (y.toNat % 2 ^ (8 * wsizeBytes sz)) then old
    else y.toNat % 2 ^ (8 * wsizeBytes sz) := by
  rw [atomicNew_of (fun _ => minS) fun _ => rfl, toNat_minS h operand_lt width_pos]
theorem atomicNew_max : (atomicNew 5 (sz == .d) y z old).getD old =
    if signedOf (8 * wsizeBytes sz) old < signedOf (8 * wsizeBytes sz) (y.toNat % 2 ^ (8 * wsizeBytes sz))
    then y.toNat % 2 ^ (8 * wsizeBytes sz) else old := by
  rw [atomicNew_of (fun _ => maxS) fun _ => rfl, toNat_maxS h operand_lt width_pos]
theorem atomicNew_minu : (atomicNew 6 (sz == .d) y z old).getD old = min old (y.toNat % 2 ^ (8 * wsizeBytes sz)) := by
  rw [atomicNew_of (fun _ => minU) fun _ => rfl, toNat_minU h operand_lt]
theorem atomicNew_maxu : (atomicNew 7 (sz == .d) y z old).getD old = max old (y.toNat % 2 ^ (8 * wsizeBytes sz)) := by
  rw [atomicNew_of (fun _ => maxU) fun _ => rfl, toNat_maxU h operand_lt]
theorem atomicNew_cas : (atomicNew 9 (sz == .d) y z old).getD old =
    if old = z.toNat % 2 ^ (8 * wsizeBytes sz) then y.toNat % 2 ^ (8 * wsizeBytes sz) else old := by
  have heq : BitVec.ofNat (8 * wsizeBytes sz) old = BitVec.ofNat _ z.toNat ↔ old = z.toNat % 2 ^ (8 * wsizeBytes sz) := by
    rw [← BitVec.toNat_inj, toNat_ofNat_lt h, BitVec.toNat_ofNat]
  rw [atomicNew_of (fun w x y => if x = BitVec.ofNat w z.toNat then y else x) fun dword => ?_]
  · simp only [heq, apply_ite BitVec.toNat, toNat_ofNat_lt h, toNat_ofNat_lt operand_lt]
  · have h64 : BitVec.ofNat 64 z.toNat = z := (BitVec.ofNat_toNat 64 z).trans (BitVec.setWidth_eq z)
    simp only [h64, BitVec.ofNat_toNat]
    rfl
end

/-! The order of one location, and who sees a write (R133, R160, R162, R163). -/

section
variable {s : State} {t : ThreadId} {ea : Word} {p : Place} {n : Nat}

theorem rmwRead_good (h : s.badAt t.core p n = false) : s.rmwRead t ea p n = (s.homeBytes t.core p n, s) := by
  rw [State.rmwRead, if_neg (by rw [h]; exact Bool.false_ne_true)]
theorem rmwRead_bad (h : s.badAt t.core p n = true) :
    s.rmwRead t ea p n = (List.replicate n 0, s.reportError t ea p (s.badWords p n)) := by
  rw [State.rmwRead, if_pos h]
theorem rmwRead_length : (s.rmwRead t ea p n).1.length = n := by
  unfold State.rmwRead
  split <;> simp [State.homeBytes]
end

theorem hbmByte_current {s : State} {d a : Nat} (h : ∀ e ∈ s.stale, e.die = d → e.addr ≠ a) : s.hbmByte d a = s.hbm.byte a := by
  have hnone : s.stale.find? (fun e => e.die == d && e.addr == a) = none := by
    rw [List.find?_eq_none]
    intro e he hq
    simp only [Bool.and_eq_true, beq_iff_eq] at hq
    exact h e he hq.1 hq.2
  rw [State.hbmByte, hnone]
theorem touches_written {x n i : Nat} (h : i < n) : touches x n (x + i) = true := by
  simp only [touches, Bool.and_eq_true, decide_eq_true_eq]
  omega
/-- A write of the device's order is seen by every die. -/
theorem hbmByte_writeAt (s : State) (c x d : Nat) {i : Nat} {bs : List Byte} (h : i < bs.length) :
    (s.writeAt c (.hbm x) bs).hbmByte d (x + i) = (s.writeAt c (.hbm x) bs).hbm.byte (x + i) := by
  refine hbmByte_current fun e he _ ha => ?_
  have hno := (List.mem_filter.mp he).2
  rw [ha, touches_written h] at hno
  exact absurd hno (by decide)
/-- A write is seen by its own die. -/
theorem hbmByte_performPlain (s : State) (t : ThreadId) (m x : Nat) {i : Nat} {bs : List Byte} (h : i < bs.length) :
    (s.performPlain t m (.hbm x) bs).hbmByte (dieOf t.core) (x + i) = (s.performPlain t m (.hbm x) bs).hbm.byte (x + i) := by
  refine hbmByte_current fun e he hd ha => ?_
  rcases List.mem_append.mp he with he | he
  · have hno := (List.mem_filter.mp he).2
    rw [ha, hd, touches_written h] at hno
    simp at hno
  · obtain ⟨d, hdie, he⟩ := List.mem_flatMap.mp he
    obtain ⟨j, -, rfl⟩ := List.mem_map.mp he
    exact absurd hd (by simpa using (List.mem_filter.mp hdie).2)

section
variable {s : State} {p : Place} {bs : List Byte} {sc : Scope} {o : AOrd}

/-- An atomic write is a write at its place, at once or under the thread's next number. -/
theorem atomicWrite_wide (h : ordReleases o = true) (hs : 4 ≤ Machine.scopeCode sc) : s.atomicWrite p bs sc o = s.writeAt s.cur.core p bs :=
  if_pos ⟨h, hs⟩
theorem atomicWrite_narrow (h : ¬ (ordReleases o = true ∧ 4 ≤ Machine.scopeCode sc)) : s.atomicWrite p bs sc o =
    (s.updMyCore (fun k => { k with serial := s.myCore.serial + 1 })).performPlain s.cur s.myCore.serial p bs := if_neg h

theorem memByte_updSerial (s : State) (c m : Nat) (p : Place) (bs : List Byte) (d : Nat) {q : Place} (hq : ∀ e x, q ≠ .remote e x) :
    ((s.updCore c fun k => { k with serial := m }).writeAt c p bs).memByte d q = (s.writeAt c p bs).memByte d q := by
  have hu : ∀ d, ((s.updCore c fun k => { k with serial := m }).core d).mem = (s.core d).mem := fun d => by
    rw [State.core_updCore]
    split
    · next h => rw [h]
    · rfl
  refine (memByte_of_mem (fun d => ?_) ?_ ?_ d q).resolve_right fun ⟨e, x, h⟩ => hq e x h
  · cases p with
    | loc a =>
      simp only [State.writeAt, State.core_updCore]
      split <;> simp
    | hbm a => exact hu d
    | weight a => exact hu d
    | remote e x => exact hu d
  · cases p <;> rfl
  · cases p <;> rfl
theorem memByte_atomicWrite (s : State) (d : Nat) {q : Place} (hq : ∀ e x, q ≠ .remote e x) :
    (s.atomicWrite p bs sc o).memByte d q = (s.writeAt s.cur.core p bs).memByte d q := by
  by_cases h : ordReleases o = true ∧ 4 ≤ Machine.scopeCode sc
  · rw [atomicWrite_wide h.1 h.2]
  · rw [atomicWrite_narrow h, memByte_performPlain]
    exact memByte_updSerial s s.cur.core _ p bs d hq
theorem memByte_writeAt_other (s : State) {c k x : Nat} (h : k ≠ c) : (s.writeAt c p bs).memByte k (.loc x) = s.memByte k (.loc x) := by
  cases p with
  | loc a =>
    rw [memByte_loc, State.writeAt, State.core_updCore, if_neg h]
    rfl
  | hbm a => rfl
  | weight a => rfl
  | remote e a => rfl
/-- What was ordered before an atomic of release order has left the buffers. -/
theorem stores_atomicDrain (s : State) (n : Nat) (ho : ordReleases o = true) (hs : 1 ≤ Machine.scopeCode sc) :
    ((s.atomicDrain p n sc o).core s.cur.core).stores = [] := by
  have hwide : (ordReleases o && decide (1 ≤ Machine.scopeCode sc)) = true := by simp [ho, hs]
  unfold State.atomicDrain
  dsimp only
  rw [hwide, Bool.true_and, Bool.true_or, if_pos rfl]
  split
  · exact stores_drainCore s s.cur.core
  · exact stores_drainCore s s.cur.core
end

/-- Settles O25: every instruction is the one access with its function; the write is one at its place. -/
theorem atomics : Obligations.Atomics := by
  unfold Obligations.Atomics
  refine ⟨fun d a b sc sz o s p hc => ?_, fun s p n bs sc o ea hp hok => ?_⟩
  · intro r x sg
    refine ⟨fun hp => ?_, fun e y hp => ?_⟩
    · intro q old does
      have hold : old < 2 ^ (8 * wsizeBytes sz) := leValue_lt rmwRead_length
      have hdoes : ∀ {i : Instr} {fn : BitVec 4} {v : Nat}, exec i s = s.atomicOp d a b fn sz sc o →
          (atomicNew fn (sz == .d) (s.reg b) (s.reg d) old).getD old = v → does i v := fun hi hv => by
        subst hv
        exact ⟨_, hi.trans (atomicOp_here hc hp), State.put_wrote ..⟩
      exact ⟨hdoes rfl (atomicNew_add hold), hdoes rfl (atomicNew_and hold), hdoes rfl (atomicNew_or hold), hdoes rfl (atomicNew_xor hold),
        hdoes rfl (atomicNew_min hold), hdoes rfl (atomicNew_max hold), hdoes rfl (atomicNew_minu hold), hdoes rfl (atomicNew_maxu hold),
        hdoes rfl atomicNew_swap, hdoes rfl (atomicNew_cas hold), fun hsz => hdoes (by subst hsz; rfl) (atomicNew_fadd hsz)⟩
    · intro away
      have haway : ∀ {i : Instr} {fn : BitVec 4}, exec i s = s.atomicOp d a b fn sz sc o → away i fn := fun hi =>
        ⟨_, hi.trans (atomicOp_away hc hp), State.put_wrote ..⟩
      exact ⟨haway rfl, haway rfl, haway rfl, haway rfl, haway rfl, haway rfl, haway rfl, haway rfl, haway rfl, haway rfl,
        fun hsz => haway (by subst hsz; rfl)⟩
  · intro c t
    refine ⟨rmwRead_good, rmwRead_bad, fun x hx => ?_, fun k x hk => ?_, fun x i hx hi => ?_, stores_atomicDrain s n⟩
    · rw [memByte_atomicWrite s c hx]
      exact memByte_writeAt hok c (p, bs) hx
    · rw [memByte_atomicWrite (q := .loc x) s k nofun]
      exact memByte_writeAt_other s hk
    · subst hx
      by_cases h : ordReleases o = true ∧ 4 ≤ Machine.scopeCode sc
      · have ht : t = s.writeAt c (.hbm x) bs := atomicWrite_wide h.1 h.2
        rw [ht]
        exact ⟨hbmByte_writeAt s c x _ hi, fun _ _ d => hbmByte_writeAt s c x d hi⟩
      · have ht : t = _ := atomicWrite_narrow h
        rw [ht]
        exact ⟨hbmByte_performPlain _ s.cur _ x hi, fun ho hs => absurd ⟨ho, hs⟩ h⟩

end Sys2Proof.Machine
end

section
/-! SUPPORT. The copy engine (R144-R152). -/

namespace Sys2Proof.Machine

open Sys2Proof Sys2Proof.Safety

/-! CPY, CWAIT and CSTAT (R146, R148-R150). -/

theorem updMyCore_updMyCore (s : State) (f g : Core → Core) : (s.updMyCore f).updMyCore g = s.updMyCore fun k => g (f k) := by
  have hcore : (s.updMyCore f).core s.cur.core = f s.myCore := by rw [State.updMyCore, State.core_updCore, if_pos rfl]; rfl
  change ({ s.updMyCore f with cores := (s.cores.set s.cur.core (f s.myCore)).set s.cur.core (g ((s.updMyCore f).core s.cur.core)) } : State) = _
  rw [hcore, Tbl.set_set]
  rfl

/-- What CPY has the engine take: the copy stands at the end of the queue, and its ranges are locked (R146, R156). -/
def Core.takeCopy (k : Core) (c : Copy) : Core :=
  let k := { k with copies := k.copies ++ [c], serial := k.serial + 1, rangeNext := k.rangeNext + 1 }
  let k := if c.mode = 5 then k else k.addRange false c.srcExtent.1.toNat c.srcExtent.2.toNat c.rangeId
  k.addRange true c.dstExtent.1.toNat c.dstExtent.2.toNat c.rangeId
theorem updMyCore_takeCopy (s : State) (c : Copy) : s.updMyCore (·.takeCopy c) =
    let u := s.updMyCore (fun k => { k with copies := k.copies ++ [c], serial := k.serial + 1, rangeNext := k.rangeNext + 1 })
    let v := if c.mode = 5 then u else u.updMyCore (fun k => k.addRange false c.srcExtent.1.toNat c.srcExtent.2.toNat c.rangeId)
    v.updMyCore (fun k => k.addRange true c.dstExtent.1.toNat c.dstExtent.2.toNat c.rangeId) := by
  unfold Core.takeCopy
  dsimp only
  split
  · rw [updMyCore_updMyCore]
  · rw [updMyCore_updMyCore, updMyCore_updMyCore]

section
variable {d : Reg} {s : State} {c : Copy} {tag : W32} (htag : nextTag s.me.copyTag = tag)
  (hc : s.me.copyOf s.cur.slot tag (8 + s.myCore.rangeNext) s.myCore.serial = c)
include htag hc

theorem exec_cpy_priv (hm : c.mode = 3 ∨ c.mode = 4) (hs : s.me.sup = false) :
    exec (.cpy d) s = .next (s.trap 16 ((wordOf (.cpy d)).setWidth 64)) := by
  change execCpy d s = _
  unfold execCpy
  dsimp only
  rw [htag, hc, if_pos ⟨hm, by rw [hs]; exact Bool.false_ne_true⟩]
  rfl
theorem exec_cpy_refused (hm : c.mode = 3 ∨ c.mode = 4 → s.me.sup = true) (hr : s.myCore.copyRefused c = true) :
    exec (.cpy d) s = .next (s.put d 0) := by
  change execCpy d s = _
  unfold execCpy
  dsimp only
  rw [htag, hc, if_neg fun h => h.2 (hm h.1), if_pos hr]
theorem exec_cpy_taken (hm : c.mode = 3 ∨ c.mode = 4 → s.me.sup = true) (hr : s.myCore.copyRefused c = false)
    (hroom : s.myCore.copies.length < 3) (hranges : (if c.mode = 5 then 1 else 2) ≤ s.myCore.freeRanges) :
    let st : CopyState := if s.myCore.copies.isEmpty then .running else .queued
    exec (.cpy d) s = .next (((s.release.updMyCore (·.takeCopy c)).updMe
      fun x => { x with copyTag := tag, copyRecs := keepRecs (x.copyRecs ++ [⟨tag, st, 0, 0⟩]) }).put d (tag.setWidth 64)) := by
  have hfull : ¬ s.myCore.copyFull = true := by
    rw [Core.copyFull, decide_eq_true_eq]
    omega
  change execCpy d s = _
  unfold execCpy
  dsimp only
  rw [htag, hc, if_neg fun h => h.2 (hm h.1), if_neg (by rw [hr]; exact Bool.false_ne_true), if_neg hfull, if_neg (not_lt.mpr hranges)]
  rfl
end

section
variable {d a : Reg} {s : State} {l : W32}

theorem exec_cwait_unknown (h : s.me.covers (s.reg a) = none) : exec (.cwait d a) s = .next (s.put d 1) := by
  change execCwait d a s = _
  unfold execCwait
  dsimp only
  rw [h]
theorem exec_cwait_busy (h : s.me.covers (s.reg a) = some l) (hb : s.me.copiesBusy l = true) :
    exec (.cwait d a) s = .next (s.wait (.copies l) (.cwait d a)) := by
  change execCwait d a s = _
  unfold execCwait
  dsimp only
  rw [h]
  exact congrArg _ (if_pos hb)
theorem exec_cwait_done (h : s.me.covers (s.reg a) = some l) (hb : s.me.copiesBusy l = false)
    (hf : s.me.copyRecs.find? (fun r => s.me.covered l r && r.state.isFailed) = none) : exec (.cwait d a) s = .next (s.put d 0) := by
  change execCwait d a s = _
  unfold execCwait
  dsimp only
  rw [h]
  dsimp only
  rw [hb, if_neg Bool.false_ne_true, hf]
theorem exec_cwait_failed {r : CopyRec} {e : Nat} {v : Word} (h : s.me.covers (s.reg a) = some l) (hb : s.me.copiesBusy l = false)
    (hf : s.me.copyRecs.find? (fun r => s.me.covered l r && r.state.isFailed) = some r) (hr : r.state = .failed e v) :
    exec (.cwait d a) s = .next ((s.updMe (fun x => { x with copyRecs := x.copyRecs.map (fun q =>
      if q.tag = r.tag then { q with state := .done } else q) })).trap e v) := by
  change execCwait d a s = _
  unfold execCwait
  dsimp only
  rw [h]
  dsimp only
  rw [hb, if_neg Bool.false_ne_true, hf]
  dsimp only
  rw [hr]
end

/-! A unit of the head copy (R151, R152). -/

/-- What an update of a thread leaves of the copies and the locked ranges of the cores. -/
theorem copying_updThread (s : State) (t : ThreadId) (f : Thread → Thread) (d : Nat) :
    ((s.updThread t f).core d).copies = (s.core d).copies ∧ ((s.updThread t f).core d).ranges = (s.core d).ranges := by
  rw [State.updThread, State.setThread, State.core_updCore]
  split
  · next h =>
    rw [h]
    exact ⟨rfl, rfl⟩
  · exact ⟨rfl, rfl⟩
theorem copying_updRec (s : State) (core : Nat) (c : Copy) (f : CopyRec → CopyRec) (d : Nat) :
    ((s.updRec core c f).core d).copies = (s.core d).copies ∧ ((s.updRec core c f).core d).ranges = (s.core d).ranges := by
  unfold State.updRec
  split
  · exact copying_updThread s _ _ d
  · exact ⟨rfl, rfl⟩
theorem copies_of_rest {k j : Core} (h : coreRest j = coreRest k) : j.copies = k.copies := (congrArg (fun k : Core => k.copies) h :)
theorem copies_countZeroed (s : State) (c n d : Nat) : ((s.countZeroed c n).core d).copies = (s.core d).copies := by
  change ((s.hpm c 0x14 n).core d).copies = _
  rw [State.hpm, State.core_updCore]
  split
  · next h =>
    rw [h]
    exact copies_of_rest (Core.hpm_rest ..)
  · rfl
theorem endCopy_ended (s : State) (core : Nat) (c : Copy) (st : CopyState) : ((s.endCopy core c st).core core).copies = (s.core core).copies.drop 1
    ∧ ∀ r ∈ ((s.endCopy core c st).core core).ranges, r.id ≠ c.rangeId := by
  unfold State.endCopy
  extract_lets s1 s2 s3
  have h2 : (s2.core core).copies = (s.core core).copies.drop 1 ∧ ∀ r ∈ (s2.core core).ranges, r.id ≠ c.rangeId := by
    rw [State.core_updCore, if_pos rfl]
    refine ⟨congrArg (List.drop 1) (copying_updRec s core c _ core).1, fun r hr => ?_⟩
    simpa using (List.mem_filter.mp hr).2
  have h3 : (s3.core core).copies = (s2.core core).copies ∧ (s3.core core).ranges = (s2.core core).ranges := by
    unfold s3
    split
    · exact copying_updThread s2 _ _ core
    · exact ⟨rfl, rfl⟩
  rw [← h3.1, ← h3.2] at h2
  split
  · exact h2
  · obtain ⟨hcopies, hranges⟩ := copying_updRec s3 core _ _ core
    rw [hcopies, hranges]
    exact h2

/-! The units themselves. -/

section
variable (s : State) (core : Nat)

theorem coresKept_dirtySpan (ctx : Nat) (va : Word) (n : Nat) : CoresKept s (s.dirtySpan core ctx va n) := by
  unfold State.dirtySpan
  split
  · exact .foldl (fun t p => coresKept_dirtyAt t _ _ _) s _
  · exact .refl s
theorem coresKept_writeSpan (l : List (Place × Nat)) (bs : List Byte) : CoresKept s (s.writeSpan core l bs) :=
  foldl_keeps (P := fun acc : State × List Byte => CoresKept s acc.1) (fun acc _ _ h => h.trans (coresKept_writeAt acc.1 core _ _)) (s, bs) (.refl s)

/-- What a unit reads, dirties and writes, before it is counted. -/
def State.unitDone (c : Copy) (u : Unit) : State :=
  let t := u.through.foldl (fun t v => t.dirtySpan core (s.coreCtx core) v.1 v.2) (s.readBy core u.reads)
  s.sentBy (some (⟨core, c.slot⟩, c.serial)) 0x08 (u.writes.foldl (fun t w => t.writeSpan core w.1 w.2) t)
theorem coresKept_unitDone (c : Copy) (u : Unit) : CoresKept s (s.unitDone core c u) := by
  have hdirty : CoresKept s (u.through.foldl (fun t v => t.dirtySpan core (s.coreCtx core) v.1 v.2) (s.readBy core u.reads)) :=
    (coresKept_readBy s core _).trans (.foldl (fun t v => coresKept_dirtySpan t core _ _ _) _ _)
  have hw := hdirty.trans (.foldl (fun t w => coresKept_writeSpan t core w.1 w.2) _ u.writes)
  exact ⟨hw.cur, hw.core⟩
/-- The unit is counted: events, lifetime counts and the copy's record. -/
def State.unitCounted (c : Copy) (u : Unit) : State :=
  ((s.unitDone core c u).countZeroed core u.zeroed).updRec core c fun r =>
    { r with state := .running, zeroed := r.zeroed + u.zeroed, written := r.written + u.bytes }
theorem copies_unitCounted (c : Copy) (u : Unit) : ((s.unitCounted core c u).core core).copies = (s.core core).copies := by
  rw [State.unitCounted, (copying_updRec ..).1, copies_countZeroed]
  exact (congrArg (fun k : Core => k.copies) ((coresKept_unitDone s core c u).core core) :)
/-- After its last unit the copy ends; a compression has then written its map. -/
def State.unitLast (c : Copy) (u : Unit) : State :=
  (if c.mode = 3 then (s.unitCounted core c u).updRec core c (fun r => { r with written := r.written + 128 }) else s.unitCounted core c u).endCopy
    core c .done
end

section
variable {s : State} {core : Nat} {c : Copy} {q : List Copy} {u : Unit}
  (hc : (s.core core).copies = c :: q) (hheld : c.held = false) (hu : s.copyUnit core (s.coreCtx core) c = .ok u)
include hc hheld hu

theorem exec_copyUnitDone : exec (.copyUnitDone core) s = .next
    (if u.next.row < c.rows then (s.unitCounted core c u).setHeadCopy core u.next else s.unitLast core c u) := by
  change execCopyUnitDone core s = _
  unfold execCopyUnitDone
  rw [hc]
  dsimp only
  rw [hheld, if_neg Bool.false_ne_true, hu]
  rfl
end

section
variable {s : State} {core : Nat} {c : Copy} {q : List Copy} {u : Unit} (hc : (s.core core).copies = c :: q)
include hc

theorem copies_setHeadCopy : (((s.unitCounted core c u).setHeadCopy core u.next).core core).copies = u.next :: q := by
  rw [State.setHeadCopy, State.core_updCore, if_pos rfl, copies_unitCounted, hc]
  rfl
theorem unitLast_ended : ((s.unitLast core c u).core core).copies = q ∧ ∀ r ∈ ((s.unitLast core c u).core core).ranges, r.id ≠ c.rangeId := by
  unfold State.unitLast
  refine ⟨(endCopy_ended ..).1.trans ?_, (endCopy_ended ..).2⟩
  rw [apply_ite (fun t : State => (t.core core).copies), (copying_updRec ..).1, ite_self, copies_unitCounted, hc]
  rfl
end

/-! The bytes of a plain unit (R145). -/

theorem loadsKept_updRec (s : State) (core : Nat) (c : Copy) (f : CopyRec → CopyRec) : LoadsKept s (s.updRec core c f) := by
  unfold State.updRec
  split
  · exact loadsKept_updThread s _ _
  · exact ⟨fun _ => ⟨rfl, rfl⟩, rfl, rfl, rfl, rfl⟩
theorem loadsKept_countZeroed (s : State) (c n : Nat) : LoadsKept s (s.countZeroed c n) := by
  have h := loadsKept_updCore s c (f := (·.hpm 0x14 n)) ⟨Core.hpm_mem .., Core.hpm_stores ..⟩
  exact ⟨h.cores, h.hbm, h.weight, h.stale, h.free⟩
theorem loadsKept_unitCounted (s : State) (core : Nat) (c : Copy) (u : Unit) : LoadsKept (s.unitDone core c u) (s.unitCounted core c u) :=
  (loadsKept_countZeroed ..).trans (loadsKept_updRec ..)
theorem loadsKept_setHeadCopy (s : State) (core : Nat) (c : Copy) : LoadsKept s (s.setHeadCopy core c) :=
  loadsKept_updCore s core (f := fun k => { k with copies := c :: k.copies.drop 1 }) ⟨rfl, rfl⟩
theorem loadsKept_endCopy (s : State) (core : Nat) (c : Copy) (st : CopyState) : LoadsKept s (s.endCopy core c st) := by
  unfold State.endCopy
  extract_lets s1 s2 s3
  have h1 : LoadsKept s s1 := loadsKept_updRec ..
  have h2 : LoadsKept s s2 := h1.trans (loadsKept_updCore s1 core ⟨rfl, rfl⟩)
  have h3 : LoadsKept s s3 := by
    unfold s3
    split
    · exact h2.trans (loadsKept_updThread ..)
    · exact h2
  split
  · exact h3
  · exact h3.trans (loadsKept_updRec ..)
theorem loadsKept_unitLast (s : State) (core : Nat) (c : Copy) (u : Unit) : LoadsKept (s.unitDone core c u) (s.unitLast core c u) := by
  unfold State.unitLast
  split
  · exact ((loadsKept_unitCounted ..).trans (loadsKept_updRec ..)).trans (loadsKept_endCopy ..)
  · exact (loadsKept_unitCounted ..).trans (loadsKept_endCopy ..)
theorem LoadsKept.memByte {s t : State} (h : LoadsKept s t) (d : Nat) {p : Place} (hp : ∀ e x, p ≠ .remote e x) : t.memByte d p = s.memByte d p :=
  (memByte_of_mem (fun c => (h.cores c).1) h.hbm h.weight d p).resolve_right fun ⟨e, x, he⟩ => hp e x he

section
variable {s : State} {core : Nat} {c : Copy}

theorem spanBytes_one (p : Place) (n : Nat) : s.spanBytes core [(p, n)] = s.engineBytes core p n := List.flatMap_singleton ..
theorem writeSpan_one (p : Place) {n : Nat} {bs : List Byte} (h : bs.length = n) : s.writeSpan core [(p, n)] bs = s.writeAt core p bs := by
  change s.writeAt core p (bs.take n) = _
  rw [← h, List.take_length]
theorem plus_ne_remote {p : Place} (h : ∀ d x, p ≠ .remote d x) (k : Nat) : ∀ d x, p.plus k ≠ .remote d x := fun d x he => by
  cases p with
  | remote e y => exact h e y rfl
  | loc o => exact nomatch he
  | hbm a => exact nomatch he
  | weight a => exact nomatch he

/-- The unit of a plain copy from one place to another. -/
def Copy.plainUnit (c : Copy) (n : Nat) (src dst : Place) (bs : List Byte) : Unit :=
  ⟨[(src, n)], [([(dst, n)], bs)], [(c.dstAt c.srcOff, n)], c.step (c.srcOff + n == c.len) (c.srcOff + n) (c.srcOff + n), 0, n⟩
variable {src dst : Place} {n : Nat}
theorem copyUnit_plain (hm : c.mode = 0)
    (hn : n = min (min (c.len - c.srcOff) (pageLeft (c.srcAt c.srcOff))) (pageLeft (c.dstAt c.srcOff)))
    (hr : s.engineSpan core (s.coreCtx core) c.user .copyRead (c.srcAt c.srcOff) n = .ok [(src, n)])
    (hw : s.engineSpan core (s.coreCtx core) c.user .copyWrite (c.dstAt c.srcOff) n = .ok [(dst, n)]) :
    s.copyUnit core (s.coreCtx core) c = .ok (c.plainUnit n src dst (s.engineBytes core src n)) := by
  unfold State.copyUnit
  rw [hm, if_neg (by decide), if_neg (by decide), if_neg (by decide), if_neg (by decide), State.unitPlain, hm]
  dsimp only
  rw [if_neg (by decide), if_neg (by decide), ← hn, State.srcSpan, hr]
  dsimp only
  rw [State.dstSpan, hw, spanBytes_one]
  rfl
/-- Its bytes arrive, whatever the leaves of its pages are. -/
theorem memByte_unitDone (h : MemOk s) (hdst : ∀ d x, dst ≠ .remote d x) {i : Nat} (hi : i < n) :
    (s.unitDone core c (c.plainUnit n src dst (s.engineBytes core src n))).memByte core (dst.plus i) = s.dieByte core (src.plus i) := by
  have hlen : (s.engineBytes core src n).length = n := by simp [State.engineBytes]
  let t := (s.readBy core [(src, n)]).dirtySpan core (s.coreCtx core) (c.dstAt c.srcOff) n
  have ht : MemOk t := memOk_dirtySpan (memOk_readBy h)
  have hdone : (s.unitDone core c (c.plainUnit n src dst (s.engineBytes core src n))).memByte core (dst.plus i)
      = (t.writeSpan core [(dst, n)] (s.engineBytes core src n)).memByte core (dst.plus i) := by
    cases hp : dst.plus i with
    | remote e y => exact absurd hp (plus_ne_remote hdst i e y)
    | loc o => rfl
    | hbm a => rfl
    | weight a => rfl
  rw [hdone, writeSpan_one dst hlen, memByte_writeAt ht core (dst, s.engineBytes core src n) (plus_ne_remote hdst i),
    writeCovers_plus _ _ (hlen.symm ▸ hi)]
  simp [State.engineBytes]
end

end Sys2Proof.Machine
end

section
/-! SUPPORT. The indirect streams (R153-R155). -/

namespace Sys2Proof.Machine

open Sys2Proof Sys2Proof.Safety

/-! SOPEN, SPOP and SPUSH (R155). -/

section
variable {d a b : Reg} {s : State} {n : Nat} {x y : Strm} (hn : strmId (s.reg a) = n)
include hn

section
variable (hy : s.myCore.strmOf n s.cur.slot (!s.me.sup) = y)
include hy

theorem exec_sopen_bad (hb : y.bad = true) : exec (.sopen d a) s = .next (s.put d 1) := by
  change execSopen d a s = _
  unfold execSopen
  dsimp only
  rw [hn, hy, if_pos hb]
theorem exec_sopen_again (hb : y.bad = false) (ho : (s.myCore.strm n).isOpen = true) : exec (.sopen d a) s = .next (s.put d 2) := by
  change execSopen d a s = _
  unfold execSopen
  dsimp only
  rw [hn, hy, if_neg (by rw [hb]; exact Bool.false_ne_true), if_pos ho]

/-- The first byte of the indices that the protection unit refuses the thread. -/
def State.indexRefused (s : State) (y : Strm) : Option Nat :=
  if localBase.toNat ≤ y.bbase.toNat then s.myCore.protRefused y.user y.bbase.toNat (4 * y.count) true false else none
variable (hb : y.bad = false) (ho : (s.myCore.strm n).isOpen = false) (hops : (s.myCore.strm n).ops = [])
include hb ho hops

theorem exec_sopen_checked : exec (.sopen d a) s = .next (match s.indexRefused y with
    | some v => s.trap 3 (BitVec.ofNat 64 v)
    | none => (s.release.updMyCore (fun k => { k.setStrm n y with serial := k.serial + 1 })).put d 0) := by
  change execSopen d a s = _
  unfold execSopen
  dsimp only
  rw [hn, hy, if_neg (by rw [hb]; exact Bool.false_ne_true), if_neg (by rw [ho]; exact Bool.false_ne_true), hops]
  rfl
theorem exec_sopen_refused {v : Nat} (hv : s.indexRefused y = some v) : exec (.sopen d a) s = .next (s.trap 3 (BitVec.ofNat 64 v)) := by
  rw [exec_sopen_checked hn hy hb ho hops, hv]
theorem exec_sopen_opened (hv : s.indexRefused y = none) :
    exec (.sopen d a) s = .next ((s.release.updMyCore (fun k => { k.setStrm n y with serial := k.serial + 1 })).put d 0) := by
  rw [exec_sopen_checked hn hy hb ho hops, hv]
end

variable (hx : s.myCore.strm n = x)
include hx

theorem exec_spop_none (h : x.isOpen = false ∨ x.scatter = true) : exec (.spop d a b) s = .next (s.put d 0) := by
  change execSpop d a b s = _
  unfold execSpop
  dsimp only
  rw [hn, hx, if_pos (by rcases h with h | h <;> simp [h])]
theorem exec_spush_none (h : x.isOpen = false ∨ x.scatter = false) : exec (.spush d a b) s = .next (s.put d 0) := by
  change execSpush d a b s = _
  unfold execSpush
  dsimp only
  rw [hn, hx, if_pos (by rcases h with h | h <;> simp [h])]

section
variable (ho : x.isOpen = true) (hg : x.scatter = false) (hroom : x.ops.length < 3)
include ho hg hroom

/-- A gather with all its elements there is carried out at once. -/
theorem exec_spop_now (hk : x.take ≤ x.fetched.length) : exec (.spop d a b) s = .next
    (((s.setRow ((s.reg b).setWidth 7) (Row.ofLanes (fun j => if j < x.take then x.fetched.getD j 0 else 0))).takeStrm s.cur.core n x.take).put d
      (BitVec.ofNat 64 x.take)) := by
  change execSpop d a b s = _
  unfold execSpop
  dsimp only
  rw [hn, hx, if_neg (by simp [ho, hg]), if_neg (not_le.mpr hroom), if_neg (not_lt.mpr hk)]
  rfl
/-- Else it needs what the unit has not brought. -/
theorem exec_spop_rest (hk : x.fetched.length < x.take) : exec (.spop d a b) s = .next
    (s.streamRest n x.take (.spop d a b) (fun l t =>
      let v := t.updMyCore (fun k => { k.setStrm n { x.advance x.take with fetched := [], ops := x.ops ++
        [⟨t.cur.slot, t.myCore.serial, bits (s.reg b) 6 0, x.fetched, l.map (fun q => q.2.2)⟩] } with serial := k.serial + 1 })
      (v.updMe (fun y => { y with pend := y.pend ++ [.row (bits (s.reg b) 6 0)] })).put d (BitVec.ofNat 64 x.take))) := by
  change execSpop d a b s = _
  unfold execSpop
  dsimp only
  rw [hn, hx, if_neg (by simp [ho, hg]), if_neg (not_le.mpr hroom), if_pos hk]
end

/-- A scatter whose indices are there issues its stores at once. -/
theorem exec_spush_now (ho : x.isOpen = true) (hg : x.scatter = true) (hk : x.take ≤ x.fetched.length) :
    exec (.spush d a b) s = .next (s.pushElems n x.take x.fetched d b (.spush d a b)) := by
  change execSpush d a b s = _
  unfold execSpush
  dsimp only
  rw [hn, hx, if_neg (by simp [ho, hg]), if_neg (not_lt.mpr hk)]
end

section
variable {s : State} {n k : Nat} {x : Strm} (hx : s.myCore.strm n = x) {i : Instr} {go : List (Place × W32 × Place) → State → State}
include hx

theorem streamRest_failed {e : Nat} {v : Word} (h : x.failed = some (e, v)) :
    s.streamRest n k i go = (s.updStrm s.cur.core n (fun x => { x with failed := none })).trap e v := by
  have hnot : s.streamNotYet n i = (s.updStrm s.cur.core n (fun x => { x with failed := none })).trap e v := by rw [State.streamNotYet, hx, h]
  rw [← hnot, State.streamRest]
  exact if_pos (by rw [hx, h]; rfl)
theorem streamRest_held {die e : Nat} (hf : x.failed = none) (h : x.held = some (die, e)) : s.streamRest n k i go = s.wait (.page die e) i := by
  have hnot : s.streamNotYet n i = s.wait (.page die e) i := by rw [State.streamNotYet, hx, hf, h]
  rw [← hnot, State.streamRest]
  exact if_pos (by rw [hx, hf, h]; rfl)
theorem streamRest_found {l : List (Place × W32 × Place)} (hf : x.failed = none) (hh : x.held = none)
    (hl : s.streamFind s.cur.core x ((List.range k).drop x.fetched.length) = .ok l) :
    s.streamRest n k i go = go l (s.readBy s.cur.core (l.map fun q => (q.1, 4))) := by
  unfold State.streamRest
  dsimp only
  rw [hx, if_neg (by rw [hf, hh]; exact Bool.false_ne_true), hl]
/-- Elements that may all be written take one entry of the buffer, behind all that the thread stored before. -/
theorem pushElems_ok {d b : Reg} {q : Nat → Place} (hroom : s.storeFull s.cur = false)
    (hq : ∀ j, j < k → s.check s.cur (x.elemEa (x.fetched.getD j 0)) (2 ^ x.esize) (2 ^ x.esize) .write = .ok (q j)) :
    s.pushElems n k x.fetched d b i = ((((List.range k).foldl (fun u j => u.dirty (x.elemEa (x.fetched.getD j 0))) s.release).pushStore s.cur
      ((List.range k).map (fun j => (q j, leBytes (2 ^ x.esize) ((s.row ((s.reg b).setWidth 7)).lane j).toNat))) none).takeStrm
      s.cur.core n k).put d (BitVec.ofNat 64 k) := by
  have hcs : (List.range k).map (fun j => (j, x.elemEa (x.fetched.getD j 0),
        s.check s.cur (x.elemEa (x.fetched.getD j 0)) (2 ^ x.esize) (2 ^ x.esize) .write))
      = (List.range k).map (fun j => (j, x.elemEa (x.fetched.getD j 0), .ok (q j))) :=
    List.map_congr_left fun j hj => by rw [hq j (List.mem_range.mp hj)]
  have hcur : s.release.cur = s.cur := (coresKept_release s).cur
  unfold State.pushElems
  dsimp only
  rw [hx, hcs, hcur, List.filterMap_map, List.foldl_map]
  rw [List.find?_eq_none.mpr fun c hc => by
    obtain ⟨j, -, rfl⟩ := List.mem_map.mp hc
    exact Bool.false_ne_true]
  dsimp only
  rw [if_neg (by rw [hroom]; exact Bool.false_ne_true), ← List.filterMap_eq_map]
  rfl
end

/-- An SPOP whose elements all translate is accepted, and its row is awaited. -/
theorem exec_spop_accepted {d a b : Reg} {s : State} {n : Nat} {x : Strm} {l : List (Place × W32 × Place)} (hn : strmId (s.reg a) = n)
    (hx : s.myCore.strm n = x) (ho : x.isOpen = true) (hg : x.scatter = false) (hroom : x.ops.length < 3) (hk : x.fetched.length < x.take)
    (hf : x.failed = none) (hh : x.held = none) (hl : s.streamFind s.cur.core x ((List.range x.take).drop x.fetched.length) = .ok l) :
    exec (.spop d a b) s = .next (
      let u := s.readBy s.cur.core (l.map (fun q => (q.1, 4)))
      let v := u.updMyCore (fun y => { y.setStrm n { x.advance x.take with fetched := [], ops := x.ops ++
        [⟨s.cur.slot, u.myCore.serial, bits (s.reg b) 6 0, x.fetched, l.map (fun q => q.2.2)⟩] } with serial := y.serial + 1 })
      (v.updMe (fun y => { y with pend := y.pend ++ [.row (bits (s.reg b) 6 0)] })).put d (BitVec.ofNat 64 x.take)) := by
  have hcur : (s.readBy s.cur.core (l.map (fun q => (q.1, 4)))).cur = s.cur := (coresKept_readBy ..).cur
  rw [exec_spop_rest hn hx ho hg hroom hk, streamRest_found hx hf hh hl, hcur]

/-! The unit's reads (R153, R155). -/

section
variable {s t : State} {c n : Nat}

theorem strm_updStrm (s : State) (c n : Nat) (f : Strm → Strm) : ((s.updStrm c n f).core c).strm n = f ((s.core c).strm n) := by
  rw [State.updStrm, State.core_updCore, if_pos rfl]
  exact (Tbl.get_set ..).trans (if_pos rfl)
theorem thread_updStrm (s : State) (c n : Nat) (f : Strm → Strm) (j : Nat) : ((s.updStrm c n f).core c).thread j = (s.core c).thread j := by
  rw [State.updStrm, State.core_updCore, if_pos rfl]
  rfl
theorem CoresKept.strm (h : CoresKept s t) (n : Nat) : (t.core c).strm n = (s.core c).strm n :=
  (congrArg (fun k : Core => k.streams.get Strm.reset n) (h.core c) :)
theorem CoresKept.thread (h : CoresKept s t) (n : Nat) : (t.core c).thread n = (s.core c).thread n :=
  (congrArg (fun k : Core => k.threads.get Thread.reset n) (h.core c) :)
theorem strm_updThread (s : State) (t : ThreadId) (f : Thread → Thread) (c n : Nat) : ((s.updThread t f).core c).strm n = (s.core c).strm n := by
  rw [State.updThread, State.setThread, State.core_updCore]
  split
  · next h =>
    rw [h]
    rfl
  · rfl

/-- A read for operation `o` of the thread in a slot, without what it is for. -/
def State.readFor (s : State) (c slot serial : Nat) (l : List (Place × Nat)) : State :=
  s.sentBy (some (⟨c, slot⟩, serial)) 0x04 (s.readBy c l)
theorem coresKept_readFor (s : State) (c slot serial : Nat) (l : List (Place × Nat)) : CoresKept s (s.readFor c slot serial l) := by
  have h := coresKept_readBy s c l
  exact ⟨h.cur, h.core⟩
/-- The unit brings an element. -/
def State.bring (s : State) (c n : Nat) (w : W32) (l : List (Place × Nat)) : State :=
  (s.readFor c ((s.core c).strm n).slot ((s.core c).strm n).serial l).updStrm c n
    fun x => { x with fetched := x.fetched ++ [w], fetchedN := x.fetchedN + 1 }
theorem fetched_bring (w : W32) (l : List (Place × Nat)) : (((s.bring c n w l).core c).strm n).fetched = ((s.core c).strm n).fetched ++ [w] := by
  rw [State.bring, strm_updStrm, (coresKept_readFor ..).strm]

section
variable {x : Strm} {p : Place} (hx : (s.core c).strm n = x) (hops : x.ops = []) (ho : x.isOpen = true) (hh : x.held = none)
  (hf : x.failed = none) (hj : x.i + x.fetched.length < x.count)
  (hp : s.streamAt c x (x.bbase + BitVec.ofNat 64 (4 * (x.i + x.fetched.length))) 4 = .ok p)
include hx hops ho hh hf hj hp

theorem exec_streamReadDone_scatter (hg : x.scatter = true) :
    exec (.streamReadDone c n) s = .next (s.bring c n (BitVec.ofNat 32 (leValue (s.engineBytes c p 4))) [(p, 4)]) := by
  rw [← leNat_eq_leValue]
  subst hx
  change execStreamReadDone c n s = _
  unfold execStreamReadDone
  dsimp only
  rw [hops]
  dsimp only
  rw [if_neg (by simp [ho, hh, hf, hj]), hp]
  dsimp only
  rw [if_pos hg]
  rfl
theorem exec_streamReadDone_gather {q : Place} (hg : x.scatter = false)
    (hq : s.streamAt c x (x.elemEa (BitVec.ofNat 32 (leValue (s.engineBytes c p 4)))) (2 ^ x.esize) = .ok q) : exec (.streamReadDone c n) s = .next
      (s.bring c n (BitVec.ofNat 32 (leValue (s.engineBytes c q (2 ^ x.esize)))) [(p, 4), (q, 2 ^ x.esize)]) := by
  rw [← leNat_eq_leValue] at hq ⊢
  subst hx
  change execStreamReadDone c n s = _
  unfold execStreamReadDone
  dsimp only
  rw [hops]
  dsimp only
  rw [if_neg (by simp [ho, hh, hf, hj]), hp]
  dsimp only
  rw [hg, if_neg Bool.false_ne_true, hq]
  rfl
end

/-- What retiring a stream leaves of a thread: at most its latch is set. -/
theorem strmRetires_thread (s : State) (c n j : Nat) : ((s.strmRetires c n).core c).thread j = (s.core c).thread j
    ∨ ((s.strmRetires c n).core c).thread j = { (s.core c).thread j with latch := true } := by
  unfold State.strmRetires
  dsimp only
  split
  · exact .inl rfl
  · split
    · have h := State.thread_updThread s ⟨c, ((s.core c).strm n).slot⟩ ⟨c, j⟩ (fun x => { x with latch := true })
      by_cases hj : (⟨c, j⟩ : ThreadId) = ⟨c, ((s.core c).strm n).slot⟩
      · rw [← hj, if_pos rfl] at h
        rw [← hj]
        exact .inr h
      · rw [if_neg hj] at h
        exact .inl h
    · exact .inl rfl
theorem strmRetires_strm (s : State) (c n : Nat) : ((s.strmRetires c n).core c).strm n = (s.core c).strm n := by
  unfold State.strmRetires
  dsimp only
  split
  · rfl
  · split
    · exact strm_updThread ..
    · rfl

/-- What the thread of an SPOP that is carried out has then: its row, its latch, and one wait less. -/
def Thread.popped (t : Thread) (row : Nat) (got : List W32) : Thread :=
  { t.setRow row (Row.ofLanes fun j => got.getD j 0) with pend := t.pend.filter (· != .row row), latch := true }
theorem Thread.lane_popped (t : Thread) (row : Nat) (got : List W32) {i : Nat} (hi : i < 16) :
    ((t.popped row got).row row).lane i = got.getD i 0 := by
  have hrow : (t.popped row got).row row = Row.ofLanes fun j => got.getD j 0 := (Thread.row_setRow t row row _).trans (if_pos rfl)
  rw [hrow, Row.lane_ofLanes _ _ hi]
theorem popDone_done (s : State) (c n : Nat) (o : StrmOp) (h : s.opAlive c o.slot o.serial = true) :
    ((s.popDone c n o).core c).thread o.slot = ((s.core c).thread o.slot).popped o.row o.got
      ∧ (((s.popDone c n o).core c).strm n).ops = ((s.core c).strm n).ops.drop 1 := by
  let u := s.updStrm c n fun x => { x with ops := x.ops.drop 1 }
  let v := u.updThread ⟨c, o.slot⟩ (·.popped o.row o.got)
  have hu : (u.core c).thread o.slot = (s.core c).thread o.slot := thread_updStrm ..
  have halive : u.opAlive c o.slot o.serial = true := by
    rw [State.opAlive, hu]
    exact h
  have hdone : s.popDone c n o = v.strmRetires c n := by
    change (if u.opAlive c o.slot o.serial = true then v else u).strmRetires c n = _
    rw [if_pos halive]
  have hv : (v.core c).thread o.slot = ((s.core c).thread o.slot).popped o.row o.got := by
    rw [← hu]
    exact (State.thread_updThread u ⟨c, o.slot⟩ ⟨c, o.slot⟩ _).trans (if_pos rfl)
  rw [hdone, strmRetires_strm, strm_updThread, strm_updStrm]
  refine ⟨?_, rfl⟩
  rcases strmRetires_thread v c n o.slot with ht | ht
  · rw [ht, hv]
  · rw [ht, hv]
    rfl
/-- The last element of an accepted SPOP arrives. -/
theorem exec_streamReadDone_last {x : Strm} {o : StrmOp} {rest : List StrmOp} {q : Place} (hx : (s.core c).strm n = x) (hops : x.ops = o :: rest)
    (htodo : o.todo = [q]) (halive : s.opAlive c o.slot o.serial = true) : ∃ t, exec (.streamReadDone c n) s = .next t
      ∧ (t.core c).thread o.slot = ((s.core c).thread o.slot).popped o.row (o.got ++ [BitVec.ofNat 32 (leValue (s.engineBytes c q (2 ^ x.esize)))])
      ∧ ((t.core c).strm n).ops = rest := by
  rw [← leNat_eq_leValue]
  let o' : StrmOp := { o with got := o.got ++ [s.elemAt c x q], todo := [] }
  let u := (s.readFor c o.slot o.serial [(q, 2 ^ x.esize)]).updStrm c n fun x => { x with ops := o' :: x.ops.drop 1 }
  have hexec : exec (.streamReadDone c n) s = .next (u.popDone c n o') := by
    change execStreamReadDone c n s = _
    unfold execStreamReadDone
    dsimp only
    rw [hx, hops]
    dsimp only
    rw [State.popStep, htodo]
    dsimp only
    rw [hx]
    rfl
  have hthread : (u.core c).thread o.slot = (s.core c).thread o.slot := (thread_updStrm ..).trans ((coresKept_readFor ..).thread _)
  obtain ⟨ht, hs⟩ := popDone_done u c n o' (by
    rw [State.opAlive, hthread]
    exact halive)
  refine ⟨_, hexec, ht.trans (congrArg (fun y => y.popped o'.row o'.got) hthread), hs.trans ?_⟩
  rw [strm_updStrm, (coresKept_readFor ..).strm, hx, hops]
  rfl
end

/-- Settles O32: the instructions and the engines' events are taken case by case, as their branches go. -/
theorem copyAndStreamInstructions : Obligations.CopyAndStreamInstructions := by
  unfold Obligations.CopyAndStreamInstructions
  refine ⟨fun d a s => ?_,
    fun core c q s hc hheld => ⟨fun u hu => ⟨fun hrow => ?_, fun hrow => ?_⟩, fun src dst n hm hok hn hr hw hdst => ?_⟩,
    fun d a b s => ?_, fun c n s => ?_⟩
  · intro tag c
    refine ⟨fun hm hr => ⟨_, exec_cpy_refused rfl rfl hm hr, s.put_wrote ..⟩, fun hm hr hroom hranges => ?_, exec_cpy_priv rfl rfl,
      fun l h hb hf => ⟨_, exec_cwait_done h hb hf, s.put_wrote ..⟩, fun l r e v => exec_cwait_failed,
      fun l h hb => ⟨_, exec_cwait_busy h hb, rfl⟩, fun h => ⟨_, exec_cwait_unknown h, s.put_wrote ..⟩, ⟨_, rfl, s.put_wrote ..⟩⟩
    intro u v w st
    have hw : w = s.release.updMyCore (·.takeCopy c) := (updMyCore_takeCopy s.release c).symm
    rw [hw]
    exact ⟨_, exec_cpy_taken rfl rfl hm hr hroom hranges, State.put_wrote ..⟩
  · exact ⟨_, (exec_copyUnitDone hc hheld hu).trans (by rw [if_pos hrow]), copies_setHeadCopy hc⟩
  · exact ⟨_, (exec_copyUnitDone hc hheld hu).trans (by rw [if_neg (not_lt.mpr hrow)]), unitLast_ended hc⟩
  · refine ⟨_, exec_copyUnitDone hc hheld (copyUnit_plain hm hn hr hw), fun i hi => ?_⟩
    have hplus := plus_ne_remote hdst i
    rw [← memByte_unitDone hok hdst hi]
    split
    · exact ((loadsKept_unitCounted ..).trans (loadsKept_setHeadCopy ..)).memByte core hplus
    · exact (loadsKept_unitLast ..).memByte core hplus
  · intro n c x k
    refine ⟨?_, fun ho hg hroom hk => ⟨_, exec_spop_now rfl rfl ho hg hroom hk, State.put_wrote ..⟩, fun l ho hg hroom hk hf hh hl => ?_,
      fun e v ho hg hroom hk hf => ?_, fun die e ho hg hroom hk hf hh => ?_, fun q ho hg hk hroom hq => ?_,
      fun h => ⟨_, exec_spop_none rfl rfl h, s.put_wrote ..⟩, fun h => ⟨_, exec_spush_none rfl rfl h, s.put_wrote ..⟩⟩
    · intro y refused
      refine ⟨fun hb => ⟨_, exec_sopen_bad rfl rfl hb, s.put_wrote ..⟩, fun hb ho => ⟨_, exec_sopen_again rfl rfl hb ho, s.put_wrote ..⟩,
        fun hb ho hops => ⟨fun v => exec_sopen_refused rfl rfl hb ho hops, fun hv => ?_⟩⟩
      exact ⟨_, exec_sopen_opened rfl rfl hb ho hops hv, State.put_wrote ..⟩
    · exact ⟨_, exec_spop_accepted rfl rfl ho hg hroom hk hf hh hl, State.put_wrote ..⟩
    · rw [exec_spop_rest rfl rfl ho hg hroom hk, streamRest_failed rfl hf]
    · exact ⟨_, (exec_spop_rest rfl rfl ho hg hroom hk).trans (congrArg _ (streamRest_held rfl hf hh)), rfl⟩
    · exact ⟨_, (exec_spush_now rfl rfl ho hg hk).trans (congrArg _ (pushElems_ok rfl hroom hq)), State.put_wrote ..⟩
  · intro x j
    refine ⟨fun p hops ho hh hf hj hp => ?_, fun o rest q hops htodo halive => ?_⟩
    · intro v
      refine ⟨fun hg => ⟨_, exec_streamReadDone_scatter rfl hops ho hh hf hj hp hg, fetched_bring ..⟩, fun q hg hq => ?_⟩
      exact ⟨_, exec_streamReadDone_gather rfl hops ho hh hf hj hp hg hq, fetched_bring ..⟩
    · intro l
      obtain ⟨t, he, hthread, hrest⟩ := exec_streamReadDone_last rfl hops htodo halive
      refine ⟨t, he, hrest, fun i hi => ?_, ?_, ?_⟩
      · rw [hthread, Thread.lane_popped _ _ _ hi]
      · rw [hthread]
        rfl
      · rw [hthread]
        rfl

end Sys2Proof.Machine
end

section
/-! SUPPORT. Event counters by number, where an instruction goes on that only moves its thread, and the capture of a LUNGE body. -/

namespace Sys2Proof.Machine

open Sys2Proof Sys2Proof.Safety

/-! Event counters (R343). -/

/-- The step of `Core.hpm` at one counter. -/
def Core.countAt (code n : Nat) (k : Core) (i : Nat) : Core :=
  if (k.csr (0x070 + i)).toNat = code then
    k.setCsr (0x078 + i) (BitVec.ofNat 64 (((k.csr (0x078 + i)).toNat + n) % 2 ^ 48)) else k

theorem Core.hpm_eq {code : Nat} (h : code ≠ 0) (k : Core) (n : Nat) : k.hpm code n = (List.range 8).foldl (Core.countAt code n) k :=
  if_neg h
theorem Core.csr_countAt (code n : Nat) (k : Core) (i j : Nat) : (k.countAt code n i).csr j =
    if j = 0x078 + i ∧ (k.csr (0x070 + i)).toNat = code then BitVec.ofNat 64 (((k.csr (0x078 + i)).toNat + n) % 2 ^ 48) else k.csr j := by
  unfold Core.countAt
  split
  case isTrue h => simp [Core.csr_setCsr, h]
  case isFalse h => simp [h]
/-- The first `m` counters count what they select; the selectors and the other counters stay. -/
theorem Core.csr_countUpTo (code n : Nat) (k : Core) {m : Nat} (hm : m ≤ 8) {i : Nat} (hi : i < 8) :
    ((List.range m).foldl (Core.countAt code n) k).csr (0x070 + i) = k.csr (0x070 + i)
    ∧ ((List.range m).foldl (Core.countAt code n) k).csr (0x078 + i) = if i < m ∧ (k.csr (0x070 + i)).toNat = code then
        BitVec.ofNat 64 (((k.csr (0x078 + i)).toNat + n) % 2 ^ 48) else k.csr (0x078 + i) := by
  induction m with
  | zero => simp
  | succ m ih =>
    obtain ⟨hsel, hcnt⟩ := ih (by omega)
    rw [List.range_succ, List.foldl_append, List.foldl_cons, List.foldl_nil, Core.csr_countAt, Core.csr_countAt,
      if_neg (by omega), hsel, hcnt]
    refine ⟨rfl, ?_⟩
    by_cases him : i = m
    · subst him
      simp [hsel, hcnt]
    · rw [if_neg (by omega)]
      exact if_congr (and_congr_left' (by omega)) rfl rfl
/-- A counter that selects the event counts it, another one stays. -/
theorem Core.csr_hpm {code : Nat} (h : code ≠ 0) (k : Core) (n : Nat) {i : Nat} (hi : i < 8) : (k.hpm code n).csr (0x078 + i) =
    if (k.csr (0x070 + i)).toNat = code then BitVec.ofNat 64 (((k.csr (0x078 + i)).toNat + n) % 2 ^ 48) else k.csr (0x078 + i) := by
  rw [Core.hpm_eq h, (Core.csr_countUpTo code n k le_rfl hi).2]
  exact if_congr (and_iff_right hi) rfl rfl

/-- An instruction counts a pass on the counters that select it where it ends one, and nothing there otherwise (R109). -/
theorem myCore_csr_advance (s : State) {i : Nat} (hi : i < 8) (hsel : s.myCore.csr (0x070 + i) = 0x1A) :
    s.advance.myCore.csr (0x078 + i)
      = BitVec.ofNat 64 (((s.myCore.csr (0x078 + i)).toNat + if s.me.endsPass then 1 else 0) % 2 ^ 48) := by
  have hret : s.retire.myCore = (s.updMe Thread.retire).myCore.hpm 0x02 1 := myCore_hpm (s.updMe Thread.retire) 0x02 1
  have hadv : s.advance.myCore = (s.retire.updMe Thread.stepPc).myCore.hpm 0x1A (if s.me.endsPass then 1 else 0) :=
    myCore_hpm (s.retire.updMe Thread.stepPc) 0x1A _
  have hkept : s.retire.myCore.csr (0x070 + i) = 0x1A := by
    rw [hret, Core.hpm_csr _ _ _ _ (by omega), myCore_csr_updMe, hsel]
  rw [hadv, Core.csr_hpm (by decide) _ _ hi, myCore_csr_updMe, myCore_csr_updMe, hkept, if_pos (by decide), hret,
    Core.csr_hpm (by decide) _ _ hi, myCore_csr_updMe, myCore_csr_updMe, hsel, if_neg (by decide)]

/-! An instruction that only moves its thread. -/

/-- What retires and goes on elsewhere, in a replay or out of one. -/
theorem Mine.wentTo {s t : State} {pc : Word} {r : Option LungeRec} (h : Mine s t { s.me.retire with replay := r, pc := pc } s.way) :
    Aside s t ∧ Retired s t 0 ∧ RegsSame s t ∧ RowsSame s t ∧ MasksSame s t ∧ t.me.pc = pc ∧ t.me.replay = r := by
  have hm := h.2.2.2.2.2.2
  have hcsr (n : Nat) : t.me.csr n = if n = 0x081 then s.me.csr 0x081 + 1 else s.me.csr n :=
    (congrArg (fun x : Thread => x.csr n) hm).trans (Thread.csr_retire s.me n)
  have hway := congrArg Cluster.onTheWay ((h.2.1 (clusterOf s.cur.core)).trans (if_pos rfl))
  refine ⟨h.aside, ⟨?_, ?_, ?_, ?_, fun n _ h81 => ?_, ?_, ?_⟩, fun n => ?_, fun r => ?_, fun m => ?_, ?_, ?_⟩
  · exact (congrArg Thread.state hm :)
  · rw [hcsr, if_pos rfl]
  · rw [hcsr, if_neg (by decide)]
    simp
  · exact hway.trans (by simp [State.way])
  · rw [hcsr, if_neg h81]
  · exact (congrArg threadRest hm :)
  · exact (congrArg Thread.woke hm :)
  · exact (congrArg (fun x : Thread => regNo x n) hm :)
  · exact (congrArg (fun x : Thread => x.row r.toNat) hm :)
  · exact (congrArg (fun x : Thread => x.mask m) hm :)
  · exact (congrArg Thread.pc hm :)
  · exact (congrArg Thread.replay hm :)

/-! What the fetch of a body asks of other devices (R178). -/

/-- Only the outbox and the count of free values differ. -/
def OnlyAsked (s u : State) : Prop := ∃ o n, u = { s with outbox := o, freeCount := n }

theorem onlyAsked_fetchAsks (s : State) (t : ThreadId) (pc : Word) : OnlyAsked s (s.fetchAsks t pc) := by
  unfold State.fetchAsks
  split
  next p _ => cases p <;> exact ⟨_, _, rfl⟩
  next => exact ⟨_, _, rfl⟩
  next => exact ⟨_, _, rfl⟩
theorem OnlyAsked.trans {s t u : State} (h : OnlyAsked s t) (g : OnlyAsked t u) : OnlyAsked s u := by
  obtain ⟨o, n, rfl⟩ := h
  obtain ⟨o', n', rfl⟩ := g
  exact ⟨o', n', rfl⟩
theorem OnlyAsked.me {s u : State} (h : OnlyAsked s u) : u.me = s.me := by
  obtain ⟨o, n, rfl⟩ := h
  rfl

/-- What a LUNGE of `n` words asks for before it captures them. -/
def State.bodyAsks (s : State) (n : Nat) : State :=
  (List.range n).foldl (fun u i => u.fetchAsks u.cur (u.me.pc + 4 + BitVec.ofNat 64 (4 * i))) s
theorem onlyAsked_bodyAsks (s : State) (n : Nat) : OnlyAsked s (s.bodyAsks n) :=
  foldl_keeps (P := OnlyAsked s) (fun _ _ _ h => h.trans (onlyAsked_fetchAsks ..)) s ⟨_, _, rfl⟩

/-! The capture (R108). -/

/-- A word that a body may hold. -/
def BodyWord (w : W32) : Prop := ∃ b, decode w = .ok b ∧ bodyMajor w = true

theorem captureFail_body {w : W32} (h : BodyWord w) : captureFail w = none := by
  obtain ⟨b, hd, hb⟩ := h
  simp [captureFail, hd, hb]
theorem captureFail_illegal {w : W32} {e : IllegalReason} (h : decode w = .error e) : captureFail w = some 1 := by
  simp [captureFail, h]
theorem captureFail_barred {w : W32} {b : Instr} (h : decode w = .ok b) (hb : bodyMajor w = false) : captureFail w = some 10 := by
  simp [captureFail, h, hb]

/-- What stands in the way of a capture at a word, if anything does. -/
def State.stopAt (s : State) (pc : Word) : Option CaptureStop :=
  match s.fetchWord s.cur pc with
  | (.miss, _) => some (.held pc)
  | (.trap c v, _) => some (.trap c v)
  | (.ok _, w) => (captureFail w).map (fun c => .trap c (w.setWidth 64))

theorem stopAt_fetched {s : State} {pc : Word} {p : Place} {w : W32} (h : s.fetchWord s.cur pc = (.ok p, w)) :
    s.stopAt pc = (captureFail w).map (fun c => .trap c (w.setWidth 64)) := by
  simp [State.stopAt, h]
theorem stopAt_missed {s : State} {pc : Word} {w : W32} (h : s.fetchWord s.cur pc = (.miss, w)) : s.stopAt pc = some (.held pc) := by
  simp [State.stopAt, h]
theorem capture_stopped {s : State} {pc : Word} {e : CaptureStop} (h : s.stopAt pc = some e) (n : Nat) :
    s.capture pc (n + 1) = .error e := by
  rw [State.stopAt] at h
  rw [State.capture]
  rcases hw : s.fetchWord s.cur pc with ⟨p | ⟨c, v⟩ | _, w⟩ <;> rw [hw] at h
  case ok =>
    obtain ⟨c, hc, rfl⟩ := Option.map_eq_some_iff.mp h
    dsimp only
    rw [hc]
  case trap => exact congrArg Except.error (Option.some.inj h)
  case miss => exact congrArg Except.error (Option.some.inj h)
theorem capture_onwards {s : State} {pc : Word} (h : s.stopAt pc = none) {n : Nat} {e : CaptureStop}
    (hn : s.capture (pc + 4) n = .error e) : s.capture pc (n + 1) = .error e := by
  rw [State.stopAt] at h
  rw [State.capture]
  rcases hw : s.fetchWord s.cur pc with ⟨p | ⟨c, v⟩ | _, w⟩ <;> rw [hw] at h
  case ok =>
    dsimp only
    rw [Option.map_eq_none_iff.mp h, hn]
  case trap => exact nomatch h
  case miss => exact nomatch h
/-- The first word that stops a capture is what stops it. -/
theorem capture_stops {s : State} {k n : Nat} (hk : k < n) {e : CaptureStop} {pc : Word}
    (hbefore : ∀ i, i < k → s.stopAt (pc + BitVec.ofNat 64 (4 * i)) = none)
    (hat : s.stopAt (pc + BitVec.ofNat 64 (4 * k)) = some e) : s.capture pc n = .error e := by
  induction k generalizing n pc with
  | zero =>
    obtain ⟨m, rfl⟩ := Nat.exists_eq_add_one.mpr hk
    exact capture_stopped (by simpa using hat) m
  | succ k ih =>
    obtain ⟨m, rfl⟩ := Nat.exists_eq_add_one.mpr (Nat.zero_lt_of_lt hk)
    have hnext (i : Nat) : pc + 4 + BitVec.ofNat 64 (4 * i) = pc + BitVec.ofNat 64 (4 * (i + 1)) := by
      rw [Nat.mul_add, Nat.add_comm, BitVec.ofNat_add, ← BitVec.add_assoc]
      rfl
    refine capture_onwards (by simpa using hbefore 0 (by omega)) (ih (by omega) (fun i hi => ?_) ?_)
    · rw [hnext]
      exact hbefore (i + 1) (by omega)
    · rw [hnext]
      exact hat

/-- LUNGE with a body that can be captured. -/
theorem exec_lunge_captured {len : BitVec 4} {s : State} {ws : List W32} (h : s.lungeBody len = .ok ws) (cnt : BitVec 8)
    (stride : BitVec 7) (fix : BitVec 3) : exec (.lunge len cnt stride fix) s
      = .next ((s.bodyAsks (len.toNat + 1)).lungeWith (.ok ws) len cnt stride fix) := by
  change execLunge len cnt stride fix s = _
  unfold execLunge
  rw [h]
  rfl
/-- LUNGE with a word in the body that stops the capture. -/
theorem exec_lunge_stopped {len : BitVec 4} {s : State} {e : CaptureStop} (h : s.lungeBody len = .error e) (cnt : BitVec 8)
    (stride : BitVec 7) (fix : BitVec 3) : exec (.lunge len cnt stride fix) s = .next (s.lungeWith (.error e) len cnt stride fix) := by
  change execLunge len cnt stride fix s = _
  unfold execLunge
  rw [h]

/-! Body words with the row fields of a pass (R109, R110). -/

/-- Bit 0 of a word, as its field. -/
theorem field_zero_one (w : W32) : (field w 0 1 == 1) = w.getLsbD 0 := by
  have h : field w 0 1 = BitVec.ofBool (w.getLsbD 0) := by
    ext i hi
    obtain rfl : i = 0 := by omega
    simp [field]
  rw [h]
  cases w.getLsbD 0 <;> rfl
theorem shiftRow_eq (r : RowCode) (p : Nat) (stride : BitVec 7) (held isRow : Bool) :
    shiftRow r p stride (held || !isRow) = r + (if !held && isRow then BitVec.ofNat 7 p * stride else 0) := by
  cases held <;> cases isRow <;> simp [shiftRow]
/-- Form W: the low 18 bits are three fields. -/
theorem field_packW_low (op r : BitVec 7) (w : W32) :
    field (packW op r (field w 13 5) (field w 1 12) (field w 0 1)) 0 18 = field w 0 18 := by
  apply BitVec.eq_of_getLsbD_eq
  intro i hi
  simp only [field, packW, BitVec.getLsbD_extractLsb', BitVec.getLsbD_append, hi, decide_true, Bool.true_and]
  repeat' split
  all_goals first | omega | (rw [decide_eq_true (by omega), Bool.true_and]; congr 1; omega)

/-- Whether field d, a or b of a body word of form V, with its opcode and its low bit, is a row field (R110). -/
def bodyRowD (op : Nat) (sc : Bool) : Bool := !(op == 0x49 || op == 0x4A || op == 0x5B || (op == 0x5C && !sc))
def bodyRowA (op : Nat) (sc : Bool) : Bool := !(op == 0x26 || op == 0x5E || (op == 0x5C && sc))
def bodyRowB (op : Nat) (sc : Bool) : Bool :=
  !(op == 0x48 || op == 0x5A || op == 0x5B || op == 0x5C || (sc && !(op == 0x26 || op == 0x5D)))

theorem bodyRowD_eq (op : Nat) (sc : Bool) :
    bodyRowD op sc = !decide ((op = 0x49 ∨ op = 0x4A) ∨ op = 0x5B ∨ op = 0x5C ∧ sc = false) := by
  cases sc <;> simp [bodyRowD, Bool.or_assoc, Bool.beq_eq_decide_eq]
theorem bodyRowA_eq (op : Nat) (sc : Bool) : bodyRowA op sc = !decide (op = 0x26 ∨ op = 0x5E ∨ op = 0x5C ∧ sc = true) := by
  cases sc <;> simp [bodyRowA, Bool.or_assoc, Bool.beq_eq_decide_eq]
theorem bodyRowB_eq (op : Nat) (sc : Bool) :
    bodyRowB op sc = !decide (op = 0x48 ∨ op = 0x5A ∨ op = 0x5B ∨ op = 0x5C ∨ sc = true ∧ op ≠ 0x26 ∧ op ≠ 0x5D) := by
  cases sc <;> simp [bodyRowB, Bool.or_assoc, Bool.beq_eq_decide_eq]

section
variable {w : W32} (p : Nat) (stride : BitVec 7) (fix : BitVec 3)

/-- Form W: the row field moves, the other fields stay. -/
theorem bodyWord_wide (h : (field w 25 7).toNat = 0x25) : bodyWord w p stride fix
    = packW (field w 25 7) (shiftRow (field w 18 7) p stride (fix.getLsbD 2)) (field w 13 5) (field w 1 12) (field w 0 1) := if_pos h

/-- Form V: the row fields that no fixed bit holds move, the other fields stay. -/
theorem bodyWord_vector (h : (field w 25 7).toNat ≠ 0x25) : let op := (field w 25 7).toNat; let sc := w.getLsbD 0
    bodyWord w p stride fix
      = packV (field w 25 7) (field w 22 3) (shiftRow (field w 15 7) p stride (fix.getLsbD 2 || !bodyRowD op sc))
        (shiftRow (field w 8 7) p stride (fix.getLsbD 1 || !bodyRowA op sc)) (shiftRow (field w 1 7) p stride (fix.getLsbD 0 || !bodyRowB op sc))
        (field w 0 1) := by
  dsimp only
  rw [← field_zero_one]
  exact if_neg h

theorem bodyWord_op : field (bodyWord w p stride fix) 25 7 = field w 25 7 := by
  by_cases h : (field w 25 7).toNat = 0x25
  · rw [bodyWord_wide p stride fix h, field_packW_op]
  · rw [bodyWord_vector p stride fix h, field_packV_op]

end

end Sys2Proof.Machine
end

section
/-! SUPPORT. FENCE, LUNGE and the replay (R107-R111, R166). -/

namespace Sys2Proof.Machine

open Sys2Proof Sys2Proof.Safety

/-! FENCE. -/

theorem exec_fence_empty {p q : BitVec 8} (h : p = 0 ∨ q = 0) (sc : Scope) (s : State) : exec (.fence p q sc) s = .next s.advance := by
  change execFence p q sc s = _
  rw [execFence, if_pos h]
/-- Only what an update does to the running thread counts. -/
theorem updMe_congr {s : State} {f g : Thread → Thread} (h : f s.me = g s.me) : s.updMe f = s.updMe g := congrArg (s.setThread s.cur) h
theorem me_updMyCore {s : State} {f : Core → Core} (h : (f s.myCore).threads = s.myCore.threads) : (s.updMyCore f).me = s.me :=
  (congrArg (fun k : Core => k.thread s.cur.slot) (State.myCore_updMyCore s f)).trans (congrArg (fun l => Tbl.get l _ s.cur.slot) h)
theorem exec_fence_recorded {p q : BitVec 8} (h : ¬ (p = 0 ∨ q = 0)) (sc : Scope) (s : State) : exec (.fence p q sc) s
    = .next ((s.updMyCore (fun k => { k with serial := k.serial + 1 })).updMe
        (fun x => { x with fences := x.fences ++ [⟨p, q, sc, s.myCore.serial, s.me.ilSeen⟩] })).advance := by
  change execFence p q sc s = _
  have hme : (s.updMyCore (fun k => { k with serial := s.myCore.serial + 1 })).me = s.me := me_updMyCore rfl
  rw [execFence, if_neg h]
  refine congrArg (fun u : State => Host.Outcome.next u.advance) (updMe_congr ?_)
  rw [hme]

/-! LUNGE. -/

/-- The thread of a LUNGE that captured its body, and all that it leaves. -/
theorem lungeWith_captured (u : State) (ws : List W32) (len : BitVec 4) (cnt : BitVec 8) (stride : BitVec 7) (fix : BitVec 3) :
    let t := u.lungeWith (.ok ws) len cnt stride fix
    Aside u t ∧ Retired u t 0 ∧ RegsSame u t ∧ RowsSame u t ∧ MasksSame u t ∧ t.me.pc = u.me.pc + 4
      ∧ t.me.replay = some ⟨u.me.pc, len.toNat + 1, cnt.toNat + 1, stride, fix, 0, 0, ws⟩ :=
  (((Mine.refl u).retire).updMe (fun t =>
    { t with replay := some ⟨u.me.pc, len.toNat + 1, cnt.toNat + 1, stride, fix, 0, 0, ws⟩, pc := u.me.pc + 4 })).wentTo

theorem lunge_stops {len : BitVec 4} {s : State} {k : Nat} {e : CaptureStop} (hk : k ≤ len.toNat)
    (hbefore : ∀ i, i < k → s.stopAt (s.me.pc + 4 + BitVec.ofNat 64 (4 * i)) = none)
    (hat : s.stopAt (s.me.pc + 4 + BitVec.ofNat 64 (4 * k)) = some e) (cnt : BitVec 8) (stride : BitVec 7) (fix : BitVec 3) :
    exec (.lunge len cnt stride fix) s = .next (s.lungeWith (.error e) len cnt stride fix) :=
  exec_lunge_stopped (capture_stops (Nat.lt_succ_of_le hk) hbefore hat) cnt stride fix

/-! The replay. -/

section
variable {t : Thread} {r : LungeRec} (h : t.replay = some r)
include h

theorem stepPc_nextWord (hj : r.j + 1 < r.len) : t.stepPc = { t with replay := some { r with j := r.j + 1 }, pc := t.pc + 4 } := by
  simp [Thread.stepPc, h, hj]
theorem stepPc_nextPass (hj : r.j + 1 = r.len) (hp : r.p + 1 < r.cnt) :
    t.stepPc = { t with replay := some { r with p := r.p + 1, j := 0 }, pc := r.addr + 4 } := by
  simp [Thread.stepPc, h, hj, hp]
theorem stepPc_lastWord (hj : r.j + 1 = r.len) (hp : r.p + 1 = r.cnt) : t.stepPc = { t with replay := none, pc := t.pc + 4 } := by
  simp [Thread.stepPc, h, hj, hp]
theorem endsPass_iff : t.endsPass = true ↔ r.j + 1 = r.len := by
  simp [Thread.endsPass, h]

end

theorem me_advance (s : State) : s.advance.me = s.me.retire.stepPc := (Mine.refl s).advance.2.2.2.2.2.2

/-- Settles O28: a FENCE and a LUNGE retire like any instruction; a capture stops at the first word that it may not take; the place of a
replay and its body words are those of R109 to R111 by the cases of the definitions. -/
theorem fenceAndLunge : Obligations.FenceAndLunge := by
  unfold Obligations.FenceAndLunge
  refine ⟨fun p q sc s => ⟨fun h => ?_, fun hp hq => ?_⟩, fun len cnt stride fix s ws hcap => ?_,
    fun len cnt stride fix s k w hk hbody => ?_, fun s r hr => ?_, fun w p stride fix _ => ?_⟩
  case refine_1 => exact ⟨_, exec_fence_empty h sc s, s.advance_wrote⟩
  case refine_2 => exact ⟨_, exec_fence_recorded (not_or.mpr ⟨hp, hq⟩) sc s, State.advance_wrote _⟩
  case refine_3 =>
    have hme := (onlyAsked_bodyAsks s (len.toNat + 1)).me
    obtain ⟨haside, hretired, hregs, hrows, hmasks, hpc, hreplay⟩ := lungeWith_captured (s.bodyAsks (len.toNat + 1)) ws len cnt stride fix
    refine ⟨_, exec_lunge_captured hcap cnt stride fix, haside, hretired, fun n => (hregs n).trans (by rw [hme]),
      fun r => (hrows r).trans (congrArg (fun x : Thread => x.row r.toNat) hme), fun m => (hmasks m).trans
      (congrArg (fun x : Thread => x.mask m) hme), by rw [hpc, hme], by rw [hreplay, hme]⟩
  case refine_4 =>
    have hbefore : ∀ i, i < k → s.stopAt (s.me.pc + 4 + BitVec.ofNat 64 (4 * i)) = none := fun i hi => by
      obtain ⟨p, v, b, hw, hd, hb⟩ := hbody i hi
      rw [stopAt_fetched hw, captureFail_body ⟨b, hd, hb⟩]
      rfl
    refine ⟨fun p hw => ⟨fun ⟨e, hd⟩ => ?_, fun b hd hb => ?_⟩, fun hw => ?_⟩
    · exact lunge_stops hk hbefore (by rw [stopAt_fetched hw, captureFail_illegal hd]; rfl) cnt stride fix
    · exact lunge_stops hk hbefore (by rw [stopAt_fetched hw, captureFail_barred hd hb]; rfl) cnt stride fix
    · exact lunge_stops hk hbefore (stopAt_missed hw) cnt stride fix
  case refine_5 =>
    have hret : s.me.retire.replay = some r := hr
    refine ⟨?_, fun hj => ?_, fun hj hp => ?_, fun hj hp => ?_, ?_, fun i hi hsel => ?_⟩
    · unfold State.nextWord
      simp [show (s.thread s.cur).replay = some r from hr]
    · rw [me_advance, stepPc_nextWord hret hj]
      exact ⟨rfl, rfl⟩
    · rw [me_advance, stepPc_nextPass hret hj hp]
      exact ⟨rfl, rfl⟩
    · rw [me_advance, stepPc_lastWord hret hj hp]
      exact ⟨rfl, rfl⟩
    · rw [me_advance, Thread.csr_stepPc, Thread.csr_retire, if_pos rfl]
    · rw [myCore_csr_advance s hi hsel]
      by_cases hj : r.j + 1 = r.len
      · simp [(endsPass_iff hr).mpr hj, hj]
      · simp [mt (endsPass_iff hr).mp hj, hj]
  case refine_6 =>
    refine ⟨bodyWord_op p stride fix, fun hop => ?_, fun hop => ?_⟩
    · rw [bodyWord_wide p stride fix hop]
      refine ⟨(field_packW_r ..).trans ?_, field_packW_low ..⟩
      simpa [field] using shiftRow_eq (field w 18 7) p stride (fix.getLsbD 2) true
    · rw [bodyWord_vector p stride fix hop]
      dsimp only
      rw [← bodyRowD_eq, ← bodyRowA_eq, ← bodyRowB_eq]
      exact ⟨(field_packV_d ..).trans (shiftRow_eq ..), (field_packV_a ..).trans (shiftRow_eq ..),
        (field_packV_b ..).trans (shiftRow_eq ..), field_packV_m .., by rw [← field_zero_one, field_packV_s, field_zero_one]⟩

end Sys2Proof.Machine
end

section
/-! SUPPORT. A TCB that does not lie on 64 bytes (R230, R231). -/

namespace Sys2Proof.Machine

open Sys2Proof Sys2Proof.Safety

/-- A kernel that retires: its trigger has fired, and its TCB lies at 0x4020, which is no multiple of 64. -/
def crossedKernel : Kernel where
  kid := 4
  state := .retiring
  card := ⟨0x400, 0x1000, 0, 1, 8, 2, 1, 0, 1, 0, false, false, [], 0, 0, 0, false, 0⟩
  tcb := 0x4020
  shares := []
  split := false
  trigged := true
  todo := []
  held := none
  final := none
  used := []
/-- The TCB at 0x4020 has two entries: the first names the successor at 0x4040, due at retirement; the second, which lies at 0x4040 itself,
names the one at 0x5000, due at the trigger. The pred of the successor at 0x4040 is thus the low half of the second entry, and the one at
0x5000 has two predecessors. -/
def crossedTcb : State :=
  (({ State.reset with
    hbm := (Mem.write [] 0x4020 (([0x400000000, 0, 0x2A, 0x4040, 0x5001] : List Word).flatMap wordBytes)).write 0x5000 [2] }).updCluster 0
      (fun c => { c with l1 := [⟨0, 0, 65536, .hbm, 0, true, true, true, true, true, false, none⟩] })).updCtx 0
      (fun x => { x with state := .active, kernels := [crossedKernel] })

/-- What its retirement leaves. -/
def crossedRetired : State := (crossedTcb.updKernel 0 4 (fun k =>
  { k with todo := .setRetired :: (List.range 5).map (fun n => TcbStep.succ n false) ++ [.finish] })).runTodo 0 4 8

theorem crossedTcb_memOk : MemOk crossedTcb :=
  have ⟨_, hweight, hcores, hsaved⟩ := memOk_atReset
  memOk_updCtx (memOk_updCluster ⟨Mem.wf_write _ _ _ (Mem.wf_write [] _ _ rfl), hweight, hcores, hsaved⟩)
theorem crossedTcb_retires : (crossedTcb.ctx 0).kernel 4 = some crossedKernel ∧ crossedTcb.kernelQuiet 0 crossedKernel = true
    ∧ (crossedTcb.ctx 0).state = .active ∧ crossedTcb.tcbPlace 0 (crossedTcb.firstDie 0) crossedKernel.tcb = .ok (.hbm 0x4020)
    ∧ crossedTcb.tcbPlace 0 (crossedTcb.firstDie 0) 0x4040 = .ok (.hbm 0x4040) := by decide
theorem exec_crossedTcb : exec (.kernelRetirement 0 4) crossedTcb = .next crossedRetired := by
  obtain ⟨hkernel, hquiet, hactive, -, -⟩ := crossedTcb_retires
  change Host.Outcome.next _ = _
  rw [hkernel]
  dsimp only
  rw [if_pos ⟨rfl, rfl, rfl, hquiet, hactive⟩]
  rfl

/-- Of its two entries only the first is due at retirement. -/
theorem crossedTcb_entries :
    let die := crossedTcb.firstDie 0
    let bs := (crossedTcb.dirtyAt (32 * die) 0 crossedKernel.tcb).homeBytes (512 * die) (.hbm 0x4020) 64
    min 5 (tcbNsucc bs) = 2 ∧ dwordAt bs (24 + 8 * 0) = 0x4040 ∧ dwordAt bs (24 + 8 * 1) = 0x5001 := by decide
/-- The retirement takes 1 from the pred at 0x5000 too, to which no entry due at retirement pointed before. -/
theorem crossedRetired_byte : crossedRetired.memByte 0 (.hbm 0x5000) = 1 := by decide

/-- Refutes O45, in its clause on one successor due at retirement: where a TCB is not aligned (a launch accepts none, but the clause does
not ask for it), the pred of that successor may be a later entry of the TCB itself; taking 1 from it makes an entry due at the trigger one
that is due at retirement, and a second successor loses a predecessor. -/
theorem not_coreEvents : ¬ Obligations.CoreEvents := by
  unfold Obligations.CoreEvents
  rintro ⟨-, -, -, htcb⟩
  obtain ⟨hkernel, hquiet, hactive, hplace, hsucc⟩ := crossedTcb_retires
  obtain ⟨hcount, hfirst, hsecond⟩ := crossedTcb_entries
  have hentries := (htcb crossedTcb 0 4 crossedKernel (.hbm 0x4020) hkernel rfl rfl rfl hquiet hactive (by decide) rfl crossedTcb_memOk
    hplace nofun).2
  dsimp only at hentries hcount hfirst hsecond
  obtain ⟨t, ht, -, -, -, hbytes⟩ := hentries 0 (.hbm 0x4040) (by omega) (by rw [hfirst]; rfl) (fun m hm hlt => by
    obtain rfl : m = 1 := by omega
    rw [hsecond]
    rfl) (by rw [hfirst]; exact hsucc) nofun
  obtain rfl : crossedRetired = t := Host.Outcome.next.inj (exec_crossedTcb.symm.trans ht)
  have hsame := hbytes 0 (.hbm 0x5000) nofun
  rw [crossedRetired_byte] at hsame
  exact absurd hsame (by decide)

end Sys2Proof.Machine
end

section
/-! SUPPORT. The PAGE instructions (R186-R191) and the privilege trap of what is supervisor-only (R48). -/

namespace Sys2Proof.Machine

open Sys2Proof Sys2Proof.Safety

variable {s : State} {d a b : Reg}

/-! A supervisor-only instruction in either mode (R48). -/

theorem supOnly_of_sup {i : Instr} (hsup : s.me.sup = true) (u : State) : s.supOnly i u = u := if_pos hsup
theorem supOnly_of_user {i : Instr} (huser : s.me.sup = false) (u : State) :
    s.supOnly i u = s.trap 16 ((wordOf i).setWidth 64) := if_neg (by simp [huser])

/-- A supervisor-only instruction that retires from a state `u` in supervisor mode goes on from `u`. -/
theorem wentOn_of_supOnly {i : Instr} {u : State} (hsup : s.me.sup = true) (he : exec i s = .next (s.supOnly i u.advance)) :
    ∃ t, exec i s = .next t ∧ WentOn u t :=
  ⟨u.advance, by rw [he, supOnly_of_sup hsup], u.advance_wrote⟩

/-- In user mode it is refused, whatever it would have done. -/
theorem trap_of_supOnly {i : Instr} {u : State} (huser : s.me.sup = false) (he : exec i s = .next (s.supOnly i u)) :
    exec i s = .next (s.trap 16 ((wordOf i).setWidth 64)) := by
  rw [he, supOnly_of_user huser]

/-! Freeing and answering a record (R188, R189). -/

theorem freeRecord_of_none {x n : Nat} (hr : (s.ctx x).faultRec n = none) : s.freeRecord x n = s := by
  unfold State.freeRecord
  rw [hr]

theorem freply_of_none {x n : Nat} (v : Word) (hr : (s.ctx x).faultRec n = none) : s.freply x n v = s := by
  unfold State.freply
  rw [hr]
theorem freply_retry (s : State) (x n : Nat) : s.freply x n 0 = s.freeRecord x n := by
  cases hr : (s.ctx x).faultRec n with
  | none => rw [freply_of_none 0 hr, freeRecord_of_none hr]
  | some r =>
    unfold State.freply
    rw [hr]
    rfl
theorem freply_unanswered {v : Word} (x n : Nat) (hv : 1 < v.toNat) : s.freply x n v = s := by
  have h0 : v ≠ 0 := by bv_omega
  have h1 : v ≠ 1 := by bv_omega
  unfold State.freply
  split
  · rfl
  · rw [if_neg h0, if_neg h1]
/-- A fatal answer, before which the thread's earlier accesses are performed. -/
theorem freply_fatal {x n : Nat} {r : FaultRec} (hr : (s.ctx x).faultRec n = some r) :
    s.freply x n 1 = if (s.release.coalAt r.die r.entry).state = .reported then
        (s.release.updCtx x (fun y => { y with faults := y.faults.erase n })).failCoal r.die r.entry
      else s.release.freeRecord x n := by
  unfold State.freply
  rw [hr]
  rfl

/-! TLBINV (R191). -/

/-- The walks of each die that TLBINV waits for when it first issues: those begun by now. -/
def State.walksBegun (s : State) : List Nat := (List.range 4).map fun k => (s.die k).walkNext

theorem exec_tlbinv_ignored (hb : 1 < (s.reg b).toNat) :
    exec (.tlbinv a b) s = .next (s.supOnly (.tlbinv a b) s.advance) := by
  have h0 : s.reg b ≠ 0 := by bv_omega
  have h1 : s.reg b ≠ 1 := by bv_omega
  exact congrArg (fun u => Host.Outcome.next (s.supOnly (.tlbinv a b) u)) (if_pos ⟨h0, h1⟩)

/-- A TLBINV that has not waited yet. -/
theorem exec_tlbinv_fresh (hfresh : Fresh s) {all : Bool} (hb : s.reg b = if all then 1 else 0) :
    let u := (s.release.drainCtx s.me.ctx).invTlbs s.me.ctx (s.reg a) all
    exec (.tlbinv a b) s = .next (s.supOnly (.tlbinv a b)
      (if s.walksLeft s.walksBegun then u.wait (.tlbinv s.walksBegun) (.tlbinv a b) else u.advance)) := by
  have hwait : s.me.waitOf = none := congrArg (Option.map Prod.fst) hfresh
  have hextent : ¬ (s.reg b ≠ 0 ∧ s.reg b ≠ 1) ∧ decide (s.reg b = 1) = all := by
    rw [hb]
    cases all <;> decide
  change execTlbinv a b s = _
  unfold execTlbinv
  dsimp only
  rw [hwait, if_neg hextent.1, hextent.2]
  rfl

/-! Each instruction in supervisor mode. -/

section
variable (hsup : s.me.sup = true)
include hsup

theorem fbread_wrote : ∃ t, exec (.fbread d a b) s = .next t ∧ WroteReg s t d (s.myCtx.fbread (s.reg a) (s.reg b)) 0 :=
  ⟨_, congrArg Host.Outcome.next (supOnly_of_sup hsup _), s.put_wrote d _⟩

theorem fbclr_status (ha : s.reg a = 8) : ∃ t, exec (.fbclr a) s = .next t
    ∧ WentOn (s.updCtx s.me.ctx (fun x => { x with dropFlag := false, dropped := 0 })) t :=
  wentOn_of_supOnly hsup (congrArg (fun u => Host.Outcome.next (s.supOnly (.fbclr a) u)) (if_pos ha))
theorem fbclr_record (ha : (s.reg a).toNat < 8) : ∃ t, exec (.fbclr a) s = .next t
    ∧ WentOn (s.freeRecord s.me.ctx (s.reg a).toNat) t := by
  have h8 : s.reg a ≠ 8 := by bv_omega
  exact wentOn_of_supOnly hsup (congrArg (fun u => Host.Outcome.next (s.supOnly (.fbclr a) u)) ((if_neg h8).trans (if_pos ha)))
theorem fbclr_ignored (ha : 8 < (s.reg a).toNat) : ∃ t, exec (.fbclr a) s = .next t ∧ WentOn s t := by
  have h8 : s.reg a ≠ 8 := by bv_omega
  exact wentOn_of_supOnly hsup
    (congrArg (fun u => Host.Outcome.next (s.supOnly (.fbclr a) u)) ((if_neg h8).trans (if_neg (by omega))))

theorem replay_wentOn : ∃ t, exec .replay s = .next t ∧ WentOn (s.release.replayAll s.me.ctx) t :=
  wentOn_of_supOnly hsup rfl

theorem freply_wentOn {u : State} (hu : s.freply s.me.ctx (bits (s.reg a) 2 0) (s.reg b) = u) :
    ∃ t, exec (.freply a b) s = .next t ∧ WentOn u t :=
  hu ▸ wentOn_of_supOnly hsup rfl

theorem tlbinv_ignored (hb : 1 < (s.reg b).toNat) : ∃ t, exec (.tlbinv a b) s = .next t ∧ WentOn s t :=
  wentOn_of_supOnly hsup (exec_tlbinv_ignored hb)
theorem tlbinv_completes (hfresh : Fresh s) {all : Bool} (hb : s.reg b = if all then 1 else 0)
    (hleft : s.walksLeft s.walksBegun = false) : ∃ t, exec (.tlbinv a b) s = .next t
    ∧ WentOn ((s.release.drainCtx s.me.ctx).invTlbs s.me.ctx (s.reg a) all) t :=
  wentOn_of_supOnly hsup (by rw [exec_tlbinv_fresh hfresh hb, hleft, if_neg Bool.false_ne_true])
theorem tlbinv_waits (hfresh : Fresh s) {all : Bool} (hb : s.reg b = if all then 1 else 0)
    (hleft : s.walksLeft s.walksBegun = true) : ∃ t, exec (.tlbinv a b) s = .next t
    ∧ Waits ((s.release.drainCtx s.me.ctx).invTlbs s.me.ctx (s.reg a) all) t (.tlbinv s.walksBegun) (.tlbinv a b) := by
  refine ⟨_, ?_, rfl⟩
  rw [exec_tlbinv_fresh hfresh hb, hleft, if_pos rfl, supOnly_of_sup hsup]
  rfl

end

/-! User mode (R48, R55). -/

/-- An access to a supervisor CSR traps with the word of its instruction, before anything else of it counts. -/
theorem exec_csrInstr_priv (huser : s.me.sup = false) (op : CsrOp) {c : CsrNum} (hc : csrSup c.toNat = true) :
    exec (csrInstr ⟨op, d, a⟩ c) s = .next (s.trap 16 ((wordOf (csrInstr ⟨op, d, a⟩ c)).setWidth 64)) := by
  have hrefused : csrSup c.toNat = true ∧ ¬ s.me.sup = true := ⟨hc, by simp [huser]⟩
  cases op <;> exact if_pos hrefused

/-- Settles O22: in supervisor mode by the branch that each instruction takes; in user mode each is refused as a whole. -/
theorem pageInstructions : Obligations.PageInstructions := by
  unfold Obligations.PageInstructions
  refine ⟨fun d a b s hsup => ?supervisor, fun d a b s huser => ?user⟩
  case supervisor =>
    refine ⟨fbread_wrote hsup, fbclr_status hsup, fbclr_record hsup, fbclr_ignored hsup, replay_wentOn hsup,
      fun hfresh all hb => ⟨tlbinv_completes hsup hfresh hb, tlbinv_waits hsup hfresh hb⟩, tlbinv_ignored hsup,
      fun hb => freply_wentOn hsup ?retry, fun h => freply_wentOn hsup ?ignored, fun r hb hr hstate => freply_wentOn hsup ?released,
      fun r hb hr hstate => freply_wentOn hsup ?reported⟩
    case retry => rw [hb, freply_retry]
    case ignored => exact h.elim (freply_unanswered _ _) (freply_of_none _)
    case released => rw [hb, freply_fatal hr, if_neg hstate]
    case reported => rw [hb, freply_fatal hr, if_pos hstate]
  case user =>
    exact ⟨trap_of_supOnly huser rfl, trap_of_supOnly huser rfl, trap_of_supOnly huser rfl, trap_of_supOnly huser rfl,
      trap_of_supOnly huser rfl, trap_of_supOnly huser rfl, trap_of_supOnly huser rfl, trap_of_supOnly huser rfl,
      fun op _ hc => exec_csrInstr_priv huser op hc⟩

end Sys2Proof.Machine
end

section
/-! SUPPORT. What a release leaves, latches, and the counters of a core (R85, R139, R196, R197, R202). -/

namespace Sys2Proof.Machine

open Sys2Proof Sys2Proof.Safety

/-! A release leaves contexts, threads, counters and barriers (R139). -/

section
variable (s : State)

@[simp] theorem cur_release : s.release.cur = s.cur := (coresKept_release s).cur
@[simp] theorem me_release : s.release.me = s.me := (coresKept_release s).me
@[simp] theorem ctxs_release : s.release.ctxs = s.ctxs := (hostKept_drainAll s s.cur.core).ctxs
@[simp] theorem counter_release (c n : Nat) : (s.release.core c).counter n = (s.core c).counter n :=
  (congrArg (fun k : Core => k.counters.get 0 n) ((coresKept_release s).core c) :)
@[simp] theorem bar_release (n : Nat) : s.release.myCore.bar n = s.myCore.bar n :=
  (congrArg (fun k : Core => k.bars.get NamedBar.reset n) (coresKept_release s).myCore :)
end

/-! Latches (R85). -/

theorem thread_coreLatchAll (k : Core) (n : Nat) :
    k.latchAll.thread n = if n < 11 then { k.thread n with latch := true } else k.thread n := by
  have hfold : k.latchAll = slots.foldl (fun k m => if m = 11 then k else k.setThread m { k.thread m with latch := true }) k := rfl
  have hslots : (n ∈ slots ∧ n ≠ 11) ↔ n < 11 := by rw [slots, List.mem_range]; omega
  rw [hfold, thread_latchFold, if_congr hslots rfl rfl]
theorem core_latchAll (s : State) (c d : Nat) : (s.latchAll c).core d = if d = c then (s.core c).latchAll else s.core d :=
  State.core_updCore ..
theorem latchAll_latches (s : State) (c : Nat) {n : Nat} (hn : n < 11) : (((s.latchAll c).core c).thread n).latch = true := by
  rw [core_latchAll, if_pos rfl, thread_coreLatchAll, if_pos hn]

/-! Counters (R196, R202). -/

theorem counter_of_rest {k j : Core} (h : coreRest j = coreRest k) (n : Nat) : j.counter n = k.counter n :=
  (congrArg (fun k : Core => k.counters.get 0 n) h :)

/-- A core of which counter `n` has grown by `v`. -/
def Core.counted (k : Core) (n : Nat) (v : W32) : Core := { k with counters := k.counters.set n (k.counter n + v) }
theorem counter_counted (k : Core) (n : Nat) (v : W32) (m : Nat) :
    (k.counted n v).counter m = k.counter m + if m = n then v else 0 := by
  rw [Core.counter, Core.counted, Tbl.get_set]
  split
  · next h => rw [h]
  · exact (BitVec.add_zero _).symm

section
variable {s : State} {c : Nat}

/-- With no event record that waits for the core's event area, a changed counter only wakes the core's latches. -/
theorem bumpCounter_quiet (h : ∀ p ∈ s.ctxs, s.serviceCore p.1 = some c → p.2.evWait = []) (n : Nat) (v : W32) :
    s.bumpCounter c n v = (s.updCore c (·.counted n v)).latchAll c := by
  have hnone : s.ctxs.find? (fun p => s.serviceCore p.1 == some c && !p.2.evWait.isEmpty) = none := by
    rw [List.find?_eq_none]
    rintro p hp hwaits
    rw [Bool.and_eq_true, beq_iff_eq] at hwaits
    obtain ⟨hc, hevents⟩ := hwaits
    rw [h p hp hc] at hevents
    exact nomatch hevents
  unfold State.bumpCounter
  dsimp only
  split
  · next p hp => exact nomatch hnone.symm.trans hp
  · rfl
theorem core_bumpCounter (h : ∀ p ∈ s.ctxs, s.serviceCore p.1 = some c → p.2.evWait = []) (n : Nat) (v : W32) (d : Nat) :
    (s.bumpCounter c n v).core d = if d = c then ((s.core c).counted n v).latchAll else s.core d := by
  rw [bumpCounter_quiet h, core_latchAll, State.core_updCore, State.core_updCore, if_pos rfl]
  exact ite_congr rfl (fun _ => rfl) fun hd => if_neg hd
theorem counter_bumpCounter (h : ∀ p ∈ s.ctxs, s.serviceCore p.1 = some c → p.2.evWait = []) (n : Nat) (v : W32) (m : Nat) :
    ((s.bumpCounter c n v).core c).counter m = (s.core c).counter m + if m = n then v else 0 := by
  rw [core_bumpCounter h, if_pos rfl, counter_of_rest (latchAll_rest _), counter_counted]
end

theorem cur_foldl {β : Type} {f : State → β → State} (hf : ∀ s b, (f s b).cur = s.cur) (s : State) (l : List β) :
    (l.foldl f s).cur = s.cur :=
  foldl_keeps (P := fun t => t.cur = s.cur) (fun t b _ h => (hf t b).trans h) s rfl
theorem cur_bumpCounter (s : State) (c n : Nat) (v : W32) : (s.bumpCounter c n v).cur = s.cur := by
  unfold State.bumpCounter
  dsimp only
  split
  · exact cur_foldl (fun t e => by split <;> rfl) _ _
  · rfl

/-- A register write leaves the counters. -/
theorem counter_put (s : State) (d : Reg) (v : Word) (n : Nat) :
    ((s.put d v).core s.cur.core).counter n = (s.core s.cur.core).counter n := by
  obtain ⟨haside, -⟩ := s.put_wrote d v
  obtain ⟨-, -, -, -, -, -, hrest, -⟩ := haside
  exact counter_of_rest hrest n

theorem reaches_iff {c t : W32} : reaches c t = true ↔ (c - t).toNat < 2 ^ 31 := decide_eq_true_iff
theorem exec_waitc (d b : Reg) (c : BitVec 5) (s : State) : exec (.waitc d c b) s = .next
    (if reaches (s.myCore.counter c.toNat) ((s.reg b).setWidth 32) then s.put d ((s.myCore.counter c.toNat).setWidth 64)
      else s.wait (.counter c.toNat ((s.reg b).setWidth 32)) (.waitc d c b)) := rfl

/-- Settles O14: each instruction is the register write, the counting or the wait that its rule gives. -/
theorem counters : Obligations.Counters := by
  unfold Obligations.Counters
  intro d b c s
  refine ⟨⟨_, rfl, s.put_wrote d _⟩, ⟨_, rfl, State.put_wrote _ d _, fun hquiet k => ?cntadd⟩, fun h => ?reached, fun h => ?below⟩
  case cntadd =>
    have hnone : ∀ p ∈ s.release.ctxs, s.release.serviceCore p.1 = some s.cur.core → p.2.evWait = [] := fun p hp _ =>
      hquiet p (ctxs_release s ▸ hp)
    have hcur : (s.release.bumpCounter s.cur.core c.toNat ((s.reg b).setWidth 32)).cur = s.cur :=
      (cur_bumpCounter ..).trans (cur_release s)
    have hput := counter_put (s.release.bumpCounter s.cur.core c.toNat ((s.reg b).setWidth 32)) d
      ((s.myCore.counter c.toNat).setWidth 64) k
    rw [hcur, counter_bumpCounter hnone, counter_release] at hput
    refine hput.trans ?_
    split
    · next hk => rw [hk]; rfl
    · exact BitVec.add_zero _
  case reached => exact ⟨_, by rw [exec_waitc, if_pos (reaches_iff.mpr h)], s.put_wrote d _⟩
  case below => exact ⟨_, by rw [exec_waitc, if_neg (mt reaches_iff.mp (not_lt.mpr h))]; rfl, rfl⟩

end Sys2Proof.Machine
end

section
/-! SUPPORT. Named barriers, and arrivals at domain barriers (R207-R210). -/

namespace Sys2Proof.Machine

open Sys2Proof Sys2Proof.Safety

theorem bar_of_rest {k j : Core} (h : coreRest j = coreRest k) (n : Nat) : j.bar n = k.bar n :=
  (congrArg (fun k : Core => k.bars.get NamedBar.reset n) h :)
theorem bar_setBar (k : Core) (n : Nat) (b : NamedBar) : (k.setBar n b).bar n = b := Tbl.get_set_self ..
/-- An update of the thread that runs leaves its core's barriers. -/
theorem bar_setReg (s : State) (d : Reg) (v : Word) (n : Nat) : (s.setReg d v).myCore.bar n = s.myCore.bar n := by
  obtain ⟨-, -, -, -, hrest, -, -⟩ := (Mine.refl s).updMe (·.setReg d v)
  exact bar_of_rest hrest n

theorem bar_latchAll (s : State) (c n : Nat) : (s.latchAll c).myCore.bar n = s.myCore.bar n := by
  change ((s.latchAll c).core s.cur.core).bar n = (s.core s.cur.core).bar n
  rw [core_latchAll]
  split
  · next h => rw [h, bar_of_rest (latchAll_rest _)]
  · rfl

/-! Generations (R207, R209). -/

theorem genDone_iff {now g : W32} : genDone now g = true ↔ (now - g - 1).toNat < 2 ^ 31 := decide_eq_true_iff
theorem genDone_succ (g : W32) : genDone (g + 1) g = true := by
  rw [genDone_iff, show g + 1 - g - 1 = 0 by ring]
  decide
theorem genDone_self (g : W32) : genDone g g = false := by
  rw [genDone, show g - g - 1 = -1 by ring]
  decide

/-! Which barriers are named (R207), and what they read as. -/

section
variable {s : State} {n : Nat} (hn : n ≤ 39 ∨ n = 47)
include hn

theorem domainBar_named : domainBar n = false := by
  simp only [domainBar, Bool.and_eq_false_iff, decide_eq_false_iff_not]
  omega
theorem barGen_named : s.barGen n = (s.myCore.bar n).g := if_neg (by rw [domainBar_named hn]; exact Bool.false_ne_true)
theorem barBad_named : s.barBad n = (!(s.myCore.bar n).isOpen || !(s.myCore.bar n).members.getLsbD s.cur.slot
    || (s.myCore.bar n).arrived.getLsbD s.cur.slot) := by
  rw [State.barBad, if_neg (by omega), if_neg (by rw [domainBar_named hn]; exact Bool.false_ne_true)]

/-- The barrier as one more arrival leaves it (Table 11-4). -/
def NamedBar.joined (b : NamedBar) (slot : Nat) : NamedBar :=
  if b.arrived ||| (1#11 <<< slot) = b.members then { b with arrived := 0, gen := b.gen + 1 }
  else { b with arrived := b.arrived ||| (1#11 <<< slot) }

/-- An arrival is a release; that of the last member wakes the core's latches. -/
theorem barArrive_named : s.barArrive n =
    if (s.myCore.bar n).arrived ||| (1#11 <<< s.cur.slot) = (s.myCore.bar n).members then
      (s.release.updMyCore (·.setBar n ((s.myCore.bar n).joined s.cur.slot))).latchAll s.cur.core
    else s.release.updMyCore (·.setBar n ((s.myCore.bar n).joined s.cur.slot)) := by
  unfold State.barArrive NamedBar.joined
  dsimp only
  rw [domainBar_named hn, if_neg Bool.false_ne_true, bar_release, cur_release, NamedBar.arrive]
  split
  · rw [if_pos rfl, show (s.release.updMyCore _).cur = s.cur from cur_release s]
  · exact if_neg Bool.false_ne_true
theorem bar_barArrive : (s.barArrive n).myCore.bar n = (s.myCore.bar n).joined s.cur.slot := by
  rw [barArrive_named hn]
  split
  · rw [bar_latchAll, State.myCore_updMyCore, bar_setBar]
  · rw [State.myCore_updMyCore, bar_setBar]
/-- G that the thread sees once it has arrived. -/
theorem barGen_arrived (d : Reg) (v : Word) :
    ((s.barArrive n).setReg d v).barGen n = ((s.myCore.bar n).joined s.cur.slot).g := by
  rw [barGen_named hn, bar_setReg, bar_barArrive hn]
end

theorem joined_g_last {b : NamedBar} {slot : Nat} (hopen : b.isOpen = true) (hfull : b.arrived ||| (1#11 <<< slot) = b.members) :
    (b.joined slot).g = b.gen + 1 := by
  rw [NamedBar.joined, if_pos hfull]
  exact if_pos hopen
theorem joined_g_notLast {b : NamedBar} {slot : Nat} (hopen : b.isOpen = true) (hfull : ¬ b.arrived ||| (1#11 <<< slot) = b.members) :
    (b.joined slot).g = b.gen := by
  rw [NamedBar.joined, if_neg hfull]
  exact if_pos hopen

/-! The instructions. -/

section
variable {s : State} {d a b : Reg}

/-- What the arriving instructions make of a barrier that may not be arrived at. -/
theorem exec_arrive_bad (hbad : s.barBad (s.reg a).toNat = true) : exec (.bararr d a) s = .next (s.trap 7 (s.reg a))
    ∧ (Fresh s → exec (.barsync d a) s = .next (s.trap 7 (s.reg a))) := by
  refine ⟨congrArg Host.Outcome.next (if_pos hbad), fun hfresh => ?_⟩
  have hwait : s.me.waitOf = none := congrArg (Option.map Prod.fst) hfresh
  change execBarsync d a s = _
  unfold execBarsync
  rw [hwait]
  exact congrArg Host.Outcome.next (if_pos hbad)
theorem exec_bararr (hbad : s.barBad (s.reg a).toNat = false) : exec (.bararr d a) s = .next
    ((s.barArrive (s.reg a).toNat).put d ((s.barGen (s.reg a).toNat).setWidth 64)) :=
  congrArg Host.Outcome.next (if_neg (by rw [hbad]; exact Bool.false_ne_true))
/-- BARSYNC that issues for the first time arrives, and then waits as BARWAIT does. -/
theorem exec_barsync (hfresh : Fresh s) (hbad : s.barBad (s.reg a).toNat = false) {u : State} {g : W32}
    (hg : s.barGen (s.reg a).toNat = g) (hu : (s.barArrive (s.reg a).toNat).setReg d (g.setWidth 64) = u) :
    exec (.barsync d a) s = .next (if genDone (u.barGen (s.reg a).toNat) g then u.advance
      else u.wait (.barSync (s.reg a).toNat g) (.barsync d a)) := by
  have hwait : s.me.waitOf = none := congrArg (Option.map Prod.fst) hfresh
  subst hg hu
  change execBarsync d a s = _
  unfold execBarsync
  rw [hwait]
  exact congrArg Host.Outcome.next (if_neg (by rw [hbad]; exact Bool.false_ne_true))
theorem exec_barsync_woken {k : Nat} {h l : W32} (hready : s.me.state = .ready) (hwoke : s.me.woke = some (.barSync k h, l)) :
    exec (.barsync d a) s = .next s.advance := by
  have hwait : s.me.waitOf = some (.barSync k h) := by rw [Thread.waitOf, Thread.begun, hready, hwoke]; rfl
  have hdone : s.barWoke (.barSync k h) = true := by rw [State.barWoke, hwoke]; exact beq_self_eq_true _
  change execBarsync d a s = _
  unfold execBarsync
  rw [hwait]
  exact congrArg Host.Outcome.next (if_pos (by rw [hdone, Bool.true_or]))
theorem exec_barwait (hn : (s.reg a).toNat ≤ 47) : exec (.barwait a b) s = .next
    (if s.barWoke (.barrier (s.reg a).toNat ((s.reg b).setWidth 32)) || genDone (s.barGen (s.reg a).toNat) ((s.reg b).setWidth 32)
      then s.advance else s.wait (.barrier (s.reg a).toNat ((s.reg b).setWidth 32)) (.barwait a b)) :=
  congrArg Host.Outcome.next (if_neg (not_lt.mpr hn))
/-- A BARWAIT whose generation has not completed, and that has not been woken, waits. -/
theorem exec_barwait_waits (hn : (s.reg a).toNat ≤ 47) (hwoke : s.me.woke = none)
    (hg : 2 ^ 31 ≤ (s.barGen (s.reg a).toNat - (s.reg b).setWidth 32 - 1).toNat) : exec (.barwait a b) s = .next
      (s.wait (.barrier (s.reg a).toNat ((s.reg b).setWidth 32)) (.barwait a b)) := by
  have hwaiting : s.barWoke (.barrier (s.reg a).toNat ((s.reg b).setWidth 32)) = false := by rw [State.barWoke, hwoke]; rfl
  rw [exec_barwait hn, hwaiting, Bool.false_or, if_neg (mt genDone_iff.mp (not_lt.mpr hg))]
theorem exec_barwait_done (hn : (s.reg a).toNat ≤ 47) (hg : (s.barGen (s.reg a).toNat - (s.reg b).setWidth 32 - 1).toNat < 2 ^ 31) :
    exec (.barwait a b) s = .next s.advance := by
  rw [exec_barwait hn, if_pos (by rw [genDone_iff.mpr hg, Bool.or_true])]
theorem exec_barwait_woken (hn : (s.reg a).toNat ≤ 47) {l : W32}
    (hwoke : s.me.woke = some (.barrier (s.reg a).toNat ((s.reg b).setWidth 32), l)) : exec (.barwait a b) s = .next s.advance := by
  have hdone : s.barWoke (.barrier (s.reg a).toNat ((s.reg b).setWidth 32)) = true := by
    rw [State.barWoke, hwoke]
    exact beq_self_eq_true _
  rw [exec_barwait hn, if_pos (by rw [hdone, Bool.true_or])]
theorem exec_barinit_refused (h : 47 < (s.reg a).toNat ∨ domainBar (s.reg a).toNat = true ∨ bits (s.reg b) 63 11 ≠ 0
      ∨ ((s.myCore.bar (s.reg a).toNat).isOpen = true ∧ (s.myCore.bar (s.reg a).toNat).arrived ≠ 0)) :
    exec (.barinit a b) s = .next (s.trap 7 (s.reg a)) := congrArg Host.Outcome.next (if_pos h)
end

theorem domainBar_of_range {n : Nat} (hlo : 40 ≤ n) (hhi : n ≤ 46) : domainBar n = true := by
  rw [domainBar, Bool.and_eq_true, decide_eq_true_iff, decide_eq_true_iff]
  exact ⟨hlo, hhi⟩
theorem barBad_domain {s : State} {n : Nat} (hlo : 40 ≤ n) (hhi : n ≤ 46) :
    s.barBad n = (s.me.level != n - 40 || s.domainArrived s.cur) := by
  rw [State.barBad, if_neg (by omega), if_pos (domainBar_of_range hlo hhi)]

/-- Settles O16: a barrier that may be arrived at is arrived at by the last member or by another; every refusal is a condition of the
instruction's first test. -/
theorem namedBarriers : Obligations.NamedBarriers := by
  unfold Obligations.NamedBarriers
  refine ⟨fun d a b s => ?_, fun d a b s => ?_⟩
  · intro n hn o g
    have h47 : n ≤ 47 := by omega
    have hgen : s.barGen n = o.g := barGen_named hn
    refine ⟨fun hb ho => ?init, fun ho hm ha => ?arrive, fun hg => ⟨_, exec_barwait_done h47 (hgen ▸ hg), s.advance_wrote⟩,
      fun hg hwoke => ⟨_, exec_barwait_waits h47 hwoke (hgen ▸ hg), rfl⟩, fun l hwoke => ⟨_, exec_barwait_woken h47 hwoke, s.advance_wrote⟩,
      fun k h l hready hwoke => ⟨_, exec_barsync_woken hready hwoke, s.advance_wrote⟩, ?query⟩
    case init =>
      have hok : ¬ (47 < n ∨ domainBar n = true ∨ bits (s.reg b) 63 11 ≠ 0 ∨ (o.isOpen = true ∧ o.arrived ≠ 0)) := by
        rintro (h | h | h | ⟨hopen, harrived⟩)
        · omega
        · exact Bool.false_ne_true ((domainBar_named hn).symm.trans h)
        · exact h hb
        · exact harrived (ho hopen)
      exact ⟨_, congrArg Host.Outcome.next (if_neg hok), State.advance_wrote _⟩
    case arrive =>
      have hbad : s.barBad n = false := by rw [barBad_named hn, ho, hm, ha]; rfl
      have hgen : s.barGen n = o.gen := (barGen_named hn).trans (if_pos ho)
      intro full r u
      have harrive : s.barArrive n = u := barArrive_named hn
      refine ⟨⟨_, exec_bararr hbad, ?_⟩, fun hfresh hfull => ⟨u.put d (o.gen.setWidth 64), ?_, State.put_wrote _ d _⟩,
        fun hfresh hfull => ⟨_, ?_, rfl⟩⟩
      · rw [show s.barGen (s.reg a).toNat = o.gen from hgen, ← harrive]
        exact State.put_wrote _ d _
      · rw [exec_barsync hfresh hbad hgen rfl, barGen_arrived hn, joined_g_last ho hfull, if_pos (genDone_succ _), ← harrive]
        rfl
      · rw [exec_barsync hfresh hbad hgen rfl, barGen_arrived hn, joined_g_notLast ho hfull, genDone_self, if_neg Bool.false_ne_true,
          ← harrive]
        rfl
    case query =>
      have hstatus : s.barStatus n = _ := if_neg (by rw [domainBar_named hn]; exact Bool.false_ne_true)
      exact ⟨_, congrArg Host.Outcome.next (if_neg (not_lt.mpr h47)), hstatus ▸ s.put_wrote d _⟩
  · intro n o arrives
    have harrives : s.barBad n = true → arrives := exec_arrive_bad
    refine ⟨fun h => ?_, fun hlo hhi => ?_, fun h => exec_barinit_refused (.inr (.inr (.inl h))),
      fun ho ha => exec_barinit_refused (.inr (.inr (.inr ⟨ho, ha⟩))), fun hn h => harrives ?_⟩
    · exact ⟨exec_barinit_refused (.inl h), congrArg Host.Outcome.next (if_pos h), harrives (if_pos h),
        congrArg Host.Outcome.next (if_pos h)⟩
    · refine ⟨exec_barinit_refused (.inr (.inl (domainBar_of_range hlo hhi))), fun h => harrives ?_, fun h => harrives ?_⟩
      · rw [barBad_domain hlo hhi, bne_iff_ne.mpr h, Bool.true_or]
      · rw [barBad_domain hlo hhi, h, Bool.or_true]
    · rw [barBad_named hn]
      rcases h with h | h | h <;> simp [o, h]

end Sys2Proof.Machine
end

section
/-! SUPPORT. The serial number that an arrival at a domain barrier takes (R209, R212). -/

namespace Sys2Proof.Machine

open Sys2Proof Sys2Proof.Safety

theorem serial_updMe (s : State) (f : Thread → Thread) : (s.updMe f).myCore.serial = s.myCore.serial := by
  obtain ⟨-, -, -, -, hrest, -, -⟩ := (Mine.refl s).updMe f
  exact (congrArg (fun k : Core => k.serial) hrest :)
/-- A register write takes no serial number of the core. -/
theorem serial_of_wroteReg {s t : State} {d : Reg} {v : Word} {f : FFlags} (h : WroteReg s t d v f) :
    (t.core s.cur.core).serial = s.myCore.serial := by
  obtain ⟨⟨-, -, -, -, -, -, hrest, -⟩, -⟩ := h
  exact (congrArg (fun k : Core => k.serial) hrest :)

/-- The release and the record of an arrival at a domain barrier. -/
def State.arrivedAt (s : State) (g : W32) : State := s.release.updMe (fun x => { x with arrival := some ⟨g, s.release.myCore.serial⟩ })
theorem serial_arrivedAt (s : State) (g : W32) : (s.arrivedAt g).myCore.serial = s.myCore.serial :=
  (serial_updMe ..).trans (coresKept_release s).serial

section
variable {s : State} {n : Nat} (hn : domainBar n = true)
include hn

/-- Beside its record, the arrival takes the next serial number of its core. -/
theorem barArrive_domain : s.barArrive n = (s.arrivedAt (s.release.barGen n)).updMyCore (fun k => { k with serial := k.serial + 1 }) :=
  if_pos hn
theorem serial_barArrive_domain : (s.barArrive n).myCore.serial = s.myCore.serial + 1 := by
  rw [barArrive_domain hn, State.myCore_updMyCore, serial_arrivedAt]
theorem cur_barArrive_domain : (s.barArrive n).cur = s.cur := by
  rw [barArrive_domain hn]
  exact cur_release s
/-- The state after the arrival is thus not that of a register write from its record alone. -/
theorem not_wroteReg_arrivedAt (g : W32) (d : Reg) (v w : Word) : ¬ WroteReg (s.arrivedAt g) ((s.barArrive n).put d v) d w 0 := by
  intro hwrote
  have hput := serial_of_wroteReg ((s.barArrive n).put_wrote d v)
  have hkept := serial_of_wroteReg hwrote
  rw [cur_barArrive_domain hn, serial_barArrive_domain hn] at hput
  rw [serial_arrivedAt, show (s.arrivedAt g).cur = s.cur from cur_release s, hput] at hkept
  exact Nat.succ_ne_self _ hkept
end

/-- After reset the thread that runs is at level 0; g1 names that level's barrier. -/
def atOwnBarrier : State := State.reset.updMe (·.setReg 1 40)
theorem atOwnBarrier_arrives : (atOwnBarrier.reg 1).toNat = 40 ∧ atOwnBarrier.me.level = 40 - 40
    ∧ atOwnBarrier.domainArrived atOwnBarrier.cur = false := by decide

/-- Refutes O17, in its first clause: BARARR at the thread's own level also takes a serial number of the core, by which the completion
tells what was sent before the arrival; the clause has the register write follow the record of the arrival alone. -/
theorem not_domainBarriers : ¬ Obligations.DomainBarriers := by
  unfold Obligations.DomainBarriers
  rintro ⟨hbars, -⟩
  obtain ⟨hreg, hlevel, hnew⟩ := atOwnBarrier_arrives
  have hlo : 40 ≤ (atOwnBarrier.reg 1).toNat := hreg.ge
  have hhi : (atOwnBarrier.reg 1).toNat ≤ 46 := by omega
  have hown : atOwnBarrier.me.level = (atOwnBarrier.reg 1).toNat - 40 := by rw [hreg, hlevel]
  have hbad : atOwnBarrier.barBad (atOwnBarrier.reg 1).toNat = false := by rw [barBad_domain hlo hhi, hown, hnew, bne_self_eq_false, Bool.or_false]
  obtain ⟨⟨t, ht, hwrote⟩, -⟩ := (hbars 2 1 0 atOwnBarrier hlo hhi).1 hown hnew
  obtain rfl := Host.Outcome.next.inj ((exec_bararr hbad).symm.trans ht)
  exact not_wroteReg_arrivedAt (domainBar_of_range hlo hhi) _ _ _ _ hwrote

end Sys2Proof.Machine
end

section
/-! SUPPORT. SEND's operand block and checks, and the rank table (R199, R200, R203, R205, R206, R324). -/

namespace Sys2Proof.Machine

open Sys2Proof Sys2Proof.Safety

/-! Operand blocks that may not be loaded (R126, R130, R200). -/

section
variable {s : State} {ea : Word} {n align : Nat} {go : State → List Byte → State}

theorem localBlock_outside (h : ¬ (localBase.toNat ≤ ea.toNat ∧ ea.toNat + n ≤ localBase.toNat + localBytes)) :
    s.localBlock ea n align false go = s.trap 3 ea := by
  unfold State.localBlock
  dsimp only
  rw [if_neg fun h => Bool.false_ne_true h.1, if_pos h]
theorem localBlock_misaligned (h : localBase.toNat ≤ ea.toNat ∧ ea.toNat + n ≤ localBase.toNat + localBytes) (hal : ea.toNat % align ≠ 0) :
    s.localBlock ea n align false go = s.trap 2 ea := by
  unfold State.localBlock
  dsimp only
  rw [if_neg fun h => Bool.false_ne_true h.1, if_neg (not_not.mpr h), if_pos hal]
theorem localBlock_trap {c : Nat} {v : Word} (h : localBase.toNat ≤ ea.toNat ∧ ea.toNat + n ≤ localBase.toNat + localBytes)
    (hal : ea.toNat % align = 0) (hc : s.check s.cur ea n align .read = .trap c v) :
    s.localBlock ea n align false go = s.trap c v := by
  unfold State.localBlock
  dsimp only
  rw [if_neg fun h => Bool.false_ne_true h.1, if_neg (not_not.mpr h), if_neg (not_not.mpr hal), hc]
end

/-! What a SEND with an allowed operand block comes to (R200). -/

theorem bits_low {v : Word} (h : bits v 63 16 = 0) : bits v 15 0 = v.toNat := by
  have hv := v.isLt
  simp only [bits] at h ⊢
  omega

/-- The message of a descriptor is on its way, or held, with the payload that the sender's engine reads once its stores are performed. -/
def State.sendOff (s : State) (rank : Nat) (d0 d1 : Word) : State :=
  s.release.postMsg rank (s.myCtx.rank rank)
    (.send (bits d0 63 32) (bits d1 28 24) (s.release.engineBytes s.cur.core (.loc (bits d0 31 0)) (bits d1 12 0)))
/-- The halters that it takes are zeroed (R324). -/
def State.sendTakes (s : State) (rank : Nat) (d0 d1 : Word) : State :=
  if d1.getLsbD 16 then
    (s.sendOff rank d0 d1).writeAt s.cur.core (.loc (bits d0 31 0)) (List.replicate (bits d1 12 0) 0)
  else s.sendOff rank d0 d1

section
variable {d a b : Reg} {s : State} {bs : List Byte} (hbs : ReadsLocal s (s.reg b) 16 16 bs)
include hbs

theorem exec_send_badDesc (hbad : badDesc (dwordAt bs 0) (dwordAt bs 8) = true) : exec (.send d a b) s = .next (s.put d 1) := by
  change execSend d a b s = _
  unfold execSend
  dsimp only
  rw [localBlock_readsLocal false _ (by decide) (by decide) hbs, if_pos hbad]

section
variable (hdesc : badDesc (dwordAt bs 0) (dwordAt bs 8) = false)
include hdesc

theorem exec_send_noRank (hrank : bits (s.reg a) 63 16 ≠ 0 ∨ rankV (s.myCtx.rank (bits (s.reg a) 15 0)) = false) :
    exec (.send d a b) s = .next (s.trap 19 (s.reg a)) := by
  change execSend d a b s = _
  unfold execSend
  dsimp only
  rw [localBlock_readsLocal false _ (by decide) (by decide) hbs, hdesc, if_neg Bool.false_ne_true,
    if_pos (hrank.imp id fun h => by rw [h]; exact Bool.false_ne_true)]

variable (hhigh : bits (s.reg a) 63 16 = 0) (hrank : rankV (s.myCtx.rank (s.reg a).toNat) = true)
include hhigh hrank

/-- A rank with an entry: the payload's source bytes are checked, then the message waits for room or leaves. -/
theorem exec_send_ranked : exec (.send d a b) s = .next
    (match s.sendCheck (bits (dwordAt bs 0) 31 0) (bits (dwordAt bs 8) 12 0) ((dwordAt bs 8).getLsbD 16) with
      | some (c, v) => s.trap c v
      | none =>
        if rankT (s.myCtx.rank (s.reg a).toNat) ∧ 64 ≤ s.heldFor s.me.ctx (s.reg a).toNat (dieOf s.cur.core) then
          s.wait (.transit (s.reg a).toNat) (.send d a b)
        else (s.sendTakes (s.reg a).toNat (dwordAt bs 0) (dwordAt bs 8)).put d 0) := by
  have hok : ¬ (bits (s.reg a) 63 16 ≠ 0 ∨ ¬ rankV (s.myCtx.rank (bits (s.reg a) 15 0)) = true) := by
    rw [bits_low hhigh]
    exact fun h => h.elim (· hhigh) (· hrank)
  change execSend d a b s = _
  unfold execSend
  dsimp only
  rw [localBlock_readsLocal false _ (by decide) (by decide) hbs, hdesc, if_neg Bool.false_ne_true, if_neg hok, bits_low hhigh]
  have hcur : ∀ rank e k, (s.release.postMsg rank e k).cur = s.cur := fun _ _ _ => cur_release s
  simp only [hcur, cur_release] <;> rfl
theorem exec_send_check {c : Nat} {v : Word}
    (hcheck : s.sendCheck (bits (dwordAt bs 0) 31 0) (bits (dwordAt bs 8) 12 0) ((dwordAt bs 8).getLsbD 16) = some (c, v)) :
    exec (.send d a b) s = .next (s.trap c v) := by
  rw [exec_send_ranked hbs hdesc hhigh hrank, hcheck]

section
variable (hcheck : s.sendCheck (bits (dwordAt bs 0) 31 0) (bits (dwordAt bs 8) 12 0) ((dwordAt bs 8).getLsbD 16) = none)
include hcheck

theorem exec_send_waits (htransit : rankT (s.myCtx.rank (s.reg a).toNat) = true)
    (hfull : 64 ≤ s.heldFor s.me.ctx (s.reg a).toNat (dieOf s.cur.core)) :
    exec (.send d a b) s = .next (s.wait (.transit (s.reg a).toNat) (.send d a b)) := by
  rw [exec_send_ranked hbs hdesc hhigh hrank, hcheck]
  exact congrArg Host.Outcome.next (if_pos ⟨htransit, hfull⟩)
theorem exec_send_leaves (hroom : rankT (s.myCtx.rank (s.reg a).toNat) = true →
      s.heldFor s.me.ctx (s.reg a).toNat (dieOf s.cur.core) < 64) :
    exec (.send d a b) s = .next ((s.sendTakes (s.reg a).toNat (dwordAt bs 0) (dwordAt bs 8)).put d 0) := by
  rw [exec_send_ranked hbs hdesc hhigh hrank, hcheck]
  exact congrArg Host.Outcome.next (if_neg fun h => absurd (hroom h.1) (not_lt.mpr h.2))
end
end
end

/-! The checks of the payload's source bytes (R200, R324). -/

section
variable {s : State} {src len : Nat} {hw : Bool}

theorem sendCheck_unreadable {x : Nat} (h : s.myCore.protRefused (!s.me.sup) (localAddr src).toNat len true false = some x) :
    s.sendCheck src len hw = some (3, BitVec.ofNat 64 x) := by
  unfold State.sendCheck
  dsimp only
  rw [h]
theorem sendCheck_halters (h : s.myCore.protRefused (!s.me.sup) (localAddr src).toNat len true false = none) :
    s.sendCheck src len true = lowerTrap (s.myCore.protRefused (!s.me.sup) (localAddr src).toNat len false true)
      (s.myCore.rangeHit (localAddr src).toNat len true) := by
  unfold State.sendCheck
  dsimp only
  rw [h]
  rfl
end
theorem lowerTrap_prot {p r : Option Nat} {x : Nat} (hp : p = some x) (hr : ∀ y, r = some y → x ≤ y) :
    lowerTrap p r = some (3, BitVec.ofNat 64 x) := by
  subst hp
  cases r with
  | none => rfl
  | some y => exact if_pos (hr y rfl)
theorem lowerTrap_range {p r : Option Nat} {y : Nat} (hr : r = some y) (hp : ∀ x, p = some x → y < x) :
    lowerTrap p r = some (5, BitVec.ofNat 64 y) := by
  subst hr
  cases p with
  | none => rfl
  | some x => exact if_neg (not_le.mpr (hp x rfl))

/-! RKMAP and RKMOVE (R205, R206). -/

section
variable {d a b : Reg} {s : State} (hsup : s.me.sup = true)
include hsup

section
variable (hfresh : Fresh s)
include hfresh

theorem exec_rkmap_refused (h : bits (s.reg a) 63 16 ≠ 0 ∨ rankReserved (s.reg b) = true) :
    exec (.rkmap d a b) s = .next (s.put d (BitVec.allOnes 64)) := by
  have hwait : s.me.waitOf = none := congrArg (Option.map Prod.fst) hfresh
  change execRkmap d a b s = _
  unfold execRkmap
  dsimp only
  rw [supOnly_of_sup hsup, hwait]
  exact congrArg Host.Outcome.next (if_pos h)
/-- An RKMAP of an entry that may be written: it waits where the entry sets T and messages are on their way to the old coordinate. -/
theorem exec_rkmap (hhigh : bits (s.reg a) 63 16 = 0) (hres : rankReserved (s.reg b) = false) : exec (.rkmap d a b) s = .next
    (if rankT (s.reg b) = true ∧ s.release.onTheWay s.me.ctx (s.reg a).toNat (s.myCtx.rank (s.reg a).toNat) = true then
      (s.release.setRank s.me.ctx (s.reg a).toNat (inTransit (s.myCtx.rank (s.reg a).toNat))).wait
        (.landing (s.reg a).toNat (s.myCtx.rank (s.reg a).toNat)) (.rkmap d a b)
    else (s.release.setRank s.me.ctx (s.reg a).toNat (s.reg b)).put d (s.myCtx.rank (s.reg a).toNat)) := by
  have hwait : s.me.waitOf = none := congrArg (Option.map Prod.fst) hfresh
  have hok : ¬ (bits (s.reg a) 63 16 ≠ 0 ∨ rankReserved (s.reg b) = true) := by
    rw [hhigh, hres]
    exact fun h => h.elim (· rfl) Bool.false_ne_true
  change execRkmap d a b s = _
  unfold execRkmap
  dsimp only
  rw [supOnly_of_sup hsup, hwait]
  dsimp only
  rw [if_neg hok, bits_low hhigh, me_release]
end

theorem exec_rkmap_landed {n : Nat} {o : Word} (hwait : s.me.waitOf = some (.landing n o)) (hland : s.onTheWay s.me.ctx n o = false) :
    exec (.rkmap d a b) s = .next ((s.setRank s.me.ctx n (s.reg b)).put d o) := by
  change execRkmap d a b s = _
  unfold execRkmap
  dsimp only
  rw [supOnly_of_sup hsup, hwait]
  exact congrArg Host.Outcome.next (if_neg (by rw [hland]; exact Bool.false_ne_true))

theorem exec_rkmove_refused (h : bits (s.reg a) 63 16 ≠ 0 ∨ rankReserved (s.reg b) = true
    ∨ rankT (s.myCtx.rank (bits (s.reg a) 15 0)) = false) : exec (.rkmove d a b) s = .next (s.put d 0) := by
  change Host.Outcome.next (s.supOnly _ _) = _
  rw [supOnly_of_sup hsup, if_pos (h.imp id (.imp id fun h => by rw [h]; exact Bool.false_ne_true))]
theorem exec_rkmove (hhigh : bits (s.reg a) 63 16 = 0) (hres : rankReserved (s.reg b) = false)
    (htransit : rankT (s.myCtx.rank (s.reg a).toNat) = true) : exec (.rkmove d a b) s = .next
      (((s.setRank s.me.ctx (s.reg a).toNat ((1#64 <<< 63) ||| (s.reg b &&& 0xFFFFFF#64))).releaseRank s.me.ctx (s.reg a).toNat
        (rankDev (s.reg b)) (rankCore (s.reg b))).put d
        (BitVec.ofNat 64 (s.msgs.filter (fun m => m.held && m.ctx == s.me.ctx && m.rank == (s.reg a).toNat)).length)) := by
  have hok : ¬ (bits (s.reg a) 63 16 ≠ 0 ∨ rankReserved (s.reg b) = true ∨ ¬ rankT (s.myCtx.rank (s.reg a).toNat) = true) := by
    rw [hhigh, hres]
    exact fun h => h.elim (· rfl) (·.elim Bool.false_ne_true (· htransit))
  change Host.Outcome.next (s.supOnly _ _) = _
  rw [supOnly_of_sup hsup, bits_low hhigh, if_neg hok]
end

/-- Settles O15: SEND's block and its checks are taken in their order; RKMAP and RKMOVE are the register writes and the wait of their
branches. -/
theorem sendAndRanks : Obligations.SendAndRanks := by
  unfold Obligations.SendAndRanks
  refine ⟨fun d a b s => ⟨?block, fun bs hbs => ⟨fun hbad => ⟨_, exec_send_badDesc hbs hbad, s.put_wrote d 1⟩,
    fun hdesc hrank => exec_send_noRank hbs hdesc hrank,
    fun hdesc hhigh hrank => ⟨fun x hx => ?unreadable, fun hread hhalters => ?halters,
      fun hcheck => ⟨fun ht hfull => ?full, fun hroom => ?leaves⟩⟩⟩⟩, fun d a b s hsup => ?ranks⟩
  case block =>
    refine ⟨fun h => congrArg Host.Outcome.next (localBlock_outside h), fun h hal => congrArg Host.Outcome.next (localBlock_misaligned h hal),
      fun h hal => ⟨fun x hx => congrArg Host.Outcome.next (localBlock_trap h hal ?_),
        fun y hp hy => congrArg Host.Outcome.next (localBlock_trap h hal ?_)⟩⟩
    · exact check_refused (addrClass_loc h.1 (by omega)) hal hx
    · have hloc := addrClass_loc h.1 (by omega)
      exact check_locked (by rw [hloc]; exact nofun) hal (fun _ => hp) hy
  case unreadable => exact exec_send_check hbs hdesc hhigh hrank (sendCheck_unreadable hx)
  case halters =>
    refine ⟨fun x hw hg => exec_send_check hbs hdesc hhigh hrank ?_, fun y hg hw => exec_send_check hbs hdesc hhigh hrank ?_⟩
    · rw [hhalters, sendCheck_halters hread, ← lowerTrap_prot hw hg]
      rfl
    · rw [hhalters, sendCheck_halters hread, ← lowerTrap_range hg hw]
      rfl
  case full => exact ⟨_, exec_send_waits hbs hdesc hhigh hrank hcheck ht hfull, rfl⟩
  case leaves => exact ⟨_, exec_send_leaves hbs hdesc hhigh hrank hcheck hroom, State.put_wrote _ d 0⟩
  case ranks =>
    refine ⟨fun hfresh h => ⟨_, exec_rkmap_refused hsup hfresh h, s.put_wrote d _⟩,
      fun hfresh hhigh hres hway => ⟨_, ?written, State.put_wrote _ d _⟩, fun hfresh hhigh hres ht hway => ⟨_, ?waits, rfl⟩,
      fun n o hwait hland => ⟨_, exec_rkmap_landed hsup hwait hland, State.put_wrote _ d _⟩,
      fun h => ⟨_, exec_rkmove_refused hsup h, s.put_wrote d 0⟩,
      fun hhigh hres ht => ⟨_, exec_rkmove hsup hhigh hres ht, State.put_wrote _ d _⟩⟩
    case written =>
      rw [exec_rkmap hsup hfresh hhigh hres]
      exact congrArg Host.Outcome.next (if_neg fun h => Bool.false_ne_true ((hway h.1).symm.trans h.2))
    case waits =>
      rw [exec_rkmap hsup hfresh hhigh hres]
      exact congrArg Host.Outcome.next (if_pos ⟨ht, hway⟩)

end Sys2Proof.Machine
end

section
/-! SUPPORT. Landings, messages that leave the device, ends of page walks, and fault messages (R176, R182-R185, R201, R279, R329). -/

namespace Sys2Proof

/-- The entry that a number is found at after a write. -/
theorem Tbl.find?_set {α : Type} (t : Tbl α) (k j : Nat) (v : α) :
    (t.set k v).find? (fun p => p.1 == j) = if j = k then some (k, v) else t.find? (fun p => p.1 == j) := by
  induction t with
  | nil =>
    by_cases hj : j = k
    · simp [Tbl.set, hj]
    · simp [Tbl.set, hj, Ne.symm hj]
  | cons p t ih =>
    obtain ⟨i, u⟩ := p
    rw [Tbl.set]
    by_cases hj : j = k
    · subst hj
      rw [if_pos rfl] at ih ⊢
      by_cases hi : i = j
      · simp [hi]
      · by_cases hlt : j < i
        · simp [hi, hlt]
        · simp [hi, hlt, ih]
    · rw [if_neg hj] at ih ⊢
      by_cases hi : i = k
      · subst hi
        simp [Ne.symm hj]
      · by_cases hlt : k < i
        · simp [hi, hlt, Ne.symm hj]
        · simp [hi, hlt, List.find?_cons, ih]

end Sys2Proof

namespace Sys2Proof.Machine

open Sys2Proof Sys2Proof.Safety

/-! Messages for this device (R201, R279). -/

theorem updCore_updCore (s : State) (c : Nat) (f g : Core → Core) : (s.updCore c f).updCore c g = s.updCore c (fun k => g (f k)) := by
  change (s.updCore c f).setCore c (g ((s.updCore c f).core c)) = _
  rw [State.core_updCore, if_pos rfl]
  exact congrArg (fun l => { s with cores := l }) (Tbl.set_set ..)

theorem mem_of_rest {k j : Core} (h : coreRest j = coreRest k) : j.mem = k.mem := (congrArg (fun k : Core => k.mem) h :)
theorem arrivals_of_rest {k j : Core} (h : coreRest j = coreRest k) : j.arrivals = k.arrivals := (congrArg (fun k : Core => k.arrivals) h :)

/-- A core in which a payload has landed and been counted. -/
def Core.landed (k : Core) (off ctr : Nat) (pl : List Byte) : Core :=
  (({ k with mem := k.mem.write off pl, eccBad := eccAfter k.eccBad off pl.length } : Core).counted ctr 1).latchAll.hpm 0x0A 1
/-- A core in whose arrival buffer an answer has come. -/
def Core.answered (k : Core) (m : Msg) (ray : Nat) (a : Answer) : Core := ((k.takeAnswer m ray a).hpm 0x0A 1).latchAll

section
variable (k : Core) (off ctr : Nat) (pl : List Byte) (m : Msg) (ray : Nat) (a : Answer)

theorem landed_rest : coreRest (k.landed off ctr pl) = coreRest
    (({ k with mem := k.mem.write off pl, eccBad := eccAfter k.eccBad off pl.length } : Core).counted ctr 1) := by
  rw [Core.landed, Core.hpm_rest, latchAll_rest]
theorem mem_landed : (k.landed off ctr pl).mem = k.mem.write off pl := by
  rw [mem_of_rest (landed_rest k off ctr pl)]
  rfl
theorem counter_landed (n : Nat) : (k.landed off ctr pl).counter n = k.counter n + if n = ctr then 1 else 0 := by
  rw [counter_of_rest (landed_rest k off ctr pl), counter_counted]
  rfl
theorem thread_landed {n : Nat} (hn : n < 11) : (k.landed off ctr pl).thread n = { k.thread n with latch := true } := by
  rw [Core.landed, Core.hpm_thread, thread_coreLatchAll, if_pos hn]
  rfl
theorem answered_rest : coreRest (k.answered m ray a) = coreRest (k.takeAnswer m ray a) := by
  rw [Core.answered, latchAll_rest, Core.hpm_rest]
theorem thread_answered {n : Nat} (hn : n < 11) : (k.answered m ray a).thread n = { k.thread n with latch := true } := by
  rw [Core.answered, thread_coreLatchAll, if_pos hn, Core.hpm_thread]
  rfl
end

section
variable {s : State} {i : Nat} {m : Msg}

theorem landSend_quiet {c : Nat} (h : ∀ p ∈ s.ctxs, s.serviceCore p.1 = some c → p.2.evWait = []) (off ctr : Nat) (pl : List Byte) :
    s.landSend c off ctr pl = s.updCore c (·.landed off ctr pl) := by
  have hw : ∀ p ∈ (s.writeAt c (.loc off) pl).ctxs, (s.writeAt c (.loc off) pl).serviceCore p.1 = some c → p.2.evWait = [] := h
  rw [State.landSend, bumpCounter_quiet hw, State.latchAll, State.hpm, State.writeAt, updCore_updCore, updCore_updCore, updCore_updCore]
  rfl

variable (hm : s.msgs[i]? = some m) (hland : s.mayLand m = true)
include hm hland

theorem exec_messageLanding : exec (.messageLanding i) s = .next
    (if m.dev ≠ s.devNum then s.leaveDevice i m
      else match m.kind with
        | .send off ctr pl => (s.dropMsg i).landSend m.core off ctr pl
        | .answer ray a => if (s.core m.core).arrivalRoom then
            (((s.dropMsg i).updCore m.core (·.takeAnswer m ray a)).hpm m.core 0x0A 1).latchAll m.core else s) := by
  change execMessageLanding i s = _
  unfold execMessageLanding
  rw [hm]
  dsimp only
  rw [hland, if_neg (by decide)] <;> rfl
theorem exec_messageLanding_away (hdev : m.dev ≠ s.devNum) : exec (.messageLanding i) s = .next (s.leaveDevice i m) := by
  rw [exec_messageLanding hm hland, if_pos hdev]
theorem exec_messageLanding_send {off ctr : Nat} {pl : List Byte} (hdev : m.dev = s.devNum) (hk : m.kind = .send off ctr pl)
    (hquiet : ∀ p ∈ s.ctxs, s.serviceCore p.1 = some m.core → p.2.evWait = []) :
    exec (.messageLanding i) s = .next ((s.dropMsg i).updCore m.core (·.landed off ctr pl)) := by
  have hd : ∀ p ∈ (s.dropMsg i).ctxs, (s.dropMsg i).serviceCore p.1 = some m.core → p.2.evWait = [] := hquiet
  rw [exec_messageLanding hm hland, if_neg (not_not.mpr hdev), hk]
  exact congrArg Host.Outcome.next (landSend_quiet hd off ctr pl)
theorem exec_messageLanding_answer {ray : Nat} {a : Answer} (hdev : m.dev = s.devNum) (hk : m.kind = .answer ray a) :
    exec (.messageLanding i) s = .next
      (if (s.core m.core).arrivals.length < 16 then (s.dropMsg i).updCore m.core (·.answered m ray a) else s) := by
  rw [exec_messageLanding hm hland, if_neg (not_not.mpr hdev), hk]
  dsimp only
  rw [State.latchAll, State.hpm, updCore_updCore, updCore_updCore]
  exact congrArg Host.Outcome.next (if_congr decide_eq_true_iff rfl rfl)
end

/-! Messages for another device (R326, R328, R329). -/

@[simp] theorem State.port_updPort (s : State) (n q : Nat) (f : Port → Port) :
    (s.updPort n f).port q = if q = n then f (s.port n) else s.port q := Tbl.get_set ..

/-- The device less its ports and the numbers of flits and free values. -/
def State.offLinks (s : State) : State := { s with ports := [], flitNum := 0, freeCount := 0 }

/-- `k` flits have gone out on port `p`, and nothing else has changed. -/
structure FlitsSent (p k : Nat) (s t : State) : Prop where
  rest : t.offLinks = s.offLinks
  unacked : (t.port p).unacked.length = (s.port p).unacked.length + k
  others : ∀ q, q ≠ p → t.port q = s.port q

theorem flitsSent_one (s : State) (p : Nat) (f : Flit) (tag : Nat) : FlitsSent p 1 s (s.sendFlit p f tag) := by
  refine ⟨rfl, ?_, fun q hq => ?_⟩
  · change ((s.updPort p (·.send f tag s.flitNum)).port p).unacked.length = _
    rw [State.port_updPort, if_pos rfl]
    exact List.length_append
  · exact (State.port_updPort s p q (·.send f tag s.flitNum)).trans (if_neg hq)
theorem FlitsSent.trans {p k l : Nat} {s t u : State} (h : FlitsSent p k s t) (g : FlitsSent p l t u) : FlitsSent p (k + l) s u :=
  ⟨g.rest.trans h.rest, by rw [g.unacked, h.unacked, Nat.add_assoc], fun q hq => (g.others q hq).trans (h.others q hq)⟩
theorem flitsSent_all {β : Type} (p tag : Nat) (f : State → β → Flit) (l : List β) (s : State) :
    FlitsSent p l.length s (l.foldl (fun s b => s.sendFlit p (f s b) tag) s) := by
  induction l generalizing s with
  | nil => exact ⟨rfl, rfl, fun _ _ => rfl⟩
  | cons b l ih =>
    rw [List.length_cons, Nat.add_comm]
    exact (flitsSent_one s p (f s b) tag).trans (ih _)

/-- The flits of the next message to leave. -/
def State.nextFlits (s : State) : List (List Byte) := (Config.messageFlits s.freeCount).take 512

section
variable {s : State} {die dev p : Nat} (tag : Nat)

theorem flitsOut_sent (hp : s.routePort (ioOfDie die) dev = some p) (hroom : (s.port p).room s.nextFlits.length = true) :
    ∃ u, s.flitsOut die dev tag = some u ∧ FlitsSent p s.nextFlits.length s u := by
  unfold State.flitsOut
  rw [hp]
  dsimp only
  rw [← State.nextFlits, hroom, if_neg (by decide)]
  obtain ⟨hrest, hunacked, hothers⟩ := flitsSent_all p tag (fun t b => ({
    type := 1, hops := 0, dst := BitVec.ofNat 8 dev, src := BitVec.ofNat 8 t.devNum, seq := 0, ackseq := 0, credits := 0
    payload := b, crc := 0 } : Flit)) s.nextFlits s.fresh
  exact ⟨_, rfl, hrest, hunacked, hothers⟩
theorem flitsOut_full (hp : s.routePort (ioOfDie die) dev = some p) (hroom : (s.port p).room s.nextFlits.length = false) :
    s.flitsOut die dev tag = none := by
  unfold State.flitsOut
  rw [hp]
  dsimp only
  rw [← State.nextFlits, hroom, if_pos (by decide)]
theorem flitsOut_noPort (hp : s.routePort (ioOfDie die) dev = none) : s.flitsOut die dev tag = none := by
  unfold State.flitsOut
  rw [hp]
end
theorem leaveDevice_of_some {s u : State} (i : Nat) {m : Msg} (h : s.flitsOut (dieOf m.src.core) m.dev s.nextTag = some u) :
    s.leaveDevice i m = { u.dropMsg i with awayMsgs := u.awayMsgs ++ [(s.nextTag, m)] } := by
  unfold State.leaveDevice
  dsimp only
  rw [h]
theorem leaveDevice_of_none {s : State} (i : Nat) {m : Msg} (h : s.flitsOut (dieOf m.src.core) m.dev s.nextTag = none) :
    s.leaveDevice i m = s := by
  unfold State.leaveDevice
  dsimp only
  rw [h]

/-! Page walks end (R176, R182). -/

theorem coalAt_setCoal (s : State) (d e : Nat) (x : Coal) : (s.setCoal d e x).coalAt d e = x := by
  rw [State.coalAt, State.setCoal, State.die_updDie, if_pos rfl]
  dsimp only
  split
  · next h => rw [Tbl.get_erase, if_pos rfl, h]
  · exact Tbl.get_set_self ..
theorem exec_pageWalkComplete {s : State} {d e : Nat} (hw : (s.coalAt d e).state = .walking)
    (hfirst : s.earlierWalk d (s.coalAt d e).seq = false) : exec (.pageWalkComplete d e) s = .next
    (match s.walk (512 * d) (s.coalAt d e).ctx (BitVec.ofNat 64 (s.coalAt d e).va) (s.coalAt d e).access (s.coalAt d e).user with
      | (.ok t, u) => (u.fillTlbs d (s.coalAt d e).reqs t).releaseCoal d e .free
      | (.error (l, r), u) =>
        let u := u.setCoal d e { s.coalAt d e with state := .reported }
        { u with faultMsgs := u.faultMsgs ++ [⟨(s.coalAt d e).ctx, (s.coalAt d e).record d e l r⟩] }) := by
  have hok : ¬ ((s.coalAt d e).state ≠ .walking ∨ s.earlierWalk d (s.coalAt d e).seq = true) := by
    rw [hw, hfirst]
    exact fun h => h.elim (· rfl) Bool.false_ne_true
  exact congrArg Host.Outcome.next (if_neg hok)

/-! Fault messages (R184, R185). -/

section
variable {x : Ctx} {n : Nat}

theorem faultRec_eq_none : x.faultRec n = none ↔ (x.faults.find? (fun p => p.1 == n)).isNone = true := by
  rw [Ctx.faultRec, Option.map_eq_none_iff, Option.isNone_iff_eq_none]
theorem freeRecord_lowest (hn : n < 8) (hfree : x.faultRec n = none) (hbelow : ∀ k, k < n → x.faultRec k ≠ none) :
    x.freeRecord = some n := by
  rw [Ctx.freeRecord, List.find?_range_eq_some]
  refine ⟨faultRec_eq_none.mp hfree, List.mem_range.mpr hn, fun k hk => ?_⟩
  simpa using mt faultRec_eq_none.mpr (hbelow k hk)
theorem freeRecord_full (h : ∀ k, k < 8 → x.faultRec k ≠ none) : x.freeRecord = none := by
  rw [Ctx.freeRecord, List.find?_eq_none]
  exact fun k hk => mt faultRec_eq_none.mpr (h k (List.mem_range.mp hk))
theorem faultRec_set (r : FaultRec) (k : Nat) :
    ({ x with faults := x.faults.set n r } : Ctx).faultRec k = if k = n then some r else x.faultRec k := by
  unfold Ctx.faultRec
  dsimp only
  rw [Tbl.find?_set]
  split <;> rfl
end

/-- A fault message stored in record `n`, with the time of its storing. -/
def State.faultStored (s : State) (m : FaultMsg) (n : Nat) : State :=
  s.readTime.2.updCtx m.ctx (fun x => { x with faults := x.faults.set n { m.record with w3 := s.readTime.1 } })
/-- A fault message dropped and counted. -/
def State.faultDropped (s : State) (m : FaultMsg) : State :=
  s.updCtx m.ctx (fun x => { x with dropFlag := true, dropped := min 0xFFFFFFFF (x.dropped + 1) })

section
variable {s : State} {m : FaultMsg} {n : Nat}

theorem ctx_faultStored : (s.faultStored m n).ctx m.ctx
    = { s.ctx m.ctx with faults := (s.ctx m.ctx).faults.set n { m.record with w3 := s.readTime.1 } } :=
  (State.ctx_updCtx ..).trans (if_pos rfl)
theorem serviceCore_faultStored : (s.faultStored m n).serviceCore m.ctx = s.serviceCore m.ctx := by
  unfold State.serviceCore
  rw [ctx_faultStored]
  rfl
theorem faultArrives_stored (h : (s.ctx m.ctx).freeRecord = some n) : s.faultArrives m =
    match s.serviceCore m.ctx with
    | some c => (s.faultStored m n).latchAll c
    | none => s.faultStored m n := by
  unfold State.faultArrives
  rw [h, ← serviceCore_faultStored (n := n)] <;> rfl
/-- Whether or not a service core is woken, contexts and fault messages are those of the stored record. -/
theorem faultArrives_stored_rest (h : (s.ctx m.ctx).freeRecord = some n) :
    (s.faultArrives m).ctx m.ctx = (s.faultStored m n).ctx m.ctx ∧ (s.faultArrives m).faultMsgs = s.faultMsgs := by
  rw [faultArrives_stored h]
  split <;> exact ⟨rfl, rfl⟩
/-- The service core, where the context has one, is woken. -/
theorem faultArrives_wakes (h : (s.ctx m.ctx).freeRecord = some n) {c : Nat} (hc : s.serviceCore m.ctx = some c) {j : Nat} (hj : j < 11) :
    (((s.faultArrives m).core c).thread j).latch = true := by
  rw [faultArrives_stored h, hc]
  exact latchAll_latches _ c hj

theorem ctx_faultDropped : (s.faultDropped m).ctx m.ctx
    = { s.ctx m.ctx with dropFlag := true, dropped := min 0xFFFFFFFF ((s.ctx m.ctx).dropped + 1) } :=
  (State.ctx_updCtx ..).trans (if_pos rfl)
theorem faultArrives_dropped (h : (s.ctx m.ctx).freeRecord = none) : s.faultArrives m =
    match (s.coalAt m.record.die m.record.entry).state with
    | .reported => (s.faultDropped m).setCoal m.record.die m.record.entry
        { s.coalAt m.record.die m.record.entry with state := .unreported }
    | .released => (s.faultDropped m).setCoal m.record.die m.record.entry Coal.reset
    | _ => s.faultDropped m := by
  unfold State.faultArrives
  rw [h] <;> rfl
theorem faultArrives_dropped_rest (h : (s.ctx m.ctx).freeRecord = none) :
    (s.faultArrives m).ctx m.ctx = (s.faultDropped m).ctx m.ctx ∧ (s.faultArrives m).faultMsgs = s.faultMsgs := by
  rw [faultArrives_dropped h]
  split <;> exact ⟨rfl, rfl⟩
theorem faultArrives_unreported (h : (s.ctx m.ctx).freeRecord = none) (hrep : (s.coalAt m.record.die m.record.entry).state = .reported) :
    ((s.faultArrives m).coalAt m.record.die m.record.entry).state = .unreported := by
  rw [faultArrives_dropped h, hrep]
  exact congrArg Coal.state (coalAt_setCoal ..)
end

theorem exec_faultMessageArrival {s : State} {i : Nat} {m : FaultMsg} (h : s.faultMsgs[i]? = some m) :
    exec (.faultMessageArrival i) s = .next (({ s with faultMsgs := s.faultMsgs.eraseIdx i } : State).faultArrives m) := by
  change execFaultMessageArrival i s = _
  unfold execFaultMessageArrival
  rw [h]

/-- Settles O46: a landing changes the core that it names; a message leaves with its flits or stays; the end of a walk and the storing or
dropping of a fault message are the cases of their definitions. -/
theorem messagesAndFaults : Obligations.MessagesAndFaults := by
  unfold Obligations.MessagesAndFaults
  refine ⟨fun i m s hm hland => ⟨fun off ctr pl hdev hk hquiet hwf => ?send,
    fun ray a hdev hk => ⟨fun hroom => ?answer, fun hfull => ?noRoom⟩,
    fun p hdev hp hroom => ?leaves, fun p hdev hp hroom => ?full, fun hdev hp => ?noRoute⟩,
    fun s => ⟨fun d e t u hw hfirst hwalk => ?page, fun d e l r u hw hfirst hwalk => ?fault, fun i m n hm hn hfree hbelow => ?stored,
      fun i m hm hfull => ?dropped⟩⟩
  case send =>
    refine ⟨_, exec_messageLanding_send hm hland hdev hk hquiet, rfl, ?_⟩
    have hcore : ((s.dropMsg i).updCore m.core (·.landed off ctr pl)).core m.core = (s.core m.core).landed off ctr pl :=
      (State.core_updCore ..).trans (if_pos rfl)
    have hbyte : ∀ x, ((s.dropMsg i).updCore m.core (·.landed off ctr pl)).memByte m.core (.loc x)
        = if off ≤ x ∧ x < off + pl.length then pl.getD (x - off) 0 else s.memByte m.core (.loc x) := fun x => by
      rw [State.memByte, hcore, mem_landed, Mem.byte_write pl _ off x hwf]
      rfl
    refine ⟨fun k hk => ?_, fun x hx => ?_, fun n => ?_, fun n hn => ?_, fun c hc => (State.core_updCore ..).trans (if_neg hc), rfl, rfl⟩
    · rw [hbyte, if_pos (by omega), Nat.add_sub_cancel_left]
    · rw [hbyte, if_neg (by omega)]
    · rw [hcore, counter_landed]
    · rw [hcore, thread_landed _ _ _ _ hn]
  case answer =>
    have hcore : ((s.dropMsg i).updCore m.core (·.answered m ray a)).core m.core = (s.core m.core).answered m ray a :=
      (State.core_updCore ..).trans (if_pos rfl)
    have hrest := answered_rest (s.core m.core) m ray a
    refine ⟨_, (exec_messageLanding_answer hm hland hdev hk).trans (congrArg Host.Outcome.next (if_pos hroom)), rfl, ?_, fun n hn => ?_,
      fun c hc => (State.core_updCore ..).trans (if_neg hc), ?_, rfl, rfl⟩
    · rw [hcore, arrivals_of_rest hrest]
      rfl
    · rw [hcore, thread_answered _ _ _ _ hn]
    · rw [hcore, mem_of_rest hrest]
      rfl
  case noRoom =>
    exact ⟨s, (exec_messageLanding_answer hm hland hdev hk).trans (congrArg Host.Outcome.next (if_neg (not_lt.mpr hfull))), rfl⟩
  case leaves =>
    obtain ⟨u, hu, hrest, hunacked, hothers⟩ := flitsOut_sent s.nextTag hp hroom
    refine ⟨_, (exec_messageLanding_away hm hland hdev).trans (congrArg Host.Outcome.next (leaveDevice_of_some i hu)), ?_, ?_, hunacked, hothers,
      fun c => ?_, ?_, ?_⟩
    · exact (congrArg (fun v : State => v.msgs.eraseIdx i) hrest :)
    · exact (congrArg (fun v : State => v.awayMsgs ++ [(s.nextTag, m)]) hrest :)
    · exact (congrArg (fun v : State => v.core c) hrest :)
    · exact (congrArg State.hbm hrest :)
    · exact (congrArg State.weight hrest :)
  case full =>
    exact ⟨s, (exec_messageLanding_away hm hland hdev).trans (congrArg Host.Outcome.next (leaveDevice_of_none i (flitsOut_full _ hp hroom))), rfl⟩
  case noRoute =>
    exact ⟨s, (exec_messageLanding_away hm hland hdev).trans (congrArg Host.Outcome.next (leaveDevice_of_none i (flitsOut_noPort _ hp))), rfl⟩
  case page => exact ⟨_, by rw [exec_pageWalkComplete hw hfirst, hwalk], rfl⟩
  case fault =>
    refine ⟨_, by rw [exec_pageWalkComplete hw hfirst, hwalk], ?_, rfl⟩
    exact congrArg Coal.state (coalAt_setCoal u d e { s.coalAt d e with state := .reported })
  case stored =>
    have hlow : (({ s with faultMsgs := s.faultMsgs.eraseIdx i } : State).ctx m.ctx).freeRecord = some n := freeRecord_lowest hn hfree hbelow
    obtain ⟨hctx, hmsgs⟩ := faultArrives_stored_rest hlow
    rw [ctx_faultStored] at hctx
    refine ⟨_, exec_faultMessageArrival hm, hmsgs, ?_, fun k hk => ?_, ?_, fun c hc j hj => faultArrives_wakes hlow hc hj⟩
    · rw [hctx, faultRec_set, if_pos rfl]
      rfl
    · rw [hctx, faultRec_set, if_neg hk]
      rfl
    · rw [hctx]
      rfl
  case dropped =>
    have hnone : (({ s with faultMsgs := s.faultMsgs.eraseIdx i } : State).ctx m.ctx).freeRecord = none := freeRecord_full hfull
    obtain ⟨hctx, hmsgs⟩ := faultArrives_dropped_rest hnone
    rw [ctx_faultDropped] at hctx
    refine ⟨_, exec_faultMessageArrival hm, hmsgs, by rw [hctx], by rw [hctx]; rfl, by rw [hctx]; rfl,
      fun hrep => faultArrives_unreported hnone hrep⟩

end Sys2Proof.Machine
end

section
/-! SUPPORT. Hitches: the rendezvous, what becomes of each member, and that memory is as it was (R217-R219). -/

namespace Sys2Proof.Machine

open Sys2Proof Sys2Proof.Safety

/-! Something done as each of several threads. -/

theorem Mine.thread {s t : State} {x : Thread} {w : FFlags} (h : Mine s t x w) (j : ThreadId) :
    t.thread j = if j = s.cur then x else s.thread j := by
  have hcur := h.cur
  obtain ⟨-, -, hcores, hslots, -, -, hme⟩ := h
  by_cases hj : j = s.cur
  · rw [if_pos hj, hj, ← hcur]
    exact hme
  · rw [if_neg hj]
    by_cases hc : j.core = s.cur.core
    · have hslot : j.slot ≠ s.cur.slot := fun e => hj (ThreadId.eq_of hc e)
      rw [State.thread, State.thread, hc]
      exact hslots j.slot hslot
    · rw [State.thread, hcores j.core hc]
      rfl

/-- `t` is `s` but for thread `m`, which became `x`, and for what no load looks at. -/
structure MemberDone (s t : State) (m : ThreadId) (x : Thread) : Prop where
  cur : t.cur = s.cur
  thread : ∀ j, t.thread j = if j = m then x else s.thread j
  loads : LoadsKept s t

theorem memberDone_asThread {s : State} {m : ThreadId} {g : State → State} {x : Thread} {w : FFlags}
    (h : Mine { s with cur := m } (g { s with cur := m }) x w) : MemberDone s (s.asThread m g) m x := by
  obtain ⟨hcores, hhbm, hweight, hstale, hfree⟩ := h.loadsKept
  exact ⟨rfl, h.thread, hcores, hhbm, hweight, hstale, hfree⟩

/-- Each thread of a list changes as what is done as it says, however many go before it; no load sees any of it. -/
theorem foldl_memberDone {F : State → ThreadId → State} {X : ThreadId → Thread → Thread} {c : ThreadId}
    (hF : ∀ u m, u.cur = c → MemberDone u (F u m) m (X m (u.thread m))) {l : List ThreadId} (hl : l.Nodup) {s : State} (hs : s.cur = c) :
    LoadsKept s (l.foldl F s) ∧ ∀ m ∈ l, (l.foldl F s).thread m = X m (s.thread m) := by
  suffices hall : LoadsKept s (l.foldl F s) ∧ ∀ j, (l.foldl F s).thread j = if j ∈ l then X j (s.thread j) else s.thread j from
    ⟨hall.1, fun m hm => (hall.2 m).trans (if_pos hm)⟩
  induction l generalizing s with
  | nil => exact ⟨⟨fun _ => ⟨rfl, rfl⟩, rfl, rfl, rfl, rfl⟩, fun _ => rfl⟩
  | cons m l ih =>
    obtain ⟨hm, hl⟩ := List.nodup_cons.mp hl
    have hdone := hF s m hs
    obtain ⟨hloads, hthreads⟩ := ih hl (hdone.cur.trans hs)
    refine ⟨hdone.loads.trans hloads, fun j => ?_⟩
    rw [List.foldl_cons, hthreads, hdone.thread]
    by_cases hj : j = m
    · subst hj
      rw [if_neg hm, if_pos rfl, if_pos (List.mem_cons_self ..)]
    · simp only [List.mem_cons, hj, false_or, if_false]

/-! The members of a hitch. -/

theorem hitchMembers_nodup (t : ThreadId) (f : BitVec 16) : (hitchMembers t f).Nodup := by
  refine List.Nodup.map (fun i j h => ?_) (List.nodup_range.filter _)
  exact Nat.add_left_cancel (congrArg ThreadId.core h)
theorem hitchMember_self {t : ThreadId} (h : t.slot = 0) : hitchMember (clusterOf t.core) (coreIdOf t.core) = t :=
  ThreadId.eq_of (Nat.div_add_mod t.core 16) h.symm
theorem coreIdOf_mem_lanes (c : Nat) : coreIdOf c ∈ lanes := List.mem_range.mpr (Nat.mod_lt c (by decide))
theorem self_mem_hitchMembers {t : ThreadId} (h : t.slot = 0) {f : BitVec 16} (hf : f.getLsbD (coreIdOf t.core) = true) :
    t ∈ hitchMembers t f :=
  List.mem_map.mpr ⟨_, List.mem_filter.mpr ⟨coreIdOf_mem_lanes _, hf⟩, hitchMember_self h⟩

/-- A member that has written the result word to `d`, with HITCHED and its record as they then are. -/
def Thread.hitchPut (x : Thread) (d : Reg) (v : Word) (hitched : Bool) (h : Option HitchRec) : Thread :=
  { (x.afterPut d v).setStatusBit 8 hitched with hitch := h }
/-- A member of a hitch that starts (R218), and of one that is dissolved (R219). -/
def Thread.fused (x : Thread) (d : Reg) (f : BitVec 16) : Thread :=
  x.hitchPut d (hitchWord f (leaderOf f)) true (some ⟨f, leaderOf f, 0⟩)
def Thread.unfused (x : Thread) (d : Reg) (h : HitchRec) : Thread := x.hitchPut d (hitchWord h.mask h.leader) false none

theorem mine_fuse (s : State) (d : Reg) (f : BitVec 16) : Mine s (s.fuse d f) (s.me.fused d f) s.way :=
  (mine_put s d _).updMe _
theorem mine_unhitch (s : State) (d : Reg) (h : HitchRec) :
    Mine s ((s.put d (hitchWord h.mask h.leader)).updMe Thread.unhitched) (s.me.unfused d h) s.way :=
  (mine_put s d _).updMe _

section
variable (x : Thread) (d : Reg) (v : Word) (b : Bool) (h : Option HitchRec)

theorem Thread.hitchPut_hitch : (x.hitchPut d v b h).hitch = h := rfl
theorem Thread.hitchPut_hitched : (x.hitchPut d v b h).hitched = b :=
  (Thread.setStatusBit_getLsbD (x.afterPut d v) 8 (by decide) b 8).trans (if_pos rfl)
theorem Thread.hitchPut_pc (hr : x.replay = none) : (x.hitchPut d v b h).pc = x.pc + 4 := by
  obtain ⟨hpc, -⟩ := Thread.stepPc_behind (x.setReg d v).retire ((Thread.setReg_replay x d v).trans hr)
  exact hpc.trans (congrArg (· + 4) (Thread.setReg_pc x d v))
theorem Thread.regNo_hitchPut (n : Nat) : regNo (x.hitchPut d v b h) n = if n = x.regId d ∧ n ≠ 0 then some v else regNo x n :=
  calc regNo (x.hitchPut d v b h) n
    _ = regNo (x.afterPut d v) n := rfl
    _ = _ := by rw [Thread.afterPut, Thread.regNo_stepPc, Thread.regNo_retire, Thread.regNo_setReg]
/-- A member goes on behind the instruction, `d` alone of its registers changed. -/
theorem Thread.goesOn_of_hitchPut {x y : Thread} {d : Reg} {v : Word} {b : Bool} {h : Option HitchRec} (hy : y = x.hitchPut d v b h) :
    y.state = .ready ∧ (x.replay = none → y.pc = x.pc + 4) ∧ ∀ n, regNo y n = if n = x.regId d ∧ n ≠ 0 then some v else regNo x n := by
  subst hy
  exact ⟨Thread.stepPc_state _, x.hitchPut_pc d v b h, x.regNo_hitchPut d v b h⟩
end

/-! The rendezvous (R218). -/

theorem atHitch_iff {t : Thread} {addr : Word} {k : BitVec 16} : t.atHitch addr k = true ↔ t.waitOf = some (.hitch addr k) := by
  unfold Thread.atHitch
  split
  · next a m hw => simp [hw]
  · next hw => simpa using hw addr k

/-- A core named by the mask has come: it is the thread that runs, or waits there. -/
def State.atRendezvous (s : State) (addr : Word) (k : BitVec 16) (i : Nat) : Bool :=
  hitchMember (clusterOf s.cur.core) i == s.cur || (s.thread (hitchMember (clusterOf s.cur.core) i)).atHitch addr k

theorem getLsbD_foldl_bits (l : List Nat) (m : BitVec 16) {i : Nat} (hi : i < 16) :
    (l.foldl (fun m i => m ||| (1#16 <<< i)) m).getLsbD i = true ↔ m.getLsbD i = true ∨ i ∈ l := by
  induction l generalizing m with
  | nil => simp
  | cons j l ih =>
    have hbit : (1#16 <<< j).getLsbD i = true ↔ i = j := by
      rw [BitVec.getLsbD_shiftLeft, BitVec.getLsbD_one, decide_eq_true hi, Bool.true_and]
      simp only [Bool.and_eq_true, Bool.not_eq_true', decide_eq_true_eq, decide_eq_false_iff_not]
      omega
    rw [List.foldl_cons, ih, BitVec.getLsbD_or, Bool.or_eq_true, hbit, List.mem_cons, or_assoc]

section
variable {s : State} {addr : Word} {k : BitVec 16}

theorem rendezvous_eq_none_iff : s.rendezvous addr k = none ↔
    ∃ i, i < 16 ∧ k.getLsbD i = true ∧ s.atRendezvous addr k i = false ∧
      (s.thread (hitchMember (clusterOf s.cur.core) i)).state.live = true := by
  unfold State.rendezvous
  dsimp only
  rw [ite_eq_right_iff]
  simp [SlotState.ended, lanes, State.atRendezvous, and_assoc]

theorem getLsbD_rendezvous {f : BitVec 16} (h : s.rendezvous addr k = some f) {i : Nat} (hi : i < 16) :
    f.getLsbD i = true ↔ k.getLsbD i = true ∧ s.atRendezvous addr k i = true := by
  unfold State.rendezvous at h
  dsimp only at h
  split at h
  · cases h
    rw [getLsbD_foldl_bits _ _ hi]
    simp [lanes, hi, State.atRendezvous, and_comm]
  · cases h

theorem self_mem_rendezvous {f : BitVec 16} (h : s.rendezvous addr k = some f) (hslot : s.cur.slot = 0)
    (hk : k.getLsbD (coreIdOf s.cur.core) = true) : s.cur ∈ hitchMembers s.cur f := by
  refine self_mem_hitchMembers hslot ((getLsbD_rendezvous h (List.mem_range.mp (coreIdOf_mem_lanes _))).mpr ⟨hk, ?_⟩)
  rw [State.atRendezvous, hitchMember_self hslot, beq_self_eq_true, Bool.true_or]

theorem rendezvous_waits_iff : s.rendezvous addr k = none ↔
    ∃ i, i < 16 ∧ k.getLsbD i = true ∧ hitchMember (clusterOf s.cur.core) i ≠ s.cur
      ∧ (s.thread (hitchMember (clusterOf s.cur.core) i)).state.live = true
      ∧ (s.thread (hitchMember (clusterOf s.cur.core) i)).waitOf ≠ some (.hitch addr k) := by
  have hcome : ∀ i, s.atRendezvous addr k i = false ↔ hitchMember (clusterOf s.cur.core) i ≠ s.cur
      ∧ (s.thread (hitchMember (clusterOf s.cur.core) i)).waitOf ≠ some (.hitch addr k) := fun i => by
    rw [State.atRendezvous, Bool.or_eq_false_iff, beq_eq_false_iff_ne, ← Bool.not_eq_true, atHitch_iff]
  rw [rendezvous_eq_none_iff]
  refine exists_congr fun i => and_congr_right' (and_congr_right' ?_)
  rw [hcome, and_assoc]
  exact and_congr_right' and_comm
end

/-! HITCH, case by case (R218). -/

/-- The mask names the core itself, cores of its group only, and nothing above them. -/
def State.hitchNamed (s : State) (v : Word) : Prop :=
  bits v 63 16 = 0 ∧ (v.setWidth 16).getLsbD (coreIdOf s.cur.core) = true ∧ v.setWidth 16 &&& ~~~s.groupMask = 0#16
theorem not_hitchNamed_iff {s : State} {v : Word} : ¬ s.hitchNamed v ↔
    bits v 63 16 ≠ 0 ∨ (v.setWidth 16).getLsbD (coreIdOf s.cur.core) = false ∨ v.setWidth 16 &&& ~~~s.groupMask ≠ 0#16 := by
  rw [State.hitchNamed, not_and_or, not_and_or, Bool.not_eq_true]

/-- The members of a mask are fused, each with the destination of the HITCH that it is at. -/
def State.fuseAll (s : State) (d : Reg) (f : BitVec 16) : State :=
  (hitchMembers s.cur f).foldl (fun u m => u.asThread m (fun v => v.fuse (if m = u.cur then d else v.me.hitchDest d) f)) s

section
variable {s : State} {d a : Reg}

theorem exec_hitch_helper (h : s.cur.slot ≠ 0) : exec (.hitch d a) s = .next (s.put d 0) :=
  congrArg Host.Outcome.next (if_pos h)

variable (hslot : s.cur.slot = 0)
include hslot

theorem exec_hitch_hitched {h : HitchRec} (hh : s.me.hitch = some h) : exec (.hitch d a) s = .next (s.put d (hitchWord h.mask h.leader)) := by
  change execHitch d a s = _
  rw [execHitch, if_neg (not_not.mpr hslot), hh]

variable (hfree : s.me.hitch = none)
include hfree

theorem exec_hitch_refused (h : ¬ s.hitchNamed (s.reg a)) : exec (.hitch d a) s = .next (s.put d 0) := by
  change execHitch d a s = _
  rw [execHitch, if_neg (not_not.mpr hslot), hfree]
  exact congrArg Host.Outcome.next (if_pos (not_hitchNamed_iff.mp h))

variable (hnamed : s.hitchNamed (s.reg a))
include hnamed

theorem exec_hitch_named : exec (.hitch d a) s = .next (match s.rendezvous s.me.pc ((s.reg a).setWidth 16) with
    | none => s.wait (.hitch s.me.pc ((s.reg a).setWidth 16)) (.hitch d a)
    | some f => if (hitchMembers s.cur f).length = 1 then s.put d (hitchWord f (leaderOf f)) else s.fuseAll d f) := by
  change execHitch d a s = _
  rw [execHitch, if_neg (not_not.mpr hslot), hfree]
  exact congrArg Host.Outcome.next (if_neg fun h => not_hitchNamed_iff.mpr h hnamed)
theorem exec_hitch_waits (h : s.rendezvous s.me.pc ((s.reg a).setWidth 16) = none) :
    exec (.hitch d a) s = .next (s.wait (.hitch s.me.pc ((s.reg a).setWidth 16)) (.hitch d a)) := by
  rw [exec_hitch_named hslot hfree hnamed, h]
theorem exec_hitch_alone {f : BitVec 16} (h : s.rendezvous s.me.pc ((s.reg a).setWidth 16) = some f)
    (hone : (hitchMembers s.cur f).length = 1) : exec (.hitch d a) s = .next (s.put d (hitchWord f (leaderOf f))) := by
  rw [exec_hitch_named hslot hfree hnamed, h]
  exact congrArg Host.Outcome.next (if_pos hone)
theorem exec_hitch_fuses {f : BitVec 16} (h : s.rendezvous s.me.pc ((s.reg a).setWidth 16) = some f)
    (htwo : 2 ≤ (hitchMembers s.cur f).length) : exec (.hitch d a) s = .next (s.fuseAll d f) := by
  rw [exec_hitch_named hslot hfree hnamed, h]
  exact congrArg Host.Outcome.next (if_neg (by omega))
end

/-- What fusing makes of the members: each writes the word of the hitch to its own destination and starts the hitch. -/
theorem fuseAll_members (s : State) (d : Reg) (f : BitVec 16) :
    LoadsKept s (s.fuseAll d f) ∧ ∀ m ∈ hitchMembers s.cur f, (s.fuseAll d f).thread m =
      (s.thread m).fused (if m = s.cur then d else (s.thread m).hitchDest d) f := by
  refine foldl_memberDone (c := s.cur) (X := fun m x => x.fused (if m = s.cur then d else x.hitchDest d) f) (fun u m hu => ?_)
    (hitchMembers_nodup s.cur f) rfl
  rw [← hu]
  exact memberDone_asThread (mine_fuse { u with cur := m } _ f)

theorem decode_wordOf_hitch (r x : Reg) : decode (wordOf (.hitch r x)) = .ok (.hitch r x) := Laws.roundTrip (.hitch r x) rfl _ rfl
theorem hitchDest_of_word {t : Thread} {r x : Reg} (h : t.word = wordOf (.hitch r x)) (d : Reg) : t.hitchDest d = r := by
  rw [Thread.hitchDest, h, decode_wordOf_hitch]

/-! UNHITCH (R219). -/

/-- The members of a mask write the result word and go on for themselves. -/
def State.unfuseAll (s : State) (d : Reg) (h : HitchRec) : State :=
  (hitchMembers s.cur h.mask).foldl (fun u m => u.asThread m (fun v => (v.put d (hitchWord h.mask h.leader)).updMe Thread.unhitched)) s

theorem exec_unhitch_outside {s : State} {d : Reg} (h : s.me.hitch = none) : exec (.unhitch d) s = .next (s.put d 0) := by
  change execUnhitch d s = _
  rw [execUnhitch, h]
theorem exec_unhitch_hitched {s : State} {d : Reg} {h : HitchRec} (hh : s.me.hitch = some h) :
    exec (.unhitch d) s = .next (s.unfuseAll d h) := by
  change execUnhitch d s = _
  rw [execUnhitch, hh]
  rfl
theorem unfuseAll_members (s : State) (d : Reg) (h : HitchRec) :
    LoadsKept s (s.unfuseAll d h) ∧ ∀ m ∈ hitchMembers s.cur h.mask, (s.unfuseAll d h).thread m = (s.thread m).unfused d h := by
  refine foldl_memberDone (c := s.cur) (X := fun _ x => x.unfused d h) (fun u m _ => ?_) (hitchMembers_nodup s.cur h.mask) rfl
  exact memberDone_asThread (mine_unhitch { u with cur := m } d h)

/-- Settles O19: HITCH and UNHITCH outside a hitch are register writes or a wait; else each member in its turn changes itself alone. -/
theorem hitches : Obligations.Hitches := by
  unfold Obligations.Hitches
  refine fun d a s => ⟨fun h => ⟨_, exec_hitch_helper h, s.put_wrote d 0⟩,
    fun h hslot hh => ⟨_, exec_hitch_hitched hslot hh, s.put_wrote d _⟩,
    fun hslot hfree hn => ⟨_, exec_hitch_refused hslot hfree hn, s.put_wrote d 0⟩,
    fun hslot hfree hn hr => ⟨_, exec_hitch_waits hslot hfree hn hr, rfl⟩,
    fun f hslot hfree hn hr => ⟨fun hone => ⟨_, exec_hitch_alone hslot hfree hn hr hone, s.put_wrote d _⟩,
      fun htwo => ⟨_, exec_hitch_fuses hslot hfree hn hr htwo, ?fuses⟩⟩,
    rendezvous_waits_iff, fun h => ⟨_, exec_unhitch_outside h, s.put_wrote d 0⟩,
    fun h hh _ _ => ⟨_, exec_unhitch_hitched hh, ?dissolves⟩⟩
  case fuses =>
    obtain ⟨hloads, hmembers⟩ := fuseAll_members s d f
    obtain ⟨-, hself, -⟩ := hn
    refine ⟨hloads.loadByte, fun m hm => ?_, ?_, fun m hm r x hne hword => ?_⟩
    · rw [hmembers m hm]
      exact ⟨Thread.hitchPut_hitch .., Thread.hitchPut_hitched ..⟩
    · have hcur := hmembers s.cur (self_mem_rendezvous hr hslot hself)
      rw [if_pos rfl] at hcur
      exact Thread.goesOn_of_hitchPut hcur
    · have hthread := hmembers m hm
      rw [if_neg hne, hitchDest_of_word hword] at hthread
      exact Thread.goesOn_of_hitchPut hthread
  case dissolves =>
    obtain ⟨hloads, hmembers⟩ := unfuseAll_members s d h
    refine ⟨hloads.loadByte, fun m hm => ⟨?_, ?_, Thread.goesOn_of_hitchPut (hmembers m hm)⟩⟩
    · rw [hmembers m hm, Thread.unfused, Thread.hitchPut_hitch]
    · rw [hmembers m hm, Thread.unfused, Thread.hitchPut_hitched]

end Sys2Proof.Machine
end

section
/-! SUPPORT. Cards that a launch loads, and the kernel instructions (R229, R233-R237). -/

namespace Sys2Proof.Machine

open Sys2Proof Sys2Proof.Safety

/-! Blocks of 64 bytes, and cards (R234). -/

theorem addrClass_global {v : Word} : addrClass v = .global ↔ v.toNat < 2 ^ 56 := by
  unfold addrClass
  split
  · next h => exact ⟨fun _ => h, fun _ => rfl⟩
  · next h => exact ⟨fun hg => by split at hg <;> exact absurd hg nofun, fun hg => absurd hg h⟩
theorem bits_top_of_global {v : Word} (h : addrClass v = .global) : bits v 63 56 = 0 := by
  have hlt := addrClass_global.1 h
  unfold bits
  omega
theorem misaligned64_eq_false {v : Word} (h5 : bits v 5 0 = 0) (h63 : bits v 63 56 = 0) : misaligned64 v = false := by
  rw [misaligned64, h5, h63]
  rfl
/-- An aligned block of 64 bytes lies in one page. -/
theorem block64_in_page {v : Word} (h : bits v 5 0 = 0) : v.toNat % 65536 + 64 ≤ 65536 := by
  unfold bits at h
  omega

section
variable {s : State} {ea : Word} {p : Nat} (h5 : bits ea 5 0 = 0) (hg : addrClass ea = .global)
  (hc : s.check s.cur ea 64 64 .read = .ok (.hbm p)) (hb : s.meetsBad s.cur.core (.hbm p) 64 = false)
include h5 hg hc hb

theorem loadSpan_block64 (go : State → List Byte → State) : s.loadSpan ea 64 64 go = go s (s.loadBytes s.cur.core (.hbm p) 64) :=
  loadSpan_page go hg (block64_in_page h5) hc hb nofun
/-- A block that Table 13-1 refuses. -/
theorem loadCard_broken {go : State → Option Card → State} (hcard : parseCard ea (s.loadBytes s.cur.core (.hbm p) 64) = none) :
    s.loadCard ea go = go s none := by
  rw [State.loadCard, loadSpan_block64 h5 hg hc hb, hcard]
/-- A card without an output block. -/
theorem loadCard_plain {go : State → Option Card → State} {c : Card}
    (hcard : parseCard ea (s.loadBytes s.cur.core (.hbm p) 64) = some (c, 0)) : s.loadCard ea go = go s (some c) := by
  rw [State.loadCard, loadSpan_block64 h5 hg hc hb, hcard]
  exact if_pos rfl
end

/-! LAUNCH (R234). -/

section
variable {d a b : Reg} {s : State} {p : Nat} (h5 : bits (s.reg a) 5 0 = 0) (hg : addrClass (s.reg a) = .global)
  (hc : s.check s.cur (s.reg a) 64 64 .read = .ok (.hbm p)) (hb : s.meetsBad s.cur.core (.hbm p) 64 = false)
include h5 hg hc hb

theorem exec_launch_broken (hvb : s.reg b = 0) (hcard : parseCard (s.reg a) (s.loadBytes s.cur.core (.hbm p) 64) = none) :
    exec (.launch d a b) s = .next (s.put d (refusal 1)) := by
  change execLaunch d a b s = _
  unfold execLaunch
  dsimp only
  rw [misaligned64_eq_false h5 (bits_top_of_global hg), if_neg Bool.false_ne_true, if_neg (fun h => h.1 hvb),
    loadCard_broken h5 hg hc hb hcard]

variable {c : Card} (hcard : parseCard (s.reg a) (s.loadBytes s.cur.core (.hbm p) 64) = some (c, 0))
include hcard

theorem exec_launch_refused (hvb : s.reg b = 0) (hcode : s.launchCode s.me.ctx c ≠ 0) :
    exec (.launch d a b) s = .next (s.put d (refusal (s.launchCode s.me.ctx c))) := by
  change execLaunch d a b s = _
  unfold execLaunch
  dsimp only
  rw [misaligned64_eq_false h5 (bits_top_of_global hg), if_neg Bool.false_ne_true, if_neg (fun h => h.1 hvb),
    loadCard_plain h5 hg hc hb hcard]
  exact congrArg Host.Outcome.next (if_pos hcode)
theorem exec_launch_accepted (hvb : s.reg b = 0) (hcode : s.launchCode s.me.ctx c = 0) : exec (.launch d a b) s =
    .next ((s.release.addKernel s.me.ctx c 0 false none).put d ((nextKid s.myCtx.lastKid).setWidth 64)) := by
  change execLaunch d a b s = _
  unfold execLaunch
  dsimp only
  rw [misaligned64_eq_false h5 (bits_top_of_global hg), if_neg Bool.false_ne_true, if_neg (fun h => h.1 hvb),
    loadCard_plain h5 hg hc hb hcard]
  exact congrArg Host.Outcome.next ((if_neg (not_not.mpr hcode)).trans (if_pos hvb))

/-- A launch with a TCB that can be read: what the TCB holds decides (R230, R234). -/
theorem exec_launch_tcb {y : Nat} (hvb : s.reg b ≠ 0) (hb5 : bits (s.reg b) 5 0 = 0) (hbg : addrClass (s.reg b) = .global)
    (hcode : s.launchCode s.me.ctx c = 0) (hbc : s.check s.cur (s.reg b) 64 64 .read = .ok (.hbm y))
    (hbb : s.meetsBad s.cur.core (.hbm y) 64 = false) : exec (.launch d a b) s = .next (
      let tb := s.loadBytes s.cur.core (.hbm y) 64
      let kid := nextKid s.myCtx.lastKid
      if tcbState tb ≠ 0 ∨ 5 < tcbNsucc tb then s.put d (refusal 5)
      else s.access (s.reg b) 64 64 .atomic fun q =>
        let r := s.release
        (((r.dirty (s.reg b)).launchTcb s.cur.core q kid (s.reg a)).addKernel s.me.ctx c (s.reg b)
          (bits (dwordAt (r.homeBytes s.cur.core q 64) 0) 31 0 != 0) none).put d (kid.setWidth 64)) := by
  change execLaunch d a b s = _
  unfold execLaunch
  dsimp only
  rw [misaligned64_eq_false h5 (bits_top_of_global hg), if_neg Bool.false_ne_true,
    if_neg (fun h => Bool.false_ne_true ((misaligned64_eq_false hb5 (bits_top_of_global hbg)).symm.trans h.2)),
    loadCard_plain h5 hg hc hb hcard]
  dsimp only
  rw [if_neg (not_not.mpr hcode), if_neg hvb, loadSpan_block64 hb5 hbg hbc hbb]
  simp only [cur_release]
  rfl
end

/-! TRIG and KWAIT (R236, R237). -/

theorem exec_trig_first {s : State} (h : s.cur.slot = 0) :
    exec .trig s = .next (s.release.updMe fun x => { x with trigDone := true }).advance := by
  change Host.Outcome.next _ = _
  simp only [h, beq_self_eq_true, Bool.or_true]
theorem exec_trig_helper {s : State} (h : s.cur.slot ≠ 0) : exec .trig s = .next (s.release.updMe id).advance := by
  change Host.Outcome.next _ = _
  simp only [beq_eq_false_iff_ne.2 h, Bool.or_false]
  rfl
theorem updMe_id_advance_wentOn (s : State) : WentOn s (s.updMe id).advance := (((Mine.refl s).updMe id).advance).wentOn

section
variable {d a : Reg} {s : State}

/-- An identifier that the context has given, as a word. -/
theorem setWidth_kid {v : Word} (h : bits v 63 32 = 0) : (v.setWidth 32 : W32).toNat = v.toNat := by
  unfold bits at h
  rw [BitVec.toNat_setWidth]
  omega
theorem exec_kwait_unknown (h : s.reg a = 0 ∨ bits (s.reg a) 63 32 ≠ 0 ∨ 2 ^ 31 ≤ (s.myCtx.lastKid - (s.reg a).setWidth 32).toNat) :
    exec (.kwait d a) s = .next (s.put d 1) :=
  congrArg Host.Outcome.next (if_pos (or_left_comm.1 h))

variable (hhi : bits (s.reg a) 63 32 = 0) (h0 : s.reg a ≠ 0) (hkid : (s.myCtx.lastKid - (s.reg a).setWidth 32).toNat < 2 ^ 31)
include hhi h0 hkid

theorem exec_kwait_known : exec (.kwait d a) s = .next (if (s.reg a).toNat = s.me.kernid then s.put d 2
    else if s.myCtx.kidLive ((s.reg a).setWidth 32) then s.wait (.kernel ((s.reg a).setWidth 32)) (.kwait d a) else s.put d 0) := by
  rw [← setWidth_kid hhi]
  exact congrArg Host.Outcome.next (if_neg (not_or.mpr ⟨not_not.mpr hhi, not_or.mpr ⟨h0, Nat.not_le.mpr hkid⟩⟩))
end

/-! TLINK (R235). -/

section
variable {d a b : Reg} {s : State} {p q : Place}

/-- TLINK with both blocks accessible, in its order of checks. -/
theorem exec_tlink (ha5 : bits (s.reg a) 5 0 = 0) (ha63 : bits (s.reg a) 63 56 = 0) (hb5 : bits (s.reg b) 5 1 = 0)
    (hb63 : bits (s.reg b) 63 56 = 0) (hp : s.check s.cur (s.reg a) 64 64 .atomic = .ok p)
    (hq : s.check s.cur (BitVec.ofNat 64 ((s.reg b).toNat / 64 * 64)) 64 64 .atomic = .ok q) : exec (.tlink d a b) s = .next (
      let r := s.release
      let c := s.cur.core
      let pa := r.homeBytes c p 64
      let u := r.readBy c [(p, 64), (q, 64)]
      let n := tcbNsucc pa
      if tcbState (r.homeBytes c q 64) ≠ 0 then u.put d 3
      else if tcbState pa = 3 ∨ ((s.reg b).getLsbD 0 ∧ (dwordAt pa 16).getLsbD 3) then u.put d 1
      else if 5 ≤ n then u.put d 2
      else
        let v := ((u.dirty (s.reg a)).dirty (BitVec.ofNat 64 ((s.reg b).toNat / 64 * 64))).writeAt c (p.plus (24 + 8 * n)) (wordBytes (s.reg b))
        ((v.rmw c (p.plus 16) 0 true 1).2.rmw c q 0 false 1).2.put d 0) := by
  change execTlink d a b s = _
  unfold execTlink
  dsimp only
  rw [misaligned64_eq_false ha5 ha63, if_neg Bool.false_ne_true, if_neg (not_or.mpr ⟨not_not.mpr hb5, not_not.mpr hb63⟩),
    access_ok hp, access_ok hq]
  simp only [cur_release]
  rfl
end

/-! The atomic accesses of a TCB (R233). -/

/-- The state less the controller. -/
def lifeless (s : State) : State := { s with mgmt := Mgmt.reset }
theorem lifeless_countWords (s : State) (ws : List Nat) : lifeless (s.countWords ws) = lifeless s := by
  unfold State.countWords
  exact foldl_keeps (f := fun t w => t.hbmError (8 * w)) (P := fun t => lifeless t = lifeless s) (fun _ _ _ h => h) s rfl
/-- Counting the uncorrectable words that are read changes the controller's lifetime record alone (R341). -/
theorem lifeless_countBad (s : State) (l : List (Place × Nat)) : lifeless (s.countBad l) = lifeless s := by
  unfold State.countBad
  exact foldl_keeps (P := fun t => lifeless t = lifeless s) (fun t _ _ h => (lifeless_countWords t _).trans h) s rfl
@[simp] theorem memByte_countBad (s : State) (l : List (Place × Nat)) (c : Nat) (p : Place) : (s.countBad l).memByte c p = s.memByte c p :=
  (congrArg (fun t : State => t.memByte c p) (lifeless_countBad s l) :)

/-- A read-modify-write in this device's memory is the write of the new value. -/
theorem rmw_here {p : Place} (hp : ∀ e x, p ≠ .remote e x) (s : State) (c : Nat) (fn : BitVec 4) (dword : Bool) (v : Word) :
    s.rmw c p fn dword v =
      let n := if dword then 8 else 4
      let old := leValue (s.homeBytes c p n)
      (old, (s.countBad [(p, n)]).writeAt c p (leBytes n ((atomicNew fn dword v 0 old).getD old))) := by
  simp only [← leNat_eq_leValue]
  cases p with
  | remote e x => exact absurd rfl (hp e x)
  | loc x => rfl
  | hbm x => rfl
  | weight x => rfl

/-- An atomic addition is that of numbers, modulo the operand's width (R140). -/
theorem atomicNew_add_width (dword : Bool) (v : Word) {old : Nat} (h : old < 2 ^ (8 * if dword then 8 else 4)) :
    (atomicNew 0 dword v 0 old).getD old = (old + v.toNat) % 2 ^ (8 * if dword then 8 else 4) := by
  cases dword with
  | false => exact (atomicNew_add (sz := .w) h).trans (Nat.add_mod_mod ..)
  | true => exact (atomicNew_add (sz := .d) h).trans (Nat.add_mod_mod ..)

/-- Settles O21: what an instruction loads decides it, and it goes on from the state that the accesses before its result leave. -/
theorem kernelInstructions : Obligations.KernelInstructions := by
  unfold Obligations.KernelInstructions
  refine ⟨fun d a b s h5 hg hvb p bs c hc hb hbs => ?launch, fun d a b s p bs c y h5 hg hvb hb5 hbg hc hb hbs hcard hcode hbc hbb => ?tcb,
    fun d a s => ⟨fun h => ⟨_, exec_trig_first h, State.advance_wrote _⟩, fun h => ⟨_, exec_trig_helper h, updMe_id_advance_wentOn _⟩,
      fun hhi h0 hkid hme => ?known, fun h => ⟨_, exec_kwait_unknown h, s.put_wrote d 1⟩, fun hlo hhi hkid hme => ?own⟩,
    fun d a b s p q ha5 ha63 hb5 hb63 hp hq => ?tlink, fun s c p dword v hok hp => ?atomics⟩
  case launch =>
    subst hbs
    exact ⟨fun hcard => ⟨_, exec_launch_broken h5 hg hc hb hvb hcard, s.put_wrote d _⟩,
      fun hcard => ⟨fun hcode => ⟨_, exec_launch_refused h5 hg hc hb hcard hvb hcode, s.put_wrote d _⟩,
        fun hcode => ⟨_, exec_launch_accepted h5 hg hc hb hcard hvb hcode, State.put_wrote _ d _⟩⟩⟩
  case tcb =>
    subst hbs
    have hexec := exec_launch_tcb (d := d) h5 hg hc hb hcard hvb hb5 hbg hcode hbc hbb
    refine ⟨fun hbad => ⟨_, hexec.trans (congrArg _ (if_pos hbad)), s.put_wrote d _⟩, fun hfree hsucc hatomic => ?_⟩
    refine ⟨_, hexec.trans (congrArg _ ((if_neg ?_).trans (access_ok hatomic))), State.put_wrote _ d _⟩
    exact not_or.mpr ⟨not_not.mpr hfree, Nat.not_lt.mpr hsucc⟩
  case known =>
    have hexec := exec_kwait_known (d := d) hhi h0 hkid
    rw [if_neg hme] at hexec
    refine ⟨fun hdead => ⟨_, hexec.trans (by rw [hdead]; rfl), s.put_wrote d 0⟩, fun hlive => ⟨_, hexec.trans (by rw [hlive]; rfl), rfl⟩⟩
  case own =>
    have h0 : s.reg a ≠ 0 := fun h => by rw [h] at hlo; exact absurd hlo (by decide)
    have hbits : bits (s.reg a) 63 32 = 0 := by unfold bits; omega
    exact ⟨_, (exec_kwait_known hbits h0 hkid).trans (congrArg _ (if_pos hme)), s.put_wrote d 2⟩
  case tlink =>
    have hexec := exec_tlink (d := d) ha5 ha63 hb5 hb63 hp hq
    intro r c pa pb u n closed
    refine ⟨fun hused => ⟨_, hexec.trans (congrArg _ (if_pos hused)), u.put_wrote d 3⟩, fun hfree => ?_⟩
    replace hexec := hexec.trans (congrArg _ (if_neg (not_not.mpr hfree)))
    refine ⟨fun hclosed => ⟨_, hexec.trans (congrArg _ (if_pos hclosed)), u.put_wrote d 1⟩, fun hopen hfull => ?_, fun hopen hroom => ?_⟩
    · exact ⟨_, hexec.trans (congrArg _ ((if_neg hopen).trans (if_pos hfull))), u.put_wrote d 2⟩
    · exact ⟨_, hexec.trans (congrArg _ ((if_neg hopen).trans (if_neg (Nat.not_le.mpr hroom)))), State.put_wrote _ d 0⟩
  case atomics =>
    intro n old new t
    have hold : old < 2 ^ (8 * n) := leValue_lt (by simp [State.homeBytes])
    have hnew : leBytes n ((atomicNew 0 dword v 0 old).getD old) = new := congrArg (leBytes n) (atomicNew_add_width dword v hold)
    have hrmw : s.rmw c p 0 dword v = (old, (s.countBad [(p, n)]).writeAt c p new) := (rmw_here hp s c 0 dword v).trans (by rw [← hnew])
    have ht : t = (s.countBad [(p, n)]).writeAt c p new := congrArg Prod.snd hrmw
    refine ⟨congrArg Prod.fst hrmw, fun x hx => ?_, fun x i die hpx hi => ?_⟩
    · rw [ht, memByte_writeAt (memOk_countBad hok) c (p, new) hx, memByte_countBad]
    · rw [ht, hpx]
      exact hbmByte_writeAt _ c x die (hi.trans_eq (leBytes_length ..).symm)

end Sys2Proof.Machine
end

section
/-! SUPPORT. Queue instructions on resident and swapped queues (R240, R250-R252). -/

namespace Sys2Proof.Machine

open Sys2Proof Sys2Proof.Safety

/-! Residency (R240). -/

section
variable {s : State} {h : Nat} {i : Instr} {go : State → State}

theorem whenResident_touched (hr : (s.die (s.myCtx.queue h).home).isResident s.me.ctx h = true) :
    s.whenResident h true i go = go (s.updDie (s.myCtx.queue h).home (·.touch s.me.ctx h)) := if_pos hr
theorem whenResident_untouched (hr : (s.die (s.myCtx.queue h).home).isResident s.me.ctx h = true) : s.whenResident h false i go = go s :=
  if_pos hr
/-- An instruction that issues for the first time counts the miss and waits for the swap. -/
theorem whenResident_swaps (hr : (s.die (s.myCtx.queue h).home).isResident s.me.ctx h = false) (hf : Fresh s) :
    s.whenResident h true i go = ((s.updDie (s.myCtx.queue h).home (·.touch s.me.ctx h)).hpm s.cur.core 0x18 1).wait
      (.swap (s.myCtx.queue h).home h) i := by
  have hw : s.waitsSwap (s.myCtx.queue h).home h = false := by
    unfold State.waitsSwap Thread.waitOf
    rw [show s.me.begun = none from hf]
    rfl
  unfold State.whenResident
  dsimp only
  rw [hr, hw]
  rfl
theorem whenResident_fetches (hr : (s.die (s.myCtx.queue h).home).isResident s.me.ctx h = false) :
    s.whenResident h false i go = (s.updDie (s.myCtx.queue h).home (·.fetch s.me.ctx h)).wait (.swap (s.myCtx.queue h).home h) i :=
  if_neg (by rw [hr]; exact Bool.false_ne_true)
end

/-! ENQ (R250). -/

/-- Bytes that a load by the thread's rules finds at one place: of local memory, or within a page. -/
theorem loadSpan_placed {s : State} {ea : Word} {n align : Nat} {p : Place} (go : State → List Byte → State)
    (hn : addrClass ea = .loc ∨ ea.toNat % 65536 + n ≤ 65536) (hc : s.check s.cur ea n align .read = .ok p)
    (hb : s.meetsBad s.cur.core p n = false) (hr : ∀ d a, p ≠ .remote d a) : s.loadSpan ea n align go = go s (s.loadBytes s.cur.core p n) := by
  cases hcl : addrClass ea with
  | global => exact loadSpan_page go hcl (hn.resolve_left (by rw [hcl]; exact nofun)) hc hb hr
  | none =>
    rw [check_noClass hcl] at hc
    exact absurd hc nofun
  | loc =>
    unfold State.loadSpan
    dsimp only
    rw [hcl]
    dsimp only
    rw [List.map_cons, List.map_nil]
    dsimp only
    rw [if_pos rfl, hc, List.find?_cons_of_neg Bool.false_ne_true, List.find?_nil, List.foldl_cons, List.foldl_nil]
    dsimp only
    rw [loadChecked_good hb hr, List.nil_append]

section
variable {d a b : Reg} {s : State} (ha : bits (s.reg a) 63 12 = 0) (hres : s.myRes (bits (s.reg a) 11 0) ≠ 0)

theorem exec_enq_badHandle (ha : bits (s.reg a) 63 12 ≠ 0) : exec (.enq d a b) s = .next (s.trap 8 (s.reg a)) :=
  congrArg Host.Outcome.next (if_pos ha)
include ha
theorem exec_enq_unreserved (hres : s.myRes (bits (s.reg a) 11 0) = 0) :
    exec (.enq d a b) s = .next (s.trap 8 (BitVec.ofNat 64 (bits (s.reg a) 11 0))) :=
  congrArg Host.Outcome.next ((if_neg (not_not.mpr ha)).trans (if_pos hres))
include hres
theorem exec_enq_misaligned (hb : (s.reg b).toNat % 8 ≠ 0) : exec (.enq d a b) s = .next (s.trap 2 (s.reg b)) :=
  congrArg Host.Outcome.next ((if_neg (not_not.mpr ha)).trans ((if_neg hres).trans (if_pos hb)))

variable (hb : (s.reg b).toNat % 8 = 0)
include hb
theorem exec_enq_swaps
    (hr : (s.die (s.myCtx.queue (bits (s.reg a) 11 0)).home).isResident s.me.ctx (bits (s.reg a) 11 0) = false) (hf : Fresh s) :
    let h := bits (s.reg a) 11 0
    let q := s.myCtx.queue h
    exec (.enq d a b) s = .next (((s.updDie q.home (·.touch s.me.ctx h)).hpm s.cur.core 0x18 1).wait (.swap q.home h) (.enq d a b)) :=
  congrArg Host.Outcome.next ((if_neg (not_not.mpr ha)).trans ((if_neg hres).trans ((if_neg (not_not.mpr hb)).trans (whenResident_swaps hr hf))))
/-- The record is loaded and written at the queue's tail. -/
theorem exec_enq_placed {p : Place} {l : List (Place × Nat)} :
    let h := bits (s.reg a) 11 0
    let q := s.myCtx.queue h
    let u := s.updDie q.home (·.touch s.me.ctx h)
    (s.die q.home).isResident s.me.ctx h = true → addrClass (s.reg b) = .loc ∨ (s.reg b).toNat % 65536 + q.rbytes ≤ 65536 →
    u.check s.cur (s.reg b) q.rbytes 8 .read = .ok p → u.meetsBad s.cur.core p q.rbytes = false → (∀ e y, p ≠ .remote e y) →
    u.engineSpan s.cur.core s.me.ctx (!s.me.sup) .write (q.base + BitVec.ofNat 64 (q.tail * q.rbytes)) q.rbytes = .ok l →
    exec (.enq d a b) s = .next ((u.enqueue h q l (u.loadBytes s.cur.core p q.rbytes)).put d (BitVec.ofNat 64 q.tail)) := by
  intro h q u hr hn hc hbad hp hl
  change execEnq d a b s = _
  unfold execEnq
  dsimp only
  rw [if_neg (not_not.mpr ha), if_neg hres, if_neg (not_not.mpr hb), whenResident_touched hr,
    loadSpan_placed (s := u) _ hn hc hbad hp]
  simp only [show u.cur = s.cur from rfl, show u.me = s.me from rfl]
  rw [hl]
end

/-! QRES (R251). -/

section
variable {d a b : Reg} {s : State}

theorem exec_qres_refused (h : bits (s.reg a) 63 12 ≠ 0 ∨ bits (s.reg b) 63 32 ≠ 0 ∨ s.chunkOf s.cur.core = none) :
    exec (.qres d a b) s = .next (s.put d 0) := by
  change execQres d a b s = _
  unfold execQres
  dsimp only
  by_cases hbad : bits (s.reg a) 63 12 ≠ 0 ∨ bits (s.reg b) 63 32 ≠ 0
  · rw [if_pos hbad]
  · rw [if_neg hbad, (((or_assoc.2 h).resolve_left hbad))]

variable {g : Group} {k : Chunk} (ha : bits (s.reg a) 63 12 = 0) (hb : bits (s.reg b) 63 32 = 0)
  (hk : s.chunkOf s.cur.core = some (s.me.ctx, g, k))
include ha hb hk

/-- A chunk's QRES: 0 where it may not reserve, else what the queue has room for. -/
theorem exec_qres : exec (.qres d a b) s = .next (
    let h := bits (s.reg a) 11 0
    let x := s.me.ctx
    let q := s.myCtx.queue h
    if (q.kind ≠ .node ∧ q.kind ≠ .encoder) ∨ (16 ≤ (k.resv.filter (fun r => r.2 != 0)).length ∧ k.res h = 0) then s.put d 0
    else s.whenResident h true (.qres d a b) fun u =>
      let n := min (s.reg b).toNat ((u.ctx x).queue h).room
      ((u.updQueue x h (fun q => { q with reserved := q.reserved + n })).updChunk x g.id
        (fun k => { k with resv := Tbl.set k.resv h (k.res h + n) })).put d (BitVec.ofNat 64 n)) := by
  have hn : bits (s.reg b) 31 0 = (s.reg b).toNat := by
    unfold bits at hb ⊢
    omega
  change execQres d a b s = _
  unfold execQres
  dsimp only
  rw [if_neg (not_or.mpr ⟨not_not.mpr ha, not_not.mpr hb⟩), hk, hn]
end

/-! QPIN (R252). -/

section
variable {d a b : Reg} {s : State} (hs : s.me.sup = true)
include hs

theorem exec_qpin : exec (.qpin d a b) s = .next (
    let h := bits (s.reg a) 11 0
    let q := s.myCtx.queue h
    if bits (s.reg a) 63 12 ≠ 0 ∨ q.kind = .free then s.put d 1
    else if 1 < (s.reg b).toNat then s.put d 3
    else if s.reg b = 1 ∧ q.pinned then s.put d 0
    else if s.reg b = 1 ∧ 224 ≤ s.pinnedOn q.home then s.put d 2
    else if s.reg b = 0 then (s.updQueue s.me.ctx h (fun q => { q with pinned := false })).put d 0
    else s.whenResident h false (.qpin d a b) fun u =>
      (u.updQueue u.me.ctx h (fun q => { q with pinned := true })).put d 0) := congrArg Host.Outcome.next (if_pos hs)

variable (ha : bits (s.reg a) 63 12 = 0) (hq : (s.myCtx.queue (bits (s.reg a) 11 0)).kind ≠ .free)
include ha hq
theorem exec_qpin_badMode (hb : 1 < (s.reg b).toNat) : exec (.qpin d a b) s = .next (s.put d 3) :=
  (exec_qpin hs).trans (congrArg _ ((if_neg (not_or.mpr ⟨not_not.mpr ha, hq⟩)).trans (if_pos hb)))
theorem exec_qpin_pins (hb : s.reg b = 1) : exec (.qpin d a b) s = .next (
    let h := bits (s.reg a) 11 0
    let q := s.myCtx.queue h
    if q.pinned then s.put d 0
    else if 224 ≤ s.pinnedOn q.home then s.put d 2
    else s.whenResident h false (.qpin d a b) fun u => (u.updQueue u.me.ctx h (fun q => { q with pinned := true })).put d 0) := by
  rw [exec_qpin hs, hb]
  dsimp only
  rw [if_neg (not_or.mpr ⟨not_not.mpr ha, hq⟩), if_neg (show ¬ 1 < (1 : Word).toNat by decide), if_neg (show ¬ (1 : Word) = 0 by decide)]
  simp only [true_and]
theorem exec_qpin_unpins (hb : s.reg b = 0) : exec (.qpin d a b) s =
    .next ((s.updQueue s.me.ctx (bits (s.reg a) 11 0) (fun q => { q with pinned := false })).put d 0) := by
  have hne : ¬ (0 : Word) = 1 := by decide
  rw [exec_qpin hs, hb]
  dsimp only
  rw [if_neg (not_or.mpr ⟨not_not.mpr ha, hq⟩), if_neg (show ¬ 1 < (0 : Word).toNat by decide), if_neg (fun h => hne h.1),
    if_neg (fun h => hne h.1), if_pos rfl]
end

/-- Settles O20: what a queue instruction comes to is decided by its operands, its chunk's reservations and its queue's residency. -/
theorem queueInstructions : Obligations.QueueInstructions := by
  unfold Obligations.QueueInstructions
  refine ⟨fun d a b s => ⟨exec_enq_badHandle, exec_enq_unreserved, exec_enq_misaligned,
    fun ha hres hb hr p l hn hc hbad hp hl => ⟨_, exec_enq_placed ha hres hb hr hn hc hbad hp hl, State.put_wrote ..⟩,
    fun ha hres hb hr hf => ⟨_, exec_enq_swaps ha hres hb hr hf, rfl⟩⟩,
    fun d a b s => ⟨fun h => ⟨_, exec_qres_refused h, s.put_wrote d 0⟩, fun g k ha hb hk => ?qres⟩,
    fun d a b s hs => ⟨fun h => ⟨_, (exec_qpin hs).trans (congrArg _ (if_pos h)), s.put_wrote d 1⟩, fun ha hq => ?qpin⟩⟩
  case qres =>
    have hexec := exec_qres (d := d) ha hb hk
    refine ⟨fun hno => ⟨_, hexec.trans (congrArg _ (if_pos hno)), s.put_wrote d 0⟩, fun hyes hr => ?_, fun hyes hr hf => ?_⟩
    · exact ⟨_, hexec.trans (congrArg _ ((if_neg hyes).trans (whenResident_touched hr))), State.put_wrote ..⟩
    · exact ⟨_, hexec.trans (congrArg _ ((if_neg hyes).trans (whenResident_swaps hr hf))), rfl⟩
  case qpin =>
    refine ⟨fun hb => ⟨_, exec_qpin_badMode hs ha hq hb, s.put_wrote d 3⟩, fun hb hpin => ?_, fun hb hpin hfull => ?_,
      fun hb hpin hroom => ?_, fun hb => ⟨_, exec_qpin_unpins hs ha hq hb, State.put_wrote ..⟩⟩
    all_goals have hexec := exec_qpin_pins (d := d) hs ha hq hb
    · exact ⟨_, hexec.trans (congrArg _ (if_pos hpin)), s.put_wrote d 0⟩
    all_goals replace hexec := hexec.trans (congrArg _ (if_neg (by rw [hpin]; exact Bool.false_ne_true)))
    · exact ⟨_, hexec.trans (congrArg _ (if_pos hfull)), s.put_wrote d 2⟩
    · replace hexec := hexec.trans (congrArg _ (if_neg (Nat.not_le.mpr hroom)))
      exact ⟨fun hr => ⟨_, hexec.trans (congrArg _ (whenResident_untouched hr)), State.put_wrote ..⟩,
        fun hr => ⟨_, hexec.trans (congrArg _ (whenResident_fetches hr)), rfl⟩⟩

end Sys2Proof.Machine
end

section
/-! SUPPORT. A thread's latch set beside its result (R85), and the HAL instructions at acceptance (R317-R323). -/

namespace Sys2Proof.Machine

open Sys2Proof Sys2Proof.Safety

/-! A thread updated twice, and the latch (R85). -/

theorem Core.setThread_setThread (k : Core) (n : Nat) (x y : Thread) : (k.setThread n x).setThread n y = k.setThread n y :=
  congrArg (fun l => { k with threads := l }) (Tbl.set_set ..)
theorem State.setCore_setCore (s : State) (c : Nat) (k l : Core) : (s.setCore c k).setCore c l = s.setCore c l :=
  congrArg (fun t => { s with cores := t }) (Tbl.set_set ..)
theorem State.updThread_updThread (s : State) (t : ThreadId) (f g : Thread → Thread) :
    (s.updThread t f).updThread t g = s.updThread t fun x => g (f x) := by
  change (s.setCore t.core ((s.core t.core).setThread t.slot (f (s.thread t)))).setCore t.core
    (((s.updThread t f).core t.core).setThread t.slot (g ((s.updThread t f).thread t))) = _
  rw [State.setCore_setCore, State.thread_updThread, if_pos rfl, State.updThread, State.setThread, State.core_updCore, if_pos rfl,
    Core.setThread_setThread]
  rfl
theorem State.updMe_updMe (s : State) (f g : Thread → Thread) : (s.updMe f).updMe g = s.updMe fun x => g (f x) :=
  State.updThread_updThread s s.cur f g

/-- The thread with its latch set. -/
def Thread.latched (x : Thread) : Thread := { x with latch := true }
theorem Thread.latched_setReg (x : Thread) (r : Reg) (v : Word) : (x.setReg r v).latched = x.latched.setReg r v := by
  unfold Thread.setReg
  split
  · rfl
  · split <;> rfl
theorem Thread.latched_stepPc (x : Thread) : x.stepPc.latched = x.latched.stepPc := by
  unfold Thread.stepPc Thread.latched
  dsimp only
  split
  · rfl
  · split
    · rfl
    · split <;> rfl
theorem Thread.latched_afterPut (x : Thread) (d : Reg) (v : Word) : (x.afterPut d v).latched = x.latched.afterPut d v := by
  unfold Thread.afterPut
  rw [Thread.latched_stepPc, ← Thread.latched_setReg]
  rfl
theorem State.latch_setReg (s : State) (r : Reg) (v : Word) : (s.setReg r v).latchThread s.cur = (s.latchThread s.cur).setReg r v := by
  change (s.updMe (·.setReg r v)).updMe Thread.latched = (s.updMe Thread.latched).updMe (·.setReg r v)
  rw [State.updMe_updMe, State.updMe_updMe]
  exact congrArg s.updMe (funext fun x => x.latched_setReg r v)
/-- A result written, and the latch set: as if the latch had been set before. -/
theorem State.put_latched_wrote (s : State) (d : Reg) (v : Word) : WroteReg (s.latchThread s.cur) ((s.put d v).latchThread s.cur) d v 0 := by
  have h := ((mine_put s d v).updMe Thread.latched).before_updMe Thread.latched
  rw [Thread.latched_afterPut] at h
  refine Mine.wroteReg (s := s.updMe Thread.latched) ?_
  rw [State.me_updMe]
  exact h

/-! Acceptance (R317). -/

/-- With nothing before it in the unit, an operation without a home is carried out at once. -/
theorem halNow_alone {s : State} (h : s.myCore.halNums = []) (i : Instr) (go : State) : s.halNow i go = go.latchThread s.cur := by
  rw [State.halNow, h]
  rfl
theorem halNow_waits {s : State} (h : s.myCore.halNums ≠ []) (i : Instr) (go : State) : s.halNow i go = s.halWait 0 none i :=
  if_neg (by rwa [List.isEmpty_iff])

section
variable {d a b : Reg} {s : State} (hhome : s.me.atHome = false) (hroom : s.myCore.halterFull = false)
include hhome hroom

theorem halAccept_room (go : State) : s.halAccept go = go := by
  rw [State.halAccept, hhome, hroom]
  rfl
theorem exec_hnew : exec (.hnew d a) s = .next (s.halWait 0 none (.hnew d a)) := congrArg _ (halAccept_room hhome hroom _)
theorem exec_hwgt : exec (.hwgt d a) s = .next (s.halNow (.hwgt d a) (s.weighHalter d a)) := congrArg _ (halAccept_room hhome hroom _)
theorem exec_haddr_good (h0 : s.reg a ≠ 0) (hbad : halBad (s.reg a) = false) :
    exec (.haddr d a) s = .next (s.halWait 0 none (.haddr d a)) :=
  congrArg _ ((halAccept_room hhome hroom _).trans (if_neg (by rw [hbad]; exact not_or.mpr ⟨h0, Bool.false_ne_true⟩)))
theorem exec_haddr_malformed (h : ¬ (s.reg a ≠ 0 ∧ halBad (s.reg a) = false)) :
    exec (.haddr d a) s = .next (s.halNow (.haddr d a) (s.put d (BitVec.allOnes 64))) := by
  refine congrArg _ ((halAccept_room hhome hroom _).trans (if_pos ?_))
  rwa [not_and_or, not_not, Bool.not_eq_false] at h
theorem exec_hcopy_good (h0 : s.reg a ≠ 0) (hbad : halBad (s.reg a) = false) (hd : d ≠ 0) (hda : d ≠ a) :
    exec (.hcopy d a) s = .next (s.halNow (.hcopy d a) (s.copyHalter d a)) :=
  congrArg _ ((halAccept_room hhome hroom _).trans (if_neg (by
    rw [hbad]
    exact not_or.mpr ⟨h0, not_or.mpr ⟨Bool.false_ne_true, not_or.mpr ⟨hd, hda⟩⟩⟩)))
theorem exec_hcopy_traps (h : ¬ (s.reg a ≠ 0 ∧ halBad (s.reg a) = false) ∨ d = 0 ∨ d = a) :
    exec (.hcopy d a) s = .next (s.trap 12 (s.reg a)) := by
  refine congrArg _ ((halAccept_room hhome hroom _).trans (if_pos ?_))
  rwa [not_and_or, not_not, Bool.not_eq_false, or_assoc] at h
theorem exec_hmerge_good (h0 : s.reg a ≠ 0) (hbad : halBad (s.reg a) = false) (hab : a ≠ b) (hb : s.reg b = s.reg a)
    (he : halE (s.reg a) ≠ 62) : exec (.hmerge d a b) s = .next (s.halNow (.hmerge d a b) (s.mergeHalters d a b)) :=
  congrArg _ ((halAccept_room hhome hroom _).trans (if_neg (by
    simp only [hb, h0, hbad, hab, he, ne_eq, not_true_eq_false, Bool.false_eq_true, or_self, not_false_eq_true])))
theorem exec_hmerge_traps (h : ¬ (s.reg a ≠ 0 ∧ halBad (s.reg a) = false) ∨ s.reg b ≠ s.reg a ∨ a = b ∨ halE (s.reg a) = 62) :
    exec (.hmerge d a b) s = .next (s.trap 12 (s.reg a)) := by
  refine congrArg _ ((halAccept_room hhome hroom _).trans (if_pos ?_))
  rw [not_and_or, not_not, Bool.not_eq_false] at h
  rcases h with (h | h) | h | h | h
  · exact .inl h
  · exact .inr (.inr (.inl h))
  · exact .inr (.inr (.inr (.inr (.inr (.inl (Ne.symm h))))))
  · exact .inr (.inr (.inr (.inr (.inl h))))
  · exact .inr (.inr (.inr (.inr (.inr (.inr h)))))

/-! HDROP (R321). -/

theorem exec_hdrop_null (h : s.reg a = 0) : exec (.hdrop a) s = .next s.advance :=
  congrArg _ ((halAccept_room hhome hroom _).trans (if_pos h))
theorem exec_hdrop_traps (h0 : s.reg a ≠ 0) (h : halBad (s.reg a) = true ∨ s.hasRoute (halDest (s.reg a) s.me.ctx).dev = false) :
    exec (.hdrop a) s = .next (s.trap 12 (s.reg a)) :=
  congrArg _ ((halAccept_room hhome hroom _).trans ((if_neg h0).trans (if_pos (h.imp_right (by rintro h; rw [h]; exact Bool.false_ne_true)))))
/-- What a halter's weight is as a post of its core. -/
def State.dropWeight (s : State) (h : Word) : Weight :=
  ⟨halDest h s.me.ctx, 2 ^ halE h, s.me.ctx, BitVec.ofNat 32 s.me.kernid, s.cur, s.release.myCore.serial⟩
theorem exec_hdrop_good (h0 : s.reg a ≠ 0) (hbad : halBad (s.reg a) = false) (hroute : s.hasRoute (halDest (s.reg a) s.me.ctx).dev = true) :
    exec (.hdrop a) s = .next (
      let r := s.release
      let v := r.updMyCore (fun k => { k with serial := k.serial + 1 })
      let u := if r.myCore.halNext = 1 then (v.postWeight (s.dropWeight (s.reg a))).latchThread s.cur
        else v.updMyCore (fun k => { k with drops := k.drops ++ [(r.myCore.halNext, s.dropWeight (s.reg a))] })
      (u.setReg a 0).advance) := by
  refine congrArg _ ((halAccept_room hhome hroom _).trans ((if_neg h0).trans ((if_neg ?_).trans ?_)))
  · rw [hbad, hroute]
    decide
  · simp only [me_release, cur_release, State.updMyCore_cur]
    rfl

/-! HBIND (R322). -/

theorem exec_hbind_misaligned (h0 : s.reg a ≠ 0) (hbad : halBad (s.reg a) = false) (h : bits (s.reg b) 5 0 ≠ 0 ∨ bits (s.reg b) 63 56 ≠ 0) :
    exec (.hbind d a b) s = .next (s.trap 2 (s.reg b)) := by
  refine congrArg _ ((halAccept_room hhome hroom _).trans ((if_neg ?_).trans (if_pos ?_)))
  · rw [hbad]
    exact not_or.mpr ⟨h0, Bool.false_ne_true⟩
  · simpa [misaligned64] using h
/-- What HBIND finds in a card before its home is asked. -/
def State.bindStatus (s : State) (c : Card) : Nat := if c.cores then 2 else if (s.myCtx.queue c.queue).kind ≠ .card then 3 else 0
theorem exec_hbind (h0 : s.reg a ≠ 0) (hbad : halBad (s.reg a) = false) (h5 : bits (s.reg b) 5 0 = 0) (hg : addrClass (s.reg b) = .global) :
    exec (.hbind d a b) s = .next (s.loadCard (s.reg b) fun u c => match c with
      | none => u.halWait 1 none (.hbind d a b)
      | some c => u.halWait (u.bindStatus c) (some c) (.hbind d a b)) := by
  refine congrArg _ ((halAccept_room hhome hroom _).trans ((if_neg ?_).trans (if_neg ?_)))
  · rw [hbad]
    exact not_or.mpr ⟨h0, Bool.false_ne_true⟩
  · rw [misaligned64_eq_false h5 (bits_top_of_global hg)]
    exact Bool.false_ne_true
end

/-! HCOPY, HMERGE and HWGT carried out (R320, R322, R323). -/

section
variable {d a b : Reg} {s : State}

theorem copyHalter_splits (h : 1 ≤ halE (s.reg a)) :
    s.copyHalter d a = (s.setReg a (halWith (s.reg a) (halE (s.reg a) - 1))).put d (halWith (s.reg a) (halE (s.reg a) - 1)) := if_pos h
theorem copyHalter_cell {k : Nat} (h : halE (s.reg a) = 0) (hk : (s.die (dieOf s.cur.core)).freeCell = some k) :
    let die := dieOf s.cur.core
    let g := (halWith (s.reg a) 61 &&& ~~~0x7FFFFFF#64) ||| BitVec.ofNat 64 (2 ^ 33 + s.devNum * 2 ^ 19 + die * 2 ^ 17 + k)
    s.copyHalter d a = ((s.updDie die (fun x => { x with cells := x.cells.set k ⟨s.reg a, 0, s.me.ctx⟩ })).setReg a g).put d g := by
  unfold State.copyHalter
  dsimp only
  rw [h, if_neg (by decide), hk]
  rfl
/-- A register written before the result, with the latch set. -/
theorem setReg_put_latched_wrote (s : State) (r d : Reg) (w v : Word) :
    WroteReg ((s.latchThread s.cur).setReg r w) (((s.setReg r w).put d v).latchThread s.cur) d v 0 := by
  rw [← State.latch_setReg]
  exact (s.setReg r w).put_latched_wrote d v
end

/-- Settles O36: an operation waits for its home or for those accepted before it, or is done at once. -/
theorem halterInstructions : Obligations.HalterInstructions := by
  unfold Obligations.HalterInstructions
  refine ⟨fun d a b s => ?first, fun d a b s p hhome hroom h0 hbad => ⟨fun h => exec_hbind_misaligned hhome hroom h0 hbad h,
    fun h5 hg hc hb => ?hbind⟩⟩
  case first =>
    intro h n hhome hroom good waits alone u
    have hwait (i : Instr) (go : State) (hi : exec i s = .next (s.halNow i go)) (hn : ¬ alone) : waits i :=
      ⟨_, hi.trans (congrArg _ (halNow_waits hn i go)), rfl⟩
    have hnow (i : Instr) (go : State) (hi : exec i s = .next (s.halNow i go)) (ha : alone) : exec i s = .next (go.latchThread s.cur) :=
      hi.trans (congrArg _ (halNow_alone ha i go))
    refine ⟨⟨_, exec_hnew hhome hroom, rfl⟩, fun hg => ⟨_, exec_haddr_good hhome hroom hg.1 hg.2, rfl⟩,
      fun hg => ⟨fun ha => ⟨_, hnow _ _ (exec_haddr_malformed hhome hroom hg) ha, s.put_latched_wrote d _⟩,
        hwait _ _ (exec_haddr_malformed hhome hroom hg)⟩,
      fun hg hd hda => hwait _ _ (exec_hcopy_good hhome hroom hg.1 hg.2 hd hda),
      fun hg hd hda ha he => ⟨_, hnow _ _ (exec_hcopy_good hhome hroom hg.1 hg.2 hd hda) ha, ?splits⟩,
      fun k hg hd hda ha he hk => ⟨_, hnow _ _ (exec_hcopy_good hhome hroom hg.1 hg.2 hd hda) ha, ?cell⟩,
      fun h0 => ⟨_, exec_hdrop_null hhome hroom h0, s.advance_wrote⟩, exec_hdrop_traps hhome hroom, fun hg hroute => ?drop,
      hwait _ _ (exec_hwgt hhome hroom), fun ha => ⟨_, hnow _ _ (exec_hwgt hhome hroom) ha, s.put_latched_wrote d _⟩,
      fun hg hab hb he => ⟨fun ha => ⟨_, hnow _ _ (exec_hmerge_good hhome hroom hg.1 hg.2 hab hb he) ha, ?merge⟩,
        hwait _ _ (exec_hmerge_good hhome hroom hg.1 hg.2 hab hb he)⟩,
      exec_hcopy_traps hhome hroom, fun hbad => exec_hmerge_traps hhome hroom (hbad.imp_right id)⟩
    case splits =>
      rw [copyHalter_splits he]
      exact setReg_put_latched_wrote s a d _ _
    case cell =>
      rw [copyHalter_cell he hk]
      exact setReg_put_latched_wrote (s.updDie _ _) a d _ _
    case merge =>
      change WroteReg ((u.setReg a 0).setReg b 0) ((((s.setReg a 0).setReg b 0).put d _).latchThread s.cur) d _ 0
      rw [← State.latch_setReg]
      exact setReg_put_latched_wrote (s.setReg a 0) b d 0 _
    case drop =>
      intro r w v
      have hexec := exec_hdrop_good hhome hroom hg.1 hg.2 hroute
      exact ⟨fun hn => ⟨_, hexec.trans (congrArg (fun x : State => Host.Outcome.next (x.setReg a 0).advance) (if_pos hn)), State.advance_wrote _⟩,
        fun hn => ⟨_, hexec.trans (congrArg (fun x : State => Host.Outcome.next (x.setReg a 0).advance) (if_neg hn)), State.advance_wrote _⟩⟩
  case hbind =>
    intro card waits
    have hexec := exec_hbind (d := d) hhome hroom h0 hbad h5 hg
    exact ⟨fun hcard => ⟨_, hexec.trans (congrArg _ (loadCard_broken h5 hg hc hb hcard)), rfl⟩,
      fun c hcard => ⟨_, hexec.trans (congrArg _ (loadCard_plain h5 hg hc hb hcard)), rfl⟩⟩

end Sys2Proof.Machine
end

section
/-! SUPPORT. The halter unit's turns and its homes' replies, weight that arrives, and the value of a halter (R313-R323). -/

namespace Sys2Proof.Machine

open Sys2Proof Sys2Proof.Safety

/-! The unit comes to a waiting thread's operation (R317). -/

section
variable {z : State} {num st : Nat} {card : Option Card} {asked : Bool} {l : W32} {d a b : Reg}
  (hw : z.me.halWaits = some (.halter num st card asked, l)) (ht : z.myCore.halTurn num = true)
include hw ht

theorem homeReply_hnew (hi : decode z.me.word = .ok (.hnew d a)) : z.homeReply = (z.newTensor d (z.reg a)).latchThread z.cur := by
  unfold State.homeReply
  rw [hw]
  dsimp only
  rw [ht, hi]
  rfl
theorem homeReply_hcopy (hi : decode z.me.word = .ok (.hcopy d a)) : z.homeReply = (z.copyHalter d a).latchThread z.cur := by
  unfold State.homeReply
  rw [hw]
  dsimp only
  rw [ht, hi]
  rfl
theorem homeReply_hwgt (hi : decode z.me.word = .ok (.hwgt d a)) : z.homeReply = (z.weighHalter d a).latchThread z.cur := by
  unfold State.homeReply
  rw [hw]
  dsimp only
  rw [ht, hi]
  rfl
theorem homeReply_hmerge (hi : decode z.me.word = .ok (.hmerge d a b)) : z.homeReply = (z.mergeHalters d a b).latchThread z.cur := by
  unfold State.homeReply
  rw [hw]
  dsimp only
  rw [ht, hi]
  rfl
/-- HBIND at a home of this device, or with its status known before. -/
theorem homeReply_hbind (hi : decode z.me.word = .ok (.hbind d a b)) (hh : st = 0 → z.homeDev (z.reg a) = z.devNum) :
    z.homeReply = (z.bindCard d (z.reg a) st card).latchThread z.cur := by
  unfold State.homeReply
  rw [hw]
  dsimp only
  rw [ht, hi]
  change z.homed (if st = 0 then z.homeDev (z.reg a) else z.devNum) num st card asked l (z.bindCard d (z.reg a) st card) = _
  refine if_pos (.inl ?_)
  split
  · next h0 => exact hh h0
  · rfl
theorem homeReply_haddr (hi : decode z.me.word = .ok (.haddr d a)) (hh : z.homeDev (z.reg a) = z.devNum) :
    z.homeReply = (z.tensorAddr d (z.reg a)).latchThread z.cur := by
  unfold State.homeReply
  rw [hw]
  dsimp only
  rw [ht, hi]
  change z.homed (z.homeDev (z.reg a)) num st card asked l (z.tensorAddr d (z.reg a)) = _
  exact if_pos (.inl hh)
end

theorem homeDev_good {s : State} {h : Word} (h0 : h ≠ 0) (hb : halBad h = false) (hd : halDev h = s.devNum) : s.homeDev h = s.devNum :=
  (if_neg (by rw [hb]; exact not_or.mpr ⟨h0, Bool.false_ne_true⟩)).trans hd

/-- A word that an instruction has decodes to it. -/
theorem decode_wordOf {i : Instr} {w : W32} (hwf : i.wellFormed = true) (he : encode i = some w) : decode (wordOf i) = .ok i := by
  rw [wordOf, he]
  exact Laws.roundTrip i hwf w he
/-- The state with another thread's turn. -/
def State.turnOf (s : State) (t : ThreadId) : State := { s with cur := t }
/-- What the unit does as a thread that waits for it, and the posts that it has then come to. -/
theorem replied {s u : State} {c n : Nat} {w : Wait} {l : W32} {i : Instr} {d : Reg} {v : Word} (hi : decode (s.thread ⟨c, n⟩).word = .ok i)
    (hst : (s.thread ⟨c, n⟩).state = .blocked w l)
    (hreply : (s.turnOf ⟨c, n⟩).homeReply = ((u.turnOf ⟨c, n⟩).put d v).latchThread ⟨c, n⟩) : Replied u c n i s d v := by
  refine ⟨_, ?_, State.put_latched_wrote (u.turnOf ⟨c, n⟩) d v, hi⟩
  change Host.Outcome.next ((s.byEngine ⟨c, n⟩ State.homeReply).halPosts c 4) = _
  rw [State.byEngine_of_not_parked _ _ _ (by rw [hst]; rfl)]
  exact congrArg (fun z : State => Host.Outcome.next (State.halPosts { z with cur := s.cur } c 4)) hreply

section
variable {s u : State} {c n num st : Nat} {card : Option Card} {asked : Bool} {l : W32} {d a b : Reg} {v : Word}
  (hst : (s.thread ⟨c, n⟩).state = .blocked (.halter num st card asked) l) (ht : (s.core c).halTurn num = true)
include hst

theorem halWaits_blocked : (s.turnOf ⟨c, n⟩).me.halWaits = some (.halter num st card asked, l) := by
  change (s.thread ⟨c, n⟩).halWaits = _
  rw [Thread.halWaits, Thread.begun, hst]
  rfl

include ht
theorem replied_hnew (hat : (s.thread ⟨c, n⟩).word = wordOf (.hnew d a))
    (he : (s.turnOf ⟨c, n⟩).newTensor d ((s.thread ⟨c, n⟩).reg a) = (u.turnOf ⟨c, n⟩).put d v) : Replied u c n (.hnew d a) s d v :=
  have hi := (congrArg decode hat).trans (decode_wordOf rfl rfl)
  replied hi hst ((homeReply_hnew (halWaits_blocked hst) ht hi).trans (congrArg (State.latchThread · _) he))
theorem replied_hcopy (hat : (s.thread ⟨c, n⟩).word = wordOf (.hcopy d a))
    (he : (s.turnOf ⟨c, n⟩).copyHalter d a = (u.turnOf ⟨c, n⟩).put d v) : Replied u c n (.hcopy d a) s d v :=
  have hi := (congrArg decode hat).trans (decode_wordOf rfl rfl)
  replied hi hst ((homeReply_hcopy (halWaits_blocked hst) ht hi).trans (congrArg (State.latchThread · _) he))
theorem replied_hwgt (hat : (s.thread ⟨c, n⟩).word = wordOf (.hwgt d a))
    (he : (s.turnOf ⟨c, n⟩).weighHalter d a = (u.turnOf ⟨c, n⟩).put d v) : Replied u c n (.hwgt d a) s d v :=
  have hi := (congrArg decode hat).trans (decode_wordOf rfl rfl)
  replied hi hst ((homeReply_hwgt (halWaits_blocked hst) ht hi).trans (congrArg (State.latchThread · _) he))
theorem replied_hmerge (hat : (s.thread ⟨c, n⟩).word = wordOf (.hmerge d a b))
    (he : (s.turnOf ⟨c, n⟩).mergeHalters d a b = (u.turnOf ⟨c, n⟩).put d v) : Replied u c n (.hmerge d a b) s d v :=
  have hi := (congrArg decode hat).trans (decode_wordOf rfl rfl)
  replied hi hst ((homeReply_hmerge (halWaits_blocked hst) ht hi).trans (congrArg (State.latchThread · _) he))
theorem replied_haddr (hat : (s.thread ⟨c, n⟩).word = wordOf (.haddr d a)) (hh : s.homeDev ((s.thread ⟨c, n⟩).reg a) = s.devNum)
    (he : (s.turnOf ⟨c, n⟩).tensorAddr d ((s.thread ⟨c, n⟩).reg a) = (u.turnOf ⟨c, n⟩).put d v) : Replied u c n (.haddr d a) s d v :=
  have hi := (congrArg decode hat).trans (decode_wordOf rfl rfl)
  replied hi hst ((homeReply_haddr (halWaits_blocked hst) ht hi hh).trans (congrArg (State.latchThread · _) he))
theorem replied_hbind (hat : (s.thread ⟨c, n⟩).word = wordOf (.hbind d a b))
    (hh : st = 0 → s.homeDev ((s.thread ⟨c, n⟩).reg a) = s.devNum)
    (he : (s.turnOf ⟨c, n⟩).bindCard d ((s.thread ⟨c, n⟩).reg a) st card = (u.turnOf ⟨c, n⟩).put d v) : Replied u c n (.hbind d a b) s d v :=
  have hi := (congrArg decode hat).trans (decode_wordOf rfl rfl)
  replied hi hst ((homeReply_hbind (halWaits_blocked hst) ht hi hh).trans (congrArg (State.latchThread · _) he))
end

/-! What each home answers (R318, R319, R322). -/

section
variable {s : State} {d : Reg}

theorem newTensor_some {addr : Word} {id : Nat} (h : s.myCtx.nextTensor (dieOf s.cur.core) = some id) :
    let die := dieOf s.cur.core
    s.newTensor d addr = ((s.setTensor s.me.ctx die id ⟨.live, 0, addr, none⟩).updCtx s.me.ctx
      (fun y => { y with lastTensor := y.lastTensor.set die id })).put d
        (BitVec.ofNat 64 (s.devNum * 2 ^ 56 + die * 2 ^ 54 + id * 2 ^ 34 + 62 * 2 ^ 27)) := by
  unfold State.newTensor
  dsimp only
  rw [h]
  rfl
theorem newTensor_none {addr : Word} (h : s.myCtx.nextTensor (dieOf s.cur.core) = none) : s.newTensor d addr = s.put d 0 := by
  unfold State.newTensor
  dsimp only
  rw [h]

variable {h : Word}
theorem tensorAddr_here (h0 : h ≠ 0) (hb : halBad h = false) (hd : halDev h = s.devNum) :
    s.tensorAddr d h = s.put d (s.addrAt s.me.ctx (halDie h) (halId h)) :=
  (if_neg (by rw [hb]; exact not_or.mpr ⟨h0, Bool.false_ne_true⟩)).trans (if_neg (not_not.mpr hd))
theorem addrAt_live {x die id : Nat} {t : Tensor} (ht : (s.ctx x).tensor die id = some t) (hl : t.state = .live) :
    s.addrAt x die id = t.addr := by
  rw [State.addrAt, ht]
  exact if_pos hl
theorem addrAt_notLive {x die id : Nat} (hl : ∀ t, (s.ctx x).tensor die id = some t → t.state ≠ .live) :
    s.addrAt x die id = BitVec.allOnes 64 := by
  unfold State.addrAt
  split
  · rfl
  · next t ht => exact if_neg (hl t ht)

theorem bindCard_refused {st : Nat} {card : Option Card} (hst : st ≠ 0) : s.bindCard d h st card = s.put d (BitVec.ofNat 64 st) := if_pos hst
theorem bindAt_notLive {x die id : Nat} {card : Option Card} (hl : ∀ t, (s.ctx x).tensor die id = some t → t.state ≠ .live) :
    s.bindAt x die id card = (4, s) := by
  unfold State.bindAt
  split
  · rfl
  · next t ht => exact if_pos (hl t ht)
theorem bindAt_live {x die id : Nat} {card : Option Card} {t : Tensor} (ht : (s.ctx x).tensor die id = some t) (hl : t.state = .live) :
    s.bindAt x die id card = if t.card.isSome then (5, s) else (0, s.setTensor x die id { t with card := card }) := by
  rw [State.bindAt, ht]
  exact if_neg (not_not.mpr hl)
theorem bindCard_here {card : Option Card} {r : Nat × State} (hd : halDev h = s.devNum)
    (hr : s.bindAt s.me.ctx (halDie h) (halId h) card = r) : s.bindCard d h 0 card = r.2.put d (BitVec.ofNat 64 r.1) := by
  rw [← hr]
  exact (if_neg (not_not.mpr rfl)).trans (if_neg (not_not.mpr hd))
theorem weighHalter_good {a : Reg} (h0 : s.reg a ≠ 0) (hb : halBad (s.reg a) = false) :
    s.weighHalter d a = s.put d (BitVec.ofNat 64 ((if halInd (s.reg a) then 256 else 0) + halE (s.reg a))) := by
  rw [State.weighHalter, if_neg (by rw [hb]; exact not_or.mpr ⟨h0, Bool.false_ne_true⟩)]
end

/-! Weight arrives (R314-R316). -/

theorem Ctx.tensor_freed {x : Ctx} {tensors : Tbl (Tbl Tensor)} {die id : Nat}
    (h : x.tensors = tensors.set die (Tbl.erase (tensors.get [] die) id)) : x.tensor die id = none := by
  rw [Ctx.tensor, h, Tbl.get_set_self, Option.map_eq_none_iff, List.find?_eq_none]
  intro t ht
  have hne : (t.1 != id) = true := (List.mem_filter.1 ht).2
  simpa using hne
theorem freeTensor_tensor (s : State) (x die id : Nat) : ((s.freeTensor x die id).ctx x).tensor die id = none := by
  rw [State.freeTensor, State.ctx_updCtx, if_pos rfl]
  exact Ctx.tensor_freed rfl

section
variable {s : State} {x die id w : Nat}

theorem tensorArrival_free (h : (s.ctx x).tensor die id = none) : s.tensorArrival x die id w = s.reportPoison x s.devNum die id := by
  rw [State.tensorArrival, h]

variable {t : Tensor} (ht : (s.ctx x).tensor die id = some t)
include ht
theorem tensorArrival_poisoned (hp : t.state = .poisoned) :
    s.tensorArrival x die id w = s.setTensor x die id { t with sum := min (t.sum + w) (2 ^ 64 - 1) } := by
  rw [State.tensorArrival, ht]
  dsimp only
  rw [hp]
/-- Above the full weight a live or dead tensor is poisoned and reported. -/
theorem tensorArrival_over (hp : t.state ≠ .poisoned) (hs : 2 ^ 62 < t.sum + w) : s.tensorArrival x die id w =
    (s.setTensor x die id { t with sum := min (t.sum + w) (2 ^ 64 - 1), state := .poisoned }).reportPoison x s.devNum die id := by
  rw [State.tensorArrival, ht]
  dsimp only
  cases hst : t.state with
  | poisoned => exact absurd hst hp
  | live => exact if_pos hs
  | dead => exact if_pos hs
variable (hl : t.state = .live)
include hl
theorem tensorArrival_live (hs : t.sum + w < 2 ^ 62) : s.tensorArrival x die id w = s.setTensor x die id { t with sum := t.sum + w } := by
  rw [State.tensorArrival, ht]
  dsimp only
  rw [hl]
  exact (if_neg (Nat.not_lt.mpr hs.le)).trans (if_neg fun h => hs.ne h.1)
/-- At the full weight a live tensor is freed, or its finaliser launched. -/
theorem tensorArrival_full_freed (hs : t.sum + w = 2 ^ 62) (hc : t.card = none) :
    s.tensorArrival x die id w = (s.setTensor x die id { t with sum := 2 ^ 62, state := .dead }).freeTensor x die id := by
  rw [State.tensorArrival, ht]
  dsimp only
  rw [hl, hs]
  refine (if_neg (Nat.lt_irrefl _)).trans ((if_pos ⟨rfl, rfl⟩).trans ?_)
  rw [hc]
theorem tensorArrival_full_finalised {c : Card} (hs : t.sum + w = 2 ^ 62) (hc : t.card = some c) :
    s.tensorArrival x die id w = (s.setTensor x die id { t with sum := 2 ^ 62, state := .dead }).finalise x die id c := by
  rw [State.tensorArrival, ht]
  dsimp only
  rw [hl, hs]
  refine (if_neg (Nat.lt_irrefl _)).trans ((if_pos ⟨rfl, rfl⟩).trans ?_)
  rw [hc]
end

section
variable {s z : State} {x die id : Nat} {c : Card}

theorem finalise_refused (h : s.finalOuts x c = (none, z)) : s.finalise x die id c = z := by
  rw [State.finalise, h]
theorem finalise_some {k : Card} (h : s.finalOuts x c = (some k, z)) :
    (z.launchCode x k = 0 → s.finalise x die id c = z.addKernel x k 0 false (some (die, id)))
      ∧ (z.launchCode x k = 4 → s.finalise x die id c = z.updCtx x (fun r => { r with finals := r.finals ++ [(die, id, k)] }))
      ∧ (z.launchCode x k ≠ 0 → z.launchCode x k ≠ 4 → s.finalise x die id c = z) := by
  rw [State.finalise, h]
  dsimp only
  refine ⟨fun h0 => by rw [h0]; rfl, fun h4 => by rw [h4]; rfl, fun h0 h4 => ?_⟩
  split
  · next h => exact absurd h h0
  · next h => exact absurd h h4
  · rfl
end

section
variable {s : State} {die cell : Nat} {w : Weight}

theorem cellArrival_free (h : (s.die die).cells.find? (fun c => c.1 == cell) = none) :
    s.cellArrival die cell w = s.reportPoison w.ctx s.devNum die 0 := by
  rw [State.cellArrival, h]
variable {c : Cell} (h : (s.die die).cells.find? (fun c => c.1 == cell) = some (cell, c))
include h
theorem cellArrival_part (hs : c.sum + w.amount < 2 ^ 62) : s.cellArrival die cell w =
    s.updDie die (fun d => { d with cells := d.cells.set cell { c with sum := c.sum + w.amount } }) := by
  rw [State.cellArrival, h]
  exact (if_neg hs.ne).trans (if_neg (Nat.not_lt.mpr hs.le))
theorem cellArrival_whole (hs : c.sum + w.amount = 2 ^ 62) : s.cellArrival die cell w =
    (s.updDie die (fun d => { d with cells := d.cells.erase cell })).postWeight
      { w with dest := halDest c.held c.ctx, amount := 1, ctx := c.ctx } := by
  rw [State.cellArrival, h]
  exact if_pos hs
theorem cellArrival_over (hs : 2 ^ 62 < c.sum + w.amount) : s.cellArrival die cell w =
    (s.updDie die (fun d => { d with cells := d.cells.erase cell })).reportPoison c.ctx (halDev c.held) (halDie c.held) (halId c.held) := by
  rw [State.cellArrival, h]
  exact (if_neg hs.ne').trans (if_pos hs)
end

section
variable {s : State} {i : Nat} {w : Weight} (hw : s.weights[i]? = some w)
include hw

theorem exec_tensorWeightArrival {x die id : Nat} (hd : w.dest = .tensor x s.devNum die id) : exec (.tensorWeightArrival i) s =
    .next (({ s with weights := s.weights.eraseIdx i } : State).tensorArrival x die id w.amount) := by
  change execTensorWeightArrival i s = _
  rw [execTensorWeightArrival, hw]
  dsimp only
  rw [hd]
  exact congrArg Host.Outcome.next (if_neg (not_not.mpr rfl))
theorem exec_cellWeightArrival {die cell : Nat} (hd : w.dest = .cell s.devNum die cell) : exec (.cellWeightArrival i) s =
    .next (({ s with weights := s.weights.eraseIdx i } : State).cellArrival die cell w) := by
  change execCellWeightArrival i s = _
  rw [execCellWeightArrival, hw]
  dsimp only
  rw [hd]
  exact congrArg Host.Outcome.next (if_neg (not_not.mpr rfl))
end

/-! The value of a halter (R313). -/

theorem bits_eq_extract (v : Word) (hi lo : Nat) : bits v hi lo = (v.extractLsb' lo (hi + 1 - lo)).toNat := by
  rw [BitVec.extractLsb'_toNat, Nat.shiftRight_eq_div_pow]
  rfl
/-- Fields that lie on equal bits are equal. -/
theorem bits_congr {v w : Word} {hi lo : Nat} (h : ∀ i, lo ≤ i → i ≤ hi → v.getLsbD i = w.getLsbD i) : bits v hi lo = bits w hi lo := by
  rw [bits_eq_extract, bits_eq_extract]
  refine congrArg BitVec.toNat (BitVec.eq_of_getLsbD_eq fun i hi => ?_)
  simp only [BitVec.getLsbD_extractLsb', hi, decide_true, Bool.true_and]
  exact h _ (by omega) (by omega)
theorem getLsbD_halWith (h : Word) {e : Nat} (he : e < 64) (i : Nat) :
    (halWith h e).getLsbD i = if 27 ≤ i ∧ i ≤ 32 then e.testBit (i - 27) else h.getLsbD i := by
  have h3f : ∀ k, (0x3F#64).getLsbD k = decide (k < 6) := fun k => by
    rw [show (0x3F#64) = BitVec.ofNat 64 (2 ^ 6 - 1) from rfl, BitVec.getLsbD_ofNat, Nat.testBit_two_pow_sub_one]
    by_cases hk : k < 6
    · simp [hk, show k < 64 by omega]
    · simp [hk]
  have hhigh : ∀ k, 6 ≤ k → e.testBit k = false := fun k hk =>
    Nat.testBit_lt_two_pow (he.trans_le (Nat.pow_le_pow_right (n := 2) (by decide) hk))
  unfold halWith
  rw [BitVec.getLsbD_or, BitVec.getLsbD_and, BitVec.getLsbD_not, BitVec.getLsbD_shiftLeft, h3f, BitVec.getLsbD_ofNat,
    Nat.testBit_mul_two_pow]
  by_cases hi : i < 64
  · by_cases hlo : 27 ≤ i
    · by_cases hup : i ≤ 32
      · simp [hi, hlo, hup, show ¬ i < 27 by omega, show i - 27 < 6 by omega]
      · simp [hi, hlo, hup, show ¬ i < 27 by omega, show ¬ i - 27 < 6 by omega, hhigh (i - 27) (by omega)]
    · simp [hi, hlo, show i < 27 by omega]
  · rw [BitVec.getLsbD_of_ge h i (by omega)]
    simp [hi, show ¬ i ≤ 32 by omega]

section
variable {h : Word} {e : Nat} (he : e < 64)
include he

theorem halE_halWith : halE (halWith h e) = e := by
  rw [halE, bits_eq_extract]
  have hx : (halWith h e).extractLsb' 27 (32 + 1 - 27) = BitVec.ofNat 6 e := BitVec.eq_of_getLsbD_eq fun i hi => by
    rw [BitVec.getLsbD_extractLsb', getLsbD_halWith h he, if_pos (by omega), BitVec.getLsbD_ofNat, Nat.add_sub_cancel_left]
  rw [hx, BitVec.toNat_ofNat]
  exact Nat.mod_eq_of_lt he
/-- Every other field is that of the halter. -/
theorem bits_halWith {hi lo : Nat} (h' : hi < 27 ∨ 32 < lo) : bits (halWith h e) hi lo = bits h hi lo :=
  bits_congr fun i _ _ => by rw [getLsbD_halWith h he, if_neg (by omega)]
theorem halBad_halWith (h63 : e ≠ 63) (hb : halBad h = false) : halBad (halWith h e) = false := by
  have hind : halInd (halWith h e) = halInd h := by
    unfold halInd
    rw [getLsbD_halWith h he, if_neg (by decide)]
  unfold halBad halId at hb ⊢
  rw [halE_halWith he, hind, bits_halWith he (.inr (by decide)), bits_halWith he (.inl (by decide)), getLsbD_halWith h he, if_neg (by decide),
    beq_false_of_ne h63]
  simp only [Bool.or_eq_false_iff] at hb ⊢
  obtain ⟨⟨⟨hid, -⟩, hdirect⟩, hcell⟩ := hb
  exact ⟨⟨⟨hid, trivial⟩, hdirect⟩, hcell⟩
/-- The halter's own exponent put back gives the halter. -/
theorem halWith_halWith : halWith (halWith h e) (halE h) = h := by
  have hE : halE h < 64 := Nat.mod_lt _ (by decide)
  refine BitVec.eq_of_getLsbD_eq fun i hi => ?_
  rw [getLsbD_halWith _ hE, getLsbD_halWith h he]
  split
  · next hin =>
    have hx := congrArg (BitVec.getLsbD · (i - 27)) (BitVec.ofNat_toNat 6 (h.extractLsb' 27 6))
    rw [halE, bits_eq_extract, ← BitVec.getLsbD, BitVec.getLsbD_extractLsb', Nat.add_sub_cancel' hin.1]
    simp [show i - 27 < 6 by omega]
  · rfl
end

/-- Settles O37: the unit answers in its turn, arriving weight is counted, and a split keeps the weight. -/
theorem halterHomes : Obligations.HalterHomes := by
  unfold Obligations.HalterHomes
  refine ⟨fun d a b c n s num st card asked l => ?replies, fun i w s hw => ?arrivals, fun h h1 h62 => ?split⟩
  case split =>
    intro g
    have he : halE h - 1 < 64 := by omega
    refine ⟨halE_halWith he, ?_, halBad_halWith he (by omega), halWith_halWith he⟩
    rw [halE_halWith he, ← two_mul, ← pow_succ', Nat.sub_add_cancel h1]
  case arrivals =>
    intro u
    refine ⟨fun x die id t hd ht hl => ?_, fun x die id t hd ht hp hs => ?_, fun x die id t hd ht hp => ?_, fun x die id hd ht => ?_,
      fun die cell hd hc => ?_, fun die cell c hd hc => ?_⟩
    · have hexec := exec_tensorWeightArrival hw hd
      refine ⟨fun hs => ⟨_, hexec, tensorArrival_live (s := u) ht hl hs⟩, fun hs hc => ⟨_, hexec, ?_⟩, fun c hs hc => ⟨_, hexec, ?_⟩⟩
      · rw [tensorArrival_full_freed (s := u) ht hl hs hc]
        exact freeTensor_tensor ..
      · rw [tensorArrival_full_finalised (s := u) ht hl hs hc]
        exact ⟨fun z hz => finalise_refused hz, fun k z hz => finalise_some hz⟩
    · exact ⟨_, exec_tensorWeightArrival hw hd, tensorArrival_over (s := u) ht hp hs⟩
    · exact ⟨_, exec_tensorWeightArrival hw hd, tensorArrival_poisoned (s := u) ht hp⟩
    · exact ⟨_, exec_tensorWeightArrival hw hd, tensorArrival_free (s := u) ht⟩
    · exact ⟨_, exec_cellWeightArrival hw hd, cellArrival_free (s := u) hc⟩
    · have hexec := exec_cellWeightArrival hw hd
      exact ⟨fun hs => ⟨_, hexec, cellArrival_part (s := u) hc hs⟩, fun hs => ⟨_, hexec, cellArrival_whole (s := u) hc hs⟩,
        fun hs => ⟨_, hexec, cellArrival_over (s := u) hc hs⟩⟩
  case replies =>
    intro th x die h at' ten hst ht
    refine ⟨fun id hat hid => replied_hnew hst ht hat (newTensor_some hid), fun hat hid => replied_hnew hst ht hat (newTensor_none hid),
      fun t hat h0 hb hd hten hl => replied_haddr hst ht hat (homeDev_good h0 hb hd) ((tensorAddr_here (s := s.turnOf th) h0 hb hd).trans
        (congrArg (State.put _ d) (addrAt_live (s := s.turnOf th) hten hl))),
      fun hat h0 hb hd hl => replied_haddr hst ht hat (homeDev_good h0 hb hd) ((tensorAddr_here (s := s.turnOf th) h0 hb hd).trans
        (congrArg (State.put _ d) (addrAt_notLive (s := s.turnOf th) hl))),
      fun hat hne => replied_hbind hst ht hat (fun h0 => absurd h0 hne) (bindCard_refused hne),
      fun hat hz0 h0 hb hd => ?bind, fun hat h0 hb => replied_hwgt hst ht hat (weighHalter_good h0 hb),
      fun hat h1 => replied_hcopy hst ht hat (copyHalter_splits h1), fun hat => replied_hmerge hst ht hat ?merge⟩
    case bind =>
      subst hz0
      have hhome : 0 = 0 → s.homeDev h = s.devNum := fun _ => homeDev_good h0 hb hd
      refine ⟨fun hl => ?_, fun t hten hl hc => ?_, fun t hten hl hc => ?_⟩
      · have hbind : (s.turnOf th).bindAt x (halDie h) (halId h) card = (4, s.turnOf th) := bindAt_notLive (s := s.turnOf th) hl
        exact replied_hbind hst ht hat hhome (bindCard_here (r := (4, s.turnOf th)) hd hbind)
      · have hbind : (s.turnOf th).bindAt x (halDie h) (halId h) card = (5, s.turnOf th) :=
          (bindAt_live (s := s.turnOf th) hten hl).trans (if_pos (Option.isSome_iff_ne_none.2 hc))
        exact replied_hbind hst ht hat hhome (bindCard_here (r := (5, s.turnOf th)) hd hbind)
      · let u := s.setTensor x (halDie h) (halId h) { t with card := card }
        have hbind : (s.turnOf th).bindAt x (halDie h) (halId h) card = (0, u.turnOf th) :=
          (bindAt_live (s := s.turnOf th) hten hl).trans (if_neg (by rw [hc]; exact Bool.false_ne_true))
        exact replied_hbind hst ht hat hhome (bindCard_here (r := (0, u.turnOf th)) hd hbind)
    case merge =>
      change (((s.turnOf th).setReg a 0).setReg b 0).put d _ = _
      rw [State.setReg, State.setReg, State.updMe_updMe]
      rfl

end Sys2Proof.Machine
end

section
/-! SUPPORT. The MRG instructions at a thread: pushes, the end of a port, opening, popping, status and drain (R308-R311). -/

namespace Sys2Proof.Machine

open Sys2Proof Sys2Proof.Safety

/-- A context with a member that has not ended, or with a pair outside its buffer, is not settled. -/
theorem mgSettle_of_open {s : State} {cl n : Nat} (h : (s.cluster cl).allEnded n = false) : s.mgSettle cl n = s := by
  unfold State.mgSettle
  dsimp only
  exact if_pos (by rw [h]; simp)

theorem State.updMg_cur (s : State) (cl n : Nat) (f : MergeCtx → MergeCtx) : (s.updMg cl n f).cur = s.cur := rfl
theorem badMg_eq_false {v : Word} (h : bits v 63 2 = 0) : ¬ badMg v = true := by simp [badMg, h]
theorem badMg_eq_true {v : Word} (h : bits v 63 2 ≠ 0) : badMg v = true := by simpa [badMg] using h
/-- A row code is the low seven bits. -/
theorem ofNat_bits_row (v : Word) : (BitVec.ofNat 7 (bits v 6 0) : RowCode) = BitVec.ofNat 7 v.toNat := by
  unfold bits
  apply BitVec.eq_of_toNat_eq
  simp

/-! The port's status (R310). -/

section
variable {s : State} {n : Nat}
theorem mgPortStatus_untaken (h : ¬ ((s.mg (myCluster s) n).state.live = true ∧ (s.mg (myCluster s) n).drained = false)) :
    s.mgPortStatus n = 1 := by
  refine if_pos ?_
  rw [not_and, Bool.not_eq_false] at h
  cases hl : (s.mg (myCluster s) n).state.live with
  | false => rfl
  | true => exact h hl
theorem mgPortStatus_noPort (ht : (s.mg (myCluster s) n).state.live = true ∧ (s.mg (myCluster s) n).drained = false)
    (h : ¬ ((s.mg (myCluster s) n).members.getLsbD (coreIdOf s.cur.core) = true
      ∧ (s.mg (myCluster s) n).ended.getLsbD (coreIdOf s.cur.core) = false)) : s.mgPortStatus n = 2 := by
  refine (if_neg (by rw [ht.1, ht.2]; exact Bool.false_ne_true)).trans (if_pos ?_)
  rw [not_and, Bool.not_eq_false] at h
  cases hl : (s.mg (myCluster s) n).members.getLsbD (coreIdOf s.cur.core) with
  | false => rfl
  | true => exact h hl
theorem mgPortStatus_open (ht : (s.mg (myCluster s) n).state.live = true ∧ (s.mg (myCluster s) n).drained = false)
    (h : (s.mg (myCluster s) n).members.getLsbD (coreIdOf s.cur.core) = true
      ∧ (s.mg (myCluster s) n).ended.getLsbD (coreIdOf s.cur.core) = false) : s.mgPortStatus n = 0 :=
  (if_neg (by rw [ht.1, ht.2]; exact Bool.false_ne_true)).trans (if_neg (by rw [h.1, h.2]; exact Bool.false_ne_true))
end

/-! MGPUSH and MGEND (R310). -/

section
variable {d a b : Reg} {s : State}

theorem exec_mgpush_badNumber (h : bits (s.reg a) 63 2 ≠ 0) : exec (.mgpush d a b) s = .next (s.put d (BitVec.allOnes 64)) :=
  congrArg Host.Outcome.next (if_pos (badMg_eq_true h))
theorem exec_mgend_badNumber (h : bits (s.reg a) 63 2 ≠ 0) : exec (.mgend d a) s = .next (s.put d (BitVec.allOnes 64)) :=
  congrArg Host.Outcome.next (if_pos (badMg_eq_true h))

variable (ha : bits (s.reg a) 63 2 = 0)
include ha
theorem exec_mgpush_badBlock (h : ¬ (bits (s.reg b) 63 12 = 0 ∧ 1 ≤ bits (s.reg b) 11 7 ∧ bits (s.reg b) 11 7 ≤ 16)) :
    exec (.mgpush d a b) s = .next (s.put d 3) :=
  congrArg Host.Outcome.next ((if_neg (badMg_eq_false ha)).trans (if_pos (by omega)))
theorem exec_mgend_restoring (h : (s.mg (myCluster s) (mgNum (s.reg a))).restoring = true) : exec (.mgend d a) s = .next s :=
  congrArg Host.Outcome.next ((if_neg (badMg_eq_false ha)).trans (if_pos h))
theorem exec_mgend_refused (hr : (s.mg (myCluster s) (mgNum (s.reg a))).restoring = false) (h : s.mgPortStatus (mgNum (s.reg a)) ≠ 0) :
    exec (.mgend d a) s = .next (s.put d (BitVec.ofNat 64 (s.mgPortStatus (mgNum (s.reg a))))) :=
  congrArg Host.Outcome.next
    ((if_neg (badMg_eq_false ha)).trans ((if_neg (by rw [hr]; exact Bool.false_ne_true)).trans (if_pos h)))
theorem exec_mgend_ends (hr : (s.mg (myCluster s) (mgNum (s.reg a))).restoring = false) (h : s.mgPortStatus (mgNum (s.reg a)) = 0) :
    exec (.mgend d a) s = .next (((s.release.updMg (myCluster s) (mgNum (s.reg a)) (fun m => { m with
      ended := m.ended ||| (1#16 <<< coreIdOf s.cur.core) })).put d 0).mgSettle (myCluster s) (mgNum (s.reg a))) := by
  change execMgend d a s = _
  unfold execMgend
  dsimp only
  rw [if_neg (badMg_eq_false ha), if_neg (by rw [hr]; exact Bool.false_ne_true), if_neg (not_not.mpr h)]
  unfold myCluster
  simp only [State.updMg_cur, cur_release]

variable (hb : bits (s.reg b) 63 12 = 0 ∧ 1 ≤ bits (s.reg b) 11 7 ∧ bits (s.reg b) 11 7 ≤ 16)
include hb
theorem exec_mgpush_restoring (h : (s.mg (myCluster s) (mgNum (s.reg a))).restoring = true) : exec (.mgpush d a b) s = .next s :=
  congrArg Host.Outcome.next ((if_neg (badMg_eq_false ha)).trans ((if_neg (by omega)).trans (if_pos h)))
variable (hr : (s.mg (myCluster s) (mgNum (s.reg a))).restoring = false)
include hr
theorem exec_mgpush_refused (h : s.mgPortStatus (mgNum (s.reg a)) ≠ 0) :
    exec (.mgpush d a b) s = .next (s.put d (BitVec.ofNat 64 (s.mgPortStatus (mgNum (s.reg a))))) :=
  congrArg Host.Outcome.next ((if_neg (badMg_eq_false ha)).trans
    ((if_neg (by omega)).trans ((if_neg (by rw [hr]; exact Bool.false_ne_true)).trans (if_pos h))))

/-- The pairs of a push: the lanes of its two rows. -/
def State.pushPairs (s : State) (v : Word) : List (W32 × W32) :=
  let row : RowCode := BitVec.ofNat 7 (bits v 6 0)
  (List.range (bits v 11 7)).map (fun i => ((s.row row).lane i, (s.row (row + 1)).lane i))
/-- The pairs of a push wait at their port. -/
def State.pushed (s : State) (n k : Nat) (ps : List (W32 × W32)) : State :=
  let p := coreIdOf s.cur.core
  let u := (s.release.updMyCore (fun c => { c with serial := c.serial + 1 })).updMg (myCluster s) n (fun m =>
    { m with last := m.last.set p ((ps.getLastD (0, 0)).1), pushed := m.pushed ||| (1#16 <<< p) })
  (u.updCluster (myCluster s) (fun c =>
    { c with mq := c.mq ++ ps.map (fun x => ⟨p, s.cur.slot, n, c.mqNext, k, x.1, x.2⟩), mqNext := c.mqNext + 1 })).hpm s.cur.core 0x15 1
variable (h0 : s.mgPortStatus (mgNum (s.reg a)) = 0)
include h0
theorem exec_mgpush_traps {c : W32}
    (h : pushFail ((s.mg (myCluster s) (mgNum (s.reg a))).lastPushed (coreIdOf s.cur.core)) (s.pushPairs (s.reg b)) = some c) :
    exec (.mgpush d a b) s = .next (s.trap 17 (c.setWidth 64)) := by
  change execMgpush d a b s = _
  unfold execMgpush
  unfold State.pushPairs at h
  dsimp only at h ⊢
  rw [if_neg (badMg_eq_false ha), if_neg (by omega), if_neg (by rw [hr]; exact Bool.false_ne_true), if_neg (not_not.mpr h0), h]
theorem exec_mgpush_waits (hfull : (s.cluster (myCluster s)).pushFull (coreIdOf s.cur.core) = false)
    (h : pushFail ((s.mg (myCluster s) (mgNum (s.reg a))).lastPushed (coreIdOf s.cur.core)) (s.pushPairs (s.reg b)) = none) :
    exec (.mgpush d a b) s = .next ((s.pushed (mgNum (s.reg a)) s.myCore.serial (s.pushPairs (s.reg b))).put d 0) := by
  change execMgpush d a b s = _
  unfold execMgpush
  unfold State.pushPairs at h ⊢
  dsimp only at h ⊢
  rw [if_neg (badMg_eq_false ha), if_neg (by omega), if_neg (by rw [hr]; exact Bool.false_ne_true), if_neg (not_not.mpr h0), h]
  dsimp only
  rw [if_neg (by rw [hfull]; exact Bool.false_ne_true)]
  simp only [State.pushed, State.updMg_cur, State.updMyCore_cur, State.updCluster_cur, cur_release]
end

/-! MGOPEN (R307, R309). -/

section
variable {d a b : Reg} {s : State} {bs : List Byte} (ha : bits (s.reg a) 63 2 = 0) (hb : ReadsLocal s (s.reg b) 64 64 bs)
include ha hb

theorem exec_mgopen_broken (h : parseMg bs (s.reg b) s.cur (!s.me.sup) s.myCore.serial (8 + s.myCore.rangeNext) = none) :
    exec (.mgopen d a b) s = .next (s.put d 1) := by
  change execMgopen d a b s = _
  unfold execMgopen
  dsimp only
  rw [if_neg (badMg_eq_false ha), if_neg (not_not.mpr hb.2.2.1), localBlock_readsLocal true _ (by decide) (by decide) hb, h]

variable {x : MergeCtx} {re : Bool}
  (h : parseMg bs (s.reg b) s.cur (!s.me.sup) s.myCore.serial (8 + s.myCore.rangeNext) = some (x, re))
include h
theorem exec_mgopen_inUse (hf : (s.mg (myCluster s) (mgNum (s.reg a))).state ≠ .free) : exec (.mgopen d a b) s = .next (s.put d 2) := by
  change execMgopen d a b s = _
  unfold execMgopen
  dsimp only
  rw [if_neg (badMg_eq_false ha), if_neg (not_not.mpr hb.2.2.1), localBlock_readsLocal true _ (by decide) (by decide) hb, h]
  exact congrArg _ (if_pos hf)
variable (hf : (s.mg (myCluster s) (mgNum (s.reg a))).state = .free)
include hf
theorem exec_mgopen_noRange (hn : s.myCore.freeRanges < if x.outk = .area then 2 else 1) :
    exec (.mgopen d a b) s = .next (s.put d 3) := by
  change execMgopen d a b s = _
  unfold execMgopen
  dsimp only
  rw [if_neg (badMg_eq_false ha), if_neg (not_not.mpr hb.2.2.1), localBlock_readsLocal true _ (by decide) (by decide) hb, h]
  exact congrArg _ ((if_neg (not_not.mpr hf)).trans (if_pos hn))
variable (hn : (if x.outk = .area then 2 else 1) ≤ s.myCore.freeRanges)
include hn
theorem exec_mgopen_noWrite (hw : s.myCore.mgNoWrite x.user x.spill x.sbytes = true
    ∨ (x.outk = .area ∧ s.myCore.mgNoWrite x.user x.out (8 * x.outcap) = true)) : exec (.mgopen d a b) s = .next (s.put d 4) := by
  change execMgopen d a b s = _
  unfold execMgopen
  dsimp only
  rw [if_neg (badMg_eq_false ha), if_neg (not_not.mpr hb.2.2.1), localBlock_readsLocal true _ (by decide) (by decide) hb, h]
  exact congrArg _ ((if_neg (not_not.mpr hf)).trans ((if_neg (Nat.not_lt.mpr hn)).trans (if_pos hw)))
theorem exec_mgopen_opens (hw : ¬ (s.myCore.mgNoWrite x.user x.spill x.sbytes = true
    ∨ (x.outk = .area ∧ s.myCore.mgNoWrite x.user x.out (8 * x.outcap) = true))) (hre : re = false) :
    exec (.mgopen d a b) s = .next ((s.mgOpen (mgNum (s.reg a)) x (8 + s.myCore.rangeNext)).put d 0) := by
  change execMgopen d a b s = _
  unfold execMgopen
  dsimp only
  rw [if_neg (badMg_eq_false ha), if_neg (not_not.mpr hb.2.2.1), localBlock_readsLocal true _ (by decide) (by decide) hb, h]
  subst hre
  exact congrArg _ ((if_neg (not_not.mpr hf)).trans ((if_neg (Nat.not_lt.mpr hn)).trans ((if_neg hw).trans (if_pos Bool.false_ne_true))))
end

/-! MGPOP, MGSTAT and MGDRAIN (R311). -/

section
variable {d a b : Reg} {s : State}

theorem exec_mgpop_refused (h : bits (s.reg b) 63 7 ≠ 0 ∨ (s.mg (myCluster s) (mgNum (s.reg a))).state = .free
      ∨ (s.mg (myCluster s) (mgNum (s.reg a))).outk ≠ .pop ∨ (s.mg (myCluster s) (mgNum (s.reg a))).holder.core ≠ s.cur.core) :
    exec (.mgpop d a b) s = .next (s.put d (BitVec.allOnes 64)) :=
  congrArg Host.Outcome.next (if_pos (Or.inr h))
variable (ha : bits (s.reg a) 63 2 = 0)
include ha

/-- Up to sixteen pairs leave the output queue for two rows. -/
def State.popped (s : State) (n : Nat) (row : RowCode) : State :=
  let out := (s.mg (myCluster s) n).popQ.take 16
  ((s.updMg (myCluster s) n (fun m => { m with popQ := m.popQ.drop 16 })).setRow row (Row.ofLanes (fun i => (out.getD i (0, 0)).1))).setRow
    (row + 1) (Row.ofLanes (fun i => (out.getD i (0, 0)).2))
theorem exec_mgpop_pops (hb : bits (s.reg b) 63 7 = 0) (hf : (s.mg (myCluster s) (mgNum (s.reg a))).state ≠ .free)
    (ho : (s.mg (myCluster s) (mgNum (s.reg a))).outk = .pop) (hh : (s.mg (myCluster s) (mgNum (s.reg a))).holder.core = s.cur.core) :
    exec (.mgpop d a b) s = .next ((s.popped (mgNum (s.reg a)) (BitVec.ofNat 7 (s.reg b).toNat)).put d
      (BitVec.ofNat 64 ((s.mg (myCluster s) (mgNum (s.reg a))).popQ.take 16).length)) := by
  rw [← ofNat_bits_row]
  refine congrArg Host.Outcome.next (if_neg ?_)
  rintro (h | h | h | h | h)
  exacts [badMg_eq_false ha h, h hb, hf h, h ho, h hh]

theorem exec_mgstat_restoring (h : (s.mg (myCluster s) (mgNum (s.reg a))).restoring = true) : exec (.mgstat d a b) s = .next s :=
  congrArg Host.Outcome.next ((if_neg (badMg_eq_false ha)).trans (if_pos h))
section
variable (hr : (s.mg (myCluster s) (mgNum (s.reg a))).restoring = false)
include hr
theorem exec_mgstat_word (hb : s.reg b = 0) : exec (.mgstat d a b) s = .next (s.put d (s.mg (myCluster s) (mgNum (s.reg a))).statWord) := by
  change execMgstat d a b s = _
  unfold execMgstat
  rw [hb]
  exact congrArg _ ((if_neg (badMg_eq_false ha)).trans (if_neg (by rw [hr]; exact Bool.false_ne_true)))
theorem exec_mgstat_emitted (hb : s.reg b = 1) :
    exec (.mgstat d a b) s = .next (s.put d (sat32w (s.mg (myCluster s) (mgNum (s.reg a))).emitted)) := by
  change execMgstat d a b s = _
  unfold execMgstat
  rw [hb]
  exact congrArg _ ((if_neg (badMg_eq_false ha)).trans (if_neg (by rw [hr]; exact Bool.false_ne_true)))
theorem exec_mgstat_zeros (hb : s.reg b = 2) :
    exec (.mgstat d a b) s = .next (s.put d (sat32w (s.mg (myCluster s) (mgNum (s.reg a))).zeros)) := by
  change execMgstat d a b s = _
  unfold execMgstat
  rw [hb]
  exact congrArg _ ((if_neg (badMg_eq_false ha)).trans (if_neg (by rw [hr]; exact Bool.false_ne_true)))
theorem exec_mgstat_discard (hb : s.reg b = 3) :
    exec (.mgstat d a b) s = .next (s.put d (sat32w (s.mg (myCluster s) (mgNum (s.reg a))).discard)) := by
  change execMgstat d a b s = _
  unfold execMgstat
  rw [hb]
  exact congrArg _ ((if_neg (badMg_eq_false ha)).trans (if_neg (by rw [hr]; exact Bool.false_ne_true)))
end

omit ha in
theorem exec_mgdrain_refused
    (h : (s.mg (myCluster s) (mgNum (s.reg a))).state = .free ∨ (s.mg (myCluster s) (mgNum (s.reg a))).holder ≠ s.cur) :
    exec (.mgdrain d a) s = .next (s.put d (BitVec.allOnes 64)) :=
  congrArg Host.Outcome.next (if_pos (Or.inr (h.imp_right Or.inl)))
/-- The holder's drain goes as far as it can: what it answers then. -/
theorem exec_mgdrain (hf : (s.mg (myCluster s) (mgNum (s.reg a))).state ≠ .free)
    (hh : (s.mg (myCluster s) (mgNum (s.reg a))).holder = s.cur) (hl : s.mgHolderLive (s.mg (myCluster s) (mgNum (s.reg a))) = true) :
    let cl := myCluster s
    let n := mgNum (s.reg a)
    let u := s.release.mgDrain cl n
    exec (.mgdrain d a) s = .next (
      if (u.mg cl n).state = .failed then (u.mgFree cl n).put d (BitVec.allOnes 64)
      else if (u.mg cl n).calm ∧ ((u.mg cl n).drained ∨ (u.mg cl n).state = .done) then (u.mgFree cl n).put d (BitVec.ofNat 64 (u.mg cl n).runs)
      else u.wait (.mergeDrain n) (.mgdrain d a)) := by
  refine congrArg Host.Outcome.next (if_neg ?_)
  rintro (h | h | h | h)
  exacts [badMg_eq_false ha h, hf h, h hh, Bool.false_ne_true (h.symm.trans hl)]
end

/-- Settles O33: the tests of each instruction in the order of its rule, and the state that the first one to hold leaves. -/
theorem mergeInstructions : Obligations.MergeInstructions := by
  unfold Obligations.MergeInstructions
  refine ⟨fun d a b s => ⟨fun h => ⟨⟨_, exec_mgpush_badNumber h, State.put_wrote ..⟩, _, exec_mgend_badNumber h, State.put_wrote ..⟩, fun ha =>
    ⟨fun hb => ⟨_, exec_mgpush_badBlock ha hb, State.put_wrote ..⟩, fun hr => ⟨fun hb => exec_mgpush_restoring ha hb hr, exec_mgend_restoring ha hr⟩,
      fun hr => ⟨fun ht => ?untaken, fun ht hp => ?noPort, fun ht hp => ?taken⟩⟩⟩,
    fun d a b s ha => ⟨fun bs hb => ⟨fun h => ⟨_, exec_mgopen_broken ha hb h, State.put_wrote ..⟩, fun x re h => ?opens⟩,
      fun h => ⟨_, exec_mgdrain_refused h, State.put_wrote ..⟩, fun hf hh hl => ?drains, ?pops,
      fun h => ⟨_, exec_mgpop_refused h, State.put_wrote ..⟩, exec_mgstat_restoring ha, fun hr =>
        ⟨fun hb => ⟨_, exec_mgstat_word ha hr hb, State.put_wrote ..⟩, fun hb => ⟨_, exec_mgstat_emitted ha hr hb, State.put_wrote ..⟩,
          fun hb => ⟨_, exec_mgstat_zeros ha hr hb, State.put_wrote ..⟩, fun hb => ⟨_, exec_mgstat_discard ha hr hb, State.put_wrote ..⟩⟩⟩⟩
  case untaken =>
    have h1 := mgPortStatus_untaken ht
    have h0 : s.mgPortStatus (mgNum (s.reg a)) ≠ 0 := by rw [h1]; decide
    refine ⟨fun hb => ⟨_, exec_mgpush_refused ha hb hr h0, ?_⟩, _, exec_mgend_refused ha hr h0, ?_⟩
    all_goals
      rw [h1]
      exact State.put_wrote ..
  case noPort =>
    have h2 := mgPortStatus_noPort ht hp
    have h0 : s.mgPortStatus (mgNum (s.reg a)) ≠ 0 := by rw [h2]; decide
    refine ⟨fun hb => ⟨_, exec_mgpush_refused ha hb hr h0, ?_⟩, _, exec_mgend_refused ha hr h0, ?_⟩
    all_goals
      rw [h2]
      exact State.put_wrote ..
  case taken =>
    have h0 := mgPortStatus_open ht hp
    have hend := exec_mgend_ends (d := d) ha hr h0
    refine ⟨fun hb => ⟨fun c h => exec_mgpush_traps ha hb hr h0 h, fun h hfull => ⟨_, exec_mgpush_waits ha hb hr h0 hfull h, State.put_wrote ..⟩⟩,
      fun hopen => ⟨_, hend.trans (congrArg _ (mgSettle_of_open hopen)), State.put_wrote ..⟩, _, hend, rfl⟩
  case opens =>
    exact ⟨fun hf => ⟨_, exec_mgopen_inUse ha hb h hf, State.put_wrote ..⟩, fun hf hn => ⟨_, exec_mgopen_noRange ha hb h hf hn, State.put_wrote ..⟩,
      fun hf hn hw => ⟨_, exec_mgopen_noWrite ha hb h hf hn hw, State.put_wrote ..⟩,
      fun hf hn hw hre => ⟨_, exec_mgopen_opens ha hb h hf hn hw hre, State.put_wrote ..⟩⟩
  case drains =>
    have hexec := exec_mgdrain (d := d) ha hf hh hl
    refine ⟨fun h => ⟨_, hexec.trans (congrArg _ (if_pos h)), State.put_wrote ..⟩,
      fun h hc hd => ⟨_, hexec.trans (congrArg _ ((if_neg h).trans (if_pos ⟨hc, hd⟩))), State.put_wrote ..⟩,
      fun h hno => ⟨_, hexec.trans (congrArg _ ((if_neg h).trans (if_neg ?_))), rfl⟩⟩
    rintro ⟨hc, hd⟩
    obtain hno | ⟨hno, hdone⟩ := hno
    · exact Bool.false_ne_true (hno.symm.trans hc)
    · exact hd.elim (fun hd => Bool.false_ne_true (hno.symm.trans hd)) hdone
  case pops =>
    rintro row hb rfl hf ho hh
    exact ⟨_, exec_mgpop_pops ha hb hf ho hh, State.put_wrote ..⟩

end Sys2Proof.Machine
end

section
/-! SUPPORT. The merge network: the order of pushes, what may be emitted, the sum of a coordinate, acceptance and emission (R300-R302, R310). -/

namespace Sys2Proof.Machine

open Sys2Proof Sys2Proof.Safety

/-! Pushes ascend (R310). -/

theorem pushFail_eq_none_chain (last : Option W32) (ps : List (W32 × W32)) :
    pushFail last ps = none ↔ (last.toList ++ ps.map (·.1)).IsChain (fun x y => x.toNat < y.toNat) := by
  induction ps generalizing last with
  | nil => cases last <;> simp [pushFail]
  | cons p ps ih =>
    obtain ⟨c, v⟩ := p
    cases last with
    | none => exact ih (some c)
    | some l =>
      have hc := ih (some c)
      rw [Option.toList_some, List.singleton_append] at hc
      rw [Option.toList_some, List.singleton_append, List.map_cons, List.isChain_cons_cons, ← hc, pushFail]
      by_cases h : c.ule l = true
      · rw [if_pos h]
        have hle : c.toNat ≤ l.toNat := by simpa [BitVec.ule] using h
        exact iff_of_false nofun fun ⟨hlt, _⟩ => Nat.not_lt.mpr hle hlt
      · rw [if_neg h]
        have hlt : l.toNat < c.toNat := by simpa [BitVec.ule] using h
        exact (and_iff_right hlt).symm

/-! What may be emitted (R300, R301). -/

/-- A coordinate takes its place among ascending ones. -/
def insCoord (x : W32) (l : List W32) : List W32 :=
  if l.contains x then l else l.filter (fun y => y.ult x) ++ x :: l.filter (fun y => x.ult y)
theorem coords_eq (m : MergeCtx) : m.coords = m.buf.foldl (fun l e => insCoord e.2.1 l) [] := rfl
theorem mem_insCoord {x y : W32} {l : List W32} : y ∈ insCoord x l ↔ y = x ∨ y ∈ l := by
  unfold insCoord
  by_cases h : l.contains x = true
  · rw [if_pos h]
    exact ⟨Or.inr, fun hy => hy.elim (fun e => e ▸ List.contains_iff_mem.mp h) id⟩
  · rw [if_neg h, List.mem_append, List.mem_cons, List.mem_filter, List.mem_filter]
    have hcases : y = x ∨ y.ult x = true ∨ x.ult y = true := by
      simp only [BitVec.ult, decide_eq_true_eq, ← BitVec.toNat_inj]
      omega
    tauto
theorem pairwise_insCoord {x : W32} {l : List W32} (h : l.Pairwise (fun x y => x.toNat < y.toNat)) :
    (insCoord x l).Pairwise (fun x y => x.toNat < y.toNat) := by
  unfold insCoord
  by_cases hc : l.contains x = true
  · rwa [if_pos hc]
  · rw [if_neg hc, List.pairwise_append, List.pairwise_cons]
    simp only [List.mem_filter, List.mem_cons, BitVec.ult, decide_eq_true_eq]
    refine ⟨h.filter _, ⟨fun y hy => hy.2, h.filter _⟩, fun a ha b hb => ?_⟩
    obtain rfl | hb := hb
    · exact ha.2
    · exact ha.2.trans hb.2
theorem coords_spec (m : MergeCtx) :
    (∀ y, y ∈ m.coords ↔ y ∈ m.buf.map (·.2.1)) ∧ m.coords.Pairwise (fun x y => x.toNat < y.toNat) := by
  have hfold (buf : List (Nat × W32 × W32)) (l : List W32) (h : l.Pairwise (fun x y => x.toNat < y.toNat)) :
      (∀ y, y ∈ buf.foldl (fun l e => insCoord e.2.1 l) l ↔ y ∈ l ∨ y ∈ buf.map (·.2.1))
        ∧ (buf.foldl (fun l e => insCoord e.2.1 l) l).Pairwise (fun x y => x.toNat < y.toNat) := by
    induction buf generalizing l with
    | nil => exact ⟨fun y => by simp, h⟩
    | cons e buf ih =>
      obtain ⟨hmem, hsort⟩ := ih _ (pairwise_insCoord (x := e.2.1) h)
      refine ⟨fun y => ?_, hsort⟩
      rw [List.foldl_cons, hmem, mem_insCoord, List.map_cons, List.mem_cons]
      tauto
  obtain ⟨hmem, hsort⟩ := hfold m.buf [] List.Pairwise.nil
  rw [coords_eq]
  exact ⟨fun y => by simpa using hmem y, hsort⟩

section
variable {c : Cluster} {n p : Nat} {x : W32}
/-- A port that is not behind a coordinate has no pair of it or below in a push, and has ended or pushed it or more. -/
theorem not_behind (h : c.behind n p x = false) (hm : (c.mg n).members.getLsbD p = true) :
    (∀ q ∈ c.mq, q.mctx = n → q.port = p → x.toNat < q.coord.toNat)
      ∧ ((c.mg n).ended.getLsbD p = false → ∃ l, (c.mg n).lastPushed p = some l ∧ x.toNat ≤ l.toNat) := by
  unfold Cluster.behind at h
  dsimp only at h
  rw [hm, Bool.true_and, Bool.or_eq_false_iff] at h
  obtain ⟨hpend, hlast⟩ := h
  refine ⟨fun q hq hn hp => ?_, fun he => ?_⟩
  · rw [List.any_eq_false] at hpend
    simpa [BitVec.ule] using hpend q (List.mem_filter.mpr ⟨hq, by simp [hn, hp]⟩)
  · rw [he, Bool.not_false, Bool.true_and] at hlast
    cases hl : (c.mg n).lastPushed p with
    | none =>
      rw [hl] at hlast
      exact absurd hlast nofun
    | some l =>
      rw [hl] at hlast
      exact ⟨l, rfl, by simpa [BitVec.ult] using hlast⟩
theorem emittable_some (h : c.emittable n = some x) :
    x ∈ (c.mg n).buf.map (·.2.1) ∧ (∀ e ∈ (c.mg n).buf, x.toNat ≤ e.2.1.toNat) ∧ ∀ p < 16, c.behind n p x = false := by
  unfold Cluster.emittable at h
  obtain ⟨hmem, hsort⟩ := coords_spec (c.mg n)
  cases hl : (c.mg n).coords with
  | nil =>
    rw [hl] at h
    exact absurd h nofun
  | cons y ys =>
    rw [hl] at h hsort
    dsimp only at h
    split at h
    · exact absurd h nofun
    · next hb =>
      obtain rfl := Option.some.inj h
      refine ⟨(hmem y).mp (hl ▸ List.mem_cons_self), fun e he => ?_, fun p hp => ?_⟩
      · have hin := (hmem e.2.1).mpr (List.mem_map_of_mem he)
        rw [hl, List.mem_cons] at hin
        obtain heq | hin := hin
        · rw [heq]
        · exact (List.rel_of_pairwise_cons hsort hin).le
      · rw [List.any_eq_true] at hb
        simpa using not_exists.mp hb p ∘ fun h => ⟨List.mem_range.mpr hp, h⟩
end

/-! The sum of a coordinate (R301). -/

/-- A port's contribution to a coordinate. -/
def MergeCtx.valAt (m : MergeCtx) (c : W32) (p : Nat) : Option W32 := (m.buf.find? (fun e => e.1 == p && e.2.1 == c)).map (fun e => e.2.2)
theorem valAt_mem {m : MergeCtx} {c v : W32} {p : Nat} (h : m.valAt c p = some v) : (p, c, v) ∈ m.buf := by
  unfold MergeCtx.valAt at h
  obtain ⟨⟨p', c', v'⟩, he, rfl⟩ := Option.map_eq_some_iff.mp h
  have heq := List.find?_some he
  simp only [Bool.and_eq_true, beq_iff_eq] at heq
  obtain ⟨rfl, rfl⟩ := heq
  exact List.mem_of_find?_eq_some he
theorem valAt_isSome {m : MergeCtx} {c v : W32} {p : Nat} (h : (p, c, v) ∈ m.buf) : ∃ w, m.valAt c p = some w := by
  refine Option.isSome_iff_exists.mp ?_
  rw [MergeCtx.valAt, Option.isSome_map, List.find?_isSome]
  exact ⟨_, h, by simp⟩
/-- The contributions in ascending port order are those of the buffer, where no port has two. -/
theorem contributions_eq {m : MergeCtx} {c : W32} {l : List (Nat × W32)} (hl : l.Pairwise (fun x y => x.1 < y.1))
    (hmem : ∀ p v, (p, v) ∈ l ↔ p < 16 ∧ (p, c, v) ∈ m.buf) : lanes.filterMap (m.valAt c) = l.map (·.2) := by
  have hpairs : lanes.filterMap (fun p => (m.valAt c p).map (fun v => (p, v))) = l := by
    refine List.Pairwise.eq_of_mem_iff (r := fun (x y : Nat × W32) => x.1 < y.1) ?_ hl fun ⟨p, v⟩ => ?_
    · refine List.pairwise_filterMap.mpr (List.pairwise_lt_range.imp fun hab x hx y hy => ?_)
      obtain ⟨_, _, rfl⟩ := Option.map_eq_some_iff.mp hx
      obtain ⟨_, _, rfl⟩ := Option.map_eq_some_iff.mp hy
      exact hab
    · rw [hmem, List.mem_filterMap]
      constructor
      · rintro ⟨p', hp, hv⟩
        obtain ⟨w, hw, heq⟩ := Option.map_eq_some_iff.mp hv
        obtain ⟨rfl, rfl⟩ := Prod.mk.injEq .. ▸ heq
        exact ⟨List.mem_range.mp hp, valAt_mem hw⟩
      · rintro ⟨hp, hv⟩
        obtain ⟨w, hw⟩ := valAt_isSome hv
        have heq : w = v := by
          have hnodup : (l.map (·.1)).Nodup := List.pairwise_map.mpr (hl.imp fun h => h.ne)
          have hsame := List.inj_on_of_nodup_map hnodup ((hmem p w).mpr ⟨hp, valAt_mem hw⟩) ((hmem p v).mpr ⟨hp, hv⟩) rfl
          exact congrArg Prod.snd hsame
        exact ⟨p, List.mem_range.mpr hp, by rw [hw, heq, Option.map_some]⟩
  rw [← hpairs, List.map_filterMap]
  congr 1
  funext p
  cases m.valAt c p <;> rfl
theorem sumAt_eq {m : MergeCtx} {c : W32} {l : List (Nat × W32)} (hl : l.Pairwise (fun x y => x.1 < y.1))
    (hmem : ∀ p v, (p, v) ∈ l ↔ p < 16 ∧ (p, c, v) ∈ m.buf) :
    m.sumAt c = match l with
      | [] => 0
      | x :: rest => rest.foldl (fun s y => (faddBits (RMode.ofCode m.round) s y.2).1) x.2 := by
  have hvs : (lanes.filterMap fun p => (m.buf.find? (fun e => e.1 == p && e.2.1 == c)).map (fun e => e.2.2)) = l.map (·.2) :=
    contributions_eq hl hmem
  unfold MergeCtx.sumAt
  rw [hvs]
  cases l with
  | nil => rfl
  | cons x rest =>
    rw [List.map_cons]
    exact List.foldl_map

/-! A context that is written (R299). -/

theorem mg_updMg (s : State) (cl n : Nat) (f : MergeCtx → MergeCtx) : (s.updMg cl n f).mg cl n = f (s.mg cl n) := by
  rw [State.mg, State.updMg, State.cluster_updCluster, if_pos rfl]
  exact Tbl.get_set_self ..
theorem mq_updMg (s : State) (cl n d : Nat) (f : MergeCtx → MergeCtx) : ((s.updMg cl n f).cluster d).mq = (s.cluster d).mq := by
  rw [State.updMg, State.cluster_updCluster]
  split
  · next h => rw [h]
  · rfl
theorem l1_updMg (s : State) (cl n d : Nat) (f : MergeCtx → MergeCtx) : ((s.updMg cl n f).cluster d).l1 = (s.cluster d).l1 := by
  rw [State.updMg, State.cluster_updCluster]
  split
  · next h => rw [h]
  · rfl
/-- A context's members, its ended ports and the queue of pushes say whether every member has ended. -/
theorem allEnded_congr {c d : Cluster} {n : Nat} (hm : (d.mg n).members = (c.mg n).members) (he : (d.mg n).ended = (c.mg n).ended)
    (hq : d.mq = c.mq) : d.allEnded n = c.allEnded n := by
  unfold Cluster.allEnded Cluster.pending
  dsimp only
  rw [hm, he, hq]

/-! Acceptance (R302). -/

section
variable {s t : State} {cl : Nat} {q : MergePush} (hmq : (s.cluster cl).mq = [q])

theorem port_mem_portOrder (c : Cluster) (h : q.port < 16) : q.port ∈ c.portOrder :=
  List.mem_map.mpr ⟨(q.port + 16 * (c.mqLast + 1) - (c.mqLast + 1)) % 16, List.mem_range.mpr (Nat.mod_lt _ (by decide)), by omega⟩
include hmq
/-- The one pair that waits is found whatever port comes first. -/
theorem acceptFrom_one (ht : s.mgTake cl q false = .ok t) : ∀ ps, q.port ∈ ps → s.acceptFrom cl ps = t.mgSettle cl q.mctx
  | [], h => nomatch h
  | p :: ps, h => by
    rw [State.acceptFrom, hmq]
    by_cases hp : q.port = p
    · rw [List.find?_cons_of_pos (by simpa using hp)]
      dsimp only
      rw [ht]
    · rw [List.find?_cons_of_neg (by simpa using hp)]
      exact acceptFrom_one ht ps ((List.mem_cons.mp h).resolve_left hp)
/-- The last pair of a push enters the buffer, and its thread's operation retires. -/
theorem mgEnter_one : s.mgEnter cl q = ((s.updCluster cl (fun c => { c with mq := [], mqLast := q.port })).updMg cl q.mctx (fun m =>
    { m with buf := m.buf ++ [(q.port, q.coord, q.val)] })).latchThread ⟨16 * cl + q.port, q.slot⟩ := by
  have hupd : s.updCluster cl (fun c => { c with mq := c.mq.erase q, mqLast := q.port })
      = s.updCluster cl (fun c => { c with mq := [], mqLast := q.port }) := by
    refine congrArg (s.setCluster cl) ?_
    dsimp only
    rw [hmq, List.erase_cons_head]
  unfold State.mgEnter
  rw [hupd]
  refine if_neg ?_
  rw [mq_updMg, State.cluster_updCluster, if_pos rfl]
  exact Bool.false_ne_true
omit hmq in
theorem mg_latchThread (s : State) (t : ThreadId) (cl n : Nat) : (s.latchThread t).mg cl n = s.mg cl n := rfl
theorem mg_mgEnter_one : (s.mgEnter cl q).mg cl q.mctx =
    { s.mg cl q.mctx with buf := (s.mg cl q.mctx).buf ++ [(q.port, q.coord, q.val)] } := by
  rw [mgEnter_one hmq, mg_latchThread, mg_updMg, State.mg, State.cluster_updCluster, if_pos rfl]
  rfl
/-- A pair that leaves room, or that an OPEN context takes, is no run's. -/
theorem mgEnterRun_one (h : (s.mg cl q.mctx).state = .opened ∨ (s.mg cl q.mctx).buf.length + 1 < (s.mg cl q.mctx).cap) :
    s.mgEnterRun cl q = s.mgEnter cl q := by
  refine if_pos ?_
  rw [mg_mgEnter_one hmq]
  refine h.imp (fun ho hs => ?_) fun hl => Or.inl ?_
  · exact nomatch ho.symm.trans hs
  · rwa [List.length_append]
omit hmq in
theorem mgTake_enters (hl : (s.mg cl q.mctx).state.live = true) (hc : (s.mg cl q.mctx).calm = true) (hw : s.mgOutWaits cl q.mctx = false)
    (hb : (s.mg cl q.mctx).buf.length < (s.mg cl q.mctx).cap) : s.mgTake cl q false = .ok (s.mgEnterRun cl q) := by
  unfold State.mgTake
  dsimp only
  change (if (!(s.mg cl q.mctx).state.live) = true then _ else if (!(s.mg cl q.mctx).calm) = true then _ else if _ then _
    else if (s.mg cl q.mctx).buf.length < (s.mg cl q.mctx).cap then _ else _) = _
  rw [if_neg (by rw [hl]; exact Bool.false_ne_true), if_neg (by rw [hc]; exact Bool.false_ne_true),
    if_neg (by rw [hw]; exact fun h => Bool.false_ne_true h.1), if_pos hb, if_pos ⟨hc, hl⟩]
end

/-! Emission (R301, R302). -/

section
variable {s t : State} {cl n : Nat} {c : W32}

theorem calm_iff {m : MergeCtx} : m.calm = true ↔ m.held = none ∧ m.owes = [] := by
  simp [MergeCtx.calm]
/-- An OPEN context with nothing in progress emits the coordinate that it may. -/
theorem mgEmit_out (ho : (s.mg cl n).state = .opened) (hc : (s.mg cl n).calm = true) (hd : (s.mg cl n).drained = false)
    (he : (s.cluster cl).emittable n = some c) (ht : s.mgOut cl n c = .ok t) : s.mgEmit cl n = t.mgSettle cl n := by
  obtain ⟨hheld, howes⟩ := calm_iff.mp hc
  unfold State.mgEmit
  dsimp only
  rw [hheld, howes, hd, ho, if_neg (by decide), if_neg (by decide), if_neg (by decide), if_neg (fun h => nomatch h.1),
    if_neg (not_not.mpr rfl), he]
  dsimp only
  rw [ht]

theorem exec_mergeEmit_out (ho : (s.mg cl n).state = .opened) (hc : (s.mg cl n).calm = true) (hd : (s.mg cl n).drained = false)
    (he : (s.cluster cl).emittable n = some c) (ht : s.mgOut cl n c = .ok t) : exec (.mergeEmit cl n) s = .next (t.mgSettle cl n) :=
  congrArg Host.Outcome.next (mgEmit_out ho hc hd he ht)

/-- A coordinate's pairs leave the buffer. -/
def MergeCtx.gone (m : MergeCtx) (c : W32) : MergeCtx := { m with buf := m.buf.filter (fun e => e.2.1 != c) }
theorem dropsZero_iff {m : MergeCtx} : m.dropsZero c = true ↔ m.dz = true ∧ (m.sumAt c = 0 ∨ m.sumAt c = 0x80000000) := by
  simp [MergeCtx.dropsZero]
theorem mgOut_zero (hz : (s.mg cl n).dropsZero c = true) :
    s.mgOut cl n c = .ok (s.updMg cl n (fun x => { x.gone c with zeros := x.zeros + 1 })) := if_pos hz
variable (hz : (s.mg cl n).dropsZero c = false)
include hz
theorem mgOut_pop (hk : (s.mg cl n).outk = .pop) (hroom : (s.mg cl n).popQ.length < 64) : s.mgOut cl n c = .ok (s.updMg cl n (fun x =>
    { x.gone c with emitted := x.emitted + 1, popQ := x.popQ ++ [(c, (s.mg cl n).sumAt c)] })) := by
  have hfull : s.mgFull (s.mg cl n) = false := by
    unfold State.mgFull
    rw [hk]
    simpa using hroom
  unfold State.mgOut
  dsimp only
  rw [hz, hfull, hk, if_neg Bool.false_ne_true, if_neg Bool.false_ne_true]
  rfl
theorem mgOut_discard (hk : (s.mg cl n).outk = .area) (hend : (s.mg cl n).outcap ≤ (s.mg cl n).emitted) :
    s.mgOut cl n c = .ok (s.updMg cl n (fun x => { x.gone c with emitted := x.emitted + 1, discard := x.discard + 1 })) := by
  have hfull : s.mgFull (s.mg cl n) = false := by
    unfold State.mgFull
    rw [hk]
  unfold State.mgOut
  dsimp only
  rw [hz, hfull, hk, if_neg Bool.false_ne_true, if_neg Bool.false_ne_true]
  dsimp only
  rw [if_pos hend]
  rfl
theorem mgOut_area (hk : (s.mg cl n).outk = .area) (hin : (s.mg cl n).emitted < (s.mg cl n).outcap) :
    s.mgOut cl n c = .ok (s.mgBegin cl n (·.gone c) [.out (c, (s.mg cl n).sumAt c)]) := by
  have hfull : s.mgFull (s.mg cl n) = false := by
    unfold State.mgFull
    rw [hk]
  unfold State.mgOut
  dsimp only
  rw [hz, hfull, hk, if_neg Bool.false_ne_true, if_neg Bool.false_ne_true]
  dsimp only
  rw [if_neg (Nat.not_le.mpr hin)]
  rfl
end

/-! A pair's write to the output area (R302). -/

section
variable {s : State}

theorem translate_updMg (cl n d ctx : Nat) (f : MergeCtx → MergeCtx) (va : Word) (k : Access) (user : Bool) :
    (s.updMg cl n f).translate d ctx va k user = s.translate d ctx va k user := by
  have hfind : (s.updMg cl n f).tlbFind d ctx va.toNat = s.tlbFind d ctx va.toNat := by
    unfold State.tlbFind
    rw [l1_updMg]
    rfl
  unfold State.translate
  rw [hfind]
  rfl
theorem engineSpan_updMg (cl n k ctx : Nat) (f : MergeCtx → MergeCtx) (user : Bool) (a : Access) (va : Word) (len : Nat) :
    (s.updMg cl n f).engineSpan k ctx user a va len = s.engineSpan k ctx user a va len := by
  unfold State.engineSpan
  simp only [translate_updMg]

/-- The contexts of every cluster and the pushes that wait there stay. -/
def MergeKept (s t : State) : Prop := ∀ d, (t.cluster d).merge = (s.cluster d).merge ∧ (t.cluster d).mq = (s.cluster d).mq
theorem mergeKept_dirtyAt (s : State) (d ctx : Nat) (va : Word) : MergeKept s (s.dirtyAt d ctx va) := by
  unfold State.dirtyAt
  split
  · next a _ =>
    intro d
    change (Tbl.get (s.clusters.map fun p => (p.1, _)) Cluster.reset d).merge = _ ∧ (Tbl.get (s.clusters.map fun p => (p.1, _)) Cluster.reset d).mq = _
    rw [Tbl.get_map s.clusters Cluster.reset (fun c => { c with
      l1 := c.l1.map (fun e => if e.owesD = some a then { e with owesD := none } else e) }) rfl]
    exact ⟨rfl, rfl⟩
  · exact fun _ => ⟨rfl, rfl⟩
theorem mergeKept_dirtySpan (s : State) (c ctx : Nat) (va : Word) (len : Nat) : MergeKept s (s.dirtySpan c ctx va len) := by
  unfold State.dirtySpan
  split
  · refine foldl_keeps (P := MergeKept s) (fun t p _ h d => ?_) _ fun _ => ⟨rfl, rfl⟩
    obtain ⟨hm, hq⟩ := mergeKept_dirtyAt t (clusterOf c) ctx p.1 d
    exact ⟨hm.trans (h d).1, hq.trans (h d).2⟩
  · exact fun _ => ⟨rfl, rfl⟩
theorem mergeKept_writeAt (s : State) (c : Nat) (p : Place) (bs : List Byte) : MergeKept s (s.writeAt c p bs) := by
  cases p <;> exact fun _ => ⟨rfl, rfl⟩

variable {cl n : Nat} {r : Place} {p : W32 × W32}
/-- A pair that is written where its span translates: the state after it. -/
def State.pairWritten (s : State) (cl n : Nat) (r : Place) (p : W32 × W32) : State :=
  let m := s.mg cl n
  let k := m.holder.core
  s.sentBy (some (m.holder, m.serial)) 0x80
    ((s.dirtySpan k (s.coreCtx k) (m.out + BitVec.ofNat 64 (8 * m.emitted)) 8).writeSpan k [(r, 8)] (pairBytes p))
theorem pairBytes_length (p : W32 × W32) : (pairBytes p).length = 8 := rfl
theorem mgStep_out (hspan : s.engineSpan (s.mg cl n).holder.core (s.coreCtx (s.mg cl n).holder.core) (s.mg cl n).user .copyWrite
      ((s.mg cl n).out + BitVec.ofNat 64 (8 * (s.mg cl n).emitted)) 8 = .ok [(r, 8)]) :
    s.mgStep cl n (.out p) = .ok ((s.pairWritten cl n r p).updMg cl n (fun m => { m with emitted := m.emitted + 1 })) := by
  unfold State.mgStep State.mgWrite
  dsimp only
  rw [pairBytes_length, hspan]
  rfl
theorem mergeKept_pairWritten : MergeKept s (s.pairWritten cl n r p) := by
  intro d
  obtain ⟨hm, hq⟩ := mergeKept_dirtySpan s (s.mg cl n).holder.core (s.coreCtx (s.mg cl n).holder.core)
    ((s.mg cl n).out + BitVec.ofNat 64 (8 * (s.mg cl n).emitted)) 8 d
  obtain ⟨hm', hq'⟩ := mergeKept_writeAt (s.dirtySpan (s.mg cl n).holder.core (s.coreCtx (s.mg cl n).holder.core)
    ((s.mg cl n).out + BitVec.ofNat 64 (8 * (s.mg cl n).emitted)) 8) (s.mg cl n).holder.core r (pairBytes p) d
  unfold State.pairWritten
  dsimp only
  rw [writeSpan_one r (pairBytes_length p)]
  exact ⟨hm'.trans hm, hq'.trans hq⟩
theorem mg_pairWritten : (s.pairWritten cl n r p).mg cl n = s.mg cl n :=
  congrArg (fun t : Tbl MergeCtx => t.get MergeCtx.reset n) (mergeKept_pairWritten cl).1
theorem memByte_updMg (s : State) (cl n : Nat) (f : MergeCtx → MergeCtx) (c : Nat) (q : Place) : (s.updMg cl n f).memByte c q = s.memByte c q := by
  cases q <;> rfl
theorem memByte_pairWritten (hok : MemOk s) (hr : ∀ e x, r ≠ .remote e x) {i : Nat} (hi : i < 8) :
    (s.pairWritten cl n r p).memByte (s.mg cl n).holder.core (r.plus i) = (pairBytes p).getD i 0 := by
  have hsent : (s.pairWritten cl n r p).memByte (s.mg cl n).holder.core (r.plus i)
      = ((s.dirtySpan (s.mg cl n).holder.core (s.coreCtx (s.mg cl n).holder.core)
        ((s.mg cl n).out + BitVec.ofNat 64 (8 * (s.mg cl n).emitted)) 8).writeAt (s.mg cl n).holder.core r (pairBytes p)).memByte
          (s.mg cl n).holder.core (r.plus i) := by
    rw [← writeSpan_one r (pairBytes_length p)]
    cases r.plus i <;> rfl
  have hlen : i < (pairBytes p).length := hi
  rw [hsent, memByte_writeAt (memOk_dirtySpan hok) _ (r, pairBytes p) (plus_ne_remote hr i), writeCovers_plus _ _ hlen, Option.getD_some,
    List.getD_eq_getElem _ _ hlen]

/-- The pair of a coordinate on its way to the output area. -/
def State.pairBegun (s : State) (cl n : Nat) (c : W32) (p : W32 × W32) : State :=
  s.updMg cl n (fun m => { m.gone c with owes := m.owes ++ [.out p] })
/-- The pair is written there, and nothing is in progress then. -/
def State.pairOut (s : State) (cl n : Nat) (c : W32) (r : Place) (p : W32 × W32) : State :=
  ((((s.pairBegun cl n c p).pairWritten cl n r p).updMg cl n (fun m => { m with emitted := m.emitted + 1 })).updMg cl n
    (fun m => { m with owes := [] })).updMg cl n (fun m => { m with owes := [] })
theorem mg_pairBegun {c : W32} : (s.pairBegun cl n c p).mg cl n = { (s.mg cl n).gone c with owes := (s.mg cl n).owes ++ [.out p] } := mg_updMg ..
theorem mg_pairOut {c : W32} : (s.pairOut cl n c r p).mg cl n = { (s.mg cl n).gone c with emitted := (s.mg cl n).emitted + 1, owes := [] } := by
  unfold State.pairOut
  rw [mg_updMg, mg_updMg, mg_updMg, mg_pairWritten, mg_pairBegun]
  rfl
theorem allEnded_pairOut {c : W32} : ((s.pairOut cl n c r p).cluster cl).allEnded n = (s.cluster cl).allEnded n := by
  refine allEnded_congr ?_ ?_ ?_
  · exact (congrArg MergeCtx.members mg_pairOut :)
  · exact (congrArg MergeCtx.ended mg_pairOut :)
  · unfold State.pairOut State.pairBegun
    rw [mq_updMg, mq_updMg, mq_updMg, (mergeKept_pairWritten cl).2, mq_updMg]
theorem memByte_pairOut {c : W32} (hok : MemOk s) (hr : ∀ e x, r ≠ .remote e x) {i : Nat} (hi : i < 8) :
    (s.pairOut cl n c r p).memByte (s.mg cl n).holder.core (r.plus i) = (pairBytes p).getD i 0 := by
  have hk : ((s.pairBegun cl n c p).mg cl n).holder.core = (s.mg cl n).holder.core := (congrArg (fun m : MergeCtx => m.holder.core) mg_pairBegun :)
  have hbegun : MemOk (s.pairBegun cl n c p) := hok
  unfold State.pairOut
  rw [memByte_updMg, memByte_updMg, memByte_updMg, ← hk]
  exact memByte_pairWritten hbegun hr hi

theorem mgBegin_out {c : W32} (hc : (s.mg cl n).calm = true)
    (hspan : s.engineSpan (s.mg cl n).holder.core (s.coreCtx (s.mg cl n).holder.core) (s.mg cl n).user .copyWrite
      ((s.mg cl n).out + BitVec.ofNat 64 (8 * (s.mg cl n).emitted)) 8 = .ok [(r, 8)]) :
    s.mgBegin cl n (·.gone c) [.out p] = s.pairOut cl n c r p := by
  obtain ⟨hheld, howes⟩ := calm_iff.mp hc
  have hheld' : ((s.pairBegun cl n c p).mg cl n).held = none := (congrArg MergeCtx.held mg_pairBegun).trans hheld
  have howes' : ((s.pairBegun cl n c p).mg cl n).owes = [.out p] := by
    rw [mg_pairBegun, howes]
    rfl
  change (s.pairBegun cl n c p).mgOwed cl n = _
  rw [State.mgOwed, hheld', howes', Option.isSome_none, if_neg Bool.false_ne_true, State.mgGo, mgStep_out (r := r)]
  · rfl
  · rw [mg_pairBegun, State.pairBegun, engineSpan_updMg]
    exact hspan
end

/-- Settles O34: ascending pushes are a chain, what may be emitted is the head of the sorted coordinates, the contributions are the sorted
list of a coordinate's pairs, and acceptance and emission step by step. -/
theorem mergeNetwork : Obligations.MergeNetwork := by
  unfold Obligations.MergeNetwork
  refine ⟨fun last ps => (pushFail_eq_none_chain last ps).trans ?_, fun c n x h => ?emittable, fun m c l hl hmem => (sumAt_eq hl hmem).trans (by cases l <;> rfl),
    fun cl q s => ⟨fun hmq hp hl hc hw hb hrun => ⟨_, rfl, ?accepted⟩, fun c ho hc hd he => ⟨fun hdz hz => ?zero, fun hz => ?_⟩⟩⟩
  · have : IsTrans W32 (fun x y => x.toNat < y.toNat) := ⟨fun _ _ _ => Nat.lt_trans⟩
    exact List.isChain_iff_pairwise
  case emittable =>
    obtain ⟨hmem, hleast, hports⟩ := emittable_some h
    exact ⟨hmem, hleast, fun q hq hn hp hm => (not_behind (hports q.port hp) hm).1 q hq hn rfl,
      fun p hp hm hend => (not_behind (hports p hp) hm).2 hend⟩
  case accepted =>
    rw [acceptFrom_one hmq (mgTake_enters hl hc hw hb) _ (port_mem_portOrder _ hp), mgEnterRun_one hmq hrun, mgEnter_one hmq]
  case zero =>
    exact ⟨_, exec_mergeEmit_out ho hc hd he (mgOut_zero (dropsZero_iff.mpr ⟨hdz, hz⟩)), rfl⟩
  have hz : (s.mg cl q.mctx).dropsZero c = false := by
    rw [← Bool.not_eq_true, dropsZero_iff]
    exact fun h => hz h.1 h.2
  refine ⟨fun hk hroom => ⟨_, exec_mergeEmit_out ho hc hd he (mgOut_pop hz hk hroom), ?_⟩,
    fun hk hend => ⟨_, exec_mergeEmit_out ho hc hd he (mgOut_discard hz hk hend), rfl⟩, fun r hk hin hopen hok hr hspan => ?area⟩
  · refine congrArg (fun u : State => u.mgSettle cl q.mctx) (congrArg (s.setCluster cl) ?_)
    rfl
  case area =>
    have hexec := exec_mergeEmit_out ho hc hd he ((mgOut_area hz hk hin).trans (congrArg _ (mgBegin_out hc hspan)))
    rw [mgSettle_of_open (allEnded_pairOut.trans hopen)] at hexec
    exact ⟨_, hexec, congrArg MergeCtx.emitted mg_pairOut, congrArg MergeCtx.buf mg_pairOut, fun i hi => memByte_pairOut hok hr hi⟩

end Sys2Proof.Machine
end

section
/-! SUPPORT. The done write of an encode engine whose context has two entries in the list of contexts (R247, R248). -/

namespace Sys2Proof.Machine

open Sys2Proof Sys2Proof.Safety

/-- An encoder queue with one record, at 0x1000. -/
def encodeQueue : Queue := { Queue.reset with kind := .encoder, base := 0x1000, capacity := 4, occupied := 1, undealt := 1 }
/-- Context 0 stands twice in the list of contexts, which nothing in a state excludes: its number finds the first entry, which is EMPTY; the
engines' search finds the second, which is ACTIVE. The record names a done word at 0xF000 and is all zeros otherwise, which the engine refuses. -/
def twiceListed : State :=
  { State.reset.updCluster 0 (fun c => { c with l1 := [⟨0, 0, 65536, .hbm, 0, true, true, false, true, true, false, none⟩] }) with
    ctxs := [(0, Ctx.reset), (0, { Ctx.reset with state := .active, queues := [(4, encodeQueue)] })], hbm := [(0x1039, 0xF0)] }
theorem twiceListed_queue : (twiceListed.encoder 0).held = none ∧ (twiceListed.encoder 0).owes = none ∧ (twiceListed.encoder 0).doneFails = false
    ∧ twiceListed.encoderQueue 0 = some (0, 4, encodeQueue)
    ∧ twiceListed.encTranslate 0 encodeQueue.home (encodeQueue.base + BitVec.ofNat 64 (64 * encodeQueue.head)) .copyRead = .ok (.hbm 0x1000) := by
  decide
/-- Its frame record. -/
def twiceFrame : Frame := dwordsOf (twiceListed.engineBytes (512 * encodeQueue.home) (.hbm 0x1000) 64)
theorem twiceFrame_refused : twiceFrame.refused (twiceListed.encoder 0) = true ∧ twiceFrame.done = 0xF000 ∧ doneOk 0xF000 = true
    ∧ (twiceListed.readBy (512 * encodeQueue.home) [(.hbm 0x1000, 64)]).encTranslate 0 encodeQueue.home 0xF000 .copyWrite = .ok (.hbm 0xF000) := by
  decide
/-- The done write is due for a context that the engine finds EMPTY, and is not made. -/
theorem twiceListed_unpaid (t : State) (ht : exec (.encodeFrame 0) twiceListed = .next t) : t.memByte 0 (.hbm 0xF000) = 0 := by
  obtain rfl := Host.Outcome.next.inj ht
  decide
theorem twiceListed_due : (((twiceListed.readBy (512 * encodeQueue.home) [(.hbm 0x1000, 64)]).dirtyAt (32 * encodeQueue.home) 0 0xF000).writeAt
    (512 * encodeQueue.home) (.hbm 0xF000) (wordBytes (BitVec.allOnes 64))).memByte 0 (.hbm 0xF000) = 0xFF := by
  decide

/-- Refutes O47, in its last clause: an encode engine takes its record from the list of contexts, and makes the done write only where the
context's number finds an ACTIVE one. Nothing in the clause excludes a list with two entries of one number; there the record is refused, and its
done word does not come to read all ones. -/
theorem not_dealingAndEncoding : ¬ Obligations.DealingAndEncoding := by
  unfold Obligations.DealingAndEncoding
  rintro ⟨-, hencode⟩
  obtain ⟨hheld, howes, hfails, hqueue, hrecord⟩ := twiceListed_queue
  obtain ⟨hrefused, hdone, hok, hplace⟩ := twiceFrame_refused
  obtain ⟨-, hall⟩ := hencode 0 0 4 encodeQueue (.hbm 0x1000) twiceListed hheld howes hqueue hrecord
  change ∀ d, twiceFrame.refused (twiceListed.encoder 0) = true ∨ _ → _ → twiceFrame.done ≠ 0 → doneOk twiceFrame.done = true →
    State.encTranslate _ 0 _ twiceFrame.done _ = _ → ∃ t, exec _ _ = .next t ∧ _ ∧ _ ∧ ∀ c a, t.memByte c a
      = (State.writeAt (State.dirtyAt _ _ _ twiceFrame.done) _ _ _).memByte c a at hall
  rw [hdone] at hall
  obtain ⟨t, ht, -, -, hmem⟩ := hall (.hbm 0xF000) (Or.inl hrefused) hfails (by decide) hok hplace
  have hwritten := hmem 0 (.hbm 0xF000)
  rw [twiceListed_unpaid t ht, twiceListed_due] at hwritten
  exact absurd hwritten (by decide)

end Sys2Proof.Machine
end

section
/-! SUPPORT. The scene-form helpers: rows and a mask written together, and the accesses of TEXL (R286-R297). -/

namespace Sys2Proof.Machine

open Sys2Proof Sys2Proof.Safety

/-! Rows and masks written before the thread goes on. -/

/-- Of the thread that runs, and of the state, only rows and masks have changed, and events been counted. -/
structure Drawn (s u : State) : Prop where
  mine : Mine s u u.me s.way
  csr : ∀ n, u.me.csr n = s.me.csr n
  rest : threadRest u.me = threadRest s.me
  pc : u.me.pc = s.me.pc
  replay : u.me.replay = s.me.replay
  regs : ∀ n, regNo u.me n = regNo s.me n

section
variable {s u : State}
theorem Drawn.refl (s : State) : Drawn s s := ⟨.refl s, fun _ => rfl, rfl, rfl, rfl, fun _ => rfl⟩
theorem Drawn.updMe (h : Drawn s u) {f : Thread → Thread} (hcsr : ∀ n, (f u.me).csr n = u.me.csr n)
    (hrest : threadRest (f u.me) = threadRest u.me) (hpc : (f u.me).pc = u.me.pc) (hreplay : (f u.me).replay = u.me.replay)
    (hregs : ∀ n, regNo (f u.me) n = regNo u.me n) : Drawn s (u.updMe f) := by
  have hme : (u.updMe f).me = f u.me := State.me_updMe ..
  refine ⟨hme ▸ h.mine.updMe f, fun n => ?_, ?_, ?_, ?_, fun n => ?_⟩
  all_goals rw [hme]
  · exact (hcsr n).trans (h.csr n)
  · exact hrest.trans h.rest
  · exact hpc.trans h.pc
  · exact hreplay.trans h.replay
  · exact (hregs n).trans (h.regs n)
theorem Drawn.rowWrite (h : Drawn s u) (p : BitVec 16) (d : RowCode) (g : Nat → W32) : Drawn s (u.rowWrite p d g) :=
  h.updMe (f := (·.mixRow d.toNat p (u.mergedRow p d g))) (fun _ => rfl) rfl rfl rfl (by simp)
theorem Drawn.setMask (h : Drawn s u) (m : MaskCode) (v : BitVec 16) : Drawn s (u.setMask m v) :=
  h.updMe (f := (·.setMask m v)) (by simp) (by simp) (by simp) (by simp) (by simp)
theorem Drawn.hpm (h : Drawn s u) (code n : Nat) : Drawn s (u.hpm s.cur.core code n) := by
  have hme : (u.hpm s.cur.core code n).me = u.me := State.me_hpm ..
  exact ⟨hme ▸ h.mine.hpm code n, fun n => hme ▸ h.csr n, hme ▸ h.rest, hme ▸ h.pc, hme ▸ h.replay, fun n => hme ▸ h.regs n⟩
/-- The thread goes on with the rows and masks that it has then. -/
theorem Drawn.wroteRows (h : Drawn s u) {g : RowCode → Nat → W32} {k : MaskCode} {v : Nat → Bool}
    (hrow : ∀ r i, i < 16 → (u.row r).lane i = g r i)
    (hmask : ∀ m i, i < 16 → (u.mask m).getLsbD i = if m = k ∧ k ≠ 0 then v i else (s.mask m).getLsbD i) : WroteRows s u.advance g k v := by
  have hm := (h.mine.accrue 0).advance
  rw [h.csr] at hm
  have hme : u.advance.me = (u.me.raised 0).retire.stepPc := hm.2.2.2.2.2.2
  refine ⟨hm.aside, hm.retired h.csr h.rest, hm.behind (by simpa using h.pc) (by simpa using h.replay), fun n => ?_, fun r i hi => ?_,
    fun m i hi => ?_⟩
  · rw [hme]
    simpa using h.regs n
  · rw [← hrow r i hi, State.row, hme]
    exact congrArg (Row.lane · i) (Thread.row_congr (by simp) _)
  · rw [← hmask m i hi, State.mask, hme]
    exact congrArg (BitVec.getLsbD · i) (Thread.mask_congr (by simp) _)
end

theorem State.row_rowWrite (s : State) (p : BitVec 16) (d r : RowCode) (g : Nat → W32) :
    (s.rowWrite p d g).row r = if r = d then s.mergedRow p d g else s.row r := by
  rw [← State.row_mixRow s d r p, State.rowWrite_eq, State.row, State.me_updMe]
/-- A lane after a row is written under given bits. -/
theorem State.lane_rowWrite (s : State) (p : BitVec 16) (d r : RowCode) (g : Nat → W32) {i : Nat} (hi : i < 16) :
    ((s.rowWrite p d g).row r).lane i = if r = d ∧ p.getLsbD i = true then g i else (s.row r).lane i := by
  rw [State.row_rowWrite]
  by_cases hr : r = d
  · subst hr
    rw [if_pos rfl, s.lane_mergedRow p r g hi]
    simp only [true_and]
  · rw [if_neg hr, if_neg fun h => hr h.1]
theorem State.mask_rowWrite (s : State) (p : BitVec 16) (d : RowCode) (g : Nat → W32) (m : MaskCode) :
    (s.rowWrite p d g).mask m = s.mask m := by
  rw [State.rowWrite_eq, State.mask, State.me_updMe]
  rfl
theorem State.row_setMask (s : State) (m : MaskCode) (v : BitVec 16) (r : RowCode) : (s.setMask m v).row r = s.row r := by
  rw [State.setMask, State.row, State.me_updMe]
  exact Thread.row_congr (by simp) _
theorem State.mask_setMask (s : State) (m k : MaskCode) (v : BitVec 16) : (s.setMask m v).mask k = if k = m ∧ m ≠ 0 then v else s.mask k := by
  rw [State.setMask, State.mask, State.me_updMe, Thread.mask_setMask]
  rfl
theorem State.row_hpm (s : State) (c code n : Nat) (r : RowCode) : (s.hpm c code n).row r = s.row r := by
  rw [State.row, State.me_hpm]
  rfl
theorem State.mask_hpm (s : State) (c code n : Nat) (m : MaskCode) : (s.hpm c code n).mask m = s.mask m := by
  rw [State.mask, State.me_hpm]
  rfl

/-- A row written under given bits, a mask, and an event counted. -/
theorem rowAndMask_wrote (s : State) (p : BitVec 16) (d : RowCode) (f : Nat → W32) (m : MaskCode) (q : BitVec 16) (h : Nat → Bool) (code : Nat)
    {g : RowCode → Nat → W32} {v : Nat → Bool} (hrow : ∀ r i, i < 16 → (if r = d ∧ p.getLsbD i = true then f i else (s.row r).lane i) = g r i)
    (hmask : ∀ i, i < 16 → (q.getLsbD i && h i) = v i) :
    WroteRows s (((s.rowWrite p d f).setMask m (maskOf q h)).hpm s.cur.core code 1).advance g m v := by
  refine ((((Drawn.refl s).rowWrite p d f).setMask m (maskOf q h)).hpm code 1).wroteRows (fun r i hi => ?_) fun k i hi => ?_
  · rw [State.row_hpm, State.row_setMask, State.lane_rowWrite _ _ _ _ _ hi, hrow r i hi]
  · rw [State.mask_hpm, State.mask_setMask, State.mask_rowWrite]
    by_cases hk : k = m ∧ m ≠ 0
    · rw [if_pos hk, if_pos hk, getLsbD_maskOf _ _ hi, hmask i hi]
    · rw [if_neg hk, if_neg hk]
theorem getLsbD_all16 {i : Nat} (hi : i < 16) : (0xFFFF : BitVec 16).getLsbD i = true := by
  interval_cases i <;> rfl

/-! TEXL (R294-R296). -/

section
variable {s : State}
/-- Accesses that are all allowed are made in turn, and the helper goes on with their places. -/
theorem texAccess_all {k : Access} {l : List Nat} {a : Nat → Word} {q : Nat → Place} (f : State → Word → Place → State)
    (go : List (Word × Place) → State → State) (h : ∀ i ∈ l, s.check s.cur (a i) 4 4 k = .ok (q i)) :
    s.texAccess k (l.map a) f go = go (l.map fun i => (a i, q i)) (l.foldl (fun z i => f z (a i) (q i)) s) := by
  have hcs : (l.map a).map (fun x => (x, s.check s.cur x 4 4 k)) = l.map fun i => (a i, Checked.ok (q i)) := by
    rw [List.map_map]
    exact List.map_congr_left fun i hi => congrArg (Prod.mk (a i)) (h i hi)
  have hstop : firstStop (l.map fun i => (a i, Checked.ok (q i))) = none := List.find?_eq_none.mpr fun c hc => by
    obtain ⟨i, -, rfl⟩ := List.mem_map.mp hc
    exact Bool.false_ne_true
  have hplaces : okPlaces (l.map fun i => (a i, Checked.ok (q i))) = l.map fun i => (a i, q i) := by
    rw [okPlaces, List.filterMap_map]
    exact congrFun List.filterMap_eq_map _
  unfold State.texAccess
  dsimp only
  rw [hcs, hstop, hplaces]
  dsimp only
  rw [List.foldl_map]
/-- Loads that meet no uncorrectable word leave the state, and give the bytes at each lane's place. -/
theorem texLoads_good {l : List Nat} {a : Nat → Word} {q : Nat → Place}
    (h : ∀ i ∈ l, s.meetsBad s.cur.core (q i) 4 = false ∧ ∀ e x, q i ≠ .remote e x) (t : Tbl Nat) :
    ∃ t' : Tbl Nat, (l.map fun i => (i, a i, q i)).foldl (fun (acc : Tbl Nat × State) (q : Nat × Word × Place) =>
        (acc.1.set q.1 (leNat (acc.2.loadChecked acc.2.cur q.2.1 q.2.2 4).1), (acc.2.loadChecked acc.2.cur q.2.1 q.2.2 4).2)) (t, s) = (t', s)
      ∧ ∀ i, t'.get 0 i = if i ∈ l then leNat (s.loadBytes s.cur.core (q i) 4) else t.get 0 i := by
  induction l generalizing t with
  | nil => exact ⟨t, rfl, fun i => by simp⟩
  | cons j l ih =>
    obtain ⟨hb, hr⟩ := h j List.mem_cons_self
    obtain ⟨t', hfold, hget⟩ := ih (fun i hi => h i (List.mem_cons_of_mem _ hi)) (t.set j (leNat (s.loadBytes s.cur.core (q j) 4)))
    refine ⟨t', ?_, fun i => ?_⟩
    · rw [List.map_cons, List.foldl_cons, loadChecked_good hb hr]
      exact hfold
    · rw [hget, Tbl.get_set]
      by_cases hi : i ∈ l
      · rw [if_pos hi, if_pos (List.mem_cons_of_mem _ hi)]
      · by_cases hj : i = j
        · rw [if_neg hi, if_pos hj, if_pos (hj ▸ List.mem_cons_self), hj]
        · rw [if_neg hi, if_neg hj, if_neg fun hm => (List.mem_cons.mp hm).elim hj hi]
end

/-- The lanes that access a map: the active ones, where there is a map. -/
def mapLanes (base : Word) (p : BitVec 16) : List Nat := if base = 0 then [] else active p
theorem mapLanes_map (base : Word) (p : BitVec 16) (f : Nat → Word) : (if base = 0 then [] else (active p).map f) = (mapLanes base p).map f := by
  unfold mapLanes
  split <;> rfl

section
variable {m : MaskCode} {d a b : RowCode} {s : State} {bs : List Byte} (hb : ReadsLocal s (s.me.csr 0x0C0) 32 32 bs)
include hb

theorem exec_texl_malformed (h : TexDesc.parse bs = none) : exec (.texl m d a b) s = .next
    ((s.rowWrite (s.mask m) d (fun _ => 0xFFFFFFFF)).rowWrite (s.mask m) (d + 1) (fun _ => 0xFFFFFFFF)).advance := by
  change execTexl m d a b s = _
  unfold execTexl
  dsimp only
  rw [localBlock_readsLocal false _ (by decide) (by decide) hb, h]

variable {x : TexDesc} (h : TexDesc.parse bs = some x)
/-- The entry of a map for lane `i`. -/
def State.mapAddr (s : State) (x : TexDesc) (a b : RowCode) (base : Word) (i : Nat) : Word :=
  base + BitVec.ofNat 64 (4 * x.region ((s.row a).lane i) ((s.row b).lane i))
include h
/-- With its accesses allowed, TEXL reads the minimum levels in the state `u`, which an acquire has left where there are any, puts the level wanted to
the feedback map, and writes two rows. -/
theorem exec_texl {u : State} {q r : Nat → Place} (hu : u = if ((mapLanes x.minmap (s.mask m)).map (s.mapAddr x a b x.minmap)).isEmpty then s
      else s.acquire .device)
    (hq : ∀ i ∈ mapLanes x.minmap (s.mask m), Loads u (s.mapAddr x a b x.minmap i) 4 (q i))
    (hr : ∀ i ∈ mapLanes x.feedback (s.mask m), u.check u.cur (s.mapAddr x a b x.feedback i) 4 4 .atomic = .ok (r i)) :
    let want := min (bits (s.me.csr 0x0C1) 3 0) (x.levels - 1)
    let v := (mapLanes x.feedback (s.mask m)).foldl
      (fun z i => (z.atomicAt (s.mapAddr x a b x.feedback i) (r i) 6 .w (BitVec.ofNat 64 want) 0 .device .relaxed).2) u
    ∃ t : Tbl Nat, (∀ i, t.get 0 i = if i ∈ mapLanes x.minmap (s.mask m) then leNat (u.loadBytes u.cur.core (q i) 4) else 0)
      ∧ let tx := fun i => x.texel ((s.row a).lane i) ((s.row b).lane i)
          (if (s.mask m).getLsbD i then max want (min (t.get 0 i) (x.levels - 1)) else 0)
        exec (.texl m d a b) s = .next ((v.rowWrite (s.mask m) d (fun i => BitVec.ofNat 32 (tx i).1)).rowWrite (s.mask m) (d + 1)
          (fun i => BitVec.ofNat 32 (tx i).2)).advance := by
  obtain ⟨t, hfold, hget⟩ := texLoads_good (a := s.mapAddr x a b x.minmap) (fun i hi => (hq i hi).2) []
  refine ⟨t, hget, ?_⟩
  have hzip : (active (s.mask m)).zip ((mapLanes x.minmap (s.mask m)).map fun i => (s.mapAddr x a b x.minmap i, q i))
      = (mapLanes x.minmap (s.mask m)).map fun i => (i, s.mapAddr x a b x.minmap i, q i) := by
    unfold mapLanes
    split
    · exact List.zip_nil_right
    · simpa using List.zip_map' (f := id) (g := fun i => (s.mapAddr x a b x.minmap i, q i)) (l := active (s.mask m))
  change execTexl m d a b s = _
  unfold execTexl
  dsimp only
  rw [localBlock_readsLocal false _ (by decide) (by decide) hb, h]
  dsimp only
  rw [mapLanes_map x.minmap, mapLanes_map x.feedback]
  change Host.Outcome.next (State.texAccess (if ((mapLanes x.minmap (s.mask m)).map (s.mapAddr x a b x.minmap)).isEmpty then s
    else s.acquire .device) .read ((mapLanes x.minmap (s.mask m)).map (s.mapAddr x a b x.minmap)) _ _) = _
  rw [← hu, texAccess_all _ _ fun i hi => (hq i hi).1, foldl_keeps (P := fun z => z = u) (fun _ _ _ h => h) u rfl, hzip, hfold]
  exact congrArg Host.Outcome.next (texAccess_all _ _ hr)
end

/-! The rows of the thread that runs stay while its atomics are performed. -/

/-- The same thread runs, with the same rows. -/
def RowsKept (s t : State) : Prop := t.cur = s.cur ∧ t.me.rows = s.me.rows
section
variable {s t u : State}
theorem RowsKept.trans (h : RowsKept s t) (g : RowsKept t u) : RowsKept s u := ⟨g.1.trans h.1, g.2.trans h.2⟩
theorem RowsKept.row (h : RowsKept s t) (r : RowCode) : t.row r = s.row r := Thread.row_congr h.2 _
theorem CoresKept.rowsKept (h : CoresKept s t) : RowsKept s t := ⟨h.cur, congrArg Thread.rows h.me⟩
theorem rowsKept_postEvent (s : State) (x kind ident : Nat) (d1 d2 : Word) : RowsKept s (s.postEvent x kind ident d1 d2) := by
  have hcur := cur_postEvent s x kind ident d1 d2
  refine ⟨hcur, ?_⟩
  rw [State.me, hcur]
  rcases latchedFrom_postEvent s x kind ident d1 d2 s.cur with h | h
  · exact (congrArg Thread.rows h :)
  · exact (congrArg Thread.rows h :)
theorem rowsKept_reportError (s : State) (i : ThreadId) (ea : Word) (p : Place) (ws : List Nat) : RowsKept s (s.reportError i ea p ws) := by
  unfold State.reportError
  cases p with
  | hbm a =>
    have hwords (u : State) : CoresKept u (u.countWords ws) := .foldl (f := fun u w => u.hbmError (8 * w)) (fun _ _ => ⟨rfl, fun _ => rfl⟩) u ws
    exact (rowsKept_postEvent ..).trans (hwords _).rowsKept
  | loc o => exact rowsKept_postEvent ..
  | weight a => exact rowsKept_postEvent ..
  | remote e x => exact rowsKept_postEvent ..
theorem rowsKept_rmwRead (s : State) (i : ThreadId) (ea : Word) (p : Place) (n : Nat) : RowsKept s (s.rmwRead i ea p n).2 := by
  unfold State.rmwRead
  split
  · exact rowsKept_reportError ..
  · exact ⟨rfl, rfl⟩
theorem rowsKept_atomicWrite (s : State) (p : Place) (bs : List Byte) (sc : Scope) (o : AOrd) : RowsKept s (s.atomicWrite p bs sc o) := by
  unfold State.atomicWrite
  split
  · exact (coresKept_writeAt s _ p bs).rowsKept
  · have hserial : RowsKept s (s.updMyCore fun k => { k with serial := s.myCore.serial + 1 }) := by
      refine ⟨rfl, ?_⟩
      rw [State.me, State.thread, State.updMyCore_cur, State.updMyCore, State.core_updCore, if_pos rfl]
      rfl
    exact hserial.trans (coresKept_performPlain ..).rowsKept
theorem rowsKept_atomicAt (s : State) (ea : Word) (p : Place) (fn : BitVec 4) (sz : WSize) (x y : Word) (sc : Scope) (o : AOrd) :
    RowsKept s (s.atomicAt ea p fn sz x y sc o).2 := by
  have hbefore : RowsKept s (((if ordAcquires o then s.acquire sc else s).atomicDrain p (wsizeBytes sz) sc o).dirty ea) := by
    refine RowsKept.trans ?_ ((coresKept_atomicDrain _ _ _ _ _).trans (coresKept_dirty _ _)).rowsKept
    split
    · exact (coresKept_acquire s sc).rowsKept
    · exact ⟨rfl, rfl⟩
  refine hbefore.trans ?_
  cases p with
  | remote e x => exact ⟨rfl, rfl⟩
  | loc o => exact (rowsKept_rmwRead ..).trans (rowsKept_atomicWrite ..)
  | hbm a => exact (rowsKept_rmwRead ..).trans (rowsKept_atomicWrite ..)
  | weight a => exact (rowsKept_rmwRead ..).trans (rowsKept_atomicWrite ..)
end

/-- The atomics of the feedback map leave the rows. -/
theorem rowsKept_feedback {s u : State} (l : List Nat) (a : Nat → Word) (r : Nat → Place) (w : Word) (h : RowsKept s u) :
    RowsKept s (l.foldl (fun z i => (z.atomicAt (a i) (r i) 6 .w w 0 .device .relaxed).2) u) :=
  foldl_keeps (P := RowsKept s) (fun _ _ _ hz => hz.trans (rowsKept_atomicAt ..)) u h

/-- Two rows written under a mask. -/
theorem twoRows_wrote (v : State) (p : BitVec 16) (d : RowCode) (f g : Nat → W32) {w : RowCode → Nat → W32}
    (hw : ∀ r i, i < 16 → w r i = if r = d + 1 ∧ p.getLsbD i = true then g i else if r = d ∧ p.getLsbD i = true then f i else (v.row r).lane i) :
    WroteRows v ((v.rowWrite p d f).rowWrite p (d + 1) g).advance w 0 (fun _ => true) := by
  refine (((Drawn.refl v).rowWrite p d f).rowWrite p (d + 1) g).wroteRows (fun r i hi => ?_) fun m i hi => ?_
  · rw [State.lane_rowWrite _ _ _ _ _ hi, State.lane_rowWrite _ _ _ _ _ hi, hw r i hi]
  · rw [State.mask_rowWrite, State.mask_rowWrite, if_neg fun h => h.2 rfl]

/-- The state in which TEXL reads the minimum levels: an acquire at device scope, where there are any, comes first. -/
def State.texRead (s : State) (x : TexDesc) (p : BitVec 16) : State := if x.minmap = 0 ∨ active p = [] then s else s.acquire .device
theorem texRead_eq (s : State) (x : TexDesc) (p : BitVec 16) (f : Nat → Word) :
    s.texRead x p = if ((mapLanes x.minmap p).map f).isEmpty then s else s.acquire .device := by
  unfold State.texRead mapLanes
  by_cases hm : x.minmap = 0
  · rw [if_pos (Or.inl hm), if_pos hm]
    rfl
  · rw [if_neg hm]
    cases hact : active p with
    | nil =>
      rw [if_pos (Or.inr rfl)]
      rfl
    | cons i l => exact if_neg fun h => h.elim hm nofun
theorem rowsKept_texRead (s : State) (x : TexDesc) (p : BitVec 16) : RowsKept s (s.texRead x p) := by
  unfold State.texRead
  split
  · exact ⟨rfl, rfl⟩
  · exact (coresKept_acquire s .device).rowsKept
theorem mem_mapLanes {base : Word} {p : BitVec 16} {i : Nat} : i ∈ mapLanes base p ↔ base ≠ 0 ∧ i ∈ active p := by
  unfold mapLanes
  split
  · next h => exact iff_of_false nofun fun hm => hm.1 h
  · next h => exact (and_iff_right h).symm
theorem foldl_mapLanes (base : Word) (p : BitVec 16) (f : State → Nat → State) (u : State) :
    (mapLanes base p).foldl f u = if base = 0 then u else (active p).foldl f u := by
  unfold mapLanes
  split <;> rfl

/-- Settles O38: each helper writes its rows and mask at once; TEXL's accesses are all allowed, so that it makes them in turn. -/
theorem sceneForms : Obligations.SceneForms := by
  unfold Obligations.SceneForms
  refine ⟨fun m d a b s => ⟨⟨_, rfl, ?boxt⟩, ⟨_, rfl, ?trit⟩, ⟨_, rfl, State.rowWrite_wrote ..⟩, ⟨_, rfl, ?edge⟩, ⟨_, rfl, State.rowInt_wrote ..⟩⟩,
    fun m d a b s bs hb => ⟨fun h => ⟨_, exec_texl_malformed hb h, twoRows_wrote _ _ _ _ _ fun _ _ _ => rfl⟩, fun x q r h hq hr => ?texl⟩⟩
  case boxt =>
    refine rowAndMask_wrote s 0xFFFF d _ m 0xFFFF _ 0x11 (fun r i hi => ?_) fun i hi => ?_
    · simp only [getD_map_lanes _ _ hi, getLsbD_all16 hi, and_true, inf32]
    · simp only [getD_map_lanes _ _ hi, getLsbD_all16 hi, Bool.true_and]
  case trit =>
    refine rowAndMask_wrote s _ d _ m 0x000F _ 0x12 (fun r i hi => ?_) fun i hi => ?_
    · have hmod (h4 : i < 4) : i % 4 = i := Nat.mod_eq_of_lt h4
      simp only [getD_map_range _ _ (Nat.mod_lt i (show 0 < 4 by decide)), getLsbD_maskOf _ _ hi, getLsbD_all16 hi, Bool.true_and, inf32]
      split
      · split
        · next h4 => rw [hmod h4]
        · rfl
      · rfl
    · by_cases h4 : i < 4
      · have hbit : (0x000F : BitVec 16).getLsbD i = true := by interval_cases i <;> rfl
        simp only [getD_map_range _ _ h4, hbit, decide_eq_true h4, Bool.true_and]
      · have hbit : (0x000F : BitVec 16).getLsbD i = false := by
          rw [show (0x000F : BitVec 16) = (BitVec.allOnes 4).setWidth 16 from rfl, BitVec.getLsbD_setWidth, BitVec.getLsbD_allOnes,
            decide_eq_false h4, Bool.and_false]
        simp only [hbit, decide_eq_false h4, Bool.false_and]
  case edge =>
    refine (((Drawn.refl s).rowWrite (s.mask m) d _).setMask m _).wroteRows (fun r i hi => ?_) fun k i hi => ?_
    · rw [State.row_setMask, State.lane_rowWrite _ _ _ _ _ hi]
      rfl
    · rw [State.mask_setMask, State.mask_rowWrite]
      by_cases hk : k = m ∧ m ≠ 0
      · rw [if_pos hk, if_pos hk, getLsbD_maskOf _ _ hi]
      · rw [if_neg hk, if_neg hk]
  case texl =>
    obtain ⟨hcur, -⟩ := rowsKept_texRead s x (s.mask m)
    obtain ⟨t, hget, hexec⟩ := exec_texl (m := m) (d := d) (a := a) (b := b) (q := q) (r := r) hb h (texRead_eq s x (s.mask m) _)
      (fun i hi => hq (mem_mapLanes.mp hi).1 i (mem_mapLanes.mp hi).2)
      (fun i hi => hcur ▸ hr (mem_mapLanes.mp hi).1 i (mem_mapLanes.mp hi).2)
    refine ⟨_, hexec, ?_⟩
    rw [foldl_mapLanes]
    refine twoRows_wrote _ _ _ _ _ fun k i hi => ?_
    have hv := rowsKept_feedback (s := s) (mapLanes x.feedback (s.mask m)) (s.mapAddr x a b x.feedback) r
      (BitVec.ofNat 64 (min (bits (s.me.csr 0x0C1) 3 0) (x.levels - 1))) (rowsKept_texRead s x (s.mask m))
    rw [foldl_mapLanes] at hv
    have hrow := congrArg (Row.lane · i) (hv.row k).symm
    have hlevel (hact : i ∈ active (s.mask m)) : (if x.minmap = 0 then 0
        else min (leValue ((s.texRead x (s.mask m)).loadBytes s.cur.core (q i) 4)) (x.levels - 1)) = min (t.get 0 i) (x.levels - 1) := by
      rw [hget, hcur]
      by_cases hm : x.minmap = 0
      · rw [if_pos hm, if_neg fun h => (mem_mapLanes.mp h).1 hm, Nat.zero_min]
      · rw [if_neg hm, if_pos (mem_mapLanes.mpr ⟨hm, hact⟩), leNat_eq_leValue]
    dsimp only
    cases hbit : (s.mask m).getLsbD i with
    | false =>
      simp only [Bool.false_eq_true, and_false, if_false]
      exact hrow
    | true =>
      simp only [and_true, if_true]
      rw [← hlevel (mem_activeLanes.mpr ⟨hi, hbit⟩)]
      by_cases hnext : k = d + 1
      · rw [if_pos hnext, if_pos hnext]
        rfl
      · by_cases hd : k = d
        · rw [if_neg hnext, if_neg hnext, if_pos hd, if_pos hd]
          rfl
        · rw [if_neg hnext, if_neg hnext, if_neg hd, if_neg hd]
          exact hrow

end Sys2Proof.Machine
end

section
/-! SUPPORT. Times of answers that compare equal, and the composite of no entry, of one, and of a merged pair (R270, R275, R276). -/

namespace Sys2Proof.Machine

open Sys2Proof Sys2Proof.Safety

/-! Equal times (R26, R270). -/

theorem f32Nan_of_f32Eq {x y : W32} (h : f32Eq x y = true) : f32Nan x = false ∧ f32Nan y = false := by
  by_contra hn
  have hnan : f32Nan x = true ∨ f32Nan y = true := by
    rwa [not_and_or, Bool.not_eq_false, Bool.not_eq_false] at hn
  have heq := (fcond_of_nan hnan .eq).1
  exact Bool.false_ne_true (heq.symm.trans h)
theorem f32Eq_iff {x y : W32} (hx : f32Nan x = false) (hy : f32Nan y = false) : f32Eq x y = true ↔ cmpVal (unpack32 x) (unpack32 y) = .eq := by
  rw [f32Eq, fcond_of_numbers hx hy]
  exact beq_iff_eq
theorem f32Eq_self {x : W32} (h : f32Nan x = false) : f32Eq x x = true := (f32Eq_iff h h).mpr (cmpVal_self _)
theorem f32Eq_comm {x y : W32} (h : f32Eq x y = true) : f32Eq y x = true := by
  obtain ⟨hx, hy⟩ := f32Nan_of_f32Eq h
  rw [f32Eq_iff hy hx, cmpVal_swap, (f32Eq_iff hx hy).mp h]
  rfl
/-- A time's place in the order is its magnitude with its sign. -/
theorem timeKey_eq (x : W32) : timeKey x = if x.msb then -((x.toNat % 2 ^ 31 : ℕ) : Int) else ((x.toNat % 2 ^ 31 : ℕ) : Int) := by
  have hlow : (x &&& 0x7FFFFFFF).toNat = x.toNat % 2 ^ 31 := by
    rw [BitVec.toNat_and]
    exact Nat.and_two_pow_sub_one_eq_mod x.toNat 31
  have hmsb : x.getLsbD 31 = x.msb := rfl
  unfold timeKey
  rw [hlow, hmsb]
  cases h : x.msb with
  | true => rfl
  | false =>
    have hlt : x.toNat < 2 ^ 31 := by simpa [BitVec.msb_eq_decide] using h
    rw [Nat.mod_eq_of_lt hlt]
/-- Signed magnitudes of one value are one. -/
theorem signed_mag_eq {a b : Bool} {m n : Nat} (h : (signOf a : ℝ) * magValue m = signOf b * magValue n) :
    (if a then -(m : Int) else m) = if b then -(n : Int) else n := by
  have hm := magValue_nonneg m
  have hn := magValue_nonneg n
  have hzero {k : Nat} (hk : magValue k = 0) : k = 0 := magValue_strictMono.injective (hk.trans magValue_zero.symm)
  have hsame (he : magValue m = magValue n) : m = n := magValue_strictMono.injective he
  cases a <;> cases b <;> simp only [signOf, Bool.false_eq_true, if_false, if_true, Rat.cast_one, Rat.cast_neg, one_mul, neg_mul] at h ⊢
  · exact congrArg Nat.cast (hsame (by simpa using h))
  · rw [hzero (k := m) (by linarith), hzero (k := n) (by linarith)]
    rfl
  · rw [hzero (k := m) (by linarith), hzero (k := n) (by linarith)]
    rfl
  · rw [hsame (by linarith)]
theorem mag_lt_of_number {x : W32} (h : f32Number x) : x.toNat % 2 ^ 31 < infMag := by
  unfold f32Number at h
  unfold infMag
  omega
theorem f32Value_signed {x : W32} (h : f32Number x) : (f32Value x : ℝ) = signOf x.msb * magValue (x.toNat % 2 ^ 31) := by
  have hx := f32Value_f32Of x.msb (mag_lt_of_number h)
  rwa [← eq_f32Of] at hx
/-- An encoding that is neither a number nor a NaN is an infinity. -/
theorem unpack32_inf {x : W32} (h : ¬ f32Number x) (hn : f32Nan x = false) : unpack32 x = .inf x.msb ∧ x.toNat % 2 ^ 31 = infMag := by
  have he : x.toNat / 2 ^ 23 % 256 = 255 := not_not.mp h
  have hm : x.toNat % 2 ^ 23 = 0 := by
    by_contra hm
    rw [f32Nan, unpack32_eq, if_pos he, if_neg hm] at hn
    exact nomatch hn
  refine ⟨by rw [unpack32_eq, if_pos he, if_pos hm], ?_⟩
  unfold infMag
  omega
/-- Numbers that compare equal have one value. -/
theorem f32Value_of_cmp {x y : W32} (hx : f32Number x) (hy : f32Number y) (h : cmpVal (unpack32 x) (unpack32 y) = .eq) :
    f32Value x = f32Value y := by
  obtain ⟨m, e, hux, -, hvx, -⟩ := unpack32_number hx
  obtain ⟨n, k, huy, -, hvy, -⟩ := unpack32_number hy
  rw [hux, huy, cmpVal_fin, compare_eq_iff_eq, ← Dy.val_eq_zero_iff, Dy.sub, Dy.val_add] at h
  rw [hvx, hvy]
  have hneg : (Dy.ofParts y.msb n k).neg.val = -(Dy.ofParts y.msb n k).val := by
    simp [Dy.val, Dy.neg]
  rw [hneg] at h
  linarith
theorem timeKey_of_f32Eq {x y : W32} (h : f32Eq x y = true) : timeKey x = timeKey y := by
  obtain ⟨hnx, hny⟩ := f32Nan_of_f32Eq h
  have hcmp := (f32Eq_iff hnx hny).mp h
  rw [timeKey_eq, timeKey_eq]
  by_cases hx : f32Number x
  · by_cases hy : f32Number y
    · refine signed_mag_eq ?_
      rw [← f32Value_signed hx, ← f32Value_signed hy, f32Value_of_cmp hx hy hcmp]
    · obtain ⟨m, e, hux, -⟩ := unpack32_number hx
      obtain ⟨huy, -⟩ := unpack32_inf hy hny
      rw [hux, huy] at hcmp
      cases hb : y.msb <;> exact nomatch hb ▸ hcmp
  · obtain ⟨hux, hmx⟩ := unpack32_inf hx hnx
    by_cases hy : f32Number y
    · obtain ⟨n, k, huy, -⟩ := unpack32_number hy
      rw [hux, huy] at hcmp
      cases hb : x.msb <;> exact nomatch hb ▸ hcmp
    · obtain ⟨huy, hmy⟩ := unpack32_inf hy hny
      rw [hux, huy] at hcmp
      have hsign : x.msb = y.msb := by
        by_contra hne
        rw [cmpVal, if_neg hne] at hcmp
        cases hb : x.msb <;> exact nomatch hb ▸ hcmp
      rw [hmx, hmy, hsign]

/-! The composite (R276). -/

theorem composite_nil : composite [] = ⟨[0, 0, 0], one32, false⟩ := rfl
/-- The one position of a point answer. -/
theorem timePoints_point {e : Answer} (h : f32Eq e.tin e.tout = true) : timePoints [e] = [e.tin] := by
  simp [timePoints, timeKey_of_f32Eq h]
theorem kindsMix_single (e : Answer) : kindsMix [e] = false := rfl
theorem composite_point {e : Answer} (h : f32Eq e.tin e.tout = true) : composite [e] =
    ⟨[rnAdd 0 (rnMul one32 (e.rad 0)), rnAdd 0 (rnMul one32 (e.rad 1)), rnAdd 0 (rnMul one32 (e.rad 2))],
      rnMul one32 (exp2RN (f32Neg e.tau)), false⟩ := by
  have hself : f32Eq e.tin e.tin = true := f32Eq_self (f32Nan_of_f32Eq h).1
  have hfilter : [e].filter (fun x => f32Eq x.tin e.tin && f32Eq x.tout e.tin) = [e] :=
    List.filter_cons_of_pos (by rw [hself, f32Eq_comm h]; rfl)
  rw [composite, timePoints_point h, compWalk, Comp.points]
  dsimp only
  rw [hfilter, kindsMix_single]
  rfl
theorem merge_kind (a b : Answer) : (a.merge b).fk.toNat % 16 = 14 := by
  change (((a.fk ||| b.fk) &&& 0xFFF0) ||| 14 : W32).toNat % 2 ^ 4 = 14
  rw [BitVec.toNat_or, BitVec.toNat_and, Nat.or_mod_two_pow, Nat.and_mod_two_pow]
  exact congrArg (· ||| 14) (Nat.and_zero _)

end Sys2Proof.Machine
end

section
/-! SUPPORT. The IL instructions accepted, and ILSEND (R277-R279). -/

namespace Sys2Proof.Machine

open Sys2Proof Sys2Proof.Safety

theorem badRay_eq_false {v : Word} (h : bits v 63 6 = 0) : ¬ badRay v = true := by simp [badRay, h]
theorem ilFull_eq_false {k : Core} (h : k.ilQ.length < 3) : ¬ k.ilFull = true := by simpa [Core.ilFull] using h
/-- The eight words of a block. -/
def ilWords (bs : List Byte) : List W32 := (List.range 8).map fun i => BitVec.ofNat 32 (leNat ((bs.drop (4 * i)).take 4))
theorem ilWords_eq (bs : List Byte) : ilWords bs = (List.range 8).map fun i => BitVec.ofNat 32 (leValue ((bs.drop (4 * i)).take 4)) := by
  simp only [ilWords, leNat_eq_leValue]
theorem ilBlock_reads {s : State} {b : Word} {bs : List Byte} (go : State → List W32 → State) (h : ReadsLocal s b 32 32 bs) :
    s.ilBlock b go = go s (ilWords bs) := by
  unfold State.ilBlock
  rw [if_neg (not_not.mpr h.2.2.1), localBlock_readsLocal true _ (by decide) (by decide) h]
  rfl

/-- An accepted operation, with what it will write awaited. -/
def State.ilAwaited (s : State) (k : IlKind) (d : Reg) (n : Nat) (l : List W32) (row : Option Nat) (pair : Nat) : State :=
  (s.ilAccept k d n l (row.getD 0) pair false).updMe (fun x =>
    { x with pend := x.pend ++ ((if d = 0 then [] else [Pend.reg (s.me.regId d)]) ++ (row.map Pend.row).toList) })
theorem me_ilAccept (s : State) (k : IlKind) (d : Reg) (n : Nat) (l : List W32) (row pair : Nat) (w : Bool) :
    (s.ilAccept k d n l row pair w).me = s.me := by
  unfold State.ilAccept
  dsimp only
  rw [State.me, State.updMyCore_cur, State.thread, State.updMyCore, State.core_updCore, if_pos rfl]
  exact me_release s
theorem ilGo_eq (s : State) (k : IlKind) (d : Reg) (n : Nat) (l : List W32) (row : Option Nat) (pair : Nat) :
    s.ilGo k d n l row pair = (s.ilAwaited k d n l row pair).advance := by
  unfold State.ilGo State.ilAwaited
  dsimp only
  rw [me_ilAccept]

section
variable {d a b : Reg} {s : State} (ha : bits (s.reg a) 63 6 = 0) (hq : s.myCore.ilQ.length < 3)
include ha hq

theorem exec_ilcut : exec (.ilcut d a) s = .next (s.ilGo .cut d (bits (s.reg a) 5 0) [] none 0) :=
  congrArg Host.Outcome.next ((if_neg (badRay_eq_false ha)).trans (if_neg (ilFull_eq_false hq)))
theorem exec_ilstat : exec (.ilstat d a) s = .next (s.ilGo .stat d (bits (s.reg a) 5 0) [] none 0) :=
  congrArg Host.Outcome.next ((if_neg (badRay_eq_false ha)).trans (if_neg (ilFull_eq_false hq)))
theorem exec_ilcomp (hb : bits (s.reg b) 63 7 = 0) :
    exec (.ilcomp d a b) s = .next (s.ilGo .comp d (bits (s.reg a) 5 0) [] (some (s.reg b).toNat) 0) := by
  have hrow : bits (s.reg b) 6 0 = (s.reg b).toNat := by
    unfold bits at hb ⊢
    omega
  rw [← hrow]
  exact congrArg Host.Outcome.next ((if_neg (badRay_eq_false ha)).trans ((if_neg (not_not.mpr hb)).trans (if_neg (ilFull_eq_false hq))))
theorem exec_ilread (hb : bits (s.reg b) 63 10 = 0) :
    exec (.ilread d a b) s = .next (s.ilGo .read d (bits (s.reg a) 5 0) [] (some (bits (s.reg b) 6 0)) (bits (s.reg b) 9 7)) :=
  congrArg Host.Outcome.next ((if_neg (not_or.mpr ⟨badRay_eq_false ha, not_not.mpr hb⟩)).trans (if_neg (ilFull_eq_false hq)))
theorem exec_ilclose (hf : Fresh s) (hm : s.myCore.mayBeMode (bits (s.reg a) 5 0) .spill 1 = false) :
    exec (.ilclose d a) s = .next (s.ilGo .close d (bits (s.reg a) 5 0) [] none 0) := by
  change execIlclose d a s = _
  unfold execIlclose Thread.waitOf
  dsimp only
  rw [show s.me.begun = none from hf, if_neg (badRay_eq_false ha), if_neg (ilFull_eq_false hq), show raySlot (s.reg a) = bits (s.reg a) 5 0 from rfl, hm,
    if_neg Bool.false_ne_true]
  rfl
theorem exec_ilopen {bs : List Byte} (hb : ReadsLocal s (s.reg b) 32 32 bs) :
    exec (.ilopen d a b) s = .next (s.ilGo .opn d (bits (s.reg a) 5 0) (ilWords bs) none 0) :=
  congrArg Host.Outcome.next ((if_neg (badRay_eq_false ha)).trans ((if_neg (ilFull_eq_false hq)).trans (ilBlock_reads _ hb)))
theorem exec_ilins {bs : List Byte} (hb : ReadsLocal s (s.reg b) 32 32 bs) (hf : Fresh s)
    (hm : s.myCore.mayBeMode (bits (s.reg a) 5 0) .trap 2 = false) :
    exec (.ilins d a b) s = .next (s.ilGo .ins d (bits (s.reg a) 5 0) (ilWords bs) none 0) := by
  change execIlins d a b s = _
  unfold execIlins Thread.waitOf
  dsimp only
  rw [show s.me.begun = none from hf, if_neg (badRay_eq_false ha), if_neg (ilFull_eq_false hq), ilBlock_reads _ hb,
    show raySlot (s.reg a) = bits (s.reg a) 5 0 from rfl, hm, if_neg Bool.false_ne_true]
  rfl
end

/-- ILSEND puts the answer on its way. -/
theorem exec_ilsend {d a b : Reg} {s : State} {bs : List Byte} (ha : bits (s.reg a) 63 22 = 0) (hb : ReadsLocal s (s.reg b) 32 32 bs)
    (hv : rankV (s.myCtx.rank (bits (s.reg a) 15 0)) = true)
    (ht : rankT (s.myCtx.rank (bits (s.reg a) 15 0)) = true → s.heldFor s.me.ctx (bits (s.reg a) 15 0) (dieOf s.cur.core) < 64) :
    exec (.ilsend d a b) s = .next ((s.release.postMsg (bits (s.reg a) 15 0) (s.myCtx.rank (bits (s.reg a) 15 0))
      (.answer (bits (s.reg a) 21 16) (Answer.ofLanes (ilWords bs)))).put d 0) := by
  refine congrArg Host.Outcome.next ((if_neg (not_not.mpr ha)).trans ((ilBlock_reads _ hb).trans ((if_neg (not_not.mpr hv)).trans (if_neg ?_))))
  rintro ⟨h, hfull⟩
  exact Nat.not_le.mpr (ht h) hfull

end Sys2Proof.Machine
end

section
/-! SUPPORT. What the ray slots' work leaves of a core, and a list operation's register, row and retirement (R272-R275, R284). -/

namespace Sys2Proof.Machine

open Sys2Proof Sys2Proof.Safety

/-! The work on a ray slot (R272, R275, R283). -/

/-- A core less its memory, store buffers, event counters, ray slots and serial number. -/
def rayless (k : Core) : Core := { byteless k with csrs := [], rays := [], serial := 0 }
/-- Of core `c` only its memory, store buffers, event counters, ray slots and serial number have changed; and no context has. -/
structure RayFrame (c : Nat) (s t : State) : Prop where
  core : rayless (t.core c) = rayless (s.core c)
  ctxs : t.ctxs = s.ctxs

section
variable {c n : Nat} {s t u : State}

theorem RayFrame.refl (c : Nat) (s : State) : RayFrame c s s := ⟨rfl, rfl⟩
theorem RayFrame.trans (h : RayFrame c s t) (g : RayFrame c t u) : RayFrame c s u := ⟨g.core.trans h.core, g.ctxs.trans h.ctxs⟩
theorem RayFrame.threads (h : RayFrame c s t) : (t.core c).threads = (s.core c).threads := (congrArg Core.threads h.core :)
theorem RayFrame.thread (h : RayFrame c s t) (i : Nat) : t.thread ⟨c, i⟩ = s.thread ⟨c, i⟩ := congrArg (Tbl.get · Thread.reset i) h.threads
theorem RayFrame.ilQ (h : RayFrame c s t) : (t.core c).ilQ = (s.core c).ilQ := (congrArg Core.ilQ h.core :)
theorem RayFrame.arrivals (h : RayFrame c s t) : (t.core c).arrivals = (s.core c).arrivals := (congrArg Core.arrivals h.core :)
theorem RayFrame.ranges (h : RayFrame c s t) : (t.core c).ranges = (s.core c).ranges := (congrArg Core.ranges h.core :)
theorem RayFrame.counter (h : RayFrame c s t) (k : Nat) : (t.core c).counter k = (s.core c).counter k :=
  (congrArg (fun k' : Core => k'.counters.get 0 k) h.core :)
theorem RayFrame.alive (h : RayFrame c s t) (o : IlOp) : t.ilAlive c o = s.ilAlive c o := by
  unfold State.ilAlive
  rw [show (t.core c).thread o.slot = (s.core c).thread o.slot from h.thread o.slot]

theorem ray_of_rest {k j : Core} (h : coreRest j = coreRest k) (n : Nat) : j.ray n = k.ray n :=
  (congrArg (fun k : Core => k.rays.get RaySlot.reset n) h :)
theorem CoresKept.rayFrame (h : CoresKept s t) (hx : t.ctxs = s.ctxs) (c : Nat) : RayFrame c s t :=
  ⟨(congrArg (fun k : Core => { k with csrs := [], rays := [], serial := 0 }) (h.core c) :), hx⟩
theorem CoresKept.ray (h : CoresKept s t) (c n : Nat) : (t.core c).ray n = (s.core c).ray n :=
  (congrArg (fun k : Core => k.rays.get RaySlot.reset n) (h.core c) :)

theorem rayFrame_updRay (s : State) (c n : Nat) (f : RaySlot → RaySlot) : RayFrame c s (s.updRay c n f) := by
  refine ⟨?_, rfl⟩
  rw [State.updRay, State.core_updCore, if_pos rfl]
  rfl
theorem ray_updRay (s : State) (c n : Nat) (f : RaySlot → RaySlot) : ((s.updRay c n f).core c).ray n = f ((s.core c).ray n) := by
  rw [State.updRay, State.core_updCore, if_pos rfl]
  exact Tbl.get_set_self ..
theorem rayFrame_hpm (s : State) (c code m : Nat) : RayFrame c s (s.hpm c code m) := by
  refine ⟨?_, rfl⟩
  rw [State.hpm, State.core_updCore, if_pos rfl]
  have hthreads : ((s.core c).hpm code m).threads = (s.core c).threads := Core.hpm_threads _ _ _
  have hrest := congrArg (fun k : Core => { rayless k with threads := (s.core c).threads }) (Core.hpm_rest (s.core c) code m)
  calc rayless ((s.core c).hpm code m)
      = { rayless (coreRest ((s.core c).hpm code m)) with threads := ((s.core c).hpm code m).threads } := rfl
    _ = { rayless (coreRest ((s.core c).hpm code m)) with threads := (s.core c).threads } := by rw [hthreads]
    _ = rayless (s.core c) := hrest
theorem ray_hpm (s : State) (c code m n : Nat) : ((s.hpm c code m).core c).ray n = (s.core c).ray n := by
  rw [State.hpm, State.core_updCore, if_pos rfl, ray_of_rest (Core.hpm_rest _ _ _)]
theorem rayFrame_serial (s : State) (c : Nat) : RayFrame c s (s.updCore c fun k => { k with serial := k.serial + 1 }) := by
  refine ⟨?_, rfl⟩
  rw [State.core_updCore, if_pos rfl]
  rfl
theorem ray_serial (s : State) (c n : Nat) : ((s.updCore c fun k => { k with serial := k.serial + 1 }).core c).ray n = (s.core c).ray n := by
  rw [State.core_updCore, if_pos rfl]
  rfl

/-- A miss that joins an entry changes dies and TLBs alone. -/
theorem joinMiss_kept {die ctx : Nat} {va : Word} {k : Access} {user : Bool} {i : ThreadId} {r : Requester} {e : Nat}
    (h : s.joinMiss die ctx va k user i r = some (e, t)) : CoresKept s t ∧ t.ctxs = s.ctxs := by
  unfold State.joinMiss at h
  dsimp only at h
  split at h
  · cases h
    exact ⟨⟨rfl, fun _ => rfl⟩, rfl⟩
  · split at h
    · exact nomatch h
    · cases h
      exact ⟨⟨rfl, fun _ => rfl⟩, rfl⟩
theorem ctxs_dirtyAt (s : State) (cl x : Nat) (va : Word) : (s.dirtyAt cl x va).ctxs = s.ctxs := by
  unfold State.dirtyAt
  split <;> rfl
theorem ctxs_writeAt (s : State) (c : Nat) (p : Place) (bs : List Byte) : (s.writeAt c p bs).ctxs = s.ctxs := by
  cases p <;> rfl

/-- A spill write that is performed. -/
theorem spillWrite_kept (s : State) (c slot serial x : Nat) (va : Word) (p : Place) (bs : List Byte) :
    CoresKept s (s.sentBy (some (⟨c, slot⟩, serial)) 0x80 ((s.dirtyAt (clusterOf c) x va).writeAt c p bs)) :=
  coresKept_sentBy _ _ ((coresKept_dirtyAt ..).trans (coresKept_writeAt ..))

/-- A ray slot whose queued spill writes have been worked on. -/
structure Spilling (r q : RaySlot) : Prop where
  inserted : q.inserted = r.inserted
  arrivals : q.arrivals = r.arrivals
  spilledF : q.spilledF = r.spilledF
  spilledN : q.spilledN = r.spilledN

theorem spillDrain_spilling (s : State) (c n fuel : Nat) :
    RayFrame c s (s.spillDrain c n fuel) ∧ Spilling ((s.core c).ray n) (((s.spillDrain c n fuel).core c).ray n) := by
  induction fuel generalizing s with
  | zero => exact ⟨.refl c s, ⟨rfl, rfl, rfl, rfl⟩⟩
  | succ fuel ih =>
    have hstep {u : State} {f : RaySlot → RaySlot} (hf : ∀ r, Spilling r (f r)) (hu : CoresKept s u) (hx : u.ctxs = s.ctxs) :
        RayFrame c s ((u.updRay c n f).spillDrain c n fuel)
          ∧ Spilling ((s.core c).ray n) ((((u.updRay c n f).spillDrain c n fuel).core c).ray n) := by
      obtain ⟨hframe, hin, harr, hf', hn⟩ := ih (u.updRay c n f)
      have hone := hf ((u.core c).ray n)
      rw [ray_updRay, hu.ray c n] at hin harr hf' hn
      rw [hu.ray c n] at hone
      exact ⟨((hu.rayFrame hx c).trans (rayFrame_updRay u c n f)).trans hframe, hin.trans hone.inserted, harr.trans hone.arrivals, hf'.trans hone.spilledF,
        hn.trans hone.spilledN⟩
    unfold State.spillDrain
    dsimp only
    split
    · exact ⟨.refl c s, ⟨rfl, rfl, rfl, rfl⟩⟩
    · split
      · exact ⟨.refl c s, ⟨rfl, rfl, rfl, rfl⟩⟩
      · split
        · split
          · exact hstep (fun _ => ⟨rfl, rfl, rfl, rfl⟩) (spillWrite_kept ..) ((ctxs_writeAt ..).trans (ctxs_dirtyAt ..))
          · exact hstep (fun _ => ⟨rfl, rfl, rfl, rfl⟩) (.refl s) rfl
          · split
            · exact ⟨.refl c s, ⟨rfl, rfl, rfl, rfl⟩⟩
            · next hjoin =>
              obtain ⟨hkept, hx⟩ := joinMiss_kept hjoin
              refine ⟨(hkept.rayFrame hx c).trans (rayFrame_updRay ..), ?_⟩
              rw [ray_updRay, hkept.ray c n]
              exact ⟨rfl, rfl, rfl, rfl⟩
        · exact hstep (fun _ => ⟨rfl, rfl, rfl, rfl⟩) (coresKept_writeAt ..) (ctxs_writeAt ..)
end

end Sys2Proof.Machine
end

section
/-! SUPPORT. Inserts into a ray slot, and the register, row and retirement of a list operation (R272-R275, R284). -/

namespace Sys2Proof.Machine

open Sys2Proof Sys2Proof.Safety

/-! Insertion (R272, R275). -/

/-- A slot that has taken an answer, with its cut anew, and the number evicted. -/
def RaySlot.taken (r : RaySlot) (y : Answer) : RaySlot × Nat := { r with entries := insertBy Answer.key y r.entries }.recut

theorem collapse_lossy {r : RaySlot} (h : 2 ≤ r.entries.length) : ∃ es, r.collapse = { r with entries := es, lossy := true } := by
  have hlen : 2 ≤ r.entries.reverse.length := by rwa [List.length_reverse]
  unfold RaySlot.collapse
  split
  · exact ⟨_, rfl⟩
  · next hno =>
    match hl : r.entries.reverse with
    | [] => rw [hl] at hlen; exact absurd hlen (by decide)
    | [a] => rw [hl] at hlen; exact absurd hlen (show ¬ 2 ≤ 1 by decide)
    | b :: a :: rest => exact absurd hl (hno b a rest)

/-- What an overflow leaves, whatever becomes of the slot. -/
theorem overflow_frame (s : State) (c n m : Nat) (r : RaySlot) :
    let t := ((((s.hpm c 0x10 1).updRay c n (fun _ => r)).updCore c (fun k => { k with serial := k.serial + 1 })).hpm c 0x0E 1).hpm c 0x0F m
    RayFrame c s t ∧ (t.core c).ray n = r := by
  refine ⟨((((rayFrame_hpm ..).trans (rayFrame_updRay ..)).trans (rayFrame_serial ..)).trans (rayFrame_hpm ..)).trans (rayFrame_hpm ..), ?_⟩
  rw [ray_hpm, ray_hpm, ray_serial, ray_updRay]

section
variable {s : State} {c n : Nat} {x y : Answer} {op : Option (Nat × Nat)}

theorem insert_malformed (h : x.malformed = true) : s.insertAnswer c n x op = (s, .status 2) := if_pos h
variable (hw : x.malformed = false)
include hw
theorem insert_culled (h : ∀ y, x.clip ((s.core c).ray n).tmin ((s.core c).ray n).tmax = some y → f32Lt ((s.core c).ray n).cut y.tin = true) :
    s.insertAnswer c n x op = ((s.updRay c n (fun r => { r with culled := r.culled + 1 })).hpm c 0x0F 1, .status 1) := by
  unfold State.insertAnswer
  dsimp only
  rw [hw, if_neg Bool.false_ne_true]
  cases hc : x.clip ((s.core c).ray n).tmin ((s.core c).ray n).tmax with
  | none => rfl
  | some y => exact if_pos (h y hc)
variable (hc : x.clip ((s.core c).ray n).tmin ((s.core c).ray n).tmax = some y) (hcut : f32Lt ((s.core c).ray n).cut y.tin = false)
include hc hcut
theorem insert_same {e : Answer} (h : ((s.core c).ray n).entries.find? (fun e => e.key == y.key) = some e) :
    s.insertAnswer c n x op = (s.updRay c n (fun r => { r with conflict := r.conflict || (e.tau != y.tau || e.gr != y.gr || e.cb != y.cb || e.fk != y.fk) }),
      .status 3) := by
  unfold State.insertAnswer
  dsimp only
  rw [hw, if_neg Bool.false_ne_true, hc]
  dsimp only
  rw [hcut, if_neg Bool.false_ne_true, h]
variable (hnew : ∀ e ∈ ((s.core c).ray n).entries, e.key ≠ y.key)
include hnew
theorem insert_room (h : (((s.core c).ray n).taken y).1.entries.length ≤ 16) : s.insertAnswer c n x op =
    (((s.updRay c n (fun _ => { (((s.core c).ray n).taken y).1 with inserted := (((s.core c).ray n).taken y).1.inserted + 1 })).hpm c 0x0E 1).hpm
      c 0x0F (((s.core c).ray n).taken y).2, .status 0) := by
  have hfind : ((s.core c).ray n).entries.find? (fun e => e.key == y.key) = none :=
    List.find?_eq_none.mpr fun e he hk => hnew e he (beq_iff_eq.mp hk)
  unfold State.insertAnswer
  dsimp only
  rw [hw, if_neg Bool.false_ne_true, hc]
  dsimp only
  rw [hcut, if_neg Bool.false_ne_true, hfind]
  exact if_pos h
variable (hfull : 16 < (((s.core c).ray n).taken y).1.entries.length)
include hfull
theorem insert_traps (hm : ((s.core c).ray n).mode = .trap) (hop : op.isSome = true) : s.insertAnswer c n x op = (s.hpm c 0x10 1, .ovf) := by
  have hfind : ((s.core c).ray n).entries.find? (fun e => e.key == y.key) = none :=
    List.find?_eq_none.mpr fun e he hk => hnew e he (beq_iff_eq.mp hk)
  unfold State.insertAnswer
  dsimp only
  rw [hw, if_neg Bool.false_ne_true, hc]
  dsimp only
  rw [hcut, if_neg Bool.false_ne_true, hfind]
  exact (if_neg (Nat.not_le.mpr hfull)).trans (if_pos ⟨hm, hop⟩)

/-- A slot that overflows spills its last entry. -/
theorem insert_spills (hm : ((s.core c).ray n).mode = .spill) (hcap : ((s.core c).ray n).spilledN < ((s.core c).ray n).cap) :
    ∃ t, s.insertAnswer c n x op = (t, .status 5) ∧ RayFrame c s t
      ∧ ((t.core c).ray n).inserted = ((s.core c).ray n).inserted + 1 ∧ ((t.core c).ray n).arrivals = ((s.core c).ray n).arrivals
      ∧ ((t.core c).ray n).spilledF = true ∧ ((t.core c).ray n).spilledN = ((s.core c).ray n).spilledN + 1 := by
  have hfind : ((s.core c).ray n).entries.find? (fun e => e.key == y.key) = none :=
    List.find?_eq_none.mpr fun e he hk => hnew e he (beq_iff_eq.mp hk)
  unfold State.insertAnswer
  dsimp only
  rw [hw, if_neg Bool.false_ne_true, hc]
  dsimp only
  rw [hcut, if_neg Bool.false_ne_true, hfind]
  refine ⟨_, (if_neg (Nat.not_le.mpr hfull)).trans ((if_neg fun h => OvfMode.noConfusion (hm.symm.trans h.1)).trans (if_pos ⟨hm, hcap⟩)), ?_⟩
  simp only [if_pos (And.intro hm hcap)]
  obtain ⟨hframe, hray⟩ := overflow_frame s c n _ _
  obtain ⟨hdrain, hin, harr, hf, hn⟩ := spillDrain_spilling _ c n 4097
  refine ⟨hframe.trans hdrain, ?_⟩
  rw [hin, harr, hf, hn, hray]
  exact ⟨rfl, rfl, rfl, rfl⟩
/-- A slot that neither spills nor traps collapses its last two entries. -/
theorem insert_collapses (ht : ¬ (((s.core c).ray n).mode = .trap ∧ op.isSome = true))
    (hsp : ¬ (((s.core c).ray n).mode = .spill ∧ ((s.core c).ray n).spilledN < ((s.core c).ray n).cap)) :
    ∃ t, s.insertAnswer c n x op = (t, .status 4) ∧ RayFrame c s t
      ∧ ((t.core c).ray n).inserted = ((s.core c).ray n).inserted + 1 ∧ ((t.core c).ray n).arrivals = ((s.core c).ray n).arrivals
      ∧ ((t.core c).ray n).lossy = true ∧ (((s.core c).ray n).mode = .trap → ((t.core c).ray n).remoteOvf = true) := by
  have hfind : ((s.core c).ray n).entries.find? (fun e => e.key == y.key) = none :=
    List.find?_eq_none.mpr fun e he hk => hnew e he (beq_iff_eq.mp hk)
  unfold State.insertAnswer
  dsimp only
  rw [hw, if_neg Bool.false_ne_true, hc]
  dsimp only
  rw [hcut, if_neg Bool.false_ne_true, hfind]
  refine ⟨_, (if_neg (Nat.not_le.mpr hfull)).trans ((if_neg ht).trans (if_neg hsp)), ?_⟩
  simp only [if_neg hsp]
  obtain ⟨hframe, hray⟩ := overflow_frame s c n _ _
  refine ⟨hframe, ?_⟩
  rw [hray]
  obtain ⟨es, hes⟩ := collapse_lossy (r := { (((s.core c).ray n).taken y).1 with
    remoteOvf := (((s.core c).ray n).taken y).1.remoteOvf || ((s.core c).ray n).mode == OvfMode.trap }) (le_trans (by decide) hfull.le)
  unfold RaySlot.taken at hes
  rw [hes]
  exact ⟨rfl, rfl, rfl, fun h => by rw [h]; exact Bool.or_true _⟩
end

end Sys2Proof.Machine
end

section
/-! SUPPORT. The register, row and retirement of a list operation (R85, R284). -/

namespace Sys2Proof.Machine

open Sys2Proof Sys2Proof.Safety

/-! A thread whose operation's register or row has been written. -/

theorem regNo_setRegId_self (x : Thread) {d : Nat} (hd : d ≠ 0) (v : Word) : regNo (x.setRegId d v) d = some v := by
  unfold Thread.setRegId
  rw [if_neg hd]
  split
  · next h8 => rw [regNo, if_neg hd, if_pos h8, Tbl.get_set_self]
  · next h8 =>
    have hbit : (x.dead &&& ~~~(1#88 <<< (d - 8))).getLsbD (d - 8) = false := by simp
    rw [regNo, if_neg hd, if_neg h8, hbit, if_neg Bool.false_ne_true, Tbl.get_set_self]
/-- A bit cleared beside the one looked at. -/
theorem getLsbD_clear_ne (x : BitVec 88) {i j : Nat} (h : i ≠ j) : (x &&& ~~~(1#88 <<< j)).getLsbD i = x.getLsbD i := by
  by_cases hi : i < 88
  · by_cases hj : i < j
    · simp [hi, hj]
    · simp [hi, show ¬ i - j = 0 by omega]
  · rw [BitVec.getLsbD_of_ge _ _ (not_lt.mp hi), BitVec.getLsbD_of_ge _ _ (not_lt.mp hi)]
theorem regNo_setRegId_ne (x : Thread) (d : Nat) (v : Word) {n : Nat} (h : n ≠ d) : regNo (x.setRegId d v) n = regNo x n := by
  unfold Thread.setRegId
  split
  · rfl
  · split
    · unfold regNo
      dsimp only
      rw [Tbl.get_set_ne _ _ _ h]
    · next h8 =>
      unfold regNo
      dsimp only
      by_cases hn8 : n < 8
      · simp only [if_pos hn8]
      · have hne : n - 8 ≠ d - 8 := by omega
        rw [getLsbD_clear_ne _ hne, Tbl.get_set_ne _ _ _ hne]
theorem setRegId_rest (x : Thread) (d : Nat) (v : Word) : (x.setRegId d v).state = x.state ∧ (x.setRegId d v).replay = x.replay
    ∧ (x.setRegId d v).pc = x.pc ∧ (x.setRegId d v).rows = x.rows ∧ (x.setRegId d v).woke = x.woke := by
  unfold Thread.setRegId
  split
  · exact ⟨rfl, rfl, rfl, rfl, rfl⟩
  · split <;> exact ⟨rfl, rfl, rfl, rfl, rfl⟩

/-- The operation's register is written and awaited no longer, and the latch is set. -/
def Thread.ilDone (x : Thread) (o : IlOp) (v : Word) (n : Nat) : Thread :=
  let y := { x.setRegId o.dest v with pend := x.pend.filter (fun p => p != .reg o.dest), latch := true }
  if o.dest = 0 then y else y.addPoint (.reg o.dest) n

/-- `y` is `x` with the register of `o` written. -/
structure IlPut (o : IlOp) (v : Word) (x y : Thread) : Prop where
  dest : o.dest ≠ 0 → regNo y o.dest = some v
  regs : ∀ n, n ≠ o.dest → regNo y n = regNo x n
  latch : y.latch = true
  pend : ∀ p, p ∈ y.pend ↔ p ∈ x.pend ∧ p ≠ .reg o.dest
  rows : y.rows = x.rows

theorem ilDone_put (x : Thread) (o : IlOp) (v : Word) (n : Nat) : IlPut o v x (x.ilDone o v n) := by
  have hregs (m : Nat) : regNo (x.ilDone o v n) m = regNo (x.setRegId o.dest v) m := by
    unfold Thread.ilDone
    dsimp only
    split <;> rfl
  refine ⟨fun h => ?_, fun m hm => ?_, ?_, fun p => ?_, ?_⟩
  · rw [hregs, regNo_setRegId_self _ h]
  · rw [hregs, regNo_setRegId_ne _ _ _ hm]
  all_goals
    unfold Thread.ilDone
    dsimp only
  · split <;> rfl
  · have hmem : p ∈ x.pend.filter (fun p => p != .reg o.dest) ↔ p ∈ x.pend ∧ p ≠ .reg o.dest := by simp
    split <;> exact hmem
  · split <;> exact (setRegId_rest x o.dest v).2.2.2.1
theorem ilDone_rest (x : Thread) (o : IlOp) (v : Word) (n : Nat) : (x.ilDone o v n).state = x.state ∧ (x.ilDone o v n).replay = x.replay
    ∧ (x.ilDone o v n).pc = x.pc ∧ (x.ilDone o v n).woke = x.woke := by
  obtain ⟨hs, hr, hp, -, hw⟩ := setRegId_rest x o.dest v
  unfold Thread.ilDone
  dsimp only
  split <;> exact ⟨hs, hr, hp, hw⟩
theorem retired_put {o : IlOp} {v : Word} {x y : Thread} (h : IlPut o v x y) : IlPut o v x y.retire.stepPc := by
  refine ⟨fun hd => ?_, fun n hn => ?_, ?_, fun p => ?_, ?_⟩
  · simpa using h.dest hd
  · simpa using h.regs n hn
  · simpa using h.latch
  · simpa using h.pend p
  · simpa using h.rows

/-! The state after it. -/

section
variable {s : State} {c : Nat} {o : IlOp} {v : Word}

theorem core_updThread (s : State) (i : ThreadId) (f : Thread → Thread) : coreRest ((s.updThread i f).core i.core) = coreRest (s.core i.core) := by
  rw [State.updThread, State.setThread, State.core_updCore, if_pos rfl]
  rfl
theorem ilWrite_eq (h : s.ilAlive c o = true) : s.ilWrite c o v =
    let u := s.updThread ⟨c, o.slot⟩ (·.ilDone o v (s.core c).serial)
    if (o.waits && (u.thread ⟨c, o.slot⟩).waitsFor = some .listEngine) = true then u.byEngine ⟨c, o.slot⟩ State.advance else u := by
  unfold State.ilWrite
  dsimp only
  rw [h]
  rfl
/-- A thread goes on by the engine: as it would by itself, but a PARKED one stays so. -/
theorem byEngine_advance (s : State) (i : ThreadId) : coreRest ((s.byEngine i State.advance).core i.core) = coreRest (s.core i.core)
    ∧ ∃ st, (s.byEngine i State.advance).thread i = { (s.thread i).retire.stepPc with state := st }
      ∧ ((s.thread i).state.parkedS = false → st = .ready) := by
  have hrest : coreRest ((s.asThread i State.advance).core i.core) = coreRest (s.core i.core) := by
    obtain ⟨-, -, -, -, hr, -, -⟩ := (Mine.refl { s with cur := i }).advance
    exact hr
  have hthread := thread_advance s i
  by_cases hp : (s.thread i).state.parkedS = false
  · rw [State.byEngine_of_not_parked s i _ hp]
    refine ⟨hrest, .ready, ?_, fun _ => rfl⟩
    rw [hthread]
    have hready : (s.thread i).retire.stepPc.state = .ready := Thread.stepPc_state _
    rw [← hready]
  · cases hs : (s.thread i).state with
    | parked hard b =>
      unfold State.byEngine
      rw [hs]
      dsimp only
      refine ⟨(core_updThread ..).trans hrest, ?_⟩
      rw [State.thread_updThread, if_pos rfl, hthread]
      split
      · exact ⟨_, rfl, fun h => absurd h (by rw [hs] at hp; exact hp)⟩
      · exact ⟨_, rfl, fun h => absurd h (by rw [hs] at hp; exact hp)⟩
    | free => rw [hs] at hp; exact absurd rfl hp
    | done x => rw [hs] at hp; exact absurd rfl hp
    | ready => rw [hs] at hp; exact absurd rfl hp
    | blocked w l => rw [hs] at hp; exact absurd rfl hp

/-- The thread and the core after an operation's register is written. -/
theorem ilWrite_wrote (h : s.ilAlive c o = true) (v : Word) :
    coreRest ((s.ilWrite c o v).core c) = coreRest (s.core c) ∧ IlPut o v (s.thread ⟨c, o.slot⟩) ((s.ilWrite c o v).thread ⟨c, o.slot⟩)
      ∧ ∀ l, o.waits = true → (s.thread ⟨c, o.slot⟩).state = .blocked .listEngine l →
        ((s.ilWrite c o v).thread ⟨c, o.slot⟩).state = .ready
          ∧ ((s.thread ⟨c, o.slot⟩).replay = none → ((s.ilWrite c o v).thread ⟨c, o.slot⟩).pc = (s.thread ⟨c, o.slot⟩).pc + 4) := by
  rw [ilWrite_eq h]
  dsimp only
  have hrest := core_updThread s ⟨c, o.slot⟩ (·.ilDone o v (s.core c).serial)
  have hthread : (s.updThread ⟨c, o.slot⟩ (·.ilDone o v (s.core c).serial)).thread ⟨c, o.slot⟩
      = (s.thread ⟨c, o.slot⟩).ilDone o v (s.core c).serial := by
    rw [State.thread_updThread, if_pos rfl]
  have hput := ilDone_put (s.thread ⟨c, o.slot⟩) o v (s.core c).serial
  obtain ⟨hstate, hreplay, hpc, -⟩ := ilDone_rest (s.thread ⟨c, o.slot⟩) o v (s.core c).serial
  split
  · obtain ⟨hrest', st, hst, hready⟩ := byEngine_advance (s.updThread ⟨c, o.slot⟩ (·.ilDone o v (s.core c).serial)) ⟨c, o.slot⟩
    rw [hthread] at hst hready
    have hput' := retired_put hput
    refine ⟨hrest'.trans hrest, ?_, fun l _ hb => ?_⟩
    · rw [hst]
      exact ⟨hput'.dest, hput'.regs, hput'.latch, hput'.pend, hput'.rows⟩
    · rw [hst]
      refine ⟨hready (by rw [hstate, hb]; rfl), fun hr => ?_⟩
      have hnext := (Thread.stepPc_behind ((s.thread ⟨c, o.slot⟩).ilDone o v (s.core c).serial).retire (hreplay.trans hr)).1
      exact hnext.trans (congrArg (· + 4) hpc)
  · next hno =>
    refine ⟨hrest, hthread ▸ hput, fun l hwaits hb => absurd ?_ hno⟩
    have hwait : ((s.thread ⟨c, o.slot⟩).ilDone o v (s.core c).serial).waitsFor = some .listEngine := by
      unfold Thread.waitsFor Thread.waitOf Thread.begun
      rw [hstate, hb]
      rfl
    rw [hthread, hwait, hwaits]
    rfl
end

end Sys2Proof.Machine
end

section
/-! SUPPORT. The list engine's turns: an operation performed and an arrival applied (R269-R284). -/

namespace Sys2Proof.Machine

open Sys2Proof Sys2Proof.Safety

/-! The row of ILCOMP and ILREAD. -/

section
variable {z : State} {c : Nat} {o : IlOp}

/-- The row is awaited no longer; it is written where the operation writes it. -/
theorem ilWriteRow_wrote (h : z.ilAlive c o = true) (v : Option Row) :
    coreRest ((z.ilWriteRow c o v).core c) = coreRest (z.core c)
      ∧ let x := z.thread ⟨c, o.slot⟩
        let y := (z.ilWriteRow c o v).thread ⟨c, o.slot⟩
        (∀ n, regNo y n = regNo x n) ∧ (∀ p, p ∈ y.pend ↔ p ∈ x.pend ∧ p ≠ .row o.row) ∧ y.state = x.state ∧ y.replay = x.replay ∧ y.pc = x.pc
          ∧ y.born = x.born ∧ ∀ n, n < 128 → o.row < 128 → y.row n = (match v with
            | none => x.row n
            | some r => if n = o.row then r else x.row n) := by
  unfold State.ilWriteRow
  rw [if_neg (by rw [h]; decide)]
  refine ⟨core_updThread .., ?_⟩
  dsimp only
  rw [State.thread_updThread, if_pos rfl]
  cases v with
  | none =>
    refine ⟨fun _ => rfl, fun p => by simp, rfl, rfl, rfl, rfl, fun n _ _ => rfl⟩
  | some r =>
    refine ⟨fun _ => rfl, fun p => ?_, rfl, rfl, rfl, rfl, fun n hn hrow => ?_⟩
    · have hmem : p ∈ (z.thread ⟨c, o.slot⟩).pend.filter (fun p => p != .row o.row) ↔ p ∈ (z.thread ⟨c, o.slot⟩).pend ∧ p ≠ .row o.row := by simp
      exact hmem
    · have hset := Thread.row_setRow { z.thread ⟨c, o.slot⟩ with pend := (z.thread ⟨c, o.slot⟩).pend.filter (fun p => p != .row o.row) } o.row n r
      rw [Nat.mod_eq_of_lt hn, Nat.mod_eq_of_lt hrow] at hset
      exact hset
end

/-! What an operation gives its thread. -/

/-- The operation `o` was performed: its register is written and awaited no longer, the latch is set, and a thread that waited for it goes on. -/
def ListGave (s t : State) (c : Nat) (o : IlOp) (q : List IlOp) (y : Thread) (v : Word) : Prop :=
  let x := (t.core c).thread o.slot
  exec (.listEngineOperation c) s = .next t ∧ (t.core c).ilQ = q
    ∧ (o.dest ≠ 0 → regNo x o.dest = some v) ∧ (∀ n, n ≠ o.dest → regNo x n = regNo y n) ∧ x.latch = true
    ∧ (∀ p, p ∈ x.pend ↔ p ∈ y.pend ∧ p ≠ .reg o.dest ∧ (o.kind = .comp ∨ o.kind = .read → p ≠ .row o.row))
    ∧ ∀ l, o.waits = true → y.state = .blocked .listEngine l → x.state = .ready ∧ (y.replay = none → x.pc = y.pc + 4)

section
variable {s z : State} {c : Nat} {o : IlOp} {q : List IlOp} {y : Thread} {v : Word}

theorem coreRest_ilQ {j k : Core} (h : coreRest j = coreRest k) : j.ilQ = k.ilQ := (congrArg Core.ilQ h :)
theorem coreRest_ranges {j k : Core} (h : coreRest j = coreRest k) : j.ranges = k.ranges := (congrArg Core.ranges h :)

/-- An operation that writes a register only. -/
theorem gave_register (hexec : exec (.listEngineOperation c) s = .next (z.ilWrite c o v)) (hq : (z.core c).ilQ = q)
    (hy : z.thread ⟨c, o.slot⟩ = y) (ha : z.ilAlive c o = true) (hk : ¬ (o.kind = .comp ∨ o.kind = .read)) :
    ListGave s (z.ilWrite c o v) c o q y v ∧ (∀ n, ((z.ilWrite c o v).core c).ray n = (z.core c).ray n)
      ∧ ((z.ilWrite c o v).core c).ranges = (z.core c).ranges
      ∧ ∀ n i, n < 128 → i < 16 → ((((z.ilWrite c o v).core c).thread o.slot).row n).lane i = (y.row n).lane i := by
  subst hy
  obtain ⟨hrest, hput, hgoes⟩ := ilWrite_wrote ha v
  refine ⟨⟨hexec, (coreRest_ilQ hrest).trans hq, hput.dest, hput.regs, hput.latch, fun p => ?_, hgoes⟩, fun n => ray_of_rest hrest n,
    coreRest_ranges hrest, fun n i _ _ => congrArg (Row.lane · i) (Thread.row_congr hput.rows n)⟩
  exact (hput.pend p).trans ⟨fun ⟨h1, h2⟩ => ⟨h1, h2, fun h => absurd h hk⟩, fun ⟨h1, h2, _⟩ => ⟨h1, h2⟩⟩

/-- An operation that awaits a row too. -/
theorem gave_row {w : Option Row} (hexec : exec (.listEngineOperation c) s = .next ((z.ilWriteRow c o w).ilWrite c o v)) (hq : (z.core c).ilQ = q)
    (hy : z.thread ⟨c, o.slot⟩ = y) (ha : z.ilAlive c o = true) (hrow : o.row < 128) (hk : o.kind = .comp ∨ o.kind = .read) :
    ListGave s ((z.ilWriteRow c o w).ilWrite c o v) c o q y v
      ∧ (∀ n, (((z.ilWriteRow c o w).ilWrite c o v).core c).ray n = (z.core c).ray n)
      ∧ ∀ n i, n < 128 → i < 16 → (((((z.ilWriteRow c o w).ilWrite c o v).core c).thread o.slot).row n).lane i = (match w with
        | none => (y.row n).lane i
        | some r => if n = o.row then r.lane i else (y.row n).lane i) := by
  subst hy
  obtain ⟨hrest0, hregs, hpend, hstate, hreplay, hpc, hborn, hrows⟩ := ilWriteRow_wrote ha w
  have ha' : (z.ilWriteRow c o w).ilAlive c o = true := by
    unfold State.ilAlive at ha ⊢
    rw [show (((z.ilWriteRow c o w).core c).thread o.slot).born = ((z.core c).thread o.slot).born from hborn]
    exact ha
  obtain ⟨hrest, hput, hgoes⟩ := ilWrite_wrote ha' v
  have hboth := hrest.trans hrest0
  refine ⟨⟨hexec, (coreRest_ilQ hboth).trans hq, hput.dest, fun n hn => (hput.regs n hn).trans (hregs n), hput.latch, fun p => ?_, fun l hw hb => ?_⟩,
    fun n => ray_of_rest hboth n, fun n i hn _ => ?_⟩
  · refine (hput.pend p).trans ((and_congr_left' (hpend p)).trans ?_)
    exact ⟨fun ⟨⟨h1, h2⟩, h3⟩ => ⟨h1, h3, fun _ => h2⟩, fun ⟨h1, h3, h2⟩ => ⟨⟨h1, h2 hk⟩, h3⟩⟩
  · obtain ⟨hready, hnext⟩ := hgoes l hw (hstate.trans hb)
    exact ⟨hready, fun hr => (hnext (hreplay.trans hr)).trans (congrArg (· + 4) hpc)⟩
  · have hthis := (Thread.row_congr hput.rows n).trans (hrows n hn hrow)
    refine (congrArg (Row.lane · i) hthis).trans ?_
    cases w with
    | none => rfl
    | some r => exact apply_ite (Row.lane · i) _ _ _
end

/-! The operation whose turn it is (R284). -/

section
variable {s : State} {c : Nat} {o : IlOp} {q : List IlOp}

/-- The operation is taken from the queue. -/
def State.ilTaken (s : State) (c : Nat) (q : List IlOp) : State := (s.spillAll c).updCore c (fun k => { k with ilQ := q, ilTurn := true })
theorem core_ilTaken (s : State) (c : Nat) (q : List IlOp) : (s.ilTaken c q).core c = { (s.spillAll c).core c with ilQ := q, ilTurn := true } := by
  rw [State.ilTaken, State.core_updCore, if_pos rfl]
theorem exec_listEngine (hq : ((s.spillAll c).core c).ilQ = o :: q) (hr : ((s.spillAll c).core c).ilReady = true)
    (ht : ((s.spillAll c).core c).ilTurn = true → ((s.spillAll c).core c).arrivals = []) :
    exec (.listEngineOperation c) s = .next ((s.ilTaken c q).ilPerform c o) := by
  have hgo : ¬ (!((s.spillAll c).core c).ilReady || (((s.spillAll c).core c).ilTurn && !((s.spillAll c).core c).arrivals.isEmpty)) = true := by
    rw [hr]
    cases hturn : ((s.spillAll c).core c).ilTurn with
    | false => exact Bool.false_ne_true
    | true =>
      rw [ht hturn]
      exact Bool.false_ne_true
  refine congrArg Host.Outcome.next ((if_neg hgo).trans ?_)
  unfold State.ilStep
  rw [hq]
  rfl
end

section
variable {z : State} {c : Nat} {o : IlOp}
theorem ilPerform_cut (h : o.kind = .cut) : z.ilPerform c o =
    z.ilWrite c o (if ((z.core c).ray o.ray).state = .free then BitVec.allOnes 64 else ((z.core c).ray o.ray).cut.setWidth 64) := by
  unfold State.ilPerform
  dsimp only
  rw [h]
theorem ilPerform_stat (h : o.kind = .stat) : z.ilPerform c o = z.ilWrite c o ((z.core c).ray o.ray).statWord := by
  unfold State.ilPerform
  dsimp only
  rw [h]
theorem ilPerform_opn (h : o.kind = .opn) : z.ilPerform c o = (z.openRay c o).1.ilWrite c o (z.openRay c o).2 := by
  unfold State.ilPerform
  dsimp only
  rw [h]
theorem ilPerform_comp (h : o.kind = .comp) : z.ilPerform c o = z.compRay c o := by
  unfold State.ilPerform
  dsimp only
  rw [h]
theorem ilPerform_read (h : o.kind = .read) : z.ilPerform c o = z.readRay c o := by
  unfold State.ilPerform
  dsimp only
  rw [h]

/-! ILINS. -/

theorem ilPerform_ins_closed (h : o.kind = .ins) (hs : ((z.core c).ray o.ray).state ≠ .opened) : z.ilPerform c o = z.ilWrite c o 6 := by
  unfold State.ilPerform
  dsimp only
  rw [h]
  exact if_pos hs
theorem ilPerform_ins_status (h : o.kind = .ins) (hs : ((z.core c).ray o.ray).state = .opened) {t : State} {n : Nat}
    (hi : z.insertAnswer c o.ray (Answer.ofLanes o.block) (some (o.slot, o.serial)) = (t, .status n)) :
    z.ilPerform c o = t.ilWrite c o (BitVec.ofNat 64 n) := by
  unfold State.ilPerform
  dsimp only
  rw [h]
  dsimp only
  rw [if_neg (not_not.mpr hs), hi]
theorem ilPerform_ins_traps (h : o.kind = .ins) (hs : ((z.core c).ray o.ray).state = .opened) {t : State} (ha : t.ilAlive c o = true)
    (hi : z.insertAnswer c o.ray (Answer.ofLanes o.block) (some (o.slot, o.serial)) = (t, .ovf)) :
    z.ilPerform c o = t.byEngine ⟨c, o.slot⟩ (·.trapAt ⟨c, o.slot⟩ 13 (BitVec.ofNat 64 o.ray)) := by
  unfold State.ilPerform
  dsimp only
  rw [h]
  dsimp only
  rw [if_neg (not_not.mpr hs), hi]
  exact if_pos ha

/-! ILCLOSE. -/

theorem ilPerform_close_free (h : o.kind = .close) (hs : ((z.core c).ray o.ray).state = .free) : z.ilPerform c o = z.ilWrite c o 1 := by
  unfold State.ilPerform
  dsimp only
  rw [h]
  exact if_pos hs
theorem ilPerform_close_done (h : o.kind = .close) (hs : ((z.core c).ray o.ray).state ≠ .free) (hw : ((z.core c).ray o.ray).wfail = none) :
    z.ilPerform c o = (z.freeRay c o.ray).ilWrite c o 0 := by
  unfold State.ilPerform
  dsimp only
  rw [h]
  dsimp only
  rw [if_neg hs, hw]
theorem ilPerform_close_traps (h : o.kind = .close) (hs : ((z.core c).ray o.ray).state ≠ .free) {e : Nat} {v : Word}
    (hw : ((z.core c).ray o.ray).wfail = some (e, v)) (ha : z.ilAlive c o = true) :
    z.ilPerform c o = (z.updRay c o.ray (fun r => { r with wfail := none })).byEngine ⟨c, o.slot⟩ (·.trapAt ⟨c, o.slot⟩ e v) := by
  unfold State.ilPerform
  dsimp only
  rw [h]
  dsimp only
  rw [if_neg hs, hw]
  exact if_pos (((rayFrame_updRay ..).alive o).trans ha)

/-! ILCOMP and ILREAD. -/

theorem compRay_free (hs : ((z.core c).ray o.ray).state = .free) : z.compRay c o = (z.ilWriteRow c o none).ilWrite c o 1 := by
  unfold State.compRay
  dsimp only
  rw [hs]
theorem compRay_opened (hs : ((z.core c).ray o.ray).state = .opened) : z.compRay c o =
    let x := composite ((z.core c).ray o.ray).entries
    let row := ((z.core c).ray o.ray).resultRow x
    ((z.updRay c o.ray (fun r => { r with state := .composited, result := some row, mixed := x.mixed })).ilWriteRow c o (some row)).ilWrite c o 0 := by
  unfold State.compRay
  dsimp only
  rw [hs]
theorem compRay_composited (hs : ((z.core c).ray o.ray).state = .composited) {w : Row} (hw : ((z.core c).ray o.ray).result = some w) :
    z.compRay c o = (z.ilWriteRow c o (some w)).ilWrite c o 0 := by
  unfold State.compRay
  dsimp only
  rw [hs]
  dsimp only
  rw [hw]
theorem readRay_free (hs : ((z.core c).ray o.ray).state = .free) :
    z.readRay c o = (z.ilWriteRow c o none).ilWrite c o (BitVec.allOnes 64) := if_pos hs
theorem readRay_entries (hs : ((z.core c).ray o.ray).state ≠ .free) : z.readRay c o =
    let es := (((z.core c).ray o.ray).entries.drop (2 * o.pair)).take 2
    (z.ilWriteRow c o (some (Row.ofLanes (fun i => (es.flatMap Answer.lanes).getD i 0)))).ilWrite c o (BitVec.ofNat 64 es.length) := if_neg hs
end

/-! Opening and freeing a slot (R269, R278). -/

section
variable {z : State} {c : Nat} {o : IlOp}

/-- What ILOPEN answers before it looks at an area. -/
def State.openRefusal (z : State) (c : Nat) (o : IlOp) : Nat :=
  if badOpen o.block then 1 else if ((z.core c).ray o.ray).state ≠ .free then 2
  else if (o.block.getD 3 0).toNat % 4 = 1 ∧ (z.core c).freeRanges = 0 then 3 else 0
/-- The area of a block, its size, and whether no list may spill there. -/
def IlOp.area (o : IlOp) : Word := (o.block.getD 5 0).setWidth 64 <<< 32 ||| (o.block.getD 4 0).setWidth 64
def IlOp.areaBytes (o : IlOp) : Nat := 32 * (o.block.getD 6 0).toNat
def State.noArea (z : State) (c : Nat) (o : IlOp) : Prop := spanClass o.area.toNat o.areaBytes = .none
  ∨ (spanClass o.area.toNat o.areaBytes = .loc ∧ ({ z.core c with csrs := o.prot }.protRefused o.user o.area.toNat o.areaBytes false true).isSome = true)

theorem openRay_refused (h : z.openRefusal c o ≠ 0) : z.openRay c o = (z, BitVec.ofNat 64 (z.openRefusal c o)) := by
  unfold State.openRefusal at h ⊢
  unfold State.openRay
  dsimp only
  split
  · rfl
  · next h1 =>
    rw [if_neg h1] at h
    split
    · rfl
    · next h2 =>
      rw [if_neg h2] at h
      split
      · rfl
      · next h3 =>
        rw [if_neg h3] at h
        exact absurd rfl h
theorem openRefusal_zero (h : z.openRefusal c o = 0) : ¬ badOpen o.block = true ∧ ¬ ((z.core c).ray o.ray).state ≠ .free
    ∧ ¬ ((o.block.getD 3 0).toNat % 4 = 1 ∧ (z.core c).freeRanges = 0) := by
  unfold State.openRefusal at h
  split at h
  · exact nomatch h
  · split at h
    · exact nomatch h
    · split at h
      · exact nomatch h
      · next h1 h2 h3 => exact ⟨h1, h2, h3⟩
theorem openRay_noArea (h : z.openRefusal c o = 0) (hm : (o.block.getD 3 0).toNat % 4 = 1) (hno : z.noArea c o) : z.openRay c o = (z, 4) := by
  obtain ⟨h1, h2, h3⟩ := openRefusal_zero h
  unfold State.openRay
  dsimp only
  rw [if_neg h1, if_neg h2, if_neg h3]
  exact if_pos ⟨hm, hno⟩

/-- The slot as ILOPEN opens it. -/
def openedSlot (c : Nat) (o : IlOp) (id : Nat) : RaySlot :=
  let w (i : Nat) : W32 := o.block.getD i 0
  let hi := (w 3).toNat
  { RaySlot.reset with
    state := .opened
    opener := ⟨c, o.slot⟩
    tmin := w 0
    tmax := w 1
    tauStop := stopDepth (w 2)
    mode := if hi % 4 = 1 then .spill else if hi % 4 = 2 then .trap else .collapse
    cen := hi / 2 ^ 13 % 2 == 1
    ctr := hi / 2 ^ 8 % 32
    area := if hi % 4 = 1 then o.area else 0
    cap := if hi % 4 = 1 then (w 6).toNat else 0
    rangeId := if hi % 4 = 1 then some id else none
    user := o.user }
theorem openRay_opens (h : z.openRefusal c o = 0) (hno : (o.block.getD 3 0).toNat % 4 = 1 → ¬ z.noArea c o) :
    (z.openRay c o).2 = 0 ∧ ((z.openRay c o).1.core c).ilQ = (z.core c).ilQ ∧ (z.openRay c o).1.thread ⟨c, o.slot⟩ = z.thread ⟨c, o.slot⟩
      ∧ ((z.openRay c o).1.core c).ray o.ray = openedSlot c o (8 + (z.core c).rangeNext)
      ∧ ((o.block.getD 3 0).toNat % 4 = 1 → ((z.openRay c o).1.core c).ranges
        = (z.core c).ranges ++ [⟨8 + (z.core c).rangeNext, true, o.area.toNat, o.area.toNat + o.areaBytes⟩]) := by
  obtain ⟨h1, h2, h3⟩ := openRefusal_zero h
  unfold State.openRay
  dsimp only
  rw [if_neg h1, if_neg h2, if_neg h3, if_neg fun hm => hno hm.1 hm.2]
  have hframe := rayFrame_updRay z c o.ray (fun _ => openedSlot c o (8 + (z.core c).rangeNext))
  have hray := ray_updRay z c o.ray (fun _ => openedSlot c o (8 + (z.core c).rangeNext))
  refine ⟨rfl, ?_⟩
  dsimp only
  by_cases hm : (o.block.getD 3 0).toNat % 4 = 1
  · rw [if_pos hm]
    change ((State.updCore (z.updRay c o.ray fun _ => openedSlot c o (8 + (z.core c).rangeNext)) c _).core c).ilQ = _ ∧
      ((State.updCore (z.updRay c o.ray fun _ => openedSlot c o (8 + (z.core c).rangeNext)) c _).core c).thread o.slot = _ ∧
      ((State.updCore (z.updRay c o.ray fun _ => openedSlot c o (8 + (z.core c).rangeNext)) c _).core c).ray o.ray = _ ∧
      (_ → ((State.updCore (z.updRay c o.ray fun _ => openedSlot c o (8 + (z.core c).rangeNext)) c _).core c).ranges = _)
    rw [State.core_updCore, if_pos rfl]
    exact ⟨hframe.ilQ, hframe.thread o.slot, hray, fun _ => congrArg (· ++ _) hframe.ranges⟩
  · rw [if_neg hm]
    exact ⟨hframe.ilQ, hframe.thread o.slot, hray, fun h => absurd h hm⟩

/-- A freed slot is as at reset, and its range released. -/
theorem freeRay_freed (z : State) (c n slot : Nat) : ((z.freeRay c n).core c).ilQ = (z.core c).ilQ
    ∧ (z.freeRay c n).thread ⟨c, slot⟩ = z.thread ⟨c, slot⟩ ∧ ((z.freeRay c n).core c).ray n = RaySlot.reset
    ∧ ∀ id, ((z.core c).ray n).rangeId = some id → ∀ x ∈ ((z.freeRay c n).core c).ranges, x.id ≠ id := by
  have hframe := rayFrame_updRay z c n (fun _ => RaySlot.reset)
  have hray := ray_updRay z c n (fun _ => RaySlot.reset)
  unfold State.freeRay
  dsimp only
  cases hid : ((z.core c).ray n).rangeId with
  | none => exact ⟨hframe.ilQ, hframe.thread slot, hray, fun _ h => nomatch h⟩
  | some id =>
    dsimp only
    change ((State.updCore _ c _).core c).ilQ = _ ∧ ((State.updCore _ c _).core c).thread slot = _ ∧ _ ∧ _
    rw [State.core_updCore, if_pos rfl]
    refine ⟨hframe.ilQ, hframe.thread slot, hray, fun id' h x hx => ?_⟩
    obtain rfl := Option.some.inj h
    simpa using (List.mem_filter.mp hx).2
end

end Sys2Proof.Machine
end

section
/-! SUPPORT. An arrival is applied to its ray slot (R279). -/

namespace Sys2Proof.Machine

open Sys2Proof Sys2Proof.Safety

theorem coreRest_arrivals {j k : Core} (h : coreRest j = coreRest k) : j.arrivals = k.arrivals := (congrArg Core.arrivals h :)

section
variable {s : State} {c n : Nat} {x : Answer}

/-- An arriving answer leaves the core, and the number of arrivals in its slot, as they are. -/
theorem insert_frame (s : State) (c n : Nat) (x : Answer) : RayFrame c s (s.insertAnswer c n x none).1
    ∧ (((s.insertAnswer c n x none).1.core c).ray n).arrivals = ((s.core c).ray n).arrivals := by
  cases hw : x.malformed with
  | true =>
    rw [insert_malformed hw]
    exact ⟨.refl c s, rfl⟩
  | false =>
    by_cases hout : ∀ y, x.clip ((s.core c).ray n).tmin ((s.core c).ray n).tmax = some y → f32Lt ((s.core c).ray n).cut y.tin = true
    · rw [insert_culled hw hout]
      exact ⟨(rayFrame_updRay ..).trans (rayFrame_hpm ..), by rw [ray_hpm, ray_updRay]⟩
    · push Not at hout
      obtain ⟨y, hc, hcut⟩ := hout
      rw [ne_eq, Bool.not_eq_true] at hcut
      cases hfind : ((s.core c).ray n).entries.find? (fun e => e.key == y.key) with
      | some e =>
        rw [insert_same hw hc hcut hfind]
        dsimp only
        exact ⟨rayFrame_updRay .., by rw [ray_updRay]⟩
      | none =>
        have hnew : ∀ e ∈ ((s.core c).ray n).entries, e.key ≠ y.key := fun e he hk =>
          List.find?_eq_none.mp hfind e he (beq_iff_eq.mpr hk)
        by_cases hroom : (((s.core c).ray n).taken y).1.entries.length ≤ 16
        · rw [insert_room hw hc hcut hnew hroom]
          exact ⟨((rayFrame_updRay ..).trans (rayFrame_hpm ..)).trans (rayFrame_hpm ..), by rw [ray_hpm, ray_hpm, ray_updRay]; rfl⟩
        · rw [not_le] at hroom
          by_cases hsp : ((s.core c).ray n).mode = .spill ∧ ((s.core c).ray n).spilledN < ((s.core c).ray n).cap
          · obtain ⟨t, ht, hframe, -, harr, -⟩ := insert_spills (op := none) hw hc hcut hnew hroom hsp.1 hsp.2
            rw [ht]
            exact ⟨hframe, harr⟩
          · obtain ⟨t, ht, hframe, -, harr, -⟩ := insert_collapses (op := none) hw hc hcut hnew hroom (fun h => Bool.noConfusion h.2) hsp
            rw [ht]
            exact ⟨hframe, harr⟩

/-- An arrival at a slot that is not FREE is counted, and bumps the slot's counter. -/
def State.arrived (s : State) (c n : Nat) (cen : Bool) (ctr : Nat) : State :=
  let s := s.updRay c n (fun r => { r with arrivals := r.arrivals + 1 })
  if cen then s.bumpCounter c ctr 1 else s

theorem arrived_counts (h : ∀ p ∈ s.ctxs, p.2.evWait = []) (n : Nat) (cen : Bool) (ctr : Nat) :
    let t := s.arrived c n cen ctr
    (t.core c).arrivals = (s.core c).arrivals ∧ (t.core c).ray n = { (s.core c).ray n with arrivals := ((s.core c).ray n).arrivals + 1 }
      ∧ (∀ k, (t.core c).counter k = if cen = true ∧ k = ctr then (s.core c).counter k + 1 else (s.core c).counter k)
      ∧ (cen = true → ∀ j, j < 11 → ((t.core c).thread j).latch = true) := by
  have hframe := rayFrame_updRay s c n (fun r => { r with arrivals := r.arrivals + 1 })
  have hray := ray_updRay s c n (fun r => { r with arrivals := r.arrivals + 1 })
  unfold State.arrived
  dsimp only
  cases cen with
  | false => exact ⟨hframe.arrivals, hray, fun k => (hframe.counter k).trans (if_neg fun h => Bool.noConfusion h.1).symm, fun h => nomatch h⟩
  | true =>
    have hquiet : ∀ p ∈ (s.updRay c n (fun r => { r with arrivals := r.arrivals + 1 })).ctxs,
        (s.updRay c n (fun r => { r with arrivals := r.arrivals + 1 })).serviceCore p.1 = some c → p.2.evWait = [] := fun p hp _ => h p hp
    rw [if_pos rfl]
    refine ⟨?_, ?_, fun k => ?_, fun _ j hj => ?_⟩
    · rw [core_bumpCounter hquiet, if_pos rfl]
      exact (coreRest_arrivals (latchAll_rest _)).trans hframe.arrivals
    · rw [core_bumpCounter hquiet, if_pos rfl, ray_of_rest (latchAll_rest _)]
      exact hray
    · rw [counter_bumpCounter hquiet, hframe.counter]
      by_cases hk : k = ctr
      · rw [if_pos hk, if_pos ⟨rfl, hk⟩]
      · rw [if_neg hk, if_neg fun h => hk h.2]
        exact BitVec.add_zero _
    · rw [bumpCounter_quiet hquiet]
      exact latchAll_latches _ c hj

theorem arrive_free (h : ((s.core c).ray n).state = .free) : s.arrive c n x = s := by
  unfold State.arrive
  dsimp only
  rw [h]
theorem arrive_composited (h : ((s.core c).ray n).state = .composited) : s.arrive c n x =
    (s.updRay c n (fun r => { r with late := true })).arrived c n ((s.core c).ray n).cen ((s.core c).ray n).ctr := by
  unfold State.arrive
  dsimp only
  rw [h]
  rfl
theorem arrive_opened (h : ((s.core c).ray n).state = .opened) : s.arrive c n x =
    (s.insertAnswer c n x none).1.arrived c n ((s.core c).ray n).cen ((s.core c).ray n).ctr := by
  unfold State.arrive
  dsimp only
  rw [h]
  rfl

/-- The arrival whose turn it is is taken. -/
def State.arrivalTaken (s : State) (c : Nat) (l : List Arrived) : State := s.updCore c (fun k => { k with arrivals := l, ilTurn := false })
theorem core_arrivalTaken (s : State) (c : Nat) (l : List Arrived) :
    (s.arrivalTaken c l).core c = { s.core c with arrivals := l, ilTurn := false } := by
  rw [State.arrivalTaken, State.core_updCore, if_pos rfl]
theorem exec_listArrival {m : Msg} {l : List Arrived} (h : (s.core c).arrivals = ⟨m, n, x⟩ :: l)
    (hturn : (s.core c).ilTurn = true ∨ (s.core c).ilReady = false) :
    exec (.listArrival c) s = .next ((s.arrivalTaken c l).arrive c n x) := by
  have hgo : ¬ (!(s.core c).ilTurn && (s.core c).ilReady) = true := by
    rcases hturn with ht | hr
    · rw [ht]
      exact Bool.false_ne_true
    · rw [hr, Bool.and_false]
      exact Bool.false_ne_true
  refine congrArg Host.Outcome.next ((if_neg hgo).trans ?_)
  unfold State.arrivalStep
  rw [h]
  rfl
end

end Sys2Proof.Machine
end

section
/-! SUPPORT. The list engine's operations, kind by kind (R268-R278, R284). -/

namespace Sys2Proof.Machine

open Sys2Proof Sys2Proof.Safety

/-! The list engine's turn, operation by operation. -/

/-- It is the turn of operation `o`, taken from the queue of a core that reads `u` before it; the rest of the queue is `q`. -/
structure ListTurn (s : State) (c : Nat) (o : IlOp) (q : List IlOp) (u : Core) (z : State) : Prop where
  exec : exec (.listEngineOperation c) s = .next (z.ilPerform c o)
  core : z.core c = { u with ilQ := q, ilTurn := true }
  alive : z.ilAlive c o = true
  row : o.row < 128

/-- The rows of the operation's thread, of which only the one that the operation names may have been written. -/
def ListRows (t : State) (c : Nat) (o : IlOp) (y : Thread) (f : Option (Nat → W32)) : Prop := ∀ n i, n < 128 → i < 16 →
  (((t.core c).thread o.slot).row n).lane i = match f with
    | none => (y.row n).lane i
    | some g => if n = o.row then g i else (y.row n).lane i
/-- The operation traps its thread, and leaves the ray slot as `ray`. -/
def ListTraps (s : State) (c : Nat) (o : IlOp) (y : Thread) (cause : Nat) (v : Word) (ray : RaySlot) : Prop :=
  ∃ z : State, exec (.listEngineOperation c) s = .next (z.byEngine ⟨c, o.slot⟩ (·.trapAt ⟨c, o.slot⟩ cause v))
    ∧ (z.core c).ray o.ray = ray ∧ z.thread ⟨c, o.slot⟩ = y

theorem alive_of_thread {z t : State} {c : Nat} {o : IlOp} (h : t.thread ⟨c, o.slot⟩ = z.thread ⟨c, o.slot⟩) : t.ilAlive c o = z.ilAlive c o := by
  unfold State.ilAlive
  rw [show (t.core c).thread o.slot = (z.core c).thread o.slot from h]

section
variable {s z z' : State} {c : Nat} {o : IlOp} {q : List IlOp} {u : Core} (h : ListTurn s c o q u z)
include h

theorem ListTurn.ilQ : (z.core c).ilQ = q := by rw [h.core]
theorem ListTurn.thread : z.thread ⟨c, o.slot⟩ = u.thread o.slot := by
  rw [State.thread, h.core]
  rfl
theorem ListTurn.ray : (z.core c).ray o.ray = u.ray o.ray := by
  rw [h.core]
  rfl

/-- An operation of a kind that awaits no row. -/
theorem ListTurn.writes {v : Word} (hk : ¬ (o.kind = .comp ∨ o.kind = .read)) (hperf : z.ilPerform c o = z'.ilWrite c o v)
    (hq : (z'.core c).ilQ = (z.core c).ilQ) (hthread : z'.thread ⟨c, o.slot⟩ = z.thread ⟨c, o.slot⟩) :
    ∃ t, ListGave s t c o q (u.thread o.slot) v ∧ ListRows t c o (u.thread o.slot) none
      ∧ (t.core c).ray o.ray = (z'.core c).ray o.ray ∧ (t.core c).ranges = (z'.core c).ranges := by
  obtain ⟨hgave, hray, hranges, hrows⟩ := gave_register (h.exec.trans (congrArg Host.Outcome.next hperf)) (hq.trans h.ilQ) (hthread.trans h.thread)
    ((alive_of_thread hthread).trans h.alive) hk
  exact ⟨_, hgave, hrows, hray o.ray, hranges⟩
/-- One that writes nothing but its register. -/
theorem ListTurn.answers {v : Word} (hk : ¬ (o.kind = .comp ∨ o.kind = .read)) (hperf : z.ilPerform c o = z.ilWrite c o v) :
    ∃ t, ListGave s t c o q (u.thread o.slot) v ∧ (t.core c).ray o.ray = u.ray o.ray ∧ ListRows t c o (u.thread o.slot) none := by
  obtain ⟨t, hgave, hrows, hray, -⟩ := h.writes hk hperf rfl rfl
  exact ⟨t, hgave, hray.trans h.ray, hrows⟩
/-- An operation of a kind that awaits a row. -/
theorem ListTurn.writesRow {v : Word} {w : Option Row} (hk : o.kind = .comp ∨ o.kind = .read) (hframe : RayFrame c z z')
    (hperf : z.ilPerform c o = (z'.ilWriteRow c o w).ilWrite c o v) :
    ∃ t, ListGave s t c o q (u.thread o.slot) v ∧ (t.core c).ray o.ray = (z'.core c).ray o.ray
      ∧ ListRows t c o (u.thread o.slot) (w.map Row.lane) := by
  obtain ⟨hgave, hray, hrows⟩ := gave_row (h.exec.trans (congrArg Host.Outcome.next hperf)) (hframe.ilQ.trans h.ilQ)
    ((hframe.thread o.slot).trans h.thread) ((hframe.alive o).trans h.alive) h.row hk
  refine ⟨_, hgave, hray o.ray, fun n i hn hi => ?_⟩
  rw [hrows n i hn hi]
  cases w <;> rfl

/-! ILCUT, ILSTAT, ILOPEN. -/

theorem ListTurn.cut (hk : o.kind = .cut) : ∃ t,
    ListGave s t c o q (u.thread o.slot) (if (u.ray o.ray).state = .free then BitVec.allOnes 64 else (u.ray o.ray).cut.setWidth 64)
      ∧ (t.core c).ray o.ray = u.ray o.ray ∧ ListRows t c o (u.thread o.slot) none := by
  have hperf := ilPerform_cut (z := z) (c := c) hk
  rw [h.ray] at hperf
  exact h.answers (by rw [hk]; decide) hperf
theorem ListTurn.stat (hk : o.kind = .stat) : ∃ t, ListGave s t c o q (u.thread o.slot) (u.ray o.ray).statWord
      ∧ (t.core c).ray o.ray = u.ray o.ray ∧ ListRows t c o (u.thread o.slot) none := by
  have hperf := ilPerform_stat (z := z) (c := c) hk
  rw [h.ray] at hperf
  exact h.answers (by rw [hk]; decide) hperf
theorem ListTurn.openRefused (hk : o.kind = .opn) (href : z.openRefusal c o ≠ 0) :
    ∃ t, ListGave s t c o q (u.thread o.slot) (BitVec.ofNat 64 (z.openRefusal c o))
      ∧ (t.core c).ray o.ray = u.ray o.ray ∧ ListRows t c o (u.thread o.slot) none :=
  h.answers (by rw [hk]; decide) (by rw [ilPerform_opn hk, openRay_refused href])
theorem ListTurn.openNoArea (hk : o.kind = .opn) (href : z.openRefusal c o = 0) (hm : (o.block.getD 3 0).toNat % 4 = 1) (hno : z.noArea c o) :
    ∃ t, ListGave s t c o q (u.thread o.slot) 4 ∧ (t.core c).ray o.ray = u.ray o.ray ∧ ListRows t c o (u.thread o.slot) none :=
  h.answers (by rw [hk]; decide) (by rw [ilPerform_opn hk, openRay_noArea href hm hno])
theorem ListTurn.opens (hk : o.kind = .opn) (href : z.openRefusal c o = 0) (hno : (o.block.getD 3 0).toNat % 4 = 1 → ¬ z.noArea c o) :
    ∃ t, ListGave s t c o q (u.thread o.slot) 0 ∧ ListRows t c o (u.thread o.slot) none
      ∧ (t.core c).ray o.ray = openedSlot c o (8 + u.rangeNext)
      ∧ ((o.block.getD 3 0).toNat % 4 = 1 → (t.core c).ranges
        = u.ranges ++ [⟨8 + u.rangeNext, true, o.area.toNat, o.area.toNat + o.areaBytes⟩]) := by
  obtain ⟨hv, hq, hthread, hray, hranges⟩ := openRay_opens href hno
  obtain ⟨t, hgave, hrows, hslot, hr⟩ := h.writes (by rw [hk]; decide) (ilPerform_opn hk) hq hthread
  rw [hv] at hgave
  rw [h.core] at hray hranges
  exact ⟨t, hgave, hrows, hslot.trans hray, fun hm => hr.trans (hranges hm)⟩

/-! ILINS. -/

theorem ListTurn.insClosed (hk : o.kind = .ins) (hs : (u.ray o.ray).state ≠ .opened) :
    ∃ t, ListGave s t c o q (u.thread o.slot) 6 ∧ (t.core c).ray o.ray = u.ray o.ray ∧ ListRows t c o (u.thread o.slot) none :=
  h.answers (by rw [hk]; decide) (ilPerform_ins_closed hk (by rwa [h.ray]))
/-- What the insertion answers is the operation's, and its slot the insertion's. -/
theorem ListTurn.inserts (hk : o.kind = .ins) (hs : (u.ray o.ray).state = .opened) {n : Nat} (hframe : RayFrame c z z')
    (hi : z.insertAnswer c o.ray (Answer.ofLanes o.block) (some (o.slot, o.serial)) = (z', .status n)) :
    ∃ t, ListGave s t c o q (u.thread o.slot) (BitVec.ofNat 64 n) ∧ ListRows t c o (u.thread o.slot) none
      ∧ (t.core c).ray o.ray = (z'.core c).ray o.ray := by
  obtain ⟨t, hgave, hrows, hray, -⟩ := h.writes (by rw [hk]; decide) (ilPerform_ins_status hk (by rwa [h.ray]) hi) hframe.ilQ (hframe.thread o.slot)
  exact ⟨t, hgave, hrows, hray⟩
theorem ListTurn.insTraps (hk : o.kind = .ins) (hs : (u.ray o.ray).state = .opened)
    (hi : z.insertAnswer c o.ray (Answer.ofLanes o.block) (some (o.slot, o.serial)) = (z.hpm c 0x10 1, .ovf)) :
    ListTraps s c o (u.thread o.slot) 13 (BitVec.ofNat 64 o.ray) (u.ray o.ray) := by
  have hframe := rayFrame_hpm z c 0x10 1
  exact ⟨_, h.exec.trans (congrArg Host.Outcome.next (ilPerform_ins_traps hk (by rwa [h.ray]) ((hframe.alive o).trans h.alive) hi)),
    (ray_hpm ..).trans h.ray, (hframe.thread o.slot).trans h.thread⟩

/-! ILCOMP, ILREAD, ILCLOSE. -/

theorem ListTurn.compFree (hk : o.kind = .comp) (hs : (u.ray o.ray).state = .free) :
    ∃ t, ListGave s t c o q (u.thread o.slot) 1 ∧ (t.core c).ray o.ray = u.ray o.ray ∧ ListRows t c o (u.thread o.slot) none := by
  obtain ⟨t, hgave, hray, hrows⟩ := h.writesRow (.inl hk) (.refl c z) ((ilPerform_comp hk).trans (compRay_free (by rwa [h.ray])))
  exact ⟨t, hgave, hray.trans h.ray, hrows⟩
theorem ListTurn.comp (hk : o.kind = .comp) (hs : (u.ray o.ray).state = .opened) : let r := u.ray o.ray; let x := composite r.entries
    ∃ t, ListGave s t c o q (u.thread o.slot) 0 ∧ ListRows t c o (u.thread o.slot) (some (r.resultRow x).lane)
      ∧ (t.core c).ray o.ray = { r with state := .composited, result := some (r.resultRow x), mixed := x.mixed } := by
  obtain ⟨t, hgave, hray, hrows⟩ := h.writesRow (.inl hk) (rayFrame_updRay ..) ((ilPerform_comp hk).trans (compRay_opened (by rwa [h.ray])))
  rw [ray_updRay, h.ray] at hray
  rw [h.ray] at hrows
  exact ⟨t, hgave, hrows, hray⟩
theorem ListTurn.compAgain (hk : o.kind = .comp) {w : Row} (hs : (u.ray o.ray).state = .composited) (hw : (u.ray o.ray).result = some w) :
    ∃ t, ListGave s t c o q (u.thread o.slot) 0 ∧ ListRows t c o (u.thread o.slot) (some w.lane) ∧ (t.core c).ray o.ray = u.ray o.ray := by
  obtain ⟨t, hgave, hray, hrows⟩ := h.writesRow (.inl hk) (.refl c z)
    ((ilPerform_comp hk).trans (compRay_composited (by rwa [h.ray]) (by rwa [h.ray])))
  exact ⟨t, hgave, hrows, hray.trans h.ray⟩
theorem ListTurn.readFree (hk : o.kind = .read) (hs : (u.ray o.ray).state = .free) :
    ∃ t, ListGave s t c o q (u.thread o.slot) (BitVec.allOnes 64) ∧ (t.core c).ray o.ray = u.ray o.ray ∧ ListRows t c o (u.thread o.slot) none := by
  obtain ⟨t, hgave, hray, hrows⟩ := h.writesRow (.inr hk) (.refl c z) ((ilPerform_read hk).trans (readRay_free (by rwa [h.ray])))
  exact ⟨t, hgave, hray.trans h.ray, hrows⟩
theorem ListTurn.read (hk : o.kind = .read) (hs : (u.ray o.ray).state ≠ .free) : let es := ((u.ray o.ray).entries.drop (2 * o.pair)).take 2
    ∃ t, ListGave s t c o q (u.thread o.slot) (BitVec.ofNat 64 es.length) ∧ (t.core c).ray o.ray = u.ray o.ray
      ∧ ListRows t c o (u.thread o.slot) (some (fun i => (es.flatMap Answer.lanes).getD i 0)) := by
  have hperf := (ilPerform_read hk).trans (readRay_entries (z := z) (c := c) (by rwa [h.ray]))
  rw [h.ray] at hperf
  obtain ⟨t, hgave, hray, hrows⟩ := h.writesRow (.inr hk) (.refl c z) hperf
  refine ⟨t, hgave, hray.trans h.ray, fun n i hn hi => (hrows n i hn hi).trans ?_⟩
  exact if_congr Iff.rfl (Row.lane_ofLanes _ _ hi) rfl
theorem ListTurn.closeFree (hk : o.kind = .close) (hs : (u.ray o.ray).state = .free) :
    ∃ t, ListGave s t c o q (u.thread o.slot) 1 ∧ (t.core c).ray o.ray = u.ray o.ray ∧ ListRows t c o (u.thread o.slot) none :=
  h.answers (by rw [hk]; decide) (ilPerform_close_free hk (by rwa [h.ray]))
theorem ListTurn.close (hk : o.kind = .close) (hs : (u.ray o.ray).state ≠ .free) (hw : (u.ray o.ray).wfail = none) :
    ∃ t, ListGave s t c o q (u.thread o.slot) 0 ∧ (t.core c).ray o.ray = RaySlot.reset ∧ ListRows t c o (u.thread o.slot) none
      ∧ ∀ id, (u.ray o.ray).rangeId = some id → ∀ x ∈ (t.core c).ranges, x.id ≠ id := by
  obtain ⟨hq, hthread, hray, hranges⟩ := freeRay_freed z c o.ray o.slot
  obtain ⟨t, hgave, hrows, hslot, hr⟩ := h.writes (by rw [hk]; decide) (ilPerform_close_done hk (by rwa [h.ray]) (by rwa [h.ray])) hq hthread
  rw [h.ray] at hranges
  exact ⟨t, hgave, hslot.trans hray, hrows, fun id hid => hr ▸ hranges id hid⟩
theorem ListTurn.closeTraps (hk : o.kind = .close) {e : Nat} {v : Word} (hs : (u.ray o.ray).state ≠ .free) (hw : (u.ray o.ray).wfail = some (e, v)) :
    ListTraps s c o (u.thread o.slot) e v { u.ray o.ray with wfail := none } := by
  refine ⟨_, h.exec.trans (congrArg Host.Outcome.next (ilPerform_close_traps hk (by rwa [h.ray]) (by rwa [h.ray]) h.alive)), ?_,
    ((rayFrame_updRay ..).thread o.slot).trans h.thread⟩
  rw [ray_updRay, h.ray]
end

end Sys2Proof.Machine
end

section
/-! O35 ListInstructions: inserts, arrivals, and the statement (R267-R279, R284). -/

namespace Sys2Proof.Machine

open Sys2Proof Sys2Proof.Safety

theorem listTurn {s : State} {c : Nat} {o : IlOp} {q : List IlOp} (hq : ((s.spillAll c).core c).ilQ = o :: q)
    (hr : ((s.spillAll c).core c).ilReady = true)
    (ht : ((s.spillAll c).core c).ilTurn = true → ((s.spillAll c).core c).arrivals = []) (ha : (s.spillAll c).ilAlive c o = true)
    (hrow : o.row < 128) : ListTurn s c o q ((s.spillAll c).core c) (s.ilTaken c q) := by
  refine ⟨exec_listEngine hq hr ht, core_ilTaken s c q, (alive_of_thread ?_).trans ha, hrow⟩
  rw [State.thread, core_ilTaken]
  rfl

/-! An answer is inserted by ILINS, or arrives. -/

section
variable {s z : State} {c : Nat} {o : IlOp} {q : List IlOp} {u : Core} (h : ListTurn s c o q u z)
include h

theorem ListTurn.insMalformed (hk : o.kind = .ins) (hs : (u.ray o.ray).state = .opened) (hw : (Answer.ofLanes o.block).malformed = true) :
    ∃ t, ListGave s t c o q (u.thread o.slot) 2 ∧ (t.core c).ray o.ray = u.ray o.ray ∧ ListRows t c o (u.thread o.slot) none := by
  obtain ⟨t, hgave, hrows, hray⟩ := h.inserts hk hs (.refl c z) (insert_malformed hw)
  exact ⟨t, hgave, hray.trans h.ray, hrows⟩
variable (hk : o.kind = .ins) (hs : (u.ray o.ray).state = .opened) (hw : (Answer.ofLanes o.block).malformed = false)
include hk hs hw
theorem ListTurn.insCulled (hout : ∀ y, (Answer.ofLanes o.block).clip (u.ray o.ray).tmin (u.ray o.ray).tmax = some y →
      f32Lt (u.ray o.ray).cut y.tin = true) :
    ∃ t, ListGave s t c o q (u.thread o.slot) 1 ∧ (t.core c).ray o.ray = { u.ray o.ray with culled := (u.ray o.ray).culled + 1 }
      ∧ ListRows t c o (u.thread o.slot) none := by
  obtain ⟨t, hgave, hrows, hray⟩ := h.inserts hk hs ((rayFrame_updRay ..).trans (rayFrame_hpm ..)) (insert_culled hw (by rwa [h.ray]))
  rw [ray_hpm, ray_updRay, h.ray] at hray
  exact ⟨t, hgave, hray, hrows⟩
variable {y : Answer} (hc : (Answer.ofLanes o.block).clip (u.ray o.ray).tmin (u.ray o.ray).tmax = some y)
  (hcut : f32Lt (u.ray o.ray).cut y.tin = false)
include hc hcut
theorem ListTurn.insSame {e : Answer} (hfind : (u.ray o.ray).entries.find? (fun e => e.key == y.key) = some e) :
    ∃ t, ListGave s t c o q (u.thread o.slot) 3 ∧ ListRows t c o (u.thread o.slot) none ∧ (t.core c).ray o.ray =
      { u.ray o.ray with conflict := (u.ray o.ray).conflict || (e.tau != y.tau || e.gr != y.gr || e.cb != y.cb || e.fk != y.fk) } := by
  obtain ⟨t, hgave, hrows, hray⟩ := h.inserts hk hs (rayFrame_updRay ..) (insert_same hw (by rwa [h.ray]) (by rwa [h.ray]) (by rwa [h.ray]))
  rw [ray_updRay, h.ray] at hray
  exact ⟨t, hgave, hrows, hray⟩
variable (hnew : ∀ e ∈ (u.ray o.ray).entries, e.key ≠ y.key)
include hnew
theorem ListTurn.insRoom (hroom : ((u.ray o.ray).taken y).1.entries.length ≤ 16) :
    ∃ t, ListGave s t c o q (u.thread o.slot) 0 ∧ ListRows t c o (u.thread o.slot) none
      ∧ (t.core c).ray o.ray = { ((u.ray o.ray).taken y).1 with inserted := ((u.ray o.ray).taken y).1.inserted + 1 } := by
  obtain ⟨t, hgave, hrows, hray⟩ := h.inserts hk hs (((rayFrame_updRay ..).trans (rayFrame_hpm ..)).trans (rayFrame_hpm ..))
    (insert_room hw (by rwa [h.ray]) (by rwa [h.ray]) (by rwa [h.ray]) (by rwa [h.ray]))
  rw [ray_hpm, ray_hpm, ray_updRay, h.ray] at hray
  exact ⟨t, hgave, hrows, hray⟩
variable (hfull : 16 < ((u.ray o.ray).taken y).1.entries.length)
include hfull
theorem ListTurn.insOverflows (hm : (u.ray o.ray).mode = .trap) :
    ListTraps s c o (u.thread o.slot) 13 (BitVec.ofNat 64 o.ray) (u.ray o.ray) :=
  h.insTraps hk hs (insert_traps hw (by rwa [h.ray]) (by rwa [h.ray]) (by rwa [h.ray]) (by rwa [h.ray]) (by rwa [h.ray]) rfl)
theorem ListTurn.insCollapses (hm : (u.ray o.ray).mode = .collapse ∨ ((u.ray o.ray).mode = .spill ∧ (u.ray o.ray).cap ≤ (u.ray o.ray).spilledN)) :
    ∃ t, ListGave s t c o q (u.thread o.slot) 4 ∧ ListRows t c o (u.thread o.slot) none
      ∧ ((t.core c).ray o.ray).lossy = true ∧ ((t.core c).ray o.ray).inserted = (u.ray o.ray).inserted + 1 := by
  have htrap : ¬ (u.ray o.ray).mode = .trap := by
    rcases hm with hm | ⟨hm, -⟩ <;> rw [hm] <;> decide
  have hsp : ¬ ((u.ray o.ray).mode = .spill ∧ (u.ray o.ray).spilledN < (u.ray o.ray).cap) := by
    rintro ⟨hmode, hcap⟩
    rcases hm with hm | ⟨-, hm⟩
    · exact OvfMode.noConfusion (hm.symm.trans hmode)
    · exact Nat.not_lt.mpr hm hcap
  obtain ⟨z', hi, hframe, hin, -, hlossy, -⟩ := insert_collapses (s := z) (c := c) (op := some (o.slot, o.serial)) hw (by rwa [h.ray]) (by rwa [h.ray])
    (by rwa [h.ray]) (by rwa [h.ray]) (fun hno => htrap (h.ray ▸ hno.1)) (by rwa [h.ray])
  obtain ⟨t, hgave, hrows, hray⟩ := h.inserts hk hs hframe hi
  rw [h.ray] at hin
  exact ⟨t, hgave, hrows, hray ▸ hlossy, hray ▸ hin⟩
theorem ListTurn.insSpills (hm : (u.ray o.ray).mode = .spill) (hcap : (u.ray o.ray).spilledN < (u.ray o.ray).cap) :
    ∃ t, ListGave s t c o q (u.thread o.slot) 5 ∧ ListRows t c o (u.thread o.slot) none
      ∧ ((t.core c).ray o.ray).spilledF = true ∧ ((t.core c).ray o.ray).spilledN = (u.ray o.ray).spilledN + 1
      ∧ ((t.core c).ray o.ray).inserted = (u.ray o.ray).inserted + 1 := by
  obtain ⟨z', hi, hframe, hin, -, hf, hn⟩ := insert_spills (s := z) (c := c) (op := some (o.slot, o.serial)) hw (by rwa [h.ray]) (by rwa [h.ray])
    (by rwa [h.ray]) (by rwa [h.ray]) (by rwa [h.ray]) (by rwa [h.ray])
  obtain ⟨t, hgave, hrows, hray⟩ := h.inserts hk hs hframe hi
  rw [h.ray] at hin hn
  exact ⟨t, hgave, hrows, hray ▸ hf, hray ▸ hn, hray ▸ hin⟩
end

/-- What an arrival does to its slot, by the slot's state. -/
theorem listArrival_applied {s : State} {c n : Nat} {x : Answer} {m : Msg} {l : List Arrived} (h : (s.core c).arrivals = ⟨m, n, x⟩ :: l)
    (hturn : (s.core c).ilTurn = true ∨ (s.core c).ilReady = false) (hwait : ∀ p ∈ s.ctxs, p.2.evWait = []) :
    let r := (s.core c).ray n
    ∃ t, exec (.listArrival c) s = .next t ∧ (t.core c).arrivals = l
        ∧ (r.state = .free → (t.core c).ray n = r ∧ ∀ k, (t.core c).counter k = (s.core c).counter k)
        ∧ (r.state ≠ .free → ((t.core c).ray n).arrivals = r.arrivals + 1
          ∧ (∀ k, (t.core c).counter k = if r.cen = true ∧ k = r.ctr then (s.core c).counter k + 1 else (s.core c).counter k)
          ∧ (r.cen = true → ∀ j, j < 11 → ((t.core c).thread j).latch = true))
        ∧ (r.state = .composited → (t.core c).ray n = { r with late := true, arrivals := r.arrivals + 1 })
        ∧ (r.state = .opened →
          (t.core c).ray n = { ((((s.arrivalTaken c l).insertAnswer c n x none).1).core c).ray n with arrivals := r.arrivals + 1 }) := by
  dsimp only
  have hcore := core_arrivalTaken s c l
  have hl : ((s.arrivalTaken c l).core c).arrivals = l := by rw [hcore]
  have hr : ((s.arrivalTaken c l).core c).ray n = (s.core c).ray n := by
    rw [hcore]
    rfl
  have hk (k : Nat) : ((s.arrivalTaken c l).core c).counter k = (s.core c).counter k := by
    rw [hcore]
    rfl
  refine ⟨_, exec_listArrival h hturn, ?_⟩
  cases hs : ((s.core c).ray n).state with
  | free =>
    rw [arrive_free (by rwa [hr])]
    exact ⟨hl, fun _ => ⟨hr, hk⟩, fun h => absurd rfl h, (fun h => nomatch h), (fun h => nomatch h)⟩
  | composited =>
    rw [arrive_composited (by rwa [hr]), hr]
    have hframe := rayFrame_updRay (s.arrivalTaken c l) c n (fun r => { r with late := true })
    obtain ⟨harr, hray, hcount, hlatch⟩ := arrived_counts (s := (s.arrivalTaken c l).updRay c n (fun r => { r with late := true })) (c := c)
      hwait n ((s.core c).ray n).cen ((s.core c).ray n).ctr
    rw [ray_updRay, hr] at hray
    dsimp only at hray
    rw [hs] at hray
    refine ⟨harr.trans (hframe.arrivals.trans hl), (fun h => nomatch h), fun _ => ⟨by rw [hray], fun k => ?_, hlatch⟩, fun _ => hray, (fun h => nomatch h)⟩
    rw [hcount, hframe.counter, hk]
  | opened =>
    rw [arrive_opened (by rwa [hr]), hr]
    obtain ⟨hframe, hsame⟩ := insert_frame (s.arrivalTaken c l) c n x
    have hquiet : ∀ p ∈ ((s.arrivalTaken c l).insertAnswer c n x none).1.ctxs, p.2.evWait = [] := by
      rw [hframe.ctxs]
      exact hwait
    obtain ⟨harr, hray, hcount, hlatch⟩ := arrived_counts (c := c) hquiet n ((s.core c).ray n).cen ((s.core c).ray n).ctr
    rw [hsame, hr] at hray
    refine ⟨harr.trans (hframe.arrivals.trans hl), (fun h => nomatch h), fun _ => ⟨by rw [hray], fun k => ?_, hlatch⟩, (fun h => nomatch h), fun _ => hray⟩
    rw [hcount, hframe.counter, hk]

/-! The parts of the statement. -/

/-- With room in the queue, each IL instruction is accepted. -/
theorem il_accepted (d a b : Reg) (s : State) (ha : bits (s.reg a) 63 6 = 0) (hq : s.myCore.ilQ.length < 3) :
    let n := bits (s.reg a) 5 0
    let goes := fun (i : Instr) (k : IlKind) (l : List W32) (row : Option Nat) (pair : Nat) =>
      ∃ t, exec i s = .next t ∧ WentOn (s.ilAwaited k d n l row pair) t
    goes (.ilcut d a) .cut [] none 0 ∧ goes (.ilstat d a) .stat [] none 0
      ∧ (bits (s.reg b) 63 7 = 0 → goes (.ilcomp d a b) .comp [] (some (s.reg b).toNat) 0)
      ∧ (bits (s.reg b) 63 10 = 0 → goes (.ilread d a b) .read [] (some (bits (s.reg b) 6 0)) (bits (s.reg b) 9 7))
      ∧ (Fresh s → s.myCore.mayBeMode n .spill 1 = false → goes (.ilclose d a) .close [] none 0)
      ∧ ∀ bs, ReadsLocal s (s.reg b) 32 32 bs →
        goes (.ilopen d a b) .opn (ilWords bs) none 0
          ∧ (Fresh s → s.myCore.mayBeMode n .trap 2 = false → goes (.ilins d a b) .ins (ilWords bs) none 0) := by
  dsimp only
  have hgo {i : Instr} {k : IlKind} {n : Nat} {l : List W32} {row : Option Nat} {pair : Nat} (h : exec i s = .next (s.ilGo k d n l row pair)) :
      ∃ t, exec i s = .next t ∧ WentOn (s.ilAwaited k d n l row pair) t :=
    ⟨_, h.trans (congrArg Host.Outcome.next (ilGo_eq ..)), State.advance_wrote _⟩
  exact ⟨hgo (exec_ilcut ha hq), hgo (exec_ilstat ha hq), fun hb => hgo (exec_ilcomp ha hq hb), fun hb => hgo (exec_ilread ha hq hb),
    fun hf hm => hgo (exec_ilclose ha hq hf hm), fun bs hb => ⟨hgo (exec_ilopen ha hq hb), fun hf hm => hgo (exec_ilins ha hq hb hf hm)⟩⟩

/-- The slot that ILOPEN opened reads what its block gives. -/
theorem openedSlot_reads (c : Nat) (o : IlOp) (id : Nat) :
    let r := openedSlot c o id
    let w := fun (i : Nat) => o.block.getD i 0
    let hi := (w 3).toNat
    r.state = .opened ∧ r.entries = [] ∧ r.cut = 0x7F800000 ∧ r.tmin = w 0 ∧ r.tmax = w 1
      ∧ r.tauStop = stopDepth (w 2) ∧ r.inserted = 0 ∧ r.culled = 0 ∧ r.arrivals = 0
      ∧ r.mode = (if hi % 4 = 1 then .spill else if hi % 4 = 2 then .trap else .collapse)
      ∧ r.cen = decide (hi / 2 ^ 13 % 2 = 1) ∧ r.ctr = hi / 2 ^ 8 % 32
      ∧ (hi % 4 = 1 → r.area = o.area ∧ r.cap = (w 6).toNat) :=
  ⟨rfl, rfl, rfl, rfl, rfl, rfl, rfl, rfl, rfl, rfl, rfl, rfl, fun h => ⟨if_pos h, if_pos h⟩⟩

/-- Settles O35: the instructions by `il_accepted`, the engine by the operation's kind, an arrival by the state of its slot. -/
theorem listInstructions : Obligations.ListInstructions := by
  refine ⟨fun d a b s ha hq => ?_, fun d a b s bs ha hb hv ht => ?_, fun c o q s hq hr ht ha hrow => ?_, fun c m n x l s h hturn hwait => ?_,
    ⟨?_, ?_, ?_⟩, fun e h => ?_, fun a b => ?_⟩
  · obtain ⟨hcut, hstat, hcomp, hread, hclose, hblock⟩ := il_accepted d a b s ha hq
    refine ⟨hcut, hstat, hcomp, hread, hclose, fun bs hb => ?_⟩
    rw [← ilWords_eq]
    exact hblock bs hb
  · rw [← ilWords_eq]
    exact ⟨_, exec_ilsend ha hb hv ht, State.put_wrote ..⟩
  · have h := listTurn hq hr ht ha hrow
    have hrefusal : (s.ilTaken c q).openRefusal c o = (if badOpen o.block then 1 else if (((s.spillAll c).core c).ray o.ray).state ≠ .free then 2
        else if (o.block.getD 3 0).toNat % 4 = 1 ∧ ((s.spillAll c).core c).freeRanges = 0 then 3 else 0) := by
      rw [State.openRefusal, h.core]
      rfl
    have hno : (s.ilTaken c q).noArea c o = (spanClass o.area.toNat o.areaBytes = .none ∨ (spanClass o.area.toNat o.areaBytes = .loc
        ∧ ({ (s.spillAll c).core c with csrs := o.prot }.protRefused o.user o.area.toNat o.areaBytes false true).isSome = true)) := by
      rw [State.noArea, h.core]
      rfl
    refine ⟨h.cut, h.stat, fun hk => ⟨fun href => ?_, fun href hm harea => ?_, fun href harea => ?_⟩, fun hk => ?_, fun hk => ?_, fun hk => ?_,
      fun hk => ⟨h.closeFree hk, h.close hk, fun e v => h.closeTraps hk⟩⟩
    · have := h.openRefused hk (hrefusal ▸ href)
      rw [hrefusal] at this
      exact this
    · exact h.openNoArea hk (hrefusal.trans href) hm (hno ▸ harea)
    · obtain ⟨t, hgave, hrows, hslot, hranges⟩ := h.opens hk (hrefusal.trans href) (hno ▸ harea)
      obtain ⟨h1, h2, h3, h4, h5, h6, h7, h8, h9, h10, h11, h12, h13⟩ := openedSlot_reads c o (8 + ((s.spillAll c).core c).rangeNext)
      rw [← hslot] at h1 h2 h3 h4 h5 h6 h7 h8 h9 h10 h11 h12 h13
      exact ⟨t, hgave, hrows, h1, h2, h3, h4, h5, h6, h7, h8, h9, h10, h11, h12, fun hm => ⟨(h13 hm).1, (h13 hm).2, _, hranges hm⟩⟩
    · refine ⟨h.insClosed hk, h.insMalformed hk, fun hs hw hout => ?_, fun x hs hw hc hcut => ⟨fun e hfind => h.insSame hk hs hw hc hcut hfind,
        fun hnew => ⟨h.insRoom hk hs hw hc hcut hnew, h.insOverflows hk hs hw hc hcut hnew, h.insCollapses hk hs hw hc hcut hnew,
          h.insSpills hk hs hw hc hcut hnew⟩⟩⟩
      exact h.insCulled hk hs hw hout
    · exact ⟨h.compFree hk, h.comp hk, fun w => h.compAgain hk⟩
    · exact ⟨h.readFree hk, h.read hk⟩
  · obtain ⟨t, hexec, harr, hfree, hcount, hcomp, hopen⟩ := listArrival_applied h hturn hwait
    refine ⟨t, hexec, harr, hfree, hcount, hcomp, fun hs => ?_⟩
    have hray := hopen hs
    have hr : ((s.arrivalTaken c l).core c).ray n = (s.core c).ray n := by
      rw [core_arrivalTaken]
      rfl
    refine ⟨fun hw => ?_, fun hw hc => ?_, fun y hw hc hcut hnew => ⟨fun hroom => ?_, fun hfull hm => ?_⟩⟩
    · rw [insert_malformed hw, hr] at hray
      exact hray
    · rw [insert_culled hw (by rw [hr, hc]; exact fun y hy => nomatch hy)] at hray
      dsimp only at hray
      rw [ray_hpm, ray_updRay, hr] at hray
      exact hray
    · rw [insert_room (y := y) hw (by rwa [hr]) (by rwa [hr]) (by rwa [hr]) (by rwa [hr])] at hray
      dsimp only at hray
      rw [ray_hpm, ray_hpm, ray_updRay, hr] at hray
      exact hray
    · obtain ⟨z, hi, -, -, -, hlossy, hremote⟩ := insert_collapses (s := s.arrivalTaken c l) (c := c) (n := n) (y := y) (op := none) hw (by rwa [hr])
        (by rwa [hr]) (by rwa [hr]) (by rwa [hr]) (fun hno => Bool.noConfusion hno.2) (by rw [hr, hm]; exact fun hno => OvfMode.noConfusion hno.1)
      rw [hi] at hray
      rw [hray]
      exact ⟨hremote (by rwa [hr]), hlossy⟩
  · rw [composite_nil]
  · rw [composite_nil]
    rfl
  · rw [composite_nil]
  · rw [composite_point h]
    refine ⟨rfl, rfl, fun ch hch => ?_⟩
    match ch, hch with
    | 0, _ => rfl
    | 1, _ => rfl
    | 2, _ => rfl
  · exact ⟨rfl, rfl, rfl, rfl, merge_kind a b, rfl, by exact ⟨rfl, rfl⟩⟩

end Sys2Proof.Machine
end

section
/-! O48 Links: harness ports and front ports (R325-R331). -/

namespace Sys2Proof.Machine

open Sys2Proof Sys2Proof.Safety

/-! What leaves the ports or the held flits as they are. -/

theorem ioOfPort_lt (n : Nat) : ioOfPort n = 0 ∨ ioOfPort n = 1 := by
  unfold ioOfPort
  split
  · exact .inl rfl
  · exact .inr rfl
theorem held_post (d : IoDie) (e : IoEvent) : (d.post e).held = d.held := by
  unfold IoDie.post
  split
  · rfl
  · split
    · split <;> rfl
    · rfl
theorem held_ioEvent (s : State) (die : Nat) (fatal : Bool) (code : Nat) (a b : Word) (j : Nat) :
    ((s.ioEvent die fatal code a b).io j).held = (s.io j).held := by
  rw [State.ioEvent, State.io_updIo]
  split
  · next h => rw [held_post, h]
  · rfl
/-- With nothing held, nothing goes out. -/
theorem sendAllHeld_nil {s : State} (h0 : (s.io 0).held = []) (h1 : (s.io 1).held = []) : s.sendAllHeld = s := by
  unfold State.sendAllHeld
  rw [h0, h1]
  rfl
theorem ports_bindAt (s : State) (x die id : Nat) (card : Option Card) : (s.bindAt x die id card).2.ports = s.ports := by
  unfold State.bindAt
  split
  · rfl
  · split
    · rfl
    · split <;> rfl
theorem ports_takeArrived (s : State) (dev : Nat) (ns : List Nat) (bs : List Byte) : (s.takeArrived dev ns bs).ports = s.ports := by
  unfold State.takeArrived
  dsimp only
  split
  case h_5 =>
    split
    · rfl
    · exact ports_bindAt ..
  all_goals rfl
theorem flitOk_sealFlit (f : Flit) : flitOk (sealFlit f) = true := beq_self_eq_true _

/-! A flit in order is taken (R325, R326). -/

/-- The flit that goes on. -/
def onward (f : Flit) : Flit := { f with hops := f.hops + 1 }
/-- A control flit goes out, and nothing else changes but what the port owes. -/
theorem control_sent (p : Port) (type : BitVec 8) (src : Nat) (seq : BitVec 12) : ∃ a, (p.control type src seq).sent = p.sent ++ [a]
    ∧ a.type = type ∧ a.seq = seq ∧ a.ackseq = p.rxSeq - 1 ∧ flitOk a = true := ⟨_, rfl, rfl, rfl, rfl, flitOk_sealFlit _⟩
/-- The port as it is once it has taken a flit in order. -/
def Port.taking (p : Port) (dev : Nat) (f : Flit) : Port :=
  let q := { p.acked f.ackseq with credits := p.credits + f.credits.toNat }
  { q with rxSeq := q.rxSeq + 1, owed := q.owed + 1 }.control 2 dev f.seq
/-- The device once its port has taken a flit in order. -/
def State.flitTaken (s : State) (n : Nat) (f : Flit) : State := s.updPort n (fun p => p.taking s.devNum f)

theorem acked_rest (p : Port) (ack : BitVec 12) : (p.acked ack).state = p.state ∧ (p.acked ack).rxSeq = p.rxSeq
    ∧ (p.acked ack).sent = p.sent ∧ (p.acked ack).received = p.received := by
  unfold Port.acked
  split <;> exact ⟨rfl, rfl, rfl, rfl⟩
theorem updPort_updPort (s : State) (n : Nat) (f g : Port → Port) : (s.updPort n f).updPort n g = s.updPort n (fun p => g (f p)) := by
  unfold State.updPort State.port
  dsimp only
  rw [Tbl.get_set_self, Tbl.set_set]

/-- What `t` has at port `n` once the port has taken the flit `f`. -/
def FlitTook (n : Nat) (f : Flit) (s t : State) : Prop :=
  let p := s.port n
  (t.port n).rxSeq = p.rxSeq + 1 ∧ (t.port n).credits = p.credits + f.credits.toNat ∧ (t.port n).unacked = (p.acked f.ackseq).unacked
    ∧ ∃ a, (t.port n).sent = p.sent ++ [a] ∧ a.type = 2 ∧ a.seq = f.seq ∧ a.ackseq = p.rxSeq ∧ flitOk a = true

section
variable {s : State} {n : Nat} {f : Flit}

theorem flitTaken_took (s : State) (n : Nat) (f : Flit) : FlitTook n f s (s.flitTaken n f)
    ∧ ((s.flitTaken n f).port n).received = (s.port n).received := by
  obtain ⟨-, hrx, hsent, hrec⟩ := acked_rest (s.port n) f.ackseq
  have hport : (s.flitTaken n f).port n = (s.port n).taking s.devNum f := (State.port_updPort ..).trans (if_pos rfl)
  unfold FlitTook
  rw [hport]
  refine ⟨⟨congrArg (· + 1) hrx, rfl, rfl, _, congrArg (· ++ _) hsent, rfl, rfl, ?_, flitOk_sealFlit _⟩, hrec⟩
  change (Port.acked (s.port n) f.ackseq).rxSeq + 1 - 1 = _
  rw [hrx]
  exact BitVec.add_sub_cancel _ _
theorem flitTaken_others {q : Nat} (h : q ≠ n) : (s.flitTaken n f).port q = s.port q := (State.port_updPort ..).trans (if_neg h)
theorem FlitTook.of_port {t u : State} (h : FlitTook n f s t) (hp : (u.port n).rxSeq = (t.port n).rxSeq ∧ (u.port n).credits = (t.port n).credits
    ∧ (u.port n).unacked = (t.port n).unacked ∧ (u.port n).sent = (t.port n).sent) : FlitTook n f s u := by
  obtain ⟨h1, h2, h3, h4⟩ := hp
  unfold FlitTook
  rw [h1, h2, h3, h4]
  exact h
theorem FlitTook.of_eq {t u : State} (h : FlitTook n f s t) (hp : u.port n = t.port n) : FlitTook n f s u :=
  h.of_port (by rw [hp]; exact ⟨rfl, rfl, rfl, rfl⟩)

variable (hup : (s.port n).state = .up ∨ (s.port n).state = .degraded)
include hup
theorem carries_of_up : (s.port n).state.carries = true := by
  rcases hup with h | h <;> rw [h] <;> rfl
theorem exec_flit_bad (hbad : flitOk f = false) :
    exec (.harnessFlitReceive n f) s = .next (s.updPort n (·.control 3 s.devNum f.seq)) := by
  refine congrArg Host.Outcome.next ((if_neg ?_).trans (if_pos ?_))
  · rw [carries_of_up hup]
    exact Bool.false_ne_true
  · rw [hbad]
    rfl
variable (hok : flitOk f = true) (htype : f.type = 1) (hseq : f.seq = (s.port n).rxSeq) (h0 : (s.io 0).held = []) (h1 : (s.io 1).held = [])
include hok htype hseq h0 h1
theorem exec_flit : exec (.harnessFlitReceive n f) s = .next (
    if f.dst.toNat = s.devNum then (s.flitTaken n f).passOn n f
    else if f.hops = 15 then (s.flitTaken n f).ioEvent (ioOfPort n) true 4 (BitVec.ofNat 64 f.dst.toNat) (BitVec.ofNat 64 f.src.toNat)
    else (s.flitTaken n f).forward (ioOfPort n) (onward f)) := by
  have hc := carries_of_up hup
  change execHarnessFlitReceive n f s = _
  unfold execHarnessFlitReceive onward
  dsimp only
  rw [hc, hok, if_neg (by decide), if_neg (by decide), htype, if_neg (by decide), if_neg (by decide),
    if_neg (not_or.mpr ⟨not_not.mpr rfl, not_not.mpr hseq⟩), sendAllHeld_nil (s := s.updPort n _) h0 h1, updPort_updPort]
  rfl
end

/-! Passed on here, dropped at the hop limit, forwarded, or held (R326, R328, R329). -/

section
variable {s : State} {n : Nat} {f : Flit}

/-- The payloads of the flits received from a source that may complete a message with this one. -/
def State.flitParts (s : State) (n : Nat) (f : Flit) : List (List Byte) :=
  ((s.port n).received.filter (fun g => g.src == f.src)).map (·.payload) ++ [f.payload]

theorem passOn_kept (h : Config.arrivedMessage f.src.toNat ((s.flitTaken n f).flitParts n f) = none) :
    (s.flitTaken n f).passOn n f = (s.flitTaken n f).updPort n (fun p => { p with received := p.received ++ [f] }) := by
  unfold State.passOn
  dsimp only
  change (match Config.arrivedMessage f.src.toNat ((s.flitTaken n f).flitParts n f) with | none => _ | some (ns, bs) => _) = _
  rw [h]
theorem passOn_complete {ns : List Nat} {bs : List Byte}
    (h : Config.arrivedMessage f.src.toNat ((s.flitTaken n f).flitParts n f) = some (ns, bs)) :
    (s.flitTaken n f).passOn n f =
      ((s.flitTaken n f).updPort n (fun p => { p with received := p.received.filter (fun g => g.src != f.src) })).takeArrived f.src.toNat ns bs := by
  unfold State.passOn
  dsimp only
  change (match Config.arrivedMessage f.src.toNat ((s.flitTaken n f).flitParts n f) with | none => _ | some (ns, bs) => _) = _
  rw [h]
theorem flitParts_flitTaken : (s.flitTaken n f).flitParts n f = s.flitParts n f := by
  unfold State.flitParts
  rw [(flitTaken_took s n f).2]
theorem port_passed (g : Port → Port) (q : Nat) : ((s.flitTaken n f).updPort n g).port q
    = if q = n then g ((s.flitTaken n f).port n) else s.port q := by
  rw [State.port_updPort]
  split
  · rfl
  · next h => exact flitTaken_others h

/-- A port's taking a flit changes neither the routes nor which ports take flits. -/
theorem routePort_flitTaken (io dst : Nat) : (s.flitTaken n f).routePort io dst = s.routePort io dst := by
  have hstate (q : Nat) : ((s.flitTaken n f).port q).state = (s.port q).state := by
    by_cases hq : q = n
    · subst hq
      rw [State.flitTaken, State.port_updPort, if_pos rfl]
      exact (acked_rest (s.port q) f.ackseq).1
    · rw [flitTaken_others hq]
  have hnamed : (s.flitTaken n f).namedPort io dst = s.namedPort io dst := by
    unfold State.namedPort
    simp only [hstate]
    rfl
  unfold State.routePort
  rw [hnamed]
  rfl

/-- A flit that a port takes is the last of its replay buffer. -/
theorem send_last (p : Port) (f : Flit) (tag order : Nat) : ∃ g, (p.send f tag order).unacked = p.unacked ++ [g] ∧ g.flit.dst = f.dst
    ∧ g.flit.src = f.src ∧ g.flit.hops = f.hops ∧ g.flit.payload = f.payload ∧ g.flit.seq = p.txSeq := ⟨_, rfl, rfl, rfl, rfl, rfl, rfl⟩
theorem forward_sent {io q : Nat} (hr : s.routePort io f.dst.toNat = some q) (hroom : (s.port q).unacked.length < 512) :
    s.forward io f = s.sendFlit q f 0 := by
  unfold State.forward
  have hroom' : (s.port q).room 1 = true := decide_eq_true (Nat.succ_le_of_lt hroom)
  rw [hr, Option.bind_some, hroom']
  rfl
theorem forward_held {io : Nat} (h : ∀ q, s.routePort io f.dst.toNat = some q → 512 ≤ (s.port q).unacked.length) :
    s.forward io f = { s.updIo io (fun d => { d with held := d.held ++ [⟨f, 0, s.flitNum, 0⟩] }) with flitNum := s.flitNum + 1 } := by
  have hnone : ((s.routePort io f.dst.toNat).bind (fun p => if (s.port p).room 1 then some p else none)) = none := by
    cases hr : s.routePort io f.dst.toNat with
    | none => rfl
    | some q =>
      have hfull : (s.port q).room 1 = false := decide_eq_false (Nat.not_le.mpr (Nat.lt_succ_of_le (h q hr)))
      rw [Option.bind_some, hfull]
      rfl
  unfold State.forward
  rw [hnone]
end

/-! Resends and retraining (R326, R327). -/

section
variable {s : State} {n : Nat}

theorem port_enterRetrain (s : State) (n q : Nat) : (s.enterRetrain n).port q
    = if q = n then { s.port n with state := .retrain, attempts := 0 } else s.port q :=
  State.port_updPort s n q (fun p => { p with state := .retrain, attempts := 0 })
theorem retrains_enterRetrain (s : State) (n : Nat) : (s.enterRetrain n).mgmt.life.retrains.get 0 n
    = min (2 ^ 64 - 1) (s.mgmt.life.retrains.get 0 n + 1) := Tbl.get_set_self ..
/-- The port that resends what it has not seen acknowledged from its flit `i` on. -/
def Port.resends (p : Port) (i : Nat) : Port :=
  let again := (p.unacked.drop i).map (fun u => { u with resent := u.resent + 1 })
  { p with unacked := p.unacked.take i ++ again, sent := p.sent ++ again.map (·.flit) }
theorem resends_flits (p : Port) (i : Nat) : (p.resends i).unacked.map (·.flit) = p.unacked.map (·.flit)
    ∧ (p.resends i).sent = p.sent ++ (p.unacked.drop i).map (·.flit) := by
  have hmap (l : List SentFlit) : (l.map (fun u => { u with resent := u.resent + 1 })).map (·.flit) = l.map (·.flit) := List.map_map
  refine ⟨?_, congrArg (p.sent ++ ·) (hmap _)⟩
  unfold Port.resends
  dsimp only
  rw [List.map_append, hmap, ← List.map_append, List.take_append_drop]
theorem nak_eq {seq : BitVec 12} {i : Nat} (hup : (s.port n).state = .up ∨ (s.port n).state = .degraded)
    (hi : (s.port n).unacked.findIdx? (fun u => u.flit.seq == seq) = some i) : s.nak n seq =
      if ((s.port n).unacked.drop i).any (fun u => 7 ≤ u.resent) = true then (s.updPort n (·.resends i)).enterRetrain n
      else s.updPort n (·.resends i) := by
  have hany : (((s.port n).unacked.drop i).map (fun u => { u with resent := u.resent + 1 })).any (fun u => 8 ≤ u.resent)
      = ((s.port n).unacked.drop i).any (fun u => 7 ≤ u.resent) := by
    rw [List.any_map]
    exact congrArg _ (funext fun u => decide_eq_decide.mpr Nat.succ_le_succ_iff)
  unfold State.nak
  dsimp only
  rw [carries_of_up hup, hi, if_neg (by decide)]
  dsimp only
  rw [hany]
  rfl
theorem exec_laneLockLoss (hup : (s.port n).state = .up ∨ (s.port n).state = .degraded) :
    exec (.laneLockLoss n) s = .next (s.enterRetrain n) := congrArg Host.Outcome.next (if_pos (carries_of_up hup))
end

/-! Training ends (R327). -/

section
variable {s : State} {n l : Nat}

/-- The port after a training that found lanes. -/
def Port.trained (p : Port) (l : Nat) : Port :=
  { p with state := if l = 3 then .degraded else .up, txSeq := 0, rxSeq := 0, unacked := [], attempts := 0 }
def Port.retrained (p : Port) (l : Nat) : Port :=
  { p with state := if l = 3 then .degraded else .up, attempts := 0, unacked := p.unacked.map (fun u => { u with resent := 0 })
           sent := p.sent ++ p.unacked.map (·.flit) }
/-- The device after its port's training ended well, with nothing held. -/
def State.trainedPort (s : State) (n l : Nat) (g : Port → Port) : State :=
  if l = 3 then (s.updPort n g).ioEvent (ioOfPort n) false 9 (BitVec.ofNat 64 n) 0 else s.updPort n g
theorem port_trainedPort (s : State) (n l : Nat) (g : Port → Port) : (s.trainedPort n l g).port n = g (s.port n) := by
  have hport : (s.updPort n g).port n = g (s.port n) := (State.port_updPort ..).trans (if_pos rfl)
  unfold State.trainedPort
  split <;> exact hport
theorem sendAllHeld_trainedPort (h0 : (s.io 0).held = []) (h1 : (s.io 1).held = []) (g : Port → Port) :
    (s.trainedPort n l g).sendAllHeld = s.trainedPort n l g := by
  unfold State.trainedPort
  split
  · exact sendAllHeld_nil ((held_ioEvent ..).trans h0) ((held_ioEvent ..).trans h1)
  · exact sendAllHeld_nil h0 h1
theorem exec_training_ends (hs : (s.port n).state = .training) (hw : (s.port n).waitRetry = false) (hl : 3 ≤ l) (h0 : (s.io 0).held = [])
    (h1 : (s.io 1).held = []) : exec (.linkTrainingResult n l) s = .next (s.trainedPort n l (·.trained l)) := by
  refine (congrArg Host.Outcome.next ?_).trans (congrArg Host.Outcome.next (sendAllHeld_trainedPort h0 h1 (·.trained l)))
  dsimp only
  rw [hs, hw, if_neg (by decide), if_pos hl]
  rfl
theorem exec_retraining_ends (hs : (s.port n).state = .retrain) (hl : 3 ≤ l) (h0 : (s.io 0).held = []) (h1 : (s.io 1).held = []) :
    exec (.linkTrainingResult n l) s = .next (s.trainedPort n l (·.retrained l)) := by
  refine (congrArg Host.Outcome.next ?_).trans (congrArg Host.Outcome.next (sendAllHeld_trainedPort h0 h1 (·.retrained l)))
  dsimp only
  rw [hs, if_neg (by simp), if_pos hl]
  rfl
/-- A training that fails is tried again: a first one once the timer has run, a retraining at once. -/
theorem exec_training_again (hs : (s.port n).state = .training ∧ (s.port n).waitRetry = false ∨ (s.port n).state = .retrain) (hl : l < 3)
    (ha : (s.port n).attempts < 2) : exec (.linkTrainingResult n l) s
      = .next (s.updPort n (fun p => { p with attempts := p.attempts + 1, waitRetry := (s.port n).state == .training })) := by
  refine congrArg Host.Outcome.next ?_
  dsimp only
  rw [if_neg (c := 3 ≤ l) (Nat.not_le.mpr hl), if_pos (Nat.succ_lt_succ ha)]
  rcases hs with ⟨hs, hw⟩ | hs
  · rw [hs, hw]
    rfl
  · rw [hs]
    rfl
/-- The port has failed, and its IO die holds what was not acknowledged. -/
def State.failedPort (s : State) (n : Nat) : State :=
  ((s.updPort n (fun p => { p with state := .failed, attempts := 0, waitRetry := false })).handOn n).ioEvent (ioOfPort n) true 3 (BitVec.ofNat 64 n) 0
theorem exec_training_fails (hs : (s.port n).state = .training ∧ (s.port n).waitRetry = false ∨ (s.port n).state = .retrain) (hl : l < 3)
    (ha : 2 ≤ (s.port n).attempts) : exec (.linkTrainingResult n l) s = .next (s.failedPort n) := by
  refine congrArg Host.Outcome.next ?_
  dsimp only
  rw [if_neg (c := 3 ≤ l) (Nat.not_le.mpr hl), if_neg (c := (s.port n).attempts + 1 < 3) (Nat.not_lt.mpr (Nat.succ_le_succ ha))]
  rcases hs with ⟨hs, hw⟩ | hs
  · rw [hs, hw]
    rfl
  · rw [hs]
    rfl
theorem failedPort_failed (h0 : (s.io 0).held = []) (h1 : (s.io 1).held = []) : ((s.failedPort n).port n).state = .failed
    ∧ ((s.failedPort n).port n).unacked = [] ∧ ((s.failedPort n).io (ioOfPort n)).held.map (·.flit) = (s.port n).unacked.map (·.flit) := by
  have hheld : (s.io (ioOfPort n)).held = [] := by
    rcases ioOfPort_lt n with h | h <;> rw [h] <;> assumption
  have hport : (s.failedPort n).port n = { s.port n with state := .failed, attempts := 0, waitRetry := false, unacked := [] } := by
    change (State.updPort (State.updPort s n (fun p => { p with state := .failed, attempts := 0, waitRetry := false })) n
      (fun p => { p with unacked := [] })).port n = _
    rw [State.port_updPort, if_pos rfl, State.port_updPort, if_pos rfl]
  refine ⟨by rw [hport], by rw [hport], ?_⟩
  rw [State.failedPort, held_ioEvent, State.handOn, State.io_updIo, if_pos rfl]
  change ((s.io (ioOfPort n)).held ++ _).map _ = _
  rw [hheld, List.nil_append, List.map_map, State.port_updPort, if_pos rfl]
  rfl
end

/-! Front ports (R331). -/

section
variable {n c e : Nat} {frame : List Byte} {s : State}

/-- A connection that a packet uses is in use at its port and with its endpoint, with one packet more. -/
theorem uetConn_useConn (rod : Bool) :
    (s.useConn c n e rod).uetConn c = some ⟨c, n, e, rod, ((s.uetConn c).map (·.packets)).getD 0 + 1⟩ := by
  unfold State.useConn
  dsimp only
  rw [State.uetConn, State.io_updIo, if_pos rfl]
  dsimp only
  rw [List.find?_append, List.find?_eq_none.mpr ?_]
  · simp
  · intro x hx
    simpa using (List.mem_filter.mp hx).2
/-- Whether a packet of a service that the device has is dropped. -/
def State.packetRefused (s : State) (n c : Nat) (frame : List Byte) : Bool :=
  9216 < frame.length || 4 ≤ n || 8192 ≤ c || ioOfConn c != n / 2 || !(match ((s.io (n / 2)).keys.find? (fun k => k.1 == c)) with
    | some k => (Config.gcmOpens k.2 frame).isSome
    | none => true)
theorem exec_packet_rod : exec (.uetPacket n ⟨.rod, c, e, frame⟩) s
    = .next (if s.packetRefused n c frame then s else s.useConn c n e true) := rfl
theorem exec_packet_rud : exec (.uetPacket n ⟨.rud, c, e, frame⟩) s
    = .next (if s.packetRefused n c frame then s else s.useConn c n e false) := rfl
theorem packetRefused_of (h : 9216 < frame.length ∨ 4 ≤ n ∨ 8192 ≤ c ∨ ioOfConn c ≠ n / 2) : s.packetRefused n c frame = true := by
  unfold State.packetRefused
  rcases h with h | h | h | h <;> simp [h]
theorem packetRefused_not (hlen : frame.length ≤ 9216) (hn : n < 4) (hc : c < 8192) (hio : ioOfConn c = n / 2)
    (hkey : ∀ k, (s.io (n / 2)).keys.find? (fun k => k.1 == c) = some k → (Config.gcmOpens k.2 frame).isSome = true) :
    s.packetRefused n c frame = false := by
  have hsecured : (match ((s.io (n / 2)).keys.find? (fun k => k.1 == c)) with
      | some k => (Config.gcmOpens k.2 frame).isSome
      | none => true) = true := by
    split
    · next k hk => exact hkey k hk
    · rfl
  unfold State.packetRefused
  rw [hsecured]
  simp [hlen, hn, hc, hio]
end

/-! The statement. -/

section
variable {s : State} {n : Nat}

/-- The clauses on a flit in order. -/
theorem flit_clauses {f : Flit} (hup : (s.port n).state = .up ∨ (s.port n).state = .degraded) (hok : flitOk f = true) (htype : f.type = 1)
    (hseq : f.seq = (s.port n).rxSeq) (h0 : (s.io 0).held = []) (h1 : (s.io 1).held = []) :
    (f.dst.toNat = s.devNum → Config.arrivedMessage f.src.toNat (s.flitParts n f) = none →
      ∃ t, exec (.harnessFlitReceive n f) s = .next t ∧ FlitTook n f s t ∧ (t.port n).received = (s.port n).received ++ [f]
        ∧ ∀ q, q ≠ n → t.port q = s.port q)
    ∧ (∀ ns bs, f.dst.toNat = s.devNum → Config.arrivedMessage f.src.toNat (s.flitParts n f) = some (ns, bs) →
      ∃ t, ∃ u : State, exec (.harnessFlitReceive n f) s = .next t ∧ FlitTook n f s t
        ∧ (t.port n).received = (s.port n).received.filter (fun g => g.src != f.src)
        ∧ t = u.takeArrived f.src.toNat ns bs ∧ u.msgs = s.msgs ∧ u.weights = s.weights ∧ ∀ q, q ≠ n → t.port q = s.port q)
    ∧ (f.dst.toNat ≠ s.devNum → f.hops = 15 →
      ∃ t, exec (.harnessFlitReceive n f) s = .next t ∧ FlitTook n f s t ∧ (t.port n).received = (s.port n).received
        ∧ ∀ q, q ≠ n → t.port q = s.port q)
    ∧ (∀ q, f.dst.toNat ≠ s.devNum → f.hops ≠ 15 → s.routePort (ioOfPort n) f.dst.toNat = some q → q ≠ n →
      (s.port q).unacked.length < 512 →
      ∃ t, exec (.harnessFlitReceive n f) s = .next t ∧ FlitTook n f s t ∧ (t.port n).received = (s.port n).received
        ∧ ∃ g, (t.port q).unacked = (s.port q).unacked ++ [g] ∧ g.flit.dst = f.dst ∧ g.flit.src = f.src
          ∧ g.flit.hops = f.hops + 1 ∧ g.flit.payload = f.payload ∧ g.flit.seq = (s.port q).txSeq)
    ∧ (f.dst.toNat ≠ s.devNum → f.hops ≠ 15 →
      (∀ q, s.routePort (ioOfPort n) f.dst.toNat = some q → q ≠ n ∧ 512 ≤ (s.port q).unacked.length) →
      ∃ t, exec (.harnessFlitReceive n f) s = .next t ∧ FlitTook n f s t ∧ (t.port n).received = (s.port n).received
        ∧ (t.io (ioOfPort n)).held = [⟨{ f with hops := f.hops + 1 }, 0, s.flitNum, 0⟩]) := by
  have hexec := exec_flit hup hok htype hseq h0 h1
  obtain ⟨htook, hrec⟩ := flitTaken_took s n f
  refine ⟨fun hd hm => ?_, fun ns bs hd hm => ?_, fun hd hh => ?_, fun q hd hh hr hq hroom => ?_, fun hd hh hr => ?_⟩
  · rw [if_pos hd, passOn_kept (by rwa [flitParts_flitTaken])] at hexec
    have hport := port_passed (s := s) (n := n) (f := f) (fun p => { p with received := p.received ++ [f] })
    refine ⟨_, hexec, htook.of_port ?_, ?_, fun q hq => (hport q).trans (if_neg hq)⟩
    · rw [hport, if_pos rfl]
      exact ⟨rfl, rfl, rfl, rfl⟩
    · rw [hport, if_pos rfl, hrec]
  · rw [if_pos hd, passOn_complete (by rwa [flitParts_flitTaken])] at hexec
    have hport (q : Nat) : (State.takeArrived _ f.src.toNat ns bs).port q = _ := (congrArg (Tbl.get · Port.reset q) (ports_takeArrived ..)).trans
      (port_passed (s := s) (n := n) (f := f) (fun p => { p with received := p.received.filter (fun g => g.src != f.src) }) q)
    refine ⟨_, _, hexec, htook.of_port ?_, ?_, rfl, rfl, rfl, fun q hq => (hport q).trans (if_neg hq)⟩
    · rw [hport, if_pos rfl]
      exact ⟨rfl, rfl, rfl, rfl⟩
    · rw [hport, if_pos rfl, hrec]
  · rw [if_neg hd, if_pos hh] at hexec
    exact ⟨_, hexec, htook.of_eq rfl, hrec, fun q hq => flitTaken_others hq⟩
  · have hq' : (s.flitTaken n f).port q = s.port q := flitTaken_others hq
    rw [if_neg hd, if_neg hh, forward_sent (f := onward f) (q := q) ((routePort_flitTaken ..).trans hr) (by rwa [hq'])] at hexec
    have hn : ((s.flitTaken n f).sendFlit q (onward f) 0).port n = (s.flitTaken n f).port n :=
      (State.port_updPort (s.flitTaken n f) q n (·.send (onward f) 0 (s.flitTaken n f).flitNum)).trans (if_neg (Ne.symm hq))
    refine ⟨_, hexec, htook.of_eq hn, by rw [hn, hrec], ?_⟩
    have hport : ((s.flitTaken n f).sendFlit q (onward f) 0).port q
        = (s.port q).send (onward f) 0 (s.flitTaken n f).flitNum := by
      rw [← hq']
      exact (State.port_updPort (s.flitTaken n f) q q (·.send (onward f) 0 (s.flitTaken n f).flitNum)).trans (if_pos rfl)
    rw [hport]
    exact send_last (s.port q) (onward f) ..
  · have hfull : ∀ q, (s.flitTaken n f).routePort (ioOfPort n) f.dst.toNat = some q → 512 ≤ ((s.flitTaken n f).port q).unacked.length := by
      intro q hq
      obtain ⟨hne, hlen⟩ := hr q ((routePort_flitTaken ..).symm.trans hq)
      rwa [flitTaken_others hne]
    rw [if_neg hd, if_neg hh, forward_held (f := onward f) hfull] at hexec
    refine ⟨_, hexec, htook.of_eq rfl, hrec, ?_⟩
    have hheld : (s.io (ioOfPort n)).held = [] := by
      rcases ioOfPort_lt n with h | h <;> rw [h] <;> assumption
    change (((s.flitTaken n f).updIo (ioOfPort n) (fun d => { d with held := d.held ++ [⟨(onward f), 0, s.flitNum, 0⟩] })).io _).held = _
    rw [State.io_updIo, if_pos rfl]
    exact congrArg (· ++ _) hheld

/-- The clauses on a NAK. -/
theorem nak_clauses {seq : BitVec 12} {i : Nat} (hup : (s.port n).state = .up ∨ (s.port n).state = .degraded)
    (hi : (s.port n).unacked.findIdx? (fun u => u.flit.seq == seq) = some i) :
    (((s.port n).unacked.drop i).any (fun u => 7 ≤ u.resent) = false → ∃ t, exec (.harnessNak n seq) s = .next t
      ∧ (t.port n).sent = (s.port n).sent ++ ((s.port n).unacked.drop i).map (·.flit) ∧ (t.port n).state = (s.port n).state
      ∧ (t.port n).unacked.map (·.flit) = (s.port n).unacked.map (·.flit))
    ∧ (((s.port n).unacked.drop i).any (fun u => 7 ≤ u.resent) = true → ∃ t, exec (.harnessNak n seq) s = .next t
      ∧ (t.port n).state = .retrain) := by
  have hexec : exec (.harnessNak n seq) s = .next _ := congrArg Host.Outcome.next (nak_eq hup hi)
  obtain ⟨hflits, hsent⟩ := resends_flits (s.port n) i
  refine ⟨fun hfew => ?_, fun hmany => ?_⟩
  · have hport : (s.updPort n (·.resends i)).port n = (s.port n).resends i := (State.port_updPort ..).trans (if_pos rfl)
    rw [hfew, if_neg Bool.false_ne_true] at hexec
    refine ⟨_, hexec, ?_, ?_, ?_⟩ <;> rw [hport]
    · exact hsent
    · rfl
    · exact hflits
  · rw [hmany, if_pos rfl] at hexec
    refine ⟨_, hexec, ?_⟩
    rw [port_enterRetrain, if_pos rfl]
end

/-- Settles O48: a flit by where it goes, training by its outcome, a packet by whether it is dropped. -/
theorem links : Obligations.Links := by
  refine ⟨fun n s => ⟨fun f hup hok htype hseq h0 h1 => flit_clauses hup hok htype hseq h0 h1, fun f hup hbad => ?_,
    fun seq i hup hi => nak_clauses hup hi, fun hup => ?_, fun hs hw h0 h1 => ⟨?_, ?_, fun l hl ha => ?_, fun l hl ha => ?_⟩,
    fun hs h0 h1 => ⟨fun l hl => ?_, fun l hl ha => ?_, fun l hl ha => ?_⟩, fun hs hw => ?_⟩,
    fun n c e frame s => ⟨?_, ?_, fun hlen hn hc hio hkey => ⟨?_, ?_⟩, fun h => ⟨?_, ?_⟩⟩⟩
  · have hport : (s.updPort n (·.control 3 s.devNum f.seq)).port n = (s.port n).control 3 s.devNum f.seq :=
      (State.port_updPort ..).trans (if_pos rfl)
    obtain ⟨a, hsent, htype, hseq, -, hok⟩ := control_sent (s.port n) 3 s.devNum f.seq
    rw [← hport] at hsent
    exact ⟨_, a, exec_flit_bad hup hbad, by rw [hport]; rfl, by rw [hport]; rfl, hsent, htype, hseq, hok⟩
  · refine ⟨_, exec_laneLockLoss hup, ?_, ?_, retrains_enterRetrain s n⟩ <;> rw [port_enterRetrain, if_pos rfl]
  · refine ⟨_, exec_training_ends hs hw (by decide) h0 h1, ?_⟩
    rw [port_trainedPort]
    exact ⟨rfl, rfl, rfl⟩
  · refine ⟨_, exec_training_ends hs hw (by decide) h0 h1, ?_⟩
    rw [port_trainedPort]
    rfl
  · refine ⟨_, exec_training_again (.inl ⟨hs, hw⟩) hl ha, ?_⟩
    rw [State.port_updPort, if_pos rfl, hs]
    exact ⟨rfl, rfl, rfl⟩
  · exact ⟨_, exec_training_fails (.inl ⟨hs, hw⟩) hl ha, failedPort_failed h0 h1⟩
  · refine ⟨_, exec_retraining_ends hs hl h0 h1, ?_⟩
    rw [port_trainedPort]
    refine ⟨rfl, rfl, rfl, rfl, List.map_map, fun u hu => ?_, rfl⟩
    obtain ⟨v, -, rfl⟩ := List.mem_map.mp hu
    rfl
  · refine ⟨_, exec_training_again (.inr hs) hl ha, fun q => ?_⟩
    rw [State.port_updPort, hs]
    rfl
  · exact ⟨_, exec_training_fails (.inr hs) hl ha, failedPort_failed h0 h1⟩
  · have hexec : exec (.trainingRetryTimer n) s = .next ((s.updPort n (fun p => { p with waitRetry := false })).trainingFlits n) :=
      congrArg Host.Outcome.next (if_pos (by rw [hs, hw]; rfl))
    have hport : ((s.updPort n (fun p => { p with waitRetry := false })).trainingFlits n).port n
        = { s.port n with waitRetry := false }.control 4 s.devNum 0 := by
      rw [State.trainingFlits, State.port_updPort, if_pos rfl, State.port_updPort, if_pos rfl]
      rfl
    obtain ⟨a, hsent, htype, -⟩ := control_sent { s.port n with waitRetry := false } 4 s.devNum 0
    rw [← hport] at hsent
    exact ⟨_, a, hexec, by rw [hport]; rfl, by rw [hport]; exact hs, hsent, htype⟩
  · refine ⟨_, rfl, ?_⟩
    rw [State.io_updIo, if_pos rfl]
  · refine ⟨_, rfl, ?_⟩
    rw [State.io_updIo, if_pos rfl]
  · refine ⟨_, exec_packet_rod.trans (congrArg Host.Outcome.next (if_neg ?_)), uetConn_useConn true, fun _ => rfl⟩
    rw [packetRefused_not hlen hn hc hio hkey]
    exact Bool.false_ne_true
  · refine ⟨_, exec_packet_rud.trans (congrArg Host.Outcome.next (if_neg ?_)), uetConn_useConn false, fun _ => rfl⟩
    rw [packetRefused_not hlen hn hc hio hkey]
    exact Bool.false_ne_true
  · exact exec_packet_rod.trans (congrArg Host.Outcome.next (if_pos (packetRefused_of h)))
  · exact exec_packet_rud.trans (congrArg Host.Outcome.next (if_pos (packetRefused_of h)))

end Sys2Proof.Machine
end

section
/-! O49 ContextCommands: creation, teardown, pre-emption, resume and a group's move (R14, R254, R255, R260, R262, R263). -/

namespace Sys2Proof.Machine

open Sys2Proof Sys2Proof.Safety

/-! Ray slots whose spill writes are done. -/

theorem get_mem_or {α : Type} (t : Tbl α) (dflt : α) (k : Nat) : (k, t.get dflt k) ∈ t ∨ t.get dflt k = dflt := by
  induction t with
  | nil => exact .inr rfl
  | cons p rest ih =>
    obtain ⟨j, v⟩ := p
    unfold Tbl.get
    split
    · next h => exact .inl (h ▸ List.mem_cons_self ..)
    · exact ih.imp_left (List.mem_cons_of_mem _)

/-- No spill write of a core waits. -/
def Core.spilt (k : Core) : Prop := ∀ r ∈ k.rays, r.2.writes = []

theorem writes_of_spilt {k : Core} (h : k.spilt) (n : Nat) : (k.ray n).writes = [] := by
  unfold Core.ray
  rcases get_mem_or k.rays RaySlot.reset n with hm | hm
  · exact h _ hm
  · rw [hm]
    rfl
theorem spillDrain_spilt {s : State} {c : Nat} (h : (s.core c).spilt) (n fuel : Nat) : s.spillDrain c n fuel = s := by
  cases fuel with
  | zero => rfl
  | succ fuel =>
    unfold State.spillDrain
    dsimp only
    rw [writes_of_spilt h]
theorem spillAll_spilt {s : State} {c : Nat} (h : (s.core c).spilt) : s.spillAll c = s :=
  foldl_keeps (P := fun t => t = s) (fun t n _ ht => by rw [ht, spillDrain_spilt h]) s rfl
theorem restored_spilt {k data : Core} (f : Nat → Nat) (h : data.spilt) : (k.restored data f).spilt := by
  intro r hr
  obtain ⟨q, hq, rfl⟩ := List.mem_map.mp hr
  exact h q hq

/-! Saved cores restored (R262). -/

section
variable {x : Nat} {f : Nat → Nat} {place : Saved → Nat} {data : List Saved}

/-- The saved cores are put on their places. -/
def State.placeSaved (u : State) (f : Nat → Nat) (place : Saved → Nat) (data : List Saved) : State :=
  data.foldl (fun s d => s.updCore (place d) (fun k => k.restored d.data f)) u

theorem placeSaved_keeps (u : State) : (u.placeSaved f place data).ctxs = u.ctxs ∧ (u.placeSaved f place data).conns = u.conns
    ∧ (u.placeSaved f place data).replies = u.replies ∧ (u.placeSaved f place data).paddocks = u.paddocks := by
  unfold State.placeSaved
  refine foldl_keeps (P := fun t : State => t.ctxs = u.ctxs ∧ t.conns = u.conns ∧ t.replies = u.replies ∧ t.paddocks = u.paddocks)
    (fun t d _ h => ?_) u ⟨rfl, rfl, rfl, rfl⟩
  exact h
/-- Every place of a saved core is one whose spill writes are done, if the saved cores are so. -/
theorem placeSaved_spilt (hdata : ∀ v ∈ data, v.data.spilt) {u : State} {c : Nat} (h : c ∈ data.map place ∨ (u.core c).spilt) :
    ((u.placeSaved f place data).core c).spilt := by
  induction data generalizing u with
  | nil => exact h.resolve_left (List.not_mem_nil)
  | cons d data ih =>
    refine ih (fun v hv => hdata v (List.mem_cons_of_mem _ hv)) (u := u.updCore (place d) (fun k => k.restored d.data f)) ?_
    rw [State.core_updCore]
    by_cases hc : c = place d
    · rw [if_pos hc]
      exact .inr (restored_spilt f (hdata d (List.mem_cons_self ..)))
    · rw [if_neg hc]
      exact h.imp_left fun hm => (List.mem_cons.mp hm).resolve_left hc
theorem rays_renameSrc (s : State) (x c : Nat) (f : Nat → Nat) : ((s.renameSrc x f).core c).rays = (s.core c).rays := by
  have hget := Tbl.get_map s.cores Core.reset (fun k => { k with arrivals := k.arrivals.map (fun a => { a with msg :=
    if a.msg.ctx = x ∧ a.msg.srcDev = s.devNum then { a.msg with src := ⟨f a.msg.src.core, a.msg.src.slot⟩ } else a.msg }) }) rfl c
  exact (congrArg Core.rays hget :)

/-- Held messages of ranks are released, and nothing else changes. -/
theorem releaseRanks_msgs (u : State) (x : Nat) (l : List (Nat × Nat)) :
    ∃ ms, l.foldl (fun s r => s.releaseRank x r.1 s.devNum r.2) u = { u with msgs := ms } :=
  foldl_keeps (P := fun t => ∃ ms, t = { u with msgs := ms }) (fun t r _ ⟨ms, ht⟩ => ⟨_, by rw [ht]; rfl⟩) u ⟨u.msgs, rfl⟩
theorem reopen_none {l : List Saved} (h : ∀ v ∈ l, v.merges = []) (place : Saved → Nat) (s : State) :
    l.foldl (fun s d => d.merges.foldl (fun s m => s.reopenMerge (place d) m) s) s = s :=
  foldl_keeps (P := fun t => t = s) (fun t d hd ht => by rw [h d hd]; exact ht) s rfl
theorem spillAll_places {l : List Saved} {s : State} (h : ∀ d ∈ l, (s.core (place d)).spilt) :
    l.foldl (fun s d => s.spillAll (place d)) s = s :=
  foldl_keeps (P := fun t => t = s) (fun t d hd ht => by rw [ht, spillAll_spilt (h d hd)]) s rfl
end

/-! Events that waited are written (R256). -/

/-- What a context says of where it is. -/
def Ctx.settled (y : Ctx) : CtxState × Option Nat × List Nat × List Saved := (y.state, y.paddock, y.clusters, y.saved)

/-- Connections and replies are as they were, and context `x` is where it was. -/
structure StaysPut (x : Nat) (s t : State) : Prop where
  settled : (t.ctx x).settled = (s.ctx x).settled
  conns : t.conns = s.conns
  replies : t.replies = s.replies

theorem staysPut_writeEvent (s : State) (x c : Nat) (e : Event) : StaysPut x s (s.writeEvent x c e) := by
  refine ⟨?_, rfl, rfl⟩
  unfold State.writeEvent
  dsimp only
  rw [State.ctx_updCtx, if_pos rfl]
  rfl
theorem staysPut_flushEvents (s : State) (x c : Nat) : StaysPut x s (s.flushEvents x c) := by
  refine foldl_keeps (P := StaysPut x s) (fun t e _ h => ?_) s ⟨rfl, rfl, rfl⟩
  split
  · obtain ⟨hs, hc, hr⟩ := staysPut_writeEvent (t.updCtx x (fun y => { y with evWait := y.evWait.drop 1 })) x c e
    refine ⟨(hs.trans ?_).trans h.settled, hc.trans h.conns, hr.trans h.replies⟩
    rw [State.ctx_updCtx, if_pos rfl]
    rfl
  · exact h

/-! A parked context is restored onto a paddock (R255, R262). -/

section
variable {s : State} {x p : Nat} {q : Paddock}

/-- The paddock is the context's. -/
def State.occupy (s : State) (x p : Nat) : State :=
  { s with paddocks := s.paddocks.mapIdx (fun i (q : Paddock) => if i = p then { q with state := PadState.occupied, ctx := x } else q) }
/-- A context is as it was but ACTIVE on a paddock of some clusters, with nothing saved, and its threads renamed. -/
structure OnPaddock (p : Nat) (new : List Nat) (y z : Ctx) : Prop where
  settled : z.settled = (.active, some p, new, [])
  start : z.entry = y.entry ∧ z.g1 = y.g1 ∧ z.wbase = y.wbase ∧ z.wlimit = y.wlimit ∧ z.root = y.root
  kernels : y.kernels = [] → z.kernels = []

/-- A restoration settles the context on its paddock, and then starts its supervisor, or puts its saved cores on their places. -/
theorem restoreCtx_eq (s : State) (x p : Nat) : ∃ (g : Ctx → Ctx) (ranks : List (Nat × Nat)) (f : Nat → Nat) (place : Saved → Nat),
    (∀ y, OnPaddock p (((s.paddocks[p]?).map (·.clusters)).getD []) y (g y))
    ∧ s.restoreCtx x p =
      let u := (s.occupy x p).updCtx x g
      let data := (s.ctx x).saved
      let free := fun (s : State) => ranks.foldl (fun s r => s.releaseRank x r.1 s.devNum r.2) s
      if data.isEmpty then (free u).startSupervisor x
      else
        let s := data.foldl (fun s d => d.merges.foldl (fun s m => s.reopenMerge (place d) m) s)
          (free ((u.placeSaved f place data).renameSrc x f))
        let s := data.foldl (fun s d => s.spillAll (place d)) s
        let s := (s.ctx x).kernels.foldl (fun (s : State) (k : Kernel) => s.runTodo x k.kid 16) s
        match s.serviceCore x with
        | some c => s.flushEvents x c
        | none => s := by
  unfold State.restoreCtx
  refine ⟨_, _, _, _, ?_, rfl⟩
  exact fun y => ⟨rfl, ⟨rfl, rfl, rfl, rfl, rfl⟩, fun h => List.map_eq_nil_iff.mpr h⟩
theorem occupy_clusters (hq : s.paddocks[p]? = some q) : ((s.occupy x p).paddocks[p]?).map (·.clusters) = some q.clusters := by
  simp [State.occupy, List.getElem?_mapIdx, hq]

/-- What a supervisor that starts finds (R255). -/
def Ctx.supervisor (y : Ctx) (x born : Nat) : Thread :=
  { Thread.reset with
    state := .ready, ctx := x, pc := y.entry, gregs := [(1, y.g1)]
    csrs := [(0, 1), (0x021, y.wbase &&& ~~~7#64), (0x022, y.wlimit &&& ~~~7#64)], born := born }
theorem supervisor_sup (y : Ctx) (x born : Nat) : (y.supervisor x born).sup = true := by
  change (1#64).getLsbD 0 = true
  decide
theorem serviceCore_of {k : Nat} {ks : List Nat} (hp : (s.ctx x).paddock = some p) (hc : (s.paddocks[p]?).map (·.clusters) = some (k :: ks)) :
    s.serviceCore x = some (16 * k) := by
  obtain ⟨q, hq, hqc⟩ := Option.map_eq_some_iff.mp hc
  unfold State.serviceCore
  rw [hp]
  dsimp only
  rw [hq]
  dsimp only
  rw [hqc]
theorem startSupervisor_eq {c : Nat} (h : s.serviceCore x = some c) :
    s.startSupervisor x = s.updCore c (fun k => k.setThread 0 ((s.ctx x).supervisor x (s.core c).serial)) := by
  unfold State.startSupervisor
  rw [h]
  rfl

/-- A context with nothing saved starts its supervisor in slot 0 of the service core. -/
theorem restoreCtx_new {k : Nat} {ks : List Nat} (hsaved : (s.ctx x).saved = []) (hq : s.paddocks[p]? = some q) (hk : q.clusters = k :: ks) :
    ∃ t z born, s.restoreCtx x p = t ∧ t.conns = s.conns ∧ t.replies = s.replies ∧ t.ctx x = z ∧ OnPaddock p q.clusters (s.ctx x) z
      ∧ (t.core (16 * k)).thread 0 = z.supervisor x born := by
  obtain ⟨g, ranks, f, place, hg, heq⟩ := restoreCtx_eq s x p
  rw [hq] at hg
  rw [hsaved] at heq
  obtain ⟨ms, hms⟩ := releaseRanks_msgs ((s.occupy x p).updCtx x g) x ranks
  generalize hv : ({ (s.occupy x p).updCtx x g with msgs := ms } : State) = v at hms
  have hctx : v.ctx x = g (s.ctx x) := by
    rw [← hv]
    exact (State.ctx_updCtx (s.occupy x p) x x g).trans (if_pos rfl)
  have hconns : v.conns = s.conns ∧ v.replies = s.replies := by
    rw [← hv]
    exact ⟨rfl, rfl⟩
  have hclusters : (v.paddocks[p]?).map (·.clusters) = some (k :: ks) := by
    rw [← hv]
    exact (occupy_clusters hq).trans (congrArg some hk)
  have hon := hg (s.ctx x)
  have hservice : v.serviceCore x = some (16 * k) := serviceCore_of (hctx ▸ (congrArg (fun r => r.2.1) hon.settled :)) hclusters
  dsimp only at heq
  rw [List.isEmpty_nil, if_pos rfl, hms, startSupervisor_eq hservice] at heq
  refine ⟨_, g (s.ctx x), (v.core (16 * k)).serial, heq, hconns.1, hconns.2, hctx, hon, ?_⟩
  rw [State.core_updCore, if_pos rfl, hctx]
  exact Tbl.get_set_self ..

theorem startSupervisor_keeps (s : State) (x : Nat) : (s.startSupervisor x).ctxs = s.ctxs ∧ (s.startSupervisor x).conns = s.conns
    ∧ (s.startSupervisor x).replies = s.replies := by
  unfold State.startSupervisor
  split <;> exact ⟨rfl, rfl, rfl⟩
/-- A context of no kernel whose saved cores have no merge and no spill write left is restored. -/
theorem restoreCtx_settles (hq : s.paddocks[p]? = some q) (hkernels : (s.ctx x).kernels = [])
    (hmerges : ∀ v ∈ (s.ctx x).saved, v.merges = []) (hspilt : ∀ v ∈ (s.ctx x).saved, v.data.spilt) :
    ((s.restoreCtx x p).ctx x).settled = (.active, some p, q.clusters, [])
      ∧ (s.restoreCtx x p).conns = s.conns ∧ (s.restoreCtx x p).replies = s.replies := by
  obtain ⟨g, ranks, f, place, hg, heq⟩ := restoreCtx_eq s x p
  rw [hq] at hg
  have hon := hg (s.ctx x)
  obtain ⟨hctxs, hconns, hreplies, -⟩ := placeSaved_keeps (f := f) (place := place) (data := (s.ctx x).saved) ((s.occupy x p).updCtx x g)
  obtain ⟨ms, hms⟩ := releaseRanks_msgs ((((s.occupy x p).updCtx x g).placeSaved f place (s.ctx x).saved).renameSrc x f) x ranks
  generalize hv : ({ (((s.occupy x p).updCtx x g).placeSaved f place (s.ctx x).saved).renameSrc x f with msgs := ms } : State) = v at hms
  have hvctx : v.ctx x = g (s.ctx x) := by
    rw [← hv]
    exact (congrArg (Tbl.get · Ctx.reset x) hctxs).trans ((State.ctx_updCtx (s.occupy x p) x x g).trans (if_pos rfl))
  have hvconns : v.conns = s.conns := by
    rw [← hv]
    exact hconns
  have hvreplies : v.replies = s.replies := by
    rw [← hv]
    exact hreplies
  have hvspilt : ∀ d ∈ (s.ctx x).saved, (v.core (place d)).spilt := fun d hd => by
    rw [← hv]
    have hplaced := placeSaved_spilt (f := f) (place := place) hspilt (u := (s.occupy x p).updCtx x g) (.inl (List.mem_map_of_mem hd))
    unfold Core.spilt at hplaced ⊢
    rw [← rays_renameSrc _ x (place d) f] at hplaced
    exact hplaced
  rw [heq]
  dsimp only
  split
  · obtain ⟨ms, hms⟩ := releaseRanks_msgs ((s.occupy x p).updCtx x g) x ranks
    obtain ⟨hc, hn, hr⟩ := startSupervisor_keeps ({ (s.occupy x p).updCtx x g with msgs := ms } : State) x
    rw [hms]
    have hctx := (congrArg (Tbl.get · Ctx.reset x) hc).trans ((State.ctx_updCtx (s.occupy x p) x x g).trans (if_pos rfl))
    exact ⟨(congrArg Ctx.settled hctx).trans hon.settled, hn, hr⟩
  rw [hms, reopen_none hmerges, spillAll_places hvspilt, hvctx, hon.kernels hkernels]
  have hput : (v.ctx x).settled = (.active, some p, q.clusters, []) := by rw [hvctx, hon.settled]; rfl
  dsimp only [List.foldl_nil]
  split
  · next c _ =>
    obtain ⟨hs, hc, hr⟩ := staysPut_flushEvents v x c
    exact ⟨hs.trans hput, hc.trans hvconns, hr.trans hvreplies⟩
  · exact ⟨hput, hvconns, hvreplies⟩
end

/-! The commands carried out (Table 20-4). -/

/-- The context that a creation writes, PARKED, before it is put on its paddock (R254). -/
def createdCtx (dev : Nat) (c : CtxSpec) (p : Paddock) : Ctx :=
  { Ctx.reset with
    state := .parked, root := c.root.toNat, entry := c.entry, g1 := c.g1, wbase := c.wbase, wlimit := c.wlimit, clusters := p.clusters
    ranks := (p.clusters.flatMap (fun cl => (List.range 16).map (fun i => 16 * cl + i))).zipIdx.map (fun q => (q.2, mkRank dev q.1)) }

section
variable {s : State} {h : CmdHdr} (hx : h.ctx < 16)
include hx

theorem doContextCreate_admitted {c : CtxSpec} {p : Paddock} (hfree : (s.ctx h.ctx).state = .free) (hp : s.paddocks[c.paddock]? = some p)
    (hroot : bits c.root 12 0 = 0) (hroot' : bits c.root 63 46 = 0) (hentry : bits c.entry 1 0 = 0) (hentry' : bits c.entry 63 56 = 0) :
    s.doContextCreate h c = if Config.saveAreaFits s.freeCount = false then s.fresh.reply h 0x01 3 []
      else
        (if p.state = PadState.empty then (s.fresh.setCtx h.ctx (createdCtx s.devNum c p)).restoreCtx h.ctx c.paddock
          else s.fresh.setCtx h.ctx (createdCtx s.devNum c p)).reply h 0x01 0 [] := by
  unfold State.doContextCreate
  rw [ctxAdmit_admitted hx (by rw [hfree]; rfl), hp]
  dsimp only
  rw [hroot, hroot', hentry, hentry', if_neg (by decide)]
  rfl
theorem doTeardown_parked (hs : (s.ctx h.ctx).state = .parked) (hp : (s.ctx h.ctx).paddock = none) :
    s.doTeardown h = (s.freeCtx h.ctx).reply h 0x02 0 [] := by
  unfold State.doTeardown
  rw [ctxAdmit_admitted hx (by unfold Ctx.notFree; rw [hs]; rfl)]
  dsimp only
  rw [hs, hp]
  rfl
theorem doPreempt_parked (hs : (s.ctx h.ctx).state = .parked) : s.doPreempt h = s.reply h 0x24 2 [] :=
  ctxAdmit_refused ⟨hx, .inr hs⟩ (by unfold Ctx.isActive; rw [hs]; rfl) ..
theorem doResume_eq {p : Nat} {q : Paddock} (hs : (s.ctx h.ctx).state = .parked) (hq : s.paddocks[p]? = some q) : s.doResume h p =
    if q.state = PadState.empty ∧ fits (s.clustersOf h.ctx) q.clusters = true then (s.restoreCtx h.ctx p).reply h 0x25 0 []
    else s.reply h 0x25 2 [] := by
  unfold State.doResume
  rw [ctxAdmit_admitted hx (by unfold Ctx.isParked; rw [hs]; rfl), hq]

/-- The group's ranks are in transit, and the move waits for the messages on their way to its cores (R263). -/
def State.moveBegun (s : State) (h : CmdHdr) (g : Group) (target : Nat) (hard : Bool) : State :=
  (s.updCtx h.ctx (fun y => { y with park := some (.move h g.id target hard) })).markGroupRanks h.ctx g.cores

omit hx in
theorem ctx_moveBegun (s : State) (h : CmdHdr) (g : Group) (target : Nat) (hard : Bool) : (s.moveBegun h g target hard).ctx h.ctx =
    { s.ctx h.ctx with
      park := some (.move h g.id target hard)
      ranks := (s.ctx h.ctx).ranks.map (fun e =>
        (e.1, if rankV e.2 && rankDev e.2 == s.devNum && g.cores.contains (rankCore e.2) then e.2 ||| (1#64 <<< 62) else e.2)) } := by
  unfold State.moveBegun State.markGroupRanks
  rw [State.ctx_updCtx, if_pos rfl, State.ctx_updCtx, if_pos rfl]
  rfl
omit hx in
/-- A move whose messages have not landed goes no further. -/
theorem parkProgress_flying {g : Group} {target : Nat} {hard : Bool} (hs : (s.ctx h.ctx).state = .active)
    (hg : (s.ctx h.ctx).groups.find? (fun q => q.id == g.id) = some g) (hline : ∃ c ∈ g.cores, (s.core c).line = false)
    (hfly : s.groupFlying h.ctx g.cores = true) : (s.moveBegun h g target hard).parkProgress h.ctx = s.moveBegun h g target hard := by
  have hany : (g.cores.any fun c => !((s.moveBegun h g target hard).core c).line) = true := by
    obtain ⟨c, hc, hl⟩ := hline
    exact List.any_eq_true.mpr ⟨c, hc, by rw [show ((s.moveBegun h g target hard).core c).line = false from hl]; rfl⟩
  unfold State.parkProgress
  rw [ctx_moveBegun]
  dsimp only [ParkWhy.isMove, Ctx.moving]
  rw [hs]
  refine (if_pos rfl).trans ?_
  rw [hg]
  dsimp only
  rw [if_pos hany, show (s.moveBegun h g target hard).groupFlying h.ctx g.cores = true from hfly, if_pos rfl]
theorem doGroupMove_begins {w0 : Word} {g : Group} (hs : (s.ctx h.ctx).state = .active)
    (h1 : bits w0 7 4 = 0) (h2 : w0.getLsbD 15 = false) (h3 : bits w0 30 23 = 0) (h4 : bits w0 63 32 = 0)
    (hg : s.groupAt h.ctx (bits w0 14 8 * 16 + bits w0 3 0) = some g) (hk : bits w0 22 16 ∈ s.clustersOf h.ctx)
    (hfree : ∀ c ∈ g.cores, 16 * bits w0 22 16 + coreIdOf c ∈ s.freeCores h.ctx (bits w0 22 16) g.kid) (hr : g.state ≠ .retired)
    (hl : s.levelForbids g (bits w0 22 16) = false) :
    s.doGroupMove h w0 0 = (s.moveBegun h g (bits w0 22 16) (w0.getLsbD 31)).parkProgress h.ctx := by
  unfold State.doGroupMove
  dsimp only
  rw [ctxAdmit_admitted hx (by unfold Ctx.isActive; rw [hs]; rfl), h1, h2, h3, h4, if_neg (by decide), hg]
  dsimp only
  refine if_neg ?_
  rw [Bool.or_eq_true, Bool.or_eq_true, Bool.or_eq_true, hl]
  rintro (((hno | hno) | hno) | hno)
  · rw [List.contains_iff_mem.mpr hk] at hno
    exact Bool.false_ne_true hno
  · obtain ⟨c, hc, hno⟩ := List.any_eq_true.mp hno
    rw [List.contains_iff_mem.mpr (hfree c hc)] at hno
    exact Bool.false_ne_true hno
  · exact hr (beq_iff_eq.mp hno)
  · exact Bool.false_ne_true hno
end

/-- The group found by its core is the one found by its identifier. -/
theorem groupAt_find {s : State} {x c : Nat} {g : Group} (h : s.groupAt x c = some g) :
    (s.ctx x).groups.find? (fun q => q.id == g.id) = some g := by
  unfold State.groupAt at h
  obtain ⟨q, -, hq⟩ := Option.bind_eq_some_iff.mp h
  split at hq
  · have hid : g.id = q.2 := beq_iff_eq.mp (List.find?_some (p := fun g : Group => g.id == q.2) hq)
    rw [hid]
    exact hq
  · exact nomatch hq

/-- Settles O49: a creation and a resume by what `restoreCtx` leaves, a move by the messages that it waits for. -/
theorem contextCommands : Obligations.ContextCommands := by
  refine fun h => ⟨⟨fun _ => takes_of_receive fun _ => rfl, takes_of_receive fun _ => rfl, takes_of_receive fun _ => rfl,
    fun _ => takes_of_receive fun _ => rfl, fun _ _ => takes_of_receive fun _ => rfl⟩, fun d b s hx =>
    ⟨fun c p k ks hw hfree hp hroot hroot' hentry hentry' hks => ⟨fun hfits => ?_, fun hfits => ?_⟩, fun hw hs hp => ?_, fun hw hs => ?_,
      fun p q hw hs hq => ⟨fun hempty hfit hkernels hsaved => ?_, fun hno => ?_⟩,
      fun w0 g hw hs h1 h2 h3 h4 hg hk hfree hr hl hline hfly => ?_⟩⟩
  · have ho := doContextCreate_admitted (s := s.unmail d) hx (c := c) hfree hp hroot hroot' hentry hentry'
    rw [if_neg (fun hno => Bool.false_ne_true (hno.symm.trans hfits))] at ho
    generalize hu : (s.unmail d).fresh.setCtx h.ctx (createdCtx (s.unmail d).devNum c p) = u at ho
    have hctx : u.ctx h.ctx = createdCtx s.devNum c p := by
      rw [← hu]
      exact (State.ctx_setCtx ..).trans (if_pos rfl)
    have hkept : u.conns = s.conns ∧ u.replies = s.replies ∧ u.paddocks[c.paddock]? = some p := by
      rw [← hu]
      exact ⟨rfl, rfl, hp⟩
    by_cases hempty : p.state = PadState.empty
    · obtain ⟨t, z, born, ht, hconns, hreplies, hz, ⟨hsettled, ⟨he, hg1, hwb, hwl, hr⟩, -⟩, hthread⟩ :=
        restoreCtx_new (s := u) (x := h.ctx) (by rw [hctx]; rfl) hkept.2.2 hks
      rw [if_pos hempty, ht] at ho
      obtain ⟨hexec, hans⟩ := answered_of_waiting hw ho (hconns.trans hkept.1) (hreplies.trans hkept.2.1)
      rw [hctx] at he hg1 hwb hwl hr
      refine ⟨_, hexec, hans, ?_, ?_, fun hno => absurd hempty hno, fun _ => ⟨?_, ?_, ?_⟩⟩
      · rw [State.ctx_reply, hz, hr]
        rfl
      · rw [State.ctx_reply, hz, he]
        rfl
      · rw [State.ctx_reply, hz]
        exact (congrArg (fun r => r.1) hsettled :)
      · rw [State.ctx_reply, hz]
        exact (congrArg (fun r => r.2.1) hsettled :)
      · rw [show ((t.reply h 0x01 0 []).core (16 * k)).thread 0 = z.supervisor h.ctx born from hthread]
        exact ⟨rfl, rfl, he, hg1, supervisor_sup .., congrArg (· &&& ~~~7#64) hwb, congrArg (· &&& ~~~7#64) hwl⟩
    · rw [if_neg hempty] at ho
      obtain ⟨hexec, hans⟩ := answered_of_waiting hw ho hkept.1 hkept.2.1
      refine ⟨_, hexec, hans, ?_, ?_, fun _ => ?_, fun he => absurd he hempty⟩ <;> rw [State.ctx_reply, hctx] <;> rfl
  · have ho := doContextCreate_admitted (s := s.unmail d) hx (c := c) hfree hp hroot hroot' hentry hentry'
    obtain ⟨hexec, hans⟩ := answered_of_waiting hw (ho.trans (if_pos hfits)) rfl rfl
    exact ⟨_, hexec, hans, rfl⟩
  · obtain ⟨hexec, hans⟩ := answered_of_waiting hw (doTeardown_parked (s := s.unmail d) hx hs hp) rfl rfl
    refine ⟨_, hexec, hans, ?_⟩
    rw [State.ctx_reply]
    exact (State.ctx_setCtx ((s.unmail d).invTlbs h.ctx 0 true) h.ctx h.ctx Ctx.reset).trans (if_pos rfl)
  · obtain ⟨hexec, hans⟩ := answered_of_waiting hw (doPreempt_parked (s := s.unmail d) hx hs) rfl rfl
    exact ⟨_, hexec, hans, rfl⟩
  · have ho := doResume_eq (s := s.unmail d) hx hs hq
    rw [if_pos ⟨hempty, hfit⟩] at ho
    obtain ⟨hsettled, hconns, hreplies⟩ := restoreCtx_settles (s := s.unmail d) (x := h.ctx) hq hkernels (fun v hv => (hsaved v hv).1)
      (fun v hv => (hsaved v hv).2)
    obtain ⟨hexec, hans⟩ := answered_of_waiting hw ho hconns hreplies
    refine ⟨_, hexec, hans, ?_, ?_, ?_, ?_⟩ <;> rw [State.ctx_reply]
    · exact (congrArg (fun r => r.1) hsettled :)
    · exact (congrArg (fun r => r.2.1) hsettled :)
    · exact (congrArg (fun r => r.2.2.1) hsettled :)
    · exact (congrArg (fun r => r.2.2.2) hsettled :)
  · have ho := doResume_eq (s := s.unmail d) hx hs hq
    rw [if_neg (fun hyes => ?_)] at ho
    · obtain ⟨hexec, hans⟩ := answered_of_waiting hw ho rfl rfl
      exact ⟨_, hexec, hans, rfl⟩
    · rcases hno with hno | hno
      · exact hno hyes.1
      · exact Bool.false_ne_true (hno.symm.trans hyes.2)
  · have ho := doGroupMove_begins (s := s.unmail d) hx hs h1 h2 h3 h4 hg hk hfree hr hl
    rw [parkProgress_flying (s := s.unmail d) hs (groupAt_find hg) hline hfly] at ho
    refine ⟨_, (exec_of_waiting hw).trans (congrArg Host.Outcome.next ho), ?_, rfl, fun _ => rfl, ?_⟩
    · rw [ctx_moveBegun]
    · rw [ctx_moveBegun]
      rfl

end Sys2Proof.Machine
end

section
/-! O51 DeviceCommands: the commands that the firmware carries out, repeated numbers and unknown opcodes (R17, R253, R328, R329, R331-R336, R342). -/

namespace Sys2Proof.Machine

open Sys2Proof Sys2Proof.Safety

/-! Paddocks in ascending order of cluster (R253). -/

theorem insertNat_eq (a : Nat) (l : List Nat) : insertNat a l = l.orderedInsert (· ≤ ·) a := by
  induction l with
  | nil => rfl
  | cons b l ih => rw [insertNat, List.orderedInsert_cons, ih]
theorem sortNat_sorted (l : List Nat) : (sortNat l).Pairwise (· ≤ ·) := by
  have heq : sortNat l = l.insertionSort (· ≤ ·) := congrArg (fun f => l.foldr f []) (funext fun a => funext (insertNat_eq a))
  exact heq ▸ List.pairwise_insertionSort (· ≤ ·) l
theorem eraseDups_nodup {l : List Nat} (h : l.Nodup) : l.eraseDups = l := by
  induction l with
  | nil => rfl
  | cons a l ih =>
    obtain ⟨ha, hl⟩ := List.nodup_cons.mp h
    have hfilter : l.filter (fun b => !b == a) = l := List.filter_eq_self.mpr fun b hb => by
      simpa using fun hba : b = a => ha (hba ▸ hb)
    rw [List.eraseDups_cons, hfilter, ih hl]

/-! Commands that the firmware carries out itself (R332). -/

/-- A command that goes to no dispatcher is carried out at once. -/
theorem exec_carriedOut {i : Instr} {h : CmdHdr} {op : Nat} {cmd : Typoro} (hi : ∀ s, exec i s = .next (s.receive h op cmd))
    (hd : ∀ s : State, s.commandDies h cmd = []) {s : State} (hr : CmdReady s h) (hb : badHdr h cmd = false) :
    exec i s = .next ((taken s ⟨h, op, cmd, false⟩).carryOut ⟨h, op, cmd, false⟩) := by
  obtain ⟨t, ht, hdone, -⟩ := takes_of_receive hi s hr hb
  rw [ht, hdone (hd s)]
theorem conn_taken (s : State) (c : Command) (k : Nat) : (taken s c).conn k =
    if k = c.hdr.conn then { s.conn c.hdr.conn with lastSeq := some c.hdr.seq, taken := (s.conn c.hdr.conn).taken + 1 } else s.conn k :=
  Tbl.get_set ..
/-- The reply to a command that the firmware took answers it. -/
theorem answered_taken {s u : State} {c : Command} (hc : u.conns = (taken s c).conns) (hr : u.replies = s.replies) (op st : Nat) (pl : List Byte) :
    Answered s (u.reply c.hdr op st pl) c.hdr op st pl := by
  have hl : ((taken s c).conn c.hdr.conn).lastSeq = some c.hdr.seq := by rw [conn_taken, if_pos rfl]
  obtain ⟨r, h1, h2, h3, h4, h5, h6, h7, h8, h9, h10, h11, h12, h13, h14, hothers⟩ := answered_reply hl hc hr op st pl
  exact ⟨r, h1, h2, h3, h4, h5, h6, h7, h8, h9, h10, h11, h12, h13, h14, fun k hk => (hothers k hk).trans ((conn_taken ..).trans (if_neg hk))⟩

/-- The firmware carries out a command that it takes now, which comes to a reply. -/
theorem answered_of_ready {s u : State} {i : Instr} {h : CmdHdr} {op st : Nat} {cmd : Typoro} {pl : List Byte}
    (hi : ∀ s, exec i s = .next (s.receive h op cmd)) (hd : ∀ s : State, s.commandDies h cmd = []) (hr : CmdReady s h) (hb : badHdr h cmd = false)
    (ho : (taken s ⟨h, op, cmd, false⟩).carryOut ⟨h, op, cmd, false⟩ = u.reply h op st pl)
    (hc : u.conns = (taken s ⟨h, op, cmd, false⟩).conns) (hrep : u.replies = s.replies) :
    exec i s = .next (u.reply h op st pl) ∧ Answered s (u.reply h op st pl) h op st pl :=
  ⟨(exec_carriedOut hi hd hr hb).trans (congrArg Host.Outcome.next ho), answered_taken hc hrep op st pl⟩

theorem port_reply (s : State) (h : CmdHdr) (op st : Nat) (pl : List Byte) (q : Nat) : (s.reply h op st pl).port q = s.port q := rfl
theorem io_reply (s : State) (h : CmdHdr) (op st : Nat) (pl : List Byte) (q : Nat) : (s.reply h op st pl).io q = s.io q := rfl
/-- What taking a command changes of an IO die: what packets its connections have brought. -/
theorem io_taken (s : State) (c : Command) (j : Nat) : (taken s c).io j = (s.usePacket c.hdr.conn).io j := rfl
theorem usePacket_rest (s : State) (conn j : Nat) : ((s.usePacket conn).io j).keys = (s.io j).keys
    ∧ ((s.usePacket conn).io j).routes = (s.io j).routes ∧ ((s.usePacket conn).io j).held = (s.io j).held
    ∧ ((s.usePacket conn).io j).events = (s.io j).events := by
  unfold State.usePacket
  rw [State.io_updIo]
  split
  · next h => rw [h]; exact ⟨rfl, rfl, rfl, rfl⟩
  · exact ⟨rfl, rfl, rfl, rfl⟩
theorem find?_map_of_iff {α : Type} {p : α → Bool} {f : α → α} (hf : ∀ x, p (f x) = p x) (l : List α) :
    (l.map f).find? p = (l.find? p).map f := by
  rw [List.find?_map]
  exact congrArg (Option.map f) (congrArg (List.find? · l) (funext hf))
/-- A connection that has brought one packet less is the same connection. -/
theorem uetConn_usePacket (s : State) (conn c : Nat) : (s.usePacket conn).uetConn c
    = (s.uetConn c).map (fun u => if ioOfConn c = ioOfConn conn ∧ u.num = conn then { u with packets := u.packets - 1 } else u) := by
  unfold State.uetConn State.usePacket
  rw [State.io_updIo]
  by_cases hio : ioOfConn c = ioOfConn conn
  · rw [if_pos hio]
    dsimp only
    rw [find?_map_of_iff (fun u => by split <;> rfl), hio]
    exact congrArg (Option.map · _) (funext fun u => by simp)
  · rw [if_neg hio]
    simp [hio]
theorem serves_usePacket (s : State) (conn eng c : Nat) : (s.usePacket conn).serves eng c = s.serves eng c := by
  unfold State.serves
  rw [uetConn_usePacket]
  cases s.uetConn c with
  | none => rfl
  | some u =>
    rw [Option.map_some]
    dsimp only
    split <;> rfl

/-! Device commands (Table 20-4). -/

section
variable {s : State} {h : CmdHdr}

theorem devAdmit_admitted (hx : h.ctx = 31) (op : Nat) (go : State) : s.devAdmit h op go = go := if_pos hx

theorem doPaddockDefine_defines (hx : h.ctx = 31) {sets : List (List Nat)} (hempty : ∀ p ∈ s.paddocks, p.state = PadState.empty) (hne : sets ≠ [])
    (hlen : sets.length ≤ 8) (hsets : ∀ l ∈ sets, l ≠ []) (hcl : ∀ c ∈ sets.flatten, c < 128 ∧ (s.cluster c).available = true)
    (hnodup : sets.flatten.Nodup) :
    s.doPaddockDefine h sets = ({ s with paddocks := sets.map (fun cs => ⟨sortNat cs, PadState.empty, 0⟩) } : State).reply h 0x03 0 [] := by
  have hbusy : ¬ (s.paddocks.any fun p => p.state != PadState.empty) = true := by
    rw [List.any_eq_true]
    rintro ⟨p, hp, hno⟩
    rw [hempty p hp] at hno
    exact Bool.false_ne_true hno
  have hbad : ¬ (sets.isEmpty = true ∨ 8 < sets.length ∨ sets.any (·.isEmpty) = true ∨ (sets.flatten.any fun c => 128 ≤ c) = true
      ∨ sets.flatten.eraseDups.length ≠ sets.flatten.length) := by
    rintro (hno | hno | hno | hno | hno)
    · exact hne (List.isEmpty_iff.mp hno)
    · exact Nat.not_lt.mpr hlen hno
    · obtain ⟨l, hl, hno⟩ := List.any_eq_true.mp hno
      exact hsets l hl (List.isEmpty_iff.mp hno)
    · obtain ⟨c, hc, hno⟩ := List.any_eq_true.mp hno
      exact Nat.not_le.mpr (hcl c hc).1 (of_decide_eq_true hno)
    · exact hno (congrArg List.length (eraseDups_nodup hnodup))
  have hgone : ¬ (sets.flatten.any fun c => !(s.cluster c).available) = true := by
    rw [List.any_eq_true]
    rintro ⟨c, hc, hno⟩
    rw [(hcl c hc).2] at hno
    exact Bool.false_ne_true hno
  unfold State.doPaddockDefine
  rw [devAdmit_admitted hx]
  dsimp only
  rw [if_neg hbusy, if_neg hbad, if_neg hgone]

theorem bytes_length (e : IoEvent) : e.bytes.length = 32 := by
  simp [IoEvent.bytes, wordBytes]
theorem doEventRead_reads {io n : Nat} (hio : io < 2) (hn : n < 256) : s.doEventRead h io n =
    (s.updIo io (·.read n)).reply h 0x30 0
      (leBytes 8 ((s.io io).events.take n).length ++ leBytes 8 (s.io io).lost ++ ((s.io io).events.take n).flatMap IoEvent.bytes) := by
  unfold State.doEventRead
  rw [if_neg (by omega)]
theorem eventReply_length (l : List IoEvent) (a b : Nat) : (leBytes 8 a ++ leBytes 8 b ++ l.flatMap IoEvent.bytes).length = 16 + 32 * l.length := by
  have hsum : (l.map fun e => e.bytes.length).sum = 32 * l.length := by
    simp [bytes_length, Nat.mul_comm]
  rw [List.length_append, List.length_append, leBytes_length, leBytes_length, List.length_flatMap, hsum]

theorem doLinkConfig_number (hx : h.ctx = 31) (n : BitVec 8) :
    s.doLinkConfig h (some n) [] [] = ({ s with devNum := n.toNat } : State).reply h 0x50 0 [] := by
  unfold State.doLinkConfig
  rw [devAdmit_admitted hx]
  rfl
theorem doLinkConfig_port (hx : h.ctx = 31) {p : Nat} (hp : p < 36) (hs : (s.port p).state = .down) : s.doLinkConfig h none [(p, true)] [] =
    ((s.updPort p (fun p => { p with state := .training, attempts := 0, waitRetry := false })).trainingFlits p).reply h 0x50 0 [] := by
  have hset : s.setPort p true = (s.updPort p (fun p => { p with state := .training, attempts := 0, waitRetry := false })).trainingFlits p :=
    (if_pos rfl).trans (if_pos (Or.inl hs))
  unfold State.doLinkConfig
  rw [devAdmit_admitted hx, if_neg (by simp [hp]), if_neg (by simp)]
  exact congrArg (fun t : State => t.reply h 0x50 0 []) hset
theorem port_trains (s : State) (p q : Nat) :
    ((s.updPort p (fun p => { p with state := .training, attempts := 0, waitRetry := false })).trainingFlits p).port q = if q = p
      then { s.port p with state := .training, attempts := 0, waitRetry := false }.control 4 s.devNum 0 else s.port q := by
  rw [State.trainingFlits, State.port_updPort]
  refine ite_congr rfl (fun _ => ?_) fun hq => (State.port_updPort ..).trans (if_neg hq)
  rw [State.port_updPort, if_pos rfl]
  rfl
theorem trains_kept (s : State) (p : Nat) (f : Port → Port) : ((s.updPort p f).trainingFlits p).conns = s.conns
    ∧ ((s.updPort p f).trainingFlits p).replies = s.replies := ⟨rfl, rfl⟩
theorem doLinkConfig_key (hx : h.ctx = 31) {c : Nat} {key : List Byte} (hc : c < 8192) (hkey : key.length = 32) :
    s.doLinkConfig h none [] [(c, key)] = (s.setKey (c, key)).reply h 0x50 0 [] := by
  unfold State.doLinkConfig
  rw [devAdmit_admitted hx, if_neg (by simp [hkey]), if_neg (by simp [hc])]
  rfl
theorem find?_replaced {α : Type} (l : List (Nat × α)) (k : Nat × α) : (l.filter (fun p => p.1 != k.1) ++ [k]).find? (fun p => p.1 == k.1) = some k := by
  rw [List.find?_append, List.find?_eq_none.mpr fun x hx => by simpa using (List.mem_filter.mp hx).2]
  simp
theorem key_setKey (s : State) (c : Nat) (key : List Byte) :
    ((s.setKey (c, key)).io (ioOfConn c)).keys.find? (fun k => k.1 == c) = some (c, key) := by
  rw [State.setKey, State.io_updIo, if_pos rfl]
  exact find?_replaced _ (c, key)

/-- Both IO dies' tables name the port. -/
def State.routed (s : State) (dst p : Nat) : State := [0, 1].foldl (fun s io => s.updIo io (fun d => { d with routes := d.routes.set dst p })) s
theorem routes_routed (s : State) (dst p : Nat) {io : Nat} (h : io < 2) : ((s.routed dst p).io io).routes = (s.io io).routes.set dst p := by
  rw [State.routed, List.foldl_cons, List.foldl_cons, List.foldl_nil]
  match io, h with
  | 0, _ => rw [State.io_updIo, if_neg (by decide), State.io_updIo, if_pos rfl]
  | 1, _ => rw [State.io_updIo, if_pos rfl, State.io_updIo, if_neg (by decide)]
theorem routed_kept (s : State) (dst p : Nat) : (s.routed dst p).conns = s.conns ∧ (s.routed dst p).replies = s.replies := ⟨rfl, rfl⟩
theorem route_routed (s : State) (dst p : Nat) {io : Nat} (h : io < 2) :
    ((s.routed dst p).io io).routes.find? (fun r => r.1 == dst) = some (dst, p) := by
  rw [routes_routed _ _ _ h, Tbl.find?_set, if_pos rfl]
/-- A port that takes no flit sends nothing that is held. -/
theorem sendHeld_routed {p : Nat} (hs : (s.port p).state = .down) (dst fuel : Nat) : (s.routed dst p).sendHeld dst fuel = s.routed dst p := by
  have hnamed (io : Nat) (hio : io < 2) : (s.routed dst p).namedPort io dst = none := by
    unfold State.namedPort
    rw [routes_routed s dst p hio, Tbl.find?_set, if_pos rfl, Option.bind_some, show ((s.routed dst p).port p).state = .down from hs]
    rfl
  cases fuel with
  | zero => rfl
  | succ fuel =>
    unfold State.sendHeld
    cases ho : (s.routed dst p).oldestHeld dst with
    | none => rfl
    | some x =>
      obtain ⟨io, f⟩ := x
      have hmem := List.mem_of_find?_eq_some ho
      obtain ⟨j, hj, hmem⟩ := List.mem_flatMap.mp hmem
      obtain ⟨g, -, hg⟩ := List.mem_map.mp hmem
      obtain ⟨rfl, rfl⟩ := Prod.mk.inj hg
      have hlt : j < 2 := by
        rcases List.mem_cons.mp hj with rfl | hj
        · decide
        · rw [List.mem_singleton.mp hj]
          decide
      dsimp only
      rw [hnamed j hlt]
      rfl
theorem doRouteSet_routes (hx : h.ctx = 31) {dst : BitVec 8} {p : Nat} (hp : p < 36) (hs : (s.port p).state = .down) :
    s.doRouteSet h dst (some p) = (s.routed dst.toNat p).reply h 0x51 0 [] := by
  unfold State.doRouteSet
  rw [devAdmit_admitted hx]
  dsimp only
  rw [if_neg (Nat.not_le.mpr hp)]
  exact congrArg (fun t : State => t.reply h 0x51 0 []) (sendHeld_routed hs dst.toNat _)

theorem isNone_of_serves {eng c : Nat} (hs : s.serves eng c = true) : (s.uetConn c).isNone = false := by
  unfold State.serves at hs
  cases hc : s.uetConn c with
  | none => rw [hc] at hs; exact absurd hs Bool.false_ne_true
  | some u => rfl
theorem doEncoderSetup_binds (hx : h.ctx = 31) {eng e c : Nat} (heng : eng < 8) (he : e < 64) (hs : s.serves eng c = true) :
    s.doEncoderSetup h eng [(e, some c)] = (s.updEncoder eng (fun q => { q with binds := Tbl.set q.binds e c })).reply h 0x60 0 [] := by
  unfold State.doEncoderSetup
  rw [devAdmit_admitted hx]
  dsimp only
  rw [if_neg (by simp [heng, he, isNone_of_serves hs]), if_neg (by simp [hs])]
  rfl
theorem encoder_bound (s : State) (eng e c : Nat) :
    ((s.updEncoder eng (fun q => { q with binds := Tbl.set q.binds e c })).encoder eng).binds.find? (fun b => b.1 == e) = some (e, c)
      ∧ ∀ k, k ≠ eng → (s.updEncoder eng (fun q => { q with binds := Tbl.set q.binds e c })).encoder k = s.encoder k := by
  refine ⟨?_, fun k hk => Tbl.get_set_ne _ _ _ hk⟩
  unfold State.updEncoder
  rw [State.encoder, Tbl.get_set_self]
  exact (Tbl.find?_set ..).trans (if_pos rfl)
theorem doEncoderSetup_refused (hx : h.ctx = 31) {eng e c : Nat} (heng : eng < 8) (he : e < 64) (hc : s.uetConn c ≠ none)
    (hs : s.serves eng c = false) : s.doEncoderSetup h eng [(e, some c)] = s.reply h 0x60 2 [] := by
  unfold State.doEncoderSetup
  rw [devAdmit_admitted hx]
  dsimp only
  rw [if_neg (by simp [heng, he, hc]), if_pos (by simp [hs])]

/-! Quotes and patches (R335, R342). -/

theorem length_flatMap_pair {α β : Type} (f g : α → β) (l : List α) : (l.flatMap fun a => [f a, g a]).length = 2 * l.length := by
  induction l with
  | nil => rfl
  | cons a l ih =>
    rw [List.flatMap_cons, List.length_append, ih]
    simp only [List.length_cons, List.length_nil]
    omega
theorem counts_length (l : Lifetime) : l.counts.length = 572 := by
  unfold Lifetime.counts
  rw [List.length_append, List.length_append, List.length_append, List.length_append, length_flatMap_pair, List.length_map, List.length_map,
    List.length_map, List.length_range, List.length_range, List.length_range, List.length_range]
  rfl
theorem lifetimeBytes_length (l : Lifetime) : l.bytes.length = 4576 := by
  have hsum : (l.counts.map fun n => (leBytes 8 (min n (2 ^ 64 - 1))).length).sum = 8 * l.counts.length := by
    simp [Nat.mul_comm]
  unfold Lifetime.bytes
  rw [List.length_flatMap, hsum, counts_length]
theorem quoteBody_length {nonce : List Byte} (hn : nonce.length = 32) : (s.quoteBody nonce).length = 4712 := by
  unfold State.quoteBody digestBytes w32Bytes
  simp only [List.length_append, leBytes_length, hn, lifetimeBytes_length]
theorem doAttestationQuote_quotes {nonce : List Byte} (hn : nonce.length = 32) : s.doAttestationQuote h nonce =
    s.reply h 0x70 0 (s.quoteBody nonce ++ leBytes 64 (Config.edSign Config.keySeed (s.quoteBody nonce)).toNat) := if_neg (not_not.mpr hn)

/-- The image is for this ROM and its signature holds. -/
def PatchGood (image sig : List Byte) : Prop :=
  bits (dwordAt image 0) 31 0 = Config.romVersion.toNat ∧ Config.patchSignatureHolds (image.take (image.length - 64)) sig = true
theorem doPatchLoad_parsed (hx : h.ctx = 31) {image : List Byte} {es : List PatchEntry} {sig : List Byte}
    (hidle : ∀ x ∈ s.ctxs, x.2.state = .free ∨ x.2.state = .parked) (hlen : 32 ≤ image.length) (hn : bits (dwordAt image 8) 7 0 ≠ 0)
    (hn' : bits (dwordAt image 8) 7 0 ≤ 64) (hparse : parseEntries (bits (dwordAt image 8) 7 0) (image.drop 32) = some (es, sig))
    (hsig : sig.length = 64) (hroom : s.patches.length + es.length ≤ 64) :
    (PatchGood image sig → s.doPatchLoad h image =
      ({ s with patches := s.patches ++ es, patchImages := s.patchImages ++ [image] } : State).reply h 0x80 0 [])
    ∧ (¬ PatchGood image sig → s.doPatchLoad h image = s.reply h 0x80 5 []) := by
  have hbusy : ¬ (s.ctxs.any fun x => x.2.state != .free && x.2.state != .parked) = true := by
    rw [List.any_eq_true]
    rintro ⟨x, hx, hno⟩
    rcases hidle x hx with hs | hs <;> rw [hs] at hno <;> exact absurd hno (by decide)
  have hsize : ¬ (image.length < 32 ∨ bits (dwordAt image 8) 7 0 = 0 ∨ 64 < bits (dwordAt image 8) 7 0) := by
    rintro (hno | hno | hno)
    · exact Nat.not_lt.mpr hlen hno
    · exact hn hno
    · exact Nat.not_lt.mpr hn' hno
  have heq : s.doPatchLoad h image = if bits (dwordAt image 0) 31 0 ≠ Config.romVersion.toNat ∨
      Config.patchSignatureHolds (image.take (image.length - 64)) sig = false then s.reply h 0x80 5 []
      else ({ s with patches := s.patches ++ es, patchImages := s.patchImages ++ [image] } : State).reply h 0x80 0 [] := by
    unfold State.doPatchLoad
    rw [devAdmit_admitted hx]
    dsimp only
    rw [if_neg hbusy, if_neg hsize, hparse]
    dsimp only
    rw [if_neg (not_not.mpr hsig), if_neg (c := 64 < s.patches.length + es.length) (Nat.not_lt.mpr hroom)]
  unfold PatchGood
  refine ⟨fun ⟨hv, hs⟩ => heq.trans (if_neg ?_), fun hno => heq.trans (if_pos ?_)⟩
  · rintro (hv' | hs')
    · exact hv' hv
    · exact Bool.false_ne_true (hs'.symm.trans hs)
  · by_contra hboth
    obtain ⟨hv, hs⟩ := not_or.mp hboth
    exact hno ⟨not_not.mp hv, Bool.not_eq_false _ ▸ hs⟩

/-! Repeated and unknown commands (R333). -/

theorem reads_of_room (hp : s.mgmt.powered = true) (hm : s.mgmt.ready = true)
    (hu : ∃ u, s.uetConn h.conn = some u ∧ u.rod = true ∧ u.endpoint = 0 ∧ u.packets ≠ 0) :
    s.reads h = decide (s.inbox.countP (fun c => c.hdr.conn == h.conn) < 64) := by
  obtain ⟨u, hu, hrod, he, hk⟩ := hu
  unfold State.reads
  rw [hp, hm, hu, Option.any_some, hrod, he]
  simp [hk]
theorem next_of_last {l : W32} {k : Conn} (hl : k.lastSeq = some l) (seq : W32) : k.next seq = (seq == l + 1) := by
  unfold Conn.next
  rw [hl]
theorem inWindow_of_last {l : W32} {k : Conn} (hl : k.lastSeq = some l) (seq : W32) : k.inWindow seq = decide ((l - seq).toNat < min 64 k.taken) := by
  unfold Conn.inWindow
  rw [hl]
/-- A command of no opcode is answered with status 1, whether or not its header is well formed. -/
theorem exec_badCommand {op : BitVec 16} (hr : CmdReady s h) :
    exec (.typoroBadCommand h op) s = .next ((taken s ⟨h, op.toNat, .bad, false⟩).reply h op.toNat 1 []) := by
  have ⟨_, _, _, _, hi⟩ := hr
  have hin : (taken s ⟨h, op.toNat, .bad, false⟩).inbox = [⟨h, op.toNat, .bad, false⟩] := by simp [taken, hi]
  have hroom : (taken s ⟨h, op.toNat, .bad, false⟩).mailRoom [] = true := rfl
  have hstart : (taken s ⟨h, op.toNat, .bad, false⟩).startable = some ⟨h, op.toNat, .bad, false⟩ := by
    unfold State.startable
    rw [hin]
    simp [State.mayStart, State.commandDies, hroom]
  refine congrArg Host.Outcome.next ((receive_of_cmdReady hr op.toNat .bad).trans ?_)
  unfold State.firmware
  rw [hstart]
  dsimp only
  unfold State.startCommand
  dsimp only
  split <;> rfl
end


/-! The statement, command by command. -/

section
variable {s : State} {h : CmdHdr}

theorem paddockDefine_clause {sets : List (List Nat)} {d : Nat} {b : Bool} (hx : h.ctx = 31) (hw : Waiting s d ⟨h, 0x03, .paddockDefine sets, b⟩)
    (hempty : ∀ p ∈ s.paddocks, p.state = PadState.empty) (hne : sets ≠ []) (hlen : sets.length ≤ 8) (hsets : ∀ l ∈ sets, l ≠ [])
    (hcl : ∀ c ∈ sets.flatten, c < 128 ∧ (s.cluster c).available = true) (hnodup : sets.flatten.Nodup) :
    ∃ t, exec (.mailboxCommand d) s = .next t ∧ Answered s t h 0x03 0 []
      ∧ t.paddocks.length = sets.length ∧ ∀ p ∈ t.paddocks, p.state = PadState.empty ∧ p.clusters.Pairwise (· ≤ ·) := by
  obtain ⟨hexec, hans⟩ := answered_of_waiting hw (doPaddockDefine_defines (s := s.unmail d) hx hempty hne hlen hsets hcl hnodup) rfl rfl
  refine ⟨_, hexec, hans, List.length_map .., fun p hp => ?_⟩
  obtain ⟨l, -, rfl⟩ := List.mem_map.mp hp
  exact ⟨rfl, sortNat_sorted l⟩
theorem eventRead_clause {io n : Nat} (hr : CmdReady s h) (hb : badHdr h (.eventRead io n) = false) (hio : io < 2) (hn : n < 256) :
    ∃ t, exec (.typoroEventRead h io n) s = .next t
      ∧ (∃ pl, Answered s t h 0x30 0 pl ∧ pl.length = 16 + 32 * ((s.io io).events.take n).length)
      ∧ t.io io = ((s.usePacket h.conn).io io).read n := by
  obtain ⟨hexec, hans⟩ := answered_of_ready (i := .typoroEventRead h io n) (fun _ => rfl) (fun _ => rfl) hr hb
    (doEventRead_reads (s := taken s ⟨h, 0x30, .eventRead io n, false⟩) hio hn) rfl rfl
  refine ⟨_, hexec, ⟨_, hans, ?_⟩, ?_⟩
  · rw [eventReply_length, io_taken, (usePacket_rest s h.conn io).2.2.2]
  · exact (State.io_updIo (taken s ⟨h, 0x30, .eventRead io n, false⟩) io io (·.read n)).trans (if_pos rfl)
theorem number_clause {n : BitVec 8} (hd : DevReady s h (.linkConfig (some n) [] [])) :
    ∃ t, exec (.typoroLinkConfig h (some n) [] []) s = .next t ∧ Answered s t h 0x50 0 [] ∧ t.devNum = n.toNat := by
  obtain ⟨hr, hb, hx⟩ := hd
  obtain ⟨hexec, hans⟩ := answered_of_ready (i := .typoroLinkConfig h (some n) [] []) (fun _ => rfl) (fun _ => rfl) hr hb
    (doLinkConfig_number (s := taken s ⟨h, 0x50, .linkConfig (some n) [] [], false⟩) hx n) rfl rfl
  exact ⟨_, hexec, hans, rfl⟩
theorem port_clause {p : Nat} (hd : DevReady s h (.linkConfig none [(p, true)] [])) (hp : p < 36) (hs : (s.port p).state = .down) :
    ∃ t a, exec (.typoroLinkConfig h none [(p, true)] []) s = .next t
      ∧ Answered s t h 0x50 0 [] ∧ (t.port p).state = .training ∧ (t.port p).sent = (s.port p).sent ++ [a] ∧ a.type = 4
      ∧ ∀ q, q ≠ p → t.port q = s.port q := by
  obtain ⟨hr, hb, hx⟩ := hd
  obtain ⟨hexec, hans⟩ := answered_of_ready (i := .typoroLinkConfig h none [(p, true)] []) (fun _ => rfl) (fun _ => rfl) hr hb
    (doLinkConfig_port (s := taken s ⟨h, 0x50, .linkConfig none [(p, true)] [], false⟩) hx hp hs) (trains_kept ..).1 (trains_kept ..).2
  obtain ⟨a, hsent, htype, -⟩ := control_sent { s.port p with state := .training, attempts := 0, waitRetry := false } 4 s.devNum 0
  refine ⟨_, a, hexec, hans, ?_, ?_, htype, fun q hq => ?_⟩
  · rw [port_reply, port_trains, if_pos rfl]
    rfl
  · rw [port_reply, port_trains, if_pos rfl]
    exact hsent
  · rw [port_reply, port_trains, if_neg hq]
    rfl
theorem key_clause {c : Nat} {key : List Byte} (hd : DevReady s h (.linkConfig none [] [(c, key)])) (hc : c < 8192) (hkey : key.length = 32) :
    ∃ t, exec (.typoroLinkConfig h none [] [(c, key)]) s = .next t
      ∧ Answered s t h 0x50 0 [] ∧ (t.io (ioOfConn c)).keys.find? (fun k => k.1 == c) = some (c, key) := by
  obtain ⟨hr, hb, hx⟩ := hd
  obtain ⟨hexec, hans⟩ := answered_of_ready (i := .typoroLinkConfig h none [] [(c, key)]) (fun _ => rfl) (fun _ => rfl) hr hb
    (doLinkConfig_key (s := taken s ⟨h, 0x50, .linkConfig none [] [(c, key)], false⟩) hx hc hkey) rfl rfl
  exact ⟨_, hexec, hans, key_setKey _ c key⟩
theorem route_clause {dst : BitVec 8} {p : Nat} (hd : DevReady s h (.routeSet dst (some p))) (hp : p < 36) (hs : (s.port p).state = .down) :
    ∃ t, exec (.typoroRouteSet h dst (some p)) s = .next t ∧ Answered s t h 0x51 0 []
      ∧ ∀ io, io < 2 → (t.io io).routes.find? (fun r => r.1 == dst.toNat) = some (dst.toNat, p) := by
  obtain ⟨hr, hb, hx⟩ := hd
  obtain ⟨hexec, hans⟩ := answered_of_ready (i := .typoroRouteSet h dst (some p)) (fun _ => rfl) (fun _ => rfl) hr hb
    (doRouteSet_routes (s := taken s ⟨h, 0x51, .routeSet dst (some p), false⟩) hx hp hs) (routed_kept ..).1 (routed_kept ..).2
  refine ⟨_, hexec, hans, fun io hio => ?_⟩
  rw [io_reply, route_routed _ dst.toNat p hio]
theorem encoder_clause {eng e c : Nat} (hd : DevReady s h (.encoderSetup eng [(e, some c)])) (heng : eng < 8) (he : e < 64) :
    (s.serves eng c = true → ∃ t, exec (.typoroEncoderSetup h eng [(e, some c)]) s = .next t ∧ Answered s t h 0x60 0 []
      ∧ (t.encoder eng).binds.find? (fun b => b.1 == e) = some (e, c) ∧ ∀ k, k ≠ eng → t.encoder k = s.encoder k)
    ∧ (s.uetConn c ≠ none → s.serves eng c = false →
      ∃ t, exec (.typoroEncoderSetup h eng [(e, some c)]) s = .next t ∧ Answered s t h 0x60 2 [] ∧ ∀ k, t.encoder k = s.encoder k) := by
  obtain ⟨hr, hb, hx⟩ := hd
  have hserves := serves_usePacket s h.conn eng c
  refine ⟨fun hs => ?_, fun hc hs => ?_⟩
  · obtain ⟨hexec, hans⟩ := answered_of_ready (i := .typoroEncoderSetup h eng [(e, some c)]) (fun _ => rfl) (fun _ => rfl) hr hb
      (doEncoderSetup_binds (s := taken s ⟨h, 0x60, .encoderSetup eng [(e, some c)], false⟩) hx heng he (hserves.trans hs)) rfl rfl
    have hbind := encoder_bound (taken s ⟨h, 0x60, .encoderSetup eng [(e, some c)], false⟩) eng e c
    exact ⟨_, hexec, hans, hbind.1, hbind.2⟩
  · have hc' : (s.usePacket h.conn).uetConn c ≠ none := by
      rw [uetConn_usePacket]
      exact fun hno => hc (Option.map_eq_none_iff.mp hno)
    obtain ⟨hexec, hans⟩ := answered_of_ready (i := .typoroEncoderSetup h eng [(e, some c)]) (fun _ => rfl) (fun _ => rfl) hr hb
      (doEncoderSetup_refused (s := taken s ⟨h, 0x60, .encoderSetup eng [(e, some c)], false⟩) hx heng he hc' (hserves.trans hs)) rfl rfl
    exact ⟨_, hexec, hans, fun _ => rfl⟩
theorem quote_clause {nonce : List Byte} (hr : CmdReady s h) (hb : badHdr h (.attestationQuote nonce) = false) (hn : nonce.length = 32) :
    ∃ t pl, exec (.typoroAttestationQuote h nonce) s = .next t
      ∧ Answered s t h 0x70 0 pl ∧ pl.length = 4776 ∧ pl.take 4712 = s.quoteBody nonce
      ∧ pl.drop 4712 = leBytes 64 (Config.edSign Config.keySeed (s.quoteBody nonce)).toNat := by
  obtain ⟨hexec, hans⟩ := answered_of_ready (i := .typoroAttestationQuote h nonce) (fun _ => rfl) (fun _ => rfl) hr hb
    (doAttestationQuote_quotes (s := taken s ⟨h, 0x70, .attestationQuote nonce, false⟩) hn) rfl rfl
  have hlen := quoteBody_length (s := s) hn
  refine ⟨_, _, hexec, hans, ?_, List.take_left' hlen, List.drop_left' hlen⟩
  rw [List.length_append, leBytes_length, quoteBody_length hn]
theorem repeat_clause {l : W32} (hp : s.mgmt.powered = true) (hm : s.mgmt.ready = true)
    (hu : ∃ u, s.uetConn h.conn = some u ∧ u.rod = true ∧ u.endpoint = 0 ∧ u.packets ≠ 0) (hl : (s.conn h.conn).lastSeq = some l)
    (hne : h.seq ≠ l + 1) :
    let u := s.usePacket h.conn
    (s.inbox.countP (fun c => c.hdr.conn == h.conn) < 64 →
      ((l - h.seq).toNat < min 64 (s.conn h.conn).taken →
        (∀ r, (s.conn h.conn).stored.find? (fun r => r.seq == h.seq) = some r →
          ∃ t, exec (.typoroRepeatedCommand h) s = .next t ∧ t = { u with replies := s.replies ++ [r] })
        ∧ ((s.conn h.conn).stored.find? (fun r => r.seq == h.seq) = none →
          ∃ t, exec (.typoroRepeatedCommand h) s = .next t ∧ t = u))
      ∧ (min 64 (s.conn h.conn).taken ≤ (l - h.seq).toNat → ∃ t r, exec (.typoroRepeatedCommand h) s = .next t
          ∧ t = { u with replies := s.replies ++ [r] } ∧ r.status = 1 ∧ r.conn = h.conn ∧ r.seq = h.seq ∧ r.isReply = true ∧ r.length = 0 ∧ r.payload = []))
    ∧ (64 ≤ s.inbox.countP (fun c => c.hdr.conn == h.conn) → exec (.typoroRepeatedCommand h) s = .next s) := by
  have hreads := reads_of_room hp hm hu
  have hnext : (s.conn h.conn).next h.seq = false := by rw [next_of_last hl, beq_eq_false_iff_ne.mpr hne]
  have hwin : ((s.usePacket h.conn).conn h.conn).inWindow h.seq = decide ((l - h.seq).toNat < min 64 (s.conn h.conn).taken) := inWindow_of_last hl h.seq
  refine ⟨fun hroom => ?_, fun hfull => ?_⟩
  · have hexec : exec (.typoroRepeatedCommand h) s = .next ((s.usePacket h.conn).answerAgain h 0) := by
      refine congrArg Host.Outcome.next (if_neg ?_)
      rw [hreads, hnext, decide_eq_true hroom]
      decide
    refine ⟨fun hin => ⟨fun r hr => ⟨_, hexec, ?_⟩, fun hr => ⟨_, hexec, ?_⟩⟩,
      fun hout => ⟨_, (s.usePacket h.conn).mkReply h 0 1 [], hexec, ?_, rfl, rfl, rfl, rfl, rfl, rfl⟩⟩
    · unfold State.answerAgain
      dsimp only
      rw [hwin, decide_eq_true hin, if_pos rfl, show ((s.usePacket h.conn).conn h.conn).stored.find? _ = _ from hr]
      rfl
    · unfold State.answerAgain
      dsimp only
      rw [hwin, decide_eq_true hin, if_pos rfl, show ((s.usePacket h.conn).conn h.conn).stored.find? _ = _ from hr]
    · unfold State.answerAgain
      dsimp only
      rw [hwin, decide_eq_false (Nat.not_lt.mpr hout), if_neg Bool.false_ne_true]
      rfl
  · refine congrArg Host.Outcome.next (if_pos ?_)
    rw [hreads, decide_eq_false (Nat.not_lt.mpr hfull)]
    rfl
end

/-- Settles O51: each command by what the firmware or the dispatcher does with it, in the clauses above. -/
theorem deviceCommands : Obligations.DeviceCommands := by
  refine ⟨fun h => ⟨fun _ => takes_of_receive fun _ => rfl,
    fun sets d b s hx hw hempty hne hlen hsets hcl hnodup => paddockDefine_clause hx hw hempty hne hlen hsets hcl hnodup,
    fun s => ⟨fun io n hr hb hio hn => eventRead_clause hr hb hio hn, fun n hd => number_clause hd, fun p hd hp hs => port_clause hd hp hs,
      fun c key hd hc hkey => key_clause hd hc hkey, fun dst p hd hp hs => route_clause hd hp hs, fun eng e c hd heng he => encoder_clause hd heng he,
      fun nonce hr hb hn => quote_clause hr hb hn, fun image es sig hd hidle hlen hn hn' hparse hsig hroom => ?_⟩⟩,
    fun h s => ⟨fun l hp hm hu hl hne => repeat_clause hp hm hu hl hne, fun op hr => ?_⟩⟩
  · obtain ⟨hr, hb, hx⟩ := hd
    obtain ⟨hgood, hbad⟩ := doPatchLoad_parsed (s := taken s ⟨h, 0x80, .patchLoad image, false⟩) hx hidle hlen hn hn' hparse hsig hroom
    by_cases hg : PatchGood image sig
    · obtain ⟨hexec, hans⟩ := answered_of_ready (i := .typoroPatchLoad h image) (fun _ => rfl) (fun _ => rfl) hr hb (hgood hg) rfl rfl
      exact ⟨_, hexec, (if_pos hg).mpr ⟨hans, rfl⟩⟩
    · obtain ⟨hexec, hans⟩ := answered_of_ready (i := .typoroPatchLoad h image) (fun _ => rfl) (fun _ => rfl) hr hb (hbad hg) rfl rfl
      exact ⟨_, hexec, (if_neg hg).mpr ⟨hans, rfl⟩⟩
  · exact ⟨_, exec_badCommand hr, answered_taken (c := ⟨h, op.toNat, .bad, false⟩) rfl rfl op.toNat 1 [], fun _ => rfl, fun _ => rfl⟩

end Sys2Proof.Machine
end

section
/-! O52 PowerResetsAndForwarding: bring-up, resets and power, cooling, the lifetime record, and forwarded accesses (R178, R337-R341). -/

namespace Sys2Proof.Machine

open Sys2Proof Sys2Proof.Safety

/-! Bring-up (R337). -/

/-- Clusters of failing cores are unavailable, with an event for each, and nothing else changes. -/
def State.withoutClusters (s : State) (l : List Nat) : State :=
  l.foldl (fun s cl => (s.updCluster cl (fun c => { c with available := false })).ioEvent 0 true 7 (BitVec.ofNat 64 cl) 0) s
/-- The device less its clusters and IO dies. -/
def State.offClusters (s : State) : State := { s with clusters := [], ios := [] }

theorem withoutClusters_rest (s : State) (l : List Nat) : (s.withoutClusters l).offClusters = s.offClusters := by
  unfold State.withoutClusters
  refine foldl_keeps (P := fun t : State => t.offClusters = s.offClusters) (fun t cl _ h => ?_) s rfl
  exact h
theorem withoutClusters_available (s : State) (l : List Nat) (k : Nat) :
    ((s.withoutClusters l).cluster k).available = (!l.contains k && (s.cluster k).available) := by
  induction l generalizing s with
  | nil => rfl
  | cons cl l ih =>
    refine (ih _).trans ?_
    change (_ && ((s.updCluster cl (fun c => { c with available := false })).cluster k).available) = _
    rw [State.cluster_updCluster, List.contains_cons]
    by_cases hk : k = cl
    · subst hk
      simp
    · rw [beq_eq_false_iff_ne.mpr hk, if_neg hk, Bool.false_or]

/-- The controller as a bring-up that succeeds leaves it. -/
def State.upMgmt (s : State) : Mgmt :=
  { s.dark.mgmt with
    tripped := false, coolRule := false, powered := true, ready := true
    life := { s.mgmt.life with reruns := min (2 ^ 64 - 1) (s.mgmt.life.reruns + Config.selfTestReruns s.freeCount) } }
theorem bringUp_up {s : State} (h : bringsUp s.freeCount = true) (bad : List Nat) :
    s.bringUp bad = ({ s.dark.fresh with mgmt := s.upMgmt } : State).withoutClusters ((bad.map clusterOf).eraseDups) := by
  unfold State.bringUp
  dsimp only
  rw [h, if_neg (by decide)]
  rfl
theorem bringUp_down {s : State} (h : bringsUp s.freeCount = false) (bad : List Nat) :
    s.bringUp bad = { s.dark.fresh with mgmt := { s.dark.mgmt with tripped := false, coolRule := false } } := by
  unfold State.bringUp
  dsimp only
  rw [h, if_pos (by decide)]
  rfl
theorem contains_failing (bad : List Nat) (k : Nat) : ((bad.map clusterOf).eraseDups).contains k = bad.any (fun c => clusterOf c == k) := by
  rw [Bool.eq_iff_iff, List.contains_iff_mem, List.mem_eraseDups, List.mem_map, List.any_eq_true]
  simp only [beq_iff_eq]
/-- A bring-up that succeeds brings the device up, and leaves its input power, and the cause of the last trip, as they were. -/
theorem bringUp_cameUp {s : State} (h : bringsUp s.freeCount = true) (bad : List Nat) : CameUp (s.bringUp bad) bad
    ∧ (s.bringUp bad).mgmt.input = s.mgmt.input ∧ (s.bringUp bad).mgmt.cause = s.mgmt.cause := by
  rw [bringUp_up h]
  have hrest := withoutClusters_rest ({ s.dark.fresh with mgmt := s.upMgmt } : State) ((bad.map clusterOf).eraseDups)
  have hcl := withoutClusters_available ({ s.dark.fresh with mgmt := s.upMgmt } : State) ((bad.map clusterOf).eraseDups)
  generalize State.withoutClusters _ _ = t at hrest hcl
  have hmgmt : t.mgmt = s.upMgmt := (congrArg State.mgmt hrest :)
  refine ⟨⟨?_, ?_, ?_, ?_, fun c => ?_, fun x => ?_, fun d => ?_, ?_, ?_, ?_, ?_, fun p => ?_, fun k => ?_⟩, ?_, ?_⟩
  · rw [hmgmt]; rfl
  · rw [hmgmt]; rfl
  · rw [hmgmt]; rfl
  · rw [hmgmt]; rfl
  · exact (congrArg (fun u : State => u.core c) hrest :)
  · exact (congrArg (fun u : State => u.ctx x) hrest :)
  · exact (congrArg (fun u : State => u.die d) hrest :)
  · exact (congrArg State.hbm hrest :)
  · exact (congrArg State.weight hrest :)
  · exact (congrArg State.msgs hrest :)
  · exact (congrArg State.paddocks hrest :)
  · exact (congrArg (fun u : State => u.port p) hrest :)
  · rw [hcl, contains_failing]
    rfl
  · rw [hmgmt]; rfl
  · rw [hmgmt]; rfl
theorem bringUp_stays {s : State} (h : bringsUp s.freeCount = false) (bad : List Nat) : (s.bringUp bad).mgmt.powered = false
    ∧ (s.bringUp bad).mgmt.ready = false ∧ (s.bringUp bad).mgmt.input = s.mgmt.input ∧ (s.bringUp bad).mgmt.cause = s.mgmt.cause := by
  rw [bringUp_down h]
  exact ⟨rfl, rfl, rfl, rfl⟩

/-! Power-on, resets and power loss (R337, R340, R341). -/

section
variable {s : State}

/-- The controller that starts afresh with the record it kept. -/
def Mgmt.afresh (m : Mgmt) : Mgmt := { Mgmt.reset with copies := m.copies, nextCopy := m.spareCopy, life := m.lastWritten }

theorem exec_powerOn (h : s.mgmt.input = false) (bad : List Nat) :
    exec (.powerOn bad) s = .next (({ s with mgmt := s.mgmt.afresh } : State).bringUp bad) :=
  congrArg Host.Outcome.next (if_neg (fun hno => Bool.false_ne_true (h.symm.trans hno)))
theorem exec_grcResetN (h : s.mgmt.input = true) (bad : List Nat) {ms : Nat} (hms : 10 ≤ ms) :
    exec (.grcResetN ms bad) s = .next (s.bringUp bad) := congrArg Host.Outcome.next ((if_pos hms).trans (if_pos h))
theorem exec_smbusReset (h : s.mgmt.input = true) (bad : List Nat) : exec (.smbusResetWrite bad) s = .next (s.bringUp bad) :=
  congrArg Host.Outcome.next (if_pos h)
/-- The controller as input power leaves it. -/
def State.lostMgmt (s : State) : Mgmt :=
  { (if Config.tornWrite s.freeCount then s.dark.mgmt.writeCopy [] else s.dark.mgmt) with
    input := false, cause := 0, tripped := false, hot := 0, coolRule := false }
theorem exec_powerLoss (h : s.mgmt.input = true) : exec .powerLoss s = .next { s.fresh.dark with mgmt := s.lostMgmt } := by
  refine congrArg Host.Outcome.next ((if_neg ?_).trans rfl)
  rw [h]
  exact Bool.false_ne_true
theorem lostMgmt_powered (s : State) : s.lostMgmt.powered = false := by
  unfold State.lostMgmt
  dsimp only
  split <;> rfl

/-! Sensors, the record and the clock (R338, R339, R341). -/

/-- A clock step sets the step, and changes no core. -/
theorem clockStep_steps (s : State) (step : Nat) : (s.clockStep step).mgmt.step = step ∧ (s.clockStep step).cores = s.cores := by
  unfold State.clockStep
  split
  · next h => exact ⟨h.symm, rfl⟩
  · exact ⟨rfl, rfl⟩
theorem lowerClock_steps (s : State) : s.lowerClock.mgmt.step = min 12 (s.mgmt.step + 1) ∧ s.lowerClock.cores = s.cores :=
  clockStep_steps s _
theorem le_foldl_max (l : List Nat) (a : Nat) : a ≤ l.foldl max a ∧ ∀ x ∈ l, x ≤ l.foldl max a := by
  induction l generalizing a with
  | nil => exact ⟨le_rfl, fun x hx => nomatch hx⟩
  | cons b l ih =>
    obtain ⟨hmax, hl⟩ := ih (max a b)
    refine ⟨(le_max_left a b).trans hmax, fun x hx => ?_⟩
    rcases List.mem_cons.mp hx with rfl | hx
    · exact (le_max_right a x).trans hmax
    · exact hl x hx
/-- A sample with a hot die lowers the clock. -/
theorem sample_hot {r : Sensors} (h : ∃ x ∈ r.dieTemp, 100 < x) :
    (s.sample r).mgmt.step = min 12 (s.mgmt.step + 1) ∧ (s.sample r).cores = s.cores := by
  have hot : decide (100 < r.dieTemp.foldl max 0) = true := by
    obtain ⟨x, hx, hlt⟩ := h
    exact decide_eq_true (hlt.trans_le ((le_foldl_max r.dieTemp 0).2 x hx))
  unfold State.sample
  dsimp only
  rw [hot, Bool.or_true, if_pos rfl]
  exact lowerClock_steps _
theorem exec_sensorSample (hi : s.mgmt.input = true) (hp : s.mgmt.powered = true) (r : Sensors) : exec (.sensorSample r) s = .next
    (if tripCause r ≠ 0 then ({ s with mgmt := { s.mgmt with hot := BitVec.ofNat 8 (min 255 (r.dieTemp.foldl max 0)) } } : State).tripNow (tripCause r)
      else s.sample r) := by
  refine congrArg Host.Outcome.next (if_neg ?_)
  rw [hi, hp]
  exact Bool.false_ne_true
theorem trips_addCorrected (l : Lifetime) (n : Nat) : (l.addCorrected n).trips = l.trips := by
  unfold Lifetime.addCorrected
  dsimp only
/-- A trip removes the dies' power, keeps its cause and is counted. -/
theorem tripNow_trips (s : State) (cause : BitVec 3) : (s.tripNow cause).mgmt.powered = false ∧ (s.tripNow cause).mgmt.ready = false
    ∧ (s.tripNow cause).mgmt.tripped = true ∧ (s.tripNow cause).mgmt.cause = cause
    ∧ (s.tripNow cause).mgmt.life.trips = min (2 ^ 64 - 1) (s.mgmt.life.trips + 1) ∧ (s.tripNow cause).cores = State.reset.cores := by
  unfold State.tripNow
  dsimp only
  rw [trips_addCorrected]
  exact ⟨rfl, rfl, rfl, rfl, rfl, rfl⟩
/-- The lifetime record after ten seconds more. -/
def State.grownLife (s : State) : Lifetime :=
  let life := { s.mgmt.life with
    bins := s.mgmt.life.bins.set (tempBin s.mgmt.hot.toNat) (bump (s.mgmt.life.bins.get 0 (tempBin s.mgmt.hot.toNat)))
    hours := if (s.mgmt.secs + 10) % 3600 = 0 then bump s.mgmt.life.hours else s.mgmt.life.hours }
  if s.mgmt.powered then life.addCorrected s.freeCount else life
theorem grownLife_grows (s : State) : s.grownLife.bins.get 0 (tempBin s.mgmt.hot.toNat)
      = min (2 ^ 64 - 1) (s.mgmt.life.bins.get 0 (tempBin s.mgmt.hot.toNat) + 1)
    ∧ s.grownLife.hours = (if (s.mgmt.secs + 10) % 3600 = 0 then min (2 ^ 64 - 1) (s.mgmt.life.hours + 1) else s.mgmt.life.hours) := by
  unfold State.grownLife
  dsimp only
  split <;> exact ⟨Tbl.get_set_self .., rfl⟩
theorem exec_lifetimeRecordWrite (h : s.mgmt.input = true) : exec .lifetimeRecordWrite s =
    .next { s.fresh with mgmt := ({ s.mgmt with life := s.grownLife, secs := s.mgmt.secs + 10 } : Mgmt).writeRecord } := by
  refine congrArg Host.Outcome.next ((if_neg ?_).trans rfl)
  rw [h]
  exact Bool.false_ne_true
end

/-! Forwarded accesses (R178). -/

section
variable {s u : State} {x : Nat} {va : Word} {user : Bool} {dev : BitVec 8}

/-- The answer is the last thing that leaves, and memory is as it was. -/
def AnswersTo (dev : BitVec 8) (t u : State) (a : Option (List Byte)) : Prop :=
  t.outbox = u.outbox ++ [⟨none, 0, 0, dev.toNat, .answer a⟩] ∧ ∀ c p, t.loadByte c p = u.loadByte c p
theorem answer_answers (u : State) (dev : BitVec 8) (a : Option (List Byte)) : AnswersTo dev (u.answer dev a) u a := ⟨rfl, fun _ _ => rfl⟩

/-- The access that a forwarded operation is. -/
def remoteAccess (op : RemoteKind) : Access :=
  match op with
  | .read _ => .read
  | .write _ => .write
  | .atomic _ _ _ _ => .atomic
/-- What a forwarded operation does where the tables allow it. -/
def State.serveRemote (s : State) (dev : BitVec 8) (e : TlbEnt) (va : Nat) (op : RemoteKind) : State :=
  match op with
  | .read n => (s.readBy ioCore [(e.place va, n)]).answer dev (some (s.engineBytes ioCore (e.place va) n))
  | .write bs => ((s.payDirty e).writeAt ioCore (e.place va) bs).answer dev (some [])
  | .atomic fn dword b c =>
    let n := if dword then 8 else 4
    let old := leNat (s.homeBytes ioCore (e.place va) n)
    match atomicNew fn dword b c old with
    | none => s.answer dev none
    | some v => (((s.payDirty e).countBad [(e.place va, n)]).writeAt ioCore (e.place va) (leBytes n v)).answer dev (some (leBytes n old))

theorem exec_forwarded_absent (h : (s.ctx x).state = .free ∨ 2 ^ 56 ≤ va.toNat) (op : RemoteKind) :
    exec (.forwardedAccess x va user ⟨dev, op⟩) s = .next (s.answer dev none) := congrArg Host.Outcome.next (if_pos h)
variable (hx : (s.ctx x).state ≠ .free) (hva : va.toNat < 2 ^ 56)
include hx hva
theorem exec_forwarded_error {op : RemoteKind} {r : Nat × Reason} (h : s.walk ioCore x va (remoteAccess op) user = (.error r, u)) :
    exec (.forwardedAccess x va user ⟨dev, op⟩) s = .next (u.answer dev none) := by
  refine congrArg Host.Outcome.next ((if_neg (not_or.mpr ⟨hx, Nat.not_le.mpr hva⟩)).trans ?_)
  dsimp only
  change (match s.walk ioCore x va (remoteAccess op) user with | (.error _, s) => _ | (.ok t, s) => _) = _
  rw [h]
theorem exec_forwarded_ok {op : RemoteKind} {e : TlbEnt} (h : s.walk ioCore x va (remoteAccess op) user = (.ok e, u)) :
    exec (.forwardedAccess x va user ⟨dev, op⟩) s = .next (
      if e.kind = .weight ∧ ((remoteAccess op) = .atomic ∨ ((remoteAccess op).writes = true ∧ (u.ctx x).kernelLive = true)) then u.answer dev none
      else u.serveRemote dev e va.toNat op) := by
  refine congrArg Host.Outcome.next ((if_neg (not_or.mpr ⟨hx, Nat.not_le.mpr hva⟩)).trans ?_)
  dsimp only
  change (match s.walk ioCore x va (remoteAccess op) user with | (.error _, s) => _ | (.ok t, s) => _) = _
  rw [h]
  cases op <;> rfl
omit hx hva in
/-- Counting errors changes the lifetime record alone. -/
theorem countBad_mgmt (s : State) (l : List (Place × Nat)) : ∃ m, s.countBad l = { s with mgmt := m } := by
  refine foldl_keeps (P := fun t => ∃ m, t = { s with mgmt := m }) (fun t p _ ht => ?_) s ⟨s.mgmt, rfl⟩
  refine foldl_keeps (P := fun t => ∃ m, t = { s with mgmt := m }) (fun u w _ hu => ?_) t ht
  obtain ⟨m, hu⟩ := hu
  exact ⟨_, by rw [hu]; rfl⟩
omit hx hva in
/-- An atomic's answer: the errors that its read met are counted, and its write is performed. -/
theorem answersTo_atomic (v : State) (l : List (Place × Nat)) (p : Place) (bs : List Byte) (a : Option (List Byte)) :
    AnswersTo dev (((v.countBad l).writeAt ioCore p bs).answer dev a) (v.writeAt ioCore p bs) a := by
  obtain ⟨m, hm⟩ := countBad_mgmt v l
  rw [hm]
  cases p <;> exact ⟨rfl, fun _ _ => rfl⟩

theorem forwarded_clauses :
    (∀ n e u, s.walk ioCore x va .read user = (.ok e, u) →
      ∃ t, exec (.forwardedAccess x va user ⟨dev, .read n⟩) s = .next t
        ∧ AnswersTo dev t (u.readBy ioCore [(e.place va.toNat, n)]) (some (u.engineBytes ioCore (e.place va.toNat) n)))
    ∧ (∀ bs e u, s.walk ioCore x va .write user = (.ok e, u) → (e.kind = .weight → (u.ctx x).kernelLive = false) →
      ∃ t, exec (.forwardedAccess x va user ⟨dev, .write bs⟩) s = .next t
        ∧ AnswersTo dev t ((u.payDirty e).writeAt ioCore (e.place va.toNat) bs) (some []))
    ∧ (∀ bs e u, s.walk ioCore x va .write user = (.ok e, u) → e.kind = .weight → (u.ctx x).kernelLive = true →
      ∃ t, exec (.forwardedAccess x va user ⟨dev, .write bs⟩) s = .next t ∧ AnswersTo dev t u none)
    ∧ (∀ fn dw b c e u v, s.walk ioCore x va .atomic user = (.ok e, u) → e.kind ≠ .weight →
      let n := if dw then 8 else 4
      let old := leNat (u.homeBytes ioCore (e.place va.toNat) n)
      atomicNew fn dw b c old = some v →
      ∃ t, exec (.forwardedAccess x va user ⟨dev, .atomic fn dw b c⟩) s = .next t
        ∧ AnswersTo dev t ((u.payDirty e).writeAt ioCore (e.place va.toNat) (leBytes n v)) (some (leBytes n old)))
    ∧ (∀ op r u, s.walk ioCore x va (remoteAccess op) user = (.error r, u) →
      ∃ t, exec (.forwardedAccess x va user ⟨dev, op⟩) s = .next t ∧ AnswersTo dev t u none) := by
  refine ⟨fun n e u h => ?_, fun bs e u h hw => ?_, fun bs e u h hw hk => ?_, fun fn dw b c e u v h hw => ?_, fun op r u h => ?_⟩
  · refine ⟨_, (exec_forwarded_ok hx hva (op := .read n) h).trans (congrArg Host.Outcome.next (if_neg ?_)), answer_answers _ dev _⟩
    rintro ⟨-, hno | ⟨hno, -⟩⟩
    · exact nomatch hno
    · exact Bool.false_ne_true hno
  · refine ⟨_, (exec_forwarded_ok hx hva (op := .write bs) h).trans (congrArg Host.Outcome.next (if_neg ?_)), answer_answers _ dev _⟩
    rintro ⟨hwt, hno | ⟨-, hno⟩⟩
    · exact nomatch hno
    · exact Bool.false_ne_true ((hw hwt).symm.trans hno)
  · exact ⟨_, (exec_forwarded_ok hx hva (op := .write bs) h).trans (congrArg Host.Outcome.next (if_pos ⟨hw, .inr ⟨rfl, hk⟩⟩)),
      answer_answers _ dev _⟩
  · dsimp only
    intro hv
    refine ⟨_, (exec_forwarded_ok hx hva (op := .atomic fn dw b c) h).trans (congrArg Host.Outcome.next ((if_neg fun hno => hw hno.1).trans ?_)),
      answersTo_atomic (u.payDirty e) [(e.place va.toNat, if dw then 8 else 4)] _ _ _⟩
    unfold State.serveRemote
    dsimp only
    rw [hv]
  · exact ⟨_, exec_forwarded_error hx hva h, answer_answers u dev none⟩
end

/-- Settles O52: bring-up by what `bringUp` leaves, the controller by its own fields, a forwarded access by its walk. -/
theorem powerResetsAndForwarding : Obligations.PowerResetsAndForwarding := by
  refine ⟨fun bad s => ⟨fun hi => ?_, fun hi hup => ⟨fun ms hms => ?_, ?_⟩, fun hi hdown => ⟨fun ms hms => ?_, ?_⟩, fun ms hms => ?_, fun r v => rfl,
      fun hi => ?_⟩,
    fun r s => ⟨fun hi hp => ⟨fun ht => ?_, fun ht hot => ?_⟩, fun hi => ?_, fun hp hc => ?_, fun hc => ?_, fun d hp hd => ?_⟩,
    fun x va user dev s => ⟨fun h op => ?_, fun hx hva => ?_⟩⟩
  · refine ⟨_, exec_powerOn hi bad, ?_⟩
    by_cases hup : bringsUp s.freeCount = true
    · obtain ⟨hcame, hinput, hcause⟩ := bringUp_cameUp (s := { s with mgmt := s.mgmt.afresh }) hup bad
      exact ⟨hinput, hcause, fun _ => hcame, fun hno => absurd (hno.symm.trans hup) Bool.false_ne_true⟩
    · obtain ⟨hpow, hready, hinput, hcause⟩ := bringUp_stays (s := { s with mgmt := s.mgmt.afresh }) (Bool.eq_false_iff.mpr hup) bad
      exact ⟨hinput, hcause, fun hyes => absurd hyes hup, fun _ => ⟨hpow, hready⟩⟩
  · exact ⟨_, exec_grcResetN hi bad hms, (bringUp_cameUp hup bad).1⟩
  · exact ⟨_, exec_smbusReset hi bad, (bringUp_cameUp hup bad).1⟩
  · exact ⟨_, exec_grcResetN hi bad hms, (bringUp_stays hdown bad).1, (bringUp_stays hdown bad).2.1⟩
  · exact ⟨_, exec_smbusReset hi bad, (bringUp_stays hdown bad).1, (bringUp_stays hdown bad).2.1⟩
  · exact congrArg Host.Outcome.next (if_neg (Nat.not_le.mpr hms))
  · exact ⟨_, exec_powerLoss hi, rfl, lostMgmt_powered s, rfl, fun _ => rfl⟩
  · obtain ⟨hpow, hready, htripped, hcause, htrips, hcores⟩ := tripNow_trips
      ({ s with mgmt := { s.mgmt with hot := BitVec.ofNat 8 (min 255 (r.dieTemp.foldl max 0)) } } : State) (tripCause r)
    exact ⟨_, (exec_sensorSample hi hp r).trans (congrArg Host.Outcome.next (if_pos ht)), hpow, hready, htripped, hcause, htrips,
      fun c => congrArg (Tbl.get · Core.reset c) hcores⟩
  · obtain ⟨hstep, hcores⟩ := sample_hot (s := s) hot
    exact ⟨_, (exec_sensorSample hi hp r).trans (congrArg Host.Outcome.next (if_neg (not_not.mpr ht))), hstep,
      fun c => congrArg (Tbl.get · Core.reset c) hcores⟩
  · obtain ⟨hbins, hhours⟩ := grownLife_grows s
    exact ⟨_, exec_lifetimeRecordWrite hi, rfl, hbins, hhours, rfl, fun _ => rfl⟩
  · refine ⟨_, congrArg Host.Outcome.next (if_pos ?_), (lowerClock_steps s).1⟩
    rw [hp, hc]
    rfl
  · refine congrArg Host.Outcome.next (if_neg ?_)
    rw [hc, Bool.and_false]
    exact Bool.false_ne_true
  · exact ⟨_, congrArg Host.Outcome.next (if_pos ⟨hp, hd⟩), Tbl.get_set_self .., fun e he => Tbl.get_set_ne _ _ _ he, fun _ => rfl⟩
  · exact ⟨_, exec_forwarded_absent h op, answer_answers s dev none⟩
  · exact forwarded_clauses hx hva

end Sys2Proof.Machine
end
